-- ==== Sys2Proof/Word.lean ====
section
/-! DEFINITION. The machine's words and the plainest arithmetic on them (R10, R13, R80). -/

namespace Sys2Proof

/-- A scalar register value, 64 bits (R80). -/
abbrev Word := BitVec 64
/-- A byte. -/
abbrev Byte := BitVec 8
/-- A vector register, VLEN = 1,024 bits (R4, R118). -/
abbrev VReg := BitVec 1024
/-- A predicate register, VLEN / 8 bits (R118). -/
abbrev PReg := BitVec 128
/-- A 5-bit register field (R51). -/
abbrev Reg := BitVec 5

/-- The bit that says a Bool. -/
def Word.ofBool (b : Bool) : Word := if b then 1 else 0

/-- sext(v, n) of R13: the low n bits of v, sign-extended to 64 bits. -/
def Word.sext (v : Word) (n : Nat) : Word := (v.setWidth n).signExtend 64

/-- zext(v, n) of R13: the low n bits of v, zero-extended to 64 bits. -/
def Word.zext (v : Word) (n : Nat) : Word := (v.setWidth n).setWidth 64

/-- clamp of R13 on integers. -/
def clampInt (v lo hi : Int) : Int := if v < lo then lo else if hi < v then hi else v

/-- Bits [hi:lo] of a number (R13). -/
def bits (w hi lo : Nat) : Nat := w / 2 ^ lo % 2 ^ (hi + 1 - lo)

/-- The bit n of a number. -/
def bitAt (w n : Nat) : Bool := w / 2 ^ n % 2 == 1

end Sys2Proof
end

