-- ==== Sys2Proof/Payload.lean ====
section
/-! DEFINITION. The field groups that instructions carry, and the data that the outside world hands to the device's
events: descriptors, slot-table entries, flits, packets, routing tables, images. -/

namespace Sys2Proof

/-- The fields of the vector format VX beside major and function (R54). -/
structure VX where
  et  : BitVec 4
  vd  : Reg
  va  : Reg
  vb  : Reg
  vc  : Reg
  pg  : BitVec 3
  zm  : Bool
  xs  : Bool
  sat : Bool
  rm  : BitVec 3
  imm : BitVec 9
deriving DecidableEq, Repr, Inhabited

/-- W1 of mxp and mxps (R316); rows and chunks are stored minus one. -/
structure MxpW where
  ta     : BitVec 4
  tc     : BitVec 4
  bank   : BitVec 4
  chunks : BitVec 3
  dir    : Bool
  acc    : Bool
  cap    : BitVec 3
  slice  : BitVec 2
  prb    : Bool
  rows   : BitVec 7
deriving DecidableEq, Repr, Inhabited

/-- The context descriptor (R370). -/
structure CtxDesc where
  root    : Nat
  globals : Nat
  sigtab  : Nat
  fring   : Nat
  dump    : Nat
  spin    : Nat
  logf    : Nat
  flags   : Nat
  rsvd    : Nat
  tkey    : Nat
deriving DecidableEq, Repr, Inhabited

/-- A slot-table entry with the GMEM and CAP values that stand beside it (R355): lrec is the address of the copied launch record, frame that
of the save frame. -/
structure BindEntry where
  lrec    : Nat
  valid   : Bool
  restore : Bool
  kid     : Nat
  ctx     : Nat
  task    : Nat
  frame   : Nat
  gmem    : List Word
  caps    : List Word
deriving DecidableEq, Repr, Inhabited

/-- A write of a slot-table entry by the MGC (R355): the entry, and the frames of device memory that firmware has set aside for what a replay
sees instead of its own data (R368). -/
structure BindWrite where
  entry  : BindEntry
  frames : List Nat
deriving DecidableEq, Repr, Inhabited

/-- An uncorrectable storage error (R454): where it lies, and whether it struck the far cache, whose codeword is one granule. -/
structure MemError where
  key : Nat
  far : Bool
deriving DecidableEq, Repr, Inhabited

/-- One comb line's record in the device information block (R452). -/
structure Telemetry where
  bias  : Nat
  power : Nat
  hours : Nat
  eolh  : Nat
  bias0 : Nat
  temp  : Int
  state : Nat
deriving DecidableEq, Repr, Inhabited

/-- A packet header with its data, and one poison bit per 8 bytes of data (R427). -/
structure Packet where
  dst    : Nat
  src    : Nat
  kind   : Nat
  ctx    : Nat
  opseq  : Nat
  aop    : Nat
  size   : Nat
  notPerf : Bool
  poison : Bool
  direct : Bool
  rsvd   : Bool
  addr   : Nat
  expiry : Nat
  len    : Nat
  data   : List Byte
  mask   : List Bool
deriving DecidableEq, Repr, Inhabited

/-- A flit (R425, R426); its payload is carried as the packet data it adds. -/
structure Flit where
  ty     : Nat
  seq    : Nat
  ackv   : Bool
  ackseq : Nat
  vch    : Nat
  crvc   : Nat
  crcnt  : Nat
  sop    : Bool
  eop    : Bool
  words  : Nat
  payload : List Byte
deriving DecidableEq, Repr, Inhabited

/-- What the fabric manager tells a switch controller's validator about one module of the partition (R438): its index, its external ports
with order, peer and peer's port, and its routing table. -/
structure FabNode where
  module : Nat
  ports  : List (Nat × Nat × Nat × Nat)
  table  : List (Nat × Nat)
deriving DecidableEq, Repr, Inhabited

/-- What the exchange of LOCK gives a port: the peer's port, the measured round trip and the peer's rank (R430). -/
structure LockTold where
  port : Nat
  rtt  : Nat
  rank : Nat
deriving DecidableEq, Repr, Inhabited

/-- A planned circuit change (R442). -/
structure Change where
  ports   : List (Nat × Nat)
  interim : List (Nat × Nat)
  final   : List (Nat × Nat)
deriving DecidableEq, Repr, Inhabited

/-- An intensity-reduce session (R445); role none is receiver, some j is sender on line 8 + j. -/
structure IrSession where
  ctx    : Nat
  port   : Nat
  sender : Option Nat
  expect : Nat
  period : Nat
  phase  : Nat
  delays : List (Nat × Nat)
deriving DecidableEq, Repr, Inhabited

/-- A firmware image as it is staged (R476): its bytes, the header of 16 KiB and the body, and the public key that it is offered under
(R477). -/
structure FwImage where
  bytes  : List Byte
  pubKey : List Byte
deriving DecidableEq, Repr, Inhabited

/-- A stack controller's mailbox message (R472). -/
structure StackMsg where
  ty    : Nat
  stack : Nat
  count : Nat
  pa    : Nat
  ctime : Nat
  temp  : Int
  state : Nat
deriving DecidableEq, Repr, Inhabited

/-- What a debugger that holds a core asks of a fault's resolution (R380). -/
inductive DebugChoice where
  | none
  | resume
  | reflect
  | kill
deriving DecidableEq, Repr, Inhabited

/-- Which state a register parity error hits (R454). -/
inductive ParityAt where
  | x (r : Nat)
  | v (r chunk : Nat)
  | bare
deriving DecidableEq, Repr, Inhabited

/-- The kind of unit that firmware withdraws (R461). -/
inductive UnitKind where
  | cluster
  | core
  | omu
  | dce
  | stack
deriving DecidableEq, Repr, Inhabited

/-- Which copy of chip time an edge concerns (R402): a cluster's, a die's walker pool's, or the pod bound's. -/
inductive TimeUnit where
  | cluster (c : Nat)
  | die (d : Nat)
  | pod
deriving DecidableEq, Repr, Inhabited

/-- A register of a stopped thread that a debugger may change (R380). -/
inductive DebugReg where
  | x (r : Nat)
  | lr
  | pc
  | tflags
  | v (r : Nat)
  | p (r : Nat)
deriving DecidableEq, Repr, Inhabited

/-- What the host, firmware, the fabric manager, other modules, a debugger and the physical world do to the module beside the steps of the
opcode table. -/
inductive Input where
  /-- The host writes its own memory (R258). -/
  | hostWrite (pa : Nat) (data : List Byte) (poison : Bool)
  /-- The host takes back a range of the host half: the device's Modified lines there are written back (R40). -/
  | hostTake (va : Nat) (len : Nat)
  /-- The host changes an entry of its page tables (R410). -/
  | hostMap (page : Nat) (entry : Word)
  /-- Another module's memory is written by that module or by others (R258). -/
  | peerWrite (m pa : Nat) (data : List Byte) (poison : Bool)
  /-- Firmware writes W[c] of a cluster (R238). -/
  | setWeight (cl c w : Nat)
  /-- Firmware writes HLEASE.CLASS (R415). -/
  | setHlease (c : Nat)
  /-- Firmware writes PWRLIM in mW (R42). -/
  | setPwrlim (mw : Nat)
  /-- Firmware enables or disables page counting for a context (R414). -/
  | setPgcnt (ctx : Nat) (en : Bool)
  /-- Firmware clears the page counts (R414). -/
  | clearPgcnt
  /-- Firmware copies a frame's storage to a new frame (R408). -/
  | frameCopy (old new n : Nat)
  /-- Firmware selects device memory for CXL.mem (R40). -/
  | expose (ranges : List (Nat × Nat))
  /-- The fabric manager gives an external port its order (R436). -/
  | portOrder (port order : Nat)
  /-- The fabric manager gives a port its asymmetry correction in ns (R434). -/
  | portAsym (port : Nat) (ns : Int)
  /-- The fabric manager names the pod's master and this module's upstream ports (R434). -/
  | timing (master : Bool) (ups : List Nat)
  /-- A request of another module that crossed this one is answered by another way (R442). -/
  | transitAnswered (src dst opseq : Nat)
  /-- Dynamic capacity is added to the host half (R412). -/
  | dcdAdd (va len : Nat)
  /-- The host link goes down (R464). -/
  | linkDown
  /-- An MGC of another module reports that it has accepted a record (R352). -/
  | peerAccepted (m ctx q seq : Nat)
  /-- An uncorrectable error in the shadow storage that holds a task's state (R454). -/
  | savedError (tid slot : Nat) (what : ParityAt)
  /-- The local oscillator of a copy of chip time drifts by one ns (R402). -/
  | drift (u : TimeUnit) (ahead : Bool)
  /-- The image in service of a controller changes its bookkeeping (R481). -/
  | bookkeeping (inst : Nat) (data : List Byte)
  /-- A debugger that holds a core writes a register of a stopped thread (R380). -/
  | debugWrite (core slot : Nat) (auth : Bool) (reg : DebugReg) (value : Nat)
  /-- The PSC takes the oldest message of a stack controller, and passes it to the MGCs and to the fabric manager as its image says (R472). -/
  | mailboxTake (k : Nat) (mgc manager : Bool)
  /-- The PSC sends a message to a stack controller (R472). -/
  | mailboxSend (k : Nat) (m : StackMsg)
  /-- A stack controller takes the oldest message of the PSC (R472). -/
  | mailboxRead (k : Nat)
  /-- A corrected error in a codeword of a stack, by its key (R459, R471). -/
  | stackCorrected (key : Nat)
  /-- A parity error in a line of a core's data cache, or of its instruction cache (R454). -/
  | cacheParity (core idx : Nat) (code : Bool)
  /-- A cluster or a core shows a hard fault, or a decomposition engine fails its self-test (R461). -/
  | unitFault (kind : UnitKind) (idx : Nat)
  /-- A CXL.io write of 8 bytes to BAR0 (R348). -/
  | barWrite (off value : Nat)
  /-- A CXL.io read of BAR0 (R33 to R35). -/
  | barRead (off len : Nat)
  /-- A CXL.io read of configuration space (R33). -/
  | configRead (off len : Nat)
deriving DecidableEq, Repr

end Sys2Proof
end

