-- ==== Sys2Proof/Syntax.lean ====
section
/-! DEFINITION. The abstract syntax: one constructor per row of spec/opcode_table.json.
Instructions carry their decoded fields (R50 to R62). Device events carry the data that the outside world, the physical
world or firmware hands to the step; the docstring of each names the rule that describes it. -/

namespace Sys2Proof

/-- An instruction or a device event. -/
inductive Instr where
  /-- R179: Does nothing except advance pc by 4. -/
  | nop
  /-- R180: Waits until the thread's earlier stores whose homes lie within scope s are performed, then orders later accesses after them. -/
  | fence (n : BitVec 16)
  /-- R181: Raises precise fault 0x07 with the code in the fault record. -/
  | trap (n : BitVec 16)
  /-- R182: Raises precise fault 0x08, or stops the core when the debug module is armed for breakpoints. -/
  | bkpt (n : BitVec 16)
  /-- R183: Restores x registers, poison, lr, TFLAGS and pc from the trap frame and clears FLTREC.HND. -/
  | tret
  /-- R184: Discards the PC-match shadow context and resumes the thread at PMEPC. -/
  | pmret
  /-- R185: Drains the write-through buffer, then invalidates the core's instruction cache. -/
  | iflush
  /-- R186: Completes as nop and keeps the thread from being the chosen thread of the next issue group. -/
  | yield
  /-- R64: Always raises precise fault 0x01. -/
  | ill (n : BitVec 16)
  /-- R151: xd := xa + xb modulo 2^64. -/
  | add (d : Reg) (a : Reg) (b : Reg)
  /-- R151: xd := xa - xb modulo 2^64. -/
  | sub (d : Reg) (a : Reg) (b : Reg)
  /-- R151: xd := xa AND xb. -/
  | and (d : Reg) (a : Reg) (b : Reg)
  /-- R151: xd := xa OR xb. -/
  | or (d : Reg) (a : Reg) (b : Reg)
  /-- R151: xd := xa XOR xb. -/
  | xor (d : Reg) (a : Reg) (b : Reg)
  /-- R151: xd := xa AND NOT xb. -/
  | andn (d : Reg) (a : Reg) (b : Reg)
  /-- R151: xd := xa OR NOT xb. -/
  | orn (d : Reg) (a : Reg) (b : Reg)
  /-- R151: xd := NOT (xa XOR xb). -/
  | xnor (d : Reg) (a : Reg) (b : Reg)
  /-- R151: xd := xa shifted left by xb[5:0]. -/
  | shl (d : Reg) (a : Reg) (b : Reg)
  /-- R151: xd := xa shifted right by xb[5:0], zero-filled. -/
  | shr (d : Reg) (a : Reg) (b : Reg)
  /-- R151: xd := xa shifted right by xb[5:0], sign-filled. -/
  | sra (d : Reg) (a : Reg) (b : Reg)
  /-- R151: xd := xa rotated left by xb[5:0]. -/
  | rol (d : Reg) (a : Reg) (b : Reg)
  /-- R151: xd := xa rotated right by xb[5:0]. -/
  | ror (d : Reg) (a : Reg) (b : Reg)
  /-- R151: xd := 1 if xa < xb as signed, else 0. -/
  | slt (d : Reg) (a : Reg) (b : Reg)
  /-- R151: xd := 1 if xa < xb as unsigned, else 0. -/
  | sltu (d : Reg) (a : Reg) (b : Reg)
  /-- R151: xd := 1 if xa = xb, else 0. -/
  | seq (d : Reg) (a : Reg) (b : Reg)
  /-- R151: xd := 1 if xa differs from xb, else 0. -/
  | sne (d : Reg) (a : Reg) (b : Reg)
  /-- R151: xd := the smaller of xa and xb as signed. -/
  | min (d : Reg) (a : Reg) (b : Reg)
  /-- R151: xd := the larger of xa and xb as signed. -/
  | max (d : Reg) (a : Reg) (b : Reg)
  /-- R151: xd := the smaller of xa and xb as unsigned. -/
  | minu (d : Reg) (a : Reg) (b : Reg)
  /-- R151: xd := the larger of xa and xb as unsigned. -/
  | maxu (d : Reg) (a : Reg) (b : Reg)
  /-- R151: xd := sign-extended 32-bit sum. -/
  | addw (d : Reg) (a : Reg) (b : Reg)
  /-- R151: xd := sign-extended 32-bit difference. -/
  | subw (d : Reg) (a : Reg) (b : Reg)
  /-- R151: xd := sign-extended 32-bit left shift by xb[4:0]. -/
  | shlw (d : Reg) (a : Reg) (b : Reg)
  /-- R151: xd := sign-extended 32-bit logical right shift by xb[4:0]. -/
  | shrw (d : Reg) (a : Reg) (b : Reg)
  /-- R151: xd := sign-extended 32-bit arithmetic right shift by xb[4:0]. -/
  | sraw (d : Reg) (a : Reg) (b : Reg)
  /-- R152: xd := xa + sign-extended I14. -/
  | addi (d : Reg) (a : Reg) (imm : BitVec 14)
  /-- R152: xd := xa AND sign-extended I14. -/
  | andi (d : Reg) (a : Reg) (imm : BitVec 14)
  /-- R152: xd := xa OR sign-extended I14. -/
  | ori (d : Reg) (a : Reg) (imm : BitVec 14)
  /-- R152: xd := xa XOR sign-extended I14. -/
  | xori (d : Reg) (a : Reg) (imm : BitVec 14)
  /-- R153: xd := xa shifted left by an immediate amount. -/
  | shli (d : Reg) (a : Reg) (n : BitVec 6)
  /-- R153: xd := xa logically shifted right by an immediate amount. -/
  | shri (d : Reg) (a : Reg) (n : BitVec 6)
  /-- R153: xd := xa arithmetically shifted right by an immediate amount. -/
  | srai (d : Reg) (a : Reg) (n : BitVec 6)
  /-- R153: xd := xa rotated left by an immediate amount. -/
  | roli (d : Reg) (a : Reg) (n : BitVec 6)
  /-- R153: xd := xa rotated right by an immediate amount. -/
  | rori (d : Reg) (a : Reg) (n : BitVec 6)
  /-- R154: xd := 1 if xa < sign-extended I11 as signed. -/
  | slti (d : Reg) (a : Reg) (imm : BitVec 11)
  /-- R154: xd := 1 if xa < sign-extended I11 as unsigned. -/
  | sltui (d : Reg) (a : Reg) (imm : BitVec 11)
  /-- R154: xd := 1 if xa equals sign-extended I11. -/
  | seqi (d : Reg) (a : Reg) (imm : BitVec 11)
  /-- R154: xd := 1 if xa differs from sign-extended I11. -/
  | snei (d : Reg) (a : Reg) (imm : BitVec 11)
  /-- R220: Loads one byte, sign-extended. -/
  | ldb (d : Reg) (a : Reg) (off : BitVec 11)
  /-- R220: Loads two bytes, sign-extended. -/
  | ldh (d : Reg) (a : Reg) (off : BitVec 11)
  /-- R220: Loads four bytes, sign-extended. -/
  | ldw (d : Reg) (a : Reg) (off : BitVec 11)
  /-- R220: Loads eight bytes. -/
  | ldd (d : Reg) (a : Reg) (off : BitVec 11)
  /-- R220: Loads one byte, zero-extended. -/
  | ldbz (d : Reg) (a : Reg) (off : BitVec 11)
  /-- R220: Loads two bytes, zero-extended. -/
  | ldhz (d : Reg) (a : Reg) (off : BitVec 11)
  /-- R220: Loads four bytes, zero-extended. -/
  | ldwz (d : Reg) (a : Reg) (off : BitVec 11)
  /-- R220: Stores the low byte of xb. -/
  | stb (b : Reg) (a : Reg) (off : BitVec 11)
  /-- R220: Stores the low two bytes of xb. -/
  | sth (b : Reg) (a : Reg) (off : BitVec 11)
  /-- R220: Stores the low four bytes of xb. -/
  | stw (b : Reg) (a : Reg) (off : BitVec 11)
  /-- R220: Stores all eight bytes of xb. -/
  | std (b : Reg) (a : Reg) (off : BitVec 11)
  /-- R173: Branches by OFF11 words if xa = xb. -/
  | beq (a : Reg) (b : Reg) (off : BitVec 11)
  /-- R173: Branches by OFF11 words if xa differs from xb. -/
  | bne (a : Reg) (b : Reg) (off : BitVec 11)
  /-- R173: Branches by OFF11 words if xa < xb signed. -/
  | blt (a : Reg) (b : Reg) (off : BitVec 11)
  /-- R173: Branches by OFF11 words if xa >= xb signed. -/
  | bge (a : Reg) (b : Reg) (off : BitVec 11)
  /-- R173: Branches by OFF11 words if xa < xb unsigned. -/
  | bltu (a : Reg) (b : Reg) (off : BitVec 11)
  /-- R173: Branches by OFF11 words if xa >= xb unsigned. -/
  | bgeu (a : Reg) (b : Reg) (off : BitVec 11)
  /-- R173: Branches by OFF11 words if bit n of xa is set. -/
  | bbs (a : Reg) (b : Reg) (off : BitVec 11)
  /-- R173: Branches by OFF11 words if bit n of xa is clear. -/
  | bbc (a : Reg) (b : Reg) (off : BitVec 11)
  /-- R173: Long form of beq with a 32-bit word offset in W1. -/
  | beqLong (a : Reg) (b : Reg) (off : BitVec 32)
  /-- R173: Long form of bne with a 32-bit word offset in W1. -/
  | bneLong (a : Reg) (b : Reg) (off : BitVec 32)
  /-- R173: Long form of blt with a 32-bit word offset in W1. -/
  | bltLong (a : Reg) (b : Reg) (off : BitVec 32)
  /-- R173: Long form of bge with a 32-bit word offset in W1. -/
  | bgeLong (a : Reg) (b : Reg) (off : BitVec 32)
  /-- R173: Long form of bltu with a 32-bit word offset in W1. -/
  | bltuLong (a : Reg) (b : Reg) (off : BitVec 32)
  /-- R173: Long form of bgeu with a 32-bit word offset in W1. -/
  | bgeuLong (a : Reg) (b : Reg) (off : BitVec 32)
  /-- R173: Long form of bbs with a 32-bit word offset in W1. -/
  | bbsLong (a : Reg) (b : Reg) (off : BitVec 32)
  /-- R173: Long form of bbc with a 32-bit word offset in W1. -/
  | bbcLong (a : Reg) (b : Reg) (off : BitVec 32)
  /-- R175: Jumps by OFF19 words. -/
  | j (off : BitVec 19)
  /-- R175: Writes lr := pc + 4 and jumps by OFF19 words. -/
  | jal (off : BitVec 19)
  /-- R175: Long form of j with a 32-bit word offset in W1. -/
  | jLong (off : BitVec 32)
  /-- R175: Long form of jal, writing lr := pc + 8. -/
  | jalLong (off : BitVec 32)
  /-- R176: Jumps to base (xa or lr) plus I14 bytes. -/
  | jr (a : Reg) (imm : BitVec 14)
  /-- R176: Jumps to base plus I14 bytes and writes lr := pc + 4. -/
  | jalr (a : Reg) (imm : BitVec 14)
  /-- R177: Reads a jump table's length and, for an index in range, jumps to its entry. -/
  | jtab (a : Reg) (b : Reg)
  /-- R156: xd := low 64 bits of the product. -/
  | mul (d : Reg) (a : Reg) (b : Reg)
  /-- R156: xd := high 64 bits of the signed product. -/
  | mulh (d : Reg) (a : Reg) (b : Reg)
  /-- R156: xd := high 64 bits of the unsigned product. -/
  | mulhu (d : Reg) (a : Reg) (b : Reg)
  /-- R156: xd := high 64 bits of signed xa times unsigned xb. -/
  | mulhsu (d : Reg) (a : Reg) (b : Reg)
  /-- R156: xd := sign-extended low 32 bits of the product. -/
  | mulw (d : Reg) (a : Reg) (b : Reg)
  /-- R156: xd := signed quotient under R82. -/
  | div (d : Reg) (a : Reg) (b : Reg)
  /-- R156: xd := unsigned quotient under R82. -/
  | divu (d : Reg) (a : Reg) (b : Reg)
  /-- R156: xd := signed remainder under R82. -/
  | rem (d : Reg) (a : Reg) (b : Reg)
  /-- R156: xd := unsigned remainder under R82. -/
  | remu (d : Reg) (a : Reg) (b : Reg)
  /-- R156: xd := sign-extended 32-bit signed quotient. -/
  | divw (d : Reg) (a : Reg) (b : Reg)
  /-- R156: xd := sign-extended 32-bit signed remainder. -/
  | remw (d : Reg) (a : Reg) (b : Reg)
  /-- R157: xd := leading zeros of xa. -/
  | clz (d : Reg) (a : Reg)
  /-- R157: xd := trailing zeros of xa. -/
  | ctz (d : Reg) (a : Reg)
  /-- R157: xd := number of ones in xa. -/
  | popc (d : Reg) (a : Reg)
  /-- R157: xd := xa with its bits reversed. -/
  | brev (d : Reg) (a : Reg)
  /-- R157: xd := xa with its bytes reversed. -/
  | bswap (d : Reg) (a : Reg)
  /-- R157: xd := position of the set bit of xa with xb set bits below it. -/
  | fnsb (d : Reg) (a : Reg) (b : Reg)
  /-- R157: xd := leading zeros of xa[31:0]. -/
  | clzw (d : Reg) (a : Reg)
  /-- R157: xd := trailing zeros of xa[31:0]. -/
  | ctzw (d : Reg) (a : Reg)
  /-- R157: xd := number of ones in xa[31:0]. -/
  | popcw (d : Reg) (a : Reg)
  /-- R158: Signed bit-field extract with offset and width from xb. -/
  | bfx (d : Reg) (a : Reg) (b : Reg)
  /-- R158: Unsigned bit-field extract with offset and width from xb. -/
  | bfxu (d : Reg) (a : Reg) (b : Reg)
  /-- R158: Inserts a field of xa into xd with offset and width from xb. -/
  | bfi (d : Reg) (a : Reg) (b : Reg)
  /-- R158: xd := the mask of the field given by xb. -/
  | bfmsk (d : Reg) (b : Reg)
  /-- R159: Signed bit-field extract with immediate offset and width. -/
  | bfxi (d : Reg) (a : Reg) (off : BitVec 7) (wid : BitVec 7)
  /-- R159: Unsigned bit-field extract with immediate offset and width. -/
  | bfxui (d : Reg) (a : Reg) (off : BitVec 7) (wid : BitVec 7)
  /-- R159: Bit-field insert with immediate offset and width. -/
  | bfii (d : Reg) (a : Reg) (off : BitVec 7) (wid : BitVec 7)
  /-- R161: Scalar floating-point addition rounded once. -/
  | fadd (ty : BitVec 2) (d : Reg) (a : Reg) (b : Reg)
  /-- R161: Scalar floating-point subtraction rounded once. -/
  | fsub (ty : BitVec 2) (d : Reg) (a : Reg) (b : Reg)
  /-- R161: Scalar floating-point multiplication rounded once. -/
  | fmul (ty : BitVec 2) (d : Reg) (a : Reg) (b : Reg)
  /-- R161: Scalar floating-point division rounded once. -/
  | fdiv (ty : BitVec 2) (d : Reg) (a : Reg) (b : Reg)
  /-- R161: Scalar floating-point square root rounded once. -/
  | fsqrt (ty : BitVec 2) (d : Reg) (a : Reg)
  /-- R162: Lesser of two values; canonical NaN if either is NaN. -/
  | fmin (ty : BitVec 2) (d : Reg) (a : Reg) (b : Reg)
  /-- R162: Greater of two values; canonical NaN if either is NaN. -/
  | fmax (ty : BitVec 2) (d : Reg) (a : Reg) (b : Reg)
  /-- R162: Lesser of two values, ignoring a NaN operand. -/
  | fminn (ty : BitVec 2) (d : Reg) (a : Reg) (b : Reg)
  /-- R162: Greater of two values, ignoring a NaN operand. -/
  | fmaxn (ty : BitVec 2) (d : Reg) (a : Reg) (b : Reg)
  /-- R163: xa with the sign of xb. -/
  | fsgnj (ty : BitVec 2) (d : Reg) (a : Reg) (b : Reg)
  /-- R163: xa with the opposite of xb's sign. -/
  | fsgnjn (ty : BitVec 2) (d : Reg) (a : Reg) (b : Reg)
  /-- R163: xa with sign(xa) XOR sign(xb). -/
  | fsgnjx (ty : BitVec 2) (d : Reg) (a : Reg) (b : Reg)
  /-- R164: xd := 1 if the values are equal. -/
  | feq (ty : BitVec 2) (d : Reg) (a : Reg) (b : Reg)
  /-- R164: xd := 1 if xa < xb. -/
  | flt (ty : BitVec 2) (d : Reg) (a : Reg) (b : Reg)
  /-- R164: xd := 1 if xa <= xb. -/
  | fle (ty : BitVec 2) (d : Reg) (a : Reg) (b : Reg)
  /-- R165: Writes a one-hot class mask of the operand. -/
  | fclass (ty : BitVec 2) (d : Reg) (a : Reg)
  /-- R166: Converts a floating-point value of the source type to TY. -/
  | fcvt (ty : BitVec 2) (d : Reg) (a : Reg) (src : BitVec 5)
  /-- R166: Converts TY to a signed 64- or 32-bit integer. -/
  | fcvti (ty : BitVec 2) (d : Reg) (a : Reg) (rm : BitVec 3) (w : Bool)
  /-- R166: Converts TY to an unsigned 64- or 32-bit integer. -/
  | fcvtu (ty : BitVec 2) (d : Reg) (a : Reg) (rm : BitVec 3) (w : Bool)
  /-- R166: Converts a signed integer to TY. -/
  | icvtf (ty : BitVec 2) (d : Reg) (a : Reg) (rm : BitVec 3) (w : Bool)
  /-- R166: Converts an unsigned integer to TY. -/
  | ucvtf (ty : BitVec 2) (d : Reg) (a : Reg) (rm : BitVec 3) (w : Bool)
  /-- R167: a × b + c rounded once. -/
  | fma (ty : BitVec 2) (rm : BitVec 3) (d : Reg) (a : Reg) (b : Reg) (c : Reg)
  /-- R167: a × b - c rounded once. -/
  | fms (ty : BitVec 2) (rm : BitVec 3) (d : Reg) (a : Reg) (b : Reg) (c : Reg)
  /-- R167: -(a × b) - c rounded once. -/
  | fnma (ty : BitVec 2) (rm : BitVec 3) (d : Reg) (a : Reg) (b : Reg) (c : Reg)
  /-- R167: -(a × b) + c rounded once. -/
  | fnms (ty : BitVec 2) (rm : BitVec 3) (d : Reg) (a : Reg) (b : Reg) (c : Reg)
  /-- R168: Reads a CSR into xd. -/
  | csrr (d : Reg) (csr : BitVec 12)
  /-- R168: Writes xa to a CSR and returns the old value. -/
  | csrw (d : Reg) (a : Reg) (csr : BitVec 12)
  /-- R168: Sets the CSR bits that are set in xa and returns the old value. -/
  | csrs (d : Reg) (a : Reg) (csr : BitVec 12)
  /-- R168: Clears the CSR bits that are set in xa and returns the old value. -/
  | csrc (d : Reg) (a : Reg) (csr : BitVec 12)
  /-- R228: Atomically adds xb at the home and returns the old value. -/
  | amoadd (dbl : Bool) (d : Reg) (a : Reg) (b : Reg)
  /-- R228: Atomic AND at the home, returning the old value. -/
  | amoand (dbl : Bool) (d : Reg) (a : Reg) (b : Reg)
  /-- R228: Atomic OR at the home, returning the old value. -/
  | amoor (dbl : Bool) (d : Reg) (a : Reg) (b : Reg)
  /-- R228: Atomic XOR at the home, returning the old value. -/
  | amoxor (dbl : Bool) (d : Reg) (a : Reg) (b : Reg)
  /-- R228: Atomic signed minimum at the home. -/
  | amomin (dbl : Bool) (d : Reg) (a : Reg) (b : Reg)
  /-- R228: Atomic signed maximum at the home. -/
  | amomax (dbl : Bool) (d : Reg) (a : Reg) (b : Reg)
  /-- R228: Atomic unsigned minimum at the home. -/
  | amominu (dbl : Bool) (d : Reg) (a : Reg) (b : Reg)
  /-- R228: Atomic unsigned maximum at the home. -/
  | amomaxu (dbl : Bool) (d : Reg) (a : Reg) (b : Reg)
  /-- R228: Atomic swap at the home. -/
  | amoswp (dbl : Bool) (d : Reg) (a : Reg) (b : Reg)
  /-- R228: Atomic compare-and-swap against xd at the home. -/
  | amocas (dbl : Bool) (d : Reg) (a : Reg) (b : Reg)
  /-- R232: Requests a synchronisation object exclusively or shared and waits for the grant. -/
  | acq (a : Reg) (shared : Bool)
  /-- R233: Drains the write-through buffer, releases the object and adds 1 to RSEQ. -/
  | rel (a : Reg)
  /-- R232: Requests an object without queuing and writes 1 if granted at once. -/
  | tryacq (d : Reg) (a : Reg) (shared : Bool)
  /-- R234: Records a range in the first empty range of an object. -/
  | bind (d : Reg) (a : Reg) (b : Reg)
  /-- R234: Empties the object's range whose base equals xa. -/
  | unbind (d : Reg) (a : Reg)
  /-- R236: Hints a line into the data cache and far cache, or the far cache only. -/
  | pref (a : Reg) (h : Bool)
  /-- R236: Drains the thread's write-through buffer. -/
  | wbf
  /-- R226: Loads 8 bytes, allowing a read-only replica in the issuing die's far cache. -/
  | ldro (d : Reg) (a : Reg)
  /-- R135: Starts a helper in the lowest EMPTY slot at xa and returns the slot. -/
  | hstart (d : Reg) (a : Reg) (b : Reg)
  /-- R136: Waits for a helper to exit and collects its exit value. -/
  | hjoin (d : Reg) (a : Reg)
  /-- R137: Ends a helper after its engine operations retire, recording its exit value. -/
  | hexit (a : Reg)
  /-- R138: Reports the state of a slot without waiting. -/
  | hpeek (d : Reg) (a : Reg)
  /-- R139: Waits until timeline counter t reaches xa and delivers a pending fault. -/
  | waittl (t : BitVec 2) (a : Reg)
  /-- R140: Checks, waits for engine operations, drains and ends the task on the core. -/
  | kexit (a : Reg)
  /-- R142: Arrives at a rendezvous point and returns the lowest slot's contribution. -/
  | rdv (d : Reg) (a : Reg) (id : BitVec 4) (count : BitVec 5)
  /-- R142: Arrives at a rendezvous point and returns the sum of contributions. -/
  | rdvadd (d : Reg) (a : Reg) (id : BitVec 4) (count : BitVec 5)
  /-- R142: Arrives at a rendezvous point and returns the signed maximum. -/
  | rdvmax (d : Reg) (a : Reg) (id : BitVec 4) (count : BitVec 5)
  /-- R142: Arrives at a rendezvous point and returns the OR of contributions. -/
  | rdvor (d : Reg) (a : Reg) (id : BitVec 4) (count : BitVec 5)
  /-- R155: xd := sign-extended LIT32. -/
  | li (d : Reg) (imm : BitVec 32)
  /-- R155: xd := zero-extended LIT32. -/
  | liz (d : Reg) (imm : BitVec 32)
  /-- R155: xd := LIT32 × 2^32 + xa[31:0]. -/
  | lihi (d : Reg) (a : Reg) (imm : BitVec 32)
  /-- R155: xd := xa + sign-extended LIT32. -/
  | addl (d : Reg) (a : Reg) (imm : BitVec 32)
  /-- R155: xd := xa AND sign-extended LIT32. -/
  | andl (d : Reg) (a : Reg) (imm : BitVec 32)
  /-- R155: xd := xa OR sign-extended LIT32. -/
  | orl (d : Reg) (a : Reg) (imm : BitVec 32)
  /-- R155: xd := xa XOR sign-extended LIT32. -/
  | xorl (d : Reg) (a : Reg) (imm : BitVec 32)
  /-- R155: xd := 1 if xa < sign-extended LIT32 as signed. -/
  | sltl (d : Reg) (a : Reg) (imm : BitVec 32)
  /-- R197: Per-lane integer add, optionally saturating. -/
  | vadd (f : VX)
  /-- R197: Per-lane integer subtract. -/
  | vsub (f : VX)
  /-- R197: Per-lane integer multiply, low bits. -/
  | vmul (f : VX)
  /-- R197: Per-lane integer multiply, high bits. -/
  | vmulh (f : VX)
  /-- R197: Per-lane integer a × b + c. -/
  | vmadd (f : VX)
  /-- R197: Per-lane absolute value of signed lanes. -/
  | vabs (f : VX)
  /-- R197: Per-lane negation of signed lanes. -/
  | vneg (f : VX)
  /-- R197: Per-lane integer minimum. -/
  | vmin (f : VX)
  /-- R197: Per-lane integer maximum. -/
  | vmax (f : VX)
  /-- R197: Per-lane saturating add. -/
  | vadds (f : VX)
  /-- R197: Per-lane saturating subtract. -/
  | vsubs (f : VX)
  /-- R197: Per-lane rounded-up average. -/
  | vavg (f : VX)
  /-- R197: Per-lane left shift. -/
  | vshl (f : VX)
  /-- R197: Per-lane logical right shift. -/
  | vshr (f : VX)
  /-- R197: Per-lane arithmetic right shift. -/
  | vsra (f : VX)
  /-- R197: Accumulates four byte products into each 32-bit lane. -/
  | vdot4 (f : VX)
  /-- R197: Per-lane move of the B operand. -/
  | vmov (f : VX)
  /-- R55: Literal form of vadd with LIT32 as B. -/
  | vaddLit (f : VX) (lit : BitVec 32)
  /-- R55: Literal form of vsub. -/
  | vsubLit (f : VX) (lit : BitVec 32)
  /-- R55: Literal form of vmul. -/
  | vmulLit (f : VX) (lit : BitVec 32)
  /-- R55: Literal form of vmulh. -/
  | vmulhLit (f : VX) (lit : BitVec 32)
  /-- R55: Literal form of vmadd. -/
  | vmaddLit (f : VX) (lit : BitVec 32)
  /-- R55: Literal form of vabs. -/
  | vabsLit (f : VX) (lit : BitVec 32)
  /-- R55: Literal form of vneg. -/
  | vnegLit (f : VX) (lit : BitVec 32)
  /-- R55: Literal form of vmin. -/
  | vminLit (f : VX) (lit : BitVec 32)
  /-- R55: Literal form of vmax. -/
  | vmaxLit (f : VX) (lit : BitVec 32)
  /-- R55: Literal form of vadds. -/
  | vaddsLit (f : VX) (lit : BitVec 32)
  /-- R55: Literal form of vsubs. -/
  | vsubsLit (f : VX) (lit : BitVec 32)
  /-- R55: Literal form of vavg. -/
  | vavgLit (f : VX) (lit : BitVec 32)
  /-- R55: Literal form of vshl. -/
  | vshlLit (f : VX) (lit : BitVec 32)
  /-- R55: Literal form of vshr. -/
  | vshrLit (f : VX) (lit : BitVec 32)
  /-- R55: Literal form of vsra. -/
  | vsraLit (f : VX) (lit : BitVec 32)
  /-- R55: Literal form of vdot4, with the bytes of LIT32 as b. -/
  | vdot4Lit (f : VX) (lit : BitVec 32)
  /-- R55: Literal form of vmov, broadcasting LIT32. -/
  | vmovLit (f : VX) (lit : BitVec 32)
  /-- R198: Per-lane floating-point add. -/
  | vfadd (f : VX)
  /-- R198: Per-lane floating-point subtract. -/
  | vfsub (f : VX)
  /-- R198: Per-lane floating-point multiply. -/
  | vfmul (f : VX)
  /-- R198: Per-lane floating-point divide. -/
  | vfdiv (f : VX)
  /-- R198: Per-lane floating-point square root. -/
  | vfsqrt (f : VX)
  /-- R198: Per-lane fused a × b + c. -/
  | vfma (f : VX)
  /-- R198: Per-lane fused a × b - c. -/
  | vfms (f : VX)
  /-- R198: Per-lane fused -(a × b) - c. -/
  | vfnma (f : VX)
  /-- R198: Per-lane floating-point minimum, NaN-ignoring when IMM9 = 1. -/
  | vfmin (f : VX)
  /-- R198: Per-lane floating-point maximum, NaN-ignoring when IMM9 = 1. -/
  | vfmax (f : VX)
  /-- R198: Per-lane sign clear. -/
  | vfabs (f : VX)
  /-- R198: Per-lane sign inversion. -/
  | vfneg (f : VX)
  /-- R55: Literal form of vfadd. -/
  | vfaddLit (f : VX) (lit : BitVec 32)
  /-- R55: Literal form of vfsub. -/
  | vfsubLit (f : VX) (lit : BitVec 32)
  /-- R55: Literal form of vfmul. -/
  | vfmulLit (f : VX) (lit : BitVec 32)
  /-- R55: Literal form of vfdiv. -/
  | vfdivLit (f : VX) (lit : BitVec 32)
  /-- R55: Literal form of vfsqrt. -/
  | vfsqrtLit (f : VX) (lit : BitVec 32)
  /-- R55: Literal form of vfma. -/
  | vfmaLit (f : VX) (lit : BitVec 32)
  /-- R55: Literal form of vfms. -/
  | vfmsLit (f : VX) (lit : BitVec 32)
  /-- R55: Literal form of vfnma. -/
  | vfnmaLit (f : VX) (lit : BitVec 32)
  /-- R55: Literal form of vfmin. -/
  | vfminLit (f : VX) (lit : BitVec 32)
  /-- R55: Literal form of vfmax. -/
  | vfmaxLit (f : VX) (lit : BitVec 32)
  /-- R55: Literal form of vfabs. -/
  | vfabsLit (f : VX) (lit : BitVec 32)
  /-- R55: Literal form of vfneg. -/
  | vfnegLit (f : VX) (lit : BitVec 32)
  /-- R199: Per-lane AND. -/
  | vand (f : VX)
  /-- R199: Per-lane OR. -/
  | vor (f : VX)
  /-- R199: Per-lane XOR. -/
  | vxor (f : VX)
  /-- R199: Per-lane a AND NOT b. -/
  | vandn (f : VX)
  /-- R199: Per-lane NOT. -/
  | vnot (f : VX)
  /-- R199: Per-lane population count. -/
  | vpopc (f : VX)
  /-- R199: Per-lane leading zeros. -/
  | vclz (f : VX)
  /-- R199: Per-lane trailing zeros. -/
  | vctz (f : VX)
  /-- R199: Per-lane bit reversal. -/
  | vbrev (f : VX)
  /-- R199: Per-lane position of the n-th set bit. -/
  | vfnsb (f : VX)
  /-- R199: Per-lane bit-field extract. -/
  | vbfx (f : VX)
  /-- R55: Literal form of vand. -/
  | vandLit (f : VX) (lit : BitVec 32)
  /-- R55: Literal form of vor. -/
  | vorLit (f : VX) (lit : BitVec 32)
  /-- R55: Literal form of vxor. -/
  | vxorLit (f : VX) (lit : BitVec 32)
  /-- R55: Literal form of vandn. -/
  | vandnLit (f : VX) (lit : BitVec 32)
  /-- R55: Literal form of vnot. -/
  | vnotLit (f : VX) (lit : BitVec 32)
  /-- R55: Literal form of vpopc. -/
  | vpopcLit (f : VX) (lit : BitVec 32)
  /-- R55: Literal form of vclz. -/
  | vclzLit (f : VX) (lit : BitVec 32)
  /-- R55: Literal form of vctz. -/
  | vctzLit (f : VX) (lit : BitVec 32)
  /-- R55: Literal form of vbrev. -/
  | vbrevLit (f : VX) (lit : BitVec 32)
  /-- R55: Literal form of vfnsb. -/
  | vfnsbLit (f : VX) (lit : BitVec 32)
  /-- R55: Literal form of vbfx. -/
  | vbfxLit (f : VX) (lit : BitVec 32)
  /-- R200: Writes predicate lanes where a = b. -/
  | vcmpeq (f : VX)
  /-- R200: Writes predicate lanes where a differs from b. -/
  | vcmpne (f : VX)
  /-- R200: Writes predicate lanes where a < b signed. -/
  | vcmplt (f : VX)
  /-- R200: Writes predicate lanes where a <= b signed. -/
  | vcmple (f : VX)
  /-- R200: Writes predicate lanes where a < b unsigned. -/
  | vcmpltu (f : VX)
  /-- R200: Writes predicate lanes where a <= b unsigned. -/
  | vcmpleu (f : VX)
  /-- R200: Floating-point equality comparison to a predicate. -/
  | vfcmpeq (f : VX)
  /-- R200: Floating-point less-than comparison to a predicate. -/
  | vfcmplt (f : VX)
  /-- R200: Floating-point less-or-equal comparison to a predicate. -/
  | vfcmple (f : VX)
  /-- R200: Floating-point unordered test to a predicate. -/
  | vfcmpun (f : VX)
  /-- R55: Literal form of vcmpeq. -/
  | vcmpeqLit (f : VX) (lit : BitVec 32)
  /-- R55: Literal form of vcmpne. -/
  | vcmpneLit (f : VX) (lit : BitVec 32)
  /-- R55: Literal form of vcmplt. -/
  | vcmpltLit (f : VX) (lit : BitVec 32)
  /-- R55: Literal form of vcmple. -/
  | vcmpleLit (f : VX) (lit : BitVec 32)
  /-- R55: Literal form of vcmpltu. -/
  | vcmpltuLit (f : VX) (lit : BitVec 32)
  /-- R55: Literal form of vcmpleu. -/
  | vcmpleuLit (f : VX) (lit : BitVec 32)
  /-- R55: Literal form of vfcmpeq. -/
  | vfcmpeqLit (f : VX) (lit : BitVec 32)
  /-- R55: Literal form of vfcmplt. -/
  | vfcmpltLit (f : VX) (lit : BitVec 32)
  /-- R55: Literal form of vfcmple. -/
  | vfcmpleLit (f : VX) (lit : BitVec 32)
  /-- R55: Literal form of vfcmpun. -/
  | vfcmpunLit (f : VX) (lit : BitVec 32)
  /-- R201: Activates lanes below a signed count. -/
  | plen (f : VX)
  /-- R201: Activates lanes below an unsigned count. -/
  | plenu (f : VX)
  /-- R201: Per-lane AND of predicates. -/
  | pand (f : VX)
  /-- R201: Per-lane OR of predicates. -/
  | por (f : VX)
  /-- R201: Per-lane XOR of predicates. -/
  | pxor (f : VX)
  /-- R201: Per-lane NOT of a predicate. -/
  | pnot (f : VX)
  /-- R201: Counts lanes active in both predicates. -/
  | pcnt (f : VX)
  /-- R201: Returns the lowest lane active in both predicates. -/
  | pfirst (f : VX)
  /-- R201: Returns 1 if some lane is active in both predicates. -/
  | pany (f : VX)
  /-- R201: Activates all lanes or lanes below k. -/
  | pset (f : VX)
  /-- R201: Returns the number of lanes VLEN / w. -/
  | vlanes (f : VX)
  /-- R202: Broadcasts lane k of a to active lanes. -/
  | vbcast (f : VX)
  /-- R202: Extracts lane k into an x register. -/
  | vextr (f : VX)
  /-- R202: Inserts an x register into lane k. -/
  | vins (f : VX)
  /-- R202: Slides lanes up by k. -/
  | vslideup (f : VX)
  /-- R202: Slides lanes down by k. -/
  | vslidedn (f : VX)
  /-- R202: Gathers lanes of a by indices in b. -/
  | vperm (f : VX)
  /-- R202: Packs active lanes of a to the bottom. -/
  | vcompress (f : VX)
  /-- R202: Spreads low lanes of a to the active lanes. -/
  | vexpand (f : VX)
  /-- R202: Selects a or b per lane by the predicate. -/
  | vsel (f : VX)
  /-- R202: Writes to each active lane the count of active lanes below it. -/
  | viota (f : VX)
  /-- R203: Sums active integer lanes into an x register. -/
  | vredadd (f : VX)
  /-- R203: Signed minimum of active lanes. -/
  | vredmin (f : VX)
  /-- R203: Signed maximum of active lanes. -/
  | vredmax (f : VX)
  /-- R203: Unsigned minimum of active lanes. -/
  | vredminu (f : VX)
  /-- R203: Unsigned maximum of active lanes. -/
  | vredmaxu (f : VX)
  /-- R203: AND of active lanes. -/
  | vredand (f : VX)
  /-- R203: OR of active lanes. -/
  | vredor (f : VX)
  /-- R203: XOR of active lanes. -/
  | vredxor (f : VX)
  /-- R115: Floating-point sum of lanes in the fixed pairwise tree. -/
  | vfredadd (f : VX)
  /-- R203: Floating-point minimum of active lanes. -/
  | vfredmin (f : VX)
  /-- R203: Floating-point maximum of active lanes. -/
  | vfredmax (f : VX)
  /-- R204: Converts lanes between types of equal width. -/
  | vcvt (f : VX)
  /-- R204: Converts wider source lanes into a quarter or half of the destination. -/
  | vnarrow (f : VX)
  /-- R204: Converts a part of narrower source lanes to every destination lane. -/
  | vwiden (f : VX)
  /-- R205: Packs f32 elements into DX8 blocks. -/
  | vpackdx (f : VX)
  /-- R205: Unpacks DX8 blocks to f32 elements. -/
  | vunpkdx (f : VX)
  /-- R205: Packs f32 elements into DX4 blocks. -/
  | vpackdx4 (f : VX)
  /-- R205: Unpacks DX4 blocks to f32 elements. -/
  | vunpkdx4 (f : VX)
  /-- R206: Special-function reciprocal, queued in the core's special-function queue. -/
  | vrcp (f : VX)
  /-- R206: Special-function reciprocal square root. -/
  | vrsqrt (f : VX)
  /-- R206: Special-function power of two. -/
  | vexp2 (f : VX)
  /-- R206: Special-function base-2 logarithm. -/
  | vlog2 (f : VX)
  /-- R206: Special-function hyperbolic tangent. -/
  | vtanh (f : VX)
  /-- R206: Special-function logistic sigmoid. -/
  | vsigm (f : VX)
  /-- R206: Special-function sin(pi b). -/
  | vsinpi (f : VX)
  /-- R206: Special-function cos(pi b). -/
  | vcospi (f : VX)
  /-- R210: Unit-stride vector load. -/
  | vld (f : VX)
  /-- R210: Strided vector load. -/
  | vlds (f : VX)
  /-- R210: Indexed vector load. -/
  | vldx (f : VX)
  /-- R210: Loads one element and broadcasts it to active lanes. -/
  | vldb (f : VX)
  /-- R213: First-fault vector load reporting loaded lanes in a predicate. -/
  | vldff (f : VX)
  /-- R210: Unit-stride vector store. -/
  | vst (f : VX)
  /-- R210: Strided vector store. -/
  | vsts (f : VX)
  /-- R210: Indexed vector store. -/
  | vstx (f : VX)
  /-- R210: Compressing store of active lanes to consecutive elements. -/
  | vstc (f : VX)
  /-- R215: Per-lane atomic add at the home. -/
  | vamoadd (f : VX)
  /-- R215: Per-lane atomic OR at the home. -/
  | vamoor (f : VX)
  /-- R215: Per-lane atomic AND at the home. -/
  | vamoand (f : VX)
  /-- R215: Per-lane atomic minimum at the home. -/
  | vamomin (f : VX)
  /-- R215: Per-lane atomic maximum at the home. -/
  | vamomax (f : VX)
  /-- R313: Loads VLEN/8 bytes of a tile into a vector register. -/
  | tld (d : Reg) (a : Reg) (n : BitVec 4)
  /-- R313: Stores a vector register into tile bytes. -/
  | tst (d : Reg) (a : Reg) (n : BitVec 4)
  /-- R314: Queues a zeroing of a tile at the own OMU with a tl1 number. -/
  | tzero (d : Reg) (n : BitVec 4)
  /-- R314: Queues the addition of one F32 tile into another at the own OMU. -/
  | tacc (d : Reg) (n : BitVec 4) (m : BitVec 4)
  /-- R317: Sends an optical pass to a target OMU and waits for acceptance. -/
  | mxp (d : Reg) (a : Reg) (b : Reg) (m : MxpW)
  /-- R317: Sends an optical pass that also writes a status record. -/
  | mxps (d : Reg) (a : Reg) (b : Reg) (m : MxpW)
  /-- R317: Requests probes of the named loaded banks of an OMU. -/
  | mxprobe (d : Reg) (a : Reg) (mask : BitVec 16) (cap : BitVec 3)
  /-- R319: Issues a phase load of an image into a bank. -/
  | phld (d : Reg) (a : Reg) (b : Reg) (bank : BitVec 4) (cap : BitVec 3)
  /-- R319: Issues a trim of a bank's attenuator and output phase codes. -/
  | phtrim (d : Reg) (a : Reg) (bank : BitVec 4) (cap : BitVec 3)
  /-- R319: Issues a read of a bank's codes as an image to memory. -/
  | phrd (d : Reg) (a : Reg) (b : Reg) (bank : BitVec 4) (cap : BitVec 3)
  /-- R319: Issues an invalidation of a bank. -/
  | phinv (d : Reg) (a : Reg) (bank : BitVec 4) (cap : BitVec 3)
  /-- R311: Queues a decomposition of a 64×64 matrix into a phase image. -/
  | dcmp (d : Reg) (a : Reg) (b : Reg) (cap : BitVec 3) (res : Bool)
  /-- R248: Queues a copy on the cluster memory engine. -/
  | cpy (d : Reg) (a : Reg) (b : Reg) (c : Reg) (raw : Bool)
  /-- R248: Queues a two-dimensional strided copy. -/
  | cpy2 (d : Reg) (a : Reg) (b : Reg) (c : Reg) (e : Reg) (raw : Bool)
  /-- R248: Queues a fill with a repeated 64-bit pattern. -/
  | cpyset (d : Reg) (a : Reg) (b : Reg) (c : Reg) (raw : Bool)
  /-- R248: Queues a copy of tile rows to or from memory. -/
  | cpytile (d : Reg) (a : Reg) (b : Reg) (tile : BitVec 4) (first : BitVec 7) (count : BitVec 7) (dir : Bool)
  /-- R248: Queues a comparison of two regions writing the first difference. -/
  | cpycmp (d : Reg) (a : Reg) (b : Reg) (c : Reg) (e : Reg) (raw : Bool)
  /-- R254: Finds or allocates a scratchpad slot for a handle's block. -/
  | splook (d : Reg) (a : Reg) (b : Reg)
  /-- R255: Frees unpinned blocks of a handle and marks the rest for eviction. -/
  | spevict (d : Reg) (a : Reg)
  /-- R255: Sets the class of a handle's resident blocks to 0. -/
  | spdemote (a : Reg)
  /-- R255: Releases or publishes a scratchpad slot. -/
  | sprel (a : Reg) (b : Reg)
  /-- R255: Sets a handle's priority and its resident blocks' class. -/
  | spprio (a : Reg) (b : Reg)
  /-- R330: Arrives at the group barrier of level n and waits for release. -/
  | sync (n : BitVec 3)
  /-- R330: Arrives at the group barrier of level n without waiting. -/
  | sarrive (n : BitVec 3)
  /-- R330: Waits for the release matching an earlier sarrive. -/
  | swait (n : BitVec 3)
  /-- R330: Arrives with a vote and receives the group's reduced vote at release. -/
  | syncv (d : Reg) (a : Reg) (n : BitVec 3) (op : BitVec 3)
  /-- R334: Adds an exchange-list entry sending words to a group member. -/
  | xsend (a : Reg) (b : Reg) (c : Reg) (n : BitVec 3)
  /-- R335: Opens a packet with a descriptor and level. -/
  | xopen (a : Reg) (n : BitVec 3)
  /-- R335: Captures one word into the open packet. -/
  | xput (a : Reg)
  /-- R335: Closes the open packet and adds it to the exchange list. -/
  | xend
  /-- R365: Reads a launch record and submits it to a queue of the context. -/
  | klaunch (d : Reg) (a : Reg) (q : BitVec 4) (detach : Bool)
  /-- R366: Reads a signal timeline entry at its home. -/
  | kquery (d : Reg) (a : Reg)
  /-- R366: Drains and raises a signal timeline by atomic maximum. -/
  | ksignal (a : Reg) (b : Reg)
  /-- R420: Classifies an address and reports its translation and lease. -/
  | lquery (d : Reg) (a : Reg)
  /-- R421: Walks a page again and replaces the cached entry. -/
  | lrenew (d : Reg) (a : Reg)
  /-- R422: Returns the access counts of the page's storage block. -/
  | pgcnt (d : Reg) (a : Reg)
  /-- R448: Issues an operation that retires when the core's remote operations are answered. -/
  | ldrain (d : Reg) (a : Reg)
  /-- R449: Returns port or module status. -/
  | lstat (d : Reg) (a : Reg) (sel : BitVec 2)
  /-- R450: Schedules an intensity-reduce send in a session slot. -/
  | irsend (d : Reg) (a : Reg) (b : Reg)
  /-- R450: Schedules an intensity-reduce receive in a session slot. -/
  | irrecv (d : Reg) (a : Reg) (b : Reg)
  /-- R497: Emits a trace marker record when trace is on. -/
  | pmark (a : Reg)
  /-- R497: Stops the core when a debugger holds it. -/
  | dstop
  /-- R32: Power becomes good and the PSC boots from ROM and verifies its firmware. -/
  | powerGood (pscOk : Bool)
  /-- R32: Stack controllers are released and train, test and repair their stacks: what each reports, or that one failed. -/
  | stackBringup (reports : Option (List (Nat × Nat)))
  /-- R32: The PSC turns on both comb sources and waits for all lines to lock. -/
  | combLock (ok : Bool)
  /-- R32: The switch controller is released and trains internal ports. -/
  | switchPortTrain (ok : Bool)
  /-- R32: MGCs are released, start OMU thermal loops and run first probes. -/
  | mgcRelease (ok : Bool)
  /-- R32: The PSC sets DEVSTAT.READY. -/
  | setReady
  /-- R33: The CXL link trains independently of the start sequence. -/
  | cxlLinkTrain (cache : Bool) (mem : Bool)
  /-- R42: Every 100 µs the PSC measures input power against PWRLIM and steps the core clock. -/
  | powerSample (avg : Nat)
  /-- R473: A compute die junction reaches 105 °C and the clock is lowered. -/
  | dieJunctionLimit (die : Nat)
  /-- R473: After 1 ms below 100 °C the clock is raised one step. -/
  | dieJunctionRecover (die : Nat)
  /-- R21: A comb line falls below its power threshold, making OMUs unavailable or dropping a wavelength. -/
  | combLineBelowThreshold (src : Nat) (line : Nat) (failed : Bool)
  /-- R308: A line recovers; the OMU probes every loaded bank before accepting passes. -/
  | combLineRecover (src : Nat) (line : Nat) (measured : List (Nat × Nat × List Int))
  /-- R452: Every 60 s the PSC updates each comb line's ageing record. -/
  | laserTelemetryUpdate (src : Nat) (line : Nat) (rec : Telemetry)
  /-- R130: The front end picks a PC from the rotation pointer and fuses matching READY threads. -/
  | issueGroupForm (core : Nat)
  /-- R496: A handler reaching 1,024 instructions is ended as by pmret and OVR is set. -/
  | handlerInstructionLimit (core : Nat)
  /-- R145: Every live thread waits and some wait cannot complete; the control thread gets 0x0B. -/
  | deadlockDetect (core : Nat)
  /-- R209: A special-function queue entry completes and frees for a waiting thread. -/
  | sfuEntryComplete (core : Nat) (idx : Nat)
  /-- R124: Dispatch starts a task on an idle core from a VALID entry, filling slots. -/
  | taskStart (core : Nat) (shadow : Bool)
  /-- R356: Dispatch restores a saved task from shadow storage or FRAME. -/
  | taskRestore (core : Nat) (shadow : Bool)
  /-- R385: A task is held, drained and saved to shadow storage or FRAME. -/
  | taskSave (core : Nat) (toFrame : Bool)
  /-- R384: A thread has waited on a translation for SPIN µs and the task is swapped out. -/
  | spinTimeoutSwap (core : Nat)
  /-- R137: A helper's operations have retired; it records its exit value and moves to EXITED. -/
  | hexitComplete (core : Nat) (slot : Nat)
  /-- R140: The task's engine operations retired; faults delivered, buffer drained, core released. -/
  | kexitComplete (core : Nat)
  /-- R223: A buffered store reaches its home and takes its place in home order. -/
  | storePerform (core : Nat) (slot : Nat) (idx : Nat)
  /-- R527: A refused access is reissued under the translation a fresh walk finds. -/
  | accessReissue (core : Nat) (slot : Nat)
  /-- R228: An atomic is performed indivisibly at its home and its response returned. -/
  | atomicAtHome (core : Nat) (slot : Nat)
  /-- R393: A walker translates an address and fills the translation cache. -/
  | pageWalk (cluster : Nat) (ctx : Nat) (va : Word)
  /-- R399: A translation, data-cache line or instruction block reaches its expiry and becomes absent. -/
  | leaseExpiry (cluster : Nat)
  /-- R238: The memory engine runs a weighted deficit round-robin round over its queues. -/
  | cmeArbitrationRound (cluster : Nat)
  /-- R245: The engine moves one unit of a copy, or stops the copy at a fault. -/
  | copyUnit (core : Nat) (seq : Nat)
  /-- R409: A copy walks a page whose translation nears expiry and continues, stalls or fails 0x62. -/
  | copyLeaseRenewal (core : Nat) (seq : Nat)
  /-- R295: A pass reaches the OMU, is checked and staged with a tl1 number. -/
  | passArrival (core : Nat) (slot : Nat)
  /-- R294: The oldest staged pass enters IN-FLIGHT and streams its symbols. -/
  | passStreamStart (cluster : Nat)
  /-- R294: The last symbol of a pass is detected and it becomes HELD. -/
  | passDetected (cluster : Nat)
  /-- R303: The OMU probes a bank, closing its window; measured are the 512 responses that its detectors give, in codes. -/
  | omuProbe (cluster : Nat) (bank : Nat) (measured : List Int)
  /-- R319: The OMU closes the window, reads and checks the image, loads and probes the bank. -/
  | omuPhld (cluster : Nat) (measured : List Int)
  /-- R319: The OMU adjusts attenuator and output phase codes of a bank and probes it. -/
  | omuPhtrim (cluster : Nat) (trims : List (Nat × Nat)) (measured : List Int)
  /-- R319: The OMU writes a bank's codes and header as an image. -/
  | omuPhrd (cluster : Nat)
  /-- R319: The OMU runs the closing probe and makes the bank not loaded. -/
  | omuPhinv (cluster : Nat)
  /-- R314: The OMU zeroes a tile and clears its poison. -/
  | omuTzero (cluster : Nat)
  /-- R314: The OMU adds one F32 tile into another. -/
  | omuTacc (cluster : Nat)
  /-- R311: A decomposition engine writes a phase image and retires the dcmp. -/
  | dcmpExecute (die : Nat)
  /-- R307: The thermal loop updates region errors, DRIFT and OMUSTAT.LOCK. -/
  | omuThermalLoop (cluster : Nat) (errs : List Int)
  /-- R289: A TCFG write waits for operations on the tile, then takes effect and sets OWNER. -/
  | tcfgWrite (core : Nat) (slot : Nat) (n : Nat) (val : Word)
  /-- R309: A write of the probe period, clamped to 1–16, requiring the PHASE right. -/
  | phprobeWrite (core : Nat) (val : Word)
  /-- R309: A write of the largest passing residual, requiring the PHASE right. -/
  | drlimitWrite (core : Nat) (val : Word)
  /-- R309: A write of the core's pass gain, with 13–15 stored as 12. -/
  | gainWrite (core : Nat) (val : Word)
  /-- R336: The sender's memory engine reads an entry's source and delivers words to the receiver. -/
  | exchangeEntryRun (core : Nat)
  /-- R324: All deliveries performed; the vote is reduced and staggered release starts. -/
  | groupEnterReleasing (kid : Nat) (level : Nat) (gid : Nat)
  /-- R338: A member's staggered release takes effect, invalidating its data cache and writing VOTE. -/
  | memberRelease (core : Nat)
  /-- R327: The Dealer detects members waiting at different levels and breaks the groups. -/
  | levelConflictDetect (kid : Nat)
  /-- R343: A member module becomes unreachable without a planned change and level-4 groups break. -/
  | peerLoss (kid : Nat)
  /-- R348: The host writes a queue's TAIL to its doorbell. -/
  | doorbellWrite (ctx : Nat) (q : Nat) (tail : Nat)
  /-- R353: The device takes a record from a queue, validates it and makes it QUEUED. -/
  | launchRecordTake (ctx : Nat) (q : Nat)
  /-- R365: The MGC answers a klaunch, accepting or refusing the record. -/
  | klaunchMgcAnswer (core : Nat) (slot : Nat)
  /-- R353: A queued kernel's waits are satisfied in queue order and it becomes ELIGIBLE. -/
  | kernelEligible (kid : Nat)
  /-- R353: A queued kernel's wait timeline has ERR and it ends FAULTED without starting. -/
  | kernelDependenceFault (kid : Nat)
  /-- R355: The MGC writes slot-table entries with GMEM and CAP values for a task. -/
  | bindEntryWrite (core : Nat) (shadow : Bool) (write : BindWrite)
  /-- R353: Every task exited and every operation retired; the kernel completes or awaits audit. -/
  | kernelDrainComplete (kid : Nat)
  /-- R368: Both instances ended; output regions are compared by class. -/
  | replayCompare (kid : Nat)
  /-- R353: A task is killed for a fatal fault and the kernel becomes FAULTED. -/
  | kernelKill (kid : Nat)
  /-- R362: The MGC halts a partition of tasks and dispatch saves them and starts replacements. -/
  | preemptPartition (cores : List Nat)
  /-- R361: A priority-3 kernel ELIGIBLE for 1 ms pre-empts priority 0–1 kernels. -/
  | priorityWaitTimeout (kid : Nat)
  /-- R371: The host passes a context descriptor; the MGC checks or refuses it. -/
  | contextCreateRequest (ctx : Nat) (desc : CtxDesc) (keyHeld : Bool)
  /-- R347: The host driver registers a launch queue's ring, size, cap and counter. -/
  | queueRegister (ctx : Nat) (q : Nat) (ring : Nat) (logq : Nat) (cap : Nat)
  /-- R374: A built context becomes ACTIVE and begins taking records. -/
  | contextActivate (ctx : Nat) (attested : Bool)
  /-- R374: A suspend request stops taking records and swaps every task to FRAME. -/
  | contextSuspend (ctx : Nat)
  /-- R374: A resume request makes the context ACTIVE again. -/
  | contextResume (ctx : Nat)
  /-- R374: A destroy request kills every task and faults unfinished kernels. -/
  | contextDestroy (ctx : Nat)
  /-- R374: Teardown completes and the CTXID is released. -/
  | contextFree (ctx : Nat)
  /-- R376: A core hands a stopping fault to its die's MGC. -/
  | faultHandover (core : Nat) (slot : Nat)
  /-- R380: The MGC resumes, kills or reflects a fault. -/
  | faultResolution (core : Nat) (slot : Nat) (choice : DebugChoice)
  /-- R379: Ring space appears and the MGC writes backlogged records. -/
  | faultRingSpace (ctx : Nat)
  /-- R383: Firmware cannot make a page present and the thread gets 0x10 with KIND 2. -/
  | missEscalate (core : Nat) (slot : Nat)
  /-- R402: A slot edge arrives and the chip-time copy updates its state. -/
  | slotEdge (tu : TimeUnit) (err : Int)
  /-- R402: No edge arrives for one slot or 64 slots and the copy enters HOLD or UNSYNC. -/
  | slotEdgeTimeout (tu : TimeUnit)
  /-- R411: The host sends an ATS Invalidation Request. -/
  | atsInvalidationRequest (va : Word) (len : Nat)
  /-- R411: The lease wait ends and the device sends the Invalidation Completion. -/
  | atsInvalidationCompletion (idx : Nat)
  /-- R412: A release notice stops translation, writes back Modified lines and acknowledges. -/
  | dcdReleaseNotice (va : Word) (len : Nat)
  /-- R412: A forced release discards lines and records the extent in the poison list. -/
  | dcdForcedRelease (va : Word) (len : Nat)
  /-- R429: A receiver accepts or discards a flit and handles ACK, NAK and credits. -/
  | flitReceive (port : Nat) (lane : Nat) (bytes : List Byte) (wrong : List Nat)
  /-- R429: Every 200 ns after a discard the receiver sends a NAK. -/
  | nakTimer (port : Nat) (lane : Nat)
  /-- R429: The receiver acknowledges at least every 100 ns. -/
  | ackTimer (port : Nat) (lane : Nat)
  /-- R434: An IDLE flit with the timing advertisement is sent at least every 1 µs. -/
  | idleFlitTimer (port : Nat)
  /-- R430: The fabric manager enables a port, which lights lanes and trains. -/
  | portEnable (port : Nat)
  /-- R430: Clock and codewords lock: the locked wavelengths of the first lane and of the others. -/
  | portLock (port : Nat) (first : Nat) (rest : List Nat)
  /-- R430: The lock exchange completes and the port opens or is fenced. -/
  | portLockExchangeDone (port : Nat) (peer : Nat) (told : LockTold)
  /-- R430: No lock within 1 ms fences the port. -/
  | portLockTimeout (port : Nat)
  /-- R430: Loss of light or the replay repeat limit moves the port to RELOCK. -/
  | portLightLoss (port : Nat)
  /-- R430: The switch controller fences a port. -/
  | portFence (port : Nat)
  /-- R430: The fabric manager disables a port, darkening its lanes. -/
  | portDisable (port : Nat)
  /-- R430: Every wavelength and lane is restored and the port returns to UP. -/
  | portRestore (port : Nat)
  /-- R431: A wavelength's error ratio exceeds 10^-4 over 1 ms and a FAILOVER flit is sent. -/
  | wavelengthErrorDrop (port : Nat) (lane : Nat) (wave : Nat) (codeword : Nat)
  /-- R431: At the named codeword both ends spread codewords over 7 wavelengths. -/
  | wavelengthSwitchover (port : Nat) (lane : Nat)
  /-- R437: The SWC chooses an allowed candidate port by the turn rule and forwards a packet. -/
  | packetForward (idx : Nat)
  /-- R438: The switch controller validates and installs a routing table. -/
  | routingTableInstall (table : List (Nat × Nat)) (fabric : List FabNode)
  /-- R439: A target performs a remote request, or answers a repeat from its record. -/
  | remoteRequestReceive (pkt : Packet)
  /-- R439: A remote operation's response returns to the requester. -/
  | remoteResponseReceive (pkt : Packet)
  /-- R439: A request unanswered for 20 µs is sent again with its OPSEQ. -/
  | remoteRetryTimeout (target : Nat) (opseq : Nat)
  /-- R440: A request unanswered for 100 µs is abandoned with its outcome. -/
  | remoteAbandonTimeout (target : Nat) (opseq : Nat)
  /-- R439: A target's record of a performed OPSEQ expires after 200 µs. -/
  | targetRecordExpiry (src : Nat) (opseq : Nat)
  /-- R442: The switch controller validates a planned change, installs the interim table and drains ports. -/
  | changeRequest (ch : Change) (fabric : List FabNode × List FabNode)
  /-- R442: A draining port's replay buffers are empty; DRAIN flits exchanged; it reports ready. -/
  | portDrainComplete (port : Nat)
  /-- R442: The fabric manager's circuits-ready message starts relock to new peers. -/
  | circuitsReady
  /-- R442: The last affected port is up; the final table is installed and CHGEP raised. -/
  | changeFinalInstall
  /-- R445: The fabric manager writes an intensity-reduce session entry. -/
  | irSessionWrite (n : Nat) (sess : Option IrSession)
  /-- R446: In a scheduled slot senders launch and the receiver detects the summed intensity. -/
  | irSlotTransfer (n : Nat) (slot : Nat) (light : List (Nat × List Nat)) (noise : List Int) (lowMargin : Bool)
  /-- R452: The switch controller answers a MGMT read of laser records. -/
  | mgmtReadRequest (port : Nat) (src : Nat) (line : Nat)
  /-- R458: A host CXL.mem read returns data with any poison indication. -/
  | cxlMemRead (pa : Nat) (len : Nat)
  /-- R458: A host CXL.mem write sets granule poison from its indication. -/
  | cxlMemWrite (pa : Nat) (data : List Byte) (poison : Bool)
  /-- R464: A fatal host-link error puts the device in containment. -/
  | hostLinkFatalError
  /-- R465: A CXL reset ends containment and every context. -/
  | cxlReset
  /-- R454: An uncorrectable storage error poisons the affected granules. -/
  | uncorrectableMemoryError (err : MemError)
  /-- R454: A register parity error sets poison or raises 0x53. -/
  | registerParityError (core : Nat) (slot : Nat) (what : ParityAt)
  /-- R459: A corrected error is counted in POISCNT.CORR. -/
  | correctedError (core : Nat)
  /-- R461: Firmware withdraws a failed unit and sets its WDMAP bit. -/
  | unitWithdraw (kind : UnitKind) (idx : Nat)
  /-- R466: Every 10 µs a stack samples temperature and changes thermal state. -/
  | stackThermalSample (stack : Nat) (temp : Int)
  /-- R469: Every 2 ms in SELF the MGC writes 0x52 KIND 5 for contexts with held accesses. -/
  | selfHoldNotice (stack : Nat)
  /-- R470: A stack is lost and its accesses end poisoned or with 0x53. -/
  | stackLost (stack : Nat)
  /-- R471: The stack controller scrubs codewords and poisons uncorrectable granules. -/
  | stackScrub (stack : Nat)
  /-- R471: The stack controller copies a failing row into a spare. -/
  | rowRepair (stack : Nat) (row : Nat)
  /-- R472: A stack controller sends a summary message to the PSC. -/
  | stackMailboxMessage (stack : Nat) (msg : StackMsg)
  /-- R479: A firmware image is written to the staging area. -/
  | imageStage (img : FwImage)
  /-- R477: The PSC verifies a staged image or discards it. -/
  | imageVerify (kind : Nat)
  /-- R479: A verified image is loaded into inactive slots and started. -/
  | handoverRequest (kind : Nat)
  /-- R482: The new image replays snapshot and delta log and reports caught up. -/
  | imageCatchUp (kind : Nat) (inst : Nat)
  /-- R482: The old image stops at an event boundary and the event queue passes to the new image. -/
  | switchOver (kind : Nat) (inst : Nat)
  /-- R479: A new image fails to catch up within 100 ms and is rolled back. -/
  | catchUpTimeout (kind : Nat) (inst : Nat)
  /-- R484: A new image in probation sends a heartbeat to the PSC. -/
  | heartbeat (kind : Nat) (inst : Nat)
  /-- R484: 4 ms pass without a heartbeat and the instances fall back. -/
  | heartbeatMissed (kind : Nat) (inst : Nat)
  /-- R479: 1 s after the last switch-over with heartbeats in time, the image is committed. -/
  | probationCommit (kind : Nat)
  /-- R480: A new PSC image fails to report step 1 within 1 s and the previous one boots. -/
  | pscImageBootTimeout
  /-- R478: A mailbox request raises the fused minimum SVN of a kind. -/
  | svnMinimumRaise (kind : Nat) (min : Nat)
  /-- R488: The PSC returns a signed quote of measurements and versions. -/
  | quoteRequest (ctx : Nat) (nonce : List Byte) (tag : Nat)
  /-- R491: A debugger stops a core at instruction boundaries. -/
  | debugStopRequest (core : Nat) (auth : Bool)
  /-- R492: A debugger resumes a core and queued messages are applied in order. -/
  | debugResumeRequest (core : Nat) (auth : Bool)
  /-- R499: Every 64 ns a level monitor samples its event into the histogram. -/
  | monitorSample (core : Nat) (mon : Nat) (v : Nat)
  /-- R499: A MONCFG write configures a monitor and clears it. -/
  | moncfgWrite (core : Nat) (n : Nat) (val : Word)
  /-- R493: A control-thread write of PMCTL sets the table controls and clears OVR. -/
  | pmctlWrite (core : Nat) (slot : Nat) (val : Word)
  /-- R498: A control-thread write of TRBASE stores the ring with LOGN clamped. -/
  | trbaseWrite (core : Nat) (slot : Nat) (val : Word)
  /-- R171: A write to a CSR with no row of its own takes effect for later instructions. -/
  | csrWrite (core : Nat) (slot : Nat) (num : Nat) (val : Word)
  /-- R406: Firmware stores a page-table leaf (present, MIG set or cleared, revoked or poisoned), so that waiting accesses, stalled copies and
  stalled exchanges walk again. -/
  | firmwareLeafStore (ctx : Nat) (pa : Nat) (val : Word) (cls : Nat) (peer : Bool)
  /-- R405: Chip time reaches T_w + L + 2S after a revocation, and the page leaves REVOKED-WAITING with its old frame free for reuse. -/
  | frameReuseWaitElapsed (idx : Nat)
  /-- R479: A new firmware image traps, or reports a fatal error of its own, during HANDOVER or PROBATION, and is rolled back. -/
  | newImageTrap (kind : Nat) (inst : Nat)
  /-- R488: An authenticated request of a confidential tenant reaches the PSC and, for example, sets IMBAL or TRACE of its context. -/
  | tenantAuthenticatedRequest (ctx : Nat) (imbal : Bool) (trace : Bool) (tag : Nat)
deriving DecidableEq, Repr

end Sys2Proof
end

