-- ==== Sys2Proof/WellFormed.lean ====
section
/-! DEFINITION. Well-formedness: the values that the encoding rules reserve (R49 check 5, R55 to R58, R61 to R63, R141,
R166, R196 to R214, R231, R243, R312 to R318, R328, R333, R365, R447). The decoder refuses what fails it. -/

namespace Sys2Proof

/-- How a VX register field is used: any register, none (zero), or a predicate in its low three bits (R51, R58). -/
inductive VxUse where
  | any
  | zero
  | pred
deriving DecidableEq, Repr

/-- How PG and ZM are used: governed, governed with ZM = 0, or both zero. -/
inductive VxGov where
  | governed
  | merge
  | ungoverned
deriving DecidableEq, Repr

/-- How IMM9 is used (R198, R201 to R205, R210). -/
inductive VxImm where
  | zero
  | any
  | le1
  | index
  | cvt
  | narrow
  | widen
  | pack
deriving DecidableEq, Repr

/-- The fields that one VX function accepts. -/
structure VxRule where
  ets : Nat
  vd  : VxUse := .any
  va  : VxUse := .any
  vb  : VxUse := .any
  vc  : VxUse := .zero
  xs  : Bool := false
  sat : Bool := false
  rm  : Bool := false
  gov : VxGov := .governed
  imm : VxImm := .zero
deriving DecidableEq, Repr

/-- Whether a register field is used as its rule says. -/
def VxUse.ok (u : VxUse) (r : Reg) : Bool :=
  match u with
  | .any => true
  | .zero => r.toNat == 0
  | .pred => r.toNat < 8

/-- The width in bits of element type code e, 0 for the codes that are no lane type (R56, R190). -/
def etWidth (e : Nat) : Nat :=
  match e with
  | 0 | 4 | 12 | 13 => 8
  | 1 | 5 | 8 | 9 => 16
  | 2 | 6 | 10 => 32
  | 3 | 7 | 11 => 64
  | _ => 0

/-- Whether IMM9, with XS, VB and ET, is used as the rule says. -/
def VxImm.ok (u : VxImm) (f : VX) : Bool :=
  let i := f.imm.toNat
  let w := etWidth f.et.toNat
  let sw := etWidth (i % 16)
  match u with
  | .zero => i == 0
  | .any => true
  | .le1 => i ≤ 1
  | .index => if f.xs then i == 0 else f.vb.toNat == 0
  | .cvt => i < 16 && sw != 0 && sw == w
  | .narrow => i < 64 && sw != 0 && ((sw == 2 * w && i / 16 < 2) || (sw == 4 * w && i / 16 < 4))
  | .widen => i < 64 && sw != 0 && ((2 * sw == w && i / 16 < 2) || (4 * sw == w && i / 16 < 4))
  | .pack => 1 ≤ i && i ≤ 7

/-- Whether a VX instruction uses its fields as its function's rule says (R54 to R58, R196). -/
def vxOk (r : VxRule) (f : VX) : Bool :=
  bitAt r.ets f.et.toNat && r.vd.ok f.vd && r.va.ok f.va && r.vb.ok f.vb && r.vc.ok f.vc
  && (r.xs || !f.xs) && (r.sat || !f.sat) && (if r.rm then f.rm.toNat ≤ 4 else f.rm.toNat == 0)
  && (match r.gov with
      | .governed => true
      | .merge => !f.zm
      | .ungoverned => !f.zm && f.pg.toNat == 0)
  && r.imm.ok f

/-- What the literal form asks beside: XS and VB zero, no packed type (R55). -/
def litOk (f : VX) : Bool := !f.xs && f.vb.toNat == 0 && f.et.toNat < 14

/-- What well-formedness asks of each instruction beside the widths of its fields: the reserved values of R49 check 5. -/
def Instr.wf : Instr → Bool
  | .nop => true
  | .fence n => decide (n.toNat ≤ 5)
  | .trap _ => true
  | .bkpt _ => true
  | .tret => true
  | .pmret => true
  | .iflush => true
  | .yield => true
  | .ill _ => true
  | .add _ _ _ => true
  | .sub _ _ _ => true
  | .and _ _ _ => true
  | .or _ _ _ => true
  | .xor _ _ _ => true
  | .andn _ _ _ => true
  | .orn _ _ _ => true
  | .xnor _ _ _ => true
  | .shl _ _ _ => true
  | .shr _ _ _ => true
  | .sra _ _ _ => true
  | .rol _ _ _ => true
  | .ror _ _ _ => true
  | .slt _ _ _ => true
  | .sltu _ _ _ => true
  | .seq _ _ _ => true
  | .sne _ _ _ => true
  | .min _ _ _ => true
  | .max _ _ _ => true
  | .minu _ _ _ => true
  | .maxu _ _ _ => true
  | .addw _ _ _ => true
  | .subw _ _ _ => true
  | .shlw _ _ _ => true
  | .shrw _ _ _ => true
  | .sraw _ _ _ => true
  | .addi _ _ _ => true
  | .andi _ _ _ => true
  | .ori _ _ _ => true
  | .xori _ _ _ => true
  | .shli _ _ _ => true
  | .shri _ _ _ => true
  | .srai _ _ _ => true
  | .roli _ _ _ => true
  | .rori _ _ _ => true
  | .slti _ _ _ => true
  | .sltui _ _ _ => true
  | .seqi _ _ _ => true
  | .snei _ _ _ => true
  | .ldb _ _ _ => true
  | .ldh _ _ _ => true
  | .ldw _ _ _ => true
  | .ldd _ _ _ => true
  | .ldbz _ _ _ => true
  | .ldhz _ _ _ => true
  | .ldwz _ _ _ => true
  | .stb _ _ _ => true
  | .sth _ _ _ => true
  | .stw _ _ _ => true
  | .std _ _ _ => true
  | .beq _ _ _ => true
  | .bne _ _ _ => true
  | .blt _ _ _ => true
  | .bge _ _ _ => true
  | .bltu _ _ _ => true
  | .bgeu _ _ _ => true
  | .bbs _ _ _ => true
  | .bbc _ _ _ => true
  | .beqLong _ _ _ => true
  | .bneLong _ _ _ => true
  | .bltLong _ _ _ => true
  | .bgeLong _ _ _ => true
  | .bltuLong _ _ _ => true
  | .bgeuLong _ _ _ => true
  | .bbsLong _ _ _ => true
  | .bbcLong _ _ _ => true
  | .j _ => true
  | .jal _ => true
  | .jLong _ => true
  | .jalLong _ => true
  | .jr _ _ => true
  | .jalr _ _ => true
  | .jtab _ _ => true
  | .mul _ _ _ => true
  | .mulh _ _ _ => true
  | .mulhu _ _ _ => true
  | .mulhsu _ _ _ => true
  | .mulw _ _ _ => true
  | .div _ _ _ => true
  | .divu _ _ _ => true
  | .rem _ _ _ => true
  | .remu _ _ _ => true
  | .divw _ _ _ => true
  | .remw _ _ _ => true
  | .clz _ _ => true
  | .ctz _ _ => true
  | .popc _ _ => true
  | .brev _ _ => true
  | .bswap _ _ => true
  | .fnsb _ _ _ => true
  | .clzw _ _ => true
  | .ctzw _ _ => true
  | .popcw _ _ => true
  | .bfx _ _ _ => true
  | .bfxu _ _ _ => true
  | .bfi _ _ _ => true
  | .bfmsk _ _ => true
  | .bfxi _ _ _ _ => true
  | .bfxui _ _ _ _ => true
  | .bfii _ _ _ _ => true
  | .fadd _ _ _ _ => true
  | .fsub _ _ _ _ => true
  | .fmul _ _ _ _ => true
  | .fdiv _ _ _ _ => true
  | .fsqrt _ _ _ => true
  | .fmin _ _ _ _ => true
  | .fmax _ _ _ _ => true
  | .fminn _ _ _ _ => true
  | .fmaxn _ _ _ _ => true
  | .fsgnj _ _ _ _ => true
  | .fsgnjn _ _ _ _ => true
  | .fsgnjx _ _ _ _ => true
  | .feq _ _ _ _ => true
  | .flt _ _ _ _ => true
  | .fle _ _ _ _ => true
  | .fclass _ _ _ => true
  | .fcvt _ _ _ src => decide (src.toNat < 6)
  | .fcvti _ _ _ rm _ => decide (rm.toNat ≤ 4)
  | .fcvtu _ _ _ rm _ => decide (rm.toNat ≤ 4)
  | .icvtf _ _ _ rm _ => decide (rm.toNat ≤ 4)
  | .ucvtf _ _ _ rm _ => decide (rm.toNat ≤ 4)
  | .fma _ rm _ _ _ _ => decide (rm.toNat ≤ 4)
  | .fms _ rm _ _ _ _ => decide (rm.toNat ≤ 4)
  | .fnma _ rm _ _ _ _ => decide (rm.toNat ≤ 4)
  | .fnms _ rm _ _ _ _ => decide (rm.toNat ≤ 4)
  | .csrr _ _ => true
  | .csrw _ _ _ => true
  | .csrs _ _ _ => true
  | .csrc _ _ _ => true
  | .amoadd _ _ _ _ => true
  | .amoand _ _ _ _ => true
  | .amoor _ _ _ _ => true
  | .amoxor _ _ _ _ => true
  | .amomin _ _ _ _ => true
  | .amomax _ _ _ _ => true
  | .amominu _ _ _ _ => true
  | .amomaxu _ _ _ _ => true
  | .amoswp _ _ _ _ => true
  | .amocas _ _ _ _ => true
  | .acq _ _ => true
  | .rel _ => true
  | .tryacq _ _ _ => true
  | .bind _ _ _ => true
  | .unbind _ _ => true
  | .pref _ _ => true
  | .wbf => true
  | .ldro _ _ => true
  | .hstart _ _ _ => true
  | .hjoin _ _ => true
  | .hexit _ => true
  | .hpeek _ _ => true
  | .waittl _ _ => true
  | .kexit _ => true
  | .rdv _ _ _ count => decide (1 ≤ count.toNat ∧ count.toNat ≤ 16)
  | .rdvadd _ _ _ count => decide (1 ≤ count.toNat ∧ count.toNat ≤ 16)
  | .rdvmax _ _ _ count => decide (1 ≤ count.toNat ∧ count.toNat ≤ 16)
  | .rdvor _ _ _ count => decide (1 ≤ count.toNat ∧ count.toNat ≤ 16)
  | .li _ _ => true
  | .liz _ _ => true
  | .lihi _ _ _ => true
  | .addl _ _ _ => true
  | .andl _ _ _ => true
  | .orl _ _ _ => true
  | .xorl _ _ _ => true
  | .sltl _ _ _ => true
  | .vadd f => vxOk { ets := 0xff, xs := true, sat := true } f
  | .vsub f => vxOk { ets := 0xff, xs := true, sat := true } f
  | .vmul f => vxOk { ets := 0xff, xs := true, sat := true } f
  | .vmulh f => vxOk { ets := 0xff, xs := true } f
  | .vmadd f => vxOk { ets := 0xff, vc := .any, xs := true, sat := true } f
  | .vabs f => vxOk { ets := 0xf, va := .zero, xs := true, sat := true } f
  | .vneg f => vxOk { ets := 0xf, va := .zero, xs := true, sat := true } f
  | .vmin f => vxOk { ets := 0xff, xs := true } f
  | .vmax f => vxOk { ets := 0xff, xs := true } f
  | .vadds f => vxOk { ets := 0xff, xs := true } f
  | .vsubs f => vxOk { ets := 0xff, xs := true } f
  | .vavg f => vxOk { ets := 0xff, xs := true } f
  | .vshl f => vxOk { ets := 0xff, xs := true, sat := true } f
  | .vshr f => vxOk { ets := 0xff, xs := true } f
  | .vsra f => vxOk { ets := 0xff, xs := true } f
  | .vdot4 f => vxOk { ets := 0x44, xs := true, sat := true } f
  | .vmov f => vxOk { ets := 0xff, va := .zero, xs := true } f
  | .vaddLit f _ => vxOk { ets := 0xff, xs := true, sat := true } f && litOk f
  | .vsubLit f _ => vxOk { ets := 0xff, xs := true, sat := true } f && litOk f
  | .vmulLit f _ => vxOk { ets := 0xff, xs := true, sat := true } f && litOk f
  | .vmulhLit f _ => vxOk { ets := 0xff, xs := true } f && litOk f
  | .vmaddLit f _ => vxOk { ets := 0xff, vc := .any, xs := true, sat := true } f && litOk f
  | .vabsLit f _ => vxOk { ets := 0xf, va := .zero, xs := true, sat := true } f && litOk f
  | .vnegLit f _ => vxOk { ets := 0xf, va := .zero, xs := true, sat := true } f && litOk f
  | .vminLit f _ => vxOk { ets := 0xff, xs := true } f && litOk f
  | .vmaxLit f _ => vxOk { ets := 0xff, xs := true } f && litOk f
  | .vaddsLit f _ => vxOk { ets := 0xff, xs := true } f && litOk f
  | .vsubsLit f _ => vxOk { ets := 0xff, xs := true } f && litOk f
  | .vavgLit f _ => vxOk { ets := 0xff, xs := true } f && litOk f
  | .vshlLit f _ => vxOk { ets := 0xff, xs := true, sat := true } f && litOk f
  | .vshrLit f _ => vxOk { ets := 0xff, xs := true } f && litOk f
  | .vsraLit f _ => vxOk { ets := 0xff, xs := true } f && litOk f
  | .vdot4Lit f _ => vxOk { ets := 0x44, xs := true, sat := true } f && litOk f
  | .vmovLit f _ => vxOk { ets := 0xff, va := .zero, xs := true } f && litOk f
  | .vfadd f => vxOk { ets := 0xf00, xs := true, sat := true, rm := true } f
  | .vfsub f => vxOk { ets := 0xf00, xs := true, sat := true, rm := true } f
  | .vfmul f => vxOk { ets := 0xf00, xs := true, sat := true, rm := true } f
  | .vfdiv f => vxOk { ets := 0xf00, xs := true, sat := true, rm := true } f
  | .vfsqrt f => vxOk { ets := 0xf00, va := .zero, xs := true, sat := true, rm := true } f
  | .vfma f => vxOk { ets := 0xf00, vc := .any, xs := true, sat := true, rm := true } f
  | .vfms f => vxOk { ets := 0xf00, vc := .any, xs := true, sat := true, rm := true } f
  | .vfnma f => vxOk { ets := 0xf00, vc := .any, xs := true, sat := true, rm := true } f
  | .vfmin f => vxOk { ets := 0xf00, xs := true, imm := .le1 } f
  | .vfmax f => vxOk { ets := 0xf00, xs := true, imm := .le1 } f
  | .vfabs f => vxOk { ets := 0xf00, va := .zero, xs := true } f
  | .vfneg f => vxOk { ets := 0xf00, va := .zero, xs := true } f
  | .vfaddLit f _ => vxOk { ets := 0xf00, xs := true, sat := true, rm := true } f && litOk f
  | .vfsubLit f _ => vxOk { ets := 0xf00, xs := true, sat := true, rm := true } f && litOk f
  | .vfmulLit f _ => vxOk { ets := 0xf00, xs := true, sat := true, rm := true } f && litOk f
  | .vfdivLit f _ => vxOk { ets := 0xf00, xs := true, sat := true, rm := true } f && litOk f
  | .vfsqrtLit f _ => vxOk { ets := 0xf00, va := .zero, xs := true, sat := true, rm := true } f && litOk f
  | .vfmaLit f _ => vxOk { ets := 0xf00, vc := .any, xs := true, sat := true, rm := true } f && litOk f
  | .vfmsLit f _ => vxOk { ets := 0xf00, vc := .any, xs := true, sat := true, rm := true } f && litOk f
  | .vfnmaLit f _ => vxOk { ets := 0xf00, vc := .any, xs := true, sat := true, rm := true } f && litOk f
  | .vfminLit f _ => vxOk { ets := 0xf00, xs := true, imm := .le1 } f && litOk f
  | .vfmaxLit f _ => vxOk { ets := 0xf00, xs := true, imm := .le1 } f && litOk f
  | .vfabsLit f _ => vxOk { ets := 0xf00, va := .zero, xs := true } f && litOk f
  | .vfnegLit f _ => vxOk { ets := 0xf00, va := .zero, xs := true } f && litOk f
  | .vand f => vxOk { ets := 0x3fff, xs := true } f
  | .vor f => vxOk { ets := 0x3fff, xs := true } f
  | .vxor f => vxOk { ets := 0x3fff, xs := true } f
  | .vandn f => vxOk { ets := 0x3fff, xs := true } f
  | .vnot f => vxOk { ets := 0x3fff, va := .zero, xs := true } f
  | .vpopc f => vxOk { ets := 0xff, va := .zero, xs := true } f
  | .vclz f => vxOk { ets := 0xff, va := .zero, xs := true } f
  | .vctz f => vxOk { ets := 0xff, va := .zero, xs := true } f
  | .vbrev f => vxOk { ets := 0xff, va := .zero, xs := true } f
  | .vfnsb f => vxOk { ets := 0xff, xs := true } f
  | .vbfx f => vxOk { ets := 0xff, xs := true } f
  | .vandLit f _ => vxOk { ets := 0x3fff, xs := true } f && litOk f
  | .vorLit f _ => vxOk { ets := 0x3fff, xs := true } f && litOk f
  | .vxorLit f _ => vxOk { ets := 0x3fff, xs := true } f && litOk f
  | .vandnLit f _ => vxOk { ets := 0x3fff, xs := true } f && litOk f
  | .vnotLit f _ => vxOk { ets := 0x3fff, va := .zero, xs := true } f && litOk f
  | .vpopcLit f _ => vxOk { ets := 0xff, va := .zero, xs := true } f && litOk f
  | .vclzLit f _ => vxOk { ets := 0xff, va := .zero, xs := true } f && litOk f
  | .vctzLit f _ => vxOk { ets := 0xff, va := .zero, xs := true } f && litOk f
  | .vbrevLit f _ => vxOk { ets := 0xff, va := .zero, xs := true } f && litOk f
  | .vfnsbLit f _ => vxOk { ets := 0xff, xs := true } f && litOk f
  | .vbfxLit f _ => vxOk { ets := 0xff, xs := true } f && litOk f
  | .vcmpeq f => vxOk { ets := 0xff, vd := .pred, xs := true } f
  | .vcmpne f => vxOk { ets := 0xff, vd := .pred, xs := true } f
  | .vcmplt f => vxOk { ets := 0xff, vd := .pred, xs := true } f
  | .vcmple f => vxOk { ets := 0xff, vd := .pred, xs := true } f
  | .vcmpltu f => vxOk { ets := 0xff, vd := .pred, xs := true } f
  | .vcmpleu f => vxOk { ets := 0xff, vd := .pred, xs := true } f
  | .vfcmpeq f => vxOk { ets := 0xf00, vd := .pred, xs := true } f
  | .vfcmplt f => vxOk { ets := 0xf00, vd := .pred, xs := true } f
  | .vfcmple f => vxOk { ets := 0xf00, vd := .pred, xs := true } f
  | .vfcmpun f => vxOk { ets := 0xf00, vd := .pred, xs := true } f
  | .vcmpeqLit f _ => vxOk { ets := 0xff, vd := .pred, xs := true } f && litOk f
  | .vcmpneLit f _ => vxOk { ets := 0xff, vd := .pred, xs := true } f && litOk f
  | .vcmpltLit f _ => vxOk { ets := 0xff, vd := .pred, xs := true } f && litOk f
  | .vcmpleLit f _ => vxOk { ets := 0xff, vd := .pred, xs := true } f && litOk f
  | .vcmpltuLit f _ => vxOk { ets := 0xff, vd := .pred, xs := true } f && litOk f
  | .vcmpleuLit f _ => vxOk { ets := 0xff, vd := .pred, xs := true } f && litOk f
  | .vfcmpeqLit f _ => vxOk { ets := 0xf00, vd := .pred, xs := true } f && litOk f
  | .vfcmpltLit f _ => vxOk { ets := 0xf00, vd := .pred, xs := true } f && litOk f
  | .vfcmpleLit f _ => vxOk { ets := 0xf00, vd := .pred, xs := true } f && litOk f
  | .vfcmpunLit f _ => vxOk { ets := 0xf00, vd := .pred, xs := true } f && litOk f
  | .plen f => vxOk { ets := 0x3fff, vd := .pred, vb := .zero, gov := .ungoverned } f
  | .plenu f => vxOk { ets := 0x3fff, vd := .pred, vb := .zero, gov := .ungoverned } f
  | .pand f => vxOk { ets := 0x3fff, vd := .pred, va := .pred, vb := .pred } f
  | .por f => vxOk { ets := 0x3fff, vd := .pred, va := .pred, vb := .pred } f
  | .pxor f => vxOk { ets := 0x3fff, vd := .pred, va := .pred, vb := .pred } f
  | .pnot f => vxOk { ets := 0x3fff, vd := .pred, va := .zero, vb := .pred } f
  | .pcnt f => vxOk { ets := 0x3fff, va := .zero, vb := .pred, gov := .merge } f
  | .pfirst f => vxOk { ets := 0x3fff, va := .zero, vb := .pred, gov := .merge } f
  | .pany f => vxOk { ets := 0x3fff, va := .zero, vb := .pred, gov := .merge } f
  | .pset f => vxOk { ets := 0x3fff, vd := .pred, va := .zero, vb := .zero, gov := .ungoverned, imm := .any } f
  | .vlanes f => vxOk { ets := 0x3fff, va := .zero, vb := .zero, gov := .ungoverned } f
  | .vbcast f => vxOk { ets := 0x3fff, xs := true, imm := .index } f
  | .vextr f => vxOk { ets := 0x3fff, xs := true, gov := .ungoverned, imm := .index } f
  | .vins f => vxOk { ets := 0x3fff, xs := true, gov := .ungoverned, imm := .index } f
  | .vslideup f => vxOk { ets := 0x3fff, xs := true, imm := .index } f
  | .vslidedn f => vxOk { ets := 0x3fff, xs := true, imm := .index } f
  | .vperm f => vxOk { ets := 0x3fff } f
  | .vcompress f => vxOk { ets := 0x3fff, vb := .zero, gov := .merge } f
  | .vexpand f => vxOk { ets := 0x3fff, vb := .zero } f
  | .vsel f => vxOk { ets := 0x3fff, xs := true, gov := .merge } f
  | .viota f => vxOk { ets := 0xff, va := .zero, vb := .zero } f
  | .vredadd f => vxOk { ets := 0xff, vb := .zero, gov := .merge } f
  | .vredmin f => vxOk { ets := 0xff, vb := .zero, gov := .merge } f
  | .vredmax f => vxOk { ets := 0xff, vb := .zero, gov := .merge } f
  | .vredminu f => vxOk { ets := 0xff, vb := .zero, gov := .merge } f
  | .vredmaxu f => vxOk { ets := 0xff, vb := .zero, gov := .merge } f
  | .vredand f => vxOk { ets := 0xff, vb := .zero, gov := .merge } f
  | .vredor f => vxOk { ets := 0xff, vb := .zero, gov := .merge } f
  | .vredxor f => vxOk { ets := 0xff, vb := .zero, gov := .merge } f
  | .vfredadd f => vxOk { ets := 0xf00, vb := .zero, rm := true, gov := .merge } f
  | .vfredmin f => vxOk { ets := 0xf00, vb := .zero, gov := .merge, imm := .le1 } f
  | .vfredmax f => vxOk { ets := 0xf00, vb := .zero, gov := .merge, imm := .le1 } f
  | .vcvt f => vxOk { ets := 0x3fff, va := .zero, xs := true, sat := true, rm := true, imm := .cvt } f
  | .vnarrow f => vxOk { ets := 0x3fff, va := .zero, xs := true, sat := true, rm := true, imm := .narrow } f
  | .vwiden f => vxOk { ets := 0x3fff, va := .zero, xs := true, sat := true, rm := true, imm := .widen } f
  | .vpackdx f => vxOk { ets := 0x4000, va := .zero, gov := .ungoverned, imm := .pack } f
  | .vunpkdx f => vxOk { ets := 0x4000, va := .zero, gov := .ungoverned } f
  | .vpackdx4 f => vxOk { ets := 0x8000, va := .zero, gov := .ungoverned, imm := .pack } f
  | .vunpkdx4 f => vxOk { ets := 0x8000, va := .zero, gov := .ungoverned } f
  | .vrcp f => vxOk { ets := 0x700, va := .zero, xs := true } f
  | .vrsqrt f => vxOk { ets := 0x700, va := .zero, xs := true } f
  | .vexp2 f => vxOk { ets := 0x700, va := .zero, xs := true } f
  | .vlog2 f => vxOk { ets := 0x700, va := .zero, xs := true } f
  | .vtanh f => vxOk { ets := 0x700, va := .zero, xs := true } f
  | .vsigm f => vxOk { ets := 0x700, va := .zero, xs := true } f
  | .vsinpi f => vxOk { ets := 0x700, va := .zero, xs := true } f
  | .vcospi f => vxOk { ets := 0x700, va := .zero, xs := true } f
  | .vld f => vxOk { ets := 0x3fff, vb := .zero, imm := .any } f
  | .vlds f => vxOk { ets := 0x3fff, imm := .any } f
  | .vldx f => vxOk { ets := 0x3fff, imm := .any } f
  | .vldb f => vxOk { ets := 0x3fff, vb := .zero, imm := .any } f
  | .vldff f => vxOk { ets := 0x3fff, vb := .zero, vc := .pred, imm := .any } f
  | .vst f => vxOk { ets := 0x3fff, vb := .zero, gov := .merge, imm := .any } f
  | .vsts f => vxOk { ets := 0x3fff, gov := .merge, imm := .any } f
  | .vstx f => vxOk { ets := 0x3fff, gov := .merge, imm := .any } f
  | .vstc f => vxOk { ets := 0x3fff, vb := .zero, gov := .merge, imm := .any } f
  | .vamoadd f => vxOk { ets := 0xcc, gov := .merge, imm := .any } f
  | .vamoor f => vxOk { ets := 0xcc, gov := .merge, imm := .any } f
  | .vamoand f => vxOk { ets := 0xcc, gov := .merge, imm := .any } f
  | .vamomin f => vxOk { ets := 0xcc, gov := .merge, imm := .any } f
  | .vamomax f => vxOk { ets := 0xcc, gov := .merge, imm := .any } f
  | .tld _ _ _ => true
  | .tst _ _ _ => true
  | .tzero _ _ => true
  | .tacc _ _ _ => true
  | .mxp _ _ _ _ => true
  | .mxps _ _ _ _ => true
  | .mxprobe _ _ _ _ => true
  | .phld _ _ _ _ _ => true
  | .phtrim _ _ _ _ => true
  | .phrd _ _ _ _ _ => true
  | .phinv _ _ _ _ => true
  | .dcmp _ _ _ _ _ => true
  | .cpy _ _ _ _ _ => true
  | .cpy2 _ _ _ _ _ _ => true
  | .cpyset _ _ _ _ _ => true
  | .cpytile _ _ _ _ _ _ _ => true
  | .cpycmp _ _ _ _ _ _ => true
  | .splook _ _ _ => true
  | .spevict _ _ => true
  | .spdemote _ => true
  | .sprel _ _ => true
  | .spprio _ _ => true
  | .sync n => decide (1 ≤ n.toNat ∧ n.toNat ≤ 4)
  | .sarrive n => decide (1 ≤ n.toNat ∧ n.toNat ≤ 4)
  | .swait n => decide (1 ≤ n.toNat ∧ n.toNat ≤ 4)
  | .syncv _ _ n op => decide (1 ≤ n.toNat ∧ n.toNat ≤ 4 ∧ op.toNat ≤ 4)
  | .xsend _ _ _ n => decide (1 ≤ n.toNat ∧ n.toNat ≤ 4)
  | .xopen _ n => decide (1 ≤ n.toNat ∧ n.toNat ≤ 4)
  | .xput _ => true
  | .xend => true
  | .klaunch _ _ _ _ => true
  | .kquery _ _ => true
  | .ksignal _ _ => true
  | .lquery _ _ => true
  | .lrenew _ _ => true
  | .pgcnt _ _ => true
  | .ldrain _ _ => true
  | .lstat _ _ sel => decide (sel.toNat ≤ 2)
  | .irsend _ _ _ => true
  | .irrecv _ _ _ => true
  | .pmark _ => true
  | .dstop => true
  | .powerGood _ => true
  | .stackBringup _ => true
  | .combLock _ => true
  | .switchPortTrain _ => true
  | .mgcRelease _ => true
  | .setReady => true
  | .cxlLinkTrain _ _ => true
  | .powerSample _ => true
  | .dieJunctionLimit _ => true
  | .dieJunctionRecover _ => true
  | .combLineBelowThreshold _ _ _ => true
  | .combLineRecover _ _ _ => true
  | .laserTelemetryUpdate _ _ _ => true
  | .issueGroupForm _ => true
  | .handlerInstructionLimit _ => true
  | .deadlockDetect _ => true
  | .sfuEntryComplete _ _ => true
  | .taskStart _ _ => true
  | .taskRestore _ _ => true
  | .taskSave _ _ => true
  | .spinTimeoutSwap _ => true
  | .hexitComplete _ _ => true
  | .kexitComplete _ => true
  | .storePerform _ _ _ => true
  | .accessReissue _ _ => true
  | .atomicAtHome _ _ => true
  | .pageWalk _ _ _ => true
  | .leaseExpiry _ => true
  | .cmeArbitrationRound _ => true
  | .copyUnit _ _ => true
  | .copyLeaseRenewal _ _ => true
  | .passArrival _ _ => true
  | .passStreamStart _ => true
  | .passDetected _ => true
  | .omuProbe _ _ _ => true
  | .omuPhld _ _ => true
  | .omuPhtrim _ _ _ => true
  | .omuPhrd _ => true
  | .omuPhinv _ => true
  | .omuTzero _ => true
  | .omuTacc _ => true
  | .dcmpExecute _ => true
  | .omuThermalLoop _ _ => true
  | .tcfgWrite _ _ _ _ => true
  | .phprobeWrite _ _ => true
  | .drlimitWrite _ _ => true
  | .gainWrite _ _ => true
  | .exchangeEntryRun _ => true
  | .groupEnterReleasing _ _ _ => true
  | .memberRelease _ => true
  | .levelConflictDetect _ => true
  | .peerLoss _ => true
  | .doorbellWrite _ _ _ => true
  | .launchRecordTake _ _ => true
  | .klaunchMgcAnswer _ _ => true
  | .kernelEligible _ => true
  | .kernelDependenceFault _ => true
  | .bindEntryWrite _ _ _ => true
  | .kernelDrainComplete _ => true
  | .replayCompare _ => true
  | .kernelKill _ => true
  | .preemptPartition _ => true
  | .priorityWaitTimeout _ => true
  | .contextCreateRequest _ _ _ => true
  | .queueRegister _ _ _ _ _ => true
  | .contextActivate _ _ => true
  | .contextSuspend _ => true
  | .contextResume _ => true
  | .contextDestroy _ => true
  | .contextFree _ => true
  | .faultHandover _ _ => true
  | .faultResolution _ _ _ => true
  | .faultRingSpace _ => true
  | .missEscalate _ _ => true
  | .slotEdge _ _ => true
  | .slotEdgeTimeout _ => true
  | .atsInvalidationRequest _ _ => true
  | .atsInvalidationCompletion _ => true
  | .dcdReleaseNotice _ _ => true
  | .dcdForcedRelease _ _ => true
  | .flitReceive _ _ _ _ => true
  | .nakTimer _ _ => true
  | .ackTimer _ _ => true
  | .idleFlitTimer _ => true
  | .portEnable _ => true
  | .portLock _ _ _ => true
  | .portLockExchangeDone _ _ _ => true
  | .portLockTimeout _ => true
  | .portLightLoss _ => true
  | .portFence _ => true
  | .portDisable _ => true
  | .portRestore _ => true
  | .wavelengthErrorDrop _ _ _ _ => true
  | .wavelengthSwitchover _ _ => true
  | .packetForward _ => true
  | .routingTableInstall _ _ => true
  | .remoteRequestReceive _ => true
  | .remoteResponseReceive _ => true
  | .remoteRetryTimeout _ _ => true
  | .remoteAbandonTimeout _ _ => true
  | .targetRecordExpiry _ _ => true
  | .changeRequest _ _ => true
  | .portDrainComplete _ => true
  | .circuitsReady => true
  | .changeFinalInstall => true
  | .irSessionWrite _ _ => true
  | .irSlotTransfer _ _ _ _ _ => true
  | .mgmtReadRequest _ _ _ => true
  | .cxlMemRead _ _ => true
  | .cxlMemWrite _ _ _ => true
  | .hostLinkFatalError => true
  | .cxlReset => true
  | .uncorrectableMemoryError _ => true
  | .registerParityError _ _ _ => true
  | .correctedError _ => true
  | .unitWithdraw _ _ => true
  | .stackThermalSample _ _ => true
  | .selfHoldNotice _ => true
  | .stackLost _ => true
  | .stackScrub _ => true
  | .rowRepair _ _ => true
  | .stackMailboxMessage _ _ => true
  | .imageStage _ => true
  | .imageVerify _ => true
  | .handoverRequest _ => true
  | .imageCatchUp _ _ => true
  | .switchOver _ _ => true
  | .catchUpTimeout _ _ => true
  | .heartbeat _ _ => true
  | .heartbeatMissed _ _ => true
  | .probationCommit _ => true
  | .pscImageBootTimeout => true
  | .svnMinimumRaise _ _ => true
  | .quoteRequest _ _ _ => true
  | .debugStopRequest _ _ => true
  | .debugResumeRequest _ _ => true
  | .monitorSample _ _ _ => true
  | .moncfgWrite _ _ _ => true
  | .pmctlWrite _ _ _ => true
  | .trbaseWrite _ _ _ => true
  | .csrWrite _ _ _ _ => true
  | .firmwareLeafStore _ _ _ _ _ => true
  | .frameReuseWaitElapsed _ => true
  | .newImageTrap _ _ => true
  | .tenantAuthenticatedRequest _ _ _ _ => true

/-- Whether the row is an instruction of the opcode map, and not a device event. -/
def Instr.isInsn : Instr → Bool
  | .nop => true
  | .fence _ => true
  | .trap _ => true
  | .bkpt _ => true
  | .tret => true
  | .pmret => true
  | .iflush => true
  | .yield => true
  | .ill _ => true
  | .add _ _ _ => true
  | .sub _ _ _ => true
  | .and _ _ _ => true
  | .or _ _ _ => true
  | .xor _ _ _ => true
  | .andn _ _ _ => true
  | .orn _ _ _ => true
  | .xnor _ _ _ => true
  | .shl _ _ _ => true
  | .shr _ _ _ => true
  | .sra _ _ _ => true
  | .rol _ _ _ => true
  | .ror _ _ _ => true
  | .slt _ _ _ => true
  | .sltu _ _ _ => true
  | .seq _ _ _ => true
  | .sne _ _ _ => true
  | .min _ _ _ => true
  | .max _ _ _ => true
  | .minu _ _ _ => true
  | .maxu _ _ _ => true
  | .addw _ _ _ => true
  | .subw _ _ _ => true
  | .shlw _ _ _ => true
  | .shrw _ _ _ => true
  | .sraw _ _ _ => true
  | .addi _ _ _ => true
  | .andi _ _ _ => true
  | .ori _ _ _ => true
  | .xori _ _ _ => true
  | .shli _ _ _ => true
  | .shri _ _ _ => true
  | .srai _ _ _ => true
  | .roli _ _ _ => true
  | .rori _ _ _ => true
  | .slti _ _ _ => true
  | .sltui _ _ _ => true
  | .seqi _ _ _ => true
  | .snei _ _ _ => true
  | .ldb _ _ _ => true
  | .ldh _ _ _ => true
  | .ldw _ _ _ => true
  | .ldd _ _ _ => true
  | .ldbz _ _ _ => true
  | .ldhz _ _ _ => true
  | .ldwz _ _ _ => true
  | .stb _ _ _ => true
  | .sth _ _ _ => true
  | .stw _ _ _ => true
  | .std _ _ _ => true
  | .beq _ _ _ => true
  | .bne _ _ _ => true
  | .blt _ _ _ => true
  | .bge _ _ _ => true
  | .bltu _ _ _ => true
  | .bgeu _ _ _ => true
  | .bbs _ _ _ => true
  | .bbc _ _ _ => true
  | .beqLong _ _ _ => true
  | .bneLong _ _ _ => true
  | .bltLong _ _ _ => true
  | .bgeLong _ _ _ => true
  | .bltuLong _ _ _ => true
  | .bgeuLong _ _ _ => true
  | .bbsLong _ _ _ => true
  | .bbcLong _ _ _ => true
  | .j _ => true
  | .jal _ => true
  | .jLong _ => true
  | .jalLong _ => true
  | .jr _ _ => true
  | .jalr _ _ => true
  | .jtab _ _ => true
  | .mul _ _ _ => true
  | .mulh _ _ _ => true
  | .mulhu _ _ _ => true
  | .mulhsu _ _ _ => true
  | .mulw _ _ _ => true
  | .div _ _ _ => true
  | .divu _ _ _ => true
  | .rem _ _ _ => true
  | .remu _ _ _ => true
  | .divw _ _ _ => true
  | .remw _ _ _ => true
  | .clz _ _ => true
  | .ctz _ _ => true
  | .popc _ _ => true
  | .brev _ _ => true
  | .bswap _ _ => true
  | .fnsb _ _ _ => true
  | .clzw _ _ => true
  | .ctzw _ _ => true
  | .popcw _ _ => true
  | .bfx _ _ _ => true
  | .bfxu _ _ _ => true
  | .bfi _ _ _ => true
  | .bfmsk _ _ => true
  | .bfxi _ _ _ _ => true
  | .bfxui _ _ _ _ => true
  | .bfii _ _ _ _ => true
  | .fadd _ _ _ _ => true
  | .fsub _ _ _ _ => true
  | .fmul _ _ _ _ => true
  | .fdiv _ _ _ _ => true
  | .fsqrt _ _ _ => true
  | .fmin _ _ _ _ => true
  | .fmax _ _ _ _ => true
  | .fminn _ _ _ _ => true
  | .fmaxn _ _ _ _ => true
  | .fsgnj _ _ _ _ => true
  | .fsgnjn _ _ _ _ => true
  | .fsgnjx _ _ _ _ => true
  | .feq _ _ _ _ => true
  | .flt _ _ _ _ => true
  | .fle _ _ _ _ => true
  | .fclass _ _ _ => true
  | .fcvt _ _ _ _ => true
  | .fcvti _ _ _ _ _ => true
  | .fcvtu _ _ _ _ _ => true
  | .icvtf _ _ _ _ _ => true
  | .ucvtf _ _ _ _ _ => true
  | .fma _ _ _ _ _ _ => true
  | .fms _ _ _ _ _ _ => true
  | .fnma _ _ _ _ _ _ => true
  | .fnms _ _ _ _ _ _ => true
  | .csrr _ _ => true
  | .csrw _ _ _ => true
  | .csrs _ _ _ => true
  | .csrc _ _ _ => true
  | .amoadd _ _ _ _ => true
  | .amoand _ _ _ _ => true
  | .amoor _ _ _ _ => true
  | .amoxor _ _ _ _ => true
  | .amomin _ _ _ _ => true
  | .amomax _ _ _ _ => true
  | .amominu _ _ _ _ => true
  | .amomaxu _ _ _ _ => true
  | .amoswp _ _ _ _ => true
  | .amocas _ _ _ _ => true
  | .acq _ _ => true
  | .rel _ => true
  | .tryacq _ _ _ => true
  | .bind _ _ _ => true
  | .unbind _ _ => true
  | .pref _ _ => true
  | .wbf => true
  | .ldro _ _ => true
  | .hstart _ _ _ => true
  | .hjoin _ _ => true
  | .hexit _ => true
  | .hpeek _ _ => true
  | .waittl _ _ => true
  | .kexit _ => true
  | .rdv _ _ _ _ => true
  | .rdvadd _ _ _ _ => true
  | .rdvmax _ _ _ _ => true
  | .rdvor _ _ _ _ => true
  | .li _ _ => true
  | .liz _ _ => true
  | .lihi _ _ _ => true
  | .addl _ _ _ => true
  | .andl _ _ _ => true
  | .orl _ _ _ => true
  | .xorl _ _ _ => true
  | .sltl _ _ _ => true
  | .vadd _ => true
  | .vsub _ => true
  | .vmul _ => true
  | .vmulh _ => true
  | .vmadd _ => true
  | .vabs _ => true
  | .vneg _ => true
  | .vmin _ => true
  | .vmax _ => true
  | .vadds _ => true
  | .vsubs _ => true
  | .vavg _ => true
  | .vshl _ => true
  | .vshr _ => true
  | .vsra _ => true
  | .vdot4 _ => true
  | .vmov _ => true
  | .vaddLit _ _ => true
  | .vsubLit _ _ => true
  | .vmulLit _ _ => true
  | .vmulhLit _ _ => true
  | .vmaddLit _ _ => true
  | .vabsLit _ _ => true
  | .vnegLit _ _ => true
  | .vminLit _ _ => true
  | .vmaxLit _ _ => true
  | .vaddsLit _ _ => true
  | .vsubsLit _ _ => true
  | .vavgLit _ _ => true
  | .vshlLit _ _ => true
  | .vshrLit _ _ => true
  | .vsraLit _ _ => true
  | .vdot4Lit _ _ => true
  | .vmovLit _ _ => true
  | .vfadd _ => true
  | .vfsub _ => true
  | .vfmul _ => true
  | .vfdiv _ => true
  | .vfsqrt _ => true
  | .vfma _ => true
  | .vfms _ => true
  | .vfnma _ => true
  | .vfmin _ => true
  | .vfmax _ => true
  | .vfabs _ => true
  | .vfneg _ => true
  | .vfaddLit _ _ => true
  | .vfsubLit _ _ => true
  | .vfmulLit _ _ => true
  | .vfdivLit _ _ => true
  | .vfsqrtLit _ _ => true
  | .vfmaLit _ _ => true
  | .vfmsLit _ _ => true
  | .vfnmaLit _ _ => true
  | .vfminLit _ _ => true
  | .vfmaxLit _ _ => true
  | .vfabsLit _ _ => true
  | .vfnegLit _ _ => true
  | .vand _ => true
  | .vor _ => true
  | .vxor _ => true
  | .vandn _ => true
  | .vnot _ => true
  | .vpopc _ => true
  | .vclz _ => true
  | .vctz _ => true
  | .vbrev _ => true
  | .vfnsb _ => true
  | .vbfx _ => true
  | .vandLit _ _ => true
  | .vorLit _ _ => true
  | .vxorLit _ _ => true
  | .vandnLit _ _ => true
  | .vnotLit _ _ => true
  | .vpopcLit _ _ => true
  | .vclzLit _ _ => true
  | .vctzLit _ _ => true
  | .vbrevLit _ _ => true
  | .vfnsbLit _ _ => true
  | .vbfxLit _ _ => true
  | .vcmpeq _ => true
  | .vcmpne _ => true
  | .vcmplt _ => true
  | .vcmple _ => true
  | .vcmpltu _ => true
  | .vcmpleu _ => true
  | .vfcmpeq _ => true
  | .vfcmplt _ => true
  | .vfcmple _ => true
  | .vfcmpun _ => true
  | .vcmpeqLit _ _ => true
  | .vcmpneLit _ _ => true
  | .vcmpltLit _ _ => true
  | .vcmpleLit _ _ => true
  | .vcmpltuLit _ _ => true
  | .vcmpleuLit _ _ => true
  | .vfcmpeqLit _ _ => true
  | .vfcmpltLit _ _ => true
  | .vfcmpleLit _ _ => true
  | .vfcmpunLit _ _ => true
  | .plen _ => true
  | .plenu _ => true
  | .pand _ => true
  | .por _ => true
  | .pxor _ => true
  | .pnot _ => true
  | .pcnt _ => true
  | .pfirst _ => true
  | .pany _ => true
  | .pset _ => true
  | .vlanes _ => true
  | .vbcast _ => true
  | .vextr _ => true
  | .vins _ => true
  | .vslideup _ => true
  | .vslidedn _ => true
  | .vperm _ => true
  | .vcompress _ => true
  | .vexpand _ => true
  | .vsel _ => true
  | .viota _ => true
  | .vredadd _ => true
  | .vredmin _ => true
  | .vredmax _ => true
  | .vredminu _ => true
  | .vredmaxu _ => true
  | .vredand _ => true
  | .vredor _ => true
  | .vredxor _ => true
  | .vfredadd _ => true
  | .vfredmin _ => true
  | .vfredmax _ => true
  | .vcvt _ => true
  | .vnarrow _ => true
  | .vwiden _ => true
  | .vpackdx _ => true
  | .vunpkdx _ => true
  | .vpackdx4 _ => true
  | .vunpkdx4 _ => true
  | .vrcp _ => true
  | .vrsqrt _ => true
  | .vexp2 _ => true
  | .vlog2 _ => true
  | .vtanh _ => true
  | .vsigm _ => true
  | .vsinpi _ => true
  | .vcospi _ => true
  | .vld _ => true
  | .vlds _ => true
  | .vldx _ => true
  | .vldb _ => true
  | .vldff _ => true
  | .vst _ => true
  | .vsts _ => true
  | .vstx _ => true
  | .vstc _ => true
  | .vamoadd _ => true
  | .vamoor _ => true
  | .vamoand _ => true
  | .vamomin _ => true
  | .vamomax _ => true
  | .tld _ _ _ => true
  | .tst _ _ _ => true
  | .tzero _ _ => true
  | .tacc _ _ _ => true
  | .mxp _ _ _ _ => true
  | .mxps _ _ _ _ => true
  | .mxprobe _ _ _ _ => true
  | .phld _ _ _ _ _ => true
  | .phtrim _ _ _ _ => true
  | .phrd _ _ _ _ _ => true
  | .phinv _ _ _ _ => true
  | .dcmp _ _ _ _ _ => true
  | .cpy _ _ _ _ _ => true
  | .cpy2 _ _ _ _ _ _ => true
  | .cpyset _ _ _ _ _ => true
  | .cpytile _ _ _ _ _ _ _ => true
  | .cpycmp _ _ _ _ _ _ => true
  | .splook _ _ _ => true
  | .spevict _ _ => true
  | .spdemote _ => true
  | .sprel _ _ => true
  | .spprio _ _ => true
  | .sync _ => true
  | .sarrive _ => true
  | .swait _ => true
  | .syncv _ _ _ _ => true
  | .xsend _ _ _ _ => true
  | .xopen _ _ => true
  | .xput _ => true
  | .xend => true
  | .klaunch _ _ _ _ => true
  | .kquery _ _ => true
  | .ksignal _ _ => true
  | .lquery _ _ => true
  | .lrenew _ _ => true
  | .pgcnt _ _ => true
  | .ldrain _ _ => true
  | .lstat _ _ _ => true
  | .irsend _ _ _ => true
  | .irrecv _ _ _ => true
  | .pmark _ => true
  | .dstop => true
  | .powerGood _ => false
  | .stackBringup _ => false
  | .combLock _ => false
  | .switchPortTrain _ => false
  | .mgcRelease _ => false
  | .setReady => false
  | .cxlLinkTrain _ _ => false
  | .powerSample _ => false
  | .dieJunctionLimit _ => false
  | .dieJunctionRecover _ => false
  | .combLineBelowThreshold _ _ _ => false
  | .combLineRecover _ _ _ => false
  | .laserTelemetryUpdate _ _ _ => false
  | .issueGroupForm _ => false
  | .handlerInstructionLimit _ => false
  | .deadlockDetect _ => false
  | .sfuEntryComplete _ _ => false
  | .taskStart _ _ => false
  | .taskRestore _ _ => false
  | .taskSave _ _ => false
  | .spinTimeoutSwap _ => false
  | .hexitComplete _ _ => false
  | .kexitComplete _ => false
  | .storePerform _ _ _ => false
  | .accessReissue _ _ => false
  | .atomicAtHome _ _ => false
  | .pageWalk _ _ _ => false
  | .leaseExpiry _ => false
  | .cmeArbitrationRound _ => false
  | .copyUnit _ _ => false
  | .copyLeaseRenewal _ _ => false
  | .passArrival _ _ => false
  | .passStreamStart _ => false
  | .passDetected _ => false
  | .omuProbe _ _ _ => false
  | .omuPhld _ _ => false
  | .omuPhtrim _ _ _ => false
  | .omuPhrd _ => false
  | .omuPhinv _ => false
  | .omuTzero _ => false
  | .omuTacc _ => false
  | .dcmpExecute _ => false
  | .omuThermalLoop _ _ => false
  | .tcfgWrite _ _ _ _ => false
  | .phprobeWrite _ _ => false
  | .drlimitWrite _ _ => false
  | .gainWrite _ _ => false
  | .exchangeEntryRun _ => false
  | .groupEnterReleasing _ _ _ => false
  | .memberRelease _ => false
  | .levelConflictDetect _ => false
  | .peerLoss _ => false
  | .doorbellWrite _ _ _ => false
  | .launchRecordTake _ _ => false
  | .klaunchMgcAnswer _ _ => false
  | .kernelEligible _ => false
  | .kernelDependenceFault _ => false
  | .bindEntryWrite _ _ _ => false
  | .kernelDrainComplete _ => false
  | .replayCompare _ => false
  | .kernelKill _ => false
  | .preemptPartition _ => false
  | .priorityWaitTimeout _ => false
  | .contextCreateRequest _ _ _ => false
  | .queueRegister _ _ _ _ _ => false
  | .contextActivate _ _ => false
  | .contextSuspend _ => false
  | .contextResume _ => false
  | .contextDestroy _ => false
  | .contextFree _ => false
  | .faultHandover _ _ => false
  | .faultResolution _ _ _ => false
  | .faultRingSpace _ => false
  | .missEscalate _ _ => false
  | .slotEdge _ _ => false
  | .slotEdgeTimeout _ => false
  | .atsInvalidationRequest _ _ => false
  | .atsInvalidationCompletion _ => false
  | .dcdReleaseNotice _ _ => false
  | .dcdForcedRelease _ _ => false
  | .flitReceive _ _ _ _ => false
  | .nakTimer _ _ => false
  | .ackTimer _ _ => false
  | .idleFlitTimer _ => false
  | .portEnable _ => false
  | .portLock _ _ _ => false
  | .portLockExchangeDone _ _ _ => false
  | .portLockTimeout _ => false
  | .portLightLoss _ => false
  | .portFence _ => false
  | .portDisable _ => false
  | .portRestore _ => false
  | .wavelengthErrorDrop _ _ _ _ => false
  | .wavelengthSwitchover _ _ => false
  | .packetForward _ => false
  | .routingTableInstall _ _ => false
  | .remoteRequestReceive _ => false
  | .remoteResponseReceive _ => false
  | .remoteRetryTimeout _ _ => false
  | .remoteAbandonTimeout _ _ => false
  | .targetRecordExpiry _ _ => false
  | .changeRequest _ _ => false
  | .portDrainComplete _ => false
  | .circuitsReady => false
  | .changeFinalInstall => false
  | .irSessionWrite _ _ => false
  | .irSlotTransfer _ _ _ _ _ => false
  | .mgmtReadRequest _ _ _ => false
  | .cxlMemRead _ _ => false
  | .cxlMemWrite _ _ _ => false
  | .hostLinkFatalError => false
  | .cxlReset => false
  | .uncorrectableMemoryError _ => false
  | .registerParityError _ _ _ => false
  | .correctedError _ => false
  | .unitWithdraw _ _ => false
  | .stackThermalSample _ _ => false
  | .selfHoldNotice _ => false
  | .stackLost _ => false
  | .stackScrub _ => false
  | .rowRepair _ _ => false
  | .stackMailboxMessage _ _ => false
  | .imageStage _ => false
  | .imageVerify _ => false
  | .handoverRequest _ => false
  | .imageCatchUp _ _ => false
  | .switchOver _ _ => false
  | .catchUpTimeout _ _ => false
  | .heartbeat _ _ => false
  | .heartbeatMissed _ _ => false
  | .probationCommit _ => false
  | .pscImageBootTimeout => false
  | .svnMinimumRaise _ _ => false
  | .quoteRequest _ _ _ => false
  | .debugStopRequest _ _ => false
  | .debugResumeRequest _ _ => false
  | .monitorSample _ _ _ => false
  | .moncfgWrite _ _ _ => false
  | .pmctlWrite _ _ _ => false
  | .trbaseWrite _ _ _ => false
  | .csrWrite _ _ _ _ => false
  | .firmwareLeafStore _ _ _ _ _ => false
  | .frameReuseWaitElapsed _ => false
  | .newImageTrap _ _ => false
  | .tenantAuthenticatedRequest _ _ _ _ => false

end Sys2Proof
end

