-- ==== Sys2Proof/Decode.lean ====
section
/-! DEFINITION. Decoding and encoding of instruction words (R44 to R64). The decoder picks the candidate instruction that
LEN, MAJ and the function value name, and accepts it when it is well-formed and every bit of the words is one that the
candidate's encoding has: a non-zero reserved or unused field leaves a bit over and is refused (R49, R58). -/

namespace Sys2Proof

/-- The register named by [12:8]. -/
def rD (w : Nat) : Reg := BitVec.ofNat 5 (w / 256)
/-- The register named by [17:13]. -/
def rA (w : Nat) : Reg := BitVec.ofNat 5 (w / 8192)
/-- The register named by [22:18]. -/
def rB (w : Nat) : Reg := BitVec.ofNat 5 (w / 262144)

/-- A word of format Q3 (R50). -/
def q3 (maj len fn b a d : Nat) : Nat := len + 4 * maj + 256 * d + 8192 * a + 262144 * b + 8388608 * fn
/-- A word whose [31:18] is one field: QI, SHI, CMPI, CSR (R50, R61). -/
def qi (maj len i a d : Nat) : Nat := len + 4 * maj + 256 * d + 8192 * a + 262144 * i
/-- A word with an 11-bit field and a 3-bit field on top: QS, QB, LD (R50, R61). -/
def qs (maj len off mid a d : Nat) : Nat := len + 4 * maj + 256 * d + 8192 * a + 262144 * mid + 2097152 * off
/-- A word of format QJ (R50). -/
def qj (len off l : Nat) : Nat := len + 4 * 11 + 256 * l + 8192 * off
/-- A word of format QZ (R50). -/
def qz (fn imm : Nat) : Nat := 256 * fn + 65536 * imm
/-- W0 of format VX (R54). -/
def vx0 (maj len fn : Nat) (f : VX) : Nat :=
  len + 4 * maj + 256 * f.vd.toNat + 8192 * f.va.toNat + 262144 * f.vb.toNat + 8388608 * f.pg.toNat
    + 67108864 * f.zm.toNat + 134217728 * fn
/-- W1 of format VX (R54). -/
def vx1 (f : VX) : Nat :=
  f.et.toNat + 16 * f.vc.toNat + 512 * f.rm.toNat + 4096 * f.sat.toNat + 8192 * f.xs.toNat + 16384 * f.imm.toNat
/-- The VX fields of two words (R54). -/
def vxOf (w0 w1 : Nat) : VX :=
  { et := BitVec.ofNat 4 w1, vd := rD w0, va := rA w0, vb := rB w0, vc := BitVec.ofNat 5 (w1 / 16),
    pg := BitVec.ofNat 3 (w0 / 8388608), zm := bitAt w0 26, xs := bitAt w1 13, sat := bitAt w1 12,
    rm := BitVec.ofNat 3 (w1 / 512), imm := BitVec.ofNat 9 (w1 / 16384) }
/-- W1 of mxp and mxps (R316). -/
def mxpW1 (m : MxpW) : Nat :=
  m.ta.toNat + 16 * m.tc.toNat + 256 * m.bank.toNat + 4096 * m.chunks.toNat + 32768 * m.dir.toNat
    + 65536 * m.acc.toNat + 131072 * m.cap.toNat + 1048576 * m.slice.toNat + 4194304 * m.prb.toNat + 8388608 * m.rows.toNat
/-- The fields of W1 of mxp and mxps (R316). -/
def mxpOf (w : Nat) : MxpW :=
  { ta := BitVec.ofNat 4 w, tc := BitVec.ofNat 4 (w / 16), bank := BitVec.ofNat 4 (w / 256),
    chunks := BitVec.ofNat 3 (w / 4096), dir := bitAt w 15, acc := bitAt w 16, cap := BitVec.ofNat 3 (w / 131072),
    slice := BitVec.ofNat 2 (w / 1048576), prb := bitAt w 22, rows := BitVec.ofNat 7 (w / 8388608) }

/- Lean's runtime gives a constructor with fields a tag below 245, so compiled code cannot build most of the 522
constructors; these definitions are evaluated by the kernel. -/
noncomputable section

/-- The candidate of major 0x0, LEN 0 (R59, R61, R62). -/
def pickSys (w0 : Nat) : Option Instr :=
  match w0 / 256 % 256 with
  | 0 => some (.nop)
  | 1 => some (.fence (BitVec.ofNat 16 (w0 / 65536)))
  | 2 => some (.trap (BitVec.ofNat 16 (w0 / 65536)))
  | 3 => some (.bkpt (BitVec.ofNat 16 (w0 / 65536)))
  | 4 => some (.tret)
  | 5 => some (.pmret)
  | 6 => some (.iflush)
  | 7 => some (.yield)
  | 255 => some (.ill (BitVec.ofNat 16 (w0 / 65536)))
  | _ => none

/-- The candidate of major 0x1, LEN 0 (R59, R61, R62). -/
def pickAlu (w0 : Nat) : Option Instr :=
  match w0 / 8388608 % 512 with
  | 0 => some (.add (rD w0) (rA w0) (rB w0))
  | 1 => some (.sub (rD w0) (rA w0) (rB w0))
  | 2 => some (.and (rD w0) (rA w0) (rB w0))
  | 3 => some (.or (rD w0) (rA w0) (rB w0))
  | 4 => some (.xor (rD w0) (rA w0) (rB w0))
  | 5 => some (.andn (rD w0) (rA w0) (rB w0))
  | 6 => some (.orn (rD w0) (rA w0) (rB w0))
  | 7 => some (.xnor (rD w0) (rA w0) (rB w0))
  | 8 => some (.shl (rD w0) (rA w0) (rB w0))
  | 9 => some (.shr (rD w0) (rA w0) (rB w0))
  | 10 => some (.sra (rD w0) (rA w0) (rB w0))
  | 11 => some (.rol (rD w0) (rA w0) (rB w0))
  | 12 => some (.ror (rD w0) (rA w0) (rB w0))
  | 13 => some (.slt (rD w0) (rA w0) (rB w0))
  | 14 => some (.sltu (rD w0) (rA w0) (rB w0))
  | 15 => some (.seq (rD w0) (rA w0) (rB w0))
  | 16 => some (.sne (rD w0) (rA w0) (rB w0))
  | 17 => some (.min (rD w0) (rA w0) (rB w0))
  | 18 => some (.max (rD w0) (rA w0) (rB w0))
  | 19 => some (.minu (rD w0) (rA w0) (rB w0))
  | 20 => some (.maxu (rD w0) (rA w0) (rB w0))
  | 21 => some (.addw (rD w0) (rA w0) (rB w0))
  | 22 => some (.subw (rD w0) (rA w0) (rB w0))
  | 23 => some (.shlw (rD w0) (rA w0) (rB w0))
  | 24 => some (.shrw (rD w0) (rA w0) (rB w0))
  | 25 => some (.sraw (rD w0) (rA w0) (rB w0))
  | _ => none

/-- The candidate of major 0x2, LEN 0 (R59, R61, R62). -/
def pickAddi (w0 : Nat) : Option Instr :=
  some (.addi (rD w0) (rA w0) (BitVec.ofNat 14 (w0 / 262144)))

/-- The candidate of major 0x3, LEN 0 (R59, R61, R62). -/
def pickAndi (w0 : Nat) : Option Instr :=
  some (.andi (rD w0) (rA w0) (BitVec.ofNat 14 (w0 / 262144)))

/-- The candidate of major 0x4, LEN 0 (R59, R61, R62). -/
def pickOri (w0 : Nat) : Option Instr :=
  some (.ori (rD w0) (rA w0) (BitVec.ofNat 14 (w0 / 262144)))

/-- The candidate of major 0x5, LEN 0 (R59, R61, R62). -/
def pickXori (w0 : Nat) : Option Instr :=
  some (.xori (rD w0) (rA w0) (BitVec.ofNat 14 (w0 / 262144)))

/-- The candidate of major 0x6, LEN 0 (R59, R61, R62). -/
def pickShi (w0 : Nat) : Option Instr :=
  match w0 / 16777216 % 8 with
  | 0 => some (.shli (rD w0) (rA w0) (BitVec.ofNat 6 (w0 / 262144)))
  | 1 => some (.shri (rD w0) (rA w0) (BitVec.ofNat 6 (w0 / 262144)))
  | 2 => some (.srai (rD w0) (rA w0) (BitVec.ofNat 6 (w0 / 262144)))
  | 3 => some (.roli (rD w0) (rA w0) (BitVec.ofNat 6 (w0 / 262144)))
  | 4 => some (.rori (rD w0) (rA w0) (BitVec.ofNat 6 (w0 / 262144)))
  | _ => none

/-- The candidate of major 0x7, LEN 0 (R59, R61, R62). -/
def pickCmpi (w0 : Nat) : Option Instr :=
  match w0 / 536870912 % 8 with
  | 0 => some (.slti (rD w0) (rA w0) (BitVec.ofNat 11 (w0 / 262144)))
  | 1 => some (.sltui (rD w0) (rA w0) (BitVec.ofNat 11 (w0 / 262144)))
  | 2 => some (.seqi (rD w0) (rA w0) (BitVec.ofNat 11 (w0 / 262144)))
  | 3 => some (.snei (rD w0) (rA w0) (BitVec.ofNat 11 (w0 / 262144)))
  | _ => none

/-- The candidate of major 0x8, LEN 0 (R59, R61, R62). -/
def pickLd (w0 : Nat) : Option Instr :=
  match w0 / 262144 % 8 with
  | 0 => some (.ldb (rD w0) (rA w0) (BitVec.ofNat 11 (w0 / 2097152)))
  | 1 => some (.ldh (rD w0) (rA w0) (BitVec.ofNat 11 (w0 / 2097152)))
  | 2 => some (.ldw (rD w0) (rA w0) (BitVec.ofNat 11 (w0 / 2097152)))
  | 3 => some (.ldd (rD w0) (rA w0) (BitVec.ofNat 11 (w0 / 2097152)))
  | 4 => some (.ldbz (rD w0) (rA w0) (BitVec.ofNat 11 (w0 / 2097152)))
  | 5 => some (.ldhz (rD w0) (rA w0) (BitVec.ofNat 11 (w0 / 2097152)))
  | 6 => some (.ldwz (rD w0) (rA w0) (BitVec.ofNat 11 (w0 / 2097152)))
  | _ => none

/-- The candidate of major 0x9, LEN 0 (R59, R61, R62). -/
def pickSt (w0 : Nat) : Option Instr :=
  match w0 / 262144 % 8 with
  | 0 => some (.stb (rD w0) (rA w0) (BitVec.ofNat 11 (w0 / 2097152)))
  | 1 => some (.sth (rD w0) (rA w0) (BitVec.ofNat 11 (w0 / 2097152)))
  | 2 => some (.stw (rD w0) (rA w0) (BitVec.ofNat 11 (w0 / 2097152)))
  | 3 => some (.std (rD w0) (rA w0) (BitVec.ofNat 11 (w0 / 2097152)))
  | _ => none

/-- The candidate of major 0xa, LEN 0 (R59, R61, R62). -/
def pickBr (w0 : Nat) : Option Instr :=
  match w0 / 262144 % 8 with
  | 0 => some (.beq (rD w0) (rA w0) (BitVec.ofNat 11 (w0 / 2097152)))
  | 1 => some (.bne (rD w0) (rA w0) (BitVec.ofNat 11 (w0 / 2097152)))
  | 2 => some (.blt (rD w0) (rA w0) (BitVec.ofNat 11 (w0 / 2097152)))
  | 3 => some (.bge (rD w0) (rA w0) (BitVec.ofNat 11 (w0 / 2097152)))
  | 4 => some (.bltu (rD w0) (rA w0) (BitVec.ofNat 11 (w0 / 2097152)))
  | 5 => some (.bgeu (rD w0) (rA w0) (BitVec.ofNat 11 (w0 / 2097152)))
  | 6 => some (.bbs (rD w0) (rA w0) (BitVec.ofNat 11 (w0 / 2097152)))
  | 7 => some (.bbc (rD w0) (rA w0) (BitVec.ofNat 11 (w0 / 2097152)))
  | _ => none

/-- The candidate of major 0xa, LEN 1 (R59, R61, R62). -/
def pickBr64 (w0 w1 : Nat) : Option Instr :=
  match w0 / 262144 % 8 with
  | 0 => some (.beqLong (rD w0) (rA w0) (BitVec.ofNat 32 w1))
  | 1 => some (.bneLong (rD w0) (rA w0) (BitVec.ofNat 32 w1))
  | 2 => some (.bltLong (rD w0) (rA w0) (BitVec.ofNat 32 w1))
  | 3 => some (.bgeLong (rD w0) (rA w0) (BitVec.ofNat 32 w1))
  | 4 => some (.bltuLong (rD w0) (rA w0) (BitVec.ofNat 32 w1))
  | 5 => some (.bgeuLong (rD w0) (rA w0) (BitVec.ofNat 32 w1))
  | 6 => some (.bbsLong (rD w0) (rA w0) (BitVec.ofNat 32 w1))
  | 7 => some (.bbcLong (rD w0) (rA w0) (BitVec.ofNat 32 w1))
  | _ => none

/-- The candidate of major 0xb, LEN 0 (R59, R61, R62). -/
def pickJal (w0 : Nat) : Option Instr :=
  match w0 / 256 % 2 with
  | 0 => some (.j (BitVec.ofNat 19 (w0 / 8192)))
  | 1 => some (.jal (BitVec.ofNat 19 (w0 / 8192)))
  | _ => none

/-- The candidate of major 0xb, LEN 1 (R59, R61, R62). -/
def pickJal64 (w0 w1 : Nat) : Option Instr :=
  match w0 / 256 % 2 with
  | 0 => some (.jLong (BitVec.ofNat 32 w1))
  | 1 => some (.jalLong (BitVec.ofNat 32 w1))
  | _ => none

/-- The candidate of major 0xc, LEN 0 (R59, R61, R62). -/
def pickJalr (w0 : Nat) : Option Instr :=
  match w0 / 256 % 32 with
  | 0 => some (.jr (rA w0) (BitVec.ofNat 14 (w0 / 262144)))
  | 1 => some (.jalr (rA w0) (BitVec.ofNat 14 (w0 / 262144)))
  | _ => none

/-- The candidate of major 0xd, LEN 0 (R59, R61, R62). -/
def pickJtab (w0 : Nat) : Option Instr :=
  match w0 / 8388608 % 512 with
  | 0 => some (.jtab (rA w0) (rB w0))
  | _ => none

/-- The candidate of major 0xe, LEN 0 (R59, R61, R62). -/
def pickMuldiv (w0 : Nat) : Option Instr :=
  match w0 / 8388608 % 512 with
  | 0 => some (.mul (rD w0) (rA w0) (rB w0))
  | 1 => some (.mulh (rD w0) (rA w0) (rB w0))
  | 2 => some (.mulhu (rD w0) (rA w0) (rB w0))
  | 3 => some (.mulhsu (rD w0) (rA w0) (rB w0))
  | 4 => some (.mulw (rD w0) (rA w0) (rB w0))
  | 5 => some (.div (rD w0) (rA w0) (rB w0))
  | 6 => some (.divu (rD w0) (rA w0) (rB w0))
  | 7 => some (.rem (rD w0) (rA w0) (rB w0))
  | 8 => some (.remu (rD w0) (rA w0) (rB w0))
  | 9 => some (.divw (rD w0) (rA w0) (rB w0))
  | 10 => some (.remw (rD w0) (rA w0) (rB w0))
  | _ => none

/-- The candidate of major 0xf, LEN 0 (R59, R61, R62). -/
def pickBit (w0 : Nat) : Option Instr :=
  match w0 / 8388608 % 512 with
  | 0 => some (.clz (rD w0) (rA w0))
  | 1 => some (.ctz (rD w0) (rA w0))
  | 2 => some (.popc (rD w0) (rA w0))
  | 3 => some (.brev (rD w0) (rA w0))
  | 4 => some (.bswap (rD w0) (rA w0))
  | 5 => some (.fnsb (rD w0) (rA w0) (rB w0))
  | 6 => some (.clzw (rD w0) (rA w0))
  | 7 => some (.ctzw (rD w0) (rA w0))
  | 8 => some (.popcw (rD w0) (rA w0))
  | 9 => some (.bfx (rD w0) (rA w0) (rB w0))
  | 10 => some (.bfxu (rD w0) (rA w0) (rB w0))
  | 11 => some (.bfi (rD w0) (rA w0) (rB w0))
  | 12 => some (.bfmsk (rD w0) (rB w0))
  | _ => none

/-- The candidate of major 0x10, LEN 0 (R59, R61, R62). -/
def pickFpu (w0 : Nat) : Option Instr :=
  match w0 / 8388608 % 64 with
  | 0 => some (.fadd (BitVec.ofNat 2 (w0 / 536870912)) (rD w0) (rA w0) (rB w0))
  | 1 => some (.fsub (BitVec.ofNat 2 (w0 / 536870912)) (rD w0) (rA w0) (rB w0))
  | 2 => some (.fmul (BitVec.ofNat 2 (w0 / 536870912)) (rD w0) (rA w0) (rB w0))
  | 3 => some (.fdiv (BitVec.ofNat 2 (w0 / 536870912)) (rD w0) (rA w0) (rB w0))
  | 4 => some (.fsqrt (BitVec.ofNat 2 (w0 / 536870912)) (rD w0) (rA w0))
  | 5 => some (.fmin (BitVec.ofNat 2 (w0 / 536870912)) (rD w0) (rA w0) (rB w0))
  | 6 => some (.fmax (BitVec.ofNat 2 (w0 / 536870912)) (rD w0) (rA w0) (rB w0))
  | 7 => some (.fminn (BitVec.ofNat 2 (w0 / 536870912)) (rD w0) (rA w0) (rB w0))
  | 8 => some (.fmaxn (BitVec.ofNat 2 (w0 / 536870912)) (rD w0) (rA w0) (rB w0))
  | 9 => some (.fsgnj (BitVec.ofNat 2 (w0 / 536870912)) (rD w0) (rA w0) (rB w0))
  | 10 => some (.fsgnjn (BitVec.ofNat 2 (w0 / 536870912)) (rD w0) (rA w0) (rB w0))
  | 11 => some (.fsgnjx (BitVec.ofNat 2 (w0 / 536870912)) (rD w0) (rA w0) (rB w0))
  | 12 => some (.feq (BitVec.ofNat 2 (w0 / 536870912)) (rD w0) (rA w0) (rB w0))
  | 13 => some (.flt (BitVec.ofNat 2 (w0 / 536870912)) (rD w0) (rA w0) (rB w0))
  | 14 => some (.fle (BitVec.ofNat 2 (w0 / 536870912)) (rD w0) (rA w0) (rB w0))
  | 15 => some (.fclass (BitVec.ofNat 2 (w0 / 536870912)) (rD w0) (rA w0))
  | 16 => some (.fcvt (BitVec.ofNat 2 (w0 / 536870912)) (rD w0) (rA w0) (rB w0))
  | 17 => some (.fcvti (BitVec.ofNat 2 (w0 / 536870912)) (rD w0) (rA w0) (BitVec.ofNat 3 (w0 / 524288)) (bitAt w0 18))
  | 18 => some (.fcvtu (BitVec.ofNat 2 (w0 / 536870912)) (rD w0) (rA w0) (BitVec.ofNat 3 (w0 / 524288)) (bitAt w0 18))
  | 19 => some (.icvtf (BitVec.ofNat 2 (w0 / 536870912)) (rD w0) (rA w0) (BitVec.ofNat 3 (w0 / 524288)) (bitAt w0 18))
  | 20 => some (.ucvtf (BitVec.ofNat 2 (w0 / 536870912)) (rD w0) (rA w0) (BitVec.ofNat 3 (w0 / 524288)) (bitAt w0 18))
  | _ => none

/-- The candidate of major 0x11, LEN 1 (R59, R61, R62). -/
def pickFma64 (w0 w1 : Nat) : Option Instr :=
  match w1 / 256 % 4 with
  | 0 => some (.fma (BitVec.ofNat 2 (w1 / 32)) (BitVec.ofNat 3 (w1 / 1024)) (rD w0) (rA w0) (rB w0) (BitVec.ofNat 5 w1))
  | 1 => some (.fms (BitVec.ofNat 2 (w1 / 32)) (BitVec.ofNat 3 (w1 / 1024)) (rD w0) (rA w0) (rB w0) (BitVec.ofNat 5 w1))
  | 2 => some (.fnma (BitVec.ofNat 2 (w1 / 32)) (BitVec.ofNat 3 (w1 / 1024)) (rD w0) (rA w0) (rB w0) (BitVec.ofNat 5 w1))
  | 3 => some (.fnms (BitVec.ofNat 2 (w1 / 32)) (BitVec.ofNat 3 (w1 / 1024)) (rD w0) (rA w0) (rB w0) (BitVec.ofNat 5 w1))
  | _ => none

/-- The candidate of major 0x12, LEN 0 (R59, R61, R62). -/
def pickCsr (w0 : Nat) : Option Instr :=
  match w0 / 1073741824 % 4 with
  | 0 => some (.csrr (rD w0) (BitVec.ofNat 12 (w0 / 262144)))
  | 1 => some (.csrw (rD w0) (rA w0) (BitVec.ofNat 12 (w0 / 262144)))
  | 2 => some (.csrs (rD w0) (rA w0) (BitVec.ofNat 12 (w0 / 262144)))
  | 3 => some (.csrc (rD w0) (rA w0) (BitVec.ofNat 12 (w0 / 262144)))
  | _ => none

/-- The candidate of major 0x13, LEN 1 (R59, R61, R62). -/
def pickBiti64 (w0 w1 : Nat) : Option Instr :=
  match w1 / 16384 % 4 with
  | 0 => some (.bfxi (rD w0) (rA w0) (BitVec.ofNat 7 w1) (BitVec.ofNat 7 (w1 / 128)))
  | 1 => some (.bfxui (rD w0) (rA w0) (BitVec.ofNat 7 w1) (BitVec.ofNat 7 (w1 / 128)))
  | 2 => some (.bfii (rD w0) (rA w0) (BitVec.ofNat 7 w1) (BitVec.ofNat 7 (w1 / 128)))
  | _ => none

/-- The candidate of major 0x14, LEN 0 (R59, R61, R62). -/
def pickAmo (w0 : Nat) : Option Instr :=
  match w0 / 33554432 % 128 with
  | 0 => some (.amoadd (bitAt w0 23) (rD w0) (rA w0) (rB w0))
  | 1 => some (.amoand (bitAt w0 23) (rD w0) (rA w0) (rB w0))
  | 2 => some (.amoor (bitAt w0 23) (rD w0) (rA w0) (rB w0))
  | 3 => some (.amoxor (bitAt w0 23) (rD w0) (rA w0) (rB w0))
  | 4 => some (.amomin (bitAt w0 23) (rD w0) (rA w0) (rB w0))
  | 5 => some (.amomax (bitAt w0 23) (rD w0) (rA w0) (rB w0))
  | 6 => some (.amominu (bitAt w0 23) (rD w0) (rA w0) (rB w0))
  | 7 => some (.amomaxu (bitAt w0 23) (rD w0) (rA w0) (rB w0))
  | 8 => some (.amoswp (bitAt w0 23) (rD w0) (rA w0) (rB w0))
  | 9 => some (.amocas (bitAt w0 23) (rD w0) (rA w0) (rB w0))
  | _ => none

/-- The candidate of major 0x15, LEN 0 (R59, R61, R62). -/
def pickMemx (w0 : Nat) : Option Instr :=
  match w0 / 8388608 % 512 with
  | 0 => some (.acq (rA w0) (bitAt w0 18))
  | 1 => some (.rel (rA w0))
  | 2 => some (.tryacq (rD w0) (rA w0) (bitAt w0 18))
  | 3 => some (.bind (rD w0) (rA w0) (rB w0))
  | 4 => some (.unbind (rD w0) (rA w0))
  | 5 => some (.pref (rA w0) (bitAt w0 18))
  | 6 => some (.wbf)
  | 7 => some (.ldro (rD w0) (rA w0))
  | _ => none

/-- The candidate of major 0x16, LEN 0 (R59, R61, R62). -/
def pickThrd (w0 : Nat) : Option Instr :=
  match w0 / 8388608 % 512 with
  | 0 => some (.hstart (rD w0) (rA w0) (rB w0))
  | 1 => some (.hjoin (rD w0) (rA w0))
  | 2 => some (.hexit (rA w0))
  | 3 => some (.hpeek (rD w0) (rA w0))
  | 4 => some (.waittl (BitVec.ofNat 2 (w0 / 256)) (rA w0))
  | 5 => some (.kexit (rA w0))
  | _ => none

/-- The candidate of major 0x17, LEN 1 (R59, R61, R62). -/
def pickRdv64 (w0 w1 : Nat) : Option Instr :=
  match w1 / 512 % 4 with
  | 0 => some (.rdv (rD w0) (rA w0) (BitVec.ofNat 4 w1) (BitVec.ofNat 5 (w1 / 16)))
  | 1 => some (.rdvadd (rD w0) (rA w0) (BitVec.ofNat 4 w1) (BitVec.ofNat 5 (w1 / 16)))
  | 2 => some (.rdvmax (rD w0) (rA w0) (BitVec.ofNat 4 w1) (BitVec.ofNat 5 (w1 / 16)))
  | 3 => some (.rdvor (rD w0) (rA w0) (BitVec.ofNat 4 w1) (BitVec.ofNat 5 (w1 / 16)))
  | _ => none

/-- The candidate of major 0x18, LEN 1 (R59, R61, R62). -/
def pickLit64 (w0 w1 : Nat) : Option Instr :=
  match w0 / 8388608 % 512 with
  | 0 => some (.li (rD w0) (BitVec.ofNat 32 w1))
  | 1 => some (.liz (rD w0) (BitVec.ofNat 32 w1))
  | 2 => some (.lihi (rD w0) (rA w0) (BitVec.ofNat 32 w1))
  | 3 => some (.addl (rD w0) (rA w0) (BitVec.ofNat 32 w1))
  | 4 => some (.andl (rD w0) (rA w0) (BitVec.ofNat 32 w1))
  | 5 => some (.orl (rD w0) (rA w0) (BitVec.ofNat 32 w1))
  | 6 => some (.xorl (rD w0) (rA w0) (BitVec.ofNat 32 w1))
  | 7 => some (.sltl (rD w0) (rA w0) (BitVec.ofNat 32 w1))
  | _ => none

/-- The candidate of major 0x20, LEN 1 (R59, R61, R62). -/
def pickVint64 (w0 w1 : Nat) : Option Instr :=
  match w0 / 134217728 % 32 with
  | 0 => some (.vadd (vxOf w0 w1))
  | 1 => some (.vsub (vxOf w0 w1))
  | 2 => some (.vmul (vxOf w0 w1))
  | 3 => some (.vmulh (vxOf w0 w1))
  | 4 => some (.vmadd (vxOf w0 w1))
  | 5 => some (.vabs (vxOf w0 w1))
  | 6 => some (.vneg (vxOf w0 w1))
  | 7 => some (.vmin (vxOf w0 w1))
  | 8 => some (.vmax (vxOf w0 w1))
  | 9 => some (.vadds (vxOf w0 w1))
  | 10 => some (.vsubs (vxOf w0 w1))
  | 11 => some (.vavg (vxOf w0 w1))
  | 12 => some (.vshl (vxOf w0 w1))
  | 13 => some (.vshr (vxOf w0 w1))
  | 14 => some (.vsra (vxOf w0 w1))
  | 15 => some (.vdot4 (vxOf w0 w1))
  | 16 => some (.vmov (vxOf w0 w1))
  | _ => none

/-- The candidate of major 0x20, LEN 2 (R59, R61, R62). -/
def pickVint96 (w0 w1 w2 : Nat) : Option Instr :=
  match w0 / 134217728 % 32 with
  | 0 => some (.vaddLit (vxOf w0 w1) (BitVec.ofNat 32 w2))
  | 1 => some (.vsubLit (vxOf w0 w1) (BitVec.ofNat 32 w2))
  | 2 => some (.vmulLit (vxOf w0 w1) (BitVec.ofNat 32 w2))
  | 3 => some (.vmulhLit (vxOf w0 w1) (BitVec.ofNat 32 w2))
  | 4 => some (.vmaddLit (vxOf w0 w1) (BitVec.ofNat 32 w2))
  | 5 => some (.vabsLit (vxOf w0 w1) (BitVec.ofNat 32 w2))
  | 6 => some (.vnegLit (vxOf w0 w1) (BitVec.ofNat 32 w2))
  | 7 => some (.vminLit (vxOf w0 w1) (BitVec.ofNat 32 w2))
  | 8 => some (.vmaxLit (vxOf w0 w1) (BitVec.ofNat 32 w2))
  | 9 => some (.vaddsLit (vxOf w0 w1) (BitVec.ofNat 32 w2))
  | 10 => some (.vsubsLit (vxOf w0 w1) (BitVec.ofNat 32 w2))
  | 11 => some (.vavgLit (vxOf w0 w1) (BitVec.ofNat 32 w2))
  | 12 => some (.vshlLit (vxOf w0 w1) (BitVec.ofNat 32 w2))
  | 13 => some (.vshrLit (vxOf w0 w1) (BitVec.ofNat 32 w2))
  | 14 => some (.vsraLit (vxOf w0 w1) (BitVec.ofNat 32 w2))
  | 15 => some (.vdot4Lit (vxOf w0 w1) (BitVec.ofNat 32 w2))
  | 16 => some (.vmovLit (vxOf w0 w1) (BitVec.ofNat 32 w2))
  | _ => none

/-- The candidate of major 0x21, LEN 1 (R59, R61, R62). -/
def pickVflt64 (w0 w1 : Nat) : Option Instr :=
  match w0 / 134217728 % 32 with
  | 0 => some (.vfadd (vxOf w0 w1))
  | 1 => some (.vfsub (vxOf w0 w1))
  | 2 => some (.vfmul (vxOf w0 w1))
  | 3 => some (.vfdiv (vxOf w0 w1))
  | 4 => some (.vfsqrt (vxOf w0 w1))
  | 5 => some (.vfma (vxOf w0 w1))
  | 6 => some (.vfms (vxOf w0 w1))
  | 7 => some (.vfnma (vxOf w0 w1))
  | 8 => some (.vfmin (vxOf w0 w1))
  | 9 => some (.vfmax (vxOf w0 w1))
  | 10 => some (.vfabs (vxOf w0 w1))
  | 11 => some (.vfneg (vxOf w0 w1))
  | _ => none

/-- The candidate of major 0x21, LEN 2 (R59, R61, R62). -/
def pickVflt96 (w0 w1 w2 : Nat) : Option Instr :=
  match w0 / 134217728 % 32 with
  | 0 => some (.vfaddLit (vxOf w0 w1) (BitVec.ofNat 32 w2))
  | 1 => some (.vfsubLit (vxOf w0 w1) (BitVec.ofNat 32 w2))
  | 2 => some (.vfmulLit (vxOf w0 w1) (BitVec.ofNat 32 w2))
  | 3 => some (.vfdivLit (vxOf w0 w1) (BitVec.ofNat 32 w2))
  | 4 => some (.vfsqrtLit (vxOf w0 w1) (BitVec.ofNat 32 w2))
  | 5 => some (.vfmaLit (vxOf w0 w1) (BitVec.ofNat 32 w2))
  | 6 => some (.vfmsLit (vxOf w0 w1) (BitVec.ofNat 32 w2))
  | 7 => some (.vfnmaLit (vxOf w0 w1) (BitVec.ofNat 32 w2))
  | 8 => some (.vfminLit (vxOf w0 w1) (BitVec.ofNat 32 w2))
  | 9 => some (.vfmaxLit (vxOf w0 w1) (BitVec.ofNat 32 w2))
  | 10 => some (.vfabsLit (vxOf w0 w1) (BitVec.ofNat 32 w2))
  | 11 => some (.vfnegLit (vxOf w0 w1) (BitVec.ofNat 32 w2))
  | _ => none

/-- The candidate of major 0x22, LEN 1 (R59, R61, R62). -/
def pickVbit64 (w0 w1 : Nat) : Option Instr :=
  match w0 / 134217728 % 32 with
  | 0 => some (.vand (vxOf w0 w1))
  | 1 => some (.vor (vxOf w0 w1))
  | 2 => some (.vxor (vxOf w0 w1))
  | 3 => some (.vandn (vxOf w0 w1))
  | 4 => some (.vnot (vxOf w0 w1))
  | 5 => some (.vpopc (vxOf w0 w1))
  | 6 => some (.vclz (vxOf w0 w1))
  | 7 => some (.vctz (vxOf w0 w1))
  | 8 => some (.vbrev (vxOf w0 w1))
  | 9 => some (.vfnsb (vxOf w0 w1))
  | 10 => some (.vbfx (vxOf w0 w1))
  | _ => none

/-- The candidate of major 0x22, LEN 2 (R59, R61, R62). -/
def pickVbit96 (w0 w1 w2 : Nat) : Option Instr :=
  match w0 / 134217728 % 32 with
  | 0 => some (.vandLit (vxOf w0 w1) (BitVec.ofNat 32 w2))
  | 1 => some (.vorLit (vxOf w0 w1) (BitVec.ofNat 32 w2))
  | 2 => some (.vxorLit (vxOf w0 w1) (BitVec.ofNat 32 w2))
  | 3 => some (.vandnLit (vxOf w0 w1) (BitVec.ofNat 32 w2))
  | 4 => some (.vnotLit (vxOf w0 w1) (BitVec.ofNat 32 w2))
  | 5 => some (.vpopcLit (vxOf w0 w1) (BitVec.ofNat 32 w2))
  | 6 => some (.vclzLit (vxOf w0 w1) (BitVec.ofNat 32 w2))
  | 7 => some (.vctzLit (vxOf w0 w1) (BitVec.ofNat 32 w2))
  | 8 => some (.vbrevLit (vxOf w0 w1) (BitVec.ofNat 32 w2))
  | 9 => some (.vfnsbLit (vxOf w0 w1) (BitVec.ofNat 32 w2))
  | 10 => some (.vbfxLit (vxOf w0 w1) (BitVec.ofNat 32 w2))
  | _ => none

/-- The candidate of major 0x23, LEN 1 (R59, R61, R62). -/
def pickVcmp64 (w0 w1 : Nat) : Option Instr :=
  match w0 / 134217728 % 32 with
  | 0 => some (.vcmpeq (vxOf w0 w1))
  | 1 => some (.vcmpne (vxOf w0 w1))
  | 2 => some (.vcmplt (vxOf w0 w1))
  | 3 => some (.vcmple (vxOf w0 w1))
  | 4 => some (.vcmpltu (vxOf w0 w1))
  | 5 => some (.vcmpleu (vxOf w0 w1))
  | 6 => some (.vfcmpeq (vxOf w0 w1))
  | 7 => some (.vfcmplt (vxOf w0 w1))
  | 8 => some (.vfcmple (vxOf w0 w1))
  | 9 => some (.vfcmpun (vxOf w0 w1))
  | _ => none

/-- The candidate of major 0x23, LEN 2 (R59, R61, R62). -/
def pickVcmp96 (w0 w1 w2 : Nat) : Option Instr :=
  match w0 / 134217728 % 32 with
  | 0 => some (.vcmpeqLit (vxOf w0 w1) (BitVec.ofNat 32 w2))
  | 1 => some (.vcmpneLit (vxOf w0 w1) (BitVec.ofNat 32 w2))
  | 2 => some (.vcmpltLit (vxOf w0 w1) (BitVec.ofNat 32 w2))
  | 3 => some (.vcmpleLit (vxOf w0 w1) (BitVec.ofNat 32 w2))
  | 4 => some (.vcmpltuLit (vxOf w0 w1) (BitVec.ofNat 32 w2))
  | 5 => some (.vcmpleuLit (vxOf w0 w1) (BitVec.ofNat 32 w2))
  | 6 => some (.vfcmpeqLit (vxOf w0 w1) (BitVec.ofNat 32 w2))
  | 7 => some (.vfcmpltLit (vxOf w0 w1) (BitVec.ofNat 32 w2))
  | 8 => some (.vfcmpleLit (vxOf w0 w1) (BitVec.ofNat 32 w2))
  | 9 => some (.vfcmpunLit (vxOf w0 w1) (BitVec.ofNat 32 w2))
  | _ => none

/-- The candidate of major 0x24, LEN 1 (R59, R61, R62). -/
def pickVpred64 (w0 w1 : Nat) : Option Instr :=
  match w0 / 134217728 % 32 with
  | 0 => some (.plen (vxOf w0 w1))
  | 1 => some (.plenu (vxOf w0 w1))
  | 2 => some (.pand (vxOf w0 w1))
  | 3 => some (.por (vxOf w0 w1))
  | 4 => some (.pxor (vxOf w0 w1))
  | 5 => some (.pnot (vxOf w0 w1))
  | 6 => some (.pcnt (vxOf w0 w1))
  | 7 => some (.pfirst (vxOf w0 w1))
  | 8 => some (.pany (vxOf w0 w1))
  | 9 => some (.pset (vxOf w0 w1))
  | 10 => some (.vlanes (vxOf w0 w1))
  | _ => none

/-- The candidate of major 0x25, LEN 1 (R59, R61, R62). -/
def pickVperm64 (w0 w1 : Nat) : Option Instr :=
  match w0 / 134217728 % 32 with
  | 0 => some (.vbcast (vxOf w0 w1))
  | 1 => some (.vextr (vxOf w0 w1))
  | 2 => some (.vins (vxOf w0 w1))
  | 3 => some (.vslideup (vxOf w0 w1))
  | 4 => some (.vslidedn (vxOf w0 w1))
  | 5 => some (.vperm (vxOf w0 w1))
  | 6 => some (.vcompress (vxOf w0 w1))
  | 7 => some (.vexpand (vxOf w0 w1))
  | 8 => some (.vsel (vxOf w0 w1))
  | 9 => some (.viota (vxOf w0 w1))
  | _ => none

/-- The candidate of major 0x26, LEN 1 (R59, R61, R62). -/
def pickVred64 (w0 w1 : Nat) : Option Instr :=
  match w0 / 134217728 % 32 with
  | 0 => some (.vredadd (vxOf w0 w1))
  | 1 => some (.vredmin (vxOf w0 w1))
  | 2 => some (.vredmax (vxOf w0 w1))
  | 3 => some (.vredminu (vxOf w0 w1))
  | 4 => some (.vredmaxu (vxOf w0 w1))
  | 5 => some (.vredand (vxOf w0 w1))
  | 6 => some (.vredor (vxOf w0 w1))
  | 7 => some (.vredxor (vxOf w0 w1))
  | 8 => some (.vfredadd (vxOf w0 w1))
  | 9 => some (.vfredmin (vxOf w0 w1))
  | 10 => some (.vfredmax (vxOf w0 w1))
  | _ => none

/-- The candidate of major 0x27, LEN 1 (R59, R61, R62). -/
def pickVcvt64 (w0 w1 : Nat) : Option Instr :=
  match w0 / 134217728 % 32 with
  | 0 => some (.vcvt (vxOf w0 w1))
  | 1 => some (.vnarrow (vxOf w0 w1))
  | 2 => some (.vwiden (vxOf w0 w1))
  | 3 => some (.vpackdx (vxOf w0 w1))
  | 4 => some (.vunpkdx (vxOf w0 w1))
  | 5 => some (.vpackdx4 (vxOf w0 w1))
  | 6 => some (.vunpkdx4 (vxOf w0 w1))
  | _ => none

/-- The candidate of major 0x28, LEN 1 (R59, R61, R62). -/
def pickVsfu64 (w0 w1 : Nat) : Option Instr :=
  match w0 / 134217728 % 32 with
  | 0 => some (.vrcp (vxOf w0 w1))
  | 1 => some (.vrsqrt (vxOf w0 w1))
  | 2 => some (.vexp2 (vxOf w0 w1))
  | 3 => some (.vlog2 (vxOf w0 w1))
  | 4 => some (.vtanh (vxOf w0 w1))
  | 5 => some (.vsigm (vxOf w0 w1))
  | 6 => some (.vsinpi (vxOf w0 w1))
  | 7 => some (.vcospi (vxOf w0 w1))
  | _ => none

/-- The candidate of major 0x29, LEN 1 (R59, R61, R62). -/
def pickVld64 (w0 w1 : Nat) : Option Instr :=
  match w0 / 134217728 % 32 with
  | 0 => some (.vld (vxOf w0 w1))
  | 1 => some (.vlds (vxOf w0 w1))
  | 2 => some (.vldx (vxOf w0 w1))
  | 3 => some (.vldb (vxOf w0 w1))
  | 4 => some (.vldff (vxOf w0 w1))
  | _ => none

/-- The candidate of major 0x2a, LEN 1 (R59, R61, R62). -/
def pickVst64 (w0 w1 : Nat) : Option Instr :=
  match w0 / 134217728 % 32 with
  | 0 => some (.vst (vxOf w0 w1))
  | 1 => some (.vsts (vxOf w0 w1))
  | 2 => some (.vstx (vxOf w0 w1))
  | 3 => some (.vstc (vxOf w0 w1))
  | _ => none

/-- The candidate of major 0x2b, LEN 1 (R59, R61, R62). -/
def pickVamo64 (w0 w1 : Nat) : Option Instr :=
  match w0 / 134217728 % 32 with
  | 0 => some (.vamoadd (vxOf w0 w1))
  | 1 => some (.vamoor (vxOf w0 w1))
  | 2 => some (.vamoand (vxOf w0 w1))
  | 3 => some (.vamomin (vxOf w0 w1))
  | 4 => some (.vamomax (vxOf w0 w1))
  | _ => none

/-- The candidate of major 0x2c, LEN 1 (R59, R61, R62). -/
def pickTile64 (w0 w1 : Nat) : Option Instr :=
  match w0 / 8388608 % 512 with
  | 0 => some (.tld (rD w0) (rA w0) (BitVec.ofNat 4 w1))
  | 1 => some (.tst (rD w0) (rA w0) (BitVec.ofNat 4 w1))
  | 2 => some (.tzero (rD w0) (BitVec.ofNat 4 w1))
  | 3 => some (.tacc (rD w0) (BitVec.ofNat 4 w1) (BitVec.ofNat 4 (w1 / 16)))
  | _ => none

/-- The candidate of major 0x2d, LEN 1 (R59, R61, R62). -/
def pickMxp64 (w0 w1 : Nat) : Option Instr :=
  match w0 / 8388608 % 512 with
  | 0 => some (.mxp (rD w0) (rA w0) (rB w0) (mxpOf w1))
  | 1 => some (.mxps (rD w0) (rA w0) (rB w0) (mxpOf w1))
  | 2 => some (.mxprobe (rD w0) (rA w0) (BitVec.ofNat 16 w1) (BitVec.ofNat 3 (w1 / 131072)))
  | _ => none

/-- The candidate of major 0x2e, LEN 1 (R59, R61, R62). -/
def pickPhase64 (w0 w1 : Nat) : Option Instr :=
  match w0 / 8388608 % 512 with
  | 0 => some (.phld (rD w0) (rA w0) (rB w0) (BitVec.ofNat 4 (w1 / 256)) (BitVec.ofNat 3 (w1 / 131072)))
  | 1 => some (.phtrim (rD w0) (rA w0) (BitVec.ofNat 4 (w1 / 256)) (BitVec.ofNat 3 (w1 / 131072)))
  | 2 => some (.phrd (rD w0) (rA w0) (rB w0) (BitVec.ofNat 4 (w1 / 256)) (BitVec.ofNat 3 (w1 / 131072)))
  | 3 => some (.phinv (rD w0) (rA w0) (BitVec.ofNat 4 (w1 / 256)) (BitVec.ofNat 3 (w1 / 131072)))
  | 4 => some (.dcmp (rD w0) (rA w0) (rB w0) (BitVec.ofNat 3 (w1 / 131072)) (bitAt w1 20))
  | _ => none

/-- The candidate of major 0x2f, LEN 1 (R59, R61, R62). -/
def pickCpy64 (w0 w1 : Nat) : Option Instr :=
  match w0 / 8388608 % 512 with
  | 0 => some (.cpy (rD w0) (rA w0) (rB w0) (BitVec.ofNat 5 w1) (bitAt w1 10))
  | 1 => some (.cpy2 (rD w0) (rA w0) (rB w0) (BitVec.ofNat 5 w1) (BitVec.ofNat 5 (w1 / 32)) (bitAt w1 10))
  | 2 => some (.cpyset (rD w0) (rA w0) (rB w0) (BitVec.ofNat 5 w1) (bitAt w1 10))
  | 3 => some (.cpytile (rD w0) (rA w0) (rB w0) (BitVec.ofNat 4 w1) (BitVec.ofNat 7 (w1 / 16)) (BitVec.ofNat 7 (w1 / 2048)) (bitAt w1 18))
  | 4 => some (.cpycmp (rD w0) (rA w0) (rB w0) (BitVec.ofNat 5 w1) (BitVec.ofNat 5 (w1 / 32)) (bitAt w1 10))
  | _ => none

/-- The candidate of major 0x30, LEN 0 (R59, R61, R62). -/
def pickSpad (w0 : Nat) : Option Instr :=
  match w0 / 8388608 % 512 with
  | 0 => some (.splook (rD w0) (rA w0) (rB w0))
  | 1 => some (.spevict (rD w0) (rA w0))
  | 2 => some (.spdemote (rA w0))
  | 3 => some (.sprel (rA w0) (rB w0))
  | 4 => some (.spprio (rA w0) (rB w0))
  | _ => none

/-- The candidate of major 0x31, LEN 0 (R59, R61, R62). -/
def pickSync (w0 : Nat) : Option Instr :=
  match w0 / 8388608 % 512 with
  | 0 => some (.sync (BitVec.ofNat 3 (w0 / 256)))
  | 1 => some (.sarrive (BitVec.ofNat 3 (w0 / 256)))
  | 2 => some (.swait (BitVec.ofNat 3 (w0 / 256)))
  | _ => none

/-- The candidate of major 0x31, LEN 1 (R59, R61, R62). -/
def pickSync64 (w0 w1 : Nat) : Option Instr :=
  match w0 / 8388608 % 512 with
  | 3 => some (.syncv (rD w0) (rA w0) (BitVec.ofNat 3 w1) (BitVec.ofNat 3 (w1 / 8)))
  | _ => none

/-- The candidate of major 0x32, LEN 1 (R59, R61, R62). -/
def pickXchg64 (w0 w1 : Nat) : Option Instr :=
  match w0 / 8388608 % 512 with
  | 0 => some (.xsend (rA w0) (rB w0) (BitVec.ofNat 5 w1) (BitVec.ofNat 3 (w1 / 32)))
  | 1 => some (.xopen (rA w0) (BitVec.ofNat 3 (w1 / 32)))
  | 2 => some (.xput (rA w0))
  | 3 => some (.xend)
  | _ => none

/-- The candidate of major 0x33, LEN 1 (R59, R61, R62). -/
def pickKlch64 (w0 w1 : Nat) : Option Instr :=
  match w0 / 8388608 % 512 with
  | 0 => some (.klaunch (rD w0) (rA w0) (BitVec.ofNat 4 w1) (bitAt w1 4))
  | 1 => some (.kquery (rD w0) (rA w0))
  | 2 => some (.ksignal (rA w0) (rB w0))
  | _ => none

/-- The candidate of major 0x34, LEN 0 (R59, R61, R62). -/
def pickLease (w0 : Nat) : Option Instr :=
  match w0 / 8388608 % 512 with
  | 0 => some (.lquery (rD w0) (rA w0))
  | 1 => some (.lrenew (rD w0) (rA w0))
  | 2 => some (.pgcnt (rD w0) (rA w0))
  | _ => none

/-- The candidate of major 0x35, LEN 1 (R59, R61, R62). -/
def pickLink64 (w0 w1 : Nat) : Option Instr :=
  match w0 / 8388608 % 512 with
  | 0 => some (.ldrain (rD w0) (rA w0))
  | 1 => some (.lstat (rD w0) (rA w0) (BitVec.ofNat 2 w1))
  | 2 => some (.irsend (rD w0) (rA w0) (rB w0))
  | 3 => some (.irrecv (rD w0) (rA w0) (rB w0))
  | _ => none

/-- The candidate of major 0x36, LEN 0 (R59, R61, R62). -/
def pickDbg (w0 : Nat) : Option Instr :=
  match w0 / 8388608 % 512 with
  | 0 => some (.pmark (rA w0))
  | 1 => some (.dstop)
  | _ => none

/-- The candidate instruction of 32 bits: the majors that permit LEN 0 (R59, R60). -/
def pick32 (w0 : Nat) : Option Instr :=
  match w0 / 4 % 64 with
  | 0 => pickSys w0
  | 1 => pickAlu w0
  | 2 => pickAddi w0
  | 3 => pickAndi w0
  | 4 => pickOri w0
  | 5 => pickXori w0
  | 6 => pickShi w0
  | 7 => pickCmpi w0
  | 8 => pickLd w0
  | 9 => pickSt w0
  | 10 => pickBr w0
  | 11 => pickJal w0
  | 12 => pickJalr w0
  | 13 => pickJtab w0
  | 14 => pickMuldiv w0
  | 15 => pickBit w0
  | 16 => pickFpu w0
  | 18 => pickCsr w0
  | 20 => pickAmo w0
  | 21 => pickMemx w0
  | 22 => pickThrd w0
  | 48 => pickSpad w0
  | 49 => pickSync w0
  | 52 => pickLease w0
  | 54 => pickDbg w0
  | _ => none

/-- The candidate instruction of 64 bits: the majors that permit LEN 1 (R59, R60). -/
def pick64 (w0 w1 : Nat) : Option Instr :=
  match w0 / 4 % 64 with
  | 10 => pickBr64 w0 w1
  | 11 => pickJal64 w0 w1
  | 17 => pickFma64 w0 w1
  | 19 => pickBiti64 w0 w1
  | 23 => pickRdv64 w0 w1
  | 24 => pickLit64 w0 w1
  | 32 => pickVint64 w0 w1
  | 33 => pickVflt64 w0 w1
  | 34 => pickVbit64 w0 w1
  | 35 => pickVcmp64 w0 w1
  | 36 => pickVpred64 w0 w1
  | 37 => pickVperm64 w0 w1
  | 38 => pickVred64 w0 w1
  | 39 => pickVcvt64 w0 w1
  | 40 => pickVsfu64 w0 w1
  | 41 => pickVld64 w0 w1
  | 42 => pickVst64 w0 w1
  | 43 => pickVamo64 w0 w1
  | 44 => pickTile64 w0 w1
  | 45 => pickMxp64 w0 w1
  | 46 => pickPhase64 w0 w1
  | 47 => pickCpy64 w0 w1
  | 49 => pickSync64 w0 w1
  | 50 => pickXchg64 w0 w1
  | 51 => pickKlch64 w0 w1
  | 53 => pickLink64 w0 w1
  | _ => none

/-- The candidate instruction of 96 bits: the majors that permit LEN 2 (R59, R60). -/
def pick96 (w0 w1 w2 : Nat) : Option Instr :=
  match w0 / 4 % 64 with
  | 32 => pickVint96 w0 w1 w2
  | 33 => pickVflt96 w0 w1 w2
  | 34 => pickVbit96 w0 w1 w2
  | 35 => pickVcmp96 w0 w1 w2
  | _ => none

/-- The words of an instruction (R44, R50 to R62); an event has none. -/
def encode : Instr → List Nat
  | .nop => [qz 0 0]
  | .fence n => [qz 1 n.toNat]
  | .trap n => [qz 2 n.toNat]
  | .bkpt n => [qz 3 n.toNat]
  | .tret => [qz 4 0]
  | .pmret => [qz 5 0]
  | .iflush => [qz 6 0]
  | .yield => [qz 7 0]
  | .ill n => [qz 255 n.toNat]
  | .add d a b => [q3 1 0 0 (b.toNat) (a.toNat) (d.toNat)]
  | .sub d a b => [q3 1 0 1 (b.toNat) (a.toNat) (d.toNat)]
  | .and d a b => [q3 1 0 2 (b.toNat) (a.toNat) (d.toNat)]
  | .or d a b => [q3 1 0 3 (b.toNat) (a.toNat) (d.toNat)]
  | .xor d a b => [q3 1 0 4 (b.toNat) (a.toNat) (d.toNat)]
  | .andn d a b => [q3 1 0 5 (b.toNat) (a.toNat) (d.toNat)]
  | .orn d a b => [q3 1 0 6 (b.toNat) (a.toNat) (d.toNat)]
  | .xnor d a b => [q3 1 0 7 (b.toNat) (a.toNat) (d.toNat)]
  | .shl d a b => [q3 1 0 8 (b.toNat) (a.toNat) (d.toNat)]
  | .shr d a b => [q3 1 0 9 (b.toNat) (a.toNat) (d.toNat)]
  | .sra d a b => [q3 1 0 10 (b.toNat) (a.toNat) (d.toNat)]
  | .rol d a b => [q3 1 0 11 (b.toNat) (a.toNat) (d.toNat)]
  | .ror d a b => [q3 1 0 12 (b.toNat) (a.toNat) (d.toNat)]
  | .slt d a b => [q3 1 0 13 (b.toNat) (a.toNat) (d.toNat)]
  | .sltu d a b => [q3 1 0 14 (b.toNat) (a.toNat) (d.toNat)]
  | .seq d a b => [q3 1 0 15 (b.toNat) (a.toNat) (d.toNat)]
  | .sne d a b => [q3 1 0 16 (b.toNat) (a.toNat) (d.toNat)]
  | .min d a b => [q3 1 0 17 (b.toNat) (a.toNat) (d.toNat)]
  | .max d a b => [q3 1 0 18 (b.toNat) (a.toNat) (d.toNat)]
  | .minu d a b => [q3 1 0 19 (b.toNat) (a.toNat) (d.toNat)]
  | .maxu d a b => [q3 1 0 20 (b.toNat) (a.toNat) (d.toNat)]
  | .addw d a b => [q3 1 0 21 (b.toNat) (a.toNat) (d.toNat)]
  | .subw d a b => [q3 1 0 22 (b.toNat) (a.toNat) (d.toNat)]
  | .shlw d a b => [q3 1 0 23 (b.toNat) (a.toNat) (d.toNat)]
  | .shrw d a b => [q3 1 0 24 (b.toNat) (a.toNat) (d.toNat)]
  | .sraw d a b => [q3 1 0 25 (b.toNat) (a.toNat) (d.toNat)]
  | .addi d a imm => [qi 2 0 imm.toNat a.toNat d.toNat]
  | .andi d a imm => [qi 3 0 imm.toNat a.toNat d.toNat]
  | .ori d a imm => [qi 4 0 imm.toNat a.toNat d.toNat]
  | .xori d a imm => [qi 5 0 imm.toNat a.toNat d.toNat]
  | .shli d a n => [qi 6 0 (n.toNat + 64 * 0) a.toNat d.toNat]
  | .shri d a n => [qi 6 0 (n.toNat + 64 * 1) a.toNat d.toNat]
  | .srai d a n => [qi 6 0 (n.toNat + 64 * 2) a.toNat d.toNat]
  | .roli d a n => [qi 6 0 (n.toNat + 64 * 3) a.toNat d.toNat]
  | .rori d a n => [qi 6 0 (n.toNat + 64 * 4) a.toNat d.toNat]
  | .slti d a imm => [qi 7 0 (imm.toNat + 2048 * 0) a.toNat d.toNat]
  | .sltui d a imm => [qi 7 0 (imm.toNat + 2048 * 1) a.toNat d.toNat]
  | .seqi d a imm => [qi 7 0 (imm.toNat + 2048 * 2) a.toNat d.toNat]
  | .snei d a imm => [qi 7 0 (imm.toNat + 2048 * 3) a.toNat d.toNat]
  | .ldb d a off => [qs 8 0 off.toNat 0 a.toNat d.toNat]
  | .ldh d a off => [qs 8 0 off.toNat 1 a.toNat d.toNat]
  | .ldw d a off => [qs 8 0 off.toNat 2 a.toNat d.toNat]
  | .ldd d a off => [qs 8 0 off.toNat 3 a.toNat d.toNat]
  | .ldbz d a off => [qs 8 0 off.toNat 4 a.toNat d.toNat]
  | .ldhz d a off => [qs 8 0 off.toNat 5 a.toNat d.toNat]
  | .ldwz d a off => [qs 8 0 off.toNat 6 a.toNat d.toNat]
  | .stb b a off => [qs 9 0 off.toNat 0 a.toNat b.toNat]
  | .sth b a off => [qs 9 0 off.toNat 1 a.toNat b.toNat]
  | .stw b a off => [qs 9 0 off.toNat 2 a.toNat b.toNat]
  | .std b a off => [qs 9 0 off.toNat 3 a.toNat b.toNat]
  | .beq a b off => [qs 10 0 off.toNat 0 b.toNat a.toNat]
  | .bne a b off => [qs 10 0 off.toNat 1 b.toNat a.toNat]
  | .blt a b off => [qs 10 0 off.toNat 2 b.toNat a.toNat]
  | .bge a b off => [qs 10 0 off.toNat 3 b.toNat a.toNat]
  | .bltu a b off => [qs 10 0 off.toNat 4 b.toNat a.toNat]
  | .bgeu a b off => [qs 10 0 off.toNat 5 b.toNat a.toNat]
  | .bbs a b off => [qs 10 0 off.toNat 6 b.toNat a.toNat]
  | .bbc a b off => [qs 10 0 off.toNat 7 b.toNat a.toNat]
  | .beqLong a b off => [qs 10 1 0 0 b.toNat a.toNat, off.toNat]
  | .bneLong a b off => [qs 10 1 0 1 b.toNat a.toNat, off.toNat]
  | .bltLong a b off => [qs 10 1 0 2 b.toNat a.toNat, off.toNat]
  | .bgeLong a b off => [qs 10 1 0 3 b.toNat a.toNat, off.toNat]
  | .bltuLong a b off => [qs 10 1 0 4 b.toNat a.toNat, off.toNat]
  | .bgeuLong a b off => [qs 10 1 0 5 b.toNat a.toNat, off.toNat]
  | .bbsLong a b off => [qs 10 1 0 6 b.toNat a.toNat, off.toNat]
  | .bbcLong a b off => [qs 10 1 0 7 b.toNat a.toNat, off.toNat]
  | .j off => [qj 0 off.toNat 0]
  | .jal off => [qj 0 off.toNat 1]
  | .jLong off => [qj 1 0 0, off.toNat]
  | .jalLong off => [qj 1 0 1, off.toNat]
  | .jr a imm => [qi 12 0 imm.toNat a.toNat 0]
  | .jalr a imm => [qi 12 0 imm.toNat a.toNat 1]
  | .jtab a b => [q3 13 0 0 (b.toNat) (a.toNat) (0)]
  | .mul d a b => [q3 14 0 0 (b.toNat) (a.toNat) (d.toNat)]
  | .mulh d a b => [q3 14 0 1 (b.toNat) (a.toNat) (d.toNat)]
  | .mulhu d a b => [q3 14 0 2 (b.toNat) (a.toNat) (d.toNat)]
  | .mulhsu d a b => [q3 14 0 3 (b.toNat) (a.toNat) (d.toNat)]
  | .mulw d a b => [q3 14 0 4 (b.toNat) (a.toNat) (d.toNat)]
  | .div d a b => [q3 14 0 5 (b.toNat) (a.toNat) (d.toNat)]
  | .divu d a b => [q3 14 0 6 (b.toNat) (a.toNat) (d.toNat)]
  | .rem d a b => [q3 14 0 7 (b.toNat) (a.toNat) (d.toNat)]
  | .remu d a b => [q3 14 0 8 (b.toNat) (a.toNat) (d.toNat)]
  | .divw d a b => [q3 14 0 9 (b.toNat) (a.toNat) (d.toNat)]
  | .remw d a b => [q3 14 0 10 (b.toNat) (a.toNat) (d.toNat)]
  | .clz d a => [q3 15 0 0 (0) (a.toNat) (d.toNat)]
  | .ctz d a => [q3 15 0 1 (0) (a.toNat) (d.toNat)]
  | .popc d a => [q3 15 0 2 (0) (a.toNat) (d.toNat)]
  | .brev d a => [q3 15 0 3 (0) (a.toNat) (d.toNat)]
  | .bswap d a => [q3 15 0 4 (0) (a.toNat) (d.toNat)]
  | .fnsb d a b => [q3 15 0 5 (b.toNat) (a.toNat) (d.toNat)]
  | .clzw d a => [q3 15 0 6 (0) (a.toNat) (d.toNat)]
  | .ctzw d a => [q3 15 0 7 (0) (a.toNat) (d.toNat)]
  | .popcw d a => [q3 15 0 8 (0) (a.toNat) (d.toNat)]
  | .bfx d a b => [q3 15 0 9 (b.toNat) (a.toNat) (d.toNat)]
  | .bfxu d a b => [q3 15 0 10 (b.toNat) (a.toNat) (d.toNat)]
  | .bfi d a b => [q3 15 0 11 (b.toNat) (a.toNat) (d.toNat)]
  | .bfmsk d b => [q3 15 0 12 (b.toNat) (0) (d.toNat)]
  | .bfxi d a off wid => [q3 19 1 0 0 a.toNat d.toNat, off.toNat + 128 * wid.toNat + 16384 * 0]
  | .bfxui d a off wid => [q3 19 1 0 0 a.toNat d.toNat, off.toNat + 128 * wid.toNat + 16384 * 1]
  | .bfii d a off wid => [q3 19 1 0 0 a.toNat d.toNat, off.toNat + 128 * wid.toNat + 16384 * 2]
  | .fadd ty d a b => [q3 16 0 (0 + 64 * ty.toNat) b.toNat a.toNat d.toNat]
  | .fsub ty d a b => [q3 16 0 (1 + 64 * ty.toNat) b.toNat a.toNat d.toNat]
  | .fmul ty d a b => [q3 16 0 (2 + 64 * ty.toNat) b.toNat a.toNat d.toNat]
  | .fdiv ty d a b => [q3 16 0 (3 + 64 * ty.toNat) b.toNat a.toNat d.toNat]
  | .fsqrt ty d a => [q3 16 0 (4 + 64 * ty.toNat) 0 a.toNat d.toNat]
  | .fmin ty d a b => [q3 16 0 (5 + 64 * ty.toNat) b.toNat a.toNat d.toNat]
  | .fmax ty d a b => [q3 16 0 (6 + 64 * ty.toNat) b.toNat a.toNat d.toNat]
  | .fminn ty d a b => [q3 16 0 (7 + 64 * ty.toNat) b.toNat a.toNat d.toNat]
  | .fmaxn ty d a b => [q3 16 0 (8 + 64 * ty.toNat) b.toNat a.toNat d.toNat]
  | .fsgnj ty d a b => [q3 16 0 (9 + 64 * ty.toNat) b.toNat a.toNat d.toNat]
  | .fsgnjn ty d a b => [q3 16 0 (10 + 64 * ty.toNat) b.toNat a.toNat d.toNat]
  | .fsgnjx ty d a b => [q3 16 0 (11 + 64 * ty.toNat) b.toNat a.toNat d.toNat]
  | .feq ty d a b => [q3 16 0 (12 + 64 * ty.toNat) b.toNat a.toNat d.toNat]
  | .flt ty d a b => [q3 16 0 (13 + 64 * ty.toNat) b.toNat a.toNat d.toNat]
  | .fle ty d a b => [q3 16 0 (14 + 64 * ty.toNat) b.toNat a.toNat d.toNat]
  | .fclass ty d a => [q3 16 0 (15 + 64 * ty.toNat) 0 a.toNat d.toNat]
  | .fcvt ty d a src => [q3 16 0 (16 + 64 * ty.toNat) src.toNat a.toNat d.toNat]
  | .fcvti ty d a rm w => [q3 16 0 (17 + 64 * ty.toNat) (w.toNat + 2 * rm.toNat) a.toNat d.toNat]
  | .fcvtu ty d a rm w => [q3 16 0 (18 + 64 * ty.toNat) (w.toNat + 2 * rm.toNat) a.toNat d.toNat]
  | .icvtf ty d a rm w => [q3 16 0 (19 + 64 * ty.toNat) (w.toNat + 2 * rm.toNat) a.toNat d.toNat]
  | .ucvtf ty d a rm w => [q3 16 0 (20 + 64 * ty.toNat) (w.toNat + 2 * rm.toNat) a.toNat d.toNat]
  | .fma ty rm d a b c => [q3 17 1 0 b.toNat a.toNat d.toNat, c.toNat + 32 * ty.toNat + 256 * 0 + 1024 * rm.toNat]
  | .fms ty rm d a b c => [q3 17 1 0 b.toNat a.toNat d.toNat, c.toNat + 32 * ty.toNat + 256 * 1 + 1024 * rm.toNat]
  | .fnma ty rm d a b c => [q3 17 1 0 b.toNat a.toNat d.toNat, c.toNat + 32 * ty.toNat + 256 * 2 + 1024 * rm.toNat]
  | .fnms ty rm d a b c => [q3 17 1 0 b.toNat a.toNat d.toNat, c.toNat + 32 * ty.toNat + 256 * 3 + 1024 * rm.toNat]
  | .csrr d csr => [qi 18 0 (csr.toNat + 4096 * 0) 0 d.toNat]
  | .csrw d a csr => [qi 18 0 (csr.toNat + 4096 * 1) a.toNat d.toNat]
  | .csrs d a csr => [qi 18 0 (csr.toNat + 4096 * 2) a.toNat d.toNat]
  | .csrc d a csr => [qi 18 0 (csr.toNat + 4096 * 3) a.toNat d.toNat]
  | .amoadd dbl d a b => [q3 20 0 (2 + dbl.toNat + 4 * 0) b.toNat a.toNat d.toNat]
  | .amoand dbl d a b => [q3 20 0 (2 + dbl.toNat + 4 * 1) b.toNat a.toNat d.toNat]
  | .amoor dbl d a b => [q3 20 0 (2 + dbl.toNat + 4 * 2) b.toNat a.toNat d.toNat]
  | .amoxor dbl d a b => [q3 20 0 (2 + dbl.toNat + 4 * 3) b.toNat a.toNat d.toNat]
  | .amomin dbl d a b => [q3 20 0 (2 + dbl.toNat + 4 * 4) b.toNat a.toNat d.toNat]
  | .amomax dbl d a b => [q3 20 0 (2 + dbl.toNat + 4 * 5) b.toNat a.toNat d.toNat]
  | .amominu dbl d a b => [q3 20 0 (2 + dbl.toNat + 4 * 6) b.toNat a.toNat d.toNat]
  | .amomaxu dbl d a b => [q3 20 0 (2 + dbl.toNat + 4 * 7) b.toNat a.toNat d.toNat]
  | .amoswp dbl d a b => [q3 20 0 (2 + dbl.toNat + 4 * 8) b.toNat a.toNat d.toNat]
  | .amocas dbl d a b => [q3 20 0 (2 + dbl.toNat + 4 * 9) b.toNat a.toNat d.toNat]
  | .acq a shared => [q3 21 0 0 shared.toNat a.toNat 0]
  | .rel a => [q3 21 0 1 (0) (a.toNat) (0)]
  | .tryacq d a shared => [q3 21 0 2 shared.toNat a.toNat d.toNat]
  | .bind d a b => [q3 21 0 3 (b.toNat) (a.toNat) (d.toNat)]
  | .unbind d a => [q3 21 0 4 (0) (a.toNat) (d.toNat)]
  | .pref a h => [q3 21 0 5 h.toNat a.toNat 0]
  | .wbf => [q3 21 0 6 (0) (0) (0)]
  | .ldro d a => [q3 21 0 7 (0) (a.toNat) (d.toNat)]
  | .hstart d a b => [q3 22 0 0 (b.toNat) (a.toNat) (d.toNat)]
  | .hjoin d a => [q3 22 0 1 (0) (a.toNat) (d.toNat)]
  | .hexit a => [q3 22 0 2 (0) (a.toNat) (0)]
  | .hpeek d a => [q3 22 0 3 (0) (a.toNat) (d.toNat)]
  | .waittl t a => [q3 22 0 4 0 a.toNat t.toNat]
  | .kexit a => [q3 22 0 5 (0) (a.toNat) (0)]
  | .rdv d a id count => [q3 23 1 0 0 a.toNat d.toNat, id.toNat + 16 * count.toNat + 512 * 0]
  | .rdvadd d a id count => [q3 23 1 0 0 a.toNat d.toNat, id.toNat + 16 * count.toNat + 512 * 1]
  | .rdvmax d a id count => [q3 23 1 0 0 a.toNat d.toNat, id.toNat + 16 * count.toNat + 512 * 2]
  | .rdvor d a id count => [q3 23 1 0 0 a.toNat d.toNat, id.toNat + 16 * count.toNat + 512 * 3]
  | .li d imm => [q3 24 1 0 (0) (0) (d.toNat), imm.toNat]
  | .liz d imm => [q3 24 1 1 (0) (0) (d.toNat), imm.toNat]
  | .lihi d a imm => [q3 24 1 2 (0) (a.toNat) (d.toNat), imm.toNat]
  | .addl d a imm => [q3 24 1 3 (0) (a.toNat) (d.toNat), imm.toNat]
  | .andl d a imm => [q3 24 1 4 (0) (a.toNat) (d.toNat), imm.toNat]
  | .orl d a imm => [q3 24 1 5 (0) (a.toNat) (d.toNat), imm.toNat]
  | .xorl d a imm => [q3 24 1 6 (0) (a.toNat) (d.toNat), imm.toNat]
  | .sltl d a imm => [q3 24 1 7 (0) (a.toNat) (d.toNat), imm.toNat]
  | .vadd f => [vx0 32 1 0 f, vx1 f]
  | .vsub f => [vx0 32 1 1 f, vx1 f]
  | .vmul f => [vx0 32 1 2 f, vx1 f]
  | .vmulh f => [vx0 32 1 3 f, vx1 f]
  | .vmadd f => [vx0 32 1 4 f, vx1 f]
  | .vabs f => [vx0 32 1 5 f, vx1 f]
  | .vneg f => [vx0 32 1 6 f, vx1 f]
  | .vmin f => [vx0 32 1 7 f, vx1 f]
  | .vmax f => [vx0 32 1 8 f, vx1 f]
  | .vadds f => [vx0 32 1 9 f, vx1 f]
  | .vsubs f => [vx0 32 1 10 f, vx1 f]
  | .vavg f => [vx0 32 1 11 f, vx1 f]
  | .vshl f => [vx0 32 1 12 f, vx1 f]
  | .vshr f => [vx0 32 1 13 f, vx1 f]
  | .vsra f => [vx0 32 1 14 f, vx1 f]
  | .vdot4 f => [vx0 32 1 15 f, vx1 f]
  | .vmov f => [vx0 32 1 16 f, vx1 f]
  | .vaddLit f lit => [vx0 32 2 0 f, vx1 f, lit.toNat]
  | .vsubLit f lit => [vx0 32 2 1 f, vx1 f, lit.toNat]
  | .vmulLit f lit => [vx0 32 2 2 f, vx1 f, lit.toNat]
  | .vmulhLit f lit => [vx0 32 2 3 f, vx1 f, lit.toNat]
  | .vmaddLit f lit => [vx0 32 2 4 f, vx1 f, lit.toNat]
  | .vabsLit f lit => [vx0 32 2 5 f, vx1 f, lit.toNat]
  | .vnegLit f lit => [vx0 32 2 6 f, vx1 f, lit.toNat]
  | .vminLit f lit => [vx0 32 2 7 f, vx1 f, lit.toNat]
  | .vmaxLit f lit => [vx0 32 2 8 f, vx1 f, lit.toNat]
  | .vaddsLit f lit => [vx0 32 2 9 f, vx1 f, lit.toNat]
  | .vsubsLit f lit => [vx0 32 2 10 f, vx1 f, lit.toNat]
  | .vavgLit f lit => [vx0 32 2 11 f, vx1 f, lit.toNat]
  | .vshlLit f lit => [vx0 32 2 12 f, vx1 f, lit.toNat]
  | .vshrLit f lit => [vx0 32 2 13 f, vx1 f, lit.toNat]
  | .vsraLit f lit => [vx0 32 2 14 f, vx1 f, lit.toNat]
  | .vdot4Lit f lit => [vx0 32 2 15 f, vx1 f, lit.toNat]
  | .vmovLit f lit => [vx0 32 2 16 f, vx1 f, lit.toNat]
  | .vfadd f => [vx0 33 1 0 f, vx1 f]
  | .vfsub f => [vx0 33 1 1 f, vx1 f]
  | .vfmul f => [vx0 33 1 2 f, vx1 f]
  | .vfdiv f => [vx0 33 1 3 f, vx1 f]
  | .vfsqrt f => [vx0 33 1 4 f, vx1 f]
  | .vfma f => [vx0 33 1 5 f, vx1 f]
  | .vfms f => [vx0 33 1 6 f, vx1 f]
  | .vfnma f => [vx0 33 1 7 f, vx1 f]
  | .vfmin f => [vx0 33 1 8 f, vx1 f]
  | .vfmax f => [vx0 33 1 9 f, vx1 f]
  | .vfabs f => [vx0 33 1 10 f, vx1 f]
  | .vfneg f => [vx0 33 1 11 f, vx1 f]
  | .vfaddLit f lit => [vx0 33 2 0 f, vx1 f, lit.toNat]
  | .vfsubLit f lit => [vx0 33 2 1 f, vx1 f, lit.toNat]
  | .vfmulLit f lit => [vx0 33 2 2 f, vx1 f, lit.toNat]
  | .vfdivLit f lit => [vx0 33 2 3 f, vx1 f, lit.toNat]
  | .vfsqrtLit f lit => [vx0 33 2 4 f, vx1 f, lit.toNat]
  | .vfmaLit f lit => [vx0 33 2 5 f, vx1 f, lit.toNat]
  | .vfmsLit f lit => [vx0 33 2 6 f, vx1 f, lit.toNat]
  | .vfnmaLit f lit => [vx0 33 2 7 f, vx1 f, lit.toNat]
  | .vfminLit f lit => [vx0 33 2 8 f, vx1 f, lit.toNat]
  | .vfmaxLit f lit => [vx0 33 2 9 f, vx1 f, lit.toNat]
  | .vfabsLit f lit => [vx0 33 2 10 f, vx1 f, lit.toNat]
  | .vfnegLit f lit => [vx0 33 2 11 f, vx1 f, lit.toNat]
  | .vand f => [vx0 34 1 0 f, vx1 f]
  | .vor f => [vx0 34 1 1 f, vx1 f]
  | .vxor f => [vx0 34 1 2 f, vx1 f]
  | .vandn f => [vx0 34 1 3 f, vx1 f]
  | .vnot f => [vx0 34 1 4 f, vx1 f]
  | .vpopc f => [vx0 34 1 5 f, vx1 f]
  | .vclz f => [vx0 34 1 6 f, vx1 f]
  | .vctz f => [vx0 34 1 7 f, vx1 f]
  | .vbrev f => [vx0 34 1 8 f, vx1 f]
  | .vfnsb f => [vx0 34 1 9 f, vx1 f]
  | .vbfx f => [vx0 34 1 10 f, vx1 f]
  | .vandLit f lit => [vx0 34 2 0 f, vx1 f, lit.toNat]
  | .vorLit f lit => [vx0 34 2 1 f, vx1 f, lit.toNat]
  | .vxorLit f lit => [vx0 34 2 2 f, vx1 f, lit.toNat]
  | .vandnLit f lit => [vx0 34 2 3 f, vx1 f, lit.toNat]
  | .vnotLit f lit => [vx0 34 2 4 f, vx1 f, lit.toNat]
  | .vpopcLit f lit => [vx0 34 2 5 f, vx1 f, lit.toNat]
  | .vclzLit f lit => [vx0 34 2 6 f, vx1 f, lit.toNat]
  | .vctzLit f lit => [vx0 34 2 7 f, vx1 f, lit.toNat]
  | .vbrevLit f lit => [vx0 34 2 8 f, vx1 f, lit.toNat]
  | .vfnsbLit f lit => [vx0 34 2 9 f, vx1 f, lit.toNat]
  | .vbfxLit f lit => [vx0 34 2 10 f, vx1 f, lit.toNat]
  | .vcmpeq f => [vx0 35 1 0 f, vx1 f]
  | .vcmpne f => [vx0 35 1 1 f, vx1 f]
  | .vcmplt f => [vx0 35 1 2 f, vx1 f]
  | .vcmple f => [vx0 35 1 3 f, vx1 f]
  | .vcmpltu f => [vx0 35 1 4 f, vx1 f]
  | .vcmpleu f => [vx0 35 1 5 f, vx1 f]
  | .vfcmpeq f => [vx0 35 1 6 f, vx1 f]
  | .vfcmplt f => [vx0 35 1 7 f, vx1 f]
  | .vfcmple f => [vx0 35 1 8 f, vx1 f]
  | .vfcmpun f => [vx0 35 1 9 f, vx1 f]
  | .vcmpeqLit f lit => [vx0 35 2 0 f, vx1 f, lit.toNat]
  | .vcmpneLit f lit => [vx0 35 2 1 f, vx1 f, lit.toNat]
  | .vcmpltLit f lit => [vx0 35 2 2 f, vx1 f, lit.toNat]
  | .vcmpleLit f lit => [vx0 35 2 3 f, vx1 f, lit.toNat]
  | .vcmpltuLit f lit => [vx0 35 2 4 f, vx1 f, lit.toNat]
  | .vcmpleuLit f lit => [vx0 35 2 5 f, vx1 f, lit.toNat]
  | .vfcmpeqLit f lit => [vx0 35 2 6 f, vx1 f, lit.toNat]
  | .vfcmpltLit f lit => [vx0 35 2 7 f, vx1 f, lit.toNat]
  | .vfcmpleLit f lit => [vx0 35 2 8 f, vx1 f, lit.toNat]
  | .vfcmpunLit f lit => [vx0 35 2 9 f, vx1 f, lit.toNat]
  | .plen f => [vx0 36 1 0 f, vx1 f]
  | .plenu f => [vx0 36 1 1 f, vx1 f]
  | .pand f => [vx0 36 1 2 f, vx1 f]
  | .por f => [vx0 36 1 3 f, vx1 f]
  | .pxor f => [vx0 36 1 4 f, vx1 f]
  | .pnot f => [vx0 36 1 5 f, vx1 f]
  | .pcnt f => [vx0 36 1 6 f, vx1 f]
  | .pfirst f => [vx0 36 1 7 f, vx1 f]
  | .pany f => [vx0 36 1 8 f, vx1 f]
  | .pset f => [vx0 36 1 9 f, vx1 f]
  | .vlanes f => [vx0 36 1 10 f, vx1 f]
  | .vbcast f => [vx0 37 1 0 f, vx1 f]
  | .vextr f => [vx0 37 1 1 f, vx1 f]
  | .vins f => [vx0 37 1 2 f, vx1 f]
  | .vslideup f => [vx0 37 1 3 f, vx1 f]
  | .vslidedn f => [vx0 37 1 4 f, vx1 f]
  | .vperm f => [vx0 37 1 5 f, vx1 f]
  | .vcompress f => [vx0 37 1 6 f, vx1 f]
  | .vexpand f => [vx0 37 1 7 f, vx1 f]
  | .vsel f => [vx0 37 1 8 f, vx1 f]
  | .viota f => [vx0 37 1 9 f, vx1 f]
  | .vredadd f => [vx0 38 1 0 f, vx1 f]
  | .vredmin f => [vx0 38 1 1 f, vx1 f]
  | .vredmax f => [vx0 38 1 2 f, vx1 f]
  | .vredminu f => [vx0 38 1 3 f, vx1 f]
  | .vredmaxu f => [vx0 38 1 4 f, vx1 f]
  | .vredand f => [vx0 38 1 5 f, vx1 f]
  | .vredor f => [vx0 38 1 6 f, vx1 f]
  | .vredxor f => [vx0 38 1 7 f, vx1 f]
  | .vfredadd f => [vx0 38 1 8 f, vx1 f]
  | .vfredmin f => [vx0 38 1 9 f, vx1 f]
  | .vfredmax f => [vx0 38 1 10 f, vx1 f]
  | .vcvt f => [vx0 39 1 0 f, vx1 f]
  | .vnarrow f => [vx0 39 1 1 f, vx1 f]
  | .vwiden f => [vx0 39 1 2 f, vx1 f]
  | .vpackdx f => [vx0 39 1 3 f, vx1 f]
  | .vunpkdx f => [vx0 39 1 4 f, vx1 f]
  | .vpackdx4 f => [vx0 39 1 5 f, vx1 f]
  | .vunpkdx4 f => [vx0 39 1 6 f, vx1 f]
  | .vrcp f => [vx0 40 1 0 f, vx1 f]
  | .vrsqrt f => [vx0 40 1 1 f, vx1 f]
  | .vexp2 f => [vx0 40 1 2 f, vx1 f]
  | .vlog2 f => [vx0 40 1 3 f, vx1 f]
  | .vtanh f => [vx0 40 1 4 f, vx1 f]
  | .vsigm f => [vx0 40 1 5 f, vx1 f]
  | .vsinpi f => [vx0 40 1 6 f, vx1 f]
  | .vcospi f => [vx0 40 1 7 f, vx1 f]
  | .vld f => [vx0 41 1 0 f, vx1 f]
  | .vlds f => [vx0 41 1 1 f, vx1 f]
  | .vldx f => [vx0 41 1 2 f, vx1 f]
  | .vldb f => [vx0 41 1 3 f, vx1 f]
  | .vldff f => [vx0 41 1 4 f, vx1 f]
  | .vst f => [vx0 42 1 0 f, vx1 f]
  | .vsts f => [vx0 42 1 1 f, vx1 f]
  | .vstx f => [vx0 42 1 2 f, vx1 f]
  | .vstc f => [vx0 42 1 3 f, vx1 f]
  | .vamoadd f => [vx0 43 1 0 f, vx1 f]
  | .vamoor f => [vx0 43 1 1 f, vx1 f]
  | .vamoand f => [vx0 43 1 2 f, vx1 f]
  | .vamomin f => [vx0 43 1 3 f, vx1 f]
  | .vamomax f => [vx0 43 1 4 f, vx1 f]
  | .tld d a n => [q3 44 1 0 (0) (a.toNat) (d.toNat), n.toNat]
  | .tst d a n => [q3 44 1 1 (0) (a.toNat) (d.toNat), n.toNat]
  | .tzero d n => [q3 44 1 2 (0) (0) (d.toNat), n.toNat]
  | .tacc d n m => [q3 44 1 3 (0) (0) (d.toNat), n.toNat + 16 * m.toNat]
  | .mxp d a b m => [q3 45 1 0 (b.toNat) (a.toNat) (d.toNat), mxpW1 m]
  | .mxps d a b m => [q3 45 1 1 (b.toNat) (a.toNat) (d.toNat), mxpW1 m]
  | .mxprobe d a mask cap => [q3 45 1 2 (0) (a.toNat) (d.toNat), mask.toNat + 131072 * cap.toNat]
  | .phld d a b bank cap => [q3 46 1 0 (b.toNat) (a.toNat) (d.toNat), 256 * bank.toNat + 131072 * cap.toNat]
  | .phtrim d a bank cap => [q3 46 1 1 (0) (a.toNat) (d.toNat), 256 * bank.toNat + 131072 * cap.toNat]
  | .phrd d a b bank cap => [q3 46 1 2 (b.toNat) (a.toNat) (d.toNat), 256 * bank.toNat + 131072 * cap.toNat]
  | .phinv d a bank cap => [q3 46 1 3 (0) (a.toNat) (d.toNat), 256 * bank.toNat + 131072 * cap.toNat]
  | .dcmp d a b cap res => [q3 46 1 4 (b.toNat) (a.toNat) (d.toNat), 131072 * cap.toNat + 1048576 * res.toNat]
  | .cpy d a b c raw => [q3 47 1 0 (b.toNat) (a.toNat) (d.toNat), c.toNat + 1024 * raw.toNat]
  | .cpy2 d a b c e raw => [q3 47 1 1 (b.toNat) (a.toNat) (d.toNat), c.toNat + 32 * e.toNat + 1024 * raw.toNat]
  | .cpyset d a b c raw => [q3 47 1 2 (b.toNat) (a.toNat) (d.toNat), c.toNat + 1024 * raw.toNat]
  | .cpytile d a b tile first count dir => [q3 47 1 3 (b.toNat) (a.toNat) (d.toNat), tile.toNat + 16 * first.toNat + 2048 * count.toNat + 262144 * dir.toNat]
  | .cpycmp d a b c e raw => [q3 47 1 4 (b.toNat) (a.toNat) (d.toNat), c.toNat + 32 * e.toNat + 1024 * raw.toNat]
  | .splook d a b => [q3 48 0 0 (b.toNat) (a.toNat) (d.toNat)]
  | .spevict d a => [q3 48 0 1 (0) (a.toNat) (d.toNat)]
  | .spdemote a => [q3 48 0 2 (0) (a.toNat) (0)]
  | .sprel a b => [q3 48 0 3 (b.toNat) (a.toNat) (0)]
  | .spprio a b => [q3 48 0 4 (b.toNat) (a.toNat) (0)]
  | .sync n => [q3 49 0 0 0 0 n.toNat]
  | .sarrive n => [q3 49 0 1 0 0 n.toNat]
  | .swait n => [q3 49 0 2 0 0 n.toNat]
  | .syncv d a n op => [q3 49 1 3 (0) (a.toNat) (d.toNat), n.toNat + 8 * op.toNat]
  | .xsend a b c n => [q3 50 1 0 (b.toNat) (a.toNat) (0), c.toNat + 32 * n.toNat]
  | .xopen a n => [q3 50 1 1 (0) (a.toNat) (0), 32 * n.toNat]
  | .xput a => [q3 50 1 2 (0) (a.toNat) (0), 0]
  | .xend => [q3 50 1 3 (0) (0) (0), 0]
  | .klaunch d a q detach => [q3 51 1 0 (0) (a.toNat) (d.toNat), q.toNat + 16 * detach.toNat]
  | .kquery d a => [q3 51 1 1 (0) (a.toNat) (d.toNat), 0]
  | .ksignal a b => [q3 51 1 2 (b.toNat) (a.toNat) (0), 0]
  | .lquery d a => [q3 52 0 0 (0) (a.toNat) (d.toNat)]
  | .lrenew d a => [q3 52 0 1 (0) (a.toNat) (d.toNat)]
  | .pgcnt d a => [q3 52 0 2 (0) (a.toNat) (d.toNat)]
  | .ldrain d a => [q3 53 1 0 (0) (a.toNat) (d.toNat), 0]
  | .lstat d a sel => [q3 53 1 1 (0) (a.toNat) (d.toNat), sel.toNat]
  | .irsend d a b => [q3 53 1 2 (b.toNat) (a.toNat) (d.toNat), 0]
  | .irrecv d a b => [q3 53 1 3 (b.toNat) (a.toNat) (d.toNat), 0]
  | .pmark a => [q3 54 0 0 (0) (a.toNat) (0)]
  | .dstop => [q3 54 0 1 (0) (0) (0)]
  | .powerGood _ => []
  | .stackBringup _ => []
  | .combLock _ => []
  | .switchPortTrain _ => []
  | .mgcRelease _ => []
  | .setReady => []
  | .cxlLinkTrain _ _ => []
  | .powerSample _ => []
  | .dieJunctionLimit _ => []
  | .dieJunctionRecover _ => []
  | .combLineBelowThreshold _ _ _ => []
  | .combLineRecover _ _ _ => []
  | .laserTelemetryUpdate _ _ _ => []
  | .issueGroupForm _ => []
  | .handlerInstructionLimit _ => []
  | .deadlockDetect _ => []
  | .sfuEntryComplete _ _ => []
  | .taskStart _ _ => []
  | .taskRestore _ _ => []
  | .taskSave _ _ => []
  | .spinTimeoutSwap _ => []
  | .hexitComplete _ _ => []
  | .kexitComplete _ => []
  | .storePerform _ _ _ => []
  | .accessReissue _ _ => []
  | .atomicAtHome _ _ => []
  | .pageWalk _ _ _ => []
  | .leaseExpiry _ => []
  | .cmeArbitrationRound _ => []
  | .copyUnit _ _ => []
  | .copyLeaseRenewal _ _ => []
  | .passArrival _ _ => []
  | .passStreamStart _ => []
  | .passDetected _ => []
  | .omuProbe _ _ _ => []
  | .omuPhld _ _ => []
  | .omuPhtrim _ _ _ => []
  | .omuPhrd _ => []
  | .omuPhinv _ => []
  | .omuTzero _ => []
  | .omuTacc _ => []
  | .dcmpExecute _ => []
  | .omuThermalLoop _ _ => []
  | .tcfgWrite _ _ _ _ => []
  | .phprobeWrite _ _ => []
  | .drlimitWrite _ _ => []
  | .gainWrite _ _ => []
  | .exchangeEntryRun _ => []
  | .groupEnterReleasing _ _ _ => []
  | .memberRelease _ => []
  | .levelConflictDetect _ => []
  | .peerLoss _ => []
  | .doorbellWrite _ _ _ => []
  | .launchRecordTake _ _ => []
  | .klaunchMgcAnswer _ _ => []
  | .kernelEligible _ => []
  | .kernelDependenceFault _ => []
  | .bindEntryWrite _ _ _ => []
  | .kernelDrainComplete _ => []
  | .replayCompare _ => []
  | .kernelKill _ => []
  | .preemptPartition _ => []
  | .priorityWaitTimeout _ => []
  | .contextCreateRequest _ _ _ => []
  | .queueRegister _ _ _ _ _ => []
  | .contextActivate _ _ => []
  | .contextSuspend _ => []
  | .contextResume _ => []
  | .contextDestroy _ => []
  | .contextFree _ => []
  | .faultHandover _ _ => []
  | .faultResolution _ _ _ => []
  | .faultRingSpace _ => []
  | .missEscalate _ _ => []
  | .slotEdge _ _ => []
  | .slotEdgeTimeout _ => []
  | .atsInvalidationRequest _ _ => []
  | .atsInvalidationCompletion _ => []
  | .dcdReleaseNotice _ _ => []
  | .dcdForcedRelease _ _ => []
  | .flitReceive _ _ _ _ => []
  | .nakTimer _ _ => []
  | .ackTimer _ _ => []
  | .idleFlitTimer _ => []
  | .portEnable _ => []
  | .portLock _ _ _ => []
  | .portLockExchangeDone _ _ _ => []
  | .portLockTimeout _ => []
  | .portLightLoss _ => []
  | .portFence _ => []
  | .portDisable _ => []
  | .portRestore _ => []
  | .wavelengthErrorDrop _ _ _ _ => []
  | .wavelengthSwitchover _ _ => []
  | .packetForward _ => []
  | .routingTableInstall _ _ => []
  | .remoteRequestReceive _ => []
  | .remoteResponseReceive _ => []
  | .remoteRetryTimeout _ _ => []
  | .remoteAbandonTimeout _ _ => []
  | .targetRecordExpiry _ _ => []
  | .changeRequest _ _ => []
  | .portDrainComplete _ => []
  | .circuitsReady => []
  | .changeFinalInstall => []
  | .irSessionWrite _ _ => []
  | .irSlotTransfer _ _ _ _ _ => []
  | .mgmtReadRequest _ _ _ => []
  | .cxlMemRead _ _ => []
  | .cxlMemWrite _ _ _ => []
  | .hostLinkFatalError => []
  | .cxlReset => []
  | .uncorrectableMemoryError _ => []
  | .registerParityError _ _ _ => []
  | .correctedError _ => []
  | .unitWithdraw _ _ => []
  | .stackThermalSample _ _ => []
  | .selfHoldNotice _ => []
  | .stackLost _ => []
  | .stackScrub _ => []
  | .rowRepair _ _ => []
  | .stackMailboxMessage _ _ => []
  | .imageStage _ => []
  | .imageVerify _ => []
  | .handoverRequest _ => []
  | .imageCatchUp _ _ => []
  | .switchOver _ _ => []
  | .catchUpTimeout _ _ => []
  | .heartbeat _ _ => []
  | .heartbeatMissed _ _ => []
  | .probationCommit _ => []
  | .pscImageBootTimeout => []
  | .svnMinimumRaise _ _ => []
  | .quoteRequest _ _ _ => []
  | .debugStopRequest _ _ => []
  | .debugResumeRequest _ _ => []
  | .monitorSample _ _ _ => []
  | .moncfgWrite _ _ _ => []
  | .pmctlWrite _ _ _ => []
  | .trbaseWrite _ _ _ => []
  | .csrWrite _ _ _ _ => []
  | .firmwareLeafStore _ _ _ _ _ => []
  | .frameReuseWaitElapsed _ => []
  | .newImageTrap _ _ => []
  | .tenantAuthenticatedRequest _ _ _ _ => []

/-- The outcome of decoding: an instruction and its length in bytes, or the fault code that R49 names. -/
inductive Decoded where
  | ok (i : Instr) (len : Nat)
  | bad (code : Nat)
deriving DecidableEq, Repr

/-- A candidate is accepted when it is well-formed and its words are the words read (checks 3 to 5 of R49). -/
def accept (c : Option Instr) (ws : List Nat) : Decoded :=
  match c with
  | none => .bad 0x01
  | some i => if i.wf && encode i == ws then .ok i (4 * ws.length) else .bad 0x01

/-- Decode at byte offset off of a fetch block, in the order of R49. -/
def decodeWords (off w0 w1 w2 : Nat) : Decoded :=
  if w0 % 4 == 3 then .bad 0x02
  else if off % 32 + 4 * (w0 % 4 + 1) > 32 then .bad 0x03
  else match w0 % 4 with
    | 0 => accept (pick32 w0) [w0]
    | 1 => accept (pick64 w0 w1) [w0, w1]
    | _ => accept (pick96 w0 w1 w2) [w0, w1, w2]

/-- The little-endian word at the front of a list of bytes, and the rest; missing bytes are 0 (R44). -/
def wordOfBytes (bs : List Byte) : Nat :=
  let b := fun n => (bs.getD n 0).toNat
  b 0 + 256 * b 1 + 65536 * b 2 + 16777216 * b 3

/-- Decode the bytes that stand at an instruction's address, up to 12 of them; off is the address (R44, R46, R49). -/
def decodeBytes (off : Nat) (bs : List Byte) : Decoded :=
  decodeWords off (wordOfBytes bs) (wordOfBytes (bs.drop 4)) (wordOfBytes (bs.drop 8))

/-- The little-endian bytes of a 32-bit word. -/
def bytesOfWord (w : Nat) : List Byte :=
  [BitVec.ofNat 8 w, BitVec.ofNat 8 (w / 256), BitVec.ofNat 8 (w / 65536), BitVec.ofNat 8 (w / 16777216)]

/-- The bytes of an instruction as memory holds them (R44). -/
def encodeBytes (i : Instr) : List Byte := (encode i).flatMap bytesOfWord

/-- The 12 bytes of a table word: its words in order, zeros above (numbered as spec/opcode_table.json numbers bits). -/
def tableBytes (w : Nat) : List Byte :=
  bytesOfWord (w % 4294967296) ++ bytesOfWord (w / 4294967296 % 4294967296)
    ++ bytesOfWord (w / 18446744073709551616 % 4294967296)

/-- The decoder on a table word, at the start of a fetch block. -/
def decodeTableWord (nbits w : Nat) : Option Instr :=
  match decodeBytes 0 (tableBytes (w % 2 ^ nbits)) with
  | .ok i _ => some i
  | .bad _ => none

end

end Sys2Proof
end

