-- ==== Sys2Proof/Config.lean ====
section
/-! DEFINITION. What the implementation fixes, and the values that the spec leaves open. A free value is opaque: nothing can
evaluate it, so a claim holds whatever it is. -/

namespace Sys2Proof.Config

/-- VLEN in bits on this device (R4, R120). -/
def vlen : Nat := 1024

/-- The core clock without limits, in MHz (R4), and the lowest the PSC sets (R42). -/
def clockTop : Nat := 2000
/-- The lowest core clock, in MHz (R42). -/
def clockLow : Nat := 1200

/-- Free: which of the results within the bound of R206 a special function gives, by function, type and operand. -/
opaque sfu : Nat → Nat → Nat → Nat

/-- Free: how far the detector's code of one output of one sub-pass lies from the ideal code, by the counter of free values and the
output (R299, R301). -/
opaque detector : Nat → Nat → Int

/-- Free: the phase codes of an image that a decomposition finds, from the source's words and the code's index; the
second number says main or residual (R311). -/
opaque dcmpCode : List Nat → Nat → Nat → Nat

/-- Free: the achieved error of an image whose source is all zero, 0 divided by 0 (R311). -/
opaque dcmpError : List Nat → Nat → Nat

/-- Free: whether an output of a detected pass breaks the promise of R301, which holds with a probability only, by the counter of free values
and the output. -/
opaque promiseMissed : Nat → Nat → Bool

/-- Free: the decomposer revision (R111). -/
opaque dcmpRevision : Nat

/-- Free: the check tag that the PSC computes over a capability's bits [47:0] with its per-boot key (R292). -/
opaque capTag : Nat → Nat → Nat

/-- Free: whether a signature over a message verifies under a key (R477, SLH-DSA-SHA2-192s). -/
opaque slhDsaVerify : List Byte → List Byte → List Byte → Bool

/-- Free: the SHA-256 hashes of the four signing keys fused in the part, and which are revoked (R477). -/
opaque keyHash : Nat → List Byte
/-- Free: whether a signing key is revoked (R477). -/
opaque keyRevoked : Nat → Bool

/-- Free: the signature of a quote under the device attestation key (R488). -/
opaque slhDsaSign : List Nat → Nat

/-- Free: the authentication tag of a tenant's request under the key that the PSC derives from TKEY (R488). -/
opaque tenantTag : Nat → List Nat → Nat

/-- Free: AES-256-GCM encryption of byte i of a dump under the key derived from TKEY (R389). -/
opaque dumpCipher : Nat → Nat → Byte → Byte

/-- Free: the byte that storage of a lost stack reads as, by chip time and place (R470 says only that it is poisoned). -/
opaque lostByte : Nat → Nat → Byte

/-- Free: the row of its stack in which a key of device memory lies (R471). -/
opaque rowOf : Nat → Nat

/-- Free: a byte of configuration space, and of BAR0 outside the device information block (R33, R40). -/
opaque configByte : Nat → Byte
/-- Free: a byte of BAR0 that the spec does not lay out. -/
opaque barByte : Nat → Byte

/-- Free: a value that the spec does not state, by the counter of free values. -/
opaque freeWord : Nat → Word

/-- Free: a choice that the spec leaves open among n, by the counter of free values. -/
opaque freeNat : Nat → Nat

end Sys2Proof.Config
end

