-- ==== Sys2Proof/Machine/Bits.lean ====
section
/-! DEFINITION. Bit and byte-order helpers: the functions of R13, R82, R151, R157 and R158 on numbers of any width. -/

namespace Sys2Proof.Machine

/-- The signed reading of the low n bits of a number (R80). -/
def toInt (n v : Nat) : Int := if v % 2 ^ n < 2 ^ (n - 1) then (v % 2 ^ n : Nat) else (v % 2 ^ n : Nat) - (2 ^ n : Nat)

/-- An integer modulo 2^n (R81). -/
def ofInt (n : Nat) (v : Int) : Nat := (v % (2 ^ n : Nat)).toNat

/-- The number of ones among the low n bits. -/
def popcount (n v : Nat) : Nat :=
  match n with
  | 0 => 0
  | n + 1 => (if bitAt v n then 1 else 0) + popcount n v

/-- The number of zeros above the highest one among the low n bits; n when there is none (R157). -/
def leadZeros (n v : Nat) : Nat :=
  match n with
  | 0 => 0
  | n + 1 => if bitAt v n then 0 else 1 + leadZeros n v

/-- Scan upward from bit i over k bits for the first one, counting. -/
def trailFrom (k i v : Nat) : Nat :=
  match k with
  | 0 => 0
  | k + 1 => if bitAt v i then 0 else 1 + trailFrom k (i + 1) v

/-- The number of zeros below the lowest one among the low n bits; n when there is none (R157). -/
def trailZeros (n v : Nat) : Nat := trailFrom n 0 v

/-- Bit i of the low n bits moved to n - 1 - i (R157, R199). -/
def revBits (n v : Nat) : Nat :=
  match n with
  | 0 => 0
  | n + 1 => (if bitAt v 0 then 2 ^ n else 0) + revBits n (v / 2)

/-- Byte i of n bytes moved to n - 1 - i (R157). -/
def revBytes (n v : Nat) : Nat :=
  match n with
  | 0 => 0
  | n + 1 => v % 256 * 256 ^ n + revBytes n (v / 256)

/-- Scan upward from bit i over k bits for the set bit with exactly j set bits below it; the position, or i + k. -/
def findSet (k i v j : Nat) : Nat :=
  match k with
  | 0 => i
  | k + 1 => if bitAt v i then (if j == 0 then i else findSet k (i + 1) v (j - 1)) else findSet k (i + 1) v j

/-- The position of the set bit of the low n bits of v that has exactly j set bits below it; n if there is none (R157). -/
def fnsb (n v j : Nat) : Nat := if popcount n v ≤ j then n else findSet n 0 v j

/-- The width of a field of n-bit data after truncation at the top bit (R158). -/
def fieldWidth (n off wid : Nat) : Nat := if n ≤ off then 0 else min wid (n - off)

/-- Unsigned field extract (R158). -/
def fieldZ (n v off wid : Nat) : Nat := v / 2 ^ off % 2 ^ fieldWidth n off wid

/-- Signed field extract to n bits (R158). -/
def fieldS (n v off wid : Nat) : Nat :=
  if fieldWidth n off wid == 0 then 0 else ofInt n (toInt (fieldWidth n off wid) (v / 2 ^ off))

/-- The mask of a field (R158). -/
def fieldMask (off wid : Nat) : Nat := (2 ^ fieldWidth 64 off wid - 1) * 2 ^ off

/-- Insert the low bits of a into the field of d (R158). -/
def fieldInsert (d a off wid : Nat) : Nat :=
  let w := fieldWidth 64 off wid
  d - d / 2 ^ off % 2 ^ w * 2 ^ off + a % 2 ^ w * 2 ^ off

/-- Rotate the low n bits left by k < n (R151). -/
def rotLeft (n v k : Nat) : Nat := v * 2 ^ k % 2 ^ n + v % 2 ^ n / 2 ^ (n - k)

/-- Signed division with the corners of R82. -/
def divS (n a b : Nat) : Nat :=
  if toInt n b == 0 then 2 ^ n - 1 else ofInt n ((toInt n a).tdiv (toInt n b))

/-- Signed remainder with the corners of R82. -/
def remS (n a b : Nat) : Nat :=
  if toInt n b == 0 then a % 2 ^ n else ofInt n ((toInt n a).tmod (toInt n b))

/-- Unsigned division with the corners of R82. -/
def divU (n a b : Nat) : Nat := if b % 2 ^ n == 0 then 2 ^ n - 1 else a % 2 ^ n / (b % 2 ^ n)

/-- Unsigned remainder with the corners of R82. -/
def remU (n a b : Nat) : Nat := if b % 2 ^ n == 0 then a % 2 ^ n else a % 2 ^ n % (b % 2 ^ n)

/-- The n little-endian bytes of a number (R10). -/
def leBytes (n v : Nat) : List Byte :=
  match n with
  | 0 => []
  | n + 1 => BitVec.ofNat 8 v :: leBytes n (v / 256)

/-- The number that little-endian bytes hold (R10). -/
def leNat : List Byte → Nat
  | [] => 0
  | b :: bs => b.toNat + 256 * leNat bs

/-- Field i of width w of a number: lane i of a vector (R190). -/
def laneOf (v w i : Nat) : Nat := v / 2 ^ (w * i) % 2 ^ w

/-- The number whose lanes of width w are the list, from lane 0. -/
def ofLanes (w : Nat) : List Nat → Nat
  | [] => 0
  | x :: xs => x % 2 ^ w + 2 ^ w * ofLanes w xs

/-- The n lanes of width w of a number. -/
def lanes (v w n : Nat) : List Nat :=
  match n with
  | 0 => []
  | n + 1 => v % 2 ^ w :: lanes (v / 2 ^ w) w n

/-- Saturating count: at most m. -/
def satTo (m v : Nat) : Nat := min v m

end Sys2Proof.Machine
end

