-- ==== Sys2Proof/Machine/Float.lean ====
section
/-! DEFINITION. Floating point: formats (R84 to R86), rounding, overflow, subnormals and flags (R87 to R94), conversions
(R95 to R97), comparisons and classes (R162, R164, R165), and the special functions (R206, R207). Values are exact
integers scaled by powers of two; each operation rounds once. -/

namespace Sys2Proof.Machine

/-- A floating-point format (R84): exponent and fraction bits, bias, and whether it is e4m3 (R86). -/
structure FF where
  eb   : Nat
  fb   : Nat
  bias : Nat
  e4m3 : Bool
deriving DecidableEq, Repr

/-- The format of an element type code 8 to 13 (R56, R84). -/
def ffOf (et : Nat) : FF :=
  match et with
  | 8 => ⟨5, 10, 15, false⟩
  | 9 => ⟨8, 7, 127, false⟩
  | 10 => ⟨8, 23, 127, false⟩
  | 11 => ⟨11, 52, 1023, false⟩
  | 12 => ⟨4, 3, 7, true⟩
  | _ => ⟨5, 2, 15, false⟩

/-- The element type code of a scalar TY or of an fcvt source code (R160, R166). -/
def etOfTy (ty : Nat) : Nat := 8 + ty

/-- Width in bits. -/
def FF.width (f : FF) : Nat := 1 + f.eb + f.fb

/-- Whether FZ acts on the format: f16, bf16, f32 and f64 (R91). -/
def FF.fzActs (f : FF) : Bool := !(f.e4m3 || (f.eb == 5 && f.fb == 2))

/-- The canonical NaN (R84). -/
def FF.nan (f : FF) : Nat :=
  if f.e4m3 then 0x7F else (2 ^ f.eb - 1) * 2 ^ f.fb + 2 ^ (f.fb - 1)

/-- The sign bit's weight. -/
def FF.signBit (f : FF) : Nat := 2 ^ (f.eb + f.fb)

/-- The largest finite magnitude's code (R84). -/
def FF.maxCode (f : FF) : Nat := if f.e4m3 then 0x7E else (2 ^ f.eb - 1) * 2 ^ f.fb - 1

/-- The code of +infinity; e4m3 has none (R85, R86). -/
def FF.inf (f : FF) : Nat := (2 ^ f.eb - 1) * 2 ^ f.fb

/-- A value: NaN, infinity, or (-1)^neg × m × 2^e. -/
inductive FV where
  | nan (signalling : Bool)
  | inf (neg : Bool)
  | fin (neg : Bool) (m : Nat) (e : Int)
deriving DecidableEq, Repr

/-- Whether a code has sign 1. -/
def FF.neg (f : FF) (c : Nat) : Bool := bitAt c (f.eb + f.fb)

/-- The value of a code (R84 to R86). -/
def FF.value (f : FF) (c : Nat) : FV :=
  let s := f.neg c
  let ex := c / 2 ^ f.fb % 2 ^ f.eb
  let fr := c % 2 ^ f.fb
  if f.e4m3 && ex == 15 && fr == 7 then .nan false
  else if !f.e4m3 && ex == 2 ^ f.eb - 1 then
    if fr == 0 then .inf s else .nan (!bitAt fr (f.fb - 1))
  else if ex == 0 then .fin s fr (1 - (f.bias : Int) - f.fb)
  else .fin s (2 ^ f.fb + fr) ((ex : Int) - f.bias - f.fb)

/-- Whether a code is a subnormal: exponent 0, fraction not 0. -/
def FF.isSub (f : FF) (c : Nat) : Bool := c / 2 ^ f.fb % 2 ^ f.eb == 0 && c % 2 ^ f.fb != 0

/-- An operand as arithmetic takes it: under FZ = 1 a subnormal is the zero of its sign (R91). -/
def FF.operand (f : FF) (fz : Bool) (c : Nat) : FV :=
  if fz && f.fzActs && f.isSub c then .fin (f.neg c) 0 0 else f.value c

/-- The sticky flags in their TFLAGS places (R119): NV, DZ, OF, UF, NX. -/
def flagNV : Nat := 256
/-- Divide by zero. -/
def flagDZ : Nat := 128
/-- Overflow. -/
def flagOF : Nat := 64
/-- Underflow. -/
def flagUF : Nat := 32
/-- Inexact. -/
def flagNX : Nat := 16

/-- How an instruction rounds: mode 1 to 4 (R87), saturation (R90), flush to zero (R91). -/
structure Rnd where
  mode : Nat
  sat  : Bool
  fz   : Bool
deriving DecidableEq, Repr

/-- Whether a magnitude with remainder r of 2^k below its last place, and sticky, is rounded up (R87). -/
def roundUp (mode : Nat) (neg : Bool) (n r k : Nat) (sticky : Bool) : Bool :=
  let inexact := r != 0 || sticky
  match mode with
  | 2 => false
  | 3 => neg && inexact
  | 4 => !neg && inexact
  | _ => k != 0 && (2 ^ k < 2 * r || (2 * r == 2 ^ k && (sticky || n % 2 == 1)))

/-- The magnitude m × 2^e rounded at quantum 2^q: the count of quanta, and whether it was inexact. -/
def roundAt (mode : Nat) (neg : Bool) (m : Nat) (e q : Int) (sticky : Bool) : Nat × Bool :=
  if q ≤ e then (m * 2 ^ (e - q).toNat, sticky)
  else
    let k := (q - e).toNat
    let n := m / 2 ^ k
    let r := m % 2 ^ k
    (if roundUp mode neg n r k sticky then n + 1 else n, r != 0 || sticky)

/-- The code of n × 2^q with n below 2^(fb+1) or equal to it. -/
def FF.code (f : FF) (n : Nat) (q : Int) : Nat :=
  if n < 2 ^ f.fb then n
  else if n == 2 ^ (f.fb + 1) then ((q + 1 + f.fb + f.bias).toNat) * 2 ^ f.fb
  else ((q + f.fb + f.bias).toNat) * 2 ^ f.fb + (n - 2 ^ f.fb)

/-- The delivered result of an overflow (R90). -/
def FF.overflow (f : FF) (r : Rnd) (neg : Bool) : Nat :=
  let s := if neg then f.signBit else 0
  let big := f.e4m3 || r.sat || r.mode == 2 || (r.mode == 3 && !neg) || (r.mode == 4 && neg)
  s + (if big then f.maxCode else f.inf)

/-- Round (-1)^neg × m × 2^e (a little more when sticky) to the format: code and flags (R87 to R92). m × 2^e with sticky must
carry more bits than the format. -/
def FF.round (f : FF) (r : Rnd) (neg : Bool) (m : Nat) (e : Int) (sticky : Bool) : Nat × Nat :=
  let s := if neg then f.signBit else 0
  if m == 0 then (s, 0)
  else
    let emin : Int := 1 - (f.bias : Int)
    let q0 : Int := e + Nat.log2 m - f.fb
    let u := roundAt r.mode neg m e q0 sticky
    let tiny := (u.1 : Int) * 2 ^ (q0 + 4096).toNat < 2 ^ (emin + 4096).toNat
    if tiny && r.fz && f.fzActs then (s, flagUF ||| flagNX)
    else
      let q := max q0 (emin - f.fb)
      let (n, ix) := roundAt r.mode neg m e q sticky
      let c := f.code n q
      if f.maxCode < c then (f.overflow r neg, flagOF ||| flagNX)
      else (s + c, (if ix then flagNX else 0) ||| (if ix && tiny then flagUF else 0))

/-- The sign of an exact zero sum whose terms have the given signs (R161). -/
def zeroSign (mode : Nat) (sa sb : Bool) : Bool := if sa == sb then sa else mode == 3

/-- The invalid result. -/
def FF.invalid (f : FF) : Nat × Nat := (f.nan, flagNV)

/-- Whether a value is a signalling NaN. -/
def FV.snan : FV → Bool
  | .nan b => b
  | _ => false

/-- Whether a value is a NaN. -/
def FV.isNan : FV → Bool
  | .nan _ => true
  | _ => false

/-- The canonical NaN with NV when an operand is signalling (R92, R93). -/
def FF.nanOf (f : FF) (vs : List FV) : Nat × Nat := (f.nan, if vs.any FV.snan then flagNV else 0)

/-- The signed integer of a finite value at exponent e, which must not exceed its own. -/
def atExp (neg : Bool) (m : Nat) (ex e : Int) : Int :=
  let v : Int := (m : Int) * 2 ^ (ex - e).toNat
  if neg then -v else v

/-- The exact sum of two finite values, rounded (R94, R161). -/
def FF.sum (f : FF) (r : Rnd) (na : Bool) (ma : Nat) (ea : Int) (nb : Bool) (mb : Nat) (eb : Int) : Nat × Nat :=
  let e := min ea eb
  let v := atExp na ma ea e + atExp nb mb eb e
  if v == 0 then
    ((if zeroSign r.mode na nb then f.signBit else 0), 0)
  else f.round r (v < 0) v.natAbs e false

/-- Addition of values (R161). -/
def FF.addV (f : FF) (r : Rnd) (a b : FV) : Nat × Nat :=
  match a, b with
  | .nan _, _ => f.nanOf [a, b]
  | _, .nan _ => f.nanOf [a, b]
  | .inf x, .inf y => if x == y then ((if x then f.signBit else 0) + f.inf, 0) else f.invalid
  | .inf x, _ => ((if x then f.signBit else 0) + f.inf, 0)
  | _, .inf y => ((if y then f.signBit else 0) + f.inf, 0)
  | .fin na ma ea, .fin nb mb eb => f.sum r na ma ea nb mb eb

/-- The value with its sign inverted. -/
def FV.negate : FV → FV
  | .nan b => .nan b
  | .inf n => .inf (!n)
  | .fin n m e => .fin (!n) m e

/-- a + b on codes. -/
def FF.add (f : FF) (r : Rnd) (a b : Nat) : Nat × Nat := f.addV r (f.operand r.fz a) (f.operand r.fz b)

/-- a - b on codes. -/
def FF.sub (f : FF) (r : Rnd) (a b : Nat) : Nat × Nat := f.addV r (f.operand r.fz a) (f.operand r.fz b).negate

/-- a × b on codes. -/
def FF.mul (f : FF) (r : Rnd) (a b : Nat) : Nat × Nat :=
  let x := f.operand r.fz a
  let y := f.operand r.fz b
  match x, y with
  | .nan _, _ => f.nanOf [x, y]
  | _, .nan _ => f.nanOf [x, y]
  | .inf n, .inf k => ((if n != k then f.signBit else 0) + f.inf, 0)
  | .inf n, .fin k m _ => if m == 0 then f.invalid else ((if n != k then f.signBit else 0) + f.inf, 0)
  | .fin n m _, .inf k => if m == 0 then f.invalid else ((if n != k then f.signBit else 0) + f.inf, 0)
  | .fin n ma ea, .fin k mb eb => f.round r (n != k) (ma * mb) (ea + eb) false

/-- a / b on codes. -/
def FF.div (f : FF) (r : Rnd) (a b : Nat) : Nat × Nat :=
  let x := f.operand r.fz a
  let y := f.operand r.fz b
  match x, y with
  | .nan _, _ => f.nanOf [x, y]
  | _, .nan _ => f.nanOf [x, y]
  | .inf _, .inf _ => f.invalid
  | .inf n, .fin k _ _ => ((if n != k then f.signBit else 0) + f.inf, 0)
  | .fin n _ _, .inf k => ((if n != k then f.signBit else 0), 0)
  | .fin n ma ea, .fin k mb eb =>
    if mb == 0 then
      if ma == 0 then f.invalid else ((if n != k then f.signBit else 0) + f.inf, flagDZ)
    else
      let sh := 2 * f.fb + 8
      let num := ma * 2 ^ sh
      f.round r (n != k) (num / mb) (ea - eb - sh) (num % mb != 0)

/-- The integer square root by k binary digits, from the highest. -/
def isqrtFrom (k acc n : Nat) : Nat :=
  match k with
  | 0 => acc
  | k + 1 => if (acc + 2 ^ k) * (acc + 2 ^ k) ≤ n then isqrtFrom k (acc + 2 ^ k) n else isqrtFrom k acc n

/-- The integer square root. -/
def isqrt (n : Nat) : Nat := isqrtFrom (Nat.log2 n / 2 + 1) 0 n

/-- The square root on a code; that of -0 is -0 (R161). -/
def FF.sqrt (f : FF) (r : Rnd) (a : Nat) : Nat × Nat :=
  let x := f.operand r.fz a
  match x with
  | .nan _ => f.nanOf [x]
  | .inf n => if n then f.invalid else (f.inf, 0)
  | .fin n m e =>
    if m == 0 then ((if n then f.signBit else 0), 0)
    else if n then f.invalid
    else
      let odd : Nat := (e % 2).toNat
      let sh := 2 * f.fb + 8
      let v := m * 2 ^ (2 * sh + odd)
      let q := isqrt v
      f.round r false q ((e - odd) / 2 - sh) (q * q != v)

/-- (-1)^np × a × b + (-1)^nc × c, rounded once (R94, R167). -/
def FF.fma (f : FF) (r : Rnd) (np nc : Bool) (a b c : Nat) : Nat × Nat :=
  let x := f.operand r.fz a
  let y := f.operand r.fz b
  let z := if nc then (f.operand r.fz c).negate else f.operand r.fz c
  let bad := match x, y with
    | .inf _, .fin _ m _ => m == 0
    | .fin _ m _, .inf _ => m == 0
    | _, _ => false
  if bad then f.invalid
  else if x.isNan || y.isNan || z.isNan then f.nanOf [x, y, z]
  else
    let p := match x, y with
      | .fin n ma ea, .fin k mb eb => FV.fin ((n != k) != np) (ma * mb) (ea + eb)
      | .inf n, .inf k => FV.inf ((n != k) != np)
      | .inf n, .fin k _ _ => FV.inf ((n != k) != np)
      | .fin n _ _, .inf k => FV.inf ((n != k) != np)
      | _, _ => FV.nan false
    f.addV r p z

/-- Order of two values that are no NaN: negative, zero or positive as a < b, a = b, a > b, with +0 = -0. -/
def FV.cmp (a b : FV) : Int :=
  match a, b with
  | .inf n, .inf k => if n == k then 0 else if n then -1 else 1
  | .inf n, _ => if n then -1 else 1
  | _, .inf k => if k then 1 else -1
  | .fin n m e, .fin k l g => atExp n m e (min e g) - atExp k l g (min e g)
  | _, _ => 0

/-- a = b, with +0 = -0: result and flags (R164). -/
def FF.eq (f : FF) (fz : Bool) (a b : Nat) : Bool × Nat :=
  let x := f.operand fz a
  let y := f.operand fz b
  if x.isNan || y.isNan then (false, if x.snan || y.snan then flagNV else 0) else (x.cmp y == 0, 0)

/-- a < b (R164). -/
def FF.lt (f : FF) (fz : Bool) (a b : Nat) : Bool × Nat :=
  let x := f.operand fz a
  let y := f.operand fz b
  if x.isNan || y.isNan then (false, flagNV) else (x.cmp y < 0, 0)

/-- a ≤ b (R164). -/
def FF.le (f : FF) (fz : Bool) (a b : Nat) : Bool × Nat :=
  let x := f.operand fz a
  let y := f.operand fz b
  if x.isNan || y.isNan then (false, flagNV) else (x.cmp y ≤ 0, 0)

/-- Either is NaN (R200). -/
def FF.unord (f : FF) (a b : Nat) : Bool × Nat :=
  let x := f.value a
  let y := f.value b
  (x.isNan || y.isNan, if x.snan || y.snan then flagNV else 0)

/-- The code with a subnormal replaced under FZ = 1 (R162). -/
def FF.flush (f : FF) (fz : Bool) (c : Nat) : Nat :=
  if fz && f.fzActs && f.isSub c then (if f.neg c then f.signBit else 0) else c % 2 ^ f.width

/-- Whether a is the lesser of two codes that are no NaN, with -0 below +0 (R162). -/
def FF.below (f : FF) (a b : Nat) : Bool :=
  let d := (f.value a).cmp (f.value b)
  d < 0 || (d == 0 && f.neg a && !f.neg b)

/-- Minimum or maximum (R162): mx selects the greater, num ignores a NaN operand. -/
def FF.minmax (f : FF) (fz mx num : Bool) (a b : Nat) : Nat × Nat :=
  let x := f.value a
  let y := f.value b
  let fl := if x.snan || y.snan then flagNV else 0
  let a' := f.flush fz a
  let b' := f.flush fz b
  if x.isNan && y.isNan then (f.nan, fl)
  else if x.isNan then (if num then b' else f.nan, fl)
  else if y.isNan then (if num then a' else f.nan, fl)
  else (if f.below a' b' != mx then a' else b', fl)

/-- The class mask of fclass (R165). -/
def FF.classify (f : FF) (c : Nat) : Nat :=
  match f.value c with
  | .nan s => if s then 256 else 512
  | .inf n => if n then 1 else 128
  | .fin n m _ =>
    if m == 0 then (if n then 8 else 16)
    else if f.isSub c then (if n then 4 else 32)
    else (if n then 2 else 64)

/-- Conversion between floating-point formats (R95). FZ leaves conversions from or to e4m3 and e5m2 alone (R91). -/
def FF.convert (src dst : FF) (r : Rnd) (c : Nat) : Nat × Nat :=
  let r' := if src.fzActs && dst.fzActs then r else { r with fz := false }
  match src.operand r'.fz c with
  | .nan s => (dst.nan, if s then flagNV else 0)
  | .inf n => if dst.e4m3 then dst.invalid else ((if n then dst.signBit else 0) + dst.inf, 0)
  | .fin n m e => dst.round (if src.fzActs then r' else { r' with fz := false }) n m e false

/-- Conversion to an integer in [lo, hi], in the given mode (R96). -/
def FF.toInteger (f : FF) (mode : Nat) (fz : Bool) (lo hi : Int) (c : Nat) : Int × Nat :=
  match f.operand fz c with
  | .nan _ => (0, flagNV)
  | .inf n => (if n then lo else hi, flagNV)
  | .fin n m e =>
    let (k, ix) := roundAt mode n m e 0 false
    let v : Int := if n then -(k : Int) else k
    if v < lo then (lo, flagNV) else if hi < v then (hi, flagNV) else (v, if ix then flagNX else 0)

/-- Conversion of an integer (R97); the zero is +0. -/
def FF.ofInteger (f : FF) (r : Rnd) (v : Int) : Nat × Nat := f.round r (v < 0) v.natAbs 0 false

/-- The ordinal of a code in the order of values: zero for both zeros. -/
def FF.ord (f : FF) (c : Nat) : Int := if f.neg c then -((c % f.signBit : Nat) : Int) else (c % f.signBit : Nat)

/-- The code of an ordinal; zero takes the given sign. -/
def FF.ofOrd (f : FF) (zneg : Bool) (o : Int) : Nat :=
  if o == 0 then (if zneg then f.signBit else 0) else if o < 0 then f.signBit + o.natAbs else o.natAbs

/-- The ordinal of the greatest value not above n / 2^k. -/
def FF.floorOrd (f : FF) (n : Int) (k : Nat) : Int :=
  f.ord (f.round ⟨3, false, false⟩ (n < 0) n.natAbs (-(k : Int)) false).1

/-- The ordinal of the least value not below n / 2^k. -/
def FF.ceilOrd (f : FF) (n : Int) (k : Nat) : Int :=
  f.ord (f.round ⟨4, false, false⟩ (n < 0) n.natAbs (-(k : Int)) false).1

/-- Fractional bits of the fixed-point evaluation of the special functions. -/
def sfuBits : Nat := 256

/-- sum of x^i / i! for i from j over n further terms, from the term t; all scaled by 2^sfuBits. -/
def expSeries (n j : Nat) (x t : Int) : Int :=
  match n with
  | 0 => t
  | n + 1 => t + expSeries n (j + 1) x (t * x / 2 ^ sfuBits / (j + 1 : Nat))

/-- ln 2 scaled by 2^sfuBits: the sum of 1 / (i 2^i). -/
def ln2From (n : Nat) : Int :=
  match n with
  | 0 => 0
  | n + 1 => ln2From n + 2 ^ sfuBits / ((n + 1 : Nat) * 2 ^ (n + 1))

/-- 2^f for f in [0, 1), scaled by 2^sfuBits. -/
def exp2Frac (f : Int) : Int := expSeries 60 0 (f * ln2From 250 / 2 ^ sfuBits) (2 ^ sfuBits)

/-- The binary digits of log2 y for y in [1, 2) scaled by 2^sfuBits, over n digits, as a fraction scaled by 2^n. -/
def log2Digits (n : Nat) (y : Nat) : Nat :=
  match n with
  | 0 => 0
  | n + 1 =>
    let y2 := y * y / 2 ^ sfuBits
    if 2 ^ (sfuBits + 1) ≤ y2 then 2 ^ n + log2Digits n (y2 / 2) else log2Digits n y2

/-- pi scaled by 2^sfuBits, from 16 atan(1/5) - 4 atan(1/239). -/
def atanInv (n k d : Nat) : Int :=
  match n with
  | 0 => 0
  | n + 1 => (if k % 2 == 0 then 1 else -1) * (2 ^ sfuBits / ((2 * k + 1) * d ^ (2 * k + 1) : Nat)) + atanInv n (k + 1) d

/-- pi scaled by 2^sfuBits. -/
def piFix : Int := 16 * atanInv 60 0 5 - 4 * atanInv 30 0 239

/-- sin or cos terms: t, -t x² / (j+1)(j+2), … scaled by 2^sfuBits. -/
def trigSeries (n j : Nat) (x2 t : Int) : Int :=
  match n with
  | 0 => t
  | n + 1 => t + trigSeries n (j + 2) x2 (-(t * x2 / 2 ^ sfuBits / ((j + 1) * (j + 2) : Nat)))

/-- sin(pi u) for u in [-1, 1] scaled by 2^sfuBits. -/
def sinPi (u : Int) : Int :=
  let x := u * piFix / 2 ^ sfuBits
  trigSeries 50 1 (x * x / 2 ^ sfuBits) x

/-- cos(pi u). -/
def cosPi (u : Int) : Int :=
  let x := u * piFix / 2 ^ sfuBits
  trigSeries 50 0 (x * x / 2 ^ sfuBits) (2 ^ sfuBits)

/-- e^x for a fixed-point x: mantissa in [1, 2) scaled by 2^sfuBits, and binary exponent. -/
def expFix (x : Int) : Int × Int :=
  let y := x * 2 ^ sfuBits / ln2From 250
  (exp2Frac (y % 2 ^ sfuBits), y / 2 ^ sfuBits)

/-- A finite operand as fixed point with sfuBits fraction bits (bits below are dropped). -/
def toFix (n : Bool) (m : Nat) (e : Int) : Int :=
  let v : Int := if 0 ≤ e + sfuBits then (m : Int) * 2 ^ (e + sfuBits).toNat else (m : Int) / 2 ^ (-(e + sfuBits)).toNat
  if n then -v else v

/-- Choose a result within the bound of R206, the exact value lying between c.1 / 2^k and c.2 / 2^k: for f32 within the distance
b / 2^k of every value of that interval, for f16 and bf16 one of the two values that bracket it. The choice is free. -/
def sfuWithin (fn et op : Nat) (f : FF) (c : Int × Int) (k : Nat) (b : Int) : Nat :=
  let lo := if et == 10 then f.ceilOrd (c.2 - b) k else f.floorOrd c.1 k
  let hi := if et == 10 then f.floorOrd (c.1 + b) k else f.ceilOrd c.2 k
  let n := (hi - lo).toNat + 1
  f.ofOrd (c.1 < 0) (lo + (Config.sfu fn et op % n : Nat))

/-- An evaluation c with its own error d, of an exact value that lies strictly between lo and hi. -/
def evalIn (c d lo hi : Int) : Int × Int := (max (c - d) lo, min (c + d) hi)

/-- The negative of an interval, when n says so. -/
def negIf (n : Bool) (c : Int × Int) : Int × Int := if n then (-c.2, -c.1) else c

/-- One ulp of a positive value m × 2^e of the format, scaled by 2^k. -/
def FF.ulp (f : FF) (m : Nat) (e : Int) (k : Nat) : Int :=
  let q : Int := max (e + Nat.log2 m - f.fb) (1 - (f.bias : Int) - f.fb)
  2 ^ (q + k).toNat

/-- Whether a value near c / 2^k is tiny: rounded to the format's precision with an unbounded exponent it lies below the smallest normal
magnitude 2^emin, that is, it lies more than a quarter of an ulp of 2^emin below it (R92). -/
def FF.tinyAt (f : FF) (c : Int) (k : Nat) : Bool :=
  let emin : Int := 1 - (f.bias : Int)
  (c.natAbs : Int) * 2 ^ (f.fb + 2) < (2 ^ (f.fb + 2) - 1) * 2 ^ (emin + k).toNat

/-- The delivered code of a special function's inexact result, with NX; UF and FZ act when the exact value, near c / 2^k, is tiny (R91,
R92, R207). -/
def FF.sfuFlags (f : FF) (fz : Bool) (c : Int) (k : Nat) (r : Nat) : Nat × Nat :=
  if f.tinyAt c k then ((if fz then (if f.neg r then f.signBit else 0) else r), flagUF ||| flagNX) else (r, flagNX)

/-- 2^x for a value that is not an integer or is out of range: x as fixed point (R206, R207). -/
def FF.exp2Result (f : FF) (et op : Nat) (fz : Bool) (x : Int) : Nat × Nat :=
  let ip := x / 2 ^ sfuBits
  let fr := x % 2 ^ sfuBits
  let emin : Int := 1 - (f.bias : Int)
  let low : Int := emin - f.fb
  if ip < low - 1 || (ip == low - 1 && fr == 0) then (0, flagUF ||| flagNX)
  else if ip == low - 1 then ((if fz then 0 else 1), flagUF ||| flagNX)
  else if (f.bias : Int) < ip then (f.inf, flagOF ||| flagNX)
  else
    let k := 512
    let t := exp2Frac fr
    let c : Int := if 0 ≤ ip + (k - sfuBits : Nat) then t * 2 ^ (ip + (k - sfuBits : Nat)).toNat else t
    let b := 2 * f.ulp t.natAbs (ip - sfuBits) k
    let r := sfuWithin 2 et op f (evalIn c (c / 2 ^ 230 + 1) 0 (2 ^ 1024)) k b
    if f.maxCode < r then (f.inf, flagOF ||| flagNX) else f.sfuFlags fz c k r

/-- Whether m × 2^e is an integer, and its value when e is small. -/
def asInteger (m : Nat) (e : Int) : Option Nat :=
  if 0 ≤ e then some (m * 2 ^ (min e 64).toNat)
  else if m % 2 ^ (-e).toNat == 0 then some (m / 2 ^ (-e).toNat) else none

/-- One lane of a special function: fn 0 vrcp, 1 vrsqrt, 2 vexp2, 3 vlog2, 4 vtanh, 5 vsigm, 6 vsinpi, 7 vcospi; the code and
the flags (R206, R207). -/
def sfuLane (fn et : Nat) (fz : Bool) (c : Nat) : Nat × Nat :=
  let f := ffOf et
  let op := f.flush fz c
  let one := f.code (2 ^ f.fb) (-(f.fb : Int))
  let half := f.code (2 ^ f.fb) (-(f.fb : Int) - 1)
  let sg := fun (n : Bool) => if n then f.signBit else 0
  match f.value op with
  | .nan s => (f.nan, if s then flagNV else 0)
  | .inf n =>
    match fn with
    | 0 => (sg n, 0)
    | 1 => if n then f.invalid else (0, 0)
    | 2 => (if n then 0 else f.inf, 0)
    | 3 => if n then f.invalid else (f.inf, 0)
    | 4 => (sg n + one, 0)
    | 5 => (if n then 0 else one, 0)
    | _ => f.invalid
  | .fin n m e =>
    if m == 0 then
      match fn with
      | 0 => (sg n + f.inf, flagDZ)
      | 1 => (sg n + f.inf, flagDZ)
      | 2 => (one, 0)
      | 3 => (f.signBit + f.inf, flagDZ)
      | 4 => (sg n, 0)
      | 5 => (half, 0)
      | 6 => (sg n, 0)
      | _ => (one, 0)
    else
      let k := 512
      let x := toFix n m e
      match fn with
      | 0 =>
        let w : Nat := 2 ^ (k + 64) / m
        let v : Int := if 64 + e ≤ 0 then (w : Int) * 2 ^ (-(64 + e)).toNat else (w : Int) / (2 : Int) ^ (64 + e).toNat
        let b := f.ulp (2 ^ 64 / m + 1) (-64 - e) k
        -- 1/|b| above the largest value: the spec fixes no result for it (log entry 97).
        if (2 ^ (f.fb + 1) - 1 : Int) * 2 ^ (f.bias + k - f.fb) < v then
          (sg n + (if Config.sfu 0 et op % 2 == 0 then f.maxCode else f.inf), flagOF ||| flagNX)
        else
          let s : Int := if 64 + e ≤ 0 then 2 ^ (-(64 + e)).toNat else 1
          f.sfuFlags fz v k (sfuWithin 0 et op f (negIf n (v, if m == 2 ^ Nat.log2 m then v else v + s)) k b)
      | 1 =>
        if n then f.invalid
        else
          let odd : Nat := (e % 2).toNat
          let q := isqrt (2 ^ (2 * k) / (m * 2 ^ odd))
          let h : Int := (e - odd) / 2
          let v : Int := if h ≤ 0 then (q : Int) * 2 ^ (-h).toNat else (q : Int) / 2 ^ h.toNat
          let b := f.ulp v.natAbs (-(k : Int)) k
          let m2 := m * 2 ^ odd
          let exact := m2 == 2 ^ Nat.log2 m2 && Nat.log2 m2 % 2 == 0
          let s : Int := if h ≤ 0 then 2 ^ (-h).toNat else 1
          f.sfuFlags fz v k (sfuWithin 1 et op f (v, if exact then v else v + s) k b)
      | 2 =>
        match asInteger m e with
        | some i =>
          let ex : Int := if n then -(i : Int) else i
          if 1 - (f.bias : Int) - f.fb ≤ ex && ex ≤ f.bias then f.round ⟨1, false, fz⟩ false 1 ex false
          else f.exp2Result et op fz (if n then -(2 ^ 20 : Int) * 2 ^ sfuBits else (2 ^ 20 : Int) * 2 ^ sfuBits)
        | none => f.exp2Result et op fz x
      | 3 =>
        if n then f.invalid
        else
          let top : Int := e + Nat.log2 m
          let y := m * 2 ^ (sfuBits - Nat.log2 m)
          if y == 2 ^ sfuBits then f.ofInteger ⟨1, false, fz⟩ top
          else
            let v : Int := top * 2 ^ 96 + log2Digits 96 y
            let near := top == 0 || top == -1
            let b : Int := if near then 2 ^ 74 else 2 * f.ulp v.natAbs (-96) 96
            f.sfuFlags fz v 96 (sfuWithin 3 et op f (v - 2 ^ 20, v + 2 ^ 20) 96 b)
      | 4 =>
        let (t, ex) := expFix (2 * (if n then -x else x))
        -- tanh = 1 - 2 / (e^2x + 1)
        let v : Int := if 200 < ex then (2 : Int) ^ sfuBits else 2 ^ sfuBits - (2 : Int) * 2 ^ (2 * sfuBits) / (t * 2 ^ (max ex 0).toNat + 2 ^ sfuBits)
        -- 0 < tanh |b| < |b| and 1.
        let c := evalIn v (2 ^ 80) 0 (min (if n then -x else x) (2 ^ sfuBits))
        let b := max (2 * f.ulp (max c.1 1).natAbs (-(sfuBits : Int)) sfuBits) (2 ^ (sfuBits - 24))
        f.sfuFlags fz v sfuBits (sfuWithin 4 et op f (negIf n c) sfuBits b)
      | 5 =>
        let (t, ex) := expFix (if n then x else -x)
        -- sigm(|x|) = 1 / (1 + e^-|x|)
        let d : Int := if ex < -200 then 0 else t / (2 : Int) ^ (-ex).toNat
        let p : Int := (2 : Int) ^ (2 * sfuBits) / (2 ^ sfuBits + d)
        let v : Int := if n then (2 : Int) ^ sfuBits - p else p
        let c := evalIn v (2 ^ 80) 0 (2 ^ sfuBits)
        let b := max (2 * f.ulp (max c.1 1).natAbs (-(sfuBits : Int)) sfuBits) (2 ^ (sfuBits - 24))
        f.sfuFlags fz v sfuBits (sfuWithin 5 et op f c sfuBits b)
      | 6 =>
        if (asInteger m e).isSome then (sg n, 0)
        else
          let u := x % (2 * 2 ^ sfuBits)
          let u := if 2 ^ sfuBits < u then u - 2 * 2 ^ sfuBits else u
          if (asInteger m (e + 1)).isSome then
            let v : Int := if 0 ≤ u then 2 ^ sfuBits else -(2 ^ sfuBits)
            f.sfuFlags fz v sfuBits (sfuWithin 6 et op f (v, v) sfuBits (2 ^ (sfuBits - 22)))
          else
            let c := evalIn (sinPi u) (2 ^ 80) (-(2 ^ sfuBits)) (2 ^ sfuBits)
            f.sfuFlags fz (sinPi u) sfuBits (sfuWithin 6 et op f c sfuBits (2 ^ (sfuBits - 22)))
      | _ =>
        match asInteger m e with
        | some i => (sg (i % 2 == 1) + one, 0)
        | none =>
          if (asInteger m (e + 1)).isSome then (0, 0)
          else
            let u := x % (2 * 2 ^ sfuBits)
            let u := if 2 ^ sfuBits < u then u - 2 * 2 ^ sfuBits else u
            let c := evalIn (cosPi u) (2 ^ 80) (-(2 ^ sfuBits)) (2 ^ sfuBits)
            f.sfuFlags fz (cosPi u) sfuBits (sfuWithin 7 et op f c sfuBits (2 ^ (sfuBits - 22)))

end Sys2Proof.Machine
end

