-- ==== Sys2Proof/Machine/Dx.lean ====
section
/-! DEFINITION. Dual-exponent blocks (R99 to R103), the conversions of page views (R104 to R110), CRC-32C (R111) and SHA-256
(R477, R486). -/

namespace Sys2Proof.Machine

/-- The f32 format. -/
def f32 : FF := ffOf 10

/-- Bytes of a block: DX8 34, DX4 18 (R99, R100). -/
def dxBytes (dx8 : Bool) : Nat := if dx8 then 34 else 18

/-- The element of a block given as bytes: SEL, sign, magnitude (R99, R100). -/
def dxElem (dx8 : Bool) (blk : List Byte) (i : Nat) : Bool × Bool × Nat :=
  if dx8 then
    let b := (blk.getD (2 + i) 0).toNat
    (bitAt b 7, bitAt b 6, b % 64)
  else
    let b := (blk.getD (2 + i / 2) 0).toNat / 16 ^ (i % 2) % 16
    (bitAt b 3, bitAt b 2, b % 4)

/-- The exponent that an element selects. -/
def dxExp (blk : List Byte) (sel : Bool) : Nat := (blk.getD (if sel then 1 else 0) 0).toNat

/-- The exact value of an element (R99 to R101). -/
def dxValue (dx8 : Bool) (blk : List Byte) (i : Nat) : FV :=
  let (sel, s, m) := dxElem dx8 blk i
  let e := dxExp blk sel
  if e == 0xFF then .nan false else .fin s m ((e : Int) - 127 - (if dx8 then 6 else 2))

/-- An element as binary32 (R101). -/
def dxToF32 (dx8 : Bool) (blk : List Byte) (i : Nat) : Nat :=
  match dxValue dx8 blk i with
  | .fin s m e => (f32.round ⟨1, false, false⟩ s m e false).1
  | _ => f32.nan

/-- maxabs of R102 as an order: the greatest magnitude code among finite values. -/
def dxMaxAbs : List Nat → Nat
  | [] => 0
  | x :: xs =>
    let m := x % f32.signBit
    max (if m < f32.inf then m else 0) (dxMaxAbs xs)

/-- One element packed: SEL, sign, magnitude, flags (R102). -/
def dxPackElem (dx8 anynan : Bool) (ea eb x : Nat) : Bool × Bool × Nat × Nat :=
  let q : Nat := if dx8 then 64 else 4
  let mmax := q - 1
  let s := f32.neg x
  match f32.value x with
  | .nan _ => (true, false, 0, flagNV)
  | .inf _ => (false, s, mmax, flagOF ||| flagNX)
  | .fin _ m e =>
    let (qb, ib) := roundAt 1 false (m * q) e ((eb : Int) - 127) false
    let uf := fun (k : Nat) => if m != 0 && k == 0 then flagUF else 0
    if !anynan && qb ≤ mmax then (true, s, qb, (if ib then flagNX else 0) ||| uf qb)
    else
      let (qa, ia) := roundAt 1 false (m * q) e ((ea : Int) - 127) false
      if mmax < qa then (false, s, mmax, flagOF ||| flagNX)
      else (false, s, qa, (if ia then flagNX else 0) ||| uf qa)

/-- Pair up nibbles into bytes, the even element low (R100). -/
def nibbles : List Nat → List Byte
  | a :: b :: r => BitVec.ofNat 8 (a + 16 * b) :: nibbles r
  | [a] => [BitVec.ofNat 8 a]
  | [] => []

/-- Pack 32 binary32 values with offset d: the block's bytes and the flags (R102, R103). -/
def dxPack (dx8 : Bool) (d : Nat) (xs : List Nat) : List Byte × Nat :=
  let anynan := xs.any fun x => (f32.value x).isNan
  let mx := dxMaxAbs xs
  let ea : Nat :=
    if mx == 0 then 1
    else match f32.value mx with
      | .fin _ m e => (clampInt (e + Nat.log2 m + 128) 1 254).toNat
      | _ => 1
  let eb : Nat := if anynan then 0xFF else ea - d
  let el := xs.map (dxPackElem dx8 anynan ea eb)
  let fl := el.foldl (fun f p => f ||| p.2.2.2) 0
  let body :=
    if dx8 then el.map fun p => BitVec.ofNat 8 (p.1.toNat * 128 + p.2.1.toNat * 64 + p.2.2.1)
    else nibbles (el.map fun p => p.1.toNat * 8 + p.2.1.toNat * 4 + p.2.2.1)
  (BitVec.ofNat 8 ea :: BitVec.ofNat 8 eb :: body, fl)

/-- A stored element of a view of FMT 3 to 5 as binary32 (R105); a NaN reads as the canonical one. -/
def viewToF32 (fmt c : Nat) : Nat :=
  let src := ffOf (match fmt with | 3 => 9 | 4 => 12 | _ => 13)
  (src.convert f32 ⟨1, false, false⟩ c).1

/-- A binary32 word as an element of a tolerant page of FMT 3 to 5 (R108). -/
def f32ToView (fmt x : Nat) : Nat :=
  let dst := ffOf (match fmt with | 3 => 9 | 4 => 12 | _ => 13)
  (f32.convert dst ⟨1, true, false⟩ x).1

/-- One byte of CRC-32C, bit by bit: polynomial 0x82F63B78, reflected. -/
def crcStep (n crc : Nat) : Nat :=
  match n with
  | 0 => crc
  | n + 1 => crcStep n (if crc % 2 == 1 then Nat.xor (crc / 2) 0x82F63B78 else crc / 2)

/-- CRC-32C of a list of bytes (R111, R425, R481). -/
def crc32c (bs : List Byte) : Nat :=
  Nat.xor (bs.foldl (fun c b => crcStep 8 (Nat.xor c b.toNat)) 0xFFFFFFFF) 0xFFFFFFFF

/-! ## SHA-256 (R477, R486)

The spec names the hash; its constants are roots of the first primes, so they are computed here and not listed. -/

/-- The first 32 bits of the fractional part of the k-th root of p: the root of p × 2^(32k), bit by bit below 2^bits. -/
def rootFrac (k p bits : Nat) : Nat :=
  (List.range bits).foldr (fun b r => if (r + 2 ^ b) ^ k ≤ p * 2 ^ (32 * k) then r + 2 ^ b else r) 0 |> fun r => r % 2 ^ 32

/-- The primes below n. -/
def primesBelow (n : Nat) : List Nat :=
  (List.range n).filter fun p => 2 ≤ p && (List.range p).all fun d => d < 2 || p % d != 0

/-- The constants of the 64 rounds, from cube roots. -/
def hashRoundKeys : List Nat := (primesBelow 312).map fun p => rootFrac 3 p 35

/-- The hash of nothing: two halves of four words, from square roots. -/
def hashStart : List Nat × List Nat :=
  let r := (primesBelow 20).map fun p => rootFrac 2 p 35
  (r.take 4, r.drop 4)

/-- The exclusive or of a word's 32-bit rotations to the right. -/
def turns (x : Nat) (by_ : List Nat) : Nat := by_.foldl (fun r n => Nat.xor r (rotLeft 32 x (32 - n))) 0

/-- The word that follows a window of 16 message words. -/
def nextWord (w : List Nat) : Nat :=
  let a := w.getD 1 0
  let b := w.getD 14 0
  (w.getD 0 0 + Nat.xor (turns a [7, 18]) (a / 2 ^ 3) + w.getD 9 0 + Nat.xor (turns b [17, 19]) (b / 2 ^ 10)) % 2 ^ 32

/-- The rounds of one block: the window of message words moves on by one word in each, and each half takes a new first word. -/
def hashRounds (keys w : List Nat) (x : List Nat × List Nat) : List Nat × List Nat :=
  match keys with
  | [] => x
  | k :: keys =>
    let up (i : Nat) : Nat := x.1.getD i 0
    let lo (i : Nat) : Nat := x.2.getD i 0
    let pick := Nat.lor (Nat.land (lo 0) (lo 1)) (Nat.land (2 ^ 32 - 1 - lo 0) (lo 2))
    let most := Nat.lor (Nat.land (up 0) (Nat.lor (up 1) (up 2))) (Nat.land (up 1) (up 2))
    let t := lo 3 + turns (lo 0) [6, 11, 25] + pick + k + w.getD 0 0
    hashRounds keys (w.drop 1 ++ [nextWord w])
      ((t + turns (up 0) [2, 13, 22] + most) % 2 ^ 32 :: x.1.take 3, (up 3 + t) % 2 ^ 32 :: x.2.take 3)

/-- Take block i of a padded message into a hash. -/
def hashBlock (bs : List Byte) (x : List Nat × List Nat) (i : Nat) : List Nat × List Nat :=
  let w := (List.range 16).map fun j => leNat ((bs.drop (64 * i + 4 * j)).take 4).reverse
  let y := hashRounds hashRoundKeys w x
  let add (a b : List Nat) : List Nat := List.zipWith (fun a b => (a + b) % 2 ^ 32) a b
  (add x.1 y.1, add x.2 y.2)

/-- SHA-256 of a list of bytes (R477, R486). -/
def sha256 (bs : List Byte) : List Byte :=
  let n := bs.length
  let pad := bs ++ 0x80#8 :: List.replicate ((119 - n % 64) % 64) 0 ++ (leBytes 8 (8 * n)).reverse
  let h := (List.range (pad.length / 64)).foldl (hashBlock pad) hashStart
  (h.1 ++ h.2).flatMap fun x => (leBytes 4 x).reverse

end Sys2Proof.Machine
end

