-- ==== Sys2Proof/Machine/Assoc.lean ====
section
/-! DEFINITION. Finite maps from numbers, as plain data: a list of keys and values in rising order, without the default
value. Reading and writing obey the usual laws on every list, in canonical form or not (Laws/Assoc.lean). -/

namespace Sys2Proof

/-- A finite map from numbers, as a list of pairs. -/
abbrev AMap (α : Type) := List (Nat × α)

/-- The value at k, or the default d. -/
def AMap.get {α : Type} (m : AMap α) (k : Nat) (d : α) : α :=
  match m with
  | [] => d
  | (j, v) :: m => if j == k then v else AMap.get m k d

/-- The map without key k. -/
def AMap.erase {α : Type} (m : AMap α) (k : Nat) : AMap α := m.filter fun p => p.1 != k

/-- Put a pair before the first larger key. -/
def AMap.insert {α : Type} (m : AMap α) (k : Nat) (v : α) : AMap α :=
  match m with
  | [] => [(k, v)]
  | (j, w) :: m => if k < j then (k, v) :: (j, w) :: m else (j, w) :: AMap.insert m k v

/-- The map with v at k; the default d is not listed. -/
def AMap.set {α : Type} [DecidableEq α] (m : AMap α) (k : Nat) (v d : α) : AMap α :=
  if v = d then AMap.erase m k else AMap.insert (AMap.erase m k) k v

/-- The map with v at k, listed whatever v is. -/
def AMap.put {α : Type} (m : AMap α) (k : Nat) (v : α) : AMap α := AMap.insert (AMap.erase m k) k v

/-- The value at k when it is listed. -/
def AMap.find? {α : Type} (m : AMap α) (k : Nat) : Option α :=
  match m with
  | [] => none
  | (j, v) :: m => if j == k then some v else AMap.find? m k

/-- The keys rise strictly. -/
def AMap.sorted {α : Type} : AMap α → Bool
  | [] => true
  | [_] => true
  | (j, _) :: (k, w) :: m => j < k && AMap.sorted ((k, w) :: m)

/-- A sorted list of numbers with k put in. -/
def natInsert (l : List Nat) (k : Nat) : List Nat :=
  match l with
  | [] => [k]
  | j :: l => if k < j then k :: j :: l else if k == j then j :: l else j :: natInsert l k

end Sys2Proof
end

