-- ==== Sys2Proof/Machine/State.lean ====
section
/-! DEFINITION. The state of the module as plain data: every piece of state that the spec names (INVENTORY.md lists each
with its rule and reset value), the model's own schedule, and the machine right after reset. -/

namespace Sys2Proof.Machine

/-- Why an exec arm or a step stops with a fault. -/
inductive Fault where
  /-- Raised by exec when an instruction is given to a slot that holds no live thread (R126): no run issues one. Safe. -/
  | noThread
deriving DecidableEq, Repr

/-- Why an exec arm refuses. -/
inductive Refusal where
  /-- Raised by the dispatch for a row without a meaning. Safe. -/
  | notModelled (mnemonic : String)
deriving DecidableEq, Repr

/-- A byte of storage with the poison of its granule (R455). -/
structure PByte where
  b : Byte
  p : Bool
deriving DecidableEq, Repr, Inhabited

/-- All storage of the module and of its environment, keyed by one number (Machine/Memory.lean lays the places out):
listed bytes, and the granules of 8 bytes that are poisoned. -/
structure Memory where
  cells : List Host.Cell
  pois  : List Nat
deriving DecidableEq, Repr, Inhabited

/-- A translation that a walk delivered, with its lease (R399); host says it came from the host's tables (R410). -/
structure Trans where
  ctx    : Nat
  page   : Nat
  size   : Nat
  leaf   : Word
  host   : Bool
  expiry : Nat
  skew   : Nat
deriving DecidableEq, Repr, Inhabited

/-- Why a thread is WAITING (R126). -/
inductive Wait where
  | page (va : Word)
  | walker
  | buffer
  | drain
  | rdv (id : Nat)
  | hjoin (slot : Nat)
  | timeline (t : Nat) (v : Nat)
  | object (key : Nat)
  | barrier (level : Nat)
  | queue
  | sfu
  | tile
  | omu
  | mgc
  | remote
  | stack (k : Nat)
  | retire
  | slot
  | shadow
deriving DecidableEq, Repr, Inhabited

/-- The state of a thread slot (R126). RUNNING lasts only within a step; SWAPPED is a live slot of a task that is on no
core (Task.place). -/
inductive SlotState where
  | empty
  | ready
  | waiting (w : Wait)
  | stopped
  | debug
  | exited
deriving DecidableEq, Repr, Inhabited

/-- A fault record (R377). -/
structure FaultRec where
  code   : Nat
  kind   : Nat
  slot   : Nat
  flags  : Nat
  core   : Nat
  action : Nat
  ctime  : Nat
  kid    : Nat
  w0     : Nat
  pc     : Nat
  addr   : Nat
  info1  : Nat
  info2  : Nat
deriving DecidableEq, Repr, Inhabited

/-- An asynchronous fault that waits for delivery (R139, R528): the slot it belongs to, its timeline counter if it has
one (4: none), its sequence number (0: no numbered operation), and what the record will hold. -/
structure PendFault where
  slot  : Nat
  ctr   : Nat
  seq   : Nat
  code  : Nat
  kind  : Nat
  addr  : Nat
  info1 : Nat
  info2 : Nat
deriving DecidableEq, Repr, Inhabited

/-- One contiguous piece of a buffered store within one page, with the translation it was checked under; first is the first
byte of the element it belongs to, and sent the remote operation (target, OPSEQ) that carries it. -/
structure StorePart where
  first : Nat
  va    : Nat
  bytes : List PByte
  tr    : Trans
  sent  : Option (Nat × Nat)
deriving DecidableEq, Repr, Inhabited

/-- One entry of a write-through buffer: the pieces that one store instruction writes, in order (R223). -/
structure BufStore where
  age   : Nat
  parts : List StorePart
deriving DecidableEq, Repr, Inhabited

/-- An open exchange packet (R335). -/
structure OpenPacket where
  desc  : Word
  level : Nat
  words : List (Word × Bool)
  xopen : Word
deriving DecidableEq, Repr, Inhabited

/-- What a PC-match handler set aside of its thread (R495), with the address that matched (R494). -/
structure ShadowRegs where
  addr   : Word
  x      : AMap Word
  xp     : BitVec 32
  lr     : Word
  tflags : Word
  count  : Nat
deriving DecidableEq, Repr, Inhabited

/-- A control thread's registered arrival at a barrier (R325, R330): level, whether by sarrive, its pc, its time, STAGGER at the
arrival (R338), and an exchange fault that its swait will deliver (R336). -/
structure Arrival where
  level : Nat
  split : Bool
  pc    : Word
  since : Nat
  stag  : Word
  fault : Option FaultRec
deriving DecidableEq, Repr, Inhabited

/-- What an agent answered to a waiting thread: the value for its destination with poison, or the fault. -/
inductive Answer where
  | value (v : Word) (p : Bool)
  | bytes (bs : List PByte)
  | fault (code kind addr : Nat)
deriving DecidableEq, Repr, Inhabited

/-- A thread (R118, R126, R372, R493, R500). The words of the instruction that a waiting thread holds stand
in held; it completes from there when its condition is satisfied. -/
structure Thread where
  st      : SlotState
  x       : AMap Word
  xp      : BitVec 32
  lr      : Word
  pc      : Word
  v       : AMap VReg
  vp      : BitVec 512
  p       : AMap PReg
  tflags  : Word
  exitVal : Word
  exitP   : Bool
  fltrec  : Word
  monsel  : Word
  pmepc   : Word
  shadow  : Option ShadowRegs
  skipPm  : Bool
  wbuf    : List BufStore
  packet  : Option OpenPacket
  arrival : Option Arrival
  frec    : Option FaultRec
  handed  : Bool
  prior   : SlotState
  held    : Option (Nat × Nat × Nat)
  since   : Nat
  answer  : Option Answer
  opIds   : List (Nat × Nat)
  got     : List (Nat × List PByte)
deriving DecidableEq, Repr

/-- An empty slot: TFLAGS at its reset value, every register 0 (R119; log entry 4). -/
def Thread.empty : Thread :=
  { st := .empty, x := [], xp := 0, lr := 0, pc := 0, v := [], vp := 0, p := [], tflags := 1, exitVal := 0,
    exitP := false, fltrec := 0, monsel := 0, pmepc := 0, shadow := none, skipPm := false, wbuf := [], packet := none,
    arrival := none, frec := none, handed := false, prior := .empty, held := none, since := 0, answer := none,
    opIds := [], got := [] }

/-- A launch record (R350), each field as it stands in the record, reserved bits included. -/
structure LaunchRec where
  code    : Nat
  entry   : Nat
  flags   : Nat
  args    : Nat
  cores   : Nat
  helpers : Nat
  prio    : Nat
  rights  : Nat
  audit   : Nat
  group1  : Nat
  group2  : Nat
  group3  : Nat
  group4  : Nat
  omureq  : Nat
  cmsize  : Nat
  stack   : Nat
  waits   : List Nat
  signal  : Nat
  trap    : Nat
  handles : Nat
  imbring : Nat
deriving DecidableEq, Repr, Inhabited

/-- A rendezvous episode (R142): arrivals are slot, value, poison, destination. -/
structure Episode where
  count : Nat
  op    : Nat
  arr   : List (Nat × Word × Bool × Nat)
deriving DecidableEq, Repr, Inhabited

/-- An exchange-list entry (R331): an xsend of a source range, or a packet of captured words; moved words are counted. -/
structure XEntry where
  level  : Nat
  desc   : Word
  src    : Option Word
  words  : List (Word × Bool)
  count  : Nat
  moved  : Nat
  step   : Option Nat
deriving DecidableEq, Repr, Inhabited

/-- An entry of the special-function queue: the owner, the operand captured at issue, and whether it is cancelled until its
thread goes on (R208, R209). -/
structure SfuEntry where
  slot : Nat
  src  : VReg
  cancelled : Bool
deriving DecidableEq, Repr, Inhabited

/-- One of the four timelines (R240, R241): numbers issued, and those issued that have not retired. -/
structure Timeline where
  issued : Nat
  live   : List Nat
deriving DecidableEq, Repr, Inhabited

/-- Where a task is: on a core as its primary or shadow task, swapped to shadow storage or FRAME, or gone (R356). -/
inductive Place where
  | none
  | running (core : Nat) (shadow : Bool)
  | saved (core : Nat) (shadow : Bool) (frame : Bool)
deriving DecidableEq, Repr, Inhabited

/-- A task: the part of a core that belongs to it and that is saved and restored with it (R385), with its threads. frame is the FRAME of its
slot-table entry (R355), preempted says that it left its core for a pre-emption (R362), stored that the shadow storage of its core
holds its saved state (R385), egot holds the answers to remote requests of
engines (tag, fault code or 0, bytes). -/
structure Task where
  place   : Place
  kid     : Nat
  ctx     : Nat
  rank    : Nat
  lrec    : LaunchRec
  threads : AMap Thread
  rot     : Nat
  avoid   : List Nat
  cycles  : Nat
  fusecnt : Nat
  issuecnt : Nat
  gp      : Word
  trapent : Word
  karg    : Word
  kflags  : Word
  qid     : Word
  audit   : Word
  gmem    : AMap Word
  caps    : AMap Word
  tl      : AMap Timeline
  pend    : List PendFault
  points  : AMap Episode
  xlist   : List XEntry
  sfu     : List SfuEntry
  sstep   : Word
  vote    : Word
  stagger : Word
  gain    : Nat
  drfail  : Word
  enob    : Word
  miss    : Nat
  pload   : Nat
  pmt     : AMap Word
  pmctl   : Word
  trbase  : Word
  lwsel   : Word
  exited  : Option Nat
  killing : Bool
  age     : Nat
  frame   : Nat
  preempted : Bool
  stored  : Bool
  egot    : List (Nat × Nat × List PByte)
deriving DecidableEq, Repr, Inhabited

/-- A data-cache or instruction-cache line (R222, R281), with the lease and the skew bound of the translation that filled it (R403), and the
lines of storage behind it. -/
structure CLine where
  ctx    : Nat
  va     : Nat
  bytes  : List PByte
  expiry : Nat
  skew   : Nat
  place  : List Nat
deriving DecidableEq, Repr, Inhabited

/-- A monitor with its configuration (R499). -/
structure Monitor where
  cfg  : Word
  count : Nat
  min  : Nat
  max  : Nat
  sum  : Nat
  bucket : AMap Nat
deriving DecidableEq, Repr, Inhabited

/-- A cleared monitor: MIN reads all ones (R499). -/
def Monitor.cleared (cfg : Word) : Monitor :=
  { cfg := cfg, count := 0, min := 2 ^ 64 - 1, max := 0, sum := 0, bucket := [] }

/-- A message that waits for a stopped core (R492): a pre-emption, the resolution of a slot's fault, a slot-table entry. -/
inductive CoreMsg where
  | halt
  | resolve (slot : Nat) (choice : DebugChoice)
  | entry (shadow : Bool) (write : BindWrite)
deriving DecidableEq, Repr, Inhabited

/-- The hardware of a core that is not saved with its task: which task runs, caches, memory owners, slot-table entries,
debug state, monitors. -/
structure Core where
  run     : Option Nat
  primary : Option BindEntry
  shadow  : Option BindEntry
  ptask   : Option Nat
  stask   : Option Nat
  dcache  : List CLine
  icache  : List CLine
  owner   : AMap Nat
  dbgHeld : Bool
  dbgStop : Bool
  msgs    : List CoreMsg
  mons    : AMap Monitor
  corr    : Nat
  traceAt : Nat
  preempt : Bool
deriving DecidableEq, Repr, Inhabited

/-- The state of a copy of chip time (R402). -/
inductive Sync where
  | sync
  | hold
  | unsync
deriving DecidableEq, Repr, Inhabited

/-- A copy of chip time: state, distance from chip time in ns, what is left to slew, edges in a row within 4 ns, slots without
an edge, the latest error, the count of losses, the edges that must agree before HOLD ends, and what it read at the latest edge, below
which it never reads again (R402, R416, R434). -/
structure TimeCopy where
  st   : Sync
  off  : Int
  slew : Int
  good : Nat
  lost : Nat
  err  : Int
  loss : Nat
  need : Nat
  floor : Nat
deriving DecidableEq, Repr, Inhabited

/-- A copy, set, compare or tile copy in the memory engine (R243 to R249); trs are the translations that it uses, onMig the pages (first
byte, size) on which it stalled for a migration (R409). -/
structure CopyOp where
  fn     : Nat
  seq    : Nat
  tid    : Nat
  slot   : Nat
  cluster : Nat
  dst    : Word
  src    : Word
  len    : Nat
  rows   : Nat
  dstr   : Int
  sstr   : Int
  res    : Word
  patt   : Word
  pp     : Bool
  raw    : Bool
  tile   : Nat
  first  : Nat
  toTile : Bool
  rowB   : Nat
  off    : Nat
  row    : Nat
  cmpP   : Bool
  diff   : Option Nat
  onMig  : List (Nat × Nat)
  trs    : List Trans
  stall  : Bool
  since  : Nat
  isTile : Bool
deriving DecidableEq, Repr, Inhabited

/-- What an operation accepted by the optical matrix unit is (R296, R314, R317, R319). -/
inductive OmuKind where
  | pass (m : MxpW) (xb : Word) (status : Bool)
  | probe (mask : Nat)
  | phld (bank : Nat) (va : Word)
  | phtrim (bank : Nat)
  | phrd (bank : Nat) (va : Word)
  | phinv (bank : Nat)
  | tzero (n : Nat)
  | tacc (n m : Nat)
deriving DecidableEq, Repr, Inhabited

/-- One chunk of one row of a pass: the exponent Ein, whether a NaN stands in it, whether an A byte is poisoned, and of its sub-passes, 64
each, the ideal codes with their fraction bits, the codes before the detector's clamp and after it (R298, R299, R302); miss are the outputs
that the promise of R301 leaves out. -/
structure PassCell where
  ein   : Nat
  nan   : Bool
  pois  : Bool
  ideal : List (List Int)
  raw   : List (List Int)
  codes : List (List Int)
  miss  : List Nat
deriving DecidableEq, Repr, Inhabited

/-- An operation of the optical matrix unit: its issuer, destination register, the capability and the gain it carries; its
number and its place in issue order once accepted (R294). Of a pass: the banks it uses with their weight scales and poison, the
banks whose closing probe is outstanding, what was streamed and detected, its clamped codes and its least declared accuracy
(R298 to R306); clipped says that an element stands above full scale. probed says that the probe before a phase operation has run (R304). -/
structure OmuOp where
  kind  : OmuKind
  seq   : Nat
  tid   : Nat
  slot  : Nat
  kid   : Nat
  dest  : Reg
  cap   : Option Word
  gain  : Nat
  banks : List Nat
  open_ : List Nat
  scales : List Nat
  bpois : List Bool
  dx8   : Bool
  cells : List PassCell
  satn  : Nat
  sat   : Bool
  clipped : Bool
  enob  : Nat
  probed : Bool
  since : Nat
deriving DecidableEq, Repr, Inhabited

/-- A translation-cache entry is a Trans; a handle copy of the scratchpad (R251). -/
structure Handle where
  kid  : Nat
  h    : Nat
  nblk : Nat
  log  : Nat
  prio : Nat
  bad  : Bool
deriving DecidableEq, Repr, Inhabited

/-- A scratchpad block that is FILLING or RESIDENT (R252): first granule, tag, pin count, class, use order, filler. -/
structure Block where
  base  : Nat
  kid   : Nat
  h     : Nat
  blk   : Nat
  log   : Nat
  fill  : Bool
  pin   : Nat
  cls   : Nat
  used  : Nat
  filler : Nat × Nat
  evict : Bool
deriving DecidableEq, Repr, Inhabited

/-- A cluster: optical matrix unit (bankCtx: one more than the context that loaded its banks, R290, R291), memory engine, scratchpad,
translation cache, copy of chip time; thermal says that the MGC has started the unit's thermal loop (R32, R307), unlockAt since when that loop
is not locked, trimBad is the map of the banks whose probe failed at their latest phtrim (R461). -/
structure Cluster where
  thermal : Bool
  tcfg    : AMap Word
  loaded  : Nat
  bankPois : Nat
  bankCtx : Nat
  phprobe : Nat
  drlimit : Nat
  enobp   : Nat
  bank    : Nat
  drwarn  : Bool
  emax    : Nat
  pbank   : Nat
  trimBad : Nat
  terr    : List Int
  unlockAt : Option Nat
  issued  : List OmuOp
  staged  : List OmuOp
  flight  : Option OmuOp
  omuHeld : List OmuOp
  since   : AMap Nat
  due     : List Nat
  copies  : List CopyOp
  deficit : AMap Nat
  weight  : AMap Nat
  credit  : AMap Nat
  granule : AMap Nat
  blocks  : List Block
  broken  : List Block
  handles : List Handle
  clock   : Nat
  tlb     : List Trans
  time    : TimeCopy
deriving DecidableEq, Repr, Inhabited

/-- A dcmp in its die's queue (R311). -/
structure DcmpOp where
  seq  : Nat
  tid  : Nat
  slot : Nat
  cluster : Nat
  dst  : Word
  src  : Word
  res  : Bool
deriving DecidableEq, Repr, Inhabited

/-- An event for an MGC (R483): a fault, a miss, a klaunch check of a thread, a doorbell, a refusal by dispatch. -/
inductive MgcEvent where
  | fault (tid slot : Nat)
  | miss (tid slot : Nat)
  | launch (tid slot : Nat)
  | doorbell (ctx q : Nat)
  | refused (core : Nat) (shadow : Bool) (why : Nat)
deriving DecidableEq, Repr, Inhabited

/-- A compute die: walker pool's copy of chip time, decomposition queue, the hardware queue of events for its MGC (R483), clock limit. -/
structure Die where
  time  : TimeCopy
  dcmp  : List DcmpOp
  events : List MgcEvent
  limit : Nat
  coolAt : Nat
deriving DecidableEq, Repr, Inhabited

/-- The thermal state of an HBM stack (R466). -/
inductive Thermal where
  | normal
  | doubled
  | self
deriving DecidableEq, Repr, Inhabited

/-- A move of the machine's schedule: a device event, the completion attempt of a waiting thread, a buffered store that
goes to its home whole or by a part, a part cut in two (R212, R221), an engine operation that a stack held, the passing of chip time, a
line that a core drops (R262), what the outside world does, an access of another module or of the host that a stack held (R468), or
the filing of events for the MGCs (R483). -/
inductive Move where
  | event (i : Instr)
  | resume (tid slot : Nat)
  | perform (tid slot age : Nat)
  | engine (tid op : Nat)
  | elapse (ns : Nat)
  | dropLine (core idx : Nat)
  | performPart (tid slot age idx : Nat)
  | cutPart (tid slot age idx n : Nat)
  | input (x : Input)
  | request (p : Packet)
  | hostRead (pa len : Nat)
  | hostWrite (pa : Nat) (data : List Byte) (poison : Bool)
  | collect
deriving DecidableEq, Repr

/-- An HBM stack and its controller (R466 to R472): held are the moves that carry out the accesses that its SELF state holds, in arrival
order; capacity and spares are what it reports at the start (R32); trainings counts how often it was trained, rows holds for a row of the
stack the times of its corrected errors of a day and the number of its uncorrectable errors since its latest repair; mbox is the mailbox to
the PSC, kept what waits at the controller for room in it, inbox the mailbox from the PSC. -/
structure Stack where
  th     : Thermal
  temp   : Int
  tempOk : Bool
  selfAt : Nat
  noticed : Nat
  lost   : Bool
  held   : List Move
  capacity : Nat
  spares : Nat
  repaired : List Nat
  scrubAt : Nat
  trainings : Nat
  rows   : AMap (List Nat × Nat)
  mbox   : List StackMsg
  kept   : List StackMsg
  inbox  : List StackMsg
deriving DecidableEq, Repr, Inhabited

/-- A synchronisation object's requests and holders (R229, R232): task, slot, exclusive. -/
structure SyncObj where
  key     : Nat
  va      : Word
  ctx     : Nat
  holders : List (Nat × Nat × Bool)
  queue   : List (Nat × Nat × Bool)
deriving DecidableEq, Repr, Inhabited

/-- The state of a context (R374). -/
inductive CtxState where
  | free
  | building
  | active
  | suspended
  | teardown
deriving DecidableEq, Repr, Inhabited

/-- A launch queue of a context with its companion queue (R347 to R349). -/
structure Queue where
  ring  : Nat
  logq  : Nat
  cap   : Nat
  audit : Nat
  tail  : Nat
  head  : Nat
  seq   : Nat
  comp  : List Nat
deriving DecidableEq, Repr, Inhabited

/-- A context (R370 to R374, R379, R407, R414). -/
structure Context where
  st     : CtxState
  desc   : CtxDesc
  queues : AMap Queue
  wcount : Nat
  backlog : List FaultRec
  pgen   : Bool
  pgepoch : Nat
  lastWalk : Nat
  freedAt : Nat
  lost   : Bool
  used   : Bool
deriving DecidableEq, Repr, Inhabited

/-- The state of a kernel (R353). -/
inductive KState where
  | queued
  | eligible
  | bound
  | running
  | draining
  | auditPending
  | complete
  | faulted
deriving DecidableEq, Repr, Inhabited

/-- A kernel (R353, R365, R367, R368). -/
structure Kernel where
  kid     : Nat
  ctx     : Nat
  q       : Nat
  seq     : Nat
  qrec    : Nat
  lrec    : LaunchRec
  st      : KState
  device  : Bool
  gen     : Nat
  parent  : Option (Nat × Nat)
  attached : Bool
  auditCnt : Nat
  selected : Bool
  replay  : Option Nat
  replayOf : Option Nat
  eligAt  : Nat
  exit    : Nat
  startedTasks : List Nat
  exitedTasks : List Nat
  bound   : List (Nat × Nat)
  signalled : Bool
  regions : List (Nat × Nat × Nat)
  enobMin : Nat
  usage   : List Nat
deriving DecidableEq, Repr, Inhabited

/-- The state of a group (R324). -/
inductive GState where
  | formed
  | compute
  | arriving
  | exchange
  | releasing
  | broken
  | dissolved
deriving DecidableEq, Repr, Inhabited

/-- A group (R320 to R330, R340): its size, the tasks of this module that are members with their ranks, and the superstep in progress. An arrival is
rank, chip time, vote, poison and operation (5: sync or sarrive); gone are the ranks that have passed kexit, early the arrivals of other modules at
the next superstep with the core, done the modules that have delivered all they send in this superstep, freed the ranks released from it; own are
the bytes and entries of this module among those of the superstep. -/
structure Group where
  kid     : Nat
  level   : Nat
  gid     : Nat
  size    : Nat
  members : List (Nat × Nat)
  gone    : List Nat
  done    : List Nat
  st      : GState
  step    : Nat
  arr     : List (Nat × Nat × Word × Bool × Nat)
  first   : Nat
  last    : Nat
  lastCore : Nat
  sum     : Nat
  vote    : Word
  votep   : Bool
  relAt   : Nat
  freed   : List Nat
  bytes   : Nat
  entries : Nat
  own     : Nat × Nat
  early   : List ((Nat × Nat × Word × Bool × Nat) × Nat)
deriving DecidableEq, Repr, Inhabited

/-- The state of a port (R430). -/
inductive PortState where
  | off
  | train
  | lock
  | up
  | drain
  | dark
  | relock
  | degraded
  | fenced
deriving DecidableEq, Repr, Inhabited

/-- A lane of a port (R423, R428 to R432): queue holds numbered flits that wait for room in the replay buffer unacked, owed the
credits to be returned, part the flits that have come of a packet and their bytes, out the flits formed that have not left, sent those that have,
cw the number of the codeword at chip time cwAt, idleAt the time of the latest IDLE or TRAIN flit. -/
structure Lane where
  txSeq  : Nat
  unacked : List Flit
  queue  : List Flit
  rxSeq  : Nat
  gap    : Bool
  naks   : Nat
  waves  : Nat
  drop   : Option (Nat × Nat)
  fenced : Bool
  sinceAck : Nat
  part   : AMap (Nat × List Byte)
  credits : AMap Nat
  owed   : AMap Nat
  cw     : Nat
  cwAt   : Nat
  out    : List Flit
  sent   : List Flit
  idleAt : Nat
deriving DecidableEq, Repr, Inhabited

/-- A port of the switch chiplet (R30, R430, R434, R449) with its lanes, the round trip in ns and the rank of its peer that LOCK found,
and the fabric manager's asymmetry correction. crossed lists the requests (source, target, OPSEQ) that left by it and are not
answered (R439, R442). -/
structure Port where
  st      : PortState
  lanes   : List Lane
  rtt     : Nat
  asym    : Int
  peerRank : Nat
  peer    : Nat
  peerPort : Nat
  expectPeer : Option Nat
  replays : Nat
  badpkt  : Nat
  order   : Nat
  advUp   : Nat
  advDepth : Nat
  since   : Nat
  drainSent : Bool
  drainGot : Bool
  planned : Bool
  keep    : Bool
  crossed : List (Nat × Nat × Nat)
deriving DecidableEq, Repr, Inhabited

/-- A packet in a virtual queue of the switch: one more than the order of the port that it came by, 0 where it entered (R437), its virtual
channel, and the receive buffer (port, lane, flits) that it still fills (R435). -/
structure Queued where
  a    : Nat
  v    : Nat
  src  : Option (Nat × Nat × Nat)
  pkt  : Packet
deriving DecidableEq, Repr, Inhabited

/-- What a remote operation does for its requester (R439). -/
inductive RemoteFor where
  | load (tid slot tag : Nat)
  | store (tid slot age va : Nat)
  | atomic (tid slot tag va : Nat)
  | engine (tid tag : Nat)
  | group (kid level gid : Nat)
deriving DecidableEq, Repr, Inhabited

/-- An outstanding remote operation at its requester (R439): held says that a circuit change holds it unsent. -/
structure RemoteOp where
  target : Nat
  opseq  : Nat
  who    : RemoteFor
  pkt    : Packet
  first  : Nat
  last   : Nat
  held   : Bool
deriving DecidableEq, Repr, Inhabited

/-- An ldrain that has not retired (R448): the module it selects, none for all; the remote operations and buffered stores (slot,
age) that it covers. -/
structure LDrain where
  tid    : Nat
  seq    : Nat
  sel    : Option Nat
  ops    : List (Nat × Nat)
  stores : List (Nat × Nat)
deriving DecidableEq, Repr, Inhabited

/-- A target's record of a performed operation (R439). -/
structure TargetRec where
  src   : Nat
  opseq : Nat
  reply : Packet
  at_   : Nat
deriving DecidableEq, Repr, Inhabited

/-- An accepted irsend or irrecv (R450). -/
structure IrOp where
  sess : Nat
  slot : Nat
  recv : Bool
  tid  : Nat
  th   : Nat
  seq  : Nat
  core : Nat
  buf  : Nat
  data : Option (List Byte)
deriving DecidableEq, Repr, Inhabited

/-- The state of a firmware image (R479, R489). -/
inductive ImgState where
  | none
  | staged
  | verified
  | handover
  | probation
  | committed
  | rolledBack
deriving DecidableEq, Repr, Inhabited

/-- One of the two image slots of a controller (R479): its image, none for the one that the part was made with or for no image, and the entry
offset at which its execution context was started, none while it does not run. -/
structure FwSlot where
  image : Option FwImage
  runs  : Option Nat
deriving DecidableEq, Repr, Inhabited

/-- An entry of a delta log (R481): its DSEQ, the state-record version in which it is written, and what it says. -/
structure Delta where
  dseq  : Nat
  srver : Nat
  data  : List Byte
deriving DecidableEq, Repr, Inhabited

/-- One controller (R479, R481, R482): its two slots, second saying that slot b is in service; its latest snapshot and the DSEQ that this
includes, the DSEQ of the latest delta entry, the log since the snapshot, and the DSEQ up to which the image that took it over last has
replayed it. -/
structure FwInst where
  a : FwSlot
  b : FwSlot
  second   : Bool
  record   : List Byte
  snapshot : Nat
  dseq     : Nat
  log      : List Delta
  replayed : Nat
deriving DecidableEq, Repr, Inhabited

/-- The images of one controller kind (R476 to R487) with its controllers, whether a hand-over request waits (R485), whether a new PSC image is
being booted (R480): the newest image staged, the one in service and the one before it (none: the image that the part was made with). -/
structure FwKind where
  newest   : Option FwImage
  image    : Option FwImage
  pimage   : Option FwImage
  st       : ImgState
  stAt     : Nat
  version  : Nat
  svn      : Nat
  srprod   : Nat
  pversion : Nat
  psvn     : Nat
  psrprod  : Nat
  committed : Bool
  minSvn   : Nat
  mr       : List Byte
  digest   : List Byte
  pdigest  : List Byte
  caught   : List Nat
  switched : List Nat
  beats    : List (Nat × Nat)
  count    : Nat
  switchAt : Nat
  startAt  : Nat
  insts    : AMap FwInst
  asked    : Bool
  trapped  : Bool
  trial    : Bool
deriving DecidableEq, Repr, Inhabited

/-- A line of 64 bytes of the host half that the device's CXL.cache agent holds Modified (R412; log entry 106): its virtual address, its
key, and what host memory holds of it. -/
structure HostLine where
  va    : Nat
  key   : Nat
  bytes : List PByte
deriving DecidableEq, Repr, Inhabited

/-- A pending ATS invalidation (R411). -/
structure AtsInv where
  va  : Nat
  len : Nat
  at_ : Nat
deriving DecidableEq, Repr, Inhabited

/-- A revoked frame that waits under the reuse rule (R405, R406); copy says that its page migrates and the raw copy of its storage has not
retired yet (R408). -/
structure Reuse where
  pa : Nat
  at_ : Nat
  ctx : Nat
  copy : Bool
deriving DecidableEq, Repr, Inhabited

/-- A message that a controller sends out of the module: to whom, its kind and its numbers (mailboxes, R371, R379, R389,
R465, R472, R477, R488). -/
structure Msg where
  dest : Nat
  kind : Nat
  data : List Nat
deriving DecidableEq, Repr, Inhabited

/-- The whole state. -/
structure State where
  now     : Nat
  agenda  : List Move
  issuing : List (Nat × Nat)
  cursor  : Nat
  cur     : Nat × Nat
  curW    : Nat × Nat × Nat
  free    : Nat
  boot    : Nat
  mem     : Memory
  hostMap : AMap Word
  tasks   : AMap Task
  cores   : AMap Core
  clusters : AMap Cluster
  dies    : AMap Die
  hbm     : AMap Stack
  objs    : List SyncObj
  ctxs    : AMap Context
  kernels : List Kernel
  nextKid : Nat
  groups  : List Group
  groupWait : List Packet
  peerAccepts : List (Nat × Nat × Nat × Nat)
  replicas : List (Nat × Nat)
  pgc     : AMap (Nat × Nat)
  hlease  : Nat
  ports   : AMap Port
  route   : AMap Nat
  chgep   : Nat
  change  : Option Change
  self    : Nat
  ups     : List Nat
  upSel   : Option Nat
  master  : Bool
  slotTaken : Bool
  circuits : Bool
  mgmtWait : List (Nat × Nat × Nat)
  podTime : TimeCopy
  vqueue  : List Queued
  opseqs  : AMap Nat
  remotes : List RemoteOp
  targets : List TargetRec
  ldrains : List LDrain
  irSess  : AMap (Option IrSession)
  irOps   : List IrOp
  comb    : AMap Telemetry
  devstat : Word
  enmap   : BitVec 256
  wdmap   : BitVec 256
  pwrlim  : Nat
  clock   : Nat
  fw      : AMap FwKind
  mepoch  : Nat
  linkUp  : Bool
  linkBad : Bool
  contained : Bool
  dcdGone : List (Nat × Nat)
  hostPoison : List (Nat × Nat)
  hostMod : List HostLine
  exposed : List (Nat × Nat)
  unitFaults : AMap Nat
  ats     : List AtsInv
  reuse   : List Reuse
  out     : List Msg
deriving DecidableEq, Repr

/-- The comb-line record of a source that is off (R452). -/
def telemetryOff : Telemetry := { bias := 0, power := 0, hours := 0, eolh := 0xFFFFFFFF, bias0 := 0, temp := 0, state := 0 }

/-- A copy of chip time at reset: SYNC, no error (R416). -/
def TimeCopy.reset : TimeCopy := { st := .sync, off := 0, slew := 0, good := 0, lost := 0, err := 0, loss := 0, need := 1, floor := 0 }

/-- A core at reset. -/
def Core.reset : Core :=
  { run := none, primary := none, shadow := none, ptask := none, stask := none, dcache := [], icache := [], owner := [],
    dbgHeld := false, dbgStop := false, msgs := [], mons := [], corr := 0, traceAt := 0, preempt := false }

/-- A cluster at reset: PHPROBE 16, DRLIMIT 4 (R309). -/
def Cluster.reset : Cluster :=
  { thermal := false, tcfg := [], loaded := 0, bankPois := 0, bankCtx := 0, phprobe := 16, drlimit := 4, enobp := 0, bank := 0, drwarn := false,
    emax := 0, pbank := 0, trimBad := 0, terr := [], unlockAt := none, issued := [], staged := [], flight := none, omuHeld := [], since := [], due := [],
    copies := [], deficit := [], weight := [], credit := [], granule := [], blocks := [], broken := [], handles := [],
    clock := 0, tlb := [], time := TimeCopy.reset }

/-- A die at reset. -/
def Die.reset : Die := { time := TimeCopy.reset, dcmp := [], events := [], limit := 2000, coolAt := 0 }

/-- A stack at reset (R467: SELF and DBL 0). -/
def Stack.reset : Stack :=
  { th := .normal, temp := 0, tempOk := false, selfAt := 0, noticed := 0, lost := false, held := [], capacity := 0, spares := 0, repaired := [],
    scrubAt := 0, trainings := 0, rows := [], mbox := [], kept := [], inbox := [] }

/-- A context that is FREE. EPOCH of its page counts starts at 0: the model holds it per context, which R414 leaves open; DESIGN CHOICE (log
entry 131). -/
def Context.reset : Context :=
  { st := .free, desc := default, queues := [], wcount := 0, backlog := [], pgen := false, pgepoch := 0, lastWalk := 0,
    freedAt := 0, lost := false, used := false }

/-- A lane at reset. -/
def Lane.reset : Lane :=
  { txSeq := 0, unacked := [], queue := [], rxSeq := 0, gap := false, naks := 0, waves := 0, drop := none, fenced := false,
    sinceAck := 0, part := [], credits := [], owed := [], cw := 0, cwAt := 0, out := [], sent := [], idleAt := 0 }

/-- The lanes of a port (R30). -/
def lanesOf (port : Nat) : Nat :=
  if port < 96 then 2 else if port < 104 then 40 else if port < 108 then 48 else 0

/-- A port at reset: OFF (R430). -/
def Port.reset (port : Nat) : Port :=
  { st := .off, lanes := List.replicate (lanesOf port) Lane.reset, rtt := 0, asym := 0, peerRank := 0, peer := 0, peerPort := 0
    expectPeer := none, replays := 0, badpkt := 0, order := 0, advUp := 0x3FF, advDepth := 0xFF, since := 0, drainSent := false
    drainGot := false, planned := false, keep := false, crossed := [] }

/-- A routing-table entry at reset: UNREACH, four times no port (R436). -/
def routeReset : Nat := 2 ^ 28 + 127 * 2 ^ 21 + 127 * 2 ^ 14 + 127 * 2 ^ 7 + 127

/-- A controller at reset. -/
def FwInst.reset : FwInst :=
  { a := ⟨none, none⟩, b := ⟨none, none⟩, second := false, record := [], snapshot := 0, dseq := 0, log := [], replayed := 0 }

/-- A controller kind at power good: no image staged, measurement register zero (R486). The image that the part is made with has VERSION, SVN,
SRPROD and fused minimum SVN 0 and a DIGEST of 32 zero bytes: the spec gives none (log entry 4). -/
def FwKind.reset : FwKind :=
  { newest := none, image := none, pimage := none, st := .none, stAt := 0, version := 0, svn := 0, srprod := 0, pversion := 0, psvn := 0, psrprod := 0,
    committed := false, minSvn := 0, mr := List.replicate 32 0, digest := List.replicate 32 0, pdigest := [], caught := [],
    switched := [], beats := [], count := 0, switchAt := 0, startAt := 0, insts := [], asked := false, trapped := false, trial := false }

/-- ENMAP of an HXI-9640: every unit enabled (R35, R36; log entry 5). -/
def enmap9640 : BitVec 256 := BitVec.ofNat 256 (0x40 * 2 ^ 216 + 2 ^ 216 - 1)

/-- The module right after reset: no start step has run, nothing is stored, no context exists. -/
def State.reset : State :=
  { now := 0, agenda := [], issuing := [], cursor := 0, cur := (0, 0), curW := (0, 0, 0), free := 0, boot := 0,
    mem := { cells := [], pois := [] }, hostMap := [], tasks := [], cores := [], clusters := [], dies := [],
    hbm := [], objs := [], ctxs := [], kernels := [], nextKid := 1, groups := [], groupWait := [], peerAccepts := [], replicas := [], pgc := [],
    hlease := 8, ports := [], route := [], chgep := 0, change := none, self := 0, ups := [],
    upSel := none, master := true, slotTaken := false, circuits := false, mgmtWait := [], podTime := TimeCopy.reset, vqueue := [], opseqs := [], remotes := [], targets := [], ldrains := [],
    irSess := [], irOps := [], comb := [], devstat := 0, enmap := enmap9640, wdmap := 0, pwrlim := 1900000,
    clock := 2000, fw := [], mepoch := 0, linkUp := false, linkBad := false, contained := false, dcdGone := [],
    hostPoison := [], hostMod := [], exposed := [], unitFaults := [], ats := [], reuse := [], out := [] }

end Sys2Proof.Machine
end

