-- ==== Sys2Proof/Machine/Memory.lean ====
section
/-! DEFINITION. Storage: the places of every byte (R28, R37, R258, R287), reading and writing with poison granules (R455),
and the storage of page views (R104 to R110, R395). -/

namespace Sys2Proof.Machine

/-- The byte at a key; a byte that nothing has written reads 0 (log entry 3). -/
def Memory.byte (m : Memory) (k : Nat) : Byte := AMap.get m.cells k 0

/-- Whether the granule of a key is poisoned. -/
def Memory.poisoned (m : Memory) (k : Nat) : Bool := m.pois.contains (k / 8)

/-- A byte with its granule's poison. -/
def Memory.pbyte (m : Memory) (k : Nat) : PByte := ⟨m.byte k, m.poisoned k⟩

/-- The listed cells of bytes at rising keys: no zero is listed. -/
def cellsOf (k : Nat) : List Byte → List Host.Cell
  | [] => []
  | b :: bs => if b = 0 then cellsOf (k + 1) bs else (k, b) :: cellsOf (k + 1) bs

/-- Write bytes at rising keys from k, poison aside. -/
def Memory.writeBytes (m : Memory) (k : Nat) (bs : List Byte) : Memory :=
  { m with cells := m.cells.filter (fun c => c.1 < k) ++ cellsOf k bs ++ m.cells.filter (fun c => k + bs.length ≤ c.1) }

/-- The granules from g whose flag is set. -/
def poisOf (g : Nat) : List Bool → List Nat
  | [] => []
  | b :: bs => if b then g :: poisOf (g + 1) bs else poisOf (g + 1) bs

/-- Set the poison of rising granules from g. -/
def Memory.writePois (m : Memory) (g : Nat) (fs : List Bool) : Memory :=
  { m with pois := m.pois.filter (fun j => j < g) ++ poisOf g fs ++ m.pois.filter (fun j => g + fs.length ≤ j) }

/-- The new poison of granule g when the bytes from k are written (R455): that of the data when it is covered whole, else ORed
into the old. -/
def granulePois (m : Memory) (k : Nat) (bs : List PByte) (g : Nat) : Bool :=
  let lo := 8 * g - k
  let part := (bs.drop lo).take (8 * g + 8 - max k (8 * g))
  let data := part.any PByte.p
  if k ≤ 8 * g && 8 * g + 8 ≤ k + bs.length then data else m.pois.contains g || data

/-- Write bytes with their poison at rising keys from k (R455). -/
def Memory.write (m : Memory) (k : Nat) (bs : List PByte) : Memory :=
  if bs.isEmpty then m
  else
    let g := k / 8
    let n := (k + bs.length - 1) / 8 + 1 - g
    (m.writePois g ((List.range n).map fun i => granulePois m k bs (g + i))).writeBytes k (bs.map PByte.b)

/-- The n bytes from key k. -/
def Memory.read (m : Memory) (k n : Nat) : List PByte := (List.range n).map fun i => m.pbyte (k + i)

/-- Zero n bytes from k, a multiple of 8, with their poison. -/
def Memory.zero (m : Memory) (k n : Nat) : Memory :=
  { cells := m.cells.filter (fun c => c.1 < k || k + n ≤ c.1)
    pois := m.pois.filter (fun g => g < k / 8 || k / 8 + n / 8 ≤ g) }

/-- Copy the listed bytes of [k, k + n) to [d, d + n), whose old contents go. -/
def Memory.copy (m : Memory) (k d n : Nat) : Memory :=
  let cs := (m.cells.filter fun c => k ≤ c.1 && c.1 < k + n).map fun c => (c.1 - k + d, c.2)
  let ps := (m.pois.filter fun g => k / 8 ≤ g && g < k / 8 + n / 8).map fun g => g - k / 8 + d / 8
  let m := m.zero d n
  { cells := m.cells.filter (fun c => c.1 < d) ++ cs ++ m.cells.filter (fun c => d ≤ c.1)
    pois := m.pois.filter (fun g => g < d / 8) ++ ps ++ m.pois.filter (fun g => d / 8 ≤ g) }

/-- The canonical form: keys rise strictly and no listed byte is 0; poisoned granules rise strictly. -/
def Memory.wf (m : Memory) : Bool :=
  AMap.sorted m.cells && m.cells.all (fun c => c.2 != 0) && AMap.sorted (m.pois.map fun g => (g, ()))

/-- The key of a byte of stack storage (R28). -/
def devKey (stack off : Nat) : Nat := stack * 2 ^ 36 + off

/-- The stack of a physical address of device memory (R28). -/
def paStack (pa : Nat) : Nat := if pa < 2 ^ 39 then pa / 2 ^ 12 % 8 else pa / 2 ^ 36 % 8

/-- The key of a physical address of device memory (R28). -/
def paKey (pa : Nat) : Nat :=
  if pa < 2 ^ 39 then devKey (paStack pa) (pa / 2 ^ 15 * 4096 + pa % 4096) else devKey (paStack pa) (pa % 2 ^ 36)

/-- Spaces of physical addresses: this module's device memory, the host, another module of the partition. -/
inductive Space where
  | dev
  | host
  | peer (m : Nat)
deriving DecidableEq, Repr

/-- The key of a byte of a space. -/
def Space.key (sp : Space) (a : Nat) : Nat :=
  match sp with
  | .dev => paKey a
  | .host => 2 ^ 64 + a
  | .peer m => (16 + m) * 2 ^ 64 + a

/-- The key of byte off of a core's memory (R37). -/
def cmKey (core off : Nat) : Nat := (2000 + core) * 2 ^ 64 + off
/-- The key of byte off of a cluster's scratchpad (R37). -/
def cspKey (cl off : Nat) : Nat := (8000 + cl) * 2 ^ 64 + off
/-- The key of byte off of a tile (R287). -/
def tileKey (cl t off : Nat) : Nat := (9000 + 16 * cl + t) * 2 ^ 64 + off
/-- The key of byte off of a phase bank's image (R290). -/
def bankKey (cl b off : Nat) : Nat := (12000 + 16 * cl + b) * 2 ^ 64 + off
/-- The key of byte off of the footprint of a task swapped to shadow storage, which stays in its core while another task uses the window
(R388; log entry 12). -/
def asideKey (tid off : Nat) : Nat := (2 ^ 20 + tid) * 2 ^ 64 + off

/-- Read n bytes at address a of a space. -/
def Memory.readSp (m : Memory) (sp : Space) (a n : Nat) : List PByte := (List.range n).map fun i => m.pbyte (sp.key (a + i))

/-- Write bytes at address a of a space, run by run within 4 KiB; n bounds the runs. -/
def Memory.writeSp (m : Memory) (sp : Space) (a : Nat) (bs : List PByte) (n : Nat) : Memory :=
  match n with
  | 0 => m
  | n + 1 =>
    let r := 4096 - a % 4096
    (m.write (sp.key a) (bs.take r)).writeSp sp (a + r) (bs.drop r) n

/-- Bytes behind 64 KiB of view (R104, R395). -/
def frameBytes (fmt : Nat) : Nat :=
  match fmt with
  | 1 => 17408
  | 2 => 9216
  | 3 => 32768
  | 4 => 16384
  | 5 => 16384
  | _ => 65536

/-- Whether FMT names a view of binary32 words (R104). -/
def isView (fmt : Nat) : Bool := 1 ≤ fmt && fmt ≤ 5

/-- The frame address of the 64 KiB unit that view offset o lies in (R395). -/
def unitBase (frame fmt o : Nat) : Nat := frame + o / 65536 * frameBytes fmt

/-- Word w of a view unit whose storage begins at address u: binary32 bits and poison (R104 to R106). -/
def Memory.viewWord (m : Memory) (sp : Space) (u fmt w : Nat) : Nat × Bool :=
  match fmt with
  | 3 =>
    let b := m.readSp sp (u + 2 * w) 2
    (viewToF32 3 (leNat (b.map PByte.b)), b.any PByte.p)
  | 4 =>
    let b := m.pbyte (sp.key (u + w))
    (viewToF32 4 b.b.toNat, b.p)
  | 5 =>
    let b := m.pbyte (sp.key (u + w))
    (viewToF32 5 b.b.toNat, b.p)
  | _ =>
    let dx8 := fmt == 1
    let a := u + dxBytes dx8 * (w / 32)
    let blk := m.readSp sp a (dxBytes dx8)
    let i := w % 32
    let e := if dx8 then 2 + i else 2 + i / 2
    (dxToF32 dx8 (blk.map PByte.b) i,
      (blk.getD 0 default).p || (blk.getD 1 default).p || (blk.getD e default).p)

/-- Byte o of a page's view (R105, R106). -/
def Memory.viewByte (m : Memory) (sp : Space) (frame fmt o : Nat) : PByte :=
  if isView fmt then
    let r := m.viewWord sp (unitBase frame fmt o) fmt (o % 65536 / 4)
    ⟨BitVec.ofNat 8 (r.1 / 256 ^ (o % 4)), r.2⟩
  else m.pbyte (sp.key (frame + o))

/-- n bytes of a page's view from offset o. -/
def Memory.viewRead (m : Memory) (sp : Space) (frame fmt o n : Nat) : List PByte :=
  (List.range n).map fun i => m.viewByte sp frame fmt (o + i)

/-- Re-pack one block with some of its words replaced (R109, R110, R455): words are index in the block, value, poison; of two words for
one element the later stays (R212). -/
def Memory.repack (m : Memory) (sp : Space) (dx8 : Bool) (a : Nat) (ws : List (Nat × Nat × Bool)) : Memory :=
  let blk := m.readSp sp a (dxBytes dx8)
  let bb := blk.map PByte.b
  let xs := (List.range 32).map fun i =>
    match ws.reverse.find? (fun w => w.1 == i) with
    | some w => w.2.1
    | none => dxToF32 dx8 bb i
  let old := (List.range 32).any fun i =>
    (blk.getD 0 default).p || (blk.getD 1 default).p || (blk.getD (if dx8 then 2 + i else 2 + i / 2) default).p
  let p := old || ws.any (fun w => w.2.2)
  let out := (dxPack dx8 (if dx8 then 4 else 2) xs).1
  let m := m.writeSp sp a (out.map fun b => ⟨b, p⟩) 3
  let ks := (List.range (dxBytes dx8)).map fun i => sp.key (a + i) / 8
  { m with pois := if p then ks.foldl natInsert m.pois else m.pois.filter fun g => !ks.contains g }

/-- Group the words of one store by block, in rising block order; n bounds the blocks. -/
def blocksOf (n : Nat) (ws : List (Nat × Nat × Bool)) : List (Nat × List (Nat × Nat × Bool)) :=
  match n, ws with
  | 0, _ => []
  | _, [] => []
  | n + 1, w :: ws =>
    let b := w.1 / 32
    (b, ((w :: ws).filter fun x => x.1 / 32 == b).map fun x => (x.1 % 32, x.2)) :: blocksOf n (ws.filter fun x => x.1 / 32 != b)

/-- Store binary32 words into a view unit at address u (R108 to R110): word index, value, poison. -/
def Memory.storeWords (m : Memory) (sp : Space) (u fmt : Nat) (ws : List (Nat × Nat × Bool)) : Memory :=
  if fmt ≤ 2 then
    let dx8 := fmt == 1
    (blocksOf ws.length ws).foldl (fun m b => m.repack sp dx8 (u + dxBytes dx8 * b.1) b.2) m
  else
    let n := if fmt == 3 then 2 else 1
    ws.foldl (fun m w => m.writeSp sp (u + n * w.1) ((leBytes n (f32ToView fmt w.2.1)).map fun b => ⟨b, w.2.2⟩) 2) m

/-- The words of bytes that begin at a multiple of 4 of a view: index, value, poison. -/
def wordsOf (n w : Nat) (bs : List PByte) : List (Nat × Nat × Bool) :=
  match n with
  | 0 => []
  | n + 1 => (w, leNat ((bs.take 4).map PByte.b), (bs.take 4).any PByte.p) :: wordsOf n (w + 1) (bs.drop 4)

/-- Write view bytes of a page from offset o; on a view page whole words only, all in one 64 KiB unit (R107 to R109). -/
def Memory.viewWrite (m : Memory) (sp : Space) (frame fmt o : Nat) (bs : List PByte) : Memory :=
  if isView fmt then m.storeWords sp (unitBase frame fmt o) fmt (wordsOf (bs.length / 4) (o % 65536 / 4) bs)
  else m.writeSp sp (frame + o) bs (bs.length / 4096 + 2)

end Sys2Proof.Machine
end

