-- ==== Sys2Proof/Machine/Parts.lean ====
section
/-! DEFINITION. Reading and replacing the parts of the state: tasks, threads, cores, clusters, dies, stacks, contexts, kernels;
indices (R17), enabled units (R35, R462), copies of chip time (R402). -/

namespace Sys2Proof.Machine

/-- The task that no entry names. -/
def Task.blank : Task :=
  { place := .none, kid := 0, ctx := 0, rank := 0, lrec := default, threads := [], rot := 0, avoid := [],
    cycles := 0, fusecnt := 0, issuecnt := 0, gp := 0, trapent := 0, karg := 0, kflags := 0, qid := 0, audit := 0,
    gmem := [], caps := [], tl := [], pend := [], points := [], xlist := [], sfu := [], sstep := 0,
    vote := 0, stagger := 0, gain := 3, drfail := 0, enob := 0xFF00, miss := 0, pload := 0, pmt := [], pmctl := 0,
    trbase := 0, lwsel := 0, exited := none, killing := false, age := 0, frame := 0, preempted := false, stored := false, egot := [] }

/-- The task numbered tid. -/
def State.task (s : State) (tid : Nat) : Task := AMap.get s.tasks tid Task.blank
/-- Replace a task. -/
def State.setTask (s : State) (tid : Nat) (k : Task) : State := { s with tasks := AMap.put s.tasks tid k }
/-- A thread of a task. -/
def Task.thread (k : Task) (slot : Nat) : Thread := AMap.get k.threads slot Thread.empty
/-- Replace a thread of a task. -/
def Task.setThread (k : Task) (slot : Nat) (t : Thread) : Task := { k with threads := AMap.put k.threads slot t }
/-- The thread in a slot of a task. -/
def State.thread (s : State) (tid slot : Nat) : Thread := (s.task tid).thread slot
/-- Replace the thread in a slot of a task. -/
def State.setThread (s : State) (tid slot : Nat) (t : Thread) : State := s.setTask tid ((s.task tid).setThread slot t)
/-- The thread that the current instruction acts on. -/
def State.thr (s : State) : Thread := s.thread s.cur.1 s.cur.2
/-- Replace the current thread. -/
def State.setThr (s : State) (t : Thread) : State := s.setThread s.cur.1 s.cur.2 t
/-- The current task. -/
def State.tk (s : State) : Task := s.task s.cur.1
/-- Replace the current task. -/
def State.setTk (s : State) (k : Task) : State := s.setTask s.cur.1 k

/-- A core. -/
def State.core (s : State) (c : Nat) : Core := AMap.get s.cores c Core.reset
/-- Replace a core. -/
def State.setCore (s : State) (c : Nat) (k : Core) : State := { s with cores := AMap.put s.cores c k }
/-- A cluster. -/
def State.cluster (s : State) (c : Nat) : Cluster := AMap.get s.clusters c Cluster.reset
/-- Replace a cluster. -/
def State.setCluster (s : State) (c : Nat) (k : Cluster) : State := { s with clusters := AMap.put s.clusters c k }
/-- A die. -/
def State.die (s : State) (d : Nat) : Die := AMap.get s.dies d Die.reset
/-- Replace a die. -/
def State.setDie (s : State) (d : Nat) (k : Die) : State := { s with dies := AMap.put s.dies d k }
/-- A stack. -/
def State.stack (s : State) (n : Nat) : Stack := AMap.get s.hbm n Stack.reset
/-- Replace a stack. -/
def State.setStack (s : State) (n : Nat) (k : Stack) : State := { s with hbm := AMap.put s.hbm n k }
/-- A context. -/
def State.ctx (s : State) (c : Nat) : Context := AMap.get s.ctxs c Context.reset
/-- Replace a context. -/
def State.setCtx (s : State) (c : Nat) (k : Context) : State := { s with ctxs := AMap.put s.ctxs c k }
/-- A port of the switch chiplet. -/
def State.port (s : State) (p : Nat) : Port := AMap.get s.ports p (Port.reset p)
/-- Replace a port. -/
def State.setPort (s : State) (p : Nat) (k : Port) : State := { s with ports := AMap.put s.ports p k }
/-- A lane of a port. -/
def Port.lane (p : Port) (i : Nat) : Lane := p.lanes.getD i Lane.reset
/-- Replace a lane. -/
def Port.setLane (p : Port) (i : Nat) (l : Lane) : Port := { p with lanes := p.lanes.set i l }
/-- A controller kind's images. -/
def State.fwk (s : State) (k : Nat) : FwKind := AMap.get s.fw k FwKind.reset
/-- Whether an image is in HANDOVER or PROBATION (R479). -/
def FwKind.moving (f : FwKind) : Bool := f.st == .handover || f.st == .probation
/-- Replace a controller kind's images. -/
def State.setFw (s : State) (k : Nat) (f : FwKind) : State := { s with fw := AMap.put s.fw k f }
/-- A routing-table entry (R436). -/
def State.routeOf (s : State) (m : Nat) : Nat := AMap.get s.route m routeReset

/-- A kernel. -/
def State.kernel? (s : State) (kid : Nat) : Option Kernel := s.kernels.find? fun k => k.kid == kid
/-- Replace a kernel. -/
def State.setKernel (s : State) (k : Kernel) : State :=
  { s with kernels := s.kernels.map fun j => if j.kid == k.kid then k else j }
/-- A group. -/
def State.group? (s : State) (kid level gid : Nat) : Option Group :=
  s.groups.find? fun g => g.kid == kid && g.level == level && g.gid == gid
/-- Replace a group. -/
def State.setGroup (s : State) (g : Group) : State :=
  { s with groups := s.groups.map fun h => if h.kid == g.kid && h.level == g.level && h.gid == g.gid then g else h }

/-- The number of the task of rank rank of kernel kid. -/
def tidOf (kid rank : Nat) : Nat := kid * 4096 + rank

/-- The core of a task: where it runs or is saved. -/
def Task.core (k : Task) : Nat :=
  match k.place with
  | .none => 0
  | .running c _ => c
  | .saved c _ _ => c

/-- Whether a task runs on a core. -/
def Task.onCore (k : Task) : Bool :=
  match k.place with
  | .running _ _ => true
  | _ => false

/-- Whether a task still holds its core and its capabilities. -/
def Task.alive (k : Task) : Bool := k.exited.isNone

/-- The task that runs on a core. -/
def State.running (s : State) (c : Nat) : Option Nat := (s.core c).run

/-- The cluster of a core (R17). -/
def clusterOf (core : Nat) : Nat := core / 16
/-- The die of a cluster (R17). -/
def dieOf (cluster : Nat) : Nat := cluster / 48

/-- The cluster of a task. -/
def Task.cluster (k : Task) : Nat := clusterOf k.core

/-- Whether a cluster is enabled and not withdrawn (R35, R462). -/
def State.clusterOk (s : State) (c : Nat) : Bool := c < 96 && s.enmap.getLsbD c && !s.wdmap.getLsbD c

/-- Whether the OMU of a cluster is enabled by fuses (R35). -/
def State.omuFused (s : State) (c : Nat) : Bool := c < 96 && s.enmap.getLsbD (96 + c)

/-- The record of comb line n of source src (R452). -/
def State.line (s : State) (src n : Nat) : Telemetry := AMap.get s.comb (16 * src + n) telemetryOff

/-- Whether a comb line gives light: locked and above its threshold (R21, R452). -/
def lineLit (t : Telemetry) : Bool := t.state == 2

/-- Whether the OMU of a cluster is available: fused, not withdrawn, its comb lines lit (R21, R462). -/
def State.omuAvail (s : State) (c : Nat) : Bool :=
  s.omuFused c && !s.wdmap.getLsbD (96 + c) && (List.range 8).all fun n => lineLit (s.line (dieOf c) n)

/-- What a copy of chip time reads: it never decreases (R402). -/
def TimeCopy.read (t : TimeCopy) (now : Nat) : Nat := max ((now : Int) + t.off).toNat t.floor

/-- A cluster's copy of chip time. -/
def State.clusterTime (s : State) (c : Nat) : Nat := (s.cluster c).time.read s.now

/-- CTIME of the current thread's core (R120). -/
def State.ctime (s : State) : Nat := s.clusterTime s.tk.cluster

/-- A thread is live in every state other than EMPTY and EXITED (R126). -/
def Thread.live (t : Thread) : Bool :=
  match t.st with
  | .empty => false
  | .exited => false
  | _ => true

/-- A thread that an instruction can act on: READY, or WAITING and trying to complete. -/
def Thread.canRun (t : Thread) : Bool :=
  match t.st with
  | .ready => true
  | .waiting _ => true
  | _ => false

/-- The slots of a task. -/
def slots : List Nat := List.range 16

/-- Whether some helper of a task is live (R127). -/
def Task.helperLive (k : Task) : Bool := (slots.drop 1).any fun i => (k.thread i).live

/-- Record an outgoing message. -/
def State.send (s : State) (rcpt kind : Nat) (data : List Nat) : State := { s with out := s.out ++ [⟨rcpt, kind, data⟩] }

/-- A timeline of a task. -/
def Task.line (k : Task) (t : Nat) : Timeline := AMap.get k.tl t ⟨0, []⟩

/-- TLt: every number at or below it has retired (R241). -/
def Timeline.value (l : Timeline) : Nat := l.live.foldl (fun v n => min v (n - 1)) l.issued

/-- Give the next number of timeline t of a task (R240). -/
def Task.issueOn (k : Task) (t : Nat) : Task × Nat :=
  let l := k.line t
  ({ k with tl := AMap.put k.tl t ⟨l.issued + 1, l.live ++ [l.issued + 1]⟩ }, l.issued + 1)

/-- Retire number n of timeline t of a task (R241). -/
def State.retire (s : State) (tid t n : Nat) : State :=
  if (AMap.find? s.tasks tid).isNone then s else
  let k := s.task tid
  let l := k.line t
  s.setTask tid { k with tl := AMap.put k.tl t { l with live := l.live.filter fun m => m != n } }

/-- Record an asynchronous fault for a task, after those recorded before (R139, R386, R528). A task that would have more than
32 in its core and 65,536 with the MGC is marked for killing (R386). -/
def State.pendFault (s : State) (tid : Nat) (f : PendFault) : State :=
  if (AMap.find? s.tasks tid).isNone then s else
  let k := s.task tid
  s.setTask tid { k with pend := k.pend ++ [f], killing := k.killing || 65568 ≤ k.pend.length }

end Sys2Proof.Machine
end

