-- ==== Sys2Proof/Machine/Translate.lean ====
section
/-! DEFINITION. The address map (R37, R39), page tables and walks (R391 to R397), leases and the translation cache (R398 to
R404), the host half (R410 to R412), and the checks of an access (R217, R218, R257). -/

namespace Sys2Proof.Machine

/-- The parts of the address map (R37). -/
inductive Region where
  | host
  | nonCanon
  | dev
  | csp
  | hole
  | cm
deriving DecidableEq, Repr

/-- First address of the device half. -/
def devBase : Nat := 0xFF80000000000000
/-- First address of the scratchpad window. -/
def cspBase : Nat := 0xFFFFFFFFFF000000
/-- First address of the hole. -/
def holeBase : Nat := 0xFFFFFFFFFF600000
/-- First address of the core memory window. -/
def cmBase : Nat := 0xFFFFFFFFFFF80000

/-- The part of the map that an address lies in (R37). -/
def regionOf (a : Nat) : Region :=
  if a < 2 ^ 55 then .host
  else if a < devBase then .nonCanon
  else if a < cspBase then .dev
  else if a < holeBase then .csp
  else if a < cmBase then .hole
  else .cm

/-- The end of the part that an address lies in. -/
def regionEnd (a : Nat) : Nat :=
  match regionOf a with
  | .host => 2 ^ 55
  | .nonCanon => devBase
  | .dev => cspBase
  | .csp => holeBase
  | .hole => cmBase
  | .cm => 2 ^ 64

/-- The first non-canonical byte of the n bytes from a, which may wrap past the top (R217 check 2). -/
def firstNonCanon (a n : Nat) : Option Nat :=
  let e := min (a + n) (2 ^ 64)
  if a < devBase && 2 ^ 55 < e then some (max a (2 ^ 55))
  else if 2 ^ 64 + 2 ^ 55 < a + n then some (2 ^ 55)
  else none

/-- Checks 2, 4 and 5 of R217 on a range of n > 0 bytes, with check 3 between them when align is given: the fault code and its
address. -/
def rangeFault (a n : Nat) (align : Option Nat) : Option (Nat × Nat) :=
  match firstNonCanon a n with
  | some b => some (0x14, b)
  | none =>
    if (match align with | some k => a % k != 0 | none => false) then some (0x60, a)
    else if regionEnd a < a + n then some (0x61, regionEnd a % 2 ^ 64)
    else if regionOf a == .hole then some (0x11, a)
    else none

/-- Fields of a page-table entry (R391). -/
def leafPa (e : Word) : Nat := e.toNat / 2 ^ 20 % 2 ^ 42 * 1024
/-- NOALLOC. -/
def leafNoalloc (e : Word) : Bool := e.getLsbD 17
/-- PEER. -/
def leafPeer (e : Word) : Bool := e.getLsbD 16
/-- LEASE class. -/
def leafLease (e : Word) : Nat := e.toNat / 2 ^ 12 % 16
/-- FMT. -/
def leafFmt (e : Word) : Nat := e.toNat / 2 ^ 8 % 16
/-- CONF. -/
def leafConf (e : Word) : Bool := e.getLsbD 7
/-- MIG. -/
def leafMig (e : Word) : Bool := e.getLsbD 6
/-- POI. -/
def leafPoi (e : Word) : Bool := e.getLsbD 5
/-- TOL. -/
def leafTol (e : Word) : Bool := e.getLsbD 4
/-- EXP. -/
def leafExp (e : Word) : Bool := e.getLsbD 3
/-- WRP. -/
def leafWrp (e : Word) : Bool := e.getLsbD 2
/-- RDP. -/
def leafRdp (e : Word) : Bool := e.getLsbD 1
/-- PRES. -/
def leafPres (e : Word) : Bool := e.getLsbD 0

/-- L(c): the lease of a class in ns; class 0 counts as 512 (R398). -/
def leaseNs (c : Nat) : Nat := if c == 0 then 512 else 2 ^ (c + 8)

/-- A node pointer that breaks R392 or R394, or names a physical address that R28 and R396 reserve. -/
def nodeBad (e : Word) (level : Nat) : Bool :=
  (if leafPeer e then leafPa e / 2 ^ 50 != 0 else leafPa e / 2 ^ 40 != 0)
    || e.toNat / 2 ^ 62 != 0 || bits e.toNat 19 17 != 0 || bits e.toNat 15 12 != 0
    || (level == 1 && leafFmt e != 15) || (level == 0 && leafFmt e != 0)
    || bits e.toNat 7 1 != 0 || leafPa e % 65536 != 0

/-- The frame alignment of a format in a page of the given size (R395). -/
def frameAlign (fmt size : Nat) : Nat :=
  if size != 65536 then 2 ^ 29
  else match fmt with
    | 1 => 1024
    | 2 => 1024
    | 3 => 32768
    | 4 => 16384
    | 5 => 16384
    | _ => 65536

/-- A leaf that breaks R394 or R395. -/
def leafBad (e : Word) (size : Nat) (confCtx : Bool) : Bool :=
  let fmt := leafFmt e
  let pa := leafPa e
  let last := pa + size / 65536 * frameBytes fmt - 1
  e.toNat / 2 ^ 62 != 0 || bits e.toNat 19 18 != 0 || leafLease e == 15 || !(fmt ≤ 5 || fmt == 8)
    || pa % frameAlign fmt size != 0
    || (!leafPeer e && (2 ^ 40 ≤ last || (pa < 2 ^ 39 && 2 ^ 39 ≤ last) || (2 ^ 39 ≤ pa && pa / 2 ^ 36 != last / 2 ^ 36)))
    || (leafPeer e && pa / 2 ^ 50 != 0)
    || (leafConf e && !confCtx)

/-- Routing of a peer module (R396, R436): LOCAL, UNREACH. -/
def State.peerLocal (s : State) (m : Nat) : Bool := bitAt (s.routeOf m) 29
/-- The entry of a module is UNREACH. -/
def State.peerUnreach (s : State) (m : Nat) : Bool := bitAt (s.routeOf m) 28 && !bitAt (s.routeOf m) 29

/-- What a walk finds (R393): a leaf with its page size and whether a peer node was used, nothing present, or a hold by a stack
in SELF (R468). -/
inductive Walk where
  | leaf (e : Word) (size : Nat) (peer : Bool)
  | absent
  | hold (stack : Nat)
deriving DecidableEq, Repr

/-- Read a table entry at its home: not readable when its stack is lost or the entry is poisoned, held in SELF. -/
def State.readEntry (s : State) (sp : Space) (a : Nat) : Walk :=
  let st := s.stack (paStack a)
  if sp == .dev && st.lost then .absent
  else if sp == .dev && st.th == .self then .hold (paStack a)
  else
    let b := s.mem.readSp sp a 8
    if b.any PByte.p then .absent else .leaf (BitVec.ofNat 64 (leNat (b.map PByte.b))) 0 false

/-- The space of a node pointer's or leaf's target: the module itself, or a peer (R396). -/
def State.spaceOf (s : State) (e : Word) : Space :=
  if leafPeer e then
    let m := leafPa e / 2 ^ 40 % 1024
    if s.peerLocal m then .dev else .peer m
  else .dev

/-- The address within its space that a node pointer or leaf names. -/
def targetPa (e : Word) : Nat := if leafPeer e then leafPa e % 2 ^ 40 else leafPa e

/-- Whether a node behind a pointer can be read (R396). -/
def State.nodeReachable (s : State) (e : Word) : Bool := !(leafPeer e && s.peerUnreach (leafPa e / 2 ^ 40 % 1024))

/-- Finish a walk at a leaf entry. -/
def finishWalk (e : Word) (size : Nat) (peer conf : Bool) : Walk :=
  if leafBad e size conf || !leafPres e then .absent else .leaf e size peer

/-- Translate a device-half address of a context by its tables (R393, R394). -/
def State.walkDev (s : State) (ctx va : Nat) : Walk :=
  let conf := bitAt (s.ctx ctx).desc.flags 0
  match s.readEntry .dev ((s.ctx ctx).desc.root + 8 * (va / 2 ^ 42 % 8192)) with
  | .leaf e0 _ _ =>
    if nodeBad e0 0 || !leafPres e0 || !s.nodeReachable e0 then .absent
    else
      match s.readEntry (s.spaceOf e0) (targetPa e0 + 8 * (va / 2 ^ 29 % 8192)) with
      | .leaf e1 _ _ =>
        if leafFmt e1 != 15 then finishWalk e1 (2 ^ 29) (leafPeer e0) conf
        else if nodeBad e1 1 || !leafPres e1 || !s.nodeReachable e1 then .absent
        else
          match s.readEntry (s.spaceOf e1) (targetPa e1 + 8 * (va / 2 ^ 16 % 8192)) with
          | .leaf e2 _ _ =>
            if leafFmt e2 == 15 then .absent else finishWalk e2 (2 ^ 16) (leafPeer e0 || leafPeer e1) conf
          | w => w
      | w => w
  | w => w

/-- Whether two byte ranges overlap. -/
def rangesMeet (a n b m : Nat) : Bool := a < b + m && b < a + n

/-- Whether a host address lies in one of a list of extents (R412). -/
def inExtent (xs : List (Nat × Nat)) (va : Nat) : Bool := xs.any fun x => x.1 ≤ va && va < x.1 + x.2

/-- Whether the page of a host address belongs to a released extent: it is not translated, as though it were not present (R412). -/
def State.dcdHides (s : State) (va : Nat) : Bool := s.dcdGone.any fun x => rangesMeet (va / 4096 * 4096) 4096 x.1 x.2

/-- The first byte of a host range that lies in an extent of the host poison list (R412). -/
def State.hostPoisonAt (s : State) (va n : Nat) : Option Nat :=
  ((s.hostPoison.filter fun x => rangesMeet va n x.1 x.2).map fun x => max va x.1).min?

/-- Translate a host-half address by the host's tables (R410, R412); the entry holds the host page in [63:12], WRP, RDP, PRES. -/
def State.walkHost (s : State) (va : Nat) : Walk :=
  let e := AMap.get s.hostMap (va / 4096) 0
  -- Of an entry only the page, WRP, RDP and PRES count: host pages carry read and write permission.
  let e := e &&& ~~~0xFF8
  if inExtent s.hostPoison va then .leaf (e ||| 7) 4096 false
  else if !s.linkUp || s.dcdHides va || !leafPres e then .absent else .leaf e 4096 false

/-- The lease in ns and the skew bound of what a walk found (R398, R403, R410). -/
def State.leaseOf (s : State) (host : Bool) (e : Word) (peer : Bool) : Nat × Nat :=
  if host then (leaseNs s.hlease, 8) else (leaseNs (leafLease e), if leafPeer e || peer then 40 else 8)

/-- Outcome of a translation. -/
inductive Tr where
  | ok (t : Trans)
  | wait (w : Wait)
deriving DecidableEq, Repr

/-- Whether a translation covers an address of a context. -/
def Trans.covers (t : Trans) (ctx va : Nat) : Bool :=
  t.page == va / t.size && (t.host || t.ctx == ctx) && t.host == (va < 2 ^ 55)

/-- Whether the cluster's clock and the home's still accept a translation (R399, R401). -/
def Trans.live (t : Trans) (ct now : Nat) : Bool := ct < t.expiry && now + t.skew < t.expiry

/-- Note the time of a context's latest walk (R407). -/
def State.noteWalk (s : State) (ctx : Nat) : State := s.setCtx ctx { s.ctx ctx with lastWalk := s.now }

/-- Whether translations of a skew bound may be kept: those of peer pages not while the pod bound is UNSYNC (R404). -/
def State.podOk (s : State) (skew : Nat) : Bool := !(skew == 40 && s.podTime.st == .unsync)

/-- Walk for a cluster, and keep the result when R399 and R404 allow; while the walker pool of its die is UNSYNC, it waits. -/
def State.walkFor (s : State) (cl ctx va : Nat) : State × Tr :=
  let host := va < 2 ^ 55
  let ut := (s.cluster cl).time.st == .unsync
  let dt := (s.die (dieOf cl)).time
  if dt.st == .unsync then (s, .wait .walker)
  else
    let w := if host then s.walkHost va else s.walkDev ctx va
    let s := s.noteWalk ctx
    let c := s.cluster cl
    let rest := c.tlb.filter fun t => !t.covers ctx va
    match w with
    | .leaf e size peer =>
      let (l, sk) := s.leaseOf host e peer
      let t : Trans := { ctx := ctx, page := va / size, size := size, leaf := e, host := host,
                         expiry := dt.read s.now + l, skew := sk }
      if !host && leafMig e then (s.setCluster cl { c with tlb := rest }, .wait (.page (BitVec.ofNat 64 va)))
      else
        let keep := !ut && s.podOk sk && (host || (leafLease e != 0 && !leafPoi e))
        let kept := if keep then (rest ++ [t]).drop (rest.length + 1 - 4096) else rest
        (s.setCluster cl { c with tlb := kept }, .ok t)
    | .absent => (s.setCluster cl { c with tlb := rest }, .wait (.page (BitVec.ofNat 64 va)))
    | .hold k => (s, .wait (.stack k))

/-- The kinds of access that a page may permit (R217 check 7, R39). -/
inductive Acc where
  | load
  | store
  | atomic
  | fetch
deriving DecidableEq, Repr

/-- Whether a leaf permits an access (R217 check 7, R410). -/
def permits (e : Word) (k : Acc) : Bool :=
  match k with
  | .load => leafRdp e
  | .store => leafWrp e
  | .atomic => leafRdp e && leafWrp e
  | .fetch => leafExp e

/-- The cached translation of an address, if the cluster may use one (R399, R404). -/
def State.cached (s : State) (cl ctx va : Nat) : Option Trans :=
  if (s.cluster cl).time.st == .unsync then none
  else (s.cluster cl).tlb.find? fun t => t.covers ctx va && t.live (s.clusterTime cl) s.now && s.podOk t.skew

/-- The translation of an address for an access: a cached one that permits it, or a fresh walk (R399, R400). While the walker pool of
its die is UNSYNC, every translated access waits (R404). -/
def State.translate (s : State) (cl ctx va : Nat) (k : Acc) : State × Tr :=
  if (s.die (dieOf cl)).time.st == .unsync then (s, .wait .walker)
  else match s.cached cl ctx va with
  | some t => if permits t.leaf k && !(t.host && s.dcdHides va) then (s, .ok t) else s.walkFor cl ctx va
  | none => s.walkFor cl ctx va

/-- Whether a translation's accesses travel as remote operations, hence are externally visible; so is the host (R396, R457). -/
def State.remoteTr (s : State) (t : Trans) : Bool := !t.host && leafPeer t.leaf && !s.peerLocal (leafPa t.leaf / 2 ^ 40 % 1024)

/-- The space, frame address and format behind a translation. -/
def State.frameOf (s : State) (t : Trans) : Space × Nat × Nat :=
  if t.host then (.host, t.leaf.toNat / 4096 * 4096, 0)
  else (s.spaceOf t.leaf, targetPa t.leaf, leafFmt t.leaf)

/-- A piece of a checked access: n bytes at view address va under a translation, or at a window's key. -/
inductive Piece where
  | page (va n : Nat) (t : Trans)
  | win (va n key : Nat)
deriving DecidableEq, Repr

/-- The outcome of checking an access. -/
inductive Chk where
  | ok (ps : List Piece)
  | wait (w : Wait)
  | fault (code addr : Nat)
deriving DecidableEq, Repr

/-- Check 9 of R217: whether a format refuses an access of n bytes whose first byte lies at va (R107, R221). -/
def formatRefuses (e : Word) (k : Acc) (va n : Nat) : Bool :=
  let f := leafFmt e
  match k with
  | .load => f == 8
  | .fetch => f == 8
  | .atomic => f != 0
  | .store => f == 8 || (isView f && (!leafTol e || n < 4 || va % 4 != 0))

/-- The footprint of a task (R388): bytes at the window's base and at its top. -/
def LaunchRec.footLow (r : LaunchRec) : Nat := (r.cmsize * 1024 + (if r.trap == 0 then 0 else 6144) + 4095) / 4096 * 4096
/-- Bytes of stacks at the window's top, rounded up. -/
def LaunchRec.footHigh (r : LaunchRec) : Nat := ((r.helpers + 1) * 16 * r.stack + 4095) / 4096 * 4096

/-- Whether byte off of the CM window is the hole for a task: its core holds two entries and off is outside its footprint (R388). -/
def State.cmHole (s : State) (tid off : Nat) : Bool :=
  let k := s.task tid
  let c := s.core k.core
  c.ptask.isSome && c.stask.isSome && k.lrec.footLow ≤ off && off < 524288 - k.lrec.footHigh

/-- Whether byte off of the window lies in the footprint of a task. -/
def LaunchRec.inFoot (r : LaunchRec) (off : Nat) : Bool := off < r.footLow || 524288 - r.footHigh ≤ off

/-- The pages of 4 KiB of a footprint. -/
def LaunchRec.footPages (r : LaunchRec) : List Nat :=
  (List.range (r.footLow / 4096)).map (4096 * ·) ++ (List.range (r.footHigh / 4096)).map fun i => 524288 - r.footHigh + 4096 * i

/-- The bytes that a saved task takes before its footprint in FRAME (R385; log entry 108). -/
def frameImage : Nat := 98304

/-- The address in device memory of byte off of a footprint saved to FRAME (R388; log entry 108). -/
def Task.frameAddr (k : Task) (off : Nat) : Nat :=
  k.frame + frameImage + (if off < k.lrec.footLow then off else k.lrec.footLow + (off - (524288 - k.lrec.footHigh)))

/-- The key of byte off of a task's core memory: in its core, or, of the footprint of a task that is swapped, where that is kept (R388). -/
def State.cmOf (s : State) (tid off : Nat) : Nat :=
  let k := s.task tid
  match k.place with
  | .running c _ => cmKey c off
  | .saved c _ fr => if !k.lrec.inFoot off then cmKey c off else if fr then paKey (k.frameAddr off) else asideKey tid off
  | .none => cmKey 0 off

/-- The pieces of n bytes of a task's core memory from byte off of the window at va, page by page; fuel bounds the pages. -/
def State.cmPages (s : State) (tid va off n fuel : Nat) : List Piece :=
  match fuel with
  | 0 => []
  | fuel + 1 =>
    let m := min n (4096 - off % 4096)
    if n == 0 then [] else .win va m (s.cmOf tid off) :: s.cmPages tid (va + m) (off + m) (n - m) fuel

/-- The pieces of n bytes of a task's core memory: one while it is on its core. -/
def State.cmPieces (s : State) (tid va off n : Nat) : List Piece :=
  if (s.task tid).onCore then [.win va n (s.cmOf tid off)] else s.cmPages tid va off n (n / 4096 + 2)

/-- Check 5 in the windows (R218, R257, R388): the first byte refused. -/
def State.windowFault (s : State) (tid cl ctx a n : Nat) : Option Nat :=
  let k := s.task tid
  let lo := max (a - cmBase) k.lrec.footLow
  match regionOf a with
  | .csp =>
      let g := (a - cspBase) / 4096
      (List.range ((a - cspBase + n + 4095) / 4096 - g)).findSome? fun j =>
        if AMap.get (s.cluster cl).granule (g + j) 0 == ctx + 1 then none else some (max a (cspBase + 4096 * (g + j)))
  | .cm => if lo < a - cmBase + n && s.cmHole tid lo then some (cmBase + lo) else none
  | _ => none

/-- Checks 2, 4 and 5 of R217 on a range of n bytes that the thread names: none when it is empty. -/
def State.spanFault (s : State) (a n : Nat) : Option (Nat × Nat) :=
  if n == 0 then none
  else rangeFault a n none <|> (s.windowFault s.cur.1 s.tk.cluster s.tk.ctx a n).map fun b => (0x11, b)

/-- Split a translated range at the end of the page that its first byte lies in, at most n pages. -/
def State.pagesOf (s : State) (cl ctx : Nat) (k : Acc) (a n fuel : Nat) : State × (Option Wait) × List Piece :=
  match fuel with
  | 0 => (s, none, [])
  | fuel + 1 =>
    if n == 0 then (s, none, [])
    else
      match s.translate cl ctx a k with
      | (s, .wait w) => (s, some w, [])
      | (s, .ok t) =>
        let m := min n (t.size - a % t.size)
        match s.pagesOf cl ctx k (a + m) (n - m) fuel with
        | (s, w, ps) => (s, w, .page a m t :: ps)

/-- The first piece that fails a check, with the code. -/
def firstBad (ps : List Piece) (f : Nat → Nat → Trans → Option Nat) : Option (Nat × Nat) :=
  ps.findSome? fun p => match p with
    | .page va n t => (f va n t).map fun c => (c, va)
    | .win _ _ _ => none

/-- Checks 7 to 11 of R217 over pieces of an access of elem bytes at first, in order; and containment of the host link (R465). -/
def State.checksFrom (s : State) (first : Nat) (k : Acc) (elem : Nat) (dataPois : Bool) (ps : List Piece) : Option (Nat × Nat) :=
  (firstBad ps fun _ _ t => if t.host && s.contained then some 0x53 else none)
  <|> (firstBad ps fun _ _ t => if permits t.leaf k then none else some 0x11)
  <|> (ps.findSome? fun p => match p with
        | .page va n t => (if t.host then s.hostPoisonAt va n else if leafPoi t.leaf then some va else none).map fun a => (0x51, a)
        | .win _ _ _ => none)
  <|> (firstBad ps fun _ _ t => if !t.host && formatRefuses t.leaf k first elem then some 0x13 else none)
  <|> (firstBad ps fun _ _ t =>
        if !t.host && leafPeer t.leaf && s.peerUnreach (leafPa t.leaf / 2 ^ 40 % 1024) then some 0x40 else none)
  <|> (firstBad ps fun _ _ t =>
        if (k == .store || k == .atomic) && dataPois && (t.host || s.remoteTr t) then some 0x51 else none)

/-- The address of a piece's first byte. -/
def Piece.va (p : Piece) : Nat := match p with | .page va _ _ => va | .win va _ _ => va

/-- Checks 7 to 11 of R217 over all the pieces of an access, in ascending address order. -/
def State.laterChecks (s : State) (k : Acc) (elem : Nat) (dataPois : Bool) (ps : List Piece) : Option (Nat × Nat) :=
  s.checksFrom ((ps.head?.map Piece.va).getD 0) k elem dataPois ps

/-- Check an access of n > 0 bytes at a by a task (R217, checks 2 to 11). -/
def State.check (s : State) (tid a n : Nat) (k : Acc) (dataPois : Bool) : State × Chk :=
  let cl := (s.task tid).cluster
  let ctx := (s.task tid).ctx
  match rangeFault a n (if k == .atomic then some n else none) with
  | some (c, b) => (s, .fault c b)
  | none =>
    match regionOf a with
    | .csp =>
      match s.windowFault tid cl ctx a n with
      | some b => (s, .fault 0x11 b)
      | none => (s, .ok [.win a n (cspKey cl (a - cspBase))])
    | .cm =>
      match s.windowFault tid cl ctx a n with
      | some b => (s, .fault 0x11 b)
      | none => (s, .ok (s.cmPieces tid a (a - cmBase) n))
    | r =>
      -- In containment no access to the host waits for a translation (R465).
      if r == .host && s.contained then (s, .fault 0x53 a)
      else match s.pagesOf cl ctx k a n 20 with
      | (s, some w, _) => (s, .wait w)
      | (s, none, ps) =>
        match s.laterChecks k n dataPois ps with
        | some (c, b) => (s, .fault c b)
        | none => (s, .ok ps)

end Sys2Proof.Machine
end

