-- ==== Sys2Proof/Machine/Access.lean ====
section
/-! DEFINITION. Accesses at their homes (R258): loads over write-through buffers and data caches (R222, R261), buffered
stores and their performance (R223, R259, R401, R527), atomics (R228), access counters (R413), and the requests of remote
operations (R439). -/

namespace Sys2Proof.Machine

/-- The storage behind n view bytes at offset off of a page: offset from the frame, and length (R104, R395). -/
def storeRange (fmt off n : Nat) : Nat × Nat :=
  match fmt with
  | 1 => (off / 128 * 34, ((off + n - 1) / 128 + 1 - off / 128) * 34)
  | 2 => (off / 128 * 18, ((off + n - 1) / 128 + 1 - off / 128) * 18)
  | 3 => (off / 4 * 2, ((off + n - 1) / 4 + 1 - off / 4) * 2)
  | 4 => (off / 4, (off + n - 1) / 4 + 1 - off / 4)
  | 5 => (off / 4, (off + n - 1) / 4 + 1 - off / 4)
  | _ => (off, n)

/-- The stacks that hold n bytes of device memory from pa (R28). -/
def stacksOf (pa n : Nat) : List Nat :=
  (List.range (n / 4096 + 2)).map fun i => paStack (min (pa + 4096 * i) (pa + n - 1))

/-- The die beside which a physical address has its home (R24). -/
def paDie (pa : Nat) : Nat := paStack pa / 4

/-- What an access meets at its home (R401, R468, R470, R439). -/
inductive Home where
  | ready
  | refused
  | lost
  | self (stack : Nat)
  | remote (m pa n : Nat)
deriving DecidableEq, Repr

/-- The home's answer to an access of n view bytes at va under a translation. -/
def State.home (s : State) (t : Trans) (va n : Nat) : Home :=
  if t.expiry ≤ s.now + t.skew then .refused
  else if t.host then
    -- An extent that was released is translated no longer (R412).
    if s.dcdHides va || (s.hostPoisonAt va n).isSome then .refused else .ready
  else
    let (sp, fr, fmt) := s.frameOf t
    let (lo, len) := storeRange fmt (va % t.size) n
    match sp with
    | .peer m => .remote m (fr + lo) len
    | _ =>
      let ks := stacksOf (fr + lo) len
      match ks.find? (fun k => (s.stack k).th == .self && !(s.stack k).lost) with
      | some k => .self k
      | none => if ks.any (fun k => (s.stack k).lost) then .lost else .ready

/-- View bytes read at their home; storage of a lost stack reads poisoned (R470). -/
def State.homeBytes (s : State) (t : Trans) (va n : Nat) : List PByte :=
  let (sp, fr, fmt) := s.frameOf t
  let bs := s.mem.viewRead sp fr fmt (va % t.size) n
  if sp != .dev then bs
  else (List.range n).map fun i =>
    let (lo, len) := storeRange fmt (va % t.size + i) 1
    if (stacksOf (fr + lo) len).any (fun k => (s.stack k).lost) then ⟨Config.lostByte s.now (fr + lo), true⟩
    else bs.getD i default

/-- The physical lines that n bytes of device memory from pa touch, as keys of storage divided by 128. -/
def linesOf (pa n : Nat) : List Nat :=
  (List.range ((pa + n - 1) / 128 + 1 - pa / 128)).map fun i => paKey (max pa ((pa / 128 + i) * 128)) / 128

/-- Count accesses of a line in a block's page access counters (R413). -/
def bumpCount (e : Nat × Nat) (write : Bool) (n : Nat) : Nat × Nat :=
  if write then (e.1, min (e.2 + n) (2 ^ 32 - 1)) else (min (e.1 + n) (2 ^ 32 - 1), e.2)

/-- Count an access of device memory: one for each line, in the block of PA[51:16] (R413), when counting is enabled (R414). -/
def State.countAccess (s : State) (ctx pa n : Nat) (write : Bool) : State :=
  if n == 0 || !(s.ctx ctx).pgen then s
  else
    let ls := (List.range ((pa + n - 1) / 128 + 1 - pa / 128)).map fun i => (pa / 128 + i) * 128 / 65536
    { s with pgc := ls.foldl (fun m b => AMap.put m b (bumpCount (AMap.get m b (0, 0)) write 1)) s.pgc }

/-- Count an access under a translation, when it is of package-local memory. -/
def State.countVia (s : State) (t : Trans) (va n : Nat) (write : Bool) : State :=
  let (sp, fr, fmt) := s.frameOf t
  match sp with
  | .dev =>
    let (lo, len) := storeRange fmt (va % t.size) n
    s.countAccess t.ctx (fr + lo) len write
  | _ => s

/-- Whether an object is active: STATE non-zero or a range non-empty (R229). -/
def State.objActive (s : State) (o : SyncObj) : Bool :=
  [0, 0x18, 0x28, 0x38].any fun f => leNat ((s.mem.read (o.key + f) 8).map PByte.b) != 0

/-- Whether some line of storage holds a synchronisation object: plain loads read it as it stands at the home (R229). -/
def State.objLine (s : State) (ls : List Nat) : Bool := s.objs.any fun o => ls.contains (o.key / 128)

/-- Whether some line of storage holds an active object (R230). -/
def State.lineActive (s : State) (ls : List Nat) : Bool :=
  s.objs.any fun o => ls.contains (o.key / 128) && s.objActive o

/-- The storage lines behind view bytes under a translation; none outside this module. -/
def State.storageLines (s : State) (t : Trans) (va n : Nat) : List Nat :=
  let (sp, fr, fmt) := s.frameOf t
  match sp with
  | .dev =>
    let (lo, len) := storeRange fmt (va % t.size) n
    linesOf (fr + lo) len
  | _ => []

/-- The places of storage behind n view bytes under a translation, as keys. -/
def State.placeOf (s : State) (t : Trans) (va n : Nat) : List Nat :=
  let (sp, fr, fmt) := s.frameOf t
  let (lo, len) := storeRange fmt (va % t.size) n
  (List.range len).map fun i => sp.key (fr + lo + i)

/-- What identifies a view byte in memory: its storage byte on a RAW page; its 64 KiB of view, the format and the offset on a
view page. -/
def State.byteId (s : State) (t : Trans) (a : Nat) : Nat × Nat × Nat :=
  let (sp, fr, fmt) := s.frameOf t
  let o := a % t.size
  if isView fmt then (sp.key (unitBase fr fmt o), fmt, o % 65536) else (sp.key (fr + o), 0, 0)

/-- Whether the home of a part that is not sent refuses its translation: the part walks again, and may then lie in another frame (R401,
R408). -/
def State.stalePart (s : State) (q : StorePart) : Bool := q.sent.isNone && decide (s.home q.tr q.va q.bytes.length = Home.refused)

/-- Whether n view bytes at va under a translation overlap a part of a buffered store: at the same addresses, or in the same
storage through another page, which a part that must walk again may do. -/
def State.meetsPart (s : State) (t : Trans) (va n : Nat) (q : StorePart) : Bool :=
  rangesMeet va n q.va q.bytes.length || s.stalePart q || (s.placeOf q.tr q.va q.bytes.length).any (s.placeOf t va n).contains

/-- The home drops the read-only replicas of written lines (R226). -/
def State.dropReplicas (s : State) (ls : List Nat) : State :=
  { s with replicas := s.replicas.filter fun r => !ls.contains r.2 }

/-- The lines of host memory that a store to the host half makes Modified are held with what host memory has of them (R412). -/
def State.ownHost (s : State) (va key n : Nat) : State :=
  let new := ((List.range ((va % 64 + n + 63) / 64)).map fun i => (va / 64 * 64 + 64 * i, key / 64 * 64 + 64 * i)).filter fun l =>
    !s.hostMod.any fun h => h.key == l.2
  { s with hostMod := s.hostMod ++ new.map fun l => ⟨l.1, l.2, s.mem.read l.2 64⟩ }

/-- Write view bytes at their home, whole words on a view page: memory, counters, replicas. In containment no host-half data is
written (R464). -/
def State.homeWrite (s : State) (t : Trans) (va : Nat) (bs : List PByte) : State :=
  if t.host && s.contained then s else
  let (sp, fr, fmt) := s.frameOf t
  let s := (s.countVia t va bs.length true).dropReplicas (s.storageLines t va bs.length)
  let s := if t.host then s.ownHost va (sp.key (fr + va % t.size)) bs.length else s
  { s with mem := s.mem.viewWrite sp fr fmt (va % t.size) bs }

/-- The core of a task. -/
def State.coreOf (s : State) (tid : Nat) : Nat := (s.task tid).core

/-- Whether a data-cache or instruction-cache line may still be used: its lease, the cluster's copy of chip time and, for a line of a
page with a peer node, the pod bound (R222, R404). -/
def State.lineLive (s : State) (cl : Nat) (l : CLine) : Bool :=
  (s.cluster cl).time.st != .unsync && s.clusterTime cl < l.expiry && s.podOk l.skew

/-- The valid data-cache line of a core for a virtual line number. -/
def State.cacheLine (s : State) (core ctx ln : Nat) : Option CLine :=
  (s.core core).dcache.find? fun l => l.ctx == ctx && l.va == ln && s.lineLive (clusterOf core) l

/-- Drop the data-cache lines of a core for which f holds (R262). -/
def State.dropLines (s : State) (core : Nat) (f : CLine → Bool) : State :=
  let c := s.core core
  s.setCore core { c with dcache := c.dcache.filter fun l => !f l }

/-- Put a line into a data cache: 4 ways of 128 sets (R222); the oldest line of a full set goes (log entry 14). -/
def putLine (ls : List CLine) (l : CLine) : List CLine :=
  let rest := ls.filter fun m => !(m.ctx == l.ctx && m.va == l.va)
  let set := rest.filter fun m => m.va % 128 == l.va % 128
  if set.length < 4 then rest ++ [l]
  else
    match set.head? with
    | some o => rest.filter (fun m => !(m.ctx == o.ctx && m.va == o.va)) ++ [l]
    | none => rest ++ [l]

/-- Replace bytes of a line from offset o; each granule's poison becomes what R455 gives the same write of storage. -/
def patchBytes (bs : List PByte) (o : Nat) (new : List PByte) : List PByte :=
  (List.range bs.length).map fun i =>
    let g := i / 8 * 8
    let hit (j : Nat) : Bool := o ≤ j && j < o + new.length
    let js := (List.range 8).map fun j => g + j
    let b := if hit i then new.getD (i - o) default else bs.getD i default
    if js.any hit then
      let data := js.any fun j => hit j && (new.getD (j - o) default).p
      ⟨b.b, data || (!js.all hit && js.any fun j => (bs.getD j default).p)⟩
    else b

/-- Whether a data-cache line holds some of the given storage lines under another virtual address than those of the n bytes at va. -/
def CLine.alias (l : CLine) (ctx va n : Nat) (place : List Nat) : Bool :=
  !(l.ctx == ctx && va / 128 ≤ l.va && l.va ≤ (va + n - 1) / 128) && l.place.any place.contains

/-- A performed store of a core updates its lines that are present (R222); a line of a view page, and one that holds the stored bytes under
another page, is dropped instead, which R262 allows. -/
def State.updateLines (s : State) (core ctx va : Nat) (t : Trans) (bs : List PByte) : State :=
  let place := s.storageLines t va bs.length
  let s := s.dropLines core fun l => l.alias ctx va bs.length place
  let c := s.core core
  let hit (l : CLine) : Bool := l.ctx == ctx && va / 128 ≤ l.va && l.va ≤ (va + bs.length - 1) / 128
  if t.host || isView (leafFmt t.leaf) then s.dropLines core hit
  else
    let patch (l : CLine) : CLine :=
      let lo := max va (l.va * 128)
      let n := min (va + bs.length) (l.va * 128 + 128) - lo
      { l with bytes := patchBytes l.bytes (lo - l.va * 128) ((bs.drop (lo - va)).take n) }
    s.setCore core { c with dcache := c.dcache.map (fun l => if hit l then patch l else l) }

/-- An access joins those that a stack in SELF holds, in arrival order, with the move that carries it out (R468). -/
def State.holdAt (s : State) (k : Nat) (m : Move) : State :=
  let st := s.stack k
  if st.held.contains m then s else s.setStack k { st with held := st.held ++ [m] }

/-- A wait for a stack in SELF, of an access or of a walk for it, is held there. -/
def State.holdWait (s : State) (w : Wait) (m : Move) : State :=
  match w with
  | .stack k => s.holdAt k m
  | _ => s

/-! ## Remote operations -/

/-- Whether a circuit change holds new packets to a module, until its final table is installed: one candidate port takes part in it, and no
other is up (R442, R449). -/
def State.routeHeld (s : State) (m : Nat) : Bool :=
  let e := s.routeOf m
  let ps := [bits e 6 0, bits e 13 7, bits e 20 14, bits e 27 21].filter fun p => p < 96
  !(ps.any fun p => ((s.port p).st == .up || (s.port p).st == .degraded) && !(s.port p).planned) && ps.any fun p => (s.port p).planned

/-- Queue a packet at the switch chiplet where it enters: VC 0 for requests, 4 for responses (R435). -/
def State.sendPacket (s : State) (p : Packet) : State :=
  { s with vqueue := s.vqueue ++ [⟨0, if 3 ≤ p.kind && p.kind ≤ 5 then 4 else 0, none, p⟩] }

/-- Send the request of a remote operation: the next OPSEQ of its target (R439), or hold it during a circuit change. -/
def State.sendRemote (s : State) (m : Nat) (who : RemoteFor) (p : Packet) : State :=
  let n := AMap.get s.opseqs m 0
  let p := { p with dst := m, src := s.self, opseq := n }
  let held := s.routeHeld m
  let s := { s with opseqs := AMap.put s.opseqs m ((n + 1) % 2 ^ 32),
                    remotes := s.remotes ++ [⟨m, n, who, p, s.now, s.now, held⟩] }
  if held then s else s.sendPacket p

/-- A request packet: kind, context, DIRECT, address, expiry, length and data (R427). -/
def requestPacket (kind ctx : Nat) (t : Trans) (pa len : Nat) (data : List Byte) : Packet :=
  { (default : Packet) with
    kind := kind, ctx := ctx, direct := leafNoalloc t.leaf, addr := pa, expiry := t.expiry, len := len, data := data }

/-- One poison bit for each 8 bytes of data (R427). -/
def poisonMask (bs : List PByte) : List Bool := (List.range ((bs.length + 7) / 8)).map fun i => ((bs.drop (8 * i)).take 8).any PByte.p

/-- A packet with data and, when some byte is poisoned, its mask. -/
def carry (p : Packet) (bs : List PByte) : Packet :=
  { p with len := bs.length, data := bs.map PByte.b, poison := bs.any PByte.p, mask := if bs.any PByte.p then poisonMask bs else [] }

/-- The data of a packet with the poison of its mask. -/
def carried (p : Packet) : List PByte :=
  (List.range p.data.length).map fun i => ⟨p.data.getD i 0, p.poison && p.mask.getD (i / 8) false⟩

/-- Decode view bytes from the storage bytes of a remote answer. -/
def viewFrom (fmt off n : Nat) (lo : Nat) (bs : List PByte) : List PByte :=
  ((({ cells := [], pois := [] } : Memory).writeSp (.peer 0) lo bs (bs.length / 4096 + 2)).viewRead (.peer 0) 0 fmt off n)

/-- Storage bytes after a view store, from the storage bytes before it (R109). -/
def viewInto (fmt off : Nat) (new : List PByte) (lo : Nat) (bs : List PByte) : List PByte :=
  let m := ({ cells := [], pois := [] } : Memory).writeSp (.peer 0) lo bs (bs.length / 4096 + 2)
  (m.viewWrite (.peer 0) 0 fmt off new).readSp (.peer 0) lo bs.length

/-- The words of a store to a dual-exponent page of another module, 8 bytes for each: its index in the 64 KiB of view, and its
value (log entry 17). -/
def repackData (ws : List (Nat × Nat × Bool)) : List PByte :=
  ws.flatMap fun w => (leBytes 4 w.1 ++ leBytes 4 w.2.1).map fun b => ⟨b, w.2.2⟩

/-- The words that such a packet names; fuel bounds them. -/
def repackWords (fuel : Nat) (bs : List PByte) : List (Nat × Nat × Bool) :=
  match fuel, bs with
  | 0, _ => []
  | _, [] => []
  | fuel + 1, bs =>
    let r := bs.take 8
    (leNat ((r.take 4).map PByte.b), leNat ((r.drop 4).map PByte.b), r.any PByte.p) :: repackWords fuel (bs.drop 8)

/-- Whether a remote operation for a requester is outstanding. -/
def State.outstanding (s : State) (w : RemoteFor) : Bool := s.remotes.any fun r => decide (r.who = w)

/-! ## Loads -/

/-- What an access gives: bytes, a wait, or a fault. -/
inductive Got where
  | bytes (bs : List PByte)
  | wait (w : Wait)
  | fault (code addr : Nat)
deriving DecidableEq, Repr

/-- Later in age: the younger of two buffered bytes. -/
def younger (a b : Option (Nat × PByte)) : Option (Nat × PByte) :=
  match a, b with
  | none, b => b
  | a, none => a
  | some a, some b => if a.1 ≤ b.1 then some b else some a

/-- Whether view byte a under one translation and view byte b under another are the same byte of memory: one address of the task's
context, or two addresses of one byte of a frame under one format. -/
def State.sameByte (s : State) (t : Trans) (a : Nat) (u : Trans) (b : Nat) : Bool := a == b || s.byteId t a == s.byteId u b

/-- The byte that a buffered store gives byte a under a translation, the last of its parts deciding. -/
def State.storeByte (s : State) (e : BufStore) (t : Trans) (a : Nat) : Option (Nat × PByte) :=
  e.parts.foldl (fun r p =>
    match (List.range p.bytes.length).find? (fun i => s.sameByte p.tr (p.va + i) t a) with
    | some i => some (e.age, p.bytes.getD i default)
    | none => r) none

/-- The youngest byte that any write-through buffer of a task's core holds for byte a under a translation (R223, R261). -/
def State.buffered (s : State) (k : Task) (t : Trans) (a : Nat) : Option PByte :=
  (k.threads.foldl (fun (r : Option (Nat × PByte)) h => h.2.wbuf.foldl (fun r e => younger r (s.storeByte e t a)) r)
    none).map Prod.snd

/-- Lay buffered bytes over bytes read. -/
def overlay (o : List (Option PByte)) (bs : List PByte) : List PByte :=
  List.zipWith (fun a b => a.getD b) o bs

/-- The response that a thread holds under a tag. -/
def Thread.gotAt (t : Thread) (tag : Nat) : Option (List PByte) := (t.got.find? fun g => g.1 == tag).map Prod.snd

/-- The tag under which a thread holds a remote answer to a fetch. -/
def fetchTag (va : Nat) : Nat := 2 ^ 64 + va

/-- Whether a tag is that of a fetch. -/
def isFetchTag (tag : Nat) : Bool := 2 ^ 64 ≤ tag && tag < 2 ^ 65

/-- The tag of the remote load of n bytes at va. -/
def loadTag (va n : Nat) : Nat := n * 2 ^ 66 + va

/-- The tag under which a waiting thread keeps what the buffers of its core held for byte a when it sent the remote load of n bytes at va. -/
def overTag (va n a : Nat) : Nat := 2 ^ 200 + loadTag va n * 2 ^ 64 + a

/-- Keep what the buffers hold for the bytes of a range with the request of a remote load: the load stands in its core's order where its
request is sent, behind the stores issued before it and ahead of later ones (R261, R264). -/
def State.keepOver (s : State) (tid slot va n : Nat) (t : Trans) : State :=
  let k := s.task tid
  let h := k.thread slot
  let o := (List.range n).map fun i => (overTag va n (va + i), (s.buffered k t (va + i)).toList)
  s.setThread tid slot { h with got := h.got ++ o }

/-- The byte that buffers held for byte a when its remote load of n bytes at va was sent; where none was sent, what they hold now. -/
def State.overAt (s : State) (tid slot va n : Nat) (t : Trans) (a : Nat) : Option PByte :=
  match (s.thread tid slot).gotAt (overTag va n a) with
  | some bs => bs.head?
  | none => s.buffered (s.task tid) t a

/-- Whether a remote load of a task's core that is on its way reads some of n bytes at pa of module m: the core's later stores there stay
behind it (R264). -/
def State.loadAhead (s : State) (tid m pa n : Nat) : Bool :=
  s.remotes.any fun r => r.target == m && rangesMeet pa n r.pkt.addr r.pkt.len && (match r.who with
    | .load t _ tag => t == tid && !isFetchTag tag
    | _ => false)

/-- Read a piece of a page at its home without a data cache: the host half, peers, direct lines, clusters in UNSYNC. -/
def State.loadHome (s : State) (tid slot va n : Nat) (t : Trans) : State × Got :=
  match s.home t va n with
  | .refused => (s, .wait .walker)
  | .self k => (s, .wait (.stack k))
  | .remote m pa len =>
    match (s.thread tid slot).gotAt (loadTag va n) with
    | some bs => (s, .bytes (viewFrom (leafFmt t.leaf) (va % t.size) n (storeRange (leafFmt t.leaf) (va % t.size) n).1 bs))
    | none =>
      let w := RemoteFor.load tid slot (loadTag va n)
      if s.outstanding w then (s, .wait .remote)
      else ((s.keepOver tid slot va n t).sendRemote m w (requestPacket 0 (s.task tid).ctx t pa len []), .wait .remote)
  | _ => (s.countVia t va n false, .bytes (s.homeBytes t va n))

/-- Read one line's share of a piece through the data cache, filling it on a miss (R222, R261). -/
def State.loadLine (s : State) (tid slot va n : Nat) (t : Trans) : State × Got :=
  let core := s.coreOf tid
  let ctx := (s.task tid).ctx
  let ln := va / 128
  if s.objLine (s.storageLines t va n) then s.loadHome tid slot va n t
  else match s.cacheLine core ctx ln with
  | some l => (s, .bytes ((l.bytes.drop (va % 128)).take n))
  | none =>
    match s.home t (ln * 128) 128 with
    | .refused => (s, .wait .walker)
    | .self k => (s, .wait (.stack k))
    | _ =>
      let bs := s.homeBytes t (ln * 128) 128
      let l : CLine := { ctx := ctx, va := ln, bytes := bs, expiry := t.expiry, skew := t.skew, place := s.storageLines t (ln * 128) 128 }
      let s := s.countVia t (ln * 128) 128 false
      let c := s.core core
      (s.setCore core { c with dcache := putLine c.dcache l },
        .bytes ((bs.drop (va % 128)).take n))

/-- Read a piece line by line; fuel bounds the lines. -/
def State.loadLines (s : State) (tid slot va n : Nat) (t : Trans) (fuel : Nat) : State × Got :=
  match fuel with
  | 0 => (s, .bytes [])
  | fuel + 1 =>
    if n == 0 then (s, .bytes [])
    else
      let m := min n (128 - va % 128)
      match s.loadLine tid slot va m t with
      | (s, .bytes bs) =>
        match s.loadLines tid slot (va + m) (n - m) t fuel with
        | (s, .bytes cs) => (s, .bytes (bs ++ cs))
        | r => r
      | r => r

/-- Whether a translation's lines may be in a data cache of a cluster (R222, R225, R404). -/
def State.cacheable (s : State) (cl : Nat) (t : Trans) : Bool :=
  !t.host && !leafPeer t.leaf && !leafNoalloc t.leaf && (s.cluster cl).time.st != .unsync && s.podOk t.skew

/-- Whether a scratchpad byte lies in a block of a broken group whose granules stay allocated (R341). -/
def State.cspBroken (s : State) (cl off : Nat) : Bool :=
  (s.cluster cl).broken.any fun b => b.base * 4096 ≤ off && off < b.base * 4096 + 2 ^ b.log

/-- Whether a window key lies in such a block. -/
def State.keyBroken (s : State) (key : Nat) : Bool :=
  let i := key / 2 ^ 64
  8000 ≤ i && i < 8096 && s.cspBroken (i - 8000) (key % 2 ^ 64)

/-- Read n bytes at a window's key: slots of broken groups read poisoned (R341). -/
def State.readWin (s : State) (key n : Nat) : List PByte :=
  (List.range n).map fun i => let b := s.mem.pbyte (key + i); ⟨b.b, b.p || s.keyBroken (key + i)⟩

/-- Write bytes into a window at once (R223); stores to slots of broken groups are discarded (R341). -/
def State.writeWin (s : State) (key : Nat) (bs : List PByte) : State :=
  if s.keyBroken key then s else { s with mem := s.mem.write key bs }

/-- Write bytes into pieces of windows. -/
def State.writeWins (s : State) (ps : List Piece) (bs : List PByte) : State :=
  match ps with
  | .win _ n key :: ps => (s.writeWin key (bs.take n)).writeWins ps (bs.drop n)
  | _ => s

/-! ## Stores -/

/-- Put the checked pieces of a store in place: windows at once, pages as parts of a buffer entry. -/
def storePieces (s : State) (first : Nat) (ps : List Piece) (bs : List PByte) : State × List StorePart :=
  match ps with
  | [] => (s, [])
  | .win _ n key :: ps =>
    let r := storePieces (s.writeWin key (bs.take n)) first ps (bs.drop n)
    r
  | .page va n t :: ps =>
    let r := storePieces s first ps (bs.drop n)
    (r.1, ⟨first, va, bs.take n, t, none⟩ :: r.2)

/-- Issue the elements of a store whose checks have passed: address, pieces, bytes. A full buffer makes the thread wait (R223). -/
def State.storeChecked (s : State) (tid slot : Nat) (es : List (Nat × List Piece × List PByte)) : State × Got :=
  let t := s.thread tid slot
  let paged := es.any fun e => e.2.1.any fun p => match p with | .page _ _ _ => true | .win _ _ _ => false
  if paged && 16 ≤ t.wbuf.length then (s, .wait .buffer)
  else
    let r := es.foldl (fun (a : State × List StorePart) e =>
      let q := storePieces a.1 e.1 e.2.1 e.2.2
      (q.1, a.2 ++ q.2)) (s, [])
    let s := r.1
    if r.2.isEmpty then (s, .bytes [])
    else
      let k := s.task tid
      let t := k.thread slot
      let k := { k with age := k.age + 1 }
      (s.setTask tid (k.setThread slot { t with wbuf := t.wbuf ++ [⟨k.age, r.2⟩] }), .bytes [])

/-- Check and store bytes at a (R217, R220). -/
def State.store (s : State) (tid slot a : Nat) (bs : List PByte) : State × Got :=
  match s.check tid a bs.length .store (bs.any PByte.p) with
  | (s, .fault c b) => (s, .fault c b)
  | (s, .wait w) => (s, .wait w)
  | (s, .ok ps) => s.storeChecked tid slot [(a, ps, bs)]

/-- What becomes of a part of a buffered store that goes to its home: it leaves the buffer, it is a view part to be performed with
the others of its block, or it stays. -/
inductive Perf where
  | gone (s : State)
  | view (s : State)
  | stays (s : State) (p : StorePart)

/-- The asynchronous fault of a store (R528): counter 2 for 0x40, 0x41 and 0x53, none otherwise. -/
def storeFault (slot code kind addr : Nat) : PendFault :=
  let on2 := code == 0x41 || code == 0x40 || code == 0x53
  { slot := slot, ctr := if on2 then 2 else 4, seq := 0, code := code, kind := kind, addr := addr,
    info1 := if on2 then 2 ^ 63 else 0, info2 := 0 }

/-- A part of a buffered store that its home refused walks again, and checks 6 to 11 are made again (R401, R527): the part under its
fresh translation, cut in two where the fresh page ends within it; none when the store has failed. fuel bounds the cuts. -/
def State.renewPart (s : State) (tid slot age : Nat) (p : StorePart) (fuel : Nat) : State × Option (List StorePart) :=
  match fuel with
  | 0 => (s, some [p])
  | fuel + 1 =>
    let k := s.task tid
    match s.walkFor k.cluster k.ctx p.va with
    | (s, .wait w) => (s.holdWait w (.perform tid slot age), some [p])
    | (s, .ok t) =>
      let n := p.bytes.length
      let m := min n (t.size - p.va % t.size)
      match s.checksFrom p.first .store n (p.bytes.any PByte.p) [.page p.va m t] with
      | some (c, _) => (s.pendFault tid (storeFault slot c 1 p.first), none)
      | none =>
        let q := { p with bytes := p.bytes.take m, tr := t }
        if m < n then
          match s.renewPart tid slot age { p with va := p.va + m, bytes := p.bytes.drop m } fuel with
          | (s, some qs) => (s, some (q :: qs))
          | r => r
        else (s, some [q])

/-- Send one part of a buffered store under its translation, which its home may refuse, hold or lose (R230, R439, R465, R468, R470). -/
def State.sendPart (s : State) (tid slot age : Nat) (p : StorePart) : Perf :=
  let k := s.task tid
  if p.sent.isSome then .stays s p
  -- In containment a store to the host half is not performed any more (R465).
  else if p.tr.host && s.contained then .gone (s.pendFault tid (storeFault slot 0x53 1 p.first))
  else
  match s.home p.tr p.va p.bytes.length with
  | .refused => .stays s p
  | .lost => .gone (s.pendFault tid (storeFault slot 0x53 1 p.first))
  | .self st => .stays (s.holdAt st (.perform tid slot age)) p
  | .remote m pa len =>
    let n := AMap.get s.opseqs m 0
    let fmt := leafFmt p.tr.leaf
    if s.loadAhead tid m pa len then .stays s p
    else if fmt == 1 || fmt == 2 then .view s
    else
      let w := RemoteFor.store tid slot age p.va
      let q := { p with sent := some (m, n) }
      let off := p.va % p.tr.size
      let data := viewInto fmt off p.bytes (storeRange fmt off p.bytes.length).1 (List.replicate len default)
      .stays (s.sendRemote m w (carry (requestPacket 1 k.ctx p.tr pa len []) data)) q
  | .ready =>
    if s.lineActive (s.storageLines p.tr p.va p.bytes.length) then .gone (s.pendFault tid (storeFault slot 0x64 1 p.first))
    else if !p.tr.host && isView (leafFmt p.tr.leaf) then .view s
    else .gone ((s.homeWrite p.tr p.va p.bytes).updateLines k.core k.ctx p.va p.tr p.bytes)

/-- Whether a part overlaps one of some earlier parts. -/
def State.meetsAny (s : State) (p : StorePart) (ps : List StorePart) : Bool := ps.any (s.meetsPart p.tr p.va p.bytes.length)

/-- Whether two parts lie in one 64 KiB of view of a page under one format. -/
def State.sameUnit (s : State) (p q : StorePart) : Bool :=
  let (sp, fr, fmt) := s.frameOf p.tr
  let (sp', fr', fmt') := s.frameOf q.tr
  decide (sp' = sp) && fmt' == fmt && isView fmt && unitBase fr' fmt' (q.va % q.tr.size) == unitBase fr fmt (p.va % p.tr.size)

/-- Send parts under their translations, in order; a part that overlaps an earlier one that stays, or an earlier view part of another
unit, stays too (R212, R223). The answer holds the parts that stay and the view parts to perform; views are the view parts before. -/
def State.sendParts (s : State) (tid slot age : Nat) (before views : List StorePart) (ps : List StorePart) :
    State × List StorePart × List StorePart :=
  match ps with
  | [] => (s, [], [])
  | p :: ps =>
    match (if s.meetsAny p (before ++ views.filter fun q => !s.sameUnit p q) then Perf.stays s p else s.sendPart tid slot age p) with
    | .gone s => s.sendParts tid slot age before views ps
    | .view s =>
      let r := s.sendParts tid slot age before (views ++ [p]) ps
      (r.1, r.2.1, p :: r.2.2)
    | .stays s q =>
      let r := s.sendParts tid slot age (before ++ [q]) views ps
      (r.1, q :: r.2.1, r.2.2)

/-- Renew the translations of the parts that their homes refuse, of those not yet sent. -/
def State.renewParts (s : State) (tid slot age : Nat) (ps : List StorePart) : State × List StorePart :=
  match ps with
  | [] => (s, [])
  | p :: ps =>
    let refused := p.sent.isNone && decide (s.home p.tr p.va p.bytes.length = Home.refused)
    let q := if refused then s.renewPart tid slot age p 2 else (s, some [p])
    let r := q.1.renewParts tid slot age ps
    (r.1, q.2.getD [] ++ r.2)

/-- Perform the view parts of one store instruction: all its words of a block in one re-pack (R109, R110), which another module's
home performs from one packet (log entry 17). The parts that stay are those sent; fuel bounds the units. -/
def State.performViews (s : State) (tid slot age : Nat) (ps : List StorePart) (fuel : Nat) : State × List StorePart :=
  match fuel, ps with
  | 0, _ => (s, [])
  | _, [] => (s, [])
  | fuel + 1, p :: ps =>
    let (sp, fr, fmt) := s.frameOf p.tr
    let u := unitBase fr fmt (p.va % p.tr.size)
    let mine := p :: ps.filter (s.sameUnit p)
    let ws := (mine.map fun q => wordsOf (q.bytes.length / 4) (q.va % q.tr.size % 65536 / 4) q.bytes).flatten
    let k := s.task tid
    let rest := ps.filter fun q => !s.sameUnit p q
    match sp with
    | .peer m =>
      let n := AMap.get s.opseqs m 0
      let pkt := carry { requestPacket 1 k.ctx p.tr u 0 [] with size := fmt } (repackData ws)
      let r := (s.sendRemote m (RemoteFor.store tid slot age p.va) pkt).performViews tid slot age rest fuel
      (r.1, mine.map (fun q => { q with sent := some (m, n) }) ++ r.2)
    | _ =>
      let s := mine.foldl (fun s q => ((s.countVia q.tr q.va q.bytes.length true).dropReplicas
        (s.storageLines q.tr q.va q.bytes.length)).updateLines k.core k.ctx q.va q.tr q.bytes) s
      { s with mem := s.mem.storeWords sp u fmt ws }.performViews tid slot age rest fuel

/-- Replace or remove the entry of an age in a thread's buffer. -/
def State.setEntry (s : State) (tid slot age : Nat) (ps : List StorePart) : State :=
  let t := s.thread tid slot
  let kept :=
    if ps.isEmpty then t.wbuf.filter (fun e => e.age != age)
    else t.wbuf.map (fun e => if e.age == age then { e with parts := ps } else e)
  s.setThread tid slot { t with wbuf := kept }

/-- The buffered stores of all threads of a task, oldest first, with their slots. -/
def Task.entries (k : Task) : AMap (Nat × BufStore) :=
  k.threads.foldl (fun m t => t.2.wbuf.foldl (fun m e => AMap.put m e.age (t.1, e)) m) []

/-- The parts of the stores of a task's core that are older than an entry (R223, R264). -/
def Task.olderParts (k : Task) (age : Nat) : List StorePart :=
  ((k.entries.filter fun e => e.1 < age).map fun e => e.2.2.parts).flatten

/-- Send some parts of an entry to their homes behind the parts before them: the parts that stay in the buffer (R223). -/
def State.sendSome (s : State) (tid slot age : Nat) (before ps : List StorePart) : State × List StorePart :=
  let n := s.renewParts tid slot age ps
  let r := n.1.sendParts tid slot age before [] n.2
  let v := r.1.performViews tid slot age r.2.2 r.2.2.length
  (v.1, v.2 ++ r.2.1)

/-- Send an entry of a write-through buffer to its homes: what can be performed now leaves the buffer (R223). -/
def State.performEntry (s : State) (tid slot age : Nat) : State :=
  let k := s.task tid
  match (k.thread slot).wbuf.find? (fun e => e.age == age) with
  | none => s
  | some e =>
    let r := s.sendSome tid slot age (k.olderParts age) e.parts
    r.1.setEntry tid slot age r.2

/-- Send one part of an entry to its home, before or after the others: of a dual-exponent page, every part in its 64 KiB, since a
store instruction makes one re-pack of each block (R110, R212). Parts that overlap keep their order: what stays of them stands where it
stood, and parts whose order with those between them matters go with the whole entry only. -/
def State.performPart (s : State) (tid slot age idx : Nat) : State :=
  let k := s.task tid
  match (k.thread slot).wbuf.find? (fun e => e.age == age) with
  | none => s
  | some e =>
    match e.parts[idx]? with
    | none => s
    | some p =>
      let dx (q : StorePart) : Bool := !q.tr.host && (leafFmt q.tr.leaf == 1 || leafFmt q.tr.leaf == 2)
      let with_ (q : StorePart) : Bool := q == p || (dx p && s.sameUnit p q)
      let first := e.parts.findIdx with_
      let last := e.parts.length - 1 - e.parts.reverse.findIdx with_
      let between := ((e.parts.take last).drop first).filter fun q => !with_ q
      if (e.parts.filter with_).any fun q => s.meetsAny q between then s
      else
        let r := s.sendSome tid slot age (k.olderParts age ++ e.parts.take first) (e.parts.filter with_)
        r.1.setEntry tid slot age (e.parts.take first ++ r.2 ++ (e.parts.drop first).filter fun q => !with_ q)

/-- Cut a part of a buffered store that is not naturally aligned after n bytes: such a store is performed as separate byte accesses
in an order that is not promised (R221). -/
def State.cutPart (s : State) (tid slot age idx n : Nat) : State :=
  match (s.thread tid slot).wbuf.find? (fun e => e.age == age) with
  | none => s
  | some e =>
    match e.parts[idx]? with
    | none => s
    | some p =>
      let last := (e.parts.filter fun q => q.first == p.first).foldl (fun m q => max m (q.va + q.bytes.length)) 0
      if p.first % (last - p.first) == 0 || n == 0 || p.bytes.length ≤ n || p.sent.isSome
          || (!p.tr.host && isView (leafFmt p.tr.leaf)) then s
      else
        s.setEntry tid slot age (e.parts.take idx ++ [{ p with bytes := p.bytes.take n },
          { p with va := p.va + n, bytes := p.bytes.drop n }] ++ e.parts.drop (idx + 1))

/-- Of a list of entries, oldest first, those that f names and the older ones that they wait behind (R223, R264). -/
def State.behindOf (s : State) (f : Nat × Nat × BufStore → Bool) (es : List (Nat × Nat × BufStore)) : List (Nat × Nat × BufStore) :=
  es.foldr (fun e acc => if f e || acc.any fun o => o.2.2.parts.any fun p => s.meetsAny p e.2.2.parts then e :: acc else acc) []

/-- Send the entries of a task that f names, and those that they wait behind, oldest first. -/
def State.performWhere (s : State) (tid : Nat) (f : Nat × Nat × BufStore → Bool) : State :=
  (s.behindOf f (s.task tid).entries).foldl (fun s e => s.performEntry tid e.2.1 e.1) s

/-- Send every entry of a thread's buffer, oldest first; whether the buffer is then empty (R223). -/
def State.drain (s : State) (tid slot : Nat) : State × Bool :=
  if (s.thread tid slot).wbuf.isEmpty then (s, true)
  else
    let s := s.performWhere tid fun e => e.2.1 == slot
    (s, (s.thread tid slot).wbuf.isEmpty)

/-- The parts that a thread's buffer holds. -/
def Thread.parts (t : Thread) : List StorePart := (t.wbuf.map BufStore.parts).flatten

/-- Perform the earlier stores of a thread that overlap n view bytes under a translation; whether none is left. -/
def State.performOver (s : State) (tid slot va n : Nat) (t : Trans) : State × Bool :=
  if ((s.thread tid slot).parts).any (s.meetsPart t va n) then
    let s := s.performWhere tid fun e => e.2.1 == slot && e.2.2.parts.any (s.meetsPart t va n)
    (s, !((s.thread tid slot).parts).any (s.meetsPart t va n))
  else (s, true)

/-! ## Loads of checked pieces -/

/-- The format under which a translation gives a frame. -/
def Trans.fmtOf (t : Trans) : Nat := if t.host then 0 else leafFmt t.leaf

/-- Whether a part of a buffered store lies in the storage of n view bytes under another format. -/
def State.otherFormat (s : State) (t : Trans) (va n : Nat) (q : StorePart) : Bool :=
  q.tr.fmtOf != t.fmtOf && s.meetsPart t va n q

/-- Perform the buffered stores of a core that lie in the storage of n view bytes under another format, before a load reads them at
the home; whether none is left. -/
def State.sameFormat (s : State) (tid va n : Nat) (t : Trans) : State × Bool :=
  let other (s : State) : Bool := (s.task tid).entries.any fun e => e.2.2.parts.any (s.otherFormat t va n)
  if other s then
    let s := s.performWhere tid fun e => e.2.2.parts.any (s.otherFormat t va n)
    (s, !other s)
  else (s, true)

/-- Load one piece: buffers first, then the data cache, then the home (R261). -/
def State.loadPiece (s : State) (tid slot : Nat) (p : Piece) : State × Got :=
  match p with
  | .win _ n key => (s, .bytes (s.readWin key n))
  | .page va n t =>
    let r := s.sameFormat tid va n t
    if !r.2 then (r.1, .wait .buffer)
    else
    let s := r.1
    let o := (List.range n).map fun i => s.overAt tid slot va n t (va + i)
    if o.all Option.isSome then (s, .bytes (o.map fun b => b.getD default))
    else
      match (if s.cacheable (s.task tid).cluster t then s.loadLines tid slot va n t (n / 128 + 2)
             else s.loadHome tid slot va n t) with
      | (s, .bytes bs) => (s, .bytes (overlay o bs))
      | r => r

/-- Load the pieces of an access in ascending address order. -/
def State.loadPieces (s : State) (tid slot : Nat) (ps : List Piece) : State × Got :=
  match ps with
  | [] => (s, .bytes [])
  | p :: ps =>
    match s.loadPiece tid slot p with
    | (s, .bytes bs) =>
      match s.loadPieces tid slot ps with
      | (s, .bytes cs) => (s, .bytes (bs ++ cs))
      | r => r
    | r => r

/-- Check and load n bytes at a (R217, R220). -/
def State.load (s : State) (tid slot a n : Nat) : State × Got :=
  match s.check tid a n .load false with
  | (s, .fault c b) => (s, .fault c b)
  | (s, .wait w) => (s, .wait w)
  | (s, .ok ps) => s.loadPieces tid slot ps

/-- Count a load that returned poisoned data (R475). -/
def State.notePload (s : State) (tid : Nat) (bs : List PByte) : State :=
  if bs.any PByte.p then
    let k := s.task tid
    s.setTask tid { k with pload := min (k.pload + 1) 65535 }
  else s

/-! ## Atomics -/

/-- The new value of an atomic on n bytes: operation, old value, operand, comparand (R227). -/
def amoNew (op n old v cmp : Nat) : Nat :=
  let w := 8 * n
  match op with
  | 0 => (old + v) % 2 ^ w
  | 1 => old &&& v
  | 2 => old ||| v
  | 3 => old ^^^ v
  | 4 => if toInt w v < toInt w old then v else old
  | 5 => if toInt w old < toInt w v then v else old
  | 6 => if v < old then v else old
  | 7 => if old < v then v else old
  | 8 => v
  | _ => if old == cmp then v else old

/-- What an atomic writes and its poison, from the old value and its poison (R228). -/
def amoStep (op n : Nat) (old : Nat) (po : Bool) (v : Nat) (pv : Bool) (cmp : Nat) : Nat × Bool :=
  (if op == 9 && po then old else amoNew op n old v cmp, if op == 8 then pv else po || pv)

/-- The bytes of a value with one poison. -/
def pbytes (n v : Nat) (p : Bool) : List PByte := (leBytes n v).map fun b => ⟨b, p⟩

/-- An operand of an atomic: operation, operand, its poison, comparand. -/
structure AmoArg where
  op  : Nat
  v   : Nat
  pv  : Bool
  cmp : Nat

/-- Perform an atomic on bytes read, giving the bytes to write. -/
def amoBytes (g : AmoArg) (old : List PByte) : List PByte :=
  let n := old.length
  let r := amoStep g.op n (leNat (old.map PByte.b)) (old.any PByte.p) g.v g.pv g.cmp
  pbytes n r.1 r.2

/-- The atomic's turn at its home: tag names the response of a lane. -/
def State.atTurn (s : State) (tid slot tag va n : Nat) (t : Trans) (g : AmoArg) : State × Got :=
  let k := s.task tid
  match s.home t va n with
  | .refused => (s, .wait .walker)
  | .self st => (s, .wait (.stack st))
  | .lost => (s.pendFault tid (storeFault slot 0x53 1 va), .bytes (pbytes n 0 true))
  | .remote m pa len =>
    match (s.thread tid slot).gotAt tag with
    | some bs => (s, .bytes bs)
    | none =>
      let w := RemoteFor.atomic tid slot tag va
      if s.outstanding w then (s, .wait .remote)
      else
        let data := leBytes n g.v ++ (if g.op == 9 then leBytes n g.cmp else [])
        let p := { requestPacket 2 k.ctx t pa data.length data with aop := g.op, size := if len == 8 then 3 else 2 }
        (s.sendRemote m w p, .wait .remote)
  | .ready =>
    if s.lineActive (s.storageLines t va n) then (s, .fault 0x64 va)
    else
      let old := s.homeBytes t va n
      let s := s.homeWrite t va (amoBytes g old)
      let place := s.storageLines t va n
      (s.dropLines k.core fun l => (l.ctx == k.ctx && l.va == va / 128) || l.place.any place.contains, .bytes old)

/-- Perform a checked atomic of n bytes at its home, indivisibly: the old bytes (R228). tag names the response of a lane. -/
def State.atomicPiece (s : State) (tid slot tag : Nat) (p : Piece) (g : AmoArg) : State × Got :=
  match p with
  | .win _ n key =>
    let old := s.readWin key n
    (s.writeWin key (amoBytes g old), .bytes old)
  | .page va n t =>
    -- A preceding store that overlaps is performed before it.
    let r := s.performOver tid slot va n t
    if r.2 then r.1.atTurn tid slot tag va n t g else (r.1, .wait .buffer)

/-- Check and perform an atomic of n bytes at a (R217, R228). -/
def State.atomic (s : State) (tid slot a n tag : Nat) (g : AmoArg) : State × Got :=
  match s.check tid a n .atomic g.pv with
  | (s, .fault c b) => (s, .fault c b)
  | (s, .wait w) => (s, .wait w)
  | (s, .ok ps) =>
    match ps with
    | p :: _ => s.atomicPiece tid slot tag p g
    | [] => (s, .bytes [])

/-! ## Fetch answers -/

/-- Fetches of a task's threads that went to another module, and their answers, are of no use any more: the next fetch asks again
(R185). -/
def State.dropFetches (s : State) (tid : Nat) : State :=
  let k := s.task tid
  let s := s.setTask tid { k with threads := k.threads.map fun (t : Nat × Thread) =>
    (t.1, { t.2 with got := t.2.got.filter fun g => !isFetchTag g.1 }) }
  { s with remotes := s.remotes.filter fun r => match r.who with
      | .load t _ tag => !(t == tid && isFetchTag tag)
      | _ => true }

end Sys2Proof.Machine
end

