-- ==== Sys2Proof/Machine/Ops.lean ====
section
/-! DEFINITION. The shared operations of instructions: registers with poison (R118), how an instruction of a thread ends
(R126), taking a fault and returning from one (R376, R377, R381 to R383, R183), delivery of asynchronous faults (R139, R528),
drains (R223), rings that the device writes (R379, R498). -/

namespace Sys2Proof.Machine

/-! ## Registers -/

/-- An x register of a thread; x0 reads zero (R118). -/
def Thread.xr (t : Thread) (r : Reg) : Word := if r = 0 then 0 else AMap.get t.x r.toNat 0
/-- The poison bit of an x register; x0's always reads clear (R118). -/
def Thread.xpr (t : Thread) (r : Reg) : Bool := r != 0 && t.xp.getLsbD r.toNat
/-- Set bit i of a word of poison bits. -/
def setBit {n : Nat} (w : BitVec n) (i : Nat) (b : Bool) : BitVec n :=
  (w &&& ~~~(BitVec.ofNat n (2 ^ i))) ||| (if b then BitVec.ofNat n (2 ^ i) else 0)
/-- Write an x register with its poison; writes of x0 are ignored (R118). -/
def Thread.setX (t : Thread) (r : Reg) (v : Word) (p : Bool) : Thread :=
  if r = 0 then t else { t with x := AMap.set t.x r.toNat v 0, xp := setBit t.xp r.toNat p }
/-- An x register of the current thread. -/
def State.x (s : State) (r : Reg) : Word := s.thr.xr r
/-- Its poison. -/
def State.xp (s : State) (r : Reg) : Bool := s.thr.xpr r
/-- Write an x register of the current thread with its poison. -/
def State.setX (s : State) (r : Reg) (v : Word) (p : Bool) : State := s.setThr (s.thr.setX r v p)

/-- A vector register. -/
def Thread.vr (t : Thread) (r : Reg) : VReg := AMap.get t.v r.toNat 0
/-- The poison of chunk c of a vector register (R118). -/
def Thread.vpr (t : Thread) (r : Reg) (c : Nat) : Bool := t.vp.getLsbD (16 * r.toNat + c)
/-- Write a vector register with the poison of its 16 chunks. -/
def Thread.setV (t : Thread) (r : Reg) (v : VReg) (p : BitVec 16) : Thread :=
  { t with
    v := AMap.set t.v r.toNat v 0
    vp := (t.vp &&& ~~~((0xFFFF#16).setWidth 512 <<< (16 * r.toNat))) ||| (p.setWidth 512 <<< (16 * r.toNat)) }
/-- A predicate register; p0 reads all ones (R118). -/
def Thread.pr (t : Thread) (r : Nat) : PReg := if r = 0 then BitVec.allOnes 128 else AMap.get t.p r 0
/-- Write a predicate register; writes of p0 are ignored (R118). -/
def Thread.setP (t : Thread) (r : Nat) (v : PReg) : Thread := if r = 0 then t else { t with p := AMap.set t.p r v 0 }

/-! ## What an instruction answers -/

/-- How an instruction of a thread ends: done (pc advances), a jump, a precise fault, a wait, the delivery of an asynchronous
fault, or by its own change of the thread's state. -/
inductive Res where
  | done
  | jump (pc : Word)
  | fault (code addr info1 : Nat)
  | wait (w : Wait)
  | deliver (f : PendFault)
  | left
deriving DecidableEq, Repr

/-- Kinds of instruction as to an open packet (R335) and a PC-match handler (R496). -/
inductive Class where
  | plain
  | barred
  | packet
  | barredPacket
deriving DecidableEq, Repr

/-- Whether the kind raises 0x01 in a PC-match handler (R496). -/
def Class.isBarred (c : Class) : Bool := c == .barred || c == .barredPacket
/-- Whether the kind may run in an open packet (R335). -/
def Class.inPacket (c : Class) : Bool := c == .packet || c == .barredPacket

/-! ## Device writes through a context's tables -/

/-- The translation of a device-half or host address of a context for a controller or engine that keeps none (R393). -/
def State.engineTr (s : State) (ctx va : Nat) (k : Acc) : Option Trans :=
  let host := va < 2 ^ 55
  match (if host then s.walkHost va else s.walkDev ctx va) with
  | .leaf e size peer =>
    let (l, sk) := s.leaseOf host e peer
    if permits e k && !(!host && (leafMig e || leafPoi e)) then
      some { ctx := ctx, page := va / size, size := size, leaf := e, host := host, expiry := s.now + l, skew := sk }
    else none
  | _ => none

/-- Read n bytes for a controller; none when a page is not there. fuel bounds the pages. A stack in SELF holds the access no longer
than the step itself waits, and a page of another module is read in the step (log entry 19). -/
def State.engineRead (s : State) (ctx va n : Nat) (fuel : Nat) : Option (List PByte) :=
  match fuel with
  | 0 => some []
  | fuel + 1 =>
    if n == 0 then some []
    else
      match s.engineTr ctx va .load with
      | none => none
      | some t =>
        let m := min n (t.size - va % t.size)
        let rest := (s.engineRead ctx (va + m) (n - m) fuel).map fun r => s.homeBytes t va m ++ r
        match s.home t va m with
        | .remote p _ _ => if s.peerUnreach p then none else rest
        | _ => rest

/-- Whether a controller cannot read some page of a range for now: it is absent, in migration, behind a stack in SELF, or on a module that
cannot be reached. -/
def State.rangeWaits (s : State) (ctx va n : Nat) : Bool :=
  (List.range ((va % 4096 + n + 4095) / 4096)).any fun i =>
    let a := va / 4096 * 4096 + 4096 * i
    let host := a < 2 ^ 55
    (regionOf a == .dev || regionOf a == .host) &&
      match (if host then s.walkHost a else s.walkDev ctx a) with
      | .leaf e _ _ => !host && (leafMig e || !s.nodeReachable e)
      | _ => true

/-- Write bytes for a controller; none when a page is not there. -/
def State.engineWrite (s : State) (ctx va : Nat) (bs : List PByte) (fuel : Nat) : Option State :=
  match fuel with
  | 0 => some s
  | fuel + 1 =>
    if bs.isEmpty then some s
    else
      match s.engineTr ctx va .store with
      | none => none
      | some t =>
        let m := min bs.length (t.size - va % t.size)
        match s.home t va m with
        | .remote _ _ _ => none
        | .lost => s.engineWrite ctx (va + m) (bs.drop m) fuel
        | _ => (s.homeWrite t va (bs.take m)).engineWrite ctx (va + m) (bs.drop m) fuel

/-- An unsigned number of n bytes in a context's memory, 0 when it is not there. -/
def State.engineNat (s : State) (ctx va n : Nat) : Nat :=
  match s.engineRead ctx va n 3 with
  | some bs => leNat (bs.map PByte.b)
  | none => 0

/-! ## Trace (R498) -/

/-- Whether trace is on for a task. -/
def State.traceOn (s : State) (k : Task) : Bool :=
  k.pmctl.getLsbD 1 && k.trbase.toNat % 32 != 0
    && (!bitAt (s.ctx k.ctx).desc.flags 0 || bitAt (s.ctx k.ctx).desc.flags 2)

/-- The clock of a cluster's cores in MHz: the lower of the module's and its die's (R42, R473). -/
def State.coreClock (s : State) (cl : Nat) : Nat := min s.clock (s.die (dieOf cl)).limit

/-- Whether the last record is less than 4 core cycles old: at most one record every 4 core cycles. -/
def State.tracePaced (s : State) (core : Nat) : Bool :=
  let c := s.core core
  c.traceAt != 0 && (s.now + 1 - c.traceAt) * s.coreClock (clusterOf core) < 4000

/-- The Loupe writes a trace record, or counts it in LOST. -/
def State.traceRec (s : State) (tid slot ty flags value : Nat) : State :=
  let k := s.task tid
  if !s.traceOn k then s
  else
    let base := k.trbase.toNat / 4096 * 4096
    let n := k.trbase.toNat % 32
    let lost (s : State) : State :=
      let l := s.engineNat k.ctx (base + 8) 8
      ((s.engineWrite k.ctx (base + 8) (pbytes 8 ((l + 1) % 2 ^ 64) false) 3)).getD s
    if s.tracePaced k.core then lost s
    else
      let w := s.engineNat k.ctx base 8
      let rec_ := pbytes 8 (s.clusterTime k.cluster) false ++ pbytes 1 ty false ++ pbytes 1 slot false ++ pbytes 1 flags false
        ++ pbytes 1 0 false ++ pbytes 4 (value % 2 ^ 32) false
      match s.engineWrite k.ctx (base + 64 + 16 * (w % 2 ^ n)) rec_ 3 with
      | none => lost s
      | some s =>
        let s := (s.engineWrite k.ctx base (pbytes 8 ((w + 1) % 2 ^ 64) false) 3).getD s
        s.setCore k.core { s.core k.core with traceAt := s.now + 1 }

/-! ## Taking a fault (R376, R377) -/

/-- FLTREC.HND: the thread is inside a reflected handler (R373). -/
def Thread.hnd (t : Thread) : Bool := t.fltrec.getLsbD 8

/-- The fault record of a thread that stops (R377, R378): W0 is that of the instruction in issue. -/
def State.faultRec (s : State) (tid slot : Nat) (t : Thread) (code kind addr info1 info2 : Nat) : FaultRec :=
  let k := s.task tid
  { code := code, kind := kind, slot := slot, flags := (if t.packet.isSome then 1 else 0) + (if t.hnd then 2 else 0),
    core := k.core, action := 0, ctime := s.clusterTime k.cluster, kid := k.kid, w0 := s.curW.1, pc := t.pc.toNat,
    addr := addr, info1 := info1, info2 := info2 }

/-- The pending special-function entries of a thread that stops or is swapped are cancelled (R209). -/
def State.cancelSfu (s : State) (tid slot : Nat) : State :=
  let k := s.task tid
  s.setTask tid { k with sfu := k.sfu.map fun e => if e.slot == slot then { e with cancelled := true } else e }

/-- Cancelled entries of a thread that goes on are executed again before its next instruction (R209): their results and flags, which
every later instruction of the thread has seen since their issue, stay as they are, and the entries leave the queue. -/
def State.redoSfu (s : State) (tid slot : Nat) : State :=
  let k := s.task tid
  s.setTask tid { k with sfu := k.sfu.filter fun e => !(e.slot == slot && e.cancelled) }

/-- A thread that a fault stops leaves the rendezvous that it waits in: R145 says so for 0x0B, and its instruction arrives again when the
thread is resumed (log entry 91). -/
def State.leaveRdv (s : State) (tid slot : Nat) : State :=
  let k := s.task tid
  if k.points.any fun e => e.2.arr.any fun a => a.1 == slot then
    s.setTask tid { k with points := (k.points.map fun (e : Nat × Episode) =>
      (e.1, { e.2 with arr := e.2.arr.filter fun a => a.1 != slot })).filter fun e => !e.2.arr.isEmpty }
  else s

/-- The requests of an instruction that a fault ends are nobody's: their answers and losses reach no thread (slot 99), but count until they come
(R385, R448). -/
def State.orphanLoads (s : State) (tid slot : Nat) : State :=
  { s with remotes := s.remotes.map fun r => match r.who with
      | .load t i tag => if t == tid && i == slot then { r with who := .load t 99 tag } else r
      | .atomic t i tag va => if t == tid && i == slot then { r with who := .atomic t 99 tag va } else r
      | _ => r }

/-- A fault stops a thread: STOPPED with its record, pc at the instruction, or at its xopen inside a packet, which is
discarded (R126, R335, R376). -/
def State.takeFault (s : State) (tid slot : Nat) (code kind addr info1 info2 : Nat) : State :=
  let t := s.thread tid slot
  let r := s.faultRec tid slot t code kind addr info1 info2
  let t := { t with
    st := .stopped, frec := some r, handed := false, held := none, got := [], answer := none, skipPm := false,
    pc := match t.packet with | some p => p.xopen | none => t.pc
    packet := none }
  ((((s.setThread tid slot t).leaveRdv tid slot).cancelSfu tid slot).orphanLoads tid slot).traceRec tid slot 5 0 code

/-- A fault that a waiting thread takes at the instruction it holds. -/
def State.faultHeld (s : State) (tid slot code kind addr info1 info2 : Nat) : State :=
  let w := s.curW
  { ({ s with curW := (s.thread tid slot).held.getD (0, 0, 0) } : State).takeFault tid slot code kind addr info1 info2 with
    curW := w }

/-! ## Debug stops (R491) -/

/-- A debug stop holds a thread at an instruction boundary, unless it has an open packet or is in a PC-match handler (R491). -/
def State.holdThread (s : State) (tid slot : Nat) : State :=
  let t := s.thread tid slot
  if !t.live || t.packet.isSome || t.shadow.isSome || decide (t.st = .debug) then s
  else ((s.setThread tid slot { t with st := .debug, prior := t.st }).cancelSfu tid slot).traceRec tid slot 6 0 0

/-- Stop a core: every live thread of its task (R491). -/
def State.stopCore (s : State) (core : Nat) : State :=
  let s := s.setCore core { s.core core with dbgStop := true }
  match s.running core with
  | none => s
  | some tid => slots.foldl (fun s i => s.holdThread tid i) s

/-- A stop that a thread deferred takes it at its instruction boundary. -/
def State.holdIfStopping (s : State) (tid slot : Nat) : State :=
  if (s.core (s.task tid).core).dbgStop then s.holdThread tid slot else s

/-! ## How an instruction ends -/

/-- Whether a wait is for a translation. -/
def Wait.onPage (w : Wait) : Bool :=
  match w with
  | .page _ => true
  | .walker => true
  | _ => false

/-- Since when a thread that waits has waited, for a translation or for anything else (R384). -/
def Thread.waitSince (t : Thread) (w : Wait) (now : Nat) : Nat :=
  match t.st with
  | .waiting v => if v.onPage == w.onPage then t.since else now
  | _ => now

/-- Settle the current thread after an instruction of len bytes (R126). -/
def State.settle (len : Nat) (r : State × Res) : State :=
  let s := r.1
  let t := s.thr
  let go (pc : Word) : State :=
    s.setThr { t with st := .ready, pc := pc, held := none, got := [], answer := none, skipPm := false }
  match r.2 with
  | .done => go (t.pc + BitVec.ofNat 64 len)
  | .jump pc => go pc
  | .fault code addr info1 => s.takeFault s.cur.1 s.cur.2 code 0 addr info1 0
  | .wait w => (s.setThr { t with
      st := .waiting w, held := some (t.held.getD s.curW)
      since := t.waitSince w s.now }).holdWait w (.resume s.cur.1 s.cur.2)
  | .deliver f => s.takeFault s.cur.1 s.cur.2 f.code f.kind f.addr f.info1 f.info2
  | .left => s

/-- Count an instruction of a PC-match handler at its issue (R496): once, not when a waiting thread executes again what it holds. -/
def State.countHandler (s : State) : State :=
  match s.thr.held, s.thr.shadow with
  | none, some h => s.setThr { s.thr with shadow := some { h with count := h.count + 1 } }
  | _, _ => s

/-- Whether a thread may not issue an instruction of a kind: inside an open packet and inside a PC-match handler the other
kinds raise 0x01 (R335, R496). -/
def Thread.forbids (t : Thread) (c : Class) : Bool := (t.packet.isSome && !c.inPacket) || (t.shadow.isSome && c.isBarred)

/-- Issue an instruction of len bytes for the current thread: f is its meaning once the thread may run it. What the thread may not issue at all
raises 0x01 before every check of the instruction's own; of a tret in a PC-match handler whose frame holds a misaligned pc (R150, R496), the
spec gives no order; DESIGN CHOICE (log entry 125). -/
def issue (c : Class) (len : Nat) (s : State) (f : State → State × Res) : Host.Outcome State Fault Refusal :=
  if s.thr.canRun then
    let s := s.countHandler
    .next ((State.settle len (if s.thr.forbids c then (s, .fault 0x01 0 0) else f s)).holdIfStopping s.cur.1 s.cur.2)
  else .fault .noThread

/-- A step of the device that no thread issues. -/
def event (s : State) (f : State → State) : Host.Outcome State Fault Refusal := .next (f s)

/-- Complete the waiting instruction of a thread: READY after len bytes (R126). -/
def State.complete (s : State) (tid slot len : Nat) : State :=
  let t := s.thread tid slot
  (s.setThread tid slot { t with
    st := .ready, pc := t.pc + BitVec.ofNat 64 len, held := none, got := [], answer := none,
    skipPm := false }).holdIfStopping tid slot

/-- A waiting thread goes on with the instruction of len bytes that it holds: f is what is left of it. -/
def State.resumeAs (s : State) (tid slot len : Nat) (f : State → State × Res) : State :=
  let t := s.thread tid slot
  match t.st, t.held with
  | .waiting _, some w =>
    { (State.settle len (f { s with cur := (tid, slot), curW := w })).holdIfStopping tid slot with cur := s.cur, curW := s.curW }
  | _, _ => s

/-- Go on with the bytes of an access, or end with its wait or fault. -/
def Got.bind (r : State × Got) (f : State → List PByte → State × Res) : State × Res :=
  match r.2 with
  | .bytes bs => f r.1 bs
  | .wait w => (r.1, .wait w)
  | .fault c a => (r.1, .fault c a 0)

/-! ## Asynchronous faults and drains (R139, R223, R528) -/

/-- Take out the first pending fault for which f holds. -/
def takePend (f : PendFault → Bool) (l : List PendFault) : Option (PendFault × List PendFault) :=
  match l with
  | [] => none
  | p :: l => if f p then some (p, l) else (takePend f l).map fun r => (r.1, p :: r.2)

/-- Whether q is a drift failure that a delivery of the drift failure p covers: of the same thread, numbered up to 31 above it (R305). -/
def PendFault.covers (p q : PendFault) : Bool :=
  q.slot == p.slot && q.ctr == 1 && q.code == 0x20 && p.seq < q.seq && q.seq ≤ p.seq + 31

/-- MASK of the delivery of a drift failure: bit i for number BASE + i (R305, R310). -/
def driftMask (p : PendFault) (l : List PendFault) : Nat :=
  1 + ((List.range 32).map fun i => if l.any (fun q => p.covers q && q.seq == p.seq + i) then 2 ^ i else 0).sum

/-- Deliver a pending fault; a drift failure takes those it covers with it and writes DRFAIL (R305, R310, R378). -/
def State.deliver (s : State) (p : PendFault) (l : List PendFault) : State × Res :=
  if p.code == 0x20 && p.ctr == 1 then
    let m := driftMask p l
    let b := p.seq % 2 ^ 32
    (s.setTk { s.tk with pend := l.filter (fun q => !p.covers q), drfail := BitVec.ofNat 64 (b * 2 ^ 32 + m) },
      .deliver { p with info1 := b, info2 := m })
  else (s.setTk { s.tk with pend := l }, .deliver p)

/-- End with the oldest pending fault for which f holds, else go on. -/
def State.deliverOr (s : State) (f : PendFault → Bool) (k : State → State × Res) : State × Res :=
  match takePend f s.tk.pend with
  | some (p, l) => s.deliver p l
  | none => k s

/-- The faults of R528 that pend for the current thread. -/
def State.isStoreFault (s : State) (p : PendFault) : Bool := p.slot == s.cur.2 && p.seq == 0
/-- Every fault that pends for the current thread. -/
def State.isMine (s : State) (p : PendFault) : Bool := p.slot == s.cur.2

/-- Drain the current thread's buffer, then deliver a pending fault for which f holds, then go on (R223, R528). -/
def State.drainThen (s : State) (f : PendFault → Bool) (k : State → State × Res) : State × Res :=
  let r := s.drain s.cur.1 s.cur.2
  if r.2 then r.1.deliverOr f k else (r.1, .wait .drain)

/-! ## Reflection and return (R381, R382, R183) -/

/-- The bytes of a fault record (R377). -/
def FaultRec.bytes (r : FaultRec) (seq : Nat) : List Byte :=
  leBytes 8 seq ++ leBytes 1 r.code ++ leBytes 1 r.kind ++ leBytes 1 r.slot ++ leBytes 1 r.flags ++ leBytes 2 r.core
    ++ leBytes 1 r.action ++ leBytes 1 0 ++ leBytes 8 r.ctime ++ leBytes 4 r.kid ++ leBytes 4 r.w0 ++ leBytes 8 r.pc
    ++ leBytes 8 r.addr ++ leBytes 8 r.info1 ++ leBytes 8 r.info2

/-- TRAPFRM: the window base plus CMSIZE KiB (R382), as an offset in the window. -/
def Task.trapOff (k : Task) : Nat := k.lrec.cmsize * 1024

/-- The bytes of a thread's trap frame (R382). -/
def Thread.frame (t : Thread) (r : FaultRec) (seq : Nat) : List Byte :=
  ((List.range 32).map fun i => leBytes 8 (t.xr (BitVec.ofNat 5 i)).toNat).flatten
    ++ leBytes 8 ((List.range 32).foldl (fun w i => if t.xpr (BitVec.ofNat 5 i) then w + 2 ^ i else w) 0)
    ++ leBytes 8 t.lr.toNat ++ leBytes 8 t.tflags.toNat ++ leBytes 8 t.pc.toNat ++ List.replicate 32 0 ++ r.bytes seq

/-- Reflect a thread's fault to its trap entry (R381): the frame, FLTREC, pc := TRAPENT, READY. -/
def State.reflect (s : State) (tid slot seq : Nat) : State :=
  let k := s.task tid
  let t := k.thread slot
  match t.frec with
  | none => s
  | some r =>
    let r := { r with action := 2 }
    let off := k.trapOff + 384 * slot
    let s := { s with mem := s.mem.write (s.cmOf tid off) ((t.frame r seq).map fun b => ⟨b, false⟩) }
    (s.setThread tid slot { t with
      st := .ready, pc := k.trapent, frec := none, handed := false, held := none
      fltrec := BitVec.ofNat 64 (256 + r.code) }).redoSfu tid slot

/-- The bits of TFLAGS that exist (R119). -/
def tflagsMask : Word := 0x1FF

/-- Return from a reflected handler (R183): x registers with poison, lr, TFLAGS and pc come from the frame; FLTREC.HND clears.
A granule of the frame that the handler left poisoned poisons its x register (log entry 15). -/
def State.trapReturn (s : State) : State × Res :=
  let k := s.tk
  let t := s.thr
  let key := s.cmOf s.cur.1 (k.trapOff + 384 * s.cur.2)
  let word (o : Nat) : Word := BitVec.ofNat 64 (leNat ((s.mem.read (key + o) 8).map PByte.b))
  -- The order of R150: a misaligned target, then a misplaced tret.
  if (word 0x118).toNat % 4 != 0 then (s, .fault 0x04 0 0)
  else if !t.hnd then (s, .fault 0x01 0 0)
  else
    let xp := word 0x100
    let t := (List.range 32).foldl (fun (t : Thread) i =>
      t.setX (BitVec.ofNat 5 i) (word (8 * i)) (xp.getLsbD i || (s.mem.read (key + 8 * i) 8).any PByte.p)) t
    (s.setThr { t with
      lr := word 0x108, tflags := word 0x110 &&& tflagsMask, fltrec := t.fltrec &&& 0xFF }, .jump (word 0x118))

/-! ## The fault ring (R379, R389) -/

/-- A record as the host sees it for a confidential context (R389). -/
def FaultRec.redact (r : FaultRec) : FaultRec :=
  { r with code := r.code / 16 * 16, slot := 0, core := 0, kid := 0, w0 := 0, pc := 0, addr := 0, info1 := 0, info2 := 0,
           flags := r.flags ||| 4 }

/-- The position that the next record of a context gets in its ring's write order. -/
def Context.nextSeq (c : Context) : Nat := c.wcount + c.backlog.length

/-- Write one record to a context's ring if the ring has space and its pages take it: the record, then WCOUNT. -/
def State.ringOne (s : State) (ctx : Nat) (r : FaultRec) : Option State :=
  let c := s.ctx ctx
  let rc := s.engineNat ctx (c.desc.fring + 8) 8
  if c.wcount - rc < 2 ^ c.desc.logf then
    let a := c.desc.fring + 64 + 64 * (c.wcount % 2 ^ c.desc.logf)
    ((s.engineWrite ctx a ((r.bytes c.wcount).map fun b => ⟨b, false⟩) 3).bind fun s =>
      s.engineWrite ctx c.desc.fring (pbytes 8 (c.wcount + 1) false) 3).map fun s =>
        s.setCtx ctx { s.ctx ctx with wcount := c.wcount + 1 }
  else none

/-- Message kinds to the host: a redacted record (R389), a backlog notice (R379). -/
def msgRecord : Nat := 1
/-- A context-level notice (R379). -/
def msgBacklog : Nat := 2

/-- The MGC writes a record, or keeps it until space appears; a context with more than 1,024 kept enters TEARDOWN (R379). -/
def State.ringPut (s : State) (ctx : Nat) (r : FaultRec) : State :=
  let s := if bitAt (s.ctx ctx).desc.flags 0 then s.send 0 msgRecord (ctx :: ((r.redact).bytes (s.ctx ctx).nextSeq).map BitVec.toNat) else s
  let c := s.ctx ctx
  match (if c.backlog.isEmpty then s.ringOne ctx r else none) with
  | some s => s
  | none =>
    let c' := { c with backlog := c.backlog ++ [r] }
    if 1024 ≤ c.backlog.length then
      (s.setCtx ctx { c' with st := .teardown, lost := true }).send 0 msgBacklog [ctx]
    else s.setCtx ctx c'

end Sys2Proof.Machine
end

