-- ==== Sys2Proof/Machine/Engine.lean ====
section
/-! DEFINITION. What engines share: numbers on the four timelines (R240, R241), reading and writing at homes unit by unit (R245,
R247, R279, R280), signal timelines (R344, R345), and the capability checks (R293). -/

namespace Sys2Proof.Machine

/-! ## Timelines -/

/-- Give the current thread's operation the next number of counter t; the thread keeps its unretired numbers (R137, R240). -/
def State.issueOp (s : State) (t : Nat) : State × Nat :=
  let (k, n) := s.tk.issueOn t
  let th := k.thread s.cur.2
  let keep := th.opIds.filter fun o => (k.line o.1).live.contains o.2
  (s.setTk (k.setThread s.cur.2 { th with opIds := keep ++ [(t, n)] }), n)

/-- Whether a thread has an unretired operation other than a launch, or an unanswered remote one (R137). -/
def State.threadBusy (s : State) (tid slot : Nat) : Bool :=
  let k := s.task tid
  ((k.thread slot).opIds.any fun o => o.1 != 3 && (k.line o.1).live.contains o.2)
    || s.remotes.any fun r => match r.who with
      | .load t sl _ => t == tid && sl == slot
      | .store t sl _ _ => t == tid && sl == slot
      | .atomic t sl _ _ => t == tid && sl == slot
      | _ => false

/-- Whether an engine operation or launch issued by some thread of a task is unretired (R140). -/
def State.taskBusy (s : State) (tid : Nat) : Bool :=
  let k := s.task tid
  ([0, 1, 2, 3].any fun t => !(k.line t).live.isEmpty)
    || s.remotes.any fun r => match r.who with
      | .load t _ _ => t == tid
      | .store t _ _ _ => t == tid
      | .atomic t _ _ _ => t == tid
      | .engine t _ => t == tid
      | .group _ _ _ => false

/-- INFO1 of an asynchronous fault: the counter and the number (R378). -/
def asyncInfo (t n : Nat) : Nat := t * 2 ^ 62 + n

/-- Retire an operation as failed: its fault stays pending for its thread (R241). -/
def State.retireFailed (s : State) (tid slot t n code addr info2 : Nat) : State :=
  (s.pendFault tid { slot := slot, ctr := t, seq := n, code := code, kind := 1, addr := addr, info1 := asyncInfo t n,
                     info2 := info2 }).retire tid t n

/-! ## Reading and writing at homes -/

/-- The tag of an engine's remote request: the operation's key and the address. -/
def engTag (op va : Nat) : Nat := op * 2 ^ 64 + va

/-- The answer to an engine's remote request. -/
def Task.answered (k : Task) (tag : Nat) : Option (Nat × List PByte) :=
  (k.egot.find? fun e => e.1 == tag).map Prod.snd

/-- Forget the answers of an engine operation, reads and writes. -/
def State.forget (s : State) (tid op : Nat) : State :=
  let k := s.task tid
  s.setTask tid { k with egot := k.egot.filter fun e =>
    !([op, 2 * op + 2 ^ 80, 2 * op + 1 + 2 ^ 80].contains (e.1 / 2 ^ 64)) }

/-- Send an engine's remote request once, and take its answer. -/
def State.engineAsk (s : State) (tid op va m : Nat) (p : Packet) : State × Got :=
  let tag := engTag op va
  match (s.task tid).answered tag with
  | some (0, bs) => (s, .bytes bs)
  | some (c, _) => (s, .fault c va)
  | none =>
    let w := RemoteFor.engine tid tag
    if s.outstanding w then (s, .wait .remote) else (s.sendRemote m w p, .wait .remote)

/-- Perform the earlier stores of a thread that overlap pieces of memory, so that an engine reads them (R249, R279); whether none is
left. -/
def State.flushPieces (s : State) (tid slot : Nat) (ps : List Piece) : State × Bool :=
  match ps with
  | [] => (s, true)
  | .win _ _ _ :: ps => s.flushPieces tid slot ps
  | .page va n t :: ps =>
    let r := s.performOver tid slot va n t
    if r.2 then r.1.flushPieces tid slot ps else r

/-- Read one piece at its home for an engine: a lost stack fails with 0x53 (R470). -/
def State.engineLoadPiece (s : State) (tid op : Nat) (p : Piece) : State × Got :=
  match p with
  | .win _ n key => (s, .bytes (s.readWin key n))
  | .page va n t =>
    match s.home t va n with
    | .refused => (s, .wait .walker)
    | .self st => (s.holdAt st (.engine tid op), .wait (.stack st))
    | .lost => (s, .fault 0x53 va)
    | .remote m pa len =>
      match s.engineAsk tid op va m (requestPacket 0 (s.task tid).ctx t pa len []) with
      | (s, .bytes bs) =>
        let fmt := leafFmt t.leaf
        (s, .bytes (viewFrom fmt (va % t.size) n (storeRange fmt (va % t.size) n).1 bs))
      | r => r
    | .ready => (s.countVia t va n false, .bytes (s.homeBytes t va n))

/-- A piece in parts whose requests fit into packets: 2,048 view bytes, which take at most 4,096 bytes of data (R427). -/
def Piece.chunks (p : Piece) : List Piece :=
  match p with
  | .win _ _ _ => [p]
  | .page va n t => (List.range ((n + 2047) / 2048)).map fun i => .page (va + 2048 * i) (min 2048 (n - 2048 * i)) t

/-- Read the pieces of a range for an engine; reads that have to be made again are not counted (R413). -/
def State.engineLoadPieces (s : State) (tid op : Nat) (ps : List Piece) : State × Got :=
  match ps with
  | [] => (s, .bytes [])
  | p :: ps =>
    match s.engineLoadPiece tid op p with
    | (r, .bytes bs) =>
      match r.engineLoadPieces tid op ps with
      | (r, .bytes cs) => (r, .bytes (bs ++ cs))
      | (r, g) => ({ r with pgc := s.pgc }, g)
    | r => r

/-- Read n view bytes at va for an engine operation of a thread (R247 with RAW = 0, R279). -/
def State.engineLoad (s : State) (tid slot op va n : Nat) : State × Got :=
  if n == 0 then (s, .bytes [])
  else
    match s.check tid va n .load false with
    | (s, .fault c b) => (s, .fault c b)
    | (s, .wait w) => (s.holdWait w (.engine tid op), .wait w)
    | (s, .ok ps) =>
      let r := s.flushPieces tid slot ps
      if r.2 then r.1.engineLoadPieces tid op ps else (r.1, .wait .drain)

/-- Write one piece at its home for an engine; a line with an active object discards it with 0x64 (R230). -/
def State.engineStorePiece (s : State) (tid op : Nat) (p : Piece) (bs : List PByte) : State × Got :=
  match p with
  | .win _ _ key => (s.writeWin key bs, .bytes [])
  | .page va n t =>
    match s.home t va n with
    | .refused => (s, .wait .walker)
    | .self st => (s.holdAt st (.engine tid op), .wait (.stack st))
    | .lost => (s, .fault 0x53 va)
    | .remote m pa len =>
      let (_, fr, fmt) := s.frameOf t
      let off := va % t.size
      let p := requestPacket 1 (s.task tid).ctx t pa len []
      s.engineAsk tid (2 * op + 1 + 2 ^ 80) va m
        (if fmt == 1 || fmt == 2 then
          carry { p with addr := unitBase fr fmt off, size := fmt } (repackData (wordsOf (n / 4) (off % 65536 / 4) bs))
        else carry p (viewInto fmt off bs (storeRange fmt off n).1 (List.replicate len default)))
    | .ready =>
      if s.lineActive (s.storageLines t va n) then (s, .fault 0x64 va) else (s.homeWrite t va bs, .bytes [])

/-- Whether every piece of a unit could be written now: no fault, no wait. -/
def State.engineStoreReady (s : State) (ps : List Piece) : Option (Nat × Nat) :=
  ps.findSome? fun p => match p with
    | .win _ _ _ => none
    | .page va n t =>
      match s.home t va n with
      | .lost => some (0x53, va)
      | .ready => if s.lineActive (s.storageLines t va n) then some (0x64, va) else none
      | _ => none

/-- Write the pieces of a unit for an engine. -/
def State.engineStorePieces (s : State) (tid op : Nat) (ps : List Piece) (bs : List PByte) : State × Got :=
  match ps with
  | [] => (s, .bytes [])
  | p :: ps =>
    let n := match p with | .win _ n _ => n | .page _ n _ => n
    match s.engineStorePiece tid op p (bs.take n) with
    | (s, .bytes _) => s.engineStorePieces tid op ps (bs.drop n)
    | r => r

/-- Whether a view page of FMT 1 to 5 would receive part of a word (R247). -/
def partialWord (ps : List Piece) : Option (Nat × Nat) :=
  ps.findSome? fun p => match p with
    | .win _ _ _ => none
    | .page va n t => if !t.host && isView (leafFmt t.leaf) && (va % 4 != 0 || n % 4 != 0) then some (0x13, va) else none

/-- Write view bytes at va for an engine operation: nothing of a faulting unit is written (R245, R247). -/
def State.engineStore (s : State) (tid op va : Nat) (bs : List PByte) : State × Got :=
  if bs.isEmpty then (s, .bytes [])
  else
    match s.check tid va bs.length .store (bs.any PByte.p) with
    | (s, .fault c b) => (s, .fault c b)
    | (s, .wait w) => (s.holdWait w (.engine tid op), .wait w)
    | (s, .ok ps) =>
      match partialWord ps <|> s.engineStoreReady ps with
      | some (c, b) => (s, .fault c b)
      | none => s.engineStorePieces tid op ps bs

/-! ## Signal timelines (R344 to R346) -/

/-- The fields of a signal entry. -/
def sigValue (e : Nat) : Nat := e % 2 ^ 56
/-- ERR. -/
def sigErr (e : Nat) : Bool := bitAt e 63

/-- Entry i of a context's signal table; entry 0 reads 0. -/
def State.sigRead (s : State) (ctx i : Nat) : Nat :=
  if i == 0 then 0 else s.engineNat ctx ((s.ctx ctx).desc.sigtab + 8 * i) 8

/-- What keeps an access of a controller or a thread to entry i of a context's signal table from being made now: its page is not there
or migrates, or a stack in SELF holds a table or the entry. Entry 0 is no memory. R344 does not ask PTE.PEER = 0 of a signal table; on a page
of another module every access waits; DESIGN CHOICE (log entry 129). -/
def State.sigWait (s : State) (ctx i : Nat) (k : Acc) : Option Wait :=
  let va := (s.ctx ctx).desc.sigtab + 8 * i
  if i == 0 then none
  else
    match s.engineTr ctx va k with
    | some t => (match s.home t va 8 with
      | .self st => some (.stack st)
      | .refused => some .walker
      | .remote _ _ _ => some (.page (BitVec.ofNat 64 va))
      | _ => none)
    | none => match s.walkDev ctx va with
      | .hold st => some (.stack st)
      | _ => some (.page (BitVec.ofNat 64 va))

/-- Raise entry i: VALUE := max, ERR and NZ ORed in (R345). -/
def State.sigRaise (s : State) (ctx i v : Nat) (err nz : Bool) : State :=
  if i == 0 then s
  else
    let e := s.sigRead ctx i
    let e' := Nat.max (sigValue e) (v % 2 ^ 56) + (e / 2 ^ 56 % 64) * 2 ^ 56
      + (if err || bitAt e 63 then 2 ^ 63 else 0) + (if nz || bitAt e 62 then 2 ^ 62 else 0)
    (s.engineWrite ctx ((s.ctx ctx).desc.sigtab + 8 * i) (pbytes 8 e' false) 3).getD s

/-- Whether a wait {i, v} is satisfied (R346). -/
def State.sigMet (s : State) (ctx w : Nat) : Bool :=
  let i := w / 2 ^ 56
  i == 0 || w % 2 ^ 56 ≤ sigValue (s.sigRead ctx i)

/-! ## Capabilities (R292, R293) -/

/-- The rights of a capability: 45 passes, 46 phase, 47 decompose. -/
def capAllows (c : Word) (ctx right : Nat) (omu : Nat → Bool) (tiles banks : List Nat) : Bool :=
  capCtxOf c == ctx && c.getLsbD right && omu (c.toNat % 128) && tiles.all (fun t => c.getLsbD (7 + t))
    && banks.all fun b => c.getLsbD (23 + b)
where
  /-- CONTEXT. -/
  capCtxOf (c : Word) : Nat := c.toNat / 2 ^ 39 % 64

/-- Whether the check tag is the one the PSC computes over bits [47:0] (R292). -/
def State.capTagOk (s : State) (c : Word) : Bool := c.toNat / 2 ^ 48 == Config.capTag s.boot (c.toNat % 2 ^ 48) % 65536

end Sys2Proof.Machine
end

