-- ==== Sys2Proof/Machine/Flags.lean ====
section
/-! DEFINITION. TFLAGS (R119): the modes an instruction uses (R87 to R89, R91) and the merging of its flags. -/

namespace Sys2Proof.Machine

/-- The rounding mode in force for an instruction's RM field: 0 selects TFLAGS.RM, whose other values round as RNE (R57, R87,
R88). -/
def Thread.mode (t : Thread) (rm : Nat) : Nat :=
  let m := if rm == 0 then t.tflags.toNat % 8 else rm
  if 1 ≤ m && m ≤ 4 then m else 1

/-- TFLAGS.FZ. -/
def Thread.fz (t : Thread) : Bool := t.tflags.getLsbD 3

/-- How an instruction with an RM field and a SAT bit rounds. -/
def Thread.rnd (t : Thread) (rm : Nat) (sat : Bool) : Rnd := { mode := t.mode rm, sat := sat, fz := t.fz }

/-- Merge sticky flags, NV to NX at bits 8 to 4 (R89, R119). -/
def Thread.orFlags (t : Thread) (fl : Nat) : Thread := { t with tflags := t.tflags ||| (BitVec.ofNat 64 fl &&& 0x1F0) }

/-- Merge sticky flags of the current thread. -/
def State.orFlags (s : State) (fl : Nat) : State := s.setThr (s.thr.orFlags fl)

/-- The union of the flags of lanes. -/
def orAll (fs : List Nat) : Nat := fs.foldl (fun a b => a ||| b) 0

end Sys2Proof.Machine
end

