-- ==== Sys2Proof/Machine/Operands.lean ====
section
/-! DEFINITION. The operand forms of scalar instructions: register results with the poison of their sources (R147, R148),
immediates (R152 to R155), floating-point operands (R149), addresses (R219), bit fields (R158, R159), checks of poisoned
operands (R150, R456). -/

namespace Sys2Proof.Machine

/-- Write a result with the poison of the registers read as data (R148). -/
def State.result (s : State) (d : Reg) (srcs : List Reg) (v : Word) : State × Res :=
  (s.setX d v (srcs.any s.xp), .done)

/-- xd := f xa xb (R151). -/
def alu2 (f : Word → Word → Word) (d a b : Reg) (s : State) : State × Res := s.result d [a, b] (f (s.x a) (s.x b))

/-- xd := f xa (R152 to R155, R157). -/
def alu1 (f : Word → Word) (d a : Reg) (s : State) : State × Res := s.result d [a] (f (s.x a))

/-- A result without register sources: no poison (R148). -/
def alu0 (v : Word) (d : Reg) (s : State) : State × Res := s.result d [] v

/-- Raise 0x51 when some of the registers is poisoned (R456), else go on. -/
def State.unlessPoison (s : State) (rs : List Reg) (k : State → State × Res) : State × Res :=
  if rs.any s.xp then (s, .fault 0x51 0 0) else k s

/-- Raise 0x0A in a helper (R123). -/
def State.controlOnly (s : State) (k : State → State × Res) : State × Res :=
  if s.cur.2 == 0 then k s else (s, .fault 0x0A 0 0)

/-- A signed immediate of n bits as a word. -/
def immS {n : Nat} (i : BitVec n) : Word := i.signExtend 64

/-- The address of a base register and a signed offset. -/
def State.addr (s : State) (a : Reg) (off : Word) : Nat := (s.x a + off).toNat

/-- The offset of a bit field given by a register: bits [7:0] (R158). -/
def bfOff (b : Word) : Nat := b.toNat % 256
/-- The width of a bit field given by a register: bits [15:8] (R158). -/
def bfWid (b : Word) : Nat := b.toNat / 256 % 256

/-- The low 32 bits, sign-extended: the result of the w functions (R151). -/
def wordS (v : Word) : Word := v.sext 32

/-- A scalar floating-point operation on codes of type TY: the result zero-extended, flags merged (R149, R161). -/
def State.fpResult (s : State) (d : Reg) (srcs : List Reg) (r : Nat × Nat) : State × Res :=
  ((s.setX d (BitVec.ofNat 64 r.1) (srcs.any s.xp)).orFlags r.2, .done)

/-- The code of a type of width w in a register: its low bits (R149). -/
def State.fpCode (s : State) (f : FF) (a : Reg) : Nat := (s.x a).toNat % 2 ^ f.width

/-- fadd and its like: two operands, rounded in the thread's mode. -/
def fp2 (op : FF → Rnd → Nat → Nat → Nat × Nat) (ty : BitVec 2) (d a b : Reg) (s : State) : State × Res :=
  let f := ffOf (etOfTy ty.toNat)
  s.fpResult d [a, b] (op f (s.thr.rnd 0 false) (s.fpCode f a) (s.fpCode f b))

/-- fsqrt and its like: one operand. -/
def fp1 (op : FF → Rnd → Nat → Nat × Nat) (ty : BitVec 2) (d a : Reg) (s : State) : State × Res :=
  let f := ffOf (etOfTy ty.toNat)
  s.fpResult d [a] (op f (s.thr.rnd 0 false) (s.fpCode f a))

/-- A comparison: 1 or 0 (R164). -/
def fpCmp (op : FF → Bool → Nat → Nat → Bool × Nat) (ty : BitVec 2) (d a b : Reg) (s : State) : State × Res :=
  let f := ffOf (etOfTy ty.toNat)
  let r := op f s.thr.fz (s.fpCode f a) (s.fpCode f b)
  s.fpResult d [a, b] (r.1.toNat, r.2)

/-- Replace the sign of a by g of the signs of a and b (R163). -/
def fpSign (g : Bool → Bool → Bool) (ty : BitVec 2) (d a b : Reg) (s : State) : State × Res :=
  let f := ffOf (etOfTy ty.toNat)
  let x := s.fpCode f a
  let n := g (f.neg x) (f.neg (s.fpCode f b))
  s.fpResult d [a, b] (x % f.signBit + (if n then f.signBit else 0), 0)

/-- A fused multiply-add with negations of the product and of c (R167). -/
def fpFma (np nc : Bool) (ty : BitVec 2) (rm : BitVec 3) (d a b c : Reg) (s : State) : State × Res :=
  let f := ffOf (etOfTy ty.toNat)
  s.fpResult d [a, b, c] (f.fma (s.thr.rnd rm.toNat false) np nc (s.fpCode f a) (s.fpCode f b) (s.fpCode f c))

/-- Conversion to an integer of n = 64 or 32 bits: sign-extended for signed, zero-extended for unsigned (R96, R166). -/
def fpToInt (signed : Bool) (ty : BitVec 2) (d a : Reg) (rm : BitVec 3) (w : Bool) (s : State) : State × Res :=
  let f := ffOf (etOfTy ty.toNat)
  let n := if w then 32 else 64
  let lo : Int := if signed then -(2 ^ (n - 1) : Nat) else 0
  let hi : Int := if signed then (2 ^ (n - 1) : Nat) - 1 else (2 ^ n : Nat) - 1
  let r := f.toInteger (s.thr.mode rm.toNat) s.thr.fz lo hi (s.fpCode f a)
  s.fpResult d [a] (ofInt 64 r.1, r.2)

/-- Conversion from an integer of 64 or 32 bits (R97, R166). -/
def fpOfInt (signed : Bool) (ty : BitVec 2) (d a : Reg) (rm : BitVec 3) (w : Bool) (s : State) : State × Res :=
  let f := ffOf (etOfTy ty.toNat)
  let n := if w then 32 else 64
  let v : Int := if signed then toInt n (s.x a).toNat else ((s.x a).toNat % 2 ^ n : Nat)
  s.fpResult d [a] (f.ofInteger (s.thr.rnd rm.toNat false) v)

end Sys2Proof.Machine
end

