-- ==== Sys2Proof/Machine/Group.lean ====
section
/-! DEFINITION. Groups (R320 to R343): membership, arrivals, exchange lists, releases, imbalance records, broken groups; the
meanings of sync, sarrive, swait, syncv, xsend, xopen, xput and xend, and the Dealer's steps. -/

namespace Sys2Proof.Machine

/-! ## Membership (R321, R322) -/

/-- GMEMn of a task. -/
def Task.gm (k : Task) (n : Nat) : Nat := (AMap.get k.gmem n 0).toNat
/-- V. -/
def gmV (g : Nat) : Bool := bitAt g 63
/-- SIZE. -/
def gmSize (g : Nat) : Nat := g / 2 ^ 42 % 2 ^ 21
/-- RANK. -/
def gmRank (g : Nat) : Nat := g / 2 ^ 21 % 2 ^ 21
/-- GID. -/
def gmGid (g : Nat) : Nat := g % 2 ^ 21

/-- The group of a task at a level. -/
def State.groupOf (s : State) (k : Task) (n : Nat) : Option Group := s.group? k.kid n (gmGid (k.gm n))

/-- The rank of a task in its group at a level. -/
def Task.rankAt (k : Task) (n : Nat) : Nat := gmRank (k.gm n)

/-- The ranks that have arrived at the superstep in progress. -/
def Group.arrived (g : Group) : List Nat := g.arr.map fun a => a.1

/-- Whether every member has arrived or exited (R324, R326). -/
def Group.complete (g : Group) : Bool := g.arr.length + (g.gone.filter fun r => !g.arrived.contains r).length == g.size

/-- The members of this module that have not passed kexit. -/
def Group.liveHere (g : Group) : List (Nat × Nat) := g.members.filter fun m => !g.gone.contains m.2

/-! ## Level-4 messages (R343, R441) -/

/-- The modules of the partition other than this one, of a level-4 group (R352). -/
def State.otherModules (s : State) (g : Group) : List Nat :=
  match s.kernel? g.kid with
  | some k => if k.lrec.group4 == 0 then [] else (List.range (g.size / k.lrec.group4)).filter fun m => m != s.self
  | none => []

/-- A level-4 barrier packet: what it says, the kernel's queue and sequence number (R352), the group, and numbers. The layout of
its data is the model's (log entry 18). -/
def State.sendGroup (s : State) (g : Group) (ty : Nat) (ns : List Nat) : State :=
  match s.kernel? g.kid with
  | none => s
  | some k =>
    let data := ([ty, k.q, k.seq, g.gid] ++ ns).flatMap fun n => leBytes 8 n
    (s.otherModules g).foldl (fun s m =>
      s.sendRemote m (.group g.kid g.level g.gid)
        { (default : Packet) with kind := 7, ctx := k.ctx, expiry := 2 ^ 64 - 1, len := data.length, data := data }) s

/-- Message types of a level-4 barrier packet: an arrival. -/
def gmArrive : Nat := 0
/-- A module has delivered all that it sends in the superstep. -/
def gmDone : Nat := 1
/-- A member has passed kexit. -/
def gmExit : Nat := 2
/-- The kernel's groups are broken. -/
def gmBreak : Nat := 3
/-- A member has been released. -/
def gmFree : Nat := 4

/-! ## Exchange and release -/

/-- Whether some member of this module still has entries to run in the superstep (R336). -/
def State.pendingIn (s : State) (g : Group) : Bool :=
  g.members.any fun m =>
    let k := s.task m.1
    (match (k.thread 0).arrival with | some a => a.level == g.level | none => false) && k.xlist.any fun e => e.step.isSome

/-- Whether a delivery to another module is not answered yet. -/
def State.sentIn (s : State) (g : Group) : Bool :=
  s.remotes.any fun r => r.pkt.kind == 6 && decide (r.who = .group g.kid g.level g.gid)

/-- A module whose deliveries of the superstep are all performed tells the other modules of a level-4 group. -/
def State.groupDone (s : State) (kid n gid : Nat) : State :=
  match s.group? kid n gid with
  | none => s
  | some g =>
    if g.level == 4 && g.st == .exchange && !g.done.contains s.self && !s.pendingIn g && !s.sentIn g then
      (s.setGroup { g with done := natInsert g.done s.self }).sendGroup g gmDone [g.step, s.self, g.own.1, g.own.2]
    else s

/-- A group enters EXCHANGE when every member has arrived or exited; one whose members have all exited dissolves (R324). -/
def State.groupCheck (s : State) (kid n gid : Nat) : State :=
  match s.group? kid n gid with
  | none => s
  | some g =>
    if g.st == .compute && g.gone.length == g.size then s.setGroup { g with st := .dissolved }
    else if (g.st == .compute || g.st == .arriving) && g.complete then
      (s.setGroup { g with st := .exchange }).groupDone kid n gid
    else s

/-- Break every group of a kernel (R341): members that wait in a barrier receive 0x33 there. -/
def State.breakHere (s : State) (kid : Nat) : State :=
  let s := { s with groups := s.groups.map fun (g : Group) =>
    if g.kid == kid && g.st != GState.dissolved then { g with st := .broken } else g }
  let tids := (s.tasks.filter fun (t : Nat × Task) => t.2.kid == kid).map Prod.fst
  tids.foldl (fun s tid =>
    let t := s.thread tid 0
    match t.arrival with
    | none => s
    | some a =>
      if a.split && a.pc != t.pc then s
      else
        let s := s.setThread tid 0 { t with arrival := none }
        match t.st with
        | .waiting (.barrier n) =>
          let w := s.curW
          { ({ s with curW := t.held.getD (0, 0, 0) } : State).takeFault tid 0 0x33 0 0 n 0 with curW := w }
        | .debug => (match t.prior with
          | .waiting (.barrier _) => s.setThread tid 0 { s.thread tid 0 with prior := .ready }
          | _ => s)
        | _ => s) s

/-- Break a kernel's groups here and on the partition's other modules. -/
def State.breakGroups (s : State) (kid : Nat) : State :=
  let g4 := s.groups.find? fun g => g.kid == kid && g.level == 4 && g.st != .broken && g.st != .dissolved
  let s := s.breakHere kid
  match g4 with
  | some g => s.sendGroup g gmBreak []
  | none => s

/-- SSTEP with one more superstep at a level (R323). -/
def sstepAdd (w : Word) (n : Nat) : Word :=
  let f := w.toNat / 2 ^ (16 * (n - 1)) % 65536
  BitVec.ofNat 64 (w.toNat - f * 2 ^ (16 * (n - 1)) + (f + 1) % 65536 * 2 ^ (16 * (n - 1)))

/-- An arrival and the arithmetic of its time (R340): the first and the last one, the core of the last, and the sum of the distances from the
first, in whatever order the arrivals of other modules come. Of two last arrivals in one ns, LASTCORE is that of the one registered later;
DESIGN CHOICE (log entry 127). -/
def Group.addArrival (g : Group) (a : Nat × Nat × Word × Bool × Nat) (modCore : Nat) : Group :=
  let t := a.2.1
  let first := if g.arr.isEmpty then t else min g.first t
  let late := g.arr.isEmpty || g.last ≤ t
  { g with arr := g.arr ++ [a], st := .arriving, first := first, last := if late then t else g.last
           lastCore := if late then modCore else g.lastCore
           sum := g.sum + (g.first - first) * g.arr.length + (t - first) }

/-- Whether an arrival's vote operation differs from that of an earlier one (R329). -/
def Group.mismatch (g : Group) (op : Nat) : Bool := op != 5 && g.arr.any fun a => a.2.2.2.2 != 5 && a.2.2.2.2 != op

/-- Whether the arrivals of a superstep name different vote operations (R329). -/
def Group.mixed (g : Group) : Bool := g.arr.any fun a => g.mismatch a.2.2.2.2

/-- Whether every member that arrived at the superstep has been released from it; one that has exited has been (R324). -/
def Group.allFreed (g : Group) : Bool := g.arr.all fun a => g.freed.contains a.1 || g.gone.contains a.1

/-- The members of this module that have been released from the superstep: their SSTEP counts it, also once they have exited (R324, R505). -/
def Group.steppers (g : Group) : List (Nat × Nat) := g.members.filter fun m => g.freed.contains m.2

/-- When every release of the superstep has taken effect, on every module, the group goes to COMPUTE and counts it (R324). -/
def State.groupFreed (s : State) (kid n gid : Nat) : State :=
  match s.group? kid n gid with
  | none => s
  | some g =>
    if g.st == .releasing && g.allFreed then
      let s := g.steppers.foldl (fun s m => s.setTask m.1 { s.task m.1 with sstep := sstepAdd (s.task m.1).sstep n }) s
      let g' := { g with st := .compute, step := g.step + 1, arr := [], early := [], freed := [], done := [], first := 0,
                         last := 0, sum := 0, bytes := 0, entries := 0, own := (0, 0) }
      let s := s.setGroup ((g.early.filter fun e => !g.gone.contains e.1.1).foldl (fun (g : Group) e => g.addArrival e.1 e.2) g')
      if (s.group? kid n gid).any Group.mixed then s.breakGroups kid else s.groupCheck kid n gid
    else s

/-- The operation of a superstep: that of its syncv arrivals, else add (R330). -/
def Group.voteOp (g : Group) : Nat := ((g.arr.map fun a => a.2.2.2.2).find? fun o => o != 5).getD 0

/-- The identity of a vote operation (R330). -/
def voteIdent (op : Nat) : Word :=
  match op with
  | 1 => BitVec.ofNat 64 (2 ^ 63)
  | 2 => BitVec.ofNat 64 (2 ^ 63 - 1)
  | 4 => BitVec.allOnes 64
  | _ => 0

/-- Combine two votes (R330). -/
def voteStep (op : Nat) (a b : Word) : Word :=
  match op with
  | 0 => a + b
  | 1 => if a.slt b then b else a
  | 2 => if b.slt a then b else a
  | 3 => a ||| b
  | _ => a &&& b

/-- The vote of a superstep and its poison (R330). -/
def Group.reduce (g : Group) : Word × Bool :=
  let op := g.voteOp
  let vs := g.arr.filter fun a => a.2.2.2.2 != 5
  (vs.foldl (fun v a => voteStep op v a.2.2.1) (voteIdent op), vs.any fun a => a.2.2.2.1)

/-- The imbalance record (R340). -/
def Group.record (g : Group) : List PByte :=
  pbytes 8 g.step false ++ pbytes 4 (g.level * 2 ^ 21 + g.gid) false ++ pbytes 2 (g.lastCore % 65536) false
    ++ pbytes 2 (if g.level == 4 then g.lastCore / 65536 else 0) false ++ pbytes 8 g.first false ++ pbytes 8 g.last false
    ++ pbytes 8 (satTo (2 ^ 64 - 1) g.sum) false ++ pbytes 8 g.bytes false ++ pbytes 4 g.entries false ++ pbytes 12 0 false

/-- The Dealer writes the record to the kernel's ring, then WCOUNT (R339, R340); a confidential context needs IMBAL (R389). -/
def State.imbRecord (s : State) (g : Group) : State :=
  match s.kernel? g.kid with
  | none => s
  | some k =>
    let n := k.lrec.imbring % 32
    let base := k.lrec.imbring / 4096 * 4096
    let fl := (s.ctx k.ctx).desc.flags
    if n == 0 || (bitAt fl 0 && !bitAt fl 1) then s
    else
      let w := s.engineNat k.ctx base 8
      ((s.engineWrite k.ctx (base + 64 + 64 * (w % 2 ^ n)) g.record 3).bind fun s =>
        s.engineWrite k.ctx base (pbytes 8 ((w + 1) % 2 ^ 64) false) 3).getD s

/-- R324, R330, R340: a group whose deliveries are all performed enters RELEASING. -/
def State.groupRelease (s : State) (kid n gid : Nat) : State :=
  match s.group? kid n gid with
  | none => s
  | some g =>
    if g.st != .exchange || s.pendingIn g || s.sentIn g
        || (g.level == 4 && !(s.self :: s.otherModules g).all g.done.contains) then s
    else
      let r := g.reduce
      let g := { g with st := .releasing, vote := r.1, votep := r.2, relAt := s.now }
      ((s.setGroup g).imbRecord g).groupFreed kid n gid

/-- The event of R324: a group enters RELEASING. -/
def execGroupEnterReleasing (kid level gid : Nat) (s : State) : Host.Outcome State Fault Refusal :=
  event s fun s => s.groupRelease kid level gid

/-- The delay key of a core (R338). -/
def staggerKey (key core : Nat) : Nat :=
  let c := clusterOf core % 48
  match key with
  | 1 => c % 8
  | 2 => c
  | 3 => core % 16
  | _ => 0

/-- Whether the release of a member can take effect (R330, R338). -/
def State.canRelease (s : State) (tid : Nat) : Bool :=
  let k := s.task tid
  match (k.thread 0).arrival with
  | none => false
  | some a =>
    match s.groupOf k a.level with
    | none => false
    | some g =>
      g.st == .releasing && g.arrived.contains (k.rankAt a.level) && !g.freed.contains (k.rankAt a.level)
        && g.relAt + a.stag.toNat % 256 * staggerKey (a.stag.toNat / 256 % 4) k.core ≤ s.clusterTime k.cluster

/-- A member's release takes effect: its data cache is invalidated, VOTE and the destination are written (R330). -/
def State.releaseMember (s : State) (tid : Nat) (d : Option Reg) : State :=
  let k := s.task tid
  match (k.thread 0).arrival with
  | none => s
  | some a =>
    match s.groupOf k a.level with
    | none => s
    | some g =>
      let t := { k.thread 0 with arrival := none }
      let t := match d with | some r => t.setX r g.vote g.votep | none => t
      let s := s.setTask tid ({ k with vote := g.vote }.setThread 0 t)
      let s := s.dropLines k.core fun _ => true
      let s := if a.level == 4 then s.sendGroup g gmFree [g.step, k.rankAt 4] else s
      (s.setGroup { g with freed := g.freed ++ [k.rankAt a.level] }).groupFreed k.kid a.level g.gid

/-- The destination of a held barrier instruction: syncv has one, in bits [12:8] of its first word. -/
def heldDest (w0 : Nat) : Option Reg := if w0 % 4 == 1 then some (BitVec.ofNat 5 (w0 / 256)) else none

/-- The step of R330: the release of the member on a core takes effect while its control thread waits. -/
def execMemberRelease (core : Nat) (s : State) : Host.Outcome State Fault Refusal :=
  event s fun s =>
    match s.running core with
    | none => s
    | some tid =>
      let t := s.thread tid 0
      match t.st, t.held with
      | .waiting (.barrier _), some w =>
        if s.canRelease tid then (s.releaseMember tid (heldDest w.1)).complete tid 0 (if w.1 % 4 == 1 then 8 else 4) else s
      | _, _ => s

/-! ## Arrivals -/

/-- Register the current task's arrival with the Dealer (R330): entries of the level or below are closed. A member that has been
released arrives at the next superstep while the group still releases the others (R324, R338): that arrival is kept until then. -/
def State.register (s : State) (n : Nat) (split : Bool) (vote : Word) (pois : Bool) (op : Nat) : State :=
  let k := s.tk
  match s.groupOf k n with
  | none => s
  | some g =>
    let now := s.ctime
    let t := s.thr
    let next := g.st == .releasing
    let step := if next then g.step + 1 else g.step
    let arr : Arrival := { level := n, split := split, pc := t.pc, since := now, stag := k.stagger, fault := none }
    let xl := k.xlist.map fun e => if e.level ≤ n && e.step.isNone then { e with step := some step } else e
    let s := s.setTk ({ k with xlist := xl }.setThread s.cur.2 { t with arrival := some arr })
    let a := (k.rankAt n, now, vote, pois, op)
    let at' := s.self * 65536 + k.core
    let s := s.setGroup (if next then { g with early := g.early ++ [(a, at')] } else g.addArrival a at')
    let s := if n == 4 then s.sendGroup g gmArrive [step, a.1, now, vote.toNat, pois.toNat, op, at'] else s
    if next then s
    else if g.mismatch op then s.breakGroups k.kid else s.groupCheck k.kid n g.gid

/-- What a waiting member does: it completes when its release takes effect (R330). -/
def State.awaitRelease (s : State) (n : Nat) (d : Option Reg) : State × Res :=
  if s.canRelease s.cur.1 then (s.releaseMember s.cur.1 d, .done) else (s, .wait (.barrier n))

/-- Checks 1 to 4 of R329, then f. -/
def State.barrierChecks (s : State) (n : Nat) (f : State → State × Res) : State × Res :=
  s.controlOnly fun s =>
    if s.tk.helperLive then (s, .fault 0x30 0 n)
    else if !gmV (s.tk.gm n) then (s, .fault 0x31 0 n)
    else f s

/-- Whether the current task's group at a level is broken or gone. -/
def State.groupBroken (s : State) (n : Nat) : Bool :=
  match s.groupOf s.tk n with
  | some g => g.st == .broken || g.st == .dissolved
  | none => true

/-- An arrival (R329, R330): an arrival instruction that resumes goes on waiting without arriving again (R336). -/
def arrive (n : Nat) (split : Bool) (d : Option Reg) (vote : Word) (pois : Bool) (op : Nat) (s : State) : State × Res :=
  s.barrierChecks n fun s =>
    match s.thr.arrival with
    | some a =>
      if !split && !a.split && a.level == n && a.pc == s.thr.pc then s.awaitRelease n d else (s, .fault 0x01 0 0)
    | none =>
      if s.groupBroken n then (s, .fault 0x33 0 n)
      else s.drainThen s.isMine fun s =>
        let s := s.register n split vote pois op
        if s.groupBroken n then
          ((if split then s else s.setThr { s.thr with arrival := none }), if split then .done else .fault 0x33 0 n)
        else if split then (s, .done)
        else s.awaitRelease n d

/-- R328 to R330: arrives at level n and waits for the release. -/
def execSync (n : BitVec 3) (s : State) : Host.Outcome State Fault Refusal :=
  issue .barred 4 s (arrive n.toNat false none 0 false 5)
/-- R328 to R330: arrives at level n without waiting. -/
def execSarrive (n : BitVec 3) (s : State) : Host.Outcome State Fault Refusal :=
  issue .barred 4 s (arrive n.toNat true none 0 false 5)
/-- R328 to R330: arrives with a vote and waits; a poisoned vote is no fault. -/
def execSyncv (d a : Reg) (n op : BitVec 3) (s : State) : Host.Outcome State Fault Refusal :=
  issue .barred 8 s fun s => arrive n.toNat false (some d) (s.x a) (s.xp a) op.toNat s

/-- A swait of an unmatched sarrive (R329, R336): an exchange fault is delivered here first. -/
def swaitOp (n : Nat) (s : State) : State × Res :=
  s.barrierChecks n fun s =>
    match s.thr.arrival with
    | none => (s, .fault 0x01 0 0)
    | some a =>
      if a.level != n || !(a.split || a.pc == s.thr.pc) then (s, .fault 0x01 0 0)
      else if s.groupBroken n then (s, .fault 0x33 0 n)
      else
        let s := s.setThr { s.thr with arrival := some { a with split := false, pc := s.thr.pc, fault := none } }
        match a.fault with
        | some r => (s, .deliver { slot := 0, ctr := 4, seq := 0, code := r.code, kind := 1, addr := r.addr, info1 := 0, info2 := r.info2 })
        | none => s.awaitRelease n none

/-- R328 to R330: waits for the release of an earlier sarrive. -/
def execSwait (n : BitVec 3) (s : State) : Host.Outcome State Fault Refusal := issue .barred 4 s (swaitOp n.toNat)

/-! ## Exchange lists (R331 to R337) -/

/-- RANK of a destination descriptor (R332). -/
def descRank (v : Word) : Nat := v.toNat % 2 ^ 21
/-- WORD. -/
def descWord (v : Word) : Nat := v.toNat / 2 ^ 32 % 65536

/-- The module that a rank of a level-4 group lies on. -/
def State.rankModule (s : State) (k : Task) (rank : Nat) : Nat :=
  match s.kernel? k.kid with
  | some q => if q.lrec.group4 == 0 then s.self else rank / q.lrec.group4
  | none => s.self

/-- Whether a level-4 receiver's module is unreachable. -/
def State.rankUnreach (s : State) (k : Task) (n rank : Nat) : Bool :=
  n == 4 && s.rankModule k rank != s.self && s.peerUnreach (s.rankModule k rank)

/-- The checks 2 to 7 of R334, which a count of 0 passes: src is the source of an xsend, packet the words of a packet. -/
def State.xCheck (s : State) (n : Nat) (desc : Word) (count : Nat) (src : Option Nat) (packet : Option (List (Word × Bool))) :
    Option (Nat × Nat × Nat) :=
  let k := s.tk
  let g := k.gm n
  let rng := src.bind fun a => s.spanFault a (8 * count)
  let pois := match packet with | some ws => ws.any Prod.snd | none => false
  if count == 0 then none
  else if !gmV g || gmSize g ≤ descRank desc then some (0x31, 0, n)
  else if 65536 < descWord desc + count then some (0x61, 0, 0)
  else if rng.isSome then rng.map fun r => (r.1, r.2, 0)
  else if s.rankUnreach k n (descRank desc) then some (0x40, 0, 0)
  else if n == 4 && pois then some (0x51, 0, 0)
  else if 256 ≤ k.xlist.length || (packet.isSome && 64 ≤ (k.xlist.filter fun e => e.src.isNone).length) then some (0x32, 0, n)
  else none

/-- Add an entry to the core's exchange list; a count of 0 adds nothing (R334). -/
def State.xAdd (s : State) (e : XEntry) : State := if e.count == 0 then s else s.setTk { s.tk with xlist := s.tk.xlist ++ [e] }

/-- R333, R334: queues a send of a source range. -/
def execXsend (a b c : Reg) (n : BitVec 3) (s : State) : Host.Outcome State Fault Refusal :=
  issue .barred 8 s fun s => s.unlessPoison [a, b, c] fun s =>
    let count := (s.x c).toNat
    match s.xCheck n.toNat (s.x b) count (some (s.x a).toNat) none with
    | some (code, addr, i) => (s, .fault code addr i)
    | none => (s.xAdd { level := n.toNat, desc := s.x b, src := some (s.x a), words := [], count := count, moved := 0, step := none }, .done)

/-- R333 to R335: opens a packet. -/
def execXopen (a : Reg) (n : BitVec 3) (s : State) : Host.Outcome State Fault Refusal :=
  issue .barred 8 s fun s => s.unlessPoison [a] fun s =>
    (s.setThr { s.thr with packet := some { desc := s.x a, level := n.toNat, words := [], xopen := s.thr.pc } }, .done)

/-- R333, R335: captures a word of the open packet with its poison; a 17th one raises 0x01. -/
def execXput (a : Reg) (s : State) : Host.Outcome State Fault Refusal :=
  issue .barredPacket 8 s fun s =>
    match s.thr.packet with
    | none => (s, .fault 0x01 0 0)
    | some p =>
      if 16 ≤ p.words.length then (s, .fault 0x01 0 0)
      else (s.setThr { s.thr with packet := some { p with words := p.words ++ [(s.x a, s.xp a)] } }, .done)

/-- R333 to R335: closes the packet and queues its entry. -/
def execXend (s : State) : Host.Outcome State Fault Refusal :=
  issue .barredPacket 8 s fun s =>
    match s.thr.packet with
    | none => (s, .fault 0x01 0 0)
    | some p =>
      match s.xCheck p.level p.desc p.words.length none (some p.words) with
      | some (code, addr, i) => (s, .fault code addr i)
      | none =>
        let s := s.setThr { s.thr with packet := none }
        (s.xAdd { level := p.level, desc := p.desc, src := none, words := p.words, count := p.words.length, moved := 0, step := none }, .done)

/-- The key of an exchange entry's engine reads. -/
def xchgOp : Nat := 2 ^ 78

/-- Word i of an entry: a captured word, or 8 source bytes read now as view bytes (R336). -/
def State.xWord (s : State) (tid : Nat) (e : XEntry) (i : Nat) : State × Got :=
  match e.src with
  | some a => s.engineLoad tid 0 xchgOp ((a.toNat + 8 * i) % 2 ^ 64) 8
  | none =>
    match e.words[i]? with
    | some w => (s, .bytes (pbytes 8 w.1.toNat w.2))
    | none => (s, .bytes (pbytes 8 0 false))

/-- Deliver one word to a member of this module: into its core memory window; a receiver that has exited has none (R326, R336,
R388; log entry 18). A word for a place outside the receiver's footprint, while its core holds two entries, is dropped without a fault, since
R388 gives 0x11 for accesses only; DESIGN CHOICE (log entry 128). -/
def State.xDeliver (s : State) (g : Group) (rank word : Nat) (bs : List PByte) : State :=
  match g.members.find? fun m => m.2 == rank with
  | some m =>
    if g.gone.contains rank || s.cmHole m.1 (8 * word) then s
    else { s with mem := s.mem.write (s.cmOf m.1 (8 * word)) bs }
  | none => s

/-- How a run of an entry ends: words moved, and a fault when there is one. -/
structure XRun where
  moved : Nat
  fault : Option (Nat × Nat)
  out   : List Byte

/-- Run words of an entry of levels 1 to 3 from word i, at most fuel of them: each is delivered as it is read. -/
def State.xRun (s : State) (tid : Nat) (g : Group) (e : XEntry) (i fuel : Nat) : State × XRun :=
  match fuel with
  | 0 => (s, ⟨i, none, []⟩)
  | fuel + 1 =>
    match s.xWord tid e i with
    | (s, .bytes bs) => (s.xDeliver g (descRank e.desc) (descWord e.desc + i) bs).xRun tid g e (i + 1) fuel
    | (s, .wait _) => (s, ⟨i, none, []⟩)
    | (s, .fault c a) => (s, ⟨i, some (c, a), []⟩)

/-- Read the words of a level-4 entry from word i on: all of them, since none leaves the module when one is poisoned (R336, R456). -/
def State.xGather (s : State) (tid : Nat) (e : XEntry) (i fuel : Nat) : State × XRun :=
  match fuel with
  | 0 => (s, ⟨i, none, []⟩)
  | fuel + 1 =>
    match s.xWord tid e i with
    | (s, .bytes bs) =>
      if bs.any PByte.p then (s, ⟨0, some (0x51, 0), []⟩)
      else
        let r := s.xGather tid e (i + 1) fuel
        (r.1, { r.2 with out := bs.map PByte.b ++ r.2.out })
    | (s, .wait _) => (s, ⟨0, none, []⟩)
    | (s, .fault c a) => (s, ⟨0, some (c, a), []⟩)

/-- Send words gathered for another module, at most 512 in a packet (R343, R427); ADDR holds rank and first word (log entry 18). -/
def State.xSend (s : State) (k : Task) (g : Group) (e : XEntry) (word : Nat) (bs : List Byte) (fuel : Nat) : State :=
  match fuel, bs with
  | 0, _ => s
  | _, [] => s
  | fuel + 1, bs =>
    match s.kernel? k.kid with
    | none => s
    | some q =>
      let data := leBytes 8 q.q ++ leBytes 8 q.seq ++ leBytes 8 g.gid ++ bs.take 4064
      let s := s.sendRemote (s.rankModule k (descRank e.desc)) (.group k.kid 4 g.gid)
        { (default : Packet) with kind := 6, ctx := k.ctx, addr := descRank e.desc * 2 ^ 16 + word, expiry := 2 ^ 64 - 1,
                                  len := data.length, data := data }
      s.xSend k g e (word + 508) (bs.drop 4064) fuel

/-- Write words from a packet. -/
def State.xWords (s : State) (g : Group) (rank word : Nat) (bs : List Byte) (fuel : Nat) : State :=
  match fuel, bs with
  | 0, _ => s
  | _, [] => s
  | fuel + 1, bs => (s.xDeliver g rank word ((bs.take 8).map fun b => ⟨b, false⟩)).xWords g rank (word + 1) (bs.drop 8) fuel

/-- Run a level-4 entry: its words go to their member, here or on another module, once all are read. -/
def State.xFar (s : State) (tid : Nat) (g : Group) (e : XEntry) : State × XRun :=
  let r := s.xGather tid e 0 e.count
  if r.2.moved != e.count then (r.1, { r.2 with out := [] })
  else
    let k := r.1.task tid
    if r.1.rankModule k (descRank e.desc) != r.1.self then (r.1.xSend k g e (descWord e.desc) r.2.out 130, r.2)
    else (r.1.xWords g (descRank e.desc) (descWord e.desc) r.2.out e.count, r.2)

/-- Count what a run delivered in the group that runs the superstep. -/
def State.xCount (s : State) (kid n gid words entries : Nat) : State :=
  match s.group? kid n gid with
  | some g => s.setGroup { g with
      bytes := g.bytes + 8 * words, entries := g.entries + entries, own := (g.own.1 + 8 * words, g.own.2 + entries) }
  | none => s

/-- A fault of an entry: the sender is stopped at its arrival instruction, or the fault waits for its swait (R336). -/
def State.xFault (s : State) (tid : Nat) (a : Arrival) (code addr moved : Nat) : State :=
  let t := s.thread tid 0
  if a.split then
    let r := s.faultRec tid 0 t code 1 addr 0 moved
    s.setThread tid 0 { t with arrival := some { a with fault := some r } }
  else
    let w := s.curW
    { ({ s with curW := t.held.getD (0, 0, 0) } : State).takeFault tid 0 code 1 addr 0 moved with curW := w }

/-- Whether a sender's list may run: it waits at its arrival instruction, or runs on after a sarrive without a fault (R336). -/
def Thread.senderReady (t : Thread) (a : Arrival) : Bool :=
  if a.split then a.fault.isNone
  else match t.st with
    | .waiting (.barrier _) => true
    | .debug => (match t.prior with | .waiting (.barrier _) => true | _ => false)
    | _ => false

/-- The entry that a task runs next, with its arrival, the group whose superstep it belongs to and its own (R336): in list order, a level-4
one once the deliveries sent before are acknowledged, since packets overtake each other (R437) and of one sender's entries the later wins. -/
def State.nextEntry (s : State) (tid : Nat) : Option (Arrival × XEntry × Group × Group) :=
  let k := s.task tid
  match (k.thread 0).arrival, k.xlist.find? (fun e => e.step.isSome) with
  | some a, some e =>
    match s.groupOf k a.level, s.groupOf k e.level with
    | some top, some g =>
      if top.st == .exchange && (k.thread 0).senderReady a && !(e.level == 4 && s.sentIn g) then some (a, e, top, g) else none
    | _, _ => none
  | _, _ => none

/-- Run the first entry of a task's list in its superstep (R336). -/
def State.exchange (s : State) (tid : Nat) : State :=
  let k := s.task tid
  match s.nextEntry tid with
  | none => s
  | some (a, e, top, g) =>
    let r := if e.level == 4 then s.xFar tid g e else s.xRun tid g e e.moved (e.count - e.moved)
    let s := r.1
    let fin := r.2.moved == e.count
    let k := s.task tid
    let xl := if fin then k.xlist.erase e else k.xlist.replace e { e with moved := r.2.moved }
    let s := s.setTask tid { k with xlist := xl }
    let s := s.xCount k.kid a.level top.gid (r.2.moved - e.moved) (if fin then 1 else 0)
    let s := if fin || r.2.fault.isSome then s.forget tid xchgOp else s
    let s := match r.2.fault with
      | some (c, b) => s.xFault tid a c b r.2.moved
      | none => s
    s.groupDone k.kid a.level top.gid

/-- The tasks that a core holds: running, or saved on it. -/
def State.tasksOn (s : State) (core : Nat) : List Nat :=
  let c := s.core core
  c.run.toList ++ (c.ptask.toList ++ c.stask.toList).filter fun t => !decide (c.run = some t)

/-- The tasks of a core that are senders with an entry to run now: the one on it, and those that have left it, swapped there or to FRAME
(R387). -/
def State.senders (s : State) (core : Nat) : List Nat :=
  ((s.core core).run.toList ++ (s.tasks.filter fun (t : Nat × Task) => t.2.core == core && !t.2.onCore && t.2.alive).map Prod.fst).filter fun t =>
    (s.nextEntry t).isSome

/-- R336: a core's cluster memory engine runs the next entry of the exchange list of each of its senders. -/
def execExchangeEntryRun (core : Nat) (s : State) : Host.Outcome State Fault Refusal :=
  event s fun s => (s.senders core).foldl State.exchange s

/-! ## Exits, conflicts and losses -/

/-- A member passes kexit: it counts as arrived from now on (R326). -/
def State.memberExit (s : State) (tid : Nat) : State :=
  let k := s.task tid
  [1, 2, 3, 4].foldl (fun s n =>
    match s.groupOf k n with
    | none => s
    | some g =>
      if !gmV (k.gm n) || g.st == .dissolved then s
      else
        let s := s.setGroup { g with gone := natInsert g.gone (k.rankAt n) }
        let s := if n == 4 then s.sendGroup g gmExit [k.rankAt n] else s
        (s.groupCheck k.kid n g.gid).groupFreed k.kid n g.gid) s

/-- The level at which a control thread waits in a barrier. -/
def Thread.barrierLevel (t : Thread) : Option Nat :=
  match t.st with
  | .waiting (.barrier n) => some n
  | .debug => (match t.prior with | .waiting (.barrier n) => some n | _ => none)
  | _ => none

/-- Whether two tasks belong to one group at a level that still gathers its arrivals. -/
def State.gathers (s : State) (a b n : Nat) : Bool :=
  let x := (s.task a).gm n
  let y := (s.task b).gm n
  gmV x && gmV y && gmGid x == gmGid y && (match s.groupOf (s.task a) n with
    | some g => g.st == .compute || g.st == .arriving
    | none => false)

/-- Whether two members of one group wait in barriers of different levels, to both of whose groups both belong and which gather their
arrivals: neither can complete (R327). -/
def State.levelConflict (s : State) (kid : Nat) : Bool :=
  s.groups.any fun g => g.kid == kid && g.st != .broken && g.st != .dissolved &&
    g.members.any fun a => g.members.any fun b =>
      match (s.thread a.1 0).barrierLevel, (s.thread b.1 0).barrierLevel with
      | some x, some y => x != y && s.gathers a.1 b.1 x && s.gathers a.1 b.1 y
      | _, _ => false

/-- R327: the Dealer finds a level conflict and breaks the kernel's groups. -/
def execLevelConflictDetect (kid : Nat) (s : State) : Host.Outcome State Fault Refusal :=
  event s fun s => if s.levelConflict kid then s.breakGroups kid else s

/-- R343: a member module of a level-4 group is lost; every group of the kernel breaks. -/
def execPeerLoss (kid : Nat) (s : State) : Host.Outcome State Fault Refusal :=
  event s fun s => if s.groups.any fun g => g.kid == kid && g.level == 4 then s.breakGroups kid else s

/-! ## Messages of other modules -/

/-- The kernel of a context that another module names by queue and accepted sequence number (R352). -/
def State.kernelOf (s : State) (ctx q seq : Nat) : Option Kernel := s.kernels.find? fun k => k.ctx == ctx && k.q == q && k.seq == seq

/-- Number i of a message's data. -/
def msgNat (bs : List Byte) (i : Nat) : Nat := leNat ((bs.drop (8 * i)).take 8)

/-- The level-4 group that a barrier packet names: its kernel's by queue and sequence number, if that is formed here. -/
def State.groupNamed (s : State) (p : Packet) : Option Group :=
  (s.kernelOf p.ctx (msgNat p.data 1) (msgNat p.data 2)).bind fun k => s.group? k.kid 4 (msgNat p.data 3)

/-- Whether the group that a barrier packet names may still be formed here: its kernel has not been accepted yet, or has not been bound. -/
def State.groupToCome (s : State) (p : Packet) : Bool :=
  match s.kernelOf p.ctx (msgNat p.data 1) (msgNat p.data 2) with
  | some k => k.st == .queued || k.st == .eligible
  | none => (s.ctx p.ctx).st == .active || (s.ctx p.ctx).st == .suspended

/-- What a barrier packet does to the group that it names (R343): a broken or dissolved group takes no arrival (R324, R341). -/
def State.groupTake (s : State) (g : Group) (w : Nat → Nat) : State :=
  match w 0 with
  | 0 =>
    let a := (w 5, w 6, BitVec.ofNat 64 (w 7), w 8 == 1, w 9)
    if g.st == .broken || g.st == .dissolved then s
    else if w 4 == g.step then
      let s := s.setGroup (g.addArrival a (w 10))
      if g.mismatch (w 9) then s.breakGroups g.kid else s.groupCheck g.kid 4 g.gid
    else if w 4 == g.step + 1 then s.setGroup { g with early := g.early ++ [(a, w 10)] }
    else s
  | 1 =>
    if w 4 == g.step then
      s.setGroup { g with done := natInsert g.done (w 5), bytes := g.bytes + w 6, entries := g.entries + w 7 }
    else s
  | 2 => ((s.setGroup { g with gone := natInsert g.gone (w 4) }).groupCheck g.kid 4 g.gid).groupFreed g.kid 4 g.gid
  | 4 => if w 4 == g.step then (s.setGroup { g with freed := natInsert g.freed (w 5) }).groupFreed g.kid 4 g.gid else s
  | _ => s.breakHere g.kid

/-- A level-4 barrier packet arrives (R343); one for a group that is to be formed here yet is kept until then. -/
def State.groupMsg (s : State) (p : Packet) : State :=
  match s.groupNamed p with
  | some g => s.groupTake g (msgNat p.data)
  | none => if s.groupToCome p then { s with groupWait := s.groupWait ++ [p] } else s

/-- The barrier packets that came before their group was formed take effect, in the order in which they came. -/
def State.groupLate (s : State) : State :=
  (s.groupWait.filter fun p => (s.groupNamed p).isSome).foldl State.groupMsg
    { s with groupWait := s.groupWait.filter fun p => (s.groupNamed p).isNone && s.groupToCome p }

/-- A level-4 exchange delivery arrives (R336, R343). -/
def State.exchangeMsg (s : State) (p : Packet) : State :=
  match s.kernelOf p.ctx (msgNat p.data 0) (msgNat p.data 1) with
  | none => s
  | some k =>
    match s.group? k.kid 4 (msgNat p.data 2) with
    | some g => if g.st == .broken then s else s.xWords g (p.addr / 65536) (p.addr % 65536) (p.data.drop 24) 512
    | none => s

end Sys2Proof.Machine
end

