-- ==== Sys2Proof/Machine/Kernel.lean ====
section
/-! DEFINITION. Launch queues and kernels up to their binding (R344 to R354, R364 to R367): launch records and their checks,
doorbells, acceptance, eligibility, the end of a kernel; the meanings of klaunch, kquery and ksignal, and the device's steps. -/

namespace Sys2Proof.Machine

/-! ## Launch records (R350 to R352) -/

/-- The unsigned field of n bytes at offset o of a record. -/
def fieldAt (bs : List Byte) (o n : Nat) : Nat := leNat ((bs.drop o).take n)

/-- The launch record in 128 bytes (R350). -/
def LaunchRec.ofBytes (bs : List Byte) : LaunchRec :=
  let f := fieldAt bs
  { code := f 0x00 8, entry := f 0x08 4, flags := f 0x0C 4, args := f 0x10 8, cores := f 0x18 4, helpers := f 0x1C 1,
    prio := f 0x1D 1, rights := f 0x1E 1, audit := f 0x1F 1, group1 := f 0x20 4, group2 := f 0x24 4, group3 := f 0x28 4,
    group4 := f 0x2C 4, omureq := f 0x30 12, cmsize := f 0x3C 2, stack := f 0x3E 2,
    waits := [f 0x40 8, f 0x48 8, f 0x50 8, f 0x58 8], signal := f 0x60 8, trap := f 0x68 8, handles := f 0x70 8,
    imbring := f 0x78 8 }

/-- USESMATRIX. -/
def LaunchRec.matrix (r : LaunchRec) : Bool := bitAt r.flags 0
/-- OMUANY. -/
def LaunchRec.omuAny (r : LaunchRec) : Bool := bitAt r.flags 1
/-- CONFIDENTIAL. -/
def LaunchRec.conf (r : LaunchRec) : Bool := bitAt r.flags 2
/-- The priority. -/
def LaunchRec.priority (r : LaunchRec) : Nat := r.prio % 4
/-- The audit class. -/
def LaunchRec.auditClass (r : LaunchRec) : Nat := r.audit % 4
/-- The group sizes by level. -/
def LaunchRec.groups (r : LaunchRec) : List Nat := [r.group1, r.group2, r.group3, r.group4]
/-- The clusters that OMUREQ names, ascending. -/
def LaunchRec.omus (r : LaunchRec) : List Nat := (List.range 96).filter fun c => bitAt r.omureq c

/-- A group shape is valid (R352). -/
def LaunchRec.shapeOk (r : LaunchRec) : Bool :=
  (r.groups.all fun g => g == 0 || r.cores % g == 0)
    && ([(r.group1, r.group2), (r.group1, r.group3), (r.group1, r.group4), (r.group2, r.group3), (r.group2, r.group4),
         (r.group3, r.group4)].all fun p => p.1 == 0 || p.2 == 0 || p.2 % p.1 == 0)
    && r.group1 ≤ 16 && r.group2 ≤ 768 && r.group3 ≤ 1536

/-- The cores of the module that are enabled and not withdrawn. -/
def State.coreCount (s : State) : Nat := 16 * ((List.range 96).filter s.clusterOk).length

/-- A record is invalid (R351): for a context, with a priority cap and the attached generation that the launch would have. -/
def State.recInvalid (s : State) (ctx cap gen : Nat) (r : LaunchRec) : Bool :=
  let logn := r.imbring % 32
  let f := if r.trap == 0 then 0 else 6144
  8 ≤ r.flags || 4 ≤ r.prio || 8 ≤ r.rights || bits r.audit 3 2 != 0 || r.auditClass == 3 || bits r.imbring 11 5 != 0
    || r.code % 32 != 0 || r.entry % 4 != 0 || r.trap % 4 != 0
    || r.cores == 0 || s.coreCount < r.cores
    || 15 < r.helpers || cap < r.prio
    || 524288 < r.cmsize * 1024 + f + (r.helpers + 1) * 16 * r.stack
    || (1 ≤ logn && logn ≤ 5) || 21 ≤ logn
    || !r.shapeOk
    || (!r.matrix && (r.rights != 0 || r.omuAny || r.omureq != 0))
    || (r.matrix && r.rights == 0)
    || (r.omuAny && r.omureq != 0)
    || 8 < r.omus.length || (r.omus.any fun c => !s.omuFused c || s.wdmap.getLsbD (96 + c))
    || r.conf != bitAt (s.ctx ctx).desc.flags 0
    || ((r.signal :: r.waits).any fun w => w / 2 ^ 56 == 0 && w != 0)
    || 7 < gen

/-! ## Audits (R367) -/

/-- Bytes of an element of a comparison class (R460). -/
def classBytes (c : Nat) : Nat :=
  match c with
  | 0 => 1
  | 2 => 2
  | _ => 4

/-- The regions of an audit block: base, length, kind; none when it is malformed (R367, R460). -/
def State.auditBlock (s : State) (ctx args : Nat) : Option (List (Nat × Nat × Nat)) :=
  match s.engineRead ctx args 8 3 with
  | none => none
  | some h =>
    let n := leNat (h.map PByte.b)
    if n == 0 || 8 < n then none
    else
      match s.engineRead ctx (args + 8) (24 * n) 3 with
      | none => none
      | some bs =>
        let b := bs.map PByte.b
        let rs := (List.range n).map fun i => (fieldAt b (24 * i) 8, fieldAt b (24 * i + 8) 8, fieldAt b (24 * i + 16) 8)
        if rs.all (fun r => r.2.2 / 256 == 0 && bits r.2.2 3 1 == 0 && r.2.2 / 16 ≤ 5 && r.2.1 % classBytes (r.2.2 / 16) == 0)
        then some rs else none

/-- Whether an audit block cannot be read for now: the launch waits, as it does for its record. -/
def State.auditWaits (s : State) (ctx args : Nat) : Bool :=
  s.rangeWaits ctx args 8 ||
    (let n := s.engineNat ctx args 8
     n != 0 && n ≤ 8 && s.rangeWaits ctx (args + 8) (24 * n))

/-- Whether the next audited launch of a queue with this record is selected for a replay (R367). -/
def Queue.selects (q : Queue) (r : LaunchRec) : Bool := r.auditClass != 0 && (q.audit + 1) % 2 ^ (r.audit / 16) == 0

/-- A queue of a context, if the host driver has registered it (R347). -/
def Context.queue? (c : Context) (q : Nat) : Option Queue := AMap.find? c.queues q

/-- Whether a record is refused with 0x70 (R351, R352, R367). A queue that is not registered sets no cap. -/
def State.refuses (s : State) (ctx q gen : Nat) (r : LaunchRec) : Bool :=
  match (s.ctx ctx).queue? q with
  | none => s.recInvalid ctx 3 gen r
  | some k => s.recInvalid ctx k.cap gen r || (k.selects r && (s.auditBlock ctx r.args).isNone)

/-- Whether the MGC cannot tell yet whether a record is refused: it is selected, and its audit block cannot be read for now (R367). -/
def State.refusalWaits (s : State) (ctx q gen : Nat) (r : LaunchRec) : Bool :=
  match (s.ctx ctx).queue? q with
  | none => false
  | some k => !s.recInvalid ctx k.cap gen r && k.selects r && s.auditWaits ctx r.args

/-! ## Acceptance (R349, R353) -/

/-- A kernel that has not ended for good: the low bits of its number are taken (R289, R353). -/
def Kernel.live (k : Kernel) : Bool := !k.signalled

/-- A kernel number that no live kernel shares bits [15:0] with, from n on. -/
def freshKid (ks : List Kernel) (n fuel : Nat) : Nat :=
  match fuel with
  | 0 => n
  | fuel + 1 => if ks.any (fun k => (k.live && k.kid % 65536 == n % 65536) || k.kid == n) || n == 0
                then freshKid ks ((n + 1) % 2 ^ 32) fuel else n

/-- Add a kernel in state QUEUED, with a fresh number. -/
def State.addKernel (s : State) (k : Kernel) : State × Nat :=
  let n := freshKid s.kernels s.nextKid (s.kernels.length + 2)
  ({ s with kernels := s.kernels ++ [{ k with kid := n }], nextKid := (n + 1) % 2 ^ 32 }, n)

/-- The mailbox to the MGCs of the partition's other modules. -/
def toPeers : Nat := 3

/-- To them: a record with GROUP4 is accepted (R352). -/
def msgAccepted : Nat := 24

/-- Accept a record into a queue's sequence: the audit counter counts it, a device launch takes a companion entry. -/
def State.accept (s : State) (ctx q : Nat) (r : LaunchRec) (device : Bool) (parent : Option (Nat × Nat)) (gen qrec : Nat) :
    State × Nat :=
  let c := s.ctx ctx
  match c.queue? q with
  | none => (s, 0)
  | some k =>
    let sel := k.selects r
    let cnt := if r.auditClass == 0 then k.audit else (k.audit + 1) % 2 ^ 32
    let (s, kid) := s.addKernel
      { kid := 0, ctx := ctx, q := q, seq := k.seq, qrec := qrec, lrec := r, st := .queued, device := device, gen := gen,
        parent := parent, attached := parent.isSome, auditCnt := cnt, selected := sel, replay := none, replayOf := none,
        eligAt := 0, exit := 0, startedTasks := [], exitedTasks := [], bound := [], signalled := false, regions := [],
        enobMin := 255, usage := [0, 0, 0] }
    let k := { k with seq := k.seq + 1, audit := cnt, comp := if device then k.comp ++ [kid] else k.comp }
    let s := s.setCtx ctx { s.ctx ctx with queues := AMap.put (s.ctx ctx).queues q k }
    (if r.group4 == 0 then s else s.send toPeers msgAccepted [ctx, q, k.seq - 1], kid)

/-- Replace a queue of a context. -/
def State.setQueue (s : State) (ctx q : Nat) (k : Queue) : State :=
  let c := s.ctx ctx
  s.setCtx ctx { c with queues := AMap.put c.queues q k }

/-- A record that names no thread (R377): kinds 3 to 5. -/
def State.noteRec (s : State) (code kind kid info1 info2 : Nat) : FaultRec :=
  { code := code, kind := kind, slot := 0xFF, flags := 0, core := 0xFFFF, action := 0, ctime := s.now, kid := kid, w0 := 0,
    pc := 0, addr := 0, info1 := info1, info2 := info2 }

/-- A doorbell write: a value below TAIL is ignored; one beyond the ring is ignored with 0x71 in the fault ring; in containment none is
taken (R348, R464). -/
def State.doorbell (s : State) (ctx q tail : Nat) : State :=
  let tail := tail % 2 ^ 64
  match (s.ctx ctx).queue? q with
  | none => s
  | some k =>
    if s.contained || tail < k.tail then s
    else if 2 ^ k.logq < tail - k.head then s.ringPut ctx (s.noteRec 0x71 3 0 q tail)
    else s.setQueue ctx q { k with tail := tail }

/-- R348: a doorbell write. -/
def execDoorbellWrite (ctx q tail : Nat) (s : State) : Host.Outcome State Fault Refusal := event s fun s => s.doorbell ctx q tail

/-- R348, R351: the device takes the next record of a host queue: it is accepted, or refused with 0x70 in the fault ring; HEAD
rises either way. -/
def execLaunchRecordTake (ctx q : Nat) (s : State) : Host.Outcome State Fault Refusal :=
  event s fun s =>
    match (s.ctx ctx).queue? q with
    | none => s
    | some k =>
      if (s.ctx ctx).st != .active || k.tail ≤ k.head then s
      else
        match s.engineRead ctx (k.ring + 128 + 128 * (k.head % 2 ^ k.logq)) 128 3 with
        | none => s
        | some bs =>
          let r := LaunchRec.ofBytes (bs.map PByte.b)
          let bad := s.refuses ctx q 0 r
          if s.refusalWaits ctx q 0 r then s
          else match (s.setQueue ctx q { k with head := k.head + 1 }).engineWrite ctx k.ring (pbytes 8 (k.head + 1) false) 3 with
          | none => s
          | some s => if bad then s.ringPut ctx (s.noteRec 0x70 3 0 q k.head) else (s.accept ctx q r false none 0 k.head).1

/-! ## Leaving QUEUED, and the end of a kernel (R353, R354) -/

/-- Whether every earlier accepted kernel of the same queue has left QUEUED. -/
def State.firstQueued (s : State) (k : Kernel) : Bool :=
  !s.kernels.any fun j => j.ctx == k.ctx && j.q == k.q && j.replayOf.isNone && j.seq < k.seq && j.st == .queued

/-- Whether a wait's timeline has ERR. -/
def State.waitErr (s : State) (k : Kernel) : Bool :=
  k.lrec.waits.any fun w => w / 2 ^ 56 != 0 && sigErr (s.sigRead k.ctx (w / 2 ^ 56))

/-- A launch leaves QUEUED: its companion entry is free (R349). -/
def State.leaveQueue (s : State) (k : Kernel) : State :=
  match (s.ctx k.ctx).queue? k.q with
  | none => s
  | some q => s.setQueue k.ctx k.q { q with comp := q.comp.filter fun n => n != k.kid }

/-- A message to the host with the counts of a confidential context's kernel (R389). -/
def msgUsage : Nat := 3

/-- Whether a kernel's SIGNAL entry can be written now (R345). -/
def State.signalOpen (s : State) (k : Kernel) : Bool := (s.sigWait k.ctx (k.lrec.signal / 2 ^ 56) .atomic).isNone

/-- A kernel ends COMPLETE or FAULTED (R353, R354): SIGNAL is raised with ERR and NZ, the completion record is written, an attached
launch of the parent retires. -/
def State.endKernel (s : State) (k : Kernel) (faulted : Bool) : State :=
  let s := s.setKernel { k with st := if faulted then .faulted else .complete, signalled := true }
  let s := s.sigRaise k.ctx (k.lrec.signal / 2 ^ 56) (k.lrec.signal % 2 ^ 56) faulted (k.exit != 0)
  let s := s.ringPut k.ctx (s.noteRec 0 4 k.kid k.exit (if faulted then 1 else 0))
  let s := if k.lrec.conf then s.send 0 msgUsage (k.ctx :: k.usage.map fun n => n / 2 ^ 20) else s
  match k.parent with
  | some (tid, n) => s.retire tid 3 n
  | none => s

/-- R353: a queued kernel whose waits are met becomes ELIGIBLE, after every earlier kernel of its queue. -/
def execKernelEligible (kid : Nat) (s : State) : Host.Outcome State Fault Refusal :=
  event s fun s =>
    match s.kernel? kid with
    | none => s
    | some k =>
      if k.st == .queued && s.firstQueued k && !s.waitErr k && k.lrec.waits.all (s.sigMet k.ctx) then
        (s.leaveQueue k).setKernel { k with st := .eligible, eligAt := s.now }
      else s

/-- R353: a queued kernel that waits on a timeline with ERR ends FAULTED; no task starts. -/
def execKernelDependenceFault (kid : Nat) (s : State) : Host.Outcome State Fault Refusal :=
  event s fun s =>
    match s.kernel? kid with
    | none => s
    | some k => if k.st == .queued && s.firstQueued k && s.waitErr k && s.signalOpen k then (s.leaveQueue k).endKernel k true else s

/-! ## KLCH (R364 to R366) -/

/-- The key of a klaunch's engine reads. -/
def klaunchOp : Nat := 2 ^ 77

/-- klaunch up to the MGC's answer (R365): the record is read as a copy unit reads it, and kept with the thread. -/
def klaunchRead (a : Reg) (s : State) : State × Res :=
  let v := (s.x a).toNat
  match s.thr.st, s.thr.answer with
  | .waiting .mgc, some _ => (s, .wait .mgc)
  | _, _ =>
    if v % 128 != 0 then (s, .fault 0x70 0 0)
    else Got.bind (s.engineLoad s.cur.1 s.cur.2 (klaunchOp + s.cur.2) v 128) fun s bs =>
      let s := s.forget s.cur.1 (klaunchOp + s.cur.2)
      (s.setThr { s.thr with answer := some (.bytes bs) }, .wait .mgc)

/-- R365: launches the kernel of the record at xa into queue q. -/
def execKlaunch (_d a : Reg) (_q : BitVec 4) (_detach : Bool) (s : State) : Host.Outcome State Fault Refusal :=
  issue .barred 8 s fun s => s.unlessPoison [a] (klaunchRead a)

/-- The generation that a launch of a task has: one above its kernel's when attached (R365). -/
def State.childGen (s : State) (k : Task) (detach : Bool) : Nat :=
  if detach then 0 else match s.kernel? k.kid with | some p => p.gen + 1 | none => 1

/-- The MGC answers the klaunch that a thread waits in (R365). -/
def State.klaunchAnswer (s : State) (tid slot : Nat) : State :=
  let k := s.task tid
  let t := k.thread slot
  match t.st, t.answer, t.held with
  | .waiting .mgc, some (.bytes bs), some (w0, w1, _) =>
    let q := w1 % 16
    let detach := bitAt w1 4
    let gen := s.childGen k detach
    let r := LaunchRec.ofBytes (bs.map PByte.b)
    if s.refusalWaits k.ctx q gen r then s
    else if s.refuses k.ctx q gen r then s.faultHeld tid slot 0x70 0 0 0 0
    else
      match (s.ctx k.ctx).queue? q with
      | none => s.faultHeld tid slot 0x71 0 0 0 0
      | some qd =>
        if 64 ≤ qd.comp.length then s.faultHeld tid slot 0x71 0 0 0 0
        else
          let cur := s.cur
          let (s, n) := ({ s with cur := (tid, slot) } : State).issueOp 3
          let s := { s with cur := cur }
          let s := (s.accept k.ctx q r true (if detach then none else some (tid, n)) gen n).1
          let s := if detach then s.retire tid 3 n else s
          let t := s.thread tid slot
          (s.setThread tid slot (t.setX (BitVec.ofNat 5 (w0 / 256)) (BitVec.ofNat 64 n) false)).complete tid slot 8
  | _, _, _ => s

/-- R365: the MGC answers a klaunch. -/
def execKlaunchMgcAnswer (core slot : Nat) (s : State) : Host.Outcome State Fault Refusal :=
  event s fun s =>
    match s.running core with
    | none => s
    | some tid => s.klaunchAnswer tid slot

/-- R366: reads an entry of the signal table at its home. -/
def execKquery (d a : Reg) (s : State) : Host.Outcome State Fault Refusal :=
  issue .barred 8 s fun s => s.unlessPoison [a] fun s =>
    match s.sigWait s.tk.ctx ((s.x a).toNat % 256) .load with
    | some w => (s, .wait w)
    | none => (s.setX d (BitVec.ofNat 64 (s.sigRead s.tk.ctx ((s.x a).toNat % 256))) false, .done)

/-- R366: drains the write-through buffer, then raises a signal timeline; entry 0 only drains. It is none of the drain points that
deliver (R528). -/
def execKsignal (a b : Reg) (s : State) : Host.Outcome State Fault Refusal :=
  issue .barred 8 s fun s => s.unlessPoison [a, b] fun s => s.drainThen (fun _ => false) fun s =>
    match s.sigWait s.tk.ctx ((s.x a).toNat % 256) .atomic with
    | some w => (s, .wait w)
    | none => (s.sigRaise s.tk.ctx ((s.x a).toNat % 256) ((s.x b).toNat % 2 ^ 56) false false, .done)

end Sys2Proof.Machine
end

