-- ==== Sys2Proof/Machine/Memx.lean ====
section
/-! DEFINITION. Synchronisation objects (R229 to R235, R271): their state at the home, and the meanings of acq, tryacq, rel, bind
and unbind. -/

namespace Sys2Proof.Machine

/-- An 8-byte field of an object at its home. -/
def State.objField (s : State) (key f : Nat) : Nat := leNat ((s.mem.read (key + f) 8).map PByte.b)

/-- Write an 8-byte field of an object at its home, which first drops the line's replicas (R226). -/
def State.setObjField (s : State) (key f v : Nat) : State :=
  { s.dropReplicas [(key + f) / 128] with mem := s.mem.write (key + f) (pbytes 8 v false) }

/-- The object at a key. -/
def State.objAt (s : State) (key va ctx : Nat) : SyncObj :=
  (s.objs.find? fun o => o.key == key).getD { key := key, va := BitVec.ofNat 64 va, ctx := ctx, holders := [], queue := [] }

/-- STATE as its layout gives it (R229): the exclusive holder's core and slot, shared holders, queued requests. -/
def State.objWord (s : State) (o : SyncObj) : Nat :=
  let ex := o.holders.find? fun h => h.2.2
  let sh := (o.holders.filter fun h => !h.2.2).length
  (match ex with
    | some h => 2 ^ 63 + (s.task h.1).core * 2 ^ 16 + h.2.1 * 2 ^ 12
    | none => 0) + sh * 2 ^ 40 + satTo 255 o.queue.length * 2 ^ 32

/-- Keep an object and write its STATE at the home. -/
def State.setObj (s : State) (o : SyncObj) : State :=
  let s := { s with objs := (s.objs.filter fun (p : SyncObj) => p.key != o.key) ++ [o] }
  s.setObjField o.key 0 (s.objWord o)

/-- The non-empty ranges of an object: base and length (R229). -/
def State.objRanges (s : State) (key : Nat) : List (Nat × Nat) :=
  ([0, 1, 2].map fun j => (s.objField key (0x10 + 16 * j), s.objField key (0x18 + 16 * j))).filter fun r => r.2 != 0

/-- A grant invalidates, in the acquiring core, every line that overlaps a bound range (R232). -/
def State.grantTo (s : State) (o : SyncObj) (tid : Nat) : State :=
  let rs := s.objRanges o.key
  let k := s.task tid
  s.dropLines k.core fun l => l.ctx == k.ctx && rs.any fun r => rangesMeet r.1 r.2 (l.va * 128) 128

/-- Whether a request can be granted now: exclusive when nobody holds the object, shared when no exclusive holder does (R232). -/
def SyncObj.free (o : SyncObj) (excl : Bool) : Bool := if excl then o.holders.isEmpty else !o.holders.any fun h => h.2.2

/-- Grant waiting requests in arrival order while the first can be granted; their threads complete (R232). fuel bounds them. -/
def State.grantQueued (s : State) (o : SyncObj) (fuel : Nat) : State :=
  match fuel, o.queue with
  | 0, _ => s.setObj o
  | _, [] => s.setObj o
  | fuel + 1, r :: q =>
    if o.free r.2.2 then
      let o := { o with holders := o.holders ++ [r], queue := q }
      ((s.grantTo o r.1).complete r.1 r.2.1 4).grantQueued o fuel
    else s.setObj o

/-- Withdraw the queued requests for which f holds (R385), as those of a thread that a fault stops in its acq: it requests again when it
executes the acq again (R126). -/
def State.withdrawObj (s : State) (f : Nat × Nat × Bool → Bool) : State :=
  (s.objs.filter fun (o : SyncObj) => o.queue.any f).foldl (fun s o =>
    let o := { o with queue := o.queue.filter fun r => !f r }
    s.grantQueued o (o.queue.length + 1)) s

/-- Whether a thread holds an object. -/
def SyncObj.heldBy (o : SyncObj) (tid slot : Nat) : Bool := o.holders.any fun h => h.1 == tid && h.2.1 == slot

/-- What naming an object gives: its key, a fault or a wait (R229, R235). -/
inductive Named where
  | key (k : Nat)
  | fault (code : Nat)
  | wait (w : Wait)
  | lost

/-- Find the object at an address: alignment, then its page, which must be a writable RAW page of the device half with PEER = 0;
a page that is not there makes the instruction wait (R229, R235). -/
def State.nameObj (s : State) (a : Nat) : State × Named :=
  let k := s.tk
  if a % 64 != 0 then (s, .fault 0x64)
  else if regionOf a != .dev then (s, .fault 0x64)
  else
    match s.translate k.cluster k.ctx a .store with
    | (s, .wait w) => (s, .wait w)
    | (s, .ok t) =>
      if leafPoi t.leaf then (s, .fault 0x51)
      else if !leafWrp t.leaf || leafFmt t.leaf != 0 || leafPeer t.leaf then (s, .fault 0x64)
      else
        match s.home t a 64 with
        | .refused => (s, .wait .walker)
        | .self st => (s, .wait (.stack st))
        | .lost => (s, .lost)
        | _ => (s, .key (paKey (leafPa t.leaf + a % t.size)))

/-- Where an object lies by the tables of the context that named it; none while its page is not there. -/
def State.objHome (s : State) (o : SyncObj) : Option Nat :=
  if (s.ctx o.ctx).st == .free then none
  else
    match s.walkDev o.ctx o.va.toNat with
    | .leaf e size _ => if leafPeer e then none else some (paKey (leafPa e + o.va.toNat % size))
    | _ => none

/-- The objects follow their pages: one whose page was made present at another frame lies there now (R229, R406). One whose page is absent
keeps its frame, unless that was taken for the object at key k (log entry 116). -/
def State.followObjs (s : State) (k : Nat) : State :=
  { s with objs := s.objs.map fun o =>
      match s.objHome o with
      | some h => { o with key := h }
      | none => if o.key == k && s.objField k 0 != s.objWord o then { o with key := 2 ^ 100 + k } else o }

/-- Go on with a named object; an object of a lost stack leaves the request unperformed with 0x53 pending, as an atomic's (R470;
log entry 16). -/
def State.withObj (s : State) (a : Reg) (lost : State → State) (f : State → SyncObj → State × Res) : State × Res :=
  let v := (s.x a).toNat
  match s.nameObj v with
  | (s, .fault c) => (s, .fault c v 0)
  | (s, .wait w) => (s, .wait w)
  | (s, .lost) => (lost (s.pendFault s.cur.1 (storeFault s.cur.2 0x53 1 v)), .done)
  | (s, .key k) =>
    let s := s.followObjs k
    f s (s.objAt k v s.tk.ctx)

/-- R232: requests the object and waits until it is granted. -/
def execAcq (a : Reg) (shared : Bool) (s : State) : Host.Outcome State Fault Refusal :=
  issue .barred 4 s fun s => s.unlessPoison [a] fun s => s.withObj a id fun s o =>
    let me := (s.cur.1, s.cur.2, !shared)
    if o.heldBy s.cur.1 s.cur.2 then (s, .fault 0x64 (s.x a).toNat 0)
    else if o.queue.any (fun r => r.1 == s.cur.1 && r.2.1 == s.cur.2) then (s, .wait (.object o.key))
    else if o.queue.isEmpty && o.free (!shared) then
      let o := { o with holders := o.holders ++ [me] }
      ((s.grantTo o s.cur.1).setObj o, .done)
    else (s.setObj { o with queue := o.queue ++ [me] }, .wait (.object o.key))

/-- R232: requests the object without waiting: xd := 1 if it is granted at once, else 0. -/
def execTryacq (d a : Reg) (shared : Bool) (s : State) : Host.Outcome State Fault Refusal :=
  issue .barred 4 s fun s => s.unlessPoison [a] fun s => s.withObj a (fun s => s.setX d 0 true) fun s o =>
    if o.heldBy s.cur.1 s.cur.2 then (s, .fault 0x64 (s.x a).toNat 0)
    else if o.free (!shared) && (!shared || !o.queue.any fun r => r.2.2) then
      let o := { o with holders := o.holders ++ [(s.cur.1, s.cur.2, !shared)] }
      (((s.grantTo o s.cur.1).setObj o).setX d 1 false, .done)
    else (s.setX d 0 false, .done)

/-- A thread leaves an object: RSEQ + 1, and waiting requests are granted (R233). -/
def State.release (s : State) (o : SyncObj) (tid slot : Nat) : State :=
  let o := { o with holders := o.holders.filter fun h => !(h.1 == tid && h.2.1 == slot) }
  let s := s.setObjField o.key 8 ((s.objField o.key 8 + 1) % 2 ^ 64)
  s.grantQueued o (o.queue.length + 1)

/-- R233: drains the write-through buffer, then leaves the object. -/
def execRel (a : Reg) (s : State) : Host.Outcome State Fault Refusal :=
  issue .plain 4 s fun s => s.unlessPoison [a] fun s => s.withObj a id fun s o =>
    if !o.heldBy s.cur.1 s.cur.2 then (s, .fault 0x64 (s.x a).toNat 0)
    else s.drainThen s.isStoreFault fun s =>
      (s.release (s.objAt o.key o.va.toNat o.ctx) s.cur.1 s.cur.2, .done)

/-- Whether a range may be bound (R235): multiples of 128, not empty, translated memory only. -/
def bindable (a n : Nat) : Bool :=
  a % 128 == 0 && n % 128 == 0 && n != 0 && (rangeFault a n none).isNone && (regionOf a == .dev || regionOf a == .host)

/-- The first empty range of an object. -/
def State.emptyRange (s : State) (key : Nat) : Option Nat := [0, 1, 2].find? fun j => s.objField key (0x18 + 16 * j) == 0

/-- R234: records a range in the first empty one of the object. -/
def execBind (d a b : Reg) (s : State) : Host.Outcome State Fault Refusal :=
  issue .plain 4 s fun s => s.unlessPoison [d, a, b] fun s => s.withObj d id fun s o =>
    if !bindable (s.x a).toNat (s.x b).toNat then (s, .fault 0x64 (s.x a).toNat 0)
    else
      match s.emptyRange o.key with
      | none => (s, .fault 0x64 (s.x d).toNat 0)
      | some j =>
        (((s.setObj o).setObjField o.key (0x10 + 16 * j) (s.x a).toNat).setObjField o.key (0x18 + 16 * j) (s.x b).toNat, .done)

/-- The non-empty range of an object whose base is given. -/
def State.rangeAt (s : State) (key base : Nat) : Option Nat :=
  [0, 1, 2].find? fun j => s.objField key (0x18 + 16 * j) != 0 && s.objField key (0x10 + 16 * j) == base

/-- R234: empties the range whose base is given. -/
def execUnbind (d a : Reg) (s : State) : Host.Outcome State Fault Refusal :=
  issue .plain 4 s fun s => s.unlessPoison [d, a] fun s => s.withObj d id fun s o =>
    match s.rangeAt o.key (s.x a).toNat with
    | none => (s, .fault 0x64 (s.x a).toNat 0)
    | some j => (((s.setObj o).setObjField o.key (0x10 + 16 * j) 0).setObjField o.key (0x18 + 16 * j) 0, .done)

end Sys2Proof.Machine
end

