-- ==== Sys2Proof/Machine/Bind.lean ====
section
/-! DEFINITION. Binding and dispatch (R321, R352, R355 to R363), the tasks' start, save and restore (R124, R125, R359, R375,
R384 to R388), and the audit log of a selected launch (R368). -/

namespace Sys2Proof.Machine

/-! ## Footprints and granules (R375, R388) -/

/-- Copy a footprint, page by page, from one place to another. -/
def copyFoot (m : Memory) (r : LaunchRec) (src dst : Nat → Nat) : Memory :=
  r.footPages.foldl (fun m off => m.copy (src off) (dst off) 4096) m

/-- Zero a place that held a footprint. -/
def clearFoot (m : Memory) (r : LaunchRec) (place : Nat → Nat) : Memory :=
  r.footPages.foldl (fun m off => m.zero (place off) 4096) m

/-- A task's footprint as it leaves its core: it stays in core memory for the task, and the window keeps its bytes (R375, R388). -/
def State.footAside (s : State) (tid core : Nat) : State :=
  { s with mem := copyFoot s.mem (s.task tid).lrec (cmKey core) (asideKey tid) }

/-- The footprint of a swapped task that is still in core memory goes to FRAME (R375, R388). -/
def State.footToFrame (s : State) (tid : Nat) : State :=
  let k := s.task tid
  match k.place with
  | .saved c sh false =>
    let s := k.lrec.footPages.foldl (fun (s : State) off => s.dropReplicas (linesOf (k.frameAddr off) 4096)) s
    let m := copyFoot s.mem k.lrec (asideKey tid) fun off => paKey (k.frameAddr off)
    { s.setTask tid { k with place := .saved c sh true } with mem := clearFoot m k.lrec (asideKey tid) }
  | _ => s

/-- A footprint comes back to the window of its core, from FRAME or from where it stayed (R388). -/
def State.footBack (s : State) (tid core : Nat) : State :=
  let k := s.task tid
  match k.place with
  | .saved _ _ true => { s with mem := copyFoot s.mem k.lrec (fun off => paKey (k.frameAddr off)) (cmKey core) }
  | .saved _ _ false =>
    { s with mem := clearFoot (copyFoot s.mem k.lrec (asideKey tid) (cmKey core)) k.lrec (asideKey tid) }
  | _ => s

/-- Whether a task has not started yet. -/
def Task.fresh (t : Task) : Bool := t.threads.isEmpty && t.exited.isNone

/-- The swapped tasks of other contexts whose footprints a core holds (R375). -/
def State.foreignHere (s : State) (core ctx : Nat) : List Nat :=
  (s.tasks.filter fun (t : Nat × Task) => t.2.ctx != ctx && t.2.alive && !t.2.fresh && (match t.2.place with
    | .saved c _ fr => c == core && !fr
    | _ => false)).map Prod.fst

/-- Zero the granules of a core's memory that record another context or none, and record the context (R375). -/
def State.takeGranules (s : State) (core ctx : Nat) : State :=
  (List.range 128).foldl (fun s g =>
    let c := s.core core
    if AMap.get c.owner g 0 == ctx + 1 then s
    else
      { s.setCore core { c with owner := AMap.put c.owner g (ctx + 1) } with
        mem := s.mem.zero (cmKey core (4096 * g)) 4096 }) s

/-- Before a task of a context comes onto a core (R375): other contexts' footprints go to FRAME, foreign granules are zeroed. -/
def State.switchMemory (s : State) (core ctx : Nat) : State :=
  ((s.foreignHere core ctx).foldl State.footToFrame s).takeGranules core ctx

/-! ## Saved images (R385) -/

/-- The state of R118 in its order: registers, lr, pc, TFLAGS, vectors, predicates, poison bits. -/
def Thread.image (t : Thread) : List Byte :=
  ((List.range 32).flatMap fun i => leBytes 8 (t.xr (BitVec.ofNat 5 i)).toNat)
    ++ leBytes 8 t.lr.toNat ++ leBytes 8 t.pc.toNat ++ leBytes 8 t.tflags.toNat
    ++ ((List.range 32).flatMap fun i => leBytes 128 (t.vr (BitVec.ofNat 5 i)).toNat)
    ++ ((List.range 8).flatMap fun i => leBytes 16 (t.pr i).toNat)
    ++ leBytes 4 t.xp.toNat ++ leBytes 64 t.vp.toNat

/-- A task's saved image of 95,488 bytes: the spec gives the parts' sizes, not their inner layout, so every byte that is not a
thread's state of R118 is free (log entry 20). -/
def State.saveImage (s : State) (tid : Nat) : List Byte :=
  let k := s.task tid
  let open_ (i : Nat) : Byte := (Config.freeWord (s.free + i)).setWidth 8
  (slots.flatMap fun i => (k.thread i).image ++ (List.range 36).map fun j => open_ (36 * i + j))
    ++ (List.range 21760).map fun j => open_ (576 + j)

/-- A task's state goes to FRAME with its footprint (R385, R388; log entry 108). -/
def State.stateToFrame (s : State) (tid : Nat) : State :=
  let k := s.task tid
  let img := (s.saveImage tid).map fun b => (⟨b, false⟩ : PByte)
  let s := { s.dropReplicas (linesOf k.frame img.length) with free := s.free + 22336, mem := s.mem.writeSp .dev k.frame img 25 }
  (s.setTask tid { k with stored := false }).footToFrame tid

/-! ## The slot table (R355 to R358) -/

/-- A refusal by dispatch, reported to the MGC (R357). -/
def msgRefused : Nat := 4

/-- The module's own mailbox to its MGC. -/
def toMgc : Nat := 1

/-- An entry of a core's slot table. -/
def Core.entry (c : Core) (shadow : Bool) : Option BindEntry := if shadow then c.shadow else c.primary
/-- The task that it binds. -/
def Core.bound (c : Core) (shadow : Bool) : Option Nat := if shadow then c.stask else c.ptask
/-- Set an entry with its task. -/
def Core.setEntry (c : Core) (shadow : Bool) (e : Option BindEntry) (t : Option Nat) : Core :=
  if shadow then { c with shadow := e, stask := t } else { c with primary := e, ptask := t }

/-- An event enters the hardware queue of a die's MGC, which holds 4,096 (R483). -/
def State.queueEvent (s : State) (d : Nat) (e : MgcEvent) : State :=
  let k := s.die d
  if k.events.length < 4096 then s.setDie d { k with events := k.events ++ [e] } else s

/-- The OMUs that capability values name. -/
def capOmus (cs : List Word) : List Nat := (cs.filter fun c => c != 0).map fun c => c.toNat % 128

/-- The bytes of a footprint (R388). -/
def LaunchRec.foot (r : LaunchRec) : Nat := r.footLow + r.footHigh

/-- Why dispatch refuses an entry (R357, R388), in the table's order; the record is that of the kernel that the entry names, if there is
one. An entry that names again the task its slot holds gives the core no further task. A primary entry beside a bound shadow task is refused
for the sum of the footprints as a shadow entry is, of which alone R388 speaks; DESIGN CHOICE (log entry 130). -/
def State.dispatchRefuses (s : State) (core : Nat) (shadow : Bool) (e : BindEntry) (r : Option LaunchRec) : Option Nat :=
  let c := s.core core
  let cl := clusterOf core
  let named := capOmus e.caps
  if !s.clusterOk cl then some 0
  else if (s.ctx e.ctx).st != .active then some 1
  else if s.tasks.any (fun t => t.2.alive && t.2.ctx != e.ctx && (t.2.caps.any fun p => p.2 != 0 && named.contains (p.2.toNat % 128)))
  then some 2
  else if (r.any LaunchRec.matrix && !s.omuAvail cl) || named.any (fun o => !s.omuAvail o) then some 3
  else if (c.bound shadow).any (fun t => t != tidOf e.kid e.task) then some 4
  else if e.caps.any (fun v => v != 0 && !s.capTagOk v) then some 5
  else if (c.bound (!shadow)).any (fun t => decide (524288 < (s.task t).lrec.foot + ((r.map LaunchRec.foot).getD 0))) then some 6
  else none

/-- The CAP values of a task by R358, without their tags. -/
def LaunchRec.capLow (r : LaunchRec) (ctx cl : Nat) : List Nat :=
  let base := r.rights * 2 ^ 45 + ctx * 2 ^ 39 + 0xFFFF * 2 ^ 23 + 0xFFFF * 2 ^ 7
  let omus := if r.omuAny then [cl] else r.omus
  if r.matrix then omus.map fun o => base + o else []

/-- Firmware writes the CAP values of R358: those that name an OMU, and all zeros elsewhere. -/
def capsFit (r : LaunchRec) (ctx cl : Nat) (cs : List Word) : Bool :=
  let want := r.capLow ctx cl
  (List.range 8).all fun i =>
    if i < want.length then (cs.getD i 0).toNat % 2 ^ 48 == want.getD i 0 else cs.getD i 0 == 0

/-- GROUPn of a record. -/
def LaunchRec.group (r : LaunchRec) (n : Nat) : Nat := r.groups.getD (n - 1) 0

/-- Firmware writes membership values by R321 and places a group's cores by R352: against the tasks bound before. -/
def State.groupsFit (s : State) (k : Kernel) (core rank : Nat) (gm : List Word) : Bool :=
  [1, 2, 3, 4].all fun n =>
    let g := (gm.getD (n - 1) 0).toNat
    let size := k.lrec.group n
    if size == 0 then g == 0
    else gmV g && gmGid g == rank / size && (if n == 4 then gmSize g % size == 0 && 0 < gmSize g else gmSize g == size)
      && (if n == 4 then gmRank g / size == s.self else gmRank g < size)
      && k.bound.all fun b =>
        b.1 / size != rank / size ||
          (let o := (s.task (tidOf k.kid b.1)).gm n
           (decide (gmRank o < gmRank g) == decide (b.2 < core)) && gmRank o != gmRank g
             && (n != 1 || clusterOf b.2 == clusterOf core) && (n != 2 || dieOf (clusterOf b.2) == dieOf (clusterOf core)))

/-- Whether a kernel could use a core for one of its tasks (R361). -/
def State.usable (s : State) (k : Kernel) (core : Nat) : Bool :=
  s.clusterOk (clusterOf core) && (!k.lrec.matrix || s.omuAvail (clusterOf core)) && k.lrec.omus.all s.omuAvail

/-- Whether a core has room for a task of a kernel: usable, not yet bound to the kernel, with an empty slot that its footprint fits. -/
def State.coreFree (s : State) (k : Kernel) (core : Nat) : Bool :=
  let c := s.core core
  let fits (t : Option Nat) : Bool := t.all fun t => decide ((s.task t).lrec.foot + k.lrec.foot ≤ 524288)
  s.usable k core && !(k.bound.any fun b => b.2 == core)
    && ((c.ptask.isNone && fits c.stask) || (c.stask.isNone && fits c.ptask))

/-- Whether clusters with so many cores each take a kernel whole: the groups of level 1 in a cluster, those of level 2 in a die (R352). -/
def LaunchRec.placed (r : LaunchRec) (cores : List Nat) : Bool :=
  let u := max r.group1 1
  let units := cores.map fun n => n / u
  let dies := [(units.take 48).sum, (units.drop 48).sum]
  if r.group2 == 0 then r.cores / u ≤ dies.sum
  else r.cores / r.group2 ≤ (dies.map fun n => n / (r.group2 / u)).sum

/-- The cores of each cluster that pass f. -/
def coresIn (f : Nat → Bool) : List Nat := (List.range 96).map fun c => ((List.range 16).filter fun i => f (16 * c + i)).length

/-- Whether the module has room for a whole kernel now. -/
def State.roomFor (s : State) (k : Kernel) : Bool := k.lrec.placed (coresIn (s.coreFree k))

/-- Firmware keeps a core free of lower-priority tasks while a kernel of a higher priority that is ELIGIBLE could use it, and of two kernels of
one priority that have room it binds the one accepted first (R361; State.kernels stands in the order of acceptance). -/
def State.priorityFits (s : State) (k : Kernel) (core : Nat) : Bool :=
  (!s.kernels.any fun j => j.st == .eligible && k.lrec.priority < j.lrec.priority && s.usable j core)
    && !(s.kernels.takeWhile fun j => j.kid != k.kid).any fun j =>
      j.st == .eligible && j.lrec.priority == k.lrec.priority && s.coreFree j core && s.roomFor j

/-- The clusters that a kernel is bound to. -/
def Kernel.clusters (k : Kernel) : List Nat := k.bound.map fun b => clusterOf b.2

/-- Whether a replay stays off its primary's clusters (R368). -/
def State.replayFits (s : State) (k : Kernel) (core : Nat) : Bool :=
  match k.replayOf.bind s.kernel? with
  | some p => !p.clusters.contains (clusterOf core)
  | none => true

/-- Whether the replay of a selected launch could be bound too (R369): whole, outside the clusters that the launch uses with the core. -/
def State.replayRoom (s : State) (k : Kernel) (core : Nat) : Bool :=
  !k.selected || k.lrec.placed (coresIn fun c =>
    s.coreFree { k with bound := [] } c && clusterOf c != clusterOf core && !k.clusters.contains (clusterOf c))

/-- The number of modules that a level-4 group of the entry's task spans (R352). -/
def LaunchRec.modules (r : LaunchRec) (e : BindEntry) : Nat := gmSize (e.gmem.getD 3 0).toNat / r.group4

/-- Firmware forms level-4 groups only when every module of the partition has accepted its record (R352). -/
def State.peersAccepted (s : State) (k : Kernel) (e : BindEntry) : Bool :=
  k.lrec.group4 == 0 || k.lrec.modules e ≤ 1 + ((List.range 1024).filter fun m =>
    m != s.self && s.peerAccepts.contains (m, k.ctx, k.q, k.seq)).length

/-! ## Audit (R368) -/

/-- KARG of a replay: its redirected audit block, with its regions at the log frames and buffers that firmware owns, whose addresses it
gives, the block's own last; none when one of them cannot be written. -/
def State.redirect (s : State) (k : Kernel) (frames : List Nat) : Option (State × Nat × List (Nat × Nat × Nat)) :=
  match s.auditBlock k.ctx k.lrec.args with
  | none => none
  | some rs =>
    let rs' := (List.range rs.length).map fun i => (frames.getD i 0, (rs.getD i (0, 0, 0)).2)
    let args := frames.getD rs.length 0
    let blk := leBytes 8 rs'.length ++ rs'.flatMap fun r => leBytes 8 r.1 ++ leBytes 8 r.2.1 ++ leBytes 8 r.2.2
    ((rs.zip rs').foldl (fun (o : Option State) r => o.bind fun s =>
      if bitAt r.1.2.2 0 then some s
      else (s.engineRead k.ctx r.1.1 r.1.2.1 (r.1.2.1 / 4096 + 2)).bind fun bs =>
        s.engineWrite k.ctx r.2.1 bs (r.1.2.1 / 4096 + 2))
      (s.engineWrite k.ctx args (blk.map fun b => ⟨b, false⟩) 4)).map fun s => (s, args, rs')

/-- A selected launch is BOUND: its inputs are logged and its replay instance is built (R368). -/
def State.startAudit (s : State) (k : Kernel) (frames : List Nat) : Option State :=
  if !k.selected then some s
  else (s.redirect k frames).map fun r =>
    let a := r.1.addKernel
      { k with lrec := { k.lrec with args := r.2.1 }, st := .eligible, parent := none, attached := k.attached,
               selected := false, replay := none, replayOf := some k.kid, eligAt := s.now, exit := 0, startedTasks := [],
               exitedTasks := [], bound := [], signalled := false, regions := r.2.2, enobMin := 255, usage := [0, 0, 0] }
    a.1.setKernel { k with replay := some a.2, regions := (s.auditBlock k.ctx k.lrec.args).getD [] }

/-! ## Binding -/

/-- The task that an entry binds. -/
def newTask (k : Kernel) (core : Nat) (shadow : Bool) (e : BindEntry) : Task :=
  { Task.blank with
    place := .saved core shadow false, kid := k.kid, ctx := k.ctx, rank := e.task, lrec := k.lrec, frame := e.frame
    gmem := [1, 2, 3, 4].map fun n => (n, e.gmem.getD (n - 1) 0)
    caps := (List.range 8).map fun i => (i, e.caps.getD i 0) }

/-- The groups of a kernel on this module (R321), in state FORMED; level-4 messages that came before take effect (R343). -/
def State.formGroups (s : State) (k : Kernel) : State :=
  let gs := [1, 2, 3, 4].flatMap fun n =>
    let size := k.lrec.group n
    if size == 0 then []
    else (List.range (k.lrec.cores / size)).map fun gid =>
      let ms := ((List.range size).map fun i => tidOf k.kid (gid * size + i)).map fun t => (t, (s.task t).rankAt n)
      { kid := k.kid, level := n, gid := gid, size := gmSize ((s.task (tidOf k.kid (gid * size))).gm n), members := ms,
        gone := [], done := [], st := GState.formed, step := 0, arr := [], first := 0, last := 0, lastCore := 0, sum := 0,
        vote := 0, votep := false, relAt := 0, freed := [], bytes := 0, entries := 0, own := (0, 0), early := [] : Group }
  ({ s with groups := s.groups ++ gs } : State).groupLate

/-- Bind a task of an ELIGIBLE kernel; with the last one the kernel is BOUND (R353), unless its audit cannot be set up yet. -/
def State.bindNew (s : State) (k : Kernel) (core : Nat) (shadow : Bool) (e : BindEntry) (frames : List Nat) : Option State :=
  let tid := tidOf k.kid e.task
  let s := s.setTask tid (newTask k core shadow e)
  let s := s.setCore core ((s.core core).setEntry shadow (some e) (some tid))
  let k := { k with bound := k.bound ++ [(e.task, core)] }
  if k.bound.length == k.lrec.cores then
    let k := { k with st := .bound }
    ((s.setKernel k).formGroups k).startAudit k frames
  else some (s.setKernel k)

/-- Whether firmware writes an entry: what R321, R352, R358, R361, R368 and R369 bind it to; FRAME is page-aligned (log entry 108). -/
def State.bindFits (s : State) (k : Kernel) (core : Nat) (e : BindEntry) : Bool :=
  k.st == .eligible && k.ctx == e.ctx && e.task < k.lrec.cores && !(k.bound.any fun b => b.1 == e.task || b.2 == core)
    && e.frame % 4096 == 0 && capsFit k.lrec k.ctx (clusterOf core) e.caps && s.groupsFit k core e.task e.gmem
    && s.priorityFits k core && (!k.bound.isEmpty || s.roomFor k) && s.peersAccepted k e
    && s.replayFits k core && (k.bound.length + 1 != k.lrec.cores || s.replayRoom k core)

/-- Whether an entry names its task's core, context and FRAME, with the CAP values of R358. -/
def State.entryFits (s : State) (k : Kernel) (core : Nat) (e : BindEntry) : Bool :=
  let t := s.task (tidOf k.kid e.task)
  k.ctx == e.ctx && t.kid == k.kid && t.alive && t.frame == e.frame && capsFit k.lrec k.ctx (clusterOf core) e.caps
    && (match t.place with | .saved c _ _ => c == core | _ => false)

/-- Put an entry with its task into a slot. -/
def State.enter (s : State) (core : Nat) (shadow : Bool) (tid : Nat) (e : BindEntry) : State :=
  let k := s.task tid
  let place := match k.place with | .saved c _ fr => .saved c shadow fr | p => p
  (s.setTask tid { k with place := place, preempted := false }).setCore core ((s.core core).setEntry shadow (some e) (some tid))

/-- An entry that names a task which the slot, or no slot, holds: with RESTORE one that is saved, in FRAME if it has left the table; without,
one of a bound kernel that has not started. -/
def State.rebind (s : State) (k : Kernel) (core : Nat) (shadow : Bool) (e : BindEntry) : State :=
  let tid := tidOf k.kid e.task
  let t := s.task tid
  let here := decide ((s.core core).bound shadow = some tid)
  let other := decide ((s.core core).bound (!shadow) = some tid)
  let framed := match t.place with | .saved _ _ fr => fr | _ => false
  if s.entryFits k core e && e.restore != t.fresh && !other && (here || t.fresh || framed) then s.enter core shadow tid e else s

/-- A slot is cleared (VALID = 0): a task that runs keeps its core; one that is swapped goes to FRAME; one that is bound to a kernel still
ELIGIBLE and has not started is bound no more. -/
def State.clearEntry (s : State) (core : Nat) (shadow : Bool) : State :=
  let c := s.core core
  match c.bound shadow with
  | none => s.setCore core (c.setEntry shadow none none)
  | some tid =>
    let t := s.task tid
    if t.onCore then s
    else if !t.fresh then (s.stateToFrame tid).setCore core (c.setEntry shadow none none)
    else
      let s := s.setCore core (c.setEntry shadow none none)
      match s.kernel? t.kid with
      | some k =>
        if k.st == .eligible then
          { s.setKernel { k with bound := k.bound.filter fun b => b.1 != t.rank } with tasks := AMap.erase s.tasks tid }
        else s
      | none => s

/-- R355, R357: dispatch takes a slot-table entry, with the addresses that the logs and buffers of a replay get (R368); it refuses an entry that
breaks a limit and reports it. An entry that the rules of firmware do not let it write has no effect. -/
def State.takeEntry (s : State) (core : Nat) (shadow : Bool) (write : BindWrite) : State :=
  let entry := write.entry
  if !entry.valid then s.clearEntry core shadow
  else
    match s.dispatchRefuses core shadow entry ((s.kernel? entry.kid).map Kernel.lrec), s.kernel? entry.kid with
    | some why, _ => (s.send toMgc msgRefused [core, shadow.toNat, why]).queueEvent (dieOf (clusterOf core)) (.refused core shadow why)
    | none, none => s
    | none, some k =>
      if k.bound.any fun b => b.1 == entry.task then s.rebind k core shadow entry
      else if !entry.restore && s.bindFits k core entry then (s.bindNew k core shadow entry write.frames).getD s
      else s

/-- A message reaches a stopped core: it waits behind those before it, once. The first 64 stand in the core's queue, the others wait at their
senders (R492). -/
def State.queueMsg (s : State) (core : Nat) (m : CoreMsg) : State :=
  let c := s.core core
  if c.msgs.contains m then s else s.setCore core { c with msgs := c.msgs ++ [m] }

/-- R355, R357: the MGC writes a slot-table entry; for a stopped core the message waits (R492). -/
def execBindEntryWrite (core : Nat) (shadow : Bool) (write : BindWrite) (s : State) : Host.Outcome State Fault Refusal :=
  event s fun s =>
    if 1536 ≤ core then s
    else if (s.core core).dbgStop then s.queueMsg core (.entry shadow write)
    else s.takeEntry core shadow write

/-! ## Starting a task (R124, R125, R356, R359, R360) -/

/-- The state of a thread at task start (R124, R125). -/
def startThread (r : LaunchRec) (globals slot : Nat) : Thread :=
  let t := { Thread.empty with st := .ready, pc := BitVec.ofNat 64 (r.code + r.entry) }
  let t := (t.setX 1 (BitVec.ofInt 64 (-((slot * 16 * r.stack : Nat) : Int))) false).setX 2 (BitVec.ofNat 64 globals) false
  let t := t.setX 3 (BitVec.ofNat 64 r.args) false
  if slot == 0 then t else t.setX 4 (BitVec.ofNat 64 slot) false

/-- KFLAGS (R360). -/
def Kernel.kflags (k : Kernel) : Nat :=
  (if k.attached then 2 ^ 7 else 0) + (if k.replayOf.isSome then 2 ^ 6 else 0) + k.lrec.priority * 2 ^ 4
    + (if k.selected then 2 ^ 3 else 0) + k.lrec.flags % 8 / 4 * 4 + k.lrec.flags / 2 % 2 * 2 + k.lrec.flags % 2

/-- QID (R360). -/
def Kernel.qid (k : Kernel) : Nat := k.gen % 8 * 32 + (if k.device then 16 else 0) + k.q % 16

/-- AUDIT (R360). -/
def Kernel.auditCsr (k : Kernel) : Nat := k.auditCnt % 2 ^ 32 * 2 ^ 32 + k.lrec.audit / 16 % 16 * 16 + k.lrec.auditClass

/-- The registers that a start or a restore writes from the bind state (R359, R360, R385). -/
def Task.fromBind (t : Task) (k : Kernel) (e : BindEntry) : Task :=
  { t with
    lrec := k.lrec, trapent := BitVec.ofNat 64 k.lrec.trap, karg := BitVec.ofNat 64 k.lrec.args
    kflags := BitVec.ofNat 64 k.kflags, qid := BitVec.ofNat 64 k.qid, audit := BitVec.ofNat 64 k.auditCsr
    gmem := [1, 2, 3, 4].map fun n => (n, e.gmem.getD (n - 1) 0)
    caps := (List.range 8).map fun i => (i, e.caps.getD i 0) }

/-- A core's monitors cleared (R499): their configuration stays. -/
def Core.clearMons (c : Core) : Core := { c with mons := c.mons.map fun m => (m.1, Monitor.cleared m.2.cfg) }

/-- A kernel's groups that hold a task leave FORMED when it starts (R324). -/
def State.openGroups (s : State) (tid : Nat) : State :=
  { s with groups := s.groups.map fun (g : Group) =>
      if g.st == .formed && g.members.any (fun m => m.1 == tid) then { g with st := .compute } else g }

/-- Start a task on a core. -/
def State.startTask (s : State) (core : Nat) (shadow : Bool) (tid : Nat) (e : BindEntry) (k : Kernel) : State :=
  let s := s.switchMemory core k.ctx
  let g := (s.ctx k.ctx).desc.globals
  let t := (s.task tid).fromBind k e
  let t := { t with
    place := .running core shadow, gp := BitVec.ofNat 64 g, rot := 0
    threads := (List.range (k.lrec.helpers + 1)).map fun i => (i, startThread k.lrec g i) }
  let s := s.setTask tid t
  let s := s.setCore core { (s.core core).clearMons with run := some tid, dcache := [], icache := [], preempt := false }
  let s := s.setKernel { k with
    st := if k.st == .bound then .running else k.st, startedTasks := natInsert k.startedTasks t.rank }
  s.openGroups tid

/-- Whether the write-through buffers of a core hold no store of a task that has left it: a killed task leaves its stores there, which the
loads of the next task would have to see (R261; log entry 113). -/
def State.coreDrained (s : State) (core : Nat) : Bool :=
  s.tasks.all fun (t : Nat × Task) => t.2.core != core || t.2.threads.all fun h => h.2.wbuf.isEmpty

/-- Whether dispatch may bring the task of an entry onto its core (R356): the core is idle, its buffers are empty; a shadow task comes when
the primary task is swapped out or gone. -/
def State.mayEnter (s : State) (core : Nat) (shadow : Bool) : Bool :=
  let c := s.core core
  c.run.isNone && !c.dbgStop && s.coreDrained core &&
    (if shadow then (match c.primary with | some p => p.restore | none => true) else true)

/-- R124, R356: dispatch starts the task of a VALID entry on its core. -/
def execTaskStart (core : Nat) (shadow : Bool) (s : State) : Host.Outcome State Fault Refusal :=
  event s fun s =>
    let c := s.core core
    match c.entry shadow, c.bound shadow with
    | some e, some tid =>
      match s.kernel? e.kid with
      | some k =>
        if s.mayEnter core shadow && !e.restore && (s.task tid).fresh && (s.ctx k.ctx).st == .active
          && (k.st == .bound || k.st == .running) then s.startTask core shadow tid e k
        else s
      | none => s
    | _, _ => s

/-! ## Saving a task (R362, R384, R385) -/

/-- Whether a thread is STOPPED by a fault, on its own or behind a debug stop. -/
def Thread.still (t : Thread) : Bool := t.st == .stopped || (t.st == .debug && t.prior == .stopped)

/-- Whether a task may leave its core now: every thread is at an instruction boundary outside packets (R128, R335) and, unless a fault stopped
it there, outside PC-match handlers (log entry 114), no pass waits for its OMU's answer (R294), and no load or atomic response is outstanding
(R385). -/
def State.canSave (s : State) (tid : Nat) : Bool :=
  let k := s.task tid
  !(s.issuing.any fun i => i.1 == tid)
    && (k.threads.all fun t => t.2.packet.isNone && (t.2.shadow.isNone || t.2.still) && (match t.2.st with
      | .waiting .omu => false
      | .waiting (.stack _) => false
      | _ => true))
    && !(s.remotes.any fun r => match r.who with
      | .load t _ _ => t == tid
      | .atomic t _ _ _ => t == tid
      | _ => false)

/-- Withdraw a task's requests for objects (R385). -/
def State.withdrawReqs (s : State) (tid : Nat) : State := s.withdrawObj fun r => r.1 == tid

/-- Drain the buffers of every thread of a task; whether all are empty. -/
def State.drainAll (s : State) (tid : Nat) : State × Bool :=
  slots.foldl (fun (a : State × Bool) i => let r := a.1.drain tid i; (r.1, a.2 && r.2)) (s, true)

/-- Whether a core's shadow storage holds another task. -/
def State.storageTaken (s : State) (core tid : Nat) : Bool :=
  let c := s.core core
  (c.ptask.toList ++ c.stask.toList).any fun t => t != tid && (s.task t).stored

/-- The task of a core's other slot may come back once a task leaves a slot: what it was pre-empted for has had the core (R362; log entry
57). -/
def State.freeOther (s : State) (core : Nat) (shadow : Bool) : State :=
  match (s.core core).bound (!shadow) with
  | some t => s.setTask t { s.task t with preempted := false }
  | none => s

/-- Whether the state of a core's task goes to its FRAME: the shadow storage holds another task, or the context is suspending (R385). -/
def State.savesToFrame (s : State) (core tid : Nat) : Bool :=
  (s.ctx (s.task tid).ctx).st == .suspended || s.storageTaken core tid

/-- Save the running task of a core (R385), whose fetches begin anew when it is restored: to shadow storage, or to FRAME when that holds another
task or the context is suspending; its entry is marked RESTORE, or leaves the table with a suspension. -/
def State.saveTask (s : State) (core tid : Nat) : State :=
  let k := s.task tid
  let sh := match k.place with | .running _ sh => sh | .saved _ sh _ => sh | .none => false
  let susp := (s.ctx k.ctx).st == .suspended
  let s := slots.foldl (fun s i => s.cancelSfu tid i) ((s.dropFetches tid).withdrawReqs tid)
  let frame := s.savesToFrame core tid
  let halted := (s.core core).preempt
  let s := (s.setTask tid { s.task tid with place := .saved core sh false, stored := true, preempted := halted && !susp }).footAside tid core
  let s := if frame then s.stateToFrame tid else s
  let c := s.core core
  let c := { c with run := none, preempt := false }
  let c := if susp then c.setEntry sh none none
    else c.setEntry sh ((c.entry sh).map fun e => { e with restore := true }) (c.bound sh)
  (s.setCore core c).freeOther core sh

/-- Whether the page of a waiting thread is present now (R383, R384). -/
def State.pageHere (s : State) (ctx : Nat) (va : Word) : Bool :=
  match (if va.toNat < 2 ^ 55 then s.walkHost va.toNat else s.walkDev ctx va.toNat) with
  | .leaf e _ _ => !(2 ^ 55 ≤ va.toNat && leafMig e)
  | _ => false

/-- Whether every page that a task's threads wait on is present. -/
def State.pagesHere (s : State) (tid : Nat) : Bool :=
  let k := s.task tid
  k.threads.all fun t => match t.2.st with
    | .waiting (.page va) => s.pageHere k.ctx va
    | _ => true

/-- Whether the saved task of a core's primary entry may come back: it was not pre-empted, and every page that it waited on is present (R356,
R362, R384). -/
def State.primaryMay (s : State) (tid : Nat) : Bool := !(s.task tid).preempted && s.pagesHere tid

/-- Whether a running shadow task must make way: its primary task's wait is satisfied (R356). -/
def State.primaryBack (s : State) (core tid : Nat) : Bool :=
  let c := s.core core
  decide (c.stask = some tid) && (match c.ptask with
    | some p => !(s.task p).onCore && (match c.primary with | some e => e.restore | none => false) && s.primaryMay p
    | none => false)

/-- R385: dispatch saves a task that is halted: pre-empted, of a suspended context, or a shadow task whose primary comes back;
toFrame names the place, which is the one the rule gives. -/
def execTaskSave (core : Nat) (toFrame : Bool) (s : State) : Host.Outcome State Fault Refusal :=
  event s fun s =>
    match s.running core with
    | none => s
    | some tid =>
      if ((s.core core).preempt || s.primaryBack core tid) && !(s.core core).dbgStop && s.canSave tid
          && toFrame == s.savesToFrame core tid then
        let r := s.drainAll tid
        if r.2 then r.1.saveTask core tid else r.1
      else s

/-- Whether a thread waits on a translation. -/
def Thread.waitsPage (t : Thread) : Bool :=
  match t.st with
  | .waiting (.page _) => true
  | .waiting .walker => true
  | _ => false

/-- The conditions of R384 on a task: every live thread WAITING, one on a translation, or a wait of SPIN µs. -/
def State.spinDue (s : State) (tid : Nat) : Bool :=
  let k := s.task tid
  let live := k.threads.filter fun t => t.2.live
  let spin := (s.ctx k.ctx).desc.spin
  ((live.all fun t => match t.2.st with | .waiting _ => true | _ => false) && live.any fun t => t.2.waitsPage)
    || live.any fun t => t.2.waitsPage && t.2.since + 1000 * spin ≤ s.now

/-- R384: dispatch swaps out the primary task with a translation miss when the shadow entry is VALID. -/
def execSpinTimeoutSwap (core : Nat) (s : State) : Host.Outcome State Fault Refusal :=
  event s fun s =>
    let c := s.core core
    match c.run with
    | none => s
    | some tid =>
      if decide (c.ptask = some tid) && c.shadow.isSome && !c.dbgStop && s.spinDue tid && s.canSave tid then
        let r := s.drainAll tid
        if r.2 then r.1.saveTask core tid else r.1
      else s

/-- Restore a task (R126, R356, R385): the threads take their prior states; caches and monitors are cleared. -/
def State.restoreTask (s : State) (core : Nat) (shadow : Bool) (tid : Nat) (e : BindEntry) (k : Kernel) : State :=
  let s := (s.switchMemory core k.ctx).footBack tid core
  let s := s.setTask tid { (s.task tid).fromBind k e with place := .running core shadow, stored := false }
  let s := slots.foldl (fun (s : State) i => if (s.thread tid i).st = .stopped then s else s.redoSfu tid i) s
  let c := (s.core core).clearMons
  s.setCore core { c.setEntry shadow (some { e with restore := false }) (some tid) with
    run := some tid, dcache := [], preempt := false }

/-- R356: dispatch restores the task of an entry with RESTORE. -/
def execTaskRestore (core : Nat) (shadow : Bool) (s : State) : Host.Outcome State Fault Refusal :=
  event s fun s =>
    let c := s.core core
    match c.entry shadow, c.bound shadow with
    | some e, some tid =>
      match s.kernel? e.kid with
      | some k =>
        if s.mayEnter core shadow && e.restore && (s.task tid).alive && (s.ctx k.ctx).st == .active
          && (if shadow then !(s.task tid).preempted else s.primaryMay tid) then s.restoreTask core shadow tid e k
        else s
      | none => s
    | _, _ => s

/-! ## Pre-emption (R361 to R363) -/

/-- Halt the task of a core, to be saved; for a stopped core the message waits (R492). -/
def State.halt (s : State) (core : Nat) : State :=
  let c := s.core core
  if c.run.isNone then s
  else if c.dbgStop then s.queueMsg core .halt
  else s.setCore core { c with preempt := true }

/-- The kernels that a task waits for in kexit, or some thread of it in waittl 3 (R363): the attached launches of the task that have not
retired. -/
def State.awaited (s : State) (tid : Nat) : List Kernel :=
  let waits := (s.task tid).threads.any fun (t : Nat × Thread) => match t.2.st with
    | .waiting .retire => true
    | .waiting (.timeline 3 _) => true
    | _ => false
  if waits then s.kernels.filter fun k => k.parent.any fun p => p.1 == tid else []

/-- Whether clusters with so many cores each take a kernel and, of a selected launch, its replay on other clusters (R352, R368). -/
def Kernel.placedIn (k : Kernel) (cores : List Nat) : Bool :=
  if k.selected then
    (List.range 97).any fun n =>
      k.lrec.placed (cores.take n ++ List.replicate (96 - n) 0) && k.lrec.placed (List.replicate n 0 ++ cores.drop n)
  else k.lrec.placed cores

/-- Whether a kernel could be bound whole on its cores, the free ones that are idle, and those given besides. -/
def State.roomWith (s : State) (k : Kernel) (more : List Nat) : Bool :=
  k.placedIn (coresIn fun c => (k.bound.any fun b => b.2 == c) || (s.coreFree k c && ((s.core c).run.isNone || more.contains c)))

/-- Whether no core is free for a kernel. -/
def State.noCores (s : State) (k : Kernel) : Bool := !s.roomWith k []

/-- The cores whose running tasks of priority 0 and 1 make way for a kernel, ascending: as few as give it room, or all (R361). -/
def State.victims (s : State) (k : Kernel) : List Nat :=
  let lower := (List.range 1536).filter fun c => s.coreFree k c && (s.core c).run.any fun t => decide ((s.task t).lrec.priority ≤ 1)
  lower.take (((List.range lower.length).find? fun n => s.roomWith k (lower.take n)).getD lower.length)

/-- The cores whose tasks firmware pre-empts for an attached child that is ELIGIBLE and finds no free cores (R363). -/
def State.childCores (s : State) : List Nat :=
  (s.cores.filter fun (c : Nat × Core) => c.2.run.any fun t => (s.awaited t).any fun k => k.st == .eligible && s.noCores k).map Prod.fst

/-- R362: the MGC halts the tasks of a partition. -/
def execPreemptPartition (cores : List Nat) (s : State) : Host.Outcome State Fault Refusal :=
  event s fun s => cores.foldl State.halt s

/-- R361: a priority-3 kernel that has been ELIGIBLE for 1 ms pre-empts running kernels of priority 0 and 1 on cores it could use. -/
def execPriorityWaitTimeout (kid : Nat) (s : State) : Host.Outcome State Fault Refusal :=
  event s fun s =>
    match s.kernel? kid with
    | none => s
    | some k =>
      if k.st == .eligible && k.lrec.priority == 3 && k.eligAt + 1000000 ≤ s.now then
        (s.victims k).foldl State.halt s
      else s

end Sys2Proof.Machine
end

