-- ==== Sys2Proof/Machine/Fetch.lean ====
section
/-! DEFINITION. Instruction fetch (R39, R46, R174, R281), the PC-match table (R493 to R496), and the forming of issue groups
(R130 to R133). -/

namespace Sys2Proof.Machine

/-- What a fetch gives: the words of the fetch block from the pc on, a fault, or a wait. -/
inductive Fetched where
  | words (w0 w1 w2 : Nat)
  | fault (code addr : Nat)
  | wait (w : Wait)
deriving DecidableEq, Repr

/-- A valid instruction-cache block of a core (R281). -/
def State.codeBlock (s : State) (core ctx blk : Nat) : Option CLine :=
  (s.core core).icache.find? fun l => l.ctx == ctx && l.va == blk && s.clusterTime (clusterOf core) < l.expiry

/-- Keep a code block. -/
def State.keepBlock (s : State) (core : Nat) (l : CLine) : State :=
  let c := s.core core
  s.setCore core { c with icache := (c.icache.filter fun m => !(m.ctx == l.ctx && m.va == l.va)) ++ [l] }

/-- Translate and read the block of a pc in the device half. -/
def State.fillFrom (s : State) (tid slot pc va : Nat) (k : Task) : State × Got :=
  match s.translate k.cluster k.ctx va .fetch with
  | (s, .wait w) => (s, .wait (match w with | .page _ => .page (BitVec.ofNat 64 pc) | w => w))
  | (s, .ok t) =>
    match s.laterChecks .fetch 4 false [.page va 32 t] with
    | some (c, _) => (s, .fault c pc)
    | none =>
      match s.home t va 32 with
      | .refused => (s, .wait .walker)
      | .self st => (s, .wait (.stack st))
      | .remote m pa len =>
        match (s.thread tid slot).gotAt (fetchTag va) with
        | some bs =>
          let fmt := leafFmt t.leaf
          let v := viewFrom fmt (va % t.size) 32 (storeRange fmt (va % t.size) 32).1 bs
          (s.keepBlock k.core { ctx := k.ctx, va := va / 32, bytes := v, expiry := t.expiry, skew := t.skew, place := s.storageLines t va 32 }, .bytes v)
        | none =>
          let w := RemoteFor.load tid slot (fetchTag va)
          if s.outstanding w then (s, .wait .remote)
          else (s.sendRemote m w (requestPacket 0 k.ctx t pa len []), .wait .remote)
      | _ =>
        let bs := s.homeBytes t va 32
        (s.keepBlock k.core { ctx := k.ctx, va := va / 32, bytes := bs, expiry := t.expiry, skew := t.skew, place := s.storageLines t va 32 }, .bytes bs)

/-- Fill the 32-byte block of a pc: checks in the order of R217 with PTE.EXP (R39), then the home (R401). -/
def State.fillBlock (s : State) (tid slot pc : Nat) : State × Got :=
  let k := s.task tid
  let va := pc / 32 * 32
  match regionOf pc with
  | .nonCanon => (s, .fault 0x14 pc)
  | .dev => s.fillFrom tid slot pc va k
  | _ => (s, .fault 0x11 pc)

/-- Word i of a block's bytes from offset o. -/
def blockWord (bs : List PByte) (o i : Nat) : Nat := leNat (((bs.drop (o + 4 * i)).take 4).map PByte.b)

/-- Whether the first n words from offset o of a block are poisoned. -/
def blockPois (bs : List PByte) (o n : Nat) : Bool := ((bs.drop o).take (4 * n)).any PByte.p

/-- Fetch at a thread's pc: the block from the instruction cache or its home; poisoned words raise 0x51 (R456). The words
of a reserved length or of a crossing instruction are left to the decoder's checks (R49). -/
def State.fetch (s : State) (tid slot : Nat) : State × Fetched :=
  let k := s.task tid
  let pc := (k.thread slot).pc.toNat
  let o := pc % 32
  let r : State × Got := match s.codeBlock k.core k.ctx (pc / 32) with
    | some l => (s, .bytes l.bytes)
    | none => s.fillBlock tid slot pc
  match r with
  | (s, .wait w) => (s, .wait w)
  | (s, .fault c a) => (s, .fault c a)
  | (s, .bytes bs) =>
    let w0 := blockWord bs o 0
    let n := w0 % 4 + 1
    if blockPois bs o 1 || (n ≤ 3 && o + 4 * n ≤ 32 && blockPois bs o n) then (s, .fault 0x51 pc)
    else (s, .words w0 (blockWord bs o 1) (blockWord bs o 2))

/-! ## The PC-match table -/

/-- PMCTL.PMEN. -/
def Task.pmen (k : Task) : Bool := k.pmctl.getLsbD 0

/-- The lowest entry of the table that matches an address (R494). -/
def Task.matchAt (k : Task) (pc : Word) : Option Nat :=
  if k.pmen then
    slots.find? fun i =>
      let e := AMap.get k.pmt i 0
      e.getLsbD 0 && e.toNat / 4 * 4 == pc.toNat
  else none

/-- The slot that holds the core's shadow context (R495). -/
def Task.shadowHolder (k : Task) : Option Nat := slots.find? fun i => (k.thread i).shadow.isSome

/-- Enter the handler of entry i (R495): the thread's registers are set aside, PMEPC := pc. -/
def State.enterHandler (s : State) (tid slot i : Nat) : State :=
  let k := s.task tid
  let t := k.thread slot
  let h := BitVec.ofNat 64 (k.pmctl.toNat / 4096 * 4096 + 64 * i)
  let s := s.setThread tid slot { t with
    st := .ready, held := none, pmepc := t.pc, pc := h
    shadow := some { addr := t.pc, x := t.x, xp := t.xp, lr := t.lr, tflags := t.tflags, count := 0 } }
  s.traceRec tid slot 3 0 i

/-- The slots in order from the rotation pointer. -/
def Task.order (k : Task) : List Nat := slots.map fun i => (k.rot + i) % 16

/-- The shadow context frees: the first waiting thread from the rotation pointer takes it (R495). -/
def State.passShadow (s : State) (tid : Nat) : State :=
  let k := s.task tid
  match k.order.find? (fun i => decide ((k.thread i).st = .waiting .shadow)) with
  | none => s
  | some i =>
    let t := k.thread i
    match k.matchAt t.pc with
    | some e => s.enterHandler tid i e
    | none => s.setThread tid i { t with st := .ready, held := none }

/-- Leave a PC-match handler (R184, R495): the thread's own registers return and it resumes at PMEPC; at the address it matched it does not
match once more (R494). -/
def State.leaveHandler (s : State) (tid slot : Nat) : State :=
  let t := s.thread tid slot
  match t.shadow with
  | none => s
  | some h =>
    let s := s.setThread tid slot { t with
      x := h.x, xp := h.xp, lr := h.lr, tflags := h.tflags, shadow := none, pc := t.pmepc, skipPm := t.pmepc == h.addr, st := .ready,
      held := none, got := [], answer := none }
    (s.traceRec tid slot 4 0 0).passShadow tid

/-! ## Issue groups -/

/-- Two threads in one code context: both in a PC-match handler or neither (R129). -/
def sameContext (a b : Thread) : Bool := a.shadow.isSome == b.shadow.isSome

/-- Whether a thread has spent its PC-match handler's 1,024 instructions (R496). -/
def Thread.spent (t : Thread) : Bool := match t.shadow with | some h => decide (1024 ≤ h.count) | none => false

/-- Whether a thread may join an issue group: READY, its handler not spent (R496); while the core is being halted, only with an open
packet (R335, R362) or in a PC-match handler, whose shadow context no save holds (R385; log entry 114). -/
def Thread.issuable (t : Thread) (halting : Bool) : Bool :=
  decide (t.st = .ready) && !t.spent && (!halting || t.packet.isSome || t.shadow.isSome)

/-- The chosen thread of the next group (R130, R186): the first READY slot from the rotation pointer, passing over the slots that
yielded while another is READY. Where all that are READY have yielded in one group, R186 cannot hold for each of them; DESIGN CHOICE (log
entry 124): the first of them from the rotation pointer leads. -/
def Task.chosen (k : Task) (halting : Bool) : Option Nat :=
  let ready := k.order.filter fun i => (k.thread i).issuable halting
  match ready.find? (fun i => !k.avoid.contains i) with
  | some i => some i
  | none => ready.head?

/-- The members of the group that a thread leads. -/
def Task.members (k : Task) (halting : Bool) (c : Nat) : List Nat :=
  slots.filter fun i => (k.thread i).issuable halting && (k.thread i).pc == (k.thread c).pc
    && sameContext (k.thread i) (k.thread c)

/-- Whether a member's pc matches the table before its instruction issues (R494). -/
def Task.matchesNow (k : Task) (i : Nat) : Option Nat :=
  let t := k.thread i
  if t.shadow.isSome || t.skipPm then none else k.matchAt t.pc

/-- A matching member enters its handler, or waits for the shadow context (R495). -/
def State.matchMember (s : State) (tid i : Nat) : State :=
  let k := s.task tid
  match k.matchesNow i with
  | none => s
  | some e =>
    if k.shadowHolder.isNone then s.enterHandler tid i e
    else s.setThread tid i { k.thread i with st := .waiting .shadow, held := none, since := s.now }

/-- Form the next issue group of a core (R130, R133): matching members leave it; the rest are issued, the counters count it, the
rotation pointer moves past the chosen thread. The order in which the members act on one location is not promised (R132); DESIGN CHOICE (log
entry 124): the order of their slots from the rotation pointer. -/
def State.formGroup (s : State) (core : Nat) : State :=
  match s.running core with
  | none => s
  | some tid =>
    let k := s.task tid
    let halting := (s.core core).preempt
    match k.chosen halting with
    | none => s
    | some c =>
        let ms := k.order.filter (k.members halting c).contains
        let go := ms.filter fun i => (k.matchesNow i).isNone
        let s := (ms.filter fun i => (k.matchesNow i).isSome).foldl (fun s i => s.matchMember tid i) s
        if go.isEmpty then s
        else
          let k := s.task tid
          { s.setTask tid { k with
              rot := (c + 1) % 16, avoid := [], issuecnt := (k.issuecnt + 1) % 2 ^ 64,
              fusecnt := (k.fusecnt + go.length - 1) % 2 ^ 64 } with
            issuing := s.issuing ++ go.map fun i => (tid, i) }

end Sys2Proof.Machine
end

