-- ==== Sys2Proof/Machine/Control.lean ====
section
/-! DEFINITION. Meanings of branches, jumps and the SYS instructions (R173 to R186), and of the debug instructions (R497). -/

namespace Sys2Proof.Machine

/-- Take or fall through a branch (R173): a poisoned condition register raises 0x51; a taken branch is traced (R498). -/
def branch (len : Nat) (off : Word) (rs : List Reg) (c : State → Bool) (s : State) : State × Res :=
  s.unlessPoison rs fun s =>
    if c s then
      let pc := s.thr.pc + off * 4
      (s.traceRec s.cur.1 s.cur.2 1 0 pc.toNat, .jump pc)
    else (s, .jump (s.thr.pc + BitVec.ofNat 64 len))

/-- A condition on two registers. -/
def cond2 (f : Word → Word → Bool) (a b : Reg) (s : State) : Bool := f (s.x a) (s.x b)
/-- The condition of bbs and bbc: bit b of xa. -/
def condBit (v : Bool) (a b : Reg) (s : State) : Bool := (s.x a).getLsbD b.toNat == v

/-- R173: branch if equal. -/
def execBeq (a b : Reg) (off : BitVec 11) (s : State) : Host.Outcome State Fault Refusal :=
  issue .plain 4 s (branch 4 (immS off) [a, b] (cond2 (fun x y => x == y) a b))
/-- R173: branch if different. -/
def execBne (a b : Reg) (off : BitVec 11) (s : State) : Host.Outcome State Fault Refusal :=
  issue .plain 4 s (branch 4 (immS off) [a, b] (cond2 (fun x y => x != y) a b))
/-- R173: branch if less, signed. -/
def execBlt (a b : Reg) (off : BitVec 11) (s : State) : Host.Outcome State Fault Refusal :=
  issue .plain 4 s (branch 4 (immS off) [a, b] (cond2 (fun x y => x.slt y) a b))
/-- R173: branch if not less, signed. -/
def execBge (a b : Reg) (off : BitVec 11) (s : State) : Host.Outcome State Fault Refusal :=
  issue .plain 4 s (branch 4 (immS off) [a, b] (cond2 (fun x y => !x.slt y) a b))
/-- R173: branch if less, unsigned. -/
def execBltu (a b : Reg) (off : BitVec 11) (s : State) : Host.Outcome State Fault Refusal :=
  issue .plain 4 s (branch 4 (immS off) [a, b] (cond2 (fun x y => x.ult y) a b))
/-- R173: branch if not less, unsigned. -/
def execBgeu (a b : Reg) (off : BitVec 11) (s : State) : Host.Outcome State Fault Refusal :=
  issue .plain 4 s (branch 4 (immS off) [a, b] (cond2 (fun x y => !x.ult y) a b))
/-- R173: branch if bit b is set. -/
def execBbs (a b : Reg) (off : BitVec 11) (s : State) : Host.Outcome State Fault Refusal :=
  issue .plain 4 s (branch 4 (immS off) [a] (condBit true a b))
/-- R173: branch if bit b is clear. -/
def execBbc (a b : Reg) (off : BitVec 11) (s : State) : Host.Outcome State Fault Refusal :=
  issue .plain 4 s (branch 4 (immS off) [a] (condBit false a b))
/-- R173: the long form of beq. -/
def execBeqLong (a b : Reg) (off : BitVec 32) (s : State) : Host.Outcome State Fault Refusal :=
  issue .plain 8 s (branch 8 (immS off) [a, b] (cond2 (fun x y => x == y) a b))
/-- R173: the long form of bne. -/
def execBneLong (a b : Reg) (off : BitVec 32) (s : State) : Host.Outcome State Fault Refusal :=
  issue .plain 8 s (branch 8 (immS off) [a, b] (cond2 (fun x y => x != y) a b))
/-- R173: the long form of blt. -/
def execBltLong (a b : Reg) (off : BitVec 32) (s : State) : Host.Outcome State Fault Refusal :=
  issue .plain 8 s (branch 8 (immS off) [a, b] (cond2 (fun x y => x.slt y) a b))
/-- R173: the long form of bge. -/
def execBgeLong (a b : Reg) (off : BitVec 32) (s : State) : Host.Outcome State Fault Refusal :=
  issue .plain 8 s (branch 8 (immS off) [a, b] (cond2 (fun x y => !x.slt y) a b))
/-- R173: the long form of bltu. -/
def execBltuLong (a b : Reg) (off : BitVec 32) (s : State) : Host.Outcome State Fault Refusal :=
  issue .plain 8 s (branch 8 (immS off) [a, b] (cond2 (fun x y => x.ult y) a b))
/-- R173: the long form of bgeu. -/
def execBgeuLong (a b : Reg) (off : BitVec 32) (s : State) : Host.Outcome State Fault Refusal :=
  issue .plain 8 s (branch 8 (immS off) [a, b] (cond2 (fun x y => !x.ult y) a b))
/-- R173: the long form of bbs. -/
def execBbsLong (a b : Reg) (off : BitVec 32) (s : State) : Host.Outcome State Fault Refusal :=
  issue .plain 8 s (branch 8 (immS off) [a] (condBit true a b))
/-- R173: the long form of bbc. -/
def execBbcLong (a b : Reg) (off : BitVec 32) (s : State) : Host.Outcome State Fault Refusal :=
  issue .plain 8 s (branch 8 (immS off) [a] (condBit false a b))

/-- Write the return address pc + len into lr. -/
def State.link (s : State) (len : Nat) : State := s.setThr { s.thr with lr := s.thr.pc + BitVec.ofNat 64 len }

/-- Jump by an offset of 4-byte units, linking if asked (R175). -/
def jumpBy (len : Nat) (off : Word) (link : Bool) (s : State) : State × Res :=
  let pc := s.thr.pc + off * 4
  (if link then s.link len else s, .jump pc)

/-- R175: jump. -/
def execJ (off : BitVec 19) (s : State) : Host.Outcome State Fault Refusal := issue .plain 4 s (jumpBy 4 (immS off) false)
/-- R175: jump and link. -/
def execJal (off : BitVec 19) (s : State) : Host.Outcome State Fault Refusal := issue .plain 4 s (jumpBy 4 (immS off) true)
/-- R175: the long jump. -/
def execJLong (off : BitVec 32) (s : State) : Host.Outcome State Fault Refusal := issue .plain 8 s (jumpBy 8 (immS off) false)
/-- R175: the long jump and link. -/
def execJalLong (off : BitVec 32) (s : State) : Host.Outcome State Fault Refusal :=
  issue .plain 8 s (jumpBy 8 (immS off) true)

/-- Jump to a register (A = 0: lr) plus an offset (R176). -/
def jumpReg (a : Reg) (imm : BitVec 14) (link : Bool) (s : State) : State × Res :=
  s.unlessPoison [a] fun s =>
    let base := if a = 0 then s.thr.lr else s.x a
    let t := base + immS imm
    if t.toNat % 4 != 0 then (s, .fault 0x04 0 0)
    else (if link then s.link 4 else s, .jump t)

/-- R176: jump to register. -/
def execJr (a : Reg) (imm : BitVec 14) (s : State) : Host.Outcome State Fault Refusal := issue .plain 4 s (jumpReg a imm false)
/-- R176: jump to register and link. -/
def execJalr (a : Reg) (imm : BitVec 14) (s : State) : Host.Outcome State Fault Refusal := issue .plain 4 s (jumpReg a imm true)

/-- R177: jump through a table, or fall through. -/
def execJtab (a b : Reg) (s : State) : Host.Outcome State Fault Refusal :=
  issue .plain 4 s fun s => s.unlessPoison [a, b] fun s =>
    Got.bind (s.load s.cur.1 s.cur.2 (s.x a).toNat 8) fun s n =>
      if n.any PByte.p then (s, .fault 0x51 0 0)
      else if leNat (n.map PByte.b) ≤ (s.x b).toNat then (s, .done)
      else Got.bind (s.load s.cur.1 s.cur.2 (s.x a + 8 + 8 * s.x b).toNat 8) fun s t =>
        let w := leNat (t.map PByte.b)
        if t.any PByte.p then (s, .fault 0x51 0 0)
        else if w % 4 != 0 then (s, .fault 0x04 0 0)
        else (s, .jump (BitVec.ofNat 64 w))

/-- R179: no effect but the advance of pc. -/
def execNop (s : State) : Host.Outcome State Fault Refusal := issue .plain 4 s fun s => (s, .done)

/-- The smallest scope that covers the home of some byte of a buffered part (R274), for a core of the given die. -/
def State.partScope (s : State) (die : Nat) (p : StorePart) : Nat :=
  let (sp, fr, fmt) := s.frameOf p.tr
  match sp with
  | .dev =>
    let (lo, len) := storeRange fmt (p.va % p.tr.size) p.bytes.length
    if (stacksOf (fr + lo) len).any fun k => k / 4 == die then 2 else 3
  | _ => 4

/-- R180, R274: waits until the earlier stores whose homes lie within the scope are performed; walkers hold no older copies
(R276), since a walk reads memory as it stands. -/
def execFence (n : BitVec 16) (s : State) : Host.Outcome State Fault Refusal :=
  issue .plain 4 s fun s =>
    let s := if n.toNat < 2 then s else (s.drain s.cur.1 s.cur.2).1
    let die := dieOf s.tk.cluster
    if s.thr.wbuf.any fun e => e.parts.any fun p => s.partScope die p ≤ n.toNat then (s, .wait .drain)
    else s.deliverOr s.isStoreFault fun s => (s, .done)

/-- R181: takes precise fault 0x07 with the code in INFO1. -/
def execTrap (n : BitVec 16) (s : State) : Host.Outcome State Fault Refusal :=
  issue .plain 4 s fun s => (s, .fault 0x07 0 n.toNat)

/-- PMCTL.BKSTOP (R493). -/
def Task.bkstop (k : Task) : Bool := k.pmctl.getLsbD 2

/-- R182: takes precise fault 0x08, or stops the core with pc at the bkpt when the debug module is armed. A thread in a handler
defers its own stop (R491). -/
def execBkpt (n : BitVec 16) (s : State) : Host.Outcome State Fault Refusal :=
  issue .plain 4 s fun s =>
    if s.tk.bkstop then ((s.setThr { s.thr with st := .ready }).stopCore s.tk.core, .left)
    else (s, .fault 0x08 0 n.toNat)

/-- R183: returns from a reflected handler. -/
def execTret (s : State) : Host.Outcome State Fault Refusal := issue .barred 4 s State.trapReturn

/-- R184: leaves a PC-match handler; outside one it raises 0x01. -/
def execPmret (s : State) : Host.Outcome State Fault Refusal :=
  issue .plain 4 s fun s =>
    if s.thr.pmepc.toNat % 4 != 0 then (s, .fault 0x04 0 0)
    else if s.thr.shadow.isNone then (s, .fault 0x01 0 0)
    else (s.leaveHandler s.cur.1 s.cur.2, .left)

/-- Invalidate the instruction cache of a task's core: every later fetch is made anew (R185, R281). -/
def State.flushCode (s : State) (tid : Nat) : State :=
  let s := s.dropFetches tid
  s.setCore (s.task tid).core { s.core (s.task tid).core with icache := [] }

/-- R185: drains the write-through buffer, then invalidates the core's instruction cache. The buffers of the core's other threads are
drained too: its loads return their bytes (R261), so the fetches that follow must find them at their homes. -/
def execIflush (s : State) : Host.Outcome State Fault Refusal :=
  issue .plain 4 s fun s =>
    let s := s.performWhere s.cur.1 fun _ => true
    if s.tk.entries.isEmpty then s.deliverOr s.isStoreFault fun s => (s.flushCode s.cur.1, .done) else (s, .wait .drain)

/-- R186: a nop that keeps its thread from leading the next group. -/
def execYield (s : State) : Host.Outcome State Fault Refusal :=
  issue .plain 4 s fun s => (s.setTk { s.tk with avoid := s.tk.avoid ++ [s.cur.2] }, .done)

/-- R64: raises 0x01. -/
def execIll (_n : BitVec 16) (s : State) : Host.Outcome State Fault Refusal := issue .plain 4 s fun s => (s, .fault 0x01 0 0)

/-- R497: emits a marker record when trace is on; poison goes into the record. -/
def execPmark (a : Reg) (s : State) : Host.Outcome State Fault Refusal :=
  issue .plain 4 s fun s => (s.traceRec s.cur.1 s.cur.2 2 (s.xp a).toNat (s.x a).toNat, .done)

/-- R497: when a debugger holds the core, stops it with pc after the dstop. -/
def execDstop (s : State) : Host.Outcome State Fault Refusal :=
  issue .plain 4 s fun s =>
    if (s.core s.tk.core).dbgHeld then
      ((s.setThr { s.thr with st := .ready, pc := s.thr.pc + 4, skipPm := false }).stopCore s.tk.core, .left)
    else (s, .done)

end Sys2Proof.Machine
end

