-- ==== Sys2Proof/Machine/Csr.lean ====
section
/-! DEFINITION. The control and status registers: what each reads and what a core's write does (R120, R242, R288, R292, R309,
R310, R322, R323, R360, R372, R415, R451, R467, R474, R493, R498 to R500, R172), the CSR instructions (R168 to R171), and the
steps that write one register (R171, R289, R309, R493, R498, R499). -/

namespace Sys2Proof.Machine

/-- A Bool at a bit position. -/
def bitN (b : Bool) (i : Nat) : Nat := if b then 2 ^ i else 0

/-- The code of a copy's state in SKEWST (R416). -/
def Sync.code : Sync → Nat
  | .sync => 0
  | .hold => 1
  | .unsync => 2

/-- A signed value saturated to n bits, as its code. -/
def satS (n : Nat) (v : Int) : Nat := ofInt n (clampInt v (-(2 ^ (n - 1) : Nat)) ((2 ^ (n - 1) : Nat) - 1))

/-- TLERRt: whether a fault is pending on counter t, and the number of the oldest one (R241). -/
def Task.tlerr (k : Task) (t : Nat) : Nat :=
  match k.pend.find? (fun p => p.ctr == t) with
  | some p => 2 ^ 63 + p.seq
  | none => 0

/-- Granules of a block. -/
def Block.granules (b : Block) : Nat := 2 ^ (b.log - 12)

/-- SPSTAT (R256). -/
def State.spstat (s : State) (k : Task) : Nat :=
  let c := s.cluster k.cluster
  let pinned := (c.blocks.filter fun b => b.pin != 0 && AMap.get c.granule b.base 0 == k.ctx + 1).map Block.granules
  let all := (c.blocks ++ c.broken).map Block.granules
  k.miss * 2 ^ 32 + pinned.sum * 2 ^ 16 + (1536 - all.sum)

/-- OMUSTAT.LOCK: all eight regions within 0.05 °C; errors are in 1/64 °C (R307, R310). -/
def Cluster.lock (c : Cluster) : Bool := c.terr.length == 8 && c.terr.all fun e => -3 ≤ e && e ≤ 3

/-- OMUSTAT (R310). -/
def State.omustat (s : State) (cl : Nat) : Nat :=
  let c := s.cluster cl
  c.enobp * 2 ^ 32 + c.staged.length * 2 ^ 20 + c.omuHeld.length * 2 ^ 15 + c.bank * 2 ^ 11 + bitN c.drwarn 2
    + bitN c.lock 1 + bitN (s.omuAvail cl) 0

/-- DRIFT (R310). -/
def Cluster.drift (c : Cluster) : Nat :=
  c.emax * 2 ^ 56 + c.pbank * 2 ^ 52 + ((List.range 8).map fun r => satS 6 (c.terr.getD r 0) * 2 ^ (6 * r)).sum

/-- SKEWST (R416). -/
def State.skewst (s : State) (cl : Nat) : Nat :=
  let t := (s.cluster cl).time
  satS 16 t.err * 2 ^ 32 + satTo 65535 t.loss * 2 ^ 16 + s.podTime.st.code * 16 + (s.die (dieOf cl)).time.st.code * 4
    + t.st.code

/-- THALW of a stack (R467): TEMP in 1/16 °C, the thermal state, and the allowance in quarter degrees below 85 °C. -/
def Stack.thalw (t : Stack) : Nat :=
  ofInt 16 t.temp * 2 ^ 16 + bitN (t.th == .self) 9 + bitN (t.th != .normal) 8
    + (clampInt (340 - t.temp / 4) 0 255).toNat

/-- The state code of a port (R449). -/
def PortState.code : PortState → Nat
  | .off => 0
  | .train => 1
  | .lock => 2
  | .up => 3
  | .drain => 4
  | .dark => 5
  | .relock => 6
  | .degraded => 7
  | .fenced => 8

/-- What LWIN reads while LWSEL.SEL holds the reserved value 3 is not stated (R451); DESIGN CHOICE (log entry 132): what it reads for SEL 2. The
lstat result (R449): a port for SEL 0 and 2, a module for SEL 1. -/
def State.lstat (s : State) (v sel : Nat) : Nat :=
  let n := v % 128
  let p := s.port n
  match sel with
  | 0 =>
    if 107 < n then 0
    else satTo 65535 p.replays * 2 ^ 48 + satTo 255 p.badpkt * 2 ^ 40 + p.peerPort % 128 * 2 ^ 22 + p.peer % 1024 * 2 ^ 12
      + popcount 8 (p.lane 1).waves * 2 ^ 8 + popcount 8 (p.lane 0).waves * 2 ^ 4 + p.st.code
  | 1 =>
    let m := v % 1024
    bitN (s.routeHeld m) 2 + bitN (s.peerLocal m) 1 + bitN (!bitAt (s.routeOf m) 28) 0
  | _ => if 107 < n then 0 else (p.lane 1).waves % 256 * 256 + (p.lane 0).waves % 256

/-- An item of a monitor (R500). -/
def Monitor.item (m : Monitor) (i : Nat) : Nat :=
  match i with
  | 0 => m.count
  | 1 => m.min
  | 2 => m.max
  | 3 => m.sum
  | _ => if i < 12 then AMap.get m.bucket (i - 4) 0 else 0

/-- A monitor of a core. -/
def Core.mon (c : Core) (n : Nat) : Monitor := AMap.get c.mons n (Monitor.cleared 0)

/-- MONVAL (R500). -/
def State.monval (s : State) (k : Task) (t : Thread) : Nat :=
  ((s.core k.core).mon (t.monsel.toNat / 16 % 4)).item (t.monsel.toNat % 16)

/-- What the current thread reads from a CSR; none for an unassigned number, or for PMEPC outside a handler (R169, R493). -/
def State.csrRead (s : State) (n : Nat) : Option Word :=
  let k := s.tk
  let t := s.thr
  let cl := k.cluster
  let c := s.cluster cl
  let w (v : Nat) : Option Word := some (BitVec.ofNat 64 v)
  match n with
  | 0x000 => some t.tflags
  | 0x001 => w s.cur.2
  | 0x002 => w k.core
  | 0x003 => w cl
  | 0x004 => w k.kid
  | 0x005 => w k.ctx
  | 0x006 => w Config.vlen
  | 0x010 => w s.ctime
  | 0x011 => w (k.cycles / 1000)
  | 0x020 => w k.fusecnt
  | 0x021 => w k.issuecnt
  | 0x030 => some k.trapent
  | 0x031 => w (cmBase + k.trapOff)
  | 0x040 => w (k.line 0).value
  | 0x041 => w (k.line 1).value
  | 0x042 => w (k.line 2).value
  | 0x043 => w (k.line 3).value
  | 0x044 => w (k.tlerr 0)
  | 0x045 => w (k.tlerr 1)
  | 0x046 => w (k.tlerr 2)
  | 0x047 => w (k.tlerr 3)
  | 0x048 => w (k.line 0).issued
  | 0x049 => w (k.line 1).issued
  | 0x04A => w (k.line 2).issued
  | 0x04B => w (k.line 3).issued
  | 0x050 => w k.lrec.handles
  | 0x051 => w (s.spstat k)
  | 0x090 => w (s.omustat cl)
  | 0x091 => w c.drift
  | 0x092 => some k.enob
  | 0x093 => w c.phprobe
  | 0x094 => w c.drlimit
  | 0x095 => some k.drfail
  | 0x096 => w k.gain
  | 0x0C0 => some (AMap.get k.gmem 1 0)
  | 0x0C1 => some (AMap.get k.gmem 2 0)
  | 0x0C2 => some (AMap.get k.gmem 3 0)
  | 0x0C3 => some (AMap.get k.gmem 4 0)
  | 0x0C8 => some k.sstep
  | 0x0C9 => some k.vote
  | 0x0CA => some k.stagger
  | 0x0CB => w k.lrec.imbring
  | 0x0E0 => some k.karg
  | 0x0E1 => some k.kflags
  | 0x0E2 => some k.qid
  | 0x0E3 => some k.audit
  | 0x100 => w s.hlease
  | 0x101 => w (s.skewst cl)
  | 0x102 => w (bitN (s.ctx k.ctx).pgen 63 + (s.ctx k.ctx).pgepoch % 256)
  | 0x120 => w (s.ctime / 256)
  | 0x121 => w (s.ctime % 256)
  | 0x122 => some k.lwsel
  | 0x123 => w (if k.lwsel.toNat / 128 == 1 then 0 else s.lstat k.lwsel.toNat (k.lwsel.toNat / 128))
  | 0x124 => w s.chgep
  | 0x148 => w (k.pload * 2 ^ 32 + satTo 65535 (s.core k.core).corr)
  | 0x170 => some k.pmctl
  | 0x171 => if t.shadow.isSome then some t.pmepc else none
  | 0x172 => some k.trbase
  | 0x178 => some t.monsel
  | 0x179 => w (s.monval k t)
  | 0x180 => some t.fltrec
  | 0x181 => w ((s.ctx k.ctx).desc.flags % 16)
  | 0x1A0 => some t.lr
  | _ =>
    if 0x080 ≤ n && n ≤ 0x08F then some (AMap.get c.tcfg (n - 0x080) 0)
    else if 0x0A0 ≤ n && n ≤ 0x0A7 then some (AMap.get k.caps (n - 0x0A0) 0)
    else if 0x140 ≤ n && n ≤ 0x147 then w (s.stack (n - 0x140)).thalw
    else if 0x160 ≤ n && n ≤ 0x16F then some (AMap.get k.pmt (n - 0x160) 0)
    else if 0x174 ≤ n && n ≤ 0x177 then some ((s.core k.core).mon (n - 0x174)).cfg
    else none

/-- The outcome of a CSR write. -/
inductive CsrW where
  | ok (s : State)
  | refused
  | wait (w : Wait)

/-- Fields of a TCFG (R288). -/
def tcfgValid (v : Word) : Bool := v.getLsbD 16
/-- FMT. -/
def tcfgFmt (v : Word) : Nat := v.toNat / 2 ^ 14 % 4
/-- The chunk count. -/
def tcfgChunks (v : Word) : Nat := v.toNat / 2 ^ 8 % 8 + 1
/-- The row count. -/
def tcfgRows (v : Word) : Nat := v.toNat % 128 + 1
/-- OWNER. -/
def tcfgOwner (v : Word) : Nat := v.toNat / 2 ^ 48

/-- Bytes of a chunk by FMT (R287). -/
def chunkBytes (fmt : Nat) : Nat :=
  match fmt with
  | 0 => 68
  | 1 => 36
  | 2 => 256
  | _ => 128

/-- The row size of a configured tile. -/
def tcfgRow (v : Word) : Nat := tcfgChunks v * chunkBytes (tcfgFmt v)

/-- Whether an operation of the optical matrix unit names a tile. -/
def OmuKind.names (o : OmuKind) (n : Nat) : Bool :=
  match o with
  | .pass m _ _ => m.ta.toNat == n || m.tc.toNat == n
  | .tzero t => t == n
  | .tacc a b => a == n || b == n
  | _ => false

/-- Whether an earlier instruction of a thread still holds a tile (R315): an operation of the optical matrix unit that has yet to run, a
HELD pass that will write it, or a cpytile. -/
def Cluster.tileHolds (c : Cluster) (tid slot n before : Nat) : Bool :=
  let mine (p : OmuOp) : Bool := p.tid == tid && p.slot == slot && p.since < before
  (c.staged ++ c.flight.toList).any (fun p => mine p && p.kind.names n)
    || c.omuHeld.any (fun p => mine p && (match p.kind with | .pass m _ _ => m.tc.toNat == n | _ => false))
    || c.copies.any fun p => p.isTile && p.tile == n && p.tid == tid && p.slot == slot && p.since < before

/-- Whether some unretired operation of a cluster names a tile (R289). -/
def Cluster.tileBusy (c : Cluster) (n : Nat) : Bool :=
  (c.staged ++ c.flight.toList ++ c.omuHeld).any (fun o => o.kind.names n)
    || c.copies.any fun o => o.isTile && o.tile == n

/-- The bits of a TCFG that a core writes (R288). -/
def tcfgMask : Word := 0x1C77F

/-- A write of TCFGn (R289). -/
def State.writeTcfg (s : State) (k : Task) (n : Nat) (v : Word) : CsrW :=
  let cl := k.cluster
  let c := s.cluster cl
  let old := AMap.get c.tcfg n 0
  let me := k.kid % 65536
  if tcfgValid old && tcfgOwner old != me then .refused
  else if c.tileBusy n then .wait .tile
  else
    let v := v &&& tcfgMask
    let tooBig : Bool := 69632 < tcfgRows v * tcfgRow v
    let v := if tcfgValid v && tooBig then v &&& ~~~0x10000 else v
    let owner := if tcfgValid v then me else tcfgOwner old
    .ok (s.setCluster cl { c with tcfg := AMap.set c.tcfg n (v ||| BitVec.ofNat 64 (owner * 2 ^ 48)) 0 })

/-- Fields of a capability (R292). -/
def capOmu (v : Word) : Nat := v.toNat % 128
/-- CONTEXT. -/
def capCtx (v : Word) : Nat := v.toNat / 2 ^ 39 % 64

/-- Whether the core holds the PHASE right for its own cluster's OMU (R309). -/
def Task.phaseHere (k : Task) : Bool :=
  (List.range 8).any fun i =>
    let c := AMap.get k.caps i 0
    c.getLsbD 46 && capOmu c == k.cluster

/-- What TRBASE stores: BASE, and LOGN brought into its range (R498). -/
def trbaseOf (v : Word) : Word :=
  let n := v.toNat % 32
  let n := if n == 0 then 0 else if n < 6 then 6 else if 20 < n then 20 else n
  BitVec.ofNat 64 (v.toNat / 4096 * 4096 + n)

/-- What MONCFG stores: SHIFT and a defined EVENT (R499). -/
def moncfgOf (v : Word) : Word :=
  let e := v.toNat % 256
  let e := if e ≤ 7 || (16 ≤ e && e ≤ 19) then e else 0
  BitVec.ofNat 64 (v.toNat / 4096 % 16 * 4096 + e)

/-- Write a MONCFG of a core: the monitor is cleared (R499). -/
def State.writeMoncfg (s : State) (core n : Nat) (v : Word) : State :=
  let c := s.core core
  s.setCore core { c with mons := AMap.put c.mons n (Monitor.cleared (moncfgOf v)) }

/-- What PHPROBE stores (R309). -/
def phprobeOf (v : Word) : Nat :=
  let n := v.toNat % 32
  if n == 0 then 1 else if 16 < n then 16 else n

/-- What GAIN stores (R309). -/
def gainOf (v : Word) : Nat := min (v.toNat % 16) 12

/-- A write of PMCTL: HBASE, TREN and PMEN are stored, BKSTOP stays, OVR clears (R493). -/
def pmctlOf (old v : Word) : Word := (v &&& ~~~0xFFC) ||| (old &&& 4)

/-- The current thread writes a CSR: reserved fields are ignored (R12), restricted registers are refused to helpers (R120, R323,
R493, R498). -/
def State.csrWrite (s : State) (n : Nat) (v : Word) : CsrW :=
  let k := s.tk
  let t := s.thr
  let control := s.cur.2 == 0
  let cl := k.cluster
  let c := s.cluster cl
  let byControl (r : State) : CsrW := if control then .ok r else .refused
  match n with
  | 0x000 => .ok (s.setThr { t with tflags := v &&& tflagsMask })
  | 0x030 => byControl (s.setTk { k with trapent := v &&& ~~~3 })
  | 0x093 => if k.phaseHere then .ok (s.setCluster cl { c with phprobe := phprobeOf v }) else .refused
  | 0x094 => if k.phaseHere then .ok (s.setCluster cl { c with drlimit := v.toNat % 256 }) else .refused
  | 0x096 => .ok (s.setTk { k with gain := gainOf v })
  | 0x0CA => byControl (s.setTk { k with stagger := v &&& 0x3FF })
  | 0x122 => .ok (s.setTk { k with lwsel := v &&& 0x1FF })
  | 0x170 => byControl (s.setTk { k with pmctl := pmctlOf k.pmctl v })
  | 0x171 => if t.shadow.isSome then .ok (s.setThr { t with pmepc := v }) else .refused
  | 0x172 => byControl (s.setTk { k with trbase := trbaseOf v })
  | 0x178 => .ok (s.setThr { t with monsel := v &&& 0x3F })
  | 0x1A0 => .ok (s.setThr { t with lr := v })
  | _ =>
    if 0x080 ≤ n && n ≤ 0x08F then s.writeTcfg k (n - 0x080) v
    else if 0x160 ≤ n && n ≤ 0x16F then byControl (s.setTk { k with pmt := AMap.set k.pmt (n - 0x160) (v &&& ~~~2) 0 })
    else if 0x174 ≤ n && n ≤ 0x177 then .ok (s.writeMoncfg k.core (n - 0x174) v)
    else .refused

/-- csrw, csrs and csrc: poison first (R150, R170), then the refusals of R169; old value to xd without poison. -/
def csrUpdate (f : Word → Word → Word) (d a : Reg) (csr : BitVec 12) (s : State) : State × Res :=
  s.unlessPoison [a] fun s =>
    match s.csrRead csr.toNat with
    | none => (s, .fault 0x06 0 0)
    | some old =>
      match s.csrWrite csr.toNat (f old (s.x a)) with
      | .refused => (s, .fault 0x06 0 0)
      | .wait w => (s, .wait w)
      | .ok s => (s.setX d old false, .done)

/-- R168: reads a CSR. -/
def execCsrr (d : Reg) (csr : BitVec 12) (s : State) : Host.Outcome State Fault Refusal :=
  issue .plain 4 s fun s =>
    match s.csrRead csr.toNat with
    | none => (s, .fault 0x06 0 0)
    | some v => (s.setX d v false, .done)

/-- R168: writes a CSR. -/
def execCsrw (d a : Reg) (csr : BitVec 12) (s : State) : Host.Outcome State Fault Refusal :=
  issue .plain 4 s (csrUpdate (fun _ x => x) d a csr)
/-- R168: sets bits of a CSR. -/
def execCsrs (d a : Reg) (csr : BitVec 12) (s : State) : Host.Outcome State Fault Refusal :=
  issue .plain 4 s (csrUpdate (fun o x => o ||| x) d a csr)
/-- R168: clears bits of a CSR. -/
def execCsrc (d a : Reg) (csr : BitVec 12) (s : State) : Host.Outcome State Fault Refusal :=
  issue .plain 4 s (csrUpdate (fun o x => o &&& ~~~x) d a csr)

/-! ## The steps of single registers -/

/-- A core's write reaches a CSR: applied as the thread's own write, or refused without effect. -/
def State.csrWriteBy (s : State) (core slot n : Nat) (v : Word) : State :=
  match s.running core with
  | none => s
  | some tid =>
    let cur := s.cur
    match ({ s with cur := (tid, slot) } : State).csrWrite n v with
    | .ok r => { r with cur := cur }
    | _ => s

/-- R171: a CSR write takes effect. -/
def execCsrWrite (core slot num : Nat) (val : Word) (s : State) : Host.Outcome State Fault Refusal :=
  event s fun s => s.csrWriteBy core slot num val
/-- R289: a write of TCFGn takes effect once nothing that names the tile is unretired. -/
def execTcfgWrite (core slot n : Nat) (val : Word) (s : State) : Host.Outcome State Fault Refusal :=
  event s fun s => if n < 16 then s.csrWriteBy core slot (0x080 + n) val else s
/-- R309: a write of PHPROBE. -/
def execPhprobeWrite (core : Nat) (val : Word) (s : State) : Host.Outcome State Fault Refusal :=
  event s fun s => s.csrWriteBy core 0 0x093 val
/-- R309: a write of DRLIMIT. -/
def execDrlimitWrite (core : Nat) (val : Word) (s : State) : Host.Outcome State Fault Refusal :=
  event s fun s => s.csrWriteBy core 0 0x094 val
/-- R309: a write of GAIN. -/
def execGainWrite (core : Nat) (val : Word) (s : State) : Host.Outcome State Fault Refusal :=
  event s fun s => s.csrWriteBy core 0 0x096 val
/-- A debugger that holds a core arms or disarms bkpt there: PMCTL.BKSTOP (R182, R493). -/
def State.armBreak (s : State) (core : Nat) (on : Bool) : State :=
  match s.running core with
  | some tid =>
    if (s.core core).dbgHeld then
      let k := s.task tid
      s.setTask tid { k with pmctl := (k.pmctl &&& ~~~4) ||| (if on then 4 else 0) }
    else s
  | none => s

/-- R493: a write of PMCTL by the thread of a slot, or, with slot 16, a debugger's write of its BKSTOP (log entry 29). -/
def execPmctlWrite (core slot : Nat) (val : Word) (s : State) : Host.Outcome State Fault Refusal :=
  event s fun s => if slot == 16 then s.armBreak core (val.getLsbD 2) else s.csrWriteBy core slot 0x170 val
/-- R498: a write of TRBASE. -/
def execTrbaseWrite (core slot : Nat) (val : Word) (s : State) : Host.Outcome State Fault Refusal :=
  event s fun s => s.csrWriteBy core slot 0x172 val
/-- R499: a write of MONCFGn clears the monitor. -/
def execMoncfgWrite (core n : Nat) (val : Word) (s : State) : Host.Outcome State Fault Refusal :=
  event s fun s => if n < 4 then s.writeMoncfg core n val else s

/-- A monitor takes a sample (R499): COUNT, MIN, MAX, SUM and a bucket, each saturating. -/
def Monitor.sample (m : Monitor) (v : Nat) : Monitor :=
  let top := 2 ^ 64 - 1
  let b := Nat.min (v / 2 ^ (m.cfg.toNat / 4096 % 16)) 7
  { m with count := satTo top (m.count + 1), min := Nat.min m.min v, max := Nat.max m.max v,
           sum := satTo top (m.sum + v), bucket := AMap.put m.bucket b (satTo top (AMap.get m.bucket b 0 + 1)) }

/-- R499: a latency in ns reaches a monitor that counts one, while a task is on the core; the levels are sampled as time passes. -/
def execMonitorSample (core mon v : Nat) (s : State) : Host.Outcome State Fault Refusal :=
  event s fun s =>
    let c := s.core core
    let m := c.mon mon
    if mon < 4 && m.cfg.toNat % 256 != 0 && m.cfg.toNat % 256 < 16 && c.run.isSome then
      s.setCore core { c with mons := AMap.put c.mons mon (m.sample (satTo (2 ^ 64 - 1) v)) }
    else s

end Sys2Proof.Machine
end

