-- ==== Sys2Proof/Machine/Ideal.lean ====
section
/-! DEFINITION. The transfer of a set of phase codes (R112, R113, R284, R286) and the ideal codes of a chunk (R298, R299, R302), in fixed
point with p fraction bits; what the spec rounds is computed with as many bits as it takes to round it (log entry 67). -/

namespace Sys2Proof.Machine

/-- The first precision: fraction bits of the mesh's arithmetic for ideal codes (log entry 31). -/
def meshBits : Nat := 60

/-- What f gives at the first of the precisions p, 2p, 4p, … where ok holds; fuel bounds the doublings. -/
def refine {α : Type} (f : Nat → α) (ok : α → Bool) (fuel p : Nat) : α :=
  match fuel with
  | 0 => f p
  | fuel + 1 => let a := f p; if ok a then a else refine f ok fuel (2 * p)

/-- What the spec rounds is known exactly at such a precision, or lies exactly on a tie: it is an algebraic number of bounded degree and
height (log entry 67). -/
def exactly {α : Type} (f : Nat → α) (ok : α → Bool) : α := refine f ok 64 meshBits

/-- A complex number in fixed point. -/
structure Cx where
  re : Int
  im : Int

/-- The product of two fixed-point numbers. -/
def fxMul (p : Nat) (a b : Int) : Int := a * b / 2 ^ p

/-- The product of complex numbers. -/
def Cx.mul (p : Nat) (a b : Cx) : Cx := ⟨fxMul p a.re b.re - fxMul p a.im b.im, fxMul p a.re b.im + fxMul p a.im b.re⟩

/-- A complex number times a real one. -/
def Cx.scale (p : Nat) (a : Cx) (r : Int) : Cx := ⟨fxMul p a.re r, fxMul p a.im r⟩

/-- The sum of complex numbers. -/
def Cx.add (a b : Cx) : Cx := ⟨a.re + b.re, a.im + b.im⟩

/-- The phasors of an angle of the first quadrant with q fraction bits, and of n halvings of it. -/
def halvings (q n : Nat) (z : Cx) : List Cx :=
  match n with
  | 0 => [z]
  | n + 1 =>
    let c : Int := isqrt ((2 ^ q + z.re) * 2 ^ (q - 1)).toNat
    z :: halvings q n ⟨c, z.im * 2 ^ q / (2 * c)⟩

/-- The phasors of π / 2^j, j from 0 to 12. -/
def unitTable (p : Nat) : List Cx :=
  ⟨-2 ^ p, 0⟩ :: (halvings (p + 32) 11 ⟨0, 2 ^ (p + 32)⟩).map fun z => ⟨z.re / 2 ^ 32, z.im / 2 ^ 32⟩

/-- e to the i n π / 4096, from that table. -/
def unitAt (p : Nat) (tab : List Cx) (n : Nat) : Cx :=
  (List.range 13).foldl (fun z k => if bitAt n k then z.mul p (tab.getD (12 - k) ⟨0, 0⟩) else z) ⟨2 ^ p, 0⟩

/-- A cell: sin and cos of half its internal phase, and the phasor of its external phase (R284). -/
structure Cell where
  s : Int
  c : Int
  e : Cx

/-- The phase codes packed in bytes, two in three bytes (R111). -/
def unpackCodes : List Byte → List Nat
  | a :: b :: c :: r =>
    let w := a.toNat + 256 * b.toNat + 65536 * c.toNat
    w % 4096 :: w / 4096 :: unpackCodes r
  | _ => []

/-- The cells whose codes are listed, θ then φ (R112). -/
def meshCells (p : Nat) (tab : List Cx) : List Nat → List Cell
  | θ :: φ :: r => let z := unitAt p tab θ; ⟨z.im, z.re, unitAt p tab (2 * φ)⟩ :: meshCells p tab r
  | _ => []

/-- Couple the waveguides of a column pair by pair, forward or transposed (R284, R286). -/
def couple (p : Nat) (rev : Bool) : List Cell → List Cx → List Cx
  | k :: ks, x :: y :: r =>
    if rev then
      (((x.scale p k.s).add (y.scale p k.c)).mul p k.e) :: ((x.scale p k.c).add (y.scale p (-k.s))) :: couple p rev ks r
    else
      let ex := x.mul p k.e
      ((ex.scale p k.s).add (y.scale p k.c)) :: ((ex.scale p k.c).add (y.scale p (-k.s))) :: couple p rev ks r
  | _, xs => xs

/-- One column: an odd one passes its first and last waveguide (R113). -/
def column (p : Nat) (rev : Bool) (odd : Bool) (ks : List Cell) (xs : List Cx) : List Cx :=
  if odd then
    match xs with
    | x :: r => x :: couple p rev ks r
    | [] => []
  else couple p rev ks xs

/-- The columns of a mesh from column i on: parity and cells (R113). -/
def columnsOf (n i : Nat) (ks : List Cell) : List (Bool × List Cell) :=
  match n with
  | 0 => []
  | n + 1 =>
    let odd := i % 2 == 1
    let m := if odd then 31 else 32
    (odd, ks.take m) :: columnsOf n (i + 1) (ks.drop m)

/-- What a set of phase codes makes of the mesh (R112), in numbers with a precision: both meshes' columns, attenuators and output phasors. -/
structure Mesh where
  prec : Nat
  u1 : List (Bool × List Cell)
  u2 : List (Bool × List Cell)
  att : List Int
  out : List Cx

/-- The mesh of an image's 8,192 codes with p fraction bits. -/
def meshOf (p : Nat) (codes : List Nat) : Mesh :=
  let at_ (o n : Nat) := (codes.drop o).take n
  let tab := unitTable p
  { prec := p, u1 := columnsOf 64 0 (meshCells p tab (at_ 0 4032)), u2 := columnsOf 64 0 (meshCells p tab (at_ 4096 4032))
    att := (at_ 4032 64).map fun c => ((unitAt p tab c).re.natAbs : Int), out := (at_ 8128 64).map fun c => unitAt p tab (2 * c) }

/-- The transfer applied to a real vector, or its transpose (R284, R286). -/
def Mesh.apply (m : Mesh) (rev : Bool) (x : List Int) : List Int :=
  let p := m.prec
  let v := x.map fun r => (⟨r, 0⟩ : Cx)
  let w := if rev then
      let a := (m.u2.reverse).foldl (fun v c => column p true c.1 c.2 v) (List.zipWith (Cx.mul p) v m.out)
      (m.u1.reverse).foldl (fun v c => column p true c.1 c.2 v) (List.zipWith (Cx.scale p) a m.att)
    else
      let a := m.u1.foldl (fun v c => column p false c.1 c.2 v) v
      List.zipWith (Cx.mul p) (m.u2.foldl (fun v c => column p false c.1 c.2 v) (List.zipWith (Cx.scale p) a m.att)) m.out
  w.map Cx.re

/-- The magnitude that a sub-pass drives, of the full scale 64 or 4: all of it, its high slice or its low slice (R302). -/
def sliceMag (dx8 : Bool) (part m : Nat) : Nat :=
  match part with
  | 0 => m
  | 1 => if dx8 then m &&& 0x38 else m &&& 2
  | _ => if dx8 then (m % 8) * 8 else (m % 2) * 2

/-- The drive of one element with meshBits fraction bits, under the chunk's exponent (R298, R302). -/
def driveOf (dx8 : Bool) (part ein : Nat) (e : Nat) (neg : Bool) (m : Nat) : Int :=
  let v : Nat :=
    if ein < e then (if part == 2 then 0 else 63 * 2 ^ (meshBits - 6))
    else if 9 < ein - e then 0
    else sliceMag dx8 part m * 2 ^ (meshBits - (if dx8 then 6 else 2)) / 2 ^ (ein - e)
  if neg then -(v : Int) else v

/-- The 64 drives of a chunk's two blocks (R298). -/
def drivesOf (dx8 : Bool) (part ein : Nat) (blks : List (List Byte)) : List Int :=
  blks.flatMap fun b => (List.range 32).map fun i =>
    let q := dxElem dx8 b i
    driveOf dx8 part ein (dxExp b q.1) q.2.1 q.2.2

/-- The ideal codes at a gain, with the mesh's fraction bits (R299). -/
def Mesh.ideal (m : Mesh) (rev : Bool) (gain : Nat) (x : List Int) : List Int :=
  (m.apply rev x).map fun u => u * 2 ^ (9 - gain) / 2 ^ (gain - 9)

/-- A number with meshBits fraction bits rounded to an integer. -/
def fxRound (v : Int) : Int := (v + 2 ^ (meshBits - 1)) / 2 ^ meshBits

/-! ## What a decomposition computes of its source (R311) -/

/-- Whether a symmetric integer matrix is positive semidefinite, and if it is, whether definite: elimination without fractions, each
entry a minor divided exactly by the pivot before. -/
def semidefinite (fuel : Nat) (prev : Int) (m : List (List Int)) : Option Bool :=
  match fuel, m with
  | 0, _ => some true
  | fuel + 1, (p :: r) :: rows =>
    if p < 0 then none
    else if p == 0 then
      if r.all (· == 0) then (semidefinite fuel prev (rows.map (List.drop 1))).map fun _ => false else none
    else
      semidefinite fuel p (rows.map fun row =>
        match row with
        | h :: t => List.zipWith (fun a b => (p * a - h * b) / prev) t r
        | [] => [])
  | _, _ => some true

/-- The products of the columns of a matrix with one another. -/
def gram (cols : List (List Int)) : List (List Int) :=
  cols.map fun a => cols.map fun b => (List.zipWith (· * ·) a b).sum

/-- x squared times the identity, less a symmetric matrix. -/
def shifted (x : Int) (g : List (List Int)) : List (List Int) := g.mapIdx fun i r => r.mapIdx fun j v => (if i == j then x * x else 0) - v

/-- Whether the largest singular value is below x (some true), equal to it (some false), or above (none). -/
def sigmaTest (g : List (List Int)) (x : Int) : Option Bool := semidefinite 65 1 (shifted x g)

/-- The largest n below lo + 2^k whose n × u does not exceed the largest singular value, by halving. -/
def sigmaFloor (g : List (List Int)) (u : Int) (k : Nat) (lo : Int) : Int :=
  match k with
  | 0 => lo
  | k + 1 => sigmaFloor g u k (if sigmaTest g ((lo + 2 ^ k) * u) = some true then lo else lo + 2 ^ k)

/-- A finite binary32 value times 2^189, an integer. -/
def f32Int (c : Nat) : Int :=
  match f32.value c with
  | .fin n m e => if n then -((m : Int) * 2 ^ (e + 189).toNat) else (m : Int) * 2 ^ (e + 189).toNat
  | _ => 0

/-- The largest singular value of 4,096 integers times 2^unit, row-major: rounded to binary32, and the integers between which it lies, with b
significant bits (R311). -/
def singularOf (b : Nat) (xs : List Int) (unit : Int) : Nat × Int × Int :=
  let cols := (List.range 64).map fun j => (List.range 64).map fun i => xs.getD (64 * i + j) 0
  let g := gram cols
  -- The sum of squares is at least the square of the value and at most 64 times it.
  let l := Nat.log2 ((g.mapIdx fun i (r : List Int) => r.getD i 0).sum.toNat) / 2 + 1
  let u : Int := 2 ^ (l - b)
  let n := sigmaFloor g u (b + 1) 0
  ((f32.round ⟨1, false, false⟩ false n.toNat ((l - b : Nat) + unit) (sigmaTest g (n * u) = none)).1, n * u, (n + 1) * u)

/-- The transfer T of a set of phase codes, row-major, with the mesh's fraction bits (R284). -/
def Mesh.matrix (m : Mesh) : List Int :=
  let cols := (List.range 64).map fun j => m.apply false ((List.range 64).map fun i => if i == j then 2 ^ m.prec else 0)
  (List.range 64).flatMap fun i => cols.map fun c => c.getD i 0

/-- The integers that 64 × sum of T × level / 128 may round to with the mesh's precision, for each output of a probe vector (R311). -/
def Mesh.response (m : Mesh) (levels : List Int) : List (Int × Int) :=
  (m.apply false (levels.map fun l => l * 2 ^ m.prec / 128)).map fun v =>
    let half : Int := 2 ^ (m.prec - 1)
    ((64 * v - 2 ^ 28 + half) / 2 ^ m.prec, (64 * v + 2 ^ 28 + half) / 2 ^ m.prec)

/-- The expected responses of a probe vector: rounded to nearest even, which decides a tie, and clamped (R311). -/
def responsesOf (codes : List Nat) (levels : List Int) : List Int :=
  (exactly (fun p => (meshOf p codes).response levels) fun l => l.all fun r => r.1 == r.2).map fun r =>
    clampInt (if r.1 % 2 == 0 then r.1 else r.2) (-511) 511

end Sys2Proof.Machine
end

