-- ==== Sys2Proof/Machine/Omu.lean ====
section
/-! DEFINITION. The optical matrix unit: acceptance of operations (R293 to R296), the result rule (R298 to R302), probes, windows and
drift (R303 to R305), status records (R306), and the loss of the unit (R21, R294). -/

namespace Sys2Proof.Machine

/-! ## Exact values -/

/-- The exact sum of two values. -/
def FV.plus (a b : FV) : FV :=
  match a, b with
  | .nan _, _ => .nan false
  | _, .nan _ => .nan false
  | .inf x, .inf y => if x == y then .inf x else .nan false
  | .inf x, _ => .inf x
  | _, .inf y => .inf y
  | .fin na ma ea, .fin nb mb eb =>
    let e := min ea eb
    let v := atExp na ma ea e + atExp nb mb eb e
    .fin (v < 0) v.natAbs e

/-- c × scale × 2^ex exactly; a code of 0 and a scale of 0 give +0 (R299). -/
def FV.timesCode (scale : FV) (c ex : Int) : FV :=
  if c == 0 then .fin false 0 0
  else match scale with
    | .nan _ => .nan false
    | .inf n => .inf (n != (c < 0 : Bool))
    | .fin n m e => if m == 0 then .fin false 0 0 else .fin (n != (c < 0 : Bool)) (m * c.natAbs) (e + ex)

/-! ## The fields of a pass (R298, R302, R316) -/

/-- Rows of a pass. -/
def mxpRows (m : MxpW) : Nat := m.rows.toNat + 1
/-- Chunks of a pass. -/
def mxpChunks (m : MxpW) : Nat := m.chunks.toNat + 1
/-- Banks that each chunk uses. -/
def mxpPer (m : MxpW) : Nat := if m.slice = 2 then 2 else 1
/-- The last bank used (R295). -/
def mxpLast (m : MxpW) : Nat := m.bank.toNat + mxpChunks m * mxpPer m - 1
/-- The banks used, in order. -/
def mxpBanks (m : MxpW) : List Nat := (List.range (mxpChunks m * mxpPer m)).map fun i => m.bank.toNat + i
/-- AROW0. -/
def arow0 (xb : Word) : Nat := xb.toNat % 128
/-- ACH0. -/
def ach0 (xb : Word) : Nat := xb.toNat / 2 ^ 7 % 8
/-- CROW0. -/
def crow0 (xb : Word) : Nat := xb.toNat / 2 ^ 10 % 128
/-- CCH. -/
def cch (xb : Word) : Nat := xb.toNat / 2 ^ 17 % 8
/-- SLOT of mxps. -/
def statusSlot (xb : Word) : Nat := xb.toNat / 2 ^ 32 % 32768

/-- The sub-passes of a bank: the weight's exponent and the gain (R302). -/
def subPasses (slice : Nat) (dx8 : Bool) (g : Nat) : List (Int × Nat) :=
  let w : Nat := if dx8 then 3 else 1
  if slice == 0 then [(0, g)] else [(0, g), (-(w : Int), g - w)]

/-! ## Streaming and detection (R294, R298, R299) -/

/-- The drives of one A chunk by slice of A: one for an unsliced pass, high and low for a sliced one (R302). -/
def chunkDrives (dx8 sliced : Bool) (ein : Nat) (blks : List (List Byte)) : List (List Int) :=
  (if sliced then [1, 2] else [0]).map fun part => drivesOf dx8 part ein blks

/-- The cell of one A chunk: Ein, NaN, poison, and the ideal codes of its sub-passes on the given meshes (R298, R302), not detected yet; and
whether an element stands above full scale. -/
def cellOf (dx8 rev : Bool) (subs : List (Int × Nat)) (meshes : List Mesh) (bs : List PByte) : PassCell × Bool :=
  let n := dxBytes dx8
  let blks := [bs.take n, (bs.drop n).take n].map fun b => b.map PByte.b
  let ein := (blks.map fun b => dxExp b false).foldl Nat.max 0
  let sels := blks.flatMap fun b => (List.range 32).map fun i => dxExp b (dxElem dx8 b i).1
  let drives := chunkDrives dx8 (decide (1 < subs.length)) ein blks
  ({ ein := ein, nan := ein == 0xFF || sels.any (· == 0xFF), pois := bs.any PByte.p,
     ideal := meshes.flatMap fun m => List.zipWith (fun (w : Int × Nat) d => m.ideal rev w.2 d) subs drives
     raw := [], codes := [], miss := [] },
    sels.any fun e => ein < e)

/-- The mesh that a bank of a unit holds. -/
def State.bankMesh (s : State) (cl b : Nat) : Mesh := meshOf meshBits (unpackCodes ((s.mem.read (bankKey cl b 0) 0x3000).map PByte.b))

/-- The A chunks that a pass reads, row by row, with the ideal codes of its banks. -/
def State.readA (s : State) (cl : Nat) (m : MxpW) (xb : Word) (gain : Nat) : List (PassCell × Bool) :=
  let t := AMap.get (s.cluster cl).tcfg m.ta.toNat 0
  let dx8 := tcfgFmt t == 0
  let n := chunkBytes (tcfgFmt t)
  let meshes := (mxpBanks m).map (s.bankMesh cl)
  (List.range (mxpRows m)).flatMap fun i => (List.range (mxpChunks m)).map fun k =>
    cellOf dx8 m.dir (subPasses m.slice.toNat dx8 gain) ((meshes.drop (k * mxpPer m)).take (mxpPer m))
      (s.mem.read (tileKey cl m.ta.toNat ((arow0 xb + i) * tcfgRow t + (ach0 xb + k) * n)) n)

/-- The codes that the detector delivers for a cell, before its clamp: the ideal codes, each with a free deviation (R299, R301). -/
def rawCodes (seed cell : Nat) (ideal : List (List Int)) : List (List Int) :=
  ideal.mapIdx fun u l => l.mapIdx fun o c => fxRound c + Config.detector seed ((cell * 4 + u) * 64 + o)

/-- The detector's clamp (R299). -/
def clampCode (c : Int) : Int := clampInt c (-511) 511

/-- Codes that the detector clamps. -/
def countClamped (cs : List (List Int)) : Nat := (cs.map fun l => (l.filter fun c => clampCode c != c).length).sum

/-- A cell whose codes before the clamp are given. -/
def PassCell.withRaw (c : PassCell) (raw : List (List Int)) : PassCell := { c with raw := raw, codes := raw.map fun l => l.map clampCode }

/-- SAT and SATN of a pass (R299). -/
def OmuOp.counted (o : OmuOp) : OmuOp :=
  let n := (o.cells.map fun c => countClamped c.raw).sum
  { o with satn := n, sat := o.clipped || n != 0 }

/-- A detected pass (R294, R299): the codes of its sub-passes, SAT and SATN. -/
def OmuOp.detect (o : OmuOp) (seed : Nat) : OmuOp :=
  ({ o with cells := o.cells.mapIdx fun j c =>
      { c.withRaw (rawCodes seed j c.ideal) with miss := (List.range 64).filter fun u => Config.promiseMissed seed (64 * j + u) } } : OmuOp).counted

/-! ## The promise (R301, R302; log entry 61) -/

/-- How much a code of each sub-pass of a cell weighs, with 6 fraction bits, in codes at the gain of the pass times 2^189. -/
def codeWeights (scales : List Nat) (subs : List (Int × Nat)) (gain : Nat) : List Int :=
  scales.flatMap fun sc => subs.map fun w => f32Int sc * 2 ^ (6 + (w.2 : Int) + w.1 - gain).toNat

/-- How far codes lie from the ideal ones in all, with meshBits fraction bits and their weights. -/
def deviation (ks ideal raw : List Int) : Int :=
  ((ks.zip (ideal.zip raw)).map fun k => k.1 * (k.2.2 * 2 ^ meshBits - k.2.1)).sum

/-- The codes moved, one sub-pass after the other, until they lie as near as they can to the ideal ones. -/
def nearestCodes (ks raw : List Int) (dev : Int) : List Int :=
  match ks, raw with
  | k :: ks, c :: cs =>
    if k ≤ 0 then c :: nearestCodes ks cs dev
    else
      let a := (2 * dev + k * 2 ^ meshBits) / (2 * k * 2 ^ meshBits)
      (c - a) :: nearestCodes ks cs (dev - a * k * 2 ^ meshBits)
  | _, cs => cs

/-- Codes of one output as the promise allows them, under a declared accuracy: any within 2^(9 − ENOB/8) codes of the ideal ones; others give
way to the nearest. -/
def promised (enob : Nat) (ks ideal raw : List Int) : List Int :=
  let d := deviation ks ideal raw
  if d.natAbs ^ 8 ≤ ((ks.head?.getD 0).natAbs) ^ 8 * 2 ^ (8 * meshBits + 72 - enob) then raw else nearestCodes ks raw d

/-- A cell under the promise: of each output that keeps it, the codes of its sub-passes. -/
def PassCell.promise (c : PassCell) (enob : Nat) (ks : List Int) : PassCell :=
  let at_ (l : List (List Int)) (u : Nat) : List Int := l.map fun r => r.getD u 0
  let outs := (List.range 64).map fun u => if c.miss.contains u then at_ c.raw u else promised enob ks (at_ c.ideal u) (at_ c.raw u)
  c.withRaw ((List.range c.raw.length).map fun p => outs.map fun r => r.getD p 0)

/-! ## The commit (R299, R300, R302) -/

/-- The delivered value of output u of a cell whose banks have the given weight scales (R299, R302). -/
def PassCell.value (c : PassCell) (scales : List Nat) (subs : List (Int × Nat)) (u : Nat) : FV :=
  if c.nan then .nan false
  else
    let parts := scales.flatMap fun sc => subs.map fun w => (sc, w)
    (parts.zip c.codes).foldl (fun acc p =>
      acc.plus ((f32.value p.1.1).timesCode (p.2.getD u 0) ((p.1.2.2 : Int) - 9 + p.1.2.1 + c.ein - 127))) (.fin false 0 0)

/-- The declared accuracy of a pass whose banks' probes gave e at the least (R301, R302). -/
def declared (slice e : Nat) : Nat :=
  match slice with
  | 0 => e
  | 1 => min (e + 18) 112
  | _ => min (e + 36) 112

/-- A pass that commits: its codes as the promise of its declared accuracy allows them (R301), with SAT and SATN. -/
def OmuOp.settled (o : OmuOp) (m : MxpW) : OmuOp :=
  let subs := subPasses m.slice.toNat o.dx8 o.gain
  ({ o with cells := o.cells.mapIdx fun j c =>
      c.promise (declared m.slice.toNat o.enob) (codeWeights ((o.scales.drop (j % mxpChunks m * mxpPer m)).take (mxpPer m)) subs o.gain) }
    : OmuOp).counted

/-- Round to nearest even, no saturation, subnormals kept. -/
def rne : Rnd := ⟨1, false, false⟩

/-- One C element after a pass: each chunk's value is added and rounded once (R300). -/
def commitElem (acc : Nat) (vs : List FV) : Nat := vs.foldl (fun a y => (f32.addV rne (f32.value a) y).1) acc

/-- The 64 C elements of one row after a pass, given the old ones with their poison (R300). -/
def OmuOp.commitRow (o : OmuOp) (m : MxpW) (i : Nat) (old : List PByte) : List PByte :=
  let cells := (o.cells.drop (i * mxpChunks m)).take (mxpChunks m)
  let subs := subPasses m.slice.toNat o.dx8 o.gain
  let pois := (cells.any fun c => c.pois) || o.bpois.any id
  let chunks := cells.zip ((List.range (mxpChunks m)).map fun k => (o.scales.drop (k * mxpPer m)).take (mxpPer m))
  (List.range 64).flatMap fun u =>
    let was := (old.drop (4 * u)).take 4
    pbytes 4 (commitElem (if m.acc then leNat (was.map PByte.b) else 0) (chunks.map fun c => c.1.value c.2 subs u))
      ((m.acc && was.any PByte.p) || pois)

/-- The C tile after the commit of a pass (R300). -/
def State.commit (s : State) (cl : Nat) (o : OmuOp) (m : MxpW) (xb : Word) : State :=
  let t := AMap.get (s.cluster cl).tcfg m.tc.toNat 0
  { s with mem := (List.range (mxpRows m)).foldl (fun (mem : Memory) i =>
      let key := tileKey cl m.tc.toNat ((crow0 xb + i) * tcfgRow t + 256 * cch xb)
      mem.write key ((o.settled m).commitRow m i (mem.read key 256))) s.mem }

/-! ## The end of an operation (R294, R306, R310) -/

/-- The status record of a pass (R306): fail is its fault, none when it committed. -/
def OmuOp.status (o : OmuOp) (m : MxpW) (fail : Option Nat) : List Byte :=
  let flags := bitN fail.isNone 0 + bitN (fail == some 0x20) 1 + bitN (fail == some 0x24) 2 + bitN o.sat 3
    + bitN (m.slice != 0) 4
  leBytes 8 o.seq ++ leBytes 1 (if fail.isNone then declared m.slice.toNat o.enob else 0) ++ leBytes 1 flags ++ leBytes 1 o.gain
    ++ leBytes 1 0 ++ leBytes 4 (if fail.isNone then satTo (2 ^ 32 - 1) o.satn else 0)

/-- The operation leaves the lists of its unit. -/
def State.dropOmu (s : State) (cl : Nat) (o : OmuOp) : State :=
  let c := s.cluster cl
  let other (p : OmuOp) : Bool := !(p.tid == o.tid && p.seq == o.seq)
  s.setCluster cl { c with staged := c.staged.filter other, flight := c.flight.filter other, omuHeld := c.omuHeld.filter other }

/-- ENOB of a core after a committed pass (R310). -/
def enobAfter (old : Word) (e : Nat) : Word := BitVec.ofNat 64 (min (old.toNat / 256 % 256) e * 256 + e)

/-- What a committed pass leaves with its task and kernel (R310, R389). -/
def State.notePass (s : State) (o : OmuOp) (e : Nat) : State :=
  if (AMap.find? s.tasks o.tid).isNone then s
  else
    let k := s.task o.tid
    let s := s.setTask o.tid { k with enob := enobAfter k.enob e }
    match s.kernel? k.kid with
    | some q => s.setKernel { q with usage := [q.usage.getD 0 0, q.usage.getD 1 0 + 1, q.usage.getD 2 0] }
    | none => s

/-- A pass retires (R294): its status record first (R306), then its number. -/
def State.endPass (s : State) (cl : Nat) (o : OmuOp) (fail : Option Nat) : State :=
  let s := s.dropOmu cl o
  match o.kind with
  | .pass m xb st =>
    let s := if st && (AMap.find? s.tasks o.tid).isSome then
        { s with mem := s.mem.write (s.cmOf o.tid (16 * statusSlot xb)) (((if fail.isNone then o.settled m else o).status m fail).map fun b => ⟨b, false⟩) }
      else s
    match fail with
    | none => (s.notePass o (declared m.slice.toNat o.enob)).retire o.tid 1 o.seq
    | some code => s.retireFailed o.tid o.slot 1 o.seq code 0 0
  | _ => s

/-- An operation other than a pass retires. -/
def State.endOmu (s : State) (cl : Nat) (o : OmuOp) (fail : Option (Nat × Nat)) : State :=
  let s := s.dropOmu cl o
  match fail with
  | none => s.retire o.tid 1 o.seq
  | some (code, addr) => s.retireFailed o.tid o.slot 1 o.seq code addr 0

/-- HELD passes commit, oldest first, while every bank they used has passed a closing probe and no earlier access of the same
thread holds their C tile (R294, R315). -/
def State.sweep (s : State) (cl fuel : Nat) : State :=
  match fuel with
  | 0 => s
  | fuel + 1 =>
    let c := s.cluster cl
    match c.omuHeld with
    | [] => s
    | o :: _ =>
      match o.kind with
      | .pass m xb _ =>
        if o.open_.isEmpty && !c.tileHolds o.tid o.slot m.tc.toNat o.since then
          ((s.commit cl o m xb).endPass cl o none).sweep cl fuel
        else s
      | _ => s

/-! ## Probes (R303 to R305) -/

/-- The accuracy that a successful probe with residual e declares (R303). -/
def enobOf (e : Nat) : Nat :=
  let m := (1 + e) ^ 8
  let k := if 2 ^ Nat.log2 m == m then Nat.log2 m else Nat.log2 m + 1
  if 68 ≤ k then 0 else min 80 (68 - k)

/-- A HELD pass after a successful probe of bank b. -/
def OmuOp.closed (o : OmuOp) (b e : Nat) : OmuOp :=
  if o.open_.contains b then { o with open_ := o.open_.filter (· != b), enob := min o.enob (enobOf e) } else o

/-- Expected response i of a bank, from its image: vector i / 64, output i % 64 (R111, R290). -/
def State.expected (s : State) (cl b i : Nat) : Int :=
  toInt 16 (leNat ((s.mem.read (bankKey cl b (0x3240 + 2 * i)) 2).map PByte.b))

/-- The residual of a probe of a bank whose detectors give the measured responses: the largest difference from the expected ones over
all 512, in codes (R303). A response that is not listed is 0. -/
def State.residualOf (s : State) (cl b : Nat) (ms : List Int) : Nat :=
  (List.range 512).foldl (fun e i => max e (ms.getD i 0 - s.expected cl b i).natAbs) 0

/-- A probe of a loaded bank with residual e closes its window (R303 to R305, R310). -/
def State.bankProbe (s : State) (cl b e : Nat) : State :=
  let c := s.cluster cl
  if !bitAt c.loaded b then s
  else
    let ok : Bool := e ≤ c.drlimit
    let lost := if ok then [] else c.omuHeld.filter fun o => o.open_.contains b
    let s := s.setCluster cl { c with
      emax := min e 255, pbank := b, bank := b, drwarn := c.drlimit < 2 * e
      enobp := if ok then enobOf e else c.enobp
      since := AMap.erase c.since b, due := c.due.filter (· != b)
      trimBad := if ok && bitAt c.trimBad b then c.trimBad - 2 ^ b else c.trimBad
      omuHeld := if ok then c.omuHeld.map fun o => o.closed b e else c.omuHeld }
    (lost.foldl (fun s o => s.endPass cl o (some 0x20)) s).sweep cl 17

/-- The banks named by a mask that are loaded, rising. -/
def Cluster.named (c : Cluster) (mask : Nat) : List Nat := (List.range 16).filter fun b => bitAt mask b && bitAt c.loaded b

/-- The tiles that the oldest staged operation reads or writes when it begins (R315). -/
def OmuKind.starts (o : OmuKind) : List Nat :=
  match o with
  | .pass m _ _ => [m.ta.toNat]
  | .tzero n => [n]
  | .tacc n m => [n, m]
  | _ => []

/-- Whether the oldest staged operation waits for an earlier access of its thread to a tile (R315). -/
def Cluster.blocked (c : Cluster) : Bool :=
  match c.staged with
  | o :: _ => o.kind.starts.any fun n => c.tileHolds o.tid o.slot n o.since
  | [] => false

/-- The bank of a phase operation that a probe precedes (R304, R319). -/
def OmuKind.phased (o : OmuKind) : Option Nat :=
  match o with
  | .phld b _ => some b
  | .phtrim b => some b
  | .phinv b => some b
  | _ => none

/-- Whether the unit runs a probe of bank b now (R296, R304); a HELD pass that the oldest staged operation waits for is probed too
(log entry 22). -/
def Cluster.probes (c : Cluster) (b : Nat) : Bool :=
  let held := c.omuHeld.any fun o => o.open_.contains b
  c.flight.isNone && bitAt c.loaded b &&
    (c.due.contains b || (c.due.isEmpty && match c.staged with
      | [] => held
      | o :: _ =>
        match o.kind with
        | .pass _ _ _ =>
          (16 ≤ c.omuHeld.length && (match c.omuHeld with | h :: _ => h.open_.contains b | [] => false)) || (c.blocked && held)
        | .probe m => (c.named m).head? == some b
        | k => (k.phased == some b && !o.probed) || (c.blocked && held)))

/-- The oldest staged operation, when the unit may begin it: nothing is in flight, no probe is due, no earlier access holds its tiles,
and the probe before a phase operation has run (R296, R304, R315, R319). -/
def Cluster.nextOp (c : Cluster) : Option OmuOp :=
  match c.staged with
  | o :: _ =>
    let probe : Bool := match o.kind.phased with | some b => bitAt c.loaded b && !o.probed | none => false
    if c.flight.isNone && c.due.isEmpty && !c.blocked && !probe then some o else none
  | [] => none

/-- An mxprobe none of whose banks is loaded retires (R303, R317). -/
def State.skipProbe (s : State) (cl : Nat) : State :=
  let c := s.cluster cl
  match c.nextOp with
  | some o =>
    match o.kind with
    | .probe m => if (c.named m).isEmpty then s.endOmu cl o none else s
    | _ => s
  | none => s

/-- The oldest staged operation after a probe of bank b that it asked for: a mask loses the bank, a phase operation may begin. -/
def State.afterProbe (s : State) (cl b : Nat) : State :=
  let c := s.cluster cl
  match c.staged with
  | o :: os =>
    match o.kind with
    | .probe m =>
      let m := m &&& (65535 - (2 ^ (b + 1) - 1))
      if (c.named m).isEmpty then s.endOmu cl o none
      else s.setCluster cl { c with staged := { o with kind := .probe m } :: os }
    | k => if k.phased == some b then s.setCluster cl { c with staged := { o with probed := true } :: os } else s
  | [] => s

/-! ## Acceptance (R293 to R296) -/

/-- Checks 6 and 7 of R295: the tiles of a pass. -/
def Cluster.tilesFault (c : Cluster) (kid : Nat) (m : MxpW) (xb : Word) : Option Nat :=
  let a := AMap.get c.tcfg m.ta.toNat 0
  let t := AMap.get c.tcfg m.tc.toNat 0
  let mine (v : Word) : Bool := tcfgValid v && tcfgOwner v == kid % 65536
  if !mine a || !mine t then some 0x25
  else if m.ta == m.tc || 2 ≤ tcfgFmt a || tcfgFmt t != 2 || tcfgRows a < arow0 xb + mxpRows m || tcfgRows t < crow0 xb + mxpRows m
      || tcfgChunks a < ach0 xb + mxpChunks m || tcfgChunks t ≤ cch xb then some 0x22
  else none

/-- Check 8 of R295: whether bank b is loaded or a phase load of it is ahead. -/
def Cluster.bankReady (c : Cluster) (b : Nat) : Bool :=
  bitAt c.loaded b || c.staged.any fun o => match o.kind with | .phld n _ => n == b | _ => false

/-- Whether an operation needs the optics of its unit (R21, R294; log entry 23). -/
def OmuKind.optical (o : OmuKind) : Bool :=
  match o with
  | .tzero _ => false
  | .tacc _ _ => false
  | _ => true

/-- The fault of an operation that arrives at its unit (R294, R295). -/
def State.arrivalFault (s : State) (cl : Nat) (o : OmuOp) : Option Nat :=
  let c := s.cluster cl
  if o.kind.optical && !s.omuAvail cl then some 0x24
  else if (match o.cap with | some w => !s.capTagOk w | none => false) then some 0x23
  else match o.kind with
    | .pass m xb _ => c.tilesFault o.kid m xb <|> (if (mxpBanks m).all c.bankReady then none else some 0x21)
    | _ => none

/-- The operation no longer waits for its unit's answer. -/
def State.dropIssued (s : State) (cl : Nat) (o : OmuOp) : State :=
  let c := s.cluster cl
  s.setCluster cl { c with issued := c.issued.filter fun p => !(p.tid == o.tid && p.slot == o.slot) }

/-- A unit answers the operation of the current thread (R294, R295): a precise fault, a wait for a staging entry, or the next number of
tl1 in xd. -/
def State.arrive (s : State) (cl : Nat) (o : OmuOp) : State × Res :=
  match s.arrivalFault cl o with
  | some code => (s.dropIssued cl o, .fault code 0 0)
  | none =>
    if 32 ≤ (s.cluster cl).staged.length then (s, .wait .queue)
    else
      let (s, n) := (s.dropIssued cl o).issueOp 1
      let s := s.setX o.dest (BitVec.ofNat 64 n) false
      let c := s.cluster cl
      (s.setCluster cl { c with staged := c.staged ++ [{ o with seq := n, since := c.clock }], clock := c.clock + 1 }, .done)

/-- The operation of a thread that waits for its unit's answer, with the unit's cluster. -/
def State.issuedOp (s : State) (tid slot : Nat) : Option (Nat × OmuOp) :=
  s.clusters.findSome? fun c => (c.2.issued.find? fun o => o.tid == tid && o.slot == slot).map fun o => (c.1, o)

/-- Send an operation to its unit: the thread is WAITING until the unit answers (R294). -/
def State.submit (s : State) (cl : Nat) (o : OmuOp) : State × Res :=
  let c := s.cluster cl
  (s.setCluster cl { c with issued := c.issued ++ [o] }, .wait .omu)

/-- An instruction of the optical matrix unit: f checks and sends it; once sent, the unit answers. -/
def viaOmu (f : State → State × Res) (s : State) : State × Res :=
  match s.issuedOp s.cur.1 s.cur.2 with
  | some (cl, o) => s.arrive cl o
  | none => f s

/-- An operation of the current thread, before its unit accepts it. -/
def State.newOmu (s : State) (kind : OmuKind) (dest : Reg) (cap : Option Word) (banks : List Nat) : OmuOp :=
  { kind := kind, seq := 0, tid := s.cur.1, slot := s.cur.2, kid := s.tk.kid, dest := dest, cap := cap, gain := s.tk.gain,
    banks := banks, open_ := banks, scales := [], bpois := [], dx8 := true, cells := [], satn := 0, sat := false, clipped := false, enob := 255,
    probed := false, since := 0 }

/-- The target cluster that xa names (R316): none for a bad one. -/
def State.target (s : State) (xa : Word) : Option Nat :=
  if xa = 127 then some s.tk.cluster else if xa.toNat < 96 then some xa.toNat else none

/-- A capability of the current core. -/
def State.capOf (s : State) (i : BitVec 3) : Word := AMap.get s.tk.caps i.toNat 0

/-! ## Loss of a unit (R21, R294, R308) -/

/-- The optical operations of a unit that becomes unavailable fail with 0x24. -/
def State.omuLoss (s : State) (cl : Nat) : State :=
  let c := s.cluster cl
  let s := s.setCluster cl { c with due := [] }
  ((c.omuHeld ++ c.flight.toList ++ c.staged).filter fun o => o.kind.optical).foldl (fun s o => match o.kind with
    | .pass _ _ _ => s.endPass cl o (some 0x24)
    | _ => s.endOmu cl o (some (0x24, 0))) s

/-- A unit that recovers probes every loaded bank; one whose probe fails becomes not loaded (R308). A bank without given responses takes
free ones. -/
def State.omuRecover (s : State) (cl : Nat) (res : List (Nat × Nat × List Int)) : State :=
  (List.range 16).foldl (fun s b =>
    if bitAt (s.cluster cl).loaded b then
      let e := s.residualOf cl b (match res.find? fun r => r.1 == cl && r.2.1 == b with
        | some r => r.2.2
        | none => (List.range 512).map (Config.detector (s.free + b)))
      let s := s.bankProbe cl b e
      let c := s.cluster cl
      if e ≤ c.drlimit then s else s.setCluster cl { c with loaded := c.loaded - 2 ^ b }
    else s) s

end Sys2Proof.Machine
end

