-- ==== Sys2Proof/Machine/Cpy.lean ====
section
/-! DEFINITION. Copies of the cluster memory engine (R237, R238, R243 to R249, R279, R409): their issue, their units, renewals of
translations, and the arbitration round. -/

namespace Sys2Proof.Machine

/-! ## Issue (R244) -/

/-- The first row of a strided range that fails check 2, 4 or 5 of R217; fuel counts the rows left. -/
def State.rowsFault (s : State) (a : Nat) (stride : Int) (n r fuel : Nat) : Option (Nat × Nat) :=
  match fuel with
  | 0 => none
  | fuel + 1 =>
    match s.spanFault (((a : Int) + r * stride) % (2 ^ 64 : Nat)).toNat n with
    | some f => some f
    | none => s.rowsFault a stride n (r + 1) fuel

/-- The operation of a copy, before its number is known. -/
def blankCopy (s : State) (fn : Nat) : CopyOp :=
  { fn := fn, seq := 0, tid := s.cur.1, slot := s.cur.2, cluster := s.tk.cluster, dst := 0, src := 0, len := 0, rows := 1,
    dstr := 0, sstr := 0, res := 0, patt := 0, pp := false, raw := false, tile := 0, first := 0, toTile := false, rowB := 0,
    off := 0, row := 0, cmpP := false, diff := none, onMig := [], trs := [], stall := false, since := 0, isTile := false }

/-- The copies of a core's queue in a cluster memory engine. -/
def State.queueOf (s : State) (core : Nat) : List CopyOp :=
  (s.cluster (clusterOf core)).copies.filter fun o => (s.task o.tid).core == core

/-- Take a copy into its core's queue under the next number of tl0; one that moves nothing retires at once (R244). -/
def State.queueCopy (s : State) (d : Reg) (o : CopyOp) (empty : Bool) : State × Res :=
  if !empty && 512 ≤ (s.queueOf s.tk.core).length then (s, .wait .queue)
  else
    let (s, n) := s.issueOp 0
    let s := s.setX d (BitVec.ofNat 64 n) false
    if empty then (s.retire s.cur.1 0 n, .done)
    else
      let c := s.cluster o.cluster
      (s.setCluster o.cluster { c with copies := c.copies ++ [{ o with seq := n, since := c.clock }], clock := c.clock + 1 }, .done)

/-- Raise the first of some range faults, else go on. -/
def unlessFault (f : Option (Nat × Nat)) (k : State → State × Res) (s : State) : State × Res :=
  match f with
  | some (c, a) => (s, .fault c a 0)
  | none => k s

/-- R248: copies xc bytes from xb to xa. -/
def execCpy (d a b c : Reg) (raw : Bool) (s : State) : Host.Outcome State Fault Refusal :=
  issue .plain 8 s fun s => s.unlessPoison [a, b, c] fun s =>
    let n := (s.x c).toNat
    unlessFault (s.spanFault (s.x a).toNat n <|> s.spanFault (s.x b).toNat n) (fun s =>
      s.queueCopy d { blankCopy s 0 with dst := s.x a, src := s.x b, len := n, raw := raw } (n == 0)) s

/-- A signed half of a register. -/
def half (v : Word) (hi : Bool) : Int := toInt 32 (if hi then v.toNat / 2 ^ 32 else v.toNat % 2 ^ 32)

/-- R248: copies rows. -/
def execCpy2 (d a b c e : Reg) (raw : Bool) (s : State) : Host.Outcome State Fault Refusal :=
  issue .plain 8 s fun s => s.unlessPoison [a, b, c, e] fun s =>
    let n := (s.x c).toNat % 2 ^ 32
    let rows := (s.x c).toNat / 2 ^ 32
    let ds := half (s.x e) false
    let ss := half (s.x e) true
    let none_ := n == 0 || rows == 0
    unlessFault (if none_ then none else
        s.rowsFault (s.x a).toNat ds n 0 rows <|> s.rowsFault (s.x b).toNat ss n 0 rows) (fun s =>
      s.queueCopy d { blankCopy s 1 with dst := s.x a, src := s.x b, len := n, rows := rows, dstr := ds, sstr := ss, raw := raw }
        none_) s

/-- R248: fills xc bytes with a pattern. -/
def execCpyset (d a b c : Reg) (raw : Bool) (s : State) : Host.Outcome State Fault Refusal :=
  issue .plain 8 s fun s => s.unlessPoison [a, b, c] fun s =>
    let n := (s.x c).toNat
    unlessFault (s.spanFault (s.x a).toNat n) (fun s =>
      s.queueCopy d { blankCopy s 2 with dst := s.x a, len := n, patt := s.x b, pp := s.xp b, raw := raw } (n == 0)) s

/-- R248: moves rows between memory and a tile. -/
def execCpytile (d a b : Reg) (tile : BitVec 4) (first count : BitVec 7) (dir : Bool) (s : State) :
    Host.Outcome State Fault Refusal :=
  issue .plain 8 s fun s => s.unlessPoison [a, b] fun s =>
    let t := AMap.get (s.cluster s.tk.cluster).tcfg tile.toNat 0
    let rows := count.toNat + 1
    let st := toInt 64 (s.x b).toNat
    unlessFault (s.rowsFault (s.x a).toNat st (tcfgRow t) 0 rows) (fun s =>
      if !tcfgValid t || tcfgOwner t != s.tk.kid % 65536 || tcfgRows t < first.toNat + rows then (s, .fault 0x25 0 0)
      else s.queueCopy d { blankCopy s 3 with dst := s.x a, len := tcfgRow t, rows := rows, dstr := st, tile := tile.toNat,
                                              first := first.toNat, toTile := !dir, rowB := tcfgRow t, isTile := true } false) s

/-- R248: compares two regions and stores the offset of the first difference. -/
def execCpycmp (d a b c e : Reg) (raw : Bool) (s : State) : Host.Outcome State Fault Refusal :=
  issue .plain 8 s fun s => s.unlessPoison [a, b, c, e] fun s =>
    let n := (s.x c).toNat
    unlessFault (s.spanFault (s.x a).toNat n <|> s.spanFault (s.x b).toNat n <|> (if n == 0 then none else s.spanFault (s.x e).toNat 8)) (fun s =>
      s.queueCopy d { blankCopy s 4 with dst := s.x a, src := s.x b, len := n, res := s.x e, raw := raw } (n == 0)) s

/-! ## Units (R245 to R248) -/

/-- What a unit comes to: the bytes it moved, a stall, or a fault. -/
inductive Unit1 where
  | moved (n : Nat)
  | stall (w : Wait)
  | fail (code addr : Nat)

/-- The engine's tag for the requests of a copy: by its number and which side. -/
def CopyOp.key (o : CopyOp) (side : Nat) : Nat := 4 * o.seq + side + 2 ^ 66

/-- The bytes of storage of a block of a format, and the view bytes that it stands for (R247). -/
def rawBlock (fmt : Nat) : Nat × Nat :=
  match fmt with
  | 1 => (34, 128)
  | 2 => (18, 128)
  | 3 => (2, 4)
  | 4 => (1, 4)
  | 5 => (1, 4)
  | 8 => (16384, 16384)
  | _ => (1, 1)

/-- A translation that shows its page's storage bytes as they lie. -/
def Trans.asRaw (t : Trans) : Trans := { t with leaf := t.leaf &&& ~~~0xF00 }

/-- The pieces of n storage bytes of a side of a raw copy that begins at view address a, from storage byte i of the side on. -/
def State.rawPieces (s : State) (tid a i n : Nat) (k : Acc) (fuel : Nat) : State × Chk :=
  match fuel with
  | 0 => (s, .ok [])
  | fuel + 1 =>
    if n == 0 then (s, .ok [])
    else
      let cl := (s.task tid).cluster
      let ctx := (s.task tid).ctx
      match s.translate cl ctx a k with
      | (s, .wait w) => (s, .wait w)
      | (s, .ok t0) =>
        -- The side's format is that of its first page.
        let (b, v) := rawBlock t0.fmtOf
        let va := a + v * (i / b)
        match s.translate cl ctx va k with
        | (s, .wait w) => (s, .wait w)
        | (s, .ok t) =>
          if t.fmtOf != t0.fmtOf || a % v != 0 then (s, .fault 0x13 va)
          else
            let o := va % t.size / v * b + i % b
            let m := min n (t.size / v * b - o)
            let p := Piece.page (va / t.size * t.size + o) m t.asRaw
            match s.rawPieces tid a (i + m) (n - m) k fuel with
            | (s, .ok ps) => (s, .ok (p :: ps))
            | r => r

/-- The pieces of one side of a unit: view bytes through the checks of R217, storage bytes of a raw copy, or a window. -/
def State.sidePieces (s : State) (o : CopyOp) (a i n : Nat) (k : Acc) (pois : Bool) : State × Chk :=
  if !o.raw || regionOf a == .csp || regionOf a == .cm || regionOf a == .hole then s.check o.tid ((a + i) % 2 ^ 64) n k pois
  else
    match s.rawPieces o.tid a i n k 8 with
    | (s, .ok ps) =>
      match s.laterChecks k n pois ps with
      | some (c, b) => (s, .fault c b)
      | none => (s, .ok ps)
    | r => r

/-- The translations that pieces use. -/
def transOf (ps : List Piece) : List Trans :=
  ps.filterMap fun p => match p with
    | .page _ _ t => some t
    | .win _ _ _ => none

/-- The first byte of a translation's page. -/
def Trans.base (t : Trans) : Nat := t.page * t.size

/-- The physical address behind the 64 KiB of view, or the 4 KiB host page, that an address of a translation's page lies in. -/
def Trans.unitAt (t : Trans) (a : Nat) : Nat :=
  if t.host then t.leaf.toNat / 4096 else unitBase (leafPa t.leaf) (leafFmt t.leaf) (a - t.base)

/-- Whether two translations of some address differ in PA, FMT, PEER or CONF (R409). -/
def Trans.changed (old new : Trans) : Bool :=
  let a := max old.base new.base
  old.unitAt a != new.unitAt a || (!old.host && (leafFmt old.leaf != leafFmt new.leaf || leafPeer old.leaf != leafPeer new.leaf
    || leafConf old.leaf != leafConf new.leaf))

/-- Whether a copy has stalled for a migration of a translation's page. -/
def CopyOp.onMigPage (o : CopyOp) (t : Trans) : Bool := o.onMig.any fun m => rangesMeet m.1 m.2 t.base t.size

/-- Whether a copy's earlier translation of some page has been revoked (R409), at whatever page size it is found now; a page on which it
stalled for a migration is taken as it is now. -/
def CopyOp.lostLease (o : CopyOp) (ts : List Trans) (k : Acc) : Option Nat :=
  ts.findSome? fun t =>
    if o.onMigPage t then none
    else if o.trs.any fun u => u.host == t.host && rangesMeet u.base u.size t.base t.size && (u.changed t || !permits t.leaf k)
    then some t.base else none

/-- Keep the newest translations. -/
def CopyOp.keep (o : CopyOp) (ts : List Trans) : CopyOp :=
  { o with trs := o.trs.filter (fun u => !ts.any fun t => rangesMeet u.base u.size t.base t.size) ++ ts
           onMig := o.onMig.filter fun m => !ts.any fun t => t.base ≤ m.1 && m.1 + m.2 ≤ t.base + t.size }

/-- Whether a translation is due for renewal: a quarter of its lease left, or 256 ns (R409). -/
def State.near (s : State) (cl : Nat) (t : Trans) : Bool :=
  let l := if t.host then leaseNs s.hlease else leaseNs (leafLease t.leaf)
  let now := s.clusterTime cl
  t.expiry ≤ now + max (l / 4) 256

/-- Translations that are due for renewal are walked again: the cluster drops its copies of those that cover a range. -/
def State.dropNear (s : State) (cl ctx a n : Nat) : State :=
  let c := s.cluster cl
  s.setCluster cl { c with tlb := c.tlb.filter fun t =>
    !((t.host || t.ctx == ctx) && rangesMeet t.base t.size a n && s.near cl t) }

/-- Update a copy in its queue. -/
def State.setCopy (s : State) (o : CopyOp) : State :=
  let c := s.cluster o.cluster
  s.setCluster o.cluster { c with copies := c.copies.map fun p => if p.tid == o.tid && p.seq == o.seq then o else p }

/-- A copy that stalls; when a migrating page stalls it, it later takes the frame that the leaf then names (R409). -/
def State.stalled (s : State) (o : CopyOp) (w : Wait) : CopyOp :=
  let o := { o with stall := true }
  match w with
  | .page va =>
    match s.walkDev (s.task o.tid).ctx va.toNat with
    | .leaf e size _ =>
      let m := (va.toNat / size * size, size)
      if 2 ^ 55 ≤ va.toNat && leafMig e then { o with onMig := m :: o.onMig.filter fun x => x != m } else o
    | _ => o
  | _ => o

/-- Note a copy's stall. -/
def State.noteStall (s : State) (o : CopyOp) (w : Wait) : State := s.setCopy (s.stalled o w)

/-- The translations behind the pieces of a side, with the formats of their pages, which the pieces of a raw copy do not show. -/
def State.sideTrans (s : State) (o : CopyOp) (k : Acc) (ps : List Piece) : List Trans :=
  (transOf ps).map fun t =>
    if o.raw then match (s.translate o.cluster (s.task o.tid).ctx t.base k).2 with
      | .ok u => u
      | .wait _ => t
    else t

/-- A side whose checks give the pieces: the copy with its newest translations, or how the unit ends (R245, R409). -/
def State.takeSide (s : State) (o : CopyOp) (a i n : Nat) (k : Acc) (pois : Bool) :
    State × (CopyOp × List Piece ⊕ Unit1) :=
  let s := s.dropNear o.cluster (s.task o.tid).ctx a (i * 128 + n)
  match s.sidePieces o a i n k pois with
  | (s, .wait w) => (s.holdWait w (.engine o.tid (o.key 0)), .inr (.stall w))
  | (s, .fault c b) =>
    -- A permission that an earlier unit of the copy had, now gone, is a revoked lease, but for a page on which it stalled for a migration.
    let used := o.trs.any fun t => t.base ≤ b && b < t.base + t.size && !o.onMigPage t
    (s, .inr (if c == 0x11 && used && regionOf b != .csp && regionOf b != .cm then .fail 0x62 b else .fail c b))
  | (s, .ok ps) =>
    let ts := s.sideTrans o k ps
    match o.lostLease ts k with
    | some b => (s, .inr (.fail 0x62 b))
    | none => (s, .inl (o.keep ts, ps))

/-- Read one side of a unit: its bytes, and the access counters from before its reads, which a unit that stalls later gets back. -/
def State.readSide (s : State) (o : CopyOp) (side a i n : Nat) : State × CopyOp × (List PByte × AMap (Nat × Nat) ⊕ Unit1) :=
  match s.takeSide o a i n .load false with
  | (s, .inr u) => (s, o, .inr u)
  | (s, .inl (o, ps)) =>
    let r := s.flushPieces o.tid o.slot ps
    if !r.2 then (r.1, o, .inr (.stall .drain))
    else
      match r.1.engineLoadPieces o.tid (o.key side) ps with
      | (s, .bytes bs) => (s, o, .inl (bs, r.1.pgc))
      | (s, .wait w) => (s, o, .inr (.stall w))
      | (s, .fault c b) => (s, o, .inr (.fail c b))

/-- A unit that stalls after it has read is not performed: what it counted is taken back (R413). -/
def uncount (m : AMap (Nat × Nat)) (r : State × CopyOp × Unit1) : State × CopyOp × Unit1 :=
  match r.2.2 with
  | .stall _ => ({ r.1 with pgc := m }, r.2)
  | _ => r

/-- The lines of storage behind written pieces leave the data cache of a task's core, under whatever address they are there (R279). -/
def State.dropPlaces (s : State) (tid : Nat) (ps : List Piece) : State :=
  let place := ps.flatMap fun p => match p with
    | .page va n t => s.storageLines t va n
    | .win _ _ _ => []
  s.dropLines (s.task tid).core fun l => l.place.any place.contains

/-- Write one side of a unit: nothing of a faulting unit is written. -/
def State.writeSide (s : State) (o : CopyOp) (side a i : Nat) (bs : List PByte) : State × CopyOp × Unit1 :=
  match s.takeSide o a i bs.length .store (bs.any PByte.p) with
  | (s, .inr u) => (s, o, u)
  | (s, .inl (o, ps)) =>
    match partialWord ps <|> s.engineStoreReady ps with
    | some (c, b) => (s, o, .fail c b)
    | none =>
      match s.engineStorePieces o.tid (o.key side) ps bs with
      | (s, .bytes _) => (s.dropPlaces o.tid ps, o, .moved bs.length)
      | (s, .wait w) => (s, o, .stall w)
      | (s, .fault c b) => (s, o, .fail c b)

/-- The current row of a side, modulo 2^64. -/
def CopyOp.dstRow (o : CopyOp) : Nat := (((o.dst.toNat : Int) + o.row * o.dstr) % (2 ^ 64 : Nat)).toNat
/-- The current row of the source. -/
def CopyOp.srcRow (o : CopyOp) : Nat := (((o.src.toNat : Int) + o.row * o.sstr) % (2 ^ 64 : Nat)).toNat

/-- The size of the next unit: at most 512 bytes, within 4 KiB of the destination (R237). -/
def CopyOp.unitSize (o : CopyOp) : Nat :=
  let d := if o.toTile then (o.first + o.row) * o.rowB + o.off else (o.dstRow + o.off) % 2 ^ 64
  min (min 512 (o.len - o.off)) (4096 - d % 4096)

/-- Whether only the result of a cpycmp is left. -/
def CopyOp.compared (o : CopyOp) : Bool := o.fn == 4 && (o.diff.isSome || o.len ≤ o.off)

/-- The storage bytes of the destination from the next unit of a raw copy to the next 4 KiB boundary, of the view and of physical storage
(R237, R247). -/
def State.rawRoom (s : State) (o : CopyOp) : Nat :=
  let fmtAt (a : Nat) : Option Trans :=
    if regionOf a == .csp || regionOf a == .cm then none
    else match s.translate o.cluster (s.task o.tid).ctx a .store with
      | (_, .ok t) => some t
      | _ => none
  let (b, v) := rawBlock (((fmtAt o.dstRow).map Trans.fmtOf).getD 0)
  let va := o.dstRow + v * (o.off / b)
  if b == v then 4096 - (o.dstRow + o.off) % 4096
  else
    let view := (4096 - va % 4096) / v * b - o.off % b
    match fmtAt va with
    | some t =>
      let w := va % t.size
      min view (4096 - (unitBase (leafPa t.leaf) t.fmtOf w + w % 65536 / v * b + o.off % b) % 4096)
    | none => view

/-- The size of the next unit of a copy: the 8 bytes of a cpycmp's result, or what the destination's boundaries allow (R237). -/
def State.unitSize (s : State) (o : CopyOp) : Nat :=
  if o.compared then 8 else if o.raw then min (min 512 (o.len - o.off)) (s.rawRoom o) else o.unitSize

/-- A page's format at an address of a side, when it is translated and there; 0 for windows. -/
def State.sideFmt (s : State) (o : CopyOp) (a : Nat) : Nat :=
  if regionOf a == .csp || regionOf a == .cm then 0
  else match s.translate o.cluster (s.task o.tid).ctx a .load with
    | (_, .ok t) => t.fmtOf
    | _ => 0

/-- The rules of raw copies that hold between the sides and for the length (R247). -/
def State.rawBreach (s : State) (o : CopyOp) (sides : List Nat) : Option (Nat × Nat) :=
  if !o.raw then none
  else
    let fs := sides.map fun a => (a, s.sideFmt o a)
    match fs.find? (fun f => o.len % (rawBlock f.2).1 != 0 || f.1 % (rawBlock f.2).2 != 0) with
    | some f => some (0x13, f.1)
    | none =>
      match fs with
      | [x, y] => if x.2 != 0 && y.2 != 0 && x.2 != y.2 then some (0x13, x.1) else none
      | _ => none

/-- The pattern bytes of a cpyset from byte i on. -/
def CopyOp.pattern (o : CopyOp) (i n : Nat) : List PByte :=
  (List.range n).map fun j => ⟨BitVec.ofNat 8 (o.patt.toNat / 256 ^ ((i + j) % 8)), o.pp⟩

/-- Whether the memory side of a cpytile unit is neither RAW nor a window. -/
def tileSideBad (ps : List Piece) : Option (Nat × Nat) :=
  ps.findSome? fun p => match p with
    | .win _ _ _ => none
    | .page va _ t => if t.fmtOf != 0 then some (0x13, va) else none

/-- Whether an earlier instruction of the same thread still holds a cpytile's tile (R315). -/
def State.tileHeld (s : State) (o : CopyOp) : Bool := (s.cluster o.cluster).tileHolds o.tid o.slot o.tile o.since

/-- One unit of a cpytile. -/
def State.tileUnit (s : State) (o : CopyOp) (n : Nat) : State × CopyOp × Unit1 :=
  let a := o.dstRow
  let key := tileKey o.cluster o.tile ((o.first + o.row) * o.rowB + o.off)
  if s.tileHeld o then (s, o, .stall .tile)
  else if o.toTile then
    match s.check o.tid ((a + o.off) % 2 ^ 64) n .load false with
    | (s, .ok ps) =>
      match tileSideBad ps with
      | some (c, b) => (s, o, .fail c b)
      | none =>
        match s.readSide o 0 a o.off n with
        | (s, o, .inl (bs, _)) => ({ s with mem := s.mem.write key bs }, o, .moved n)
        | (s, o, .inr u) => (s, o, u)
    | (s, .fault c b) => (s, o, .fail c b)
    | (s, .wait w) => (s.holdWait w (.engine o.tid (o.key 0)), o, .stall w)
  else
    match s.check o.tid ((a + o.off) % 2 ^ 64) n .store ((s.mem.read key n).any PByte.p) with
    | (s, .ok ps) =>
      match tileSideBad ps with
      | some (c, b) => (s, o, .fail c b)
      | none => s.writeSide o 1 a o.off (s.mem.read key n)
    | (s, .fault c b) => (s, o, .fail c b)
    | (s, .wait w) => (s.holdWait w (.engine o.tid (o.key 0)), o, .stall w)

/-- The first index at which two lists of bytes differ. -/
def firstDiff (a b : List PByte) (i : Nat) : Option Nat :=
  match a, b with
  | x :: a, y :: b => if x.b == y.b then firstDiff a b (i + 1) else some i
  | _, _ => none

/-- One unit of a cpycmp: compares the next bytes. -/
def State.cmpUnit (s : State) (o : CopyOp) (n : Nat) : State × CopyOp × Unit1 :=
  match s.readSide o 0 o.dst.toNat o.off n with
  | (s, o, .inr u) => (s, o, u)
  | (s, o, .inl (xs, counts)) =>
    match s.readSide o 1 o.src.toNat o.off n with
    | (s, o, .inr u) => uncount counts (s, o, u)
    | (s, o, .inl (ys, _)) =>
      let d := firstDiff xs ys 0
      let m := match d with | some i => i + 1 | none => n
      let p := (xs.take m ++ ys.take m).any PByte.p
      (s, { o with cmpP := o.cmpP || p, diff := d.map fun i => o.off + i }, .moved n)

/-- A result that is not at a multiple of 8 on a RAW page or in a window (R248); on a page of FMT 1 to 5 check 9 of R217 asks for a
multiple of 4 (R247). -/
def resultBad (a : Nat) (ps : List Piece) : Option (Nat × Nat) :=
  if a % 8 == 0 then none
  else ps.findSome? fun p => match p with
    | .win va _ _ => some (0x13, va)
    | .page va _ t => if t.fmtOf == 0 then some (0x13, va) else none

/-- The last unit of a cpycmp: the result, an 8-byte store. -/
def State.cmpResult (s : State) (o : CopyOp) : State × CopyOp × Unit1 :=
  let v := o.diff.getD (2 ^ 64 - 1)
  let a := o.res.toNat
  let o' := { o with raw := false }
  match s.check o.tid a 8 .store o.cmpP with
  | (s, .ok ps) =>
    match resultBad a ps with
    | some (c, b) => (s, o, .fail c b)
    | none =>
      match s.writeSide o' 2 a 0 (pbytes 8 v o.cmpP) with
      | (s, r, u) => (s, { r with raw := o.raw }, u)
  | (s, .fault c b) => (s, o, .fail c b)
  | (s, .wait w) => (s.holdWait w (.engine o.tid (o.key 0)), o, .stall w)

/-- One unit of a copy of n bytes. -/
def State.unit (s : State) (o : CopyOp) (n : Nat) : State × CopyOp × Unit1 :=
  let sides := match o.fn with
    | 2 => [o.dst.toNat]
    | 3 => []
    | _ => [o.dstRow, o.srcRow]
  match s.rawBreach o sides with
  | some (c, b) => (s, o, .fail c b)
  | none =>
    match o.fn with
    | 2 => s.writeSide o 1 o.dst.toNat o.off (o.pattern o.off n)
    | 3 => s.tileUnit o n
    | 4 => if o.compared then s.cmpResult o else s.cmpUnit o n
    | _ =>
      match s.readSide o 0 o.srcRow o.off n with
      | (s, o, .inl (bs, counts)) => uncount counts (s.writeSide o 1 o.dstRow o.off bs)
      | (s, o, .inr u) => (s, o, u)

/-- Destination bytes that a copy has written (R245). -/
def CopyOp.written (o : CopyOp) : Nat := if o.fn == 4 then 0 else o.row * o.len + o.off

/-- The lines that a copy may have written: its destination rows, or the result of a cpycmp. -/
def CopyOp.writes (o : CopyOp) (ln : Nat) : Bool :=
  let meets (a n : Nat) : Bool := rangesMeet (ln * 128) 128 a n
  match o.fn with
  | 4 => meets o.res.toNat 8
  | 3 => !o.toTile && (List.range o.rows).any fun r => meets ({ o with row := r } : CopyOp).dstRow o.len
  | _ => (List.range o.rows).any fun r =>
      meets ({ o with row := r } : CopyOp).dstRow (if o.raw then o.len * 8 else o.len)

/-- A copy leaves its queue: its destination's lines leave the issuing core's data cache, then its number retires (R279). -/
def State.endCopy (s : State) (o : CopyOp) (fail : Option (Nat × Nat)) : State :=
  let k := s.task o.tid
  let s := s.dropLines k.core fun l => l.ctx == k.ctx && o.writes l.va
  let s := [0, 1, 2].foldl (fun s i => s.forget o.tid (o.key i)) s
  let c := s.cluster o.cluster
  let s := s.setCluster o.cluster { c with copies := c.copies.filter fun p => !(p.tid == o.tid && p.seq == o.seq) }
  let s := if o.isTile then s.sweep o.cluster 17 else s
  let s := match s.kernel? k.kid with
    | some q => s.setKernel { q with usage := [q.usage.getD 0 0, q.usage.getD 1 0, q.usage.getD 2 0 + o.written] }
    | none => s
  match fail with
  | none => s.retire o.tid 0 o.seq
  | some (code, addr) => s.retireFailed o.tid o.slot 0 o.seq code addr o.written

/-- Go on after a unit: the next unit, the next row, or the end. -/
def State.advance (s : State) (o : CopyOp) (n : Nat) : State :=
  let s := [0, 1].foldl (fun s i => s.forget o.tid (o.key i)) s
  let off := o.off + n
  let o := { o with stall := false, off := off }
  if o.fn == 4 || off < o.len then s.setCopy o
  else if o.row + 1 < o.rows then s.setCopy { o with off := 0, row := o.row + 1 }
  else s.endCopy { o with off := o.len, row := o.rows - 1 } none

/-- Move one unit of a copy (R245); the bytes moved, none when it stalls. -/
def State.copyStep (s : State) (o : CopyOp) : State × Option Nat :=
  let n := s.unitSize o
  match s.unit o n with
  | (s, o', .moved n) =>
    if o.compared then (s.endCopy o' none, some n) else ((s.setCopy o').advance o' n, some n)
  | (s, o', .stall w) => ((s.setCopy o').noteStall o' w, none)
  | (s, o', .fail c b) => (s.endCopy o' (some (c, b)), some 0)

/-- The copy of a core by its number, among the 8 oldest of its queue (R237). -/
def State.copyAt (s : State) (core seq : Nat) : Option CopyOp := ((s.queueOf core).take 8).find? fun o => o.seq == seq

/-- R245: the engine moves one unit of a copy, or stops it at a fault. -/
def execCopyUnit (core seq : Nat) (s : State) : Host.Outcome State Fault Refusal :=
  event s fun s => match s.copyAt core seq with
    | some o => (s.copyStep o).1
    | none => s

/-- The permissions that a copy needs of a translation's page: to read what it reads, to write what it writes (R248). -/
def CopyOp.needs (o : CopyOp) (t : Trans) : List Acc :=
  let n := if o.raw then o.len * 8 else o.len
  let on (a n : Nat) : Bool := rangesMeet t.base t.size a n
  let dst : List Acc := if on o.dstRow n then (if o.fn == 4 || (o.fn == 3 && o.toTile) then [.load] else [.store]) else []
  dst ++ (if o.fn != 2 && o.fn != 3 && on o.srcRow n then [.load] else [])
    ++ if o.fn == 4 && on o.res.toNat 8 then [.store] else []

/-- The view ranges that the next unit of a copy touches (R247, R248). -/
def State.unitRanges (s : State) (o : CopyOp) : List (Nat × Nat) :=
  let n := s.unitSize o
  let side (a : Nat) : Nat × Nat :=
    let (b, v) := rawBlock (if o.raw then s.sideFmt o a else 0)
    (a + o.off / b * v, (o.off % b + n + b - 1) / b * v)
  if o.compared then [(o.res.toNat, 8)]
  else if o.fn == 2 || o.fn == 3 then [side o.dstRow]
  else [side o.dstRow, side o.srcRow]

/-- The first byte of a translation's page that the next unit of a copy touches. -/
def State.unitIn (s : State) (o : CopyOp) (t : Trans) : Option Nat :=
  ((s.unitRanges o).find? fun r => rangesMeet t.base t.size r.1 r.2).map fun r => max t.base r.1

/-- Renew one translation of a copy (R409), with a walk of the byte that its next unit begins with there. -/
def State.renew (s : State) (o : CopyOp) (t : Trans) : State × CopyOp × Option Nat :=
  match s.walkFor o.cluster (s.task o.tid).ctx ((s.unitIn o t).getD t.base) with
  | (s, .ok u) =>
    if !o.onMigPage t && (t.changed u || (o.needs t).any fun k => !permits u.leaf k) then (s, o, some t.base)
    else (s, o.keep [u], none)
  | (s, .wait w) => (s.holdWait w (.engine o.tid (o.key 0)), s.stalled o w, none)

/-- R409: before its next unit a copy renews the translations of the unit's pages that are due. -/
def execCopyLeaseRenewal (core seq : Nat) (s : State) : Host.Outcome State Fault Refusal :=
  event s fun s => match s.copyAt core seq with
    | none => s
    | some o =>
      let r := (o.trs.filter fun t => s.near o.cluster t && (s.unitIn o t).isSome).foldl (fun (a : State × CopyOp × Option Nat) t =>
        match a.2.2 with
        | some _ => a
        | none => a.1.renew a.2.1 t) (s, o, none)
      match r.2.2 with
      | some b => r.1.endCopy r.2.1 (some (0x62, b))
      | none => r.1.setCopy r.2.1

/-! ## Arbitration (R238) -/

/-- Try the oldest commands of a core's queue until one moves a unit of at most d bytes: the bytes moved. One that stalls has done
what its stall does: a request sent, a page asked for. -/
def State.serveOne (s : State) (core d : Nat) : State × Option Nat :=
  ((s.queueOf core).take 8).foldl (fun (a : State × Option Nat) o =>
    if a.2.isSome || d < a.1.unitSize o then a else a.1.copyStep o) (s, none)

/-- Move units of a core's queue while they fit into its deficit; fuel bounds them. -/
def State.serve (s : State) (core fuel : Nat) : State :=
  let cl := clusterOf core
  match fuel with
  | 0 => s
  | fuel + 1 =>
    let d := AMap.get (s.cluster cl).deficit (core % 16) 0
    match s.serveOne core d with
    | (s, none) => s
    | (s, some n) =>
      let c := s.cluster cl
      (s.setCluster cl { c with deficit := AMap.put c.deficit (core % 16) (d - n) }).serve core fuel

/-- Whether some unit of a core's queue is ready to move. -/
def State.unitReady (s : State) (core : Nat) : Bool :=
  ((s.queueOf core).take 8).any fun o => (s.copyStep o).2.isSome

/-- R238: one round of the weighted deficit round-robin over the cluster's 16 queues. -/
def execCmeArbitrationRound (cluster : Nat) (s : State) : Host.Outcome State Fault Refusal :=
  event s fun s => (List.range 16).foldl (fun s i =>
    let core := 16 * cluster + i
    if s.unitReady core then
      let c := s.cluster cluster
      let d := AMap.get c.deficit i 0 + AMap.get c.weight i 16 * 32
      (s.setCluster cluster { c with deficit := AMap.put c.deficit i d }).serve core (d + 512)
    else
      let s := (s.serveOne core (2 ^ 64)).1
      let c := s.cluster cluster
      if (AMap.get c.deficit i 0) == 0 then s else s.setCluster cluster { c with deficit := AMap.put c.deficit i 0 }) s

end Sys2Proof.Machine
end

