-- ==== Sys2Proof/Machine/Thrd.lean ====
section
/-! DEFINITION. Helpers and timelines (R122 to R140), rendezvous (R141 to R143), deadlock (R144, R145), and how a task leaves its
core (R126, R140, R353). -/

namespace Sys2Proof.Machine

/-! ## Helpers -/

/-- The lowest empty helper slot. -/
def Task.freeSlot (k : Task) : Option Nat := (slots.drop 1).find? fun i => decide ((k.thread i).st = .empty)

/-- The state of a helper that hstart creates (R125, R135). -/
def helperThread (r : LaunchRec) (slot : Nat) (pc : Word) (arg : Word) (argP : Bool) (gp tflags : Word) : Thread :=
  let t := { Thread.empty with st := .ready, pc := pc, tflags := tflags &&& 0xF }
  let t := (t.setX 1 (BitVec.ofInt 64 (-((slot * 16 * r.stack : Nat) : Int))) false).setX 2 gp false
  (t.setX 3 arg argP).setX 4 (BitVec.ofNat 64 slot) false

/-- R135: starts a helper in the lowest empty slot, or answers 0. -/
def execHstart (d a b : Reg) (s : State) : Host.Outcome State Fault Refusal :=
  issue .barred 4 s fun s => s.controlOnly fun s =>
    match s.thr.arrival with
    | some ⟨n, true, _, _, _, _⟩ => (s, .fault 0x30 0 n)
    | _ => s.unlessPoison [a] fun s =>
      let t := s.thr
      if (s.x a).toNat % 4 != 0 then (s, .fault 0x04 0 0)
      else
        match s.tk.freeSlot with
        | none => (s.setX d 0 false, .done)
        | some i =>
          let h := helperThread s.tk.lrec i (s.x a) (s.x b) (s.xp b) (t.xr 2) t.tflags
          ((s.setTk (s.tk.setThread i h)).setX d (BitVec.ofNat 64 i) false, .done)

/-- R136: waits until a helper has exited and collects its exit value. -/
def execHjoin (d a : Reg) (s : State) : Host.Outcome State Fault Refusal :=
  issue .barred 4 s fun s => s.controlOnly fun s => s.unlessPoison [a] fun s =>
    let i := (s.x a).toNat
    let h := s.tk.thread i
    if i == 0 || 15 < i || decide (h.st = .empty) then (s, .fault 0x0A 0 0)
    else if h.st = .exited then
      ((s.setTk (s.tk.setThread i { h with st := .empty })).setX d h.exitVal h.exitP, .done)
    else (s, .wait (.hjoin i))

/-- Whether a thread holds a synchronisation object (R235). -/
def State.holdsObj (s : State) (tid slot : Nat) : Bool := s.objs.any fun o => o.heldBy tid slot

/-- hexit (R137): waits for the helper's operations, drains, delivers what pends (R528), keeps the exit value. -/
def hexitOp (a : Reg) (s : State) : State × Res :=
  let tid := s.cur.1
  let i := s.cur.2
  if i == 0 then (s, .fault 0x0A 0 0)
  else if s.holdsObj tid i then (s, .fault 0x64 0 0)
  else if s.threadBusy tid i then (s, .wait .retire)
  else s.drainThen s.isMine fun s =>
    let v := s.x a
    let p := s.xp a
    (s.setThr { s.thr with
      st := .exited, exitVal := v, exitP := p, held := none, got := [], answer := none, opIds := [], skipPm := false }, .left)

/-- The waiting join of a helper that has exited completes (R136). -/
def State.joinRelease (s : State) (tid slot : Nat) : State :=
  let k := s.task tid
  let t := k.thread 0
  let h := k.thread slot
  match t.held with
  | some w =>
    if decide (t.st = .waiting (.hjoin slot)) && decide (h.st = .exited) then
      let k := k.setThread slot { h with st := .empty }
      ((s.setTask tid (k.setThread 0 (t.setX (BitVec.ofNat 5 (w.1 / 256)) h.exitVal h.exitP))).complete tid 0 4)
    else s
  | none => s

/-- R137: ends a helper. -/
def execHexit (a : Reg) (s : State) : Host.Outcome State Fault Refusal :=
  issue .barred 4 s fun s =>
    let r := hexitOp a s
    (r.1.joinRelease s.cur.1 s.cur.2, r.2)

/-- R138: the state of a slot, without waiting. -/
def execHpeek (d a : Reg) (s : State) : Host.Outcome State Fault Refusal :=
  issue .barred 4 s fun s => s.unlessPoison [a] fun s =>
    let i := (s.x a).toNat
    if 15 < i then (s, .fault 0x0A 0 0)
    else
      let v : Word := match (s.tk.thread i).st with
        | .empty => 0
        | .exited => 2
        | _ => 1
      (s.setX d v false, .done)

/-- R139: waits until counter t reaches xa, then delivers the oldest fault that pends for the thread on it. -/
def execWaittl (t : BitVec 2) (a : Reg) (s : State) : Host.Outcome State Fault Refusal :=
  issue .barred 4 s fun s => s.unlessPoison [a] fun s =>
    let v := (s.x a).toNat
    if (s.tk.line t.toNat).value < v then (s, .wait (.timeline t.toNat v))
    else s.deliverOr (fun p => p.slot == s.cur.2 && p.ctr == t.toNat) fun s => (s, .done)

/-! ## Leaving the core -/

/-- A task leaves its core: every slot becomes EMPTY, its entry leaves the table (R126). Its buffered stores stay to be performed;
its place stays for what engines still do for it. -/
def State.leaveCore (s : State) (tid : Nat) : State :=
  let k := s.task tid
  let left := (k.threads.filter fun t => !t.2.wbuf.isEmpty).map fun t => (t.1, { Thread.empty with wbuf := t.2.wbuf })
  let place := match k.place with
    | .running c sh => .saved c sh false
    | p => p
  let s := s.setTask tid { k with threads := left, points := [], xlist := [], sfu := [], place := place, stored := false }
  let c := s.core k.core
  let c := if c.run = some tid then { c with run := none, preempt := false } else c
  let prim := decide (c.ptask = some tid)
  let shad := decide (c.stask = some tid)
  let c := if prim then c.setEntry false none none else c
  let c := if shad then c.setEntry true none none else c
  let s := s.setCore k.core c
  if prim then s.freeOther k.core false else if shad then s.freeOther k.core true else s

/-- A task's contribution to its kernel when it ends: ENOBMIN (R460) and core cycles (R389). -/
def Kernel.absorb (q : Kernel) (k : Task) : Kernel :=
  { q with
    enobMin := min q.enobMin (k.enob.toNat / 256 % 256)
    usage := [q.usage.getD 0 0 + k.cycles / 1000, q.usage.getD 1 0, q.usage.getD 2 0] }

/-- A task has passed kexit with a status (R140, R326, R353). -/
def State.exitTask (s : State) (tid status : Nat) : State :=
  let k := s.task tid
  let s := s.leaveCore tid
  let s := s.setTask tid { s.task tid with exited := some status }
  let s := s.memberExit tid
  match s.kernel? k.kid with
  | none => s
  | some q =>
    let q := { q.absorb k with exit := q.exit ||| status, exitedTasks := natInsert q.exitedTasks k.rank }
    s.setKernel (if q.st == .running && q.exitedTasks.length == q.lrec.cores then { q with st := .draining } else q)

/-- kexit (R140): the three checks, the waits, the drain, the deliveries (R528), then the task leaves the core. -/
def kexitOp (a : Reg) (s : State) : State × Res :=
  s.controlOnly fun s =>
    let tid := s.cur.1
    if s.tk.helperLive then (s, .fault 0x0A 0 0)
    else if slots.any (s.holdsObj tid) then (s, .fault 0x64 0 0)
    else
      match s.tk.xlist with
      | e :: _ => (s, .fault 0x32 0 e.level)
      | [] =>
        if s.taskBusy tid then (s, .wait .retire)
        else s.drainThen (fun _ => true) fun s =>
          (s.exitTask tid ((s.x a).toNat % 2 ^ 32), .left)

/-- R140: ends the task on this core. -/
def execKexit (a : Reg) (s : State) : Host.Outcome State Fault Refusal := issue .barred 4 s (kexitOp a)

/-- Execute again the instruction that a waiting thread holds, when its first word is that of f's instruction. -/
def State.retryHeld (s : State) (tid slot fn : Nat) (f : Reg → State → Host.Outcome State Fault Refusal) : State :=
  let t := s.thread tid slot
  match t.st, t.held with
  | .waiting .retire, some w =>
    if w.1 % 256 == 0x58 && w.1 / 2 ^ 23 == fn then
      match f (BitVec.ofNat 5 (w.1 / 8192)) { s with cur := (tid, slot), curW := w } with
      | .next r => { r with cur := s.cur, curW := s.curW }
      | _ => s
    else s
  | _, _ => s

/-- R137: a helper's operations have retired: its hexit completes. -/
def execHexitComplete (core slot : Nat) (s : State) : Host.Outcome State Fault Refusal :=
  event s fun s => match s.running core with
    | some tid => s.retryHeld tid slot 2 execHexit
    | none => s

/-- R140: a task's operations have retired: its kexit completes. -/
def execKexitComplete (core : Nat) (s : State) : Host.Outcome State Fault Refusal :=
  event s fun s => match s.running core with
    | some tid => s.retryHeld tid 0 5 execKexit
    | none => s

/-! ## Rendezvous (R141 to R143) -/

/-- The result of an episode by its operation: value and poison. -/
def Episode.result (e : Episode) : Word × Bool :=
  let p := e.arr.any fun a => a.2.2.1
  match e.op with
  | 0 =>
    match slots.findSome? (fun i => e.arr.find? fun a => a.1 == i) with
    | some a => (a.2.1, a.2.2.1)
    | none => (0, false)
  | 1 => (e.arr.foldl (fun w a => w + a.2.1) 0, p)
  | 2 => (e.arr.foldl (fun w a => if w.slt a.2.1 then a.2.1 else w) (match e.arr with | a :: _ => a.2.1 | [] => 0), p)
  | _ => (e.arr.foldl (fun w a => w ||| a.2.1) 0, p)

/-- A registered thread receives its result and goes on after its instruction, at once or when a debugger releases it. -/
def Task.rdvRelease (k : Task) (slot dest : Nat) (r : Word × Bool) : Task :=
  let t := (k.thread slot).setX (BitVec.ofNat 5 dest) r.1 r.2
  let t := { t with pc := t.pc + 8, held := none, got := [], answer := none, skipPm := false }
  k.setThread slot (match t.st with
    | .debug => { t with prior := .ready }
    | .stopped => k.thread slot
    | _ => { t with st := .ready })

/-- An arrival at a point (R142). -/
def rdvOp (op : Nat) (d a : Reg) (id : BitVec 4) (count : BitVec 5) (s : State) : State × Res :=
  let k := s.tk
  let i := id.toNat
  let slot := s.cur.2
  let e := AMap.get k.points i ⟨count.toNat, op, []⟩
  if e.arr.any (fun r => r.1 == slot) then (s, .wait (.rdv i))
  else if e.count != count.toNat || e.op != op then (s, .fault 0x0A 0 0)
  else
    let e := { e with arr := e.arr ++ [(slot, s.x a, s.xp a, d.toNat)] }
    if e.arr.length < e.count then (s.setTk { k with points := AMap.put k.points i e }, .wait (.rdv i))
    else
      let r := e.result
      let k := { k with points := AMap.erase k.points i }
      let k := (e.arr.filter fun x => x.1 != slot).foldl (fun k x => k.rdvRelease x.1 x.2.2.2 r) k
      ((s.setTk k).setX d r.1 r.2, .done)

/-- R142: the value of the lowest slot. -/
def execRdv (d a : Reg) (id : BitVec 4) (count : BitVec 5) (s : State) : Host.Outcome State Fault Refusal :=
  issue .barred 8 s (rdvOp 0 d a id count)
/-- R142: the sum. -/
def execRdvadd (d a : Reg) (id : BitVec 4) (count : BitVec 5) (s : State) : Host.Outcome State Fault Refusal :=
  issue .barred 8 s (rdvOp 1 d a id count)
/-- R142: the largest, as signed. -/
def execRdvmax (d a : Reg) (id : BitVec 4) (count : BitVec 5) (s : State) : Host.Outcome State Fault Refusal :=
  issue .barred 8 s (rdvOp 2 d a id count)
/-- R142: the OR. -/
def execRdvor (d a : Reg) (id : BitVec 4) (count : BitVec 5) (s : State) : Host.Outcome State Fault Refusal :=
  issue .barred 8 s (rdvOp 3 d a id count)

/-! ## Deadlock (R144, R145) -/

/-- The live slots of a task. -/
def Task.liveSlots (k : Task) : List Nat := slots.filter fun i => (k.thread i).live

/-- Whether the wait of a thread could complete when only threads outside stuck act further (R144). -/
def Task.couldComplete (k : Task) (stuck : List Nat) (slot : Nat) : Bool :=
  match (k.thread slot).st with
  | .waiting (.rdv id) =>
    match AMap.find? k.points id with
    | none => true
    | some e =>
      let others := k.liveSlots.filter fun i => !stuck.contains i && !e.arr.any fun a => a.1 == i
      e.count ≤ e.arr.length + others.length
  | .waiting (.hjoin h) => !stuck.contains h
  | .waiting (.timeline t v) => v ≤ (k.line t).issued
  | _ => true

/-- Remove waits that could complete until a whole pass removes none; fuel bounds the passes. -/
def Task.stuckOf (k : Task) (stuck : List Nat) (fuel : Nat) : List Nat :=
  match fuel with
  | 0 => stuck
  | fuel + 1 => k.stuckOf (stuck.foldl (fun st i => if k.couldComplete st i then st.filter (fun j => j != i) else st) stuck) fuel

/-- Whether a thread waits in a rendezvous, an hjoin or a waittl. -/
def Thread.inR144 (t : Thread) : Bool :=
  match t.st with
  | .waiting (.rdv _) => true
  | .waiting (.hjoin _) => true
  | .waiting (.timeline _ _) => true
  | _ => false

/-- The condition of R145. -/
def Task.deadlocked (k : Task) : Bool :=
  let live := k.liveSlots
  !live.isEmpty && live.all (fun i => (k.thread i).inR144) && !(k.stuckOf live 17).isEmpty

/-- R145: the control thread receives 0x0B at its waiting instruction; its arrival is withdrawn. -/
def execDeadlockDetect (core : Nat) (s : State) : Host.Outcome State Fault Refusal :=
  event s fun s =>
    match s.running core with
    | none => s
    | some tid =>
      let k := s.task tid
      if k.deadlocked && (k.thread 0).live then
        let points := match (k.thread 0).st with
          | .waiting (.rdv id) =>
            match AMap.find? k.points id with
            | some e =>
              let arr := e.arr.filter fun a => a.1 != 0
              if arr.isEmpty then AMap.erase k.points id else AMap.put k.points id { e with arr := arr }
            | none => k.points
          | _ => k.points
        (s.setTask tid { k with points := points }).faultHeld tid 0 0x0B 0 0 0 0
      else s

end Sys2Proof.Machine
end

