-- ==== Sys2Proof/Machine/KEnd.lean ====
section
/-! DEFINITION. The end of a kernel: kills and dumps (R353, R380, R386, R389, R341), draining and teardown (R289, R353), and the
comparison of a replay (R368, R460). -/

namespace Sys2Proof.Machine

/-! ## Dumps (R380, R385, R389) -/

/-- Whether a task that is killed is dumped (R380). -/
def State.dumps (s : State) (tid : Nat) : Bool :=
  let d := (s.ctx (s.task tid).ctx).desc
  bitAt d.flags 3 && d.dump != 0 && !(s.task tid).fresh

/-- Write a killed task's image to the dump area, encrypted for a confidential context (R380, R389); none while its pages do not take it. -/
def State.dump (s : State) (tid : Nat) : Option State :=
  let k := s.task tid
  let d := (s.ctx k.ctx).desc
  let img := s.saveImage tid
  let img := if bitAt d.flags 0 then (img.zip (List.range img.length)).map fun p => Config.dumpCipher d.tkey p.2 p.1 else img
  ({ s with free := s.free + 22336 } : State).engineWrite k.ctx d.dump (img.map fun b => ⟨b, false⟩) 4

/-- Whether a task can be killed now: one that is dumped is held at a boundary, its responses are in and its buffers drained, and its dump
can be written (R380, R385). -/
def State.killReady (s : State) (tid : Nat) : Bool :=
  !(s.task tid).alive || !s.dumps tid ||
    (s.canSave tid && (s.task tid).threads.all (fun t => t.2.wbuf.isEmpty) && (s.dump tid).isSome)

/-! ## Kills -/

/-- The tasks of a kernel. -/
def State.tasksOf (s : State) (kid : Nat) : List Nat := (s.tasks.filter fun (t : Nat × Task) => t.2.kid == kid).map Prod.fst

/-- The scratchpad blocks that a kernel holds in a cluster stay allocated, broken (R341). -/
def Cluster.breakBlocks (c : Cluster) (kid : Nat) : Cluster :=
  { c with blocks := c.blocks.filter fun b => b.kid != kid, broken := c.broken ++ c.blocks.filter fun b => b.kid == kid }

/-- Kill a task (R353, R380): its dump, then it leaves its core. -/
def State.killTask (s : State) (tid : Nat) : State :=
  let k := s.task tid
  if !k.alive then s
  else
    let s := if s.dumps tid then (s.dump tid).getD s else s
    let s := ({ s with issuing := s.issuing.filter fun i => i.1 != tid } : State).withdrawReqs tid
    let s := s.setCluster k.cluster ((s.cluster k.cluster).breakBlocks k.kid)
    let s := s.leaveCore tid
    let s := s.setTask tid { s.task tid with exited := some 0, killing := false }
    match s.kernel? k.kid with
    | some q => s.setKernel (q.absorb k)
    | none => s

/-- A task with more pending faults than firmware keeps: the oldest goes to the ring with ACTION 3 (R386). -/
def State.overflowRec (s : State) (tid : Nat) : State :=
  let k := s.task tid
  match k.pend with
  | [] => s
  | p :: _ =>
    if k.pend.length < 65569 then s
    else s.ringPut k.ctx { (s.noteRec p.code p.kind k.kid p.info1 p.info2) with slot := p.slot, core := k.core, action := 3, addr := p.addr }

/-- Whether a kernel has ended or is ending. -/
def Kernel.ended (k : Kernel) : Bool := k.st == .complete || k.st == .faulted

/-- Kill tasks of a kernel (R353): it is FAULTED and its groups break; each of the tasks is killed. -/
def State.killKernel (s : State) (k : Kernel) (ts : List Nat) : State :=
  let s := (s.leaveQueue k).setKernel { k with st := .faulted }
  let s := ((ts.filter fun t => (s.task t).killing).foldl State.overflowRec s).breakGroups k.kid
  ts.foldl State.killTask s

/-- Hold a task that is to be killed with a dump: it issues nothing more and its buffers drain (R385). -/
def State.holdKill (s : State) (tid : Nat) : State :=
  if !(s.task tid).alive || !s.dumps tid then s
  else
    let s := s.setTask tid { s.task tid with killing := true }
    let s := if (s.task tid).onCore then s.halt (s.task tid).core else s
    (s.drainAll tid).1

/-- Tasks of a kernel die: at once, or once those that are dumped are ready for it. -/
def State.killStep (s : State) (k : Kernel) (ts : List Nat) : State :=
  let s := if ts.all s.killReady then s else ts.foldl State.holdKill s
  if ts.all s.killReady then s.killKernel k ts else s

/-- The tasks of a kernel that die next: of a kernel whose context is torn down, and of a FAULTED one, all that are left; else those that a
fatal fault kills. Their kernel's groups break with them, and the other tasks run until they are killed in their turn (R341, R353). -/
def State.doomed (s : State) (k : Kernel) : List Nat :=
  let ts := (s.tasksOf k.kid).filter fun t => (s.task t).alive
  if k.st == .faulted || (!k.ended && (s.ctx k.ctx).st == .teardown) then ts
  else if k.ended then []
  else ts.filter fun t => (s.task t).killing

/-- R353: a task of a kernel is killed for a fatal fault, or its context is torn down (R374): the kernel is FAULTED, and its other tasks are
killed. -/
def execKernelKill (kid : Nat) (s : State) : Host.Outcome State Fault Refusal :=
  event s fun s =>
    match s.kernel? kid with
    | none => s
    | some k =>
      if (s.doomed k).isEmpty && (k.ended || (s.ctx k.ctx).st != .teardown) then s else s.killStep k (s.doomed k)

/-! ## Draining and teardown -/

/-- Whether every engine operation of a kernel has retired and every buffered store is performed (R283, R353). -/
def State.quiet (s : State) (kid : Nat) : Bool :=
  (s.tasksOf kid).all (fun t => !s.taskBusy t && (s.task t).threads.all fun h => h.2.wbuf.isEmpty)
    && !s.remotes.any fun r => match r.who with
      | .group q _ _ => q == kid
      | _ => false

/-- VALID clears in the tiles that a kernel owns (R289). -/
def Cluster.dropTiles (c : Cluster) (kid : Nat) : Cluster :=
  { c with tcfg := c.tcfg.map fun t => if tcfgOwner t.2 == kid % 65536 then (t.1, t.2 &&& ~~~0x10000) else t }

/-- A kernel's scratchpad slots and handle copies go (R252, R341). -/
def Cluster.dropPad (c : Cluster) (kid : Nat) : Cluster :=
  { c with blocks := c.blocks.filter fun b => b.kid != kid, broken := c.broken.filter fun b => b.kid != kid
           handles := c.handles.filter fun h => h.kid != kid }

/-- Teardown of a kernel (R289, R252, R324, R341): tiles, scratchpad, groups, tasks. -/
def State.teardown (s : State) (kid : Nat) : State :=
  { s with
    mem := (s.tasksOf kid).foldl (fun m t => m.zero (asideKey t 0) 524288) s.mem
    clusters := s.clusters.map fun c =>
      (c.1, { (c.2.dropTiles kid).dropPad kid with issued := c.2.issued.filter fun o => o.kid != kid })
    groups := s.groups.filter fun (g : Group) => g.kid != kid
    tasks := s.tasks.filter fun (t : Nat × Task) => t.2.kid != kid }

/-- Whether a launch waits for its audit before it signals (R353, R368). -/
def Kernel.gated (k : Kernel) : Bool := k.selected && k.lrec.auditClass == 2

/-- R353: every task of a kernel has ended and every operation of it has retired: it is COMPLETE, waits for its audit, or, once
FAULTED, signals with ERR. A replay instance signals nothing (R368). -/
def execKernelDrainComplete (kid : Nat) (s : State) : Host.Outcome State Fault Refusal :=
  event s fun s =>
    match s.kernel? kid with
    | none => s
    | some k =>
      if !(k.st == .draining || (k.st == .faulted && !k.signalled)) || (s.tasksOf kid).any (fun t => (s.task t).alive) || !s.quiet kid || !s.signalOpen k then s
      else
        let bad := k.st == .faulted
        let s := if k.replayOf.isSome then s.setKernel { k with st := if bad then .faulted else .complete, signalled := true }
          else if k.gated && !bad then s.setKernel { k with st := .auditPending }
          else s.endKernel k bad
        s.teardown kid

/-! ## Comparison (R460) -/

/-- The larger magnitude of two values, finite ones only, times 2^149. -/
def magOf (v : FV) : Nat :=
  match v with
  | .fin _ m e => m * 2 ^ (e + 149).toNat
  | _ => 0

/-- A finite value times 2^149. -/
def scaled (v : FV) : Int :=
  match v with
  | .fin n m e => (if n then -1 else 1) * ((m * 2 ^ (e + 149).toNat : Nat) : Int)
  | _ => 0

/-- Whether two values are both NaN, equal infinities, or finite within a bound on their distance. -/
def closeBy (a b : FV) (within : Nat → Bool) : Bool :=
  match a, b with
  | .nan _, .nan _ => true
  | .inf x, .inf y => x == y
  | .fin _ _ _, .fin _ _ _ => within (scaled a - scaled b).natAbs
  | _, _ => false

/-- Class 1 and 2: bits equal, both NaN, or both zeros. -/
def sameValue (f : FF) (a b : Nat) : Bool :=
  a == b || (match f.value a, f.value b with
    | .nan _, .nan _ => true
    | .fin _ 0 _, .fin _ 0 _ => true
    | _, _ => false)

/-- Whether two elements match under a class; m is the largest finite magnitude times 2^149 and e the least ENOBMIN. -/
def elemMatch (cls m e a b : Nat) : Bool :=
  let f := ffOf (if cls == 2 then etOfTy 1 else etOfTy 2)
  match cls with
  | 0 => a == b
  | 1 => sameValue f a b
  | 2 => sameValue f a b
  | 3 => if e == 255 then sameValue f a b else closeBy (f.value a) (f.value b) fun d => d ^ 8 * 2 ^ e ≤ m ^ 8 * 2 ^ 8
  | 4 => closeBy (f.value a) (f.value b) fun d => d * 2 ^ 8 ≤ m
  | _ => closeBy (f.value a) (f.value b) fun d => d * 2 ^ 16 ≤ m

/-- The elements of a region's bytes, with poison. -/
def elements (n count : Nat) (bs : List PByte) : List (Nat × Bool) :=
  match count with
  | 0 => []
  | count + 1 => (leNat ((bs.take n).map PByte.b), (bs.take n).any PByte.p) :: elements n count (bs.drop n)

/-- Whether two output regions match under a class. -/
def regionMatch (cls e : Nat) (x y : List PByte) : Bool :=
  let n := classBytes cls
  let xs := elements n (x.length / n) x
  let ys := elements n (y.length / n) y
  let f := ffOf (etOfTy 2)
  let m := (xs ++ ys).foldl (fun m v => max m (magOf (f.value v.1))) 0
  (xs.zip ys).all fun p => !p.1.2 && !p.2.2 && elemMatch cls m e p.1.1 p.2.1

/-- The bytes of a region of a context. -/
def State.regionBytes (s : State) (ctx : Nat) (r : Nat × Nat × Nat) : Option (List PByte) := s.engineRead ctx r.1 r.2.1 (r.2.1 / 4096 + 2)

/-- The first output region that mismatches between a kernel and its replay. -/
def State.firstMismatch (s : State) (k r : Kernel) : Option Nat :=
  let e := min k.enobMin r.enobMin
  (List.range k.regions.length).find? fun i =>
    let a := k.regions.getD i (0, 0, 0)
    bitAt a.2.2 0 && (match s.regionBytes k.ctx a, s.regionBytes k.ctx (r.regions.getD i (0, 0, 0)) with
      | some x, some y => !regionMatch (a.2.2 / 16) e x y
      | _, _ => true)

/-- Whether an output region of a kernel or of its replay cannot be read for now. -/
def State.compareWaits (s : State) (k r : Kernel) : Bool :=
  (List.range k.regions.length).any fun i =>
    let a := k.regions.getD i (0, 0, 0)
    let b := r.regions.getD i (0, 0, 0)
    bitAt a.2.2 0 && (s.rangeWaits k.ctx a.1 a.2.1 || s.rangeWaits k.ctx b.1 b.2.1)

/-- R368: both instances of a selected launch have ended and their output regions are compared, once they can be read. A mismatch, or a replay that
ends FAULTED, writes 0x50; a gated kernel signals now, with ERR on a mismatch. -/
def execReplayCompare (kid : Nat) (s : State) : Host.Outcome State Fault Refusal :=
  event s fun s =>
    match s.kernel? kid with
    | none => s
    | some k =>
      match k.replay.bind s.kernel? with
      | none => s
      | some r =>
        let ended := k.st == .auditPending || (k.st == .complete && k.lrec.auditClass == 1)
        if !ended || !r.signalled || !s.signalOpen k || (r.st != .faulted && s.compareWaits k r) then s
        else
          let miss := if r.st == .faulted then some 0 else s.firstMismatch k r
          let k := { k with replay := none }
          let s := s.setKernel k
          let s := match miss with
            | some i => s.ringPut k.ctx (s.noteRec 0x50 3 kid i r.kid)
            | none => s
          if k.st == .auditPending then s.endKernel k miss.isSome else s

end Sys2Proof.Machine
end

