-- ==== Sys2Proof/Machine/Phase.lean ====
section
/-! DEFINITION. PHASE instructions (R318, R319), the steps in which the unit runs them, and the decomposition engines (R22, R311,
R463), with phase images (R111, R112). -/

namespace Sys2Proof.Machine

/-! ## Images (R111) -/

/-- The bytes of a phase image. -/
def imgBytes : Nat := 16384

/-- An image with its checksum field replaced. -/
def withCrc (img : List Byte) (crc : Nat) : List Byte := img.take 0x300C ++ leBytes 4 crc ++ img.drop 0x3010
/-- The checksum of an image: CRC-32C with its own field as zero. -/
def imgCrc (img : List Byte) : Nat := crc32c (withCrc img 0)
/-- A field of 4 bytes. -/
def imgWord (img : List Byte) (o : Nat) : Nat := leNat ((img.drop o).take 4)
/-- Whether a phase load takes an image: its checksum and its format (R319). -/
def imgGood (img : List Byte) : Bool := imgWord img 0x300C == imgCrc img && imgWord img 0x3008 % 65536 == 1

/-- Pairs of codes packed in 3 bytes. -/
def packCodes : List Nat → List Byte
  | a :: b :: cs => leBytes 3 (a % 4096 + b % 4096 * 4096) ++ packCodes cs
  | _ => []

/-- Code j of the bank whose image begins at key. -/
def Memory.code (m : Memory) (key j : Nat) : Nat :=
  leNat ((m.read (key + j / 2 * 3) 3).map PByte.b) / 4096 ^ (j % 2) % 4096

/-- Replace code j. -/
def Memory.setCode (m : Memory) (key j c : Nat) : Memory :=
  let a := if j % 2 == 0 then c else m.code key (j - 1)
  let b := if j % 2 == 0 then m.code key (j + 1) else c
  m.write (key + j / 2 * 3) ((packCodes [a, b]).map fun b => ⟨b, false⟩)

/-- The pieces of an image side: a page of FMT 8 or a window (R319). -/
def State.imagePieces (s : State) (tid va : Nat) (k : Acc) (pois : Bool) : State × Chk :=
  match regionOf va with
  | .csp => s.check tid va imgBytes k pois
  | .cm => s.check tid va imgBytes k pois
  | _ =>
    match s.pagesOf (s.task tid).cluster (s.task tid).ctx k va imgBytes 20 with
    | (s, some w, _) => (s, .wait w)
    | (s, none, ps) =>
      let raw := ps.map fun p => match p with
        | .page a n t => Piece.page a n t.asRaw
        | w => w
      match s.laterChecks k imgBytes pois raw <|> (firstBad ps fun _ _ t => if t.fmtOf != 8 then some 0x13 else none) with
      | some (c, b) => (s, .fault c b)
      | none => (s, .ok (raw.flatMap Piece.chunks))

/-- The key of the remote requests of an operation of tl1. -/
def omuTag (seq side : Nat) : Nat := 4 * seq + side + 2 ^ 67

/-- Read an image for an operation of a thread. -/
def State.imageRead (s : State) (tid slot seq va : Nat) : State × Got :=
  match s.imagePieces tid va .load false with
  | (s, .ok ps) =>
    let r := s.flushPieces tid slot ps
    if r.2 then r.1.engineLoadPieces tid (omuTag seq 0) ps else (r.1, .wait .drain)
  | (s, .fault c b) => (s, .fault c b)
  | (s, .wait w) => (s.holdWait w (.engine tid (omuTag seq 0)), .wait w)

/-- Write an image for an operation of a thread: nothing of it when it faults. -/
def State.imageWrite (s : State) (tid seq side va : Nat) (bs : List PByte) : State × Got :=
  match s.imagePieces tid va .store (bs.any PByte.p) with
  | (s, .ok ps) =>
    match s.engineStoreReady ps with
    | some (c, b) => (s, .fault c b)
    | none => s.engineStorePieces tid (omuTag seq side) ps bs
  | (s, .fault c b) => (s, .fault c b)
  | (s, .wait w) => (s.holdWait w (.engine tid (omuTag seq side)), .wait w)

/-! ## Issue (R318, R319) -/

/-- phld, phtrim, phrd and phinv at their issue: va is the image address, if there is one. -/
def phaseOp (d a : Reg) (bank : BitVec 4) (cap : BitVec 3) (va : Option Word) (kind : OmuKind) (s : State) : State × Res :=
  match (if (va.getD 0).toNat % imgBytes != 0 then none else s.target (s.x a)) with
  | none => (s, .fault 0x22 0 0)
  | some cl =>
    let w := s.capOf cap
    if !capAllows w s.tk.ctx 46 (· == cl) [] [bank.toNat] then (s, .fault 0x23 0 0)
    else if !s.omuAvail cl then (s, .fault 0x24 0 0)
    else
      match va.bind fun v => s.spanFault v.toNat imgBytes with
      | some (c, b) => (s, .fault c b 0)
      | none => s.submit cl (s.newOmu kind d (some w) [])

/-- R319: a phase load of an image into a bank. -/
def execPhld (d a b : Reg) (bank : BitVec 4) (cap : BitVec 3) (s : State) : Host.Outcome State Fault Refusal :=
  issue .plain 8 s (viaOmu fun s => s.unlessPoison [a, b] fun s => phaseOp d a bank cap (some (s.x b)) (.phld bank.toNat (s.x b)) s)

/-- R319: a trim of a bank. -/
def execPhtrim (d a : Reg) (bank : BitVec 4) (cap : BitVec 3) (s : State) : Host.Outcome State Fault Refusal :=
  issue .plain 8 s (viaOmu fun s => s.unlessPoison [a] fun s => phaseOp d a bank cap none (.phtrim bank.toNat) s)

/-- R319: a read of a bank to memory as an image. -/
def execPhrd (d a b : Reg) (bank : BitVec 4) (cap : BitVec 3) (s : State) : Host.Outcome State Fault Refusal :=
  issue .plain 8 s (viaOmu fun s => s.unlessPoison [a, b] fun s => phaseOp d a bank cap (some (s.x b)) (.phrd bank.toNat (s.x b)) s)

/-- R319: an invalidation of a bank. -/
def execPhinv (d a : Reg) (bank : BitVec 4) (cap : BitVec 3) (s : State) : Host.Outcome State Fault Refusal :=
  issue .plain 8 s (viaOmu fun s => s.unlessPoison [a] fun s => phaseOp d a bank cap none (.phinv bank.toNat) s)

/-! ## The unit's steps -/

/-- A bank becomes not loaded (R290). -/
def State.unload (s : State) (cl b : Nat) : State :=
  let c := s.cluster cl
  s.setCluster cl { c with loaded := if bitAt c.loaded b then c.loaded - 2 ^ b else c.loaded
                           trimBad := if bitAt c.trimBad b then c.trimBad - 2 ^ b else c.trimBad }

/-- A bank takes an image: its codes and header, its poison bit (R290). -/
def State.loadBank (s : State) (cl b ctx : Nat) (bs : List PByte) : State :=
  let c := s.cluster cl
  let clear := if bitAt c.bankPois b then c.bankPois - 2 ^ b else c.bankPois
  ({ s with mem := s.mem.write (bankKey cl b 0) (bs.map fun (x : PByte) => ⟨x.b, false⟩) } : State).setCluster cl { c with
    loaded := if bitAt c.loaded b then c.loaded else c.loaded + 2 ^ b
    trimBad := if bitAt c.trimBad b then c.trimBad - 2 ^ b else c.trimBad
    bankPois := clear + bitN (bs.any PByte.p) b, bankCtx := ctx + 1 }

/-- The end of a phase operation, whose answers are forgotten. -/
def State.endPhase (s : State) (cl : Nat) (o : OmuOp) (fail : Option (Nat × Nat)) : State :=
  ([0, 1, 2].foldl (fun s i => s.forget o.tid (omuTag o.seq i)) s).endOmu cl o fail

/-- The oldest staged operation that a unit may begin, when the unit is available. -/
def State.phaseNext (s : State) (cl : Nat) : Option OmuOp := if s.omuAvail cl then (s.cluster cl).nextOp else none

/-- R319: a phase load reads its image, checks it, loads the bank and probes it; whenever it fails the bank is left not loaded (log
entry 24). -/
def execOmuPhld (cl : Nat) (measured : List Int) (s : State) : Host.Outcome State Fault Refusal :=
  event s fun s =>
    match s.phaseNext cl with
    | some o =>
      match o.kind with
      | .phld b va =>
        match s.imageRead o.tid o.slot o.seq va.toNat with
        | (s, .wait _) => s
        | (s, .fault c a) => (s.unload cl b).endPhase cl o (some (c, a))
        | (s, .bytes bs) =>
          if !imgGood (bs.map PByte.b) then (s.unload cl b).endPhase cl o (some (0x13, va.toNat))
          else
            let s := s.loadBank cl b (s.task o.tid).ctx bs
            let e := s.residualOf cl b measured
            let s := s.bankProbe cl b e
            if e ≤ (s.cluster cl).drlimit then s.endPhase cl o none
            else (s.unload cl b).endPhase cl o (some (0x20, 0))
      | _ => s
    | none => s

/-- Whether a trim is one that R319 allows: an attenuator or output phase code, by at most 8 codes. -/
def trimOk (m : Memory) (key : Nat) (t : Nat × Nat) : Bool :=
  let old := m.code key t.1
  let up := (t.2 + 4096 - old) % 4096
  ((4032 ≤ t.1 && t.1 ≤ 4095) || (8128 ≤ t.1 && t.1 ≤ 8191)) && t.2 < 4096 && (up ≤ 8 || 4088 ≤ up)

/-- The trims that a unit itself finds for its oldest staged phtrim: each attenuator and output phase code moves by a free number of codes, at
most 8 up or down (log entry 64). -/
def State.freeTrims (s : State) (cl : Nat) : List (Nat × Nat) :=
  match (s.cluster cl).nextOp.map OmuOp.kind with
  | some (.phtrim b) => (List.range 128).map fun j =>
      let i := if j < 64 then 4032 + j else 8064 + j
      (i, (s.mem.code (bankKey cl b 0) i + Config.freeNat (s.free + j) % 17 + 4088) % 4096)
  | _ => []

/-- R319: a trim adjusts codes of a bank and probes it; the trims are kept. -/
def execOmuPhtrim (cl : Nat) (trims : List (Nat × Nat)) (measured : List Int) (s : State) : Host.Outcome State Fault Refusal :=
  event s fun s =>
    match s.phaseNext cl with
    | some o =>
      match o.kind with
      | .phtrim b =>
        if !bitAt (s.cluster cl).loaded b then s.endPhase cl o (some (0x21, 0))
        else
          let key := bankKey cl b 0
          let ts := trims.filter (trimOk s.mem key)
          let once := ts.filter fun t => (ts.filter fun u => u.1 == t.1).length == 1
          let e := s.residualOf cl b measured
          let s := ({ s with mem := once.foldl (fun m t => m.setCode key t.1 t.2) s.mem } : State).bankProbe cl b e
          let c := s.cluster cl
          let s := if e ≤ c.drlimit || bitAt c.trimBad b then s else s.setCluster cl { c with trimBad := c.trimBad + 2 ^ b }
          s.endPhase cl o (if e ≤ (s.cluster cl).drlimit then none else some (0x20, 0))
      | _ => s
    | none => s

/-- The image of a bank: its codes and header fields with a new checksum; no decomposition engine wrote it, so the achieved error is 0
like every reserved byte (R111, R290). -/
def State.bankImage (s : State) (cl b : Nat) : List PByte :=
  let get (o n : Nat) : List Byte := (s.mem.read (bankKey cl b o) n).map PByte.b
  let img := get 0 0x3010 ++ List.replicate 0x30 0 ++ get 0x3040 0x600 ++ List.replicate 0x9C0 0
  (withCrc img (imgCrc img)).map fun x => ⟨x, bitAt (s.cluster cl).bankPois b⟩

/-- R319: a bank's codes and header are written as an image. -/
def execOmuPhrd (cl : Nat) (s : State) : Host.Outcome State Fault Refusal :=
  event s fun s =>
    match s.phaseNext cl with
    | some o =>
      match o.kind with
      | .phrd b va =>
        if !bitAt (s.cluster cl).loaded b then s.endPhase cl o (some (0x21, 0))
        else
          match s.imageWrite o.tid o.seq 1 va.toNat (s.bankImage cl b) with
          | (s, .wait _) => s
          | (s, .fault c a) => s.endPhase cl o (some (c, a))
          | (s, .bytes _) => s.endPhase cl o none
      | _ => s
    | none => s

/-- R319: a bank becomes not loaded, its window closed. -/
def execOmuPhinv (cl : Nat) (s : State) : Host.Outcome State Fault Refusal :=
  event s fun s =>
    match s.phaseNext cl with
    | some o =>
      match o.kind with
      | .phinv b => (s.unload cl b).endPhase cl o none
      | _ => s
    | none => s

/-! ## Decomposition (R311) -/

/-- Decomposition engines of a die that are enabled and not withdrawn (R35, R463). -/
def State.engines (s : State) (d : Nat) : Nat :=
  ((List.range 8).filter fun e => s.enmap.getLsbD (192 + 8 * d + e) && !s.wdmap.getLsbD (192 + 8 * d + e)).length

/-- Whether the light of a die's source is there (R21). -/
def State.dieLit (s : State) (d : Nat) : Bool := (List.range 8).all fun n => lineLit (s.line d n)

/-- R311, R318, R319: queues a decomposition on the issuing core's die. -/
def execDcmp (d a b : Reg) (cap : BitVec 3) (res : Bool) (s : State) : Host.Outcome State Fault Refusal :=
  issue .plain 8 s fun s => s.unlessPoison [a, b] fun s =>
    let n := if res then 2 * imgBytes else imgBytes
    let dst := (s.x a).toNat
    let src := (s.x b).toNat
    let die := dieOf s.tk.cluster
    let w := s.capOf cap
    if dst % n != 0 || src % 4 != 0 then (s, .fault 0x22 0 0)
    else if !capAllows w s.tk.ctx 47 (fun c => c < 96 && dieOf c == die) [] [] || !s.capTagOk w then (s, .fault 0x23 0 0)
    else if s.engines die == 0 || !s.dieLit die then (s, .fault 0x24 0 0)
    else unlessFault (s.spanFault dst n <|> s.spanFault src imgBytes) (fun s =>
      if 64 ≤ (s.die die).dcmp.length then (s, .wait .queue)
      else
        let (s, seq) := s.issueOp 1
        let s := s.setX d (BitVec.ofNat 64 seq) false
        let q := s.die die
        (s.setDie die { q with dcmp := q.dcmp ++ [{ seq := seq, tid := s.cur.1, slot := s.cur.2, cluster := s.tk.cluster,
                                                    dst := s.x a, src := s.x b, res := res }] }, .done)) s

/-- Drive level j of probe vector p (R311), as a byte. -/
def probeLevel (p j : Nat) : Byte := BitVec.ofInt 8 (((37 * j + 53 * p + 11) % 255 : Nat) - 127)

/-- What a decomposition engine decomposes, with a precision: 4,096 values, row-major, each an integer times 2^unit, known to within slack; of
the main image the source's words themselves. -/
structure Source where
  xs    : List Int
  unit  : Int
  slack : Int

/-- The source of a main image: binary32 words. -/
def sourceOf (ws : List Nat) : Source := ⟨ws.map f32Int, -189, 0⟩

/-- The codes of an image: of an all-zero source as R311 gives them, else those that the engine finds (log entry 67). -/
def imageCodes (src : List Nat) (which : Nat) (zero : Bool) : List Nat :=
  if zero then (List.range 8192).map fun j => if 4032 ≤ j && j < 4096 then 2048 else 0
  else (List.range 8192).map fun j => Config.dcmpCode src which j % 4096

/-- Of the two binary32 values that a number may round to, the even one: the number lies on the tie between them. -/
def evenOf (r : Nat × Nat) : Nat := if r.1 % 2 == 0 then r.1 else r.2

/-- Round n × 2^e to binary32, n at least 0. -/
def f32Near (n e : Int) : Nat := (f32.round ⟨1, false, false⟩ false n.toNat e false).1

/-- The binary32 values to which the largest singular value of a source may round with b significant bits (R311). -/
def Source.sigma (x : Source) (b : Nat) : Nat × Nat :=
  let r := singularOf b x.xs x.unit
  if x.slack == 0 then (r.1, r.1) else (f32Near (r.2.1 - 64 * x.slack) x.unit, f32Near (r.2.2 + 64 * x.slack) x.unit)

/-- What an image with a weight scale leaves of a source: W_src less scale × T (R284, R311). -/
def Source.less (x : Source) (m : Mesh) (scale : Nat) : Source :=
  let k := f32Int scale
  let up : Int := k * 2 ^ (-189 - x.unit).toNat
  ⟨List.zipWith (fun w t => w * 2 ^ m.prec - up * t) x.xs m.matrix, x.unit - m.prec, x.slack * 2 ^ m.prec + up * 2 ^ 20⟩

/-- The binary32 values to which the largest error of an image, divided by its σ_max, may round (R111, R311). -/
def Source.error (rest : Source) (sigma : Nat) : Nat × Nat :=
  let e := rest.xs.foldl (fun m v => max m v.natAbs) 0
  let d := (f32Int sigma).toNat
  let q (n : Int) : Nat := (f32.round ⟨1, false, false⟩ false (n.toNat * 2 ^ 64 / d) (rest.unit + 189 - 64) (n.toNat * 2 ^ 64 % d != 0)).1
  (q (e - rest.slack), q (e + rest.slack))

/-- Whether a source, known with any precision, is all zero. -/
def allZero (x : Nat → Source) : Bool :=
  exactly (fun p => let y := x p; y.xs.all fun v => (v.natAbs : Int) ≤ y.slack) fun near => !near

/-- The image that the engine makes: which is 0 for the main image and 1 for what it leaves, words the source's (R111, R311). The error
of an image whose source is all zero is 0 divided by 0, which the spec does not state. -/
def imageOf (words : List Nat) (which : Nat) (x : Nat → Source) : List Byte × (Nat → Source) :=
  let zero := allZero x
  let codes := imageCodes words which zero
  let same (r : Nat × Nat) : Bool := r.1 == r.2
  let scale := if zero then 0 else evenOf (exactly (fun p => (x p).sigma (p - 28)) same)
  let rest (p : Nat) : Source := (x p).less (meshOf p codes) scale
  let error := if zero || scale == 0 then Config.dcmpError words which % 2 ^ 32 else evenOf (exactly (fun p => (rest p).error scale) same)
  let resp (p : Nat) : List Int :=
    if zero then List.replicate 64 0 else responsesOf codes ((List.range 64).map fun j => (probeLevel p j).toInt)
  let img := packCodes codes ++ leBytes 4 scale ++ leBytes 4 scale ++ leBytes 4 (Config.dcmpRevision % 65536 * 65536 + 1)
    ++ leBytes 4 0 ++ leBytes 4 error ++ List.replicate 44 0
    ++ ((List.range 8).flatMap fun p => (List.range 64).map (probeLevel p))
    ++ ((List.range 8).flatMap fun p => (resp p).flatMap fun r => leBytes 2 (ofInt 16 r))
  let img := img ++ List.replicate (imgBytes - img.length) 0
  (withCrc img (imgCrc img), rest)

/-- The image of a source's 4,096 words: the main one, or that of what the main one leaves. -/
def makeImage (src : List Nat) (which : Nat) : List Byte :=
  let main := imageOf src 0 fun _ => sourceOf src
  if which == 0 then main.1 else (imageOf src 1 main.2).1

/-- Read the source matrix: a RAW page or a window (R319). -/
def State.matrixRead (s : State) (o : DcmpOp) : State × Got :=
  match s.check o.tid o.src.toNat imgBytes .load false with
  | (s, .ok ps) =>
    match tileSideBad ps with
    | some (c, b) => (s, .fault c b)
    | none =>
      let r := s.flushPieces o.tid o.slot ps
      if r.2 then r.1.engineLoadPieces o.tid (omuTag o.seq 0) (ps.flatMap Piece.chunks) else (r.1, .wait .drain)
  | (s, .fault c b) => (s, .fault c b)
  | (s, .wait w) => (s.holdWait w (.engine o.tid (omuTag o.seq 0)), .wait w)

/-- Write the images of a decomposition, the main image first. -/
def State.writeImages (s : State) (o : DcmpOp) (imgs : List (List PByte)) (side : Nat) : State × Got :=
  match imgs with
  | [] => (s, .bytes [])
  | img :: imgs =>
    match s.imageWrite o.tid o.seq side (o.dst.toNat + (side - 1) * imgBytes) img with
    | (s, .bytes _) => s.writeImages o imgs (side + 1)
    | r => r

/-- The index of the first binary32 word that is NaN or infinite. -/
def notFinite (ws : List Nat) (i : Nat) : Option Nat :=
  match ws with
  | [] => none
  | w :: ws => if w / 2 ^ 23 % 256 == 255 then some i else notFinite ws (i + 1)

/-- What an engine does for a decomposition. -/
def State.decompose (s : State) (o : DcmpOp) : State × Got :=
  match s.matrixRead o with
  | (s, .bytes bs) =>
    let ws := (List.range 4096).map fun i => leNat (((bs.drop (4 * i)).take 4).map PByte.b)
    match notFinite ws 0 with
    | some i => (s, .fault 0x13 (o.src.toNat + 4 * i))
    | none =>
      let pois := bs.any PByte.p
      s.writeImages o ((if o.res then [0, 1] else [0]).map fun w => (makeImage ws w).map fun b => ⟨b, pois⟩) 1
  | r => r

/-- A decomposition leaves its queue. -/
def State.endDcmp (s : State) (d : Nat) (o : DcmpOp) (fail : Option (Nat × Nat)) : State :=
  let s := [0, 1, 2].foldl (fun s i => s.forget o.tid (omuTag o.seq i)) s
  let q := s.die d
  let s := s.setDie d { q with dcmp := q.dcmp.filter fun p => !(p.tid == o.tid && p.seq == o.seq) }
  match fail with
  | none => s.retire o.tid 1 o.seq
  | some (c, a) => s.retireFailed o.tid o.slot 1 o.seq c a 0

/-- The engines of a die try the decompositions they have taken, in arrival order, until one ends. -/
def State.serveDcmp (s : State) (d : Nat) (os : List DcmpOp) : State :=
  match os with
  | [] => s
  | o :: os =>
    match s.decompose o with
    | (s, .bytes _) => s.endDcmp d o none
    | (s, .fault c a) => s.endDcmp d o (some (c, a))
    | (s, .wait _) => s.serveDcmp d os

/-- R311: an engine of the die serves a decomposition; when all eight are gone, those that are queued fault 0x24 (R463). -/
def execDcmpExecute (die : Nat) (s : State) : Host.Outcome State Fault Refusal :=
  event s fun s =>
    if s.engines die == 0 then (s.die die).dcmp.foldl (fun s o => s.endDcmp die o (some (0x24, 0))) s
    else s.serveDcmp die ((s.die die).dcmp.take (s.engines die))

end Sys2Proof.Machine
end

