-- ==== Sys2Proof/Machine/Ctx.lean ====
section
/-! DEFINITION. Contexts and their states (R370 to R374, R347, R407), the hand-over and resolution of faults (R376, R379, R380, R389) and
translation misses that firmware gives up (R383, R527). -/

namespace Sys2Proof.Machine

/-! ## Creation (R371, R374) -/

/-- To the host: a refused request (R33, R371). -/
def msgCtxRefused : Nat := 11

/-- Whether a table's address is in the device half. -/
def inDev (a : Nat) : Bool := match regionOf a with | .dev => true | _ => false

/-- The checks of R371 on a descriptor. -/
def descOk (d : CtxDesc) (keyHeld : Bool) : Bool :=
  d.root % 65536 == 0 && d.sigtab % 2048 == 0 && inDev d.sigtab && d.fring % 4096 == 0 && inDev d.fring && d.dump % 4096 == 0
    && (d.spin == 0 || (1 ≤ d.spin && d.spin ≤ 10000)) && 6 ≤ d.logf && d.logf ≤ 16 && d.flags < 16 && d.rsvd == 0
    && (if bitAt d.flags 0 then keyHeld && d.tkey != 0 else d.tkey == 0)

/-- A descriptor as it is kept: SPIN 0 selects 20; the host's IMBAL and TRACE do not count for a confidential context. -/
def descKept (d : CtxDesc) : CtxDesc :=
  { d with spin := if d.spin == 0 then 20 else d.spin, flags := if bitAt d.flags 0 then d.flags &&& 9 else d.flags }

/-- DEVSTAT.READY (R34). -/
def State.ready (s : State) : Bool := s.devstat.getLsbD 0

/-- R371, R374: the host passes a descriptor: the context is BUILDING, or the request is refused: before READY (R33), over a link
without CXL.cache and CXL.mem (R453), in containment (R465), for a CTXID in use or not yet free (R407), or for its descriptor. -/
def execContextCreateRequest (ctx : Nat) (d : CtxDesc) (keyHeld : Bool) (s : State) : Host.Outcome State Fault Refusal :=
  event s fun s =>
    let c := s.ctx ctx
    if !s.ready || s.linkBad || s.contained || 64 ≤ ctx || c.st != .free || (c.used && s.now < c.lastWalk + 4194384)
        || !descOk d keyHeld then s.send 0 msgCtxRefused [ctx]
    else s.setCtx ctx { Context.reset with st := .building, desc := descKept d }

/-- R347: the host driver registers a queue of a context that it builds. -/
def execQueueRegister (ctx q ring logq cap : Nat) (s : State) : Host.Outcome State Fault Refusal :=
  event s fun s =>
    let half : Bool := match regionOf ring with
      | .dev => true
      | .host => true
      | _ => false
    let c := s.ctx ctx
    if c.st != .building || 16 ≤ q || ring % 128 != 0 || !half || logq < 4 || 12 < logq || 3 < cap then s
    else
      let k : Queue := { ring := ring, logq := logq, cap := cap, audit := 0, tail := 0, head := 0, seq := 0, comp := [] }
      s.setCtx ctx { c with queues := AMap.put c.queues q k }

/-- R374: a built context with its queues registered becomes ACTIVE; a confidential one once the PSC has attested its tenant. -/
def execContextActivate (ctx : Nat) (attested : Bool) (s : State) : Host.Outcome State Fault Refusal :=
  event s fun s =>
    let c := s.ctx ctx
    if c.st == .building && !c.queues.isEmpty && (attested || !bitAt c.desc.flags 0) then s.setCtx ctx { c with st := .active, used := true } else s

/-! ## Suspension and destruction (R374) -/

/-- A task of a context that is suspended: a running one is halted, to be saved to FRAME; a swapped one's footprint goes there now and
its entry leaves the table. -/
def State.suspendTask (s : State) (tid : Nat) : State :=
  let k := s.task tid
  match k.place with
  | .running c _ => s.halt c
  | .saved c sh fr =>
    if k.fresh || !k.alive then s
    else
      let s := if fr && !k.stored then s else s.stateToFrame tid
      if (s.core c).bound sh == some tid then s.setCore c ((s.core c).setEntry sh none none) else s
  | .none => s

/-- The tasks of a context. -/
def State.ctxTasks (s : State) (ctx : Nat) : List Nat := (s.tasks.filter fun (t : Nat × Task) => t.2.ctx == ctx).map Prod.fst

/-- R374: a suspend request. -/
def execContextSuspend (ctx : Nat) (s : State) : Host.Outcome State Fault Refusal :=
  event s fun s =>
    let c := s.ctx ctx
    if c.st != .active then s
    else (s.ctxTasks ctx).foldl State.suspendTask (s.setCtx ctx { c with st := .suspended })

/-- R374: a resume request. -/
def execContextResume (ctx : Nat) (s : State) : Host.Outcome State Fault Refusal :=
  event s fun s =>
    let c := s.ctx ctx
    if c.st == .suspended then s.setCtx ctx { c with st := .active } else s

/-- End a context: TEARDOWN; every kernel of it that has not ended is FAULTED and its tasks are killed, those that are dumped once they
are ready for it (R374, R380). -/
def State.endContext (s : State) (ctx : Nat) : State :=
  let s := s.setCtx ctx { s.ctx ctx with st := .teardown }
  (s.kernels.filter fun k => k.ctx == ctx && !k.ended).foldl (fun (s : State) (k : Kernel) =>
    match s.kernel? k.kid with
    | some k => s.killStep k (s.doomed k)
    | none => s) s

/-- R374: a destroy request. -/
def execContextDestroy (ctx : Nat) (s : State) : Host.Outcome State Fault Refusal :=
  event s fun s => if (s.ctx ctx).st == .active || (s.ctx ctx).st == .suspended then s.endContext ctx else s

/-- Whether a context in TEARDOWN has nothing left: its kernels ended and torn down, its records all written (R379), its revoked
frames free (R374). -/
def State.ctxDone (s : State) (ctx : Nat) : Bool :=
  (s.kernels.all fun k => k.ctx != ctx || (k.ended && k.signalled)) && (s.ctxTasks ctx).isEmpty && (s.ctx ctx).backlog.isEmpty
    && !s.reuse.any fun r => r.ctx == ctx

/-- R374: teardown completes: the CTXID is released, the phase banks that the context loaded are not loaded (R290). -/
def execContextFree (ctx : Nat) (s : State) : Host.Outcome State Fault Refusal :=
  event s fun s =>
    let c := s.ctx ctx
    if c.st != .teardown || !s.ctxDone ctx then s
    else
      let s := s.setCtx ctx { Context.reset with used := true, lastWalk := c.lastWalk, freedAt := s.now }
      { s with
        kernels := s.kernels.filter fun k => k.ctx != ctx
        clusters := s.clusters.map fun (x : Nat × Cluster) =>
          if x.2.bankCtx == ctx + 1 then (x.1, { x.2 with loaded := 0, bankPois := 0, bankCtx := 0 }) else x }

/-! ## Faults (R376 to R380) -/

/-- The task of a core whose thread in a slot holds a fault: the running one first. -/
def State.faulted (s : State) (core slot : Nat) (f : Thread → Bool) : Option Nat :=
  (s.tasksOn core).find? fun t => let th := s.thread t slot; th.frec.isSome && f th

/-- R376: the core hands a thread's fault to its die's MGC. -/
def execFaultHandover (core slot : Nat) (s : State) : Host.Outcome State Fault Refusal :=
  event s fun s =>
    match s.faulted core slot fun t => !t.handed with
    | some tid => s.setThread tid slot { s.thread tid slot with handed := true }
    | none => s

/-- How a fault is resolved (R380). -/
inductive Resolution where
  | resume
  | reflect
  | kill
deriving DecidableEq, Repr

/-- What firmware does with a fault: what a debugger that holds the core chooses, else the first row of the table that applies; a fault in
a PC-match handler kills (R496). A choice .none is a debugger's wish for the table's row. -/
def State.resolution (s : State) (tid slot : Nat) (choice : DebugChoice) : Resolution :=
  let k := s.task tid
  let t := k.thread slot
  let code := match t.frec with | some r => r.code | none => 0
  let table := if code == 0x51 || code == 0x53 || t.hnd || t.shadow.isSome || k.trapent == 0 then Resolution.kill else .reflect
  if (s.core k.core).dbgHeld then
    match choice with
    | .none => table
    | .resume => .resume
    | .reflect => .reflect
    | .kill => .kill
  else table

/-- Resolve a thread's fault (R379 to R381): the record goes to the ring with its ACTION, and the thread resumes at its held pc, or runs its
handler, or its task is marked for killing. -/
def State.resolve (s : State) (tid slot : Nat) (choice : DebugChoice) : State :=
  let t := s.thread tid slot
  match t.frec with
  | none => s
  | some r =>
    let ctx := (s.task tid).ctx
    let seq := (s.ctx ctx).nextSeq
    match s.resolution tid slot choice with
    | .resume =>
      ((s.ringPut ctx { r with action := 1 }).setThread tid slot { t with st := .ready, frec := none, handed := false }).redoSfu tid slot
    | .reflect => (s.ringPut ctx { r with action := 2 }).reflect tid slot seq
    | .kill =>
      let s := (s.ringPut ctx { r with action := 3 }).setThread tid slot { t with frec := none }
      s.setTask tid { s.task tid with killing := true }

/-- R380: the MGC resolves a fault that it was handed, as a debugger asks when one holds the core. For a stopped core the resolution waits, the
first one of a fault (R492); that of a swapped task takes effect once it is back (R126, R376). -/
def execFaultResolution (core slot : Nat) (choice : DebugChoice) (s : State) : Host.Outcome State Fault Refusal :=
  event s fun s =>
    match s.running core with
    | none => s
    | some tid =>
      let t := s.thread tid slot
      let c := s.core core
      if t.frec.isNone || !t.handed || (c.dbgHeld && choice == .none) then s
      else if c.dbgStop then
        if c.msgs.any fun m => (match m with | .resolve i _ => i == slot | _ => false) then s else s.queueMsg core (.resolve slot choice)
      else s.resolve tid slot choice

/-- Write kept records while the ring has space (R379). -/
def State.flushRing (s : State) (ctx : Nat) (rs : List FaultRec) : State :=
  match rs with
  | [] => s
  | r :: rs =>
    match s.ringOne ctx r with
    | some s => (s.setCtx ctx { s.ctx ctx with backlog := rs }).flushRing ctx rs
    | none => s

/-- R379: ring space appears. -/
def execFaultRingSpace (ctx : Nat) (s : State) : Host.Outcome State Fault Refusal :=
  event s fun s => s.flushRing ctx (s.ctx ctx).backlog

/-! ## Misses that firmware gives up (R383, R245, R527) -/

/-- Whether a page is one that firmware cannot make present: it is not there now. -/
def State.gone (s : State) (ctx : Nat) (va : Word) : Bool := !s.pageHere ctx va

/-- Stores of a thread's buffer whose page is gone are not performed: 0x10 with KIND 2 pends for each (R527). -/
def State.dropStores (s : State) (tid slot : Nat) : State :=
  let ctx := (s.task tid).ctx
  let lost (s : State) (p : StorePart) : Bool :=
    p.sent.isNone && p.tr.expiry ≤ s.now + p.tr.skew && s.gone ctx (BitVec.ofNat 64 p.va)
  (s.thread tid slot).wbuf.foldl (fun (s : State) (e : BufStore) =>
    let out := e.parts.filter (lost s)
    let s := out.foldl (fun (s : State) (p : StorePart) => s.pendFault tid (storeFault slot 0x10 2 p.first)) s
    if out.isEmpty then s else s.setEntry tid slot e.age (e.parts.filter fun p => !lost s p)) s

/-- A copy that stalls at a page that is gone fails there with 0x10 (R245). -/
def State.giveUpCopy (s : State) (o : CopyOp) : State :=
  match s.unit o (s.unitSize o) with
  | (_, _, .stall (.page va)) => if s.gone (s.task o.tid).ctx va then s.endCopy o (some (0x10, va.toNat)) else s
  | _ => s

/-- The image page that the oldest staged phase operation misses. -/
def State.missedImage (s : State) (o : OmuOp) : Option Word :=
  let miss (va : Word) (k : Acc) : Option Word := match s.imagePieces o.tid va.toNat k false with
    | (_, .wait (.page a)) => some a
    | _ => none
  match o.kind with
  | .phld _ va => miss va .load
  | .phrd _ va => miss va .store
  | _ => none

/-- A staged phase operation fails with 0x10 at a page that is gone; the bank that it was to load is left not loaded. -/
def State.giveUpPhase (s : State) (cl : Nat) : State :=
  match s.phaseNext cl with
  | none => s
  | some o =>
    match s.missedImage o with
    | none => s
    | some va =>
      if !s.gone (s.task o.tid).ctx va then s
      else
        let s := match o.kind with | .phld b _ => s.unload cl b | _ => s
        s.endPhase cl o (some (0x10, va.toNat))

/-- A decomposition fails with 0x10 at a page that is gone. -/
def State.giveUpDcmp (s : State) (d : Nat) (o : DcmpOp) : State :=
  match s.decompose o with
  | (_, .wait (.page va)) => if s.gone (s.task o.tid).ctx va then s.endDcmp d o (some (0x10, va.toNat)) else s
  | _ => s

/-- An exchange entry whose source page is gone faults with 0x10 (R336). -/
def State.giveUpExchange (s : State) (tid : Nat) : State :=
  let k := s.task tid
  match (k.thread 0).arrival, k.xlist.find? (fun e => e.step.isSome) with
  | some a, some e =>
    match s.xWord tid e e.moved with
    | (_, .wait (.page va)) =>
      if s.gone k.ctx va && (k.thread 0).senderReady a then s.xFault tid a 0x10 va.toNat e.moved else s
    | _ => s
  | _, _ => s

/-- A thread whose fetch missed a page that is gone gets 0x10 with KIND 2: the record names the instruction at va, and PKT says that pc went back
to the xopen of its packet (R335, R377). -/
def State.fetchGone (s : State) (tid slot : Nat) (va : Word) : State :=
  let pkt := if (s.thread tid slot).pc == va then 0 else 1
  let s := s.faultHeld tid slot 0x10 2 va.toNat 0 0
  let t := s.thread tid slot
  s.setThread tid slot { t with frec := t.frec.map fun r => { r with pc := va.toNat, flags := r.flags ||| pkt } }

/-- A thread of a task on a core or swapped from it waits on a page that is gone: it gets 0x10 with KIND 2; else its buffered stores do. -/
def State.giveUpThread (s : State) (tid slot : Nat) : State :=
  let t := s.thread tid slot
  match t.st with
  | .waiting (.page va) =>
    if !s.gone (s.task tid).ctx va then s
    else if t.held.isNone then s.fetchGone tid slot va
    else s.faultHeld tid slot 0x10 2 va.toNat 0 0
  | _ => s.dropStores tid slot

/-- R383: firmware cannot make a page present. Slots 0 to 15 name a thread, which gets 0x10 with KIND 2, or whose buffered stores do; 16 to
527 an entry of the core's copy queue; 528 the cluster's oldest staged operation; 529 the core's exchange list; 530 on the
decompositions of the die's queue. -/
def execMissEscalate (core slot : Nat) (s : State) : Host.Outcome State Fault Refusal :=
  event s fun s =>
    if slot < 16 then (s.tasksOn core).foldl (fun (s : State) tid => s.giveUpThread tid slot) s
    else if slot < 528 then
      match (s.queueOf core)[slot - 16]? with
      | some o => s.giveUpCopy o
      | none => s
    else if slot == 528 then s.giveUpPhase (clusterOf core)
    else if slot == 529 then (s.senders core).foldl State.giveUpExchange s
    else
      let d := dieOf (clusterOf core)
      match (s.die d).dcmp[slot - 530]? with
      | some o => s.giveUpDcmp d o
      | none => s

end Sys2Proof.Machine
end

