-- ==== Sys2Proof/Machine/Debug.lean ====
section
/-! DEFINITION. A debugger's requests (R491, R492), the end of a spent PC-match handler (R496) and the forming of issue groups (R130). -/

namespace Sys2Proof.Machine

/-- R130: the front end of a core forms its next issue group; nothing while one is being issued. -/
def execIssueGroupForm (core : Nat) (s : State) : Host.Outcome State Fault Refusal :=
  event s fun s => if s.issuing.isEmpty then s.formGroup core else s

/-- Whether a debug request is taken: for a confidential context only an authenticated one (R488). -/
def State.debugAllowed (s : State) (core : Nat) (auth : Bool) : Bool :=
  match s.running core with
  | some tid => auth || !bitAt (s.ctx (s.task tid).ctx).desc.flags 0
  | none => true

/-- R491: a debugger stops a core, and holds it from then on. -/
def execDebugStopRequest (core : Nat) (auth : Bool) (s : State) : Host.Outcome State Fault Refusal :=
  event s fun s =>
    if s.debugAllowed core auth then (s.setCore core { s.core core with dbgHeld := true }).stopCore core else s

/-- A thread that a debug stop held takes its prior state; if that goes on, its cancelled special functions are done again. -/
def State.releaseThread (s : State) (tid slot : Nat) : State :=
  let t := s.thread tid slot
  if t.st = .debug then
    let s := if t.prior = .stopped then s else s.redoSfu tid slot
    (s.setThread tid slot { t with st := t.prior, prior := .empty }).traceRec tid slot 7 0 0
  else s

/-- A message that waited for a core is applied (R492). -/
def State.takeMsg (s : State) (core : Nat) (m : CoreMsg) : State :=
  match m with
  | .halt => s.halt core
  | .resolve slot choice =>
    match s.running core with
    | some tid => s.resolve tid slot choice
    | none => s
  | .entry shadow write => s.takeEntry core shadow write

/-- R492: a debugger resumes a stopped core: its threads go on, and the messages that queued are applied in order. -/
def execDebugResumeRequest (core : Nat) (auth : Bool) (s : State) : Host.Outcome State Fault Refusal :=
  event s fun s =>
    let c := s.core core
    if !c.dbgStop || !s.debugAllowed core auth then s
    else
      let s := s.setCore core { c with dbgStop := false, msgs := [] }
      let s := match s.running core with
        | some tid => slots.foldl (fun (s : State) i => s.releaseThread tid i) s
        | none => s
      c.msgs.foldl (fun (s : State) m => s.takeMsg core m) s

/-- R496: a handler that has issued 1,024 instructions is ended as if it had executed pmret, and PMCTL.OVR is set. -/
def execHandlerInstructionLimit (core : Nat) (s : State) : Host.Outcome State Fault Refusal :=
  event s fun s =>
    match s.running core with
    | none => s
    | some tid =>
      match slots.find? fun i => let t := s.thread tid i; t.spent && decide (t.st = .ready) with
      | none => s
      | some i =>
        let k := s.task tid
        let s := s.setTask tid { k with pmctl := k.pmctl ||| 8 }
        (if (s.thread tid i).pmepc.toNat % 4 != 0 then
          ({ s with curW := (0, 0, 0) } : State).takeFault tid i 0x04 0 0 0 0
        else s.leaveHandler tid i).holdIfStopping tid i

end Sys2Proof.Machine
end

