-- ==== Sys2Proof/Machine/Firm.lean ====
section
/-! DEFINITION. Firmware images (R476 to R489): staging, verification, hand-over, probation, fall-back, measurement, quotes; controller kinds
are 1 PSC, 2 MGC, 3 switch controller, 4 stack controllers. -/

namespace Sys2Proof.Machine

/-- To the mailbox's user: the number of a failed check (R477). -/
def msgImageBad : Nat := 14
/-- A quote (R488): signature, measurement registers, MEPOCH, the version and security version in service of each controller, nonce. -/
def msgQuote : Nat := 15

/-! ## Images (R476) -/

/-- A field of an image's header. -/
def imgField (i : FwImage) (o n : Nat) : Nat := leNat ((i.bytes.drop o).take n)
/-- KIND. -/
def imgKind (i : FwImage) : Nat := imgField i 4 1
/-- VERSION. -/
def imgVersion (i : FwImage) : Nat := imgField i 8 4
/-- SVN. -/
def imgSvn (i : FwImage) : Nat := imgField i 12 4
/-- SRPROD. -/
def imgSrprod (i : FwImage) : Nat := imgField i 16 2
/-- ENTRY. -/
def imgEntry (i : FwImage) : Nat := imgField i 28 4
/-- DIGEST. -/
def imgDigest (i : FwImage) : List Byte := (i.bytes.drop 32).take 32
/-- KEYIDX. -/
def imgKey (i : FwImage) : Nat := imgField i 64 1
/-- The bytes that SIG covers. -/
def imgSigned (i : FwImage) : List Byte := i.bytes.take 128
/-- SIG. -/
def imgSig (i : FwImage) : List Byte := (i.bytes.drop 128).take 16224
/-- The body. -/
def imgBody (i : FwImage) : List Byte := i.bytes.drop 16384

/-- The reserved fields of the header: offset and size. -/
def imgReserved : List (Nat × Nat) := [(5, 3), (22, 2), (65, 63), (16352, 32)]

/-- Check 1 of R477: MAGIC, KIND, the reserved fields and BODYLEN. -/
def imgShaped (i : FwImage) : Bool :=
  let len := imgField i 24 4
  imgField i 0 4 == 0x57464C47 && 1 ≤ imgKind i && imgKind i ≤ 4 && (imgReserved.all fun r => imgField i r.1 r.2 == 0)
    && len % 64 == 0 && len ≤ 8388608 && i.bytes.length == 16384 + len

/-- Check 2 of R477: the key is not revoked, and its 48 bytes hash to the fused value. -/
def imgKeyed (i : FwImage) : Bool :=
  imgKey i < 4 && !Config.keyRevoked (imgKey i) && i.pubKey.length == 48 && sha256 i.pubKey == Config.keyHash (imgKey i)

/-- The first check of R477 that an image fails. -/
def imageFault (i : FwImage) (f : FwKind) : Option Nat :=
  if !imgShaped i then some 1
  else if !imgKeyed i then some 2
  else if !Config.slhDsaVerify i.pubKey (imgSigned i) (imgSig i) then some 3
  else if imgDigest i != sha256 (imgBody i) then some 4
  else if imgSvn i < f.minSvn then some 5
  else if imgKind i != 1 && !(imgField i 18 2 ≤ f.srprod && f.srprod ≤ imgField i 20 2) then some 6
  else none

/-- Whether an image, or none for the one that the part was made with, passes checks 1 to 5 for a kind at its start (R32, R477; log entry
107). -/
def FwKind.romOk (f : FwKind) (img : Option FwImage) : Bool :=
  match img with
  | some i => (match imageFault i f with | none => true | some n => n == 6)
  | none => true

/-- The image that a kind runs from the next start: a verified PSC image is the next one (R480). -/
def FwKind.boots (f : FwKind) (kind : Nat) : Option FwImage := if kind == 1 && f.st == .verified then f.newest else f.image

/-- Whether the image that a kind runs from the next start passes its checks. -/
def State.startImageOk (s : State) (kind : Nat) : Bool := (s.fwk kind).romOk ((s.fwk kind).boots kind)

/-! ## Measurement (R486, R487) -/

/-- The PSC extends a kind's measurement register by a DIGEST and a VERSION; the MGC of die 0 tells every ACTIVE and SUSPENDED context. -/
def State.measureAs (s : State) (kind ev : Nat) (digest : List Byte) (version : Nat) : State :=
  let f := s.fwk kind
  let mr := sha256 (f.mr ++ digest ++ leBytes 4 version)
  let s := { s.setFw kind { f with mr := mr } with mepoch := s.mepoch + 1 }
  let info1 := kind * 2 ^ 56 + ev * 2 ^ 48 + s.mepoch % 2 ^ 48
  (List.range 64).foldl (fun (s : State) c =>
    if (s.ctx c).st == .active || (s.ctx c).st == .suspended then s.ringPut c (s.noteRec 0 5 0 info1 (leNat (mr.take 8))) else s) s

/-- The image in service of a kind is measured. -/
def State.measure (s : State) (kind ev : Nat) : State := s.measureAs kind ev (s.fwk kind).digest (s.fwk kind).version

/-! ## Controllers (R479, R481, R489) -/

/-- The instances of a kind in hand-over order (R482, R489). -/
def instances (kind : Nat) : List Nat :=
  match kind with
  | 1 => [0]
  | 2 => [1, 2]
  | 3 => [3]
  | 4 => [4, 5, 6, 7, 8, 9, 10, 11]
  | _ => []

/-- The kind of firmware that an instance runs (R489). -/
def kindOf (inst : Nat) : Nat := if inst == 0 then 1 else if inst ≤ 2 then 2 else if inst == 3 then 3 else 4

/-- A controller of a kind. -/
def FwKind.inst (f : FwKind) (i : Nat) : FwInst := AMap.get f.insts i FwInst.reset
/-- Replace a controller. -/
def FwKind.setInst (f : FwKind) (i : Nat) (x : FwInst) : FwKind := { f with insts := AMap.put f.insts i x }
/-- Change some controllers. -/
def FwKind.mapInsts (f : FwKind) (is : List Nat) (g : FwInst → FwInst) : FwKind := is.foldl (fun (f : FwKind) i => f.setInst i (g (f.inst i))) f

/-- The slot that is not in service. -/
def FwInst.idle (x : FwInst) : FwSlot := if x.second then x.a else x.b
/-- Set the slot in service. -/
def FwInst.setService (x : FwInst) (sl : FwSlot) : FwInst := if x.second then { x with b := sl } else { x with a := sl }
/-- Set the other slot. -/
def FwInst.setIdle (x : FwInst) (sl : FwSlot) : FwInst := if x.second then { x with a := sl } else { x with b := sl }
/-- An image in a slot, running from its ENTRY; the image that the part was made with from 0. -/
def FwSlot.started (img : Option FwImage) : FwSlot := ⟨img, some ((img.map imgEntry).getD 0)⟩
/-- A slot without an image that runs. -/
def FwSlot.stopped : FwSlot := ⟨none, none⟩

/-- The image in service of a controller is started from its ENTRY (R32, R476). -/
def FwInst.boot (x : FwInst) (img : Option FwImage) : FwInst := (x.setService (FwSlot.started img)).setIdle FwSlot.stopped

/-- A kind's controllers are released at the start (R32). -/
def State.bootKind (s : State) (kind : Nat) : State :=
  let f := s.fwk kind
  s.setFw kind (f.mapInsts (instances kind) fun x => x.boot f.image)

/-- A change of bookkeeping: the next entry of the delta log. -/
def FwInst.append (x : FwInst) (srver : Nat) (data : List Byte) : FwInst :=
  { x with dseq := x.dseq + 1, log := x.log ++ [⟨x.dseq + 1, srver, data⟩] }

/-- The state-record version of a kind's delta logs: throughout PROBATION that of the image before (R482). -/
def FwKind.logver (f : FwKind) : Nat := if f.st == .probation then f.psrprod else f.srprod

/-- Whether a controller still runs the image before, in a hand-over (R479). -/
def FwKind.oldAt (f : FwKind) (inst : Nat) : Bool := f.st == .probation && !f.switched.contains inst

/-- VERSION and SVN in service on a controller. -/
def State.inService (s : State) (inst : Nat) : Nat × Nat :=
  let f := s.fwk (kindOf inst)
  if f.oldAt inst then (f.pversion, f.psvn) else (f.version, f.svn)

/-- A state record (R481): the header with its CRC over the whole record, and sections of bookkeeping, which are firmware's (log entry
110). -/
def stateRecord (kind srver version now dseq : Nat) (sections : List Byte) : List Byte :=
  let head (crc : Nat) : List Byte :=
    leBytes 2 srver ++ leBytes 2 kind ++ leBytes 4 version ++ leBytes 8 (64 + sections.length) ++ leBytes 8 now
      ++ leBytes 8 dseq ++ leBytes 4 crc ++ List.replicate 28 0
  head (crc32c (head 0 ++ sections)) ++ sections

/-- The image in service of a controller writes its snapshot in its own SRPROD, with sections of its own; a new delta log follows it. -/
def State.writeSnapshot (s : State) (inst : Nat) : State :=
  let kind := kindOf inst
  let f := s.fwk kind
  let x := f.inst inst
  let srver := if f.oldAt inst then f.psrprod else f.srprod
  let sections := (List.range (Config.freeNat s.free % 4096)).map fun i => (Config.freeWord (s.free + 1 + i)).setWidth 8
  ({ s with free := s.free + 4097 } : State).setFw kind (f.setInst inst { x with
    snapshot := x.dseq, log := [], record := stateRecord kind srver (s.inService inst).1 s.now x.dseq sections })

/-- The image in service of a controller changes its bookkeeping (R481). -/
def State.bookkeep (s : State) (inst : Nat) (data : List Byte) : State :=
  if 12 ≤ inst then s
  else
    let f := s.fwk (kindOf inst)
    s.setFw (kindOf inst) (f.setInst inst ((f.inst inst).append f.logver data))

/-! ## Staging and verification (R476 to R479) -/

/-- Whether some image in the package is. -/
def State.fwMoving (s : State) : Bool := [1, 2, 3, 4].any fun k => (s.fwk k).moving

/-- A new image of a kind enters a state. -/
def FwKind.enter (f : FwKind) (st : ImgState) (now : Nat) : FwKind := { f with st := st, stAt := now }

/-- R479: an image is staged unless one is in HANDOVER or PROBATION, or a new PSC image is being booted; one that names no kind fails check 1 of
R477 at once. -/
def execImageStage (img : FwImage) (s : State) : Host.Outcome State Fault Refusal :=
  event s fun s =>
    let k := imgKind img
    if s.fwMoving || (s.fwk 1).trial then s
    else if k == 0 || 4 < k then s.send 0 msgImageBad [k, 1]
    else s.setFw k (({ s.fwk k with newest := some img, asked := false } : FwKind).enter .staged s.now)

/-- A discarded image leaves the one in service. -/
def FwKind.discard (f : FwKind) (now : Nat) : FwKind :=
  ({ f with newest := none, asked := false } : FwKind).enter (if f.committed then .committed else .none) now

/-- R477, R479: the PSC verifies a staged image, or discards it and reports the failed check. -/
def execImageVerify (kind : Nat) (s : State) : Host.Outcome State Fault Refusal :=
  event s fun s =>
    let f := s.fwk kind
    match f.st, f.newest with
    | .staged, some img =>
      match imageFault img f with
      | some n => (s.setFw kind (f.discard s.now)).send 0 msgImageBad [kind, n]
      | none => s.setFw kind (f.enter .verified s.now)
    | _, _ => s

/-! ## Hand-over (R479, R482, R485) -/

/-- The instance whose turn it is. -/
def FwKind.next (f : FwKind) (kind : Nat) : Option Nat := (instances kind).find? fun i => !f.switched.contains i

/-- Whether that instance's hand-over has begun: MGC die 1 waits for ten heartbeats of die 0. -/
def FwKind.begun (f : FwKind) (kind inst : Nat) : Bool := !(kind == 2 && inst == 2) || 10 ≤ f.count

/-- Whether R485 holds a hand-over back. -/
def State.handoverBlocked (s : State) (kind : Nat) : Bool :=
  (kind == 3 && s.change.isSome)
    || (List.range 64).any fun c => (s.ctx c).st == .building && bitAt (s.ctx c).desc.flags 0

/-- Step 1 of R482: the old image of the instance whose hand-over begins writes its snapshot and keeps running. -/
def State.beginInst (s : State) (kind : Nat) : State :=
  match (s.fwk kind).next kind with
  | some i => if (s.fwk kind).begun kind i then s.writeSnapshot i else s
  | none => s

/-- R479: a verified image of kinds 2 to 4 is loaded into the inactive slot of each instance and started; the old image of the first instance
writes its snapshot. A request that R485 blocks waits, and proceeds once nothing blocks it. -/
def execHandoverRequest (kind : Nat) (s : State) : Host.Outcome State Fault Refusal :=
  event s fun s =>
    let f := s.fwk kind
    if !(f.st == .verified && 2 ≤ kind && kind ≤ 4 && !s.fwMoving) then s
    else if s.handoverBlocked kind then s.setFw kind { f with asked := true }
    else
      let f := ({ f with caught := [], switched := [], beats := [], count := 0, startAt := s.now, trapped := false, asked := false }
        : FwKind).enter .handover s.now
      (s.setFw kind (f.mapInsts (instances kind) fun x => x.setIdle (FwSlot.started f.newest))).beginInst kind

/-- R482: within 100 ms the new image of an instance has read the snapshot and replayed the delta log, and reports that it has caught up. -/
def execImageCatchUp (kind inst : Nat) (s : State) : Host.Outcome State Fault Refusal :=
  event s fun s =>
    let f := s.fwk kind
    if f.moving && !f.trapped && decide (f.next kind = some inst) && f.begun kind inst && s.now < f.startAt + 100000000 then
      s.setFw kind (({ f with caught := natInsert f.caught inst } : FwKind).setInst inst { f.inst inst with replayed := (f.inst inst).dseq })
    else s

/-- Step 3 of R482 on a controller: the old image appends its last delta entry and stops, the new one, in the other slot, replays what is left
and goes on. The events that the hardware queued wait for it where they are (R483). -/
def FwInst.switchOver (x : FwInst) (srver : Nat) (last : List Byte) (img : FwImage) : FwInst :=
  let old : FwSlot := if x.second then x.b else x.a
  let x := (x.append srver last).setService { old with runs := none }
  let x := { x with second := !x.second, replayed := x.dseq }
  x.setService (FwSlot.started (some img))

/-- R482: an instance switches over; with the first one the image is in PROBATION and in service. -/
def execSwitchOver (kind inst : Nat) (s : State) : Host.Outcome State Fault Refusal :=
  event s fun s =>
    let f := s.fwk kind
    match f.newest with
    | none => s
    | some img =>
      if !(f.moving && !f.trapped && decide (f.next kind = some inst) && f.caught.contains inst) then s
      else
        let last := leBytes 8 (Config.freeWord s.free).toNat
        let s := { s with free := s.free + 1 }
        let f := f.setInst inst ((f.inst inst).switchOver f.logver last img)
        let f := { f with image := some img, pimage := if f.st == .probation then f.pimage else f.image, switched := f.switched ++ [inst], switchAt := s.now, startAt := s.now
                          beats := AMap.put f.beats inst s.now }
        if f.st == .probation then (s.setFw kind f).beginInst kind
        else
          let f := { f with
            pversion := f.version, psvn := f.svn, psrprod := f.srprod, pdigest := f.digest, version := imgVersion img, svn := imgSvn img
            srprod := imgSrprod img, digest := imgDigest img }
          ((s.setFw kind (f.enter .probation s.now)).beginInst kind).measure kind 1

/-- A new image that never ran events is stopped on every controller (R479). -/
def State.rollBack (s : State) (kind : Nat) : State :=
  let f := (s.fwk kind).mapInsts (instances kind) fun x => x.setIdle FwSlot.stopped
  s.setFw kind (({ f with newest := none, caught := [], switched := [], beats := [] } : FwKind).enter .rolledBack s.now)

/-- R484 on a controller: the new image is stopped; the old one resumes in its own slot from its last snapshot and replays the delta log. -/
def FwInst.fallBack (x : FwInst) (old : Option FwImage) : FwInst :=
  let x := { x with second := !x.second, replayed := x.dseq }
  x.boot old

/-- The instances that have switched over fall back to the old image, which is measured again (R484, R486); what the new image decided
stays. -/
def State.fallBack (s : State) (kind : Nat) : State :=
  let f := s.fwk kind
  let f := f.mapInsts f.switched fun x => x.fallBack f.pimage
  let f := { f with
    image := f.pimage, pimage := none, version := f.pversion, svn := f.psvn, srprod := f.psrprod, digest := f.pdigest, pversion := 0, psvn := 0, psrprod := 0, pdigest := [] }
  ((s.setFw kind f).rollBack kind).measure kind 2

/-- End a hand-over that failed. -/
def State.fwFail (s : State) (kind : Nat) : State := if (s.fwk kind).st == .probation then s.fallBack kind else s.rollBack kind

/-- R479: an instance's new image has not caught up within 100 ms. -/
def execCatchUpTimeout (kind inst : Nat) (s : State) : Host.Outcome State Fault Refusal :=
  event s fun s =>
    let f := s.fwk kind
    if f.moving && decide (f.next kind = some inst) && f.begun kind inst && !f.caught.contains inst && f.startAt + 100000000 ≤ s.now then
      s.fwFail kind
    else s

/-! ## Probation (R479, R484) -/

/-- Whether an instance's heartbeat is in time. -/
def FwKind.alive (f : FwKind) (now inst : Nat) : Bool := now < AMap.get f.beats inst 0 + 4000000

/-- R484: a heartbeat, in time, of an instance that has switched over; one that is late does not undo that the heartbeat was missed. The tenth
of MGC die 0 lets die 1 begin. -/
def execHeartbeat (kind inst : Nat) (s : State) : Host.Outcome State Fault Refusal :=
  event s fun s =>
    let f := s.fwk kind
    if f.st == .probation && f.switched.contains inst && f.alive s.now inst then
      let n := if decide ((instances kind).head? = some inst) then f.count + 1 else f.count
      let starts := kind == 2 && n == 10 && f.count == 9
      let s := s.setFw kind { f with beats := AMap.put f.beats inst s.now, count := n, startAt := if starts then s.now else f.startAt }
      if starts then s.beginInst kind else s
    else s

/-- R484: 4 ms have passed without a heartbeat: the instances fall back. -/
def execHeartbeatMissed (kind inst : Nat) (s : State) : Host.Outcome State Fault Refusal :=
  event s fun s =>
    let f := s.fwk kind
    if f.st == .probation && f.switched.contains inst && !f.alive s.now inst then s.fallBack kind else s

/-- R479: every instance has switched over and 1 s has passed with every heartbeat in time: the old image is discarded, and the new one writes a
snapshot in its SRPROD. -/
def execProbationCommit (kind : Nat) (s : State) : Host.Outcome State Fault Refusal :=
  event s fun s =>
    let f := s.fwk kind
    if f.st == .probation && f.switched.length == (instances kind).length && f.switchAt + 1000000000 ≤ s.now
        && f.switched.all (f.alive s.now) then
      let f := f.mapInsts (instances kind) fun x => x.setIdle FwSlot.stopped
      (instances kind).foldl State.writeSnapshot
        (s.setFw kind (({ f with committed := true, pimage := none, pversion := 0, psvn := 0, psrprod := 0, pdigest := [] } : FwKind).enter
          .committed s.now))
    else s

/-- R479: a new image traps or reports a fatal error: in HANDOVER it is rolled back, in PROBATION, where the instance has switched over,
the instances fall back; before its switch-over it can no longer catch up. -/
def execNewImageTrap (kind inst : Nat) (s : State) : Host.Outcome State Fault Refusal :=
  event s fun s =>
    let f := s.fwk kind
    match f.st with
    | .handover => s.rollBack kind
    | .probation =>
      if f.switched.contains inst then s.fallBack kind
      else s.setFw kind { f with trapped := true, caught := f.caught.filter (· != inst) }
    | _ => s

/-! ## The PSC's own image (R480) and its mailbox (R478, R488) -/

/-- A VERIFIED PSC image takes effect at a start that reports step 1. -/
def FwKind.takeEffect (f : FwKind) (now : Nat) : FwKind :=
  match f.st, f.newest with
  | .verified, some img =>
    ({ f with
      image := some img, version := imgVersion img, svn := imgSvn img, srprod := imgSrprod img, digest := imgDigest img, committed := true }
      : FwKind).enter .committed now
  | _, _ => f

/-- The PSC's image that boots is measured when the ROM's checks let it run (R486, R490). -/
def State.measureBoot (s : State) : State :=
  let f := s.fwk 1
  if !s.startImageOk 1 then s
  else match f.boots 1 with
    | some i => s.measureAs 1 3 (imgDigest i) (imgVersion i)
    | none => s.measure 1 3

/-- R480: a new PSC image has not reported step 1 within 1 s: the ROM verifies the previous one (R477) and boots it, and it reports step 1. -/
def execPscImageBootTimeout (s : State) : Host.Outcome State Fault Refusal :=
  event s fun s =>
    let f := s.fwk 1
    if f.trial && f.startAt + 1000000000 ≤ s.now then
      let s := s.setFw 1 (({ f with newest := none, trial := false } : FwKind).enter .rolledBack s.now)
      if s.startImageOk 1 then (s.bootKind 1).measureBoot else { s with devstat := s.devstat ||| 2 }
    else s

/-- R478: the fused minimum of a kind rises on request when the image in service is COMMITTED with an SVN at least as high. -/
def execSvnMinimumRaise (kind min : Nat) (s : State) : Host.Outcome State Fault Refusal :=
  event s fun s =>
    let f := s.fwk kind
    if f.committed && f.st != .probation && min ≤ f.svn && f.minSvn < min then s.setFw kind { f with minSvn := min } else s

/-- What a quote says (R488): the measurement registers, MEPOCH, every VERSION and SVN in service, the nonce. -/
def State.quote (s : State) (nonce : List Byte) : List Nat :=
  ([1, 2, 3, 4].flatMap fun k => (s.fwk k).mr.map BitVec.toNat) ++ [s.mepoch]
    ++ ((List.range 12).flatMap fun i => [(s.inService i).1, (s.inService i).2]) ++ nonce.map BitVec.toNat

/-- Whether a request of a tenant comes authenticated under the key that the PSC derives from its context's TKEY: of a confidential context that
is not FREE (R488; log entry 121). -/
def State.tenantOk (s : State) (ctx : Nat) (request : List Nat) (tag : Nat) : Bool :=
  let c := s.ctx ctx
  ctx < 64 && c.st != .free && bitAt c.desc.flags 0 && tag == Config.tenantTag c.desc.tkey (ctx :: request)

/-- R488: the PSC answers an authenticated request with a 32-byte nonce with a signed quote and refuses any other. -/
def execQuoteRequest (ctx : Nat) (nonce : List Byte) (tag : Nat) (s : State) : Host.Outcome State Fault Refusal :=
  event s fun s =>
    if nonce.length == 32 && s.tenantOk ctx (nonce.map BitVec.toNat) tag then
      s.send 0 msgQuote (ctx :: Config.slhDsaSign (s.quote nonce) :: s.quote nonce)
    else s

/-- R371, R488: an authenticated request of a confidential tenant sets IMBAL and TRACE of its context. -/
def execTenantAuthenticatedRequest (ctx : Nat) (imbal trace : Bool) (tag : Nat) (s : State) : Host.Outcome State Fault Refusal :=
  event s fun s =>
    let c := s.ctx ctx
    if s.tenantOk ctx [imbal.toNat, trace.toNat] tag then
      s.setCtx ctx { c with desc := { c.desc with
        flags := c.desc.flags &&& 9 ||| (if imbal then 2 else 0) ||| (if trace then 4 else 0) } }
    else s

end Sys2Proof.Machine
end

