-- ==== Sys2Proof/Machine/Fp.lean ====
section
/-! DEFINITION. Meanings of the scalar floating-point instructions: FPU and FMA (R160 to R167). -/

namespace Sys2Proof.Machine

/-- R161: a + b. -/
def execFadd (ty : BitVec 2) (d a b : Reg) (s : State) : Host.Outcome State Fault Refusal :=
  issue .plain 4 s (fp2 FF.add ty d a b)

/-- R161: a - b. -/
def execFsub (ty : BitVec 2) (d a b : Reg) (s : State) : Host.Outcome State Fault Refusal :=
  issue .plain 4 s (fp2 FF.sub ty d a b)

/-- R161: a × b. -/
def execFmul (ty : BitVec 2) (d a b : Reg) (s : State) : Host.Outcome State Fault Refusal :=
  issue .plain 4 s (fp2 FF.mul ty d a b)

/-- R161: a / b. -/
def execFdiv (ty : BitVec 2) (d a b : Reg) (s : State) : Host.Outcome State Fault Refusal :=
  issue .plain 4 s (fp2 FF.div ty d a b)

/-- R161: the square root. -/
def execFsqrt (ty : BitVec 2) (d a : Reg) (s : State) : Host.Outcome State Fault Refusal :=
  issue .plain 4 s (fp1 FF.sqrt ty d a)

/-- R162: the lesser. -/
def execFmin (ty : BitVec 2) (d a b : Reg) (s : State) : Host.Outcome State Fault Refusal :=
  issue .plain 4 s (fp2 (fun f r x y => f.minmax r.fz false false x y) ty d a b)

/-- R162: the greater. -/
def execFmax (ty : BitVec 2) (d a b : Reg) (s : State) : Host.Outcome State Fault Refusal :=
  issue .plain 4 s (fp2 (fun f r x y => f.minmax r.fz true false x y) ty d a b)

/-- R162: the lesser, a NaN ignored. -/
def execFminn (ty : BitVec 2) (d a b : Reg) (s : State) : Host.Outcome State Fault Refusal :=
  issue .plain 4 s (fp2 (fun f r x y => f.minmax r.fz false true x y) ty d a b)

/-- R162: the greater, a NaN ignored. -/
def execFmaxn (ty : BitVec 2) (d a b : Reg) (s : State) : Host.Outcome State Fault Refusal :=
  issue .plain 4 s (fp2 (fun f r x y => f.minmax r.fz true true x y) ty d a b)

/-- R163: the sign of b. -/
def execFsgnj (ty : BitVec 2) (d a b : Reg) (s : State) : Host.Outcome State Fault Refusal :=
  issue .plain 4 s (fpSign (fun _ y => y) ty d a b)

/-- R163: the opposite of the sign of b. -/
def execFsgnjn (ty : BitVec 2) (d a b : Reg) (s : State) : Host.Outcome State Fault Refusal :=
  issue .plain 4 s (fpSign (fun _ y => !y) ty d a b)

/-- R163: the signs XORed. -/
def execFsgnjx (ty : BitVec 2) (d a b : Reg) (s : State) : Host.Outcome State Fault Refusal :=
  issue .plain 4 s (fpSign (fun x y => x != y) ty d a b)

/-- R164: a = b. -/
def execFeq (ty : BitVec 2) (d a b : Reg) (s : State) : Host.Outcome State Fault Refusal :=
  issue .plain 4 s (fpCmp FF.eq ty d a b)

/-- R164: a < b. -/
def execFlt (ty : BitVec 2) (d a b : Reg) (s : State) : Host.Outcome State Fault Refusal :=
  issue .plain 4 s (fpCmp FF.lt ty d a b)

/-- R164: a ≤ b. -/
def execFle (ty : BitVec 2) (d a b : Reg) (s : State) : Host.Outcome State Fault Refusal :=
  issue .plain 4 s (fpCmp FF.le ty d a b)

/-- R165: the class mask. -/
def execFclass (ty : BitVec 2) (d a : Reg) (s : State) : Host.Outcome State Fault Refusal :=
  issue .plain 4 s (fp1 (fun f _ x => (f.classify x, 0)) ty d a)

/-- R166, R95: conversion between floating-point types. -/
def execFcvt (ty : BitVec 2) (d a : Reg) (src : BitVec 5) (s : State) : Host.Outcome State Fault Refusal :=
  issue .plain 4 s fun s =>
    let g := ffOf (etOfTy src.toNat)
    s.fpResult d [a] (g.convert (ffOf (etOfTy ty.toNat)) (s.thr.rnd 0 false) (s.fpCode g a))

/-- R166, R96: to a signed integer. -/
def execFcvti (ty : BitVec 2) (d a : Reg) (rm : BitVec 3) (w : Bool) (s : State) : Host.Outcome State Fault Refusal :=
  issue .plain 4 s (fpToInt true ty d a rm w)

/-- R166, R96: to an unsigned integer. -/
def execFcvtu (ty : BitVec 2) (d a : Reg) (rm : BitVec 3) (w : Bool) (s : State) : Host.Outcome State Fault Refusal :=
  issue .plain 4 s (fpToInt false ty d a rm w)

/-- R166, R97: from a signed integer. -/
def execIcvtf (ty : BitVec 2) (d a : Reg) (rm : BitVec 3) (w : Bool) (s : State) : Host.Outcome State Fault Refusal :=
  issue .plain 4 s (fpOfInt true ty d a rm w)

/-- R166, R97: from an unsigned integer. -/
def execUcvtf (ty : BitVec 2) (d a : Reg) (rm : BitVec 3) (w : Bool) (s : State) : Host.Outcome State Fault Refusal :=
  issue .plain 4 s (fpOfInt false ty d a rm w)

/-- R167: a × b + c. -/
def execFma (ty : BitVec 2) (rm : BitVec 3) (d a b c : Reg) (s : State) : Host.Outcome State Fault Refusal :=
  issue .plain 8 s (fpFma false false ty rm d a b c)

/-- R167: a × b - c. -/
def execFms (ty : BitVec 2) (rm : BitVec 3) (d a b c : Reg) (s : State) : Host.Outcome State Fault Refusal :=
  issue .plain 8 s (fpFma false true ty rm d a b c)

/-- R167: -(a × b) - c. -/
def execFnma (ty : BitVec 2) (rm : BitVec 3) (d a b c : Reg) (s : State) : Host.Outcome State Fault Refusal :=
  issue .plain 8 s (fpFma true true ty rm d a b c)

/-- R167: -(a × b) + c. -/
def execFnms (ty : BitVec 2) (rm : BitVec 3) (d a b c : Reg) (s : State) : Host.Outcome State Fault Refusal :=
  issue .plain 8 s (fpFma true false ty rm d a b c)

end Sys2Proof.Machine
end

