-- ==== Sys2Proof/Machine/Wire.lean ====
section
/-! DEFINITION. Lanes and flits (R423 to R429): packets and flits as bytes (R425, R427), codewords on the wavelengths (R428), sending with
sequence numbers, acknowledgement and replay, the states of a port (R430), failover (R431, R432), the light of a slot (R433), the
timing advertisement and upstream selection (R434), credits (R435), and the turn rule (R437). -/

namespace Sys2Proof.Machine

/-! ## Packets as bytes (R427) -/

/-- OPF. -/
def packetOpf (p : Packet) : Nat :=
  p.aop % 16 + p.size % 4 * 16 + (if p.notPerf then 64 else 0) + (if p.poison then 128 else 0) + (if p.direct then 256 else 0)

/-- The bytes of a list of bits, 8 to a byte. -/
def maskBytes (bs : List Bool) (n : Nat) : List Byte :=
  (List.range n).map fun i => BitVec.ofNat 8 ((List.range 8).map fun j => if bs.getD (8 * i + j) false then 2 ^ j else 0).sum

/-- Bytes of the poison mask that follows len data bytes: 8 for each 512. -/
def maskLen (len : Nat) : Nat := (len + 511) / 512 * 8

/-- LEN of a packet: the bytes that a read request asks for, the data bytes of any other (log entry 103). -/
def packetLen (p : Packet) : Nat := if p.kind == 0 then p.len else p.data.length

/-- The bytes of a packet: header, data, mask. -/
def packetBytes (p : Packet) : List Byte :=
  leBytes 2 p.dst ++ leBytes 2 p.src ++ leBytes 1 p.kind ++ leBytes 1 p.ctx ++ leBytes 2 (packetLen p) ++ leBytes 4 p.opseq
    ++ leBytes 4 (packetOpf p) ++ leBytes 8 p.addr ++ leBytes 8 p.expiry ++ p.data
    ++ (if p.poison then maskBytes p.mask (maskLen p.data.length) else [])

/-- The packet that bytes hold; rsvd says that a reserved field is not zero, KIND or LEN is reserved, or bytes are missing. -/
def packetOf (bs : List Byte) : Packet :=
  let f (o n : Nat) : Nat := leNat ((bs.drop o).take n)
  let opf := f 0xC 4
  let len := f 6 2
  let carried := if f 4 1 == 0 then 0 else len
  let masked := if bitAt opf 7 then maskLen carried else 0
  let m := (bs.drop (32 + carried)).take masked
  { dst := f 0 2 % 1024, src := f 2 2 % 1024, kind := f 4 1, ctx := f 5 1, opseq := f 8 4, aop := opf % 16, size := opf / 16 % 4,
    notPerf := bitAt opf 6, poison := bitAt opf 7, direct := bitAt opf 8
    rsvd := 1024 ≤ f 0 2 || 1024 ≤ f 2 2 || 8 ≤ f 4 1 || 512 ≤ opf || 2 ^ 52 ≤ f 0x10 8 || 4096 < len
      || bs.length < 32 + carried + masked
    addr := f 0x10 8 % 2 ^ 52, expiry := f 0x18 8, len := len, data := (bs.drop 32).take carried
    mask := (List.range (8 * m.length)).map fun i => bitAt (m.getD (i / 8) 0).toNat (i % 8) }

/-! ## Flits as bytes (R425, R426) -/

/-- The 252 bytes of a flit before its CRC. -/
def flitBody (f : Flit) : List Byte :=
  leBytes 2 (f.ty % 16 * 4096 + f.seq % 4096) ++ leBytes 2 ((if f.ackv then 2 ^ 15 else 0) + f.ackseq % 4096)
    ++ leBytes 1 (f.vch % 8) ++ leBytes 1 (f.crvc % 8) ++ leBytes 2 f.crcnt
    ++ leBytes 4 ((if f.sop then 1 else 0) + (if f.eop then 2 else 0) + f.words % 64 * 4)
    ++ (f.payload ++ List.replicate 240 0).take 240

/-- The 256 bytes of a flit. -/
def flitBytes (f : Flit) : List Byte := flitBody f ++ leBytes 4 (crc32c (flitBody f))

/-- The fields of a flit's bytes. -/
def flitFields (bs : List Byte) : Flit :=
  let f (o n : Nat) : Nat := leNat ((bs.drop o).take n)
  let words := min (f 8 4 / 4 % 64) 60
  { ty := f 0 2 / 4096, seq := f 0 2 % 4096, ackv := bitAt (f 2 2) 15, ackseq := f 2 2 % 4096, vch := f 4 1 % 8, crvc := f 5 1 % 8
    crcnt := f 6 2, sop := bitAt (f 8 4) 0, eop := bitAt (f 8 4) 1, words := words, payload := (bs.drop 12).take (4 * words) }

/-- The flit that a receiver takes from 256 bytes: none when its CRC fails or its TYPE is reserved (R425, R426). -/
def flitOf (bs : List Byte) : Option Flit :=
  let f := flitFields bs
  if bs.length == 256 && leNat (bs.drop 252) == crc32c (bs.take 252) && f.ty < 7 then some f else none

/-! ## Codewords (R428, R431)

Each codeword has 514 data and 30 parity symbols of 10 bits. The field and its generator are those of the RS(544,514) of IEEE 802.3
(log entry 102). -/

/-- The product of two symbols in GF(2^10) with x^10 + x^3 + 1. -/
def symMul (a b : Nat) : Nat :=
  (List.range 10).foldr (fun i r =>
    let d := if 512 ≤ r then Nat.xor (2 * r) 0x409 else 2 * r
    if bitAt b i then Nat.xor d a else d) 0

/-- The coefficients of the generator, product of x + 2^i for the 30 parity symbols, highest first. -/
def codeGen : List Nat :=
  ((List.range 30).foldl (fun (g : List Nat × Nat) _ =>
    (List.zipWith Nat.xor (g.1 ++ [0]) (0 :: g.1.map (symMul g.2)), symMul 2 g.2)) ([1], 1)).1

/-- The parity symbols of data symbols: the remainder by the generator. -/
def codeParity (d : List Nat) : List Nat :=
  d.foldl (fun r x =>
    let h := Nat.xor x (r.headD 0)
    List.zipWith Nat.xor (r.drop 1 ++ [0]) ((codeGen.drop 1).map (symMul h))) (List.replicate 30 0)

/-- A codeword: 514 data symbols, then 30 parity symbols. -/
def codeword (d : List Nat) : List Nat := let d := (d ++ List.replicate 514 0).take 514; d ++ codeParity d

/-- The symbols that a stream of flits fills, lowest bit first. -/
def flitSymbols (fs : List Flit) : List Nat :=
  let n := leNat (fs.flatMap flitBytes)
  (List.range ((2048 * fs.length + 9) / 10)).map fun i => n / 2 ^ (10 * i) % 1024

/-- The codewords of a lane's stream of flits. -/
def laneCodewords (fs : List Flit) : List (List Nat) :=
  let ss := flitSymbols fs
  (List.range ((ss.length + 513) / 514)).map fun i => codeword ((ss.drop (514 * i)).take 514)

/-- The active wavelengths of a mask, in order. -/
def activeWaves (waves : Nat) : List Nat := (List.range 8).filter (bitAt waves)

/-- Symbols spread over the active wavelengths in rotation: each wavelength with its symbols. -/
def spread (waves : Nat) (ss : List Nat) : List (Nat × List Nat) :=
  let ws := activeWaves waves
  (List.range ws.length).map fun k =>
    (ws.getD k 0, ((List.range ss.length).filter fun i => i % ws.length == k).map fun i => ss.getD i 0)

/-- Whether a receiver corrects a codeword with so many wrong symbols. -/
def correctable (wrong : Nat) : Bool := wrong ≤ 15

/-- What a receiver makes of a codeword that was sent and the symbols that came: the codeword, or nothing. -/
def corrected (sent came : List Nat) : Option (List Nat) :=
  if correctable ((List.zipWith (fun a b => a != b) sent came).filter id).length then some sent else none

/-- Codewords of a lane of w wavelengths that begin in the first t ns of a slot: as many whole ones as fit behind its 2 dark ns, one after
another (log entry 102). -/
def slotCodewords (w t : Nat) : Nat :=
  if t < 2 || w == 0 then 0 else min (254 * 80 * w / 5440) ((t - 2) * 80 * w / 5440 + 1)

/-- Codewords of such a lane that begin before chip time t. -/
def codewordsBy (w t : Nat) : Nat := t / 256 * slotCodewords w 256 + slotCodewords w (t % 256)

/-- Active wavelengths of a lane. -/
def Lane.count (l : Lane) : Nat := popcount 8 l.waves

/-- The number of the codeword that a lane has reached at chip time t. -/
def Lane.codewordAt (l : Lane) (t : Nat) : Nat := l.cw + (codewordsBy l.count t - codewordsBy l.count l.cwAt)

/-! ## Sending (R425, R429) -/

/-- An empty flit with a lane's acknowledgement: every flit before rxSeq is accepted. -/
def Lane.blank (l : Lane) (ty : Nat) : Flit :=
  { ty := ty, seq := 0, ackv := true, ackseq := (l.rxSeq + 4095) % 4096, vch := 0, crvc := 0, crcnt := 0, sop := false, eop := false,
    words := 0, payload := [] }

/-- Send a flit that uses no SEQ (IDLE, NAK, TRAIN). -/
def Lane.sendPlain (l : Lane) (f : Flit) : Lane := { l with sinceAck := 0, out := l.out ++ [f] }

/-- Send a flit that uses SEQ: it is kept until acknowledged. -/
def Lane.send (l : Lane) (f : Flit) : Lane :=
  let f := { f with seq := l.txSeq, ackv := true, ackseq := (l.rxSeq + 4095) % 4096 }
  { l with txSeq := (l.txSeq + 1) % 4096, unacked := l.unacked ++ [f], sinceAck := 0, out := l.out ++ [f] }

/-- Whether a lane's replay buffer of 1,184 flits has room for n more. -/
def Lane.room (l : Lane) (n : Nat) : Bool := l.queue.isEmpty && l.unacked.length + n ≤ 1184

/-- Send a flit that uses SEQ, or let it wait for room in the replay buffer. -/
def Lane.sendSeq (l : Lane) (f : Flit) : Lane := if l.room 1 then l.send f else { l with queue := l.queue ++ [f] }

/-- Send the waiting flits for which the replay buffer has room. -/
def Lane.pump (l : Lane) : Lane :=
  let n := 1184 - l.unacked.length
  (l.queue.take n).foldl Lane.send { l with queue := l.queue.drop n }

/-- Send a flit that uses no SEQ on lane i. -/
def Port.sendPlain (p : Port) (i : Nat) (f : Flit) : Port := p.setLane i ((p.lane i).sendPlain f)

/-- Send a flit that uses SEQ on lane i (R429). -/
def Port.sendSeq (p : Port) (i : Nat) (f : Flit) : Port := p.setLane i ((p.lane i).sendSeq f)

/-- The flits of a packet on a virtual channel, 240 payload bytes in each. -/
def packetFlits (vc : Nat) (bs : List Byte) : List Flit :=
  let n := (bs.length + 239) / 240
  (List.range n).map fun i =>
    let c := (bs.drop (240 * i)).take 240
    { ty := 1, seq := 0, ackv := true, ackseq := 0, vch := vc, crvc := 0, crcnt := 0, sop := i == 0, eop := i + 1 == n,
      words := (c.length + 3) / 4, payload := c }

/-- Credits of a lane for a virtual channel. -/
def Lane.credit (l : Lane) (vc : Nat) : Nat := AMap.get l.credits vc 0

/-- Whether a lane carries traffic. -/
def Lane.open_ (l : Lane) : Bool := !l.fenced && 7 ≤ l.count

/-- Whether a port carries new traffic. -/
def Port.sends (p : Port) : Bool := p.st == .up || p.st == .degraded

/-- Whether an intensity-reduce session schedules a slot on a port: its lane 1 then carries no flits (R445). -/
def State.irBusy (s : State) (port slot : Nat) : Bool :=
  s.irSess.any fun e => match e.2 with
    | some e => e.port == port && e.period != 0 && slot % e.period == e.phase
    | none => false

/-- Whether a lane of a port may carry flits now. -/
def State.laneFree (s : State) (port i : Nat) : Bool := !(i == 1 && s.irBusy port (s.now / 256))

/-- The flits that a port has formed leave by the lanes that carry flits now; those of a lane in a scheduled slot wait for its end (R445). -/
def State.launch (s : State) (port : Nat) (p : Port) : Port :=
  { p with lanes := p.lanes.mapIdx fun i l => if s.laneFree port i then { l with sent := l.sent ++ l.out, out := [] } else l }

/-- Whether lane i of a port can take n flits on a virtual channel now (R429, R435, R445). -/
def State.canTake (s : State) (port i vc n : Nat) : Bool :=
  let l := (s.port port).lane i
  l.open_ && n ≤ l.credit vc && l.room n && s.laneFree port i

/-- The open lane of a port with the most credits on a virtual channel, the first among equals. -/
def State.bestLane (s : State) (port vc : Nat) : Nat :=
  let p := s.port port
  let c (i : Nat) : Nat := if (p.lane i).open_ && s.laneFree port i then (p.lane i).credit vc + 1 else 0
  (List.range p.lanes.length).foldl (fun b i => if c b < c i then i else b) 0

/-- Send a packet on lane i. -/
def Port.sendPacket (p : Port) (i vc : Nat) (pk : Packet) : Port :=
  let fs := packetFlits vc (packetBytes pk)
  let l := p.lane i
  p.setLane i (fs.foldl Lane.sendSeq { l with credits := AMap.put l.credits vc (l.credit vc - fs.length) })

/-! ## The timing advertisement (R434) -/

/-- DEPTH of this module: 0 for the master, the selected peer's plus 1 up to 0xFE, 0xFF with no upstream port. -/
def State.depth (s : State) : Nat :=
  if s.master then 0
  else match s.upSel with
    | some p => min ((s.port p).advDepth + 1) 0xFE
    | none => 0xFF

/-- The first four payload bytes of every IDLE and TRAIN flit. -/
def State.advert (s : State) : List Byte :=
  leBytes 4 ((match (if s.master then none else s.upSel) with | some p => (s.port p).peer | none => 0x3FF) + s.depth * 2 ^ 16)

/-- Send an IDLE flit on a lane; it returns the credits of one virtual channel that the lane owes (R435). -/
def State.sendIdle (s : State) (port i : Nat) : State :=
  if !s.laneFree port i then s
  else
    let p := s.port port
    let l := p.lane i
    let c := l.owed.headD (0, 0)
    s.setPort port (p.setLane i (({ l with owed := l.owed.drop 1, idleAt := s.now } : Lane).sendPlain
      { l.blank 0 with crvc := c.1, crcnt := c.2, words := 1, payload := s.advert }))

/-- Credits of packets that have left a lane's receive buffer go back (R435). -/
def State.giveBack (s : State) (port i vc n : Nat) : State :=
  let p := s.port port
  let l := p.lane i
  (s.setPort port (p.setLane i { l with owed := AMap.put l.owed vc (AMap.get l.owed vc 0 + n) })).sendIdle port i

/-- What a port tells its peer in LOCK: the module's index, the port, its rank and the credits of each virtual channel (R430; log entry 104). -/
def State.lockTells (s : State) (port : Nat) : List Byte :=
  leBytes 2 s.self ++ leBytes 1 port ++ leBytes 1 (s.port port).order ++ leBytes 4 128

/-- Send a TRAIN flit on every lane of a port (R430): the advertisement, then the slot number in 8 bytes, and in LOCK what the port tells its
peer (log entry 104). -/
def State.sendTrain (s : State) (port : Nat) : State :=
  let p := s.port port
  let lock := p.st == .lock
  let train (l : Lane) : Lane :=
    { l.sendPlain { l.blank 4 with
        words := if lock then 5 else 3
        payload := s.advert ++ leBytes 8 (s.now / 256) ++ (if lock then s.lockTells port else []) } with idleAt := s.now }
  s.setPort port { p with lanes := p.lanes.map train }

/-- The comb source that lights a port (R20, R30). -/
def srcOf (port : Nat) : Nat := if (48 ≤ port && port < 96) || (100 ≤ port && port < 104) || 106 ≤ port then 1 else 0

/-- The wavelengths that a lane of a port carries light on now (R430, R433): none in OFF, DARK and FENCED, every one that its comb source gives
while it trains, and none in the first 2 ns of a slot in UP, DEGRADED and LOCK. -/
def State.light (s : State) (port i : Nat) : List Nat :=
  let p := s.port port
  let dark := s.now % 256 < 2 && (p.sends || p.st == .lock)
  if p.st == .off || p.st == .dark || p.st == .fenced || dark then []
  else if p.st == .train || p.st == .relock then (List.range 8).filter fun w => lineLit (s.line (srcOf port) (8 + w))
  else activeWaves ((p.lane i).waves)

/-- The delay of the edges on the selected upstream port: half the round trip that LOCK measured, and the fabric manager's correction. -/
def State.edgeDelay (s : State) : Int :=
  match s.upSel with
  | some u => (s.port u).rtt / 2 + (s.port u).asym
  | none => 0

/-- Whether an upstream port is eligible. -/
def State.eligible (s : State) (port : Nat) : Bool :=
  let p := s.port port
  p.sends && p.advDepth < 0xFF && p.advUp != s.self

/-- Select the first eligible upstream port; a change puts the pod bound's copy in HOLD until 16 edges agree. -/
def State.selectUp (s : State) : State :=
  if s.master then s
  else
    let u := s.ups.find? s.eligible
    if u = s.upSel then s
    else
      let t := s.podTime
      { s with upSel := u
               podTime := { t with st := if t.st == .unsync then .unsync else .hold, good := 0, need := 16 } }

/-! ## States of a port (R430) -/

/-- Put a port into a state, noting the time; in TRAIN, LOCK and RELOCK it sends TRAIN flits. -/
def State.toPort (s : State) (port : Nat) (st : PortState) : State :=
  let s := (s.setPort port { s.port port with st := st, since := s.now }).selectUp
  if st == .train || st == .lock || st == .relock then s.sendTrain port else s

/-- A port that loses light or repeats too often retrains, its replay buffers kept. -/
def State.relock (s : State) (port : Nat) : State := (s.setPort port { s.port port with keep := true }).toPort port .relock

/-- A lane as the exchange of LOCK leaves it: SEQ 0, 128 credits on each virtual channel. -/
def Lane.fresh (l : Lane) : Lane :=
  { Lane.reset with waves := l.waves, fenced := l.count < 7, credits := (List.range 8).map fun v => (v, 128), cw := l.cw
                    cwAt := l.cwAt, out := l.out, sent := l.sent, idleAt := l.idleAt }

/-! ## Receiving (R428, R429) -/

/-- Flits before a lane's next expected one, at most half the SEQ space back. -/
def behind (expect seq : Nat) : Bool := let d := (expect + 4096 - seq) % 4096; 0 < d && d ≤ 2048

/-- Whether flit seq is acknowledged by ackseq, given that at most 1,184 are outstanding. -/
def ackedBy (ackseq seq : Nat) : Bool := (ackseq + 4096 - seq) % 4096 < 2048

/-- A received acknowledgement. -/
def Lane.ack (l : Lane) (ackseq : Nat) : Lane :=
  let left := l.unacked.filter fun f => !ackedBy ackseq f.seq
  { l with unacked := left, naks := if left.length < l.unacked.length then 0 else l.naks }

/-- Credits returned by a flit. -/
def Lane.refund (l : Lane) (f : Flit) : Lane :=
  if f.crcnt == 0 then l else { l with credits := AMap.put l.credits f.crvc (min 128 (l.credit f.crvc + f.crcnt)) }

/-- A flit that a lane discards: it asks for the missing one until that arrives. -/
def Lane.miss (l : Lane) : Lane := { l with gap := true }

/-- A flit of the expected number is accepted. -/
def Lane.accept (l : Lane) : Lane := { l with rxSeq := (l.rxSeq + 1) % 4096, gap := false, sinceAck := l.sinceAck + 1 }

/-- A NAK: every held flit after ACKSEQ is sent again; the 16th in a row for one flit retrains the port. -/
def State.onNak (s : State) (port i : Nat) (f : Flit) : State :=
  let p := s.port port
  let l := (p.lane i).ack f.ackseq
  let l := ({ l with naks := l.naks + 1, out := l.out ++ l.unacked } : Lane).pump
  let p := { p.setLane i l with replays := p.replays + 1 }
  let s := s.setPort port p
  if 16 ≤ l.naks && p.sends then s.relock port else s

/-- Fence a lane: the port goes on with its others (R432). -/
def State.fenceLane (s : State) (port i : Nat) : State :=
  let p := s.port port
  let p := p.setLane i { p.lane i with fenced := true, drop := none }
  (s.setPort port (if p.st == .up then { p with st := .degraded } else p)).selectUp

/-- The lane that a FAILOVER flit names loses a wavelength from a codeword on; a lane that would lose a second one is fenced (R431, R432). -/
def State.onFailover (s : State) (port : Nat) (f : Flit) : State :=
  let p := s.port port
  let b (k : Nat) : Nat := (f.payload.getD k 0).toNat
  let l := p.lane (b 0)
  if p.lanes.length ≤ b 0 || l.fenced || !bitAt l.waves (b 1 % 8) then s
  else match l.drop with
  | some (w, _) => if w == b 1 % 8 then s else s.fenceLane port (b 0)
  | none =>
    if l.count ≤ 7 then s.fenceLane port (b 0)
    else s.setPort port (p.setLane (b 0) { l with drop := some (b 1 % 8, leNat ((f.payload.drop 2).take 8)) })

/-- A DATA flit adds to its virtual channel's packet; the last one queues the packet, which fills the receive buffer with its flits until it goes
on, or discards a bad one (R427, R435). -/
def State.onData (s : State) (port i : Nat) (f : Flit) : State :=
  let p := s.port port
  let l := p.lane i
  let was := AMap.get l.part f.vch (0, [])
  let part := (if f.sop then [] else was.2) ++ f.payload.take (4 * f.words)
  let n := was.1 + 1
  if !f.eop then s.setPort port (p.setLane i { l with part := AMap.put l.part f.vch (n, part) })
  else
    let p := p.setLane i { l with part := AMap.erase l.part f.vch }
    let pk := packetOf part
    if pk.rsvd then (s.setPort port { p with badpkt := p.badpkt + 1 }).giveBack port i f.vch n
    else
      let s := s.setPort port p
      { s with vqueue := s.vqueue ++ [⟨p.order + 1, f.vch, some (port, i, n), pk⟩] }

/-- A packet leaves its virtual queue, and the credits of the receive buffer that it filled go back (R435). -/
def State.unqueue (s : State) (idx : Nat) : State :=
  match s.vqueue[idx]? with
  | none => s
  | some q =>
    let s := { s with vqueue := s.vqueue.eraseIdx idx }
    match q.src with
    | some (port, i, n) => s.giveBack port i q.v n
    | none => s

/-- What a flit in sequence does. -/
def State.onSeq (s : State) (port i : Nat) (f : Flit) : State :=
  let p := s.port port
  let s := s.setPort port (p.setLane i (p.lane i).accept)
  let s := match f.ty with
    | 1 => s.onData port i f
    | 3 => s.setPort port { s.port port with drainGot := true }
    | 5 => s.onFailover port f
    | _ => s
  if 64 ≤ ((s.port port).lane i).sinceAck then s.sendIdle port i else s

/-- What every copy of chip time reads now stays its floor: CTIME never decreases (R402). -/
def State.holdTimes (s : State) : State :=
  let hold (t : TimeCopy) : TimeCopy := { t with floor := t.read s.now }
  { s with
    clusters := s.clusters.map fun (c : Nat × Cluster) => (c.1, { c.2 with time := hold c.2.time })
    dies := s.dies.map fun (d : Nat × Die) => (d.1, { d.2 with time := hold d.2.time })
    podTime := hold s.podTime }

/-- The peer's advertisement in an IDLE or TRAIN flit (R434); from the TRAIN flits of its first upstream port a module takes the slot
number, once, whatever its own chip time is, and chip time goes on from there (R434 does not say what happens when its own is ahead; DESIGN
CHOICE, log entry 118). -/
def State.advertised (s : State) (port : Nat) (f : Flit) : State :=
  if f.words == 0 then s
  else
    let b := leNat (f.payload.take 4)
    let s := s.setPort port { s.port port with advUp := b % 1024, advDepth := b / 2 ^ 16 % 256 }
    let first := f.ty == 4 && 3 ≤ f.words && !s.master && !s.slotTaken && s.ups.head? == some port
    let slot := leNat ((f.payload.drop 4).take 8)
    let s := if first then { (if slot == s.now / 256 then s else { s.holdTimes with now := 256 * slot }) with slotTaken := true } else s
    s.selectUp

/-- A received flit (R429): none when its CRC or its TYPE is bad, or a codeword that it lies in cannot be corrected. A TRAIN flit means
something only in TRAIN, LOCK and RELOCK (R426). -/
def State.onFlit (s : State) (port i : Nat) (f : Option Flit) : State :=
  let p := s.port port
  let l := p.lane i
  match f with
  | none => s.setPort port (p.setLane i l.miss)
  | some f =>
    let training := p.st == .train || p.st == .lock || p.st == .relock
    if f.ty == 4 then (if training then s.advertised port f else s)
    else
      -- The credits of a flit that is discarded come with its repetition (R435).
      let l := if f.ackv && f.ty != 2 then l.ack f.ackseq else l
      let l := (if f.ty == 0 || f.ty == 2 || f.seq == l.rxSeq then l.refund f else l).pump
      let p := p.setLane i l
      let s := s.setPort port p
      match f.ty with
      | 0 => s.advertised port f
      | 2 => s.onNak port i f
      | _ =>
        if f.seq == l.rxSeq then s.onSeq port i f
        else if behind l.rxSeq f.seq then s
        else s.setPort port (p.setLane i l.miss)

/-! ## Wavelengths (R431, R432) -/

/-- A receiver drops a wavelength: it announces the change, for a codeword at least 2 µs ahead, or fences a lane that would lose a second
one. -/
def State.dropWave (s : State) (port i wave codeword : Nat) : State :=
  let p := s.port port
  let l := p.lane i
  if !bitAt l.waves wave || l.fenced then s
  else match l.drop with
  | some (w, _) => if w == wave then s else s.fenceLane port i
  | none =>
    if l.count ≤ 7 then s.fenceLane port i
    else
      let cw := max codeword (l.codewordAt (s.now + 2000) + 1)
      let p := p.setLane i { l with drop := some (wave, cw) }
      s.setPort port (p.sendSeq i { l.blank 5 with words := 3, payload := leBytes 1 i ++ leBytes 1 wave ++ leBytes 8 cw })

/-- From the announced codeword on, a lane uses 7 wavelengths. -/
def State.switchWave (s : State) (port i : Nat) : State :=
  let p := s.port port
  let l := p.lane i
  match l.drop with
  | none => s
  | some (w, cw) =>
    if l.codewordAt s.now < cw then s
    else
      let p := p.setLane i { l with
        drop := none, waves := if bitAt l.waves w then l.waves - 2 ^ w else l.waves, cw := l.codewordAt s.now, cwAt := s.now }
      s.setPort port (if p.st == .up then { p with st := .degraded } else p)

/-! ## Routing (R436, R437) -/

/-- The candidate ports of a routing-table entry, first to fourth. -/
def candidates (e : Nat) : List Nat := [e % 128, e / 2 ^ 7 % 128, e / 2 ^ 14 % 128, e / 2 ^ 21 % 128].filter fun p => p < 96

/-- The virtual channel on which a packet that came with order a - 1 on VC v may leave on a port of order b (R437). -/
def turn (a v b : Nat) : Option Nat :=
  if a < b + 1 then some v else if v == 3 || v == 7 then none else some (v + 1)

/-- The port and virtual channel that the switch takes for a packet: most credits first, ties to the earlier candidate. A response may still
leave by a port in DRAIN, which awaits it (R442, R443). -/
def State.pick (s : State) (a v dst : Nat) : Option (Nat × Nat) :=
  let cs := (candidates (s.routeOf dst)).filterMap fun p =>
    if (s.port p).sends || (4 ≤ v && (s.port p).st == .drain) then (turn a v (s.port p).order).map fun w => (p, w) else none
  let credit (c : Nat × Nat) : Nat := ((s.port c.1).lane (s.bestLane c.1 c.2)).credit c.2
  cs.foldl (fun (r : Option (Nat × Nat)) c => match r with
    | some d => if credit d < credit c then some c else some d
    | none => some c) none

end Sys2Proof.Machine
end

