-- ==== Sys2Proof/Machine/Remote.lean ====
section
/-! DEFINITION. Remote operations (R439 to R441): what a target does with a request, what a requester does with a response, resending,
abandoning, records of performed operations, forwarding (R437), and the retirement of ldrain (R448). -/

namespace Sys2Proof.Machine

/-! ## At the target -/

/-- The response to a request: KIND 3 to a read, 4 to a write or message, 5 to an atomic. -/
def responseTo (p : Packet) (kind : Nat) : Packet :=
  { (default : Packet) with dst := p.src, src := p.dst, kind := kind, ctx := p.ctx, opseq := p.opseq, expiry := p.expiry }

/-- Bytes of device memory; those of a lost stack read poisoned (R470). -/
def State.paBytes (s : State) (pa n : Nat) : List PByte :=
  (List.range n).map fun i =>
    if (s.stack (paStack (pa + i))).lost then ⟨Config.lostByte s.now (pa + i), true⟩ else s.mem.pbyte (paKey (pa + i))

/-- Write bytes of device memory: counters and replicas as for the module's own stores (R226, R413). -/
def State.paWrite (s : State) (ctx pa : Nat) (bs : List PByte) : State :=
  let s := (s.countAccess ctx pa bs.length true).dropReplicas (linesOf pa bs.length)
  { s with mem := s.mem.writeSp .dev pa bs (bs.length / 4096 + 2) }

/-- The operand bytes of an atomic's packet: OPF's size code 3 is 8 bytes. -/
def amoSize (p : Packet) : Nat := if p.size == 3 then 8 else 4

/-- The words of a write that re-packs blocks of a dual-exponent page (R109; log entry 17). -/
def packetWords (p : Packet) : List (Nat × Nat × Bool) := repackWords p.data.length (carried p)

/-- The ranges of device memory that a request touches: address and length. -/
def touched (p : Packet) : List (Nat × Nat) :=
  let pa := p.addr % 2 ^ 40
  match p.kind with
  | 0 => [(pa, p.len)]
  | 1 =>
    if p.size == 0 then [(pa, p.data.length)]
    else
      let n := dxBytes (p.size == 1)
      let ws := packetWords p
      (blocksOf ws.length ws).map fun b => (pa + n * b.1, n)
  | 2 => [(pa, amoSize p)]
  | _ => []

/-- The stacks that a request touches. -/
def touchedStacks (p : Packet) : List Nat := (touched p).flatMap fun r => stacksOf r.1 r.2

/-- Perform the re-packs of a packet, each block indivisibly at its home (R110). -/
def State.paRepack (s : State) (p : Packet) : State :=
  let s := (touched p).foldl (fun (s : State) r => (s.countAccess p.ctx r.1 r.2 true).dropReplicas (linesOf r.1 r.2)) s
  { s with mem := s.mem.storeWords .dev (p.addr % 2 ^ 40) p.size (packetWords p) }

/-- The answer to a store or an atomic that a lost stack does not perform: KIND 4 with POISON, also to an atomic (R470; log entry 119). -/
def lostAnswer (p : Packet) : Packet := { responseTo p 4 with poison := true }

/-- Perform a request whose memory is ready: the response, or none when the model gives the requester no answer (log entry 26). -/
def State.performRequest (s : State) (p : Packet) : State × Option Packet :=
  let pa := p.addr % 2 ^ 40
  let gone := (touchedStacks p).any fun k => (s.stack k).lost
  match p.kind with
  | 0 => (s.countAccess p.ctx pa p.len false, some (carry (responseTo p 3) (s.paBytes pa p.len)))
  | 1 =>
    if gone then (s, some (lostAnswer p))
    else if s.lineActive ((touched p).flatMap fun r => linesOf r.1 r.2) then (s, some (responseTo p 4))
    else if p.size != 0 then (s.paRepack p, some (responseTo p 4))
    else (s.paWrite p.ctx pa (carried p), some (responseTo p 4))
  | 2 =>
    let n := amoSize p
    if gone then (s, some (lostAnswer p))
    else if s.lineActive (linesOf pa n) then (s, none)
    else
      let old := s.paBytes pa n
      let g : AmoArg := { op := p.aop, v := leNat (p.data.take n), pv := false, cmp := leNat ((p.data.drop n).take n) }
      (s.paWrite p.ctx pa (amoBytes g old), some (carry (responseTo p 5) old))
  | 6 => (s.exchangeMsg p, some (responseTo p 4))
  | _ => (s.groupMsg p, some (responseTo p 4))

/-- Whether the internal ports that a request goes by are open (R30, R225): a direct line's lies at its stack's optical engine, any other at
the photonic die beside its far cache. -/
def State.wayIn (s : State) (p : Packet) : Bool :=
  2 < p.kind || (touchedStacks p).all fun k =>
    if p.direct then (s.port (96 + k)).sends else (s.port (104 + k / 4 * 2)).sends || (s.port (105 + k / 4 * 2)).sends

/-- A request arrives (R401, R439): a repeat is answered from the record, an expired one is refused with NOTPERF; a stack in SELF holds it with
the module's own accesses, in arrival order (R468); none while its internal port is down. -/
def State.onRequest (s : State) (p : Packet) : Option State :=
  match s.targets.find? fun r => r.src == p.src && r.opseq == p.opseq with
  | some r => some (s.sendPacket r.reply)
  | none =>
    if p.expiry ≤ s.now + 40 then
      some (s.sendPacket { responseTo p (match p.kind with | 0 => 3 | 2 => 5 | _ => 4) with notPerf := true })
    else if !s.wayIn p then none
    else
      match (touchedStacks p).find? fun k => (s.stack k).th == .self && !(s.stack k).lost with
      | some k => some (s.holdAt k (.request p))
      | none =>
        match s.performRequest p with
        | (s, some q) => some (({ s with targets := s.targets ++ [⟨p.src, p.opseq, q, s.now⟩] } : State).sendPacket q)
        | (s, none) => some s

/-! ## At the requester -/

/-- Whether a thread waits, also under a debug stop (R491). -/
def Thread.waits (t : Thread) : Bool :=
  match t.st with
  | .waiting _ => true
  | .debug => (match t.prior with | .waiting _ => true | _ => false)
  | _ => false

/-- Give bytes under a tag to a waiting thread. -/
def State.giveThread (s : State) (tid slot tag : Nat) (bs : List PByte) : State :=
  let t := s.thread tid slot
  if t.waits then s.setThread tid slot { t with got := t.got ++ [(tag, bs)] } else s

/-- Give an engine its answer: a fault code, or 0 and bytes. -/
def State.giveEngine (s : State) (tid tag code : Nat) (bs : List PByte) : State :=
  if (AMap.find? s.tasks tid).isNone then s
  else let k := s.task tid; s.setTask tid { k with egot := k.egot ++ [(tag, code, bs)] }

/-- The part of a buffered store that a remote operation carries. -/
def State.partOf (s : State) (tid slot age : Nat) (r : RemoteOp) : Option StorePart :=
  match (s.thread tid slot).wbuf.find? fun e => e.age == age with
  | some e => e.parts.find? fun p => decide (p.sent = some (r.target, r.opseq))
  | none => none

/-- The parts that a remote operation carries leave the buffer, or are to be sent again. -/
def State.endParts (s : State) (tid slot age : Nat) (r : RemoteOp) (again : Bool) : State :=
  match (s.thread tid slot).wbuf.find? fun e => e.age == age with
  | some e =>
    s.setEntry tid slot age (e.parts.filterMap fun p =>
      if p.sent = some (r.target, r.opseq) then (if again then some { p with sent := none } else none) else some p)
  | none => s

/-- ldrains whose operations and buffered stores are all answered or abandoned retire (R448). -/
def State.retireLdrains (s : State) : State :=
  let open_ (d : LDrain) : Bool :=
    d.ops.any (fun o => s.remotes.any fun r => r.target == o.1 && r.opseq == o.2)
      || d.stores.any fun o => (s.thread d.tid o.1).wbuf.any fun e => e.age == o.2
  (s.ldrains.filter fun d => !open_ d).foldl (fun (s : State) (d : LDrain) => s.retire d.tid 2 d.seq)
    { s with ldrains := s.ldrains.filter open_ }

/-- What a performed write or atomic leaves in the target's memory, as this module's walks read it through node pointers of peers (R276,
R393). -/
def State.peerPerformed (s : State) (r : RemoteOp) (old : List PByte) : State :=
  let p := r.pkt
  let put (bs : List PByte) : State := { s with mem := s.mem.writeSp (.peer r.target) (p.addr % 2 ^ 40) bs (bs.length / 4096 + 2) }
  match p.kind with
  | 1 =>
    if p.size == 0 then put (carried p)
    else { s with mem := s.mem.storeWords (.peer r.target) (p.addr % 2 ^ 40) p.size (packetWords p) }
  | 2 =>
    let n := amoSize p
    put (amoBytes { op := p.aop, v := leNat (p.data.take n), pv := false, cmp := leNat ((p.data.drop n).take n) } old)
  | _ => s

/-- An operation has ended: the copies of its request that still wait here are not sent any more, so that none comes to its target once the
record there is gone (R439, R440). -/
def State.dropCopies (s : State) (r : RemoteOp) : State :=
  { s with vqueue := s.vqueue.filter fun q =>
      !(q.src.isNone && q.pkt.src == s.self && q.pkt.dst == r.target && q.pkt.opseq == r.opseq && !(3 ≤ q.pkt.kind && q.pkt.kind ≤ 5)) }

/-- What a response does for its requester: a refused operation is reissued (R401), one that a lost stack did not perform ends with 0x53
(R470), any other has its answer. -/
def State.takeAnswer (s : State) (r : RemoteOp) (p : Packet) : State :=
  let gone := p.kind == 4 && p.poison
  match r.who with
  | .load tid slot tag => if p.notPerf then s else s.giveThread tid slot tag (carried p)
  | .atomic tid slot tag va =>
    if p.notPerf then s
    else if gone then (s.giveThread tid slot tag (pbytes (if r.pkt.size == 3 then 8 else 4) 0 true)).pendFault tid (storeFault slot 0x53 1 va)
    else s.giveThread tid slot tag (carried p)
  | .store tid slot age _ =>
    if gone then
      match s.partOf tid slot age r with
      | some q => (s.endParts tid slot age r false).pendFault tid (storeFault slot 0x53 1 q.first)
      | none => s
    else s.endParts tid slot age r p.notPerf
  | .engine tid tag => if p.notPerf then s else if gone then s.giveEngine tid tag 0x53 [] else s.giveEngine tid tag 0 (carried p)
  | .group kid level gid => s.groupDone kid level gid

/-- A response returns (R439): the first one ends the operation. -/
def State.onResponse (s : State) (p : Packet) : State :=
  match s.remotes.find? fun r => r.target == p.src && r.opseq == p.opseq with
  | none => s
  | some r =>
    let s := { s.dropCopies r with remotes := s.remotes.filter fun o => !(o.target == r.target && o.opseq == r.opseq) }
    ((if p.notPerf || (p.kind == 4 && p.poison) then s else s.peerPerformed r (carried p)).takeAnswer r p).retireLdrains

/-- A packet at the module that it names; none when it cannot be taken yet. -/
def State.receive (s : State) (p : Packet) : Option State :=
  if 3 ≤ p.kind && p.kind ≤ 5 then some (s.onResponse p) else s.onRequest p

/-- A target takes a remote request. One whose internal port is down waits with the switch's packets. -/
def State.takeRequest (s : State) (p : Packet) : State :=
  if (3 ≤ p.kind && p.kind ≤ 5) || 8 ≤ p.kind then s
  else (s.onRequest p).getD { s with vqueue := s.vqueue ++ [⟨0, 0, none, { p with dst := s.self }⟩] }

/-- R439: a target takes a remote request. -/
def execRemoteRequestReceive (p : Packet) (s : State) : Host.Outcome State Fault Refusal := event s fun s => s.takeRequest p

/-- R439: a response returns to the requester. -/
def execRemoteResponseReceive (p : Packet) (s : State) : Host.Outcome State Fault Refusal :=
  event s fun s => if 3 ≤ p.kind && p.kind ≤ 5 then s.onResponse p else s

/-! ## Resending and abandoning -/

/-- The address that a fault of a load names: the bytes asked for, or the pc of a fetch. -/
def State.loadAddr (s : State) (tid slot tag : Nat) : Nat := if isFetchTag tag then (s.thread tid slot).pc.toNat else tag % 2 ^ 64

/-- A precise fault of a thread that waits in an instruction of which a remote request is lost, whatever it waits for now; one that a debug stop
holds is stopped once it is released. -/
def State.faultRemote (s : State) (tid slot code addr : Nat) : State :=
  let t := s.thread tid slot
  match t.st with
  | .waiting _ => s.faultHeld tid slot code 0 addr 0 0
  | .debug =>
    if t.waits then
      let s := s.faultHeld tid slot code 0 addr 0 0
      s.setThread tid slot { s.thread tid slot with st := .debug, prior := .stopped }
    else s
  | _ => s

/-- The outcome of an operation that ends unanswered (R440) or, held, without a route (R444): code of a store and of an engine. -/
def State.loseRemote (s : State) (r : RemoteOp) (unsent : Bool) : State :=
  let s := { s.dropCopies r with remotes := s.remotes.filter fun o => !(o.target == r.target && o.opseq == r.opseq) }
  let code := if unsent then 0x40 else 0x41
  (match r.who with
  | .load tid slot tag =>
    s.faultRemote tid slot 0x40 (s.loadAddr tid slot tag)
  | .atomic tid slot tag va =>
    if unsent then s.faultRemote tid slot 0x40 va
    else (s.giveThread tid slot tag (pbytes (if r.pkt.size == 3 then 8 else 4) 0 true)).pendFault tid (storeFault slot 0x41 1 va)
  | .store tid slot age _ =>
    match s.partOf tid slot age r with
    | some q => (s.endParts tid slot age r false).pendFault tid (storeFault slot code 1 q.first)
    | none => s
  | .engine tid tag => s.giveEngine tid tag code []
  | .group kid _ _ => s.breakGroups kid).retireLdrains

/-- R439: a request unanswered for 20 µs is sent again with its OPSEQ. -/
def execRemoteRetryTimeout (target opseq : Nat) (s : State) : Host.Outcome State Fault Refusal :=
  event s fun s =>
    match s.remotes.find? fun r => r.target == target && r.opseq == opseq with
    | some r =>
      if !r.held && r.last + 20000 ≤ s.now then
        ({ s with remotes := s.remotes.map fun o =>
            if o.target == target && o.opseq == opseq then { o with last := s.now } else o } : State).sendPacket r.pkt
      else s
    | none => s

/-- Whether a request crossed a port of the planned change in progress: it is answered before that port is DARK (R443). -/
def State.inChange (s : State) (r : RemoteOp) : Bool :=
  s.change.any fun ch => ch.ports.any fun e => (s.port e.1).crossed.contains (s.self, r.target, r.opseq)

/-- R439, R440, R443: a request unanswered 100 µs after it was first sent is abandoned, but for one that a planned change awaits. -/
def execRemoteAbandonTimeout (target opseq : Nat) (s : State) : Host.Outcome State Fault Refusal :=
  event s fun s =>
    match s.remotes.find? fun r => r.target == target && r.opseq == opseq with
    | some r => if !r.held && !s.inChange r && r.first + 100000 ≤ s.now then s.loseRemote r false else s
    | none => s

/-- R439: a record of a performed operation ends after 200 µs. -/
def execTargetRecordExpiry (src opseq : Nat) (s : State) : Host.Outcome State Fault Refusal :=
  event s fun s => { s with targets := s.targets.filter fun r =>
    !(r.src == src && r.opseq == opseq && r.at_ + 200000 ≤ s.now) }

/-! ## Forwarding (R437) -/

/-- Whether a request that crossed a port is unanswered: one of this module while it is outstanding, one of another until its response has
passed here. -/
def State.crossing (s : State) (o : Nat × Nat × Nat) : Bool :=
  o.1 != s.self || s.remotes.any fun r => r.target == o.2.1 && r.opseq == o.2.2

/-- A response that passes answers the request that crossed some port on its way (R442). -/
def State.notePassed (s : State) (src dst opseq : Nat) : State :=
  { s with ports := s.ports.map fun (p : Nat × Port) => (p.1, { p.2 with crossed := p.2.crossed.filter fun o => o != (src, dst, opseq) }) }

/-- A packet crosses a port: a request is noted there, a response answers its request; those answered since are forgotten. -/
def State.noteCrossing (s : State) (port : Nat) (p : Packet) : State :=
  if 3 ≤ p.kind && p.kind ≤ 5 then s.notePassed p.dst p.src p.opseq
  else
    let q := s.port port
    s.setPort port { q with crossed := q.crossed.filter s.crossing ++ [(p.src, p.dst, p.opseq)] }

/-- R437: the switch delivers a packet to this module, or sends it on over the candidate port that the turn rule allows; else it waits. -/
def execPacketForward (idx : Nat) (s : State) : Host.Outcome State Fault Refusal :=
  event s fun s =>
    match s.vqueue[idx]? with
    | none => s
    | some q =>
      let p := q.pkt
      let s' := s.unqueue idx
      if p.dst == s.self then (s'.receive p).getD s
      else
        match s.pick q.a q.v p.dst with
        | none => s
        | some (port, vc) =>
          let lane := s.bestLane port vc
          if s.canTake port lane vc (((packetBytes p).length + 239) / 240) then
            (s'.setPort port ((s'.port port).sendPacket lane vc p)).noteCrossing port p
          else s

end Sys2Proof.Machine
end

