-- ==== Sys2Proof/Machine/Link.lean ====
section
/-! DEFINITION. LINK instructions (R447 to R450) and the steps of the switch chiplet: ports (R430), flits and timers (R429, R434),
wavelengths (R431, R432), routing tables (R436, R438), circuit changes (R442 to R444), intensity reduce (R445, R446, R450), laser
records (R452). -/

namespace Sys2Proof.Machine

/-! ## Instructions -/

/-- Whether a remote operation belongs to a thread or engine of a task. -/
def RemoteFor.ofTask (w : RemoteFor) (tid : Nat) : Bool :=
  match w with
  | .load t _ _ => t == tid
  | .store t _ _ _ => t == tid
  | .atomic t _ _ _ => t == tid
  | .engine t _ => t == tid
  | .group _ _ _ => false

/-- The buffered stores of a task that reach a module for which f holds: slot and age. -/
def State.storesTo (s : State) (tid : Nat) (f : Nat → Bool) : List (Nat × Nat) :=
  slots.flatMap fun i =>
    ((s.thread tid i).wbuf.filter fun e => e.parts.any fun p =>
      match (s.frameOf p.tr).1 with
      | .peer m => f m
      | _ => false).map fun e => (i, e.age)

/-- R448: an operation that retires when the core's remote operations to the selected modules are answered or abandoned. -/
def execLdrain (d a : Reg) (s : State) : Host.Outcome State Fault Refusal :=
  issue .plain 8 s fun s => s.unlessPoison [a] fun s =>
    let v := s.x a
    let sel := if v.getLsbD 63 then none else some (v.toNat % 1024)
    let f (m : Nat) : Bool := sel.all fun n => n == m
    let tid := s.cur.1
    let (s, n) := s.issueOp 2
    let ops := (s.remotes.filter fun r => r.who.ofTask tid && f r.target).map fun r => (r.target, r.opseq)
    let s := s.setX d (BitVec.ofNat 64 n) false
    (({ s with ldrains := s.ldrains ++ [⟨tid, n, sel, ops, s.storesTo tid f⟩] } : State).retireLdrains, .done)

/-- R449: the status of a port or of the way to a module. -/
def execLstat (d a : Reg) (sel : BitVec 2) (s : State) : Host.Outcome State Fault Refusal :=
  issue .plain 8 s fun s => s.unlessPoison [a] fun s =>
    (s.setX d (BitVec.ofNat 64 (s.lstat (s.x a).toNat sel.toNat)) false, .done)

/-- The slot that a descriptor names (R450): congruent to SLOTLO and nearest to the current one. -/
def irSlot (cur : Nat) (lo : Nat) : Int := cur + toInt 32 ((lo + (2 ^ 32 - cur % 2 ^ 32)) % 2 ^ 32)

/-- Whether n bytes at a multiple of 64 lie wholly in the core-memory window. -/
def irBuffer (a n : Nat) : Bool := a % 64 == 0 && decide (cmBase ≤ a) && decide (a + n ≤ 2 ^ 64)

/-- Whether a session exists in a role for a context, with its port in UP or DEGRADED (R450, check 3). -/
def State.irReady (s : State) (n : Nat) (recv : Bool) (ctx : Nat) : Option IrSession :=
  match AMap.get s.irSess n none with
  | some e => if e.ctx == ctx && e.sender.isNone == recv && (s.port e.port).sends then some e else none
  | none => none

/-- Checks of R450, then f with the session's number and the slot. -/
def State.irChecks (s : State) (a b : Reg) (recv : Bool) (f : State → Nat → Nat → State × Res) : State × Res :=
  s.unlessPoison [a, b] fun s =>
    let buf := (s.x a).toNat
    let n := (s.x b).toNat % 64
    if !irBuffer buf (if recv then 4160 else 2048) then (s, .fault 0x22 0 0)
    else
      match s.irReady n recv s.tk.ctx with
      | none => (s, .fault 0x43 0 0)
      | some e =>
        let cur := s.ctime / 256
        let k := irSlot cur ((s.x b).toNat / 2 ^ 32)
        if k < (cur : Int) + 4 || k.toNat % e.period != e.phase || s.irOps.any (fun o => o.sess == n && o.slot == k.toNat) then
          (s, .fault 0x22 0 0)
        else f s n k.toNat

/-- Accept an intensity-reduce operation on counter 2. -/
def State.irAccept (s : State) (d : Reg) (n slot buf : Nat) (data : Option (List Byte)) : State × Nat :=
  let (s, q) := s.issueOp 2
  let o : IrOp := { sess := n, slot := slot, recv := data.isNone, tid := s.cur.1, th := s.cur.2, seq := q, core := s.tk.core,
                    buf := buf, data := data }
  (({ s with irOps := s.irOps ++ [o] } : State).setX d (BitVec.ofNat 64 q) false, q)

/-- R450: schedules a send; its buffer is read at issue (log entry 27). A poisoned byte makes it retire failed with 0x51. -/
def execIrsend (d a b : Reg) (s : State) : Host.Outcome State Fault Refusal :=
  issue .plain 8 s fun s => s.irChecks a b false fun s n slot =>
    let buf := (s.x a).toNat
    let bs := s.readWin (s.cmOf s.cur.1 (buf - cmBase)) 2048
    let r := s.irAccept d n slot buf (some (bs.map PByte.b))
    if bs.any PByte.p then
      let s := { r.1 with irOps := r.1.irOps.dropLast }
      (s.retireFailed s.cur.1 s.cur.2 2 r.2 0x51 buf 0, .done)
    else (r.1, .done)

/-- R450: schedules a receive. -/
def execIrrecv (d a b : Reg) (s : State) : Host.Outcome State Fault Refusal :=
  issue .plain 8 s fun s => s.irChecks a b true fun s n slot => ((s.irAccept d n slot (s.x a).toNat none).1, .done)

/-! ## Intensity reduce -/

/-- To the fabric: the light of a sender on lane 1 of its port, with session, slot, chip time of the launch, comb line, a pilot and the
elements (R445, R446). -/
def msgLight : Nat := 7

/-- R445: the fabric manager writes a session entry. -/
def execIrSessionWrite (n : Nat) (e : Option IrSession) (s : State) : Host.Outcome State Fault Refusal :=
  event s fun s => if n < 64 then { s with irSess := AMap.put s.irSess n e } else s

/-- The status of a receive (R450). -/
def irStatus (slot present expect : Nat) (sums : List Nat) (low : Bool) : List PByte :=
  let satn := (sums.filter fun v => 511 < v).length
  pbytes 8 slot false ++ pbytes 1 (present % 256) false ++ pbytes 1 (expect % 256) false
    ++ pbytes 1 ((if satn != 0 then 1 else 0) + (if low then 2 else 0)) false ++ pbytes 1 0 false ++ pbytes 4 satn false ++ pbytes 48 0 false

/-- The buffer of a receive: the sums, at most 511, as z16, then the status. -/
def irData (slot present expect : Nat) (sums : List Nat) (low : Bool) : List PByte :=
  ((List.range 2048).flatMap fun i => pbytes 2 (min (sums.getD i 0) 511) false) ++ irStatus slot present expect sums low

/-- What a sender on line 8 + j presents in element i (R446). -/
def irElement (v : List Nat) (i : Nat) : Nat := min (v.getD i 0) 63

/-- The detector's sums: of the senders whose pilots came, and where LOWMARGIN is set the measurement's deviation (log entry 105). -/
def irSums (light : List (Nat × List Nat)) (noise : List Int) (low : Bool) : List Nat :=
  (List.range 2048).map fun i =>
    let x := (light.map fun e => irElement e.2 i).sum
    if low then ((x : Int) + noise.getD i 0).toNat else x

/-- The senders that were present. -/
def irPresent (light : List (Nat × List Nat)) : Nat := ((List.range 8).map fun j => if light.any fun e => e.1 == j then 2 ^ j else 0).sum

/-- When a sender launches so that its light comes 25 ns behind the receiver's slot edge (R445). -/
def irLaunch (e : IrSession) (j slot : Nat) : Nat := 256 * slot + 25 - AMap.get e.delays j 0

/-- One operation at the end of its slot (R446, R450). -/
def State.irEnd (s : State) (o : IrOp) (light : List (Nat × List Nat)) (noise : List Int) (low : Bool) : State :=
  if (AMap.find? s.tasks o.tid).isNone then s
  else
    match AMap.get s.irSess o.sess none with
    | none => s.retireFailed o.tid o.th 2 o.seq 0x43 o.buf 0
    | some e =>
      if !(s.port e.port).sends then s.retireFailed o.tid o.th 2 o.seq 0x43 o.buf 0
      else
        match o.data, e.sender with
        | some bs, some j =>
          (s.send 2 msgLight ([o.sess, o.slot, irLaunch e j o.slot, 8 + j, 1] ++ bs.map fun b => min b.toNat 63)).retire o.tid 2 o.seq
        | some _, none => s.retireFailed o.tid o.th 2 o.seq 0x43 o.buf 0
        | none, _ =>
          (s.writeWins (s.cmPieces o.tid o.buf (o.buf - cmBase) 4160)
            (irData o.slot (irPresent light) e.expect (irSums light noise low) low)).retire o.tid 2 o.seq

/-- R446: the operations of a session in a slot that has passed; light holds the senders whose light came, each with the bytes of its buffer. -/
def execIrSlotTransfer (n slot : Nat) (light : List (Nat × List Nat)) (noise : List Int) (low : Bool) (s : State) :
    Host.Outcome State Fault Refusal :=
  event s fun s =>
    if s.now < 256 * (slot + 1) then s
    else
      let mine (o : IrOp) : Bool := o.sess == n && o.slot == slot
      let light := light.filter fun e => e.1 < 8
      (s.irOps.filter mine).foldl (fun (s : State) (o : IrOp) => s.irEnd o light noise low)
        { s with irOps := s.irOps.filter fun o => !mine o }

/-! ## Flits and timers (R429, R434) -/

/-- R425, R428, R429: 256 bytes come by a lane of a port, out of codewords with so many wrong symbols each. A port that is not open takes
only TRAIN flits. -/
def execFlitReceive (port lane : Nat) (bytes : List Byte) (wrong : List Nat) (s : State) : Host.Outcome State Fault Refusal :=
  event s fun s =>
    let f := if wrong.all correctable then flitOf bytes else none
    let train := f.any fun f => f.ty == 4
    match (s.port port).st with
    | .off => s
    | .dark => s
    | .fenced => s
    | .train => if train then s.onFlit port lane f else s
    | .lock => if train then s.onFlit port lane f else s
    | .relock => if train then s.onFlit port lane f else s
    | _ => s.onFlit port lane f

/-- Whether a port runs its link protocol. -/
def Port.runs (p : Port) : Bool := p.sends || p.st == .drain

/-- R429: the receiver asks again for the missing flit. -/
def execNakTimer (port lane : Nat) (s : State) : Host.Outcome State Fault Refusal :=
  event s fun s =>
    let p := s.port port
    if p.runs && (p.lane lane).gap && s.laneFree port lane then s.setPort port (p.sendPlain lane ((p.lane lane).blank 2)) else s

/-- R429: the receiver acknowledges what it has accepted. -/
def execAckTimer (port lane : Nat) (s : State) : Host.Outcome State Fault Refusal :=
  event s fun s => if (s.port port).runs && ((s.port port).lane lane).sinceAck != 0 then s.sendIdle port lane else s

/-- Whether a lane is to send its next IDLE flit: one leaves at least every 1 µs, also where scheduled slots stand before the next one
(R434, R445). -/
def State.idleDue (s : State) (port i : Nat) : Bool :=
  let at_ := ((s.port port).lane i).idleAt + 1000
  let busy (k : Nat) : Bool := i == 1 && s.irBusy port (s.now / 256 + 1 + k)
  s.laneFree port i &&
    (at_ ≤ s.now || (List.range 4).any fun k => ((List.range (k + 1)).all busy) && at_ < (s.now / 256 + k + 2) * 256)

/-- Whether a port is to send its next IDLE or TRAIN flits (R434). -/
def State.portDue (s : State) (port : Nat) : Bool :=
  let p := s.port port
  let old := p.lanes.any fun l => l.idleAt + 1000 ≤ s.now
  if p.runs then (List.range p.lanes.length).any (s.idleDue port)
  else (p.st == .train || p.st == .lock || p.st == .relock) && old

/-- R434: an IDLE flit on every lane, or while the port trains a TRAIN flit. -/
def execIdleFlitTimer (port : Nat) (s : State) : Host.Outcome State Fault Refusal :=
  event s fun s =>
    let p := s.port port
    if p.runs then (List.range p.lanes.length).foldl (fun (s : State) i => s.sendIdle port i) s
    else if p.st == .train || p.st == .lock || p.st == .relock then s.sendTrain port
    else s

/-! ## Port states (R430) -/

/-- To the switch controller: a port that met an unexpected peer. -/
def msgWrongPeer : Nat := 8
/-- A port that is ready for its circuit change. -/
def msgPortReady : Nat := 9
/-- A refused change or table. -/
def msgTableRefused : Nat := 10

/-- R430: OFF or FENCED to TRAIN. -/
def execPortEnable (port : Nat) (s : State) : Host.Outcome State Fault Refusal :=
  event s fun s =>
    let p := s.port port
    if 107 < port || !(p.st == .off || p.st == .fenced) then s
    else (s.setPort port { p with keep := false, planned := false, drainSent := false, drainGot := false }).toPort port .train

/-- R430: TRAIN or RELOCK to LOCK on at least 7 wavelengths of some lane; waves holds the wavelengths of each lane. -/
def execPortLock (port first : Nat) (rest : List Nat) (s : State) : Host.Outcome State Fault Refusal :=
  event s fun s =>
    let p := s.port port
    let wave (i : Nat) : Nat := (first :: rest).getD i 0 % 256
    if !(p.st == .train || p.st == .relock) || ((List.range p.lanes.length).all fun i => popcount 8 (wave i) < 7) then s
    else
      let locked (i : Nat) : Lane :=
        { p.lane i with waves := wave i, fenced := popcount 8 (wave i) < 7, drop := none, cw := 0, cwAt := s.now }
      (s.setPort port { p with lanes := (List.range p.lanes.length).map locked }).toPort port .lock

/-- Send again the unanswered requests that crossed a port (R439). -/
def State.resendCrossed (s : State) (port : Nat) : State :=
  let c := (s.port port).crossed
  let again (r : RemoteOp) : Bool := !r.held && c.contains (s.self, r.target, r.opseq)
  (s.remotes.filter again).foldl (fun (s : State) (r : RemoteOp) => s.sendPacket r.pkt)
    { s with remotes := s.remotes.map fun r => if again r then { r with last := s.now } else r }

/-- R430: the exchange of LOCK ends: UP or DEGRADED, or FENCED at a peer that is not the one expected. It measured the round trip, and told
the peer's index, port and rank. To the same peer after an unplanned RELOCK the lanes go on with their replay buffers. -/
def execPortLockExchangeDone (port peer : Nat) (told : LockTold) (s : State) : Host.Outcome State Fault Refusal :=
  event s fun s =>
    let p := s.port port
    if p.st != .lock then s
    else if (match p.expectPeer with | some e => e != peer | none => false) then
      (s.toPort port .fenced).send 2 msgWrongPeer [port, peer]
    else
      let same := p.keep && p.peer == peer && p.peerPort == told.port
      let lane (l : Lane) : Lane := if same then { l with naks := 0, out := l.out ++ l.unacked } else l.fresh
      let st : PortState := if p.lanes.all fun l => l.count == 8 then .up else .degraded
      let s' := s.setPort port { p with
        lanes := p.lanes.map lane, peer := peer, peerPort := told.port, rtt := told.rtt, peerRank := told.rank, keep := false }
      let s' := s'.toPort port st
      if p.keep then s'.resendCrossed port else s'

/-- R430: no lock within 1 ms. -/
def execPortLockTimeout (port : Nat) (s : State) : Host.Outcome State Fault Refusal :=
  event s fun s =>
    let p := s.port port
    if (p.st == .train || p.st == .relock) && p.since + 1000000 ≤ s.now then s.toPort port .fenced else s

/-- R430: loss of light on both lanes. -/
def execPortLightLoss (port : Nat) (s : State) : Host.Outcome State Fault Refusal :=
  event s fun s => if (s.port port).sends then s.relock port else s

/-- R430: the switch controller fences a port. -/
def execPortFence (port : Nat) (s : State) : Host.Outcome State Fault Refusal :=
  event s fun s => if (s.port port).st == .off then s else s.toPort port .fenced

/-- R430: the fabric manager disables a port. -/
def execPortDisable (port : Nat) (s : State) : Host.Outcome State Fault Refusal :=
  event s fun s => (s.setPort port { s.port port with lanes := (s.port port).lanes.map fun _ => Lane.reset, keep := false }).toPort port .off

/-- R430: the switch controller restores every wavelength and lane of a DEGRADED port. -/
def execPortRestore (port : Nat) (s : State) : Host.Outcome State Fault Refusal :=
  event s fun s =>
    let p := s.port port
    if p.st != .degraded then s
    else
      (s.setPort port { p with lanes := p.lanes.map fun l =>
        { l with waves := 255, fenced := false, drop := none, cw := l.codewordAt s.now, cwAt := s.now } }).toPort port .up

/-! ## Wavelengths and comb lines (R21, R431, R432, R452) -/

/-- R431: the receiver drops a wavelength that errs too often. -/
def execWavelengthErrorDrop (port lane wave codeword : Nat) (s : State) : Host.Outcome State Fault Refusal :=
  event s fun s => if (s.port port).runs && wave < 8 then s.dropWave port lane wave codeword else s

/-- R431: the announced codeword has come. -/
def execWavelengthSwitchover (port lane : Nat) (s : State) : Host.Outcome State Fault Refusal :=
  event s fun s => s.switchWave port lane

/-- The ports that a comb source lights (R20, R30). -/
def portsOf (src : Nat) : List Nat := (List.range 108).filter fun p => srcOf p == src

/-- A port in LOCK loses a wavelength of every lane: no session runs yet in which to announce it; a lane below 7 is fenced (R430, R432). -/
def Port.darken (p : Port) (wave : Nat) : Port :=
  { p with lanes := p.lanes.map fun l =>
      let w := if bitAt l.waves wave then l.waves - 2 ^ wave else l.waves
      { l with waves := w, fenced := l.fenced || popcount 8 w < 7 } }

/-- A line has fallen below its threshold (R21, R432): of lines 0 to 7 the OMUs of the source's die are lost, of lines 8 to 15 the
same wavelength of every lane that the source lights. The codeword that a FAILOVER names is free. -/
def State.lineLoss (s : State) (src line : Nat) : State :=
  if line < 8 then (List.range 48).foldl (fun s i => s.omuLoss (48 * src + i)) s
  else
    let cw := Config.freeNat s.free
    (portsOf src).foldl (fun (s : State) p =>
      if (s.port p).runs then (List.range (s.port p).lanes.length).foldl (fun (s : State) i => s.dropWave p i (line - 8) cw) s
      else if (s.port p).st == .lock then s.setPort p ((s.port p).darken (line - 8)) else s)
      { s with free := s.free + 1 }

/-- R21: a comb line falls below its power threshold, or fails. -/
def execCombLineBelowThreshold (src line : Nat) (failed : Bool) (s : State) : Host.Outcome State Fault Refusal :=
  event s fun s =>
    if 2 ≤ src || 16 ≤ line then s
    else
      ({ s with comb := AMap.put s.comb (16 * src + line) { s.line src line with state := if failed then 4 else 3 } } : State).lineLoss
        src line

/-- R308: a line is locked again; when the OMUs of its die are available again they probe their loaded banks. -/
def execCombLineRecover (src line : Nat) (res : List (Nat × Nat × List Int)) (s : State) : Host.Outcome State Fault Refusal :=
  event s fun s =>
    if 2 ≤ src || 16 ≤ line || lineLit (s.line src line) then s
    else
      let s := { s with comb := AMap.put s.comb (16 * src + line) { s.line src line with state := 2 } }
      if line < 8 then
        (List.range 48).foldl (fun s i => if s.omuAvail (48 * src + i) then s.omuRecover (48 * src + i) res else s) s
      else s

/-- R452: the PSC updates a line's record, EOLH all ones before 100 hours; STATE follows the line's own events, but for a loss that the update
finds. -/
def execLaserTelemetryUpdate (src line : Nat) (r : Telemetry) (s : State) : Host.Outcome State Fault Refusal :=
  event s fun s =>
    if 2 ≤ src || 16 ≤ line then s
    else
      let o := s.line src line
      let st := if 2 ≤ o.state && 3 ≤ r.state then r.state else o.state
      let eolh := if r.hours < 100 then 0xFFFFFFFF else r.eolh
      let s := { s with comb := AMap.put s.comb (16 * src + line) { r with eolh := eolh, state := st } }
      if o.state == 2 && st != 2 then s.lineLoss src line else s

/-- The 32 bytes of a line's record (R452). -/
def telemetryBytes (r : Telemetry) : List Byte :=
  leBytes 4 r.bias ++ leBytes 4 r.power ++ leBytes 4 r.hours ++ leBytes 4 r.eolh ++ leBytes 4 r.bias0
    ++ leBytes 2 ((r.temp % 65536).toNat) ++ leBytes 1 r.state ++ leBytes 9 0

/-- The first lane of a port that carries traffic. -/
def Port.openLane (p : Port) : Nat := ((List.range p.lanes.length).find? fun i => (p.lane i).open_).getD 0

/-- R452: a MGMT read of a line's record is answered on an external port that is UP or DEGRADED; it waits while an image of the switch
controller hands over (R483). -/
def execMgmtReadRequest (port src line : Nat) (s : State) : Host.Outcome State Fault Refusal :=
  event s fun s =>
    let p := s.port port
    let w := s
    let s := { s with mgmtWait := s.mgmtWait.erase (port, src, line) }
    if 96 ≤ port || !p.sends then s
    else if (w.fwk 3).moving then { s with mgmtWait := s.mgmtWait ++ [(port, src, line)] }
    else
      let i := p.openLane
      s.setPort port (p.sendSeq i { (p.lane i).blank 6 with words := 8, payload := telemetryBytes (s.line src line) })

/-! ## Routing tables (R436, R438) -/

/-- Whether every entry with UNREACH = 0 has a candidate, the module's own LOCAL entry aside (log entry 28). -/
def tableOk (t : List (Nat × Nat)) : Bool :=
  t.all fun e => bitAt e.2 28 || bitAt e.2 29 || !(candidates e.2).isEmpty

/-- Install a table: entries that it does not list are UNREACH; this module's index is that of its LOCAL entry. -/
def State.setTable (s : State) (t : List (Nat × Nat)) : State :=
  let t := t.filter fun e => e.1 < 1024
  let s := { s with route := t.foldl (fun m e => AMap.put m e.1 (e.2 % 2 ^ 30)) [] }
  match t.find? fun e => bitAt e.2 29 with
  | some e => { s with self := e.1 }
  | none => s

/-- Groups of level 4 with a member module that has no route break (R343, R444). -/
def State.breakUnreach (s : State) : State :=
  (s.groups.filter fun (g : Group) => g.level == 4 && g.st != .broken && g.st != .dissolved
    && (s.otherModules g).any s.peerUnreach).foldl (fun (s : State) (g : Group) => s.breakGroups g.kid) s

/-- Whether every path on from module m to dst, for a packet that came with order a - 1 on VC v over the modules seen, keeps the turn rule, visits
no module twice (R437, R438) and leads over modules and ports that the validator knows; fuel bounds the modules. -/
def pathsFrom (f : List FabNode) (dst fuel m a v : Nat) (seen : List Nat) : Bool :=
  match fuel with
  | 0 => false
  | fuel + 1 =>
    if m == dst then true
    else
      match f.find? fun n => n.module == m with
      | none => false
      | some n =>
        let e := AMap.get n.table dst routeReset
        if bitAt e 28 && !bitAt e 29 then true
        else (candidates e).all fun p =>
          match n.ports.find? fun q => q.1 == p with
          | none => false
          | some (_, b, peer, pp) =>
            match turn a v b with
            | none => false
            | some w =>
              let o := ((f.find? fun n => n.module == peer).bind fun n => n.ports.find? fun q => q.1 == pp).map fun q => q.2.1
              !seen.contains peer && pathsFrom f dst fuel peer (o.getD b + 1) w (peer :: seen)

/-- The partition with a table for this module in it. -/
def State.withTable (s : State) (f : List FabNode) (t : List (Nat × Nat)) : List FabNode :=
  let self := ((t.find? fun e => bitAt e.2 29).map Prod.fst).getD s.self
  f.map fun n => if n.module == self then { n with table := t } else n

/-- Whether the validator's picture of this module agrees with its ports: their orders, and their peers where they have one; the ports of a change
get new ones. -/
def State.nodeFits (s : State) (new : List (Nat × Nat)) (n : FabNode) : Bool :=
  n.ports.all fun q => q.1 < 96 && q.2.1 == (s.port q.1).order &&
    match new.find? fun e => e.1 == q.1 with
    | some e => q.2.2.1 == e.2
    | none => !(s.port q.1).sends || (q.2.2.1 == (s.port q.1).peer && q.2.2.2 == (s.port q.1).peerPort)

/-- The modules between which a table allows paths: those of the partition, and those that the table gives a route to. -/
def fabModules (f : List FabNode) (t : List (Nat × Nat)) : List Nat :=
  f.map FabNode.module ++ (t.filter fun e => !bitAt e.2 28 && !bitAt e.2 29).map Prod.fst

/-- The validator of a routing table in its partition (R438), this module's own place in which is the one it holds; new gives the peers that a
change gives ports. -/
def State.validTable (s : State) (f : List FabNode) (t : List (Nat × Nat)) (new : List (Nat × Nat)) : Bool :=
  let f := s.withTable f t
  let self := ((t.find? fun e => bitAt e.2 29).map Prod.fst).getD s.self
  tableOk t && (f.filter fun n => n.module == self).length == 1 && (f.all fun n => n.module != self || s.nodeFits new n)
    && f.all fun n => (fabModules f t).all fun d => pathsFrom f d (f.length + 1) n.module 0 0 [n.module]

/-- R438: the switch controller installs a table that its validator accepts; requests to destinations that become UNREACH are
abandoned (R439). -/
def execRoutingTableInstall (t : List (Nat × Nat)) (fabric : List FabNode) (s : State) : Host.Outcome State Fault Refusal :=
  event s fun s =>
    if !s.validTable fabric t [] then s.send 2 msgTableRefused []
    else
      let s := s.setTable t
      let lost := s.remotes.filter fun r => !r.held && s.peerUnreach r.target
      (lost.foldl (fun (s : State) (r : RemoteOp) => s.loseRemote r false) s).breakUnreach

/-! ## Circuit changes (R442 to R444) -/

/-- Hold the requests of this module that still wait in the switch for a port that drains (R442). -/
def State.holdQueued (s : State) : State :=
  let wait (p : Packet) : Bool := p.src == s.self && !(3 ≤ p.kind && p.kind ≤ 5) && p.dst != s.self && s.routeHeld p.dst
  let q := s.vqueue.filter fun e => wait e.pkt
  { s with
    vqueue := s.vqueue.filter fun e => !wait e.pkt
    remotes := s.remotes.map fun r =>
      if q.any fun e => e.pkt.dst == r.target && e.pkt.opseq == r.opseq then { r with held := true } else r }

/-- A module for which a change names no port reports ready as soon as its interim table stands (R518). -/
def State.readyAtOnce (s : State) (ch : Change) : State := if ch.ports.isEmpty then s.send 2 msgPortReady [] else s

/-- R442: a change request: both tables are validated, each in the partition as it is then, the interim one installed, the ports drain. Only
external ports take part (R30). -/
def execChangeRequest (ch : Change) (fabric : List FabNode × List FabNode) (s : State) : Host.Outcome State Fault Refusal :=
  event s fun s =>
    if s.change.isSome || (ch.ports.any fun e => 96 ≤ e.1) || !s.validTable fabric.1 ch.interim [] || !s.validTable fabric.2 ch.final ch.ports then
      s.send 2 msgTableRefused []
    else
      let s := { s.setTable ch.interim with change := some ch }
      (ch.ports.foldl (fun (s : State) e =>
        let p := s.port e.1
        let p := { p with planned := true, expectPeer := some e.2 }
        if p.sends then (s.setPort e.1 p).toPort e.1 .drain else s.setPort e.1 p) s).holdQueued.readyAtOnce ch

/-- Whether a draining port has nothing left to send or to have answered (R442). -/
def State.portEmpty (s : State) (port : Nat) : Bool :=
  let p := s.port port
  (p.lanes.all fun l => l.unacked.isEmpty && l.queue.isEmpty) && !p.crossed.any s.crossing

/-- R442: a draining port sends its DRAIN flit, and is DARK once that is acknowledged and its peer's has come. -/
def execPortDrainComplete (port : Nat) (s : State) : Host.Outcome State Fault Refusal :=
  event s fun s =>
    let p := s.port port
    if p.st != .drain || !s.portEmpty port then s
    else if !p.drainSent then
      let i := p.openLane
      s.setPort port { p.sendSeq i ((p.lane i).blank 3) with drainSent := true }
    else if p.drainGot then (s.toPort port .dark).send 2 msgPortReady [port]
    else s

/-- R442: the circuits are switched: the ports of the change retrain to their new peers. -/
def execCircuitsReady (s : State) : Host.Outcome State Fault Refusal :=
  event s fun s =>
    match s.change with
    | none => s
    | some ch => ch.ports.foldl (fun (s : State) e =>
        if (s.port e.1).st == .dark then
          (s.setPort e.1 { s.port e.1 with keep := false, drainSent := false, drainGot := false }).toPort e.1 .relock
        else s) { s with circuits := true }

/-- A held request under the final table (R444): sent, or not performed. -/
def State.releaseHeld (s : State) (r : RemoteOp) : State :=
  if s.peerUnreach r.target then s.loseRemote r true
  else
    ({ s with remotes := s.remotes.map fun o =>
        if o.target == r.target && o.opseq == r.opseq then { o with held := false, first := s.now, last := s.now } else o } : State).sendPacket
      r.pkt

/-- R442, R444, R518: the circuits are ready, and the last port of the change, if it has one, is up: the final table is installed, CHGEP counts
it, held packets are released. -/
def execChangeFinalInstall (s : State) : Host.Outcome State Fault Refusal :=
  event s fun s =>
    match s.change with
    | none => s
    | some ch =>
      if !s.circuits || !(ch.ports.all fun e => (s.port e.1).sends) then s
      else
        let s := { s.setTable ch.final with change := none, circuits := false, chgep := (s.chgep + 1) % 2 ^ 64 }
        let s := ch.ports.foldl (fun (s : State) e => s.setPort e.1 { s.port e.1 with planned := false, expectPeer := none }) s
        ((s.remotes.filter fun r => r.held).foldl (fun (s : State) (r : RemoteOp) => s.releaseHeld r) s).breakUnreach

end Sys2Proof.Machine
end

