-- ==== Sys2Proof/Machine/Mem.lean ====
section
/-! DEFINITION. Meanings of scalar loads and stores, atomics, pref and ldro (R219 to R228, R236). -/

namespace Sys2Proof.Machine

/-- The number that bytes spell, little-endian. -/
def bytesNat (bs : List PByte) : Nat := leNat (bs.map PByte.b)

/-- Load n bytes at an address into xd, extended by f; poison is that of the storage (R220). -/
def loadTo (n : Nat) (f : Nat → Word) (d : Reg) (addr : Nat) (s : State) : State × Res :=
  Got.bind (s.load s.cur.1 s.cur.2 addr n) fun s bs =>
    ((s.notePload s.cur.1 bs).setX d (f (bytesNat bs)) (bs.any PByte.p), .done)

/-- A scalar load: a poisoned base raises 0x51 (R217 check 1). -/
def memLoad (n : Nat) (f : Nat → Word) (d a : Reg) (off : BitVec 11) (s : State) : State × Res :=
  s.unlessPoison [a] fun s => loadTo n f d (s.addr a (immS off)) s

/-- A scalar store of the low n bytes of xb, whose poison goes with them (R220). -/
def memStore (n : Nat) (b a : Reg) (off : BitVec 11) (s : State) : State × Res :=
  s.unlessPoison [a] fun s =>
    Got.bind (s.store s.cur.1 s.cur.2 (s.addr a (immS off)) (pbytes n (s.x b).toNat (s.xp b))) fun s _ => (s, .done)

/-- Sign-extend n bytes. -/
def sextBytes (n v : Nat) : Word := Word.sext (BitVec.ofNat 64 v) (8 * n)

/-- R219, R220: loads 1 byte, sign-extended. -/
def execLdb (d a : Reg) (off : BitVec 11) (s : State) : Host.Outcome State Fault Refusal :=
  issue .plain 4 s (memLoad 1 (sextBytes 1) d a off)

/-- R219, R220: loads 2 bytes, sign-extended. -/
def execLdh (d a : Reg) (off : BitVec 11) (s : State) : Host.Outcome State Fault Refusal :=
  issue .plain 4 s (memLoad 2 (sextBytes 2) d a off)

/-- R219, R220: loads 4 bytes, sign-extended. -/
def execLdw (d a : Reg) (off : BitVec 11) (s : State) : Host.Outcome State Fault Refusal :=
  issue .plain 4 s (memLoad 4 (sextBytes 4) d a off)

/-- R219, R220: loads 8 bytes. -/
def execLdd (d a : Reg) (off : BitVec 11) (s : State) : Host.Outcome State Fault Refusal :=
  issue .plain 4 s (memLoad 8 (BitVec.ofNat 64) d a off)

/-- R219, R220: loads 1 byte. -/
def execLdbz (d a : Reg) (off : BitVec 11) (s : State) : Host.Outcome State Fault Refusal :=
  issue .plain 4 s (memLoad 1 (BitVec.ofNat 64) d a off)

/-- R219, R220: loads 2 bytes. -/
def execLdhz (d a : Reg) (off : BitVec 11) (s : State) : Host.Outcome State Fault Refusal :=
  issue .plain 4 s (memLoad 2 (BitVec.ofNat 64) d a off)

/-- R219, R220: loads 4 bytes. -/
def execLdwz (d a : Reg) (off : BitVec 11) (s : State) : Host.Outcome State Fault Refusal :=
  issue .plain 4 s (memLoad 4 (BitVec.ofNat 64) d a off)

/-- R219, R220: stores 1 byte. -/
def execStb (b a : Reg) (off : BitVec 11) (s : State) : Host.Outcome State Fault Refusal :=
  issue .plain 4 s (memStore 1 b a off)

/-- R219, R220: stores 2 bytes. -/
def execSth (b a : Reg) (off : BitVec 11) (s : State) : Host.Outcome State Fault Refusal :=
  issue .plain 4 s (memStore 2 b a off)

/-- R219, R220: stores 4 bytes. -/
def execStw (b a : Reg) (off : BitVec 11) (s : State) : Host.Outcome State Fault Refusal :=
  issue .plain 4 s (memStore 4 b a off)

/-- R219, R220: stores 8 bytes. -/
def execStd (b a : Reg) (off : BitVec 11) (s : State) : Host.Outcome State Fault Refusal :=
  issue .plain 4 s (memStore 8 b a off)

/-- A scalar atomic of 8 or 4 bytes (R228). -/
def scalarAmo (op : Nat) (dbl : Bool) (d a b : Reg) (s : State) : State × Res :=
  s.unlessPoison (if op == 9 then [d, a] else [a]) fun s =>
    let n := if dbl then 8 else 4
    let m := 2 ^ (8 * n)
    let g : AmoArg := { op := op, v := (s.x b).toNat % m, pv := s.xp b, cmp := (s.x d).toNat % m }
    Got.bind (s.atomic s.cur.1 s.cur.2 (s.x a).toNat n 0 g) fun s old =>
      (s.setX d (if dbl then BitVec.ofNat 64 (bytesNat old) else sextBytes 4 (bytesNat old)) (old.any PByte.p), .done)

/-- R227, R228: adds at the home. -/
def execAmoadd (dbl : Bool) (d a b : Reg) (s : State) : Host.Outcome State Fault Refusal :=
  issue .plain 4 s (scalarAmo 0 dbl d a b)

/-- R227, R228: ANDs at the home. -/
def execAmoand (dbl : Bool) (d a b : Reg) (s : State) : Host.Outcome State Fault Refusal :=
  issue .plain 4 s (scalarAmo 1 dbl d a b)

/-- R227, R228: ORs at the home. -/
def execAmoor (dbl : Bool) (d a b : Reg) (s : State) : Host.Outcome State Fault Refusal :=
  issue .plain 4 s (scalarAmo 2 dbl d a b)

/-- R227, R228: XORs at the home. -/
def execAmoxor (dbl : Bool) (d a b : Reg) (s : State) : Host.Outcome State Fault Refusal :=
  issue .plain 4 s (scalarAmo 3 dbl d a b)

/-- R227, R228: takes the lesser, signed at the home. -/
def execAmomin (dbl : Bool) (d a b : Reg) (s : State) : Host.Outcome State Fault Refusal :=
  issue .plain 4 s (scalarAmo 4 dbl d a b)

/-- R227, R228: takes the greater, signed at the home. -/
def execAmomax (dbl : Bool) (d a b : Reg) (s : State) : Host.Outcome State Fault Refusal :=
  issue .plain 4 s (scalarAmo 5 dbl d a b)

/-- R227, R228: takes the lesser, unsigned at the home. -/
def execAmominu (dbl : Bool) (d a b : Reg) (s : State) : Host.Outcome State Fault Refusal :=
  issue .plain 4 s (scalarAmo 6 dbl d a b)

/-- R227, R228: takes the greater, unsigned at the home. -/
def execAmomaxu (dbl : Bool) (d a b : Reg) (s : State) : Host.Outcome State Fault Refusal :=
  issue .plain 4 s (scalarAmo 7 dbl d a b)

/-- R227, R228: swaps at the home. -/
def execAmoswp (dbl : Bool) (d a b : Reg) (s : State) : Host.Outcome State Fault Refusal :=
  issue .plain 4 s (scalarAmo 8 dbl d a b)

/-- R227, R228: compares with xd and swaps at the home. -/
def execAmocas (dbl : Bool) (d a b : Reg) (s : State) : Host.Outcome State Fault Refusal :=
  issue .plain 4 s (scalarAmo 9 dbl d a b)

/-- R236: a hint that brings a line into the data cache (h = 0) or the far cache only (h = 1); it never faults and never waits. -/
def execPref (a : Reg) (h : Bool) (s : State) : Host.Outcome State Fault Refusal :=
  issue .plain 4 s fun s =>
    if s.xp a || h then (s, .done)
    else
      match s.check s.cur.1 (s.x a).toNat 1 .load false with
      | (r, .ok (.page va n t :: _)) =>
        if r.cacheable r.tk.cluster t then
          match r.loadLine r.cur.1 r.cur.2 va n t with
          | (q, .bytes _) => (q, .done)
          | _ => (r, .done)
        else (r, .done)
      | _ => (s, .done)

/-- The read-only replica that ldro may leave in the issuing die's far cache (R226). -/
def State.keepReplica (s : State) (addr : Nat) : State :=
  let k := s.tk
  match s.cached k.cluster k.ctx addr with
  | some t =>
    if t.host || leafPeer t.leaf || leafNoalloc t.leaf then s
    else
      let pa := leafPa t.leaf + (storeRange (leafFmt t.leaf) (addr % t.size) 8).1
      let r := (dieOf k.cluster, paKey pa / 128)
      if paDie pa == dieOf k.cluster || s.replicas.contains r then s else { s with replicas := s.replicas ++ [r] }
  | none => s

/-- R226: loads 8 bytes as ldd does; a line of the other die may stay as a replica, which always equals its home. -/
def execLdro (d a : Reg) (s : State) : Host.Outcome State Fault Refusal :=
  issue .plain 4 s fun s => s.unlessPoison [a] fun s =>
    let r := loadTo 8 (BitVec.ofNat 64) d (s.x a).toNat s
    match r.2 with
    | .done => (r.1.keepReplica (s.x a).toNat, .done)
    | _ => r

/-- R236: drains the write-through buffer. -/
def execWbf (s : State) : Host.Outcome State Fault Refusal :=
  issue .plain 4 s fun s => s.drainThen s.isStoreFault fun s => (s, .done)

end Sys2Proof.Machine
end

