-- ==== Sys2Proof/Machine/Vec.lean ====
section
/-! DEFINITION. The shared operations of vector instructions: lanes and active lanes (R190, R191), the B operand (R55, R194),
writing a vector under its predicate (R193) and a predicate (R192), poison of lanes (R195). -/

namespace Sys2Proof.Machine

/-- The width in bits of element type e, 0 for the packed types, which are no lane types (R56, R190). -/
def etBits (e : Nat) : Nat :=
  match e with
  | 0 => 8
  | 1 => 16
  | 2 => 32
  | 3 => 64
  | 4 => 8
  | 5 => 16
  | 6 => 32
  | 7 => 64
  | 8 => 16
  | 9 => 16
  | 10 => 32
  | 11 => 64
  | 12 => 8
  | 13 => 8
  | _ => 0

/-- A lane as it is read: its bits and its poison. -/
abbrev Lane1 := Nat × Bool

/-- Lane width of the instruction's element type (R190). -/
def laneW (f : VX) : Nat := etBits f.et.toNat
/-- Lanes of a vector register for the instruction's element type (R190). -/
def laneN (f : VX) : Nat := Config.vlen / laneW f
/-- Whether an element type code is an s type. -/
def etS (e : Nat) : Bool := e < 4

/-- The lanes of a vector register at width w, with the poison of their chunks (R118, R190). -/
def Thread.lanes (t : Thread) (r : Reg) (w : Nat) : List Lane1 :=
  (List.range (Config.vlen / w)).map fun i => (laneOf (t.vr r).toNat w i, t.vpr r (w * i / 64))

/-- Whether lane i of width w is active under a predicate (R191). -/
def laneOn (p : PReg) (w i : Nat) : Bool := p.getLsbD (i * (w / 8))

/-- Which lanes are active for the instruction. -/
def Thread.active (t : Thread) (f : VX) : List Bool := (List.range (laneN f)).map fun i => laneOn (t.pr f.pg.toNat) (laneW f) i

/-- The poison of the 16 chunks from the poison of lanes of width w (R193). -/
def chunksOf (w : Nat) (ps : List Bool) : BitVec 16 :=
  BitVec.ofNat 16 (((List.range 16).map fun k =>
    if (ps.drop (k * (64 / w))).take (64 / w) |>.any id then 2 ^ k else 0).sum)

/-- Write all lanes of a vector register. -/
def Thread.putLanes (t : Thread) (r : Reg) (w : Nat) (ls : List Lane1) : Thread :=
  t.setV r (BitVec.ofNat 1024 (ofLanes w (ls.map Prod.fst))) (chunksOf w (ls.map Prod.snd))

/-- What an inactive lane becomes: zero under ZM, else unchanged (R193). -/
def idle (f : VX) (old : Lane1) : Lane1 := if f.zm then (0, false) else old

/-- The lanes written under R193: a result where the lane is active, else the idle lane. -/
def governed (f : VX) (act : List Bool) (new old : List Lane1) : List Lane1 :=
  List.zipWith (fun a (p : Lane1 × Lane1) => if a then p.1 else idle f p.2) act (new.zip old)

/-- The lane bits that LIT32 gives (R55); bitwise says that a floating-point type only sets the width. -/
def litLane (et : Nat) (bitwise : Bool) (lit : BitVec 32) : Nat :=
  let w := etBits et
  if et < 4 then (lit.signExtend 64).toNat % 2 ^ w
  else if et < 8 || bitwise || et == 10 then lit.toNat % 2 ^ w
  else ((ffOf 10).convert (ffOf et) ⟨1, false, false⟩ lit.toNat).1

/-- The B operand's lanes of element type et: a vector, an x register given to every lane, or the literal (R194). -/
def Thread.bLanes (t : Thread) (f : VX) (et : Nat) (bitwise : Bool) (lit : Option (BitVec 32)) : List Lane1 :=
  let w := etBits et
  match lit with
  | some l => List.replicate (Config.vlen / w) (litLane et bitwise l, false)
  | none =>
    if f.xs then List.replicate (Config.vlen / w) ((t.xr f.vb).toNat % 2 ^ w, t.xpr f.vb) else t.lanes f.vb w

/-- The B operand of an instruction whose lanes are of its own type. -/
def Thread.bOwn (t : Thread) (f : VX) (lit : Option (BitVec 32)) : List Lane1 := t.bLanes f f.et.toNat false lit

/-- Write a vector result under R193 with the flags of active lanes (R92): per lane the value, its poison, its flags. -/
def vecResult (f : VX) (rs : List (Nat × Bool × Nat)) (s : State) : State × Res :=
  let t := s.thr
  let act := t.active f
  let ls := governed f act (rs.map fun r => (r.1, r.2.1)) (t.lanes f.vd (laneW f))
  let fl := orAll (List.zipWith (fun a (r : Nat × Bool × Nat) => if a then r.2.2 else 0) act rs)
  (s.setThr ((t.putLanes f.vd (laneW f) ls).orFlags fl), .done)

/-- A unary function of the B lanes. -/
def vec1 (g : Nat → Nat × Nat) (f : VX) (b : List Lane1) (s : State) : State × Res :=
  vecResult f (b.map fun y => let r := g y.1; (r.1, y.2, r.2)) s

/-- A function of the A and B lanes. -/
def vec2 (g : Nat → Nat → Nat × Nat) (f : VX) (b : List Lane1) (s : State) : State × Res :=
  vecResult f (List.zipWith (fun (x y : Lane1) => let r := g x.1 y.1; (r.1, x.2 || y.2, r.2)) (s.thr.lanes f.va (laneW f)) b) s

/-- A function of the A and B lanes and the lanes of a third register. -/
def vec3 (g : Nat → Nat → Nat → Nat × Nat) (f : VX) (b : List Lane1) (c : Reg) (s : State) : State × Res :=
  let t := s.thr
  vecResult f (List.zipWith (fun (x : Lane1) (yz : Lane1 × Lane1) =>
    let r := g x.1 yz.1.1 yz.2.1
    (r.1, x.2 || yz.1.2 || yz.2.2, r.2)) (t.lanes f.va (laneW f)) (b.zip (t.lanes c (laneW f)))) s

/-- A predicate of lane bits: bit i × s holds lane i's, every other bit is 0 (R192). -/
def predOf (w : Nat) (bs : List Bool) : PReg :=
  BitVec.ofNat 128 ((bs.zipIdx.map fun b => if b.1 then 2 ^ (b.2 * (w / 8)) else 0).sum)

/-- Write predicate pd under R192 with ZM as given. -/
def Thread.putPred (t : Thread) (pd w : Nat) (zm : Bool) (act new : List Bool) : Thread :=
  let old := (List.range (Config.vlen / w)).map fun i => laneOn (t.pr pd) w i
  t.setP pd (predOf w (List.zipWith (fun a (p : Bool × Bool) => if a then p.1 else !zm && p.2) act (new.zip old)))

/-- Write the predicate that VD names. -/
def predResult (f : VX) (rs : List Bool) (s : State) : State × Res :=
  let t := s.thr
  (s.setThr (t.putPred f.vd.toNat (laneW f) f.zm (t.active f) rs), .done)

/-- Whether an active lane is poisoned. -/
def anyPois (act : List Bool) (ls : List Lane1) : Bool := (List.zipWith (fun a (l : Lane1) => a && l.2) act ls).any id

/-- Raise 0x51 when an active lane of some operand is poisoned (R195). -/
def unlessLanePois (f : VX) (ops : List (List Lane1)) (k : State → State × Res) (s : State) : State × Res :=
  if ops.any (anyPois (s.thr.active f)) then (s, .fault 0x51 0 0) else k s

end Sys2Proof.Machine
end

