-- ==== Sys2Proof/Machine/VecMem.lean ====
section
/-! DEFINITION. Meanings of the vector loads, stores and atomics (R210 to R216). -/

namespace Sys2Proof.Machine

/-- The base address with the instruction's offset (R210). -/
def vecBase (f : VX) (s : State) : Word := s.x f.va + f.imm.signExtend 64

/-- The offset that a lane of vb gives: zero-extended for z types, sign-extended otherwise (R210). -/
def vecOff (f : VX) (v : Nat) : Word :=
  let e := f.et.toNat
  if 4 ≤ e && e < 8 then BitVec.ofNat 64 v else BitVec.ofNat 64 (ofInt 64 (toInt (laneW f) v))

/-- How a vector access forms the addresses of lanes (R210). -/
inductive VAddr where
  | unit
  | stride
  | index
  | once
  | packed

/-- The address of each lane. -/
def vecAddrs (m : VAddr) (f : VX) (s : State) : List Nat :=
  let b := vecBase f s
  let n := laneW f / 8
  match m with
  | .unit => (List.range (laneN f)).map fun i => (b + BitVec.ofNat 64 (i * n)).toNat
  | .stride => (List.range (laneN f)).map fun i => (b + BitVec.ofNat 64 i * s.x f.vb).toNat
  | .index => (s.thr.lanes f.vb (laneW f)).map fun l => (b + vecOff f l.1).toNat
  | .once => List.replicate (laneN f) b.toNat
  | .packed => (s.thr.active f).foldl (fun (r : List Nat × Nat) o =>
      (r.1 ++ [(b + BitVec.ofNat 64 (r.2 * n)).toNat], if o then r.2 + 1 else r.2)) ([], 0) |>.1

/-- Check 1 of R211: poisoned base, stride, or offset chunk of an active lane. -/
def vecPois (m : VAddr) (f : VX) (s : State) : Bool :=
  s.xp f.va || match m with
    | .stride => s.xp f.vb
    | .index => anyPois (s.thr.active f) (s.thr.lanes f.vb (laneW f))
    | _ => false

/-- The active lanes: lane, address, data and poison of vd. -/
def vecActive (m : VAddr) (f : VX) (s : State) : List (Nat × Nat × Lane1) :=
  (((vecAddrs m f s).zip ((s.thr.lanes f.vd (laneW f)).zip (s.thr.active f))).zipIdx.filter fun e => e.1.2.2).map
    fun e => (e.2, e.1.1, e.1.2.1)

/-- The outcome of the checks of a vector access. -/
inductive VChk where
  | ok (es : List (Nat × Nat × Lane1 × List Piece))
  | stop (r : Res)

/-- Check 2 of R211 on the active lanes in ascending order. -/
def vecCheck (k : Acc) (n : Nat) (es : List (Nat × Nat × Lane1)) (s : State) : State × VChk :=
  match es with
  | [] => (s, .ok [])
  | e :: es =>
    match s.check s.cur.1 e.2.1 n k false with
    | (s, .fault c a) => (s, .stop (.fault c a 0))
    | (s, .wait w) => (s, .stop (.wait w))
    | (s, .ok ps) =>
      match vecCheck k n es s with
      | (s, .ok rs) => (s, .ok ((e.1, e.2.1, e.2.2, ps) :: rs))
      | r => r

/-- Check 3 of R211: poisoned data to externally visible memory. -/
def vecDataCheck (k : Acc) (n : Nat) (s : State) (es : List (Nat × Nat × Lane1 × List Piece)) : Option (Nat × Nat) :=
  es.findSome? fun e => if e.2.2.1.2 then s.laterChecks k n true e.2.2.2 else none

/-- Check a vector access and go on with its lanes; without an active lane nothing is accessed (R211). -/
def vecAccess (k : Acc) (m : VAddr) (f : VX) (s : State)
    (go : State → List (Nat × Nat × Lane1 × List Piece) → State × Res) : State × Res :=
  let es := vecActive m f s
  if es.isEmpty then go s []
  else if vecPois m f s then (s, .fault 0x51 0 0)
  else
    match vecCheck k (laneW f / 8) es s with
    | (s, .stop r) => (s, r)
    | (s, .ok ls) =>
      match (if k == .load then none else vecDataCheck k (laneW f / 8) s ls) with
      | some (c, a) => (s, .fault c a 0)
      | none => go s ls

/-- Load lanes in ascending order: lane, value, poison. -/
def vecLoads (es : List (Nat × Nat × Lane1 × List Piece)) (s : State) : State × Got × List (Nat × Lane1) :=
  match es with
  | [] => (s, .bytes [], [])
  | e :: es =>
    match s.loadPieces s.cur.1 s.cur.2 e.2.2.2 with
    | (s, .bytes bs) =>
      match vecLoads es s with
      | (s, .bytes cs, ls) => (s, .bytes (bs ++ cs), (e.1, leNat (bs.map PByte.b), bs.any PByte.p) :: ls)
      | r => r
    | (s, g) => (s, g, [])

/-- Write the lanes that a load read; the other active lanes count as inactive (R193, R213). -/
def vecLoaded (f : VX) (ls : List (Nat × Lane1)) (s : State) : State :=
  let t := s.thr
  let new := (t.lanes f.vd (laneW f)).zipIdx.map fun e =>
    match ls.find? (fun l => l.1 == e.2) with
    | some l => l.2
    | none => idle f e.1
  s.setThr (t.putLanes f.vd (laneW f) new)

/-- A vector load. -/
def vecLoad (m : VAddr) (f : VX) (s : State) : State × Res :=
  vecAccess .load m f s fun s es =>
    match vecLoads es s with
    | (s, .bytes bs, ls) => (vecLoaded f ls (s.notePload s.cur.1 bs), .done)
    | (s, .wait w, _) => (s, .wait w)
    | (s, .fault c a, _) => (s, .fault c a 0)

/-- vldb: the element is read once and given to every active lane (R210). -/
def vecLoadOnce (f : VX) (s : State) : State × Res :=
  vecAccess .load .once f s fun s es =>
    match vecLoads (es.take 1) s with
    | (s, .bytes bs, ls) =>
      let v := (ls.head?.map Prod.snd).getD (0, false)
      (vecLoaded f (es.map fun e => (e.1, v)) (s.notePload s.cur.1 bs), .done)
    | (s, .wait w, _) => (s, .wait w)
    | (s, .fault c a, _) => (s, .fault c a 0)

/-- The lanes that vldff reads after its first: those before the first that would fault or whose page is not present. -/
def firstFault (n : Nat) (es : List (Nat × Nat × Lane1)) (s : State) : State × VChk :=
  match es with
  | [] => (s, .ok [])
  | e :: es =>
    match s.check s.cur.1 e.2.1 n .load false with
    | (s, .fault _ _) => (s, .ok [])
    | (s, .wait (.page _)) => (s, .ok [])
    | (s, .wait w) => (s, .stop (.wait w))
    | (s, .ok ps) =>
      match firstFault n es s with
      | (s, .ok rs) => (s, .ok ((e.1, e.2.1, e.2.2, ps) :: rs))
      | r => r

/-- The checks of vldff: its lowest active lane as a load's, the others as far as they go (R213). -/
def vecFirst (f : VX) (s : State) : State × VChk :=
  let n := laneW f / 8
  match vecActive .unit f s with
  | [] => (s, .ok [])
  | e :: es =>
    if vecPois .unit f s then (s, .stop (.fault 0x51 0 0))
    else
      match vecCheck .load n [e] s with
      | (s, .ok r) =>
        match firstFault n es s with
        | (s, .ok rs) => (s, .ok (r ++ rs))
        | q => q
      | q => q

/-- A load that stops before the first lane that would fault, and says in pf which lanes it read (R213). -/
def vecLoadFirst (f : VX) (s : State) : State × Res :=
  match vecFirst f s with
  | (s, .stop r) => (s, r)
  | (s, .ok es) =>
    match vecLoads es s with
    | (s, .bytes bs, ls) =>
      let s := vecLoaded f ls (s.notePload s.cur.1 bs)
      let on := (List.range (laneN f)).map fun i => ls.any fun l => l.1 == i
      (s.setThr (s.thr.setP f.vc.toNat (predOf (laneW f) on)), .done)
    | (s, .wait w, _) => (s, .wait w)
    | (s, .fault c a, _) => (s, .fault c a 0)

/-- A vector store: the highest lane wins where lanes overlap (R212). -/
def vecStore (m : VAddr) (f : VX) (s : State) : State × Res :=
  vecAccess .store m f s fun s es =>
    if es.isEmpty then (s, .done)
    else Got.bind (s.storeChecked s.cur.1 s.cur.2 (es.map fun e => (e.2.1, e.2.2.2, pbytes (laneW f / 8) e.2.2.1.1 e.2.2.1.2)))
      fun s _ => (s, .done)

/-- The tag under which a thread keeps the old value of a lane of its vector atomic while other lanes wait. -/
def amoTag (lane : Nat) : Nat := 2 ^ 80 + lane

/-- Whether a lane's line holds an active object: found before any lane is performed (R211, R230). -/
def State.amoBarred (s : State) (ps : List Piece) : Bool :=
  ps.any fun p => match p with
    | .win _ _ _ => false
    | .page va n t => (match s.home t va n with | .ready => s.lineActive (s.storageLines t va n) | _ => false)

/-- The places of storage that a lane's atomic acts on. -/
def State.lanePlace (s : State) (ps : List Piece) : List Nat :=
  match ps with
  | .page va n t :: _ => s.placeOf t va n
  | .win _ _ key :: _ => [key]
  | [] => []

/-- The lanes in the order in which they are performed: those to one location stand together, in ascending order, so that no other
access to it comes between them (R215). fuel bounds the lanes. -/
def State.amoOrder (s : State) (es : List (Nat × Nat × Lane1 × List Piece)) (fuel : Nat) : List (Nat × Nat × Lane1 × List Piece) :=
  match fuel, es with
  | 0, _ => []
  | _, [] => []
  | fuel + 1, e :: es =>
    let same (x : Nat × Nat × Lane1 × List Piece) : Bool := s.lanePlace x.2.2.2 == s.lanePlace e.2.2.2
    e :: es.filter same ++ s.amoOrder (es.filter fun x => !same x) fuel

/-- The one operand that has the effect of several on n bytes, for the operations of vector atomics (R214). -/
def amoJoin (op n : Nat) (vs : List Nat) : Nat :=
  match vs with
  | [] => 0
  | v :: vs => vs.foldl (fun a b => amoNew op n a b 0) v

/-- The first lane's operand at a home: with those of the later lanes of its location when the home is another module's, which
performs them from one request. -/
def State.laneOperand (s : State) (op : Nat) (e : Nat × Nat × Lane1 × List Piece) (es : List (Nat × Nat × Lane1 × List Piece)) : Nat :=
  match e.2.2.2 with
  | .page va n t :: _ =>
    match s.home t va n with
    | .remote _ _ _ => amoJoin op n (e.2.2.1.1 :: (es.filter fun x => s.lanePlace x.2.2.2 == s.lanePlace e.2.2.2).map fun x => x.2.2.1.1)
    | _ => e.2.2.1.1
  | _ => e.2.2.1.1

/-- The old value of the lane after x at the same location, when x's answer came from another module. -/
def State.laneAfter (s : State) (op : Nat) (x e : Nat × Nat × Lane1 × List Piece) (old : List PByte) : Option (List PByte) :=
  match e.2.2.2 with
  | .page va n t :: _ =>
    if s.remoteTr t && s.lanePlace x.2.2.2 == s.placeOf t va n then some (amoBytes ⟨op, x.2.2.1.1, x.2.2.1.2, 0⟩ old) else none
  | _ => none

/-- Perform the lanes of a vector atomic in the given order, each once (R215): prev is the lane before with its old value. -/
def vecAmosFrom (op : Nat) (prev : Option ((Nat × Nat × Lane1 × List Piece) × List PByte))
    (es : List (Nat × Nat × Lane1 × List Piece)) (s : State) : State × Got × List (Nat × Lane1) :=
  match es with
  | [] => (s, .bytes [], [])
  | e :: es =>
    let tag := amoTag e.1
    let r := match s.thr.gotAt tag, prev.bind (fun x => s.laneAfter op x.1 e x.2), e.2.2.2 with
      | some bs, _, _ => (s, Got.bytes bs)
      | none, some bs, _ => (s, .bytes bs)
      | none, none, p :: _ => s.atomicPiece s.cur.1 s.cur.2 tag p ⟨op, s.laneOperand op e es, e.2.2.1.2, 0⟩
      | none, none, [] => (s, .bytes [])
    match r with
    | (s, .bytes bs) =>
      let t := s.thr
      let s := if (t.gotAt tag).isSome then s else s.setThr { t with got := t.got ++ [(tag, bs)] }
      match vecAmosFrom op (some (e, bs)) es s with
      | (s, g, ls) => (s, g, (e.1, leNat (bs.map PByte.b), bs.any PByte.p) :: ls)
    | (s, g) => (s, g, [])

/-- Perform the lanes of a vector atomic (R215). -/
def vecAmos (op : Nat) (es : List (Nat × Nat × Lane1 × List Piece)) (s : State) : State × Got × List (Nat × Lane1) :=
  vecAmosFrom op none (s.amoOrder es es.length) s

/-- A vector atomic: vd supplies the operands and receives the old values (R214, R215). -/
def vecAmo (op : Nat) (f : VX) (s : State) : State × Res :=
  vecAccess .atomic .index f s fun s es =>
    match es.find? fun e => (s.thr.gotAt (amoTag e.1)).isNone && s.amoBarred e.2.2.2 with
    | some e => (s, .fault 0x64 e.2.1 0)
    | none =>
      match vecAmos op es s with
      | (s, .bytes _, ls) => (vecLoaded f ls s, .done)
      | (s, .wait w, _) => (s, .wait w)
      | (s, .fault c a, _) => (s, .fault c a 0)

/-- The operation of vamomin and vamomax: signed for s types, unsigned for z types. -/
def amoMinMax (f : VX) (sgn uns : Nat) : Nat := if etS f.et.toNat then sgn else uns

/-- R210: loads consecutive elements. -/
def execVld (f : VX) (s : State) : Host.Outcome State Fault Refusal := issue .barred 8 s (vecLoad .unit f)
/-- R210: loads elements at a stride. -/
def execVlds (f : VX) (s : State) : Host.Outcome State Fault Refusal := issue .barred 8 s (vecLoad .stride f)
/-- R210: loads elements at offsets. -/
def execVldx (f : VX) (s : State) : Host.Outcome State Fault Refusal := issue .barred 8 s (vecLoad .index f)
/-- R210: loads one element into every active lane. -/
def execVldb (f : VX) (s : State) : Host.Outcome State Fault Refusal := issue .barred 8 s (vecLoadOnce f)
/-- R213: loads lanes up to the first that would fault. -/
def execVldff (f : VX) (s : State) : Host.Outcome State Fault Refusal := issue .barred 8 s (vecLoadFirst f)
/-- R210: stores consecutive elements. -/
def execVst (f : VX) (s : State) : Host.Outcome State Fault Refusal := issue .barred 8 s (vecStore .unit f)
/-- R210: stores elements at a stride. -/
def execVsts (f : VX) (s : State) : Host.Outcome State Fault Refusal := issue .barred 8 s (vecStore .stride f)
/-- R210: stores elements at offsets. -/
def execVstx (f : VX) (s : State) : Host.Outcome State Fault Refusal := issue .barred 8 s (vecStore .index f)
/-- R210: stores the active lanes without gaps. -/
def execVstc (f : VX) (s : State) : Host.Outcome State Fault Refusal := issue .barred 8 s (vecStore .packed f)
/-- R214, R215: adds at the home. -/
def execVamoadd (f : VX) (s : State) : Host.Outcome State Fault Refusal := issue .barred 8 s (vecAmo 0 f)
/-- R214, R215: ORs at the home. -/
def execVamoor (f : VX) (s : State) : Host.Outcome State Fault Refusal := issue .barred 8 s (vecAmo 2 f)
/-- R214, R215: ANDs at the home. -/
def execVamoand (f : VX) (s : State) : Host.Outcome State Fault Refusal := issue .barred 8 s (vecAmo 1 f)
/-- R214, R215: takes the lesser at the home. -/
def execVamomin (f : VX) (s : State) : Host.Outcome State Fault Refusal := issue .barred 8 s (vecAmo (amoMinMax f 4 6) f)
/-- R214, R215: takes the greater at the home. -/
def execVamomax (f : VX) (s : State) : Host.Outcome State Fault Refusal := issue .barred 8 s (vecAmo (amoMinMax f 5 7) f)

end Sys2Proof.Machine
end

