-- ==== Sys2Proof/Machine/Page.lean ====
section
/-! DEFINITION. The steps of pages and leases: walks and expiries (R393, R399, R417), stores and accesses at their homes (R223, R228,
R401, R527), firmware's leaf stores and the reuse rule (R405, R406), ATS invalidations (R411) and dynamic capacity (R412). -/

namespace Sys2Proof.Machine

/-! ## Walks and expiries -/

/-- Whether some thread or copy of a cluster waits for a translation of the page of va (R417). -/
def State.walkAsked (s : State) (cl ctx va : Nat) : Bool :=
  (s.tasks.any fun t => t.2.cluster == cl && t.2.ctx == ctx && t.2.threads.any fun h => match h.2.st with
    | .waiting (.page a) => a.toNat / 4096 == va / 4096
    | .waiting .walker => true
    | _ => false)
  || (s.cluster cl).copies.any fun o => o.stall && (s.task o.tid).ctx == ctx

/-- R393, R417: a walk that some request of the cluster waits for. -/
def execPageWalk (cl ctx : Nat) (va : Word) (s : State) : Host.Outcome State Fault Refusal :=
  event s fun s =>
    if s.walkAsked cl ctx va.toNat && (regionOf va.toNat == .host || regionOf va.toNat == .dev) then
      (s.walkFor cl ctx va.toNat).1
    else s

/-- R399, R222, R281: translations and lines whose expiry has come are gone. -/
def execLeaseExpiry (cl : Nat) (s : State) : Host.Outcome State Fault Refusal :=
  event s fun s =>
    let now := s.clusterTime cl
    let c := s.cluster cl
    let s := s.setCluster cl { c with tlb := c.tlb.filter fun t => now < t.expiry }
    (List.range 16).foldl (fun s i =>
      let k := s.core (16 * cl + i)
      s.setCore (16 * cl + i) { k with
        dcache := k.dcache.filter (fun l => now < l.expiry), icache := k.icache.filter fun l => now < l.expiry }) s

/-! ## Accesses at their homes -/

/-- The task whose stores a core's slot holds: the running one, else one that has left with stores buffered. -/
def State.bufferOf (s : State) (core slot : Nat) : Option Nat :=
  let has (tid : Nat) : Bool := !(s.thread tid slot).wbuf.isEmpty
  match s.running core with
  | some tid => if has tid then some tid else left
  | none => left
where
  /-- A task that has left the core with stores in the slot's buffer. -/
  left : Option Nat :=
    (s.tasks.filter fun (t : Nat × Task) => t.2.core == core && !(t.2.thread slot).wbuf.isEmpty).head?.map Prod.fst

/-- R223: a buffered store goes to its homes. -/
def execStorePerform (core slot idx : Nat) (s : State) : Host.Outcome State Fault Refusal :=
  event s fun s =>
    match s.bufferOf core slot with
    | none => s
    | some tid =>
      match (s.thread tid slot).wbuf[idx]? with
      | some e => s.performEntry tid slot e.age
      | none => s

/-- R401, R527: what a home refused is translated again and reissued: a thread's buffered stores, and the page that it waits on. -/
def execAccessReissue (core slot : Nat) (s : State) : Host.Outcome State Fault Refusal :=
  event s fun s =>
    let s := match s.bufferOf core slot with
      | some tid => (s.thread tid slot).wbuf.foldl (fun (s : State) (e : BufStore) =>
          if e.parts.any fun p => p.tr.expiry ≤ s.now + p.tr.skew then s.performEntry tid slot e.age else s) s
      | none => s
    match s.running core with
    | some tid =>
      match (s.thread tid slot).st with
      | .waiting (.page va) => (s.walkFor (clusterOf core) (s.task tid).ctx va.toNat).1
      | _ => s
    | none => s

/-- The atomic that a waiting thread holds, from its words (R227, R214). -/
def heldAtomic (w0 w1 : Nat) : Option (Nat × (State → State × Res)) :=
  let fn := w0 / 2 ^ 23
  if w0 % 256 == 0x50 && 2 ≤ fn % 4 && fn / 4 ≤ 9 then
    some (4, scalarAmo (fn / 4) (bitAt w0 23) (rD w0) (rA w0) (rB w0))
  else if w0 % 256 == 0xAD then
    let f := vxOf w0 w1
    match w0 / 2 ^ 27 with
    | 0 => some (8, vecAmo 0 f)
    | 1 => some (8, vecAmo 2 f)
    | 2 => some (8, vecAmo 1 f)
    | 3 => some (8, vecAmo (amoMinMax f 4 6) f)
    | 4 => some (8, vecAmo (amoMinMax f 5 7) f)
    | _ => none
  else none

/-- R215, R228: the atomic that a thread waits to have performed takes its turn at its home. -/
def execAtomicAtHome (core slot : Nat) (s : State) : Host.Outcome State Fault Refusal :=
  event s fun s =>
    match s.running core with
    | none => s
    | some tid =>
      match (s.thread tid slot).held with
      | some (w0, w1, _) =>
        match heldAtomic w0 w1 with
        | some (len, f) => s.resumeAs tid slot len f
        | none => s
      | none => s

/-! ## Firmware's page tables (R405, R406) -/

/-- Whether a store of new over an entry revokes it (R405). -/
def revokes (old new : Word) : Bool :=
  leafPres old && (!leafPres new || (leafRdp old && !leafRdp new) || (leafWrp old && !leafWrp new) || (leafExp old && !leafExp new)
    || (!leafMig old && leafMig new) || (!leafPoi old && leafPoi new) || leafPa old != leafPa new || leafFmt old != leafFmt new
    || leafTol old != leafTol new || leafPeer old != leafPeer new || leafConf old != leafConf new)

/-- The wait L + 2S of the reuse rule (R405): cls and peer are the class and the kind of the page whose entry is a node pointer. -/
def reuseWait (old : Word) (cls : Nat) (peer : Bool) : Nat :=
  max (leaseNs (leafLease old)) (leaseNs cls) + 2 * (if peer || leafPeer old then 40 else 8)

/-- A synchronisation object follows its page to the frame that ends a migration (R229, R408): its offset in the page, of either size, stays. -/
def SyncObj.moved (o : SyncObj) (old new : Word) : SyncObj :=
  let va := o.va.toNat
  if o.key == paKey (leafPa old + va % 2 ^ 16) then { o with key := paKey (leafPa new + va % 2 ^ 16) }
  else if o.key == paKey (leafPa old + va % 2 ^ 29) then { o with key := paKey (leafPa new + va % 2 ^ 29) }
  else o

/-- Whether a store of new over an entry ends a migration. -/
def endsMove (old new : Word) : Bool :=
  leafPres old && leafPres new && leafMig old && !leafMig new && !leafPeer old && !leafPeer new && leafPa old != leafPa new

/-- Whether a store of new over an entry begins a migration: it sets MIG and leaves the page at its frame (R408). -/
def beginsMove (old new : Word) : Bool := leafPres old && leafPres new && !leafMig old && leafMig new && leafPa old == leafPa new

/-- The frames that wait for reuse after a store of new over an entry (R405, R408): the store that ends a migration revokes no further frame,
since the old one waits since MIG was set; one that ends it in another way gives up the copy. -/
def reuseAfter (rs : List Reuse) (old new : Word) (at_ ctx : Nat) : List Reuse :=
  if endsMove old new then rs
  else
    let rs := if leafPres old && leafMig old && !leafMig new then rs.filter fun r => !(r.copy && r.pa == leafPa old && r.ctx == ctx) else rs
    if revokes old new then rs ++ [⟨leafPa old, at_, ctx, beginsMove old new⟩] else rs

/-- R405, R406: firmware stores an entry of a page table, at once and visible to every later walk; a revoked frame waits for reuse, and
objects follow a page that has migrated. -/
def execFirmwareLeafStore (ctx pa : Nat) (val : Word) (cls : Nat) (peer : Bool) (s : State) : Host.Outcome State Fault Refusal :=
  event s fun s =>
    if pa % 8 != 0 || 2 ^ 42 ≤ pa then s
    else
      let old := BitVec.ofNat 64 (leNat ((s.mem.readSp .dev pa 8).map PByte.b))
      { (s.dropReplicas (linesOf pa 8)) with
        mem := s.mem.writeSp .dev pa (pbytes 8 val.toNat false) 1
        objs := if endsMove old val then s.objs.map fun o => o.moved old val else s.objs
        reuse := reuseAfter s.reuse old val (s.now + reuseWait old (min cls 14) peer) ctx }

/-- R405, R408: the wait of a revoked frame has passed, and the raw copy of a page that migrates has retired. -/
def execFrameReuseWaitElapsed (idx : Nat) (s : State) : Host.Outcome State Fault Refusal :=
  event s fun s =>
    match s.reuse[idx]? with
    | some r => if r.at_ ≤ s.now && !r.copy then { s with reuse := s.reuse.eraseIdx idx } else s
    | none => s

/-! ## The host half (R410 to R412) -/

/-- To the host: an ATS Invalidation Completion (R411), an acknowledged release (R412). -/
def msgAtsDone : Nat := 5
/-- The acknowledgement of a release (R412). -/
def msgReleased : Nat := 6

/-- R411: an ATS Invalidation Request arrives; it is answered after L(HLEASE.CLASS) + 16 ns. -/
def execAtsInvalidationRequest (va : Word) (len : Nat) (s : State) : Host.Outcome State Fault Refusal :=
  event s fun s => { s with ats := s.ats ++ [⟨va.toNat, len, s.now + leaseNs s.hlease + 16⟩] }

/-- Whether a translation of a host page in a range may still be used. -/
def State.hostUsable (s : State) (va len : Nat) (t : Trans) : Bool :=
  t.host && s.now + t.skew < t.expiry && rangesMeet va len (t.page * t.size) t.size

/-- Whether every access that a cached translation of a host range allowed has been sent: no cluster keeps one, no buffered store and no copy
unit can be performed under one (R411). -/
def State.atsQuiet (s : State) (va len : Nat) : Bool :=
  !(s.clusters.any fun c => c.2.tlb.any (s.hostUsable va len) || c.2.copies.any fun o => o.trs.any (s.hostUsable va len))
    && !(s.tasks.any fun t => t.2.threads.any fun h => h.2.wbuf.any fun e => e.parts.any fun p => s.hostUsable va len p.tr)

/-- R411: the device answers an invalidation whose time has come, once the accesses that it covers have been sent. -/
def execAtsInvalidationCompletion (idx : Nat) (s : State) : Host.Outcome State Fault Refusal :=
  event s fun s =>
    match s.ats[idx]? with
    | some a =>
      if a.at_ ≤ s.now && s.atsQuiet a.va a.len then ({ s with ats := s.ats.eraseIdx idx } : State).send 0 msgAtsDone [a.va, a.len] else s
    | none => s

/-- The Modified lines of an extent are written back: host memory has what the device stored. -/
def State.writeBack (s : State) (va len : Nat) : State :=
  { s with hostMod := s.hostMod.filter fun h => !rangesMeet h.va 64 va len }

/-- The Modified lines of an extent are discarded: host memory keeps what it had. -/
def State.discard (s : State) (va len : Nat) : State :=
  let gone := s.hostMod.filter fun h => rangesMeet h.va 64 va len
  { s with mem := gone.foldl (fun m h => m.write h.key h.bytes) s.mem, hostMod := s.hostMod.filter fun h => !rangesMeet h.va 64 va len }

/-- R412: a release notice: the extent is no longer translated, its Modified lines are written back, the release is acknowledged. -/
def execDcdReleaseNotice (va : Word) (len : Nat) (s : State) : Host.Outcome State Fault Refusal :=
  event s fun s => (({ s with dcdGone := s.dcdGone ++ [(va.toNat, len)] } : State).writeBack va.toNat len).send 0 msgReleased [va.toNat, len]

/-- Insert an extent by its base. -/
def extInsert (xs : List (Nat × Nat)) (x : Nat × Nat) : List (Nat × Nat) :=
  xs.filter (fun y => y.1 ≤ x.1) ++ x :: xs.filter fun y => x.1 < y.1

/-- The smallest gap between neighbours of a list of extents. -/
def leastGap : List (Nat × Nat) → Nat
  | x :: y :: xs => min (y.1 - (x.1 + x.2)) (leastGap (y :: xs))
  | _ => 2 ^ 64

/-- Merge the first neighbours whose gap is g (R412: firmware merges adjacent entries). -/
def mergeAt (g : Nat) : List (Nat × Nat) → List (Nat × Nat)
  | x :: y :: xs => if y.1 - (x.1 + x.2) == g then (x.1, max (x.1 + x.2) (y.1 + y.2) - x.1) :: xs else x :: mergeAt g (y :: xs)
  | xs => xs

/-- R412: a forced release: the extent's Modified lines are discarded, and it joins the host poison list of 16 entries. -/
def execDcdForcedRelease (va : Word) (len : Nat) (s : State) : Host.Outcome State Fault Refusal :=
  event s fun s =>
    let xs := extInsert s.hostPoison (va.toNat, len)
    ({ s with hostPoison := if 16 < xs.length then mergeAt (leastGap xs) xs else xs } : State).discard va.toNat len

end Sys2Proof.Machine
end

