-- ==== Sys2Proof/Machine/Health.lean ====
section
/-! DEFINITION. Reliability and heat: errors (R454, R459), the host's accesses and the link's failure (R397, R458, R464, R465), withdrawn units
(R461 to R463), the stacks' thermal states, losses and controllers (R466 to R472). -/

namespace Sys2Proof.Machine

/-! ## The host link (R397, R458, R464, R465) -/

/-- To the host: data of a CXL.mem read, each byte with 256 added when it is poisoned; the answer of a refused access is empty. -/
def msgMemData : Nat := 12
/-- To the host: the viral indication on the link (R464). -/
def msgViral : Nat := 13
/-- To the PSC: the MGC's report of containment (R465). -/
def msgContained : Nat := 19

/-- The entry of a node as storage holds it, whatever state its stack is in. -/
def State.entryAt (s : State) (sp : Space) (a : Nat) : Word := BitVec.ofNat 64 (leNat ((s.mem.readSp sp a 8).map PByte.b))

/-- Whether a present leaf with CONF maps storage that meets n bytes at pa. -/
def State.confLeaf (s : State) (e : Word) (size pa n : Nat) : Bool :=
  leafPres e && leafConf e && s.spaceOf e == .dev && rangesMeet pa n (targetPa e) (size / 65536 * frameBytes (leafFmt e))

/-- Whether some leaf below a node of a level maps with CONF storage that meets n bytes at pa (R391 to R393). -/
def State.confUnder (s : State) (level : Nat) (sp : Space) (node pa n : Nat) : Bool :=
  match level with
  | 0 => (List.range 8192).any fun i => let e := s.entryAt sp (node + 8 * i); leafFmt e != 15 && s.confLeaf e (2 ^ 16) pa n
  | l + 1 => (List.range 8192).any fun i =>
      let e := s.entryAt sp (node + 8 * i)
      leafPres e && (if l == 0 && leafFmt e != 15 then s.confLeaf e (2 ^ 29) pa n
        else s.confUnder l (s.spaceOf e) (targetPa e) pa n)

/-- The other address of a byte of device memory (R28). -/
def paAlias (pa : Nat) : Nat :=
  let o := paKey pa % 2 ^ 36
  if pa < 2 ^ 39 then 2 ^ 39 + paStack pa * 2 ^ 36 + o else o / 4096 * 32768 + paStack pa * 4096 + o % 4096

/-- The addresses in both regions of n bytes at pa, page by page; fuel bounds the pages. -/
def aliasRanges (pa n fuel : Nat) : List (Nat × Nat) :=
  match fuel with
  | 0 => []
  | fuel + 1 =>
    let m := min n (4096 - pa % 4096)
    if n == 0 then [] else (pa, m) :: (paAlias pa, m) :: aliasRanges (pa + m) (n - m) fuel

/-- Whether the host is refused n bytes at pa: a confidential context maps their storage with CONF (R397). -/
def State.confFrame (s : State) (pa n : Nat) : Bool :=
  (List.range 64).any fun c =>
    let k := s.ctx c
    k.st != .free && bitAt k.desc.flags 0
      && (aliasRanges pa n (n / 4096 + 2)).any fun r => s.confUnder 2 .dev k.desc.root r.1 r.2

/-- Whether firmware has selected n bytes at pa for CXL.mem (R40; log entry 109). -/
def State.isExposed (s : State) (pa n : Nat) : Bool := s.exposed.any fun r => r.1 ≤ pa && pa + n ≤ r.1 + r.2

/-- The first stack in SELF that an access of the host meets (R468). -/
def State.hostStack (s : State) (pa n : Nat) : Option Nat := (stacksOf pa n).find? fun k => (s.stack k).th == .self && !(s.stack k).lost

/-- Whether an access of the host is held by a stack in SELF (R468). -/
def State.hostHeld (s : State) (pa n : Nat) : Bool := (s.hostStack pa n).isSome

/-- An access of the host joins those that a stack in SELF holds; one like it that is held already is another access. -/
def State.holdHost (s : State) (pa n : Nat) (m : Move) : State :=
  match s.hostStack pa n with
  | some k => s.setStack k { s.stack k with held := (s.stack k).held ++ [m] }
  | none => s

/-- A host read: refused before READY (R33) and of memory that is not selected (R40), all ones with poison of a confidential frame (R397),
poison in containment (R464); a stack in SELF holds it until it leaves SELF (R468). -/
def State.hostRead (s : State) (pa len : Nat) : State :=
  let word (b : PByte) : Nat := b.b.toNat + (if b.p then 256 else 0)
  if !s.ready || s.linkBad || 2 ^ 40 < pa + len then s.send 0 msgMemData []
  else if s.confFrame pa len || (s.contained && !s.isExposed pa len) then s.send 0 msgMemData (pa :: List.replicate len 511)
  else if !s.isExposed pa len then s.send 0 msgMemData []
  else if s.contained then s.send 0 msgMemData (pa :: (s.paBytes pa len).map fun b => word ⟨b.b, true⟩)
  else if s.hostHeld pa len then s.holdHost pa len (.hostRead pa len)
  else s.send 0 msgMemData (pa :: (s.paBytes pa len).map word)

/-- R397, R458, R464, R468, R470: a host read. -/
def execCxlMemRead (pa len : Nat) (s : State) : Host.Outcome State Fault Refusal := event s fun s => s.hostRead pa len

/-- A host write (R455, R458): one to a confidential frame (R397), to memory that is not selected, to a lost stack, or in containment is
discarded; a stack in SELF holds it (R468). -/
def State.hostStore (s : State) (pa : Nat) (data : List Byte) (poison : Bool) : State :=
  let n := data.length
  if !s.ready || s.linkBad || s.contained || n == 0 || 2 ^ 40 < pa + n || !s.isExposed pa n || s.confFrame pa n then s
  else if s.hostHeld pa n then s.holdHost pa n (.hostWrite pa data poison)
  else if (stacksOf pa n).any fun k => (s.stack k).lost then s
  else { s.dropReplicas (linesOf pa n) with mem := s.mem.writeSp .dev pa (data.map fun b => ⟨b, poison⟩) (n / 4096 + 2) }

/-- R397, R455, R458, R468: a host write. -/
def execCxlMemWrite (pa : Nat) (data : List Byte) (poison : Bool) (s : State) : Host.Outcome State Fault Refusal :=
  event s fun s => s.hostStore pa data poison

/-- Containment begins (R464, R465): viral is signalled, no Modified line of the host half is written back any more, and the MGC reports
it. -/
def State.contain (s : State) : State :=
  if s.contained then s else ((({ s with contained := true } : State).discard 0 (2 ^ 55)).send 0 msgViral []).send 1 msgContained []

/-- R464, R465: a fatal error of the host link. -/
def execHostLinkFatalError (s : State) : Host.Outcome State Fault Refusal := event s State.contain

/-- R465: a CXL reset ends containment and every context. -/
def execCxlReset (s : State) : Host.Outcome State Fault Refusal :=
  event s fun s =>
    let s := { s with contained := false, linkUp := false, linkBad := false }
    (List.range 64).foldl (fun (s : State) c =>
      match (s.ctx c).st with
      | .free => s
      | .teardown => s
      | .building => s.setCtx c { s.ctx c with st := .free }
      | _ => s.endContext c) s

/-! ## The mailboxes of a stack's controller (R472) -/

/-- STATE of a message. -/
def Stack.stateCode (st : Stack) : Nat := if st.lost then 3 else match st.th with | .normal => 0 | .doubled => 1 | .self => 2

/-- Whether a message is of a type that is never withheld: 2, an uncorrectable error, or 6, a lost stack. -/
def urgentMsg (m : StackMsg) : Bool := m.ty == 2 || m.ty == 6

/-- A message goes into the mailbox to the PSC, of 64 entries; while that is full, the controller keeps the newest summary of each type, and an
urgent message takes the place of the oldest summary in it (log entry 120). -/
def Stack.post (st : Stack) (m : StackMsg) : Stack :=
  if st.mbox.length < 64 then { st with mbox := st.mbox ++ [m] }
  else if urgentMsg m then
    match st.mbox.find? fun (x : StackMsg) => !urgentMsg x with
    | some x =>
      { st with
        mbox := (st.mbox.erase x) ++ [m]
        kept := if st.kept.any fun y => y.ty == x.ty then st.kept else x :: st.kept }
    | none => { st with kept := st.kept ++ [m] }
  else { st with kept := (st.kept.filter fun (x : StackMsg) => x.ty != m.ty) ++ [m] }

/-- The PSC has taken the oldest message: what the controller kept takes its place. -/
def Stack.taken (st : Stack) : Stack :=
  match st.kept with
  | [] => { st with mbox := st.mbox.drop 1 }
  | m :: ms => { st with mbox := st.mbox.drop 1 ++ [m], kept := ms }

/-- A stack's controller reports an event at a physical address, or at none. -/
def State.stackReport (s : State) (k ty count pa : Nat) : State :=
  let st := s.stack k
  s.setStack k (st.post { ty := ty, stack := k, count := count, pa := pa, ctime := s.now, temp := st.temp, state := st.stateCode })

/-- To the MGCs and to the fabric manager: a message that the PSC passes on (R472). -/
def msgSummary : Nat := 20

/-- The PSC takes the oldest message of a controller and passes it to the MGCs and the fabric manager as its image says. -/
def State.mailboxTake (s : State) (k : Nat) (mgc manager : Bool) : State :=
  match (s.stack k).mbox with
  | [] => s
  | m :: _ =>
    let s := s.setStack k (s.stack k).taken
    let data := [m.ty, m.stack, m.count, m.pa, m.ctime, ofInt 16 m.temp, m.state]
    let s := if mgc then s.send 1 msgSummary data else s
    if manager then s.send 2 msgSummary data else s

/-- R472: a controller's message to the PSC. -/
def execStackMailboxMessage (k : Nat) (m : StackMsg) (s : State) : Host.Outcome State Fault Refusal :=
  event s fun s =>
    if m.ty == 0 || 8 ≤ m.ty || 8 ≤ k then s
    else s.setStack k ((s.stack k).post { m with stack := k, count := satTo 65535 m.count })

/-! ## Rows (R471) -/

/-- The span in which a row's corrected errors count: 24 hours. -/
def dayNs : Nat := 86400000000000

/-- The physical address, in region 1, of a key of a stack (R28). -/
def keyPa (key : Nat) : Nat := 2 ^ 39 + key % 2 ^ 39

/-- An error in a codeword of a stack is noted in its row and reported: type 1 when it was corrected, type 2 when not (R459, R471, R472). -/
def State.rowError (s : State) (key : Nat) (corrected : Bool) : State :=
  let k := key / 2 ^ 36
  let st := s.stack k
  let row := Config.rowOf key
  let e := AMap.get st.rows row ([], 0)
  let e := if corrected then ((e.1.filter fun t => s.now < t + dayNs) ++ [s.now], e.2) else (e.1, e.2 + 1)
  (s.setStack k { st with rows := AMap.put st.rows row e }).stackReport k (if corrected then 1 else 2) 1 (keyPa key)

/-- Whether a row is to be repaired: 4 corrected errors in 24 hours, or 1 uncorrectable error. -/
def State.rowDue (s : State) (k row : Nat) : Bool :=
  let e := AMap.get (s.stack k).rows row ([], 0)
  4 ≤ (e.1.filter fun t => s.now < t + dayNs).length || 1 ≤ e.2

/-- Fewer than 64 spare rows are reported. -/
def State.reportSpares (s : State) (k : Nat) : State := if (s.stack k).spares < 64 then s.stackReport k 4 1 0 else s

/-- R471: a row that is due moves into a spare, if one is left; no value changes. -/
def execRowRepair (k row : Nat) (s : State) : Host.Outcome State Fault Refusal :=
  event s fun s =>
    let st := s.stack k
    if st.lost || st.spares == 0 || !s.rowDue k row then s
    else
      ((s.setStack k { st with spares := st.spares - 1, repaired := natInsert st.repaired row, rows := AMap.erase st.rows row }).stackReport
        k 3 1 0).reportSpares k

/-! ## Errors (R454, R459) -/

/-- Poison granules. -/
def Memory.poison (m : Memory) (gs : List Nat) : Memory := { m with pois := gs.foldl natInsert m.pois }

/-- R454: an uncorrectable error at a byte of storage, by its key: in a stack the granules of the codeword's 64 data bytes, in the far cache
and elsewhere the granule; a code of a phase bank poisons the bank (R459). -/
def execUncorrectableMemoryError (err : MemError) (s : State) : Host.Outcome State Fault Refusal :=
  event s fun s =>
    let key := err.key
    let i := key / 2 ^ 64
    if key < 2 ^ 39 && !err.far then
      ({ s with mem := s.mem.poison ((List.range 8).map fun j => key / 64 * 8 + j) } : State).rowError key false
    else if 2 ^ 39 ≤ key && i < 2000 then s
    else if 12000 ≤ i && i < 12000 + 1536 then
      let cl := (i - 12000) / 16
      let b := (i - 12000) % 16
      let c := s.cluster cl
      if bitAt c.loaded b && !bitAt c.bankPois b then s.setCluster cl { c with bankPois := c.bankPois + 2 ^ b } else s
    else { s with mem := s.mem.poison [key / 8] }

/-- A thread takes 0x53 where it stands, also while it waits; one that a debug stop holds is stopped once it is released; of one that another
fault has stopped, the record becomes that of 0x53 (log entry 77). -/
def State.parityFault (s : State) (tid slot : Nat) : State :=
  let t := s.thread tid slot
  let now (s : State) : State := { ({ s with curW := (0, 0, 0) } : State).takeFault tid slot 0x53 0 0 0 0 with curW := s.curW }
  let gone (s : State) : State := s.withdrawObj fun r => r.1 == tid && r.2.1 == slot
  match t.st with
  | .ready => now s
  | .waiting _ => gone (s.faultHeld tid slot 0x53 0 0 0 0)
  | .stopped => if t.frec.isSome then now s else s
  | .debug =>
    let s := if t.held.isSome then s.faultHeld tid slot 0x53 0 0 0 0 else now s
    gone (s.setThread tid slot { s.thread tid slot with st := .debug, prior := .stopped })
  | _ => s

/-- A parity error in a thread's state: poison where the register has a poison bit, else 0x53 (R454). -/
def State.stateError (s : State) (tid slot : Nat) (what : ParityAt) : State :=
  let t := s.thread tid slot
  match what with
  | .x r => if r % 32 == 0 then s else s.setThread tid slot { t with xp := setBit t.xp (r % 32) true }
  | .v r c => s.setThread tid slot { t with vp := setBit t.vp (16 * (r % 32) + c % 16) true }
  | .bare => s.parityFault tid slot

/-- R454: a parity error in a register of a thread on a core: poison where the register has a poison bit, else 0x53. -/
def execRegisterParityError (core slot : Nat) (what : ParityAt) (s : State) : Host.Outcome State Fault Refusal :=
  event s fun s =>
    match s.running core with
    | none => s
    | some tid =>
      if !(s.thread tid slot).live || 16 ≤ slot then s else s.stateError tid slot what

/-- A corrected error of a core is counted (R459, R475). -/
def State.countCorrected (s : State) (core : Nat) : State :=
  s.setCore core { s.core core with corr := satTo 65535 ((s.core core).corr + 1) }

/-- R459, R475: a corrected error of a core is counted. -/
def execCorrectedError (core : Nat) (s : State) : Host.Outcome State Fault Refusal :=
  event s fun s => s.countCorrected core

/-- A parity error in a line of a core's data or instruction cache: the line is dropped, and fetched again from its home when it is needed
(R454, R459). -/
def State.cacheParity (s : State) (core idx : Nat) (code : Bool) : State :=
  let c := s.core core
  if idx < (if code then c.icache else c.dcache).length then
    (s.setCore core (if code then { c with icache := c.icache.eraseIdx idx } else { c with dcache := c.dcache.eraseIdx idx })).countCorrected core
  else s

/-! ## Withdrawn units (R461 to R463) -/

/-- Set bits of WDMAP. -/
def State.withdraw (s : State) (bs : List Nat) : State :=
  { s with wdmap := bs.foldl (fun (w : BitVec 256) i => setBit w i true) s.wdmap }

/-- A cluster is withdrawn with its OMU: its tasks are marked for killing. -/
def State.withdrawCluster (s : State) (c : Nat) : State :=
  let s := (s.withdraw [c, 96 + c]).omuLoss c
  { s with tasks := s.tasks.map fun (t : Nat × Task) =>
      if t.2.place != .none && t.2.cluster == c && t.2.alive then (t.1, { t.2 with killing := true }) else t }

/-- The number under which the faults of a unit are counted. -/
def unitKey (kind : UnitKind) (idx : Nat) : Nat :=
  match kind with
  | .cluster => 8 * idx
  | .core => 8 * idx + 1
  | .omu => 8 * idx + 2
  | .dce => 8 * idx + 3
  | .stack => 8 * idx + 4

/-- The unit of such a number. -/
def unitOf (n : Nat) : UnitKind × Nat :=
  (match n % 8 with | 0 => .cluster | 1 => .core | 2 => .omu | 3 => .dce | _ => .stack, n / 8)

/-- A cluster or core shows a hard fault, or a decomposition engine fails its self-test (R461): it is counted. -/
def State.unitFault (s : State) (kind : UnitKind) (idx : Nat) : State :=
  let i := unitKey kind idx
  { s with unitFaults := AMap.put s.unitFaults i (AMap.get s.unitFaults i 0 + 1) }

/-- Whether an optical matrix unit is to be withdrawn: its thermal loop has not locked for 100 ms, or the probe of every bank that is loaded
failed at the bank's phtrim (R461). -/
def State.omuDue (s : State) (c : Nat) : Bool :=
  let u := s.cluster c
  (match u.unlockAt with | some t => u.thermal && t + 100000000 ≤ s.now | none => false)
    || (u.loaded != 0 && (List.range 16).all fun b => !bitAt u.loaded b || bitAt u.trimBad b)

/-- Whether firmware withdraws a unit (R461): a cluster or core whose hard fault has come again after one retry, a matrix unit, an engine that
fails its self-test, a lost stack. -/
def State.withdrawDue (s : State) (kind : UnitKind) (idx : Nat) : Bool :=
  let n := AMap.get s.unitFaults (unitKey kind idx) 0
  match kind with
  | .cluster => idx < 96 && 2 ≤ n
  | .core => idx < 1536 && 2 ≤ n
  | .omu => idx < 96 && s.omuDue idx
  | .dce => idx < 16 && 1 ≤ n
  | .stack => idx < 8 && (s.stack idx).lost

/-- R461 to R463: firmware withdraws a unit that is to be withdrawn. WDMAP has no bit for a core: its cluster goes (log entry 30). -/
def execUnitWithdraw (kind : UnitKind) (idx : Nat) (s : State) : Host.Outcome State Fault Refusal :=
  event s fun s =>
    if !s.withdrawDue kind idx then s
    else match kind with
    | .cluster => s.withdrawCluster idx
    | .core => s.withdrawCluster (clusterOf idx)
    | .omu => (s.withdraw [96 + idx]).omuLoss idx
    | .dce => s.withdraw [192 + idx]
    | .stack => s.withdraw [208 + idx]

/-! ## Stacks (R466 to R472) -/

/-- The accesses that a stack held are performed next, in arrival order (R468). -/
def State.runHeld (s : State) (k : Nat) : State :=
  let st := s.stack k
  { s.setStack k { st with held := [] } with agenda := st.held ++ s.agenda }

/-- Whether a present leaf maps a page whose storage lies wholly in stack k. -/
def State.wholeLeaf (s : State) (e : Word) (size k : Nat) : Bool :=
  leafPres e && s.spaceOf e == .dev && (stacksOf (targetPa e) (size / 65536 * frameBytes (leafFmt e))).all (· == k)

/-- The places of the leaves below a node of a level whose pages lie wholly in stack k (R391 to R393), as far as this module's memory holds
them. -/
def State.leavesOn (s : State) (level : Nat) (sp : Space) (node k : Nat) : List Nat :=
  match level with
  | 0 => ((List.range 8192).map fun i => node + 8 * i).filter fun a =>
      let e := s.entryAt sp a
      sp == .dev && leafFmt e != 15 && s.wholeLeaf e (2 ^ 16) k
  | l + 1 => (List.range 8192).flatMap fun i =>
      let e := s.entryAt sp (node + 8 * i)
      if !leafPres e then []
      else if l == 0 && leafFmt e != 15 then (if sp == .dev && s.wholeLeaf e (2 ^ 29) k then [node + 8 * i] else [])
      else s.leavesOn l (s.spaceOf e) (targetPa e) k

/-- Firmware sets PTE.POI in a leaf. -/
def State.poisonLeaf (s : State) (a : Nat) : State :=
  { s.dropReplicas (linesOf a 8) with
    mem := s.mem.writeSp .dev a ((leBytes 8 (s.entryAt .dev a ||| 0x20).toNat).map fun b => ⟨b, false⟩) 3 }

/-- Firmware sets PTE.POI on the pages of every context that lie wholly in a lost stack (R470). -/
def State.poisonPages (s : State) (k : Nat) : State :=
  ((List.range 64).filter fun c => (s.ctx c).st != .free).foldl (fun (s : State) c =>
    (s.leavesOn 2 .dev (s.ctx c).desc.root k).foldl State.poisonLeaf s) s

/-- A stack is lost (R470): it is reported, STKWD and the pages' POI are set; its held accesses end. -/
def State.loseStack (s : State) (k : Nat) : State :=
  let st := s.stack k
  if st.lost || 8 ≤ k then s
  else ((((s.setStack k { st with lost := true }).withdraw [208 + k]).stackReport k 6 1 0).poisonPages k).runHeld k

/-- A stack takes a thermal state and reports it (R466, R472). -/
def State.thermalTo (s : State) (k : Nat) (st : Stack) : State := (s.setStack k st).stackReport k 5 1 0

/-- R466, R470: a stack samples its temperature, in 1/16 °C: one step of its thermal state; at 105 °C, or after 100 ms in SELF, it is
lost. -/
def execStackThermalSample (k : Nat) (temp : Int) (s : State) : Host.Outcome State Fault Refusal :=
  event s fun s =>
    let st := { s.stack k with temp := temp, tempOk := true }
    if st.lost || 8 ≤ k then s
    else
      let s := s.setStack k st
      if 105 * 16 ≤ temp || (st.th == .self && st.selfAt + 100000000 ≤ s.now) then s.loseStack k
      else
        match st.th with
        | .normal => if 85 * 16 ≤ temp then s.thermalTo k { st with th := .doubled } else s
        | .doubled =>
          if temp < 83 * 16 then s.thermalTo k { st with th := .normal }
          else if 95 * 16 ≤ temp then s.thermalTo k { st with th := .self, selfAt := s.now, noticed := s.now }
          else s
        -- The stack is trained before any held access is performed (R471).
        | .self => if temp < 90 * 16 then (s.thermalTo k { st with th := .doubled, trainings := st.trainings + 1 }).runHeld k else s

/-- The context of an access that a stack holds (R469): of a thread that still waits there, of a buffered store, of an engine's task, or that a
request of another module names. -/
def State.heldCtx (s : State) (k : Nat) (m : Move) : Option Nat :=
  match m with
  | .resume tid slot =>
    let t := s.thread tid slot
    if t.st == .waiting (.stack k) || t.prior == .waiting (.stack k) then some (s.task tid).ctx else none
  | .perform tid slot age => if (s.thread tid slot).wbuf.any fun e => e.age == age then some (s.task tid).ctx else none
  | .engine tid _ => (AMap.find? s.tasks tid).map Task.ctx
  | .request p => if p.ctx < 64 && (s.ctx p.ctx).st != .free then some p.ctx else none
  | _ => none

/-- R469: after each 2 ms in SELF, 0x52 with KIND 5 for each context that has a held access. -/
def execSelfHoldNotice (k : Nat) (s : State) : Host.Outcome State Fault Refusal :=
  event s fun s =>
    let st := s.stack k
    if st.th != .self || st.lost || s.now < st.noticed + 2000000 then s
    else
      let cs := (st.held.filterMap (s.heldCtx k)).foldl natInsert []
      cs.foldl (fun (s : State) c => s.ringPut c (s.noteRec 0x52 5 0 0 0)) (s.setStack k { st with noticed := s.now })

/-- R470: a stack's controller reports failure. -/
def execStackLost (k : Nat) (s : State) : Host.Outcome State Fault Refusal := event s fun s => s.loseStack k

/-- R471: a scrub of a whole stack, which is reported when it is complete; the errors that it meets are events of their own (R454), and it
changes no value else. It pauses while an image of the stack controllers hands over (R483). -/
def execStackScrub (k : Nat) (s : State) : Host.Outcome State Fault Refusal :=
  event s fun s =>
    let st := s.stack k
    if st.th == .self || st.lost || (s.fwk 4).moving then s else (s.setStack k { st with scrubAt := s.now }).stackReport k 7 1 0

end Sys2Proof.Machine
end

