-- ==== Sys2Proof/Machine/Lease.lean ====
section
/-! DEFINITION. LEASE instructions (R418 to R422). -/

namespace Sys2Proof.Machine

/-- The translation of an address that a cluster keeps: below its expiry on the cluster's clock (R399, R404). -/
def State.kept (s : State) (cl ctx va : Nat) : Option Trans :=
  if (s.cluster cl).time.st == .unsync then none
  else (s.cluster cl).tlb.find? fun t => t.covers ctx va && s.clusterTime cl < t.expiry && s.podOk t.skew && !(t.host && s.dcdHides va)

/-- REMAIN: ns left before a kept translation's expiry, saturating; 0 when none is kept (R420). -/
def State.remain (s : State) (cl : Nat) (t : Option Trans) : Nat :=
  match t with
  | some t => satTo (2 ^ 32 - 1) (t.expiry - s.clusterTime cl)
  | none => 0

/-- Bits [27:8] of a lookup in the device half: LEASE, FMT, the leaf's bits from PEER down to PRES (R420). -/
def leafWord (e : Word) : Nat :=
  leafLease e * 2 ^ 24 + leafFmt e * 2 ^ 20 + bitN (leafPeer e) 19 + bitN (leafConf e) 18 + bitN (leafMig e) 17
    + bitN (leafPoi e) 16 + bitN (leafTol e) 15 + bitN (leafExp e) 14 + bitN (leafWrp e) 13 + bitN (leafRdp e) 12
    + bitN (leafPres e) 11
where
  /-- A flag at its place. -/
  bitN (b : Bool) (i : Nat) : Nat := if b then 2 ^ i else 0

/-- The same in the host half: HLEASE.CLASS, WRP, RDP and PRES, KIND 1. -/
def hostWord (hl : Nat) (e : Word) : Nat := hl * 2 ^ 24 + leafWord (e &&& 7) % 2 ^ 20 + 2 ^ 8

/-- What lquery classifies without a translation: KIND 2 to 5 (R420). -/
def lqueryKind (a : Nat) : Option Nat :=
  match regionOf a with
  | .cm => some 2
  | .csp => some 3
  | .hole => some 4
  | .nonCanon => some 5
  | _ => none

/-- The lookup of a translated address: the kept translation, else one walk, kept as R399 allows. It never waits: a walk that cannot be
made now reads as not present (log entry 25). -/
def State.lquery (s : State) (cl ctx va : Nat) : State × Nat :=
  let host := va < 2 ^ 55
  let word (e : Word) : Nat := if host then hostWord s.hlease e else leafWord e
  match s.kept cl ctx va with
  | some t => (s, s.remain cl (some t) * 2 ^ 32 + word t.leaf + 1)
  | none =>
    let r := (s.walkFor cl ctx va).1
    let t := r.kept cl ctx va
    let e : Word := match (if host then s.walkHost va else s.walkDev ctx va) with
      | .leaf e _ _ => e
      | _ => 0
    (r, r.remain cl t * 2 ^ 32 + word e + t.isSome.toNat)

/-- R420: classifies an address. -/
def execLquery (d a : Reg) (s : State) : Host.Outcome State Fault Refusal :=
  issue .plain 4 s fun s => s.unlessPoison [a] fun s =>
    let va := (s.x a).toNat
    match lqueryKind va with
    | some k => (s.setX d (BitVec.ofNat 64 (k * 256)) false, .done)
    | none =>
      let (s, v) := s.lquery s.tk.cluster s.tk.ctx va
      (s.setX d (BitVec.ofNat 64 v) false, .done)

/-- R421: walks a page again and gives the lease left. -/
def execLrenew (d a : Reg) (s : State) : Host.Outcome State Fault Refusal :=
  issue .plain 4 s fun s => s.unlessPoison [a] fun s =>
    let va := (s.x a).toNat
    match lqueryKind va with
    | some 5 => (s, .fault 0x14 va 0)
    | some _ => (s.setX d 0 false, .done)
    | none =>
      let cl := s.tk.cluster
      match s.walkFor cl s.tk.ctx va with
      | (s, .wait w) => (s, .wait w)
      | (s, .ok _) => (s.setX d (BitVec.ofNat 64 (s.remain cl (s.kept cl s.tk.ctx va))) false, .done)

/-- The counts of the block behind an address under a translation (R413, R422). -/
def State.counts (s : State) (t : Trans) (va : Nat) : Nat :=
  if t.host || leafPeer t.leaf || !(s.ctx s.tk.ctx).pgen then 0
  else
    let pa := leafPa t.leaf + (storeRange (leafFmt t.leaf) (va % t.size) 1).1
    let c := AMap.get s.pgc (pa / 65536) (0, 0)
    c.2 * 2 ^ 32 + c.1

/-- R422: reads the access counters of the block behind an address. -/
def execPgcnt (d a : Reg) (s : State) : Host.Outcome State Fault Refusal :=
  issue .plain 4 s fun s => s.unlessPoison [a] fun s =>
    let va := (s.x a).toNat
    match regionOf va with
    | .nonCanon => (s, .fault 0x14 va 0)
    | .hole => (s, .fault 0x11 va 0)
    | .cm => (s.setX d 0 false, .done)
    | .csp => (s.setX d 0 false, .done)
    | _ =>
      match s.translate s.tk.cluster s.tk.ctx va .load with
      | (s, .wait w) => (s, .wait w)
      | (s, .ok t) =>
        if !permits t.leaf .load then (s, .fault 0x11 va 0)
        else if (if t.host then inExtent s.hostPoison va else leafPoi t.leaf) then (s, .fault 0x51 va 0)
        else (s.setX d (BitVec.ofNat 64 (s.counts t va)) false, .done)

end Sys2Proof.Machine
end

