-- ==== Sys2Proof/Machine/Mxp.lean ====
section
/-! DEFINITION. MXP instructions (R295, R316, R317) and the steps of a pass: its arrival, streaming, detection, and the probes that
close its windows (R294 to R306); the thermal loop (R307). -/

namespace Sys2Proof.Machine

/-- mxp and mxps: checks 1 to 4 of R295, then the pass is sent. -/
def passOp (status : Bool) (d a b : Reg) (m : MxpW) (s : State) : State × Res :=
  s.unlessPoison [a, b] fun s =>
    if m.slice = 3 || (m.dir && m.chunks != 0) || 15 < mxpLast m then (s, .fault 0x22 0 0)
    else
      match s.target (s.x a) with
      | none => (s, .fault 0x22 0 0)
      | some cl =>
        let w := s.capOf m.cap
        if !capAllows w s.tk.ctx 45 (· == cl) [m.ta.toNat, m.tc.toNat] (mxpBanks m) then (s, .fault 0x23 0 0)
        else if !s.omuAvail cl then (s, .fault 0x24 0 0)
        else s.submit cl (s.newOmu (.pass m (s.x b) status) d (some w) (mxpBanks m))

/-- R317: sends a pass to its unit. -/
def execMxp (d a b : Reg) (m : MxpW) (s : State) : Host.Outcome State Fault Refusal :=
  issue .plain 8 s (viaOmu (passOp false d a b m))

/-- R317: sends a pass that writes a status record. -/
def execMxps (d a b : Reg) (m : MxpW) (s : State) : Host.Outcome State Fault Refusal :=
  issue .plain 8 s (viaOmu (passOp true d a b m))

/-- R317: asks for probes of the named loaded banks. -/
def execMxprobe (d a : Reg) (mask : BitVec 16) (cap : BitVec 3) (s : State) : Host.Outcome State Fault Refusal :=
  issue .plain 8 s (viaOmu fun s => s.unlessPoison [a] fun s =>
    let banks := (List.range 16).filter fun b => mask.getLsbD b
    match (if mask = 0 then none else s.target (s.x a)) with
    | none => (s, .fault 0x22 0 0)
    | some cl =>
      let w := s.capOf cap
      if !capAllows w s.tk.ctx 45 (· == cl) [] banks then (s, .fault 0x23 0 0)
      else if !s.omuAvail cl then (s, .fault 0x24 0 0)
      else s.submit cl (s.newOmu (.probe mask.toNat) d (some w) []))

/-- R294, R295: an operation reaches its unit, which answers its thread. -/
def execPassArrival (core slot : Nat) (s : State) : Host.Outcome State Fault Refusal :=
  event s fun s =>
    match s.running core with
    | none => s
    | some tid =>
      match s.issuedOp tid slot with
      | some (cl, o) => s.resumeAs tid slot 8 fun s => s.arrive cl o
      | none => s

/-- A pass enters IN-FLIGHT: what it reads is captured (R294, R298, R304). -/
def State.stream (s : State) (cl : Nat) (o : OmuOp) (m : MxpW) (xb : Word) : State :=
  let c := s.cluster cl
  let cells := s.readA cl m xb o.gain
  let o := { o with
    cells := cells.map Prod.fst, sat := cells.any Prod.snd, clipped := cells.any Prod.snd
    dx8 := tcfgFmt (AMap.get c.tcfg m.ta.toNat 0) == 0
    scales := o.banks.map fun b => leNat ((s.mem.read (bankKey cl b 0x3000) 4).map PByte.b)
    bpois := o.banks.map fun b => bitAt c.bankPois b }
  s.setCluster cl { c with
    staged := c.staged.drop 1, flight := some o, bank := mxpLast m
    since := o.banks.foldl (fun m b => AMap.put m b (AMap.get m b 0 + 1)) c.since }

/-- R294, R296: the oldest staged pass enters IN-FLIGHT while the commit buffer has a free entry; behind a failed phase load it fails
with 0x21 (R319), and so does one that was accepted while its bank was loaded, behind a phinv of that bank, of which the spec does not speak;
DESIGN CHOICE (log entry 126). -/
def execPassStreamStart (cl : Nat) (s : State) : Host.Outcome State Fault Refusal :=
  event s fun s =>
    let c := s.cluster cl
    match c.nextOp with
    | some o =>
      match o.kind with
      | .pass m xb _ =>
        if !s.omuAvail cl || 16 ≤ c.omuHeld.length then s
        else if !o.banks.all (bitAt c.loaded) then s.endPass cl o (some 0x21)
        else s.stream cl o m xb
      | _ => s
    | none => s

/-- R294, R299, R304: the last symbol of the pass in flight is detected; it is HELD, and the probes that it makes due are noted. -/
def execPassDetected (cl : Nat) (s : State) : Host.Outcome State Fault Refusal :=
  event s fun s =>
    let c := s.cluster cl
    match c.flight with
    | some o =>
      match o.kind with
      | .pass m _ _ =>
        let due := o.banks.filter fun b => bitAt c.loaded b && (m.prb || c.phprobe ≤ AMap.get c.since b 0)
        (({ s with free := s.free + 1 } : State).setCluster cl { c with
          flight := none, omuHeld := c.omuHeld ++ [o.detect s.free]
          due := due.foldl natInsert c.due }).sweep cl 17
      | _ => s
    | none => s

/-- R303 to R306: the unit probes a bank; measured are the responses of its detectors. -/
def execOmuProbe (cl bank : Nat) (measured : List Int) (s : State) : Host.Outcome State Fault Refusal :=
  event s fun s =>
    let s := (s.sweep cl 17).skipProbe cl
    let c := s.cluster cl
    if bank < 16 && s.omuAvail cl && c.probes bank then
      let s := s.bankProbe cl bank (s.residualOf cl bank measured)
      if c.due.isEmpty then s.afterProbe cl bank else s
    else s

/-- R307: the thermal loop measures its eight regions, in 1/64 °C; how long it is not locked counts (R461). -/
def execOmuThermalLoop (cl : Nat) (errs : List Int) (s : State) : Host.Outcome State Fault Refusal :=
  event s fun s =>
    if errs.length != 8 then s
    else
      let c := { s.cluster cl with terr := errs }
      s.setCluster cl { c with unlockAt := if c.lock then none else some (c.unlockAt.getD s.now) }

end Sys2Proof.Machine
end

