-- ==== Sys2Proof/Machine/Scalar.lean ====
section
/-! DEFINITION. Meanings of the scalar integer instructions: ALU, immediates, LIT, MULDIV, BIT, BITI (R151 to R159). -/

namespace Sys2Proof.Machine

/-- R151: xa + xb. -/
def execAdd (d a b : Reg) (s : State) : Host.Outcome State Fault Refusal :=
  issue .plain 4 s (alu2 (fun x y => x + y) d a b)

/-- R151: xa - xb. -/
def execSub (d a b : Reg) (s : State) : Host.Outcome State Fault Refusal :=
  issue .plain 4 s (alu2 (fun x y => x - y) d a b)

/-- R151: xa AND xb. -/
def execAnd (d a b : Reg) (s : State) : Host.Outcome State Fault Refusal :=
  issue .plain 4 s (alu2 (fun x y => x &&& y) d a b)

/-- R151: xa OR xb. -/
def execOr (d a b : Reg) (s : State) : Host.Outcome State Fault Refusal :=
  issue .plain 4 s (alu2 (fun x y => x ||| y) d a b)

/-- R151: xa XOR xb. -/
def execXor (d a b : Reg) (s : State) : Host.Outcome State Fault Refusal :=
  issue .plain 4 s (alu2 (fun x y => x ^^^ y) d a b)

/-- R151: xa AND NOT xb. -/
def execAndn (d a b : Reg) (s : State) : Host.Outcome State Fault Refusal :=
  issue .plain 4 s (alu2 (fun x y => x &&& ~~~y) d a b)

/-- R151: xa OR NOT xb. -/
def execOrn (d a b : Reg) (s : State) : Host.Outcome State Fault Refusal :=
  issue .plain 4 s (alu2 (fun x y => x ||| ~~~y) d a b)

/-- R151: NOT (xa XOR xb). -/
def execXnor (d a b : Reg) (s : State) : Host.Outcome State Fault Refusal :=
  issue .plain 4 s (alu2 (fun x y => ~~~(x ^^^ y)) d a b)

/-- R151: shift left by xb[5:0]. -/
def execShl (d a b : Reg) (s : State) : Host.Outcome State Fault Refusal :=
  issue .plain 4 s (alu2 (fun x y => x <<< (y.toNat % 64)) d a b)

/-- R151: shift right, zero-filled. -/
def execShr (d a b : Reg) (s : State) : Host.Outcome State Fault Refusal :=
  issue .plain 4 s (alu2 (fun x y => x >>> (y.toNat % 64)) d a b)

/-- R151: shift right, filled with bit 63. -/
def execSra (d a b : Reg) (s : State) : Host.Outcome State Fault Refusal :=
  issue .plain 4 s (alu2 (fun x y => x.sshiftRight (y.toNat % 64)) d a b)

/-- R151: rotate left. -/
def execRol (d a b : Reg) (s : State) : Host.Outcome State Fault Refusal :=
  issue .plain 4 s (alu2 (fun x y => x.rotateLeft (y.toNat % 64)) d a b)

/-- R151: rotate right. -/
def execRor (d a b : Reg) (s : State) : Host.Outcome State Fault Refusal :=
  issue .plain 4 s (alu2 (fun x y => x.rotateRight (y.toNat % 64)) d a b)

/-- R151: signed less than. -/
def execSlt (d a b : Reg) (s : State) : Host.Outcome State Fault Refusal :=
  issue .plain 4 s (alu2 (fun x y => Word.ofBool (x.slt y)) d a b)

/-- R151: unsigned less than. -/
def execSltu (d a b : Reg) (s : State) : Host.Outcome State Fault Refusal :=
  issue .plain 4 s (alu2 (fun x y => Word.ofBool (x.ult y)) d a b)

/-- R151: equal. -/
def execSeq (d a b : Reg) (s : State) : Host.Outcome State Fault Refusal :=
  issue .plain 4 s (alu2 (fun x y => Word.ofBool (x == y)) d a b)

/-- R151: different. -/
def execSne (d a b : Reg) (s : State) : Host.Outcome State Fault Refusal :=
  issue .plain 4 s (alu2 (fun x y => Word.ofBool (x != y)) d a b)

/-- R151: the smaller as signed. -/
def execMin (d a b : Reg) (s : State) : Host.Outcome State Fault Refusal :=
  issue .plain 4 s (alu2 (fun x y => if x.slt y then x else y) d a b)

/-- R151: the larger as signed. -/
def execMax (d a b : Reg) (s : State) : Host.Outcome State Fault Refusal :=
  issue .plain 4 s (alu2 (fun x y => if x.slt y then y else x) d a b)

/-- R151: the smaller as unsigned. -/
def execMinu (d a b : Reg) (s : State) : Host.Outcome State Fault Refusal :=
  issue .plain 4 s (alu2 (fun x y => if x.ult y then x else y) d a b)

/-- R151: the larger as unsigned. -/
def execMaxu (d a b : Reg) (s : State) : Host.Outcome State Fault Refusal :=
  issue .plain 4 s (alu2 (fun x y => if x.ult y then y else x) d a b)

/-- R151: 32-bit sum, sign-extended. -/
def execAddw (d a b : Reg) (s : State) : Host.Outcome State Fault Refusal :=
  issue .plain 4 s (alu2 (fun x y => wordS (x + y)) d a b)

/-- R151: 32-bit difference, sign-extended. -/
def execSubw (d a b : Reg) (s : State) : Host.Outcome State Fault Refusal :=
  issue .plain 4 s (alu2 (fun x y => wordS (x - y)) d a b)

/-- R151: 32-bit shift left. -/
def execShlw (d a b : Reg) (s : State) : Host.Outcome State Fault Refusal :=
  issue .plain 4 s (alu2 (fun x y => wordS (x <<< (y.toNat % 32))) d a b)

/-- R151: 32-bit shift right, zero-filled. -/
def execShrw (d a b : Reg) (s : State) : Host.Outcome State Fault Refusal :=
  issue .plain 4 s (alu2 (fun x y => wordS (x.zext 32 >>> (y.toNat % 32))) d a b)

/-- R151: 32-bit shift right, sign-filled. -/
def execSraw (d a b : Reg) (s : State) : Host.Outcome State Fault Refusal :=
  issue .plain 4 s (alu2 (fun x y => wordS ((x.sext 32).sshiftRight (y.toNat % 32))) d a b)

/-- R156: the low half of the product. -/
def execMul (d a b : Reg) (s : State) : Host.Outcome State Fault Refusal :=
  issue .plain 4 s (alu2 (fun x y => x * y) d a b)

/-- R156: the high half of the signed product. -/
def execMulh (d a b : Reg) (s : State) : Host.Outcome State Fault Refusal :=
  issue .plain 4 s (alu2 (fun x y => BitVec.ofInt 64 (x.toInt * y.toInt / 2 ^ 64)) d a b)

/-- R156: the high half of the unsigned product. -/
def execMulhu (d a b : Reg) (s : State) : Host.Outcome State Fault Refusal :=
  issue .plain 4 s (alu2 (fun x y => BitVec.ofNat 64 (x.toNat * y.toNat / 2 ^ 64)) d a b)

/-- R156: the high half of signed xa by unsigned xb. -/
def execMulhsu (d a b : Reg) (s : State) : Host.Outcome State Fault Refusal :=
  issue .plain 4 s (alu2 (fun x y => BitVec.ofInt 64 (x.toInt * (y.toNat : Int) / 2 ^ 64)) d a b)

/-- R156: 32-bit product, sign-extended. -/
def execMulw (d a b : Reg) (s : State) : Host.Outcome State Fault Refusal :=
  issue .plain 4 s (alu2 (fun x y => wordS (x * y)) d a b)

/-- R156, R82: signed quotient. -/
def execDiv (d a b : Reg) (s : State) : Host.Outcome State Fault Refusal :=
  issue .plain 4 s (alu2 (fun x y => BitVec.ofNat 64 (divS 64 x.toNat y.toNat)) d a b)

/-- R156, R82: unsigned quotient. -/
def execDivu (d a b : Reg) (s : State) : Host.Outcome State Fault Refusal :=
  issue .plain 4 s (alu2 (fun x y => BitVec.ofNat 64 (divU 64 x.toNat y.toNat)) d a b)

/-- R156, R82: signed remainder. -/
def execRem (d a b : Reg) (s : State) : Host.Outcome State Fault Refusal :=
  issue .plain 4 s (alu2 (fun x y => BitVec.ofNat 64 (remS 64 x.toNat y.toNat)) d a b)

/-- R156, R82: unsigned remainder. -/
def execRemu (d a b : Reg) (s : State) : Host.Outcome State Fault Refusal :=
  issue .plain 4 s (alu2 (fun x y => BitVec.ofNat 64 (remU 64 x.toNat y.toNat)) d a b)

/-- R156: 32-bit signed quotient. -/
def execDivw (d a b : Reg) (s : State) : Host.Outcome State Fault Refusal :=
  issue .plain 4 s (alu2 (fun x y => wordS (BitVec.ofNat 64 (divS 32 x.toNat y.toNat))) d a b)

/-- R156: 32-bit signed remainder. -/
def execRemw (d a b : Reg) (s : State) : Host.Outcome State Fault Refusal :=
  issue .plain 4 s (alu2 (fun x y => wordS (BitVec.ofNat 64 (remS 32 x.toNat y.toNat))) d a b)

/-- R157: the set bit with exactly xb set bits below it. -/
def execFnsb (d a b : Reg) (s : State) : Host.Outcome State Fault Refusal :=
  issue .plain 4 s (alu2 (fun x y => BitVec.ofNat 64 (Machine.fnsb 64 x.toNat y.toNat)) d a b)

/-- R158: signed field extract. -/
def execBfx (d a b : Reg) (s : State) : Host.Outcome State Fault Refusal :=
  issue .plain 4 s (alu2 (fun x y => BitVec.ofNat 64 (fieldS 64 x.toNat (bfOff y) (bfWid y))) d a b)

/-- R158: unsigned field extract. -/
def execBfxu (d a b : Reg) (s : State) : Host.Outcome State Fault Refusal :=
  issue .plain 4 s (alu2 (fun x y => BitVec.ofNat 64 (fieldZ 64 x.toNat (bfOff y) (bfWid y))) d a b)

/-- R157: leading zeros. -/
def execClz (d a : Reg) (s : State) : Host.Outcome State Fault Refusal :=
  issue .plain 4 s (alu1 (fun x => BitVec.ofNat 64 (leadZeros 64 x.toNat)) d a)

/-- R157: trailing zeros. -/
def execCtz (d a : Reg) (s : State) : Host.Outcome State Fault Refusal :=
  issue .plain 4 s (alu1 (fun x => BitVec.ofNat 64 (trailZeros 64 x.toNat)) d a)

/-- R157: ones. -/
def execPopc (d a : Reg) (s : State) : Host.Outcome State Fault Refusal :=
  issue .plain 4 s (alu1 (fun x => BitVec.ofNat 64 (popcount 64 x.toNat)) d a)

/-- R157: bits reversed. -/
def execBrev (d a : Reg) (s : State) : Host.Outcome State Fault Refusal :=
  issue .plain 4 s (alu1 (fun x => BitVec.ofNat 64 (revBits 64 x.toNat)) d a)

/-- R157: bytes reversed. -/
def execBswap (d a : Reg) (s : State) : Host.Outcome State Fault Refusal :=
  issue .plain 4 s (alu1 (fun x => BitVec.ofNat 64 (revBytes 8 x.toNat)) d a)

/-- R157: leading zeros of 32 bits. -/
def execClzw (d a : Reg) (s : State) : Host.Outcome State Fault Refusal :=
  issue .plain 4 s (alu1 (fun x => BitVec.ofNat 64 (leadZeros 32 x.toNat)) d a)

/-- R157: trailing zeros of 32 bits. -/
def execCtzw (d a : Reg) (s : State) : Host.Outcome State Fault Refusal :=
  issue .plain 4 s (alu1 (fun x => BitVec.ofNat 64 (trailZeros 32 x.toNat)) d a)

/-- R157: ones of 32 bits. -/
def execPopcw (d a : Reg) (s : State) : Host.Outcome State Fault Refusal :=
  issue .plain 4 s (alu1 (fun x => BitVec.ofNat 64 (popcount 32 x.toNat)) d a)

/-- R152. -/
def execAddi (d a : Reg) (imm : BitVec 14) (s : State) : Host.Outcome State Fault Refusal :=
  issue .plain 4 s (alu1 (fun x => x + immS imm) d a)

/-- R152. -/
def execAndi (d a : Reg) (imm : BitVec 14) (s : State) : Host.Outcome State Fault Refusal :=
  issue .plain 4 s (alu1 (fun x => x &&& immS imm) d a)

/-- R152. -/
def execOri (d a : Reg) (imm : BitVec 14) (s : State) : Host.Outcome State Fault Refusal :=
  issue .plain 4 s (alu1 (fun x => x ||| immS imm) d a)

/-- R152. -/
def execXori (d a : Reg) (imm : BitVec 14) (s : State) : Host.Outcome State Fault Refusal :=
  issue .plain 4 s (alu1 (fun x => x ^^^ immS imm) d a)

/-- R153. -/
def execShli (d a : Reg) (n : BitVec 6) (s : State) : Host.Outcome State Fault Refusal :=
  issue .plain 4 s (alu1 (fun x => x <<< n.toNat) d a)

/-- R153. -/
def execShri (d a : Reg) (n : BitVec 6) (s : State) : Host.Outcome State Fault Refusal :=
  issue .plain 4 s (alu1 (fun x => x >>> n.toNat) d a)

/-- R153. -/
def execSrai (d a : Reg) (n : BitVec 6) (s : State) : Host.Outcome State Fault Refusal :=
  issue .plain 4 s (alu1 (fun x => x.sshiftRight n.toNat) d a)

/-- R153. -/
def execRoli (d a : Reg) (n : BitVec 6) (s : State) : Host.Outcome State Fault Refusal :=
  issue .plain 4 s (alu1 (fun x => x.rotateLeft n.toNat) d a)

/-- R153. -/
def execRori (d a : Reg) (n : BitVec 6) (s : State) : Host.Outcome State Fault Refusal :=
  issue .plain 4 s (alu1 (fun x => x.rotateRight n.toNat) d a)

/-- R154. -/
def execSlti (d a : Reg) (imm : BitVec 11) (s : State) : Host.Outcome State Fault Refusal :=
  issue .plain 4 s (alu1 (fun x => Word.ofBool (x.slt (immS imm))) d a)

/-- R154. -/
def execSltui (d a : Reg) (imm : BitVec 11) (s : State) : Host.Outcome State Fault Refusal :=
  issue .plain 4 s (alu1 (fun x => Word.ofBool (x.ult (immS imm))) d a)

/-- R154. -/
def execSeqi (d a : Reg) (imm : BitVec 11) (s : State) : Host.Outcome State Fault Refusal :=
  issue .plain 4 s (alu1 (fun x => Word.ofBool (x == immS imm)) d a)

/-- R154. -/
def execSnei (d a : Reg) (imm : BitVec 11) (s : State) : Host.Outcome State Fault Refusal :=
  issue .plain 4 s (alu1 (fun x => Word.ofBool (x != immS imm)) d a)

/-- R155. -/
def execLi (d : Reg) (imm : BitVec 32) (s : State) : Host.Outcome State Fault Refusal :=
  issue .plain 8 s (alu0 (immS imm) d)

/-- R155. -/
def execLiz (d : Reg) (imm : BitVec 32) (s : State) : Host.Outcome State Fault Refusal :=
  issue .plain 8 s (alu0 (imm.setWidth 64) d)

/-- R155. -/
def execLihi (d a : Reg) (imm : BitVec 32) (s : State) : Host.Outcome State Fault Refusal :=
  issue .plain 8 s (alu1 (fun x => (imm.setWidth 64 <<< 32) ||| x.zext 32) d a)

/-- R155. -/
def execAddl (d a : Reg) (imm : BitVec 32) (s : State) : Host.Outcome State Fault Refusal :=
  issue .plain 8 s (alu1 (fun x => x + immS imm) d a)

/-- R155. -/
def execAndl (d a : Reg) (imm : BitVec 32) (s : State) : Host.Outcome State Fault Refusal :=
  issue .plain 8 s (alu1 (fun x => x &&& immS imm) d a)

/-- R155. -/
def execOrl (d a : Reg) (imm : BitVec 32) (s : State) : Host.Outcome State Fault Refusal :=
  issue .plain 8 s (alu1 (fun x => x ||| immS imm) d a)

/-- R155. -/
def execXorl (d a : Reg) (imm : BitVec 32) (s : State) : Host.Outcome State Fault Refusal :=
  issue .plain 8 s (alu1 (fun x => x ^^^ immS imm) d a)

/-- R155. -/
def execSltl (d a : Reg) (imm : BitVec 32) (s : State) : Host.Outcome State Fault Refusal :=
  issue .plain 8 s (alu1 (fun x => Word.ofBool (x.slt (immS imm))) d a)

/-- R157, R158: field insert into xd, whose poison counts. -/
def execBfi (d a b : Reg) (s : State) : Host.Outcome State Fault Refusal :=
  issue .plain 4 s fun s =>
    s.result d [d, a, b] (BitVec.ofNat 64 (fieldInsert (s.x d).toNat (s.x a).toNat (bfOff (s.x b)) (bfWid (s.x b))))

/-- R157, R158: the mask of a field. -/
def execBfmsk (d b : Reg) (s : State) : Host.Outcome State Fault Refusal :=
  issue .plain 4 s (alu1 (fun x => BitVec.ofNat 64 (fieldMask (bfOff x) (bfWid x))) d b)

/-- R159: signed field extract. -/
def execBfxi (d a : Reg) (off wid : BitVec 7) (s : State) : Host.Outcome State Fault Refusal :=
  issue .plain 8 s (alu1 (fun x => BitVec.ofNat 64 (fieldS 64 x.toNat off.toNat wid.toNat)) d a)

/-- R159: unsigned field extract. -/
def execBfxui (d a : Reg) (off wid : BitVec 7) (s : State) : Host.Outcome State Fault Refusal :=
  issue .plain 8 s (alu1 (fun x => BitVec.ofNat 64 (fieldZ 64 x.toNat off.toNat wid.toNat)) d a)

/-- R159: field insert into xd. -/
def execBfii (d a : Reg) (off wid : BitVec 7) (s : State) : Host.Outcome State Fault Refusal :=
  issue .plain 8 s fun s =>
    s.result d [d, a] (BitVec.ofNat 64 (fieldInsert (s.x d).toNat (s.x a).toNat off.toNat wid.toNat))

end Sys2Proof.Machine
end

