-- ==== Sys2Proof/Machine/Spad.lean ====
section
/-! DEFINITION. The cluster scratchpad (R250 to R257): handles, blocks, and the meanings of splook, spevict, spdemote, sprel and
spprio. -/

namespace Sys2Proof.Machine

/-- The key of the engine's reads of handle tables. -/
def htabOp : Nat := 2 ^ 76

/-- The handle in 16 bytes of a table (R251). A PRIO byte above 7 does not make it bad (log entry 98). -/
def handleOf (kid h : Nat) (bs : List Byte) : Handle :=
  let f (o n : Nat) : Nat := leNat ((bs.drop o).take n)
  let log := f 4 1
  { kid := kid, h := h, nblk := f 0 4, log := log, prio := f 5 1
    bad := f 6 1 != 1 || log < 12 || 18 < log || f 7 9 != 0 }

/-- What looking a handle up gives. -/
inductive Looked where
  | ok (h : Handle)
  | bad
  | wait (w : Wait)

/-- A handle's copy in the issuing cluster, read from the table the first time the kernel names it there (R251). A table that cannot
be read makes the handle bad; nothing is copied then (log entry 21). -/
def State.lookHandle (s : State) (h : Nat) : State × Looked :=
  let k := s.tk
  let c := s.cluster k.cluster
  if k.lrec.handles % 4096 ≤ h then (s, .bad)
  else
    match c.handles.find? (fun x => x.kid == k.kid && x.h == h) with
    | some x => (s, if x.bad then .bad else .ok x)
    | none =>
      match s.engineLoad s.cur.1 s.cur.2 htabOp (k.lrec.handles / 4096 * 4096 + 16 * h) 16 with
      | (s, .wait w) => (s, .wait w)
      | (s, .fault _ _) => (s, .bad)
      | (s, .bytes bs) =>
        let x := handleOf k.kid h (bs.map PByte.b)
        let s := s.forget s.cur.1 htabOp
        let c := s.cluster k.cluster
        (s.setCluster k.cluster { c with handles := c.handles ++ [x] }, if x.bad then .bad else .ok x)

/-- The checks that every SPAD instruction naming a handle makes (R253), then f. Only splook may wait, for the page of the table's
entry; to the others, which complete without waiting (R255), such an entry is bad (log entry 21). -/
def withHandle (look : Bool) (a : Reg) (rs : List Reg) (f : Handle → State → State × Res) (s : State) : State × Res :=
  s.unlessPoison rs fun s =>
    match s.lookHandle (s.x a).toNat with
    | (s, .bad) => (s, .fault 0x63 0 0)
    | (s, .wait w) => (s, if look then .wait w else .fault 0x63 0 0)
    | (s, .ok h) => f h s

/-- The window address of a block (R254). -/
def Block.addr (b : Block) : Nat := cspBase + 4096 * b.base
/-- The granules of a run: base and count meet those of a block. -/
def Block.meets (b : Block) (base n : Nat) : Bool := base < b.base + 2 ^ (b.log - 12) && b.base < base + n

/-- Whether a run of granules may be allocated for a priority: only VACANT granules, or RESIDENT blocks without pins of a class not
above it (R254). -/
def Cluster.runFree (c : Cluster) (prio base n : Nat) : Bool :=
  !(c.broken.any fun b => b.meets base n)
    && c.blocks.all fun b => !b.meets base n || (!b.fill && b.pin == 0 && b.cls ≤ prio)

/-- How a run is preferred: the highest class that it evicts, 0 for none, then the latest use among its blocks. -/
def Cluster.runCost (c : Cluster) (base n : Nat) : Nat × Nat :=
  let bs := c.blocks.filter fun b => b.meets base n
  (bs.foldl (fun m b => max m (b.cls + 1)) 0, bs.foldl (fun m b => max m b.used) 0)

/-- Less in the order of preference. -/
def costLess (a b : Nat × Nat) : Bool := a.1 < b.1 || (a.1 == b.1 && a.2 < b.2)

/-- The most preferred runs for a block of size 2^log; the spec leaves open which of them is taken. -/
def Cluster.bestRuns (c : Cluster) (prio log : Nat) : List Nat :=
  let n := 2 ^ (log - 12)
  let runs := ((List.range (1536 / n)).map fun i => i * n).filter fun b => c.runFree prio b n
  runs.filter fun b => !runs.any fun r => costLess (c.runCost r n) (c.runCost b n)

/-- Count a lookup that missed (R256). -/
def State.countMiss (s : State) : State := s.setTk { s.tk with miss := min (s.tk.miss + 1) (2 ^ 32 - 1) }

/-- Allocate a run: its blocks are evicted, granules of another context are zeroed, the block is FILLING (R250, R252). -/
def State.allocate (s : State) (h : Handle) (blk base : Nat) : State :=
  let k := s.tk
  let cl := k.cluster
  let n := 2 ^ (h.log - 12)
  let c := s.cluster cl
  let stale := (List.range n).filter fun i => AMap.get c.granule (base + i) 0 != k.ctx + 1
  let s := { s with mem := stale.foldl (fun m i => m.zero (cspKey cl (4096 * (base + i))) 4096) s.mem }
  s.setCluster cl { c with
    blocks := (c.blocks.filter fun b => !b.meets base n) ++
      [{ base := base, kid := k.kid, h := h.h, blk := blk, log := h.log, fill := true, pin := 1, cls := h.prio, used := c.clock,
         filler := s.cur, evict := false }]
    granule := stale.foldl (fun m i => AMap.put m (base + i) (k.ctx + 1)) c.granule
    clock := c.clock + 1 }

/-- splook after the handle's checks (R254). -/
def lookBlock (d b : Reg) (h : Handle) (s : State) : State × Res :=
  let k := s.tk
  let c := s.cluster k.cluster
  let blk := (s.x b).toNat
  if h.nblk ≤ blk then (s, .fault 0x63 0 0)
  else
    match c.blocks.find? (fun x => x.kid == k.kid && x.h == h.h && x.blk == blk) with
    | some x =>
      if x.fill || 4095 ≤ x.pin then (s, .wait .slot)
      else
        let hit := { x with pin := x.pin + 1, used := c.clock }
        let bs := c.blocks.map fun y => if y.base == x.base then hit else y
        ((s.setCluster k.cluster { c with blocks := bs, clock := c.clock + 1 }).setX d (BitVec.ofNat 64 x.addr) false, .done)
    | none =>
      match c.bestRuns h.prio h.log with
      | [] => (s.countMiss.setX d 3 false, .done)
      | r :: rs =>
        let base := if rs.isEmpty then r else (r :: rs).getD (Config.freeNat s.free % (rs.length + 1)) r
        let s := { s with free := s.free + 1 }
        ((s.allocate h blk base).countMiss.setX d (BitVec.ofNat 64 (cspBase + 4096 * base + 1)) false, .done)

/-- R254: finds or allocates the slot of a block. -/
def execSplook (d a b : Reg) (s : State) : Host.Outcome State Fault Refusal :=
  issue .plain 4 s (withHandle true a [a, b] (lookBlock d b))

/-- R255: every RESIDENT block of the handle without pins becomes VACANT; the others are marked. -/
def execSpevict (d a : Reg) (s : State) : Host.Outcome State Fault Refusal :=
  issue .plain 4 s (withHandle false a [a] fun h s =>
    let k := s.tk
    let c := s.cluster k.cluster
    let mine (b : Block) : Bool := b.kid == k.kid && b.h == h.h
    let gone (b : Block) : Bool := mine b && !b.fill && b.pin == 0
    let n := ((c.blocks.filter gone).map fun b => 2 ^ (b.log - 12)).sum
    let bs := (c.blocks.filter fun b => !gone b).map fun b => if mine b then { b with evict := true } else b
    ((s.setCluster k.cluster { c with blocks := bs }).setX d (BitVec.ofNat 64 n) false, .done))

/-- Set the class of the blocks of a handle: of every one, or only of those that are resident. -/
def Cluster.setClass (c : Cluster) (kid h cls : Nat) (filling : Bool) : Cluster :=
  { c with blocks := c.blocks.map fun b =>
      if b.kid == kid && b.h == h && (filling || !b.fill) then { b with cls := cls } else b }

/-- R255: the class of every resident block of the handle becomes 0. -/
def execSpdemote (a : Reg) (s : State) : Host.Outcome State Fault Refusal :=
  issue .plain 4 s (withHandle false a [a] fun h s =>
    let cl := s.tk.cluster
    (s.setCluster cl ((s.cluster cl).setClass s.tk.kid h.h 0 false), .done))

/-- R255: the handle's priority, which is the class of its blocks (R254): of those that are FILLING too. -/
def execSpprio (a b : Reg) (s : State) : Host.Outcome State Fault Refusal :=
  issue .plain 4 s (withHandle false a [a, b] fun h s =>
    let cl := s.tk.cluster
    let kid := s.tk.kid
    let p := (s.x b).toNat % 8
    let c := (s.cluster cl).setClass kid h.h p true
    (s.setCluster cl { c with
      handles := c.handles.map fun x => if x.kid == kid && x.h == h.h then { x with prio := p } else x }, .done))

/-- A release of a block (R252): the block as it stands after, or none when it becomes VACANT. -/
def Block.release (b : Block) (drop : Bool) : Option Block :=
  let pin := if b.fill then 0 else b.pin - 1
  if pin == 0 && (drop || b.evict) then none else some { b with fill := false, pin := pin }

/-- R252, R255: releases the block that begins at xa. -/
def execSprel (a b : Reg) (s : State) : Host.Outcome State Fault Refusal :=
  issue .plain 4 s fun s => s.unlessPoison [a, b] fun s =>
    let k := s.tk
    let c := s.cluster k.cluster
    match c.blocks.find? (fun x => x.addr == (s.x a).toNat && x.kid == k.kid) with
    | none => (s, .fault 0x63 0 0)
    | some x =>
      if x.pin == 0 || (x.fill && x.filler != s.cur) then (s, .fault 0x63 0 0)
      else
        let rest := c.blocks.filter fun y => y.base != x.base
        (s.setCluster k.cluster { c with blocks := rest ++ (x.release ((s.x b).getLsbD 0)).toList }, .done)

end Sys2Proof.Machine
end

