-- ==== Sys2Proof/Machine/Start.lean ====
section
/-! DEFINITION. The start of the device (R32 to R34, R453) and the core clock (R42, R43, R473). -/

namespace Sys2Proof.Machine

/-! ## The start sequence -/

/-- STEP of DEVSTAT (R34). -/
def State.startStep (s : State) : Nat := s.devstat.toNat / 16 % 16

/-- A step of the start sequence: it begins when the one before it has succeeded, step 2 when the PSC's image has reported step 1 (R480);
when it fails, the sequence stops (R32, R33). -/
def State.atStep (s : State) (n : Nat) (ok : Bool) (f : State → State) : State :=
  if s.startStep + 1 != n || s.devstat.getLsbD 1 || (n == 2 && (s.fwk 1).trial) then s
  else
    let s := { s with devstat := BitVec.ofNat 64 (16 * n + (if ok then 0 else 2)) }
    if ok then f s else s

/-- A kind's images at a power cycle: measurement registers start at zero (R486); an image on its way through a hand-over is gone, one
that is staged or verified is kept. -/
def FwKind.powerUp (f : FwKind) (now : Nat) : FwKind :=
  let keep := f.st == .staged || f.st == .verified || f.st == .committed
  let f := if f.st == .probation then
      { f with image := f.pimage, pimage := none, version := f.pversion, svn := f.psvn, srprod := f.psrprod, digest := f.pdigest
               pversion := 0, psvn := 0, psrprod := 0, pdigest := [] }
    else f
  { (if keep then f else f.discard now) with
    mr := List.replicate 32 0, caught := [], switched := [], beats := [], count := 0, startAt := now, insts := [], trapped := false, trial := false }

/-- What a power cycle leaves: everything at reset but chip time, the schedule, the fuses, the environment's configuration and the images;
the per-boot key is a new one (R292). -/
def State.powerUp (s : State) : State :=
  { State.reset with
    now := s.now, agenda := s.agenda, free := s.free, boot := s.boot + 1, enmap := s.enmap, hostMap := s.hostMap, pwrlim := s.pwrlim
    ups := s.ups, master := s.master, hlease := s.hlease, out := s.out
    fw := [1, 2, 3, 4].map fun k => (k, (s.fwk k).powerUp s.now) }

/-- R32, R480, R486: power is good: the PSC boots and verifies its image; pscOk says that it reports step 1. A new PSC image that does not
report it has 1 s until the previous one boots. Every kind is measured, the PSC's when the image runs. -/
def execPowerGood (pscOk : Bool) (s : State) : Host.Outcome State Fault Refusal :=
  event s fun s =>
    let s := s.powerUp
    let ok := pscOk && s.startImageOk 1
    let wait := !ok && (s.fwk 1).st == .verified
    let s := { s with devstat := BitVec.ofNat 64 (16 + (if ok || wait then 0 else 2)) }.measureBoot
    let s := if ok then (s.setFw 1 ((s.fwk 1).takeEffect s.now)).bootKind 1
             else if wait then s.setFw 1 { s.fwk 1 with trial := true } else s
    if ok || wait then [2, 3, 4].foldl (fun (s : State) k => s.measure k 3) s else s

/-- To the PSC: a stack's capacity in bytes and its spare rows (R32). -/
def msgCapacity : Nat := 16

/-- R32, R471: step 2, the stack controllers, verified and released; each trains its stack and reports its capacity and spare rows. -/
def execStackBringup (reports : Option (List (Nat × Nat))) (s : State) : Host.Outcome State Fault Refusal :=
  event s fun s => s.atStep 2 (reports.isSome && s.startImageOk 4) fun s =>
    (List.range 8).foldl (fun (s : State) k =>
      let r := (reports.getD []).getD k (0, 0)
      ((s.setStack k { s.stack k with capacity := r.1, spares := r.2, trainings := (s.stack k).trainings + 1, scrubAt := s.now }).send 1 msgCapacity [k, r.1, r.2]).reportSpares k) (s.bootKind 4)

/-- R32: step 3, all 32 comb lines lock. -/
def execCombLock (ok : Bool) (s : State) : Host.Outcome State Fault Refusal :=
  event s fun s => s.atStep 3 ok fun s =>
    { s with comb := (List.range 32).map fun i => (i, { s.line (i / 16) (i % 16) with state := 2 }) }

/-- The internal ports (R30). -/
def internalPorts : List Nat := (List.range 12).map (96 + ·)

/-- R32: step 4: the switch controller, verified and released, trains ports 96 to 107, which come up by the moves of R430; a training that
fails ends the start. -/
def execSwitchPortTrain (ok : Bool) (s : State) : Host.Outcome State Fault Refusal :=
  event s fun s =>
    if s.startStep == 4 then (if ok then s else { s with devstat := s.devstat ||| 2 })
    else s.atStep 4 (ok && s.startImageOk 3) fun s => internalPorts.foldl (fun (s : State) i => s.toPort i .train) (s.bootKind 3)

/-- R32: step 5, once ports 96 to 107 are trained: the MGCs, verified and released, start the thermal loop of every optical matrix unit;
the first probes find no loaded bank. -/
def execMgcRelease (ok : Bool) (s : State) : Host.Outcome State Fault Refusal :=
  event s fun s =>
    if !(internalPorts.all fun i => (s.port i).sends) then s
    else s.atStep 5 (ok && s.startImageOk 2) fun s =>
      ((List.range 96).filter fun c => s.enmap.getLsbD (96 + c)).foldl (fun (s : State) c => s.setCluster c { s.cluster c with thermal := true, unlockAt := some s.now }) (s.bootKind 2)

/-- R32: step 6: READY. -/
def execSetReady (s : State) : Host.Outcome State Fault Refusal :=
  event s fun s => s.atStep 6 true fun s => { s with devstat := s.devstat ||| 1 }

/-- R33, R453: the link trains: without CXL.cache and CXL.mem it answers configuration space only. -/
def execCxlLinkTrain (cache mem : Bool) (s : State) : Host.Outcome State Fault Refusal :=
  event s fun s => { s with linkUp := cache && mem, linkBad := !(cache && mem) }

/-! ## The core clock -/

/-- One step down, to no lower than 1.2 GHz (R42). -/
def clockDown (c : Nat) : Nat := max Config.clockLow (c - 100)
/-- One step up. -/
def clockUp (c : Nat) : Nat := min Config.clockTop (c + 100)

/-- R42: the PSC compares the 1 ms average of the input power, in mW, with PWRLIM. -/
def execPowerSample (avg : Nat) (s : State) : Host.Outcome State Fault Refusal :=
  event s fun s =>
    if s.pwrlim < avg then { s with clock := clockDown s.clock }
    else if avg * 100 ≤ s.pwrlim * 95 then { s with clock := clockUp s.clock }
    else s

/-- R473: a die's junction reaches 105 °C. -/
def execDieJunctionLimit (d : Nat) (s : State) : Host.Outcome State Fault Refusal :=
  event s fun s => let k := s.die d; s.setDie d { k with limit := clockDown k.limit, coolAt := s.now }

/-- R473: a die's junction has stayed below 100 °C for 1 ms. -/
def execDieJunctionRecover (d : Nat) (s : State) : Host.Outcome State Fault Refusal :=
  event s fun s =>
    let k := s.die d
    if k.coolAt + 1000000 ≤ s.now then s.setDie d { k with limit := clockUp k.limit, coolAt := s.now } else s

end Sys2Proof.Machine
end

