-- ==== Sys2Proof/Machine/Tile.lean ====
section
/-! DEFINITION. TILE instructions (R312 to R315): tld, tst, tzero and tacc, and the steps in which the unit runs the last two. -/

namespace Sys2Proof.Machine

/-- Whether a tile of the current thread's cluster is VALID and its kernel's (R313). -/
def State.ownsTile (s : State) (n : Nat) : Bool :=
  let t := AMap.get (s.cluster s.tk.cluster).tcfg n 0
  tcfgValid t && tcfgOwner t == s.tk.kid % 65536

/-- The checks and the wait of tld and tst; f gets the key of the first byte (R313, R315). -/
def tileAccess (a : Reg) (n : BitVec 4) (f : State → Nat → State) (s : State) : State × Res :=
  s.unlessPoison [a] fun s =>
    let o := (s.x a).toNat
    let c := s.cluster s.tk.cluster
    if !s.ownsTile n.toNat then (s, .fault 0x25 0 0)
    else if o % 8 != 0 || 69632 < o + Config.vlen / 8 then (s, .fault 0x25 0 0)
    else if c.tileHolds s.cur.1 s.cur.2 n.toNat c.clock then (s, .wait .tile)
    else (f s (tileKey s.tk.cluster n.toNat o), .done)

/-- R313: loads VLEN/8 bytes of a tile with their poison. -/
def execTld (d a : Reg) (n : BitVec 4) (s : State) : Host.Outcome State Fault Refusal :=
  issue .plain 8 s (tileAccess a n fun s key =>
    let bs := s.mem.read key 128
    let pois := (List.range 16).map fun i => if ((bs.drop (8 * i)).take 8).any PByte.p then 2 ^ i else 0
    s.setThr (s.thr.setV d (BitVec.ofNat 1024 (leNat (bs.map PByte.b))) (BitVec.ofNat 16 pois.sum)))

/-- R313: stores a vector register into a tile with the poison of its chunks. -/
def execTst (d a : Reg) (n : BitVec 4) (s : State) : Host.Outcome State Fault Refusal :=
  issue .plain 8 s (tileAccess a n fun s key =>
    let bs := ((leBytes 128 (s.thr.vr d).toNat).zip (List.range 128)).map fun b => ⟨b.1, s.thr.vpr d (b.2 / 8)⟩
    { s with mem := s.mem.write key bs })

/-- R314: the own unit takes a zeroing of a tile. -/
def execTzero (d : Reg) (n : BitVec 4) (s : State) : Host.Outcome State Fault Refusal :=
  issue .plain 8 s (viaOmu fun s =>
    if !s.ownsTile n.toNat then (s, .fault 0x25 0 0)
    else s.submit s.tk.cluster (s.newOmu (.tzero n.toNat) d none []))

/-- R314: the own unit takes the addition of tile M to tile N. -/
def execTacc (d : Reg) (n m : BitVec 4) (s : State) : Host.Outcome State Fault Refusal :=
  issue .plain 8 s (viaOmu fun s =>
    let c := s.cluster s.tk.cluster
    let a := AMap.get c.tcfg n.toNat 0
    let b := AMap.get c.tcfg m.toNat 0
    if !s.ownsTile n.toNat || !s.ownsTile m.toNat then (s, .fault 0x25 0 0)
    else if n = m || tcfgFmt a != 2 || tcfgFmt b != 2 || tcfgRows a != tcfgRows b || tcfgChunks a != tcfgChunks b then
      (s, .fault 0x22 0 0)
    else s.submit s.tk.cluster (s.newOmu (.tacc n.toNat m.toNat) d none []))

/-- R314: the unit zeroes a tile and clears its poison. -/
def execOmuTzero (cl : Nat) (s : State) : Host.Outcome State Fault Refusal :=
  event s fun s =>
    match (s.cluster cl).nextOp with
    | some o =>
      match o.kind with
      | .tzero n => ({ s with mem := s.mem.zero (tileKey cl n 0) 69632 } : State).endOmu cl o none
      | _ => s
    | none => s

/-- One element of a tacc: the rounded sum with the poison of both (R300, R314). -/
def taccElem (x y : List PByte) : List PByte :=
  pbytes 4 (f32.add rne (leNat (x.map PByte.b)) (leNat (y.map PByte.b))).1 (x.any PByte.p || y.any PByte.p)

/-- R314: the unit adds one F32 tile to another. -/
def execOmuTacc (cl : Nat) (s : State) : Host.Outcome State Fault Refusal :=
  event s fun s =>
    match (s.cluster cl).nextOp with
    | some o =>
      match o.kind with
      | .tacc n m =>
        let t := AMap.get (s.cluster cl).tcfg n 0
        let words := tcfgRows t * tcfgRow t / 4
        let x := s.mem.read (tileKey cl n 0) (4 * words)
        let y := s.mem.read (tileKey cl m 0) (4 * words)
        let r := (List.range words).flatMap fun i => taccElem ((x.drop (4 * i)).take 4) ((y.drop (4 * i)).take 4)
        ({ s with mem := s.mem.write (tileKey cl n 0) r } : State).endOmu cl o none
      | _ => s
    | none => s

end Sys2Proof.Machine
end

