-- ==== Sys2Proof/Machine/Time.lean ====
section
/-! DEFINITION. The states of the copies of chip time (R402 to R404, R434): slot edges and their absence. -/

namespace Sys2Proof.Machine

/-- A copy of chip time. -/
def State.timeOf (s : State) (u : TimeUnit) : TimeCopy :=
  match u with
  | .cluster c => (s.cluster c).time
  | .die d => (s.die d).time
  | .pod => s.podTime

/-- Replace a copy. -/
def State.setTime (s : State) (u : TimeUnit) (t : TimeCopy) : State :=
  match u with
  | .cluster c => s.setCluster c { s.cluster c with time := t }
  | .die d => s.setDie d { s.die d with time := t }
  | .pod => { s with podTime := t }

/-- The contexts with a task on a die. -/
def State.ctxsOnDie (s : State) (d : Nat) : List Nat :=
  (s.tasks.filter fun (t : Nat × Task) => t.2.place != .none && dieOf t.2.cluster == d).foldl
    (fun (l : List Nat) (t : Nat × Task) => natInsert l t.2.ctx) []

/-- What goes when a copy enters UNSYNC (R402, R404): a cluster's translations and data-cache lines; with the pod bound, those of pages with
skew bound 40; with a walker pool's copy, nothing, but each context with a task on the die gets 0x12, KIND 5. -/
def State.dropUnsync (s : State) (u : TimeUnit) : State :=
  match u with
  | .cluster c =>
    (List.range 16).foldl (fun (s : State) i => s.dropLines (16 * c + i) fun _ => true) (s.setCluster c { s.cluster c with tlb := [] })
  | .pod =>
    { s with
      clusters := s.clusters.map fun (c : Nat × Cluster) => (c.1, { c.2 with tlb := c.2.tlb.filter fun t => t.skew != 40 })
      cores := s.cores.map fun (c : Nat × Core) => (c.1, { c.2 with dcache := c.2.dcache.filter fun l => l.skew != 40 }) }
  | .die d => (s.ctxsOnDie d).foldl (fun (s : State) c => s.ringPut c (s.noteRec 0x12 5 0 0 0)) s

/-- A copy enters UNSYNC. -/
def State.toUnsync (s : State) (u : TimeUnit) : State :=
  let t := s.timeOf u
  (s.setTime u { t with st := .unsync, good := 0, need := 16, loss := t.loss + 1 }).dropUnsync u

/-- What a measured edge does to a copy that keeps its state or gains one (R402): the edges that agree are counted. -/
def TimeCopy.agree (t : TimeCopy) : TimeCopy :=
  let n := t.good + 1
  match t.st with
  | .sync => { t with good := n }
  | .hold => if t.need ≤ n then { t with st := .sync, good := 0, need := 1 } else { t with good := n }
  | .unsync => if 16 ≤ n then { t with st := .sync, good := 0, need := 1 } else { t with good := n }

/-- A copy that an edge finds err ns ahead of it: that is its distance from chip time now, which it slews away (R402; log entry 7). -/
def TimeCopy.measured (t : TimeCopy) (now : Nat) (err : Int) : TimeCopy :=
  { t with err := err, lost := 0, slew := -err, floor := t.read now }

/-- A slot edge finds a copy err ns ahead of it (R402). -/
def State.slotEdge (s : State) (u : TimeUnit) (err : Int) : State :=
  let t := (s.timeOf u).measured s.now err
  if err.natAbs ≤ 4 then s.setTime u t.agree
  else if t.st == .unsync then s.setTime u { t with good := 0 }
  else (s.setTime u t).toUnsync u

/-- R402, R434: a slot edge that finds the copy err ns ahead of it, which is where the copy stands: it never jumps; the edges of the upstream
port come later by its delay. -/
def execSlotEdge (u : TimeUnit) (err : Int) (s : State) : Host.Outcome State Fault Refusal :=
  event s fun s =>
    let d := if u = .pod then err - s.edgeDelay else err
    if d = (s.timeOf u).off then s.slotEdge u d else s

/-- The local oscillator of a copy drifts by one ns (R402; log entry 117): CTIME does not decrease, and a copy in SYNC or HOLD is never more
than 5 ns off. -/
def State.drift (s : State) (u : TimeUnit) (ahead : Bool) : State :=
  let t := s.timeOf u
  let off := if ahead then t.off + 1 else t.off - 1
  if t.st != .unsync && 5 < off.natAbs then s else s.setTime u { t with off := off, floor := t.read s.now }

/-- Whether a die gets the light of the switch: one of its ports carries light that darkens at each slot (R30, R433). -/
def State.edgesReach (s : State) (d : Nat) : Bool :=
  [104 + 2 * d, 105 + 2 * d].any fun i => (s.port i).sends || (s.port i).st == .lock

/-- The slot edges of the moment: at chip time 256 × n the copies of each die that gets the switch's light are measured (R402, R433; log entry
112). -/
def State.slotEdges (s : State) : State :=
  if s.now % 256 != 0 then s
  else (List.range 2).foldl (fun (s : State) d =>
    if !s.edgesReach d then s
    else
      let s := s.slotEdge (.die d) (s.die d).time.off
      ((s.clusters.map Prod.fst).filter fun c => dieOf c == d).foldl (fun (s : State) c => s.slotEdge (.cluster c) (s.cluster c).time.off) s) s

/-- R402, R434: no edge for one more slot: HOLD after one, UNSYNC after 64; the pod bound looks for another upstream port. -/
def execSlotEdgeTimeout (u : TimeUnit) (s : State) : Host.Outcome State Fault Refusal :=
  event s fun s =>
    let t := s.timeOf u
    let t := { t with lost := t.lost + 1, good := 0 }
    let s := if t.st != .unsync && 64 ≤ t.lost then (s.setTime u t).toUnsync u
             else s.setTime u (if t.st == .sync then { t with st := .hold, need := 1 } else t)
    if u = .pod then s.selectUp else s

end Sys2Proof.Machine
end

