-- ==== Sys2Proof/Machine/VecBit.lean ====
section
/-! DEFINITION. Meanings of the vector bitwise instructions (R199). -/

namespace Sys2Proof.Machine

/-- A bitwise function of two lanes of width w. -/
def vbit2 (g : Nat → Nat → Nat → Nat) (f : VX) (lit : Option (BitVec 32)) (s : State) : State × Res :=
  vec2 (fun a b => (g (laneW f) a b, 0)) f (s.thr.bLanes f f.et.toNat true lit) s

/-- A bitwise function of the B lane. -/
def vbit1 (g : Nat → Nat → Nat) (f : VX) (lit : Option (BitVec 32)) (s : State) : State × Res :=
  vec1 (fun b => (g (laneW f) b, 0)) f (s.thr.bLanes f f.et.toNat true lit) s

/-- The complement of w bits. -/
def notW (w v : Nat) : Nat := 2 ^ w - 1 - v % 2 ^ w

/-- The field that a vbfx lane selects (R158, R199). -/
def vbfxLane (sg : Bool) (w a b : Nat) : Nat :=
  let off := if w == 8 then b % 16 else b % 256
  let wid := if w == 8 then b / 16 % 16 else b / 256 % 256
  if sg then fieldS w a off wid else fieldZ w a off wid

/-- R199: a AND b. -/
def execVand (f : VX) (s : State) : Host.Outcome State Fault Refusal := issue .barred 8 s (vbit2 (fun _ a b => a &&& b) f none)
/-- R55: the literal form of vand. -/
def execVandLit (f : VX) (lit : BitVec 32) (s : State) : Host.Outcome State Fault Refusal :=
  issue .barred 12 s (vbit2 (fun _ a b => a &&& b) f (some lit))
/-- R199: a OR b. -/
def execVor (f : VX) (s : State) : Host.Outcome State Fault Refusal := issue .barred 8 s (vbit2 (fun _ a b => a ||| b) f none)
/-- R55: the literal form of vor. -/
def execVorLit (f : VX) (lit : BitVec 32) (s : State) : Host.Outcome State Fault Refusal :=
  issue .barred 12 s (vbit2 (fun _ a b => a ||| b) f (some lit))
/-- R199: a XOR b. -/
def execVxor (f : VX) (s : State) : Host.Outcome State Fault Refusal := issue .barred 8 s (vbit2 (fun _ a b => a ^^^ b) f none)
/-- R55: the literal form of vxor. -/
def execVxorLit (f : VX) (lit : BitVec 32) (s : State) : Host.Outcome State Fault Refusal :=
  issue .barred 12 s (vbit2 (fun _ a b => a ^^^ b) f (some lit))
/-- R199: a AND NOT b. -/
def execVandn (f : VX) (s : State) : Host.Outcome State Fault Refusal := issue .barred 8 s (vbit2 (fun w a b => a &&& notW w b) f none)
/-- R55: the literal form of vandn. -/
def execVandnLit (f : VX) (lit : BitVec 32) (s : State) : Host.Outcome State Fault Refusal :=
  issue .barred 12 s (vbit2 (fun w a b => a &&& notW w b) f (some lit))
/-- R199: NOT b. -/
def execVnot (f : VX) (s : State) : Host.Outcome State Fault Refusal := issue .barred 8 s (vbit1 notW f none)
/-- R55: the literal form of vnot. -/
def execVnotLit (f : VX) (lit : BitVec 32) (s : State) : Host.Outcome State Fault Refusal :=
  issue .barred 12 s (vbit1 notW f (some lit))
/-- R199: the number of ones. -/
def execVpopc (f : VX) (s : State) : Host.Outcome State Fault Refusal := issue .barred 8 s (vbit1 popcount f none)
/-- R55: the literal form of vpopc. -/
def execVpopcLit (f : VX) (lit : BitVec 32) (s : State) : Host.Outcome State Fault Refusal :=
  issue .barred 12 s (vbit1 popcount f (some lit))
/-- R199: leading zeros. -/
def execVclz (f : VX) (s : State) : Host.Outcome State Fault Refusal := issue .barred 8 s (vbit1 leadZeros f none)
/-- R55: the literal form of vclz. -/
def execVclzLit (f : VX) (lit : BitVec 32) (s : State) : Host.Outcome State Fault Refusal :=
  issue .barred 12 s (vbit1 leadZeros f (some lit))
/-- R199: trailing zeros. -/
def execVctz (f : VX) (s : State) : Host.Outcome State Fault Refusal := issue .barred 8 s (vbit1 trailZeros f none)
/-- R55: the literal form of vctz. -/
def execVctzLit (f : VX) (lit : BitVec 32) (s : State) : Host.Outcome State Fault Refusal :=
  issue .barred 12 s (vbit1 trailZeros f (some lit))
/-- R199: the bits reversed. -/
def execVbrev (f : VX) (s : State) : Host.Outcome State Fault Refusal := issue .barred 8 s (vbit1 revBits f none)
/-- R55: the literal form of vbrev. -/
def execVbrevLit (f : VX) (lit : BitVec 32) (s : State) : Host.Outcome State Fault Refusal :=
  issue .barred 12 s (vbit1 revBits f (some lit))
/-- R199: the position of the set bit with b set bits below it. -/
def execVfnsb (f : VX) (s : State) : Host.Outcome State Fault Refusal := issue .barred 8 s (vbit2 fnsb f none)
/-- R55: the literal form of vfnsb. -/
def execVfnsbLit (f : VX) (lit : BitVec 32) (s : State) : Host.Outcome State Fault Refusal :=
  issue .barred 12 s (vbit2 fnsb f (some lit))
/-- R199: the field of a that b names. -/
def execVbfx (f : VX) (s : State) : Host.Outcome State Fault Refusal := issue .barred 8 s (vbit2 (vbfxLane (etS f.et.toNat)) f none)
/-- R55: the literal form of vbfx. -/
def execVbfxLit (f : VX) (lit : BitVec 32) (s : State) : Host.Outcome State Fault Refusal :=
  issue .barred 12 s (vbit2 (vbfxLane (etS f.et.toNat)) f (some lit))

end Sys2Proof.Machine
end

