-- ==== Sys2Proof/Machine/VecCmp.lean ====
section
/-! DEFINITION. Meanings of the vector comparisons (R200). -/

namespace Sys2Proof.Machine

/-- A comparison of two lanes: the relation and the flags; a poisoned active lane raises 0x51 (R195). -/
def vcmpOp (g : Bool → Nat → Nat → Bool × Nat) (f : VX) (lit : Option (BitVec 32)) (s : State) : State × Res :=
  let t := s.thr
  let a := t.lanes f.va (laneW f)
  let b := t.bOwn f lit
  unlessLanePois f [a, b] (fun s =>
    let rs := List.zipWith (fun (x y : Lane1) => g t.fz x.1 y.1) a b
    let fl := orAll (List.zipWith (fun (o : Bool) (r : Bool × Nat) => if o then r.2 else 0) (t.active f) rs)
    predResult f (rs.map Prod.fst) (s.orFlags fl)) s

/-- An integer relation. -/
def vcmpInt (g : Nat → Nat → Nat → Bool) (f : VX) (lit : Option (BitVec 32)) (s : State) : State × Res :=
  vcmpOp (fun _ a b => (g (laneW f) a b, 0)) f lit s

/-- Either is NaN, with subnormals as they are. -/
def unordLane (g : FF) (_fz : Bool) (a b : Nat) : Bool × Nat := g.unord a b

/-- R200: a = b. -/
def execVcmpeq (f : VX) (s : State) : Host.Outcome State Fault Refusal := issue .barred 8 s (vcmpInt (fun _ a b => a == b) f none)
/-- R55: the literal form of vcmpeq. -/
def execVcmpeqLit (f : VX) (lit : BitVec 32) (s : State) : Host.Outcome State Fault Refusal :=
  issue .barred 12 s (vcmpInt (fun _ a b => a == b) f (some lit))
/-- R200: a ≠ b. -/
def execVcmpne (f : VX) (s : State) : Host.Outcome State Fault Refusal := issue .barred 8 s (vcmpInt (fun _ a b => a != b) f none)
/-- R55: the literal form of vcmpne. -/
def execVcmpneLit (f : VX) (lit : BitVec 32) (s : State) : Host.Outcome State Fault Refusal :=
  issue .barred 12 s (vcmpInt (fun _ a b => a != b) f (some lit))
/-- R200: a < b, signed. -/
def execVcmplt (f : VX) (s : State) : Host.Outcome State Fault Refusal := issue .barred 8 s (vcmpInt (fun w a b => toInt w a < toInt w b) f none)
/-- R55: the literal form of vcmplt. -/
def execVcmpltLit (f : VX) (lit : BitVec 32) (s : State) : Host.Outcome State Fault Refusal :=
  issue .barred 12 s (vcmpInt (fun w a b => toInt w a < toInt w b) f (some lit))
/-- R200: a ≤ b, signed. -/
def execVcmple (f : VX) (s : State) : Host.Outcome State Fault Refusal := issue .barred 8 s (vcmpInt (fun w a b => toInt w a ≤ toInt w b) f none)
/-- R55: the literal form of vcmple. -/
def execVcmpleLit (f : VX) (lit : BitVec 32) (s : State) : Host.Outcome State Fault Refusal :=
  issue .barred 12 s (vcmpInt (fun w a b => toInt w a ≤ toInt w b) f (some lit))
/-- R200: a < b, unsigned. -/
def execVcmpltu (f : VX) (s : State) : Host.Outcome State Fault Refusal := issue .barred 8 s (vcmpInt (fun _ a b => a < b) f none)
/-- R55: the literal form of vcmpltu. -/
def execVcmpltuLit (f : VX) (lit : BitVec 32) (s : State) : Host.Outcome State Fault Refusal :=
  issue .barred 12 s (vcmpInt (fun _ a b => a < b) f (some lit))
/-- R200: a ≤ b, unsigned. -/
def execVcmpleu (f : VX) (s : State) : Host.Outcome State Fault Refusal := issue .barred 8 s (vcmpInt (fun _ a b => a ≤ b) f none)
/-- R55: the literal form of vcmpleu. -/
def execVcmpleuLit (f : VX) (lit : BitVec 32) (s : State) : Host.Outcome State Fault Refusal :=
  issue .barred 12 s (vcmpInt (fun _ a b => a ≤ b) f (some lit))
/-- R200: a = b. -/
def execVfcmpeq (f : VX) (s : State) : Host.Outcome State Fault Refusal := issue .barred 8 s (vcmpOp (ffOf f.et.toNat).eq f none)
/-- R55: the literal form of vfcmpeq. -/
def execVfcmpeqLit (f : VX) (lit : BitVec 32) (s : State) : Host.Outcome State Fault Refusal :=
  issue .barred 12 s (vcmpOp (ffOf f.et.toNat).eq f (some lit))
/-- R200: a < b. -/
def execVfcmplt (f : VX) (s : State) : Host.Outcome State Fault Refusal := issue .barred 8 s (vcmpOp (ffOf f.et.toNat).lt f none)
/-- R55: the literal form of vfcmplt. -/
def execVfcmpltLit (f : VX) (lit : BitVec 32) (s : State) : Host.Outcome State Fault Refusal :=
  issue .barred 12 s (vcmpOp (ffOf f.et.toNat).lt f (some lit))
/-- R200: a ≤ b. -/
def execVfcmple (f : VX) (s : State) : Host.Outcome State Fault Refusal := issue .barred 8 s (vcmpOp (ffOf f.et.toNat).le f none)
/-- R55: the literal form of vfcmple. -/
def execVfcmpleLit (f : VX) (lit : BitVec 32) (s : State) : Host.Outcome State Fault Refusal :=
  issue .barred 12 s (vcmpOp (ffOf f.et.toNat).le f (some lit))
/-- R200: either is NaN. -/
def execVfcmpun (f : VX) (s : State) : Host.Outcome State Fault Refusal := issue .barred 8 s (vcmpOp (unordLane (ffOf f.et.toNat)) f none)
/-- R55: the literal form of vfcmpun. -/
def execVfcmpunLit (f : VX) (lit : BitVec 32) (s : State) : Host.Outcome State Fault Refusal :=
  issue .barred 12 s (vcmpOp (unordLane (ffOf f.et.toNat)) f (some lit))

end Sys2Proof.Machine
end

