-- ==== Sys2Proof/Machine/VecInt.lean ====
section
/-! DEFINITION. Meanings of the vector integer instructions (R197). -/

namespace Sys2Proof.Machine

/-- A lane as a number of its type. -/
def laneV (sg : Bool) (w v : Nat) : Int := if sg then toInt w v else (v : Int)

/-- An exact result as a lane: its low bits, or clamped to the type under SAT (R81, R197). -/
def fit (sg sat : Bool) (w : Nat) (v : Int) : Nat :=
  if sat then
    ofInt w (clampInt v (if sg then -(2 ^ (w - 1) : Nat) else 0) (if sg then (2 ^ (w - 1) : Nat) - 1 else (2 ^ w : Nat) - 1))
  else ofInt w v

/-- The sum of the products of bytes 0 to 3 (R197). -/
def dot4 (sg : Bool) (a b : Nat) : Int :=
  ((List.range 4).map fun j => laneV sg 8 (laneOf a 8 j) * laneV sg 8 (laneOf b 8 j)).sum

/-- An integer function of two lanes: signedness, width, SAT. -/
def vint2 (g : Bool → Nat → Bool → Nat → Nat → Nat) (f : VX) (lit : Option (BitVec 32)) (s : State) : State × Res :=
  vec2 (fun a b => (g (etS f.et.toNat) (laneW f) f.sat a b, 0)) f (s.thr.bOwn f lit) s

/-- An integer function of the B lane. -/
def vint1 (g : Bool → Nat → Bool → Nat → Nat) (f : VX) (lit : Option (BitVec 32)) (s : State) : State × Res :=
  vec1 (fun b => (g (etS f.et.toNat) (laneW f) f.sat b, 0)) f (s.thr.bOwn f lit) s

/-- An exact binary integer operation, wrapped or clamped. -/
def exact2 (g : Int → Int → Int) (sg : Bool) (w : Nat) (sat : Bool) (a b : Nat) : Nat := fit sg sat w (g (laneV sg w a) (laneV sg w b))

/-- A multiply-add of three lanes. -/
def vmaddOp (f : VX) (lit : Option (BitVec 32)) (s : State) : State × Res :=
  let sg := etS f.et.toNat
  let w := laneW f
  vec3 (fun a b c => (fit sg f.sat w (laneV sg w a * laneV sg w b + laneV sg w c), 0)) f (s.thr.bOwn f lit) f.vc s

/-- Four byte products added to vd. -/
def vdot4Op (f : VX) (lit : Option (BitVec 32)) (s : State) : State × Res :=
  let sg := etS f.et.toNat
  vec3 (fun a b d => (fit sg f.sat 32 (laneV sg 32 d + dot4 sg a b), 0)) f (s.thr.bOwn f lit) f.vd s

/-- R197: a + b. -/
def execVadd (f : VX) (s : State) : Host.Outcome State Fault Refusal := issue .barred 8 s (vint2 (exact2 (· + ·)) f none)
/-- R55: the literal form of vadd. -/
def execVaddLit (f : VX) (lit : BitVec 32) (s : State) : Host.Outcome State Fault Refusal :=
  issue .barred 12 s (vint2 (exact2 (· + ·)) f (some lit))
/-- R197: a − b. -/
def execVsub (f : VX) (s : State) : Host.Outcome State Fault Refusal := issue .barred 8 s (vint2 (exact2 (· - ·)) f none)
/-- R55: the literal form of vsub. -/
def execVsubLit (f : VX) (lit : BitVec 32) (s : State) : Host.Outcome State Fault Refusal :=
  issue .barred 12 s (vint2 (exact2 (· - ·)) f (some lit))
/-- R197: the low bits of a × b. -/
def execVmul (f : VX) (s : State) : Host.Outcome State Fault Refusal := issue .barred 8 s (vint2 (exact2 (· * ·)) f none)
/-- R55: the literal form of vmul. -/
def execVmulLit (f : VX) (lit : BitVec 32) (s : State) : Host.Outcome State Fault Refusal :=
  issue .barred 12 s (vint2 (exact2 (· * ·)) f (some lit))
/-- R197: the high half of the exact product. -/
def execVmulh (f : VX) (s : State) : Host.Outcome State Fault Refusal := issue .barred 8 s (vint2 (fun sg w _ a b => ofInt w (laneV sg w a * laneV sg w b / (2 ^ w : Nat))) f none)
/-- R55: the literal form of vmulh. -/
def execVmulhLit (f : VX) (lit : BitVec 32) (s : State) : Host.Outcome State Fault Refusal :=
  issue .barred 12 s (vint2 (fun sg w _ a b => ofInt w (laneV sg w a * laneV sg w b / (2 ^ w : Nat))) f (some lit))
/-- R197: a × b + c. -/
def execVmadd (f : VX) (s : State) : Host.Outcome State Fault Refusal := issue .barred 8 s (vmaddOp f none)
/-- R55: the literal form of vmadd. -/
def execVmaddLit (f : VX) (lit : BitVec 32) (s : State) : Host.Outcome State Fault Refusal :=
  issue .barred 12 s (vmaddOp f (some lit))
/-- R197: |b|. -/
def execVabs (f : VX) (s : State) : Host.Outcome State Fault Refusal := issue .barred 8 s (vint1 (fun sg w sat b => fit sg sat w (laneV sg w b).natAbs) f none)
/-- R55: the literal form of vabs. -/
def execVabsLit (f : VX) (lit : BitVec 32) (s : State) : Host.Outcome State Fault Refusal :=
  issue .barred 12 s (vint1 (fun sg w sat b => fit sg sat w (laneV sg w b).natAbs) f (some lit))
/-- R197: −b. -/
def execVneg (f : VX) (s : State) : Host.Outcome State Fault Refusal := issue .barred 8 s (vint1 (fun sg w sat b => fit sg sat w (-(laneV sg w b))) f none)
/-- R55: the literal form of vneg. -/
def execVnegLit (f : VX) (lit : BitVec 32) (s : State) : Host.Outcome State Fault Refusal :=
  issue .barred 12 s (vint1 (fun sg w sat b => fit sg sat w (-(laneV sg w b))) f (some lit))
/-- R197: the lesser. -/
def execVmin (f : VX) (s : State) : Host.Outcome State Fault Refusal := issue .barred 8 s (vint2 (fun sg w _ a b => if laneV sg w b < laneV sg w a then b else a) f none)
/-- R55: the literal form of vmin. -/
def execVminLit (f : VX) (lit : BitVec 32) (s : State) : Host.Outcome State Fault Refusal :=
  issue .barred 12 s (vint2 (fun sg w _ a b => if laneV sg w b < laneV sg w a then b else a) f (some lit))
/-- R197: the greater. -/
def execVmax (f : VX) (s : State) : Host.Outcome State Fault Refusal := issue .barred 8 s (vint2 (fun sg w _ a b => if laneV sg w a < laneV sg w b then b else a) f none)
/-- R55: the literal form of vmax. -/
def execVmaxLit (f : VX) (lit : BitVec 32) (s : State) : Host.Outcome State Fault Refusal :=
  issue .barred 12 s (vint2 (fun sg w _ a b => if laneV sg w a < laneV sg w b then b else a) f (some lit))
/-- R197: the clamped sum. -/
def execVadds (f : VX) (s : State) : Host.Outcome State Fault Refusal := issue .barred 8 s (vint2 (fun sg w _ a b => exact2 (· + ·) sg w true a b) f none)
/-- R55: the literal form of vadds. -/
def execVaddsLit (f : VX) (lit : BitVec 32) (s : State) : Host.Outcome State Fault Refusal :=
  issue .barred 12 s (vint2 (fun sg w _ a b => exact2 (· + ·) sg w true a b) f (some lit))
/-- R197: the clamped difference. -/
def execVsubs (f : VX) (s : State) : Host.Outcome State Fault Refusal := issue .barred 8 s (vint2 (fun sg w _ a b => exact2 (· - ·) sg w true a b) f none)
/-- R55: the literal form of vsubs. -/
def execVsubsLit (f : VX) (lit : BitVec 32) (s : State) : Host.Outcome State Fault Refusal :=
  issue .barred 12 s (vint2 (fun sg w _ a b => exact2 (· - ·) sg w true a b) f (some lit))
/-- R197: ⌊(a + b + 1) / 2⌋. -/
def execVavg (f : VX) (s : State) : Host.Outcome State Fault Refusal := issue .barred 8 s (vint2 (fun sg w _ a b => ofInt w ((laneV sg w a + laneV sg w b + 1) / 2)) f none)
/-- R55: the literal form of vavg. -/
def execVavgLit (f : VX) (lit : BitVec 32) (s : State) : Host.Outcome State Fault Refusal :=
  issue .barred 12 s (vint2 (fun sg w _ a b => ofInt w ((laneV sg w a + laneV sg w b + 1) / 2)) f (some lit))
/-- R197: a shifted left; under SAT the exact value clamped. -/
def execVshl (f : VX) (s : State) : Host.Outcome State Fault Refusal := issue .barred 8 s (vint2 (fun sg w sat a b => fit sg sat w (laneV sg w a * (2 ^ (b % w) : Nat))) f none)
/-- R55: the literal form of vshl. -/
def execVshlLit (f : VX) (lit : BitVec 32) (s : State) : Host.Outcome State Fault Refusal :=
  issue .barred 12 s (vint2 (fun sg w sat a b => fit sg sat w (laneV sg w a * (2 ^ (b % w) : Nat))) f (some lit))
/-- R197: a shifted right, zero-filled. -/
def execVshr (f : VX) (s : State) : Host.Outcome State Fault Refusal := issue .barred 8 s (vint2 (fun _ w _ a b => a / 2 ^ (b % w)) f none)
/-- R55: the literal form of vshr. -/
def execVshrLit (f : VX) (lit : BitVec 32) (s : State) : Host.Outcome State Fault Refusal :=
  issue .barred 12 s (vint2 (fun _ w _ a b => a / 2 ^ (b % w)) f (some lit))
/-- R197: a shifted right, filled with the sign bit. -/
def execVsra (f : VX) (s : State) : Host.Outcome State Fault Refusal := issue .barred 8 s (vint2 (fun _ w _ a b => ofInt w (toInt w a / (2 ^ (b % w) : Nat))) f none)
/-- R55: the literal form of vsra. -/
def execVsraLit (f : VX) (lit : BitVec 32) (s : State) : Host.Outcome State Fault Refusal :=
  issue .barred 12 s (vint2 (fun _ w _ a b => ofInt w (toInt w a / (2 ^ (b % w) : Nat))) f (some lit))
/-- R197: adds four byte products to vd. -/
def execVdot4 (f : VX) (s : State) : Host.Outcome State Fault Refusal := issue .barred 8 s (vdot4Op f none)
/-- R55: the literal form of vdot4. -/
def execVdot4Lit (f : VX) (lit : BitVec 32) (s : State) : Host.Outcome State Fault Refusal :=
  issue .barred 12 s (vdot4Op f (some lit))
/-- R197: b. -/
def execVmov (f : VX) (s : State) : Host.Outcome State Fault Refusal := issue .barred 8 s (vint1 (fun _ _ _ b => b) f none)
/-- R55: the literal form of vmov. -/
def execVmovLit (f : VX) (lit : BitVec 32) (s : State) : Host.Outcome State Fault Refusal :=
  issue .barred 12 s (vint1 (fun _ _ _ b => b) f (some lit))

end Sys2Proof.Machine
end

