-- ==== Sys2Proof/Machine/VecCvt.lean ====
section
/-! DEFINITION. Meanings of the vector conversions and packings (R204, R205). -/

namespace Sys2Proof.Machine

/-- Convert one lane from type st to type et (R95 to R98): the value and the flags. -/
def cvtLane (st et : Nat) (r : Rnd) (v : Nat) : Nat × Nat :=
  let w := etBits et
  let lo : Int := if etS et then -(2 ^ (w - 1) : Nat) else 0
  let hi : Int := if etS et then (2 ^ (w - 1) : Nat) - 1 else (2 ^ w : Nat) - 1
  if 8 ≤ st then
    if 8 ≤ et then (ffOf st).convert (ffOf et) r v
    else
      let x := (ffOf st).toInteger r.mode r.fz lo hi v
      (ofInt w x.1, x.2)
  else
    let x := laneV (etS st) (etBits st) v
    if 8 ≤ et then (ffOf et).ofInteger r x else (ofInt w (if r.sat then clampInt x lo hi else x), 0)

/-- The source type of a conversion. -/
def srcType (f : VX) : Nat := f.imm.toNat % 16

/-- Convert source lanes, given as positions of destination lanes. -/
def cvtLanes (f : VX) (t : Thread) (pos : Nat → Nat) : List (Nat × Bool × Nat) :=
  let b := t.bLanes f (srcType f) false none
  (List.range (laneN f)).map fun i =>
    let l := b.getD (pos i) (0, false)
    let r := cvtLane (srcType f) f.et.toNat (t.rnd f.rm.toNat f.sat) l.1
    (r.1, l.2, r.2)

/-- A conversion that writes every lane. -/
def cvtOp (pos : VX → Nat → Nat) (f : VX) (s : State) : State × Res := vecResult f (cvtLanes f s.thr (pos f)) s

/-- A narrowing: the lanes q × n/r to q × n/r + n/r − 1 are written, all others stay. -/
def narrowOp (f : VX) (s : State) : State × Res :=
  let t := s.thr
  let m := laneN f / (etBits (srcType f) / laneW f)
  let lo := f.imm.toNat / 16 % 4 * m
  let rs := cvtLanes f t fun i => i - lo
  let act := t.active f
  let old := t.lanes f.vd (laneW f)
  let new := governed f act (rs.map fun r => (r.1, r.2.1)) old
  let fl := orAll ((List.zipWith (fun (o : Bool) (r : Nat × Bool × Nat) => if o then r.2.2 else 0) act rs).drop lo |>.take m)
  (s.setThr ((t.putLanes f.vd (laneW f) (old.take lo ++ (new.drop lo).take m ++ old.drop (lo + m))).orFlags fl), .done)

/-- Whether one of the first n chunks of a vector register is poisoned. -/
def Thread.vpAny (t : Thread) (r : Reg) (n : Nat) : Bool := (List.range n).any fun c => t.vpr r c

/-- Chunks that hold a block. -/
def blockChunks (dx8 : Bool) : Nat := (dxBytes dx8 + 7) / 8

/-- Pack 32 binary32 elements into one block with offset d (R102, R205). -/
def packOp (dx8 : Bool) (f : VX) (s : State) : State × Res :=
  let t := s.thr
  let r := dxPack dx8 f.imm.toNat ((t.lanes f.vb 32).map Prod.fst)
  let p := if t.vpAny f.vb 16 then BitVec.ofNat 16 (2 ^ blockChunks dx8 - 1) else 0
  (s.setThr ((t.setV f.vd (BitVec.ofNat 1024 (leNat r.1)) p).orFlags r.2), .done)

/-- Decode one block into 32 binary32 elements (R101, R205). -/
def unpackOp (dx8 : Bool) (f : VX) (s : State) : State × Res :=
  let t := s.thr
  let blk := leBytes (dxBytes dx8) (t.vr f.vb).toNat
  let v := ofLanes 32 ((List.range 32).map fun i => dxToF32 dx8 blk i)
  (s.setThr (t.setV f.vd (BitVec.ofNat 1024 v) (if t.vpAny f.vb (blockChunks dx8) then 0xFFFF else 0)), .done)

/-- R204: converts lanes of equal width. -/
def execVcvt (f : VX) (s : State) : Host.Outcome State Fault Refusal := issue .barred 8 s (cvtOp (fun _ i => i) f)
/-- R204: converts to narrower lanes. -/
def execVnarrow (f : VX) (s : State) : Host.Outcome State Fault Refusal := issue .barred 8 s (narrowOp f)
/-- R204: converts to wider lanes. -/
def execVwiden (f : VX) (s : State) : Host.Outcome State Fault Refusal := issue .barred 8 s (cvtOp (fun f i => f.imm.toNat / 16 % 4 * laneN f + i) f)
/-- R205: packs a DX8 block. -/
def execVpackdx (f : VX) (s : State) : Host.Outcome State Fault Refusal := issue .barred 8 s (packOp true f)
/-- R205: decodes a DX8 block. -/
def execVunpkdx (f : VX) (s : State) : Host.Outcome State Fault Refusal := issue .barred 8 s (unpackOp true f)
/-- R205: packs a DX4 block. -/
def execVpackdx4 (f : VX) (s : State) : Host.Outcome State Fault Refusal := issue .barred 8 s (packOp false f)
/-- R205: decodes a DX4 block. -/
def execVunpkdx4 (f : VX) (s : State) : Host.Outcome State Fault Refusal := issue .barred 8 s (unpackOp false f)

end Sys2Proof.Machine
end

