-- ==== Sys2Proof/Machine/VecFlt.lean ====
section
/-! DEFINITION. Meanings of the vector floating-point instructions (R198). -/

namespace Sys2Proof.Machine

/-- How the instruction rounds. -/
def Thread.vrnd (t : Thread) (f : VX) : Rnd := t.rnd f.rm.toNat f.sat

/-- A floating-point function of two lanes. -/
def vflt2 (g : FF → Rnd → Nat → Nat → Nat × Nat) (f : VX) (lit : Option (BitVec 32)) (s : State) : State × Res :=
  vec2 (g (ffOf f.et.toNat) (s.thr.vrnd f)) f (s.thr.bOwn f lit) s

/-- A floating-point function of the B lane. -/
def vflt1 (g : FF → Rnd → Nat → Nat × Nat) (f : VX) (lit : Option (BitVec 32)) (s : State) : State × Res :=
  vec1 (g (ffOf f.et.toNat) (s.thr.vrnd f)) f (s.thr.bOwn f lit) s

/-- A multiply-add with negations of the product and of c. -/
def vfmaOp (np nc : Bool) (f : VX) (lit : Option (BitVec 32)) (s : State) : State × Res :=
  vec3 ((ffOf f.et.toNat).fma (s.thr.vrnd f) np nc) f (s.thr.bOwn f lit) f.vc s

/-- Minimum or maximum; IMM9 = 1 ignores a NaN operand. -/
def vfminmax (mx : Bool) (f : VX) (lit : Option (BitVec 32)) (s : State) : State × Res :=
  vflt2 (fun g r a b => g.minmax r.fz mx (f.imm == 1) a b) f lit s

/-- R198: a + b. -/
def execVfadd (f : VX) (s : State) : Host.Outcome State Fault Refusal := issue .barred 8 s (vflt2 FF.add f none)
/-- R55: the literal form of vfadd. -/
def execVfaddLit (f : VX) (lit : BitVec 32) (s : State) : Host.Outcome State Fault Refusal :=
  issue .barred 12 s (vflt2 FF.add f (some lit))
/-- R198: a − b. -/
def execVfsub (f : VX) (s : State) : Host.Outcome State Fault Refusal := issue .barred 8 s (vflt2 FF.sub f none)
/-- R55: the literal form of vfsub. -/
def execVfsubLit (f : VX) (lit : BitVec 32) (s : State) : Host.Outcome State Fault Refusal :=
  issue .barred 12 s (vflt2 FF.sub f (some lit))
/-- R198: a × b. -/
def execVfmul (f : VX) (s : State) : Host.Outcome State Fault Refusal := issue .barred 8 s (vflt2 FF.mul f none)
/-- R55: the literal form of vfmul. -/
def execVfmulLit (f : VX) (lit : BitVec 32) (s : State) : Host.Outcome State Fault Refusal :=
  issue .barred 12 s (vflt2 FF.mul f (some lit))
/-- R198: a / b. -/
def execVfdiv (f : VX) (s : State) : Host.Outcome State Fault Refusal := issue .barred 8 s (vflt2 FF.div f none)
/-- R55: the literal form of vfdiv. -/
def execVfdivLit (f : VX) (lit : BitVec 32) (s : State) : Host.Outcome State Fault Refusal :=
  issue .barred 12 s (vflt2 FF.div f (some lit))
/-- R198: the square root of b. -/
def execVfsqrt (f : VX) (s : State) : Host.Outcome State Fault Refusal := issue .barred 8 s (vflt1 FF.sqrt f none)
/-- R55: the literal form of vfsqrt. -/
def execVfsqrtLit (f : VX) (lit : BitVec 32) (s : State) : Host.Outcome State Fault Refusal :=
  issue .barred 12 s (vflt1 FF.sqrt f (some lit))
/-- R198: a × b + c. -/
def execVfma (f : VX) (s : State) : Host.Outcome State Fault Refusal := issue .barred 8 s (vfmaOp false false f none)
/-- R55: the literal form of vfma. -/
def execVfmaLit (f : VX) (lit : BitVec 32) (s : State) : Host.Outcome State Fault Refusal :=
  issue .barred 12 s (vfmaOp false false f (some lit))
/-- R198: a × b − c. -/
def execVfms (f : VX) (s : State) : Host.Outcome State Fault Refusal := issue .barred 8 s (vfmaOp false true f none)
/-- R55: the literal form of vfms. -/
def execVfmsLit (f : VX) (lit : BitVec 32) (s : State) : Host.Outcome State Fault Refusal :=
  issue .barred 12 s (vfmaOp false true f (some lit))
/-- R198: −(a × b) − c. -/
def execVfnma (f : VX) (s : State) : Host.Outcome State Fault Refusal := issue .barred 8 s (vfmaOp true true f none)
/-- R55: the literal form of vfnma. -/
def execVfnmaLit (f : VX) (lit : BitVec 32) (s : State) : Host.Outcome State Fault Refusal :=
  issue .barred 12 s (vfmaOp true true f (some lit))
/-- R198: as fmin, or fminn. -/
def execVfmin (f : VX) (s : State) : Host.Outcome State Fault Refusal := issue .barred 8 s (vfminmax false f none)
/-- R55: the literal form of vfmin. -/
def execVfminLit (f : VX) (lit : BitVec 32) (s : State) : Host.Outcome State Fault Refusal :=
  issue .barred 12 s (vfminmax false f (some lit))
/-- R198: as fmax, or fmaxn. -/
def execVfmax (f : VX) (s : State) : Host.Outcome State Fault Refusal := issue .barred 8 s (vfminmax true f none)
/-- R55: the literal form of vfmax. -/
def execVfmaxLit (f : VX) (lit : BitVec 32) (s : State) : Host.Outcome State Fault Refusal :=
  issue .barred 12 s (vfminmax true f (some lit))
/-- R198: b with its sign cleared. -/
def execVfabs (f : VX) (s : State) : Host.Outcome State Fault Refusal := issue .barred 8 s (vflt1 (fun g _ b => (b % g.signBit, 0)) f none)
/-- R55: the literal form of vfabs. -/
def execVfabsLit (f : VX) (lit : BitVec 32) (s : State) : Host.Outcome State Fault Refusal :=
  issue .barred 12 s (vflt1 (fun g _ b => (b % g.signBit, 0)) f (some lit))
/-- R198: b with its sign inverted. -/
def execVfneg (f : VX) (s : State) : Host.Outcome State Fault Refusal := issue .barred 8 s (vflt1 (fun g _ b => (b % g.signBit + (if g.neg b then 0 else g.signBit), 0)) f none)
/-- R55: the literal form of vfneg. -/
def execVfnegLit (f : VX) (lit : BitVec 32) (s : State) : Host.Outcome State Fault Refusal :=
  issue .barred 12 s (vflt1 (fun g _ b => (b % g.signBit + (if g.neg b then 0 else g.signBit), 0)) f (some lit))

end Sys2Proof.Machine
end

