-- ==== Sys2Proof/Machine/VecPerm.lean ====
section
/-! DEFINITION. Meanings of the vector permutations (R202). -/

namespace Sys2Proof.Machine

/-- Go on with the index or count k: IMM9, or xb, whose poison raises 0x51. -/
def withIndex (f : VX) (s : State) (k : Nat → State × Res) : State × Res :=
  if f.xs then s.unlessPoison [f.vb] fun s => k (s.x f.vb).toNat else k f.imm.toNat

/-- Lane k of a list, or a zero lane. -/
def laneAt (ls : List Lane1) (k : Nat) : Lane1 := ls.getD k (0, false)

/-- Write lanes under R193 without flags. -/
def permResult (f : VX) (ls : List Lane1) (s : State) : State × Res := vecResult f (ls.map fun l => (l.1, l.2, 0)) s

/-- Lane k to every active lane. -/
def vbcastOp (f : VX) (s : State) : State × Res :=
  withIndex f s fun k => permResult f (List.replicate (laneN f) (laneAt (s.thr.lanes f.va (laneW f)) k)) s

/-- A lane's bits extended to 64: sign-extended for s types (R202, R203). -/
def extendLane (et : Nat) (v : Nat) : Word := BitVec.ofNat 64 (if etS et then ofInt 64 (toInt (etBits et) v) else v)

/-- Lane k to an x register. -/
def vextrOp (f : VX) (s : State) : State × Res :=
  withIndex f s fun k =>
    let l := laneAt (s.thr.lanes f.va (laneW f)) k
    (s.setX f.vd (extendLane f.et.toNat l.1) l.2, .done)

/-- An x register to lane k; the other lanes and their chunks' poison stay. -/
def vinsOp (f : VX) (s : State) : State × Res :=
  withIndex f s fun k =>
    let t := s.thr
    let w := laneW f
    let old := t.lanes f.vd w
    if laneN f ≤ k then (s, .done)
    else
      let p := s.xp f.va || (w != 64 && (laneAt old k).2)
      (s.setThr (t.putLanes f.vd w (old.set k ((s.x f.va).toNat % 2 ^ w, p))), .done)

/-- Lanes moved up by k; the lanes below k stay whatever ZM holds. -/
def vslideupOp (f : VX) (s : State) : State × Res :=
  withIndex f s fun k =>
    let t := s.thr
    let w := laneW f
    let a := t.lanes f.va w
    let old := t.lanes f.vd w
    let new := governed f (t.active f) ((List.range (laneN f)).map fun i => laneAt a (i - k)) old
    (s.setThr (t.putLanes f.vd w ((old.take k) ++ new.drop k)), .done)

/-- Lanes moved down by k. -/
def vslidednOp (f : VX) (s : State) : State × Res :=
  withIndex f s fun k => permResult f ((List.range (laneN f)).map fun i => laneAt (s.thr.lanes f.va (laneW f)) (i + k)) s

/-- Lane b[i] of a. -/
def vpermOp (f : VX) (s : State) : State × Res :=
  let t := s.thr
  let a := t.lanes f.va (laneW f)
  permResult f ((t.lanes f.vb (laneW f)).map fun b => let l := laneAt a b.1; (l.1, l.2 || b.2)) s

/-- The active lanes of a, from lane 0; zeros above. -/
def vcompressOp (f : VX) (s : State) : State × Res :=
  let t := s.thr
  let on := ((t.lanes f.va (laneW f)).zip (t.active f)).filter Prod.snd |>.map Prod.fst
  (s.setThr (t.putLanes f.vd (laneW f) (on ++ List.replicate (laneN f - on.length) (0, false))), .done)

/-- The number of true bits before each position. -/
def ranksOf (n : Nat) : List Bool → List Nat
  | [] => []
  | b :: bs => n :: ranksOf (if b then n + 1 else n) bs

/-- The j-th active lane := a[j]. -/
def vexpandOp (f : VX) (s : State) : State × Res :=
  let t := s.thr
  permResult f ((ranksOf 0 (t.active f)).map fun j => laneAt (t.lanes f.va (laneW f)) j) s

/-- a where the lane is active, else b. -/
def vselOp (f : VX) (s : State) : State × Res :=
  let t := s.thr
  let ls := List.zipWith (fun (o : Bool) (p : Lane1 × Lane1) => if o then p.1 else p.2) (t.active f)
    ((t.lanes f.va (laneW f)).zip (t.bLanes f f.et.toNat true none))
  (s.setThr (t.putLanes f.vd (laneW f) ls), .done)

/-- R202: a[k] to every active lane. -/
def execVbcast (f : VX) (s : State) : Host.Outcome State Fault Refusal := issue .barred 8 s (vbcastOp f)
/-- R202: a[k] to an x register. -/
def execVextr (f : VX) (s : State) : Host.Outcome State Fault Refusal := issue .barred 8 s (vextrOp f)
/-- R202: an x register to lane k. -/
def execVins (f : VX) (s : State) : Host.Outcome State Fault Refusal := issue .barred 8 s (vinsOp f)
/-- R202: lanes moved up. -/
def execVslideup (f : VX) (s : State) : Host.Outcome State Fault Refusal := issue .barred 8 s (vslideupOp f)
/-- R202: lanes moved down. -/
def execVslidedn (f : VX) (s : State) : Host.Outcome State Fault Refusal := issue .barred 8 s (vslidednOp f)
/-- R202: lanes of a chosen by b. -/
def execVperm (f : VX) (s : State) : Host.Outcome State Fault Refusal := issue .barred 8 s (vpermOp f)
/-- R202: the active lanes packed down. -/
def execVcompress (f : VX) (s : State) : Host.Outcome State Fault Refusal := issue .barred 8 s (vcompressOp f)
/-- R202: lanes spread over the active ones. -/
def execVexpand (f : VX) (s : State) : Host.Outcome State Fault Refusal := issue .barred 8 s (vexpandOp f)
/-- R202: a or b by the predicate. -/
def execVsel (f : VX) (s : State) : Host.Outcome State Fault Refusal := issue .barred 8 s (vselOp f)
/-- R202: the number of active lanes below. -/
def execViota (f : VX) (s : State) : Host.Outcome State Fault Refusal := issue .barred 8 s (fun s => permResult f ((ranksOf 0 (s.thr.active f)).map fun j => (j, false)) s)

end Sys2Proof.Machine
end

