-- ==== Sys2Proof/Machine/VecPred.lean ====
section
/-! DEFINITION. Meanings of the predicate instructions (R201). -/

namespace Sys2Proof.Machine

/-- The lane bits of a predicate at the instruction's width. -/
def Thread.predLanes (t : Thread) (f : VX) (r : Reg) : List Bool := (List.range (laneN f)).map fun i => laneOn (t.pr r.toNat) (laneW f) i

/-- Lane i := 1 below a count (R201): a poisoned count raises 0x51. -/
def plenOp (count : Word → Int) (f : VX) (s : State) : State × Res :=
  s.unlessPoison [f.va] fun s => predResult f ((List.range (laneN f)).map fun (i : Nat) => (i : Int) < count (s.x f.va)) s

/-- A function of two predicates per lane. -/
def pred2 (g : Bool → Bool → Bool) (f : VX) (s : State) : State × Res :=
  predResult f (List.zipWith g (s.thr.predLanes f f.va) (s.thr.predLanes f f.vb)) s

/-- The lanes active in both pb and pg. -/
def Thread.both (t : Thread) (f : VX) : List Bool := List.zipWith (· && ·) (t.predLanes f f.vb) (t.active f)

/-- An x register from predicates; no poison. -/
def predX (g : List Bool → Nat) (f : VX) (s : State) : State × Res := (s.setX f.vd (BitVec.ofNat 64 (g (s.thr.both f))) false, .done)

/-- R201: activates the first xa lanes, xa signed. -/
def execPlen (f : VX) (s : State) : Host.Outcome State Fault Refusal := issue .barred 8 s (plenOp (fun v => v.toInt) f)
/-- R201: activates the first xa lanes, xa unsigned. -/
def execPlenu (f : VX) (s : State) : Host.Outcome State Fault Refusal := issue .barred 8 s (plenOp (fun v => (v.toNat : Int)) f)
/-- R201: pa AND pb. -/
def execPand (f : VX) (s : State) : Host.Outcome State Fault Refusal := issue .barred 8 s (pred2 (· && ·) f)
/-- R201: pa OR pb. -/
def execPor (f : VX) (s : State) : Host.Outcome State Fault Refusal := issue .barred 8 s (pred2 (· || ·) f)
/-- R201: pa XOR pb. -/
def execPxor (f : VX) (s : State) : Host.Outcome State Fault Refusal := issue .barred 8 s (pred2 (fun a b => a != b) f)
/-- R201: NOT pb. -/
def execPnot (f : VX) (s : State) : Host.Outcome State Fault Refusal := issue .barred 8 s (fun s => predResult f ((s.thr.predLanes f f.vb).map (!·)) s)
/-- R201: the number of lanes active in both. -/
def execPcnt (f : VX) (s : State) : Host.Outcome State Fault Refusal := issue .barred 8 s (predX (fun l => l.countP id) f)
/-- R201: the lowest lane active in both, or n. -/
def execPfirst (f : VX) (s : State) : Host.Outcome State Fault Refusal := issue .barred 8 s (predX (fun l => l.findIdx id) f)
/-- R201: whether a lane is active in both. -/
def execPany (f : VX) (s : State) : Host.Outcome State Fault Refusal := issue .barred 8 s (predX (fun l => (l.any id).toNat) f)
/-- R201: activates every lane, or the first IMM9. -/
def execPset (f : VX) (s : State) : Host.Outcome State Fault Refusal := issue .barred 8 s (fun s =>
    predResult f ((List.range (laneN f)).map fun i => f.imm == 0 || i < f.imm.toNat) s)
/-- R201: the number of lanes. -/
def execVlanes (f : VX) (s : State) : Host.Outcome State Fault Refusal := issue .barred 8 s (fun s => (s.setX f.vd (BitVec.ofNat 64 (laneN f)) false, .done))

end Sys2Proof.Machine
end

