-- ==== Sys2Proof/Machine/VecRed.lean ====
section
/-! DEFINITION. Meanings of the vector reductions (R203, R115). -/

namespace Sys2Proof.Machine

/-- The values of the active lanes of A. -/
def Thread.onLanes (t : Thread) (f : VX) : List Lane1 := ((t.lanes f.va (laneW f)).zip (t.active f)).filter Prod.snd |>.map Prod.fst

/-- Write a reduction's result with the poison of the chunks of active lanes. -/
def redResult (f : VX) (v : Word) (s : State) : State × Res := (s.setX f.vd v ((s.thr.onLanes f).any Prod.snd), .done)

/-- A fold of the active lanes from an identity of width w, then extended. -/
def redFold (g : Nat → Nat → Nat → Nat) (e : Nat → Nat) (f : VX) (s : State) : State × Res :=
  let w := laneW f
  redResult f (extendLane f.et.toNat (((s.thr.onLanes f).map Prod.fst).foldl (g w) (e w))) s

/-- The sum of the extended lanes. -/
def redAdd (f : VX) (s : State) : State × Res :=
  redResult f (((s.thr.onLanes f).map fun l => extendLane f.et.toNat l.1).sum) s

/-- One level of the pairwise tree: results and flags. -/
def pairUp (g : Nat → Nat → Nat × Nat) : List Nat → List Nat × Nat
  | a :: b :: r =>
    let x := g a b
    let y := pairUp g r
    (x.1 :: y.1, x.2 ||| y.2)
  | _ => ([], 0)

/-- The tree over n levels. -/
def treeSum (g : Nat → Nat → Nat × Nat) (n : Nat) (l : List Nat) : Nat × Nat :=
  match n with
  | 0 => (l.headD 0, 0)
  | n + 1 =>
    let x := pairUp g l
    let y := treeSum g n x.1
    (y.1, x.2 ||| y.2)

/-- The floating-point sum of R115: inactive lanes count as -0.0; with no active lane the result is +0.0. -/
def redFadd (f : VX) (s : State) : State × Res :=
  let t := s.thr
  let g := ffOf f.et.toNat
  let act := t.active f
  if act.any id then
    let ls := List.zipWith (fun (o : Bool) (l : Lane1) => if o then l.1 else g.signBit) act (t.lanes f.va (laneW f))
    let r := treeSum (g.add (t.rnd f.rm.toNat false)) (Nat.log2 (laneN f)) ls
    redResult f (BitVec.ofNat 64 r.1) (s.orFlags r.2)
  else redResult f 0 s

/-- As fmin or fmax across the active lanes; the canonical NaN when there is none. -/
def redFminmax (mx : Bool) (f : VX) (s : State) : State × Res :=
  let g := ffOf f.et.toNat
  let m := g.minmax s.thr.fz mx (f.imm == 1)
  match (s.thr.onLanes f).map Prod.fst with
  | [] => redResult f (BitVec.ofNat 64 g.nan) s
  | a :: l =>
    let r := l.foldl (fun (r : Nat × Nat) x => let y := m r.1 x; (y.1, r.2 ||| y.2)) (m a a)
    redResult f (BitVec.ofNat 64 r.1) (s.orFlags r.2)

/-- R203: the sum of the extended lanes. -/
def execVredadd (f : VX) (s : State) : Host.Outcome State Fault Refusal := issue .barred 8 s (redAdd f)
/-- R203: the least lane, signed. -/
def execVredmin (f : VX) (s : State) : Host.Outcome State Fault Refusal := issue .barred 8 s (redFold (fun w a b => if toInt w b < toInt w a then b else a) (fun w => 2 ^ (w - 1) - 1) f)
/-- R203: the greatest lane, signed. -/
def execVredmax (f : VX) (s : State) : Host.Outcome State Fault Refusal := issue .barred 8 s (redFold (fun w a b => if toInt w a < toInt w b then b else a) (fun w => 2 ^ (w - 1)) f)
/-- R203: the least lane, unsigned. -/
def execVredminu (f : VX) (s : State) : Host.Outcome State Fault Refusal := issue .barred 8 s (redFold (fun _ a b => Nat.min a b) (fun w => 2 ^ w - 1) f)
/-- R203: the greatest lane, unsigned. -/
def execVredmaxu (f : VX) (s : State) : Host.Outcome State Fault Refusal := issue .barred 8 s (redFold (fun _ a b => Nat.max a b) (fun _ => 0) f)
/-- R203: the AND of the lanes. -/
def execVredand (f : VX) (s : State) : Host.Outcome State Fault Refusal := issue .barred 8 s (redFold (fun _ a b => a &&& b) (fun w => 2 ^ w - 1) f)
/-- R203: the OR of the lanes. -/
def execVredor (f : VX) (s : State) : Host.Outcome State Fault Refusal := issue .barred 8 s (redFold (fun _ a b => a ||| b) (fun _ => 0) f)
/-- R203: the XOR of the lanes. -/
def execVredxor (f : VX) (s : State) : Host.Outcome State Fault Refusal := issue .barred 8 s (redFold (fun _ a b => a ^^^ b) (fun _ => 0) f)
/-- R203, R115: the tree sum. -/
def execVfredadd (f : VX) (s : State) : Host.Outcome State Fault Refusal := issue .barred 8 s (redFadd f)
/-- R203: the least, as fmin or fminn. -/
def execVfredmin (f : VX) (s : State) : Host.Outcome State Fault Refusal := issue .barred 8 s (redFminmax false f)
/-- R203: the greatest, as fmax or fmaxn. -/
def execVfredmax (f : VX) (s : State) : Host.Outcome State Fault Refusal := issue .barred 8 s (redFminmax true f)

end Sys2Proof.Machine
end

