-- ==== Sys2Proof/Machine/VecSfu.lean ====
section
/-! DEFINITION. Meanings of the special functions (R206 to R209), and the completion of their queue entries. -/

namespace Sys2Proof.Machine

/-- Entries of the queue that are in use: cancelled ones wait for their thread (R209). -/
def Task.sfuUsed (k : Task) : Nat := (k.sfu.filter fun e => !e.cancelled).length

/-- Whether the current thread may take a free entry: waiting threads take entries in slot order from the rotation pointer
(R208). -/
def Task.sfuTurn (k : Task) (slot : Nat) : Bool :=
  k.sfuUsed < 8 &&
    match k.order.find? (fun i => decide ((k.thread i).st = .waiting .sfu)) with
    | none => true
    | some i => i == slot

/-- A special function on the B lanes. Its entry stays in the queue until it completes; result and flags are those that every
later instruction of the thread must see (R209). -/
def sfuOp (fn : Nat) (f : VX) (s : State) : State × Res :=
  if s.tk.sfuTurn s.cur.2 then
    let b := s.thr.bOwn f none
    let s := s.setTk { s.tk with sfu := s.tk.sfu ++ [⟨s.cur.2, BitVec.ofNat 1024 (ofLanes (laneW f) (b.map Prod.fst)), false⟩] }
    vec1 (sfuLane fn f.et.toNat s.thr.fz) f b s
  else (s, .wait .sfu)

/-- R208, R209: an entry completes; a cancelled one only once its thread goes on. -/
def execSfuEntryComplete (core idx : Nat) (s : State) : Host.Outcome State Fault Refusal :=
  event s fun s =>
    match s.running core with
    | none => s
    | some tid =>
      let k := s.task tid
      match k.sfu[idx]? with
      | some e =>
        if (e.cancelled && !(k.thread e.slot).canRun) || (k.sfu.take idx).any (fun o => o.slot == e.slot) then s
        else s.setTask tid { k with sfu := k.sfu.eraseIdx idx }
      | none => s

/-- R206, R207: 1/b. -/
def execVrcp (f : VX) (s : State) : Host.Outcome State Fault Refusal := issue .barred 8 s (sfuOp 0 f)
/-- R206, R207: 1/√b. -/
def execVrsqrt (f : VX) (s : State) : Host.Outcome State Fault Refusal := issue .barred 8 s (sfuOp 1 f)
/-- R206, R207: 2^b. -/
def execVexp2 (f : VX) (s : State) : Host.Outcome State Fault Refusal := issue .barred 8 s (sfuOp 2 f)
/-- R206, R207: log2 b. -/
def execVlog2 (f : VX) (s : State) : Host.Outcome State Fault Refusal := issue .barred 8 s (sfuOp 3 f)
/-- R206, R207: tanh b. -/
def execVtanh (f : VX) (s : State) : Host.Outcome State Fault Refusal := issue .barred 8 s (sfuOp 4 f)
/-- R206, R207: 1/(1 + e^−b). -/
def execVsigm (f : VX) (s : State) : Host.Outcome State Fault Refusal := issue .barred 8 s (sfuOp 5 f)
/-- R206, R207: sin(πb). -/
def execVsinpi (f : VX) (s : State) : Host.Outcome State Fault Refusal := issue .barred 8 s (sfuOp 6 f)
/-- R206, R207: cos(πb). -/
def execVcospi (f : VX) (s : State) : Host.Outcome State Fault Refusal := issue .barred 8 s (sfuOp 7 f)

end Sys2Proof.Machine
end

