-- ==== Sys2Proof/Machine/Dispatch.lean ====
section
/-! DEFINITION. The dispatch: one arm per constructor. -/

namespace Sys2Proof.Machine

/-- The meaning of an instruction for the current thread, and the step of a device event (one arm per row). -/
def exec (i : Instr) (s : State) : Host.Outcome State Fault Refusal :=
  match i with
  | .nop => Sys2Proof.Machine.execNop s
  | .fence n => Sys2Proof.Machine.execFence n s
  | .trap n => Sys2Proof.Machine.execTrap n s
  | .bkpt n => Sys2Proof.Machine.execBkpt n s
  | .tret => Sys2Proof.Machine.execTret s
  | .pmret => Sys2Proof.Machine.execPmret s
  | .iflush => Sys2Proof.Machine.execIflush s
  | .yield => Sys2Proof.Machine.execYield s
  | .ill n => Sys2Proof.Machine.execIll n s
  | .add d a b => Sys2Proof.Machine.execAdd d a b s
  | .sub d a b => Sys2Proof.Machine.execSub d a b s
  | .and d a b => Sys2Proof.Machine.execAnd d a b s
  | .or d a b => Sys2Proof.Machine.execOr d a b s
  | .xor d a b => Sys2Proof.Machine.execXor d a b s
  | .andn d a b => Sys2Proof.Machine.execAndn d a b s
  | .orn d a b => Sys2Proof.Machine.execOrn d a b s
  | .xnor d a b => Sys2Proof.Machine.execXnor d a b s
  | .shl d a b => Sys2Proof.Machine.execShl d a b s
  | .shr d a b => Sys2Proof.Machine.execShr d a b s
  | .sra d a b => Sys2Proof.Machine.execSra d a b s
  | .rol d a b => Sys2Proof.Machine.execRol d a b s
  | .ror d a b => Sys2Proof.Machine.execRor d a b s
  | .slt d a b => Sys2Proof.Machine.execSlt d a b s
  | .sltu d a b => Sys2Proof.Machine.execSltu d a b s
  | .seq d a b => Sys2Proof.Machine.execSeq d a b s
  | .sne d a b => Sys2Proof.Machine.execSne d a b s
  | .min d a b => Sys2Proof.Machine.execMin d a b s
  | .max d a b => Sys2Proof.Machine.execMax d a b s
  | .minu d a b => Sys2Proof.Machine.execMinu d a b s
  | .maxu d a b => Sys2Proof.Machine.execMaxu d a b s
  | .addw d a b => Sys2Proof.Machine.execAddw d a b s
  | .subw d a b => Sys2Proof.Machine.execSubw d a b s
  | .shlw d a b => Sys2Proof.Machine.execShlw d a b s
  | .shrw d a b => Sys2Proof.Machine.execShrw d a b s
  | .sraw d a b => Sys2Proof.Machine.execSraw d a b s
  | .addi d a imm => Sys2Proof.Machine.execAddi d a imm s
  | .andi d a imm => Sys2Proof.Machine.execAndi d a imm s
  | .ori d a imm => Sys2Proof.Machine.execOri d a imm s
  | .xori d a imm => Sys2Proof.Machine.execXori d a imm s
  | .shli d a n => Sys2Proof.Machine.execShli d a n s
  | .shri d a n => Sys2Proof.Machine.execShri d a n s
  | .srai d a n => Sys2Proof.Machine.execSrai d a n s
  | .roli d a n => Sys2Proof.Machine.execRoli d a n s
  | .rori d a n => Sys2Proof.Machine.execRori d a n s
  | .slti d a imm => Sys2Proof.Machine.execSlti d a imm s
  | .sltui d a imm => Sys2Proof.Machine.execSltui d a imm s
  | .seqi d a imm => Sys2Proof.Machine.execSeqi d a imm s
  | .snei d a imm => Sys2Proof.Machine.execSnei d a imm s
  | .ldb d a off => Sys2Proof.Machine.execLdb d a off s
  | .ldh d a off => Sys2Proof.Machine.execLdh d a off s
  | .ldw d a off => Sys2Proof.Machine.execLdw d a off s
  | .ldd d a off => Sys2Proof.Machine.execLdd d a off s
  | .ldbz d a off => Sys2Proof.Machine.execLdbz d a off s
  | .ldhz d a off => Sys2Proof.Machine.execLdhz d a off s
  | .ldwz d a off => Sys2Proof.Machine.execLdwz d a off s
  | .stb b a off => Sys2Proof.Machine.execStb b a off s
  | .sth b a off => Sys2Proof.Machine.execSth b a off s
  | .stw b a off => Sys2Proof.Machine.execStw b a off s
  | .std b a off => Sys2Proof.Machine.execStd b a off s
  | .beq a b off => Sys2Proof.Machine.execBeq a b off s
  | .bne a b off => Sys2Proof.Machine.execBne a b off s
  | .blt a b off => Sys2Proof.Machine.execBlt a b off s
  | .bge a b off => Sys2Proof.Machine.execBge a b off s
  | .bltu a b off => Sys2Proof.Machine.execBltu a b off s
  | .bgeu a b off => Sys2Proof.Machine.execBgeu a b off s
  | .bbs a b off => Sys2Proof.Machine.execBbs a b off s
  | .bbc a b off => Sys2Proof.Machine.execBbc a b off s
  | .beqLong a b off => Sys2Proof.Machine.execBeqLong a b off s
  | .bneLong a b off => Sys2Proof.Machine.execBneLong a b off s
  | .bltLong a b off => Sys2Proof.Machine.execBltLong a b off s
  | .bgeLong a b off => Sys2Proof.Machine.execBgeLong a b off s
  | .bltuLong a b off => Sys2Proof.Machine.execBltuLong a b off s
  | .bgeuLong a b off => Sys2Proof.Machine.execBgeuLong a b off s
  | .bbsLong a b off => Sys2Proof.Machine.execBbsLong a b off s
  | .bbcLong a b off => Sys2Proof.Machine.execBbcLong a b off s
  | .j off => Sys2Proof.Machine.execJ off s
  | .jal off => Sys2Proof.Machine.execJal off s
  | .jLong off => Sys2Proof.Machine.execJLong off s
  | .jalLong off => Sys2Proof.Machine.execJalLong off s
  | .jr a imm => Sys2Proof.Machine.execJr a imm s
  | .jalr a imm => Sys2Proof.Machine.execJalr a imm s
  | .jtab a b => Sys2Proof.Machine.execJtab a b s
  | .mul d a b => Sys2Proof.Machine.execMul d a b s
  | .mulh d a b => Sys2Proof.Machine.execMulh d a b s
  | .mulhu d a b => Sys2Proof.Machine.execMulhu d a b s
  | .mulhsu d a b => Sys2Proof.Machine.execMulhsu d a b s
  | .mulw d a b => Sys2Proof.Machine.execMulw d a b s
  | .div d a b => Sys2Proof.Machine.execDiv d a b s
  | .divu d a b => Sys2Proof.Machine.execDivu d a b s
  | .rem d a b => Sys2Proof.Machine.execRem d a b s
  | .remu d a b => Sys2Proof.Machine.execRemu d a b s
  | .divw d a b => Sys2Proof.Machine.execDivw d a b s
  | .remw d a b => Sys2Proof.Machine.execRemw d a b s
  | .clz d a => Sys2Proof.Machine.execClz d a s
  | .ctz d a => Sys2Proof.Machine.execCtz d a s
  | .popc d a => Sys2Proof.Machine.execPopc d a s
  | .brev d a => Sys2Proof.Machine.execBrev d a s
  | .bswap d a => Sys2Proof.Machine.execBswap d a s
  | .fnsb d a b => Sys2Proof.Machine.execFnsb d a b s
  | .clzw d a => Sys2Proof.Machine.execClzw d a s
  | .ctzw d a => Sys2Proof.Machine.execCtzw d a s
  | .popcw d a => Sys2Proof.Machine.execPopcw d a s
  | .bfx d a b => Sys2Proof.Machine.execBfx d a b s
  | .bfxu d a b => Sys2Proof.Machine.execBfxu d a b s
  | .bfi d a b => Sys2Proof.Machine.execBfi d a b s
  | .bfmsk d b => Sys2Proof.Machine.execBfmsk d b s
  | .bfxi d a off wid => Sys2Proof.Machine.execBfxi d a off wid s
  | .bfxui d a off wid => Sys2Proof.Machine.execBfxui d a off wid s
  | .bfii d a off wid => Sys2Proof.Machine.execBfii d a off wid s
  | .fadd ty d a b => Sys2Proof.Machine.execFadd ty d a b s
  | .fsub ty d a b => Sys2Proof.Machine.execFsub ty d a b s
  | .fmul ty d a b => Sys2Proof.Machine.execFmul ty d a b s
  | .fdiv ty d a b => Sys2Proof.Machine.execFdiv ty d a b s
  | .fsqrt ty d a => Sys2Proof.Machine.execFsqrt ty d a s
  | .fmin ty d a b => Sys2Proof.Machine.execFmin ty d a b s
  | .fmax ty d a b => Sys2Proof.Machine.execFmax ty d a b s
  | .fminn ty d a b => Sys2Proof.Machine.execFminn ty d a b s
  | .fmaxn ty d a b => Sys2Proof.Machine.execFmaxn ty d a b s
  | .fsgnj ty d a b => Sys2Proof.Machine.execFsgnj ty d a b s
  | .fsgnjn ty d a b => Sys2Proof.Machine.execFsgnjn ty d a b s
  | .fsgnjx ty d a b => Sys2Proof.Machine.execFsgnjx ty d a b s
  | .feq ty d a b => Sys2Proof.Machine.execFeq ty d a b s
  | .flt ty d a b => Sys2Proof.Machine.execFlt ty d a b s
  | .fle ty d a b => Sys2Proof.Machine.execFle ty d a b s
  | .fclass ty d a => Sys2Proof.Machine.execFclass ty d a s
  | .fcvt ty d a src => Sys2Proof.Machine.execFcvt ty d a src s
  | .fcvti ty d a rm w => Sys2Proof.Machine.execFcvti ty d a rm w s
  | .fcvtu ty d a rm w => Sys2Proof.Machine.execFcvtu ty d a rm w s
  | .icvtf ty d a rm w => Sys2Proof.Machine.execIcvtf ty d a rm w s
  | .ucvtf ty d a rm w => Sys2Proof.Machine.execUcvtf ty d a rm w s
  | .fma ty rm d a b c => Sys2Proof.Machine.execFma ty rm d a b c s
  | .fms ty rm d a b c => Sys2Proof.Machine.execFms ty rm d a b c s
  | .fnma ty rm d a b c => Sys2Proof.Machine.execFnma ty rm d a b c s
  | .fnms ty rm d a b c => Sys2Proof.Machine.execFnms ty rm d a b c s
  | .csrr d csr => Sys2Proof.Machine.execCsrr d csr s
  | .csrw d a csr => Sys2Proof.Machine.execCsrw d a csr s
  | .csrs d a csr => Sys2Proof.Machine.execCsrs d a csr s
  | .csrc d a csr => Sys2Proof.Machine.execCsrc d a csr s
  | .amoadd dbl d a b => Sys2Proof.Machine.execAmoadd dbl d a b s
  | .amoand dbl d a b => Sys2Proof.Machine.execAmoand dbl d a b s
  | .amoor dbl d a b => Sys2Proof.Machine.execAmoor dbl d a b s
  | .amoxor dbl d a b => Sys2Proof.Machine.execAmoxor dbl d a b s
  | .amomin dbl d a b => Sys2Proof.Machine.execAmomin dbl d a b s
  | .amomax dbl d a b => Sys2Proof.Machine.execAmomax dbl d a b s
  | .amominu dbl d a b => Sys2Proof.Machine.execAmominu dbl d a b s
  | .amomaxu dbl d a b => Sys2Proof.Machine.execAmomaxu dbl d a b s
  | .amoswp dbl d a b => Sys2Proof.Machine.execAmoswp dbl d a b s
  | .amocas dbl d a b => Sys2Proof.Machine.execAmocas dbl d a b s
  | .acq a shared => Sys2Proof.Machine.execAcq a shared s
  | .rel a => Sys2Proof.Machine.execRel a s
  | .tryacq d a shared => Sys2Proof.Machine.execTryacq d a shared s
  | .bind d a b => Sys2Proof.Machine.execBind d a b s
  | .unbind d a => Sys2Proof.Machine.execUnbind d a s
  | .pref a h => Sys2Proof.Machine.execPref a h s
  | .wbf => Sys2Proof.Machine.execWbf s
  | .ldro d a => Sys2Proof.Machine.execLdro d a s
  | .hstart d a b => Sys2Proof.Machine.execHstart d a b s
  | .hjoin d a => Sys2Proof.Machine.execHjoin d a s
  | .hexit a => Sys2Proof.Machine.execHexit a s
  | .hpeek d a => Sys2Proof.Machine.execHpeek d a s
  | .waittl t a => Sys2Proof.Machine.execWaittl t a s
  | .kexit a => Sys2Proof.Machine.execKexit a s
  | .rdv d a id count => Sys2Proof.Machine.execRdv d a id count s
  | .rdvadd d a id count => Sys2Proof.Machine.execRdvadd d a id count s
  | .rdvmax d a id count => Sys2Proof.Machine.execRdvmax d a id count s
  | .rdvor d a id count => Sys2Proof.Machine.execRdvor d a id count s
  | .li d imm => Sys2Proof.Machine.execLi d imm s
  | .liz d imm => Sys2Proof.Machine.execLiz d imm s
  | .lihi d a imm => Sys2Proof.Machine.execLihi d a imm s
  | .addl d a imm => Sys2Proof.Machine.execAddl d a imm s
  | .andl d a imm => Sys2Proof.Machine.execAndl d a imm s
  | .orl d a imm => Sys2Proof.Machine.execOrl d a imm s
  | .xorl d a imm => Sys2Proof.Machine.execXorl d a imm s
  | .sltl d a imm => Sys2Proof.Machine.execSltl d a imm s
  | .vadd f => Sys2Proof.Machine.execVadd f s
  | .vsub f => Sys2Proof.Machine.execVsub f s
  | .vmul f => Sys2Proof.Machine.execVmul f s
  | .vmulh f => Sys2Proof.Machine.execVmulh f s
  | .vmadd f => Sys2Proof.Machine.execVmadd f s
  | .vabs f => Sys2Proof.Machine.execVabs f s
  | .vneg f => Sys2Proof.Machine.execVneg f s
  | .vmin f => Sys2Proof.Machine.execVmin f s
  | .vmax f => Sys2Proof.Machine.execVmax f s
  | .vadds f => Sys2Proof.Machine.execVadds f s
  | .vsubs f => Sys2Proof.Machine.execVsubs f s
  | .vavg f => Sys2Proof.Machine.execVavg f s
  | .vshl f => Sys2Proof.Machine.execVshl f s
  | .vshr f => Sys2Proof.Machine.execVshr f s
  | .vsra f => Sys2Proof.Machine.execVsra f s
  | .vdot4 f => Sys2Proof.Machine.execVdot4 f s
  | .vmov f => Sys2Proof.Machine.execVmov f s
  | .vaddLit f lit => Sys2Proof.Machine.execVaddLit f lit s
  | .vsubLit f lit => Sys2Proof.Machine.execVsubLit f lit s
  | .vmulLit f lit => Sys2Proof.Machine.execVmulLit f lit s
  | .vmulhLit f lit => Sys2Proof.Machine.execVmulhLit f lit s
  | .vmaddLit f lit => Sys2Proof.Machine.execVmaddLit f lit s
  | .vabsLit f lit => Sys2Proof.Machine.execVabsLit f lit s
  | .vnegLit f lit => Sys2Proof.Machine.execVnegLit f lit s
  | .vminLit f lit => Sys2Proof.Machine.execVminLit f lit s
  | .vmaxLit f lit => Sys2Proof.Machine.execVmaxLit f lit s
  | .vaddsLit f lit => Sys2Proof.Machine.execVaddsLit f lit s
  | .vsubsLit f lit => Sys2Proof.Machine.execVsubsLit f lit s
  | .vavgLit f lit => Sys2Proof.Machine.execVavgLit f lit s
  | .vshlLit f lit => Sys2Proof.Machine.execVshlLit f lit s
  | .vshrLit f lit => Sys2Proof.Machine.execVshrLit f lit s
  | .vsraLit f lit => Sys2Proof.Machine.execVsraLit f lit s
  | .vdot4Lit f lit => Sys2Proof.Machine.execVdot4Lit f lit s
  | .vmovLit f lit => Sys2Proof.Machine.execVmovLit f lit s
  | .vfadd f => Sys2Proof.Machine.execVfadd f s
  | .vfsub f => Sys2Proof.Machine.execVfsub f s
  | .vfmul f => Sys2Proof.Machine.execVfmul f s
  | .vfdiv f => Sys2Proof.Machine.execVfdiv f s
  | .vfsqrt f => Sys2Proof.Machine.execVfsqrt f s
  | .vfma f => Sys2Proof.Machine.execVfma f s
  | .vfms f => Sys2Proof.Machine.execVfms f s
  | .vfnma f => Sys2Proof.Machine.execVfnma f s
  | .vfmin f => Sys2Proof.Machine.execVfmin f s
  | .vfmax f => Sys2Proof.Machine.execVfmax f s
  | .vfabs f => Sys2Proof.Machine.execVfabs f s
  | .vfneg f => Sys2Proof.Machine.execVfneg f s
  | .vfaddLit f lit => Sys2Proof.Machine.execVfaddLit f lit s
  | .vfsubLit f lit => Sys2Proof.Machine.execVfsubLit f lit s
  | .vfmulLit f lit => Sys2Proof.Machine.execVfmulLit f lit s
  | .vfdivLit f lit => Sys2Proof.Machine.execVfdivLit f lit s
  | .vfsqrtLit f lit => Sys2Proof.Machine.execVfsqrtLit f lit s
  | .vfmaLit f lit => Sys2Proof.Machine.execVfmaLit f lit s
  | .vfmsLit f lit => Sys2Proof.Machine.execVfmsLit f lit s
  | .vfnmaLit f lit => Sys2Proof.Machine.execVfnmaLit f lit s
  | .vfminLit f lit => Sys2Proof.Machine.execVfminLit f lit s
  | .vfmaxLit f lit => Sys2Proof.Machine.execVfmaxLit f lit s
  | .vfabsLit f lit => Sys2Proof.Machine.execVfabsLit f lit s
  | .vfnegLit f lit => Sys2Proof.Machine.execVfnegLit f lit s
  | .vand f => Sys2Proof.Machine.execVand f s
  | .vor f => Sys2Proof.Machine.execVor f s
  | .vxor f => Sys2Proof.Machine.execVxor f s
  | .vandn f => Sys2Proof.Machine.execVandn f s
  | .vnot f => Sys2Proof.Machine.execVnot f s
  | .vpopc f => Sys2Proof.Machine.execVpopc f s
  | .vclz f => Sys2Proof.Machine.execVclz f s
  | .vctz f => Sys2Proof.Machine.execVctz f s
  | .vbrev f => Sys2Proof.Machine.execVbrev f s
  | .vfnsb f => Sys2Proof.Machine.execVfnsb f s
  | .vbfx f => Sys2Proof.Machine.execVbfx f s
  | .vandLit f lit => Sys2Proof.Machine.execVandLit f lit s
  | .vorLit f lit => Sys2Proof.Machine.execVorLit f lit s
  | .vxorLit f lit => Sys2Proof.Machine.execVxorLit f lit s
  | .vandnLit f lit => Sys2Proof.Machine.execVandnLit f lit s
  | .vnotLit f lit => Sys2Proof.Machine.execVnotLit f lit s
  | .vpopcLit f lit => Sys2Proof.Machine.execVpopcLit f lit s
  | .vclzLit f lit => Sys2Proof.Machine.execVclzLit f lit s
  | .vctzLit f lit => Sys2Proof.Machine.execVctzLit f lit s
  | .vbrevLit f lit => Sys2Proof.Machine.execVbrevLit f lit s
  | .vfnsbLit f lit => Sys2Proof.Machine.execVfnsbLit f lit s
  | .vbfxLit f lit => Sys2Proof.Machine.execVbfxLit f lit s
  | .vcmpeq f => Sys2Proof.Machine.execVcmpeq f s
  | .vcmpne f => Sys2Proof.Machine.execVcmpne f s
  | .vcmplt f => Sys2Proof.Machine.execVcmplt f s
  | .vcmple f => Sys2Proof.Machine.execVcmple f s
  | .vcmpltu f => Sys2Proof.Machine.execVcmpltu f s
  | .vcmpleu f => Sys2Proof.Machine.execVcmpleu f s
  | .vfcmpeq f => Sys2Proof.Machine.execVfcmpeq f s
  | .vfcmplt f => Sys2Proof.Machine.execVfcmplt f s
  | .vfcmple f => Sys2Proof.Machine.execVfcmple f s
  | .vfcmpun f => Sys2Proof.Machine.execVfcmpun f s
  | .vcmpeqLit f lit => Sys2Proof.Machine.execVcmpeqLit f lit s
  | .vcmpneLit f lit => Sys2Proof.Machine.execVcmpneLit f lit s
  | .vcmpltLit f lit => Sys2Proof.Machine.execVcmpltLit f lit s
  | .vcmpleLit f lit => Sys2Proof.Machine.execVcmpleLit f lit s
  | .vcmpltuLit f lit => Sys2Proof.Machine.execVcmpltuLit f lit s
  | .vcmpleuLit f lit => Sys2Proof.Machine.execVcmpleuLit f lit s
  | .vfcmpeqLit f lit => Sys2Proof.Machine.execVfcmpeqLit f lit s
  | .vfcmpltLit f lit => Sys2Proof.Machine.execVfcmpltLit f lit s
  | .vfcmpleLit f lit => Sys2Proof.Machine.execVfcmpleLit f lit s
  | .vfcmpunLit f lit => Sys2Proof.Machine.execVfcmpunLit f lit s
  | .plen f => Sys2Proof.Machine.execPlen f s
  | .plenu f => Sys2Proof.Machine.execPlenu f s
  | .pand f => Sys2Proof.Machine.execPand f s
  | .por f => Sys2Proof.Machine.execPor f s
  | .pxor f => Sys2Proof.Machine.execPxor f s
  | .pnot f => Sys2Proof.Machine.execPnot f s
  | .pcnt f => Sys2Proof.Machine.execPcnt f s
  | .pfirst f => Sys2Proof.Machine.execPfirst f s
  | .pany f => Sys2Proof.Machine.execPany f s
  | .pset f => Sys2Proof.Machine.execPset f s
  | .vlanes f => Sys2Proof.Machine.execVlanes f s
  | .vbcast f => Sys2Proof.Machine.execVbcast f s
  | .vextr f => Sys2Proof.Machine.execVextr f s
  | .vins f => Sys2Proof.Machine.execVins f s
  | .vslideup f => Sys2Proof.Machine.execVslideup f s
  | .vslidedn f => Sys2Proof.Machine.execVslidedn f s
  | .vperm f => Sys2Proof.Machine.execVperm f s
  | .vcompress f => Sys2Proof.Machine.execVcompress f s
  | .vexpand f => Sys2Proof.Machine.execVexpand f s
  | .vsel f => Sys2Proof.Machine.execVsel f s
  | .viota f => Sys2Proof.Machine.execViota f s
  | .vredadd f => Sys2Proof.Machine.execVredadd f s
  | .vredmin f => Sys2Proof.Machine.execVredmin f s
  | .vredmax f => Sys2Proof.Machine.execVredmax f s
  | .vredminu f => Sys2Proof.Machine.execVredminu f s
  | .vredmaxu f => Sys2Proof.Machine.execVredmaxu f s
  | .vredand f => Sys2Proof.Machine.execVredand f s
  | .vredor f => Sys2Proof.Machine.execVredor f s
  | .vredxor f => Sys2Proof.Machine.execVredxor f s
  | .vfredadd f => Sys2Proof.Machine.execVfredadd f s
  | .vfredmin f => Sys2Proof.Machine.execVfredmin f s
  | .vfredmax f => Sys2Proof.Machine.execVfredmax f s
  | .vcvt f => Sys2Proof.Machine.execVcvt f s
  | .vnarrow f => Sys2Proof.Machine.execVnarrow f s
  | .vwiden f => Sys2Proof.Machine.execVwiden f s
  | .vpackdx f => Sys2Proof.Machine.execVpackdx f s
  | .vunpkdx f => Sys2Proof.Machine.execVunpkdx f s
  | .vpackdx4 f => Sys2Proof.Machine.execVpackdx4 f s
  | .vunpkdx4 f => Sys2Proof.Machine.execVunpkdx4 f s
  | .vrcp f => Sys2Proof.Machine.execVrcp f s
  | .vrsqrt f => Sys2Proof.Machine.execVrsqrt f s
  | .vexp2 f => Sys2Proof.Machine.execVexp2 f s
  | .vlog2 f => Sys2Proof.Machine.execVlog2 f s
  | .vtanh f => Sys2Proof.Machine.execVtanh f s
  | .vsigm f => Sys2Proof.Machine.execVsigm f s
  | .vsinpi f => Sys2Proof.Machine.execVsinpi f s
  | .vcospi f => Sys2Proof.Machine.execVcospi f s
  | .vld f => Sys2Proof.Machine.execVld f s
  | .vlds f => Sys2Proof.Machine.execVlds f s
  | .vldx f => Sys2Proof.Machine.execVldx f s
  | .vldb f => Sys2Proof.Machine.execVldb f s
  | .vldff f => Sys2Proof.Machine.execVldff f s
  | .vst f => Sys2Proof.Machine.execVst f s
  | .vsts f => Sys2Proof.Machine.execVsts f s
  | .vstx f => Sys2Proof.Machine.execVstx f s
  | .vstc f => Sys2Proof.Machine.execVstc f s
  | .vamoadd f => Sys2Proof.Machine.execVamoadd f s
  | .vamoor f => Sys2Proof.Machine.execVamoor f s
  | .vamoand f => Sys2Proof.Machine.execVamoand f s
  | .vamomin f => Sys2Proof.Machine.execVamomin f s
  | .vamomax f => Sys2Proof.Machine.execVamomax f s
  | .tld d a n => Sys2Proof.Machine.execTld d a n s
  | .tst d a n => Sys2Proof.Machine.execTst d a n s
  | .tzero d n => Sys2Proof.Machine.execTzero d n s
  | .tacc d n m => Sys2Proof.Machine.execTacc d n m s
  | .mxp d a b m => Sys2Proof.Machine.execMxp d a b m s
  | .mxps d a b m => Sys2Proof.Machine.execMxps d a b m s
  | .mxprobe d a mask cap => Sys2Proof.Machine.execMxprobe d a mask cap s
  | .phld d a b bank cap => Sys2Proof.Machine.execPhld d a b bank cap s
  | .phtrim d a bank cap => Sys2Proof.Machine.execPhtrim d a bank cap s
  | .phrd d a b bank cap => Sys2Proof.Machine.execPhrd d a b bank cap s
  | .phinv d a bank cap => Sys2Proof.Machine.execPhinv d a bank cap s
  | .dcmp d a b cap res => Sys2Proof.Machine.execDcmp d a b cap res s
  | .cpy d a b c raw => Sys2Proof.Machine.execCpy d a b c raw s
  | .cpy2 d a b c e raw => Sys2Proof.Machine.execCpy2 d a b c e raw s
  | .cpyset d a b c raw => Sys2Proof.Machine.execCpyset d a b c raw s
  | .cpytile d a b tile first count dir => Sys2Proof.Machine.execCpytile d a b tile first count dir s
  | .cpycmp d a b c e raw => Sys2Proof.Machine.execCpycmp d a b c e raw s
  | .splook d a b => Sys2Proof.Machine.execSplook d a b s
  | .spevict d a => Sys2Proof.Machine.execSpevict d a s
  | .spdemote a => Sys2Proof.Machine.execSpdemote a s
  | .sprel a b => Sys2Proof.Machine.execSprel a b s
  | .spprio a b => Sys2Proof.Machine.execSpprio a b s
  | .sync n => Sys2Proof.Machine.execSync n s
  | .sarrive n => Sys2Proof.Machine.execSarrive n s
  | .swait n => Sys2Proof.Machine.execSwait n s
  | .syncv d a n op => Sys2Proof.Machine.execSyncv d a n op s
  | .xsend a b c n => Sys2Proof.Machine.execXsend a b c n s
  | .xopen a n => Sys2Proof.Machine.execXopen a n s
  | .xput a => Sys2Proof.Machine.execXput a s
  | .xend => Sys2Proof.Machine.execXend s
  | .klaunch d a q detach => Sys2Proof.Machine.execKlaunch d a q detach s
  | .kquery d a => Sys2Proof.Machine.execKquery d a s
  | .ksignal a b => Sys2Proof.Machine.execKsignal a b s
  | .lquery d a => Sys2Proof.Machine.execLquery d a s
  | .lrenew d a => Sys2Proof.Machine.execLrenew d a s
  | .pgcnt d a => Sys2Proof.Machine.execPgcnt d a s
  | .ldrain d a => Sys2Proof.Machine.execLdrain d a s
  | .lstat d a sel => Sys2Proof.Machine.execLstat d a sel s
  | .irsend d a b => Sys2Proof.Machine.execIrsend d a b s
  | .irrecv d a b => Sys2Proof.Machine.execIrrecv d a b s
  | .pmark a => Sys2Proof.Machine.execPmark a s
  | .dstop => Sys2Proof.Machine.execDstop s
  | .powerGood pscOk => Sys2Proof.Machine.execPowerGood pscOk s
  | .stackBringup reports => Sys2Proof.Machine.execStackBringup reports s
  | .combLock ok => Sys2Proof.Machine.execCombLock ok s
  | .switchPortTrain ok => Sys2Proof.Machine.execSwitchPortTrain ok s
  | .mgcRelease ok => Sys2Proof.Machine.execMgcRelease ok s
  | .setReady => Sys2Proof.Machine.execSetReady s
  | .cxlLinkTrain cache mem => Sys2Proof.Machine.execCxlLinkTrain cache mem s
  | .powerSample avg => Sys2Proof.Machine.execPowerSample avg s
  | .dieJunctionLimit die => Sys2Proof.Machine.execDieJunctionLimit die s
  | .dieJunctionRecover die => Sys2Proof.Machine.execDieJunctionRecover die s
  | .combLineBelowThreshold src line failed => Sys2Proof.Machine.execCombLineBelowThreshold src line failed s
  | .combLineRecover src line measured => Sys2Proof.Machine.execCombLineRecover src line measured s
  | .laserTelemetryUpdate src line rec => Sys2Proof.Machine.execLaserTelemetryUpdate src line rec s
  | .issueGroupForm core => Sys2Proof.Machine.execIssueGroupForm core s
  | .handlerInstructionLimit core => Sys2Proof.Machine.execHandlerInstructionLimit core s
  | .deadlockDetect core => Sys2Proof.Machine.execDeadlockDetect core s
  | .sfuEntryComplete core idx => Sys2Proof.Machine.execSfuEntryComplete core idx s
  | .taskStart core shadow => Sys2Proof.Machine.execTaskStart core shadow s
  | .taskRestore core shadow => Sys2Proof.Machine.execTaskRestore core shadow s
  | .taskSave core toFrame => Sys2Proof.Machine.execTaskSave core toFrame s
  | .spinTimeoutSwap core => Sys2Proof.Machine.execSpinTimeoutSwap core s
  | .hexitComplete core slot => Sys2Proof.Machine.execHexitComplete core slot s
  | .kexitComplete core => Sys2Proof.Machine.execKexitComplete core s
  | .storePerform core slot idx => Sys2Proof.Machine.execStorePerform core slot idx s
  | .accessReissue core slot => Sys2Proof.Machine.execAccessReissue core slot s
  | .atomicAtHome core slot => Sys2Proof.Machine.execAtomicAtHome core slot s
  | .pageWalk cluster ctx va => Sys2Proof.Machine.execPageWalk cluster ctx va s
  | .leaseExpiry cluster => Sys2Proof.Machine.execLeaseExpiry cluster s
  | .cmeArbitrationRound cluster => Sys2Proof.Machine.execCmeArbitrationRound cluster s
  | .copyUnit core seq => Sys2Proof.Machine.execCopyUnit core seq s
  | .copyLeaseRenewal core seq => Sys2Proof.Machine.execCopyLeaseRenewal core seq s
  | .passArrival core slot => Sys2Proof.Machine.execPassArrival core slot s
  | .passStreamStart cluster => Sys2Proof.Machine.execPassStreamStart cluster s
  | .passDetected cluster => Sys2Proof.Machine.execPassDetected cluster s
  | .omuProbe cluster bank measured => Sys2Proof.Machine.execOmuProbe cluster bank measured s
  | .omuPhld cluster measured => Sys2Proof.Machine.execOmuPhld cluster measured s
  | .omuPhtrim cluster trims measured => Sys2Proof.Machine.execOmuPhtrim cluster trims measured s
  | .omuPhrd cluster => Sys2Proof.Machine.execOmuPhrd cluster s
  | .omuPhinv cluster => Sys2Proof.Machine.execOmuPhinv cluster s
  | .omuTzero cluster => Sys2Proof.Machine.execOmuTzero cluster s
  | .omuTacc cluster => Sys2Proof.Machine.execOmuTacc cluster s
  | .dcmpExecute die => Sys2Proof.Machine.execDcmpExecute die s
  | .omuThermalLoop cluster errs => Sys2Proof.Machine.execOmuThermalLoop cluster errs s
  | .tcfgWrite core slot n val => Sys2Proof.Machine.execTcfgWrite core slot n val s
  | .phprobeWrite core val => Sys2Proof.Machine.execPhprobeWrite core val s
  | .drlimitWrite core val => Sys2Proof.Machine.execDrlimitWrite core val s
  | .gainWrite core val => Sys2Proof.Machine.execGainWrite core val s
  | .exchangeEntryRun core => Sys2Proof.Machine.execExchangeEntryRun core s
  | .groupEnterReleasing kid level gid => Sys2Proof.Machine.execGroupEnterReleasing kid level gid s
  | .memberRelease core => Sys2Proof.Machine.execMemberRelease core s
  | .levelConflictDetect kid => Sys2Proof.Machine.execLevelConflictDetect kid s
  | .peerLoss kid => Sys2Proof.Machine.execPeerLoss kid s
  | .doorbellWrite ctx q tail => Sys2Proof.Machine.execDoorbellWrite ctx q tail s
  | .launchRecordTake ctx q => Sys2Proof.Machine.execLaunchRecordTake ctx q s
  | .klaunchMgcAnswer core slot => Sys2Proof.Machine.execKlaunchMgcAnswer core slot s
  | .kernelEligible kid => Sys2Proof.Machine.execKernelEligible kid s
  | .kernelDependenceFault kid => Sys2Proof.Machine.execKernelDependenceFault kid s
  | .bindEntryWrite core shadow write => Sys2Proof.Machine.execBindEntryWrite core shadow write s
  | .kernelDrainComplete kid => Sys2Proof.Machine.execKernelDrainComplete kid s
  | .replayCompare kid => Sys2Proof.Machine.execReplayCompare kid s
  | .kernelKill kid => Sys2Proof.Machine.execKernelKill kid s
  | .preemptPartition cores => Sys2Proof.Machine.execPreemptPartition cores s
  | .priorityWaitTimeout kid => Sys2Proof.Machine.execPriorityWaitTimeout kid s
  | .contextCreateRequest ctx desc keyHeld => Sys2Proof.Machine.execContextCreateRequest ctx desc keyHeld s
  | .queueRegister ctx q ring logq cap => Sys2Proof.Machine.execQueueRegister ctx q ring logq cap s
  | .contextActivate ctx attested => Sys2Proof.Machine.execContextActivate ctx attested s
  | .contextSuspend ctx => Sys2Proof.Machine.execContextSuspend ctx s
  | .contextResume ctx => Sys2Proof.Machine.execContextResume ctx s
  | .contextDestroy ctx => Sys2Proof.Machine.execContextDestroy ctx s
  | .contextFree ctx => Sys2Proof.Machine.execContextFree ctx s
  | .faultHandover core slot => Sys2Proof.Machine.execFaultHandover core slot s
  | .faultResolution core slot choice => Sys2Proof.Machine.execFaultResolution core slot choice s
  | .faultRingSpace ctx => Sys2Proof.Machine.execFaultRingSpace ctx s
  | .missEscalate core slot => Sys2Proof.Machine.execMissEscalate core slot s
  | .slotEdge tu err => Sys2Proof.Machine.execSlotEdge tu err s
  | .slotEdgeTimeout tu => Sys2Proof.Machine.execSlotEdgeTimeout tu s
  | .atsInvalidationRequest va len => Sys2Proof.Machine.execAtsInvalidationRequest va len s
  | .atsInvalidationCompletion idx => Sys2Proof.Machine.execAtsInvalidationCompletion idx s
  | .dcdReleaseNotice va len => Sys2Proof.Machine.execDcdReleaseNotice va len s
  | .dcdForcedRelease va len => Sys2Proof.Machine.execDcdForcedRelease va len s
  | .flitReceive port lane bytes wrong => Sys2Proof.Machine.execFlitReceive port lane bytes wrong s
  | .nakTimer port lane => Sys2Proof.Machine.execNakTimer port lane s
  | .ackTimer port lane => Sys2Proof.Machine.execAckTimer port lane s
  | .idleFlitTimer port => Sys2Proof.Machine.execIdleFlitTimer port s
  | .portEnable port => Sys2Proof.Machine.execPortEnable port s
  | .portLock port first rest => Sys2Proof.Machine.execPortLock port first rest s
  | .portLockExchangeDone port peer told => Sys2Proof.Machine.execPortLockExchangeDone port peer told s
  | .portLockTimeout port => Sys2Proof.Machine.execPortLockTimeout port s
  | .portLightLoss port => Sys2Proof.Machine.execPortLightLoss port s
  | .portFence port => Sys2Proof.Machine.execPortFence port s
  | .portDisable port => Sys2Proof.Machine.execPortDisable port s
  | .portRestore port => Sys2Proof.Machine.execPortRestore port s
  | .wavelengthErrorDrop port lane wave codeword => Sys2Proof.Machine.execWavelengthErrorDrop port lane wave codeword s
  | .wavelengthSwitchover port lane => Sys2Proof.Machine.execWavelengthSwitchover port lane s
  | .packetForward idx => Sys2Proof.Machine.execPacketForward idx s
  | .routingTableInstall table fabric => Sys2Proof.Machine.execRoutingTableInstall table fabric s
  | .remoteRequestReceive pkt => Sys2Proof.Machine.execRemoteRequestReceive pkt s
  | .remoteResponseReceive pkt => Sys2Proof.Machine.execRemoteResponseReceive pkt s
  | .remoteRetryTimeout target opseq => Sys2Proof.Machine.execRemoteRetryTimeout target opseq s
  | .remoteAbandonTimeout target opseq => Sys2Proof.Machine.execRemoteAbandonTimeout target opseq s
  | .targetRecordExpiry src opseq => Sys2Proof.Machine.execTargetRecordExpiry src opseq s
  | .changeRequest ch fabric => Sys2Proof.Machine.execChangeRequest ch fabric s
  | .portDrainComplete port => Sys2Proof.Machine.execPortDrainComplete port s
  | .circuitsReady => Sys2Proof.Machine.execCircuitsReady s
  | .changeFinalInstall => Sys2Proof.Machine.execChangeFinalInstall s
  | .irSessionWrite n sess => Sys2Proof.Machine.execIrSessionWrite n sess s
  | .irSlotTransfer n slot light noise lowMargin => Sys2Proof.Machine.execIrSlotTransfer n slot light noise lowMargin s
  | .mgmtReadRequest port src line => Sys2Proof.Machine.execMgmtReadRequest port src line s
  | .cxlMemRead pa len => Sys2Proof.Machine.execCxlMemRead pa len s
  | .cxlMemWrite pa data poison => Sys2Proof.Machine.execCxlMemWrite pa data poison s
  | .hostLinkFatalError => Sys2Proof.Machine.execHostLinkFatalError s
  | .cxlReset => Sys2Proof.Machine.execCxlReset s
  | .uncorrectableMemoryError err => Sys2Proof.Machine.execUncorrectableMemoryError err s
  | .registerParityError core slot what => Sys2Proof.Machine.execRegisterParityError core slot what s
  | .correctedError core => Sys2Proof.Machine.execCorrectedError core s
  | .unitWithdraw kind idx => Sys2Proof.Machine.execUnitWithdraw kind idx s
  | .stackThermalSample stack temp => Sys2Proof.Machine.execStackThermalSample stack temp s
  | .selfHoldNotice stack => Sys2Proof.Machine.execSelfHoldNotice stack s
  | .stackLost stack => Sys2Proof.Machine.execStackLost stack s
  | .stackScrub stack => Sys2Proof.Machine.execStackScrub stack s
  | .rowRepair stack row => Sys2Proof.Machine.execRowRepair stack row s
  | .stackMailboxMessage stack msg => Sys2Proof.Machine.execStackMailboxMessage stack msg s
  | .imageStage img => Sys2Proof.Machine.execImageStage img s
  | .imageVerify kind => Sys2Proof.Machine.execImageVerify kind s
  | .handoverRequest kind => Sys2Proof.Machine.execHandoverRequest kind s
  | .imageCatchUp kind inst => Sys2Proof.Machine.execImageCatchUp kind inst s
  | .switchOver kind inst => Sys2Proof.Machine.execSwitchOver kind inst s
  | .catchUpTimeout kind inst => Sys2Proof.Machine.execCatchUpTimeout kind inst s
  | .heartbeat kind inst => Sys2Proof.Machine.execHeartbeat kind inst s
  | .heartbeatMissed kind inst => Sys2Proof.Machine.execHeartbeatMissed kind inst s
  | .probationCommit kind => Sys2Proof.Machine.execProbationCommit kind s
  | .pscImageBootTimeout => Sys2Proof.Machine.execPscImageBootTimeout s
  | .svnMinimumRaise kind min => Sys2Proof.Machine.execSvnMinimumRaise kind min s
  | .quoteRequest ctx nonce tag => Sys2Proof.Machine.execQuoteRequest ctx nonce tag s
  | .debugStopRequest core auth => Sys2Proof.Machine.execDebugStopRequest core auth s
  | .debugResumeRequest core auth => Sys2Proof.Machine.execDebugResumeRequest core auth s
  | .monitorSample core mon v => Sys2Proof.Machine.execMonitorSample core mon v s
  | .moncfgWrite core n val => Sys2Proof.Machine.execMoncfgWrite core n val s
  | .pmctlWrite core slot val => Sys2Proof.Machine.execPmctlWrite core slot val s
  | .trbaseWrite core slot val => Sys2Proof.Machine.execTrbaseWrite core slot val s
  | .csrWrite core slot num val => Sys2Proof.Machine.execCsrWrite core slot num val s
  | .firmwareLeafStore ctx pa val cls peer => Sys2Proof.Machine.execFirmwareLeafStore ctx pa val cls peer s
  | .frameReuseWaitElapsed idx => Sys2Proof.Machine.execFrameReuseWaitElapsed idx s
  | .newImageTrap kind inst => Sys2Proof.Machine.execNewImageTrap kind inst s
  | .tenantAuthenticatedRequest ctx imbal trace tag => Sys2Proof.Machine.execTenantAuthenticatedRequest ctx imbal trace tag s

end Sys2Proof.Machine
end

