-- ==== Sys2Proof/Machine/Input.lean ====
section
/-! DEFINITION. What the outside world does to the module beside the steps of the opcode table: CXL.io (R33 to R35, R40, R348, R452, R453, R462,
R489), the host's own memory, firmware's and the fabric manager's settings, a debugger's changes of registers. -/

namespace Sys2Proof.Machine

/-! ## The device information block (R34, R35, R452, R462, R489) -/

/-- To the host: data of a BAR0 read, and of a read of configuration space. -/
def msgBar : Nat := 17
/-- Data of a read of configuration space. -/
def msgConfig : Nat := 18

/-- STATE of an instance entry (R489). -/
def ImgState.code (st : ImgState) : Nat :=
  match st with
  | .none => 0
  | .staged => 1
  | .verified => 2
  | .handover => 3
  | .probation => 4
  | .committed => 5
  | .rolledBack => 6

/-- The entry of an instance (R489): one that has not switched over in a hand-over still runs the image before. -/
def State.instanceEntry (s : State) (inst : Nat) : List Byte :=
  let f := s.fwk (kindOf inst)
  leBytes 4 (s.inService inst).1 ++ leBytes 4 (s.inService inst).2 ++ leBytes 4 (if f.oldAt inst then 0 else f.pversion) ++ leBytes 1 f.st.code ++ leBytes 3 0 ++ leBytes 8 f.stAt ++ leBytes 8 0

/-- What the device information block holds, by offset. -/
def State.infoBlock (s : State) : List (Nat × List Byte) :=
  [(0x000, leBytes 8 s.devstat.toNat), (0x100, leBytes 32 s.enmap.toNat), (0x120, leBytes 32 s.wdmap.toNat)]
    ++ ((List.range 12).map fun i => (0x200 + 32 * i, s.instanceEntry i))
    ++ ((List.range 4).map fun k => (0x380 + 32 * k, (s.fwk (k + 1)).mr))
    ++ [(0x400, leBytes 8 s.mepoch)]
    ++ (List.range 32).map fun i => (0x800 + 32 * i, telemetryBytes (s.line (i / 16) (i % 16)))

/-- A byte of BAR0. -/
def State.barByte (s : State) (off : Nat) : Byte :=
  match s.infoBlock.find? fun r => r.1 ≤ off && off < r.1 + r.2.length with
  | some r => r.2.getD (off - r.1) 0
  | none => Config.barByte off

/-- Whether configuration space and BAR0 answer: from power good on (R33). -/
def State.answers (s : State) : Bool := 1 ≤ s.startStep

/-- A write to BAR0: the doorbell of queue q of context c lies at 0x1_0000 + 0x80 × c + 8 × q (R348); a link without CXL.cache and CXL.mem
takes reads only (R453). -/
def State.barWrite (s : State) (off value : Nat) : State :=
  if !s.answers || s.linkBad || off < 0x10000 || 0x12000 ≤ off || off % 8 != 0 then s
  else s.doorbell ((off - 0x10000) / 0x80) (off % 0x80 / 8) value

/-! ## Extents -/

/-- What is left of extents when a range leaves them. -/
def extentsWithout (xs : List (Nat × Nat)) (va len : Nat) : List (Nat × Nat) :=
  xs.flatMap fun x => [(x.1, min (x.1 + x.2) va - x.1), (max x.1 (va + len), x.1 + x.2 - max x.1 (va + len))].filter fun y => y.2 != 0

/-! ## Debugger -/

/-- A debugger's write of a register; an x register loses its poison (log entry 111), and pc stays a multiple of 4 (R118; log entry 70). -/
def Thread.debugWrite (t : Thread) (reg : DebugReg) (value : Nat) : Thread :=
  match reg with
  | .x r => t.setX (BitVec.ofNat 5 r) (BitVec.ofNat 64 value) false
  | .lr => { t with lr := BitVec.ofNat 64 value }
  | .pc => if value % 4 == 0 then { t with pc := BitVec.ofNat 64 value, skipPm := t.skipPm && t.pc.toNat == value } else t
  | .tflags => { t with tflags := BitVec.ofNat 64 value &&& tflagsMask }
  | .v r => t.setV (BitVec.ofNat 5 r) (BitVec.ofNat 1024 value) 0
  | .p r => t.setP (r % 8) (BitVec.ofNat 128 value)

/-- A debugger that holds a core writes a register of a thread that stands still. -/
def State.debugWrite (s : State) (core slot : Nat) (auth : Bool) (reg : DebugReg) (value : Nat) : State :=
  match s.running core with
  | none => s
  | some tid =>
    let t := s.thread tid slot
    if (s.core core).dbgHeld && s.debugAllowed core auth && (t.st == .stopped || t.st == .debug) then
      s.setThread tid slot (t.debugWrite reg value)
    else s

/-! ## Inputs -/

/-- Bytes of data with a poison flag. -/
def flagged (data : List Byte) (poison : Bool) : List PByte := data.map fun b => ⟨b, poison⟩

/-- What an input does to the module. -/
def State.input (s : State) (x : Input) : State :=
  match x with
  | .hostWrite pa data poison =>
    let key := Space.host.key pa
    { s with
      hostMod := s.hostMod.filter fun h => !rangesMeet h.key 64 key data.length
      mem := s.mem.writeSp .host pa (flagged data poison) (data.length / 4096 + 2) }
  | .hostTake va len => if s.contained then s else s.writeBack va len
  | .hostMap page entry => { s with hostMap := AMap.put s.hostMap page entry }
  | .peerWrite m pa data poison =>
    if m == s.self then s else { s with mem := s.mem.writeSp (.peer m) pa (flagged data poison) (data.length / 4096 + 2) }
  | .setWeight cl c w =>
    if cl < 96 && c < 16 && 1 ≤ w && w ≤ 255 then s.setCluster cl { s.cluster cl with weight := AMap.put (s.cluster cl).weight c w } else s
  | .setHlease c => if 1 ≤ c && c ≤ 14 then { s with hlease := c } else s
  | .setPwrlim mw => if mw ≤ 1900000 then { s with pwrlim := mw } else s
  | .setPgcnt ctx en => s.setCtx ctx { s.ctx ctx with pgen := en }
  | .clearPgcnt =>
    { s with pgc := [], ctxs := s.ctxs.map fun (c : Nat × Context) => (c.1, { c.2 with pgepoch := (c.2.pgepoch + 1) % 256 }) }
  | .frameCopy old new n =>
    { s.dropReplicas (linesOf new n) with
      mem := s.mem.writeSp .dev new (s.mem.readSp .dev old n) (n / 4096 + 2)
      reuse := s.reuse.map fun r => if old ≤ r.pa && r.pa < old + n then { r with copy := false } else r }
  | .expose ranges => { s with exposed := ranges }
  | .portOrder port order => if port < 96 && order < 16 then s.setPort port { s.port port with order := order } else s
  | .portAsym port ns => if port < 96 then s.setPort port { s.port port with asym := ns } else s
  | .timing master ups => ({ s with master := master, ups := ups } : State).selectUp
  | .transitAnswered src dst opseq => if src == s.self then s else s.notePassed src dst opseq
  | .dcdAdd va len => { s with dcdGone := extentsWithout s.dcdGone va len }
  | .linkDown =>
    let s := if s.hostMod.isEmpty then s else s.contain
    { s with linkUp := false }
  | .peerAccepted m ctx q seq =>
    if s.peerAccepts.contains (m, ctx, q, seq) then s else { s with peerAccepts := s.peerAccepts ++ [(m, ctx, q, seq)] }
  | .savedError tid slot what => if (s.task tid).stored && slot < 16 && (s.thread tid slot).live then s.stateError tid slot what else s
  | .drift u ahead => s.drift u ahead
  | .bookkeeping inst data => s.bookkeep inst data
  | .debugWrite core slot auth reg value => s.debugWrite core slot auth reg value
  | .mailboxTake k mgc manager => s.mailboxTake k mgc manager
  | .mailboxSend k m =>
    if 8 ≤ k || 64 ≤ (s.stack k).inbox.length then s
    else s.setStack k { s.stack k with inbox := (s.stack k).inbox ++ [{ m with stack := k }] }
  | .mailboxRead k => s.setStack k { s.stack k with inbox := (s.stack k).inbox.drop 1 }
  | .stackCorrected key => if key < 2 ^ 39 then s.rowError key true else s
  | .cacheParity core idx code => s.cacheParity core idx code
  | .unitFault kind idx => s.unitFault kind idx
  | .barWrite off value => s.barWrite off value
  | .barRead off len =>
    if s.answers then s.send 0 msgBar (off :: (List.range len).map fun i => (s.barByte (off + i)).toNat) else s
  | .configRead off len =>
    if s.answers then s.send 0 msgConfig (off :: (List.range len).map fun i => (Config.configByte (off + i)).toNat) else s

end Sys2Proof.Machine
end

