-- ==== Sys2Proof/Machine/Sched.lean ====
section
/-! DEFINITION. The machine's schedule (log entry 1): issuing a thread's instruction (R49, R126, R130), executing again what a
waiting thread holds (R126), the passing of time, and the moves that the device makes by itself. -/

namespace Sys2Proof.Machine

noncomputable section

/-- Execute decoded words for the current thread: the instruction, or the fault that R49 names. -/
def runWords (s : State) : Host.Outcome State Fault Refusal :=
  let t := s.thr
  match decodeWords t.pc.toNat s.curW.1 s.curW.2.1 s.curW.2.2 with
  | .ok i _ => exec i s
  | .bad c => .next (s.takeFault s.cur.1 s.cur.2 c 0 0 0 0)

/-- Issue one instruction of a thread: fetch, decode, execute. A thread that no longer runs is passed over. -/
def issueThread (tid slot : Nat) (s : State) : Host.Outcome State Fault Refusal :=
  let s := { s with cur := (tid, slot), curW := (0, 0, 0) }
  if !s.thr.canRun then .next s
  else
    match s.fetch tid slot with
    | (s, .words w0 w1 w2) => runWords { s with curW := (w0, w1, w2) }
    | (s, .fault c a) => .next (s.takeFault tid slot c 0 a 0 0)
    | (s, .wait w) =>
      let t := s.thr
      -- A translation miss discards an open packet, which a deferred stop waits for (R335, R491).
      let (pc, packet) := match w, t.packet with
        | .page _, some p => (p.xopen, none)
        | _, p => (t.pc, p)
      .next (((s.setThr { t with st := .waiting w, since := t.waitSince w s.now, pc := pc, packet := packet }).holdWait w (.resume tid slot)).holdIfStopping tid slot)

/-- A waiting thread re-tests its condition: its instruction executes again from the words it holds, or from its fetch (R126). -/
def retry (tid slot : Nat) (s : State) : Host.Outcome State Fault Refusal :=
  let t := s.thread tid slot
  if !(s.task tid).onCore then .next s
  else
    match t.st, t.held with
    | .waiting .shadow, _ => .next (if (s.task tid).shadowHolder.isNone then s.passShadow tid else s)
    | .waiting _, some w => runWords { s with cur := (tid, slot), curW := w }
    | .waiting (.page va), none =>
      -- A thread that a miss on fetch set back to its xopen waits for the page that it missed.
      if va != t.pc && !s.pageHere (s.task tid).ctx va then .next s else issueThread tid slot s
    | .waiting _, none => issueThread tid slot s
    | _, _ => .next s

/-- A copy slews by 1 ns in each of n microseconds (R402). -/
def TimeCopy.slewBy (t : TimeCopy) (n : Nat) : TimeCopy :=
  let d := clampInt t.slew (-(n : Int)) n
  { t with off := t.off + d, slew := t.slew - d }

/-- The level that an event of a monitor samples, of the task on a core (R499; log entry 115): its entries of the core's copy queue, its
staged operations of its own matrix unit, its write-through buffer entries, its READY threads. -/
def State.levelOf (s : State) (tid core event : Nat) : Option Nat :=
  match event with
  | 16 => some ((s.queueOf core).filter fun o => o.tid == tid).length
  | 17 => some ((s.cluster (clusterOf core)).staged.filter fun o => o.tid == tid).length
  | 18 => some ((s.task tid).threads.map fun (t : Nat × Thread) => t.2.wbuf.length).sum
  | 19 => some ((s.task tid).threads.filter fun (t : Nat × Thread) => t.2.st == .ready).length
  | _ => none

/-- The same sample n times. -/
def Monitor.samples (m : Monitor) (v n : Nat) : Monitor :=
  match n with
  | 0 => m
  | n + 1 => (m.sample v).samples v n

/-- The monitors of a core that count levels take n samples. -/
def State.sampleLevels (s : State) (n core : Nat) (c : Core) : Core :=
  match c.run with
  | none => c
  | some tid =>
    let one (m : Monitor) : Monitor := ((s.levelOf tid core (m.cfg.toNat % 256)).map fun v => m.samples v n).getD m
    { c with mons := c.mons.map fun m => (m.1, one m.2) }

/-- Chip time passes: copies of it slew (R402), the tasks on cores count their cycles (R120, R121), levels are sampled every 64 ns (R499), the
flits that were formed leave (R445). -/
def State.elapse (s : State) (ns : Nat) : State :=
  let us := (s.now + ns) / 1000 - s.now / 1000
  let n := (s.now + ns) / 64 - s.now / 64
  { s with
    cores := if n == 0 then s.cores else s.cores.map fun (c : Nat × Core) => (c.1, s.sampleLevels n c.1 c.2)
    now := s.now + ns
    clusters := s.clusters.map fun (c : Nat × Cluster) => (c.1, { c.2 with time := c.2.time.slewBy us })
    dies := s.dies.map fun (d : Nat × Die) => (d.1, { d.2 with time := d.2.time.slewBy us })
    podTime := s.podTime.slewBy us
    ports := s.ports.map fun (p : Nat × Port) => (p.1, s.launch p.1 p.2)
    tasks := s.tasks.map fun (t : Nat × Task) =>
      if t.2.onCore then (t.1, { t.2 with cycles := t.2.cycles + ns * s.coreClock t.2.cluster }) else t }

/-- An engine operation that a stack held goes on: a copy moves its unit (R468); the other engines go on by their own steps. -/
def State.engineMove (s : State) (tid op : Nat) : State :=
  let mine (o : CopyOp) : Bool := o.tid == tid && o.key 0 ≤ op && op < o.key 4
  match (s.clusters.flatMap fun (c : Nat × Cluster) => c.2.copies).find? mine with
  | some o => (s.copyStep o).1
  | none => s

/-! ## Events for the MGCs (R483; log entry 122) -/

/-- Whether a queued event has not been answered yet. -/
def State.eventOpen (s : State) (e : MgcEvent) : Bool :=
  match e with
  | .fault tid slot => (s.thread tid slot).frec.isSome
  | .miss tid slot => (match (s.thread tid slot).st with | .waiting (.page _) => true | _ => false)
  | .launch tid slot => decide ((s.thread tid slot).st = .waiting .mgc)
  | .doorbell c q => (match AMap.find? (s.ctx c).queues q with | some k => decide (k.head < k.tail) | none => false)
  | .refused _ _ _ => false

/-- What awaits an image of a die's MGC: of the die's cores, and for die 0 of the doorbells. -/
def State.mgcWork (s : State) (d : Nat) : List MgcEvent :=
  let here := s.tasks.filter fun (t : Nat × Task) => t.2.onCore && dieOf t.2.cluster == d
  ((here.flatMap fun (t : Nat × Task) => slots.flatMap fun i => [MgcEvent.fault t.1 i, .miss t.1 i, .launch t.1 i])
    ++ (if d == 0 then s.ctxs.flatMap fun (c : Nat × Context) => c.2.queues.map fun q => MgcEvent.doorbell c.1 q.1 else [])).filter s.eventOpen

/-- The events of a die queue in the order in which they come, 4,096 of them; the others wait where they arose. One leaves when an image has
answered it. -/
def State.collect (s : State) : State :=
  (List.range 2).foldl (fun (s : State) d =>
    let k := s.die d
    let es := k.events.filter s.eventOpen
    let es := (es ++ (s.mgcWork d).filter fun e => !es.contains e).take 4096
    if es == k.events then s else s.setDie d { k with events := es }) s

/-- Carry out a move. -/
def runMove (m : Move) (s : State) : Host.Outcome State Fault Refusal :=
  match m with
  | .event i => exec i s
  | .resume tid slot => retry tid slot s
  | .perform tid slot age => .next (s.performEntry tid slot age)
  | .engine tid op => .next (s.engineMove tid op)
  | .elapse ns => .next (s.elapse ns).retireLdrains
  | .dropLine core idx => .next (s.setCore core { s.core core with dcache := (s.core core).dcache.eraseIdx idx })
  | .performPart tid slot age idx => .next (s.performPart tid slot age idx)
  | .cutPart tid slot age idx n => .next (s.cutPart tid slot age idx n)
  | .input x => .next (s.input x)
  | .request p => .next (s.takeRequest p)
  | .collect => .next s.collect
  | .hostRead pa len => .next (s.hostRead pa len)
  | .hostWrite pa data poison => .next (s.hostStore pa data poison)

/-! ## What the device does by itself -/

/-- Moves of a core: an issue group, dispatch, waits that may be over, buffered stores, faults, its queues. -/
def State.coreMoves (s : State) (core : Nat) : List Move :=
  let ev (i : Instr) : Move := .event i
  let tids := s.tasksOn core
  let left := (s.tasks.filter fun (t : Nat × Task) => t.2.core == core && t.2.threads.any fun h => !h.2.wbuf.isEmpty).map Prod.fst
  [ev (.issueGroupForm core)]
    ++ (match s.running core with
      | some tid =>
        (slots.filter fun i => match (s.thread tid i).st with | .waiting _ => true | _ => false).map fun i => Move.resume tid i
      | none => [])
    ++ (left.flatMap fun tid => slots.flatMap fun i => (s.thread tid i).wbuf.map fun e => Move.perform tid i e.age)
    ++ (slots.flatMap fun i => if tids.any fun t => (s.thread t i).frec.isSome then
        [ev (.faultHandover core i), ev (.faultResolution core i .none)] else [])
    ++ [ev (.handlerInstructionLimit core), ev (.deadlockDetect core), ev (.taskSave core false), ev (.taskSave core true), ev (.spinTimeoutSwap core),
        ev (.taskRestore core false), ev (.taskStart core false), ev (.taskRestore core true), ev (.taskStart core true),
        ev (.exchangeEntryRun core), ev (.sfuEntryComplete core 0)]
    ++ slots.map fun i => ev (.klaunchMgcAnswer core i)

/-- Moves of a cluster: its engines; the responses of a probe are free. -/
def State.clusterMoves (s : State) (c : Nat) : List Move :=
  let ev (i : Instr) : Move := .event i
  let r := (List.range 512).map (Config.detector s.free)
  [ev (.cmeArbitrationRound c), ev (.passStreamStart c), ev (.passDetected c), ev (.omuPhld c r), ev (.omuPhtrim c (s.freeTrims c) r), ev (.omuPhrd c),
   ev (.omuPhinv c), ev (.omuTzero c), ev (.omuTacc c), ev (.leaseExpiry c)]
    ++ (List.range 16).map fun b => ev (.omuProbe c b r)

/-- Moves of kernels, queues, groups and contexts. -/
def State.kernelMoves (s : State) : List Move :=
  let ev (i : Instr) : Move := .event i
  (s.ctxs.flatMap fun (c : Nat × Context) => ev (.faultRingSpace c.1) :: ev (.contextFree c.1) :: c.2.queues.map fun q => ev (.launchRecordTake c.1 q.1))
    ++ (s.kernels.flatMap fun k => [ev (.kernelDependenceFault k.kid), ev (.kernelEligible k.kid), ev (.kernelKill k.kid),
        ev (.kernelDrainComplete k.kid), ev (.replayCompare k.kid), ev (.levelConflictDetect k.kid)])
    ++ ((s.fw.filter fun (f : Nat × FwKind) => f.2.asked).map fun f => ev (.handoverRequest f.1))
    ++ (if (s.fwk 3).moving then [] else s.mgmtWait.map fun r => ev (.mgmtReadRequest r.1 r.2.1 r.2.2))
    ++ (if s.childCores.isEmpty then [] else [ev (.preemptPartition s.childCores)])
    ++ s.groups.map fun g => ev (.groupEnterReleasing g.kid g.level g.gid)

/-- Moves of the fabric, and waits that end with time. -/
def State.fabricMoves (s : State) : List Move :=
  let ev (i : Instr) : Move := .event i
  ((List.range s.vqueue.length).map fun i => ev (.packetForward i))
    ++ (s.remotes.flatMap fun r => [ev (.remoteAbandonTimeout r.target r.opseq), ev (.remoteRetryTimeout r.target r.opseq)])
    ++ (s.targets.map fun r => ev (.targetRecordExpiry r.src r.opseq))
    ++ (s.ports.map fun (p : Nat × Port) => ev (.portDrainComplete p.1))
    ++ ((s.ports.filter fun (p : Nat × Port) => s.portDue p.1).map fun p => ev (.idleFlitTimer p.1)) ++ [ev .changeFinalInstall]
    ++ ((List.range s.reuse.length).map fun i => ev (.frameReuseWaitElapsed i))
    ++ (List.range s.ats.length).map fun i => ev (.atsInvalidationCompletion i)

/-- Moves of controllers whose time has come. -/
def State.timeMoves (s : State) : List Move :=
  let ev (i : Instr) : Move := .event i
  (s.kernels.map fun k => ev (.priorityWaitTimeout k.kid)) ++ (s.hbm.map fun (k : Nat × Stack) => ev (.selfHoldNotice k.1))
    ++ ((s.hbm.filter fun (k : Nat × Stack) => k.2.trainings != 0 && k.2.scrubAt + dayNs ≤ s.now).map fun k => ev (.stackScrub k.1))
    ++ (s.hbm.flatMap fun (k : Nat × Stack) => (k.2.rows.map Prod.fst).map fun row => ev (.rowRepair k.1 row))
    ++ ((s.clusters.filter fun (c : Nat × Cluster) => s.omuDue c.1).map fun c => ev (.unitWithdraw .omu c.1))
    ++ (s.unitFaults.map fun (u : Nat × Nat) => ev (.unitWithdraw (unitOf u.1).1 (unitOf u.1).2))
    ++ (s.ports.map fun (p : Nat × Port) => ev (.portLockTimeout p.1))
    ++ (s.fw.flatMap fun (f : Nat × FwKind) =>
        (instances f.1).flatMap (fun i => [ev (.catchUpTimeout f.1 i), ev (.heartbeatMissed f.1 i)]) ++ [ev (.probationCommit f.1)])
    ++ [ev .pscImageBootTimeout]

/-- Every move that the device may make by itself, in the order of one round of the model's schedule (log entry 1). -/
def State.moves (s : State) : List Move :=
  .collect :: (s.cores.flatMap fun (c : Nat × Core) => s.coreMoves c.1)
    ++ (s.clusters.flatMap fun (c : Nat × Cluster) => s.clusterMoves c.1)
    ++ ((List.range 2).map fun d => Move.event (.dcmpExecute d)) ++ s.kernelMoves ++ s.fabricMoves
    ++ s.timeMoves

/-- The first of some moves, numbered from n, that changes the state, with the state after it. -/
def State.firstMove (s : State) (n : Nat) (ms : List Move) : Option (Nat × State) :=
  match ms with
  | [] => none
  | m :: ms =>
    match runMove m s with
    | .next r => if { r with cur := s.cur, curW := s.curW } = s then s.firstMove (n + 1) ms else some (n, r)
    | _ => s.firstMove (n + 1) ms

/-- What happens when the agenda and the issue group are empty: the next move of the round, or 1 ns passes and a round begins. -/
def State.auto (s : State) : State :=
  match s.firstMove s.cursor (s.moves.drop s.cursor) with
  | some (n, r) => { r with cursor := n + 1, free := r.free + 1 }
  | none => { (s.elapse 1).retireLdrains.slotEdges with cursor := 0 }

end

end Sys2Proof.Machine
end

