-- ==== Sys2Proof/Machine/Step.lean ====
section
/-! DEFINITION. One step of the machine, and the state in which a given instruction is fetched next. -/

namespace Sys2Proof.Machine

noncomputable section

/-- One step: the next move of the agenda, else the next thread of the issue group, else what the device does by itself. -/
def step (s : State) : Host.Outcome State Fault Refusal :=
  match s.agenda with
  | m :: ms => runMove m { s with agenda := ms }
  | [] =>
    match s.issuing with
    | i :: is => issueThread i.1 i.2 { s with issuing := is }
    | [] => .next s.auto

end

/-- Where withFetchWord places the instruction: a virtual address in the device half. -/
def fetchPc : Nat := 0xFF80000000400000

/-- The thread that runs it: slot 0 of a task of kernel 1, rank 0. -/
def fetchTid : Nat := 4096

/-- Memory with page tables that map the code page, and the instruction's bytes (R391 to R395). -/
def fetchMem (m : Memory) (nbits w : Nat) : Memory :=
  let put (m : Memory) (pa : Nat) (bs : List Byte) : Memory := m.writeSp .dev pa (bs.map fun b => ⟨b, false⟩) 2
  let m := put m 0x10000 (leBytes 8 (0x80 * 2 ^ 20 + 1))
  let m := put m 0x20000 (leBytes 8 (0xC0 * 2 ^ 20 + 0xF01))
  let m := put m 0x30200 (leBytes 8 (0x100 * 2 ^ 20 + 0xF))
  put m 0x40000 (tableBytes (w % 2 ^ nbits))

/-- The state in which the given instruction is the next one fetched: an ACTIVE context with page tables, a task on core 0 whose control
thread stands at the instruction, and that thread next to issue (log entry 2). -/
def State.withFetchWord (s : State) (nbits w : Nat) : State :=
  let t := { Thread.empty with st := .ready, pc := BitVec.ofNat 64 fetchPc }
  let k := { Task.blank with place := .running 0 false, kid := 1, ctx := 0, threads := [(0, t)] }
  let s := (s.setTask fetchTid k).setCtx 0 { Context.reset with st := .active, desc := { (default : CtxDesc) with root := 0x10000 } }
  let s := s.setCore 0 { Core.reset with run := some fetchTid, ptask := some fetchTid }
  let s := (s.setCluster 0 { s.cluster 0 with tlb := [], time := TimeCopy.reset }).setDie 0 { s.die 0 with time := TimeCopy.reset }
  let s := s.setStack 0 Stack.reset
  { s with mem := fetchMem s.mem nbits w, agenda := [], issuing := [(fetchTid, 0)] }

end Sys2Proof.Machine
end

