-- ==== Sys2Proof/Safety.lean ====
section
/-! DEFINITION. What a safe step and a safe run are, and the terms that claims use: when a thread may issue, what an instruction
that completes leaves of the state, what a fault leaves. -/

namespace Sys2Proof

/-- A step that answers a next state. -/
def StepsTo (s t : Machine.State) : Prop := Machine.step s = .next t

/-- The states that a run reaches from s. -/
inductive Reaches (s : Machine.State) : Machine.State → Prop where
  | here : Reaches s s
  | step (t u : Machine.State) : Reaches s t → StepsTo t u → Reaches s u

/-- A state from which no step ends in a fault or a refusal. -/
def NeverStops (s : Machine.State) : Prop := ∀ t, Reaches s t → ∃ u, StepsTo t u

/-- An instruction completes at a state: exec answers a next state. -/
def Completes (i : Instr) (s : Machine.State) : Prop := ∃ t, Machine.exec i s = .next t

end Sys2Proof

namespace Sys2Proof.Machine

/-- The current thread may issue any instruction: it is READY or tries again to complete (R126), has no open packet (R335), is in
no PC-match handler (R496), and no debugger is stopping its core (R491). -/
structure State.Ready (s : State) : Prop where
  run    : s.thr.canRun = true
  packet : s.thr.packet = none
  shadow : s.thr.shadow = none
  debug  : (s.core s.tk.core).dbgStop = false

/-- A thread that goes on at pc: READY, holding nothing of an instruction in progress (R126). -/
def Thread.goesOn (t : Thread) (pc : Word) : Thread :=
  { t with st := .ready, pc := pc, held := none, got := [], answer := none, skipPm := false }

/-- A thread after an instruction of len bytes that did not jump. -/
def Thread.after (t : Thread) (len : Nat) : Thread := t.goesOn (t.pc + BitVec.ofNat 64 len)

/-- The state after an instruction of len bytes issued at s whose effect is r: the thread goes on, and a debug stop that waits for
the instruction boundary takes hold (R126, R491). -/
def State.retired (s r : State) (len : Nat) : State := (r.setThr (r.thr.after len)).holdIfStopping s.cur.1 s.cur.2

/-- The effect of the instruction, issued at s, is r, and it retires after len bytes. -/
def Effects (i : Instr) (s r : State) (len : Nat) : Prop := exec i s = .next (s.retired r len)

/-- The instruction, issued at s, jumps to pc after the effect r. -/
def Jumps (i : Instr) (s r : State) (pc : Word) : Prop :=
  exec i s = .next ((r.setThr (r.thr.goesOn pc)).holdIfStopping s.cur.1 s.cur.2)

/-- The instruction stops its thread with a precise fault and no other effect (R376). -/
def Faults (i : Instr) (s : State) (code addr info1 : Nat) : Prop :=
  exec i s = .next (s.takeFault s.cur.1 s.cur.2 code 0 addr info1 0)

/-- The instruction does not complete: its thread waits for w and tries again from the words it keeps (R126); nothing else changes, but
that a stack in SELF holds the access that waits for it (R468). -/
def Waits (i : Instr) (s : State) (w : Wait) : Prop :=
  ∃ since, exec i s = .next ((s.setThr { s.thr with
    st := .waiting w, held := some (s.thr.held.getD s.curW), since := since }).holdWait w (.resume s.cur.1 s.cur.2))

/-- The instruction, issued at s, takes a precise fault once it has come to r: nothing else of it happens (R376). -/
def FaultsAt (i : Instr) (s r : State) (code addr info1 : Nat) : Prop :=
  exec i s = .next ((r.takeFault r.cur.1 r.cur.2 code 0 addr info1 0).holdIfStopping s.cur.1 s.cur.2)

/-- The instruction, issued at s, waits for w once it has come to r (R126, R468). -/
def WaitsAt (i : Instr) (s r : State) (w : Wait) : Prop :=
  ∃ since, exec i s = .next (((r.setThr { r.thr with
    st := .waiting w, held := some (r.thr.held.getD r.curW), since := since }).holdWait w (.resume r.cur.1 r.cur.2)).holdIfStopping
      s.cur.1 s.cur.2)

/-- The current task is on its core, and the n bytes from a lie in core memory, none of them in the hole of a core with two entries (R37,
R388). -/
def State.InCore (s : State) (a n : Nat) : Prop :=
  s.tk.onCore = true ∧ cmBase ≤ a ∧ a + n ≤ 2 ^ 64 ∧ ∀ i < n, s.cmHole s.cur.1 (a + i - cmBase) = false

/-- The current thread has no buffered store, and no fault of a performed store pends for it: a drain finds nothing to do (R223,
R528). -/
def State.Drained (s : State) : Prop := s.thr.wbuf = [] ∧ ∀ p ∈ s.tk.pend, s.isStoreFault p = false

/-- Nothing but the current thread differs: not memory, no other thread, task, core or unit. -/
def OnlyThread (s t : State) : Prop := t = s.setThr t.thr

/-- The instruction only advances pc by len. -/
def Advances (i : Instr) (s : State) (len : Nat) : Prop := exec i s = .next (s.setThr (s.thr.after len))

/-- xd := v with poison p, the flags fl are merged into TFLAGS, and pc advances by len; x0 takes no value (R118); every other
register, flag and byte stays as it was. -/
structure WritesX (s t : State) (d : Reg) (v : Word) (p : Bool) (fl : Word) (len : Nat) : Prop where
  only   : OnlyThread s t
  thread : t.thr = { s.thr.after len with x := t.thr.x, xp := t.thr.xp, tflags := s.thr.tflags ||| fl }
  value  : ∀ r, t.x r = if r = d ∧ r ≠ 0 then v else s.x r
  poison : ∀ r, t.xp r = if r = d ∧ r ≠ 0 then p else s.xp r

/-- The instruction completes with a value for xd and changes no flag. -/
def GivesX (i : Instr) (s : State) (d : Reg) (v : Word) (p : Bool) (len : Nat) : Prop :=
  ∃ t, exec i s = .next t ∧ WritesX s t d v p 0 len

/-- A floating-point instruction completes with the code r.1 for xd and the flags r.2 of R89. -/
def GivesF (i : Instr) (s : State) (d : Reg) (r : Nat × Nat) (p : Bool) (len : Nat) : Prop :=
  ∃ t, exec i s = .next t ∧ WritesX s t d (BitVec.ofNat 64 r.1) p (BitVec.ofNat 64 r.2 &&& 0x1F0) len

/-! ## Vector results -/

/-- Lane i of width w of a vector register, with the poison of its chunk (R118, R190). -/
def Thread.lane (t : Thread) (r : Reg) (w i : Nat) : Nat × Bool := (laneOf (t.vr r).toNat w i, t.vpr r (w * i / 64))

/-- Whether lane i of a vector instruction is active (R191). -/
def Thread.on (t : Thread) (f : VX) (i : Nat) : Bool := (t.pr f.pg.toNat).getLsbD (i * (laneW f / 8))

/-- Lane i of the B operand of element type et: the literal, the x register, or the vector (R55, R194); bitwise says that a floating-point
type only sets the width. -/
def Thread.bLane (t : Thread) (f : VX) (et : Nat) (bitwise : Bool) (lit : Option (BitVec 32)) (i : Nat) : Nat × Bool :=
  match lit with
  | some l => (litLane et bitwise l, false)
  | none => if f.xs then ((t.xr f.vb).toNat % 2 ^ etBits et, t.xpr f.vb) else t.lane f.vb (etBits et) i

/-- Lane i after an instruction that writes r there under its predicate: the result where the lane is active, else zero under ZM,
else what stood there (R193). -/
def Thread.governedLane (t : Thread) (f : VX) (r : Nat → Nat × Bool × Nat) (i : Nat) : Nat × Bool :=
  if t.on f i then ((r i).1, (r i).2.1) else if f.zm then (0, false) else t.lane f.vd (laneW f) i

/-- The flags of the active lanes (R92). -/
def Thread.laneFlags (t : Thread) (f : VX) (r : Nat → Nat × Bool × Nat) : Word :=
  BitVec.ofNat 64 (orAll ((List.range (1024 / laneW f)).map fun i => if t.on f i then (r i).2.2 else 0)) &&& 0x1F0

/-- Vector register d takes the lanes new, a chunk the OR of its lanes' poison (R193); the flags fl are merged, pc advances by len;
everything else stays. -/
structure WritesV (s t : State) (d : Reg) (w : Nat) (new : Nat → Nat × Bool) (fl : Word) (len : Nat) : Prop where
  only   : OnlyThread s t
  thread : t.thr = { s.thr.after len with v := t.thr.v, vp := t.thr.vp, tflags := s.thr.tflags ||| fl }
  lane   : ∀ i < 1024 / w, laneOf (t.thr.vr d).toNat w i = (new i).1 % 2 ^ w
  poison : ∀ c < 16, t.thr.vpr d c = (List.range (1024 / w)).any fun i => decide (w * i / 64 = c) && (new i).2
  others : ∀ r, r ≠ d → t.thr.vr r = s.thr.vr r ∧ ∀ c < 16, t.thr.vpr r c = s.thr.vpr r c

/-- A vector instruction completes with the lane results r (value, poison, flags) under its predicate. -/
def GivesV (i : Instr) (s : State) (f : VX) (r : Nat → Nat × Bool × Nat) (len : Nat) : Prop :=
  ∃ t, exec i s = .next t ∧ WritesV s t f.vd (laneW f) (s.thr.governedLane f r) (s.thr.laneFlags f r) len

/-- Predicate d takes lane bits new at width w, every other bit of it 0 (R192); p0 takes none (R118); the flags fl are merged, pc
advances by len; everything else stays. -/
structure WritesP (s t : State) (d w : Nat) (new : Nat → Bool) (fl : Word) (len : Nat) : Prop where
  only   : OnlyThread s t
  thread : t.thr = { s.thr.after len with p := t.thr.p, tflags := s.thr.tflags ||| fl }
  bits   : ∀ r, ∀ j < 128, (t.thr.pr r).getLsbD j =
    if r = d ∧ r ≠ 0 then decide (j % (w / 8) = 0 ∧ j / (w / 8) < 1024 / w) && new (j / (w / 8)) else (s.thr.pr r).getLsbD j

/-- A predicate-writing instruction completes with the lane bits r: a lane that is not active becomes 0 under ZM and stays else (R192). -/
def GivesP (i : Instr) (s : State) (f : VX) (r : Nat → Bool) (fl : Word) (len : Nat) : Prop :=
  ∃ t, exec i s = .next t ∧ WritesP s t f.vd.toNat (laneW f)
    (fun i => if s.thr.on f i then r i else !f.zm && (s.thr.pr f.vd.toNat).getLsbD (i * (laneW f / 8))) fl len

/-- Lane results of a function of the B lane, of the A and B lanes, and of these with the lanes of a third register. -/
def Thread.map1 (t : Thread) (f : VX) (bitwise : Bool) (lit : Option (BitVec 32)) (g : Nat → Nat × Nat) (i : Nat) : Nat × Bool × Nat :=
  let b := t.bLane f f.et.toNat bitwise lit i
  ((g b.1).1, b.2, (g b.1).2)

/-- Of the A and B lanes. -/
def Thread.map2 (t : Thread) (f : VX) (bitwise : Bool) (lit : Option (BitVec 32)) (g : Nat → Nat → Nat × Nat) (i : Nat) :
    Nat × Bool × Nat :=
  let a := t.lane f.va (laneW f) i
  let b := t.bLane f f.et.toNat bitwise lit i
  ((g a.1 b.1).1, a.2 || b.2, (g a.1 b.1).2)

/-- Of the A and B lanes and the lanes of register c. -/
def Thread.map3 (t : Thread) (f : VX) (lit : Option (BitVec 32)) (c : Reg) (g : Nat → Nat → Nat → Nat × Nat) (i : Nat) :
    Nat × Bool × Nat :=
  let a := t.lane f.va (laneW f) i
  let b := t.bLane f f.et.toNat false lit i
  let z := t.lane c (laneW f) i
  ((g a.1 b.1 z.1).1, a.2 || b.2 || z.2, (g a.1 b.1 z.1).2)

end Sys2Proof.Machine
end

