-- ==== Sys2Proof/Certificates/Slice0/Obligations.lean ====
section
/-! DEFINITION. The statements that are to be proved of the model, each over its rules of spec/. -/

open Sys2Proof Sys2Proof.Machine

noncomputable section

/-! ## Scalar integer instructions -/

/-- R151, R147, R148: every ALU function gives xd its result, computed from both sources before xd is written, with the OR of the
sources' poison bits; it advances pc by 4, sets no flag and changes nothing else. Its word is of format Q3 with MAJ 0x01 and its FN9;
FN9 values 26 to 511 are refused. -/
def Stated.AluGivesResult : Prop :=
  ∀ (s : State), s.Ready → ∀ (d a b : Reg),
    let x := s.x a
    let y := s.x b
    let gives (i : Instr) (fn : Nat) (v : Word) : Prop :=
      encode i = [4 + 256 * d.toNat + 8192 * a.toNat + 262144 * b.toNat + 8388608 * fn] ∧ GivesX i s d v (s.xp a || s.xp b) 4
    let low (v : BitVec 32) : Word := v.signExtend 64
    let x32 := x.setWidth 32
    let y32 := y.setWidth 32
    gives (.add d a b) 0 (x + y) ∧ gives (.sub d a b) 1 (x - y) ∧ gives (.and d a b) 2 (x &&& y) ∧ gives (.or d a b) 3 (x ||| y)
    ∧ gives (.xor d a b) 4 (x ^^^ y) ∧ gives (.andn d a b) 5 (x &&& ~~~y) ∧ gives (.orn d a b) 6 (x ||| ~~~y)
    ∧ gives (.xnor d a b) 7 (~~~(x ^^^ y))
    ∧ gives (.shl d a b) 8 (x <<< (y.setWidth 6)) ∧ gives (.shr d a b) 9 (x >>> (y.setWidth 6))
    ∧ gives (.sra d a b) 10 (x.sshiftRight' (y.setWidth 6))
    ∧ gives (.rol d a b) 11 (x.rotateLeft (y.setWidth 6).toNat) ∧ gives (.ror d a b) 12 (x.rotateRight (y.setWidth 6).toNat)
    ∧ gives (.slt d a b) 13 (if x.toInt < y.toInt then 1 else 0) ∧ gives (.sltu d a b) 14 (if x.toNat < y.toNat then 1 else 0)
    ∧ gives (.seq d a b) 15 (if x = y then 1 else 0) ∧ gives (.sne d a b) 16 (if x = y then 0 else 1)
    ∧ gives (.min d a b) 17 (if x.toInt ≤ y.toInt then x else y) ∧ gives (.max d a b) 18 (if x.toInt ≤ y.toInt then y else x)
    ∧ gives (.minu d a b) 19 (if x.toNat ≤ y.toNat then x else y) ∧ gives (.maxu d a b) 20 (if x.toNat ≤ y.toNat then y else x)
    ∧ gives (.addw d a b) 21 (low (x32 + y32)) ∧ gives (.subw d a b) 22 (low (x32 - y32))
    ∧ gives (.shlw d a b) 23 (low (x32 <<< (y.setWidth 5))) ∧ gives (.shrw d a b) 24 (low (x32 >>> (y.setWidth 5)))
    ∧ gives (.sraw d a b) 25 (low (x32.sshiftRight' (y.setWidth 5)))
    ∧ ∀ off w0 w1 w2, off % 32 ≤ 28 → w0 % 4 = 0 → w0 / 4 % 64 = 1 → 26 ≤ w0 / 8388608 % 512 →
      decodeWords off w0 w1 w2 = .bad 0x01

/-- R152 to R155: the immediate and literal forms compute as the register forms do, with the immediate sign-extended (zero-extended
by liz, in the high half by lihi), and carry the poison of xa alone; literals take 8 bytes. -/
def Stated.ImmediateGivesResult : Prop :=
  ∀ (s : State), s.Ready → ∀ (d a : Reg),
    let x := s.x a
    let p := s.xp a
    (∀ imm : BitVec 14,
      let v : Word := imm.signExtend 64
      GivesX (.addi d a imm) s d (x + v) p 4 ∧ GivesX (.andi d a imm) s d (x &&& v) p 4
      ∧ GivesX (.ori d a imm) s d (x ||| v) p 4 ∧ GivesX (.xori d a imm) s d (x ^^^ v) p 4)
    ∧ (∀ n : BitVec 6,
      GivesX (.shli d a n) s d (x <<< n) p 4 ∧ GivesX (.shri d a n) s d (x >>> n) p 4
      ∧ GivesX (.srai d a n) s d (x.sshiftRight' n) p 4 ∧ GivesX (.roli d a n) s d (x.rotateLeft n.toNat) p 4
      ∧ GivesX (.rori d a n) s d (x.rotateRight n.toNat) p 4)
    ∧ (∀ imm : BitVec 11,
      let v : Word := imm.signExtend 64
      GivesX (.slti d a imm) s d (if x.toInt < v.toInt then 1 else 0) p 4
      ∧ GivesX (.sltui d a imm) s d (if x.toNat < v.toNat then 1 else 0) p 4
      ∧ GivesX (.seqi d a imm) s d (if x = v then 1 else 0) p 4 ∧ GivesX (.snei d a imm) s d (if x = v then 0 else 1) p 4)
    ∧ (∀ imm : BitVec 32,
      let v : Word := imm.signExtend 64
      GivesX (.li d imm) s d v false 8 ∧ GivesX (.liz d imm) s d (imm.setWidth 64) false 8
      ∧ GivesX (.lihi d a imm) s d (imm ++ x.setWidth 32) p 8 ∧ GivesX (.addl d a imm) s d (x + v) p 8
      ∧ GivesX (.andl d a imm) s d (x &&& v) p 8 ∧ GivesX (.orl d a imm) s d (x ||| v) p 8
      ∧ GivesX (.xorl d a imm) s d (x ^^^ v) p 8 ∧ GivesX (.sltl d a imm) s d (if x.toInt < v.toInt then 1 else 0) p 8)

/-- R156, R82: products are exact before their bits are taken; division gives the quotient and remainder of R82, never traps, and
treats a zero divisor and the overflow case as the table says; the words have MAJ 0x0E and their FN9, and 11 to 511 are refused. -/
def Obligations.MulDivGivesResult : Prop :=
  ∀ (s : State), s.Ready → ∀ (d a b : Reg),
    let x := s.x a
    let y := s.x b
    let gives (i : Instr) (fn : Nat) (v : Word) : Prop :=
      encode i = [56 + 256 * d.toNat + 8192 * a.toNat + 262144 * b.toNat + 8388608 * fn] ∧ GivesX i s d v (s.xp a || s.xp b) 4
    let low (v : BitVec 32) : Word := v.signExtend 64
    let x32 := x.setWidth 32
    let y32 := y.setWidth 32
    let high (p : BitVec 128) : Word := p.extractLsb' 64 64
    gives (.mul d a b) 0 (x * y) ∧ gives (.mulw d a b) 4 (low (x32 * y32))
    ∧ gives (.mulh d a b) 1 (high (x.signExtend 128 * y.signExtend 128))
    ∧ gives (.mulhu d a b) 2 (high (x.setWidth 128 * y.setWidth 128))
    ∧ gives (.mulhsu d a b) 3 (high (x.signExtend 128 * y.setWidth 128))
    ∧ gives (.div d a b) 5 (if y = 0 then BitVec.allOnes 64 else x.sdiv y)
    ∧ gives (.divu d a b) 6 (if y = 0 then BitVec.allOnes 64 else x.udiv y)
    ∧ gives (.rem d a b) 7 (if y = 0 then x else x.srem y) ∧ gives (.remu d a b) 8 (if y = 0 then x else x.umod y)
    ∧ gives (.divw d a b) 9 (low (if y32 = 0 then BitVec.allOnes 32 else x32.sdiv y32))
    ∧ gives (.remw d a b) 10 (low (if y32 = 0 then x32 else x32.srem y32))
    ∧ ∀ off w0 w1 w2, off % 32 ≤ 28 → w0 % 4 = 0 → w0 / 4 % 64 = 14 → 11 ≤ w0 / 8388608 % 512 →
      decodeWords off w0 w1 w2 = .bad 0x01

/-- R157: the counting and reversing functions, each characterised by the bits of its operand. -/
def Stated.BitCountsGiveResult : Prop :=
  ∀ (s : State), s.Ready → ∀ (d a b : Reg),
    let x := s.x a
    let one (i : Instr) (v : Word) : Prop := GivesX i s d v (s.xp a) 4
    (∃ n ≤ 64, one (.clz d a) (BitVec.ofNat 64 n) ∧ (∀ j, 64 ≤ j + n → x.getLsbD j = false) ∧ (n < 64 → x.getLsbD (63 - n) = true))
    ∧ (∃ n ≤ 64, one (.ctz d a) (BitVec.ofNat 64 n) ∧ (∀ j < n, x.getLsbD j = false) ∧ (n < 64 → x.getLsbD n = true))
    ∧ one (.popc d a) (BitVec.ofNat 64 ((List.range 64).countP fun j => x.getLsbD j))
    ∧ (∃ v, one (.brev d a) v ∧ ∀ j < 64, v.getLsbD j = x.getLsbD (63 - j))
    ∧ (∃ v, one (.bswap d a) v ∧ ∀ i < 8, ∀ j < 8, v.getLsbD (8 * i + j) = x.getLsbD (8 * (7 - i) + j))
    ∧ (∃ n ≤ 32, one (.clzw d a) (BitVec.ofNat 64 n)
        ∧ (∀ j < 32, 32 ≤ j + n → x.getLsbD j = false) ∧ (n < 32 → x.getLsbD (31 - n) = true))
    ∧ (∃ n ≤ 32, one (.ctzw d a) (BitVec.ofNat 64 n) ∧ (∀ j < n, x.getLsbD j = false) ∧ (n < 32 → x.getLsbD n = true))
    ∧ one (.popcw d a) (BitVec.ofNat 64 ((List.range 32).countP fun j => x.getLsbD j))
    ∧ (∃ n ≤ 64, GivesX (.fnsb d a b) s d (BitVec.ofNat 64 n) (s.xp a || s.xp b) 4
        ∧ (n < 64 → x.getLsbD n = true ∧ ((List.range n).countP fun j => x.getLsbD j) = (s.x b).toNat)
        ∧ (n = 64 → ((List.range 64).countP fun j => x.getLsbD j) ≤ (s.x b).toNat))

/-- R158, R159: a field given by an offset and a width is truncated at bit 63; extract, insert and mask act on it bit by bit; the
register forms take the offset from xb[7:0] and the width from xb[15:8], and bfi and bfii keep the bits of xd outside the field. -/
def Stated.BitFieldsGiveResult : Prop :=
  ∀ (s : State), s.Ready → ∀ (d a b : Reg),
    let x := s.x a
    let inField (off wid j : Nat) : Bool := off ≤ j && j < off + wid && j < 64
    let size (off wid : Nat) : Nat := min wid (64 - off)
    let zx (off wid : Nat) (v : Word) : Prop := ∀ j < 64, v.getLsbD j = (decide (j < size off wid) && x.getLsbD (off + j))
    let sx (off wid : Nat) (v : Word) : Prop := ∀ j < 64, v.getLsbD j =
      if size off wid = 0 then false else x.getLsbD (off + min j (size off wid - 1))
    let ins (off wid : Nat) (v : Word) : Prop := ∀ j < 64, v.getLsbD j =
      if inField off wid j then x.getLsbD (j - off) else (s.x d).getLsbD j
    let off := ((s.x b).setWidth 8).toNat
    let wid := ((s.x b).extractLsb' 8 8).toNat
    let p := s.xp a || s.xp b
    (∃ v, GivesX (.bfx d a b) s d v p 4 ∧ sx off wid v) ∧ (∃ v, GivesX (.bfxu d a b) s d v p 4 ∧ zx off wid v)
    ∧ (∃ v, GivesX (.bfi d a b) s d v (s.xp d || p) 4 ∧ ins off wid v)
    ∧ (∃ v, GivesX (.bfmsk d b) s d v (s.xp b) 4 ∧ ∀ j < 64, v.getLsbD j = inField off wid j)
    ∧ ∀ o w : BitVec 7,
      (∃ v, GivesX (.bfxi d a o w) s d v (s.xp a) 8 ∧ sx o.toNat w.toNat v)
      ∧ (∃ v, GivesX (.bfxui d a o w) s d v (s.xp a) 8 ∧ zx o.toNat w.toNat v)
      ∧ (∃ v, GivesX (.bfii d a o w) s d v (s.xp d || s.xp a) 8 ∧ ins o.toNat w.toNat v)
/-! ## Scalar floating point -/

/-- R149, R161 to R163, R165, R167: an operand of type TY is the low bits of its register, the result is zero-extended, the flags are
merged into TFLAGS, and the result carries the poison of every source. The arithmetic functions round in the mode of TFLAGS or, for
the fused forms, of their RM field. -/
def Obligations.FloatArithmeticGivesResult : Prop :=
  ∀ (s : State), s.Ready → ∀ (ty : BitVec 2) (d a b c : Reg),
    let f := ffOf (8 + ty.toNat)
    let x := (s.x a).toNat % 2 ^ f.width
    let y := (s.x b).toNat % 2 ^ f.width
    let z := (s.x c).toNat % 2 ^ f.width
    let r : Rnd := { mode := s.thr.mode 0, sat := false, fz := s.thr.tflags.getLsbD 3 }
    let two (i : Instr) (v : Nat × Nat) : Prop := GivesF i s d v (s.xp a || s.xp b) 4
    let signed (i : Instr) (neg : Bool) : Prop := two i (x % f.signBit + (if neg then f.signBit else 0), 0)
    two (.fadd ty d a b) (f.add r x y) ∧ two (.fsub ty d a b) (f.sub r x y) ∧ two (.fmul ty d a b) (f.mul r x y)
    ∧ two (.fdiv ty d a b) (f.div r x y) ∧ GivesF (.fsqrt ty d a) s d (f.sqrt r x) (s.xp a) 4
    ∧ two (.fmin ty d a b) (f.minmax r.fz false false x y) ∧ two (.fmax ty d a b) (f.minmax r.fz true false x y)
    ∧ two (.fminn ty d a b) (f.minmax r.fz false true x y) ∧ two (.fmaxn ty d a b) (f.minmax r.fz true true x y)
    ∧ signed (.fsgnj ty d a b) (f.neg y) ∧ signed (.fsgnjn ty d a b) (!f.neg y)
    ∧ signed (.fsgnjx ty d a b) (f.neg x != f.neg y)
    ∧ GivesF (.fclass ty d a) s d (f.classify x, 0) (s.xp a) 4
    ∧ ∀ rm : BitVec 3,
      let fused (i : Instr) (np nc : Bool) : Prop :=
        GivesF i s d (f.fma { r with mode := s.thr.mode rm.toNat } np nc x y z) (s.xp a || s.xp b || s.xp c) 8
      fused (.fma ty rm d a b c) false false ∧ fused (.fms ty rm d a b c) false true
      ∧ fused (.fnma ty rm d a b c) true true ∧ fused (.fnms ty rm d a b c) true false

/-- R164, R166: comparisons give 1 or 0 with their flags; conversions go between the formats, to integers of 64 or 32 bits
(sign-extended when signed, zero-extended when unsigned), and from them. -/
def Obligations.FloatCompareConvertGivesResult : Prop :=
  ∀ (s : State), s.Ready → ∀ (ty : BitVec 2) (d a b : Reg),
    let f := ffOf (8 + ty.toNat)
    let x := (s.x a).toNat % 2 ^ f.width
    let y := (s.x b).toNat % 2 ^ f.width
    let fz := s.thr.tflags.getLsbD 3
    let truth (i : Instr) (v : Bool × Nat) : Prop := GivesF i s d (if v.1 then 1 else 0, v.2) (s.xp a || s.xp b) 4
    truth (.feq ty d a b) (f.eq fz x y) ∧ truth (.flt ty d a b) (f.lt fz x y) ∧ truth (.fle ty d a b) (f.le fz x y)
    ∧ (∀ src : BitVec 5,
      let g := ffOf (8 + src.toNat)
      GivesF (.fcvt ty d a src) s d
        (g.convert f { mode := s.thr.mode 0, sat := false, fz := fz } ((s.x a).toNat % 2 ^ g.width)) (s.xp a) 4)
    ∧ ∀ (rm : BitVec 3) (w : Bool),
      let n := if w then 32 else 64
      let mode := s.thr.mode rm.toNat
      let r : Rnd := { mode := mode, sat := false, fz := fz }
      (let v := f.toInteger mode fz (-(2 ^ (n - 1) : Nat)) ((2 ^ (n - 1) : Nat) - 1) x
       ∃ t, exec (.fcvti ty d a rm w) s = .next t
        ∧ WritesX s t d (BitVec.ofInt 64 v.1) (s.xp a) (BitVec.ofNat 64 v.2 &&& 0x1F0) 4)
      ∧ (let v := f.toInteger mode fz 0 ((2 ^ n : Nat) - 1) x
       ∃ t, exec (.fcvtu ty d a rm w) s = .next t
        ∧ WritesX s t d (BitVec.ofInt 64 v.1) (s.xp a) (BitVec.ofNat 64 v.2 &&& 0x1F0) 4)
      ∧ GivesF (.icvtf ty d a rm w) s d
        (f.ofInteger r (if w then ((s.x a).setWidth 32).toInt else (s.x a).toInt)) (s.xp a) 4
      ∧ GivesF (.ucvtf ty d a rm w) s d
        (f.ofInteger r (if w then ((s.x a).setWidth 32).toNat else (s.x a).toNat)) (s.xp a) 4

/-- R84 to R86, R91, R93, R94: rounding leaves a value that the format holds as it is, with no flag; a NaN operand of an arithmetic
function gives the canonical NaN, and the flag NV alone when some operand is signalling. -/
def Stated.RoundingKeepsValuesAndNaNs : Prop :=
  ∀ et, 8 ≤ et → et ≤ 13 →
    let f := ffOf et
    (∀ (r : Rnd) (c : Nat) (neg : Bool) (m : Nat) (e : Int),
      c < 2 ^ f.width → f.value c = .fin neg m e → (r.fz = true → f.isSub c = false) → f.round r neg m e false = (c, 0))
    ∧ ∀ (r : Rnd) (a b : Nat),
      let nan (c : Nat) : Bool := (f.value c).isNan
      let flag := if (f.value a).snan || (f.value b).snan then flagNV else 0
      (nan a || nan b) = true →
        f.add r a b = (f.nan, flag) ∧ f.sub r a b = (f.nan, flag) ∧ f.mul r a b = (f.nan, flag) ∧ f.div r a b = (f.nan, flag)
        ∧ f.eq r.fz a b = (false, flag) ∧ f.lt r.fz a b = (false, flagNV) ∧ f.le r.fz a b = (false, flagNV)
/-! ## Control flow, SYS instructions, CSRs -/

/-- R173, R498: a branch with a poisoned condition register raises 0x51; a taken one jumps by its offset in 4-byte units and writes a trace record,
which R498 and log entry 36 give; one not taken only advances pc. The short forms carry 11 bits of offset, the long ones 32; bbs and bbc test bit B
of xa. In the words, MAJ is 0x0A, CND stands in [20:18] and OFF11 in [31:21], zero in the long form. -/
def Obligations.BranchesJumpOrFallThrough : Prop :=
  ∀ (s : State), s.Ready → ∀ (a b : Reg),
    let x := s.x a
    let y := s.x b
    let acts (i : Instr) (cnd : Nat) (ws : Nat → List Nat) (off : Word) (len : Nat) (pois cond : Bool) : Prop :=
      let pc := s.thr.pc + 4 * off
      encode i = ws (256 * a.toNat + 8192 * b.toNat + 262144 * cnd)
      ∧ (pois = true → Faults i s 0x51 0 0)
      ∧ (pois = false → cond = true → Jumps i s (s.traceRec s.cur.1 s.cur.2 1 0 pc.toNat) pc)
      ∧ (pois = false → cond = false → Advances i s len)
    let pab := s.xp a || s.xp b
    let bit := x.getLsbD b.toNat
    (∀ o : BitVec 11,
      let ws (w : Nat) : List Nat := [w + 0x28 + 2097152 * o.toNat]
      let off : Word := o.signExtend 64
      acts (.beq a b o) 0 ws off 4 pab (decide (x = y)) ∧ acts (.bne a b o) 1 ws off 4 pab (decide (x ≠ y))
      ∧ acts (.blt a b o) 2 ws off 4 pab (decide (x.toInt < y.toInt)) ∧ acts (.bge a b o) 3 ws off 4 pab (decide (y.toInt ≤ x.toInt))
      ∧ acts (.bltu a b o) 4 ws off 4 pab (decide (x.toNat < y.toNat)) ∧ acts (.bgeu a b o) 5 ws off 4 pab (decide (y.toNat ≤ x.toNat))
      ∧ acts (.bbs a b o) 6 ws off 4 (s.xp a) bit ∧ acts (.bbc a b o) 7 ws off 4 (s.xp a) (!bit))
    ∧ ∀ o : BitVec 32,
      let ws (w : Nat) : List Nat := [w + 0x29, o.toNat]
      let off : Word := o.signExtend 64
      acts (.beqLong a b o) 0 ws off 8 pab (decide (x = y)) ∧ acts (.bneLong a b o) 1 ws off 8 pab (decide (x ≠ y))
      ∧ acts (.bltLong a b o) 2 ws off 8 pab (decide (x.toInt < y.toInt)) ∧ acts (.bgeLong a b o) 3 ws off 8 pab (decide (y.toInt ≤ x.toInt))
      ∧ acts (.bltuLong a b o) 4 ws off 8 pab (decide (x.toNat < y.toNat))
      ∧ acts (.bgeuLong a b o) 5 ws off 8 pab (decide (y.toNat ≤ x.toNat))
      ∧ acts (.bbsLong a b o) 6 ws off 8 (s.xp a) bit ∧ acts (.bbcLong a b o) 7 ws off 8 (s.xp a) (!bit)

/-- R175 to R177: jumps by an offset or through a register, with lr := pc + len in the linking forms; A = 0 names lr as the base; a
target that is no multiple of 4 raises 0x04 and writes nothing; jtab reads the table's length and, for an index in range, jumps to
its entry. That the record of 0x04 has ADDR 0 is log entry 44, that a jump writes no trace record log entry 36. -/
def Obligations.JumpsGoToTarget : Prop :=
  ∀ (s : State), s.Ready →
    let pc := s.thr.pc
    let linked (len : Nat) : State := s.setThr { s.thr with lr := pc + BitVec.ofNat 64 len }
    (∀ o : BitVec 19, Jumps (.j o) s s (pc + 4 * o.signExtend 64) ∧ Jumps (.jal o) s (linked 4) (pc + 4 * o.signExtend 64))
    ∧ (∀ o : BitVec 32,
      Jumps (.jLong o) s s (pc + 4 * o.signExtend 64) ∧ Jumps (.jalLong o) s (linked 8) (pc + 4 * o.signExtend 64))
    ∧ (∀ (a : Reg) (imm : BitVec 14),
      let target := (if a = 0 then s.thr.lr else s.x a) + imm.signExtend 64
      (s.xp a = true → Faults (.jr a imm) s 0x51 0 0 ∧ Faults (.jalr a imm) s 0x51 0 0)
      ∧ (s.xp a = false → target.toNat % 4 ≠ 0 → Faults (.jr a imm) s 0x04 0 0 ∧ Faults (.jalr a imm) s 0x04 0 0)
      ∧ (s.xp a = false → target.toNat % 4 = 0 → Jumps (.jr a imm) s s target ∧ Jumps (.jalr a imm) s (linked 4) target))
    ∧ ∀ a b : Reg,
      ((s.xp a || s.xp b) = true → Faults (.jtab a b) s 0x51 0 0)
      ∧ ∀ (r : State) (n : List PByte), (s.xp a || s.xp b) = false →
        s.load s.cur.1 s.cur.2 (s.x a).toNat 8 = (r, .bytes n) → n.any PByte.p = false →
        (leNat (n.map PByte.b) ≤ (r.x b).toNat → Effects (.jtab a b) s r 4)
        ∧ ∀ (q : State) (e : List PByte), (r.x b).toNat < leNat (n.map PByte.b) →
          r.load r.cur.1 r.cur.2 (r.x a + 8 + 8 * r.x b).toNat 8 = (q, .bytes e) → e.any PByte.p = false →
          leNat (e.map PByte.b) % 4 = 0 → Jumps (.jtab a b) s q (BitVec.ofNat 64 (leNat (e.map PByte.b)))

/-- R179 to R182, R185, R186, R64, R236, R497: nop only advances pc; fence and wbf with nothing buffered advance it, iflush with nothing buffered by
the core, whose instruction cache it empties and whose fetches it forgets; yield is noted for the next issue group; trap, bkpt and ill take their
precise faults, an armed bkpt and a dstop of a held core stop the core without a fault record; pmark writes a marker record.
Where the spec leaves a point open it follows the model's choice: log entries 29 and 83. -/
def Obligations.SystemInstructionsAct : Prop :=
  ∀ (s : State), s.Ready →
    Advances .nop s 4
    ∧ Effects .yield s (s.setTk { s.tk with avoid := s.tk.avoid ++ [s.cur.2] }) 4
    ∧ (s.Drained → (∀ n, Advances (.fence n) s 4) ∧ Advances .wbf s 4
        ∧ (s.tk.entries = [] → Effects .iflush s (s.flushCode s.cur.1) 4 ∧ ((s.flushCode s.cur.1).core s.tk.core).icache = []))
    ∧ (∀ n, Faults (.trap n) s 0x07 0 n.toNat ∧ Faults (.ill n) s 0x01 0 0)
    ∧ (∀ n, s.tk.pmctl.getLsbD 2 = false → Faults (.bkpt n) s 0x08 0 n.toNat)
    ∧ (∀ n, s.tk.pmctl.getLsbD 2 = true →
        ∃ t, exec (.bkpt n) s = .next t ∧ (t.core s.tk.core).dbgStop = true ∧ t.thr.pc = s.thr.pc ∧ t.thr.frec = s.thr.frec
          ∧ t.thr.st = .debug)
    ∧ (∀ a, Effects (.pmark a) s (s.traceRec s.cur.1 s.cur.2 2 (s.xp a).toNat (s.x a).toNat) 4)
    ∧ ((s.core s.tk.core).dbgHeld = false → Advances .dstop s 4)
    ∧ ((s.core s.tk.core).dbgHeld = true →
        ∃ t, exec .dstop s = .next t ∧ (t.core s.tk.core).dbgStop = true ∧ t.thr.pc = s.thr.pc + 4
          ∧ t.thr.st = .debug)

/-- R183, R382: tret in a reflected handler restores every x register with its poison, lr, TFLAGS and pc from the trap frame, clears FLTREC.HND and
writes no memory; a pc that is no multiple of 4 raises 0x04, whose record has ADDR 0 (log entry 44), and outside a handler tret raises 0x01. -/
def Stated.TretRestoresTrapFrame : Prop :=
  ∀ (s : State), s.Ready →
    let key := s.cmOf s.cur.1 (s.tk.lrec.cmsize * 1024 + 384 * s.cur.2)
    let word (o : Nat) : Word := BitVec.ofNat 64 (leNat ((s.mem.read (key + o) 8).map PByte.b))
    ((word 0x118).toNat % 4 ≠ 0 → Faults .tret s 0x04 0 0)
    ∧ (s.thr.fltrec.getLsbD 8 = false → (word 0x118).toNat % 4 = 0 → Faults .tret s 0x01 0 0)
    ∧ (s.thr.fltrec.getLsbD 8 = true → (word 0x118).toNat % 4 = 0 →
      ∃ t, exec .tret s = .next t ∧ OnlyThread s t ∧ t.thr.st = .ready ∧ t.thr.pc = word 0x118 ∧ t.thr.lr = word 0x108
        ∧ t.thr.tflags = word 0x110 &&& 0x1FF ∧ t.thr.fltrec.getLsbD 8 = false
        ∧ (∀ r : Reg, r ≠ 0 → t.x r = word (8 * r.toNat))
        ∧ (∀ r : Reg, r ≠ 0 → t.xp r = ((word 0x100).getLsbD r.toNat || (s.mem.read (key + 8 * r.toNat) 8).any PByte.p))
        ∧ t.thr.v = s.thr.v ∧ t.thr.vp = s.thr.vp ∧ t.thr.p = s.thr.p)

/-- R184, R495: pmret in a PC-match handler gives the thread its own registers back and resumes it at PMEPC, and frees the shadow
context; a PMEPC that is no multiple of 4 raises 0x04, whose record has ADDR 0 (log entry 44), and outside a handler pmret raises 0x01. -/
def Stated.PmretRestoresShadow : Prop :=
  (∀ (s : State), s.Ready → (s.thr.pmepc.toNat % 4 ≠ 0 → Faults .pmret s 0x04 0 0)
      ∧ (s.thr.pmepc.toNat % 4 = 0 → Faults .pmret s 0x01 0 0))
  ∧ ∀ (s : State) (h : ShadowRegs), s.thr.canRun = true → s.thr.packet = none → (s.core s.tk.core).dbgStop = false →
    s.thr.shadow = some h →
    (s.thr.pmepc.toNat % 4 ≠ 0 → ∃ t, exec .pmret s = .next t ∧ t.thr.st = .stopped ∧ t.thr.frec.map FaultRec.code = some 0x04)
    ∧ (s.thr.pmepc.toNat % 4 = 0 →
      ∃ t, exec .pmret s = .next t ∧ t.thr.st = .ready ∧ t.thr.pc = s.thr.pmepc ∧ t.thr.shadow = none
        ∧ t.thr.x = h.x ∧ t.thr.xp = h.xp ∧ t.thr.lr = h.lr ∧ t.thr.tflags = h.tflags ∧ t.thr.v = s.thr.v)

/-- R168 to R170: csrr gives xd the register's value without poison; csrw, csrs and csrc raise 0x51 on a poisoned xa before anything
else, raise 0x06 for a number that cannot be read or that refuses the write, and otherwise write the new value and give xd the
old one. -/
def Stated.CsrInstructionsReadAndWrite : Prop :=
  ∀ (s : State), s.Ready → ∀ (d a : Reg) (n : BitVec 12),
    (∀ v, s.csrRead n.toNat = some v → GivesX (.csrr d n) s d v false 4)
    ∧ (s.csrRead n.toNat = none → Faults (.csrr d n) s 0x06 0 0)
    ∧ let acts (i : Instr) (new : Word → Word) : Prop :=
        (s.xp a = true → Faults i s 0x51 0 0)
        ∧ (s.xp a = false → s.csrRead n.toNat = none → Faults i s 0x06 0 0)
        ∧ ∀ old, s.xp a = false → s.csrRead n.toNat = some old →
          (s.csrWrite n.toNat (new old) = .refused → Faults i s 0x06 0 0)
          ∧ ∀ r, s.csrWrite n.toNat (new old) = .ok r → Effects i s (r.setX d old false) 4
      acts (.csrw d a n) (fun _ => s.x a) ∧ acts (.csrs d a n) (fun old => old ||| s.x a)
      ∧ acts (.csrc d a n) (fun old => old &&& ~~~s.x a)

/-- R168, R171: a write of a core's CSR takes effect as the write of the thread of its slot, whatever thread the state speaks of; a write
that is refused, or by a core without a task, changes nothing. A write of LINK sets lr of the slot's thread and nothing else. -/
def Stated.CsrWriteEventsAct : Prop :=
  ∀ (s : State) (core slot n : Nat) (v : Word),
    (∀ tid r, s.running core = some tid → ({ s with cur := (tid, slot) } : State).csrWrite n v = .ok r →
      exec (.csrWrite core slot n v) s = .next { r with cur := s.cur })
    ∧ (∀ tid, s.running core = some tid → ({ s with cur := (tid, slot) } : State).csrWrite n v = .refused →
      exec (.csrWrite core slot n v) s = .next s)
    ∧ (s.running core = none → exec (.csrWrite core slot n v) s = .next s)
    ∧ (∀ tid, s.running core = some tid →
      exec (.csrWrite core slot 0x1A0 v) s = .next (s.setThread tid slot { s.thread tid slot with lr := v }))

/-- R12, R119, R120, R169, R309, R323, R493: what a core's write of a CSR stores: TFLAGS and LINK of the thread, TRAPENT as a multiple of
4, GAIN clipped to 12, STAGGER's low bits; TRAPENT, STAGGER and PMCTL are refused to helpers, a read-only or unassigned number to
all, PHPROBE and DRLIMIT to a core without the PHASE right. -/
def Stated.CsrWritesStoreFields : Prop :=
  ∀ (s : State) (v : Word),
    s.csrWrite 0x000 v = .ok (s.setThr { s.thr with tflags := v &&& 0x1FF })
    ∧ s.csrWrite 0x1A0 v = .ok (s.setThr { s.thr with lr := v })
    ∧ s.csrWrite 0x096 v = .ok (s.setTk { s.tk with gain := min (v.toNat % 16) 12 })
    ∧ (s.cur.2 = 0 → s.csrWrite 0x030 v = .ok (s.setTk { s.tk with trapent := v &&& ~~~3 })
        ∧ s.csrWrite 0x0CA v = .ok (s.setTk { s.tk with stagger := v &&& 0x3FF })
        ∧ ∃ r, s.csrWrite 0x170 v = .ok r ∧ r.tk.pmctl.getLsbD 2 = s.tk.pmctl.getLsbD 2)
    ∧ (s.cur.2 ≠ 0 → s.csrWrite 0x030 v = .refused ∧ s.csrWrite 0x0CA v = .refused ∧ s.csrWrite 0x170 v = .refused)
    ∧ (s.tk.phaseHere = false → s.csrWrite 0x093 v = .refused ∧ s.csrWrite 0x094 v = .refused)
    ∧ (s.tk.phaseHere = true → ∃ r, s.csrWrite 0x093 v = .ok r
        ∧ 1 ≤ (r.cluster s.tk.cluster).phprobe ∧ (r.cluster s.tk.cluster).phprobe ≤ 16)
    ∧ (∀ n, 0x001 ≤ n → n ≤ 0x02F → s.csrWrite n v = .refused) ∧ (∀ n, 0x1A1 ≤ n → s.csrWrite n v = .refused)
/-! ## Vector instructions -/

/-- R190, R191, R193, R194, R197: each integer function gives every active lane its result on numbers of the element type, wrapped or
clamped under SAT, with the poison of its source chunks; other lanes become zero under ZM and stay else; no flag changes. The literal
forms take LIT32 as the B operand and 12 bytes. -/
def Obligations.VectorIntegerGivesLanes : Prop :=
  ∀ (s : State), s.Ready → ∀ (f : VX),
    let w := laneW f
    let sg := etS f.et.toNat
    let v (x : Nat) : Int := if sg then toInt w x else x
    let fits (sat : Bool) (r : Int) : Nat × Nat := (fit sg sat w r, 0)
    let two (plain : VX → Instr) (lit : VX → BitVec 32 → Instr) (g : Nat → Nat → Nat × Nat) : Prop :=
      GivesV (plain f) s f (s.thr.map2 f false none g) 8 ∧ ∀ l, GivesV (lit f l) s f (s.thr.map2 f false (some l) g) 12
    let one (plain : VX → Instr) (lit : VX → BitVec 32 → Instr) (g : Nat → Nat × Nat) : Prop :=
      GivesV (plain f) s f (s.thr.map1 f false none g) 8 ∧ ∀ l, GivesV (lit f l) s f (s.thr.map1 f false (some l) g) 12
    two .vadd .vaddLit (fun a b => fits f.sat (v a + v b)) ∧ two .vsub .vsubLit (fun a b => fits f.sat (v a - v b))
    ∧ two .vmul .vmulLit (fun a b => fits f.sat (v a * v b)) ∧ two .vmulh .vmulhLit (fun a b => fits false (v a * v b / (2 ^ w : Nat)))
    ∧ one .vabs .vabsLit (fun b => fits f.sat (v b).natAbs) ∧ one .vneg .vnegLit (fun b => fits f.sat (-(v b)))
    ∧ two .vmin .vminLit (fun a b => (if v a ≤ v b then a else b, 0)) ∧ two .vmax .vmaxLit (fun a b => (if v a ≤ v b then b else a, 0))
    ∧ two .vadds .vaddsLit (fun a b => fits true (v a + v b)) ∧ two .vsubs .vsubsLit (fun a b => fits true (v a - v b))
    ∧ two .vavg .vavgLit (fun a b => fits false ((v a + v b + 1) / 2))
    ∧ two .vshl .vshlLit (fun a b => fits f.sat (v a * (2 ^ (b % w) : Nat))) ∧ two .vshr .vshrLit (fun a b => (a / 2 ^ (b % w), 0))
    ∧ two .vsra .vsraLit (fun a b => fits false (toInt w a / (2 ^ (b % w) : Nat)))
    ∧ one .vmov .vmovLit (fun b => (b, 0))
    ∧ (let g (a b c : Nat) := fits f.sat (v a * v b + v c)
       GivesV (.vmadd f) s f (s.thr.map3 f none f.vc g) 8 ∧ ∀ l, GivesV (.vmaddLit f l) s f (s.thr.map3 f (some l) f.vc g) 12)
    ∧ let byte (x j : Nat) : Int := laneV sg 8 (laneOf x 8 j)
      let g (a b d : Nat) : Nat × Nat := (fit sg f.sat 32
        (laneV sg 32 d + (byte a 0 * byte b 0 + byte a 1 * byte b 1 + byte a 2 * byte b 2 + byte a 3 * byte b 3)), 0)
      GivesV (.vdot4 f) s f (s.thr.map3 f none f.vd g) 8 ∧ ∀ l, GivesV (.vdot4Lit f l) s f (s.thr.map3 f (some l) f.vd g) 12

/-- R199: the bitwise functions on lanes, where a floating-point element type only sets the width of a literal. -/
def Obligations.VectorBitwiseGivesLanes : Prop :=
  ∀ (s : State), s.Ready → ∀ (f : VX),
    let w := laneW f
    let two (plain : VX → Instr) (lit : VX → BitVec 32 → Instr) (g : Nat → Nat → Nat) : Prop :=
      GivesV (plain f) s f (s.thr.map2 f true none fun a b => (g a b, 0)) 8
      ∧ ∀ l, GivesV (lit f l) s f (s.thr.map2 f true (some l) fun a b => (g a b, 0)) 12
    let one (plain : VX → Instr) (lit : VX → BitVec 32 → Instr) (g : Nat → Nat) : Prop :=
      GivesV (plain f) s f (s.thr.map1 f true none fun b => (g b, 0)) 8
      ∧ ∀ l, GivesV (lit f l) s f (s.thr.map1 f true (some l) fun b => (g b, 0)) 12
    let field (a b : Nat) : Nat :=
      let off := if w = 8 then b % 16 else b % 256
      let wid := if w = 8 then b / 16 % 16 else b / 256 % 256
      if etS f.et.toNat then fieldS w a off wid else fieldZ w a off wid
    two .vand .vandLit (fun a b => a &&& b) ∧ two .vor .vorLit (fun a b => a ||| b) ∧ two .vxor .vxorLit (fun a b => a ^^^ b)
    ∧ two .vandn .vandnLit (fun a b => a &&& (2 ^ w - 1 - b % 2 ^ w)) ∧ one .vnot .vnotLit (fun b => 2 ^ w - 1 - b % 2 ^ w)
    ∧ one .vpopc .vpopcLit (popcount w) ∧ one .vclz .vclzLit (leadZeros w) ∧ one .vctz .vctzLit (trailZeros w)
    ∧ one .vbrev .vbrevLit (revBits w) ∧ two .vfnsb .vfnsbLit (fnsb w) ∧ two .vbfx .vbfxLit field

/-- R198: the floating-point functions on lanes, rounded in the mode of RM or TFLAGS and saturating under SAT, with the union of the
active lanes' flags; vfmin and vfmax ignore a NaN operand when IMM9 is 1. -/
def Obligations.VectorFloatGivesLanes : Prop :=
  ∀ (s : State), s.Ready → ∀ (f : VX),
    let g := ffOf f.et.toNat
    let r : Rnd := { mode := s.thr.mode f.rm.toNat, sat := f.sat, fz := s.thr.tflags.getLsbD 3 }
    let two (plain : VX → Instr) (lit : VX → BitVec 32 → Instr) (h : Nat → Nat → Nat × Nat) : Prop :=
      GivesV (plain f) s f (s.thr.map2 f false none h) 8 ∧ ∀ l, GivesV (lit f l) s f (s.thr.map2 f false (some l) h) 12
    let one (plain : VX → Instr) (lit : VX → BitVec 32 → Instr) (h : Nat → Nat × Nat) : Prop :=
      GivesV (plain f) s f (s.thr.map1 f false none h) 8 ∧ ∀ l, GivesV (lit f l) s f (s.thr.map1 f false (some l) h) 12
    let fused (plain : VX → Instr) (lit : VX → BitVec 32 → Instr) (np nc : Bool) : Prop :=
      GivesV (plain f) s f (s.thr.map3 f none f.vc (g.fma r np nc)) 8
      ∧ ∀ l, GivesV (lit f l) s f (s.thr.map3 f (some l) f.vc (g.fma r np nc)) 12
    two .vfadd .vfaddLit (g.add r) ∧ two .vfsub .vfsubLit (g.sub r) ∧ two .vfmul .vfmulLit (g.mul r) ∧ two .vfdiv .vfdivLit (g.div r)
    ∧ one .vfsqrt .vfsqrtLit (g.sqrt r) ∧ fused .vfma .vfmaLit false false ∧ fused .vfms .vfmsLit false true
    ∧ fused .vfnma .vfnmaLit true true
    ∧ two .vfmin .vfminLit (g.minmax r.fz false (f.imm == 1)) ∧ two .vfmax .vfmaxLit (g.minmax r.fz true (f.imm == 1))
    ∧ one .vfabs .vfabsLit (fun b => (b % g.signBit, 0))
    ∧ one .vfneg .vfnegLit (fun b => (b % g.signBit + (if g.neg b then 0 else g.signBit), 0))

/-- R195, R200: a comparison raises 0x51 when an active lane of an operand is poisoned; else it writes the predicate lane by lane, with
the flags of the active lanes. -/
def Obligations.VectorCompareGivesPredicate : Prop :=
  ∀ (s : State), s.Ready → ∀ (f : VX),
    let w := laneW f
    let g := ffOf f.et.toNat
    let fz := s.thr.tflags.getLsbD 3
    let acts (plain : VX → Instr) (lit : VX → BitVec 32 → Instr) (h : Nat → Nat → Bool × Nat) : Prop :=
      let form (i : Instr) (l : Option (BitVec 32)) (len : Nat) : Prop :=
        let a (j : Nat) := s.thr.lane f.va w j
        let b (j : Nat) := s.thr.bLane f f.et.toNat false l j
        ((∃ j < 1024 / w, s.thr.on f j = true ∧ ((a j).2 || (b j).2) = true) → Faults i s 0x51 0 0)
        ∧ ((∀ j < 1024 / w, s.thr.on f j = true → ((a j).2 || (b j).2) = false) →
            GivesP i s f (fun j => (h (a j).1 (b j).1).1)
              (s.thr.laneFlags f fun j => (0, false, (h (a j).1 (b j).1).2)) len)
      form (plain f) none 8 ∧ ∀ l, form (lit f l) (some l) 12
    let int (h : Nat → Nat → Bool) (a b : Nat) : Bool × Nat := (h a b, 0)
    acts .vcmpeq .vcmpeqLit (int fun a b => decide (a = b)) ∧ acts .vcmpne .vcmpneLit (int fun a b => decide (a ≠ b))
    ∧ acts .vcmplt .vcmpltLit (int fun a b => decide (toInt w a < toInt w b))
    ∧ acts .vcmple .vcmpleLit (int fun a b => decide (toInt w a ≤ toInt w b))
    ∧ acts .vcmpltu .vcmpltuLit (int fun a b => decide (a < b)) ∧ acts .vcmpleu .vcmpleuLit (int fun a b => decide (a ≤ b))
    ∧ acts .vfcmpeq .vfcmpeqLit (g.eq fz) ∧ acts .vfcmplt .vfcmpltLit (g.lt fz) ∧ acts .vfcmple .vfcmpleLit (g.le fz)
    ∧ acts .vfcmpun .vfcmpunLit g.unord

/-- R206 to R209: a special function takes a free entry of the queue, in slot order, and gives every active lane its value, with the
flags of the active lanes; without a free entry the thread waits for one. -/
def Stated.SpecialFunctionsGiveLanes : Prop :=
  ∀ (s : State), s.Ready → ∀ (f : VX),
    let acts (i : Instr) (fn : Nat) : Prop :=
      (s.tk.sfuTurn s.cur.2 = false → Waits i s .sfu)
      ∧ (s.tk.sfuTurn s.cur.2 = true → ∃ (e : SfuEntry) (t : State), e.slot = s.cur.2 ∧ e.cancelled = false ∧ exec i s = .next t
          ∧ WritesV (s.setTk { s.tk with sfu := s.tk.sfu ++ [e] }) t f.vd (laneW f)
              (s.thr.governedLane f (s.thr.map1 f false none (sfuLane fn f.et.toNat (s.thr.tflags.getLsbD 3))))
              (s.thr.laneFlags f (s.thr.map1 f false none (sfuLane fn f.et.toNat (s.thr.tflags.getLsbD 3)))) 8)
    acts (.vrcp f) 0 ∧ acts (.vrsqrt f) 1 ∧ acts (.vexp2 f) 2 ∧ acts (.vlog2 f) 3 ∧ acts (.vtanh f) 4 ∧ acts (.vsigm f) 5
    ∧ acts (.vsinpi f) 6 ∧ acts (.vcospi f) 7

/-- R207: special functions of NaNs, infinities and zeros: 1/b and 1/√b of a zero give the infinity of its sign with DZ, log2 of a
zero −∞ with DZ, 2^0 and cos 0 give 1, the odd functions keep a zero; 1/√b and log2 of −∞, and sin and cos of an infinity, give the
canonical NaN with NV, as a signalling NaN does; tanh gives ±1 and 1/(1 + e^−b) gives 0 or 1 at the infinities. -/
def Stated.SpecialFunctionsAtSpecialOperands : Prop :=
  ∀ (et : Nat) (fz : Bool), 8 ≤ et → et ≤ 10 →
    let f := ffOf et
    let sg (n : Bool) : Nat := if n then f.signBit else 0
    let one := f.code (2 ^ f.fb) (-(f.fb : Int))
    (∀ c q, f.value c = .nan q → ∀ fn < 8, sfuLane fn et fz c = (f.nan, if q then flagNV else 0))
    ∧ (∀ c n, f.value c = .inf n →
        sfuLane 0 et fz c = (sg n, 0) ∧ sfuLane 1 et fz c = (if n then (f.nan, flagNV) else (0, 0))
        ∧ sfuLane 2 et fz c = (if n then 0 else f.inf, 0) ∧ sfuLane 3 et fz c = (if n then (f.nan, flagNV) else (f.inf, 0))
        ∧ sfuLane 4 et fz c = (sg n + one, 0) ∧ sfuLane 5 et fz c = (if n then 0 else one, 0)
        ∧ sfuLane 6 et fz c = (f.nan, flagNV) ∧ sfuLane 7 et fz c = (f.nan, flagNV))
    ∧ ∀ n : Bool,
        sfuLane 0 et fz (sg n) = (sg n + f.inf, flagDZ) ∧ sfuLane 1 et fz (sg n) = (sg n + f.inf, flagDZ)
        ∧ sfuLane 2 et fz (sg n) = (one, 0) ∧ sfuLane 3 et fz (sg n) = (f.signBit + f.inf, flagDZ)
        ∧ sfuLane 4 et fz (sg n) = (sg n, 0) ∧ sfuLane 6 et fz (sg n) = (sg n, 0) ∧ sfuLane 7 et fz (sg n) = (one, 0)

/-- R201: plen and plenu make the first xa lanes active and raise 0x51 on a poisoned xa; the logical functions act per lane; pcnt,
pfirst, pany and vlanes give xd a number without poison from the lanes active in both pb and pg; pset sets all lanes or the first
IMM9. -/
def Obligations.PredicatesGiveResult : Prop :=
  ∀ (s : State), s.Ready → ∀ (f : VX),
    let w := laneW f
    let n := 1024 / w
    let bit (r : Reg) (i : Nat) : Bool := (s.thr.pr r.toNat).getLsbD (i * (w / 8))
    let both (i : Nat) : Bool := bit f.vb i && s.thr.on f i
    (s.xp f.va = true → Faults (.plen f) s 0x51 0 0 ∧ Faults (.plenu f) s 0x51 0 0)
    ∧ (s.xp f.va = false → GivesP (.plen f) s f (fun i => decide ((i : Int) < (s.x f.va).toInt)) 0 8
        ∧ GivesP (.plenu f) s f (fun i => decide (i < (s.x f.va).toNat)) 0 8)
    ∧ GivesP (.pand f) s f (fun i => bit f.va i && bit f.vb i) 0 8 ∧ GivesP (.por f) s f (fun i => bit f.va i || bit f.vb i) 0 8
    ∧ GivesP (.pxor f) s f (fun i => bit f.va i ^^ bit f.vb i) 0 8 ∧ GivesP (.pnot f) s f (fun i => !bit f.vb i) 0 8
    ∧ GivesP (.pset f) s f (fun i => decide (f.imm = 0 ∨ i < f.imm.toNat)) 0 8
    ∧ GivesX (.pcnt f) s f.vd (BitVec.ofNat 64 ((List.range n).countP both)) false 8
    ∧ (∃ k ≤ n, GivesX (.pfirst f) s f.vd (BitVec.ofNat 64 k) false 8 ∧ (∀ j < k, both j = false) ∧ (k < n → both k = true))
    ∧ GivesX (.pany f) s f.vd (if ∃ i < n, both i = true then 1 else 0) false 8
    ∧ GivesX (.vlanes f) s f.vd (BitVec.ofNat 64 n) false 8

/-- R203, R115: a reduction gives xd its result over the active lanes of a, with the OR of the poison of their chunks: the sum of
the extended lanes; the least or greatest lane, extended, or the identity without an active lane; the bitwise functions; the
floating-point sum of the pairwise tree in which an inactive lane counts as −0.0; and the fold of fmin, fminn, fmax or fmaxn. -/
def Obligations.ReductionsGiveResult : Prop :=
  ∀ (s : State), s.Ready → ∀ (f : VX),
    let w := laneW f
    let sg := etS f.et.toNat
    let g := ffOf f.et.toNat
    let lanes := ((List.range (1024 / w)).filter (s.thr.on f)).map fun i => s.thr.lane f.va w i
    let vs := lanes.map Prod.fst
    let p := lanes.any Prod.snd
    let ext (v : Nat) : Word := if sg then BitVec.ofInt 64 (toInt w v) else BitVec.ofNat 64 v
    let gives (i : Instr) (v : Word) : Prop := GivesX i s f.vd v p 8
    let least (i : Instr) (key : Nat → Int) (none : Nat) : Prop :=
      ∃ m, gives i (ext m) ∧ (vs = [] → m = none) ∧ (vs ≠ [] → m ∈ vs) ∧ ∀ v ∈ vs, key m ≤ key v
    let fold (mx : Bool) : Nat × Nat :=
      match vs with
      | [] => (g.nan, 0)
      | a :: l =>
        let h := g.minmax (s.thr.tflags.getLsbD 3) mx (f.imm == 1)
        l.foldl (fun r v => ((h r.1 v).1, r.2 ||| (h r.1 v).2)) (h a a)
    gives (.vredadd f) ((vs.map ext).sum)
    ∧ least (.vredmin f) (toInt w) (2 ^ (w - 1) - 1) ∧ least (.vredmax f) (fun v => -(toInt w v)) (2 ^ (w - 1))
    ∧ least (.vredminu f) (fun v => v) (2 ^ w - 1) ∧ least (.vredmaxu f) (fun v => -(v : Int)) 0
    ∧ (∃ m < 2 ^ w, gives (.vredand f) (ext m) ∧ ∀ j < w, m.testBit j = vs.all (·.testBit j))
    ∧ (∃ m < 2 ^ w, gives (.vredor f) (ext m) ∧ ∀ j < w, m.testBit j = vs.any (·.testBit j))
    ∧ gives (.vredxor f) (ext (vs.foldl Nat.xor 0))
    ∧ (let r := treeSum (g.add { mode := s.thr.mode f.rm.toNat, sat := false, fz := s.thr.tflags.getLsbD 3 }) (Nat.log2 (1024 / w))
          ((List.range (1024 / w)).map fun i => if s.thr.on f i then (s.thr.lane f.va w i).1 else g.signBit)
       GivesF (.vfredadd f) s f.vd (if vs = [] then (0, 0) else r) p 8)
    ∧ GivesF (.vfredmin f) s f.vd (fold false) p 8 ∧ GivesF (.vfredmax f) s f.vd (fold true) p 8

/-- R202: the permutations. An index from a register raises 0x51 when it is poisoned; a lane beyond the register reads 0 without
poison; vslideup keeps the lanes below k and vins every lane but k; vcompress and vsel write all lanes whatever the predicate
says. -/
def Obligations.PermutationsGiveLanes : Prop :=
  ∀ (s : State), s.Ready → ∀ (f : VX),
    let w := laneW f
    let n := 1024 / w
    let at_ (k : Nat) : Nat × Bool := if k < n then s.thr.lane f.va w k else (0, false)
    let flagless (l : Nat → Nat × Bool) (i : Nat) : Nat × Bool × Nat := ((l i).1, (l i).2, 0)
    let k := if f.xs then (s.x f.vb).toNat else f.imm.toNat
    let rank (i : Nat) : Nat := (List.range i).countP (s.thr.on f)
    let old (i : Nat) := s.thr.lane f.vd w i
    (f.xs = true → s.xp f.vb = true →
      Faults (.vbcast f) s 0x51 0 0 ∧ Faults (.vextr f) s 0x51 0 0 ∧ Faults (.vins f) s 0x51 0 0
      ∧ Faults (.vslideup f) s 0x51 0 0 ∧ Faults (.vslidedn f) s 0x51 0 0)
    ∧ ((f.xs = true → s.xp f.vb = false) →
      GivesV (.vbcast f) s f (flagless fun _ => at_ k) 8
      ∧ GivesV (.vslidedn f) s f (flagless fun i => at_ (i + k)) 8
      ∧ GivesX (.vextr f) s f.vd
          (if etS f.et.toNat then BitVec.ofInt 64 (toInt w (at_ k).1) else BitVec.ofNat 64 (at_ k).1) (at_ k).2 8
      ∧ (∃ t, exec (.vslideup f) s = .next t ∧ WritesV s t f.vd w
          (fun i => if i < k then old i else s.thr.governedLane f (flagless fun i => at_ (i - k)) i) 0 8)
      ∧ (n ≤ k → Advances (.vins f) s 8)
      ∧ (k < n → ∃ t, exec (.vins f) s = .next t ∧ WritesV s t f.vd w
          (fun i => if i = k then ((s.x f.va).toNat % 2 ^ w, s.xp f.va || (w != 64 && (old k).2)) else old i) 0 8))
    ∧ GivesV (.vperm f) s f (flagless fun i =>
        ((at_ (s.thr.lane f.vb w i).1).1, (at_ (s.thr.lane f.vb w i).1).2 || (s.thr.lane f.vb w i).2)) 8
    ∧ (∃ t, exec (.vcompress f) s = .next t ∧ WritesV s t f.vd w
        (fun i => (((List.range n).filter (s.thr.on f)).map (s.thr.lane f.va w)).getD i (0, false)) 0 8)
    ∧ GivesV (.vexpand f) s f (flagless fun i => at_ (rank i)) 8
    ∧ (∃ t, exec (.vsel f) s = .next t ∧ WritesV s t f.vd w
        (fun i => if s.thr.on f i then s.thr.lane f.va w i else s.thr.bLane f f.et.toNat true none i) 0 8)
    ∧ GivesV (.viota f) s f (flagless fun i => (rank i, false)) 8

/-- R204, R205, R101, R102: vcvt converts lane by lane, vwiden the q-th part of the source lanes, vnarrow the source lanes into the
q-th part of the destination and leaves the others, all with the source type of IMM9; packing writes the bytes of one block, zeros
above them and the flags of its elements, unpacking decodes one block; a poisoned source chunk poisons the chunks written.
Where the spec leaves a point open it follows the model's choice: log entry 42. -/
def Obligations.ConversionsGiveLanes : Prop :=
  ∀ (s : State), s.Ready → ∀ (f : VX),
    let w := laneW f
    let n := 1024 / w
    let st := f.imm.toNat % 16
    let q := f.imm.toNat / 16 % 4
    let r : Rnd := { mode := s.thr.mode f.rm.toNat, sat := f.sat, fz := s.thr.tflags.getLsbD 3 }
    let src (i : Nat) : Nat × Bool := if i < 1024 / etBits st then s.thr.bLane f st false none i else (0, false)
    let cvt (i : Nat) : Nat × Bool × Nat :=
      ((cvtLane st f.et.toNat r (src i).1).1, (src i).2, (cvtLane st f.et.toNat r (src i).1).2)
    let m := n / (etBits st / w)
    GivesV (.vcvt f) s f cvt 8 ∧ GivesV (.vwiden f) s f (fun i => cvt (q * n + i)) 8
    ∧ (∃ t, exec (.vnarrow f) s = .next t ∧ WritesV s t f.vd w
        (fun i => if q * m ≤ i ∧ i < q * m + m then s.thr.governedLane f (fun i => cvt (i - q * m)) i else s.thr.lane f.vd w i)
        (BitVec.ofNat 64 (orAll ((List.range m).map fun j => if s.thr.on f (q * m + j) then (cvt j).2.2 else 0)) &&& 0x1F0) 8)
    ∧ ∀ dx8 : Bool,
      let chunks := if dx8 then 5 else 3
      let b := dxPack dx8 f.imm.toNat ((List.range 32).map fun i => (s.thr.lane f.vb 32 i).1)
      (∃ t, exec (if dx8 then .vpackdx f else .vpackdx4 f) s = .next t ∧ WritesV s t f.vd 8
        (fun i => ((b.1.getD i 0).toNat, decide (i / 8 < chunks) && (List.range 16).any (s.thr.vpr f.vb)))
        (BitVec.ofNat 64 b.2 &&& 0x1F0) 8)
      ∧ ∃ t, exec (if dx8 then .vunpkdx f else .vunpkdx4 f) s = .next t ∧ WritesV s t f.vd 32
        (fun i => (dxToF32 dx8 ((List.range (if dx8 then 34 else 18)).map fun j => BitVec.ofNat 8 (s.thr.lane f.vb 8 j).1) i,
          (List.range chunks).any (s.thr.vpr f.vb))) 0 8

/-- R99, R100, R102: a packed block has 34 or 18 bytes, and an element of it decodes as a NaN exactly when the packed value is one. -/
def Stated.BlocksKeepNaNs : Prop :=
  ∀ (dx8 : Bool) (d : Nat) (xs : List Nat), xs.length = 32 → (∀ x ∈ xs, x < 2 ^ 32) →
    let b := (dxPack dx8 d xs).1
    b.length = (if dx8 then 34 else 18)
    ∧ ∀ i < 32, (f32.value (dxToF32 dx8 b i)).isNan = (f32.value (xs.getD i 0)).isNan
/-- R210, R211, R213: a vector load takes its active lanes' addresses by its form; a poisoned base, stride or active offset raises 0x51
when some lane is active; without an active lane nothing is accessed; a lane that is read takes its element with its poison, every
other lane is zeroed under ZM and stays else; vldff reads up to the first lane that would fault and says in pf which. -/
def Stated.VectorLoadsFillLanes : Prop :=
  ∀ (s : State), s.Ready → ∀ (f : VX),
    let n := laneW f / 8
    let any := ∃ i < laneN f, s.thr.on f i = true
    let put (r : State) (ls : List (Nat × Lane1)) : Thread := r.thr.putLanes f.vd (laneW f)
      ((List.range (laneN f)).map fun i => match ls.find? (fun l => l.1 == i) with
        | some l => l.2
        | none => if f.zm then (0, false) else r.thr.lane f.vd (laneW f) i)
    let acts (i : Instr) (m : VAddr) : Prop :=
      (any → vecPois m f s = true → Faults i s 0x51 0 0)
      ∧ (¬ any → Effects i s (s.setThr (put s [])) 8)
      ∧ (any → vecPois m f s = false →
        (∀ q c a, vecCheck .load n (vecActive m f s) s = (q, .stop (.fault c a 0)) → FaultsAt i s q c a 0)
        ∧ ∀ q es r bs ls, vecCheck .load n (vecActive m f s) s = (q, .ok es) → vecLoads es q = (r, .bytes bs, ls) →
          let r' := r.notePload r.cur.1 bs
          Effects i s (r'.setThr (put r' ls)) 8)
    acts (.vld f) .unit ∧ acts (.vlds f) .stride ∧ acts (.vldx f) .index
    ∧ (any → vecPois .once f s = true → Faults (.vldb f) s 0x51 0 0)
    ∧ (¬ any → Effects (.vldb f) s (s.setThr (put s [])) 8)
    ∧ (any → vecPois .once f s = false → ∀ q es r bs l, vecCheck .load n (vecActive .once f s) s = (q, .ok es) →
        vecLoads (es.take 1) q = (r, .bytes bs, [l]) →
        let r' := r.notePload r.cur.1 bs
        Effects (.vldb f) s (r'.setThr (put r' (es.map fun e => (e.1, l.2)))) 8)
    ∧ ∀ q es r bs ls, vecFirst f s = (q, .ok es) → vecLoads es q = (r, .bytes bs, ls) →
        let r' := r.notePload r.cur.1 bs
        let on := (List.range (laneN f)).map fun i => ls.any fun l => l.1 == i
        Effects (.vldff f) s (r'.setThr ((put r' ls).setP f.vc.toNat (predOf (laneW f) on))) 8

/-- R210 to R212: a vector store takes its active lanes' addresses by its form, checks every lane before any is stored, and issues their
elements, with the poison of their chunks, as one store in ascending lane order; without an active lane it only advances pc.
Where the spec leaves a point open it follows the model's choice: log entries 8 and 9. -/
def Obligations.VectorStoresPutLanes : Prop :=
  ∀ (s : State), s.Ready → ∀ (f : VX),
    let n := laneW f / 8
    let any := ∃ i < laneN f, s.thr.on f i = true
    let acts (i : Instr) (m : VAddr) : Prop :=
      (any → vecPois m f s = true → Faults i s 0x51 0 0) ∧ (¬ any → Advances i s 8)
      ∧ (any → vecPois m f s = false → ∀ q es, vecCheck .store n (vecActive m f s) s = (q, .ok es) →
        (∀ c a, vecDataCheck .store n q es = some (c, a) → FaultsAt i s q c a 0)
        ∧ (vecDataCheck .store n q es = none → ∀ r g,
          q.storeChecked q.cur.1 q.cur.2 (es.map fun e => (e.2.1, e.2.2.2,
            (leBytes n e.2.2.1.1).map fun v => ({ b := v, p := e.2.2.1.2 } : PByte))) = (r, .bytes g) → Effects i s r 8))
    acts (.vst f) .unit ∧ acts (.vsts f) .stride ∧ acts (.vstx f) .index ∧ acts (.vstc f) .packed

/-- R210: the addresses of lanes: consecutive elements, a stride, an offset of its own, one address for all, or elements without gaps,
counted over the active lanes below. -/
def Stated.VectorAddressesFollowForm : Prop :=
  ∀ (s : State) (f : VX) (i : Nat), i < laneN f →
    let base := s.x f.va + f.imm.signExtend 64
    let n := laneW f / 8
    let off (v : Nat) : Word := if etS f.et.toNat || 8 ≤ f.et.toNat then BitVec.ofInt 64 (toInt (laneW f) v) else BitVec.ofNat 64 v
    let at_ (m : VAddr) : Option Nat := (vecAddrs m f s)[i]?
    at_ .unit = some (base + BitVec.ofNat 64 (i * n)).toNat
    ∧ at_ .stride = some (base + BitVec.ofNat 64 i * s.x f.vb).toNat
    ∧ at_ .index = some (base + off (s.thr.lane f.vb (laneW f) i).1).toNat
    ∧ at_ .once = some base.toNat
    ∧ at_ .packed = some (base + BitVec.ofNat 64 ((List.range i).countP (s.thr.on f) * n)).toNat

/-- R211, R214, R215: a vector atomic checks every active lane first; without an active lane nothing is accessed; a line with an active
object raises 0x64 before any lane is performed; else the lanes are performed, those to one location together in ascending order, and
each receives its old value.
Where the spec leaves a point open it follows the model's choice: log entries 12 and 72. -/
def Obligations.VectorAtomicsGiveOldValues : Prop :=
  ∀ (s : State), s.Ready → ∀ (f : VX),
    let n := laneW f / 8
    let any := ∃ i < laneN f, s.thr.on f i = true
    let put (r : State) (ls : List (Nat × Lane1)) : Thread := r.thr.putLanes f.vd (laneW f)
      ((List.range (laneN f)).map fun i => match ls.find? (fun l => l.1 == i) with
        | some l => l.2
        | none => if f.zm then (0, false) else r.thr.lane f.vd (laneW f) i)
    let acts (i : Instr) (op : Nat) : Prop :=
      (any → vecPois .index f s = true → Faults i s 0x51 0 0)
      ∧ (¬ any → Effects i s (s.setThr (put s [])) 8)
      ∧ (any → vecPois .index f s = false → ∀ q es, vecCheck .atomic n (vecActive .index f s) s = (q, .ok es) →
        vecDataCheck .atomic n q es = none →
        (∀ e, es.find? (fun e => (q.thr.gotAt (amoTag e.1)).isNone && q.amoBarred e.2.2.2) = some e → FaultsAt i s q 0x64 e.2.1 0)
        ∧ ((∀ e ∈ es, ((q.thr.gotAt (amoTag e.1)).isNone && q.amoBarred e.2.2.2) = false) → ∀ r bs ls,
          vecAmos op es q = (r, .bytes bs, ls) →
          Effects i s (r.setThr (put r ls)) 8))
    acts (.vamoadd f) 0 ∧ acts (.vamoand f) 1 ∧ acts (.vamoor f) 2
    ∧ acts (.vamomin f) (if etS f.et.toNat then 4 else 6) ∧ acts (.vamomax f) (if etS f.et.toNat then 5 else 7)

/-- R37, R210 to R215, R388: vector accesses whose active lanes lie in core memory complete: a load gives every active lane the bytes at
its address and changes no memory, a store writes the elements in ascending lane order, an atomic at aligned addresses is performed
at once. -/
def Stated.VectorCoreMemoryAccessesComplete : Prop :=
  ∀ (s : State), s.Ready → s.tk.core < 1536 → ∀ (f : VX),
    let w := laneW f
    let n := w / 8
    let key (a : Nat) := s.cmOf s.cur.1 (a - cmBase)
    let can (m : VAddr) : Prop := vecPois m f s = false ∧ ∀ e ∈ vecActive m f s, s.InCore e.2.1 n
    let ends (t : State) : Prop := t.thr.st = .ready ∧ t.thr.pc = s.thr.pc + 8 ∧ t.thr.x = s.thr.x ∧ t.thr.tflags = s.thr.tflags
    let load (i : Instr) (m : VAddr) : Prop := can m → ∃ t, exec i s = .next t ∧ ends t ∧ t.mem = s.mem
      ∧ ∀ e ∈ vecActive m f s, (t.thr.lane f.vd w e.1).1 = leNat ((s.mem.read (key e.2.1) n).map PByte.b)
    let store (i : Instr) (m : VAddr) : Prop := can m → ∃ t, exec i s = .next t ∧ ends t ∧ t.thr.v = s.thr.v
      ∧ t.mem = (vecActive m f s).foldl (fun mem e => mem.write (key e.2.1)
          ((leBytes n e.2.2.1).map fun v => ({ b := v, p := e.2.2.2 } : PByte))) s.mem
    let amo (i : Instr) : Prop := can .index → (∀ e ∈ vecActive .index f s, e.2.1 % n = 0) → ∃ t, exec i s = .next t ∧ ends t
    load (.vld f) .unit ∧ load (.vlds f) .stride ∧ load (.vldx f) .index ∧ load (.vldb f) .once ∧ load (.vldff f) .unit
    ∧ store (.vst f) .unit ∧ store (.vsts f) .stride ∧ store (.vstx f) .index ∧ store (.vstc f) .packed
    ∧ amo (.vamoadd f) ∧ amo (.vamoand f) ∧ amo (.vamoor f) ∧ amo (.vamomin f) ∧ amo (.vamomax f)

/-! ## Memory -/

/-- R455: after a write of bytes with poison from key k, a byte of the written range reads as written, every other byte reads as
before; a granule covered whole takes the poison of its data, one covered in part ORs it into its own, every other granule keeps
its own.
Where the spec leaves a point open it follows the model's choice: log entries 3 and 32. -/
def Obligations.MemoryReadsWhatWasWritten : Prop :=
  ∀ (m : Memory) (k : Nat) (bs : List PByte),
    (∀ a, (m.write k bs).byte a = if k ≤ a ∧ a < k + bs.length then (bs.getD (a - k) default).b else m.byte a)
    ∧ ∀ g, (m.write k bs).pois.contains g =
        let hit (a : Nat) : Bool := k ≤ a && a < k + bs.length
        let data := (List.range 8).any fun i => hit (8 * g + i) && (bs.getD (8 * g + i - k) default).p
        if (List.range 8).all fun i => hit (8 * g + i) then data else m.pois.contains g || data

/-- R148, R217, R219, R220: a scalar load raises 0x51 on a poisoned base; else it reads its bytes at xa + offset, extended to 64 bits,
with the OR of their granules' poison; a fault or a wait of the access is the instruction's. -/
def Stated.ScalarLoadsGiveValue : Prop :=
  ∀ (s : State), s.Ready → ∀ (d a : Reg),
    let tid := s.cur.1
    let acts (i : Instr) (addr n : Nat) (ext : Nat → Word) : Prop :=
      (s.xp a = true → Faults i s 0x51 0 0)
      ∧ (s.xp a = false →
        (∀ r bs, s.load tid s.cur.2 addr n = (r, .bytes bs) →
          Effects i s ((r.notePload r.cur.1 bs).setX d (ext (leNat (bs.map PByte.b))) (bs.any PByte.p)) 4)
        ∧ (∀ r c b, s.load tid s.cur.2 addr n = (r, .fault c b) → FaultsAt i s r c b 0)
        ∧ ∀ r w, s.load tid s.cur.2 addr n = (r, .wait w) → WaitsAt i s r w)
    let sx (w : Nat) (v : Nat) : Word := BitVec.ofInt 64 (toInt w v)
    (∀ o : BitVec 11,
      let addr := (s.x a + o.signExtend 64).toNat
      acts (.ldb d a o) addr 1 (sx 8) ∧ acts (.ldh d a o) addr 2 (sx 16) ∧ acts (.ldw d a o) addr 4 (sx 32)
      ∧ acts (.ldd d a o) addr 8 (BitVec.ofNat 64) ∧ acts (.ldbz d a o) addr 1 (BitVec.ofNat 64)
      ∧ acts (.ldhz d a o) addr 2 (BitVec.ofNat 64) ∧ acts (.ldwz d a o) addr 4 (BitVec.ofNat 64))
    ∧ (s.xp a = true → Faults (.ldro d a) s 0x51 0 0)
    ∧ (s.xp a = false → ∀ r bs, s.load tid s.cur.2 (s.x a).toNat 8 = (r, .bytes bs) → ∃ rs,
        Effects (.ldro d a) s
          { (r.notePload r.cur.1 bs).setX d (BitVec.ofNat 64 (leNat (bs.map PByte.b))) (bs.any PByte.p) with replicas := rs } 4)

/-- R148, R217, R219, R220: a scalar store raises 0x51 on a poisoned base; else the low bytes of xb go to xa + offset with the poison
of xb, a fault or a wait of the access being the instruction's. -/
def Stated.ScalarStoresPutValue : Prop :=
  ∀ (s : State), s.Ready → ∀ (b a : Reg) (o : BitVec 11),
    let addr := (s.x a + o.signExtend 64).toNat
    let acts (i : Instr) (n : Nat) : Prop :=
      let bs := (leBytes n (s.x b).toNat).map fun v => ({ b := v, p := s.xp b } : PByte)
      (s.xp a = true → Faults i s 0x51 0 0)
      ∧ (s.xp a = false →
        (∀ r g, s.store s.cur.1 s.cur.2 addr bs = (r, .bytes g) → Effects i s r 4)
        ∧ (∀ r c e, s.store s.cur.1 s.cur.2 addr bs = (r, .fault c e) → FaultsAt i s r c e 0)
        ∧ ∀ r w, s.store s.cur.1 s.cur.2 addr bs = (r, .wait w) → WaitsAt i s r w)
    acts (.stb b a o) 1 ∧ acts (.sth b a o) 2 ∧ acts (.stw b a o) 4 ∧ acts (.std b a o) 8

/-- R37, R217, R219, R223, R388: a load from core memory reads the task's own bytes there, and a store to it changes exactly its own
bytes there at once, whatever the alignment; nothing waits and nothing faults. -/
def Stated.CoreMemoryAccessesComplete : Prop :=
  ∀ (s : State), s.Ready → ∀ (a b : Reg) (o : BitVec 11), s.xp a = false →
    let addr := (s.x a + o.signExtend 64).toNat
    let key := s.cmOf s.cur.1 (addr - cmBase)
    s.tk.core < 1536 →
    let load (i : Instr) (n : Nat) (ext : Nat → Word) : Prop := s.InCore addr n →
      let bs := s.mem.read key n
      Effects i s ((s.notePload s.cur.1 bs).setX b (ext (leNat (bs.map PByte.b))) (bs.any PByte.p)) 4
    let store (i : Instr) (n : Nat) : Prop := s.InCore addr n →
      Effects i s { s with mem := s.mem.write key ((leBytes n (s.x b).toNat).map fun v => ({ b := v, p := s.xp b } : PByte)) } 4
    let sx (w : Nat) (v : Nat) : Word := BitVec.ofInt 64 (toInt w v)
    load (.ldb b a o) 1 (sx 8) ∧ load (.ldh b a o) 2 (sx 16) ∧ load (.ldw b a o) 4 (sx 32) ∧ load (.ldd b a o) 8 (BitVec.ofNat 64)
    ∧ load (.ldbz b a o) 1 (BitVec.ofNat 64) ∧ load (.ldhz b a o) 2 (BitVec.ofNat 64) ∧ load (.ldwz b a o) 4 (BitVec.ofNat 64)
    ∧ store (.stb b a o) 1 ∧ store (.sth b a o) 2 ∧ store (.stw b a o) 4 ∧ store (.std b a o) 8

/-- R220, R223: a load changes no byte of memory, where the core buffers no store under another page format than that of its pages (a store
that it does buffer so is performed first); a store to translated memory changes none either until it is performed: it takes one entry
of its thread's buffer of 16, or, when that is full, waits.
Where the spec leaves a point open it follows the model's choice: log entries 8, 9 and 14. -/
def Obligations.LoadsAndBufferedStoresKeepMemory : Prop :=
  ∀ (s : State) (tid slot a : Nat),
    (∀ n, (∀ r ps va m t, s.check tid a n .load false = (r, .ok ps) → .page va m t ∈ ps →
        ∀ e ∈ (s.task tid).entries, ∀ q ∈ e.2.2.parts, q.tr.fmtOf = t.fmtOf) → (s.load tid slot a n).1.mem = s.mem)
    ∧ ∀ bs : List PByte, a < cspBase → bs ≠ [] →
      let r := s.store tid slot a bs
      r.1.mem = s.mem
      ∧ (∀ g, r.2 = .bytes g → (s.thread tid slot).wbuf.length < 16 ∧ ∃ e : BufStore,
          (r.1.thread tid slot).wbuf = (s.thread tid slot).wbuf ++ [e] ∧ (e.parts.map StorePart.bytes).flatten <+: bs)

/-- R227, R228: a scalar atomic raises 0x51 on a poisoned address, amocas also on a poisoned comparand; else xd receives the old value,
the word form sign-extended, with the storage's poison. In core memory the new value of R227 stands there at once, and nothing else
changes.
Where the spec leaves a point open it follows the model's choice: log entries 12 and 72. -/
def Obligations.ScalarAtomicsGiveOldValue : Prop :=
  ∀ (s : State), s.Ready → ∀ (d a b : Reg) (dbl : Bool),
    let n := if dbl then 8 else 4
    let w := 8 * n
    let v := (s.x b).toNat % 2 ^ w
    let ext (x : Nat) : Word := if dbl then BitVec.ofNat 64 x else BitVec.ofInt 64 (toInt 32 x)
    let acts (i : Instr) (op : Nat) (base : List Reg) (new : Nat → Nat) : Prop :=
      let g : AmoArg := { op := op, v := v, pv := s.xp b, cmp := (s.x d).toNat % 2 ^ w }
      (base.any s.xp = true → Faults i s 0x51 0 0)
      ∧ (base.any s.xp = false →
        (∀ r old, s.atomic s.cur.1 s.cur.2 (s.x a).toNat n 0 g = (r, .bytes old) →
          Effects i s (r.setX d (ext (leNat (old.map PByte.b))) (old.any PByte.p)) 4)
        ∧ (s.InCore (s.x a).toNat n → (s.x a).toNat % n = 0 →
          let key := s.cmOf s.cur.1 ((s.x a).toNat - cmBase)
          let old := s.mem.read key n
          let x := leNat (old.map PByte.b)
          let po := old.any PByte.p
          let put := if op = 9 ∧ po = true then x else new x
          let p := if op = 8 then s.xp b else po || s.xp b
          s.tk.core < 1536 →
          Effects i s (({ s with mem := s.mem.write key ((leBytes n put).map fun v => ({ b := v, p := p } : PByte)) } : State).setX d
            (ext x) po) 4))
    acts (.amoadd dbl d a b) 0 [a] (fun x => (x + v) % 2 ^ w) ∧ acts (.amoand dbl d a b) 1 [a] (fun x => x &&& v)
    ∧ acts (.amoor dbl d a b) 2 [a] (fun x => x ||| v) ∧ acts (.amoxor dbl d a b) 3 [a] (fun x => Nat.xor x v)
    ∧ acts (.amomin dbl d a b) 4 [a] (fun x => if toInt w v < toInt w x then v else x)
    ∧ acts (.amomax dbl d a b) 5 [a] (fun x => if toInt w x < toInt w v then v else x)
    ∧ acts (.amominu dbl d a b) 6 [a] (fun x => min x v) ∧ acts (.amomaxu dbl d a b) 7 [a] (fun x => max x v)
    ∧ acts (.amoswp dbl d a b) 8 [a] (fun _ => v)
    ∧ acts (.amocas dbl d a b) 9 [d, a] (fun x => if x = (s.x d).toNat % 2 ^ w then v else x)

/-- R236: pref never faults and never waits, even on a poisoned or bad address; it changes no register and no byte of memory. -/
def Stated.PrefetchIsAHint : Prop :=
  ∀ (s : State), s.Ready → ∀ (a : Reg) (h : Bool),
    ∃ t, exec (.pref a h) s = .next t ∧ t.thr = s.thr.after 4 ∧ t.mem = s.mem ∧ t.now = s.now
/-! ## Synchronisation objects, threads, rendezvous -/

/-- R229, R232, R233: on an object that can be named, acq of one it can have becomes a holder, and waits in the queue else; tryacq answers 1 or 0
without waiting; rel of a holder leaves the object (the objects follow their pages first; log entry 116); a second request of a holder and a release
of a non-holder raise 0x64, a poisoned address 0x51. -/
def Stated.SyncObjectsGrantAndRelease : Prop :=
  ∀ (s : State), s.Ready → ∀ (d a : Reg) (shared : Bool),
    (s.xp a = true → Faults (.acq a shared) s 0x51 0 0 ∧ Faults (.tryacq d a shared) s 0x51 0 0 ∧ Faults (.rel a) s 0x51 0 0)
    ∧ ∀ (q : State) (key : Nat), s.xp a = false → s.nameObj (s.x a).toNat = (q, .key key) →
      let r := q.followObjs key
      let o := r.objAt key (s.x a).toNat r.tk.ctx
      let o' := { o with holders := o.holders ++ [(r.cur.1, r.cur.2, !shared)] }
      let fails (i : Instr) : Prop := FaultsAt i s r 0x64 (r.x a).toNat 0
      (o.heldBy r.cur.1 r.cur.2 = true → fails (.acq a shared) ∧ fails (.tryacq d a shared)
        ∧ (r.Drained → Effects (.rel a) s (r.release o r.cur.1 r.cur.2) 4))
      ∧ (o.heldBy r.cur.1 r.cur.2 = false → fails (.rel a)
        ∧ (o.queue = [] → o.free (!shared) = true → Effects (.acq a shared) s ((r.grantTo o' r.cur.1).setObj o') 4)
        ∧ ((∀ q ∈ o.queue, ¬ (q.1 = r.cur.1 ∧ q.2.1 = r.cur.2)) → (o.queue ≠ [] ∨ o.free (!shared) = false) →
            WaitsAt (.acq a shared) s (r.setObj { o with queue := o.queue ++ [(r.cur.1, r.cur.2, !shared)] }) (.object key))
        ∧ (o.free (!shared) = true → (shared = true → ∀ q ∈ o.queue, q.2.2 = false) →
            Effects (.tryacq d a shared) s (((r.grantTo o' r.cur.1).setObj o').setX d 1 false) 4)
        ∧ (o.free (!shared) = false → Effects (.tryacq d a shared) s (r.setX d 0 false) 4))

/-- R229, R230: an object's STATE says its exclusive holder's core and slot, its shared holders and, up to 255, its queued requests; one
with none of them and no range is not active. -/
def Stated.ObjectStateIsWritten : Prop :=
  ∀ (s : State) (o : SyncObj), s.objWord o < 2 ^ 64 →
    (s.setObj o).objField o.key 0 = s.objWord o
    ∧ (∀ k, k + 8 ≤ o.key ∨ o.key + 8 ≤ k → (s.setObj o).mem.byte k = s.mem.byte k)
    ∧ (∀ va ctx, (s.setObj o).objAt o.key va ctx = o)
    ∧ (o.holders = [] → o.queue = [] → s.objWord o = 0)
    ∧ ∀ t i rest, o.holders = (t, i, true) :: rest → (∀ h ∈ rest, h.2.2 = false) → 2 ^ 63 ≤ s.objWord o

/-- R234, R235: bind records a range of multiples of 128 of translated memory in the first empty one of the object's three, unbind empties
the one with its base; a bad range, a full object and an unknown base raise 0x64, a poisoned operand 0x51. -/
def Stated.BindRecordsRanges : Prop :=
  ∀ (s : State), s.Ready → ∀ (d a b : Reg),
    ((s.xp d || s.xp a || s.xp b) = true → Faults (.bind d a b) s 0x51 0 0)
    ∧ ((s.xp d || s.xp a) = true → Faults (.unbind d a) s 0x51 0 0)
    ∧ ∀ (q : State) (key : Nat), (s.xp d || s.xp a) = false → s.nameObj (s.x d).toNat = (q, .key key) →
      let r := q.followObjs key
      let o := r.objAt key (s.x d).toNat r.tk.ctx
      let put (j base len : Nat) : State := ((r.setObj o).setObjField key (0x10 + 16 * j) base).setObjField key (0x18 + 16 * j) len
      (s.xp b = false →
        (bindable (r.x a).toNat (r.x b).toNat = false → FaultsAt (.bind d a b) s r 0x64 (r.x a).toNat 0)
        ∧ (bindable (r.x a).toNat (r.x b).toNat = true →
          (∀ j < 3, r.objField key (0x18 + 16 * j) ≠ 0) → FaultsAt (.bind d a b) s r 0x64 (r.x d).toNat 0)
        ∧ (bindable (r.x a).toNat (r.x b).toNat = true →
          ∀ j < 3, r.objField key (0x18 + 16 * j) = 0 → (∀ i < j, r.objField key (0x18 + 16 * i) ≠ 0) →
            Effects (.bind d a b) s (put j (r.x a).toNat (r.x b).toNat) 4))
      ∧ (∀ j < 3, r.objField key (0x18 + 16 * j) ≠ 0 → r.objField key (0x10 + 16 * j) = (r.x a).toNat →
          (∀ i < j, ¬ (r.objField key (0x18 + 16 * i) ≠ 0 ∧ r.objField key (0x10 + 16 * i) = (r.x a).toNat)) →
          Effects (.unbind d a) s (put j 0 0) 4)
      ∧ ((∀ j < 3, ¬ (r.objField key (0x18 + 16 * j) ≠ 0 ∧ r.objField key (0x10 + 16 * j) = (r.x a).toNat)) →
          FaultsAt (.unbind d a) s r 0x64 (r.x a).toNat 0)

/-- R123, R125, R135: hstart, in the control thread alone, fills the lowest empty slot with a READY helper at xa, its stack pointer, gp,
argument and slot number in x1 to x4 and the low bits of TFLAGS, and gives xd the slot; with every slot taken xd is 0; a target
that is no multiple of 4 raises 0x04, whose record has ADDR 0 (log entry 44), a poisoned one 0x51, a helper's hstart 0x0A, one between a
sarrive and its swait 0x30. -/
def Stated.HstartStartsHelper : Prop :=
  ∀ (s : State), s.Ready → ∀ (d a b : Reg),
    (s.cur.2 ≠ 0 → Faults (.hstart d a b) s 0x0A 0 0)
    ∧ (s.cur.2 = 0 → ∀ r : Arrival, s.thr.arrival = some r → r.split = true → Faults (.hstart d a b) s 0x30 0 r.level)
    ∧ (s.cur.2 = 0 → (∀ r : Arrival, s.thr.arrival = some r → r.split = false) →
      (s.xp a = true → Faults (.hstart d a b) s 0x51 0 0)
      ∧ (s.xp a = false → (s.x a).toNat % 4 ≠ 0 → Faults (.hstart d a b) s 0x04 0 0)
      ∧ (s.xp a = false → (s.x a).toNat % 4 = 0 → (∀ i, 1 ≤ i → i < 16 → (s.tk.thread i).st ≠ .empty) →
          Effects (.hstart d a b) s (s.setX d 0 false) 4)
      ∧ (s.xp a = false → (s.x a).toNat % 4 = 0 → ∀ i, 1 ≤ i → i < 16 → (s.tk.thread i).st = .empty →
          (∀ j, 1 ≤ j → j < i → (s.tk.thread j).st ≠ .empty) →
          ∃ h : Thread, Effects (.hstart d a b) s ((s.setTk (s.tk.setThread i h)).setX d (BitVec.ofNat 64 i) false) 4
            ∧ h.st = .ready ∧ h.pc = s.x a ∧ h.xr 1 = BitVec.ofInt 64 (-(i * 16 * s.tk.lrec.stack : Nat)) ∧ h.xr 2 = s.x 2
            ∧ h.xr 3 = s.x b ∧ h.xpr 3 = s.xp b ∧ h.xr 4 = BitVec.ofNat 64 i ∧ (∀ r : Reg, 4 < r.toNat → h.xr r = 0)
            ∧ h.tflags = s.thr.tflags &&& 0xF ∧ h.v = [] ∧ h.p = [] ∧ h.lr = 0 ∧ h.fltrec = 0))

/-- R136 to R140: hjoin of an exited helper takes its exit value and empties its slot, of a live one waits, of a bad slot raises 0x0A; hexit
with nothing outstanding ends its helper with its value, and the join that waits for it; hpeek says 0 for an empty slot, 2 for an
exited one, 1 else; waittl goes on once its timeline has the value; kexit of the control thread with nothing outstanding ends its
task with the low 32 bits of xa. -/
def Stated.ThreadsJoinAndEnd : Prop :=
  ∀ (s : State), s.Ready → ∀ (d a : Reg),
    let i := (s.x a).toNat
    let h := s.tk.thread i
    (s.cur.2 = 0 → s.xp a = false →
      (i = 0 ∨ 15 < i ∨ h.st = .empty → Faults (.hjoin d a) s 0x0A 0 0)
      ∧ (1 ≤ i → i ≤ 15 → h.st = .exited →
          Effects (.hjoin d a) s ((s.setTk (s.tk.setThread i { h with st := .empty })).setX d h.exitVal h.exitP) 4)
      ∧ (1 ≤ i → i ≤ 15 → h.st ≠ .exited → h.st ≠ .empty → Waits (.hjoin d a) s (.hjoin i)))
    ∧ (s.cur.2 ≠ 0 → Faults (.hjoin d a) s 0x0A 0 0)
    ∧ (s.xp a = false → (15 < i → Faults (.hpeek d a) s 0x0A 0 0)
        ∧ (i ≤ 15 → GivesX (.hpeek d a) s d (match h.st with | .empty => 0 | .exited => 2 | _ => 1) false 4))
    ∧ (s.cur.2 = 0 → Faults (.hexit a) s 0x0A 0 0)
    ∧ (s.cur.2 ≠ 0 → s.holdsObj s.cur.1 s.cur.2 = true → Faults (.hexit a) s 0x64 0 0)
    ∧ (s.cur.2 ≠ 0 → s.holdsObj s.cur.1 s.cur.2 = false → s.threadBusy s.cur.1 s.cur.2 = false →
        (∀ p ∈ s.tk.pend, p.slot ≠ s.cur.2) → s.thr.wbuf = [] →
        let t := { s.thr with
          st := .exited, exitVal := s.x a, exitP := s.xp a, held := none, got := [], answer := none, opIds := [], skipPm := false }
        exec (.hexit a) s = .next ((s.setThr t).joinRelease s.cur.1 s.cur.2))
    ∧ (∀ t : BitVec 2, s.xp a = false →
        ((s.tk.line t.toNat).value < i → Waits (.waittl t a) s (.timeline t.toNat i))
        ∧ (i ≤ (s.tk.line t.toNat).value → (∀ p ∈ s.tk.pend, ¬ (p.slot = s.cur.2 ∧ p.ctr = t.toNat)) → Advances (.waittl t a) s 4))
    ∧ (s.cur.2 ≠ 0 → Faults (.kexit a) s 0x0A 0 0)
    ∧ (s.cur.2 = 0 → s.tk.helperLive = true → Faults (.kexit a) s 0x0A 0 0)
    ∧ (s.cur.2 = 0 → s.tk.helperLive = false → (∀ j < 16, s.holdsObj s.cur.1 j = false) → s.tk.xlist = [] →
        s.taskBusy s.cur.1 = false → s.tk.pend = [] → s.thr.wbuf = [] →
        exec (.kexit a) s = .next ((s.exitTask s.cur.1 (i % 2 ^ 32)).holdIfStopping s.cur.1 s.cur.2))

/-- R141 to R143: an arrival at a rendezvous that is not the last one is kept with its value and waits; the last one gives every thread that
arrived the result: the value of the lowest slot, the sum, the largest or the OR, with the poison of the values used; a thread
whose count or operation differs from the episode's raises 0x0A. -/
def Obligations.RendezvousGivesResult : Prop :=
  ∀ (s : State), s.Ready → ∀ (d a : Reg) (id : BitVec 4) (count : BitVec 5),
    let acts (i : Instr) (op : Nat) : Prop :=
      let e := AMap.get s.tk.points id.toNat ⟨count.toNat, op, []⟩
      let e' := { e with arr := e.arr ++ [(s.cur.2, s.x a, s.xp a, d.toNat)] }
      (∀ r ∈ e.arr, r.1 ≠ s.cur.2) →
        (e.count ≠ count.toNat ∨ e.op ≠ op → Faults i s 0x0A 0 0)
        ∧ (e.count = count.toNat → e.op = op →
          (e'.arr.length < e.count → WaitsAt i s (s.setTk { s.tk with points := AMap.put s.tk.points id.toNat e' }) (.rdv id.toNat))
          ∧ (e.count ≤ e'.arr.length →
            let k := e.arr.foldl (fun k x => k.rdvRelease x.1 x.2.2.2 e'.result) { s.tk with points := AMap.erase s.tk.points id.toNat }
            Effects i s ((s.setTk k).setX d e'.result.1 e'.result.2) 8))
    acts (.rdv d a id count) 0 ∧ acts (.rdvadd d a id count) 1 ∧ acts (.rdvmax d a id count) 2 ∧ acts (.rdvor d a id count) 3
    ∧ ∀ e : Episode, e.arr ≠ [] →
      let vs := e.arr.map fun x => x.2.1
      let p := e.arr.any fun x => x.2.2.1
      (e.op = 1 → e.result = (vs.sum, p)) ∧ (e.op = 3 → e.result = (vs.foldl (· ||| ·) 0, p))
      ∧ (e.op = 2 → e.result.2 = p ∧ e.result.1 ∈ vs ∧ ∀ v ∈ vs, v.toInt ≤ e.result.1.toInt)
      ∧ (e.op = 0 → ∀ x ∈ e.arr, x.1 < 16 → (∀ y ∈ e.arr, y ≠ x → x.1 < y.1) → e.result = (x.2.1, x.2.2.1))

/-! ## Scratchpad, copies, tiles, the optical matrix unit, decompositions -/

/-- R251 to R254: splook of a block that is RESIDENT pins it and gives its address; of one that is FILLING, or pinned 4,095 times, it
waits; of none it allocates one of the most preferred runs, FILLING, and gives its address plus 1, or gives 3 when no run is free; a
bad handle or block index raises 0x63, a poisoned operand 0x51. -/
def Stated.SplookFindsOrAllocates : Prop :=
  ∀ (s : State), s.Ready → ∀ (d a b : Reg),
    let i := Instr.splook d a b
    ((s.xp a || s.xp b) = true → Faults i s 0x51 0 0)
    ∧ ((s.xp a || s.xp b) = false → ∀ r,
      (s.lookHandle (s.x a).toNat = (r, .bad) → FaultsAt i s r 0x63 0 0)
      ∧ ∀ h, s.lookHandle (s.x a).toNat = (r, .ok h) →
        let c := r.cluster r.tk.cluster
        let blk := (r.x b).toNat
        let found := c.blocks.find? fun x => x.kid == r.tk.kid && x.h == h.h && x.blk == blk
        (h.nblk ≤ blk → FaultsAt i s r 0x63 0 0)
        ∧ (blk < h.nblk → ∀ x, found = some x → (x.fill = true ∨ 4095 ≤ x.pin) → WaitsAt i s r .slot)
        ∧ (blk < h.nblk → ∀ x, found = some x → x.fill = false → x.pin < 4095 →
            let bs := c.blocks.map fun y => if y.base == x.base then { x with pin := x.pin + 1, used := c.clock } else y
            Effects i s ((r.setCluster r.tk.cluster { c with blocks := bs, clock := c.clock + 1 }).setX d
              (BitVec.ofNat 64 (cspBase + 4096 * x.base)) false) 4)
        ∧ (blk < h.nblk → found = none → c.bestRuns h.prio h.log = [] → Effects i s (r.countMiss.setX d 3 false) 4)
        ∧ (blk < h.nblk → found = none → c.bestRuns h.prio h.log ≠ [] → ∃ base ∈ c.bestRuns h.prio h.log,
            Effects i s ((({ r with free := r.free + 1 } : State).allocate h blk base).countMiss.setX d
              (BitVec.ofNat 64 (cspBase + 4096 * base + 1)) false) 4))

/-- R252, R253, R255: spevict drops the handle's RESIDENT blocks without pins, marks the others and gives xd the granules freed; spdemote sets the
class of its RESIDENT blocks to 0, spprio the handle's priority and the class of all its blocks; sprel drops one pin of the block at xa, which
becomes VACANT with its last one when xb or a mark says so; a block that the kernel does not hold raises 0x63. -/
def Stated.ScratchpadHandlesAct : Prop :=
  ∀ (s : State), s.Ready → ∀ (d a b : Reg),
    (s.xp a = true → Faults (.spevict d a) s 0x51 0 0 ∧ Faults (.spdemote a) s 0x51 0 0)
    ∧ ((s.xp a || s.xp b) = true → Faults (.spprio a b) s 0x51 0 0 ∧ Faults (.sprel a b) s 0x51 0 0)
    ∧ (∀ r, s.xp a = false → s.lookHandle (s.x a).toNat = (r, .bad) →
        FaultsAt (.spevict d a) s r 0x63 0 0 ∧ FaultsAt (.spdemote a) s r 0x63 0 0
        ∧ (s.xp b = false → FaultsAt (.spprio a b) s r 0x63 0 0))
    ∧ (∀ r h, s.xp a = false → s.lookHandle (s.x a).toNat = (r, .ok h) →
        let cl := r.tk.cluster
        let c := r.cluster cl
        let mine (x : Block) : Bool := x.kid == r.tk.kid && x.h == h.h
        let gone (x : Block) : Bool := mine x && !x.fill && x.pin == 0
        let classed (p : Nat) : List Block := c.blocks.map fun x => if mine x && !x.fill then { x with cls := p } else x
        let left := (c.blocks.filter fun x => !gone x).map fun x => if mine x then { x with evict := true } else x
        Effects (.spevict d a) s ((r.setCluster cl { c with blocks := left }).setX d
          (BitVec.ofNat 64 ((c.blocks.filter gone).map fun x => 2 ^ (x.log - 12)).sum) false) 4
        ∧ Effects (.spdemote a) s (r.setCluster cl { c with blocks := classed 0 }) 4
        ∧ (s.xp b = false →
            let p := (r.x b).toNat % 8
            let hs := c.handles.map fun x => if x.kid == r.tk.kid && x.h == h.h then { x with prio := p } else x
            Effects (.spprio a b) s (r.setCluster cl { c with
              blocks := c.blocks.map fun x => if mine x then { x with cls := p } else x, handles := hs }) 4))
    ∧ (s.xp a = false → s.xp b = false →
        let cl := s.tk.cluster
        let c := s.cluster cl
        let found := c.blocks.find? fun x => cspBase + 4096 * x.base == (s.x a).toNat && x.kid == s.tk.kid
        (found = none → Faults (.sprel a b) s 0x63 0 0)
        ∧ ∀ x, found = some x →
          (x.pin = 0 ∨ (x.fill = true ∧ x.filler ≠ s.cur) → Faults (.sprel a b) s 0x63 0 0)
          ∧ (x.pin ≠ 0 → (x.fill = true → x.filler = s.cur) →
              let pin := if x.fill then 0 else x.pin - 1
              let keep := if pin = 0 ∧ ((s.x b).getLsbD 0 = true ∨ x.evict = true) then [] else [{ x with fill := false, pin := pin }]
              Effects (.sprel a b) s
                (s.setCluster cl { c with blocks := (c.blocks.filter fun y => y.base != x.base) ++ keep }) 4))

/-- R244, R248: a copy instruction whose operands are not poisoned and whose ranges pass their checks is queued under the next number of
tl0, which xd receives; one that moves nothing retires at once; with 512 copies in its core's queue it waits; a range that fails its
check raises that fault, a tile that is not the kernel's 0x25.
Where the spec leaves a point open it follows the model's choice: log entries 50 and 60. -/
def Obligations.CopiesAreQueued : Prop :=
  ∀ (s : State), s.Ready → ∀ (d a b c e : Reg) (raw : Bool),
    let num := (s.issueOp 0).2
    let r := (s.issueOp 0).1.setX d (BitVec.ofNat 64 num) false
    let full := 512 ≤ (s.queueOf s.tk.core).length
    let cl := r.cluster s.tk.cluster
    let queued (o : CopyOp) : State :=
      r.setCluster s.tk.cluster { cl with copies := cl.copies ++ [{ o with seq := num, since := cl.clock }], clock := cl.clock + 1 }
    let acts (i : Instr) (srcs : List Reg) (bad : Option (Nat × Nat)) (empty : Bool) (o : CopyOp) : Prop :=
      (srcs.any s.xp = true → Faults i s 0x51 0 0)
      ∧ (srcs.any s.xp = false →
        (∀ f, bad = some f → Faults i s f.1 f.2 0)
        ∧ (bad = none → empty = true → Effects i s (r.retire s.cur.1 0 num) 8)
        ∧ (bad = none → empty = false → ¬ full → Effects i s (queued o) 8)
        ∧ (bad = none → empty = false → full → Waits i s .queue))
    let n := (s.x c).toNat
    let lo (v : Word) : Int := (v.setWidth 32).toInt
    let hi (v : Word) : Int := (v.extractLsb' 32 32).toInt
    let len := ((s.x c).setWidth 32).toNat
    let rows := ((s.x c).extractLsb' 32 32).toNat
    let o := blankCopy s
    acts (.cpy d a b c raw) [a, b, c] (s.spanFault (s.x a).toNat n <|> s.spanFault (s.x b).toNat n) (decide (n = 0))
      { o 0 with dst := s.x a, src := s.x b, len := n, raw := raw }
    ∧ acts (.cpyset d a b c raw) [a, b, c] (s.spanFault (s.x a).toNat n) (decide (n = 0))
      { o 2 with dst := s.x a, len := n, patt := s.x b, pp := s.xp b, raw := raw }
    ∧ acts (.cpy2 d a b c e raw) [a, b, c, e]
      (if len = 0 ∨ rows = 0 then none
        else s.rowsFault (s.x a).toNat (lo (s.x e)) len 0 rows <|> s.rowsFault (s.x b).toNat (hi (s.x e)) len 0 rows)
      (decide (len = 0 ∨ rows = 0))
      { o 1 with dst := s.x a, src := s.x b, len := len, rows := rows, dstr := lo (s.x e), sstr := hi (s.x e), raw := raw }
    ∧ acts (.cpycmp d a b c e raw) [a, b, c, e]
      (s.spanFault (s.x a).toNat n <|> s.spanFault (s.x b).toNat n <|> if n = 0 then none else s.spanFault (s.x e).toNat 8)
      (decide (n = 0)) { o 4 with dst := s.x a, src := s.x b, len := n, res := s.x e, raw := raw }
    ∧ ∀ (tile : BitVec 4) (first count : BitVec 7) (dir : Bool),
      let t := AMap.get (s.cluster s.tk.cluster).tcfg tile.toNat 0
      let k := count.toNat + 1
      let own := tcfgValid t = true ∧ tcfgOwner t = s.tk.kid % 65536 ∧ first.toNat + k ≤ tcfgRows t
      let span := s.rowsFault (s.x a).toNat (s.x b).toInt (tcfgRow t) 0 k
      acts (.cpytile d a b tile first count dir) [a, b] (span <|> if own then none else some (0x25, 0)) false
        { o 3 with dst := s.x a, len := tcfgRow t, rows := k, dstr := (s.x b).toInt, tile := tile.toNat, first := first.toNat,
                   toTile := !dir, rowB := tcfgRow t, isTile := true }

/-- R289, R313, R315: tld loads 128 bytes of an owned tile from offset xa, chunk by chunk with poison; tst stores them; an unowned or
invalid tile, or an offset that is no multiple of 8 or too high, raises 0x25; an earlier operation of the thread on the tile makes
them wait.
Where the spec leaves a point open it follows the model's choice: log entries 22 and 38. -/
def Obligations.TileAccessesMoveBytes : Prop :=
  ∀ (s : State), s.Ready → ∀ (d a : Reg) (n : BitVec 4),
    let o := (s.x a).toNat
    let c := s.cluster s.tk.cluster
    let own := s.ownsTile n.toNat = true ∧ o % 8 = 0 ∧ o + 128 ≤ 69632
    let key := tileKey s.tk.cluster n.toNat o
    let both (p : Instr → Prop) : Prop := p (.tld d a n) ∧ p (.tst d a n)
    (s.xp a = true → both fun i => Faults i s 0x51 0 0)
    ∧ (s.xp a = false → ¬ own → both fun i => Faults i s 0x25 0 0)
    ∧ (s.xp a = false → own → c.tileHolds s.cur.1 s.cur.2 n.toNat c.clock = true → both fun i => Waits i s .tile)
    ∧ (s.xp a = false → own → c.tileHolds s.cur.1 s.cur.2 n.toNat c.clock = false →
      (∃ t, exec (.tld d a n) s = .next t ∧ t.mem = s.mem ∧ t.thr.pc = s.thr.pc + 8 ∧ t.thr.x = s.thr.x ∧ OnlyThread s t
        ∧ (∀ i < 128, (t.thr.lane d 8 i).1 = (s.mem.byte (key + i)).toNat)
        ∧ (∀ k < 16, t.thr.vpr d k = (List.range 8).any fun i => s.mem.poisoned (key + 8 * k + i))
        ∧ ∀ r, r ≠ d → t.thr.vr r = s.thr.vr r)
      ∧ Effects (.tst d a n) s { s with mem := s.mem.write key ((List.range 128).map fun i =>
          ({ b := BitVec.ofNat 8 (s.thr.lane d 8 i).1, p := s.thr.vpr d (i / 8) } : PByte)) } 8)

/-- R294, R295, R314, R317 to R319: an operation of the optical matrix unit that passes the checks of its issue is sent to its unit, and its
thread waits; when the unit's answer is there the instruction completes: with a precise fault of the unit's checks, a wait while 32
operations are staged, or else staged, with the next number of tl1 in the destination. A bad target, tile or shape raises 0x22 or
0x25 and a missing right 0x23 before anything is sent. -/
def Stated.MatrixOperationsAreAccepted : Prop :=
  ∀ (s : State), s.Ready → ∀ (d a b : Reg) (m : MxpW) (mask : BitVec 16) (bank n k : BitVec 4) (cap : BitVec 3),
    let here := s.tk.cluster
    let sent (i : Instr) (cl : Nat) (o : OmuOp) : Prop :=
      WaitsAt i s (s.setCluster cl { s.cluster cl with issued := (s.cluster cl).issued ++ [o] }) .omu
    let answered (i : Instr) : Prop := ∀ cl o, s.issuedOp s.cur.1 s.cur.2 = some (cl, o) →
      let r := s.dropIssued cl o
      let q := (r.issueOp 1).1.setX o.dest (BitVec.ofNat 64 (r.issueOp 1).2) false
      let c := q.cluster cl
      (∀ code, s.arrivalFault cl o = some code → FaultsAt i s r code 0 0)
      ∧ (s.arrivalFault cl o = none → 32 ≤ (s.cluster cl).staged.length → Waits i s .queue)
      ∧ (s.arrivalFault cl o = none → (s.cluster cl).staged.length < 32 →
          Effects i s (q.setCluster cl { c with
            staged := c.staged ++ [{ o with seq := (r.issueOp 1).2, since := c.clock }], clock := c.clock + 1 }) 8)
    let new (i : Instr) (kind : OmuKind) (srcs : List Reg) (shape : Bool) (w : Word) (right : Nat) (tiles banks held : List Nat) :
        Prop := s.issuedOp s.cur.1 s.cur.2 = none →
      (srcs.any s.xp = true → Faults i s 0x51 0 0)
      ∧ (srcs.any s.xp = false →
        (shape = false ∨ s.target (s.x a) = none → Faults i s 0x22 0 0)
        ∧ ∀ cl, shape = true → s.target (s.x a) = some cl →
          (capAllows w s.tk.ctx right (· == cl) tiles banks = false → Faults i s 0x23 0 0)
          ∧ (capAllows w s.tk.ctx right (· == cl) tiles banks = true →
            (s.omuAvail cl = false → Faults i s 0x24 0 0)
            ∧ (s.omuAvail cl = true → sent i cl (s.newOmu kind d (some w) held))))
    let w := s.capOf m.cap
    let v := s.capOf cap
    let passOk := !(decide (m.slice = 3) || (m.dir && m.chunks != 0) || decide (15 < mxpLast m))
    let named := (List.range 16).filter fun i => mask.getLsbD i
    let tiles := [m.ta.toNat, m.tc.toNat]
    let image := decide ((s.x b).toNat % 16384 = 0)
    let pass (st : Bool) : OmuKind := .pass m (s.x b) st
    answered (.mxp d a b m) ∧ answered (.mxps d a b m) ∧ answered (.mxprobe d a mask cap) ∧ answered (.phld d a b bank cap)
    ∧ answered (.phtrim d a bank cap) ∧ answered (.phrd d a b bank cap) ∧ answered (.phinv d a bank cap)
    ∧ answered (.tzero d n) ∧ answered (.tacc d n k)
    ∧ new (.mxp d a b m) (pass false) [a, b] passOk w 45 tiles (mxpBanks m) (mxpBanks m)
    ∧ new (.mxps d a b m) (pass true) [a, b] passOk w 45 tiles (mxpBanks m) (mxpBanks m)
    ∧ new (.mxprobe d a mask cap) (.probe mask.toNat) [a] (decide (mask ≠ 0)) v 45 [] named []
    ∧ new (.phtrim d a bank cap) (.phtrim bank.toNat) [a] true v 46 [] [bank.toNat] []
    ∧ new (.phinv d a bank cap) (.phinv bank.toNat) [a] true v 46 [] [bank.toNat] []
    ∧ (s.spanFault (s.x b).toNat 16384 = none →
        new (.phld d a b bank cap) (.phld bank.toNat (s.x b)) [a, b] image v 46 [] [bank.toNat] []
        ∧ new (.phrd d a b bank cap) (.phrd bank.toNat (s.x b)) [a, b] image v 46 [] [bank.toNat] [])
    ∧ (s.issuedOp s.cur.1 s.cur.2 = none →
        (s.ownsTile n.toNat = false → Faults (.tzero d n) s 0x25 0 0)
        ∧ (s.ownsTile n.toNat = true → sent (.tzero d n) here (s.newOmu (.tzero n.toNat) d none []))
        ∧ (s.ownsTile n.toNat = false ∨ s.ownsTile k.toNat = false → Faults (.tacc d n k) s 0x25 0 0)
        ∧ (s.ownsTile n.toNat = true → s.ownsTile k.toNat = true →
            let x := AMap.get (s.cluster here).tcfg n.toNat 0
            let y := AMap.get (s.cluster here).tcfg k.toNat 0
            let same := n ≠ k ∧ tcfgFmt x = 2 ∧ tcfgFmt y = 2 ∧ tcfgRows x = tcfgRows y ∧ tcfgChunks x = tcfgChunks y
            (¬ same → Faults (.tacc d n k) s 0x22 0 0)
            ∧ (same → sent (.tacc d n k) here (s.newOmu (.tacc n.toNat k.toNat) d none []))))

/-- R311, R318, R319: dcmp raises 0x22 for a misaligned destination or source, 0x23 without the right or with a bad tag, 0x24 without an
engine or light, then the fault of its ranges; it waits while 64 decompositions are queued, and else is queued on its die under the
next number of tl1. -/
def Stated.DecompositionIsQueued : Prop :=
  ∀ (s : State), s.Ready → ∀ (d a b : Reg) (cap : BitVec 3) (res : Bool),
    let i := Instr.dcmp d a b cap res
    let n := if res then 32768 else 16384
    let die := s.tk.cluster / 48
    let w := s.capOf cap
    let aligned := (s.x a).toNat % n = 0 ∧ (s.x b).toNat % 4 = 0
    let may := capAllows w s.tk.ctx 47 (fun c => c < 96 && c / 48 == die) [] [] = true ∧ s.capTagOk w = true
    let lit := s.engines die ≠ 0 ∧ s.dieLit die = true
    let span := s.spanFault (s.x a).toNat n <|> s.spanFault (s.x b).toNat 16384
    let num := (s.issueOp 1).2
    let r := (s.issueOp 1).1.setX d (BitVec.ofNat 64 num) false
    let o : DcmpOp := { seq := num, tid := s.cur.1, slot := s.cur.2, cluster := s.tk.cluster, dst := s.x a, src := s.x b, res := res }
    ((s.xp a || s.xp b) = true → Faults i s 0x51 0 0)
    ∧ ((s.xp a || s.xp b) = false →
      (¬ aligned → Faults i s 0x22 0 0) ∧ (aligned → ¬ may → Faults i s 0x23 0 0) ∧ (aligned → may → ¬ lit → Faults i s 0x24 0 0)
      ∧ (aligned → may → lit → ∀ f, span = some f → Faults i s f.1 f.2 0)
      ∧ (aligned → may → lit → span = none → 64 ≤ (s.die die).dcmp.length → Waits i s .queue)
      ∧ (aligned → may → lit → span = none → (s.die die).dcmp.length < 64 →
          Effects i s (r.setDie die { r.die die with dcmp := (r.die die).dcmp ++ [o] }) 8))

/-! ## Groups, launches, leases, links -/

/-- R328 to R330: a barrier instruction of a helper raises 0x0A, with a live helper 0x30, of a core without membership at its level 0x31, of a
broken group 0x33; sarrive with nothing buffered and nothing pending registers its arrival and goes on; a member that waits, or
comes to its swait, goes on once its release can take effect, syncv with the vote in xd. -/
def Stated.BarriersArriveAndRelease : Prop :=
  ∀ (s : State), s.Ready → ∀ (d a : Reg) (n op : BitVec 3),
    let forms (p : Instr → Prop) : Prop := p (.sync n) ∧ p (.sarrive n) ∧ p (.swait n) ∧ p (.syncv d a n op)
    let arrives (p : Instr → Prop) : Prop := p (.sync n) ∧ p (.sarrive n) ∧ p (.syncv d a n op)
    (s.cur.2 ≠ 0 → forms fun i => Faults i s 0x0A 0 0)
    ∧ (s.cur.2 = 0 → s.tk.helperLive = true → forms fun i => Faults i s 0x30 0 n.toNat)
    ∧ (s.cur.2 = 0 → s.tk.helperLive = false →
      (gmV (s.tk.gm n.toNat) = false → forms fun i => Faults i s 0x31 0 n.toNat)
      ∧ (gmV (s.tk.gm n.toNat) = true →
        (s.thr.arrival = none → Faults (.swait n) s 0x01 0 0)
        ∧ (s.thr.arrival = none → s.groupBroken n.toNat = true → arrives fun i => Faults i s 0x33 0 n.toNat)
        ∧ (s.thr.arrival = none → s.groupBroken n.toNat = false → s.thr.wbuf = [] → (∀ p ∈ s.tk.pend, p.slot ≠ s.cur.2) →
            Effects (.sarrive n) s (s.register n.toNat true 0 false 5) 4)
        ∧ ∀ r : Arrival, s.thr.arrival = some r → r.level = n.toNat → s.canRelease s.cur.1 = true →
          (r.split = false → r.pc = s.thr.pc →
            Effects (.sync n) s (s.releaseMember s.cur.1 none) 4 ∧ Effects (.syncv d a n op) s (s.releaseMember s.cur.1 (some d)) 8)
          ∧ (r.split = true ∨ r.pc = s.thr.pc → r.fault = none → s.groupBroken n.toNat = false →
            let q := s.setThr { s.thr with arrival := some { r with split := false, pc := s.thr.pc, fault := none } }
            (q.canRelease q.cur.1 = true → Effects (.swait n) s (q.releaseMember q.cur.1 none) 4))))

/-- R330: the vote of a superstep combines the votes of its syncv arrivals by its operation: sum, signed maximum and minimum, OR, AND,
poisoned when one of them is; without a vote it is the operation's identity. -/
def Stated.VotesAreCombined : Prop :=
  ∀ g : Group,
    let vs := (g.arr.filter fun a => a.2.2.2.2 != 5)
    let ws := vs.map fun a => a.2.2.1
    g.reduce.2 = vs.any (fun a => a.2.2.2.1)
    ∧ (g.voteOp = 0 → g.reduce.1 = ws.sum) ∧ (g.voteOp = 3 → g.reduce.1 = ws.foldl (· ||| ·) 0)
    ∧ (g.voteOp = 4 → g.reduce.1 = ws.foldl (· &&& ·) (BitVec.allOnes 64))
    ∧ (g.voteOp = 1 → (∀ v ∈ ws, v.toInt ≤ g.reduce.1.toInt) ∧ (ws ≠ [] → g.reduce.1 ∈ ws))
    ∧ (g.voteOp = 2 → (∀ v ∈ ws, g.reduce.1.toInt ≤ v.toInt) ∧ (ws ≠ [] → g.reduce.1 ∈ ws))

/-- R331 to R335: xsend queues an entry of the core's exchange list, after its checks; xopen opens a packet, xput captures up to 16 words
with their poison, xend queues the packet's words as one entry and closes it; an entry of no word is not queued; a poisoned
operand of xsend or xopen raises 0x51, a word too many 0x01. -/
def Stated.ExchangeEntriesAreQueued : Prop :=
  (∀ (s : State), s.Ready → ∀ (a b c : Reg) (n : BitVec 3),
    let count := (s.x c).toNat
    let e : XEntry := { level := n.toNat, desc := s.x b, src := some (s.x a), words := [], count := count, moved := 0, step := none }
    ((s.xp a || s.xp b || s.xp c) = true → Faults (.xsend a b c n) s 0x51 0 0)
    ∧ ((s.xp a || s.xp b || s.xp c) = false →
      let chk := s.xCheck n.toNat (s.x b) count (some (s.x a).toNat) none
      (∀ f, chk = some f → Faults (.xsend a b c n) s f.1 f.2.1 f.2.2)
      ∧ (chk = none → count = 0 → Advances (.xsend a b c n) s 8)
      ∧ (chk = none → count ≠ 0 → Effects (.xsend a b c n) s (s.setTk { s.tk with xlist := s.tk.xlist ++ [e] }) 8))
    ∧ (s.xp a = true → Faults (.xopen a n) s 0x51 0 0)
    ∧ (s.xp a = false → Effects (.xopen a n) s
        (s.setThr { s.thr with packet := some { desc := s.x a, level := n.toNat, words := [], xopen := s.thr.pc } }) 8)
    ∧ Faults (.xput a) s 0x01 0 0 ∧ Faults .xend s 0x01 0 0)
  ∧ ∀ (s : State) (p : OpenPacket) (a : Reg), s.thr.canRun = true → s.thr.shadow = none → (s.core s.tk.core).dbgStop = false →
    s.thr.packet = some p →
    (p.words.length < 16 → Effects (.xput a) s
      (s.setThr { s.thr with packet := some { p with words := p.words ++ [(s.x a, s.xp a)] } }) 8)
    ∧ (16 ≤ p.words.length → Faults (.xput a) s 0x01 0 0)
    ∧ let chk := s.xCheck p.level p.desc p.words.length none (some p.words)
      let q := s.setThr { s.thr with packet := none }
      let e : XEntry :=
        { level := p.level, desc := p.desc, src := none, words := p.words, count := p.words.length, moved := 0, step := none }
      (∀ f, chk = some f → Faults .xend s f.1 f.2.1 f.2.2)
      ∧ (chk = none → p.words = [] → Effects .xend s q 8)
      ∧ (chk = none → p.words ≠ [] → Effects .xend s (q.setTk { q.tk with xlist := q.tk.xlist ++ [e] }) 8)

/-- R334: the checks of an exchange entry in their order, which a count of 0 passes: no membership or a rank beyond the group raises 0x31, words
beyond the window 0x61, a bad source range its own fault, an unreachable module 0x40, poison to another module 0x51, a full list 0x32. -/
def Stated.ExchangeChecksInOrder : Prop :=
  ∀ (s : State) (n : Nat) (desc : Word) (count : Nat) (src : Option Nat) (packet : Option (List (Word × Bool))),
    let g := s.tk.gm n
    let bad1 := gmV g = false ∨ gmSize g ≤ desc.toNat % 2 ^ 21
    let bad2 := 65536 < desc.toNat / 2 ^ 32 % 65536 + count
    let range := src.bind fun a => s.spanFault a (8 * count)
    let bad4 := s.rankUnreach s.tk n (desc.toNat % 2 ^ 21) = true
    let bad5 := n = 4 ∧ (packet.any fun ws => ws.any Prod.snd) = true
    let bad6 := 256 ≤ s.tk.xlist.length
      ∨ (packet.isSome = true ∧ 64 ≤ (s.tk.xlist.filter fun e => e.src.isNone).length)
    let chk := s.xCheck n desc count src packet
    (count = 0 → chk = none) ∧ (count ≠ 0 →
    (bad1 → chk = some (0x31, 0, n)) ∧ (¬ bad1 → bad2 → chk = some (0x61, 0, 0))
    ∧ (¬ bad1 → ¬ bad2 → ∀ f, range = some f → chk = some (f.1, f.2, 0))
    ∧ (¬ bad1 → ¬ bad2 → range = none → bad4 → chk = some (0x40, 0, 0))
    ∧ (¬ bad1 → ¬ bad2 → range = none → ¬ bad4 → bad5 → chk = some (0x51, 0, 0))
    ∧ (¬ bad1 → ¬ bad2 → range = none → ¬ bad4 → ¬ bad5 → bad6 → chk = some (0x32, 0, n))
    ∧ (¬ bad1 → ¬ bad2 → range = none → ¬ bad4 → ¬ bad5 → ¬ bad6 → chk = none))

/-- R364 to R366: klaunch of a record that is no multiple of 128 raises 0x70, else it reads the record and waits for the MGC, whose answer
gives xd the launch's number and lets the thread go on 8 bytes further (klaunchMgcAnswer), once an audit block that it must read for
that can be read (log entry 19); kquery reads an entry of the signal
table, 0 for entry 0; ksignal with nothing buffered raises an entry to a value; both wait while the entry cannot be accessed. -/
def Stated.LaunchInstructionsAct : Prop :=
  (∀ (s : State), s.Ready → ∀ (d a b : Reg) (q : BitVec 4) (detach : Bool),
    let i := Instr.klaunch d a q detach
    let v := (s.x a).toNat
    (s.xp a = true → Faults i s 0x51 0 0 ∧ Faults (.kquery d a) s 0x51 0 0)
    ∧ (s.xp a = false →
      (s.sigWait s.tk.ctx (v % 256) .load = none → GivesX (.kquery d a) s d (BitVec.ofNat 64 (s.sigRead s.tk.ctx (v % 256))) false 8)
      ∧ (∀ w, s.sigWait s.tk.ctx (v % 256) .load = some w → Waits (.kquery d a) s w)
      ∧ (s.thr.st = .ready → v % 128 ≠ 0 → Faults i s 0x70 0 0)
      ∧ (s.thr.st = .ready → v % 128 = 0 → ∀ r bs,
          s.engineLoad s.cur.1 s.cur.2 (klaunchOp + s.cur.2) v 128 = (r, .bytes bs) →
          let r := r.forget r.cur.1 (klaunchOp + r.cur.2)
          WaitsAt i s (r.setThr { r.thr with answer := some (.bytes bs) }) .mgc))
    ∧ ((s.xp a || s.xp b) = true → Faults (.ksignal a b) s 0x51 0 0)
    ∧ ((s.xp a || s.xp b) = false → s.thr.wbuf = [] →
        (s.sigWait s.tk.ctx (v % 256) .atomic = none →
          Effects (.ksignal a b) s (s.sigRaise s.tk.ctx (v % 256) ((s.x b).toNat % 2 ^ 56) false false) 8)
        ∧ ∀ w, s.sigWait s.tk.ctx (v % 256) .atomic = some w → Waits (.ksignal a b) s w))
  ∧ ∀ (s : State) (core slot tid : Nat) (bs : List PByte) (w0 w1 len : Nat), s.running core = some tid →
    let k := s.task tid
    let t := k.thread slot
    let rec_ := LaunchRec.ofBytes (bs.map PByte.b)
    let detach := bitAt w1 4
    t.st = .waiting .mgc → t.answer = some (.bytes bs) → t.held = some (w0, w1, len) →
    let waits := s.refusalWaits k.ctx (w1 % 16) (s.childGen k detach) rec_
    (waits = true → exec (.klaunchMgcAnswer core slot) s = .next s)
    ∧ (waits = false → s.refuses k.ctx (w1 % 16) (s.childGen k detach) rec_ = true →
      exec (.klaunchMgcAnswer core slot) s = .next (s.faultHeld tid slot 0x70 0 0 0 0))
    ∧ (waits = false → s.refuses k.ctx (w1 % 16) (s.childGen k detach) rec_ = false → ∀ q, (s.ctx k.ctx).queue? (w1 % 16) = some q →
      (64 ≤ q.comp.length → exec (.klaunchMgcAnswer core slot) s = .next (s.faultHeld tid slot 0x71 0 0 0 0))
      ∧ (q.comp.length < 64 → (s.core k.core).dbgStop = false → ∃ u, exec (.klaunchMgcAnswer core slot) s = .next u
          ∧ (u.thread tid slot).st = .ready ∧ (u.thread tid slot).pc = t.pc + 8
          ∧ (u.thread tid slot).xr (BitVec.ofNat 5 (w0 / 256))
              = (if BitVec.ofNat 5 (w0 / 256) = (0 : Reg) then 0 else BitVec.ofNat 64 ((k.line 3).issued + 1))
          ∧ u.kernels.length = s.kernels.length + 1))

/-- R345, R366: raising an entry of the signal table writes the greater value, keeps ERR and NZ once set, and leaves the other bits. -/
def Stated.SignalsOnlyRise : Prop :=
  ∀ (s : State) (ctx i v : Nat) (err nz : Bool), i ≠ 0 →
    let a := (s.ctx ctx).desc.sigtab + 8 * i
    let e := s.sigRead ctx i
    ∃ w, Nat.max (e % 2 ^ 56) (v % 2 ^ 56) = w % 2 ^ 56 ∧ bitAt w 63 = (bitAt e 63 || err) ∧ bitAt w 62 = (bitAt e 62 || nz)
      ∧ w / 2 ^ 56 % 64 = e / 2 ^ 56 % 64
      ∧ s.sigRaise ctx i v err nz = (s.engineWrite ctx a ((leBytes 8 w).map fun b => ({ b := b, p := false } : PByte)) 3).getD s

/-- R413, R418 to R422: on the windows, the hole and a non-canonical address lquery gives the kind of place alone, lrenew and pgcnt give 0,
or raise 0x14 for a non-canonical address (pgcnt 0x11 for the hole); in translated memory they give what the translation kept and
the block's counters say. A poisoned address raises 0x51. -/
def Stated.LeaseInstructionsAct : Prop :=
  ∀ (s : State), s.Ready → ∀ (d a : Reg),
    let va := (s.x a).toNat
    let cl := s.tk.cluster
    let ctx := s.tk.ctx
    let kind (k : Word) : Prop := GivesX (.lquery d a) s d (k <<< 8) false 4
    (s.xp a = true → Faults (.lquery d a) s 0x51 0 0 ∧ Faults (.lrenew d a) s 0x51 0 0 ∧ Faults (.pgcnt d a) s 0x51 0 0)
    ∧ (s.xp a = false →
      (regionOf va = .cm → kind 2 ∧ GivesX (.lrenew d a) s d 0 false 4 ∧ GivesX (.pgcnt d a) s d 0 false 4)
      ∧ (regionOf va = .csp → kind 3 ∧ GivesX (.lrenew d a) s d 0 false 4 ∧ GivesX (.pgcnt d a) s d 0 false 4)
      ∧ (regionOf va = .hole → kind 4 ∧ GivesX (.lrenew d a) s d 0 false 4 ∧ Faults (.pgcnt d a) s 0x11 va 0)
      ∧ (regionOf va = .nonCanon → kind 5 ∧ Faults (.lrenew d a) s 0x14 va 0 ∧ Faults (.pgcnt d a) s 0x14 va 0)
      ∧ (regionOf va = .host ∨ regionOf va = .dev →
        (∀ r v, s.lquery cl ctx va = (r, v) → Effects (.lquery d a) s (r.setX d (BitVec.ofNat 64 v) false) 4)
        ∧ (∀ r t, s.walkFor cl ctx va = (r, .ok t) →
            Effects (.lrenew d a) s (r.setX d (BitVec.ofNat 64 (r.remain cl (r.kept cl r.tk.ctx va))) false) 4)
        ∧ ∀ r t, s.translate cl ctx va .load = (r, .ok t) →
          (permits t.leaf .load = false → FaultsAt (.pgcnt d a) s r 0x11 va 0)
          ∧ (permits t.leaf .load = true → (if t.host then inExtent r.hostPoison va else leafPoi t.leaf) = false →
              Effects (.pgcnt d a) s (r.setX d (BitVec.ofNat 64 (r.counts t va)) false) 4)))

/-- R447 to R450: ldrain is queued under the next number of tl2 with the remote operations to the selected modules that its core's threads have
outstanding and the stores to them that their buffers hold, and retires with the last of these; lstat gives the status
word; irsend and irrecv of a session that is ready, at a slot at least four ahead and free, are scheduled under the next number of
tl2, a send with its buffer's bytes; a bad buffer or slot raises 0x22, no such session 0x43, a poisoned operand 0x51. -/
def Stated.LinkInstructionsAct : Prop :=
  (∀ (s : State), s.Ready → ∀ (d a b : Reg) (sel : BitVec 2),
    let num := (s.issueOp 2).2
    let r := (s.issueOp 2).1
    let buf := (s.x a).toNat
    let n := (s.x b).toNat % 64
    let cur := s.ctime / 256
    let slot := irSlot cur ((s.x b).toNat / 2 ^ 32)
    let forms (p : Instr → Bool → Prop) : Prop := p (.irsend d a b) false ∧ p (.irrecv d a b) true
    let size (recv : Bool) : Nat := if recv then 4160 else 2048
    let slotOk (e : IrSession) : Prop :=
      (cur : Int) + 4 ≤ slot ∧ slot.toNat % e.period = e.phase ∧ ∀ o ∈ s.irOps, ¬ (o.sess = n ∧ o.slot = slot.toNat)
    let op (data : Option (List Byte)) : IrOp :=
      { sess := n, slot := slot.toNat, recv := data.isNone, tid := s.cur.1, th := s.cur.2, seq := num, core := s.tk.core,
        buf := buf, data := data }
    let queued (data : Option (List Byte)) : State :=
      ({ r with irOps := r.irOps ++ [op data] } : State).setX d (BitVec.ofNat 64 num) false
    let bytes := s.readWin (s.cmOf s.cur.1 (buf - cmBase)) 2048
    (s.xp a = true → Faults (.ldrain d a) s 0x51 0 0 ∧ Faults (.lstat d a sel) s 0x51 0 0)
    ∧ (s.xp a = false →
      GivesX (.lstat d a sel) s d (BitVec.ofNat 64 (s.lstat buf sel.toNat)) false 8
      ∧ (let all := (s.x a).getLsbD 63
         let one := (s.x a).toNat % 1024
         let f (m : Nat) : Bool := all || one == m
         let l : LDrain := { tid := s.cur.1, seq := num, sel := if all then none else some one, stores := s.storesTo s.cur.1 f,
                             ops := (s.remotes.filter fun o => o.who.ofTask s.cur.1 && f o.target).map fun o => (o.target, o.opseq) }
         Effects (.ldrain d a) s
          (({ r.setX d (BitVec.ofNat 64 num) false with ldrains := r.ldrains ++ [l] } : State).retireLdrains) 8))
    ∧ ((s.xp a || s.xp b) = true → forms fun i _ => Faults i s 0x51 0 0)
    ∧ ((s.xp a || s.xp b) = false →
      (forms fun i recv => irBuffer buf (size recv) = false → Faults i s 0x22 0 0)
      ∧ (forms fun i recv => irBuffer buf (size recv) = true → s.irReady n recv s.tk.ctx = none → Faults i s 0x43 0 0)
      ∧ (forms fun i recv => irBuffer buf (size recv) = true → ∀ e, s.irReady n recv s.tk.ctx = some e → ¬ slotOk e →
          Faults i s 0x22 0 0)
      ∧ (irBuffer buf 4160 = true → ∀ e, s.irReady n true s.tk.ctx = some e → slotOk e → Effects (.irrecv d a b) s (queued none) 8)
      ∧ (irBuffer buf 2048 = true → bytes.any PByte.p = false → ∀ e, s.irReady n false s.tk.ctx = some e → slotOk e →
          Effects (.irsend d a b) s (queued (some (bytes.map PByte.b))) 8)
      ∧ (irBuffer buf 2048 = true → bytes.any PByte.p = true → ∀ e, s.irReady n false s.tk.ctx = some e → slotOk e →
          Effects (.irsend d a b) s
            ((r.setX d (BitVec.ofNat 64 num) false).retireFailed s.cur.1 s.cur.2 2 num 0x51 buf 0) 8)))
  ∧ ∀ (u : State) (l : LDrain), l ∈ u.ldrains →
    let waits := (∃ o ∈ l.ops, ∃ q ∈ u.remotes, q.target = o.1 ∧ q.opseq = o.2)
      ∨ ∃ o ∈ l.stores, ∃ e ∈ (u.thread l.tid o.1).wbuf, e.age = o.2
    (waits → l ∈ u.retireLdrains.ldrains)
    ∧ (¬ waits → l ∉ u.retireLdrains.ldrains ∧ l.seq ∉ ((u.retireLdrains.task l.tid).line 2).live)


/-! ## Events: start, clock, chip time -/

/-- R32, R480, R486: power is good: all storage, contexts, tasks, kernels and the core clock are at reset, chip time and the fuses go on, and
the PSC's image is verified and reports step 1, fails, or leaves the boot to the previous image. -/
def Stated.PowerGoodBoots : Prop :=
  ∀ (s : State) (ok : Bool), ∃ t, exec (.powerGood ok) s = .next t ∧
    t.startStep = 1 ∧ t.devstat.getLsbD 0 = false ∧
    (t.devstat.getLsbD 1 = true ↔ (ok = false ∨ s.powerUp.startImageOk 1 = false) ∧ (s.fwk 1).st ≠ .verified) ∧
    t.mem = { cells := [], pois := [] } ∧ t.tasks = [] ∧ t.cores = [] ∧ t.ctxs = [] ∧ t.kernels = [] ∧ t.clock = 2000 ∧ t.now = s.now ∧
    t.enmap = s.enmap ∧ t.boot = s.boot + 1

/-- R32 to R34: a step of the start sequence begins when the one before it has succeeded, and DEVSTAT.STEP shows it; a step that fails, or
whose firmware image is bad, stops the sequence with DEVSTAT bit 1; step 2 waits while a new PSC image has not reported step 1 (R480) and
takes the stacks' reports; step 3 locks the comb lines; step 4 trains the internal ports, and fails also later; step 5 begins once
these are up and starts the thermal loop of every enabled cluster; step 6 sets READY. -/
def Stated.StartStepsRunInOrder : Prop :=
  ∀ (s : State) (ok : Bool) (reports : List (Nat × Nat)),
    let may (n : Nat) : Prop := s.startStep + 1 = n ∧ s.devstat.getLsbD 1 = false ∧ (n = 2 → (s.fwk 1).trial = false)
    let fails (n : Nat) : State := { s with devstat := BitVec.ofNat 64 (16 * n + 2) }
    let i2 : Instr := .stackBringup (if ok then some reports else none)
    let ready := ∀ p, 96 ≤ p → p < 108 → (s.port p).sends = true
    (¬ may 2 → exec i2 s = .next s) ∧ (may 2 → ok = false ∨ s.startImageOk 4 = false → exec i2 s = .next (fails 2)) ∧
    (may 2 → ok = true → s.startImageOk 4 = true → ∃ t, exec i2 s = .next t ∧ t.devstat = 32 ∧ t.mem = s.mem ∧
      ∀ k < 8, (t.stack k).capacity = (reports.getD k (0, 0)).1 ∧ (t.stack k).spares = (reports.getD k (0, 0)).2) ∧
    (¬ may 3 → exec (.combLock ok) s = .next s) ∧ (may 3 → ok = false → exec (.combLock ok) s = .next (fails 3)) ∧
    (may 3 → ok = true → ∃ t, exec (.combLock ok) s = .next t ∧ t = { s with devstat := 48, comb := t.comb } ∧
      ∀ src < 2, ∀ line < 16, t.line src line = { s.line src line with state := 2 }) ∧
    (s.startStep = 4 → ok = true → exec (.switchPortTrain ok) s = .next s) ∧
    (s.startStep = 4 → ok = false → exec (.switchPortTrain ok) s = .next { s with devstat := s.devstat ||| 2 }) ∧
    (s.startStep ≠ 4 → ¬ may 4 → exec (.switchPortTrain ok) s = .next s) ∧
    (may 4 → ok = false ∨ s.startImageOk 3 = false → exec (.switchPortTrain ok) s = .next (fails 4)) ∧
    (may 4 → ok = true → s.startImageOk 3 = true → ∃ t, exec (.switchPortTrain ok) s = .next t ∧ t.devstat = 64 ∧ t.mem = s.mem ∧
      (∀ p, 96 ≤ p → p < 108 → (t.port p).st = .train) ∧ ∀ p, p < 96 → t.port p = s.port p) ∧
    (¬ ready ∨ ¬ may 5 → exec (.mgcRelease ok) s = .next s) ∧
    (ready → may 5 → ok = false ∨ s.startImageOk 2 = false → exec (.mgcRelease ok) s = .next (fails 5)) ∧
    (ready → may 5 → ok = true → s.startImageOk 2 = true → ∃ t, exec (.mgcRelease ok) s = .next t ∧ t.devstat = 80 ∧ t.mem = s.mem ∧
      ∀ c < 96, (t.cluster c).thermal = (s.enmap.getLsbD (96 + c) || (s.cluster c).thermal)) ∧
    (¬ may 6 → exec .setReady s = .next s) ∧ (may 6 → exec .setReady s = .next { s with devstat := 97 })

/-- R33, R453: the host link is up when it trained with CXL.cache and CXL.mem. -/
def Stated.HostLinkTrains : Prop :=
  ∀ (s : State) (cache mem : Bool), exec (.cxlLinkTrain cache mem) s = .next { s with linkUp := cache && mem, linkBad := !(cache && mem) }

/-- R42, R473: over PWRLIM the core clock falls by 100 MHz, at or under 95 % of it rises by 100 MHz, between 1.2 GHz and 2.0 GHz, else stays;
a die's limit falls at 105 °C and rises after 1 ms below 100 °C. -/
def Stated.ClockFollowsPowerAndHeat : Prop :=
  ∀ s : State,
    (∀ avg, exec (.powerSample avg) s = .next { s with
      clock := if s.pwrlim < avg then max 1200 (s.clock - 100)
        else if avg * 100 ≤ s.pwrlim * 95 then min 2000 (s.clock + 100) else s.clock }) ∧
    (∀ d, exec (.dieJunctionLimit d) s =
      .next (s.setDie d { s.die d with limit := max 1200 ((s.die d).limit - 100), coolAt := s.now })) ∧
    (∀ d, (s.die d).coolAt + 1000000 ≤ s.now →
      exec (.dieJunctionRecover d) s =
        .next (s.setDie d { s.die d with limit := min 2000 ((s.die d).limit + 100), coolAt := s.now })) ∧
    (∀ d, s.now < (s.die d).coolAt + 1000000 → exec (.dieJunctionRecover d) s = .next s)

/-- R402, R434: the state of a copy of chip time after a slot edge that finds it err ns ahead, for the pod bound less the delay of the way, where
it stands so far ahead (log entry 117): SYNC stays at an edge within 4 ns; HOLD ends after the edges it needs, UNSYNC after 16 in a row;
an edge further off means UNSYNC. What a copy reads never decreases. -/
def Stated.SlotEdgesSetTimeState : Prop :=
  ∀ (s : State) (u : TimeUnit) (edge : Int),
    let c := s.timeOf u
    let err := if u = .pod then edge - s.edgeDelay else edge
    (err ≠ c.off → exec (.slotEdge u edge) s = .next s) ∧ (err = c.off →
    ∃ t, exec (.slotEdge u edge) s = .next t ∧ (t.timeOf u).err = err ∧ (t.timeOf u).lost = 0 ∧ (t.timeOf u).off = c.off ∧
      c.read s.now ≤ (t.timeOf u).read s.now ∧
      ((t.timeOf u).st = if 4 < err.natAbs then .unsync
        else match c.st with
          | .sync => .sync
          | .hold => if c.need ≤ c.good + 1 then .sync else .hold
          | .unsync => if 16 ≤ c.good + 1 then .sync else .unsync) ∧
      (4 < err.natAbs → c.st ≠ .unsync → (t.timeOf u).loss = c.loss + 1))

/-- R402: a slot without an edge: HOLD after one, UNSYNC after 64; a copy that enters UNSYNC drops its cluster's translations. -/
def Stated.MissingEdgesSetTimeState : Prop :=
  ∀ (s : State) (u : TimeUnit), u ≠ .pod →
    let c := s.timeOf u
    ∃ t, exec (.slotEdgeTimeout u) s = .next t ∧ (t.timeOf u).lost = c.lost + 1 ∧ (t.timeOf u).good = 0 ∧
      ((t.timeOf u).st = if c.st = .unsync ∨ 64 ≤ c.lost + 1 then .unsync else .hold) ∧
      (∀ n, u = .cluster n → c.st ≠ .unsync → 64 ≤ c.lost + 1 → (t.cluster n).tlb = [])

/-- The events of start, clock and chip time.
Where the spec leaves a point open it follows the model's choice: log entries 4, 7 and 78. -/
def Obligations.StartClockAndTimeEventsAct : Prop :=
  Stated.PowerGoodBoots ∧ Stated.StartStepsRunInOrder ∧ Stated.HostLinkTrains ∧ Stated.ClockFollowsPowerAndHeat ∧
    Stated.SlotEdgesSetTimeState ∧ Stated.MissingEdgesSetTimeState

/-! ## Events of a core -/

/-- R130, R133: the front end forms a group: with no PC match, the ready threads at the chosen thread's pc and in its code context issue, in
rotation order; the pointer moves past the chosen thread; ISSUECNT and FUSECNT count the group. -/
def Stated.IssueGroupsForm : Prop :=
  ∀ (s : State) (core tid c : Nat), s.issuing = [] → s.running core = some tid → (s.task tid).pmen = false →
    (s.task tid).chosen (s.core core).preempt = some c →
    let k := s.task tid
    let g := k.order.filter (k.members (s.core core).preempt c).contains
    c ∈ g ∧ exec (.issueGroupForm core) s = .next { s.setTask tid { k with
        rot := (c + 1) % 16, avoid := [], issuecnt := (k.issuecnt + 1) % 2 ^ 64, fusecnt := (k.fusecnt + g.length - 1) % 2 ^ 64 } with
      issuing := g.map fun i => (tid, i) }

/-- R494, R495: a thread alone at a pc that the table matches enters the handler of the lowest matching entry instead of issuing. -/
def Stated.MatchedThreadsEnterHandlers : Prop :=
  ∀ (s : State) (core tid c e : Nat), s.issuing = [] → s.running core = some tid →
    (s.task tid).chosen (s.core core).preempt = some c → (s.task tid).members (s.core core).preempt c = [c] →
    (s.task tid).matchesNow c = some e → (s.task tid).shadowHolder = none → c < 16 →
    ∃ t, exec (.issueGroupForm core) s = .next t ∧ t.issuing = [] ∧ (t.thread tid c).pmepc = (s.thread tid c).pc ∧
      (t.thread tid c).pc = BitVec.ofNat 64 ((s.task tid).pmctl.toNat / 4096 * 4096 + 64 * e) ∧ (t.thread tid c).st = .ready ∧
      (t.thread tid c).shadow = some { addr := (s.thread tid c).pc, x := (s.thread tid c).x, xp := (s.thread tid c).xp, lr := (s.thread tid c).lr
                                       tflags := (s.thread tid c).tflags, count := 0 }

/-- R496: a handler that has issued 1,024 instructions ends: PMCTL.OVR is set, and the thread resumes at PMEPC with its own registers. -/
def Stated.SpentHandlersEnd : Prop :=
  ∀ (s : State) (core tid slot : Nat) (h : ShadowRegs), s.running core = some tid → slot < 16 → (s.thread tid slot).shadow = some h →
    1024 ≤ h.count → (s.thread tid slot).st = .ready → (s.thread tid slot).pmepc.toNat % 4 = 0 →
    (∀ j < 16, j ≠ slot → (s.thread tid j).shadow = none) →
    ∃ t, exec (.handlerInstructionLimit core) s = .next t ∧ (t.task tid).pmctl = (s.task tid).pmctl ||| 8 ∧
      (t.thread tid slot).shadow = none ∧ (t.thread tid slot).pc = (s.thread tid slot).pmepc ∧ (t.thread tid slot).x = h.x ∧
      (t.thread tid slot).xp = h.xp ∧ (t.thread tid slot).lr = h.lr ∧ (t.thread tid slot).tflags = h.tflags

/-- R488, R491, R492: a debugger stops a core: its live threads without an open packet or handler hold in DEBUG with the state they had, and
take it again when the debugger resumes it, and the messages that waited are applied, a slot-table entry for one; of a confidential context only
an authenticated request counts. -/
def Stated.DebuggersStopAndResume : Prop :=
  ∀ (s : State) (core tid : Nat), s.running core = some tid →
    (∃ t, exec (.debugStopRequest core true) s = .next t ∧ (t.core core).dbgStop = true ∧ (t.core core).dbgHeld = true ∧
      ∀ i < 16, (s.thread tid i).live = true → (s.thread tid i).packet = none → (s.thread tid i).shadow = none →
        (s.thread tid i).st ≠ .debug → (t.thread tid i).st = .debug ∧ (t.thread tid i).prior = (s.thread tid i).st) ∧
    ((s.core core).dbgStop = true → (s.core core).msgs = [] →
      ∃ t, exec (.debugResumeRequest core true) s = .next t ∧ (t.core core).dbgStop = false ∧
        ∀ i < 16, (s.thread tid i).st = .debug → (t.thread tid i).st = (s.thread tid i).prior) ∧
    (bitAt (s.ctx (s.task tid).ctx).desc.flags 0 = true →
      exec (.debugStopRequest core false) s = .next s ∧ exec (.debugResumeRequest core false) s = .next s) ∧
    (∀ idle sh w, s.running idle = none → (s.core idle).dbgStop = true → (s.core idle).msgs = [.entry sh w] →
      exec (.debugResumeRequest idle false) s =
        .next ((s.setCore idle { s.core idle with dbgStop := false, msgs := [] }).takeEntry idle sh w))

/-- R144, R145: in a deadlock the control thread stops with 0x0B at its waiting instruction; with none nothing happens. -/
def Stated.DeadlocksStopControlThread : Prop :=
  ∀ (s : State) (core tid : Nat), s.running core = some tid →
    ((s.task tid).deadlocked = true → (s.thread tid 0).live = true →
      ∃ t, exec (.deadlockDetect core) s = .next t ∧ (t.thread tid 0).st = .stopped ∧
        ((t.thread tid 0).frec.map fun r => (r.code, r.kind)) = some (0x0B, 0)) ∧
    ((s.task tid).deadlocked = false → exec (.deadlockDetect core) s = .next s)

/-- R137, R140: a hexit or kexit that waits for operations to retire executes again from the words it holds. -/
def Stated.ExitsComplete : Prop :=
  ∀ (s : State) (core tid slot : Nat) (w : Nat × Nat × Nat), s.running core = some tid →
    (s.thread tid slot).st = .waiting .retire → (s.thread tid slot).held = some w → w.1 % 256 = 0x58 →
    (w.1 / 2 ^ 23 = 2 → ∃ r, exec (.hexit (BitVec.ofNat 5 (w.1 / 8192))) { s with cur := (tid, slot), curW := w } = .next r ∧
      exec (.hexitComplete core slot) s = .next { r with cur := s.cur, curW := s.curW }) ∧
    (slot = 0 → w.1 / 2 ^ 23 = 5 → ∃ r, exec (.kexit (BitVec.ofNat 5 (w.1 / 8192))) { s with cur := (tid, 0), curW := w } = .next r ∧
      exec (.kexitComplete core) s = .next { r with cur := s.cur, curW := s.curW })

/-- R208, R209: an entry of the special-function queue completes, when no earlier entry of its thread is queued. -/
def Stated.SfuEntriesComplete : Prop :=
  ∀ (s : State) (core tid idx : Nat) (e : SfuEntry), s.running core = some tid → (s.task tid).sfu[idx]? = some e →
    e.cancelled = false → (∀ o ∈ (s.task tid).sfu.take idx, o.slot ≠ e.slot) →
    exec (.sfuEntryComplete core idx) s = .next (s.setTask tid { s.task tid with sfu := (s.task tid).sfu.eraseIdx idx })

/-- R288, R289: TCFGn takes the writable bits and the writer as owner, when no other kernel owns it and no unretired operation names
the tile. -/
def Stated.TcfgWritesConfigureTiles : Prop :=
  ∀ (s : State) (core tid slot n : Nat) (v : Word), s.running core = some tid → (s.task tid).core = core → n < 16 →
    let cl := core / 16
    let c := s.cluster cl
    let w := v &&& 0x1C77F
    let me := (s.task tid).kid % 65536
    (tcfgValid (AMap.get c.tcfg n 0) = false ∨ tcfgOwner (AMap.get c.tcfg n 0) = me → c.tileBusy n = false →
      tcfgValid w = true → tcfgRows w * tcfgRow w ≤ 69632 →
      exec (.tcfgWrite core slot n v) s =
        .next (s.setCluster cl { c with tcfg := AMap.set c.tcfg n (w ||| BitVec.ofNat 64 (me * 2 ^ 48)) 0 })) ∧
    (tcfgValid (AMap.get c.tcfg n 0) = true → tcfgOwner (AMap.get c.tcfg n 0) ≠ me →
      exec (.tcfgWrite core slot n v) s = .next s)

/-- R309, R493, R498, R499: the writes of PHPROBE (1 to 16) and DRLIMIT under the PHASE right, of GAIN (0 to 12), of PMCTL with its
debugger's bit, of TRBASE and of MONCFGn, which clears its monitor; a latency goes to a monitor that counts one. -/
def Stated.SpecialRegistersTakeWrites : Prop :=
  ∀ (s : State) (core tid : Nat) (v : Word), s.running core = some tid → (s.task tid).core = core →
    let k := s.task tid
    let cl := core / 16
    (k.phaseHere = true →
      exec (.phprobeWrite core v) s = .next (s.setCluster cl { s.cluster cl with
        phprobe := if v.toNat % 32 = 0 then 1 else min 16 (v.toNat % 32) }) ∧
      exec (.drlimitWrite core v) s = .next (s.setCluster cl { s.cluster cl with drlimit := v.toNat % 256 })) ∧
    (k.phaseHere = false → exec (.phprobeWrite core v) s = .next s ∧ exec (.drlimitWrite core v) s = .next s) ∧
    exec (.gainWrite core v) s = .next (s.setTask tid { k with gain := min (v.toNat % 16) 12 }) ∧
    exec (.pmctlWrite core 0 v) s = .next (s.setTask tid { k with pmctl := (v &&& ~~~0xFFC) ||| (k.pmctl &&& 4) }) ∧
    (∀ i, 0 < i → i < 16 → exec (.pmctlWrite core i v) s = .next s) ∧
    ((s.core core).dbgHeld = true → exec (.pmctlWrite core 16 v) s =
      .next (s.setTask tid { k with pmctl := (k.pmctl &&& ~~~4) ||| (if v.getLsbD 2 then 4 else 0) })) ∧
    exec (.trbaseWrite core 0 v) s = .next (s.setTask tid { k with trbase := trbaseOf v }) ∧
    (∀ n < 4, exec (.moncfgWrite core n v) s = .next (s.setCore core { s.core core with
      mons := AMap.put (s.core core).mons n (Monitor.cleared (moncfgOf v)) })) ∧
    (∀ m < 4, ∀ x < 2 ^ 64, ((s.core core).mon m).cfg.toNat % 256 ≠ 0 → ((s.core core).mon m).cfg.toNat % 256 < 16 →
      exec (.monitorSample core m x) s =
      .next (s.setCore core { s.core core with mons := AMap.put (s.core core).mons m (((s.core core).mon m).sample x) })) ∧
    (∀ m < 4, ∀ x, ((s.core core).mon m).cfg.toNat % 256 = 0 ∨ 16 ≤ ((s.core core).mon m).cfg.toNat % 256 →
      exec (.monitorSample core m x) s = .next s)

/-- The events of a core.
Where the spec leaves a point open it follows the model's choice: log entries 29, 41, 52 and 83. -/
def Obligations.CoreEventsAct : Prop :=
  Stated.IssueGroupsForm ∧ Stated.MatchedThreadsEnterHandlers ∧ Stated.SpentHandlersEnd ∧ Stated.DebuggersStopAndResume ∧
    Stated.DeadlocksStopControlThread ∧ Stated.ExitsComplete ∧ Stated.SfuEntriesComplete ∧ Stated.TcfgWritesConfigureTiles ∧
    Stated.SpecialRegistersTakeWrites

/-! ## Events of pages and remote operations -/

/-- R393, R399, R417, R401: a walk that a request waits for, and the walk of an access that its home refused, leave the translation of a
leaf that is not migrating, has a lease and is not POI in the cluster's cache, with the lease of its class, while no copy of chip time of
the cluster and its die is UNSYNC (R404). -/
def Stated.WalksFillTranslations : Prop :=
  ∀ (s : State) (cl ctx : Nat) (va e : Word) (size : Nat) (peer : Bool),
    (s.cluster cl).time.st ≠ .unsync → (s.die (dieOf cl)).time.st ≠ .unsync → regionOf va.toNat = .dev → s.walkDev ctx va.toNat = .leaf e size peer → leafMig e = false →
    leafPoi e = false → leafLease e ≠ 0 → s.podOk (s.leaseOf false e peer).2 = true →
    let tr : Trans := { ctx := ctx, page := va.toNat / size, size := size, leaf := e, host := false
                        expiry := (s.die (dieOf cl)).time.read s.now + (s.leaseOf false e peer).1, skew := (s.leaseOf false e peer).2 }
    (s.walkAsked cl ctx va.toNat = true → ∃ t, exec (.pageWalk cl ctx va) s = .next t ∧ tr ∈ (t.cluster cl).tlb ∧ t.mem = s.mem) ∧
    (∀ core slot tid, core / 16 = cl → s.running core = some tid → s.bufferOf core slot = none → (s.task tid).ctx = ctx →
      (s.thread tid slot).st = .waiting (.page va) →
      ∃ t, exec (.accessReissue core slot) s = .next t ∧ tr ∈ (t.cluster cl).tlb ∧ t.mem = s.mem)

/-- R399: at its expiry on the cluster's copy of chip time a translation is gone; the others stay. -/
def Stated.LeasesExpire : Prop :=
  ∀ (s : State) (cl : Nat), ∃ t, exec (.leaseExpiry cl) s = .next t ∧ t = { s with clusters := t.clusters, cores := t.cores } ∧
    t.cluster cl = { s.cluster cl with tlb := (s.cluster cl).tlb.filter fun x => s.clusterTime cl < x.expiry } ∧
    ∀ i < 16, (t.core (16 * cl + i)).dcache = (s.core (16 * cl + i)).dcache.filter (fun l => s.clusterTime cl < l.expiry) ∧
      (t.core (16 * cl + i)).icache = (s.core (16 * cl + i)).icache.filter (fun l => s.clusterTime cl < l.expiry)

/-- R223, R230, R470, R528: a buffered store that overlaps no older one of its core goes to its home: it is written there and leaves the
buffer, or it is not performed and its fault pends: 0x53 at a lost stack, 0x64 at an active synchronisation object. -/
def Stated.StoresPerformAtHome : Prop :=
  ∀ (s : State) (core tid slot : Nat) (e : BufStore) (p : StorePart), s.bufferOf core slot = some tid →
    (s.thread tid slot).wbuf = [e] → e.parts = [p] → isView (leafFmt p.tr.leaf) = false → p.tr.host = false →
    p.sent = none → s.meetsAny p ((s.task tid).olderParts e.age) = false →
    let active := s.lineActive (s.storageLines p.tr p.va p.bytes.length)
    (s.home p.tr p.va p.bytes.length = .ready → active = false →
      exec (.storePerform core slot 0) s = .next (((s.homeWrite p.tr p.va p.bytes).updateLines (s.task tid).core (s.task tid).ctx
        p.va p.tr p.bytes).setEntry tid slot e.age [])) ∧
    (s.home p.tr p.va p.bytes.length = .ready → active = true →
      exec (.storePerform core slot 0) s = .next ((s.pendFault tid (storeFault slot 0x64 1 p.first)).setEntry tid slot e.age [])) ∧
    (s.home p.tr p.va p.bytes.length = .lost →
      exec (.storePerform core slot 0) s = .next ((s.pendFault tid (storeFault slot 0x53 1 p.first)).setEntry tid slot e.age []))

/-- R215, R228: the atomic that a waiting thread holds takes its turn: it executes from the words it holds. -/
def Stated.HeldAtomicsTakeTurn : Prop :=
  ∀ (s : State) (core tid slot len : Nat) (w : Nat × Nat × Nat) (wt : Wait) (f : State → State × Res), s.running core = some tid →
    (s.thread tid slot).st = .waiting wt → (s.thread tid slot).held = some w → heldAtomic w.1 w.2.1 = some (len, f) →
    exec (.atomicAtHome core slot) s = .next
      { (State.settle len (f { s with cur := (tid, slot), curW := w })).holdIfStopping tid slot with cur := s.cur, curW := s.curW }

/-- R405, R406, R408: firmware stores an entry of a page table; one that ends a migration takes the page's synchronisation objects to the new
frame and revokes no further one, another that revokes a mapping puts the old frame under the reuse rule, for L + 2S, and one that gives up a
migration ends its wait for the raw copy; after that time, and when no raw copy is to read it, the frame is free of it. -/
def Stated.RevokedFramesWait : Prop :=
  (∀ (s : State) (ctx pa : Nat) (v : Word) (cls : Nat) (peer : Bool), pa % 8 = 0 → pa < 2 ^ 42 →
    let old := BitVec.ofNat 64 (leNat ((s.mem.readSp .dev pa 8).map PByte.b))
    exec (.firmwareLeafStore ctx pa v cls peer) s = .next { s.dropReplicas (linesOf pa 8) with
      mem := s.mem.writeSp .dev pa (pbytes 8 v.toNat false) 1
      objs := if endsMove old v then s.objs.map fun o => o.moved old v else s.objs
      reuse := if endsMove old v then s.reuse
        else (if leafPres old && leafMig old && !leafMig v then s.reuse.filter fun r => !(r.copy && r.pa == leafPa old && r.ctx == ctx)
            else s.reuse)
          ++ if revokes old v then [{ pa := leafPa old, at_ := s.now + reuseWait old (min cls 14) peer, ctx := ctx, copy := beginsMove old v }]
            else [] }) ∧
  (∀ (s : State) (i : Nat) (r : Reuse), s.reuse[i]? = some r →
    (r.at_ ≤ s.now → r.copy = false → exec (.frameReuseWaitElapsed i) s = .next { s with reuse := s.reuse.eraseIdx i }) ∧
    (s.now < r.at_ ∨ r.copy = true → exec (.frameReuseWaitElapsed i) s = .next s))

/-- R411, R412: an ATS Invalidation Request is answered after L(HLEASE.CLASS) + 16 ns, once no cached translation of the range may be used; a
released extent is not translated from then on, its Modified lines are written back and the release is acknowledged; a forced release discards them
and joins the host poison list of 16 entries. Modified lines are of 64 bytes (log entry 106). -/
def Stated.HostExtentsGo : Prop :=
  ∀ s : State,
    (∀ va len, exec (.atsInvalidationRequest va len) s =
      .next { s with ats := s.ats ++ [⟨va.toNat, len, s.now + leaseNs s.hlease + 16⟩] }) ∧
    (∀ i a, s.ats[i]? = some a → a.at_ ≤ s.now → s.atsQuiet a.va a.len = true → exec (.atsInvalidationCompletion i) s =
      .next (({ s with ats := s.ats.eraseIdx i } : State).send 0 msgAtsDone [a.va, a.len])) ∧
    (∀ i a, s.ats[i]? = some a → s.now < a.at_ ∨ s.atsQuiet a.va a.len = false → exec (.atsInvalidationCompletion i) s = .next s) ∧
    (∀ va len, exec (.dcdReleaseNotice va len) s =
      .next (({ s with dcdGone := s.dcdGone ++ [(va.toNat, len)], hostMod := s.hostMod.filter fun h => !rangesMeet h.va 64 va.toNat len } : State).send 0 msgReleased [va.toNat, len])) ∧
    (∀ va len, s.hostPoison.length < 16 → exec (.dcdForcedRelease va len) s =
      .next { s with
        hostPoison := extInsert s.hostPoison (va.toNat, len), hostMod := s.hostMod.filter fun h => !rangesMeet h.va 64 va.toNat len
        mem := (s.hostMod.filter fun h => rangesMeet h.va 64 va.toNat len).foldl (fun m h => m.write h.key h.bytes) s.mem }) ∧
    (∀ va len, s.hostPoison.length = 16 → (∀ e ∈ s.hostPoison, e.1 < 2 ^ 64) → ∃ t, exec (.dcdForcedRelease va len) s = .next t ∧ t.hostPoison.length = 16)

/-- R401, R439: a target answers a repeated request from its record, refuses an expired one with NOTPERF, and performs another: a read
gives LEN bytes of memory (log entry 103), and the response is recorded for 200 µs; a stack in SELF holds a request for it (R468). -/
def Stated.TargetsAnswerRequests : Prop :=
  (∀ (s : State) (p : Packet) (r : TargetRec), p.kind ≤ 2 → s.targets.find? (fun r => r.src == p.src && r.opseq == p.opseq) = some r →
    exec (.remoteRequestReceive p) s = .next (s.sendPacket r.reply)) ∧
  (∀ (s : State) (p : Packet), p.kind = 0 → (∀ r ∈ s.targets, r.src = p.src → r.opseq ≠ p.opseq) →
    (p.expiry ≤ s.now + 40 →
      exec (.remoteRequestReceive p) s = .next (s.sendPacket { responseTo p 3 with notPerf := true })) ∧
    (s.now + 40 < p.expiry → s.wayIn p = true → (∀ k ∈ touchedStacks p, (s.stack k).th ≠ .self) →
      let s' := s.countAccess p.ctx (p.addr % 2 ^ 40) p.len false
      let q := carry (responseTo p 3) (s.paBytes (p.addr % 2 ^ 40) p.len)
      exec (.remoteRequestReceive p) s =
        .next (({ s' with targets := s.targets ++ [⟨p.src, p.opseq, q, s.now⟩] } : State).sendPacket q)) ∧
    (s.now + 40 < p.expiry → s.wayIn p = true → ∀ k, touchedStacks p ≠ [] → (∀ j ∈ touchedStacks p, j = k) → (s.stack k).th = .self → (s.stack k).lost = false →
      exec (.remoteRequestReceive p) s = .next (s.holdAt k (.request p)))) ∧
  (∀ (s : State) (src n : Nat), exec (.targetRecordExpiry src n) s =
    .next { s with targets := s.targets.filter fun r => !(r.src == src && r.opseq == n && r.at_ + 200000 ≤ s.now) })

/-- R439, R440: a response ends the operation that it answers, whose copies are sent no more, and a thread that waits for a load takes its bytes;
one that answers none is ignored; a request unanswered for 20 µs is sent again, and after 100 µs abandoned, unless a planned change awaits it. -/
def Stated.RequestersEndOperations : Prop :=
  (∀ (s : State) (p : Packet), 3 ≤ p.kind → p.kind ≤ 5 → (∀ r ∈ s.remotes, r.target = p.src → r.opseq ≠ p.opseq) →
    exec (.remoteResponseReceive p) s = .next s) ∧
  (∀ (s : State) (p : Packet) (r : RemoteOp) (tid slot tag : Nat), p.kind = 3 → p.notPerf = false → s.remotes = [r] → r.target = p.src →
    r.opseq = p.opseq → r.who = .load tid slot tag → r.pkt.kind = 0 → s.ldrains = [] → (s.thread tid slot).waits = true →
    exec (.remoteResponseReceive p) s = .next (({ s.dropCopies r with remotes := [] } : State).setThread tid slot
      { s.thread tid slot with got := (s.thread tid slot).got ++ [(tag, carried p)] })) ∧
  (∀ (s : State) (r : RemoteOp), s.remotes = [r] → r.held = false →
    (r.last + 20000 ≤ s.now → exec (.remoteRetryTimeout r.target r.opseq) s =
      .next (({ s with remotes := [{ r with last := s.now }] } : State).sendPacket r.pkt)) ∧
    (s.now < r.last + 20000 → exec (.remoteRetryTimeout r.target r.opseq) s = .next s) ∧
    (r.first + 100000 ≤ s.now → s.inChange r = false →
      ∃ t, exec (.remoteAbandonTimeout r.target r.opseq) s = .next t ∧ (∀ tid tag, r.who = .engine tid tag → s.ldrains = [] →
        t = ({ s.dropCopies r with remotes := [] } : State).giveEngine tid tag 0x41 [])) ∧
    (s.now < r.first + 100000 → exec (.remoteAbandonTimeout r.target r.opseq) s = .next s))

/-- R437: the switch sends a packet on over the candidate port with the most credits that the turn rule allows; with none, or while
it has no room there, it waits. -/
def Stated.PacketsAreForwarded : Prop :=
  ∀ (s : State) (i : Nat) (q : Queued), s.vqueue[i]? = some q → q.pkt.dst ≠ s.self →
    (s.pick q.a q.v q.pkt.dst = none → exec (.packetForward i) s = .next s) ∧
    (∀ port vc, s.pick q.a q.v q.pkt.dst = some (port, vc) →
      let lane := s.bestLane port vc
      let fits := s.canTake port lane vc (((packetBytes q.pkt).length + 239) / 240)
      (fits = false → exec (.packetForward i) s = .next s) ∧
      (fits = true → ∃ t, exec (.packetForward i) s = .next t ∧ t.vqueue = s.vqueue.eraseIdx i ∧ t.mem = s.mem ∧
        (t.port port).lanes = (((s.unqueue i).port port).sendPacket lane vc q.pkt).lanes))

/-- The events of pages, of buffered stores and of remote operations.
Where the spec leaves a point open it follows the model's choice: log entries 17, 26, 70, 71, 72, 76 and 87. -/
def Obligations.PageAndRemoteEventsAct : Prop :=
  Stated.WalksFillTranslations ∧ Stated.LeasesExpire ∧ Stated.StoresPerformAtHome ∧ Stated.HeldAtomicsTakeTurn ∧ Stated.RevokedFramesWait ∧
    Stated.HostExtentsGo ∧ Stated.TargetsAnswerRequests ∧ Stated.RequestersEndOperations ∧ Stated.PacketsAreForwarded

/-! ## Events of the engines -/

/-- The copy's number has retired and the copy has left its queue (R241, R245). -/
def Stated.CopyGone (t : State) (o : CopyOp) : Prop :=
  o.seq ∉ ((t.task o.tid).line 0).live ∧ ∀ p ∈ (t.cluster o.cluster).copies, ¬(p.tid = o.tid ∧ p.seq = o.seq)

/-- R237, R245, R248: a unit of a set of the core memory of a task on its core writes its pattern there; the copy goes on behind it, or ends
and retires. Of any copy, a unit that moves its bytes takes the copy on behind them, one that stalls leaves it where it is, and a fault ends
it. -/
def Stated.CopyUnitsMove : Prop :=
  (∀ (s : State) (core : Nat) (o : CopyOp), s.copyAt core o.seq = some o → o.cluster = core / 16 → o.fn = 2 → o.raw = false →
    o.isTile = false → o.toTile = false → o.row = 0 → o.rows = 1 → (s.task o.tid).onCore = true → o.off < o.len → cmBase ≤ o.dst.toNat → o.dst.toNat + o.len ≤ 2 ^ 64 →
    (∀ i < o.len, s.cmHole o.tid (o.dst.toNat + i - cmBase) = false) →
    ∃ t, exec (.copyUnit core o.seq) s = .next t ∧
      t.mem = s.mem.write (s.cmOf o.tid (o.dst.toNat + o.off - cmBase)) (o.pattern o.off o.unitSize) ∧
      (o.off + o.unitSize < o.len → ∃ p ∈ (t.cluster o.cluster).copies, p.tid = o.tid ∧ p.seq = o.seq ∧ p.off = o.off + o.unitSize) ∧
      (o.off + o.unitSize = o.len → Stated.CopyGone t o)) ∧
  ∀ (s : State) (core : Nat) (o p : CopyOp) (u : State), s.copyAt core o.seq = some o →
    (∀ n, o.compared = false → s.unit o (s.unitSize o) = (u, p, .moved n) →
      exec (.copyUnit core o.seq) s = .next ((u.setCopy p).advance p n)) ∧
    (∀ n, o.compared = true → s.unit o 8 = (u, p, .moved n) → exec (.copyUnit core o.seq) s = .next (u.endCopy p none)) ∧
    (∀ w, s.unit o (s.unitSize o) = (u, p, .stall w) → exec (.copyUnit core o.seq) s = .next ((u.setCopy p).noteStall p w)) ∧
    (∀ c b, s.unit o (s.unitSize o) = (u, p, .fail c b) → exec (.copyUnit core o.seq) s = .next (u.endCopy p (some (c, b))))

/-- R409: a copy renews the translations of its next unit's pages that are due, with a walk of the unit's first byte there: it keeps the result of a
walk that finds the page as it was and still grants what the copy needs of it; a page that has moved, or no longer grants it, ends the copy with
0x62 at that page. A copy that stalled there for a migration takes the page as it is found. -/
def Stated.CopiesRenewLeases : Prop :=
  ∀ (s : State) (core : Nat) (o : CopyOp), s.copyAt core o.seq = some o → o.cluster = core / 16 →
    ((∀ x ∈ o.trs, s.near o.cluster x = false ∨ s.unitIn o x = none) → exec (.copyLeaseRenewal core o.seq) s = .next (s.setCopy o)) ∧
    (∀ x a s' u, o.trs = [x] → s.near o.cluster x = true → s.unitIn o x = some a → s.walkFor o.cluster (s.task o.tid).ctx a = (s', .ok u) →
      (o.onMigPage x = true ∨ (x.changed u = false ∧ ∀ k ∈ o.needs x, permits u.leaf k = true)) →
      exec (.copyLeaseRenewal core o.seq) s = .next (s'.setCopy (o.keep [u])) ∧ u ∈ (o.keep [u]).trs) ∧
    (∀ x a s' u, o.trs = [x] → s.near o.cluster x = true → s.unitIn o x = some a → s.walkFor o.cluster (s.task o.tid).ctx a = (s', .ok u) →
      o.onMigPage x = false → (x.changed u = true ∨ ∃ k ∈ o.needs x, permits u.leaf k = false) →
      ∃ t, exec (.copyLeaseRenewal core o.seq) s = .next t ∧ Stated.CopyGone t o ∧
        ∃ p ∈ (t.task o.tid).pend, p.code = 0x62 ∧ p.addr = x.base ∧ p.seq = o.seq ∧ p.ctr = 0)

/-- R238: a round of the arbitration serves the cluster's 16 queues in turn: one with a unit ready to move gains 32 bytes of deficit for each
unit of its weight, which is 16 unless set, and moves units while they fit; one without keeps no deficit, though its commands do what their
stalls do. A unit larger than the deficit waits, and one that moves costs its bytes. -/
def Stated.IdleQueuesKeepNoDeficit : Prop :=
  (∀ (s : State) (cl : Nat),
    let turn (u : State) (i : Nat) : State :=
      let core := 16 * cl + i
      let put (v : State) (d : Nat) : State := v.setCluster cl { v.cluster cl with deficit := AMap.put (v.cluster cl).deficit i d }
      let d := AMap.get (u.cluster cl).deficit i 0 + AMap.get (u.cluster cl).weight i 16 * 32
      let v := (u.serveOne core (2 ^ 64)).1
      if u.unitReady core then (put u d).serve core (d + 512)
      else if AMap.get (v.cluster cl).deficit i 0 = 0 then v else put v 0
    exec (.cmeArbitrationRound cl) s = .next ((List.range 16).foldl turn s)) ∧
  (∀ (s : State) (core fuel : Nat),
    let cl := core / 16
    let d := AMap.get (s.cluster cl).deficit (core % 16) 0
    ((∀ o ∈ (s.queueOf core).take 8, d < s.unitSize o) → s.serve core fuel = s) ∧
    ∀ o rest u n, (s.queueOf core).take 8 = o :: rest → s.unitSize o ≤ d → s.copyStep o = (u, some n) →
      s.serve core (fuel + 1) = (u.setCluster cl { u.cluster cl with
        deficit := AMap.put (u.cluster cl).deficit (core % 16) (d - n) }).serve core fuel) ∧
  ∀ (s : State) (cl : Nat), (∀ i < 16, s.queueOf (16 * cl + i) = []) →
    ∃ t, exec (.cmeArbitrationRound cl) s = .next t ∧ (t.cluster cl).copies = (s.cluster cl).copies ∧ t.mem = s.mem ∧
      ∀ i < 16, AMap.get (t.cluster cl).deficit i 0 = 0

/-- R294, R295: an operation that reaches its unit gets the next number of tl1 and a staging entry, and its thread goes on with the number in
its register; or its thread stops with the fault that the unit answers. -/
def Stated.OperationsArrive : Prop :=
  ∀ (s : State) (core tid slot cl : Nat) (o : OmuOp) (w : Nat × Nat × Nat), s.running core = some tid → s.issuedOp tid slot = some (cl, o) →
    (s.thread tid slot).st = .waiting .omu → (s.thread tid slot).held = some w → (s.core (s.task tid).core).dbgStop = false →
    let n := ((s.task tid).line 1).issued + 1
    (s.arrivalFault cl o = none → (s.cluster cl).staged.length < 32 →
      ∃ t, exec (.passArrival core slot) s = .next t ∧
        (t.cluster cl).staged = (s.cluster cl).staged ++ [{ o with seq := n, since := (s.cluster cl).clock }] ∧
        (t.thread tid slot).st = .ready ∧ (t.thread tid slot).pc = (s.thread tid slot).pc + 8 ∧
        ((t.task tid).line 1).issued = n ∧ (o.dest ≠ 0 → (t.thread tid slot).xr o.dest = BitVec.ofNat 64 n)) ∧
    (∀ code, s.arrivalFault cl o = some code →
      ∃ t, exec (.passArrival core slot) s = .next t ∧ (t.thread tid slot).st = .stopped ∧
        ((t.thread tid slot).frec.map fun r => r.code) = some code ∧ (t.cluster cl).staged = (s.cluster cl).staged)

/-- R294, R298, R304: the oldest staged pass enters IN-FLIGHT while the commit buffer has a free entry: its A chunks are captured, and each
bank that it uses counts it; behind a bank that is not loaded it fails with 0x21. -/
def Stated.PassesStream : Prop :=
  ∀ (s : State) (cl : Nat) (o : OmuOp) (m : MxpW) (xb : Word) (st : Bool), (s.cluster cl).nextOp = some o → o.kind = .pass m xb st →
    s.omuAvail cl = true → (s.cluster cl).omuHeld.length < 16 →
    (o.banks.all (bitAt (s.cluster cl).loaded) = true →
      ∃ t f, exec (.passStreamStart cl) s = .next t ∧ t = s.setCluster cl (t.cluster cl) ∧ (t.cluster cl).flight = some f ∧
        f.seq = o.seq ∧ f.cells = (s.readA cl m xb o.gain).map Prod.fst ∧ (t.cluster cl).staged = (s.cluster cl).staged.drop 1 ∧
        (o.banks.Nodup → ∀ b ∈ o.banks, AMap.get (t.cluster cl).since b 0 = AMap.get (s.cluster cl).since b 0 + 1)) ∧
    (o.banks.all (bitAt (s.cluster cl).loaded) = false → exec (.passStreamStart cl) s = .next (s.endPass cl o (some 0x21)))

/-- R294, R299, R304: the pass in flight is detected: its codes are clamped to 511, it is HELD until its banks' probes, and a probe is due of
each loaded bank that PRB or the number of passes asks for. -/
def Stated.PassesAreDetected : Prop :=
  ∀ (s : State) (cl : Nat) (o : OmuOp) (m : MxpW) (xb : Word) (st : Bool), (s.cluster cl).flight = some o → o.kind = .pass m xb st →
    (s.cluster cl).omuHeld = [] → o.open_ ≠ [] →
    ∃ t h, exec (.passDetected cl) s = .next t ∧ (t.cluster cl).flight = none ∧ (t.cluster cl).omuHeld = [h] ∧ h.seq = o.seq ∧
      t.mem = s.mem ∧ (∀ c ∈ h.cells, ∀ l ∈ c.codes, ∀ v ∈ l, -511 ≤ v ∧ v ≤ 511) ∧
      ∀ b, b ∈ (t.cluster cl).due ↔ b ∈ (s.cluster cl).due ∨
        (b ∈ o.banks ∧ bitAt (s.cluster cl).loaded b = true ∧ (m.prb = true ∨ (s.cluster cl).phprobe ≤ AMap.get (s.cluster cl).since b 0))

/-- R303 to R305, R300: a probe's residual is the largest difference of the detectors' responses from the expected ones; the probe that closes the
last open bank of a HELD pass commits it, or, with a residual over DRLIMIT, fails it with 0x20 and leaves C as it was. -/
def Stated.ProbesCloseWindows : Prop :=
  ∀ (s : State) (cl b : Nat) (ms : List Int) (o : OmuOp) (m : MxpW) (xb : Word), b < 16 → s.omuAvail cl = true → bitAt (s.cluster cl).loaded b = true →
    (s.cluster cl).flight = none → (s.cluster cl).due = [] → (s.cluster cl).staged = [] → (s.cluster cl).copies = [] →
    (s.cluster cl).omuHeld = [o] → o.open_ = [b] → o.kind = .pass m xb false → (AMap.find? s.tasks o.tid).isSome = true →
    let e := s.residualOf cl b ms
    ∃ t, exec (.omuProbe cl b ms) s = .next t ∧ (t.cluster cl).omuHeld = [] ∧ (t.cluster cl).emax = min e 255 ∧ (t.cluster cl).pbank = b ∧
      ((t.cluster cl).drwarn = decide ((s.cluster cl).drlimit < 2 * e)) ∧
      (e ≤ (s.cluster cl).drlimit → t.mem = (s.commit cl (o.closed b e) m xb).mem ∧ (t.cluster cl).enobp = enobOf e ∧
        (t.task o.tid).pend = (s.task o.tid).pend) ∧
      ((s.cluster cl).drlimit < e → t.mem = s.mem ∧
        ∃ p ∈ (t.task o.tid).pend, p.code = 0x20 ∧ p.ctr = 1 ∧ p.seq = o.seq ∧ p.slot = o.slot)

/-- An operation of tl1 has retired and has left its unit (R241, R294). -/
def Stated.OmuGone (t : State) (cl : Nat) (o : OmuOp) : Prop :=
  o.seq ∉ ((t.task o.tid).line 1).live ∧ ∀ p ∈ (t.cluster cl).staged, ¬(p.tid = o.tid ∧ p.seq = o.seq)

/-- An operation of tl1 has failed: it is gone and its fault pends. -/
def Stated.OmuFailed (t : State) (cl : Nat) (o : OmuOp) (code addr : Nat) : Prop :=
  Stated.OmuGone t cl o ∧ ∃ p ∈ (t.task o.tid).pend, p.code = code ∧ p.ctr = 1 ∧ p.seq = o.seq ∧ p.addr = addr

/-- R307, R314: the thermal loop's eight measurements are kept, and since when they show no lock (R461); a tile is zeroed with its poison; the sums
of two tiles' elements go to the first. -/
def Stated.TilesAreComputed : Prop :=
  ∀ (s : State) (cl : Nat),
    (∀ errs : List Int, errs.length = 8 →
      let c := { s.cluster cl with terr := errs }
      exec (.omuThermalLoop cl errs) s =
        .next (s.setCluster cl { c with unlockAt := if c.lock then none else some (c.unlockAt.getD s.now) })) ∧
    (∀ o n, (s.cluster cl).nextOp = some o → o.kind = .tzero n → (AMap.find? s.tasks o.tid).isSome = true →
      ∃ t, exec (.omuTzero cl) s = .next t ∧ t.mem = s.mem.zero (tileKey cl n 0) 69632 ∧ Stated.OmuGone t cl o) ∧
    (∀ o n m, (s.cluster cl).nextOp = some o → o.kind = .tacc n m → (AMap.find? s.tasks o.tid).isSome = true →
      let c := AMap.get (s.cluster cl).tcfg n 0
      let words := tcfgRows c * tcfgRow c / 4
      ∃ t, exec (.omuTacc cl) s = .next t ∧ Stated.OmuGone t cl o ∧
        t.mem = s.mem.write (tileKey cl n 0) ((List.range words).flatMap fun i =>
          taccElem (((s.mem.read (tileKey cl n 0) (4 * words)).drop (4 * i)).take 4)
            (((s.mem.read (tileKey cl m 0) (4 * words)).drop (4 * i)).take 4)))

/-- R290, R319: a phase load of a good image whose probe succeeds loads the bank for its context; one with a bad image fails with
0x13, one whose probe fails with 0x20, and the bank is not loaded; a trim of a bank that is not loaded fails with 0x21, that of a loaded one keeps the
attenuator and output phase codes that it finds within 8 codes of the old ones; an invalidated bank is not loaded. -/
def Stated.PhaseOperationsRun : Prop :=
  ∀ (s : State) (cl : Nat) (o : OmuOp), s.phaseNext cl = some o → (AMap.find? s.tasks o.tid).isSome = true → (s.cluster cl).omuHeld = [] →
    let c := s.cluster cl
    (∀ b va s' bs ms, o.kind = .phld b va → s.imageRead o.tid o.slot o.seq va.toNat = (s', .bytes bs) → (s'.cluster cl).omuHeld = [] →
      let c' := s'.cluster cl
      let e := (s'.loadBank cl b (s'.task o.tid).ctx bs).residualOf cl b ms
      (imgGood (bs.map PByte.b) = true → e ≤ c'.drlimit →
        ∃ t, exec (.omuPhld cl ms) s = .next t ∧ bitAt (t.cluster cl).loaded b = true ∧ (t.cluster cl).bankCtx = (s'.task o.tid).ctx + 1 ∧
          bitAt (t.cluster cl).bankPois b = bs.any PByte.p ∧
          t.mem = s'.mem.write (bankKey cl b 0) (bs.map fun x => ⟨x.b, false⟩) ∧ Stated.OmuGone t cl o) ∧
      (imgGood (bs.map PByte.b) = false →
        ∃ t, exec (.omuPhld cl ms) s = .next t ∧ bitAt (t.cluster cl).loaded b = false ∧ t.mem = s'.mem ∧ Stated.OmuFailed t cl o 0x13 va.toNat) ∧
      (imgGood (bs.map PByte.b) = true → c'.drlimit < e →
        ∃ t, exec (.omuPhld cl ms) s = .next t ∧ bitAt (t.cluster cl).loaded b = false ∧ Stated.OmuFailed t cl o 0x20 0)) ∧
    (∀ b trims ms, o.kind = .phtrim b →
      let e := s.residualOf cl b ms
      (bitAt c.loaded b = false → ∃ t, exec (.omuPhtrim cl trims ms) s = .next t ∧ Stated.OmuFailed t cl o 0x21 0 ∧ t.mem = s.mem) ∧
      let ok := trims.filter (trimOk s.mem (bankKey cl b 0))
      let once := ok.filter fun x => (ok.filter fun y => y.1 == x.1).length == 1
      bitAt c.loaded b = true →
        ∃ t, exec (.omuPhtrim cl trims ms) s = .next t ∧ t.mem = once.foldl (fun m x => m.setCode (bankKey cl b 0) x.1 x.2) s.mem ∧
          (e ≤ c.drlimit → Stated.OmuGone t cl o ∧ (t.cluster cl).enobp = enobOf e) ∧
          (c.drlimit < e → Stated.OmuFailed t cl o 0x20 0)) ∧
    (∀ b va, o.kind = .phrd b va →
      (bitAt c.loaded b = false → ∃ t, exec (.omuPhrd cl) s = .next t ∧ Stated.OmuFailed t cl o 0x21 0 ∧ t.mem = s.mem) ∧
      (∀ s' bs, bitAt c.loaded b = true → s.imageWrite o.tid o.seq 1 va.toNat (s.bankImage cl b) = (s', .bytes bs) →
        exec (.omuPhrd cl) s = .next (s'.endPhase cl o none))) ∧
    (∀ b, o.kind = .phinv b → ∃ t, exec (.omuPhinv cl) s = .next t ∧ bitAt (t.cluster cl).loaded b = false ∧ Stated.OmuGone t cl o)

/-- R311, R463: a decomposition of a matrix with a NaN or an infinity fails with 0x13 at its first one, and writes nothing; one whose images
are written retires; once its die has no engine left it fails with 0x24. A queued decomposition runs whatever becomes of the light (log entry
92). -/
def Stated.DecompositionsRun : Prop :=
  (∀ (s : State) (d : Nat) (o : DcmpOp), (s.die d).dcmp = [o] → s.engines d = 0 →
    exec (.dcmpExecute d) s = .next (s.endDcmp d o (some (0x24, 0)))) ∧
  ∀ (s : State) (d : Nat) (o : DcmpOp), (s.die d).dcmp = [o] → 0 < s.engines d →
    (∀ s' bs, s.decompose o = (s', .bytes bs) → exec (.dcmpExecute d) s = .next (s'.endDcmp d o none)) ∧
    (∀ s' bs i, s.matrixRead o = (s', .bytes bs) →
      notFinite ((List.range 4096).map fun i => leNat (((bs.drop (4 * i)).take 4).map PByte.b)) 0 = some i →
      ∃ t, exec (.dcmpExecute d) s = .next t ∧ t.mem = s'.mem ∧ ((s'.die d).dcmp = [o] → (t.die d).dcmp = []) ∧
        ∃ p ∈ (t.task o.tid).pend, p.code = 0x13 ∧ p.ctr = 1 ∧ p.seq = o.seq ∧ p.addr = o.src.toNat + 4 * i)

/-- The events of the memory engine, the optical matrix unit and the decomposition engines.
Where the spec leaves a point open it follows the model's choice: log entries 11, 22, 23, 24, 31, 59, 60, 61, 62, 63, 64, 65, 66, 67, 68 and 69. -/
def Obligations.EngineEventsAct : Prop :=
  Stated.CopyUnitsMove ∧ Stated.CopiesRenewLeases ∧ Stated.IdleQueuesKeepNoDeficit ∧ Stated.OperationsArrive ∧ Stated.PassesStream ∧
    Stated.PassesAreDetected ∧ Stated.ProbesCloseWindows ∧ Stated.TilesAreComputed ∧ Stated.PhaseOperationsRun ∧ Stated.DecompositionsRun

/-! ## Events of groups and kernels -/

/-- R331, R336: a sender's entry of one captured word is delivered into the receiver's core memory window and leaves the list, whatever the level
that the sender arrived at; on a core without a sender nothing happens. -/
def Stated.ExchangeEntriesRun : Prop :=
  ∀ (s : State) (core : Nat),
    (∀ (tid : Nat) (e : XEntry) (a : Arrival) (top g : Group) (m : Nat × Nat) (v : Word) (p : Bool),
      s.senders core = [tid] → s.nextEntry tid = some (a, e, top, g) → e.src = none → e.words = [(v, p)] → e.count = 1 → e.moved = 0 →
      e.level ≠ 4 → g.members.find? (fun m => m.2 == descRank e.desc) = some m →
      descRank e.desc ∉ g.gone → s.cmHole m.1 (8 * descWord e.desc) = false →
      ∃ t, exec (.exchangeEntryRun core) s = .next t ∧ (t.task tid).xlist = (s.task tid).xlist.erase e ∧
        t.mem = s.mem.write (s.cmOf m.1 (8 * descWord e.desc)) (pbytes 8 v.toNat p)) ∧
    (s.senders core = [] → exec (.exchangeEntryRun core) s = .next s)

/-- R324, R330: a group below level 4 whose members' entries are delivered enters RELEASING with the combined vote, as long as some arrived
member has not exited; while some member has entries to run it stays. -/
def Stated.GroupsRelease : Prop :=
  ∀ (s : State) (kid n gid : Nat) (g : Group), s.group? kid n gid = some g → g.st = .exchange → n ≠ 4 → g.level = n →
    (s.pendingIn g = false → s.sentIn g = false → (∃ x ∈ g.arr, x.1 ∉ g.freed ∧ x.1 ∉ g.gone) →
      ∃ t, exec (.groupEnterReleasing kid n gid) s = .next t ∧
        t.group? kid n gid = some { g with st := .releasing, vote := g.reduce.1, votep := g.reduce.2, relAt := s.now }) ∧
    (s.pendingIn g = true → exec (.groupEnterReleasing kid n gid) s = .next s)

/-- R330: a member's release takes effect while others are still to be released: its control thread goes on, VOTE and the destination of a
syncv hold the vote, its data cache is empty. -/
def Stated.MembersAreReleased : Prop :=
  ∀ (s : State) (core tid n : Nat) (w : Nat × Nat × Nat) (a : Arrival) (g : Group), s.running core = some tid →
    (s.thread tid 0).st = .waiting (.barrier n) → (s.thread tid 0).held = some w → (s.thread tid 0).arrival = some a →
    s.groupOf (s.task tid) a.level = some g → s.canRelease tid = true → (s.task tid).core = core → (s.core core).dbgStop = false →
    (∃ x ∈ g.arr, x.1 ≠ (s.task tid).rankAt a.level ∧ x.1 ∉ g.freed ∧ x.1 ∉ g.gone) →
    ∃ t, exec (.memberRelease core) s = .next t ∧ (t.thread tid 0).st = .ready ∧
      (t.thread tid 0).pc = (s.thread tid 0).pc + (if w.1 % 4 = 1 then 8 else 4) ∧ (t.thread tid 0).arrival = none ∧
      (t.task tid).vote = g.vote ∧ (t.core core).dcache = [] ∧
      (w.1 % 4 = 1 → BitVec.ofNat 5 (w.1 / 256) ≠ (0 : Reg) →
        (t.thread tid 0).xr (BitVec.ofNat 5 (w.1 / 256)) = g.vote ∧ (t.thread tid 0).xpr (BitVec.ofNat 5 (w.1 / 256)) = g.votep)

/-- R327, R341, R343: a level conflict, and the loss of a module of a level-4 group, break every group of the kernel. -/
def Stated.GroupsBreak : Prop :=
  ∀ (s : State) (kid : Nat),
    (s.levelConflict kid = true → ∃ t, exec (.levelConflictDetect kid) s = .next t ∧
      ∀ g ∈ t.groups, g.kid = kid → g.st = .broken ∨ g.st = .dissolved) ∧
    (s.levelConflict kid = false → exec (.levelConflictDetect kid) s = .next s) ∧
    ((∃ g ∈ s.groups, g.kid = kid ∧ g.level = 4) → ∃ t, exec (.peerLoss kid) s = .next t ∧
      ∀ g ∈ t.groups, g.kid = kid → g.st = .broken ∨ g.st = .dissolved)

/-- R348: a doorbell raises TAIL; a lower value is ignored; one beyond the ring is ignored with 0x71 in the fault ring. -/
def Stated.DoorbellsRaiseTail : Prop :=
  ∀ (s : State) (ctx q tail : Nat) (k : Queue), (s.ctx ctx).queue? q = some k → s.contained = false → tail < 2 ^ 64 →
    (tail < k.tail → exec (.doorbellWrite ctx q tail) s = .next s) ∧
    (k.tail ≤ tail → 2 ^ k.logq < tail - k.head →
      exec (.doorbellWrite ctx q tail) s = .next (s.ringPut ctx (s.noteRec 0x71 3 0 q tail))) ∧
    (k.tail ≤ tail → tail - k.head ≤ 2 ^ k.logq →
      exec (.doorbellWrite ctx q tail) s = .next (s.setQueue ctx q { k with tail := tail }))

/-- R348, R350, R351: the device takes the next record of a queue once it can write HEAD, which rises; a valid record becomes a QUEUED kernel,
another one none. A selected record whose audit block cannot be read yet waits (R367; log entry 19). -/
def Stated.RecordsAreTaken : Prop :=
  ∀ (s : State) (ctx q : Nat) (k : Queue) (bs : List PByte), (s.ctx ctx).queue? q = some k → (s.ctx ctx).st = .active → k.head < k.tail →
    s.engineRead ctx (k.ring + 128 + 128 * (k.head % 2 ^ k.logq)) 128 3 = some bs →
    let r := LaunchRec.ofBytes (bs.map PByte.b)
    (s.refusalWaits ctx q 0 r = true → exec (.launchRecordTake ctx q) s = .next s) ∧
    (s.refusalWaits ctx q 0 r = false →
      ((s.setQueue ctx q { k with head := k.head + 1 }).engineWrite ctx k.ring (pbytes 8 (k.head + 1) false) 3).isSome = true →
    ∃ t, exec (.launchRecordTake ctx q) s = .next t ∧ (((t.ctx ctx).queue? q).map fun k => k.head) = some (k.head + 1) ∧
      (s.refuses ctx q 0 r = true → t.kernels = s.kernels) ∧
      (s.refuses ctx q 0 r = false → ∃ j, t.kernels = s.kernels ++ [j] ∧ j.lrec = r ∧ j.st = .queued ∧ j.ctx = ctx ∧ j.q = q ∧ j.device = false)) ∧
    ((s.setQueue ctx q { k with head := k.head + 1 }).engineWrite ctx k.ring (pbytes 8 (k.head + 1) false) 3 = none →
      exec (.launchRecordTake ctx q) s = .next s)

/-- R353: a queued kernel leaves QUEUED in its queue's order: ELIGIBLE when its waits are met, FAULTED when one has ERR and its own
SIGNAL entry can be raised; else it stays. -/
def Stated.QueuedKernelsLeave : Prop :=
  ∀ (s : State) (kid : Nat) (k : Kernel), s.kernel? kid = some k → k.st = .queued →
    (s.firstQueued k = true → s.waitErr k = false → (∀ w ∈ k.lrec.waits, s.sigMet k.ctx w = true) →
      ∃ t, exec (.kernelEligible kid) s = .next t ∧ t.kernel? kid = some { k with st := .eligible, eligAt := s.now }) ∧
    (s.firstQueued k = false ∨ (∃ w ∈ k.lrec.waits, s.sigMet k.ctx w = false) → exec (.kernelEligible kid) s = .next s) ∧
    (s.firstQueued k = true → s.waitErr k = true → s.signalOpen k = true →
      ∃ t, exec (.kernelDependenceFault kid) s = .next t ∧ t.kernel? kid = some { k with st := .faulted, signalled := true }) ∧
    (s.waitErr k = false → exec (.kernelDependenceFault kid) s = .next s)

/-- R353, R368: a draining kernel, or a FAULTED one that has not signalled, ends once its tasks have ended, its operations have retired and its
SIGNAL entry can be raised: the draining one is COMPLETE, or waits for its audit when that gates it; its tasks and groups are gone. -/
def Stated.DrainedKernelsEnd : Prop :=
  ∀ (s : State) (kid : Nat) (k : Kernel), s.kernel? kid = some k → k.st = .draining ∨ (k.st = .faulted ∧ k.signalled = false) →
    k.replayOf = none →
    ((∀ tid ∈ s.tasksOf kid, (s.task tid).alive = false) → s.quiet kid = true → s.signalOpen k = true →
      ∃ t, exec (.kernelDrainComplete kid) s = .next t ∧
      ((t.kernel? kid).map fun j => j.st) = some (if k.st = .faulted then .faulted else if k.gated then .auditPending else .complete) ∧
      (∀ g ∈ t.groups, g.kid ≠ kid) ∧ ∀ x ∈ t.tasks, x.2.kid ≠ kid) ∧
    ((∃ tid ∈ s.tasksOf kid, (s.task tid).alive = true) ∨ s.quiet kid = false ∨ s.signalOpen k = false →
      exec (.kernelDrainComplete kid) s = .next s)

/-- R368: when the replay of a gated launch has ended, the launch is COMPLETE if their output regions match, FAULTED if not or if the replay is
FAULTED; while a region cannot be read the comparison waits. -/
def Stated.ReplaysAreCompared : Prop :=
  ∀ (s : State) (kid rid : Nat) (k r : Kernel), s.kernel? kid = some k → k.st = .auditPending → k.replay = some rid → s.kernel? rid = some r →
    (r.signalled = true → s.signalOpen k = true → r.st = .faulted ∨ s.compareWaits k r = false → ∃ t, exec (.replayCompare kid) s = .next t ∧
      ((t.kernel? kid).map fun j => (j.st, j.replay)) =
        some (if r.st = .faulted ∨ (s.firstMismatch k r).isSome then .faulted else .complete, none)) ∧
    (r.signalled = false ∨ s.signalOpen k = false ∨ (r.st ≠ .faulted ∧ s.compareWaits k r = true) → exec (.replayCompare kid) s = .next s)

/-- R341, R353, R374, R380, R385: a kernel that has not ended is FAULTED, its groups broken, when tasks of it marked for killing, or in the
teardown of its context all of them, are killed, each that is dumped being ready for its image; the tasks that a FAULTED kernel has left are
killed the same way. Without such tasks, and for a COMPLETE kernel, nothing happens. -/
def Stated.KernelsAreKilled : Prop :=
  ∀ (s : State) (kid : Nat) (k : Kernel), s.kernel? kid = some k →
    let left (tid : Nat) : Prop := tid ∈ s.tasksOf kid ∧ (s.task tid).alive = true
    (k.ended = false → (s.ctx k.ctx).st = .teardown ∨ (∃ tid, left tid ∧ (s.task tid).killing = true) →
      (∀ tid, left tid → (s.ctx k.ctx).st = .teardown ∨ (s.task tid).killing = true → s.killReady tid = true) →
      ∃ t, exec (.kernelKill kid) s = .next t ∧ ((t.kernel? kid).map fun j => j.st) = some .faulted ∧
        ∀ g ∈ t.groups, g.kid = kid → g.st = .broken ∨ g.st = .dissolved) ∧
    (k.st = .faulted → (∃ tid, left tid) → (∀ tid, left tid → s.killReady tid = true) →
      ∃ t, exec (.kernelKill kid) s = .next t ∧ ((t.kernel? kid).map fun j => j.st) = some .faulted ∧
        ∀ tid, left tid → (t.task tid).exited.isSome = true) ∧
    (k.ended = false → (s.ctx k.ctx).st ≠ .teardown → (∀ tid, left tid → (s.task tid).killing = false) →
      exec (.kernelKill kid) s = .next s) ∧
    (k.st = .complete ∨ (k.st = .faulted ∧ ∀ tid, ¬ left tid) → exec (.kernelKill kid) s = .next s)

/-- The events of groups, queues and kernels.
Where the spec leaves a point open it follows the model's choice: log entries 18, 34, 35, 40, 45, 46, 47, 48, 49, 55, 58 and 85. -/
def Obligations.GroupAndKernelEventsAct : Prop :=
  Stated.ExchangeEntriesRun ∧ Stated.GroupsRelease ∧ Stated.MembersAreReleased ∧ Stated.GroupsBreak ∧ Stated.DoorbellsRaiseTail ∧
    Stated.RecordsAreTaken ∧ Stated.QueuedKernelsLeave ∧ Stated.DrainedKernelsEnd ∧ Stated.ReplaysAreCompared ∧ Stated.KernelsAreKilled

/-! ## Events of dispatch and contexts -/

/-- R355, R357, R492: an entry that dispatch accepts binds its task to the core; one that breaks a limit, of a context without kernels too, is
reported with the limit's place in the table, and its event stands in the die's queue (log entry 122); a write with VALID = 0 clears the entry of
a slot whose task does not run; of a stopped core the write waits. -/
def Stated.EntriesBind : Prop :=
  ∀ (s : State) (core : Nat) (sh : Bool) (e : BindEntry) (frames : List Nat), core < 1536 →
    ((s.core core).dbgStop = true →
      ∃ t, exec (.bindEntryWrite core sh ⟨e, frames⟩) s = .next t ∧ CoreMsg.entry sh ⟨e, frames⟩ ∈ (t.core core).msgs ∧
        (t.core core).entry sh = (s.core core).entry sh ∧ t.tasks = s.tasks ∧ t.kernels = s.kernels) ∧
    ((s.core core).dbgStop = false →
    (∀ why, e.valid = true → s.dispatchRefuses core sh e ((s.kernel? e.kid).map Kernel.lrec) = some why →
      exec (.bindEntryWrite core sh ⟨e, frames⟩) s = 
        .next ((s.send toMgc msgRefused [core, sh.toNat, why]).queueEvent (dieOf (clusterOf core)) (.refused core sh why))) ∧
    (∀ k, e.valid = true → s.kernel? e.kid = some k → s.dispatchRefuses core sh e (some k.lrec) = none → e.restore = false →
      s.bindFits k core e = true → (k.selected = false ∨ k.bound.length + 1 ≠ k.lrec.cores) →
      ∃ t, exec (.bindEntryWrite core sh ⟨e, frames⟩) s = .next t ∧ (t.core core).entry sh = some e ∧
        (t.core core).bound sh = some (tidOf k.kid e.task) ∧ (t.task (tidOf k.kid e.task)).place = .saved core sh false ∧
        (t.task (tidOf k.kid e.task)).rank = e.task ∧ (t.task (tidOf k.kid e.task)).frame = e.frame) ∧
    (e.valid = false → (∀ tid, (s.core core).bound sh = some tid → (s.task tid).onCore = false) →
      ∃ t, exec (.bindEntryWrite core sh ⟨e, frames⟩) s = .next t ∧ (t.core core).entry sh = none ∧ (t.core core).bound sh = none))

/-- R124, R125, R356, R359: a bound task starts on its idle core: each thread up to HELPERS is READY at the entry point, with its stack, the
globals, ARGS and, of a helper, its slot in x1 to x4; the data cache is empty. -/
def Stated.TasksStart : Prop :=
  ∀ (s : State) (core tid : Nat) (sh : Bool) (e : BindEntry) (k : Kernel), (s.core core).entry sh = some e →
    (s.core core).bound sh = some tid → s.kernel? e.kid = some k → s.mayEnter core sh = true → e.restore = false →
    (s.task tid).fresh = true → (s.ctx k.ctx).st = .active → k.st = .bound ∨ k.st = .running →
    ∃ t, exec (.taskStart core sh) s = .next t ∧ (t.core core).run = some tid ∧ (t.task tid).place = .running core sh ∧
      (t.core core).dcache = [] ∧
      ∀ i ≤ k.lrec.helpers, (t.thread tid i).st = .ready ∧ (t.thread tid i).pc = BitVec.ofNat 64 (k.lrec.code + k.lrec.entry) ∧
        (t.thread tid i).xr 1 = BitVec.ofInt 64 (-((i * 16 * k.lrec.stack : Nat) : Int)) ∧
        (t.thread tid i).xr 2 = BitVec.ofNat 64 (s.ctx k.ctx).desc.globals ∧ (t.thread tid i).xr 3 = BitVec.ofNat 64 k.lrec.args ∧
        (t.thread tid i).xr 4 = BitVec.ofNat 64 i ∧ (t.thread tid i).tflags = 1

/-- R362, R384, R385: a halted task, and a primary task that waits on a translation too long while a shadow task is bound, is saved once it
may leave, to FRAME when the shadow storage holds another task or the context is suspending: its core is free. -/
def Stated.TasksAreSaved : Prop :=
  ∀ (s : State) (core tid : Nat), s.running core = some tid → (s.core core).dbgStop = false → s.canSave tid = true →
    (∀ i < 16, (s.thread tid i).wbuf = []) →
    ((s.core core).preempt = true →
      ∃ t, exec (.taskSave core (s.savesToFrame core tid)) s = .next t ∧ (t.core core).run = none ∧ (t.task tid).onCore = false) ∧
    ((s.core core).ptask = some tid → (s.core core).shadow.isSome = true → s.spinDue tid = true →
      ∃ t, exec (.spinTimeoutSwap core) s = .next t ∧ (t.core core).run = none ∧ (t.task tid).onCore = false)

/-- R126, R356, R385: the task of an entry with RESTORE that may come back does so, onto its idle core, with its threads as they were
saved. -/
def Stated.TasksAreRestored : Prop :=
  ∀ (s : State) (core tid : Nat) (sh : Bool) (e : BindEntry) (k : Kernel), (s.core core).entry sh = some e →
    (s.core core).bound sh = some tid → s.kernel? e.kid = some k → s.mayEnter core sh = true → e.restore = true →
    (s.task tid).alive = true → (s.ctx k.ctx).st = .active → 
    (sh = true → (s.task tid).preempted = false) → (sh = false → s.primaryMay tid = true) →
    ∃ t, exec (.taskRestore core sh) s = .next t ∧ (t.core core).run = some tid ∧ (t.task tid).place = .running core sh ∧
      (t.task tid).threads = (s.task tid).threads ∧ (t.core core).dcache = [] ∧ (t.core core).entry sh = some { e with restore := false }

/-- The task of a core is halted, to be saved; of a stopped core the message waits in its queue (R362, R492). -/
def Stated.Halted (s t : State) (c : Nat) : Prop :=
  ((s.core c).dbgStop = false → t.core c = { s.core c with preempt := true }) ∧
  ((s.core c).dbgStop = true → CoreMsg.halt ∈ (t.core c).msgs ∧ (t.core c).preempt = (s.core c).preempt)

/-- R361, R362: the tasks of a partition are halted; a priority-3 kernel that has been ELIGIBLE for 1 ms halts only tasks of priority 0
and 1 on cores with a place for it: none where the idle cores already have room for all of it and its groups, else as many as give it that room,
or all of them. -/
def Stated.TasksArePreempted : Prop :=
  (∀ (s : State) (cores : List Nat), ∃ t, exec (.preemptPartition cores) s = .next t ∧
    (∀ c ∈ cores, (s.core c).run.isSome = true → Stated.Halted s t c) ∧
    ∀ c, c ∉ cores ∨ (s.core c).run.isSome = false → t.core c = s.core c) ∧
  (∀ (s : State) (kid : Nat) (k : Kernel), s.kernel? kid = some k → k.st = .eligible → k.lrec.priority = 3 → k.eligAt + 1000000 ≤ s.now →
    let low (c : Nat) : Prop := c < 1536 ∧ s.coreFree k c = true ∧ ∃ tid, (s.core c).run = some tid ∧ (s.task tid).lrec.priority ≤ 1
    ∃ t, exec (.priorityWaitTimeout kid) s = .next t ∧
      ∃ cs : List Nat, (∀ c ∈ cs, low c ∧ Stated.Halted s t c) ∧ (∀ c, c ∉ cs → t.core c = s.core c) ∧
        (s.roomWith k [] = true → cs = []) ∧ (s.roomWith k cs = true ∨ ∀ c, low c → c ∈ cs)) ∧
  (∀ (s : State) (kid : Nat) (k : Kernel), s.kernel? kid = some k → k.lrec.priority ≠ 3 ∨ s.now < k.eligAt + 1000000 →
    exec (.priorityWaitTimeout kid) s = .next s)

/-- The events by which tasks come onto cores and leave them.
Where the spec leaves a point open it follows the model's choice: log entries 20, 51, 52, 53, 54, 56 and 57. -/
def Obligations.DispatchEventsAct : Prop :=
  Stated.EntriesBind ∧ Stated.TasksStart ∧ Stated.TasksAreSaved ∧ Stated.TasksAreRestored ∧ Stated.TasksArePreempted

/-- R33, R371, R374: a context is created from a FREE CTXID with a good descriptor after READY; a bad descriptor is refused; queues are
registered and the context becomes ACTIVE, a confidential one when attested; without a queue it stays. -/
def Stated.ContextsAreBuilt : Prop :=
  ∀ (s : State) (ctx : Nat),
    (∀ d held, s.ready = true → s.linkBad = false → s.contained = false → ctx < 64 → (s.ctx ctx).st = .free →
      (s.ctx ctx).used = false ∨ (s.ctx ctx).lastWalk + 4194384 ≤ s.now → descOk d held = true →
      exec (.contextCreateRequest ctx d held) s = .next (s.setCtx ctx { Context.reset with st := .building, desc := descKept d })) ∧
    (∀ d held, descOk d held = false ∨ s.ready = false ∨ (s.ctx ctx).st ≠ .free →
      exec (.contextCreateRequest ctx d held) s = .next (s.send 0 msgCtxRefused [ctx])) ∧
    (∀ q ring logq cap, (s.ctx ctx).st = .building → q < 16 → ring % 128 = 0 → regionOf ring = .dev ∨ regionOf ring = .host → 4 ≤ logq →
      logq ≤ 12 → cap ≤ 3 →
      exec (.queueRegister ctx q ring logq cap) s = .next (s.setQueue ctx q
        { ring := ring, logq := logq, cap := cap, audit := 0, tail := 0, head := 0, seq := 0, comp := [] })) ∧
    (∀ att, (s.ctx ctx).st = .building →
      ((s.ctx ctx).queues = [] → exec (.contextActivate ctx att) s = .next s) ∧
      ((s.ctx ctx).queues ≠ [] → att = true ∨ bitAt (s.ctx ctx).desc.flags 0 = false →
        exec (.contextActivate ctx att) s = .next (s.setCtx ctx { s.ctx ctx with st := .active, used := true })) ∧
      (att = false → bitAt (s.ctx ctx).desc.flags 0 = true → exec (.contextActivate ctx att) s = .next s))

/-- R290, R374: an ACTIVE context is suspended, its running tasks halted; a suspended one goes on; one whose kernels have ended goes into
TEARDOWN at a destroy request, and when nothing is left its CTXID is FREE and the banks that it loaded are not loaded. -/
def Stated.ContextsChangeState : Prop :=
  ∀ (s : State) (ctx : Nat),
    ((s.ctx ctx).st = .active → ∃ t, exec (.contextSuspend ctx) s = .next t ∧ (t.ctx ctx).st = .suspended ∧
      ∀ tid ∈ s.ctxTasks ctx, ∀ c sh, (s.task tid).place = .running c sh → (s.core c).run = some tid →
        ((s.core c).dbgStop = false → (t.core c).preempt = true) ∧
        ((s.core c).dbgStop = true → CoreMsg.halt ∈ (t.core c).msgs)) ∧
    ((s.ctx ctx).st = .suspended → exec (.contextResume ctx) s = .next (s.setCtx ctx { s.ctx ctx with st := .active })) ∧
    ((s.ctx ctx).st = .active ∨ (s.ctx ctx).st = .suspended → (∀ k ∈ s.kernels, k.ctx = ctx → k.ended = true) →
      exec (.contextDestroy ctx) s = .next (s.setCtx ctx { s.ctx ctx with st := .teardown })) ∧
    ((s.ctx ctx).st = .teardown → s.ctxDone ctx = true → ∃ t, exec (.contextFree ctx) s = .next t ∧ (t.ctx ctx).st = .free ∧
      (t.ctx ctx).used = true ∧ (∀ k ∈ t.kernels, k.ctx ≠ ctx) ∧
      ∀ cl, (s.cluster cl).bankCtx = ctx + 1 → (t.cluster cl).loaded = 0) ∧
    ((s.ctx ctx).st = .teardown → s.ctxDone ctx = false → exec (.contextFree ctx) s = .next s)

/-- R376, R380, R381, R492: a fault is handed to the MGC; with no debugger it is reflected to the trap entry, or its task is marked for
killing: for a poison or parity fault, inside a handler, its own or a PC-match one, or without a trap entry; with one, which holds the core, it
waits for what the debugger asks, a resumption for one; of a stopped core the resolution waits in the queue. -/
def Stated.FaultsAreResolved : Prop :=
  ∀ (s : State) (core slot tid : Nat) (choice : DebugChoice) (r : FaultRec),
    (s.faulted core slot (fun t => !t.handed) = some tid →
      exec (.faultHandover core slot) s = .next (s.setThread tid slot { s.thread tid slot with handed := true })) ∧
    (s.running core = some tid → (s.task tid).core = core → (s.thread tid slot).frec = some r → (s.thread tid slot).handed = true →
      ((s.core core).dbgHeld = true → choice = .none → exec (.faultResolution core slot choice) s = .next s) ∧
      ((s.core core).dbgHeld = true → (s.core core).dbgStop = false → choice = .resume →
        ∃ t, exec (.faultResolution core slot choice) s = .next t ∧ (t.thread tid slot).frec = none ∧ (t.thread tid slot).st = .ready ∧
          (t.thread tid slot).pc = (s.thread tid slot).pc) ∧
      ((s.core core).dbgStop = true → (s.core core).dbgHeld = false ∨ choice ≠ .none → (∀ ch, CoreMsg.resolve slot ch ∉ (s.core core).msgs) →
        exec (.faultResolution core slot choice) s =
          .next (s.setCore core { s.core core with msgs := (s.core core).msgs ++ [.resolve slot choice] })) ∧
      ((s.core core).dbgStop = false → (s.core core).dbgHeld = false →
        let kills := r.code = 0x51 ∨ r.code = 0x53 ∨ (s.thread tid slot).hnd = true ∨ (s.thread tid slot).shadow.isSome = true ∨
          (s.task tid).trapent = 0
        ∃ t, exec (.faultResolution core slot choice) s = .next t ∧ (t.thread tid slot).frec = none ∧
          (kills → (t.task tid).killing = true) ∧
          (¬ kills → (t.thread tid slot).st = .ready ∧ (t.thread tid slot).pc = (s.task tid).trapent ∧
            (t.thread tid slot).fltrec = BitVec.ofNat 64 (256 + r.code))))

/-- R379: records that the ring had no space for are written in order when it has. -/
def Stated.KeptRecordsAreWritten : Prop :=
  ∀ (s : State) (ctx : Nat) (r : FaultRec),
    (∀ s', (s.ctx ctx).backlog = [r] → s.ringOne ctx r = some s' →
      exec (.faultRingSpace ctx) s = .next (s'.setCtx ctx { s'.ctx ctx with backlog := [] })) ∧
    (∀ rs, (s.ctx ctx).backlog = r :: rs → s.ringOne ctx r = none → exec (.faultRingSpace ctx) s = .next s)

/-- R335, R383: a thread, of the running task or of one swapped from the core, that waits on a page that firmware cannot make present stops with
0x10, KIND 2, at the page's address; if it waits for the fetch of an instruction, the record's PC is that instruction. On a page that is there it
goes on waiting for its own retry. -/
def Stated.MissesEscalate : Prop :=
  ∀ (s : State) (core slot tid : Nat) (va : Word), slot < 16 → s.tasksOn core = [tid] → (s.thread tid slot).st = .waiting (.page va) →
    (s.gone (s.task tid).ctx va = true → ∃ t, exec (.missEscalate core slot) s = .next t ∧ (t.thread tid slot).st = .stopped ∧
      ((t.thread tid slot).frec.map fun r => (r.code, r.kind, r.addr)) = some (0x10, 2, va.toNat) ∧
      ((s.thread tid slot).held = none → ((t.thread tid slot).frec.map fun r => r.pc) = some va.toNat)) ∧
    (s.gone (s.task tid).ctx va = false → exec (.missEscalate core slot) s = .next s)

/-- The events of contexts, of faults and of misses.
Where the spec leaves a point open it follows the model's choice: log entries 4, 81 and 87. -/
def Obligations.ContextEventsAct : Prop :=
  Stated.ContextsAreBuilt ∧ Stated.ContextsChangeState ∧ Stated.FaultsAreResolved ∧ Stated.KeptRecordsAreWritten ∧ Stated.MissesEscalate

/-! ## Events of the links -/

/-- What lane i of a port has sent last is a flit of a type. -/
def Stated.LastSent (q : Port) (i ty : Nat) : Prop := ((q.lane i).out.getLast?.map Flit.ty) = some ty

/-- R430: the moves of a port's state: OFF or FENCED to TRAIN, with a TRAIN flit on every lane; TRAIN or RELOCK to LOCK on at least 7 wavelengths
of some lane, and to FENCED after 1 ms; UP or DEGRADED to RELOCK at loss of light, the replay buffers kept; any but OFF to FENCED; any to
OFF; DEGRADED to UP at a restore. -/
def Stated.PortStatesMove : Prop :=
  ∀ (s : State) (p : Nat), let q := s.port p
    (p < 108 → q.st = .off ∨ q.st = .fenced → ∃ t, exec (.portEnable p) s = .next t ∧ (t.port p).st = .train ∧ (t.port p).since = s.now ∧
      ∀ i < q.lanes.length, Stated.LastSent (t.port p) i 4) ∧
    (∀ a rest, let wave (i : Nat) : Nat := (a :: rest).getD i 0 % 256
      (q.st = .train ∨ q.st = .relock → (∃ i < q.lanes.length, 7 ≤ popcount 8 (wave i)) →
        ∃ t, exec (.portLock p a rest) s = .next t ∧ (t.port p).st = .lock ∧
          ∀ i < q.lanes.length, ((t.port p).lane i).waves = wave i ∧ (((t.port p).lane i).fenced = true ↔ popcount 8 (wave i) < 7)) ∧
      ((∀ i < q.lanes.length, popcount 8 (wave i) < 7) → exec (.portLock p a rest) s = .next s)) ∧
    (q.st = .train ∨ q.st = .relock → q.since + 1000000 ≤ s.now →
      ∃ t, exec (.portLockTimeout p) s = .next t ∧ (t.port p).st = .fenced) ∧
    (q.st = .up ∨ q.st = .degraded → ∃ t, exec (.portLightLoss p) s = .next t ∧ (t.port p).st = .relock ∧
      ∀ i < q.lanes.length, ((t.port p).lane i).unacked = (q.lane i).unacked ∧ ((t.port p).lane i).txSeq = (q.lane i).txSeq ∧
        ((t.port p).lane i).rxSeq = (q.lane i).rxSeq) ∧
    (q.st ≠ .off → ∃ t, exec (.portFence p) s = .next t ∧ (t.port p).st = .fenced) ∧
    (∃ t, exec (.portDisable p) s = .next t ∧ (t.port p).st = .off ∧ (t.port p).lanes = q.lanes.map fun _ => Lane.reset) ∧
    (q.st = .degraded → ∃ t, exec (.portRestore p) s = .next t ∧ (t.port p).st = .up ∧
      ∀ i < q.lanes.length, ((t.port p).lane i).waves = 255 ∧ ((t.port p).lane i).fenced = false ∧
        ((t.port p).lane i).unacked = (q.lane i).unacked)

/-- R430: the exchange of LOCK, which finds the round trip and the peer's index, port and rank, ends in UP on 8 wavelengths of every lane, else in
DEGRADED, and in FENCED at a peer that is not the one expected; a port that was not relocking starts its lanes at SEQ 0 with 128
credits. -/
def Stated.LockExchangeOpensPort : Prop :=
  ∀ (s : State) (p peer : Nat) (told : LockTold), let q := s.port p
    q.st = .lock →
    (q.expectPeer = none ∨ q.expectPeer = some peer → q.keep = false →
      ∃ t, exec (.portLockExchangeDone p peer told) s = .next t ∧
        (t.port p).st = (if (∀ l ∈ q.lanes, l.count = 8) then .up else .degraded) ∧ (t.port p).peer = peer ∧
        (t.port p).peerPort = told.port ∧ (t.port p).rtt = told.rtt ∧ (t.port p).peerRank = told.rank ∧
        (t.port p).lanes = q.lanes.map Lane.fresh) ∧
    (∀ e, q.expectPeer = some e → e ≠ peer →
      ∃ t, exec (.portLockExchangeDone p peer told) s = .next t ∧ (t.port p).st = .fenced ∧ (t.port p).peer = q.peer)

/-- R425, R426, R428, R429, R432: 256 bytes that no flit has, with a bad CRC or out of a codeword of more than 15 wrong symbols, are discarded and
asked for again; a good flit of the expected number is taken and the next number is expected; one of a later number is discarded and asked for
again; one already taken is discarded; a NAK sends again every flit after the acknowledged one. A FAILOVER flit tells the switchover of the lane it
names, and fences a lane that would lose a second wavelength. -/
def Stated.FlitsAreTakenInOrder : Prop :=
  ∀ (s : State) (p i : Nat) (bs : List Byte) (wrong : List Nat), let q := s.port p
    q.st = .up → i < q.lanes.length →
    ((∃ w ∈ wrong, 15 < w) ∨ flitOf bs = none →
      exec (.flitReceive p i bs wrong) s = .next (s.setPort p (q.setLane i { q.lane i with gap := true }))) ∧
    (∀ f, flitOf bs = some f → (∀ w ∈ wrong, w ≤ 15) → f.crcnt = 0 → (q.lane i).queue = [] →
      (f.ty = 5 → f.ackv = false → (q.lane i).sinceAck < 63 → f.seq = (q.lane i).rxSeq → (f.payload.getD 0 0).toNat ≠ i →
        (f.payload.getD 0 0).toNat < q.lanes.length → let m := q.lane (f.payload.getD 0 0).toNat; let w := (f.payload.getD 1 0).toNat % 8
        m.fenced = false → bitAt m.waves w = true →
        ∃ t, exec (.flitReceive p i bs wrong) s = .next t ∧ ((t.port p).lane i).rxSeq = ((q.lane i).rxSeq + 1) % 4096 ∧
          ((t.port p).lane i).gap = false ∧ ((t.port p).lane i).sinceAck = (q.lane i).sinceAck + 1 ∧
          (m.drop = none → 8 ≤ m.count →
            ((t.port p).lane (f.payload.getD 0 0).toNat).drop = some (w, leNat ((f.payload.drop 2).take 8))) ∧
          ((m.drop = none ∧ m.count ≤ 7) ∨ (∃ v n, m.drop = some (v, n) ∧ v ≠ w) →
            ((t.port p).lane (f.payload.getD 0 0).toNat).fenced = true ∧ (t.port p).st = .degraded)) ∧
      (f.ty = 1 → f.ackv = false → f.seq ≠ (q.lane i).rxSeq → behind (q.lane i).rxSeq f.seq = false →
        exec (.flitReceive p i bs wrong) s = .next (s.setPort p (q.setLane i { q.lane i with gap := true }))) ∧
      (f.ty = 1 → f.ackv = false → f.seq ≠ (q.lane i).rxSeq → behind (q.lane i).rxSeq f.seq = true →
        exec (.flitReceive p i bs wrong) s = .next (s.setPort p (q.setLane i (q.lane i)))) ∧
      (f.ty = 2 → ((q.lane i).ack f.ackseq).naks < 15 →
        ∃ t, exec (.flitReceive p i bs wrong) s = .next t ∧ (t.port p).st = .up ∧ (t.port p).replays = q.replays + 1 ∧
          ((t.port p).lane i).out = (q.lane i).out ++ (q.lane i).unacked.filter (fun g => !ackedBy f.ackseq g.seq)))

/-- The IDLE flit that a lane sends next: it acknowledges, returns the credits of one virtual channel, and advertises (R429, R434, R435). -/
def Stated.idleFlit (s : State) (l : Lane) : Flit :=
  { l.blank 0 with crvc := (l.owed.headD (0, 0)).1, crcnt := (l.owed.headD (0, 0)).2, words := 1, payload := s.advert }

/-- R429, R434, R445: while a port runs its protocol, the timers send a NAK where a flit is missing, an acknowledgement where flits are
unacknowledged, and an IDLE flit with the timing advertisement on every lane that an intensity-reduce slot leaves free; while the port
trains, a TRAIN flit on every lane. -/
def Stated.LinkTimersSendFlits : Prop :=
  ∀ (s : State) (p : Nat), let q := s.port p
    (q.st = .up ∨ q.st = .degraded ∨ q.st = .drain →
      (∀ i, (q.lane i).gap = true → s.laneFree p i = true →
        exec (.nakTimer p i) s = .next (s.setPort p (q.sendPlain i ((q.lane i).blank 2)))) ∧
      (∀ i < q.lanes.length, (q.lane i).sinceAck ≠ 0 → s.laneFree p i = true →
        ∃ t, exec (.ackTimer p i) s = .next t ∧ ((t.port p).lane i).out = (q.lane i).out ++ [Stated.idleFlit s (q.lane i)] ∧
          ((t.port p).lane i).sinceAck = 0 ∧ ((t.port p).lane i).owed = (q.lane i).owed.drop 1) ∧
      (∃ t, exec (.idleFlitTimer p) s = .next t ∧ 
        ∀ i < q.lanes.length,
          (s.laneFree p i = true → ((t.port p).lane i).out = (q.lane i).out ++ [Stated.idleFlit s (q.lane i)] ∧
            ((t.port p).lane i).idleAt = s.now) ∧
          (s.laneFree p i = false → (t.port p).lane i = q.lane i))) ∧
    (q.st = .train ∨ q.st = .lock ∨ q.st = .relock →
      ∃ t, exec (.idleFlitTimer p) s = .next t ∧ ∀ i < q.lanes.length, Stated.LastSent (t.port p) i 4)

/-- R431, R432: a receiver that drops a wavelength of a lane with 8 announces it with a FAILOVER flit, for a codeword at least 2 µs ahead; a lane
with 7, or one that would lose a second wavelength, is fenced and the port is DEGRADED. -/
def Stated.WavelengthsFailOver : Prop :=
  ∀ (s : State) (p i w cw : Nat), let q := s.port p
    i < q.lanes.length → w < 8 → q.st = .up → bitAt (q.lane i).waves w = true → (q.lane i).fenced = false →
    ((q.lane i).drop = none → 8 ≤ (q.lane i).count →
      ∃ t n, exec (.wavelengthErrorDrop p i w cw) s = .next t ∧ ((t.port p).lane i).drop = some (w, n) ∧ cw ≤ n ∧
        (q.lane i).codewordAt (s.now + 2000) < n ∧ (t.port p).st = .up ∧ ((q.lane i).room 1 = true → Stated.LastSent (t.port p) i 5)) ∧
    (((q.lane i).drop = none ∧ (q.lane i).count ≤ 7) ∨ (∃ v n, (q.lane i).drop = some (v, n) ∧ v ≠ w) →
      ∃ t, exec (.wavelengthErrorDrop p i w cw) s = .next t ∧ ((t.port p).lane i).fenced = true ∧ (t.port p).st = .degraded)

/-- R431: at the announced codeword the lane goes on with 7 wavelengths and the port is DEGRADED; before it nothing changes. -/
def Stated.SwitchoverDropsWavelength : Prop :=
  ∀ (s : State) (p i w cw : Nat), let q := s.port p
    q.st = .up → (q.lane i).drop = some (w, cw) → bitAt (q.lane i).waves w = true →
    (cw ≤ (q.lane i).codewordAt s.now → exec (.wavelengthSwitchover p i) s = .next (s.setPort p
      { q.setLane i { q.lane i with drop := none, waves := (q.lane i).waves - 2 ^ w, cw := (q.lane i).codewordAt s.now, cwAt := s.now } with
        st := .degraded })) ∧
    ((q.lane i).codewordAt s.now < cw → exec (.wavelengthSwitchover p i) s = .next s)

/-- R21, R452: a comb line that falls below its threshold, or fails, has STATE 3 or 4, and one that is locked again has STATE 2; an update of its
record keeps STATE, but for a loss that it finds, and gives EOLH all ones before 100 hours; a MGMT read is answered with the record, and waits while
an image of the switch controller hands over (R483). Lines of optical units have ends of their own (R308). -/
def Stated.CombLinesKeepRecords : Prop :=
  ∀ (s : State) (src line : Nat), src < 2 → line < 16 →
    (∀ failed, ∃ t, exec (.combLineBelowThreshold src line failed) s = .next t ∧
      (8 ≤ line → t.line src line = { s.line src line with state := if failed then 4 else 3 })) ∧
    (∀ res, lineLit (s.line src line) = false → 8 ≤ line →
      exec (.combLineRecover src line res) s =
        .next { s with comb := AMap.put s.comb (16 * src + line) { s.line src line with state := 2 } }) ∧
    (∀ r : Telemetry, (s.line src line).state ≠ 2 ∨ r.state < 3 →
      exec (.laserTelemetryUpdate src line r) s = .next { s with
        comb := AMap.put s.comb (16 * src + line)
          { r with eolh := if r.hours < 100 then 0xFFFFFFFF else r.eolh
                   state := if 2 ≤ (s.line src line).state ∧ 3 ≤ r.state then r.state else (s.line src line).state } }) ∧
    (∀ p, p < 96 → (s.port p).st = .up → (s.fwk 3).moving = false → ((s.port p).lane 0).open_ = true →
      exec (.mgmtReadRequest p src line) s = .next ({ s with mgmtWait := s.mgmtWait.erase (p, src, line) }.setPort p
        ((s.port p).sendSeq 0 { ((s.port p).lane 0).blank 6 with words := 8, payload := telemetryBytes (s.line src line) }))) ∧
    (∀ p, p < 96 → (s.port p).st = .up → (s.fwk 3).moving = true →
      ∃ t, exec (.mgmtReadRequest p src line) s = .next t ∧ (p, src, line) ∈ t.mgmtWait ∧ t = { s with mgmtWait := t.mgmtWait })

/-- R436, R438: a table that the validator accepts is installed whole: each listed destination has its entry, every other one none; a table
that it refuses changes nothing but that the switch controller is told. One whose entry neither is UNREACH nor LOCAL and has no candidate
is refused, and so is one about whose partition the validator knows nothing (log entry 28). -/
def Stated.RoutingTablesInstall : Prop :=
  ∀ (s : State) (tb : List (Nat × Nat)) (fabric : List FabNode),
    (s.validTable fabric tb [] = true → (tb.map Prod.fst).Nodup → s.remotes = [] → s.groups = [] →
      ∃ t, exec (.routingTableInstall tb fabric) s = .next t ∧ t = { s with route := t.route, self := t.self } ∧
        (∀ e ∈ tb, e.1 < 1024 → t.routeOf e.1 = e.2 % 2 ^ 30) ∧
        (∀ m < 1024, (∀ e ∈ tb, e.1 ≠ m) → t.routeOf m = routeReset)) ∧
    (s.validTable fabric tb [] = false → exec (.routingTableInstall tb fabric) s = .next (s.send 2 msgTableRefused [])) ∧
    ((∃ e ∈ tb, bitAt e.2 28 = false ∧ bitAt e.2 29 = false ∧ candidates e.2 = []) ∨ fabric = [] →
      exec (.routingTableInstall tb fabric) s = .next (s.send 2 msgTableRefused []))

/-- R30, R442: a change request of external ports whose tables both pass drains its ports under the interim table; a port that has nothing left to
send or to have answered sends its DRAIN flit, and is DARK once that is acknowledged and its peer's has come; then the circuits are
switched and the ports retrain; when they are up, the final table is installed and CHGEP counts it. A module for which the change names no port
reports ready at once, and waits for the circuits like the others (R518). -/
def Stated.CircuitChangeRuns : Prop :=
  (∀ (s : State) (ch : Change) (fi fl : List FabNode), s.change = none → s.validTable fi ch.interim [] = true →
    s.validTable fl ch.final ch.ports = true →
    (∀ e ∈ ch.ports, e.1 < 96) → ch.ports.Pairwise (fun a b => a.1 ≠ b.1) →
    ∃ t, exec (.changeRequest ch (fi, fl)) s = .next t ∧ t.change = some ch ∧ (ch.ports = [] → ⟨2, msgPortReady, []⟩ ∈ t.out) ∧
      ∀ e ∈ ch.ports, (t.port e.1).expectPeer = some e.2 ∧ (t.port e.1).planned = true ∧
        (t.port e.1).st = (if (s.port e.1).sends then .drain else (s.port e.1).st)) ∧
  (∀ (s : State) (ch : Change) (fi fl : List FabNode),
    s.change.isSome = true ∨ s.validTable fi ch.interim [] = false ∨ s.validTable fl ch.final ch.ports = false ∨ (∃ e ∈ ch.ports, 96 ≤ e.1) →
    exec (.changeRequest ch (fi, fl)) s = .next (s.send 2 msgTableRefused [])) ∧
  (∀ (s : State) (p : Nat), (s.port p).st = .drain → s.portEmpty p = true → (s.port p).lanes ≠ [] →
    ((s.port p).drainSent = false → ∃ t, exec (.portDrainComplete p) s = .next t ∧ (t.port p).drainSent = true ∧
      (t.port p).st = .drain ∧ Stated.LastSent (t.port p) (s.port p).openLane 3) ∧
    ((s.port p).drainSent = true → (s.port p).drainGot = true →
      ∃ t, exec (.portDrainComplete p) s = .next t ∧ (t.port p).st = .dark)) ∧
  (∀ (s : State) (ch : Change), s.change = some ch →
    ∃ t, exec .circuitsReady s = .next t ∧ t.circuits = true ∧ ∀ e ∈ ch.ports, (s.port e.1).st = .dark → (t.port e.1).st = .relock) ∧
  (∀ (s : State) (ch : Change), s.change = some ch →
    s.circuits = false ∨ (∃ e ∈ ch.ports, (s.port e.1).st ≠ .up ∧ (s.port e.1).st ≠ .degraded) → exec .changeFinalInstall s = .next s) ∧
  (∀ (s : State) (ch : Change), s.change = some ch → s.circuits = true → s.remotes = [] → s.groups = [] →
    (∀ e ∈ ch.ports, (s.port e.1).st = .up ∨ (s.port e.1).st = .degraded) →
    ∃ t, exec .changeFinalInstall s = .next t ∧ t.change = none ∧ t.circuits = false ∧ t.chgep = (s.chgep + 1) % 2 ^ 64 ∧
      (∀ e ∈ ch.ports, (t.port e.1).expectPeer = none ∧ (t.port e.1).planned = false))

/-- R445, R446, R450: a session entry is written; an operation whose slot has passed ends: a send puts its elements on the light and retires; a
receive stores the sums over the senders present, at most 511 each, and its status, and retires. R446 gives an element's sum only with a
probability; that it is the exact sum of the present senders while LOWMARGIN is clear is the model's choice (log entry 105). -/
def Stated.IntensitySlotsEnd : Prop :=
  (∀ (s : State) (n : Nat) (e : Option IrSession), n < 64 →
    exec (.irSessionWrite n e) s = .next { s with irSess := AMap.put s.irSess n e }) ∧
  (∀ (s : State) (o : IrOp) (e : IrSession) (light : List (Nat × List Nat)) (noise : List Int) (low : Bool),
    s.irOps = [o] → 256 * (o.slot + 1) ≤ s.now → AMap.get s.irSess o.sess none = some e →
    (s.port e.port).sends = true → (AMap.find? s.tasks o.tid).isSome = true → (∀ x ∈ light, x.1 < 8) →
    (o.data = none → (s.task o.tid).onCore = true → s.keyBroken (s.cmOf o.tid (o.buf - cmBase)) = false →
      ∃ t, exec (.irSlotTransfer o.sess o.slot light noise low) s = .next t ∧ t.irOps = [] ∧
        t.mem = s.mem.write (s.cmOf o.tid (o.buf - cmBase)) (irData o.slot (irPresent light) e.expect (irSums light noise low) low) ∧
        o.seq ∉ ((t.task o.tid).line 2).live) ∧
    (∀ bs j, o.data = some bs → e.sender = some j →
      exec (.irSlotTransfer o.sess o.slot light noise low) s = .next
        ((({ s with irOps := [] } : State).send 2 msgLight
          ([o.sess, o.slot, irLaunch e j o.slot, 8 + j, 1] ++ bs.map fun b => min b.toNat 63)).retire o.tid 2 o.seq))) ∧
  (∀ (light : List (Nat × List Nat)) (noise : List Int) (i : Nat), i < 2048 →
    (irSums light noise false).getD i 0 = (light.map fun e => min (e.2.getD i 0) 63).sum) ∧
  (∀ (s : State) (n slot : Nat) (light : List (Nat × List Nat)) (noise : List Int) (low : Bool), s.now < 256 * (slot + 1) →
    exec (.irSlotTransfer n slot light noise low) s = .next s)

/-- The events of links, ports, comb lines, routing, circuit changes and intensity reduce.
Where the spec leaves a point open it follows the model's choice: log entries 27, 28, 73, 74 and 75. -/
def Obligations.LinkEventsAct : Prop :=
  Stated.PortStatesMove ∧ Stated.LockExchangeOpensPort ∧ Stated.FlitsAreTakenInOrder ∧ Stated.LinkTimersSendFlits ∧ Stated.WavelengthsFailOver ∧
    Stated.SwitchoverDropsWavelength ∧ Stated.CombLinesKeepRecords ∧ Stated.RoutingTablesInstall ∧ Stated.CircuitChangeRuns ∧
    Stated.IntensitySlotsEnd

/-! ## Events of reliability, the host link and firmware -/

/-- R33, R40, R397, R458, R464, R468: a host read after READY of memory that firmware has selected gives the bytes of device memory with their
poison; of a frame that a confidential context maps with CONF, and in containment of unselected memory, all ones with poison; of selected memory in
containment its bytes, poisoned; a stack in SELF holds it. Outside containment a read of other memory is answered empty: which memory is
selected, and that answer, are the model's choice (log entry 109). -/
def Stated.HostReadsAnswer : Prop :=
  ∀ (s : State) (pa n : Nat),
    (s.ready = true → s.linkBad = false → pa + n ≤ 2 ^ 40 →
      (s.confFrame pa n = true ∨ (s.contained = true ∧ s.isExposed pa n = false) →
        exec (.cxlMemRead pa n) s = .next (s.send 0 msgMemData (pa :: List.replicate n 511))) ∧
      (s.confFrame pa n = false → s.isExposed pa n = true → s.contained = true →
        exec (.cxlMemRead pa n) s = .next (s.send 0 msgMemData (pa :: (s.paBytes pa n).map fun b => b.b.toNat + 256))) ∧
      (s.confFrame pa n = false → s.isExposed pa n = true → s.contained = false →
        (s.hostStack pa n = none → exec (.cxlMemRead pa n) s = .next (s.send 0 msgMemData
          (pa :: (s.paBytes pa n).map fun b => b.b.toNat + (if b.p then 256 else 0)))) ∧
        (∀ k, s.hostStack pa n = some k →
          exec (.cxlMemRead pa n) s = .next (s.setStack k { s.stack k with held := (s.stack k).held ++ [.hostRead pa n] })))) ∧
    (s.ready = false ∨ (s.contained = false ∧ s.confFrame pa n = false ∧ s.isExposed pa n = false) →
      exec (.cxlMemRead pa n) s = .next (s.send 0 msgMemData []))

/-- R33, R40, R397, R455, R458, R464, R468: a host write after READY to selected memory stores its bytes, poisoned as it says, and drops the
replicas of its lines; a stack in SELF holds it; one to a confidential frame or in containment is discarded, and so is one to memory that is not
selected (log entry 109). -/
def Stated.HostWritesStore : Prop :=
  ∀ (s : State) (pa : Nat) (d : List Byte) (p : Bool),
    (s.ready = true → s.linkBad = false → s.contained = false → d ≠ [] → pa + d.length ≤ 2 ^ 40 → s.isExposed pa d.length = true →
      s.confFrame pa d.length = false →
      (s.hostStack pa d.length = none → (∀ k ∈ stacksOf pa d.length, (s.stack k).lost = false) →
        exec (.cxlMemWrite pa d p) s = .next { s.dropReplicas (linesOf pa d.length) with
          mem := s.mem.writeSp .dev pa (d.map fun b => ⟨b, p⟩) (d.length / 4096 + 2) }) ∧
      (∀ k, s.hostStack pa d.length = some k →
        exec (.cxlMemWrite pa d p) s = .next (s.setStack k { s.stack k with held := (s.stack k).held ++ [.hostWrite pa d p] }))) ∧
    (s.contained = true ∨ s.confFrame pa d.length = true ∨ s.isExposed pa d.length = false → exec (.cxlMemWrite pa d p) s = .next s)

/-- R464, R465: a fatal error of the host link begins containment, which is signalled and reported, without Modified lines of the host half, and a
CXL reset ends it; a context that was BUILDING is FREE. -/
def Stated.ContainmentBeginsAndEnds : Prop :=
  ∀ s : State,
    (s.contained = false → exec .hostLinkFatalError s =
      .next (((({ s with contained := true } : State).discard 0 (2 ^ 55)).send 0 msgViral []).send 1 msgContained [])) ∧
    (s.contained = false → s.hostMod = [] →
      exec .hostLinkFatalError s = .next ((({ s with contained := true } : State).send 0 msgViral []).send 1 msgContained [])) ∧
    (s.contained = true → exec .hostLinkFatalError s = .next s) ∧
    ((∀ c < 64, (s.ctx c).st = .free ∨ (s.ctx c).st = .building ∨ (s.ctx c).st = .teardown) →
      ∃ t, exec .cxlReset s = .next t ∧ t = { s with ctxs := t.ctxs, contained := false, linkUp := false, linkBad := false } ∧
        ∀ c < 64, (t.ctx c).st = if (s.ctx c).st = .building then .free else (s.ctx c).st)

/-- R454, R459, R471, R472, R475: an uncorrectable error of a stack poisons the granules of its 64 data bytes and no byte's value, is reported in
the stack's mailbox and makes its row due for repair; one of the far cache poisons its granule, one of a loaded bank the bank; a parity error
poisons a register that has poison, and stops with 0x53 a thread that meets it elsewhere; a corrected error is counted. -/
def Stated.ErrorsPoison : Prop :=
  ∀ s : State,
    (∀ key < 2 ^ 39, ∃ t, exec (.uncorrectableMemoryError ⟨key, false⟩) s = .next t ∧
      t = { s with mem := s.mem.poison ((List.range 8).map fun j => key / 64 * 8 + j), hbm := t.hbm } ∧
      t.rowDue (key / 2 ^ 36) (Config.rowOf key) = true ∧
      ((s.stack (key / 2 ^ 36)).mbox.length < 64 →
        ((t.stack (key / 2 ^ 36)).mbox.getLast?.map fun m => (m.ty, m.pa)) = some (2, keyPa key))) ∧
    (∀ key < 2 ^ 39, exec (.uncorrectableMemoryError ⟨key, true⟩) s = .next { s with mem := s.mem.poison [key / 8] }) ∧
    (∀ c < 96, ∀ b < 16, bitAt (s.cluster c).loaded b = true → bitAt (s.cluster c).bankPois b = false →
      exec (.uncorrectableMemoryError ⟨(12000 + 16 * c + b) * 2 ^ 64, false⟩) s =
        .next (s.setCluster c { s.cluster c with bankPois := (s.cluster c).bankPois + 2 ^ b })) ∧
    (∀ core tid slot r, s.running core = some tid → slot < 16 → (s.thread tid slot).live = true → 0 < r → r < 32 →
      exec (.registerParityError core slot (.x r)) s =
        .next (s.setThread tid slot { s.thread tid slot with xp := setBit (s.thread tid slot).xp r true })) ∧
    (∀ core tid slot r c, s.running core = some tid → slot < 16 → (s.thread tid slot).live = true → r < 32 → c < 16 →
      exec (.registerParityError core slot (.v r c)) s =
        .next (s.setThread tid slot { s.thread tid slot with vp := setBit (s.thread tid slot).vp (16 * r + c) true })) ∧
    (∀ core tid slot, s.running core = some tid → slot < 16 → (s.thread tid slot).st = .ready →
      ∃ t, exec (.registerParityError core slot .bare) s = .next t ∧ (t.thread tid slot).st = .stopped ∧
        ((t.thread tid slot).frec.map fun r => r.code) = some 0x53) ∧
    (∀ core, exec (.correctedError core) s =
      .next (s.setCore core { s.core core with corr := min 65535 ((s.core core).corr + 1) }))

/-- R461 to R463: firmware withdraws an engine that failed its self-test, a lost stack, a matrix unit that has not locked for 100 ms or whose
loaded banks all failed their trim, and a cluster whose hard fault, or whose core's, came again after one retry, with its matrix unit and its
tasks: the unit's bit of WDMAP is set, and no other. A unit without such a cause stays. -/
def Stated.WithdrawalSetsWdmap : Prop :=
  ∀ s : State,
    let faults (kind : UnitKind) (i : Nat) : Nat := AMap.get s.unitFaults (unitKey kind i) 0
    (∀ i < 16, 1 ≤ faults .dce i → ∃ t, exec (.unitWithdraw .dce i) s = .next t ∧ t = { s with wdmap := t.wdmap } ∧
      ∀ j, t.wdmap.getLsbD j = (decide (j = 192 + i) || s.wdmap.getLsbD j)) ∧
    (∀ i < 8, (s.stack i).lost = true → ∃ t, exec (.unitWithdraw .stack i) s = .next t ∧ t = { s with wdmap := t.wdmap } ∧
      ∀ j, t.wdmap.getLsbD j = (decide (j = 208 + i) || s.wdmap.getLsbD j)) ∧
    (∀ i < 96, (∃ u, (s.cluster i).unlockAt = some u ∧ (s.cluster i).thermal = true ∧ u + 100000000 ≤ s.now) ∨
        ((s.cluster i).loaded ≠ 0 ∧ ∀ b < 16, bitAt (s.cluster i).loaded b = true → bitAt (s.cluster i).trimBad b = true) →
      ∃ t, exec (.unitWithdraw .omu i) s = .next t ∧
        ((s.cluster i).omuHeld = [] → (s.cluster i).flight = none → (s.cluster i).staged = [] →
          ∀ j, t.wdmap.getLsbD j = (decide (j = 96 + i) || s.wdmap.getLsbD j))) ∧
    (∀ i < 96, (s.cluster i).omuHeld = [] → (s.cluster i).flight = none → (s.cluster i).staged = [] →
      ∀ u : UnitKind × Nat, (u = (.cluster, i) ∧ 2 ≤ faults .cluster i) ∨ (u.1 = .core ∧ clusterOf u.2 = i ∧ u.2 < 1536 ∧ 2 ≤ faults .core u.2) →
      ∃ t, exec (.unitWithdraw u.1 u.2) s = .next t ∧
        (∀ j, t.wdmap.getLsbD j = (decide (j = i ∨ j = 96 + i) || s.wdmap.getLsbD j)) ∧
        ∀ tid, (s.task tid).place ≠ .none → (s.task tid).cluster = i → (s.task tid).alive = true → (t.task tid).killing = true) ∧
    (∀ kind i, s.withdrawDue kind i = false → exec (.unitWithdraw kind i) s = .next s)

/-- R466, R470 to R472: the thermal state of a stack after a sample, in sixteenths of a degree: doubled refresh from 85 °C to below 83 °C,
SELF from 95 °C to below 90 °C, one step a sample; at 105 °C, or after 100 ms in SELF, the stack is lost. A change is reported; on leaving SELF
the stack is trained and the accesses that it held are performed next. -/
def Stated.StackTemperatureSetsState : Prop :=
  ∀ (s : State) (k : Nat) (temp : Int), k < 8 → (s.stack k).lost = false →
    let o := s.stack k
    ∃ t, exec (.stackThermalSample k temp) s = .next t ∧ (t.stack k).temp = temp ∧
      ((t.stack k).lost = decide (1680 ≤ temp ∨ (o.th = .self ∧ o.selfAt + 100000000 ≤ s.now))) ∧
      ((t.stack k).lost = true → t.wdmap.getLsbD (208 + k) = true) ∧
      (o.mbox.length < 64 →
        ((t.stack k).lost = true → ((t.stack k).mbox.getLast?.map fun m => m.ty) = some 6) ∧
        ((t.stack k).lost = false → (t.stack k).th ≠ o.th → ((t.stack k).mbox.getLast?.map fun m => m.ty) = some 5)) ∧
      ((t.stack k).lost = false → o.th = .self → (t.stack k).th ≠ .self →
        (t.stack k).trainings = o.trainings + 1 ∧ (t.stack k).held = [] ∧ t.agenda = o.held ++ s.agenda) ∧
      ((t.stack k).lost = false → (t.stack k).th = match o.th with
        | .normal => if 1360 ≤ temp then .doubled else .normal
        | .doubled => if temp < 1328 then .normal else if 1520 ≤ temp then .self else .doubled
        | .self => if temp < 1440 then .doubled else .self)

/-- R469 to R472: a stack's failure loses it, and the accesses that it held go on to end; a scrub is reported when it is complete; a row that is
due moves into a spare, one that is not, or with none left, stays (log entry 133), and neither changes a value; a message goes to the mailbox,
which holds 64, and none is dropped but a summary for a newer one of its type (log entry 120); after 2 ms in SELF the contexts of the held
accesses are told. -/
def Stated.StackControllersReport : Prop :=
  ∀ (s : State) (k : Nat), k < 8 → let o := s.stack k
    (o.lost = false → ∃ t, exec (.stackLost k) s = .next t ∧ (t.stack k).lost = true ∧ t.wdmap.getLsbD (208 + k) = true ∧
      (t.stack k).held = [] ∧ t.agenda = o.held ++ s.agenda ∧ ((∀ c < 64, (s.ctx c).st = .free) → t.mem = s.mem)) ∧
    (o.th ≠ .self → o.lost = false → (s.fwk 4).moving = false →
      ∃ t, exec (.stackScrub k) s = .next t ∧ t = { s with hbm := t.hbm } ∧ (t.stack k).scrubAt = s.now ∧
        (o.mbox.length < 64 → ((t.stack k).mbox.getLast?.map fun m => m.ty) = some 7)) ∧
    (∀ row, o.lost = false → o.spares ≠ 0 → s.rowDue k row = true →
      ∃ t, exec (.rowRepair k row) s = .next t ∧ t = { s with hbm := t.hbm } ∧ (t.stack k).spares = o.spares - 1 ∧
        (t.stack k).repaired = natInsert o.repaired row ∧ t.rowDue k row = false) ∧
    (∀ row, o.lost = true ∨ o.spares = 0 ∨ s.rowDue k row = false → exec (.rowRepair k row) s = .next s) ∧
    (∀ m : StackMsg, 1 ≤ m.ty → m.ty ≤ 7 → let m' := { m with stack := k, count := min m.count 65535 }
      (o.mbox.length < 64 → exec (.stackMailboxMessage k m) s = .next (s.setStack k { o with mbox := o.mbox ++ [m'] })) ∧
      (o.mbox.length = 64 → ∃ t, exec (.stackMailboxMessage k m) s = .next t ∧ t = { s with hbm := t.hbm } ∧
        (t.stack k).mbox.length = 64 ∧ m' ∈ (t.stack k).mbox ++ (t.stack k).kept ∧
        ∀ x ∈ o.mbox ++ o.kept, urgentMsg x = true → x ∈ (t.stack k).mbox ++ (t.stack k).kept)) ∧
    (o.th = .self → o.lost = false → o.held.filterMap (s.heldCtx k) = [] → o.noticed + 2000000 ≤ s.now →
      exec (.selfHoldNotice k) s = .next (s.setStack k { o with noticed := s.now })) ∧
    (∀ c, o.th = .self → o.lost = false → o.held.filterMap (s.heldCtx k) = [c] → o.noticed + 2000000 ≤ s.now →
      exec (.selfHoldNotice k) s = .next ((s.setStack k { o with noticed := s.now }).ringPut c (s.noteRec 0x52 5 0 0 0)))

/-- The events of errors, of the host link, of withdrawn units and of the stacks.
Where the spec leaves a point open it follows the model's choice: log entries 30, 32, 77, 79, 80, 82 and 89. -/
def Obligations.HealthEventsAct : Prop :=
  Stated.HostReadsAnswer ∧ Stated.HostWritesStore ∧ Stated.ContainmentBeginsAndEnds ∧ Stated.ErrorsPoison ∧ Stated.WithdrawalSetsWdmap ∧
    Stated.StackTemperatureSetsState ∧ Stated.StackControllersReport

/-- R477 to R480: an image is staged unless one is in HANDOVER or PROBATION, or a new PSC image is being booted; one that names no kind fails check
1; a staged one is VERIFIED, or discarded with the number of the first failed check. -/
def Stated.ImagesStageAndVerify : Prop :=
  ∀ s : State,
    (∀ img : FwImage, s.fwMoving = false → (s.fwk 1).trial = false →
      (1 ≤ imgKind img → imgKind img ≤ 4 → exec (.imageStage img) s = .next (s.setFw (imgKind img)
        { s.fwk (imgKind img) with newest := some img, asked := false, st := .staged, stAt := s.now })) ∧
      (imgKind img = 0 ∨ 4 < imgKind img → exec (.imageStage img) s = .next (s.send 0 msgImageBad [imgKind img, 1]))) ∧
    (∀ img : FwImage, s.fwMoving = true ∨ (s.fwk 1).trial = true → exec (.imageStage img) s = .next s) ∧
    (∀ kind img, (s.fwk kind).st = .staged → (s.fwk kind).newest = some img → imageFault img (s.fwk kind) = none →
      exec (.imageVerify kind) s = .next (s.setFw kind { s.fwk kind with st := .verified, stAt := s.now })) ∧
    (∀ kind img n, (s.fwk kind).st = .staged → (s.fwk kind).newest = some img → imageFault img (s.fwk kind) = some n →
      exec (.imageVerify kind) s = .next ((s.setFw kind { s.fwk kind with
        newest := none, asked := false, st := if (s.fwk kind).committed then .committed else .none, stAt := s.now }).send 0 msgImageBad [kind, n]))

/-- R476, R479, R481, R482, R484 to R486: a verified image goes into HANDOVER, is started from its ENTRY in the idle slot of every instance, and
the old image of the first one writes a snapshot that its delta log follows; or it waits for what blocks it. An instance that has caught up in
100 ms switches over, its slots changing roles, and with the first one the image is in PROBATION and in service; heartbeats in time are counted, a
late one is none; without one for 4 ms the instances fall back; when every instance has run for 1 s, the old image is discarded. -/
def Stated.ImagesHandOver : Prop :=
  ∀ (s : State) (kind : Nat), let f := s.fwk kind
    (f.st = .verified → 2 ≤ kind → kind ≤ 4 → s.fwMoving = false → s.handoverBlocked kind = false →
      ∃ t, exec (.handoverRequest kind) s = .next t ∧ (t.fwk kind).st = .handover ∧ (t.fwk kind).switched = [] ∧
        (t.fwk kind).version = f.version ∧ (∀ i ∈ instances kind, ((t.fwk kind).inst i).idle = FwSlot.started f.newest) ∧
        ∀ i, (instances kind).head? = some i →
          ((t.fwk kind).inst i).snapshot = (f.inst i).dseq ∧ ((t.fwk kind).inst i).log = []) ∧
    (f.st = .verified → 2 ≤ kind → kind ≤ 4 → s.fwMoving = false → s.handoverBlocked kind = true →
      exec (.handoverRequest kind) s = .next (s.setFw kind { f with asked := true })) ∧
    (∀ inst, f.moving = true → f.trapped = false → f.next kind = some inst → f.begun kind inst = true → s.now < f.startAt + 100000000 →
      ∃ t, exec (.imageCatchUp kind inst) s = .next t ∧ t = s.setFw kind (t.fwk kind) ∧ inst ∈ (t.fwk kind).caught ∧
        ((t.fwk kind).inst inst).replayed = (f.inst inst).dseq) ∧
    (∀ inst img, f.st = .handover → f.trapped = false → f.newest = some img → f.next kind = some inst → f.caught.contains inst = true →
      ∃ t, exec (.switchOver kind inst) s = .next t ∧ (t.fwk kind).st = .probation ∧ (t.fwk kind).version = imgVersion img ∧
        (t.fwk kind).pversion = f.version ∧ (t.fwk kind).switched = f.switched ++ [inst] ∧ t.mepoch = s.mepoch + 1 ∧
        (t.fwk kind).mr = sha256 (f.mr ++ imgDigest img ++ leBytes 4 (imgVersion img)) ∧
        ((t.fwk kind).inst inst).second = !(f.inst inst).second) ∧
    (∀ inst, f.st = .probation → inst ∈ f.switched → s.now < AMap.get f.beats inst 0 + 4000000 →
      ∃ t, exec (.heartbeat kind inst) s = .next t ∧ AMap.get (t.fwk kind).beats inst 0 = s.now ∧ (t.fwk kind).st = .probation) ∧
    (∀ inst, AMap.get f.beats inst 0 + 4000000 ≤ s.now → exec (.heartbeat kind inst) s = .next s) ∧
    (∀ inst, f.st = .probation → inst ∈ f.switched → AMap.get f.beats inst 0 + 4000000 ≤ s.now →
      ∃ t, exec (.heartbeatMissed kind inst) s = .next t ∧ (t.fwk kind).st = .rolledBack ∧ (t.fwk kind).version = f.pversion ∧
        t.mepoch = s.mepoch + 1) ∧
    (f.st = .probation → f.switched.length = (instances kind).length → f.switchAt + 1000000000 ≤ s.now →
      (∀ i ∈ f.switched, s.now < AMap.get f.beats i 0 + 4000000) →
      ∃ t, exec (.probationCommit kind) s = .next t ∧ (t.fwk kind).st = .committed ∧ (t.fwk kind).version = f.version ∧
        ∀ i ∈ instances kind, ((t.fwk kind).inst i).idle = FwSlot.stopped ∧ ((t.fwk kind).inst i).log = [])

/-- R477, R479, R480, R490: a new image that does not catch up in 100 ms, or traps before it is in service, is rolled back; one that traps in
service falls back; a new PSC image that has not reported step 1 within 1 s leaves the boot to the previous one, which is verified and
measured, and else does not run. -/
def Stated.ImagesRollBack : Prop :=
  ∀ (s : State) (kind : Nat), let f := s.fwk kind
    (∀ inst, f.st = .handover → f.next kind = some inst → f.begun kind inst = true → f.caught.contains inst = false →
      f.startAt + 100000000 ≤ s.now →
      ∃ t, exec (.catchUpTimeout kind inst) s = .next t ∧ (t.fwk kind).st = .rolledBack ∧ (t.fwk kind).version = f.version) ∧
    (∀ inst, f.st = .handover → ∃ t, exec (.newImageTrap kind inst) s = .next t ∧ (t.fwk kind).st = .rolledBack ∧
      (t.fwk kind).version = f.version) ∧
    (∀ inst, f.st = .probation → inst ∈ f.switched → ∃ t, exec (.newImageTrap kind inst) s = .next t ∧
      (t.fwk kind).st = .rolledBack ∧ (t.fwk kind).version = f.pversion) ∧
    ((s.fwk 1).trial = true → (s.fwk 1).startAt + 1000000000 ≤ s.now →
      ∃ t, exec .pscImageBootTimeout s = .next t ∧ (t.fwk 1).st = .rolledBack ∧ (t.fwk 1).newest = none ∧ (t.fwk 1).trial = false ∧
        ((s.fwk 1).romOk (s.fwk 1).image = true → t.mepoch = s.mepoch + 1) ∧
        ((s.fwk 1).romOk (s.fwk 1).image = false → t.mepoch = s.mepoch ∧ t.devstat = s.devstat ||| 2)) ∧
    ((s.fwk 1).trial = false → exec .pscImageBootTimeout s = .next s)

/-- R371, R478, R488: the fused minimum rises to at most the security version of a committed image; a request that comes authenticated under the
key derived from its context's TKEY (log entry 121), with a nonce of 32 bytes, is answered with a signed quote, and another is refused; a
confidential tenant sets IMBAL and TRACE the same way. -/
def Stated.SecureRequestsAnswer : Prop :=
  ∀ s : State,
    (∀ kind min, (s.fwk kind).committed = true → (s.fwk kind).st ≠ .probation → min ≤ (s.fwk kind).svn → (s.fwk kind).minSvn < min →
      exec (.svnMinimumRaise kind min) s = .next (s.setFw kind { s.fwk kind with minSvn := min })) ∧
    (∀ kind min, (s.fwk kind).svn < min → exec (.svnMinimumRaise kind min) s = .next s) ∧
    (∀ ctx < 64, (s.ctx ctx).st ≠ .free → bitAt (s.ctx ctx).desc.flags 0 = true →
      (∀ nonce : List Byte, nonce.length = 32 →
        exec (.quoteRequest ctx nonce (Config.tenantTag (s.ctx ctx).desc.tkey (ctx :: nonce.map BitVec.toNat))) s =
          .next (s.send 0 msgQuote (ctx :: Config.slhDsaSign (s.quote nonce) :: s.quote nonce))) ∧
      ∀ imbal trace : Bool, ∃ t,
        exec (.tenantAuthenticatedRequest ctx imbal trace (Config.tenantTag (s.ctx ctx).desc.tkey [ctx, imbal.toNat, trace.toNat])) s = .next t ∧
        t = s.setCtx ctx (t.ctx ctx) ∧
        bitAt (t.ctx ctx).desc.flags 0 = true ∧ bitAt (t.ctx ctx).desc.flags 1 = imbal ∧ bitAt (t.ctx ctx).desc.flags 2 = trace) ∧
    (∀ ctx tag, 64 ≤ ctx ∨ (s.ctx ctx).st = .free ∨ bitAt (s.ctx ctx).desc.flags 0 = false →
      (∀ nonce, exec (.quoteRequest ctx nonce tag) s = .next s) ∧
      ∀ imbal trace, exec (.tenantAuthenticatedRequest ctx imbal trace tag) s = .next s) ∧
    (∀ ctx (nonce : List Byte) tag, nonce.length ≠ 32 ∨ tag ≠ Config.tenantTag (s.ctx ctx).desc.tkey (ctx :: nonce.map BitVec.toNat) →
      exec (.quoteRequest ctx nonce tag) s = .next s) ∧
    (∀ ctx imbal trace tag, tag ≠ Config.tenantTag (s.ctx ctx).desc.tkey [ctx, imbal.toNat, trace.toNat] →
      exec (.tenantAuthenticatedRequest ctx imbal trace tag) s = .next s)

/-- The events of firmware images and of the PSC's mailbox.
Where the spec leaves a point open it follows the model's choice: log entries 78 and 88. -/
def Obligations.FirmwareEventsAct : Prop :=
  Stated.ImagesStageAndVerify ∧ Stated.ImagesHandOver ∧ Stated.ImagesRollBack ∧ Stated.SecureRequestsAnswer
/-! ## Decoding -/

/-- R44, R50 to R64 and the worked encodings of the spec: words that the spec writes out decode to the instructions that it names, and the
words that it names as illegal to the faults that it names. -/
def Obligations.WordsOfTheSpecDecode : Prop :=
  let ok (w0 w1 w2 : Nat) (i : Instr) (n : Nat) : Prop := decodeWords 0 w0 w1 w2 = .ok i n
  let v : VX := default
  ok 0 0 0 .nop 4 ∧ ok 0x001CC504 0 0 (.add 5 6 7) 4 ∧ ok 0xFFE06308 0 0 (.addi 3 3 (-8)) 4 ∧ ok 0xFFA4C528 0 0 (.bne 5 6 (-3)) 4
  ∧ ok 0x04806282 2 7 (.vaddLit { v with et := 2, vd := 2, va := 3, pg := 1, zm := true } 7) 12
  ∧ ok 0x0000012D 0 0 (.jalLong 0) 8 ∧ ok 0x0062E358 0 0 (.hstart 3 23 24) 4 ∧ ok 0x0000635D 0x303 0 (.rdvadd 3 3 3 16) 8
  ∧ ok 0x6894C540 0 0 (.fcvti 3 5 6 2 true) 4 ∧ ok 0x4682E048 0 0 (.csrw 0 23 0x1A0) 4
  ∧ ok 0x2918A485 0x7A 0 (.vfma { v with et := 10, vd := 4, va := 5, vb := 6, vc := 7, pg := 2 }) 8
  ∧ ok 0x1318A750 0 0 (.amocas false 7 5 6) 4 ∧ ok 0x0004A054 0 0 (.acq 5 true) 4
  ∧ ok 0x019CC5BD 0x1F803 0 (.cpytile 5 6 7 3 0 63 false) 8
  ∧ ok 0x0018A7B5 0x3FC33280 0 (.mxp 7 5 6 ⟨0, 8, 2, 3, false, true, 1, 0, true, 127⟩) 8
  ∧ ok 0x0000A7CD 2 0 (.klaunch 7 5 2 false) 8 ∧ ok 0x0000C5D0 0 0 (.lquery 5 6) 4 ∧ ok 0x0080C5D5 1 0 (.lstat 5 6 1) 8
  ∧ ok 0x008000D8 0 0 .dstop 4
  ∧ decodeWords 0 0x00010000 0 0 = .bad 0x01 ∧ decodeWords 0 0xFFFFFFFF 0 0 = .bad 0x02 ∧ decodeWords 0 0x64 0 0 = .bad 0x01
  ∧ decodeWords 0 0x5 0 0 = .bad 0x01 ∧ decodeWords 24 0x04806282 2 7 = .bad 0x03

/-- R44, R46, R49: the words of every well-formed instruction (no event), wherever they lie in one fetch block and whatever follows them there,
decode to that instruction and its length. -/
def Obligations.DecodeOfEncode : Prop :=
  ∀ i : Instr, i.isInsn = true → i.wf = true → ∀ (off : Nat) (rest : List Nat), off % 32 + 4 * (encode i).length ≤ 32 →
    let l := encode i ++ rest
    decodeWords off (l.getD 0 0) (l.getD 1 0) (l.getD 2 0) = .ok i (4 * (encode i).length)

/-- R44, R46, R49: checks 1 to 5 in their order: LEN = 0b11 is 0x02, else crossing a fetch block is 0x03, else words that are no
well-formed instruction's are 0x01; words that are accepted are the very words of the instruction read, so no bit of them is dropped. -/
def Obligations.DecodeChecksInOrder : Prop :=
  ∀ (off w0 w1 w2 : Nat),
    (w0 % 4 = 3 → decodeWords off w0 w1 w2 = .bad 0x02)
    ∧ (w0 % 4 ≠ 3 → 32 < off % 32 + 4 * (w0 % 4 + 1) → decodeWords off w0 w1 w2 = .bad 0x03)
    ∧ (w0 % 4 ≠ 3 → off % 32 + 4 * (w0 % 4 + 1) ≤ 32 →
      let ws := [w0, w1, w2].take (w0 % 4 + 1)
      (∀ i n, decodeWords off w0 w1 w2 = .ok i n ↔ i.wf = true ∧ encode i = ws ∧ n = 4 * (w0 % 4 + 1))
      ∧ ((∀ i, i.wf = true → encode i ≠ ws) → decodeWords off w0 w1 w2 = .bad 0x01))

/-! ## Steps -/

/-- R39, R44, R49, R126, R281: a fetch gives the words that stand at pc, in the core's cached block or else at their home in the device half;
one from the host half faults with 0x11; a step of the
issuing thread then is exec of the instruction that they decode to, or takes the fault of R49. An event at the head of the agenda is
exec of that event; a waiting thread that tries again executes the instruction that it holds.
Where the spec leaves a point open it follows the model's choice: log entries 1 and 86. -/
def Obligations.StepRunsDecodedInstruction : Prop :=
  ∀ (s : State) (tid slot : Nat),
    let k := s.task tid
    let pc := (s.thread tid slot).pc.toNat
    let word (bs : List PByte) (j : Nat) : Nat := leNat (((bs.drop (pc % 32 + 4 * j)).take 4).map PByte.b)
    let clean (bs : List PByte) : Prop := ∀ b ∈ (bs.drop (pc % 32)).take (4 * (word bs 0 % 4 + 1)), b.p = false
    (∀ l, s.codeBlock k.core k.ctx (pc / 32) = some l → clean l.bytes →
      s.fetch tid slot = (s, .words (word l.bytes 0) (word l.bytes 1) (word l.bytes 2)))
    ∧ (∀ r t, s.codeBlock k.core k.ctx (pc / 32) = none → regionOf pc = .dev →
      s.translate k.cluster k.ctx (pc / 32 * 32) .fetch = (r, .ok t) →
      r.laterChecks .fetch 4 false [.page (pc / 32 * 32) 32 t] = none → r.home t (pc / 32 * 32) 32 = .ready →
      let bs := r.homeBytes t (pc / 32 * 32) 32
      clean bs → ∃ u, s.fetch tid slot = (u, .words (word bs 0) (word bs 1) (word bs 2)) ∧ u.mem = r.mem ∧ u.tasks = r.tasks)
    ∧ (s.codeBlock k.core k.ctx (pc / 32) = none → regionOf pc = .host → s.fetch tid slot = (s, .fault 0x11 pc))
    ∧ (∀ is, s.agenda = [] → s.issuing = (tid, slot) :: is →
      let s1 : State := { s with issuing := is, cur := (tid, slot), curW := (0, 0, 0) }
      s1.thr.canRun = true → ∀ u w0 w1 w2, s1.fetch tid slot = (u, .words w0 w1 w2) →
      let u1 : State := { u with curW := (w0, w1, w2) }
      (∀ i n, decodeWords u1.thr.pc.toNat w0 w1 w2 = .ok i n → step s = exec i u1)
      ∧ ∀ c, decodeWords u1.thr.pc.toNat w0 w1 w2 = .bad c → step s = .next (u1.takeFault u1.cur.1 u1.cur.2 c 0 0 0 0))
    ∧ (∀ i ms, s.agenda = .event i :: ms → step s = exec i { s with agenda := ms })
    ∧ ∀ ms w w0 w1 w2, s.agenda = .resume tid slot :: ms → k.onCore = true → (s.thread tid slot).st = .waiting w → w ≠ .shadow →
      (s.thread tid slot).held = some (w0, w1, w2) →
      let u : State := { s with agenda := ms, cur := (tid, slot), curW := (w0, w1, w2) }
      (∀ i n, decodeWords pc w0 w1 w2 = .ok i n → step s = exec i u)
      ∧ ∀ c, decodeWords pc w0 w1 w2 = .bad c → step s = .next (u.takeFault tid slot c 0 0 0 0)

/-- Nothing is refused, and an instruction of a thread stops the machine only where no thread can run it: an event, and an instruction
of a thread that is READY or tries again (R126), answers a next state; so does every step whose agenda is empty. -/
def Obligations.NothingIsRefused : Prop :=
  ∀ s : State,
    (∀ i, (s.thr.canRun = true ∨ encode i = []) → Completes i s)
    ∧ (∀ i, s.thr.canRun = false → encode i ≠ [] → exec i s = .fault .noThread)
    ∧ (s.agenda = [] → ∃ t, step s = .next t)

/-- R335, R496: with a packet open every instruction but xput and xend raises 0x01; in a PC-match handler so do the majors 0x20 to 0x2B,
THRD, RDV, SYNC, XCHG and KLCH, and acq, tryacq and tret. -/
def Obligations.PacketsAndHandlersBarInstructions : Prop :=
  ∀ (s : State) (i : Instr), s.thr.canRun = true → encode i ≠ [] →
    let maj := (encode i).getD 0 0 / 4 % 64
    let barred : Prop := (0x20 ≤ maj ∧ maj ≤ 0x2B) ∨ maj = 0x16 ∨ maj = 0x17 ∨ maj = 0x31 ∨ maj = 0x32 ∨ maj = 0x33
      ∨ (∃ a sh, i = .acq a sh) ∨ (∃ d a sh, i = .tryacq d a sh) ∨ i = .tret
    (s.thr.packet.isSome = true → (∀ a, i ≠ .xput a) → i ≠ .xend → FaultsAt i s s.countHandler 0x01 0 0)
    ∧ (s.thr.shadow.isSome = true → barred → FaultsAt i s s.countHandler 0x01 0 0)

/-! ## Taking a fault -/

/-- R335, R376, R377: a fault stops its thread with a record of it; pc stays at the instruction, but goes to the xopen of an open packet,
which is discarded; no register, flag or predicate of any thread changes, no other thread does, and no memory but a trace record. -/
def Stated.FaultsStopThreads : Prop :=
  ∀ (s : State) (tid slot code kind addr i1 i2 : Nat),
    let t := s.thread tid slot
    let k := s.task tid
    let u := s.takeFault tid slot code kind addr i1 i2
    let n := u.thread tid slot
    n.st = .stopped ∧ n.packet = none ∧ n.pc = (match t.packet with | some p => p.xopen | none => t.pc)
    ∧ n.frec = some {
        code := code, kind := kind, slot := slot, core := k.core, action := 0, ctime := s.clusterTime k.cluster, kid := k.kid
        flags := (if t.packet.isSome then 1 else 0) + (if t.fltrec.getLsbD 8 then 2 else 0)
        w0 := s.curW.1, pc := t.pc.toNat, addr := addr, info1 := i1, info2 := i2 }
    ∧ n.x = t.x ∧ n.xp = t.xp ∧ n.lr = t.lr ∧ n.v = t.v ∧ n.vp = t.vp ∧ n.p = t.p ∧ n.tflags = t.tflags ∧ n.fltrec = t.fltrec
    ∧ (∀ j, j ≠ slot → u.thread tid j = s.thread tid j) ∧ (∀ o, o ≠ tid → u.task o = s.task o)
    ∧ (s.traceOn k = false → u.mem = s.mem)

/-- R209, R377, R381, R382: reflection writes the trap frame of the thread's slot, the record in it with ACTION = 2, sets FLTREC to HND and the
code, and makes the thread READY at TRAPENT with its cancelled special functions done; no register, flag or other byte of memory changes. -/
def Stated.FaultsAreReflected : Prop :=
  ∀ (s : State) (tid slot seq : Nat) (r : FaultRec),
    let t := s.thread tid slot
    let k := s.task tid
    t.frec = some r →
    let u := s.reflect tid slot seq
    let key := s.cmOf tid (k.lrec.cmsize * 1024 + 384 * slot)
    let num (o n : Nat) : Nat := leNat ((u.mem.read (key + o) n).map PByte.b)
    u = { (s.setThread tid slot { t with
      st := .ready, pc := k.trapent, frec := none, handed := false, held := none,
      fltrec := BitVec.ofNat 64 (0x100 + r.code) }).redoSfu tid slot with mem := u.mem }
    ∧ (∀ a, ¬(key ≤ a ∧ a < key + 384) → u.mem.byte a = s.mem.byte a)
    ∧ (∀ i : Reg, num (8 * i.toNat) 8 = (t.xr i).toNat) ∧ (∀ i : Reg, bitAt (num 0x100 8) i.toNat = t.xpr i)
    ∧ num 0x108 8 = t.lr.toNat ∧ num 0x110 8 = t.tflags.toNat ∧ num 0x118 8 = t.pc.toNat
    ∧ (∀ j < 32, (u.mem.byte (key + 0x120 + j)) = 0)
    ∧ num 0x140 8 = seq % 2 ^ 64 ∧ num 0x148 1 = r.code % 256 ∧ num 0x149 1 = r.kind % 256 ∧ num 0x14A 1 = r.slot % 256
    ∧ num 0x14B 1 = r.flags % 256 ∧ num 0x14C 2 = r.core % 65536 ∧ num 0x14E 1 = 2 ∧ num 0x14F 1 = 0 ∧ num 0x150 8 = r.ctime % 2 ^ 64
    ∧ num 0x158 4 = r.kid % 2 ^ 32 ∧ num 0x15C 4 = r.w0 % 2 ^ 32 ∧ num 0x160 8 = r.pc % 2 ^ 64 ∧ num 0x168 8 = r.addr % 2 ^ 64
    ∧ num 0x170 8 = r.info1 % 2 ^ 64 ∧ num 0x178 8 = r.info2 % 2 ^ 64

/-! ## Reset and invariants -/

/-- What the spec states for reset: DEVSTAT 0 (R34); the fuses of an HXI-9640 enable every cluster and OMU, stack and engine (R35, R36); TFLAGS of a
new thread has RM = 1 and no flag (R119); PHPROBE 16, DRLIMIT 4, every TCFG 0 and no bank loaded (R288, R290, R309); every capability 0 (R292);
PMCTL and TRBASE 0 (R493, R498); ports OFF (R430), of 2, 40 and 48 lanes (R30); routes UNREACH (R436); copies of chip time in SYNC (R416); every
context FREE (R374). Memory lists nothing, that is, every byte reads 0 (log entry 3).
Where the spec leaves a point open it follows the model's choice: log entry 5. -/
def Obligations.ResetStateIsAsStated : Prop :=
  let s := State.reset
  s.devstat = 0
  ∧ (s.enmap.extractLsb' 0 96 = BitVec.allOnes 96 ∧ s.enmap.extractLsb' 96 96 = BitVec.allOnes 96
    ∧ s.enmap.extractLsb' 192 16 = 0xFFFF ∧ s.enmap.extractLsb' 208 8 = 0xFF ∧ s.enmap.extractLsb' 216 8 = 0x40
    ∧ s.enmap.extractLsb' 224 32 = 0)
  ∧ Thread.empty.tflags = 1
  ∧ (∀ c, (s.cluster c).phprobe = 16 ∧ (s.cluster c).drlimit = 4 ∧ (∀ n, AMap.get (s.cluster c).tcfg n 0 = 0)
      ∧ (s.cluster c).loaded = 0 ∧ (s.cluster c).time.st = .sync ∧ (s.cluster c).time.off = 0)
  ∧ (∀ n, AMap.get (s.task n).caps n 0 = 0) ∧ Task.blank.pmctl = 0 ∧ Task.blank.trbase = 0
  ∧ Task.blank.gain = 3 ∧ Task.blank.enob = 0xFF00 ∧ Task.blank.drfail = 0 ∧ Task.blank.pmt = []
  ∧ (∀ p, (s.port p).st = .off) ∧ (∀ p < 96, (s.port p).lanes.length = 2) ∧ (∀ p, 96 ≤ p → p < 104 → (s.port p).lanes.length = 40)
  ∧ (∀ p, 104 ≤ p → p < 108 → (s.port p).lanes.length = 48)
  ∧ (∀ d, s.routeOf d = 2 ^ 28 + 127 * 2 ^ 21 + 127 * 2 ^ 14 + 127 * 2 ^ 7 + 127)
  ∧ (∀ c, (s.ctx c).st = .free)
  ∧ ∀ a, s.mem.byte a = 0 ∧ s.mem.poisoned a = false

/-- R35, R42: the fuses are those of m, and the core clock lies between 1.2 and 2 GHz. -/
def Stated.FusesAndClock (m : BitVec 256) (s : State) : Prop := s.enmap = m ∧ 1200 ≤ s.clock ∧ s.clock ≤ 2000

/-- The invariants below hold at reset.
Where the spec leaves a point open it follows the model's choice: log entries 4 and 5. -/
def Obligations.InvariantsHoldAtReset : Prop :=
  Stated.FusesAndClock enmap9640 State.reset ∧ State.reset.mem.wf = true

/-- R35, R42: no step changes the map of enabled units, and none takes the core clock out of its range. -/
def Obligations.StepKeepsFusesAndClock : Prop :=
  ∀ (m : BitVec 256) (s t : State), Stated.FusesAndClock m s → step s = .next t → Stated.FusesAndClock m t

/-- Every step keeps memory in its canonical form: the listed keys rise strictly, no listed byte is 0, and the poisoned granules rise
strictly, so equal memories are equal data.
Where the spec leaves a point open it follows the model's choice: log entry 3. -/
def Obligations.StepKeepsMemoryCanonical : Prop :=
  ∀ s t : State, s.mem.wf = true → step s = .next t → t.mem.wf = true

/-! ## Statements over several groups of instructions -/

/-- R151, R147, R148: every ALU function gives xd its result, computed from both sources before xd is written, with the OR of the sources' poison
bits; it advances pc by 4, sets no flag and changes nothing else. Its word is of format Q3 with MAJ 0x01 and its FN9; FN9 values 26 to 511 are
refused. R152 to R155: the immediate and literal forms compute as the register forms do, with the immediate sign-extended (zero-extended by liz, in
the high half by lihi), and carry the poison of xa alone; literals take 8 bytes. -/
def Obligations.ScalarIntegerGivesResult : Prop := Stated.AluGivesResult ∧ Stated.ImmediateGivesResult

/-- R157: the counting and reversing functions, each characterised by the bits of its operand. R158, R159: a field given by an offset and a width is
truncated at bit 63; extract, insert and mask act on it bit by bit; the register forms take the offset from xb[7:0] and the width from xb[15:8], and
bfi and bfii keep the bits of xd outside the field. -/
def Obligations.BitInstructionsGiveResult : Prop := Stated.BitCountsGiveResult ∧ Stated.BitFieldsGiveResult

/-- R183, R382: tret in a reflected handler restores every x register with its poison, lr, TFLAGS and pc from the trap frame, clears FLTREC.HND and
writes no memory; a pc that is no multiple of 4 raises 0x04, whose record has ADDR 0 (log entry 44), and outside a handler tret raises 0x01. R184,
R495: pmret in a PC-match handler gives the thread its own registers back and resumes it at PMEPC, and frees the shadow context; a PMEPC that is no
multiple of 4 raises 0x04, whose record has ADDR 0 (log entry 44), and outside a handler pmret raises 0x01.
Where the spec leaves a point open it follows the model's choice: log entry 15. -/
def Obligations.ReturnsRestoreState : Prop := Stated.TretRestoresTrapFrame ∧ Stated.PmretRestoresShadow

/-- R168 to R170: csrr gives xd the register's value without poison; csrw, csrs and csrc raise 0x51 on a poisoned xa before anything else, raise 0x06
for a number that cannot be read or that refuses the write, and otherwise write the new value and give xd the old one. R168, R171: a write of a core's
CSR takes effect as the write of the thread of its slot, whatever thread the state speaks of; a write that is refused, or by a core without a task,
changes nothing. A write of LINK sets lr of the slot's thread and nothing else. R12, R119, R120, R169, R309, R323, R493: what a core's write of a CSR
stores: TFLAGS and LINK of the thread, TRAPENT as a multiple of 4, GAIN clipped to 12, STAGGER's low bits; TRAPENT, STAGGER and PMCTL are refused to
helpers, a read-only or unassigned number to all, PHPROBE and DRLIMIT to a core without the PHASE right.
Where the spec leaves a point open it follows the model's choice: log entry 4. -/
def Obligations.CsrInstructionsAct : Prop := Stated.CsrInstructionsReadAndWrite ∧ Stated.CsrWriteEventsAct ∧ Stated.CsrWritesStoreFields

/-- R206 to R209: a special function takes a free entry of the queue, in slot order, and gives every active lane its value, with the flags of the
active lanes; without a free entry the thread waits for one. R207: special functions of NaNs, infinities and zeros: 1/b and 1/√b of a zero give the
infinity of its sign with DZ, log2 of a zero −∞ with DZ, 2^0 and cos 0 give 1, the odd functions keep a zero; 1/√b and log2 of −∞, and sin and cos of
an infinity, give the canonical NaN with NV, as a signalling NaN does; tanh gives ±1 and 1/(1 + e^−b) gives 0 or 1 at the infinities.
Where the spec leaves a point open it follows the model's choice: log entries 41 and 84. -/
def Obligations.SpecialFunctionsAct : Prop := Stated.SpecialFunctionsGiveLanes ∧ Stated.SpecialFunctionsAtSpecialOperands

/-- R210, R211, R213: a vector load takes its active lanes' addresses by its form; a poisoned base, stride or active offset raises 0x51 when some lane
is active; without an active lane nothing is accessed; a lane that is read takes its element with its poison, every other lane is zeroed under ZM and
stays else; vldff reads up to the first lane that would fault and says in pf which. R210: the addresses of lanes: consecutive elements, a stride, an
offset of its own, one address for all, or elements without gaps, counted over the active lanes below.
Where the spec leaves a point open it follows the model's choice: log entries 8 and 43. -/
def Obligations.VectorLoadsAct : Prop := Stated.VectorLoadsFillLanes ∧ Stated.VectorAddressesFollowForm

/-- R84 to R86, R91, R93, R94: rounding leaves a value that the format holds as it is, with no flag; a NaN operand of an arithmetic function gives the
canonical NaN, and the flag NV alone when some operand is signalling. R99, R100, R102: a packed block has 34 or 18 bytes, and an element of it decodes
as a NaN exactly when the packed value is one. -/
def Obligations.RoundingKeepsValuesAndNaNs : Prop := Stated.RoundingKeepsValuesAndNaNs ∧ Stated.BlocksKeepNaNs

/-- R148, R217, R219, R220: a scalar load raises 0x51 on a poisoned base; else it reads its bytes at xa + offset, extended to 64 bits, with the OR of
their granules' poison; a fault or a wait of the access is the instruction's. R148, R217, R219, R220: a scalar store raises 0x51 on a poisoned base;
else the low bytes of xb go to xa + offset with the poison of xb, a fault or a wait of the access being the instruction's. R236: pref never faults and
never waits, even on a poisoned or bad address; it changes no register and no byte of memory.
Where the spec leaves a point open it follows the model's choice: log entries 8, 9 and 14. -/
def Obligations.ScalarMemoryInstructionsAct : Prop := Stated.ScalarLoadsGiveValue ∧ Stated.ScalarStoresPutValue ∧ Stated.PrefetchIsAHint

/-- R229, R232, R233: on an object that can be named, acq of one it can have becomes a holder, and waits in the queue else; tryacq answers 1 or 0
without waiting; rel of a holder leaves the object (the objects follow their pages first; log entry 116); a second request of a holder and a release
of a non-holder raise 0x64, a poisoned address 0x51. R229, R230: an object's STATE says its exclusive holder's core and slot, its shared holders and,
up to 255, its queued requests; one with none of them and no range is not active. R234, R235: bind records a range of multiples of 128 of translated
memory in the first empty one of the object's three, unbind empties the one with its base; a bad range, a full object and an unknown base raise 0x64,
a poisoned operand 0x51.
Where the spec leaves a point open it follows the model's choice: log entries 13, 16, 21 and 39. -/
def Obligations.SyncInstructionsAct : Prop := Stated.SyncObjectsGrantAndRelease ∧ Stated.ObjectStateIsWritten ∧ Stated.BindRecordsRanges

/-- R123, R125, R135: hstart, in the control thread alone, fills the lowest empty slot with a READY helper at xa, its stack pointer, gp, argument and
slot number in x1 to x4 and the low bits of TFLAGS, and gives xd the slot; with every slot taken xd is 0; a target that is no multiple of 4 raises
0x04, whose record has ADDR 0 (log entry 44), a poisoned one 0x51, a helper's hstart 0x0A, one between a sarrive and its swait 0x30. R136 to R140:
hjoin of an exited helper takes its exit value and empties its slot, of a live one waits, of a bad slot raises 0x0A; hexit with nothing outstanding
ends its helper with its value, and the join that waits for it; hpeek says 0 for an empty slot, 2 for an exited one, 1 else; waittl goes on once its
timeline has the value; kexit of the control thread with nothing outstanding ends its task with the low 32 bits of xa.
Where the spec leaves a point open it follows the model's choice: log entry 52. -/
def Obligations.ThreadsStartJoinAndEnd : Prop := Stated.HstartStartsHelper ∧ Stated.ThreadsJoinAndEnd

/-- R251 to R254: splook of a block that is RESIDENT pins it and gives its address; of one that is FILLING, or pinned 4,095 times, it waits; of none
it allocates one of the most preferred runs, FILLING, and gives its address plus 1, or gives 3 when no run is free; a bad handle or block index raises
0x63, a poisoned operand 0x51. R252, R253, R255: spevict drops the handle's RESIDENT blocks without pins, marks the others and gives xd the granules
freed; spdemote sets the class of its RESIDENT blocks to 0, spprio the handle's priority and the class of all its blocks; sprel drops one pin of the
block at xa, which becomes VACANT with its last one when xb or a mark says so; a block that the kernel does not hold raises 0x63.
Where the spec leaves a point open it follows the model's choice: log entries 21 and 54. -/
def Obligations.ScratchpadInstructionsAct : Prop := Stated.SplookFindsOrAllocates ∧ Stated.ScratchpadHandlesAct

/-- R294, R295, R314, R317 to R319: an operation of the optical matrix unit that passes the checks of its issue is sent to its unit, and its thread
waits; when the unit's answer is there the instruction completes: with a precise fault of the unit's checks, a wait while 32 operations are staged, or
else staged, with the next number of tl1 in the destination. A bad target, tile or shape raises 0x22 or 0x25 and a missing right 0x23 before anything
is sent. R311, R318, R319: dcmp raises 0x22 for a misaligned destination or source, 0x23 without the right or with a bad tag, 0x24 without an engine
or light, then the fault of its ranges; it waits while 64 decompositions are queued, and else is queued on its die under the next number of tl1.
Where the spec leaves a point open it follows the model's choice: log entries 23 and 66. -/
def Obligations.OmuOperationsAreAccepted : Prop := Stated.MatrixOperationsAreAccepted ∧ Stated.DecompositionIsQueued

/-- R331 to R335: xsend queues an entry of the core's exchange list, after its checks; xopen opens a packet, xput captures up to 16 words with their
poison, xend queues the packet's words as one entry and closes it; an entry of no word is not queued; a poisoned operand of xsend or xopen raises
0x51, a word too many 0x01. R334: the checks of an exchange entry in their order, which a count of 0 passes: no membership or a rank beyond the group
raises 0x31, words beyond the window 0x61, a bad source range its own fault, an unreachable module 0x40, poison to another module 0x51, a full list
0x32.
Where the spec leaves a point open it follows the model's choice: log entries 18 and 35. -/
def Obligations.ExchangeInstructionsAct : Prop := Stated.ExchangeEntriesAreQueued ∧ Stated.ExchangeChecksInOrder

/-- R328 to R330: a barrier instruction of a helper raises 0x0A, with a live helper 0x30, of a core without membership at its level 0x31, of a broken
group 0x33; sarrive with nothing buffered and nothing pending registers its arrival and goes on; a member that waits, or comes to its swait, goes on
once its release can take effect, syncv with the vote in xd. R330: the vote of a superstep combines the votes of its syncv arrivals by its operation:
sum, signed maximum and minimum, OR, AND, poisoned when one of them is; without a vote it is the operation's identity.
Where the spec leaves a point open it follows the model's choice: log entries 34 and 85. -/
def Obligations.BarriersAndVotesAct : Prop := Stated.BarriersArriveAndRelease ∧ Stated.VotesAreCombined

/-- R364 to R366: klaunch of a record that is no multiple of 128 raises 0x70, else it reads the record and waits for the MGC, whose answer gives xd
the launch's number and lets the thread go on 8 bytes further (klaunchMgcAnswer), once an audit block that it must read for that can be read (log
entry 19); kquery reads an entry of the signal table, 0 for entry 0; ksignal with nothing buffered raises an entry to a value; both wait while the
entry cannot be accessed. R345, R366: raising an entry of the signal table writes the greater value, keeps ERR and NZ once set, and leaves the other
bits.
Where the spec leaves a point open it follows the model's choice: log entries 46, 47, 48 and 49. -/
def Obligations.LaunchAndSignalsAct : Prop := Stated.LaunchInstructionsAct ∧ Stated.SignalsOnlyRise

/-- R413, R418 to R422: on the windows, the hole and a non-canonical address lquery gives the kind of place alone, lrenew and pgcnt give 0, or raise
0x14 for a non-canonical address (pgcnt 0x11 for the hole); in translated memory they give what the translation kept and the block's counters say. A
poisoned address raises 0x51. R447 to R450: ldrain is queued under the next number of tl2 with the remote operations to the selected modules that its
core's threads have outstanding and the stores to them that their buffers hold, and retires with the last of these; lstat gives the status word;
irsend and irrecv of a session that is ready, at a slot at least four ahead and free, are scheduled under the next number of tl2, a send with its
buffer's bytes; a bad buffer or slot raises 0x22, no such session 0x43, a poisoned operand 0x51.
Where the spec leaves a point open it follows the model's choice: log entries 25 and 27. -/
def Obligations.LeaseAndLinkAct : Prop := Stated.LeaseInstructionsAct ∧ Stated.LinkInstructionsAct

/-- R37, R217, R219, R223, R388: a load from core memory reads the task's own bytes there, and a store to it changes exactly its own bytes there at
once, whatever the alignment; nothing waits and nothing faults. R37, R210 to R215, R388: vector accesses whose active lanes lie in core memory
complete: a load gives every active lane the bytes at its address and changes no memory, a store writes the elements in ascending lane order, an
atomic at aligned addresses is performed at once.
Where the spec leaves a point open it follows the model's choice: log entries 12 and 38. -/
def Obligations.CoreMemoryIsAccessedAtOnce : Prop := Stated.CoreMemoryAccessesComplete ∧ Stated.VectorCoreMemoryAccessesComplete

/-- R335, R376, R377: a fault stops its thread with a record of it; pc stays at the instruction, but goes to the xopen of an open packet, which is
discarded; no register, flag or predicate of any thread changes, no other thread does, and no memory but a trace record. R209, R377, R381, R382:
reflection writes the trap frame of the thread's slot, the record in it with ACTION = 2, sets FLTREC to HND and the code, and makes the thread READY
at TRAPENT with its cancelled special functions done; no register, flag or other byte of memory changes.
Where the spec leaves a point open it follows the model's choice: log entries 36, 38, 44 and 83. -/
def Obligations.FaultsStopAndAreReflected : Prop := Stated.FaultsStopThreads ∧ Stated.FaultsAreReflected


end
end

