-- ==== Sys2Proof/Laws/Assoc.lean ====
section
/-! SUPPORT. Laws of finite maps: reading after writing, writing twice, and the canonical form. -/

namespace Sys2Proof

variable {α : Type}

theorem AMap.get_erase_ne (m : AMap α) {k j : Nat} (h : j ≠ k) (d : α) : AMap.get (AMap.erase m k) j d = AMap.get m j d := by
  induction m with
  | nil => rfl
  | cons p m ih =>
    obtain ⟨i, v⟩ := p
    by_cases hi : i = k
    · subst hi
      simp_all [AMap.erase, AMap.get, Ne.symm h]
    · simp_all [AMap.erase, AMap.get]

theorem AMap.get_erase_self (m : AMap α) (k : Nat) (d : α) : AMap.get (AMap.erase m k) k d = d := by
  induction m with
  | nil => rfl
  | cons p m ih =>
    obtain ⟨i, v⟩ := p
    by_cases hi : i = k
    · simp_all [AMap.erase]
    · simp_all [AMap.erase, AMap.get]

theorem AMap.get_insert_self (m : AMap α) (k : Nat) (v d : α) (h : ∀ p ∈ m, p.1 ≠ k) : AMap.get (AMap.insert m k v) k d = v := by
  induction m with
  | nil => simp [AMap.insert, AMap.get]
  | cons p m ih =>
    obtain ⟨i, w⟩ := p
    by_cases hi : k < i
    · simp [AMap.insert, AMap.get, hi]
    · have hne : i ≠ k := h (i, w) (by simp)
      simp [AMap.insert, AMap.get, hi, hne]
      exact ih fun p hp => h p (by simp [hp])

theorem AMap.get_insert_ne (m : AMap α) {k j : Nat} (h : j ≠ k) (v d : α) : AMap.get (AMap.insert m k v) j d = AMap.get m j d := by
  induction m with
  | nil => simp [AMap.insert, AMap.get, Ne.symm h]
  | cons p m ih =>
    obtain ⟨i, w⟩ := p
    by_cases hi : k < i
    · simp [AMap.insert, AMap.get, hi, Ne.symm h]
    · simp [AMap.insert, AMap.get, hi, ih]

theorem AMap.erase_no_key (m : AMap α) (k : Nat) : ∀ p ∈ AMap.erase m k, p.1 ≠ k := by
  intro p hp
  simpa [AMap.erase] using (List.mem_filter.mp hp).2

@[simp] theorem AMap.get_put_self (m : AMap α) (k : Nat) (v d : α) : AMap.get (AMap.put m k v) k d = v :=
  AMap.get_insert_self _ _ _ _ (AMap.erase_no_key m k)

theorem AMap.get_put_ne (m : AMap α) {k j : Nat} (h : j ≠ k) (v d : α) : AMap.get (AMap.put m k v) j d = AMap.get m j d := by
  rw [AMap.put, AMap.get_insert_ne _ h, AMap.get_erase_ne _ h]

theorem AMap.get_put (m : AMap α) (k j : Nat) (v d : α) :
    AMap.get (AMap.put m k v) j d = if j = k then v else AMap.get m j d := by
  by_cases h : j = k
  · subst h; simp
  · simp [h, AMap.get_put_ne]

theorem AMap.get_set [DecidableEq α] (m : AMap α) (k j : Nat) (v d : α) :
    AMap.get (AMap.set m k v d) j d = if j = k then v else AMap.get m j d := by
  unfold AMap.set
  by_cases hv : v = d
  · by_cases h : j = k
    · subst h; simp [hv, AMap.get_erase_self]
    · simp [hv, h, AMap.get_erase_ne]
  · simp only [hv, if_false]
    exact AMap.get_put m k j v d

theorem AMap.find?_put_self (m : AMap α) (k : Nat) (v : α) : AMap.find? (AMap.put m k v) k = some v := by
  have h := AMap.erase_no_key m k
  unfold AMap.put
  generalize AMap.erase m k = l at h
  induction l with
  | nil => simp [AMap.insert, AMap.find?]
  | cons p l ih =>
    obtain ⟨i, w⟩ := p
    by_cases hi : k < i
    · simp [AMap.insert, AMap.find?, hi]
    · have hne : i ≠ k := h (i, w) (by simp)
      simp [AMap.insert, AMap.find?, hi, hne]
      exact ih fun p hp => h p (by simp [hp])

theorem AMap.erase_of_no_key (m : AMap α) (k : Nat) (h : ∀ p ∈ m, p.1 ≠ k) : AMap.erase m k = m := by
  unfold AMap.erase
  exact List.filter_eq_self.mpr fun p hp => by simpa using h p hp

theorem AMap.erase_insert (m : AMap α) (k : Nat) (v : α) (h : ∀ p ∈ m, p.1 ≠ k) : AMap.erase (AMap.insert m k v) k = m := by
  induction m with
  | nil => simp [AMap.insert, AMap.erase]
  | cons p m ih =>
    obtain ⟨i, w⟩ := p
    have hne : i ≠ k := h (i, w) (by simp)
    have hm : ∀ p ∈ m, p.1 ≠ k := fun p hp => h p (by simp [hp])
    have h1 := AMap.erase_of_no_key m k hm
    have h2 := ih hm
    unfold AMap.erase at h1 h2 ⊢
    by_cases hi : k < i <;> simp [AMap.insert, hi, hne, h1, h2]

@[simp] theorem AMap.put_put (m : AMap α) (k : Nat) (v w : α) : AMap.put (AMap.put m k v) k w = AMap.put m k w := by
  simp only [AMap.put]
  rw [AMap.erase_insert _ _ _ (AMap.erase_no_key m k)]

/-! ## The canonical form -/

theorem AMap.sorted_iff (m : AMap α) : AMap.sorted m = true ↔ m.Pairwise (fun p q => p.1 < q.1) := by
  induction m with
  | nil => simp [AMap.sorted]
  | cons p m ih =>
    cases m with
    | nil => simp [AMap.sorted]
    | cons q m =>
      obtain ⟨i, v⟩ := p
      obtain ⟨j, w⟩ := q
      simp only [AMap.sorted, Bool.and_eq_true, decide_eq_true_eq, ih, List.pairwise_cons]
      constructor
      · rintro ⟨h, h1, h2⟩
        refine ⟨?_, h1, h2⟩
        intro x hx
        rcases List.mem_cons.mp hx with rfl | hx
        · exact h
        · exact lt_trans h (h1 x hx)
      · rintro ⟨h, h1, h2⟩
        exact ⟨h (j, w) (by simp), h1, h2⟩

end Sys2Proof
end

