-- ==== Sys2Proof/Laws/Memory.lean ====
section
/-! SUPPORT. The canonical form of memory: every operation on it keeps the form, and memory at reset has it. -/

namespace Sys2Proof.Machine

/-- The keys of a list of pairs rise strictly. -/
def Rising {α : Type} (l : List (Nat × α)) : Prop := l.Pairwise fun p q => p.1 < q.1

/-- The canonical form as a proposition. -/
theorem Memory.wf_iff (m : Memory) :
    m.wf = true ↔ Rising m.cells ∧ (∀ c ∈ m.cells, c.2 ≠ 0) ∧ m.pois.Pairwise (· < ·) := by
  simp only [Memory.wf, Bool.and_eq_true, AMap.sorted_iff, List.all_eq_true, bne_iff_ne, and_assoc, Rising, List.pairwise_map]

theorem Rising.filter {α : Type} {l : List (Nat × α)} (h : Rising l) (f : Nat × α → Bool) : Rising (l.filter f) :=
  List.Pairwise.filter f h

/-- Lists below, inside and above a range join in rising order. -/
theorem Rising.join {α : Type} {a b c : List (Nat × α)} (lo hi : Nat) (ha : Rising a) (hb : Rising b) (hc : Rising c)
    (la : ∀ p ∈ a, p.1 < lo) (lb : ∀ p ∈ b, lo ≤ p.1 ∧ p.1 < hi) (lc : ∀ p ∈ c, hi ≤ p.1) (hlh : lo ≤ hi) : Rising (a ++ b ++ c) := by
  unfold Rising at *
  rw [List.pairwise_append, List.pairwise_append]
  refine ⟨⟨ha, hb, fun p hp q hq => ?_⟩, hc, fun p hp q hq => ?_⟩
  · exact Nat.lt_of_lt_of_le (la p hp) (lb q hq).1
  · have h := lc q hq
    rcases List.mem_append.1 hp with hp | hp
    · have := la p hp; omega
    · have := lb p hp; omega

theorem rising_join {a b c : List Nat} (lo hi : Nat) (ha : a.Pairwise (· < ·)) (hb : b.Pairwise (· < ·)) (hc : c.Pairwise (· < ·))
    (la : ∀ p ∈ a, p < lo) (lb : ∀ p ∈ b, lo ≤ p ∧ p < hi) (lc : ∀ p ∈ c, hi ≤ p) (hlh : lo ≤ hi) :
    (a ++ b ++ c).Pairwise (· < ·) := by
  rw [List.pairwise_append, List.pairwise_append]
  refine ⟨⟨ha, hb, fun p hp q hq => ?_⟩, hc, fun p hp q hq => ?_⟩
  · exact Nat.lt_of_lt_of_le (la p hp) (lb q hq).1
  · have h := lc q hq
    rcases List.mem_append.1 hp with hp | hp
    · have := la p hp; omega
    · have := lb p hp; omega

theorem cellsOf_range (bs : List Byte) : ∀ k, ∀ c ∈ cellsOf k bs, k ≤ c.1 ∧ c.1 < k + bs.length ∧ c.2 ≠ 0 := by
  induction bs with
  | nil => intro k c h; simp [cellsOf] at h
  | cons b bs ih =>
    intro k c h
    unfold cellsOf at h
    split at h
    · obtain ⟨h1, h2, h3⟩ := ih (k + 1) c h
      simp only [List.length_cons]
      exact ⟨by omega, by omega, h3⟩
    · rename_i hb
      rcases List.mem_cons.1 h with h | h
      · subst h; simp only [List.length_cons]; exact ⟨Nat.le_refl _, by omega, hb⟩
      · obtain ⟨h1, h2, h3⟩ := ih (k + 1) c h
        simp only [List.length_cons]
        exact ⟨by omega, by omega, h3⟩

theorem cellsOf_rising (bs : List Byte) : ∀ k, Rising (cellsOf k bs) := by
  induction bs with
  | nil => intro k; exact List.Pairwise.nil
  | cons b bs ih =>
    intro k
    unfold cellsOf
    split
    · exact ih (k + 1)
    · refine List.Pairwise.cons (fun c hc => ?_) (ih (k + 1))
      have := cellsOf_range bs (k + 1) c hc
      show k < c.1
      omega

theorem poisOf_range (fs : List Bool) : ∀ g, ∀ j ∈ poisOf g fs, g ≤ j ∧ j < g + fs.length := by
  induction fs with
  | nil => intro g j h; simp [poisOf] at h
  | cons b bs ih =>
    intro g j h
    unfold poisOf at h
    split at h
    · rcases List.mem_cons.1 h with h | h
      · subst h; simp only [List.length_cons]; omega
      · have := ih (g + 1) j h; simp only [List.length_cons]; omega
    · have := ih (g + 1) j h; simp only [List.length_cons]; omega

theorem poisOf_rising (fs : List Bool) : ∀ g, (poisOf g fs).Pairwise (· < ·) := by
  induction fs with
  | nil => intro g; exact List.Pairwise.nil
  | cons b bs ih =>
    intro g
    unfold poisOf
    split
    · refine List.Pairwise.cons (fun c hc => ?_) (ih (g + 1))
      have := poisOf_range bs (g + 1) c hc
      omega
    · exact ih (g + 1)

theorem natInsert_mem (l : List Nat) (k j : Nat) : j ∈ natInsert l k → j = k ∨ j ∈ l := by
  induction l with
  | nil => intro h; simpa [natInsert] using h
  | cons i l ih =>
    intro h
    unfold natInsert at h
    split at h
    · simpa using h
    · split at h
      · exact .inr h
      · rcases List.mem_cons.1 h with h | h
        · exact .inr (by simp [h])
        · rcases ih h with h | h
          · exact .inl h
          · exact .inr (by simp [h])

theorem natInsert_rising (l : List Nat) (k : Nat) (h : l.Pairwise (· < ·)) : (natInsert l k).Pairwise (· < ·) := by
  induction l with
  | nil => exact List.pairwise_singleton _ _
  | cons i l ih =>
    have hc := List.pairwise_cons.1 h
    unfold natInsert
    split
    · refine List.pairwise_cons.2 ⟨fun j hj => ?_, h⟩
      rcases List.mem_cons.1 hj with hj | hj
      · omega
      · have := hc.1 j hj; omega
    · split
      · exact h
      · rename_i h1 h2
        have hne : k ≠ i := by simpa using h2
        refine List.pairwise_cons.2 ⟨fun j hj => ?_, ih hc.2⟩
        rcases natInsert_mem l k j hj with hj | hj
        · omega
        · exact hc.1 j hj

theorem natInserts_rising (ks : List Nat) : ∀ l : List Nat, l.Pairwise (· < ·) → (ks.foldl natInsert l).Pairwise (· < ·) := by
  induction ks with
  | nil => intro l h; exact h
  | cons k ks ih => intro l h; exact ih _ (natInsert_rising l k h)

/-! ## The operations on memory -/

/-- Writing bytes keeps the form. -/
theorem Memory.wf_writeBytes (m : Memory) (k : Nat) (bs : List Byte) (h : m.wf = true) : (m.writeBytes k bs).wf = true := by
  rw [Memory.wf_iff] at h ⊢
  obtain ⟨h1, h2, h3⟩ := h
  refine ⟨?_, ?_, h3⟩
  · refine Rising.join k (k + bs.length) (h1.filter _) (cellsOf_rising bs k) (h1.filter _) ?_ ?_ ?_ (by omega)
    · intro p hp; simpa using (List.mem_filter.1 hp).2
    · intro p hp; have := cellsOf_range bs k p hp; omega
    · intro p hp; simpa using (List.mem_filter.1 hp).2
  · intro c hc
    rcases List.mem_append.1 hc with hc | hc
    · rcases List.mem_append.1 hc with hc | hc
      · exact h2 c (List.mem_filter.1 hc).1
      · exact (cellsOf_range bs k c hc).2.2
    · exact h2 c (List.mem_filter.1 hc).1

/-- Setting the poison of granules keeps the form. -/
theorem Memory.wf_writePois (m : Memory) (g : Nat) (fs : List Bool) (h : m.wf = true) : (m.writePois g fs).wf = true := by
  rw [Memory.wf_iff] at h ⊢
  obtain ⟨h1, h2, h3⟩ := h
  refine ⟨h1, h2, ?_⟩
  refine rising_join g (g + fs.length) (h3.filter _) (poisOf_rising fs g) (h3.filter _) ?_ ?_ ?_ (by omega)
  · intro p hp; simpa using (List.mem_filter.1 hp).2
  · intro p hp; exact poisOf_range fs g p hp
  · intro p hp; simpa using (List.mem_filter.1 hp).2

/-- Writing bytes with poison keeps the form. -/
theorem Memory.wf_write (m : Memory) (k : Nat) (bs : List PByte) (h : m.wf = true) : (m.write k bs).wf = true := by
  unfold Memory.write
  split
  · exact h
  · exact Memory.wf_writeBytes _ _ _ (Memory.wf_writePois _ _ _ h)

/-- Zeroing a range keeps the form. -/
theorem Memory.wf_zero (m : Memory) (k n : Nat) (h : m.wf = true) : (m.zero k n).wf = true := by
  rw [Memory.wf_iff] at h ⊢
  exact ⟨h.1.filter _, fun c hc => h.2.1 c (List.mem_filter.1 hc).1, h.2.2.filter _⟩

/-- Copying a range keeps the form. -/
theorem Memory.wf_copy (m : Memory) (k d n : Nat) (h : m.wf = true) : (m.copy k d n).wf = true := by
  have hz := Memory.wf_zero m d n h
  rw [Memory.wf_iff] at h hz ⊢
  obtain ⟨h1, h2, h3⟩ := h
  obtain ⟨z1, z2, z3⟩ := hz
  unfold Memory.copy
  dsimp only
  refine ⟨?_, ?_, ?_⟩
  · refine Rising.join d (d + n) (z1.filter _) ?_ (z1.filter _) ?_ ?_ ?_ (by omega)
    · unfold Rising
      rw [List.pairwise_map]
      refine List.Pairwise.imp_of_mem ?_ (h1.filter _)
      intro a b ha hb hab
      have ha' := (List.mem_filter.1 ha).2
      simp only [Bool.and_eq_true, decide_eq_true_eq] at ha'
      show a.1 - k + d < b.1 - k + d
      omega
    · intro p hp; simpa using (List.mem_filter.1 hp).2
    · intro p hp
      obtain ⟨c, hc, rfl⟩ := List.mem_map.1 hp
      have hc' := (List.mem_filter.1 hc).2
      simp only [Bool.and_eq_true, decide_eq_true_eq] at hc'
      show d ≤ c.1 - k + d ∧ c.1 - k + d < d + n
      omega
    · intro p hp
      have h5 := List.mem_filter.1 hp
      have h6 := (List.mem_filter.1 h5.1).2
      have h7 := h5.2
      simp only [Bool.or_eq_true, decide_eq_true_eq] at h6 h7
      omega
  · intro c hc
    rcases List.mem_append.1 hc with hc | hc
    · rcases List.mem_append.1 hc with hc | hc
      · exact z2 c (List.mem_filter.1 hc).1
      · obtain ⟨e, he, rfl⟩ := List.mem_map.1 hc
        exact h2 e (List.mem_filter.1 he).1
    · exact z2 c (List.mem_filter.1 hc).1
  · refine rising_join (d / 8) (d / 8 + n / 8) (z3.filter _) ?_ (z3.filter _) ?_ ?_ ?_ (by omega)
    · rw [List.pairwise_map]
      refine List.Pairwise.imp_of_mem ?_ (h3.filter _)
      intro a b ha hb hab
      have ha' := (List.mem_filter.1 ha).2
      simp only [Bool.and_eq_true, decide_eq_true_eq] at ha'
      omega
    · intro p hp; simpa using (List.mem_filter.1 hp).2
    · intro p hp
      obtain ⟨c, hc, rfl⟩ := List.mem_map.1 hp
      have hc' := (List.mem_filter.1 hc).2
      simp only [Bool.and_eq_true, decide_eq_true_eq] at hc'
      omega
    · intro p hp
      have h5 := List.mem_filter.1 hp
      have h6 := (List.mem_filter.1 h5.1).2
      have h7 := h5.2
      simp only [Bool.or_eq_true, decide_eq_true_eq] at h6 h7
      omega

/-- Writing at an address of a space keeps the form. -/
theorem Memory.wf_writeSp (sp : Space) (n : Nat) : ∀ (m : Memory) (a : Nat) (bs : List PByte),
    m.wf = true → (m.writeSp sp a bs n).wf = true := by
  induction n with
  | zero => intro m a bs h; exact h
  | succ n ih => intro m a bs h; exact ih _ _ _ (Memory.wf_write _ _ _ h)

/-- Marking or clearing the poison of chosen granules keeps the form. -/
theorem Memory.wf_rePois (m : Memory) (p : Bool) (gs : List Nat) (h : m.wf = true) :
    ({ m with pois := if p then gs.foldl natInsert m.pois else m.pois.filter fun g => !gs.contains g } : Memory).wf = true := by
  rw [Memory.wf_iff] at h ⊢
  refine ⟨h.1, h.2.1, ?_⟩
  dsimp only
  split
  · exact natInserts_rising _ _ h.2.2
  · exact h.2.2.filter _

/-- Re-packing a block keeps the form. -/
theorem Memory.wf_repack (m : Memory) (sp : Space) (dx8 : Bool) (a : Nat) (ws : List (Nat × Nat × Bool)) (h : m.wf = true) :
    (m.repack sp dx8 a ws).wf = true := by
  exact Memory.wf_rePois _ _ _ (Memory.wf_writeSp sp 3 m a _ h)

theorem wf_foldl {α : Type} (f : Memory → α → Memory) (hf : ∀ m a, m.wf = true → (f m a).wf = true) (l : List α) :
    ∀ m : Memory, m.wf = true → (l.foldl f m).wf = true := by
  induction l with
  | nil => intro m h; exact h
  | cons a l ih => intro m h; exact ih _ (hf m a h)

/-- Storing the words of a view keeps the form. -/
theorem Memory.wf_storeWords (m : Memory) (sp : Space) (u fmt : Nat) (ws : List (Nat × Nat × Bool)) (h : m.wf = true) :
    (m.storeWords sp u fmt ws).wf = true := by
  unfold Memory.storeWords
  split
  · exact wf_foldl _ (fun m b hm => Memory.wf_repack m sp _ _ _ hm) _ _ h
  · exact wf_foldl _ (fun m w hm => Memory.wf_writeSp sp 2 m _ _ hm) _ _ h

/-- Writing the bytes of a view keeps the form. -/
theorem Memory.wf_viewWrite (m : Memory) (sp : Space) (frame fmt o : Nat) (bs : List PByte) (h : m.wf = true) :
    (m.viewWrite sp frame fmt o bs).wf = true := by
  unfold Memory.viewWrite
  split
  · exact Memory.wf_storeWords _ _ _ _ _ h
  · exact Memory.wf_writeSp _ _ _ _ _ h

/-- Poisoning granules keeps the form. -/
theorem Memory.wf_poison (m : Memory) (gs : List Nat) (h : m.wf = true) : (m.poison gs).wf = true := by
  have hw := (Memory.wf_iff _).1 h
  exact (Memory.wf_iff _).2 ⟨hw.1, hw.2.1, natInserts_rising _ _ hw.2.2⟩

/-- Replacing a code of a bank's image keeps the form. -/
theorem Memory.wf_setCode (m : Memory) (key j c : Nat) (h : m.wf = true) : (m.setCode key j c).wf = true :=
  Memory.wf_write _ _ _ h

/-- Copying and clearing a footprint keep the form. -/
theorem wf_copyFoot (m : Memory) (r : LaunchRec) (src dst : Nat → Nat) (h : m.wf = true) : (copyFoot m r src dst).wf = true :=
  wf_foldl _ (fun m _ hm => Memory.wf_copy m _ _ _ hm) _ _ h

theorem wf_clearFoot (m : Memory) (r : LaunchRec) (place : Nat → Nat) (h : m.wf = true) : (clearFoot m r place).wf = true :=
  wf_foldl _ (fun m _ hm => Memory.wf_zero m _ _ hm) _ _ h

/-! ## Reading after a write -/

theorem get_append_left {α : Type} (a b : AMap α) (j : Nat) (d : α) (h : ∀ p ∈ a, p.1 ≠ j) :
    AMap.get (a ++ b) j d = AMap.get b j d := by
  induction a with
  | nil => rfl
  | cons p a ih =>
    obtain ⟨k, v⟩ := p
    have hk : k ≠ j := h (k, v) (by simp)
    simp [AMap.get, hk, ih fun q hq => h q (by simp [hq])]

theorem get_append_right {α : Type} (a b : AMap α) (j : Nat) (d : α) (h : ∀ p ∈ b, p.1 ≠ j) :
    AMap.get (a ++ b) j d = AMap.get a j d := by
  induction a with
  | nil =>
    have := get_append_left b [] j d h
    simpa using this
  | cons p a ih =>
    obtain ⟨k, v⟩ := p
    simp only [List.cons_append, AMap.get, ih]

theorem get_filter {α : Type} (m : AMap α) (f : Nat × α → Bool) (j : Nat) (d : α) (h : ∀ p ∈ m, p.1 = j → f p = true) :
    AMap.get (m.filter f) j d = AMap.get m j d := by
  induction m with
  | nil => rfl
  | cons p m ih =>
    obtain ⟨k, v⟩ := p
    have hm := ih fun q hq => h q (by simp [hq])
    by_cases hk : k = j
    · subst hk; simp [h (k, v) (by simp) rfl, AMap.get]
    · by_cases hf : f (k, v) = true
      · simp [hf, AMap.get, hk, hm]
      · simp [hf, AMap.get, hk, hm]

theorem get_cellsOf (bs : List Byte) : ∀ k j, k ≤ j → AMap.get (cellsOf k bs) j 0 = bs.getD (j - k) 0 := by
  induction bs with
  | nil => intro k j _; simp [cellsOf, AMap.get]
  | cons b bs ih =>
    intro k j hj
    unfold cellsOf
    by_cases hb : b = 0
    · rw [if_pos hb]
      by_cases hk : k = j
      · subst hk
        have := get_append_left (cellsOf (k + 1) bs) [] k (0 : Byte) fun p hp => by
          have := cellsOf_range bs (k + 1) p hp; omega
        simp only [List.append_nil] at this
        rw [this]; simp [AMap.get, hb]
      · rw [ih (k + 1) j (by omega)]
        obtain ⟨i, rfl⟩ : ∃ i, j = k + 1 + i := ⟨j - (k + 1), by omega⟩
        simp [show k + 1 + i - k = i + 1 by omega]
    · rw [if_neg hb]
      by_cases hk : k = j
      · subst hk; simp [AMap.get]
      · have hg : AMap.get ((k, b) :: cellsOf (k + 1) bs) j 0 = AMap.get (cellsOf (k + 1) bs) j 0 := by simp [AMap.get, hk]
        rw [hg, ih (k + 1) j (by omega)]
        obtain ⟨i, rfl⟩ : ∃ i, j = k + 1 + i := ⟨j - (k + 1), by omega⟩
        simp [show k + 1 + i - k = i + 1 by omega]

/-- A byte written reads back, and every other byte reads as before. -/
theorem Memory.byte_writeBytes (m : Memory) (k : Nat) (bs : List Byte) (j : Nat) :
    (m.writeBytes k bs).byte j = if k ≤ j ∧ j < k + bs.length then bs.getD (j - k) 0 else m.byte j := by
  unfold Memory.byte Memory.writeBytes
  dsimp only
  by_cases h1 : j < k
  · rw [if_neg (by omega), List.append_assoc, get_append_right, get_filter]
    · intro p _ hp; simp [hp, h1]
    · intro p hp
      rcases List.mem_append.1 hp with hp | hp
      · have := cellsOf_range bs k p hp; omega
      · have := (List.mem_filter.1 hp).2; simp only [decide_eq_true_eq] at this; omega
  · by_cases h2 : j < k + bs.length
    · rw [if_pos (by omega), get_append_right, get_append_left, get_cellsOf bs k j (by omega)]
      · intro p hp; have := (List.mem_filter.1 hp).2; simp only [decide_eq_true_eq] at this; omega
      · intro p hp; have := (List.mem_filter.1 hp).2; simp only [decide_eq_true_eq] at this; omega
    · rw [if_neg (by omega), get_append_left, get_filter]
      · intro p _ hp; simp [hp]; omega
      · intro p hp
        rcases List.mem_append.1 hp with hp | hp
        · have := (List.mem_filter.1 hp).2; simp only [decide_eq_true_eq] at this; omega
        · have := cellsOf_range bs k p hp; omega

/-- The same of a write with poison. -/
theorem Memory.byte_write (m : Memory) (k : Nat) (bs : List PByte) (j : Nat) :
    (m.write k bs).byte j = if k ≤ j ∧ j < k + bs.length then (bs.map PByte.b).getD (j - k) 0 else m.byte j := by
  unfold Memory.write
  split
  · rename_i h
    have hb : bs = [] := List.isEmpty_iff.1 h
    subst hb
    rw [if_neg (by simp only [List.length_nil]; omega)]
  · rw [Memory.byte_writeBytes, List.length_map]; rfl

/-- Memory at reset has the form. -/
theorem reset_mem_wf : State.reset.mem.wf = true := rfl

end Sys2Proof.Machine
end

