-- ==== Sys2Proof/Laws/State.lean ====
section
/-! SUPPORT. The small laws of the state: what replacing one part leaves of every field, and reading a part after replacing it. -/

namespace Sys2Proof.Machine

variable (s : State)

/-! ## setTask -/

@[simp] theorem State.setTask_now (n : Nat) (k : Task) : (s.setTask n k).now = s.now := rfl
@[simp] theorem State.setTask_agenda (n : Nat) (k : Task) : (s.setTask n k).agenda = s.agenda := rfl
@[simp] theorem State.setTask_issuing (n : Nat) (k : Task) : (s.setTask n k).issuing = s.issuing := rfl
@[simp] theorem State.setTask_cursor (n : Nat) (k : Task) : (s.setTask n k).cursor = s.cursor := rfl
@[simp] theorem State.setTask_cur (n : Nat) (k : Task) : (s.setTask n k).cur = s.cur := rfl
@[simp] theorem State.setTask_curW (n : Nat) (k : Task) : (s.setTask n k).curW = s.curW := rfl
@[simp] theorem State.setTask_free (n : Nat) (k : Task) : (s.setTask n k).free = s.free := rfl
@[simp] theorem State.setTask_boot (n : Nat) (k : Task) : (s.setTask n k).boot = s.boot := rfl
@[simp] theorem State.setTask_mem (n : Nat) (k : Task) : (s.setTask n k).mem = s.mem := rfl
@[simp] theorem State.setTask_hostMap (n : Nat) (k : Task) : (s.setTask n k).hostMap = s.hostMap := rfl
@[simp] theorem State.setTask_cores (n : Nat) (k : Task) : (s.setTask n k).cores = s.cores := rfl
@[simp] theorem State.setTask_clusters (n : Nat) (k : Task) : (s.setTask n k).clusters = s.clusters := rfl
@[simp] theorem State.setTask_dies (n : Nat) (k : Task) : (s.setTask n k).dies = s.dies := rfl
@[simp] theorem State.setTask_hbm (n : Nat) (k : Task) : (s.setTask n k).hbm = s.hbm := rfl
@[simp] theorem State.setTask_objs (n : Nat) (k : Task) : (s.setTask n k).objs = s.objs := rfl
@[simp] theorem State.setTask_ctxs (n : Nat) (k : Task) : (s.setTask n k).ctxs = s.ctxs := rfl
@[simp] theorem State.setTask_kernels (n : Nat) (k : Task) : (s.setTask n k).kernels = s.kernels := rfl
@[simp] theorem State.setTask_nextKid (n : Nat) (k : Task) : (s.setTask n k).nextKid = s.nextKid := rfl
@[simp] theorem State.setTask_groups (n : Nat) (k : Task) : (s.setTask n k).groups = s.groups := rfl
@[simp] theorem State.setTask_replicas (n : Nat) (k : Task) : (s.setTask n k).replicas = s.replicas := rfl
@[simp] theorem State.setTask_pgc (n : Nat) (k : Task) : (s.setTask n k).pgc = s.pgc := rfl
@[simp] theorem State.setTask_hlease (n : Nat) (k : Task) : (s.setTask n k).hlease = s.hlease := rfl
@[simp] theorem State.setTask_ports (n : Nat) (k : Task) : (s.setTask n k).ports = s.ports := rfl
@[simp] theorem State.setTask_route (n : Nat) (k : Task) : (s.setTask n k).route = s.route := rfl
@[simp] theorem State.setTask_chgep (n : Nat) (k : Task) : (s.setTask n k).chgep = s.chgep := rfl
@[simp] theorem State.setTask_change (n : Nat) (k : Task) : (s.setTask n k).change = s.change := rfl
@[simp] theorem State.setTask_self (n : Nat) (k : Task) : (s.setTask n k).self = s.self := rfl
@[simp] theorem State.setTask_ups (n : Nat) (k : Task) : (s.setTask n k).ups = s.ups := rfl
@[simp] theorem State.setTask_upSel (n : Nat) (k : Task) : (s.setTask n k).upSel = s.upSel := rfl
@[simp] theorem State.setTask_master (n : Nat) (k : Task) : (s.setTask n k).master = s.master := rfl
@[simp] theorem State.setTask_podTime (n : Nat) (k : Task) : (s.setTask n k).podTime = s.podTime := rfl
@[simp] theorem State.setTask_vqueue (n : Nat) (k : Task) : (s.setTask n k).vqueue = s.vqueue := rfl
@[simp] theorem State.setTask_opseqs (n : Nat) (k : Task) : (s.setTask n k).opseqs = s.opseqs := rfl
@[simp] theorem State.setTask_remotes (n : Nat) (k : Task) : (s.setTask n k).remotes = s.remotes := rfl
@[simp] theorem State.setTask_targets (n : Nat) (k : Task) : (s.setTask n k).targets = s.targets := rfl
@[simp] theorem State.setTask_ldrains (n : Nat) (k : Task) : (s.setTask n k).ldrains = s.ldrains := rfl
@[simp] theorem State.setTask_irSess (n : Nat) (k : Task) : (s.setTask n k).irSess = s.irSess := rfl
@[simp] theorem State.setTask_irOps (n : Nat) (k : Task) : (s.setTask n k).irOps = s.irOps := rfl
@[simp] theorem State.setTask_comb (n : Nat) (k : Task) : (s.setTask n k).comb = s.comb := rfl
@[simp] theorem State.setTask_devstat (n : Nat) (k : Task) : (s.setTask n k).devstat = s.devstat := rfl
@[simp] theorem State.setTask_enmap (n : Nat) (k : Task) : (s.setTask n k).enmap = s.enmap := rfl
@[simp] theorem State.setTask_wdmap (n : Nat) (k : Task) : (s.setTask n k).wdmap = s.wdmap := rfl
@[simp] theorem State.setTask_pwrlim (n : Nat) (k : Task) : (s.setTask n k).pwrlim = s.pwrlim := rfl
@[simp] theorem State.setTask_clock (n : Nat) (k : Task) : (s.setTask n k).clock = s.clock := rfl
@[simp] theorem State.setTask_fw (n : Nat) (k : Task) : (s.setTask n k).fw = s.fw := rfl
@[simp] theorem State.setTask_mepoch (n : Nat) (k : Task) : (s.setTask n k).mepoch = s.mepoch := rfl
@[simp] theorem State.setTask_linkUp (n : Nat) (k : Task) : (s.setTask n k).linkUp = s.linkUp := rfl
@[simp] theorem State.setTask_linkBad (n : Nat) (k : Task) : (s.setTask n k).linkBad = s.linkBad := rfl
@[simp] theorem State.setTask_contained (n : Nat) (k : Task) : (s.setTask n k).contained = s.contained := rfl
@[simp] theorem State.setTask_dcdGone (n : Nat) (k : Task) : (s.setTask n k).dcdGone = s.dcdGone := rfl
@[simp] theorem State.setTask_groupWait (n : Nat) (k : Task) : (s.setTask n k).groupWait = s.groupWait := rfl
@[simp] theorem State.setTask_peerAccepts (n : Nat) (k : Task) : (s.setTask n k).peerAccepts = s.peerAccepts := rfl
@[simp] theorem State.setTask_slotTaken (n : Nat) (k : Task) : (s.setTask n k).slotTaken = s.slotTaken := rfl
@[simp] theorem State.setTask_circuits (n : Nat) (k : Task) : (s.setTask n k).circuits = s.circuits := rfl
@[simp] theorem State.setTask_unitFaults (n : Nat) (k : Task) : (s.setTask n k).unitFaults = s.unitFaults := rfl
@[simp] theorem State.setTask_mgmtWait (n : Nat) (k : Task) : (s.setTask n k).mgmtWait = s.mgmtWait := rfl
@[simp] theorem State.setTask_hostMod (n : Nat) (k : Task) : (s.setTask n k).hostMod = s.hostMod := rfl
@[simp] theorem State.setTask_exposed (n : Nat) (k : Task) : (s.setTask n k).exposed = s.exposed := rfl
@[simp] theorem State.setTask_hostPoison (n : Nat) (k : Task) : (s.setTask n k).hostPoison = s.hostPoison := rfl
@[simp] theorem State.setTask_ats (n : Nat) (k : Task) : (s.setTask n k).ats = s.ats := rfl
@[simp] theorem State.setTask_reuse (n : Nat) (k : Task) : (s.setTask n k).reuse = s.reuse := rfl
@[simp] theorem State.setTask_out (n : Nat) (k : Task) : (s.setTask n k).out = s.out := rfl

/-! ## setThread -/

@[simp] theorem State.setThread_now (n m : Nat) (t : Thread) : (s.setThread n m t).now = s.now := rfl
@[simp] theorem State.setThread_agenda (n m : Nat) (t : Thread) : (s.setThread n m t).agenda = s.agenda := rfl
@[simp] theorem State.setThread_issuing (n m : Nat) (t : Thread) : (s.setThread n m t).issuing = s.issuing := rfl
@[simp] theorem State.setThread_cursor (n m : Nat) (t : Thread) : (s.setThread n m t).cursor = s.cursor := rfl
@[simp] theorem State.setThread_cur (n m : Nat) (t : Thread) : (s.setThread n m t).cur = s.cur := rfl
@[simp] theorem State.setThread_curW (n m : Nat) (t : Thread) : (s.setThread n m t).curW = s.curW := rfl
@[simp] theorem State.setThread_free (n m : Nat) (t : Thread) : (s.setThread n m t).free = s.free := rfl
@[simp] theorem State.setThread_boot (n m : Nat) (t : Thread) : (s.setThread n m t).boot = s.boot := rfl
@[simp] theorem State.setThread_mem (n m : Nat) (t : Thread) : (s.setThread n m t).mem = s.mem := rfl
@[simp] theorem State.setThread_hostMap (n m : Nat) (t : Thread) : (s.setThread n m t).hostMap = s.hostMap := rfl
@[simp] theorem State.setThread_cores (n m : Nat) (t : Thread) : (s.setThread n m t).cores = s.cores := rfl
@[simp] theorem State.setThread_clusters (n m : Nat) (t : Thread) : (s.setThread n m t).clusters = s.clusters := rfl
@[simp] theorem State.setThread_dies (n m : Nat) (t : Thread) : (s.setThread n m t).dies = s.dies := rfl
@[simp] theorem State.setThread_hbm (n m : Nat) (t : Thread) : (s.setThread n m t).hbm = s.hbm := rfl
@[simp] theorem State.setThread_objs (n m : Nat) (t : Thread) : (s.setThread n m t).objs = s.objs := rfl
@[simp] theorem State.setThread_ctxs (n m : Nat) (t : Thread) : (s.setThread n m t).ctxs = s.ctxs := rfl
@[simp] theorem State.setThread_kernels (n m : Nat) (t : Thread) : (s.setThread n m t).kernels = s.kernels := rfl
@[simp] theorem State.setThread_nextKid (n m : Nat) (t : Thread) : (s.setThread n m t).nextKid = s.nextKid := rfl
@[simp] theorem State.setThread_groups (n m : Nat) (t : Thread) : (s.setThread n m t).groups = s.groups := rfl
@[simp] theorem State.setThread_replicas (n m : Nat) (t : Thread) : (s.setThread n m t).replicas = s.replicas := rfl
@[simp] theorem State.setThread_pgc (n m : Nat) (t : Thread) : (s.setThread n m t).pgc = s.pgc := rfl
@[simp] theorem State.setThread_hlease (n m : Nat) (t : Thread) : (s.setThread n m t).hlease = s.hlease := rfl
@[simp] theorem State.setThread_ports (n m : Nat) (t : Thread) : (s.setThread n m t).ports = s.ports := rfl
@[simp] theorem State.setThread_route (n m : Nat) (t : Thread) : (s.setThread n m t).route = s.route := rfl
@[simp] theorem State.setThread_chgep (n m : Nat) (t : Thread) : (s.setThread n m t).chgep = s.chgep := rfl
@[simp] theorem State.setThread_change (n m : Nat) (t : Thread) : (s.setThread n m t).change = s.change := rfl
@[simp] theorem State.setThread_self (n m : Nat) (t : Thread) : (s.setThread n m t).self = s.self := rfl
@[simp] theorem State.setThread_ups (n m : Nat) (t : Thread) : (s.setThread n m t).ups = s.ups := rfl
@[simp] theorem State.setThread_upSel (n m : Nat) (t : Thread) : (s.setThread n m t).upSel = s.upSel := rfl
@[simp] theorem State.setThread_master (n m : Nat) (t : Thread) : (s.setThread n m t).master = s.master := rfl
@[simp] theorem State.setThread_podTime (n m : Nat) (t : Thread) : (s.setThread n m t).podTime = s.podTime := rfl
@[simp] theorem State.setThread_vqueue (n m : Nat) (t : Thread) : (s.setThread n m t).vqueue = s.vqueue := rfl
@[simp] theorem State.setThread_opseqs (n m : Nat) (t : Thread) : (s.setThread n m t).opseqs = s.opseqs := rfl
@[simp] theorem State.setThread_remotes (n m : Nat) (t : Thread) : (s.setThread n m t).remotes = s.remotes := rfl
@[simp] theorem State.setThread_targets (n m : Nat) (t : Thread) : (s.setThread n m t).targets = s.targets := rfl
@[simp] theorem State.setThread_ldrains (n m : Nat) (t : Thread) : (s.setThread n m t).ldrains = s.ldrains := rfl
@[simp] theorem State.setThread_irSess (n m : Nat) (t : Thread) : (s.setThread n m t).irSess = s.irSess := rfl
@[simp] theorem State.setThread_irOps (n m : Nat) (t : Thread) : (s.setThread n m t).irOps = s.irOps := rfl
@[simp] theorem State.setThread_comb (n m : Nat) (t : Thread) : (s.setThread n m t).comb = s.comb := rfl
@[simp] theorem State.setThread_devstat (n m : Nat) (t : Thread) : (s.setThread n m t).devstat = s.devstat := rfl
@[simp] theorem State.setThread_enmap (n m : Nat) (t : Thread) : (s.setThread n m t).enmap = s.enmap := rfl
@[simp] theorem State.setThread_wdmap (n m : Nat) (t : Thread) : (s.setThread n m t).wdmap = s.wdmap := rfl
@[simp] theorem State.setThread_pwrlim (n m : Nat) (t : Thread) : (s.setThread n m t).pwrlim = s.pwrlim := rfl
@[simp] theorem State.setThread_clock (n m : Nat) (t : Thread) : (s.setThread n m t).clock = s.clock := rfl
@[simp] theorem State.setThread_fw (n m : Nat) (t : Thread) : (s.setThread n m t).fw = s.fw := rfl
@[simp] theorem State.setThread_mepoch (n m : Nat) (t : Thread) : (s.setThread n m t).mepoch = s.mepoch := rfl
@[simp] theorem State.setThread_linkUp (n m : Nat) (t : Thread) : (s.setThread n m t).linkUp = s.linkUp := rfl
@[simp] theorem State.setThread_linkBad (n m : Nat) (t : Thread) : (s.setThread n m t).linkBad = s.linkBad := rfl
@[simp] theorem State.setThread_contained (n m : Nat) (t : Thread) : (s.setThread n m t).contained = s.contained := rfl
@[simp] theorem State.setThread_dcdGone (n m : Nat) (t : Thread) : (s.setThread n m t).dcdGone = s.dcdGone := rfl
@[simp] theorem State.setThread_groupWait (n m : Nat) (t : Thread) : (s.setThread n m t).groupWait = s.groupWait := rfl
@[simp] theorem State.setThread_peerAccepts (n m : Nat) (t : Thread) : (s.setThread n m t).peerAccepts = s.peerAccepts := rfl
@[simp] theorem State.setThread_slotTaken (n m : Nat) (t : Thread) : (s.setThread n m t).slotTaken = s.slotTaken := rfl
@[simp] theorem State.setThread_circuits (n m : Nat) (t : Thread) : (s.setThread n m t).circuits = s.circuits := rfl
@[simp] theorem State.setThread_unitFaults (n m : Nat) (t : Thread) : (s.setThread n m t).unitFaults = s.unitFaults := rfl
@[simp] theorem State.setThread_mgmtWait (n m : Nat) (t : Thread) : (s.setThread n m t).mgmtWait = s.mgmtWait := rfl
@[simp] theorem State.setThread_hostMod (n m : Nat) (t : Thread) : (s.setThread n m t).hostMod = s.hostMod := rfl
@[simp] theorem State.setThread_exposed (n m : Nat) (t : Thread) : (s.setThread n m t).exposed = s.exposed := rfl
@[simp] theorem State.setThread_hostPoison (n m : Nat) (t : Thread) : (s.setThread n m t).hostPoison = s.hostPoison := rfl
@[simp] theorem State.setThread_ats (n m : Nat) (t : Thread) : (s.setThread n m t).ats = s.ats := rfl
@[simp] theorem State.setThread_reuse (n m : Nat) (t : Thread) : (s.setThread n m t).reuse = s.reuse := rfl
@[simp] theorem State.setThread_out (n m : Nat) (t : Thread) : (s.setThread n m t).out = s.out := rfl

/-! ## setThr -/

@[simp] theorem State.setThr_now (t : Thread) : (s.setThr t).now = s.now := rfl
@[simp] theorem State.setThr_agenda (t : Thread) : (s.setThr t).agenda = s.agenda := rfl
@[simp] theorem State.setThr_issuing (t : Thread) : (s.setThr t).issuing = s.issuing := rfl
@[simp] theorem State.setThr_cursor (t : Thread) : (s.setThr t).cursor = s.cursor := rfl
@[simp] theorem State.setThr_cur (t : Thread) : (s.setThr t).cur = s.cur := rfl
@[simp] theorem State.setThr_curW (t : Thread) : (s.setThr t).curW = s.curW := rfl
@[simp] theorem State.setThr_free (t : Thread) : (s.setThr t).free = s.free := rfl
@[simp] theorem State.setThr_boot (t : Thread) : (s.setThr t).boot = s.boot := rfl
@[simp] theorem State.setThr_mem (t : Thread) : (s.setThr t).mem = s.mem := rfl
@[simp] theorem State.setThr_hostMap (t : Thread) : (s.setThr t).hostMap = s.hostMap := rfl
@[simp] theorem State.setThr_cores (t : Thread) : (s.setThr t).cores = s.cores := rfl
@[simp] theorem State.setThr_clusters (t : Thread) : (s.setThr t).clusters = s.clusters := rfl
@[simp] theorem State.setThr_dies (t : Thread) : (s.setThr t).dies = s.dies := rfl
@[simp] theorem State.setThr_hbm (t : Thread) : (s.setThr t).hbm = s.hbm := rfl
@[simp] theorem State.setThr_objs (t : Thread) : (s.setThr t).objs = s.objs := rfl
@[simp] theorem State.setThr_ctxs (t : Thread) : (s.setThr t).ctxs = s.ctxs := rfl
@[simp] theorem State.setThr_kernels (t : Thread) : (s.setThr t).kernels = s.kernels := rfl
@[simp] theorem State.setThr_nextKid (t : Thread) : (s.setThr t).nextKid = s.nextKid := rfl
@[simp] theorem State.setThr_groups (t : Thread) : (s.setThr t).groups = s.groups := rfl
@[simp] theorem State.setThr_replicas (t : Thread) : (s.setThr t).replicas = s.replicas := rfl
@[simp] theorem State.setThr_pgc (t : Thread) : (s.setThr t).pgc = s.pgc := rfl
@[simp] theorem State.setThr_hlease (t : Thread) : (s.setThr t).hlease = s.hlease := rfl
@[simp] theorem State.setThr_ports (t : Thread) : (s.setThr t).ports = s.ports := rfl
@[simp] theorem State.setThr_route (t : Thread) : (s.setThr t).route = s.route := rfl
@[simp] theorem State.setThr_chgep (t : Thread) : (s.setThr t).chgep = s.chgep := rfl
@[simp] theorem State.setThr_change (t : Thread) : (s.setThr t).change = s.change := rfl
@[simp] theorem State.setThr_self (t : Thread) : (s.setThr t).self = s.self := rfl
@[simp] theorem State.setThr_ups (t : Thread) : (s.setThr t).ups = s.ups := rfl
@[simp] theorem State.setThr_upSel (t : Thread) : (s.setThr t).upSel = s.upSel := rfl
@[simp] theorem State.setThr_master (t : Thread) : (s.setThr t).master = s.master := rfl
@[simp] theorem State.setThr_podTime (t : Thread) : (s.setThr t).podTime = s.podTime := rfl
@[simp] theorem State.setThr_vqueue (t : Thread) : (s.setThr t).vqueue = s.vqueue := rfl
@[simp] theorem State.setThr_opseqs (t : Thread) : (s.setThr t).opseqs = s.opseqs := rfl
@[simp] theorem State.setThr_remotes (t : Thread) : (s.setThr t).remotes = s.remotes := rfl
@[simp] theorem State.setThr_targets (t : Thread) : (s.setThr t).targets = s.targets := rfl
@[simp] theorem State.setThr_ldrains (t : Thread) : (s.setThr t).ldrains = s.ldrains := rfl
@[simp] theorem State.setThr_irSess (t : Thread) : (s.setThr t).irSess = s.irSess := rfl
@[simp] theorem State.setThr_irOps (t : Thread) : (s.setThr t).irOps = s.irOps := rfl
@[simp] theorem State.setThr_comb (t : Thread) : (s.setThr t).comb = s.comb := rfl
@[simp] theorem State.setThr_devstat (t : Thread) : (s.setThr t).devstat = s.devstat := rfl
@[simp] theorem State.setThr_enmap (t : Thread) : (s.setThr t).enmap = s.enmap := rfl
@[simp] theorem State.setThr_wdmap (t : Thread) : (s.setThr t).wdmap = s.wdmap := rfl
@[simp] theorem State.setThr_pwrlim (t : Thread) : (s.setThr t).pwrlim = s.pwrlim := rfl
@[simp] theorem State.setThr_clock (t : Thread) : (s.setThr t).clock = s.clock := rfl
@[simp] theorem State.setThr_fw (t : Thread) : (s.setThr t).fw = s.fw := rfl
@[simp] theorem State.setThr_mepoch (t : Thread) : (s.setThr t).mepoch = s.mepoch := rfl
@[simp] theorem State.setThr_linkUp (t : Thread) : (s.setThr t).linkUp = s.linkUp := rfl
@[simp] theorem State.setThr_linkBad (t : Thread) : (s.setThr t).linkBad = s.linkBad := rfl
@[simp] theorem State.setThr_contained (t : Thread) : (s.setThr t).contained = s.contained := rfl
@[simp] theorem State.setThr_dcdGone (t : Thread) : (s.setThr t).dcdGone = s.dcdGone := rfl
@[simp] theorem State.setThr_groupWait (t : Thread) : (s.setThr t).groupWait = s.groupWait := rfl
@[simp] theorem State.setThr_peerAccepts (t : Thread) : (s.setThr t).peerAccepts = s.peerAccepts := rfl
@[simp] theorem State.setThr_slotTaken (t : Thread) : (s.setThr t).slotTaken = s.slotTaken := rfl
@[simp] theorem State.setThr_circuits (t : Thread) : (s.setThr t).circuits = s.circuits := rfl
@[simp] theorem State.setThr_unitFaults (t : Thread) : (s.setThr t).unitFaults = s.unitFaults := rfl
@[simp] theorem State.setThr_mgmtWait (t : Thread) : (s.setThr t).mgmtWait = s.mgmtWait := rfl
@[simp] theorem State.setThr_hostMod (t : Thread) : (s.setThr t).hostMod = s.hostMod := rfl
@[simp] theorem State.setThr_exposed (t : Thread) : (s.setThr t).exposed = s.exposed := rfl
@[simp] theorem State.setThr_hostPoison (t : Thread) : (s.setThr t).hostPoison = s.hostPoison := rfl
@[simp] theorem State.setThr_ats (t : Thread) : (s.setThr t).ats = s.ats := rfl
@[simp] theorem State.setThr_reuse (t : Thread) : (s.setThr t).reuse = s.reuse := rfl
@[simp] theorem State.setThr_out (t : Thread) : (s.setThr t).out = s.out := rfl

/-! ## setTk -/

@[simp] theorem State.setTk_now (k : Task) : (s.setTk k).now = s.now := rfl
@[simp] theorem State.setTk_agenda (k : Task) : (s.setTk k).agenda = s.agenda := rfl
@[simp] theorem State.setTk_issuing (k : Task) : (s.setTk k).issuing = s.issuing := rfl
@[simp] theorem State.setTk_cursor (k : Task) : (s.setTk k).cursor = s.cursor := rfl
@[simp] theorem State.setTk_cur (k : Task) : (s.setTk k).cur = s.cur := rfl
@[simp] theorem State.setTk_curW (k : Task) : (s.setTk k).curW = s.curW := rfl
@[simp] theorem State.setTk_free (k : Task) : (s.setTk k).free = s.free := rfl
@[simp] theorem State.setTk_boot (k : Task) : (s.setTk k).boot = s.boot := rfl
@[simp] theorem State.setTk_mem (k : Task) : (s.setTk k).mem = s.mem := rfl
@[simp] theorem State.setTk_hostMap (k : Task) : (s.setTk k).hostMap = s.hostMap := rfl
@[simp] theorem State.setTk_cores (k : Task) : (s.setTk k).cores = s.cores := rfl
@[simp] theorem State.setTk_clusters (k : Task) : (s.setTk k).clusters = s.clusters := rfl
@[simp] theorem State.setTk_dies (k : Task) : (s.setTk k).dies = s.dies := rfl
@[simp] theorem State.setTk_hbm (k : Task) : (s.setTk k).hbm = s.hbm := rfl
@[simp] theorem State.setTk_objs (k : Task) : (s.setTk k).objs = s.objs := rfl
@[simp] theorem State.setTk_ctxs (k : Task) : (s.setTk k).ctxs = s.ctxs := rfl
@[simp] theorem State.setTk_kernels (k : Task) : (s.setTk k).kernels = s.kernels := rfl
@[simp] theorem State.setTk_nextKid (k : Task) : (s.setTk k).nextKid = s.nextKid := rfl
@[simp] theorem State.setTk_groups (k : Task) : (s.setTk k).groups = s.groups := rfl
@[simp] theorem State.setTk_replicas (k : Task) : (s.setTk k).replicas = s.replicas := rfl
@[simp] theorem State.setTk_pgc (k : Task) : (s.setTk k).pgc = s.pgc := rfl
@[simp] theorem State.setTk_hlease (k : Task) : (s.setTk k).hlease = s.hlease := rfl
@[simp] theorem State.setTk_ports (k : Task) : (s.setTk k).ports = s.ports := rfl
@[simp] theorem State.setTk_route (k : Task) : (s.setTk k).route = s.route := rfl
@[simp] theorem State.setTk_chgep (k : Task) : (s.setTk k).chgep = s.chgep := rfl
@[simp] theorem State.setTk_change (k : Task) : (s.setTk k).change = s.change := rfl
@[simp] theorem State.setTk_self (k : Task) : (s.setTk k).self = s.self := rfl
@[simp] theorem State.setTk_ups (k : Task) : (s.setTk k).ups = s.ups := rfl
@[simp] theorem State.setTk_upSel (k : Task) : (s.setTk k).upSel = s.upSel := rfl
@[simp] theorem State.setTk_master (k : Task) : (s.setTk k).master = s.master := rfl
@[simp] theorem State.setTk_podTime (k : Task) : (s.setTk k).podTime = s.podTime := rfl
@[simp] theorem State.setTk_vqueue (k : Task) : (s.setTk k).vqueue = s.vqueue := rfl
@[simp] theorem State.setTk_opseqs (k : Task) : (s.setTk k).opseqs = s.opseqs := rfl
@[simp] theorem State.setTk_remotes (k : Task) : (s.setTk k).remotes = s.remotes := rfl
@[simp] theorem State.setTk_targets (k : Task) : (s.setTk k).targets = s.targets := rfl
@[simp] theorem State.setTk_ldrains (k : Task) : (s.setTk k).ldrains = s.ldrains := rfl
@[simp] theorem State.setTk_irSess (k : Task) : (s.setTk k).irSess = s.irSess := rfl
@[simp] theorem State.setTk_irOps (k : Task) : (s.setTk k).irOps = s.irOps := rfl
@[simp] theorem State.setTk_comb (k : Task) : (s.setTk k).comb = s.comb := rfl
@[simp] theorem State.setTk_devstat (k : Task) : (s.setTk k).devstat = s.devstat := rfl
@[simp] theorem State.setTk_enmap (k : Task) : (s.setTk k).enmap = s.enmap := rfl
@[simp] theorem State.setTk_wdmap (k : Task) : (s.setTk k).wdmap = s.wdmap := rfl
@[simp] theorem State.setTk_pwrlim (k : Task) : (s.setTk k).pwrlim = s.pwrlim := rfl
@[simp] theorem State.setTk_clock (k : Task) : (s.setTk k).clock = s.clock := rfl
@[simp] theorem State.setTk_fw (k : Task) : (s.setTk k).fw = s.fw := rfl
@[simp] theorem State.setTk_mepoch (k : Task) : (s.setTk k).mepoch = s.mepoch := rfl
@[simp] theorem State.setTk_linkUp (k : Task) : (s.setTk k).linkUp = s.linkUp := rfl
@[simp] theorem State.setTk_linkBad (k : Task) : (s.setTk k).linkBad = s.linkBad := rfl
@[simp] theorem State.setTk_contained (k : Task) : (s.setTk k).contained = s.contained := rfl
@[simp] theorem State.setTk_dcdGone (k : Task) : (s.setTk k).dcdGone = s.dcdGone := rfl
@[simp] theorem State.setTk_groupWait (k : Task) : (s.setTk k).groupWait = s.groupWait := rfl
@[simp] theorem State.setTk_peerAccepts (k : Task) : (s.setTk k).peerAccepts = s.peerAccepts := rfl
@[simp] theorem State.setTk_slotTaken (k : Task) : (s.setTk k).slotTaken = s.slotTaken := rfl
@[simp] theorem State.setTk_circuits (k : Task) : (s.setTk k).circuits = s.circuits := rfl
@[simp] theorem State.setTk_unitFaults (k : Task) : (s.setTk k).unitFaults = s.unitFaults := rfl
@[simp] theorem State.setTk_mgmtWait (k : Task) : (s.setTk k).mgmtWait = s.mgmtWait := rfl
@[simp] theorem State.setTk_hostMod (k : Task) : (s.setTk k).hostMod = s.hostMod := rfl
@[simp] theorem State.setTk_exposed (k : Task) : (s.setTk k).exposed = s.exposed := rfl
@[simp] theorem State.setTk_hostPoison (k : Task) : (s.setTk k).hostPoison = s.hostPoison := rfl
@[simp] theorem State.setTk_ats (k : Task) : (s.setTk k).ats = s.ats := rfl
@[simp] theorem State.setTk_reuse (k : Task) : (s.setTk k).reuse = s.reuse := rfl
@[simp] theorem State.setTk_out (k : Task) : (s.setTk k).out = s.out := rfl

/-! ## setCore -/

@[simp] theorem State.setCore_now (n : Nat) (k : Core) : (s.setCore n k).now = s.now := rfl
@[simp] theorem State.setCore_agenda (n : Nat) (k : Core) : (s.setCore n k).agenda = s.agenda := rfl
@[simp] theorem State.setCore_issuing (n : Nat) (k : Core) : (s.setCore n k).issuing = s.issuing := rfl
@[simp] theorem State.setCore_cursor (n : Nat) (k : Core) : (s.setCore n k).cursor = s.cursor := rfl
@[simp] theorem State.setCore_cur (n : Nat) (k : Core) : (s.setCore n k).cur = s.cur := rfl
@[simp] theorem State.setCore_curW (n : Nat) (k : Core) : (s.setCore n k).curW = s.curW := rfl
@[simp] theorem State.setCore_free (n : Nat) (k : Core) : (s.setCore n k).free = s.free := rfl
@[simp] theorem State.setCore_boot (n : Nat) (k : Core) : (s.setCore n k).boot = s.boot := rfl
@[simp] theorem State.setCore_mem (n : Nat) (k : Core) : (s.setCore n k).mem = s.mem := rfl
@[simp] theorem State.setCore_hostMap (n : Nat) (k : Core) : (s.setCore n k).hostMap = s.hostMap := rfl
@[simp] theorem State.setCore_tasks (n : Nat) (k : Core) : (s.setCore n k).tasks = s.tasks := rfl
@[simp] theorem State.setCore_clusters (n : Nat) (k : Core) : (s.setCore n k).clusters = s.clusters := rfl
@[simp] theorem State.setCore_dies (n : Nat) (k : Core) : (s.setCore n k).dies = s.dies := rfl
@[simp] theorem State.setCore_hbm (n : Nat) (k : Core) : (s.setCore n k).hbm = s.hbm := rfl
@[simp] theorem State.setCore_objs (n : Nat) (k : Core) : (s.setCore n k).objs = s.objs := rfl
@[simp] theorem State.setCore_ctxs (n : Nat) (k : Core) : (s.setCore n k).ctxs = s.ctxs := rfl
@[simp] theorem State.setCore_kernels (n : Nat) (k : Core) : (s.setCore n k).kernels = s.kernels := rfl
@[simp] theorem State.setCore_nextKid (n : Nat) (k : Core) : (s.setCore n k).nextKid = s.nextKid := rfl
@[simp] theorem State.setCore_groups (n : Nat) (k : Core) : (s.setCore n k).groups = s.groups := rfl
@[simp] theorem State.setCore_replicas (n : Nat) (k : Core) : (s.setCore n k).replicas = s.replicas := rfl
@[simp] theorem State.setCore_pgc (n : Nat) (k : Core) : (s.setCore n k).pgc = s.pgc := rfl
@[simp] theorem State.setCore_hlease (n : Nat) (k : Core) : (s.setCore n k).hlease = s.hlease := rfl
@[simp] theorem State.setCore_ports (n : Nat) (k : Core) : (s.setCore n k).ports = s.ports := rfl
@[simp] theorem State.setCore_route (n : Nat) (k : Core) : (s.setCore n k).route = s.route := rfl
@[simp] theorem State.setCore_chgep (n : Nat) (k : Core) : (s.setCore n k).chgep = s.chgep := rfl
@[simp] theorem State.setCore_change (n : Nat) (k : Core) : (s.setCore n k).change = s.change := rfl
@[simp] theorem State.setCore_self (n : Nat) (k : Core) : (s.setCore n k).self = s.self := rfl
@[simp] theorem State.setCore_ups (n : Nat) (k : Core) : (s.setCore n k).ups = s.ups := rfl
@[simp] theorem State.setCore_upSel (n : Nat) (k : Core) : (s.setCore n k).upSel = s.upSel := rfl
@[simp] theorem State.setCore_master (n : Nat) (k : Core) : (s.setCore n k).master = s.master := rfl
@[simp] theorem State.setCore_podTime (n : Nat) (k : Core) : (s.setCore n k).podTime = s.podTime := rfl
@[simp] theorem State.setCore_vqueue (n : Nat) (k : Core) : (s.setCore n k).vqueue = s.vqueue := rfl
@[simp] theorem State.setCore_opseqs (n : Nat) (k : Core) : (s.setCore n k).opseqs = s.opseqs := rfl
@[simp] theorem State.setCore_remotes (n : Nat) (k : Core) : (s.setCore n k).remotes = s.remotes := rfl
@[simp] theorem State.setCore_targets (n : Nat) (k : Core) : (s.setCore n k).targets = s.targets := rfl
@[simp] theorem State.setCore_ldrains (n : Nat) (k : Core) : (s.setCore n k).ldrains = s.ldrains := rfl
@[simp] theorem State.setCore_irSess (n : Nat) (k : Core) : (s.setCore n k).irSess = s.irSess := rfl
@[simp] theorem State.setCore_irOps (n : Nat) (k : Core) : (s.setCore n k).irOps = s.irOps := rfl
@[simp] theorem State.setCore_comb (n : Nat) (k : Core) : (s.setCore n k).comb = s.comb := rfl
@[simp] theorem State.setCore_devstat (n : Nat) (k : Core) : (s.setCore n k).devstat = s.devstat := rfl
@[simp] theorem State.setCore_enmap (n : Nat) (k : Core) : (s.setCore n k).enmap = s.enmap := rfl
@[simp] theorem State.setCore_wdmap (n : Nat) (k : Core) : (s.setCore n k).wdmap = s.wdmap := rfl
@[simp] theorem State.setCore_pwrlim (n : Nat) (k : Core) : (s.setCore n k).pwrlim = s.pwrlim := rfl
@[simp] theorem State.setCore_clock (n : Nat) (k : Core) : (s.setCore n k).clock = s.clock := rfl
@[simp] theorem State.setCore_fw (n : Nat) (k : Core) : (s.setCore n k).fw = s.fw := rfl
@[simp] theorem State.setCore_mepoch (n : Nat) (k : Core) : (s.setCore n k).mepoch = s.mepoch := rfl
@[simp] theorem State.setCore_linkUp (n : Nat) (k : Core) : (s.setCore n k).linkUp = s.linkUp := rfl
@[simp] theorem State.setCore_linkBad (n : Nat) (k : Core) : (s.setCore n k).linkBad = s.linkBad := rfl
@[simp] theorem State.setCore_contained (n : Nat) (k : Core) : (s.setCore n k).contained = s.contained := rfl
@[simp] theorem State.setCore_dcdGone (n : Nat) (k : Core) : (s.setCore n k).dcdGone = s.dcdGone := rfl
@[simp] theorem State.setCore_groupWait (n : Nat) (k : Core) : (s.setCore n k).groupWait = s.groupWait := rfl
@[simp] theorem State.setCore_peerAccepts (n : Nat) (k : Core) : (s.setCore n k).peerAccepts = s.peerAccepts := rfl
@[simp] theorem State.setCore_slotTaken (n : Nat) (k : Core) : (s.setCore n k).slotTaken = s.slotTaken := rfl
@[simp] theorem State.setCore_circuits (n : Nat) (k : Core) : (s.setCore n k).circuits = s.circuits := rfl
@[simp] theorem State.setCore_unitFaults (n : Nat) (k : Core) : (s.setCore n k).unitFaults = s.unitFaults := rfl
@[simp] theorem State.setCore_mgmtWait (n : Nat) (k : Core) : (s.setCore n k).mgmtWait = s.mgmtWait := rfl
@[simp] theorem State.setCore_hostMod (n : Nat) (k : Core) : (s.setCore n k).hostMod = s.hostMod := rfl
@[simp] theorem State.setCore_exposed (n : Nat) (k : Core) : (s.setCore n k).exposed = s.exposed := rfl
@[simp] theorem State.setCore_hostPoison (n : Nat) (k : Core) : (s.setCore n k).hostPoison = s.hostPoison := rfl
@[simp] theorem State.setCore_ats (n : Nat) (k : Core) : (s.setCore n k).ats = s.ats := rfl
@[simp] theorem State.setCore_reuse (n : Nat) (k : Core) : (s.setCore n k).reuse = s.reuse := rfl
@[simp] theorem State.setCore_out (n : Nat) (k : Core) : (s.setCore n k).out = s.out := rfl

/-! ## setCluster -/

@[simp] theorem State.setCluster_now (n : Nat) (k : Cluster) : (s.setCluster n k).now = s.now := rfl
@[simp] theorem State.setCluster_agenda (n : Nat) (k : Cluster) : (s.setCluster n k).agenda = s.agenda := rfl
@[simp] theorem State.setCluster_issuing (n : Nat) (k : Cluster) : (s.setCluster n k).issuing = s.issuing := rfl
@[simp] theorem State.setCluster_cursor (n : Nat) (k : Cluster) : (s.setCluster n k).cursor = s.cursor := rfl
@[simp] theorem State.setCluster_cur (n : Nat) (k : Cluster) : (s.setCluster n k).cur = s.cur := rfl
@[simp] theorem State.setCluster_curW (n : Nat) (k : Cluster) : (s.setCluster n k).curW = s.curW := rfl
@[simp] theorem State.setCluster_free (n : Nat) (k : Cluster) : (s.setCluster n k).free = s.free := rfl
@[simp] theorem State.setCluster_boot (n : Nat) (k : Cluster) : (s.setCluster n k).boot = s.boot := rfl
@[simp] theorem State.setCluster_mem (n : Nat) (k : Cluster) : (s.setCluster n k).mem = s.mem := rfl
@[simp] theorem State.setCluster_hostMap (n : Nat) (k : Cluster) : (s.setCluster n k).hostMap = s.hostMap := rfl
@[simp] theorem State.setCluster_tasks (n : Nat) (k : Cluster) : (s.setCluster n k).tasks = s.tasks := rfl
@[simp] theorem State.setCluster_cores (n : Nat) (k : Cluster) : (s.setCluster n k).cores = s.cores := rfl
@[simp] theorem State.setCluster_dies (n : Nat) (k : Cluster) : (s.setCluster n k).dies = s.dies := rfl
@[simp] theorem State.setCluster_hbm (n : Nat) (k : Cluster) : (s.setCluster n k).hbm = s.hbm := rfl
@[simp] theorem State.setCluster_objs (n : Nat) (k : Cluster) : (s.setCluster n k).objs = s.objs := rfl
@[simp] theorem State.setCluster_ctxs (n : Nat) (k : Cluster) : (s.setCluster n k).ctxs = s.ctxs := rfl
@[simp] theorem State.setCluster_kernels (n : Nat) (k : Cluster) : (s.setCluster n k).kernels = s.kernels := rfl
@[simp] theorem State.setCluster_nextKid (n : Nat) (k : Cluster) : (s.setCluster n k).nextKid = s.nextKid := rfl
@[simp] theorem State.setCluster_groups (n : Nat) (k : Cluster) : (s.setCluster n k).groups = s.groups := rfl
@[simp] theorem State.setCluster_replicas (n : Nat) (k : Cluster) : (s.setCluster n k).replicas = s.replicas := rfl
@[simp] theorem State.setCluster_pgc (n : Nat) (k : Cluster) : (s.setCluster n k).pgc = s.pgc := rfl
@[simp] theorem State.setCluster_hlease (n : Nat) (k : Cluster) : (s.setCluster n k).hlease = s.hlease := rfl
@[simp] theorem State.setCluster_ports (n : Nat) (k : Cluster) : (s.setCluster n k).ports = s.ports := rfl
@[simp] theorem State.setCluster_route (n : Nat) (k : Cluster) : (s.setCluster n k).route = s.route := rfl
@[simp] theorem State.setCluster_chgep (n : Nat) (k : Cluster) : (s.setCluster n k).chgep = s.chgep := rfl
@[simp] theorem State.setCluster_change (n : Nat) (k : Cluster) : (s.setCluster n k).change = s.change := rfl
@[simp] theorem State.setCluster_self (n : Nat) (k : Cluster) : (s.setCluster n k).self = s.self := rfl
@[simp] theorem State.setCluster_ups (n : Nat) (k : Cluster) : (s.setCluster n k).ups = s.ups := rfl
@[simp] theorem State.setCluster_upSel (n : Nat) (k : Cluster) : (s.setCluster n k).upSel = s.upSel := rfl
@[simp] theorem State.setCluster_master (n : Nat) (k : Cluster) : (s.setCluster n k).master = s.master := rfl
@[simp] theorem State.setCluster_podTime (n : Nat) (k : Cluster) : (s.setCluster n k).podTime = s.podTime := rfl
@[simp] theorem State.setCluster_vqueue (n : Nat) (k : Cluster) : (s.setCluster n k).vqueue = s.vqueue := rfl
@[simp] theorem State.setCluster_opseqs (n : Nat) (k : Cluster) : (s.setCluster n k).opseqs = s.opseqs := rfl
@[simp] theorem State.setCluster_remotes (n : Nat) (k : Cluster) : (s.setCluster n k).remotes = s.remotes := rfl
@[simp] theorem State.setCluster_targets (n : Nat) (k : Cluster) : (s.setCluster n k).targets = s.targets := rfl
@[simp] theorem State.setCluster_ldrains (n : Nat) (k : Cluster) : (s.setCluster n k).ldrains = s.ldrains := rfl
@[simp] theorem State.setCluster_irSess (n : Nat) (k : Cluster) : (s.setCluster n k).irSess = s.irSess := rfl
@[simp] theorem State.setCluster_irOps (n : Nat) (k : Cluster) : (s.setCluster n k).irOps = s.irOps := rfl
@[simp] theorem State.setCluster_comb (n : Nat) (k : Cluster) : (s.setCluster n k).comb = s.comb := rfl
@[simp] theorem State.setCluster_devstat (n : Nat) (k : Cluster) : (s.setCluster n k).devstat = s.devstat := rfl
@[simp] theorem State.setCluster_enmap (n : Nat) (k : Cluster) : (s.setCluster n k).enmap = s.enmap := rfl
@[simp] theorem State.setCluster_wdmap (n : Nat) (k : Cluster) : (s.setCluster n k).wdmap = s.wdmap := rfl
@[simp] theorem State.setCluster_pwrlim (n : Nat) (k : Cluster) : (s.setCluster n k).pwrlim = s.pwrlim := rfl
@[simp] theorem State.setCluster_clock (n : Nat) (k : Cluster) : (s.setCluster n k).clock = s.clock := rfl
@[simp] theorem State.setCluster_fw (n : Nat) (k : Cluster) : (s.setCluster n k).fw = s.fw := rfl
@[simp] theorem State.setCluster_mepoch (n : Nat) (k : Cluster) : (s.setCluster n k).mepoch = s.mepoch := rfl
@[simp] theorem State.setCluster_linkUp (n : Nat) (k : Cluster) : (s.setCluster n k).linkUp = s.linkUp := rfl
@[simp] theorem State.setCluster_linkBad (n : Nat) (k : Cluster) : (s.setCluster n k).linkBad = s.linkBad := rfl
@[simp] theorem State.setCluster_contained (n : Nat) (k : Cluster) : (s.setCluster n k).contained = s.contained := rfl
@[simp] theorem State.setCluster_dcdGone (n : Nat) (k : Cluster) : (s.setCluster n k).dcdGone = s.dcdGone := rfl
@[simp] theorem State.setCluster_groupWait (n : Nat) (k : Cluster) : (s.setCluster n k).groupWait = s.groupWait := rfl
@[simp] theorem State.setCluster_peerAccepts (n : Nat) (k : Cluster) : (s.setCluster n k).peerAccepts = s.peerAccepts := rfl
@[simp] theorem State.setCluster_slotTaken (n : Nat) (k : Cluster) : (s.setCluster n k).slotTaken = s.slotTaken := rfl
@[simp] theorem State.setCluster_circuits (n : Nat) (k : Cluster) : (s.setCluster n k).circuits = s.circuits := rfl
@[simp] theorem State.setCluster_unitFaults (n : Nat) (k : Cluster) : (s.setCluster n k).unitFaults = s.unitFaults := rfl
@[simp] theorem State.setCluster_mgmtWait (n : Nat) (k : Cluster) : (s.setCluster n k).mgmtWait = s.mgmtWait := rfl
@[simp] theorem State.setCluster_hostMod (n : Nat) (k : Cluster) : (s.setCluster n k).hostMod = s.hostMod := rfl
@[simp] theorem State.setCluster_exposed (n : Nat) (k : Cluster) : (s.setCluster n k).exposed = s.exposed := rfl
@[simp] theorem State.setCluster_hostPoison (n : Nat) (k : Cluster) : (s.setCluster n k).hostPoison = s.hostPoison := rfl
@[simp] theorem State.setCluster_ats (n : Nat) (k : Cluster) : (s.setCluster n k).ats = s.ats := rfl
@[simp] theorem State.setCluster_reuse (n : Nat) (k : Cluster) : (s.setCluster n k).reuse = s.reuse := rfl
@[simp] theorem State.setCluster_out (n : Nat) (k : Cluster) : (s.setCluster n k).out = s.out := rfl

/-! ## setDie -/

@[simp] theorem State.setDie_now (n : Nat) (k : Die) : (s.setDie n k).now = s.now := rfl
@[simp] theorem State.setDie_agenda (n : Nat) (k : Die) : (s.setDie n k).agenda = s.agenda := rfl
@[simp] theorem State.setDie_issuing (n : Nat) (k : Die) : (s.setDie n k).issuing = s.issuing := rfl
@[simp] theorem State.setDie_cursor (n : Nat) (k : Die) : (s.setDie n k).cursor = s.cursor := rfl
@[simp] theorem State.setDie_cur (n : Nat) (k : Die) : (s.setDie n k).cur = s.cur := rfl
@[simp] theorem State.setDie_curW (n : Nat) (k : Die) : (s.setDie n k).curW = s.curW := rfl
@[simp] theorem State.setDie_free (n : Nat) (k : Die) : (s.setDie n k).free = s.free := rfl
@[simp] theorem State.setDie_boot (n : Nat) (k : Die) : (s.setDie n k).boot = s.boot := rfl
@[simp] theorem State.setDie_mem (n : Nat) (k : Die) : (s.setDie n k).mem = s.mem := rfl
@[simp] theorem State.setDie_hostMap (n : Nat) (k : Die) : (s.setDie n k).hostMap = s.hostMap := rfl
@[simp] theorem State.setDie_tasks (n : Nat) (k : Die) : (s.setDie n k).tasks = s.tasks := rfl
@[simp] theorem State.setDie_cores (n : Nat) (k : Die) : (s.setDie n k).cores = s.cores := rfl
@[simp] theorem State.setDie_clusters (n : Nat) (k : Die) : (s.setDie n k).clusters = s.clusters := rfl
@[simp] theorem State.setDie_hbm (n : Nat) (k : Die) : (s.setDie n k).hbm = s.hbm := rfl
@[simp] theorem State.setDie_objs (n : Nat) (k : Die) : (s.setDie n k).objs = s.objs := rfl
@[simp] theorem State.setDie_ctxs (n : Nat) (k : Die) : (s.setDie n k).ctxs = s.ctxs := rfl
@[simp] theorem State.setDie_kernels (n : Nat) (k : Die) : (s.setDie n k).kernels = s.kernels := rfl
@[simp] theorem State.setDie_nextKid (n : Nat) (k : Die) : (s.setDie n k).nextKid = s.nextKid := rfl
@[simp] theorem State.setDie_groups (n : Nat) (k : Die) : (s.setDie n k).groups = s.groups := rfl
@[simp] theorem State.setDie_replicas (n : Nat) (k : Die) : (s.setDie n k).replicas = s.replicas := rfl
@[simp] theorem State.setDie_pgc (n : Nat) (k : Die) : (s.setDie n k).pgc = s.pgc := rfl
@[simp] theorem State.setDie_hlease (n : Nat) (k : Die) : (s.setDie n k).hlease = s.hlease := rfl
@[simp] theorem State.setDie_ports (n : Nat) (k : Die) : (s.setDie n k).ports = s.ports := rfl
@[simp] theorem State.setDie_route (n : Nat) (k : Die) : (s.setDie n k).route = s.route := rfl
@[simp] theorem State.setDie_chgep (n : Nat) (k : Die) : (s.setDie n k).chgep = s.chgep := rfl
@[simp] theorem State.setDie_change (n : Nat) (k : Die) : (s.setDie n k).change = s.change := rfl
@[simp] theorem State.setDie_self (n : Nat) (k : Die) : (s.setDie n k).self = s.self := rfl
@[simp] theorem State.setDie_ups (n : Nat) (k : Die) : (s.setDie n k).ups = s.ups := rfl
@[simp] theorem State.setDie_upSel (n : Nat) (k : Die) : (s.setDie n k).upSel = s.upSel := rfl
@[simp] theorem State.setDie_master (n : Nat) (k : Die) : (s.setDie n k).master = s.master := rfl
@[simp] theorem State.setDie_podTime (n : Nat) (k : Die) : (s.setDie n k).podTime = s.podTime := rfl
@[simp] theorem State.setDie_vqueue (n : Nat) (k : Die) : (s.setDie n k).vqueue = s.vqueue := rfl
@[simp] theorem State.setDie_opseqs (n : Nat) (k : Die) : (s.setDie n k).opseqs = s.opseqs := rfl
@[simp] theorem State.setDie_remotes (n : Nat) (k : Die) : (s.setDie n k).remotes = s.remotes := rfl
@[simp] theorem State.setDie_targets (n : Nat) (k : Die) : (s.setDie n k).targets = s.targets := rfl
@[simp] theorem State.setDie_ldrains (n : Nat) (k : Die) : (s.setDie n k).ldrains = s.ldrains := rfl
@[simp] theorem State.setDie_irSess (n : Nat) (k : Die) : (s.setDie n k).irSess = s.irSess := rfl
@[simp] theorem State.setDie_irOps (n : Nat) (k : Die) : (s.setDie n k).irOps = s.irOps := rfl
@[simp] theorem State.setDie_comb (n : Nat) (k : Die) : (s.setDie n k).comb = s.comb := rfl
@[simp] theorem State.setDie_devstat (n : Nat) (k : Die) : (s.setDie n k).devstat = s.devstat := rfl
@[simp] theorem State.setDie_enmap (n : Nat) (k : Die) : (s.setDie n k).enmap = s.enmap := rfl
@[simp] theorem State.setDie_wdmap (n : Nat) (k : Die) : (s.setDie n k).wdmap = s.wdmap := rfl
@[simp] theorem State.setDie_pwrlim (n : Nat) (k : Die) : (s.setDie n k).pwrlim = s.pwrlim := rfl
@[simp] theorem State.setDie_clock (n : Nat) (k : Die) : (s.setDie n k).clock = s.clock := rfl
@[simp] theorem State.setDie_fw (n : Nat) (k : Die) : (s.setDie n k).fw = s.fw := rfl
@[simp] theorem State.setDie_mepoch (n : Nat) (k : Die) : (s.setDie n k).mepoch = s.mepoch := rfl
@[simp] theorem State.setDie_linkUp (n : Nat) (k : Die) : (s.setDie n k).linkUp = s.linkUp := rfl
@[simp] theorem State.setDie_linkBad (n : Nat) (k : Die) : (s.setDie n k).linkBad = s.linkBad := rfl
@[simp] theorem State.setDie_contained (n : Nat) (k : Die) : (s.setDie n k).contained = s.contained := rfl
@[simp] theorem State.setDie_dcdGone (n : Nat) (k : Die) : (s.setDie n k).dcdGone = s.dcdGone := rfl
@[simp] theorem State.setDie_groupWait (n : Nat) (k : Die) : (s.setDie n k).groupWait = s.groupWait := rfl
@[simp] theorem State.setDie_peerAccepts (n : Nat) (k : Die) : (s.setDie n k).peerAccepts = s.peerAccepts := rfl
@[simp] theorem State.setDie_slotTaken (n : Nat) (k : Die) : (s.setDie n k).slotTaken = s.slotTaken := rfl
@[simp] theorem State.setDie_circuits (n : Nat) (k : Die) : (s.setDie n k).circuits = s.circuits := rfl
@[simp] theorem State.setDie_unitFaults (n : Nat) (k : Die) : (s.setDie n k).unitFaults = s.unitFaults := rfl
@[simp] theorem State.setDie_mgmtWait (n : Nat) (k : Die) : (s.setDie n k).mgmtWait = s.mgmtWait := rfl
@[simp] theorem State.setDie_hostMod (n : Nat) (k : Die) : (s.setDie n k).hostMod = s.hostMod := rfl
@[simp] theorem State.setDie_exposed (n : Nat) (k : Die) : (s.setDie n k).exposed = s.exposed := rfl
@[simp] theorem State.setDie_hostPoison (n : Nat) (k : Die) : (s.setDie n k).hostPoison = s.hostPoison := rfl
@[simp] theorem State.setDie_ats (n : Nat) (k : Die) : (s.setDie n k).ats = s.ats := rfl
@[simp] theorem State.setDie_reuse (n : Nat) (k : Die) : (s.setDie n k).reuse = s.reuse := rfl
@[simp] theorem State.setDie_out (n : Nat) (k : Die) : (s.setDie n k).out = s.out := rfl

/-! ## setStack -/

@[simp] theorem State.setStack_now (n : Nat) (k : Stack) : (s.setStack n k).now = s.now := rfl
@[simp] theorem State.setStack_agenda (n : Nat) (k : Stack) : (s.setStack n k).agenda = s.agenda := rfl
@[simp] theorem State.setStack_issuing (n : Nat) (k : Stack) : (s.setStack n k).issuing = s.issuing := rfl
@[simp] theorem State.setStack_cursor (n : Nat) (k : Stack) : (s.setStack n k).cursor = s.cursor := rfl
@[simp] theorem State.setStack_cur (n : Nat) (k : Stack) : (s.setStack n k).cur = s.cur := rfl
@[simp] theorem State.setStack_curW (n : Nat) (k : Stack) : (s.setStack n k).curW = s.curW := rfl
@[simp] theorem State.setStack_free (n : Nat) (k : Stack) : (s.setStack n k).free = s.free := rfl
@[simp] theorem State.setStack_boot (n : Nat) (k : Stack) : (s.setStack n k).boot = s.boot := rfl
@[simp] theorem State.setStack_mem (n : Nat) (k : Stack) : (s.setStack n k).mem = s.mem := rfl
@[simp] theorem State.setStack_hostMap (n : Nat) (k : Stack) : (s.setStack n k).hostMap = s.hostMap := rfl
@[simp] theorem State.setStack_tasks (n : Nat) (k : Stack) : (s.setStack n k).tasks = s.tasks := rfl
@[simp] theorem State.setStack_cores (n : Nat) (k : Stack) : (s.setStack n k).cores = s.cores := rfl
@[simp] theorem State.setStack_clusters (n : Nat) (k : Stack) : (s.setStack n k).clusters = s.clusters := rfl
@[simp] theorem State.setStack_dies (n : Nat) (k : Stack) : (s.setStack n k).dies = s.dies := rfl
@[simp] theorem State.setStack_objs (n : Nat) (k : Stack) : (s.setStack n k).objs = s.objs := rfl
@[simp] theorem State.setStack_ctxs (n : Nat) (k : Stack) : (s.setStack n k).ctxs = s.ctxs := rfl
@[simp] theorem State.setStack_kernels (n : Nat) (k : Stack) : (s.setStack n k).kernels = s.kernels := rfl
@[simp] theorem State.setStack_nextKid (n : Nat) (k : Stack) : (s.setStack n k).nextKid = s.nextKid := rfl
@[simp] theorem State.setStack_groups (n : Nat) (k : Stack) : (s.setStack n k).groups = s.groups := rfl
@[simp] theorem State.setStack_replicas (n : Nat) (k : Stack) : (s.setStack n k).replicas = s.replicas := rfl
@[simp] theorem State.setStack_pgc (n : Nat) (k : Stack) : (s.setStack n k).pgc = s.pgc := rfl
@[simp] theorem State.setStack_hlease (n : Nat) (k : Stack) : (s.setStack n k).hlease = s.hlease := rfl
@[simp] theorem State.setStack_ports (n : Nat) (k : Stack) : (s.setStack n k).ports = s.ports := rfl
@[simp] theorem State.setStack_route (n : Nat) (k : Stack) : (s.setStack n k).route = s.route := rfl
@[simp] theorem State.setStack_chgep (n : Nat) (k : Stack) : (s.setStack n k).chgep = s.chgep := rfl
@[simp] theorem State.setStack_change (n : Nat) (k : Stack) : (s.setStack n k).change = s.change := rfl
@[simp] theorem State.setStack_self (n : Nat) (k : Stack) : (s.setStack n k).self = s.self := rfl
@[simp] theorem State.setStack_ups (n : Nat) (k : Stack) : (s.setStack n k).ups = s.ups := rfl
@[simp] theorem State.setStack_upSel (n : Nat) (k : Stack) : (s.setStack n k).upSel = s.upSel := rfl
@[simp] theorem State.setStack_master (n : Nat) (k : Stack) : (s.setStack n k).master = s.master := rfl
@[simp] theorem State.setStack_podTime (n : Nat) (k : Stack) : (s.setStack n k).podTime = s.podTime := rfl
@[simp] theorem State.setStack_vqueue (n : Nat) (k : Stack) : (s.setStack n k).vqueue = s.vqueue := rfl
@[simp] theorem State.setStack_opseqs (n : Nat) (k : Stack) : (s.setStack n k).opseqs = s.opseqs := rfl
@[simp] theorem State.setStack_remotes (n : Nat) (k : Stack) : (s.setStack n k).remotes = s.remotes := rfl
@[simp] theorem State.setStack_targets (n : Nat) (k : Stack) : (s.setStack n k).targets = s.targets := rfl
@[simp] theorem State.setStack_ldrains (n : Nat) (k : Stack) : (s.setStack n k).ldrains = s.ldrains := rfl
@[simp] theorem State.setStack_irSess (n : Nat) (k : Stack) : (s.setStack n k).irSess = s.irSess := rfl
@[simp] theorem State.setStack_irOps (n : Nat) (k : Stack) : (s.setStack n k).irOps = s.irOps := rfl
@[simp] theorem State.setStack_comb (n : Nat) (k : Stack) : (s.setStack n k).comb = s.comb := rfl
@[simp] theorem State.setStack_devstat (n : Nat) (k : Stack) : (s.setStack n k).devstat = s.devstat := rfl
@[simp] theorem State.setStack_enmap (n : Nat) (k : Stack) : (s.setStack n k).enmap = s.enmap := rfl
@[simp] theorem State.setStack_wdmap (n : Nat) (k : Stack) : (s.setStack n k).wdmap = s.wdmap := rfl
@[simp] theorem State.setStack_pwrlim (n : Nat) (k : Stack) : (s.setStack n k).pwrlim = s.pwrlim := rfl
@[simp] theorem State.setStack_clock (n : Nat) (k : Stack) : (s.setStack n k).clock = s.clock := rfl
@[simp] theorem State.setStack_fw (n : Nat) (k : Stack) : (s.setStack n k).fw = s.fw := rfl
@[simp] theorem State.setStack_mepoch (n : Nat) (k : Stack) : (s.setStack n k).mepoch = s.mepoch := rfl
@[simp] theorem State.setStack_linkUp (n : Nat) (k : Stack) : (s.setStack n k).linkUp = s.linkUp := rfl
@[simp] theorem State.setStack_linkBad (n : Nat) (k : Stack) : (s.setStack n k).linkBad = s.linkBad := rfl
@[simp] theorem State.setStack_contained (n : Nat) (k : Stack) : (s.setStack n k).contained = s.contained := rfl
@[simp] theorem State.setStack_dcdGone (n : Nat) (k : Stack) : (s.setStack n k).dcdGone = s.dcdGone := rfl
@[simp] theorem State.setStack_groupWait (n : Nat) (k : Stack) : (s.setStack n k).groupWait = s.groupWait := rfl
@[simp] theorem State.setStack_peerAccepts (n : Nat) (k : Stack) : (s.setStack n k).peerAccepts = s.peerAccepts := rfl
@[simp] theorem State.setStack_slotTaken (n : Nat) (k : Stack) : (s.setStack n k).slotTaken = s.slotTaken := rfl
@[simp] theorem State.setStack_circuits (n : Nat) (k : Stack) : (s.setStack n k).circuits = s.circuits := rfl
@[simp] theorem State.setStack_unitFaults (n : Nat) (k : Stack) : (s.setStack n k).unitFaults = s.unitFaults := rfl
@[simp] theorem State.setStack_mgmtWait (n : Nat) (k : Stack) : (s.setStack n k).mgmtWait = s.mgmtWait := rfl
@[simp] theorem State.setStack_hostMod (n : Nat) (k : Stack) : (s.setStack n k).hostMod = s.hostMod := rfl
@[simp] theorem State.setStack_exposed (n : Nat) (k : Stack) : (s.setStack n k).exposed = s.exposed := rfl
@[simp] theorem State.setStack_hostPoison (n : Nat) (k : Stack) : (s.setStack n k).hostPoison = s.hostPoison := rfl
@[simp] theorem State.setStack_ats (n : Nat) (k : Stack) : (s.setStack n k).ats = s.ats := rfl
@[simp] theorem State.setStack_reuse (n : Nat) (k : Stack) : (s.setStack n k).reuse = s.reuse := rfl
@[simp] theorem State.setStack_out (n : Nat) (k : Stack) : (s.setStack n k).out = s.out := rfl

/-! ## setCtx -/

@[simp] theorem State.setCtx_now (n : Nat) (k : Context) : (s.setCtx n k).now = s.now := rfl
@[simp] theorem State.setCtx_agenda (n : Nat) (k : Context) : (s.setCtx n k).agenda = s.agenda := rfl
@[simp] theorem State.setCtx_issuing (n : Nat) (k : Context) : (s.setCtx n k).issuing = s.issuing := rfl
@[simp] theorem State.setCtx_cursor (n : Nat) (k : Context) : (s.setCtx n k).cursor = s.cursor := rfl
@[simp] theorem State.setCtx_cur (n : Nat) (k : Context) : (s.setCtx n k).cur = s.cur := rfl
@[simp] theorem State.setCtx_curW (n : Nat) (k : Context) : (s.setCtx n k).curW = s.curW := rfl
@[simp] theorem State.setCtx_free (n : Nat) (k : Context) : (s.setCtx n k).free = s.free := rfl
@[simp] theorem State.setCtx_boot (n : Nat) (k : Context) : (s.setCtx n k).boot = s.boot := rfl
@[simp] theorem State.setCtx_mem (n : Nat) (k : Context) : (s.setCtx n k).mem = s.mem := rfl
@[simp] theorem State.setCtx_hostMap (n : Nat) (k : Context) : (s.setCtx n k).hostMap = s.hostMap := rfl
@[simp] theorem State.setCtx_tasks (n : Nat) (k : Context) : (s.setCtx n k).tasks = s.tasks := rfl
@[simp] theorem State.setCtx_cores (n : Nat) (k : Context) : (s.setCtx n k).cores = s.cores := rfl
@[simp] theorem State.setCtx_clusters (n : Nat) (k : Context) : (s.setCtx n k).clusters = s.clusters := rfl
@[simp] theorem State.setCtx_dies (n : Nat) (k : Context) : (s.setCtx n k).dies = s.dies := rfl
@[simp] theorem State.setCtx_hbm (n : Nat) (k : Context) : (s.setCtx n k).hbm = s.hbm := rfl
@[simp] theorem State.setCtx_objs (n : Nat) (k : Context) : (s.setCtx n k).objs = s.objs := rfl
@[simp] theorem State.setCtx_kernels (n : Nat) (k : Context) : (s.setCtx n k).kernels = s.kernels := rfl
@[simp] theorem State.setCtx_nextKid (n : Nat) (k : Context) : (s.setCtx n k).nextKid = s.nextKid := rfl
@[simp] theorem State.setCtx_groups (n : Nat) (k : Context) : (s.setCtx n k).groups = s.groups := rfl
@[simp] theorem State.setCtx_replicas (n : Nat) (k : Context) : (s.setCtx n k).replicas = s.replicas := rfl
@[simp] theorem State.setCtx_pgc (n : Nat) (k : Context) : (s.setCtx n k).pgc = s.pgc := rfl
@[simp] theorem State.setCtx_hlease (n : Nat) (k : Context) : (s.setCtx n k).hlease = s.hlease := rfl
@[simp] theorem State.setCtx_ports (n : Nat) (k : Context) : (s.setCtx n k).ports = s.ports := rfl
@[simp] theorem State.setCtx_route (n : Nat) (k : Context) : (s.setCtx n k).route = s.route := rfl
@[simp] theorem State.setCtx_chgep (n : Nat) (k : Context) : (s.setCtx n k).chgep = s.chgep := rfl
@[simp] theorem State.setCtx_change (n : Nat) (k : Context) : (s.setCtx n k).change = s.change := rfl
@[simp] theorem State.setCtx_self (n : Nat) (k : Context) : (s.setCtx n k).self = s.self := rfl
@[simp] theorem State.setCtx_ups (n : Nat) (k : Context) : (s.setCtx n k).ups = s.ups := rfl
@[simp] theorem State.setCtx_upSel (n : Nat) (k : Context) : (s.setCtx n k).upSel = s.upSel := rfl
@[simp] theorem State.setCtx_master (n : Nat) (k : Context) : (s.setCtx n k).master = s.master := rfl
@[simp] theorem State.setCtx_podTime (n : Nat) (k : Context) : (s.setCtx n k).podTime = s.podTime := rfl
@[simp] theorem State.setCtx_vqueue (n : Nat) (k : Context) : (s.setCtx n k).vqueue = s.vqueue := rfl
@[simp] theorem State.setCtx_opseqs (n : Nat) (k : Context) : (s.setCtx n k).opseqs = s.opseqs := rfl
@[simp] theorem State.setCtx_remotes (n : Nat) (k : Context) : (s.setCtx n k).remotes = s.remotes := rfl
@[simp] theorem State.setCtx_targets (n : Nat) (k : Context) : (s.setCtx n k).targets = s.targets := rfl
@[simp] theorem State.setCtx_ldrains (n : Nat) (k : Context) : (s.setCtx n k).ldrains = s.ldrains := rfl
@[simp] theorem State.setCtx_irSess (n : Nat) (k : Context) : (s.setCtx n k).irSess = s.irSess := rfl
@[simp] theorem State.setCtx_irOps (n : Nat) (k : Context) : (s.setCtx n k).irOps = s.irOps := rfl
@[simp] theorem State.setCtx_comb (n : Nat) (k : Context) : (s.setCtx n k).comb = s.comb := rfl
@[simp] theorem State.setCtx_devstat (n : Nat) (k : Context) : (s.setCtx n k).devstat = s.devstat := rfl
@[simp] theorem State.setCtx_enmap (n : Nat) (k : Context) : (s.setCtx n k).enmap = s.enmap := rfl
@[simp] theorem State.setCtx_wdmap (n : Nat) (k : Context) : (s.setCtx n k).wdmap = s.wdmap := rfl
@[simp] theorem State.setCtx_pwrlim (n : Nat) (k : Context) : (s.setCtx n k).pwrlim = s.pwrlim := rfl
@[simp] theorem State.setCtx_clock (n : Nat) (k : Context) : (s.setCtx n k).clock = s.clock := rfl
@[simp] theorem State.setCtx_fw (n : Nat) (k : Context) : (s.setCtx n k).fw = s.fw := rfl
@[simp] theorem State.setCtx_mepoch (n : Nat) (k : Context) : (s.setCtx n k).mepoch = s.mepoch := rfl
@[simp] theorem State.setCtx_linkUp (n : Nat) (k : Context) : (s.setCtx n k).linkUp = s.linkUp := rfl
@[simp] theorem State.setCtx_linkBad (n : Nat) (k : Context) : (s.setCtx n k).linkBad = s.linkBad := rfl
@[simp] theorem State.setCtx_contained (n : Nat) (k : Context) : (s.setCtx n k).contained = s.contained := rfl
@[simp] theorem State.setCtx_dcdGone (n : Nat) (k : Context) : (s.setCtx n k).dcdGone = s.dcdGone := rfl
@[simp] theorem State.setCtx_groupWait (n : Nat) (k : Context) : (s.setCtx n k).groupWait = s.groupWait := rfl
@[simp] theorem State.setCtx_peerAccepts (n : Nat) (k : Context) : (s.setCtx n k).peerAccepts = s.peerAccepts := rfl
@[simp] theorem State.setCtx_slotTaken (n : Nat) (k : Context) : (s.setCtx n k).slotTaken = s.slotTaken := rfl
@[simp] theorem State.setCtx_circuits (n : Nat) (k : Context) : (s.setCtx n k).circuits = s.circuits := rfl
@[simp] theorem State.setCtx_unitFaults (n : Nat) (k : Context) : (s.setCtx n k).unitFaults = s.unitFaults := rfl
@[simp] theorem State.setCtx_mgmtWait (n : Nat) (k : Context) : (s.setCtx n k).mgmtWait = s.mgmtWait := rfl
@[simp] theorem State.setCtx_hostMod (n : Nat) (k : Context) : (s.setCtx n k).hostMod = s.hostMod := rfl
@[simp] theorem State.setCtx_exposed (n : Nat) (k : Context) : (s.setCtx n k).exposed = s.exposed := rfl
@[simp] theorem State.setCtx_hostPoison (n : Nat) (k : Context) : (s.setCtx n k).hostPoison = s.hostPoison := rfl
@[simp] theorem State.setCtx_ats (n : Nat) (k : Context) : (s.setCtx n k).ats = s.ats := rfl
@[simp] theorem State.setCtx_reuse (n : Nat) (k : Context) : (s.setCtx n k).reuse = s.reuse := rfl
@[simp] theorem State.setCtx_out (n : Nat) (k : Context) : (s.setCtx n k).out = s.out := rfl

/-! ## setPort -/

@[simp] theorem State.setPort_now (n : Nat) (k : Port) : (s.setPort n k).now = s.now := rfl
@[simp] theorem State.setPort_agenda (n : Nat) (k : Port) : (s.setPort n k).agenda = s.agenda := rfl
@[simp] theorem State.setPort_issuing (n : Nat) (k : Port) : (s.setPort n k).issuing = s.issuing := rfl
@[simp] theorem State.setPort_cursor (n : Nat) (k : Port) : (s.setPort n k).cursor = s.cursor := rfl
@[simp] theorem State.setPort_cur (n : Nat) (k : Port) : (s.setPort n k).cur = s.cur := rfl
@[simp] theorem State.setPort_curW (n : Nat) (k : Port) : (s.setPort n k).curW = s.curW := rfl
@[simp] theorem State.setPort_free (n : Nat) (k : Port) : (s.setPort n k).free = s.free := rfl
@[simp] theorem State.setPort_boot (n : Nat) (k : Port) : (s.setPort n k).boot = s.boot := rfl
@[simp] theorem State.setPort_mem (n : Nat) (k : Port) : (s.setPort n k).mem = s.mem := rfl
@[simp] theorem State.setPort_hostMap (n : Nat) (k : Port) : (s.setPort n k).hostMap = s.hostMap := rfl
@[simp] theorem State.setPort_tasks (n : Nat) (k : Port) : (s.setPort n k).tasks = s.tasks := rfl
@[simp] theorem State.setPort_cores (n : Nat) (k : Port) : (s.setPort n k).cores = s.cores := rfl
@[simp] theorem State.setPort_clusters (n : Nat) (k : Port) : (s.setPort n k).clusters = s.clusters := rfl
@[simp] theorem State.setPort_dies (n : Nat) (k : Port) : (s.setPort n k).dies = s.dies := rfl
@[simp] theorem State.setPort_hbm (n : Nat) (k : Port) : (s.setPort n k).hbm = s.hbm := rfl
@[simp] theorem State.setPort_objs (n : Nat) (k : Port) : (s.setPort n k).objs = s.objs := rfl
@[simp] theorem State.setPort_ctxs (n : Nat) (k : Port) : (s.setPort n k).ctxs = s.ctxs := rfl
@[simp] theorem State.setPort_kernels (n : Nat) (k : Port) : (s.setPort n k).kernels = s.kernels := rfl
@[simp] theorem State.setPort_nextKid (n : Nat) (k : Port) : (s.setPort n k).nextKid = s.nextKid := rfl
@[simp] theorem State.setPort_groups (n : Nat) (k : Port) : (s.setPort n k).groups = s.groups := rfl
@[simp] theorem State.setPort_replicas (n : Nat) (k : Port) : (s.setPort n k).replicas = s.replicas := rfl
@[simp] theorem State.setPort_pgc (n : Nat) (k : Port) : (s.setPort n k).pgc = s.pgc := rfl
@[simp] theorem State.setPort_hlease (n : Nat) (k : Port) : (s.setPort n k).hlease = s.hlease := rfl
@[simp] theorem State.setPort_route (n : Nat) (k : Port) : (s.setPort n k).route = s.route := rfl
@[simp] theorem State.setPort_chgep (n : Nat) (k : Port) : (s.setPort n k).chgep = s.chgep := rfl
@[simp] theorem State.setPort_change (n : Nat) (k : Port) : (s.setPort n k).change = s.change := rfl
@[simp] theorem State.setPort_self (n : Nat) (k : Port) : (s.setPort n k).self = s.self := rfl
@[simp] theorem State.setPort_ups (n : Nat) (k : Port) : (s.setPort n k).ups = s.ups := rfl
@[simp] theorem State.setPort_upSel (n : Nat) (k : Port) : (s.setPort n k).upSel = s.upSel := rfl
@[simp] theorem State.setPort_master (n : Nat) (k : Port) : (s.setPort n k).master = s.master := rfl
@[simp] theorem State.setPort_podTime (n : Nat) (k : Port) : (s.setPort n k).podTime = s.podTime := rfl
@[simp] theorem State.setPort_vqueue (n : Nat) (k : Port) : (s.setPort n k).vqueue = s.vqueue := rfl
@[simp] theorem State.setPort_opseqs (n : Nat) (k : Port) : (s.setPort n k).opseqs = s.opseqs := rfl
@[simp] theorem State.setPort_remotes (n : Nat) (k : Port) : (s.setPort n k).remotes = s.remotes := rfl
@[simp] theorem State.setPort_targets (n : Nat) (k : Port) : (s.setPort n k).targets = s.targets := rfl
@[simp] theorem State.setPort_ldrains (n : Nat) (k : Port) : (s.setPort n k).ldrains = s.ldrains := rfl
@[simp] theorem State.setPort_irSess (n : Nat) (k : Port) : (s.setPort n k).irSess = s.irSess := rfl
@[simp] theorem State.setPort_irOps (n : Nat) (k : Port) : (s.setPort n k).irOps = s.irOps := rfl
@[simp] theorem State.setPort_comb (n : Nat) (k : Port) : (s.setPort n k).comb = s.comb := rfl
@[simp] theorem State.setPort_devstat (n : Nat) (k : Port) : (s.setPort n k).devstat = s.devstat := rfl
@[simp] theorem State.setPort_enmap (n : Nat) (k : Port) : (s.setPort n k).enmap = s.enmap := rfl
@[simp] theorem State.setPort_wdmap (n : Nat) (k : Port) : (s.setPort n k).wdmap = s.wdmap := rfl
@[simp] theorem State.setPort_pwrlim (n : Nat) (k : Port) : (s.setPort n k).pwrlim = s.pwrlim := rfl
@[simp] theorem State.setPort_clock (n : Nat) (k : Port) : (s.setPort n k).clock = s.clock := rfl
@[simp] theorem State.setPort_fw (n : Nat) (k : Port) : (s.setPort n k).fw = s.fw := rfl
@[simp] theorem State.setPort_mepoch (n : Nat) (k : Port) : (s.setPort n k).mepoch = s.mepoch := rfl
@[simp] theorem State.setPort_linkUp (n : Nat) (k : Port) : (s.setPort n k).linkUp = s.linkUp := rfl
@[simp] theorem State.setPort_linkBad (n : Nat) (k : Port) : (s.setPort n k).linkBad = s.linkBad := rfl
@[simp] theorem State.setPort_contained (n : Nat) (k : Port) : (s.setPort n k).contained = s.contained := rfl
@[simp] theorem State.setPort_dcdGone (n : Nat) (k : Port) : (s.setPort n k).dcdGone = s.dcdGone := rfl
@[simp] theorem State.setPort_groupWait (n : Nat) (k : Port) : (s.setPort n k).groupWait = s.groupWait := rfl
@[simp] theorem State.setPort_peerAccepts (n : Nat) (k : Port) : (s.setPort n k).peerAccepts = s.peerAccepts := rfl
@[simp] theorem State.setPort_slotTaken (n : Nat) (k : Port) : (s.setPort n k).slotTaken = s.slotTaken := rfl
@[simp] theorem State.setPort_circuits (n : Nat) (k : Port) : (s.setPort n k).circuits = s.circuits := rfl
@[simp] theorem State.setPort_unitFaults (n : Nat) (k : Port) : (s.setPort n k).unitFaults = s.unitFaults := rfl
@[simp] theorem State.setPort_mgmtWait (n : Nat) (k : Port) : (s.setPort n k).mgmtWait = s.mgmtWait := rfl
@[simp] theorem State.setPort_hostMod (n : Nat) (k : Port) : (s.setPort n k).hostMod = s.hostMod := rfl
@[simp] theorem State.setPort_exposed (n : Nat) (k : Port) : (s.setPort n k).exposed = s.exposed := rfl
@[simp] theorem State.setPort_hostPoison (n : Nat) (k : Port) : (s.setPort n k).hostPoison = s.hostPoison := rfl
@[simp] theorem State.setPort_ats (n : Nat) (k : Port) : (s.setPort n k).ats = s.ats := rfl
@[simp] theorem State.setPort_reuse (n : Nat) (k : Port) : (s.setPort n k).reuse = s.reuse := rfl
@[simp] theorem State.setPort_out (n : Nat) (k : Port) : (s.setPort n k).out = s.out := rfl

/-! ## setFw -/

@[simp] theorem State.setFw_now (n : Nat) (k : FwKind) : (s.setFw n k).now = s.now := rfl
@[simp] theorem State.setFw_agenda (n : Nat) (k : FwKind) : (s.setFw n k).agenda = s.agenda := rfl
@[simp] theorem State.setFw_issuing (n : Nat) (k : FwKind) : (s.setFw n k).issuing = s.issuing := rfl
@[simp] theorem State.setFw_cursor (n : Nat) (k : FwKind) : (s.setFw n k).cursor = s.cursor := rfl
@[simp] theorem State.setFw_cur (n : Nat) (k : FwKind) : (s.setFw n k).cur = s.cur := rfl
@[simp] theorem State.setFw_curW (n : Nat) (k : FwKind) : (s.setFw n k).curW = s.curW := rfl
@[simp] theorem State.setFw_free (n : Nat) (k : FwKind) : (s.setFw n k).free = s.free := rfl
@[simp] theorem State.setFw_boot (n : Nat) (k : FwKind) : (s.setFw n k).boot = s.boot := rfl
@[simp] theorem State.setFw_mem (n : Nat) (k : FwKind) : (s.setFw n k).mem = s.mem := rfl
@[simp] theorem State.setFw_hostMap (n : Nat) (k : FwKind) : (s.setFw n k).hostMap = s.hostMap := rfl
@[simp] theorem State.setFw_tasks (n : Nat) (k : FwKind) : (s.setFw n k).tasks = s.tasks := rfl
@[simp] theorem State.setFw_cores (n : Nat) (k : FwKind) : (s.setFw n k).cores = s.cores := rfl
@[simp] theorem State.setFw_clusters (n : Nat) (k : FwKind) : (s.setFw n k).clusters = s.clusters := rfl
@[simp] theorem State.setFw_dies (n : Nat) (k : FwKind) : (s.setFw n k).dies = s.dies := rfl
@[simp] theorem State.setFw_hbm (n : Nat) (k : FwKind) : (s.setFw n k).hbm = s.hbm := rfl
@[simp] theorem State.setFw_objs (n : Nat) (k : FwKind) : (s.setFw n k).objs = s.objs := rfl
@[simp] theorem State.setFw_ctxs (n : Nat) (k : FwKind) : (s.setFw n k).ctxs = s.ctxs := rfl
@[simp] theorem State.setFw_kernels (n : Nat) (k : FwKind) : (s.setFw n k).kernels = s.kernels := rfl
@[simp] theorem State.setFw_nextKid (n : Nat) (k : FwKind) : (s.setFw n k).nextKid = s.nextKid := rfl
@[simp] theorem State.setFw_groups (n : Nat) (k : FwKind) : (s.setFw n k).groups = s.groups := rfl
@[simp] theorem State.setFw_replicas (n : Nat) (k : FwKind) : (s.setFw n k).replicas = s.replicas := rfl
@[simp] theorem State.setFw_pgc (n : Nat) (k : FwKind) : (s.setFw n k).pgc = s.pgc := rfl
@[simp] theorem State.setFw_hlease (n : Nat) (k : FwKind) : (s.setFw n k).hlease = s.hlease := rfl
@[simp] theorem State.setFw_ports (n : Nat) (k : FwKind) : (s.setFw n k).ports = s.ports := rfl
@[simp] theorem State.setFw_route (n : Nat) (k : FwKind) : (s.setFw n k).route = s.route := rfl
@[simp] theorem State.setFw_chgep (n : Nat) (k : FwKind) : (s.setFw n k).chgep = s.chgep := rfl
@[simp] theorem State.setFw_change (n : Nat) (k : FwKind) : (s.setFw n k).change = s.change := rfl
@[simp] theorem State.setFw_self (n : Nat) (k : FwKind) : (s.setFw n k).self = s.self := rfl
@[simp] theorem State.setFw_ups (n : Nat) (k : FwKind) : (s.setFw n k).ups = s.ups := rfl
@[simp] theorem State.setFw_upSel (n : Nat) (k : FwKind) : (s.setFw n k).upSel = s.upSel := rfl
@[simp] theorem State.setFw_master (n : Nat) (k : FwKind) : (s.setFw n k).master = s.master := rfl
@[simp] theorem State.setFw_podTime (n : Nat) (k : FwKind) : (s.setFw n k).podTime = s.podTime := rfl
@[simp] theorem State.setFw_vqueue (n : Nat) (k : FwKind) : (s.setFw n k).vqueue = s.vqueue := rfl
@[simp] theorem State.setFw_opseqs (n : Nat) (k : FwKind) : (s.setFw n k).opseqs = s.opseqs := rfl
@[simp] theorem State.setFw_remotes (n : Nat) (k : FwKind) : (s.setFw n k).remotes = s.remotes := rfl
@[simp] theorem State.setFw_targets (n : Nat) (k : FwKind) : (s.setFw n k).targets = s.targets := rfl
@[simp] theorem State.setFw_ldrains (n : Nat) (k : FwKind) : (s.setFw n k).ldrains = s.ldrains := rfl
@[simp] theorem State.setFw_irSess (n : Nat) (k : FwKind) : (s.setFw n k).irSess = s.irSess := rfl
@[simp] theorem State.setFw_irOps (n : Nat) (k : FwKind) : (s.setFw n k).irOps = s.irOps := rfl
@[simp] theorem State.setFw_comb (n : Nat) (k : FwKind) : (s.setFw n k).comb = s.comb := rfl
@[simp] theorem State.setFw_devstat (n : Nat) (k : FwKind) : (s.setFw n k).devstat = s.devstat := rfl
@[simp] theorem State.setFw_enmap (n : Nat) (k : FwKind) : (s.setFw n k).enmap = s.enmap := rfl
@[simp] theorem State.setFw_wdmap (n : Nat) (k : FwKind) : (s.setFw n k).wdmap = s.wdmap := rfl
@[simp] theorem State.setFw_pwrlim (n : Nat) (k : FwKind) : (s.setFw n k).pwrlim = s.pwrlim := rfl
@[simp] theorem State.setFw_clock (n : Nat) (k : FwKind) : (s.setFw n k).clock = s.clock := rfl
@[simp] theorem State.setFw_mepoch (n : Nat) (k : FwKind) : (s.setFw n k).mepoch = s.mepoch := rfl
@[simp] theorem State.setFw_linkUp (n : Nat) (k : FwKind) : (s.setFw n k).linkUp = s.linkUp := rfl
@[simp] theorem State.setFw_linkBad (n : Nat) (k : FwKind) : (s.setFw n k).linkBad = s.linkBad := rfl
@[simp] theorem State.setFw_contained (n : Nat) (k : FwKind) : (s.setFw n k).contained = s.contained := rfl
@[simp] theorem State.setFw_dcdGone (n : Nat) (k : FwKind) : (s.setFw n k).dcdGone = s.dcdGone := rfl
@[simp] theorem State.setFw_groupWait (n : Nat) (k : FwKind) : (s.setFw n k).groupWait = s.groupWait := rfl
@[simp] theorem State.setFw_peerAccepts (n : Nat) (k : FwKind) : (s.setFw n k).peerAccepts = s.peerAccepts := rfl
@[simp] theorem State.setFw_slotTaken (n : Nat) (k : FwKind) : (s.setFw n k).slotTaken = s.slotTaken := rfl
@[simp] theorem State.setFw_circuits (n : Nat) (k : FwKind) : (s.setFw n k).circuits = s.circuits := rfl
@[simp] theorem State.setFw_unitFaults (n : Nat) (k : FwKind) : (s.setFw n k).unitFaults = s.unitFaults := rfl
@[simp] theorem State.setFw_mgmtWait (n : Nat) (k : FwKind) : (s.setFw n k).mgmtWait = s.mgmtWait := rfl
@[simp] theorem State.setFw_hostMod (n : Nat) (k : FwKind) : (s.setFw n k).hostMod = s.hostMod := rfl
@[simp] theorem State.setFw_exposed (n : Nat) (k : FwKind) : (s.setFw n k).exposed = s.exposed := rfl
@[simp] theorem State.setFw_hostPoison (n : Nat) (k : FwKind) : (s.setFw n k).hostPoison = s.hostPoison := rfl
@[simp] theorem State.setFw_ats (n : Nat) (k : FwKind) : (s.setFw n k).ats = s.ats := rfl
@[simp] theorem State.setFw_reuse (n : Nat) (k : FwKind) : (s.setFw n k).reuse = s.reuse := rfl
@[simp] theorem State.setFw_out (n : Nat) (k : FwKind) : (s.setFw n k).out = s.out := rfl

/-! ## setKernel -/

@[simp] theorem State.setKernel_now (k : Kernel) : (s.setKernel k).now = s.now := rfl
@[simp] theorem State.setKernel_agenda (k : Kernel) : (s.setKernel k).agenda = s.agenda := rfl
@[simp] theorem State.setKernel_issuing (k : Kernel) : (s.setKernel k).issuing = s.issuing := rfl
@[simp] theorem State.setKernel_cursor (k : Kernel) : (s.setKernel k).cursor = s.cursor := rfl
@[simp] theorem State.setKernel_cur (k : Kernel) : (s.setKernel k).cur = s.cur := rfl
@[simp] theorem State.setKernel_curW (k : Kernel) : (s.setKernel k).curW = s.curW := rfl
@[simp] theorem State.setKernel_free (k : Kernel) : (s.setKernel k).free = s.free := rfl
@[simp] theorem State.setKernel_boot (k : Kernel) : (s.setKernel k).boot = s.boot := rfl
@[simp] theorem State.setKernel_mem (k : Kernel) : (s.setKernel k).mem = s.mem := rfl
@[simp] theorem State.setKernel_hostMap (k : Kernel) : (s.setKernel k).hostMap = s.hostMap := rfl
@[simp] theorem State.setKernel_tasks (k : Kernel) : (s.setKernel k).tasks = s.tasks := rfl
@[simp] theorem State.setKernel_cores (k : Kernel) : (s.setKernel k).cores = s.cores := rfl
@[simp] theorem State.setKernel_clusters (k : Kernel) : (s.setKernel k).clusters = s.clusters := rfl
@[simp] theorem State.setKernel_dies (k : Kernel) : (s.setKernel k).dies = s.dies := rfl
@[simp] theorem State.setKernel_hbm (k : Kernel) : (s.setKernel k).hbm = s.hbm := rfl
@[simp] theorem State.setKernel_objs (k : Kernel) : (s.setKernel k).objs = s.objs := rfl
@[simp] theorem State.setKernel_ctxs (k : Kernel) : (s.setKernel k).ctxs = s.ctxs := rfl
@[simp] theorem State.setKernel_nextKid (k : Kernel) : (s.setKernel k).nextKid = s.nextKid := rfl
@[simp] theorem State.setKernel_groups (k : Kernel) : (s.setKernel k).groups = s.groups := rfl
@[simp] theorem State.setKernel_replicas (k : Kernel) : (s.setKernel k).replicas = s.replicas := rfl
@[simp] theorem State.setKernel_pgc (k : Kernel) : (s.setKernel k).pgc = s.pgc := rfl
@[simp] theorem State.setKernel_hlease (k : Kernel) : (s.setKernel k).hlease = s.hlease := rfl
@[simp] theorem State.setKernel_ports (k : Kernel) : (s.setKernel k).ports = s.ports := rfl
@[simp] theorem State.setKernel_route (k : Kernel) : (s.setKernel k).route = s.route := rfl
@[simp] theorem State.setKernel_chgep (k : Kernel) : (s.setKernel k).chgep = s.chgep := rfl
@[simp] theorem State.setKernel_change (k : Kernel) : (s.setKernel k).change = s.change := rfl
@[simp] theorem State.setKernel_self (k : Kernel) : (s.setKernel k).self = s.self := rfl
@[simp] theorem State.setKernel_ups (k : Kernel) : (s.setKernel k).ups = s.ups := rfl
@[simp] theorem State.setKernel_upSel (k : Kernel) : (s.setKernel k).upSel = s.upSel := rfl
@[simp] theorem State.setKernel_master (k : Kernel) : (s.setKernel k).master = s.master := rfl
@[simp] theorem State.setKernel_podTime (k : Kernel) : (s.setKernel k).podTime = s.podTime := rfl
@[simp] theorem State.setKernel_vqueue (k : Kernel) : (s.setKernel k).vqueue = s.vqueue := rfl
@[simp] theorem State.setKernel_opseqs (k : Kernel) : (s.setKernel k).opseqs = s.opseqs := rfl
@[simp] theorem State.setKernel_remotes (k : Kernel) : (s.setKernel k).remotes = s.remotes := rfl
@[simp] theorem State.setKernel_targets (k : Kernel) : (s.setKernel k).targets = s.targets := rfl
@[simp] theorem State.setKernel_ldrains (k : Kernel) : (s.setKernel k).ldrains = s.ldrains := rfl
@[simp] theorem State.setKernel_irSess (k : Kernel) : (s.setKernel k).irSess = s.irSess := rfl
@[simp] theorem State.setKernel_irOps (k : Kernel) : (s.setKernel k).irOps = s.irOps := rfl
@[simp] theorem State.setKernel_comb (k : Kernel) : (s.setKernel k).comb = s.comb := rfl
@[simp] theorem State.setKernel_devstat (k : Kernel) : (s.setKernel k).devstat = s.devstat := rfl
@[simp] theorem State.setKernel_enmap (k : Kernel) : (s.setKernel k).enmap = s.enmap := rfl
@[simp] theorem State.setKernel_wdmap (k : Kernel) : (s.setKernel k).wdmap = s.wdmap := rfl
@[simp] theorem State.setKernel_pwrlim (k : Kernel) : (s.setKernel k).pwrlim = s.pwrlim := rfl
@[simp] theorem State.setKernel_clock (k : Kernel) : (s.setKernel k).clock = s.clock := rfl
@[simp] theorem State.setKernel_fw (k : Kernel) : (s.setKernel k).fw = s.fw := rfl
@[simp] theorem State.setKernel_mepoch (k : Kernel) : (s.setKernel k).mepoch = s.mepoch := rfl
@[simp] theorem State.setKernel_linkUp (k : Kernel) : (s.setKernel k).linkUp = s.linkUp := rfl
@[simp] theorem State.setKernel_linkBad (k : Kernel) : (s.setKernel k).linkBad = s.linkBad := rfl
@[simp] theorem State.setKernel_contained (k : Kernel) : (s.setKernel k).contained = s.contained := rfl
@[simp] theorem State.setKernel_dcdGone (k : Kernel) : (s.setKernel k).dcdGone = s.dcdGone := rfl
@[simp] theorem State.setKernel_groupWait (k : Kernel) : (s.setKernel k).groupWait = s.groupWait := rfl
@[simp] theorem State.setKernel_peerAccepts (k : Kernel) : (s.setKernel k).peerAccepts = s.peerAccepts := rfl
@[simp] theorem State.setKernel_slotTaken (k : Kernel) : (s.setKernel k).slotTaken = s.slotTaken := rfl
@[simp] theorem State.setKernel_circuits (k : Kernel) : (s.setKernel k).circuits = s.circuits := rfl
@[simp] theorem State.setKernel_unitFaults (k : Kernel) : (s.setKernel k).unitFaults = s.unitFaults := rfl
@[simp] theorem State.setKernel_mgmtWait (k : Kernel) : (s.setKernel k).mgmtWait = s.mgmtWait := rfl
@[simp] theorem State.setKernel_hostMod (k : Kernel) : (s.setKernel k).hostMod = s.hostMod := rfl
@[simp] theorem State.setKernel_exposed (k : Kernel) : (s.setKernel k).exposed = s.exposed := rfl
@[simp] theorem State.setKernel_hostPoison (k : Kernel) : (s.setKernel k).hostPoison = s.hostPoison := rfl
@[simp] theorem State.setKernel_ats (k : Kernel) : (s.setKernel k).ats = s.ats := rfl
@[simp] theorem State.setKernel_reuse (k : Kernel) : (s.setKernel k).reuse = s.reuse := rfl
@[simp] theorem State.setKernel_out (k : Kernel) : (s.setKernel k).out = s.out := rfl

/-! ## setGroup -/

@[simp] theorem State.setGroup_now (g : Group) : (s.setGroup g).now = s.now := rfl
@[simp] theorem State.setGroup_agenda (g : Group) : (s.setGroup g).agenda = s.agenda := rfl
@[simp] theorem State.setGroup_issuing (g : Group) : (s.setGroup g).issuing = s.issuing := rfl
@[simp] theorem State.setGroup_cursor (g : Group) : (s.setGroup g).cursor = s.cursor := rfl
@[simp] theorem State.setGroup_cur (g : Group) : (s.setGroup g).cur = s.cur := rfl
@[simp] theorem State.setGroup_curW (g : Group) : (s.setGroup g).curW = s.curW := rfl
@[simp] theorem State.setGroup_free (g : Group) : (s.setGroup g).free = s.free := rfl
@[simp] theorem State.setGroup_boot (g : Group) : (s.setGroup g).boot = s.boot := rfl
@[simp] theorem State.setGroup_mem (g : Group) : (s.setGroup g).mem = s.mem := rfl
@[simp] theorem State.setGroup_hostMap (g : Group) : (s.setGroup g).hostMap = s.hostMap := rfl
@[simp] theorem State.setGroup_tasks (g : Group) : (s.setGroup g).tasks = s.tasks := rfl
@[simp] theorem State.setGroup_cores (g : Group) : (s.setGroup g).cores = s.cores := rfl
@[simp] theorem State.setGroup_clusters (g : Group) : (s.setGroup g).clusters = s.clusters := rfl
@[simp] theorem State.setGroup_dies (g : Group) : (s.setGroup g).dies = s.dies := rfl
@[simp] theorem State.setGroup_hbm (g : Group) : (s.setGroup g).hbm = s.hbm := rfl
@[simp] theorem State.setGroup_objs (g : Group) : (s.setGroup g).objs = s.objs := rfl
@[simp] theorem State.setGroup_ctxs (g : Group) : (s.setGroup g).ctxs = s.ctxs := rfl
@[simp] theorem State.setGroup_kernels (g : Group) : (s.setGroup g).kernels = s.kernels := rfl
@[simp] theorem State.setGroup_nextKid (g : Group) : (s.setGroup g).nextKid = s.nextKid := rfl
@[simp] theorem State.setGroup_replicas (g : Group) : (s.setGroup g).replicas = s.replicas := rfl
@[simp] theorem State.setGroup_pgc (g : Group) : (s.setGroup g).pgc = s.pgc := rfl
@[simp] theorem State.setGroup_hlease (g : Group) : (s.setGroup g).hlease = s.hlease := rfl
@[simp] theorem State.setGroup_ports (g : Group) : (s.setGroup g).ports = s.ports := rfl
@[simp] theorem State.setGroup_route (g : Group) : (s.setGroup g).route = s.route := rfl
@[simp] theorem State.setGroup_chgep (g : Group) : (s.setGroup g).chgep = s.chgep := rfl
@[simp] theorem State.setGroup_change (g : Group) : (s.setGroup g).change = s.change := rfl
@[simp] theorem State.setGroup_self (g : Group) : (s.setGroup g).self = s.self := rfl
@[simp] theorem State.setGroup_ups (g : Group) : (s.setGroup g).ups = s.ups := rfl
@[simp] theorem State.setGroup_upSel (g : Group) : (s.setGroup g).upSel = s.upSel := rfl
@[simp] theorem State.setGroup_master (g : Group) : (s.setGroup g).master = s.master := rfl
@[simp] theorem State.setGroup_podTime (g : Group) : (s.setGroup g).podTime = s.podTime := rfl
@[simp] theorem State.setGroup_vqueue (g : Group) : (s.setGroup g).vqueue = s.vqueue := rfl
@[simp] theorem State.setGroup_opseqs (g : Group) : (s.setGroup g).opseqs = s.opseqs := rfl
@[simp] theorem State.setGroup_remotes (g : Group) : (s.setGroup g).remotes = s.remotes := rfl
@[simp] theorem State.setGroup_targets (g : Group) : (s.setGroup g).targets = s.targets := rfl
@[simp] theorem State.setGroup_ldrains (g : Group) : (s.setGroup g).ldrains = s.ldrains := rfl
@[simp] theorem State.setGroup_irSess (g : Group) : (s.setGroup g).irSess = s.irSess := rfl
@[simp] theorem State.setGroup_irOps (g : Group) : (s.setGroup g).irOps = s.irOps := rfl
@[simp] theorem State.setGroup_comb (g : Group) : (s.setGroup g).comb = s.comb := rfl
@[simp] theorem State.setGroup_devstat (g : Group) : (s.setGroup g).devstat = s.devstat := rfl
@[simp] theorem State.setGroup_enmap (g : Group) : (s.setGroup g).enmap = s.enmap := rfl
@[simp] theorem State.setGroup_wdmap (g : Group) : (s.setGroup g).wdmap = s.wdmap := rfl
@[simp] theorem State.setGroup_pwrlim (g : Group) : (s.setGroup g).pwrlim = s.pwrlim := rfl
@[simp] theorem State.setGroup_clock (g : Group) : (s.setGroup g).clock = s.clock := rfl
@[simp] theorem State.setGroup_fw (g : Group) : (s.setGroup g).fw = s.fw := rfl
@[simp] theorem State.setGroup_mepoch (g : Group) : (s.setGroup g).mepoch = s.mepoch := rfl
@[simp] theorem State.setGroup_linkUp (g : Group) : (s.setGroup g).linkUp = s.linkUp := rfl
@[simp] theorem State.setGroup_linkBad (g : Group) : (s.setGroup g).linkBad = s.linkBad := rfl
@[simp] theorem State.setGroup_contained (g : Group) : (s.setGroup g).contained = s.contained := rfl
@[simp] theorem State.setGroup_dcdGone (g : Group) : (s.setGroup g).dcdGone = s.dcdGone := rfl
@[simp] theorem State.setGroup_groupWait (g : Group) : (s.setGroup g).groupWait = s.groupWait := rfl
@[simp] theorem State.setGroup_peerAccepts (g : Group) : (s.setGroup g).peerAccepts = s.peerAccepts := rfl
@[simp] theorem State.setGroup_slotTaken (g : Group) : (s.setGroup g).slotTaken = s.slotTaken := rfl
@[simp] theorem State.setGroup_circuits (g : Group) : (s.setGroup g).circuits = s.circuits := rfl
@[simp] theorem State.setGroup_unitFaults (g : Group) : (s.setGroup g).unitFaults = s.unitFaults := rfl
@[simp] theorem State.setGroup_mgmtWait (g : Group) : (s.setGroup g).mgmtWait = s.mgmtWait := rfl
@[simp] theorem State.setGroup_hostMod (g : Group) : (s.setGroup g).hostMod = s.hostMod := rfl
@[simp] theorem State.setGroup_exposed (g : Group) : (s.setGroup g).exposed = s.exposed := rfl
@[simp] theorem State.setGroup_hostPoison (g : Group) : (s.setGroup g).hostPoison = s.hostPoison := rfl
@[simp] theorem State.setGroup_ats (g : Group) : (s.setGroup g).ats = s.ats := rfl
@[simp] theorem State.setGroup_reuse (g : Group) : (s.setGroup g).reuse = s.reuse := rfl
@[simp] theorem State.setGroup_out (g : Group) : (s.setGroup g).out = s.out := rfl

/-! ## send -/

@[simp] theorem State.send_now (a b : Nat) (c : List Nat) : (s.send a b c).now = s.now := rfl
@[simp] theorem State.send_agenda (a b : Nat) (c : List Nat) : (s.send a b c).agenda = s.agenda := rfl
@[simp] theorem State.send_issuing (a b : Nat) (c : List Nat) : (s.send a b c).issuing = s.issuing := rfl
@[simp] theorem State.send_cursor (a b : Nat) (c : List Nat) : (s.send a b c).cursor = s.cursor := rfl
@[simp] theorem State.send_cur (a b : Nat) (c : List Nat) : (s.send a b c).cur = s.cur := rfl
@[simp] theorem State.send_curW (a b : Nat) (c : List Nat) : (s.send a b c).curW = s.curW := rfl
@[simp] theorem State.send_free (a b : Nat) (c : List Nat) : (s.send a b c).free = s.free := rfl
@[simp] theorem State.send_boot (a b : Nat) (c : List Nat) : (s.send a b c).boot = s.boot := rfl
@[simp] theorem State.send_mem (a b : Nat) (c : List Nat) : (s.send a b c).mem = s.mem := rfl
@[simp] theorem State.send_hostMap (a b : Nat) (c : List Nat) : (s.send a b c).hostMap = s.hostMap := rfl
@[simp] theorem State.send_tasks (a b : Nat) (c : List Nat) : (s.send a b c).tasks = s.tasks := rfl
@[simp] theorem State.send_cores (a b : Nat) (c : List Nat) : (s.send a b c).cores = s.cores := rfl
@[simp] theorem State.send_clusters (a b : Nat) (c : List Nat) : (s.send a b c).clusters = s.clusters := rfl
@[simp] theorem State.send_dies (a b : Nat) (c : List Nat) : (s.send a b c).dies = s.dies := rfl
@[simp] theorem State.send_hbm (a b : Nat) (c : List Nat) : (s.send a b c).hbm = s.hbm := rfl
@[simp] theorem State.send_objs (a b : Nat) (c : List Nat) : (s.send a b c).objs = s.objs := rfl
@[simp] theorem State.send_ctxs (a b : Nat) (c : List Nat) : (s.send a b c).ctxs = s.ctxs := rfl
@[simp] theorem State.send_kernels (a b : Nat) (c : List Nat) : (s.send a b c).kernels = s.kernels := rfl
@[simp] theorem State.send_nextKid (a b : Nat) (c : List Nat) : (s.send a b c).nextKid = s.nextKid := rfl
@[simp] theorem State.send_groups (a b : Nat) (c : List Nat) : (s.send a b c).groups = s.groups := rfl
@[simp] theorem State.send_replicas (a b : Nat) (c : List Nat) : (s.send a b c).replicas = s.replicas := rfl
@[simp] theorem State.send_pgc (a b : Nat) (c : List Nat) : (s.send a b c).pgc = s.pgc := rfl
@[simp] theorem State.send_hlease (a b : Nat) (c : List Nat) : (s.send a b c).hlease = s.hlease := rfl
@[simp] theorem State.send_ports (a b : Nat) (c : List Nat) : (s.send a b c).ports = s.ports := rfl
@[simp] theorem State.send_route (a b : Nat) (c : List Nat) : (s.send a b c).route = s.route := rfl
@[simp] theorem State.send_chgep (a b : Nat) (c : List Nat) : (s.send a b c).chgep = s.chgep := rfl
@[simp] theorem State.send_change (a b : Nat) (c : List Nat) : (s.send a b c).change = s.change := rfl
@[simp] theorem State.send_self (a b : Nat) (c : List Nat) : (s.send a b c).self = s.self := rfl
@[simp] theorem State.send_ups (a b : Nat) (c : List Nat) : (s.send a b c).ups = s.ups := rfl
@[simp] theorem State.send_upSel (a b : Nat) (c : List Nat) : (s.send a b c).upSel = s.upSel := rfl
@[simp] theorem State.send_master (a b : Nat) (c : List Nat) : (s.send a b c).master = s.master := rfl
@[simp] theorem State.send_podTime (a b : Nat) (c : List Nat) : (s.send a b c).podTime = s.podTime := rfl
@[simp] theorem State.send_vqueue (a b : Nat) (c : List Nat) : (s.send a b c).vqueue = s.vqueue := rfl
@[simp] theorem State.send_opseqs (a b : Nat) (c : List Nat) : (s.send a b c).opseqs = s.opseqs := rfl
@[simp] theorem State.send_remotes (a b : Nat) (c : List Nat) : (s.send a b c).remotes = s.remotes := rfl
@[simp] theorem State.send_targets (a b : Nat) (c : List Nat) : (s.send a b c).targets = s.targets := rfl
@[simp] theorem State.send_ldrains (a b : Nat) (c : List Nat) : (s.send a b c).ldrains = s.ldrains := rfl
@[simp] theorem State.send_irSess (a b : Nat) (c : List Nat) : (s.send a b c).irSess = s.irSess := rfl
@[simp] theorem State.send_irOps (a b : Nat) (c : List Nat) : (s.send a b c).irOps = s.irOps := rfl
@[simp] theorem State.send_comb (a b : Nat) (c : List Nat) : (s.send a b c).comb = s.comb := rfl
@[simp] theorem State.send_devstat (a b : Nat) (c : List Nat) : (s.send a b c).devstat = s.devstat := rfl
@[simp] theorem State.send_enmap (a b : Nat) (c : List Nat) : (s.send a b c).enmap = s.enmap := rfl
@[simp] theorem State.send_wdmap (a b : Nat) (c : List Nat) : (s.send a b c).wdmap = s.wdmap := rfl
@[simp] theorem State.send_pwrlim (a b : Nat) (c : List Nat) : (s.send a b c).pwrlim = s.pwrlim := rfl
@[simp] theorem State.send_clock (a b : Nat) (c : List Nat) : (s.send a b c).clock = s.clock := rfl
@[simp] theorem State.send_fw (a b : Nat) (c : List Nat) : (s.send a b c).fw = s.fw := rfl
@[simp] theorem State.send_mepoch (a b : Nat) (c : List Nat) : (s.send a b c).mepoch = s.mepoch := rfl
@[simp] theorem State.send_linkUp (a b : Nat) (c : List Nat) : (s.send a b c).linkUp = s.linkUp := rfl
@[simp] theorem State.send_linkBad (a b : Nat) (c : List Nat) : (s.send a b c).linkBad = s.linkBad := rfl
@[simp] theorem State.send_contained (a b : Nat) (c : List Nat) : (s.send a b c).contained = s.contained := rfl
@[simp] theorem State.send_dcdGone (a b : Nat) (c : List Nat) : (s.send a b c).dcdGone = s.dcdGone := rfl
@[simp] theorem State.send_groupWait (a b : Nat) (c : List Nat) : (s.send a b c).groupWait = s.groupWait := rfl
@[simp] theorem State.send_peerAccepts (a b : Nat) (c : List Nat) : (s.send a b c).peerAccepts = s.peerAccepts := rfl
@[simp] theorem State.send_slotTaken (a b : Nat) (c : List Nat) : (s.send a b c).slotTaken = s.slotTaken := rfl
@[simp] theorem State.send_circuits (a b : Nat) (c : List Nat) : (s.send a b c).circuits = s.circuits := rfl
@[simp] theorem State.send_unitFaults (a b : Nat) (c : List Nat) : (s.send a b c).unitFaults = s.unitFaults := rfl
@[simp] theorem State.send_mgmtWait (a b : Nat) (c : List Nat) : (s.send a b c).mgmtWait = s.mgmtWait := rfl
@[simp] theorem State.send_hostMod (a b : Nat) (c : List Nat) : (s.send a b c).hostMod = s.hostMod := rfl
@[simp] theorem State.send_exposed (a b : Nat) (c : List Nat) : (s.send a b c).exposed = s.exposed := rfl
@[simp] theorem State.send_hostPoison (a b : Nat) (c : List Nat) : (s.send a b c).hostPoison = s.hostPoison := rfl
@[simp] theorem State.send_ats (a b : Nat) (c : List Nat) : (s.send a b c).ats = s.ats := rfl
@[simp] theorem State.send_reuse (a b : Nat) (c : List Nat) : (s.send a b c).reuse = s.reuse := rfl

/-! ## Reading after replacing -/

theorem State.task_setTask (n m : Nat) (k : Task) : (s.setTask n k).task m = if m = n then k else s.task m := AMap.get_put _ _ _ _ _
@[simp] theorem State.task_setTask_self (n : Nat) (k : Task) : (s.setTask n k).task n = k := AMap.get_put_self _ _ _ _
@[simp] theorem State.setTask_setTask (n : Nat) (k j : Task) : (s.setTask n k).setTask n j = s.setTask n j := by simp [State.setTask]
theorem State.core_setCore (n m : Nat) (k : Core) : (s.setCore n k).core m = if m = n then k else s.core m := AMap.get_put _ _ _ _ _
@[simp] theorem State.core_setCore_self (n : Nat) (k : Core) : (s.setCore n k).core n = k := AMap.get_put_self _ _ _ _
@[simp] theorem State.setCore_setCore (n : Nat) (k j : Core) : (s.setCore n k).setCore n j = s.setCore n j := by simp [State.setCore]
theorem State.cluster_setCluster (n m : Nat) (k : Cluster) : (s.setCluster n k).cluster m = if m = n then k else s.cluster m := AMap.get_put _ _ _ _ _
@[simp] theorem State.cluster_setCluster_self (n : Nat) (k : Cluster) : (s.setCluster n k).cluster n = k := AMap.get_put_self _ _ _ _
@[simp] theorem State.setCluster_setCluster (n : Nat) (k j : Cluster) : (s.setCluster n k).setCluster n j = s.setCluster n j := by simp [State.setCluster]
theorem State.die_setDie (n m : Nat) (k : Die) : (s.setDie n k).die m = if m = n then k else s.die m := AMap.get_put _ _ _ _ _
@[simp] theorem State.die_setDie_self (n : Nat) (k : Die) : (s.setDie n k).die n = k := AMap.get_put_self _ _ _ _
@[simp] theorem State.setDie_setDie (n : Nat) (k j : Die) : (s.setDie n k).setDie n j = s.setDie n j := by simp [State.setDie]
theorem State.stack_setStack (n m : Nat) (k : Stack) : (s.setStack n k).stack m = if m = n then k else s.stack m := AMap.get_put _ _ _ _ _
@[simp] theorem State.stack_setStack_self (n : Nat) (k : Stack) : (s.setStack n k).stack n = k := AMap.get_put_self _ _ _ _
@[simp] theorem State.setStack_setStack (n : Nat) (k j : Stack) : (s.setStack n k).setStack n j = s.setStack n j := by simp [State.setStack]
theorem State.ctx_setCtx (n m : Nat) (k : Context) : (s.setCtx n k).ctx m = if m = n then k else s.ctx m := AMap.get_put _ _ _ _ _
@[simp] theorem State.ctx_setCtx_self (n : Nat) (k : Context) : (s.setCtx n k).ctx n = k := AMap.get_put_self _ _ _ _
@[simp] theorem State.setCtx_setCtx (n : Nat) (k j : Context) : (s.setCtx n k).setCtx n j = s.setCtx n j := by simp [State.setCtx]
theorem State.port_setPort (n m : Nat) (k : Port) : (s.setPort n k).port m = if m = n then k else s.port m := AMap.get_put _ _ _ _ _
@[simp] theorem State.port_setPort_self (n : Nat) (k : Port) : (s.setPort n k).port n = k := AMap.get_put_self _ _ _ _
@[simp] theorem State.setPort_setPort (n : Nat) (k j : Port) : (s.setPort n k).setPort n j = s.setPort n j := by simp [State.setPort]
theorem State.fwk_setFw (n m : Nat) (k : FwKind) : (s.setFw n k).fwk m = if m = n then k else s.fwk m := AMap.get_put _ _ _ _ _
@[simp] theorem State.fwk_setFw_self (n : Nat) (k : FwKind) : (s.setFw n k).fwk n = k := AMap.get_put_self _ _ _ _
@[simp] theorem State.setFw_setFw (n : Nat) (k j : FwKind) : (s.setFw n k).setFw n j = s.setFw n j := by simp [State.setFw]

/-! ## Parts that other replacements leave -/

@[simp] theorem State.task_setCore (n : Nat) (k : Core) (j : Nat) : (s.setCore n k).task j = s.task j := rfl
@[simp] theorem State.task_setCluster (n : Nat) (k : Cluster) (j : Nat) : (s.setCluster n k).task j = s.task j := rfl
@[simp] theorem State.task_setDie (n : Nat) (k : Die) (j : Nat) : (s.setDie n k).task j = s.task j := rfl
@[simp] theorem State.task_setStack (n : Nat) (k : Stack) (j : Nat) : (s.setStack n k).task j = s.task j := rfl
@[simp] theorem State.task_setCtx (n : Nat) (k : Context) (j : Nat) : (s.setCtx n k).task j = s.task j := rfl
@[simp] theorem State.task_setPort (n : Nat) (k : Port) (j : Nat) : (s.setPort n k).task j = s.task j := rfl
@[simp] theorem State.task_setFw (n : Nat) (k : FwKind) (j : Nat) : (s.setFw n k).task j = s.task j := rfl
@[simp] theorem State.task_setKernel (k : Kernel) (j : Nat) : (s.setKernel k).task j = s.task j := rfl
@[simp] theorem State.task_setGroup (g : Group) (j : Nat) : (s.setGroup g).task j = s.task j := rfl
@[simp] theorem State.task_send (a b : Nat) (c : List Nat) (j : Nat) : (s.send a b c).task j = s.task j := rfl
@[simp] theorem State.core_setTask (n : Nat) (k : Task) (j : Nat) : (s.setTask n k).core j = s.core j := rfl
@[simp] theorem State.core_setThread (n m : Nat) (t : Thread) (j : Nat) : (s.setThread n m t).core j = s.core j := rfl
@[simp] theorem State.core_setThr (t : Thread) (j : Nat) : (s.setThr t).core j = s.core j := rfl
@[simp] theorem State.core_setTk (k : Task) (j : Nat) : (s.setTk k).core j = s.core j := rfl
@[simp] theorem State.core_setCluster (n : Nat) (k : Cluster) (j : Nat) : (s.setCluster n k).core j = s.core j := rfl
@[simp] theorem State.core_setDie (n : Nat) (k : Die) (j : Nat) : (s.setDie n k).core j = s.core j := rfl
@[simp] theorem State.core_setStack (n : Nat) (k : Stack) (j : Nat) : (s.setStack n k).core j = s.core j := rfl
@[simp] theorem State.core_setCtx (n : Nat) (k : Context) (j : Nat) : (s.setCtx n k).core j = s.core j := rfl
@[simp] theorem State.core_setPort (n : Nat) (k : Port) (j : Nat) : (s.setPort n k).core j = s.core j := rfl
@[simp] theorem State.core_setFw (n : Nat) (k : FwKind) (j : Nat) : (s.setFw n k).core j = s.core j := rfl
@[simp] theorem State.core_setKernel (k : Kernel) (j : Nat) : (s.setKernel k).core j = s.core j := rfl
@[simp] theorem State.core_setGroup (g : Group) (j : Nat) : (s.setGroup g).core j = s.core j := rfl
@[simp] theorem State.core_send (a b : Nat) (c : List Nat) (j : Nat) : (s.send a b c).core j = s.core j := rfl
@[simp] theorem State.cluster_setTask (n : Nat) (k : Task) (j : Nat) : (s.setTask n k).cluster j = s.cluster j := rfl
@[simp] theorem State.cluster_setThread (n m : Nat) (t : Thread) (j : Nat) : (s.setThread n m t).cluster j = s.cluster j := rfl
@[simp] theorem State.cluster_setThr (t : Thread) (j : Nat) : (s.setThr t).cluster j = s.cluster j := rfl
@[simp] theorem State.cluster_setTk (k : Task) (j : Nat) : (s.setTk k).cluster j = s.cluster j := rfl
@[simp] theorem State.cluster_setCore (n : Nat) (k : Core) (j : Nat) : (s.setCore n k).cluster j = s.cluster j := rfl
@[simp] theorem State.cluster_setDie (n : Nat) (k : Die) (j : Nat) : (s.setDie n k).cluster j = s.cluster j := rfl
@[simp] theorem State.cluster_setStack (n : Nat) (k : Stack) (j : Nat) : (s.setStack n k).cluster j = s.cluster j := rfl
@[simp] theorem State.cluster_setCtx (n : Nat) (k : Context) (j : Nat) : (s.setCtx n k).cluster j = s.cluster j := rfl
@[simp] theorem State.cluster_setPort (n : Nat) (k : Port) (j : Nat) : (s.setPort n k).cluster j = s.cluster j := rfl
@[simp] theorem State.cluster_setFw (n : Nat) (k : FwKind) (j : Nat) : (s.setFw n k).cluster j = s.cluster j := rfl
@[simp] theorem State.cluster_setKernel (k : Kernel) (j : Nat) : (s.setKernel k).cluster j = s.cluster j := rfl
@[simp] theorem State.cluster_setGroup (g : Group) (j : Nat) : (s.setGroup g).cluster j = s.cluster j := rfl
@[simp] theorem State.cluster_send (a b : Nat) (c : List Nat) (j : Nat) : (s.send a b c).cluster j = s.cluster j := rfl
@[simp] theorem State.die_setTask (n : Nat) (k : Task) (j : Nat) : (s.setTask n k).die j = s.die j := rfl
@[simp] theorem State.die_setThread (n m : Nat) (t : Thread) (j : Nat) : (s.setThread n m t).die j = s.die j := rfl
@[simp] theorem State.die_setThr (t : Thread) (j : Nat) : (s.setThr t).die j = s.die j := rfl
@[simp] theorem State.die_setTk (k : Task) (j : Nat) : (s.setTk k).die j = s.die j := rfl
@[simp] theorem State.die_setCore (n : Nat) (k : Core) (j : Nat) : (s.setCore n k).die j = s.die j := rfl
@[simp] theorem State.die_setCluster (n : Nat) (k : Cluster) (j : Nat) : (s.setCluster n k).die j = s.die j := rfl
@[simp] theorem State.die_setStack (n : Nat) (k : Stack) (j : Nat) : (s.setStack n k).die j = s.die j := rfl
@[simp] theorem State.die_setCtx (n : Nat) (k : Context) (j : Nat) : (s.setCtx n k).die j = s.die j := rfl
@[simp] theorem State.die_setPort (n : Nat) (k : Port) (j : Nat) : (s.setPort n k).die j = s.die j := rfl
@[simp] theorem State.die_setFw (n : Nat) (k : FwKind) (j : Nat) : (s.setFw n k).die j = s.die j := rfl
@[simp] theorem State.die_setKernel (k : Kernel) (j : Nat) : (s.setKernel k).die j = s.die j := rfl
@[simp] theorem State.die_setGroup (g : Group) (j : Nat) : (s.setGroup g).die j = s.die j := rfl
@[simp] theorem State.die_send (a b : Nat) (c : List Nat) (j : Nat) : (s.send a b c).die j = s.die j := rfl
@[simp] theorem State.stack_setTask (n : Nat) (k : Task) (j : Nat) : (s.setTask n k).stack j = s.stack j := rfl
@[simp] theorem State.stack_setThread (n m : Nat) (t : Thread) (j : Nat) : (s.setThread n m t).stack j = s.stack j := rfl
@[simp] theorem State.stack_setThr (t : Thread) (j : Nat) : (s.setThr t).stack j = s.stack j := rfl
@[simp] theorem State.stack_setTk (k : Task) (j : Nat) : (s.setTk k).stack j = s.stack j := rfl
@[simp] theorem State.stack_setCore (n : Nat) (k : Core) (j : Nat) : (s.setCore n k).stack j = s.stack j := rfl
@[simp] theorem State.stack_setCluster (n : Nat) (k : Cluster) (j : Nat) : (s.setCluster n k).stack j = s.stack j := rfl
@[simp] theorem State.stack_setDie (n : Nat) (k : Die) (j : Nat) : (s.setDie n k).stack j = s.stack j := rfl
@[simp] theorem State.stack_setCtx (n : Nat) (k : Context) (j : Nat) : (s.setCtx n k).stack j = s.stack j := rfl
@[simp] theorem State.stack_setPort (n : Nat) (k : Port) (j : Nat) : (s.setPort n k).stack j = s.stack j := rfl
@[simp] theorem State.stack_setFw (n : Nat) (k : FwKind) (j : Nat) : (s.setFw n k).stack j = s.stack j := rfl
@[simp] theorem State.stack_setKernel (k : Kernel) (j : Nat) : (s.setKernel k).stack j = s.stack j := rfl
@[simp] theorem State.stack_setGroup (g : Group) (j : Nat) : (s.setGroup g).stack j = s.stack j := rfl
@[simp] theorem State.stack_send (a b : Nat) (c : List Nat) (j : Nat) : (s.send a b c).stack j = s.stack j := rfl
@[simp] theorem State.ctx_setTask (n : Nat) (k : Task) (j : Nat) : (s.setTask n k).ctx j = s.ctx j := rfl
@[simp] theorem State.ctx_setThread (n m : Nat) (t : Thread) (j : Nat) : (s.setThread n m t).ctx j = s.ctx j := rfl
@[simp] theorem State.ctx_setThr (t : Thread) (j : Nat) : (s.setThr t).ctx j = s.ctx j := rfl
@[simp] theorem State.ctx_setTk (k : Task) (j : Nat) : (s.setTk k).ctx j = s.ctx j := rfl
@[simp] theorem State.ctx_setCore (n : Nat) (k : Core) (j : Nat) : (s.setCore n k).ctx j = s.ctx j := rfl
@[simp] theorem State.ctx_setCluster (n : Nat) (k : Cluster) (j : Nat) : (s.setCluster n k).ctx j = s.ctx j := rfl
@[simp] theorem State.ctx_setDie (n : Nat) (k : Die) (j : Nat) : (s.setDie n k).ctx j = s.ctx j := rfl
@[simp] theorem State.ctx_setStack (n : Nat) (k : Stack) (j : Nat) : (s.setStack n k).ctx j = s.ctx j := rfl
@[simp] theorem State.ctx_setPort (n : Nat) (k : Port) (j : Nat) : (s.setPort n k).ctx j = s.ctx j := rfl
@[simp] theorem State.ctx_setFw (n : Nat) (k : FwKind) (j : Nat) : (s.setFw n k).ctx j = s.ctx j := rfl
@[simp] theorem State.ctx_setKernel (k : Kernel) (j : Nat) : (s.setKernel k).ctx j = s.ctx j := rfl
@[simp] theorem State.ctx_setGroup (g : Group) (j : Nat) : (s.setGroup g).ctx j = s.ctx j := rfl
@[simp] theorem State.ctx_send (a b : Nat) (c : List Nat) (j : Nat) : (s.send a b c).ctx j = s.ctx j := rfl
@[simp] theorem State.port_setTask (n : Nat) (k : Task) (j : Nat) : (s.setTask n k).port j = s.port j := rfl
@[simp] theorem State.port_setThread (n m : Nat) (t : Thread) (j : Nat) : (s.setThread n m t).port j = s.port j := rfl
@[simp] theorem State.port_setThr (t : Thread) (j : Nat) : (s.setThr t).port j = s.port j := rfl
@[simp] theorem State.port_setTk (k : Task) (j : Nat) : (s.setTk k).port j = s.port j := rfl
@[simp] theorem State.port_setCore (n : Nat) (k : Core) (j : Nat) : (s.setCore n k).port j = s.port j := rfl
@[simp] theorem State.port_setCluster (n : Nat) (k : Cluster) (j : Nat) : (s.setCluster n k).port j = s.port j := rfl
@[simp] theorem State.port_setDie (n : Nat) (k : Die) (j : Nat) : (s.setDie n k).port j = s.port j := rfl
@[simp] theorem State.port_setStack (n : Nat) (k : Stack) (j : Nat) : (s.setStack n k).port j = s.port j := rfl
@[simp] theorem State.port_setCtx (n : Nat) (k : Context) (j : Nat) : (s.setCtx n k).port j = s.port j := rfl
@[simp] theorem State.port_setFw (n : Nat) (k : FwKind) (j : Nat) : (s.setFw n k).port j = s.port j := rfl
@[simp] theorem State.port_setKernel (k : Kernel) (j : Nat) : (s.setKernel k).port j = s.port j := rfl
@[simp] theorem State.port_setGroup (g : Group) (j : Nat) : (s.setGroup g).port j = s.port j := rfl
@[simp] theorem State.port_send (a b : Nat) (c : List Nat) (j : Nat) : (s.send a b c).port j = s.port j := rfl
@[simp] theorem State.fwk_setTask (n : Nat) (k : Task) (j : Nat) : (s.setTask n k).fwk j = s.fwk j := rfl
@[simp] theorem State.fwk_setThread (n m : Nat) (t : Thread) (j : Nat) : (s.setThread n m t).fwk j = s.fwk j := rfl
@[simp] theorem State.fwk_setThr (t : Thread) (j : Nat) : (s.setThr t).fwk j = s.fwk j := rfl
@[simp] theorem State.fwk_setTk (k : Task) (j : Nat) : (s.setTk k).fwk j = s.fwk j := rfl
@[simp] theorem State.fwk_setCore (n : Nat) (k : Core) (j : Nat) : (s.setCore n k).fwk j = s.fwk j := rfl
@[simp] theorem State.fwk_setCluster (n : Nat) (k : Cluster) (j : Nat) : (s.setCluster n k).fwk j = s.fwk j := rfl
@[simp] theorem State.fwk_setDie (n : Nat) (k : Die) (j : Nat) : (s.setDie n k).fwk j = s.fwk j := rfl
@[simp] theorem State.fwk_setStack (n : Nat) (k : Stack) (j : Nat) : (s.setStack n k).fwk j = s.fwk j := rfl
@[simp] theorem State.fwk_setCtx (n : Nat) (k : Context) (j : Nat) : (s.setCtx n k).fwk j = s.fwk j := rfl
@[simp] theorem State.fwk_setPort (n : Nat) (k : Port) (j : Nat) : (s.setPort n k).fwk j = s.fwk j := rfl
@[simp] theorem State.fwk_setKernel (k : Kernel) (j : Nat) : (s.setKernel k).fwk j = s.fwk j := rfl
@[simp] theorem State.fwk_setGroup (g : Group) (j : Nat) : (s.setGroup g).fwk j = s.fwk j := rfl
@[simp] theorem State.fwk_send (a b : Nat) (c : List Nat) (j : Nat) : (s.send a b c).fwk j = s.fwk j := rfl

/-! ## Threads and tasks -/

theorem State.task_setThread (n m j : Nat) (t : Thread) :
    (s.setThread n m t).task j = if j = n then (s.task n).setThread m t else s.task j := State.task_setTask _ _ _ _
@[simp] theorem State.task_setThread_self (n m : Nat) (t : Thread) : (s.setThread n m t).task n = (s.task n).setThread m t := by
  simp [State.setThread]
@[simp] theorem State.tk_setThr (t : Thread) : (s.setThr t).tk = s.tk.setThread s.cur.2 t := by
  simp [State.setThr, State.tk]
@[simp] theorem State.tk_setTk (k : Task) : (s.setTk k).tk = k := by simp [State.setTk, State.tk]
theorem Task.thread_setThread (k : Task) (m j : Nat) (t : Thread) :
    (k.setThread m t).thread j = if j = m then t else k.thread j := AMap.get_put _ _ _ _ _
@[simp] theorem Task.thread_setThread_self (k : Task) (m : Nat) (t : Thread) : (k.setThread m t).thread m = t :=
  AMap.get_put_self _ _ _ _
@[simp] theorem Task.setThread_setThread (k : Task) (m : Nat) (t u : Thread) :
    (k.setThread m t).setThread m u = k.setThread m u := by simp [Task.setThread]
@[simp] theorem State.thread_setThread_self (n m : Nat) (t : Thread) : (s.setThread n m t).thread n m = t := by
  simp [State.thread]
theorem State.thread_setThread (n m i j : Nat) (t : Thread) :
    (s.setThread n m t).thread i j = if i = n ∧ j = m then t else s.thread i j := by
  unfold State.thread
  rw [State.task_setThread]
  by_cases h : i = n <;> simp [h, Task.thread_setThread]
@[simp] theorem State.setThread_setThread (n m : Nat) (t u : Thread) :
    (s.setThread n m t).setThread n m u = s.setThread n m u := by simp [State.setThread]
@[simp] theorem State.thr_setThr (t : Thread) : (s.setThr t).thr = t := by simp [State.thr, State.setThr]
@[simp] theorem State.setThr_setThr (t u : Thread) : (s.setThr t).setThr u = s.setThr u := by
  simp [State.setThr]
theorem State.thr_eq : s.thr = s.tk.thread s.cur.2 := rfl
@[simp] theorem State.thr_setTk (k : Task) : (s.setTk k).thr = k.thread s.cur.2 := by
  simp [State.thr, State.setTk, State.thread]
@[simp] theorem Task.setThread_place (k : Task) (m : Nat) (t : Thread) : (k.setThread m t).place = k.place := rfl
@[simp] theorem Task.setThread_kid (k : Task) (m : Nat) (t : Thread) : (k.setThread m t).kid = k.kid := rfl
@[simp] theorem Task.setThread_ctx (k : Task) (m : Nat) (t : Thread) : (k.setThread m t).ctx = k.ctx := rfl
@[simp] theorem Task.setThread_rank (k : Task) (m : Nat) (t : Thread) : (k.setThread m t).rank = k.rank := rfl
@[simp] theorem Task.setThread_lrec (k : Task) (m : Nat) (t : Thread) : (k.setThread m t).lrec = k.lrec := rfl
@[simp] theorem Task.setThread_rot (k : Task) (m : Nat) (t : Thread) : (k.setThread m t).rot = k.rot := rfl
@[simp] theorem Task.setThread_avoid (k : Task) (m : Nat) (t : Thread) : (k.setThread m t).avoid = k.avoid := rfl
@[simp] theorem Task.setThread_cycles (k : Task) (m : Nat) (t : Thread) : (k.setThread m t).cycles = k.cycles := rfl
@[simp] theorem Task.setThread_fusecnt (k : Task) (m : Nat) (t : Thread) : (k.setThread m t).fusecnt = k.fusecnt := rfl
@[simp] theorem Task.setThread_issuecnt (k : Task) (m : Nat) (t : Thread) : (k.setThread m t).issuecnt = k.issuecnt := rfl
@[simp] theorem Task.setThread_gp (k : Task) (m : Nat) (t : Thread) : (k.setThread m t).gp = k.gp := rfl
@[simp] theorem Task.setThread_trapent (k : Task) (m : Nat) (t : Thread) : (k.setThread m t).trapent = k.trapent := rfl
@[simp] theorem Task.setThread_karg (k : Task) (m : Nat) (t : Thread) : (k.setThread m t).karg = k.karg := rfl
@[simp] theorem Task.setThread_kflags (k : Task) (m : Nat) (t : Thread) : (k.setThread m t).kflags = k.kflags := rfl
@[simp] theorem Task.setThread_qid (k : Task) (m : Nat) (t : Thread) : (k.setThread m t).qid = k.qid := rfl
@[simp] theorem Task.setThread_audit (k : Task) (m : Nat) (t : Thread) : (k.setThread m t).audit = k.audit := rfl
@[simp] theorem Task.setThread_gmem (k : Task) (m : Nat) (t : Thread) : (k.setThread m t).gmem = k.gmem := rfl
@[simp] theorem Task.setThread_caps (k : Task) (m : Nat) (t : Thread) : (k.setThread m t).caps = k.caps := rfl
@[simp] theorem Task.setThread_tl (k : Task) (m : Nat) (t : Thread) : (k.setThread m t).tl = k.tl := rfl
@[simp] theorem Task.setThread_pend (k : Task) (m : Nat) (t : Thread) : (k.setThread m t).pend = k.pend := rfl
@[simp] theorem Task.setThread_points (k : Task) (m : Nat) (t : Thread) : (k.setThread m t).points = k.points := rfl
@[simp] theorem Task.setThread_xlist (k : Task) (m : Nat) (t : Thread) : (k.setThread m t).xlist = k.xlist := rfl
@[simp] theorem Task.setThread_sfu (k : Task) (m : Nat) (t : Thread) : (k.setThread m t).sfu = k.sfu := rfl
@[simp] theorem Task.setThread_sstep (k : Task) (m : Nat) (t : Thread) : (k.setThread m t).sstep = k.sstep := rfl
@[simp] theorem Task.setThread_vote (k : Task) (m : Nat) (t : Thread) : (k.setThread m t).vote = k.vote := rfl
@[simp] theorem Task.setThread_stagger (k : Task) (m : Nat) (t : Thread) : (k.setThread m t).stagger = k.stagger := rfl
@[simp] theorem Task.setThread_gain (k : Task) (m : Nat) (t : Thread) : (k.setThread m t).gain = k.gain := rfl
@[simp] theorem Task.setThread_drfail (k : Task) (m : Nat) (t : Thread) : (k.setThread m t).drfail = k.drfail := rfl
@[simp] theorem Task.setThread_enob (k : Task) (m : Nat) (t : Thread) : (k.setThread m t).enob = k.enob := rfl
@[simp] theorem Task.setThread_miss (k : Task) (m : Nat) (t : Thread) : (k.setThread m t).miss = k.miss := rfl
@[simp] theorem Task.setThread_pload (k : Task) (m : Nat) (t : Thread) : (k.setThread m t).pload = k.pload := rfl
@[simp] theorem Task.setThread_pmt (k : Task) (m : Nat) (t : Thread) : (k.setThread m t).pmt = k.pmt := rfl
@[simp] theorem Task.setThread_pmctl (k : Task) (m : Nat) (t : Thread) : (k.setThread m t).pmctl = k.pmctl := rfl
@[simp] theorem Task.setThread_trbase (k : Task) (m : Nat) (t : Thread) : (k.setThread m t).trbase = k.trbase := rfl
@[simp] theorem Task.setThread_lwsel (k : Task) (m : Nat) (t : Thread) : (k.setThread m t).lwsel = k.lwsel := rfl
@[simp] theorem Task.setThread_exited (k : Task) (m : Nat) (t : Thread) : (k.setThread m t).exited = k.exited := rfl
@[simp] theorem Task.setThread_killing (k : Task) (m : Nat) (t : Thread) : (k.setThread m t).killing = k.killing := rfl
@[simp] theorem Task.setThread_age (k : Task) (m : Nat) (t : Thread) : (k.setThread m t).age = k.age := rfl
@[simp] theorem Task.setThread_egot (k : Task) (m : Nat) (t : Thread) : (k.setThread m t).egot = k.egot := rfl
@[simp] theorem Task.setThread_frame (k : Task) (m : Nat) (t : Thread) : (k.setThread m t).frame = k.frame := rfl
@[simp] theorem Task.setThread_preempted (k : Task) (m : Nat) (t : Thread) : (k.setThread m t).preempted = k.preempted := rfl
@[simp] theorem Task.setThread_stored (k : Task) (m : Nat) (t : Thread) : (k.setThread m t).stored = k.stored := rfl
@[simp] theorem Task.setThread_core (k : Task) (m : Nat) (t : Thread) : (k.setThread m t).core = k.core := rfl
@[simp] theorem Task.setThread_cluster (k : Task) (m : Nat) (t : Thread) : (k.setThread m t).cluster = k.cluster := rfl

end Sys2Proof.Machine
end

