-- ==== Sys2Proof/Laws/Ops.lean ====
section
/-! SUPPORT. What the shared operations of instructions do: registers with poison, issue and settle of an instruction, the frames
of the operand forms, and what the Loupe's records leave alone. -/

namespace Sys2Proof.Machine

/-! ## Registers (R118) -/

theorem getLsbD_setBit {n : Nat} (w : BitVec n) (i : Nat) (b : Bool) (j : Nat) (hi : i < n) :
    (setBit w i b).getLsbD j = if j = i then b else w.getLsbD j := by
  have h2 : (BitVec.ofNat n (2 ^ i)).getLsbD j = (decide (j < n) && decide (i = j)) := by
    rw [BitVec.getLsbD_ofNat, Nat.testBit_two_pow]
  unfold setBit
  generalize BitVec.ofNat n (2 ^ i) = m at h2
  rw [BitVec.getLsbD_or, BitVec.getLsbD_and, BitVec.getLsbD_not, h2]
  by_cases hj : j = i
  · subst hj
    cases b <;> simp [h2, hi]
  · have hij : ¬ i = j := fun h => hj h.symm
    by_cases hn : j < n
    · have h3 : m.getLsbD j = false := by rw [h2]; simp [hij]
      cases b <;> simp only [Bool.false_eq_true, if_false, if_true, BitVec.getLsbD_zero, h3, hj, hij, hn] <;>
        cases w.getLsbD j <;> simp
    · have := BitVec.getLsbD_of_ge w j (by omega)
      cases b <;> simp [h2, hj, hn, this]

theorem Thread.xr_zero (t : Thread) : t.xr 0 = 0 := by simp [Thread.xr]
theorem Thread.xpr_zero (t : Thread) : t.xpr 0 = false := by simp [Thread.xpr]

theorem Thread.xr_setX (t : Thread) (d : Reg) (v : Word) (p : Bool) (r : Reg) :
    (t.setX d v p).xr r = if r = d ∧ r ≠ 0 then v else t.xr r := by
  unfold Thread.setX
  by_cases hd : d = 0#5
  · subst hd
    by_cases hr : r = 0#5 <;> simp [hr]
  · by_cases hr : r = 0#5
    · simp [hd, hr, Thread.xr]
    · by_cases h : r = d
      · simp [h, hd, Thread.xr, AMap.get_set]
      · have : r.toNat ≠ d.toNat := fun e => h (BitVec.eq_of_toNat_eq e)
        simp [hd, h, Thread.xr, AMap.get_set, this]

theorem Thread.xpr_setX (t : Thread) (d : Reg) (v : Word) (p : Bool) (r : Reg) :
    (t.setX d v p).xpr r = if r = d ∧ r ≠ 0 then p else t.xpr r := by
  unfold Thread.setX
  by_cases hd : d = 0#5
  · subst hd
    by_cases hr : r = 0#5 <;> simp [hr]
  · by_cases hr : r = 0#5
    · simp [hd, hr, Thread.xpr]
    · have hb := getLsbD_setBit t.xp d.toNat p r.toNat d.isLt
      by_cases h : r = d
      · subst h; simp [hd, Thread.xpr, hb]
      · have : r.toNat ≠ d.toNat := fun e => h (BitVec.eq_of_toNat_eq e)
        simp [hd, h, Thread.xpr, hb, this]

theorem Thread.setX_frame (t : Thread) (d : Reg) (v : Word) (p : Bool) :
    t.setX d v p = { t with x := (t.setX d v p).x, xp := (t.setX d v p).xp } := by
  unfold Thread.setX
  split <;> rfl

/-! ## What the Loupe's records leave alone (R498) -/

@[simp] theorem State.countVia_tasks (s : State) (t : Trans) (va n : Nat) (w : Bool) : (s.countVia t va n w).tasks = s.tasks := by
  unfold State.countVia; dsimp only; split
  · unfold State.countAccess; split <;> rfl
  · rfl
@[simp] theorem State.countVia_cores (s : State) (t : Trans) (va n : Nat) (w : Bool) : (s.countVia t va n w).cores = s.cores := by
  unfold State.countVia; dsimp only; split
  · unfold State.countAccess; split <;> rfl
  · rfl
@[simp] theorem State.dropReplicas_tasks (s : State) (ls : List Nat) : (s.dropReplicas ls).tasks = s.tasks := rfl
@[simp] theorem State.dropReplicas_cores (s : State) (ls : List Nat) : (s.dropReplicas ls).cores = s.cores := rfl
@[simp] theorem State.ownHost_tasks (s : State) (va key n : Nat) : (s.ownHost va key n).tasks = s.tasks := rfl
@[simp] theorem State.ownHost_cores (s : State) (va key n : Nat) : (s.ownHost va key n).cores = s.cores := rfl
@[simp] theorem State.homeWrite_tasks (s : State) (t : Trans) (va : Nat) (bs : List PByte) : (s.homeWrite t va bs).tasks = s.tasks := by
  unfold State.homeWrite; split
  · rfl
  · dsimp only; split <;> simp
@[simp] theorem State.homeWrite_cores (s : State) (t : Trans) (va : Nat) (bs : List PByte) : (s.homeWrite t va bs).cores = s.cores := by
  unfold State.homeWrite; split
  · rfl
  · dsimp only; split <;> simp

theorem State.engineWrite_frame (fuel : Nat) : ∀ (s : State) (ctx va : Nat) (bs : List PByte) (r : State),
    s.engineWrite ctx va bs fuel = some r → r.tasks = s.tasks ∧ r.cores = s.cores := by
  induction fuel with
  | zero => intro s ctx va bs r h; simp [State.engineWrite] at h; simp [h]
  | succ fuel ih =>
    intro s ctx va bs r h
    unfold State.engineWrite at h
    split at h
    · simp at h; simp [h]
    · split at h
      · simp at h
      · dsimp only at h
        split at h
        · simp at h
        · exact ih _ _ _ _ _ h
        · simpa using ih _ _ _ _ _ h

theorem State.engineWrite_getD_frame (s : State) (ctx va : Nat) (bs : List PByte) (n : Nat) :
    ((s.engineWrite ctx va bs n).getD s).tasks = s.tasks ∧ ((s.engineWrite ctx va bs n).getD s).cores = s.cores := by
  cases h : s.engineWrite ctx va bs n with
  | none => simp
  | some r => simpa using s.engineWrite_frame n ctx va bs r h

/-- A trace record leaves every task as it was, and of the cores no more than the time of the last record. -/
theorem State.traceRec_frame (s : State) (tid slot ty fl v : Nat) :
    (s.traceRec tid slot ty fl v).tasks = s.tasks ∧ ∀ c, ((s.traceRec tid slot ty fl v).core c).dbgStop = (s.core c).dbgStop := by
  have E := State.engineWrite_getD_frame
  have core_of : ∀ (r : State) c, r.cores = s.cores → r.core c = s.core c := by
    intro r c h; simp [State.core, h]
  unfold State.traceRec
  dsimp only
  split
  · simp
  · split
    · exact ⟨(E ..).1, fun c => by rw [core_of _ c (E ..).2]⟩
    · split
      · exact ⟨(E ..).1, fun c => by rw [core_of _ c (E ..).2]⟩
      · rename_i r hr
        have h1 := State.engineWrite_frame _ _ _ _ _ _ hr
        have h2 := fun a b n => E r (s.task tid).ctx a b n
        refine ⟨by simp [(h2 ..).1, h1.1], ?_⟩
        intro c
        rw [State.core_setCore]
        split
        · rename_i hc; simp [hc, State.core, (h2 ..).2, h1.2]
        · simp [State.core, (h2 ..).2, h1.2]

@[simp] theorem State.traceRec_tasks (s : State) (tid slot ty fl v : Nat) : (s.traceRec tid slot ty fl v).tasks = s.tasks :=
  (s.traceRec_frame tid slot ty fl v).1
@[simp] theorem State.traceRec_dbgStop (s : State) (tid slot ty fl v c : Nat) :
    ((s.traceRec tid slot ty fl v).core c).dbgStop = (s.core c).dbgStop := (s.traceRec_frame tid slot ty fl v).2 c
@[simp] theorem State.traceRec_task (s : State) (tid slot ty fl v n : Nat) : (s.traceRec tid slot ty fl v).task n = s.task n := by
  simp [State.task]

/-! ## Issue and settle (R126) -/

theorem State.Ready.countHandler {s : State} (h : s.Ready) : s.countHandler = s := by
  simp [State.countHandler, h.shadow]

/-- Leaving a rendezvous changes no core and no task's place. -/
@[simp] theorem State.leaveRdv_core (s : State) (tid slot c : Nat) : (s.leaveRdv tid slot).core c = s.core c := by
  unfold State.leaveRdv; dsimp only; split <;> rfl
@[simp] theorem State.leaveRdv_place (s : State) (tid slot : Nat) : ((s.leaveRdv tid slot).task tid).place = (s.task tid).place := by
  unfold State.leaveRdv; dsimp only; split <;> simp

/-- Requests that become nobody's change no task and no core. -/
@[simp] theorem State.orphanLoads_task (s : State) (tid slot n : Nat) : (s.orphanLoads tid slot).task n = s.task n := rfl
@[simp] theorem State.orphanLoads_core (s : State) (tid slot c : Nat) : (s.orphanLoads tid slot).core c = s.core c := rfl

/-- A wait that is not for a stack is held nowhere (R468). -/
theorem State.holdWait_of_not (s : State) (w : Wait) (m : Move) (h : ∀ k, w ≠ .stack k) : s.holdWait w m = s := by
  cases w <;> first | rfl | exact absurd rfl (h _)

/-- Taking a fault stops no core. -/
@[simp] theorem State.takeFault_dbgStop (s : State) (tid slot code kind addr i1 i2 c : Nat) :
    ((s.takeFault tid slot code kind addr i1 i2).core c).dbgStop = (s.core c).dbgStop := by
  simp [State.takeFault, State.cancelSfu]

theorem State.holdIfStopping_of_not (s : State) (tid slot : Nat) (h : (s.core (s.task tid).core).dbgStop = false) :
    s.holdIfStopping tid slot = s := by simp [State.holdIfStopping, h]

@[simp] theorem State.takeFault_place (s : State) (tid slot code kind addr i1 i2 : Nat) :
    ((s.takeFault tid slot code kind addr i1 i2).task tid).core = (s.task tid).core := by
  simp only [State.takeFault, State.traceRec_task, State.cancelSfu, State.task_setTask_self]
  simp [State.setThread, Task.core]

/-- An instruction that a ready thread issues does what its meaning says. -/
theorem issue_ready {s : State} (h : s.Ready) (c : Class) (len : Nat) (f : State → State × Res) :
    issue c len s f = .next ((State.settle len (f s)).holdIfStopping s.cur.1 s.cur.2) := by
  simp [issue, h.run, h.countHandler, Thread.forbids, h.packet, h.shadow]

theorem State.settle_done (s : State) (len : Nat) : State.settle len (s, .done) = s.setThr (s.thr.after len) := rfl
theorem State.settle_jump (s : State) (len : Nat) (pc : Word) : State.settle len (s, .jump pc) = s.setThr (s.thr.goesOn pc) := rfl

theorem issue_done {s : State} (h : s.Ready) (c : Class) (len : Nat) (f : State → State × Res) (r : State) (hf : f s = (r, .done)) :
    issue c len s f = .next (s.retired r len) := by
  rw [issue_ready h, hf, State.settle_done]; rfl

/-- A precise fault of an instruction without other effect. -/
theorem issue_fault {s : State} (h : s.Ready) (c : Class) (len : Nat) (f : State → State × Res) (code addr i1 : Nat)
    (hf : f s = (s, .fault code addr i1)) :
    issue c len s f = .next (s.takeFault s.cur.1 s.cur.2 code 0 addr i1 0) := by
  rw [issue_ready h, hf, State.settle, State.holdIfStopping_of_not]
  rw [State.takeFault_dbgStop, State.takeFault_place]; exact h.debug

theorem State.Ready.hold {s : State} (h : s.Ready) (t : Thread) : (s.setThr t).holdIfStopping s.cur.1 s.cur.2 = s.setThr t := by
  apply State.holdIfStopping_of_not
  have : ((s.setThr t).task s.cur.1).core = s.tk.core := by
    rw [State.setThr, State.task_setThread_self, Task.setThread_core]; rfl
  rw [this, State.core_setThr]; exact h.debug

theorem issue_advances {s : State} (h : s.Ready) (c : Class) (len : Nat) (f : State → State × Res) (hf : f s = (s, .done)) :
    issue c len s f = .next (s.setThr (s.thr.after len)) := by
  rw [issue_ready h, hf, State.settle_done, h.hold]

/-- The current thread's change of its own registers, then the advance of pc. -/
theorem issue_setThr {s : State} (h : s.Ready) (c : Class) (len : Nat) (f : State → State × Res) (t : Thread)
    (hf : f s = (s.setThr t, .done)) : issue c len s f = .next (s.setThr (t.after len)) := by
  rw [issue_ready h, hf, State.settle_done]
  simp [h.hold]

/-- A register result (R118, R148). -/
theorem writesX_setX (s : State) (d : Reg) (v : Word) (p : Bool) (fl : Word) (len : Nat) :
    WritesX s (s.setThr (({ s.thr.setX d v p with tflags := (s.thr.setX d v p).tflags ||| fl }).after len)) d v p fl len where
  only := by simp [OnlyThread]
  thread := by
    rw [State.thr_setThr]
    have h := s.thr.setX_frame d v p
    generalize s.thr.setX d v p = u at h
    rw [h]; rfl
  value r := by
    rw [State.x, State.thr_setThr]; exact s.thr.xr_setX d v p r
  poison r := by
    rw [State.xp, State.thr_setThr]; exact s.thr.xpr_setX d v p r

theorem issue_result {s : State} (h : s.Ready) (c : Class) (len : Nat) (f : State → State × Res) (d : Reg) (srcs : List Reg)
    (v : Word) (hf : f s = s.result d srcs v) :
    ∃ t, issue c len s f = .next t ∧ WritesX s t d v (srcs.any s.xp) 0 len := by
  refine ⟨_, issue_setThr h c len f _ hf, ?_⟩
  have := writesX_setX s d v (srcs.any s.xp) 0 len
  simpa using this

theorem issue_fpResult {s : State} (h : s.Ready) (c : Class) (len : Nat) (f : State → State × Res) (d : Reg) (srcs : List Reg)
    (r : Nat × Nat) (hf : f s = s.fpResult d srcs r) :
    ∃ t, issue c len s f = .next t ∧ WritesX s t d (BitVec.ofNat 64 r.1) (srcs.any s.xp) (BitVec.ofNat 64 r.2 &&& 0x1F0) len := by
  have hf' : f s = (s.setThr { s.thr.setX d (BitVec.ofNat 64 r.1) (srcs.any s.xp) with
      tflags := (s.thr.setX d (BitVec.ofNat 64 r.1) (srcs.any s.xp)).tflags ||| (BitVec.ofNat 64 r.2 &&& 0x1F0) }, .done) := by
    rw [hf]; simp [State.fpResult, State.orFlags, State.setX, Thread.orFlags]
  exact ⟨_, issue_setThr h c len f _ hf', writesX_setX s d _ _ _ len⟩

/-! ## The terms of claims, from a meaning -/

variable {s : State} {i : Instr} {c : Class} {len : Nat} {f : State → State × Res}

theorem effects_of (h : s.Ready) (hi : exec i s = issue c len s f) {r : State} (hf : f s = (r, .done)) : Effects i s r len := by
  rw [Effects, hi]; exact issue_done h _ _ _ _ hf

theorem advances_of (h : s.Ready) (hi : exec i s = issue c len s f) (hf : f s = (s, .done)) : Advances i s len := by
  rw [Advances, hi]; exact issue_advances h _ _ _ hf

theorem faults_of (h : s.Ready) (hi : exec i s = issue c len s f) {code addr i1 : Nat} (hf : f s = (s, .fault code addr i1)) :
    Faults i s code addr i1 := by
  rw [Faults, hi]; exact issue_fault h _ _ _ _ _ _ hf

theorem jumps_of (h : s.Ready) (hi : exec i s = issue c len s f) {r : State} {pc : Word} (hf : f s = (r, .jump pc)) :
    Jumps i s r pc := by
  rw [Jumps, hi, issue_ready h, hf, State.settle_jump]

/-- With nothing buffered and no store fault pending, a drain goes straight on (R223, R528). -/
theorem State.Drained.drainThen (h : s.Drained) (k : State → State × Res) : s.drainThen s.isStoreFault k = k s := by
  have h0 : (s.thread s.cur.1 s.cur.2).wbuf = [] := h.1
  have none_of : ∀ l : List PendFault, (∀ p ∈ l, s.isStoreFault p = false) → takePend s.isStoreFault l = none := by
    intro l hl
    induction l with
    | nil => rfl
    | cons p l ih => simp [takePend, hl p (by simp), ih fun q hq => hl q (by simp [hq])]
  simp [State.drainThen, State.drain, State.deliverOr, h0, none_of _ h.2]

end Sys2Proof.Machine
end

