-- ==== Sys2Proof/Laws/PerInstr.lean ====
section
/-! SUPPORT. The round trip of every instruction: the decoder's candidate for its words is the instruction itself (R49 to R64). -/

namespace Sys2Proof.Laws.RoundTrip

/-- The decoder's candidate for one, two or three words. -/
noncomputable def candidate (ws : List Nat) : Option Instr :=
  match ws with
  | [a] => pick32 a
  | [a, b] => pick64 a b
  | [a, b, c] => pick96 a b c
  | _ => none

/-- The words of a well-formed instruction that is no event say their own number, and their candidate is the instruction. -/
def Statement (i : Instr) : Prop :=
  i.isInsn = true → i.wf = true → candidate (encode i) = some i ∧ (encode i).getD 0 0 % 4 + 1 = (encode i).length

theorem of1 {i : Instr} (w0 : Nat) (h : encode i = [w0]) (h0 : w0 % 4 = 0) (hp : pick32 w0 = some i) : Statement i := by
  intro _ _; rw [h]; exact ⟨hp, by simp [h0]⟩

theorem of2 {i : Instr} (w0 w1 : Nat) (h : encode i = [w0, w1]) (h0 : w0 % 4 = 1) (hp : pick64 w0 w1 = some i) : Statement i := by
  intro _ _; rw [h]; exact ⟨hp, by simp [h0]⟩

theorem of3 {i : Instr} (w0 w1 w2 : Nat) (h : encode i = [w0, w1, w2]) (h0 : w0 % 4 = 2) (hp : pick96 w0 w1 w2 = some i) :
    Statement i := by
  intro _ _; rw [h]; exact ⟨hp, by simp [h0]⟩

theorem of_event {i : Instr} (h : i.isInsn = false) : Statement i := fun hi => by simp [h] at hi

theorem ofNat_eq {n k : Nat} (x : BitVec n) (h : k % 2 ^ n = x.toNat) : BitVec.ofNat n k = x := by
  apply BitVec.eq_of_toNat_eq; simpa using h

theorem bitAt_eq {w n : Nat} (b : Bool) (h : w / 2 ^ n % 2 = b.toNat) : bitAt w n = b := by
  unfold bitAt; rw [h]; cases b <;> rfl

/-! ## The fields of a format -/

theorem q3_len (maj len fn b a d : Nat) (h : len < 4) : q3 maj len fn b a d % 4 = len := by unfold q3; omega

theorem q3_maj (maj len fn b a d : Nat) (h : len < 4) (hm : maj < 64) : q3 maj len fn b a d / 4 % 64 = maj := by unfold q3; omega

theorem q3_fn (maj len fn b a d : Nat) (h : len + 4 * maj < 256) (hf : fn < 512) (hb : b < 32) (ha : a < 32) (hd : d < 32) :
    q3 maj len fn b a d / 8388608 % 512 = fn := by unfold q3; omega

theorem q3_d (maj len fn b a : Nat) (d : Reg) (h : len + 4 * maj < 256) : rD (q3 maj len fn b a d.toNat) = d :=
  ofNat_eq d (by unfold q3; omega)

theorem q3_a (maj len fn b d : Nat) (a : Reg) (h : len + 4 * maj < 256) (hd : d < 32) : rA (q3 maj len fn b a.toNat d) = a :=
  ofNat_eq a (by unfold q3; omega)

theorem q3_b (maj len fn a d : Nat) (b : Reg) (h : len + 4 * maj < 256) (ha : a < 32) (hd : d < 32) :
    rB (q3 maj len fn b.toNat a d) = b := ofNat_eq b (by unfold q3; omega)

theorem vx0_len (maj len fn : Nat) (f : VX) (h : len < 4) : vx0 maj len fn f % 4 = len := by unfold vx0; omega

theorem vx0_maj (maj len fn : Nat) (f : VX) (h : len < 4) (hm : maj < 64) : vx0 maj len fn f / 4 % 64 = maj := by unfold vx0; omega

theorem vx0_fn (maj len fn : Nat) (f : VX) (h : len + 4 * maj < 256) (hf : fn < 32) : vx0 maj len fn f / 134217728 % 32 = fn := by
  have := f.zm.toNat_le
  unfold vx0; omega

theorem vx0_vx (maj len fn : Nat) (f : VX) (h : len + 4 * maj < 256) : vxOf (vx0 maj len fn f) (vx1 f) = f := by
  have h1 := f.zm.toNat_le
  have h2 := f.sat.toNat_le
  have h3 := f.xs.toNat_le
  have e1 : BitVec.ofNat 4 (vx1 f) = f.et := ofNat_eq _ (by unfold vx1; omega)
  have e2 : rD (vx0 maj len fn f) = f.vd := ofNat_eq _ (by unfold vx0; omega)
  have e3 : rA (vx0 maj len fn f) = f.va := ofNat_eq _ (by unfold vx0; omega)
  have e4 : rB (vx0 maj len fn f) = f.vb := ofNat_eq _ (by unfold vx0; omega)
  have e5 : BitVec.ofNat 5 (vx1 f / 16) = f.vc := ofNat_eq _ (by unfold vx1; omega)
  have e6 : BitVec.ofNat 3 (vx0 maj len fn f / 8388608) = f.pg := ofNat_eq _ (by unfold vx0; omega)
  have e7 : bitAt (vx0 maj len fn f) 26 = f.zm := bitAt_eq _ (by unfold vx0; omega)
  have e8 : bitAt (vx1 f) 13 = f.xs := bitAt_eq _ (by unfold vx1; omega)
  have e9 : bitAt (vx1 f) 12 = f.sat := bitAt_eq _ (by unfold vx1; omega)
  have e10 : BitVec.ofNat 3 (vx1 f / 512) = f.rm := ofNat_eq _ (by unfold vx1; omega)
  have e11 : BitVec.ofNat 9 (vx1 f / 16384) = f.imm := ofNat_eq _ (by unfold vx1; omega)
  unfold vxOf
  rw [e1, e2, e3, e4, e5, e6, e7, e8, e9, e10, e11]

theorem mxp_of (m : MxpW) : mxpOf (mxpW1 m) = m := by
  have h1 := m.dir.toNat_le
  have h2 := m.acc.toNat_le
  have h3 := m.prb.toNat_le
  have e1 : BitVec.ofNat 4 (mxpW1 m) = m.ta := ofNat_eq _ (by unfold mxpW1; omega)
  have e2 : BitVec.ofNat 4 (mxpW1 m / 16) = m.tc := ofNat_eq _ (by unfold mxpW1; omega)
  have e3 : BitVec.ofNat 4 (mxpW1 m / 256) = m.bank := ofNat_eq _ (by unfold mxpW1; omega)
  have e4 : BitVec.ofNat 3 (mxpW1 m / 4096) = m.chunks := ofNat_eq _ (by unfold mxpW1; omega)
  have e5 : bitAt (mxpW1 m) 15 = m.dir := bitAt_eq _ (by unfold mxpW1; omega)
  have e6 : bitAt (mxpW1 m) 16 = m.acc := bitAt_eq _ (by unfold mxpW1; omega)
  have e7 : BitVec.ofNat 3 (mxpW1 m / 131072) = m.cap := ofNat_eq _ (by unfold mxpW1; omega)
  have e8 : BitVec.ofNat 2 (mxpW1 m / 1048576) = m.slice := ofNat_eq _ (by unfold mxpW1; omega)
  have e9 : bitAt (mxpW1 m) 22 = m.prb := bitAt_eq _ (by unfold mxpW1; omega)
  have e10 : BitVec.ofNat 7 (mxpW1 m / 8388608) = m.rows := ofNat_eq _ (by unfold mxpW1; omega)
  unfold mxpOf
  rw [e1, e2, e3, e4, e5, e6, e7, e8, e9, e10]

/-! ## The candidates of a major -/

theorem maj_pickSys {w0 : Nat} (h : w0 / 4 % 64 = 0) : pick32 w0 = pickSys w0 := by unfold pick32; rw [h]; rfl

theorem maj_pickAlu {w0 : Nat} (h : w0 / 4 % 64 = 1) : pick32 w0 = pickAlu w0 := by unfold pick32; rw [h]; rfl

theorem maj_pickAddi {w0 : Nat} (h : w0 / 4 % 64 = 2) : pick32 w0 = pickAddi w0 := by unfold pick32; rw [h]; rfl

theorem maj_pickAndi {w0 : Nat} (h : w0 / 4 % 64 = 3) : pick32 w0 = pickAndi w0 := by unfold pick32; rw [h]; rfl

theorem maj_pickOri {w0 : Nat} (h : w0 / 4 % 64 = 4) : pick32 w0 = pickOri w0 := by unfold pick32; rw [h]; rfl

theorem maj_pickXori {w0 : Nat} (h : w0 / 4 % 64 = 5) : pick32 w0 = pickXori w0 := by unfold pick32; rw [h]; rfl

theorem maj_pickShi {w0 : Nat} (h : w0 / 4 % 64 = 6) : pick32 w0 = pickShi w0 := by unfold pick32; rw [h]; rfl

theorem maj_pickCmpi {w0 : Nat} (h : w0 / 4 % 64 = 7) : pick32 w0 = pickCmpi w0 := by unfold pick32; rw [h]; rfl

theorem maj_pickLd {w0 : Nat} (h : w0 / 4 % 64 = 8) : pick32 w0 = pickLd w0 := by unfold pick32; rw [h]; rfl

theorem maj_pickSt {w0 : Nat} (h : w0 / 4 % 64 = 9) : pick32 w0 = pickSt w0 := by unfold pick32; rw [h]; rfl

theorem maj_pickBr {w0 : Nat} (h : w0 / 4 % 64 = 10) : pick32 w0 = pickBr w0 := by unfold pick32; rw [h]; rfl

theorem maj_pickJal {w0 : Nat} (h : w0 / 4 % 64 = 11) : pick32 w0 = pickJal w0 := by unfold pick32; rw [h]; rfl

theorem maj_pickJalr {w0 : Nat} (h : w0 / 4 % 64 = 12) : pick32 w0 = pickJalr w0 := by unfold pick32; rw [h]; rfl

theorem maj_pickJtab {w0 : Nat} (h : w0 / 4 % 64 = 13) : pick32 w0 = pickJtab w0 := by unfold pick32; rw [h]; rfl

theorem maj_pickMuldiv {w0 : Nat} (h : w0 / 4 % 64 = 14) : pick32 w0 = pickMuldiv w0 := by unfold pick32; rw [h]; rfl

theorem maj_pickBit {w0 : Nat} (h : w0 / 4 % 64 = 15) : pick32 w0 = pickBit w0 := by unfold pick32; rw [h]; rfl

theorem maj_pickFpu {w0 : Nat} (h : w0 / 4 % 64 = 16) : pick32 w0 = pickFpu w0 := by unfold pick32; rw [h]; rfl

theorem maj_pickCsr {w0 : Nat} (h : w0 / 4 % 64 = 18) : pick32 w0 = pickCsr w0 := by unfold pick32; rw [h]; rfl

theorem maj_pickAmo {w0 : Nat} (h : w0 / 4 % 64 = 20) : pick32 w0 = pickAmo w0 := by unfold pick32; rw [h]; rfl

theorem maj_pickMemx {w0 : Nat} (h : w0 / 4 % 64 = 21) : pick32 w0 = pickMemx w0 := by unfold pick32; rw [h]; rfl

theorem maj_pickThrd {w0 : Nat} (h : w0 / 4 % 64 = 22) : pick32 w0 = pickThrd w0 := by unfold pick32; rw [h]; rfl

theorem maj_pickSpad {w0 : Nat} (h : w0 / 4 % 64 = 48) : pick32 w0 = pickSpad w0 := by unfold pick32; rw [h]; rfl

theorem maj_pickSync {w0 : Nat} (h : w0 / 4 % 64 = 49) : pick32 w0 = pickSync w0 := by unfold pick32; rw [h]; rfl

theorem maj_pickLease {w0 : Nat} (h : w0 / 4 % 64 = 52) : pick32 w0 = pickLease w0 := by unfold pick32; rw [h]; rfl

theorem maj_pickDbg {w0 : Nat} (h : w0 / 4 % 64 = 54) : pick32 w0 = pickDbg w0 := by unfold pick32; rw [h]; rfl

theorem maj_pickBr64 {w0 w1 : Nat} (h : w0 / 4 % 64 = 10) : pick64 w0 w1 = pickBr64 w0 w1 := by unfold pick64; rw [h]; rfl

theorem maj_pickJal64 {w0 w1 : Nat} (h : w0 / 4 % 64 = 11) : pick64 w0 w1 = pickJal64 w0 w1 := by unfold pick64; rw [h]; rfl

theorem maj_pickFma64 {w0 w1 : Nat} (h : w0 / 4 % 64 = 17) : pick64 w0 w1 = pickFma64 w0 w1 := by unfold pick64; rw [h]; rfl

theorem maj_pickBiti64 {w0 w1 : Nat} (h : w0 / 4 % 64 = 19) : pick64 w0 w1 = pickBiti64 w0 w1 := by unfold pick64; rw [h]; rfl

theorem maj_pickRdv64 {w0 w1 : Nat} (h : w0 / 4 % 64 = 23) : pick64 w0 w1 = pickRdv64 w0 w1 := by unfold pick64; rw [h]; rfl

theorem maj_pickLit64 {w0 w1 : Nat} (h : w0 / 4 % 64 = 24) : pick64 w0 w1 = pickLit64 w0 w1 := by unfold pick64; rw [h]; rfl

theorem maj_pickVint64 {w0 w1 : Nat} (h : w0 / 4 % 64 = 32) : pick64 w0 w1 = pickVint64 w0 w1 := by unfold pick64; rw [h]; rfl

theorem maj_pickVflt64 {w0 w1 : Nat} (h : w0 / 4 % 64 = 33) : pick64 w0 w1 = pickVflt64 w0 w1 := by unfold pick64; rw [h]; rfl

theorem maj_pickVbit64 {w0 w1 : Nat} (h : w0 / 4 % 64 = 34) : pick64 w0 w1 = pickVbit64 w0 w1 := by unfold pick64; rw [h]; rfl

theorem maj_pickVcmp64 {w0 w1 : Nat} (h : w0 / 4 % 64 = 35) : pick64 w0 w1 = pickVcmp64 w0 w1 := by unfold pick64; rw [h]; rfl

theorem maj_pickVpred64 {w0 w1 : Nat} (h : w0 / 4 % 64 = 36) : pick64 w0 w1 = pickVpred64 w0 w1 := by unfold pick64; rw [h]; rfl

theorem maj_pickVperm64 {w0 w1 : Nat} (h : w0 / 4 % 64 = 37) : pick64 w0 w1 = pickVperm64 w0 w1 := by unfold pick64; rw [h]; rfl

theorem maj_pickVred64 {w0 w1 : Nat} (h : w0 / 4 % 64 = 38) : pick64 w0 w1 = pickVred64 w0 w1 := by unfold pick64; rw [h]; rfl

theorem maj_pickVcvt64 {w0 w1 : Nat} (h : w0 / 4 % 64 = 39) : pick64 w0 w1 = pickVcvt64 w0 w1 := by unfold pick64; rw [h]; rfl

theorem maj_pickVsfu64 {w0 w1 : Nat} (h : w0 / 4 % 64 = 40) : pick64 w0 w1 = pickVsfu64 w0 w1 := by unfold pick64; rw [h]; rfl

theorem maj_pickVld64 {w0 w1 : Nat} (h : w0 / 4 % 64 = 41) : pick64 w0 w1 = pickVld64 w0 w1 := by unfold pick64; rw [h]; rfl

theorem maj_pickVst64 {w0 w1 : Nat} (h : w0 / 4 % 64 = 42) : pick64 w0 w1 = pickVst64 w0 w1 := by unfold pick64; rw [h]; rfl

theorem maj_pickVamo64 {w0 w1 : Nat} (h : w0 / 4 % 64 = 43) : pick64 w0 w1 = pickVamo64 w0 w1 := by unfold pick64; rw [h]; rfl

theorem maj_pickTile64 {w0 w1 : Nat} (h : w0 / 4 % 64 = 44) : pick64 w0 w1 = pickTile64 w0 w1 := by unfold pick64; rw [h]; rfl

theorem maj_pickMxp64 {w0 w1 : Nat} (h : w0 / 4 % 64 = 45) : pick64 w0 w1 = pickMxp64 w0 w1 := by unfold pick64; rw [h]; rfl

theorem maj_pickPhase64 {w0 w1 : Nat} (h : w0 / 4 % 64 = 46) : pick64 w0 w1 = pickPhase64 w0 w1 := by unfold pick64; rw [h]; rfl

theorem maj_pickCpy64 {w0 w1 : Nat} (h : w0 / 4 % 64 = 47) : pick64 w0 w1 = pickCpy64 w0 w1 := by unfold pick64; rw [h]; rfl

theorem maj_pickSync64 {w0 w1 : Nat} (h : w0 / 4 % 64 = 49) : pick64 w0 w1 = pickSync64 w0 w1 := by unfold pick64; rw [h]; rfl

theorem maj_pickXchg64 {w0 w1 : Nat} (h : w0 / 4 % 64 = 50) : pick64 w0 w1 = pickXchg64 w0 w1 := by unfold pick64; rw [h]; rfl

theorem maj_pickKlch64 {w0 w1 : Nat} (h : w0 / 4 % 64 = 51) : pick64 w0 w1 = pickKlch64 w0 w1 := by unfold pick64; rw [h]; rfl

theorem maj_pickLink64 {w0 w1 : Nat} (h : w0 / 4 % 64 = 53) : pick64 w0 w1 = pickLink64 w0 w1 := by unfold pick64; rw [h]; rfl

theorem maj_pickVint96 {w0 w1 w2 : Nat} (h : w0 / 4 % 64 = 32) : pick96 w0 w1 w2 = pickVint96 w0 w1 w2 := by unfold pick96; rw [h]; rfl

theorem maj_pickVflt96 {w0 w1 w2 : Nat} (h : w0 / 4 % 64 = 33) : pick96 w0 w1 w2 = pickVflt96 w0 w1 w2 := by unfold pick96; rw [h]; rfl

theorem maj_pickVbit96 {w0 w1 w2 : Nat} (h : w0 / 4 % 64 = 34) : pick96 w0 w1 w2 = pickVbit96 w0 w1 w2 := by unfold pick96; rw [h]; rfl

theorem maj_pickVcmp96 {w0 w1 w2 : Nat} (h : w0 / 4 % 64 = 35) : pick96 w0 w1 w2 = pickVcmp96 w0 w1 w2 := by unfold pick96; rw [h]; rfl

/-! ## The instructions -/

theorem nop : Statement (.nop) :=
  of1 (qz 0 0) rfl (by unfold qz; omega) (by
    obtain ⟨w0, h0⟩ : ∃ z, z = qz 0 0 := ⟨_, rfl⟩
    rw [← h0]
    unfold qz at h0
    rw [maj_pickSys (show w0 / 4 % 64 = 0 by omega), pickSys, show w0 / 256 % 256 = 0 by omega]
    rfl)

theorem fence (n : BitVec 16) : Statement (.fence n) :=
  of1 (qz 1 n.toNat) rfl (by unfold qz; omega) (by
    obtain ⟨w0, h0⟩ : ∃ z, z = qz 1 n.toNat := ⟨_, rfl⟩
    rw [← h0]
    unfold qz at h0
    rw [maj_pickSys (show w0 / 4 % 64 = 0 by omega), pickSys, show w0 / 256 % 256 = 1 by omega, show BitVec.ofNat 16 (w0 / 65536) = n from ofNat_eq _ (by omega)]
    rfl)

theorem trap (n : BitVec 16) : Statement (.trap n) :=
  of1 (qz 2 n.toNat) rfl (by unfold qz; omega) (by
    obtain ⟨w0, h0⟩ : ∃ z, z = qz 2 n.toNat := ⟨_, rfl⟩
    rw [← h0]
    unfold qz at h0
    rw [maj_pickSys (show w0 / 4 % 64 = 0 by omega), pickSys, show w0 / 256 % 256 = 2 by omega, show BitVec.ofNat 16 (w0 / 65536) = n from ofNat_eq _ (by omega)]
    rfl)

theorem bkpt (n : BitVec 16) : Statement (.bkpt n) :=
  of1 (qz 3 n.toNat) rfl (by unfold qz; omega) (by
    obtain ⟨w0, h0⟩ : ∃ z, z = qz 3 n.toNat := ⟨_, rfl⟩
    rw [← h0]
    unfold qz at h0
    rw [maj_pickSys (show w0 / 4 % 64 = 0 by omega), pickSys, show w0 / 256 % 256 = 3 by omega, show BitVec.ofNat 16 (w0 / 65536) = n from ofNat_eq _ (by omega)]
    rfl)

theorem tret : Statement (.tret) :=
  of1 (qz 4 0) rfl (by unfold qz; omega) (by
    obtain ⟨w0, h0⟩ : ∃ z, z = qz 4 0 := ⟨_, rfl⟩
    rw [← h0]
    unfold qz at h0
    rw [maj_pickSys (show w0 / 4 % 64 = 0 by omega), pickSys, show w0 / 256 % 256 = 4 by omega]
    rfl)

theorem pmret : Statement (.pmret) :=
  of1 (qz 5 0) rfl (by unfold qz; omega) (by
    obtain ⟨w0, h0⟩ : ∃ z, z = qz 5 0 := ⟨_, rfl⟩
    rw [← h0]
    unfold qz at h0
    rw [maj_pickSys (show w0 / 4 % 64 = 0 by omega), pickSys, show w0 / 256 % 256 = 5 by omega]
    rfl)

theorem iflush : Statement (.iflush) :=
  of1 (qz 6 0) rfl (by unfold qz; omega) (by
    obtain ⟨w0, h0⟩ : ∃ z, z = qz 6 0 := ⟨_, rfl⟩
    rw [← h0]
    unfold qz at h0
    rw [maj_pickSys (show w0 / 4 % 64 = 0 by omega), pickSys, show w0 / 256 % 256 = 6 by omega]
    rfl)

theorem yield : Statement (.yield) :=
  of1 (qz 7 0) rfl (by unfold qz; omega) (by
    obtain ⟨w0, h0⟩ : ∃ z, z = qz 7 0 := ⟨_, rfl⟩
    rw [← h0]
    unfold qz at h0
    rw [maj_pickSys (show w0 / 4 % 64 = 0 by omega), pickSys, show w0 / 256 % 256 = 7 by omega]
    rfl)

theorem ill (n : BitVec 16) : Statement (.ill n) :=
  of1 (qz 255 n.toNat) rfl (by unfold qz; omega) (by
    obtain ⟨w0, h0⟩ : ∃ z, z = qz 255 n.toNat := ⟨_, rfl⟩
    rw [← h0]
    unfold qz at h0
    rw [maj_pickSys (show w0 / 4 % 64 = 0 by omega), pickSys, show w0 / 256 % 256 = 255 by omega, show BitVec.ofNat 16 (w0 / 65536) = n from ofNat_eq _ (by omega)]
    rfl)

theorem add (d : Reg) (a : Reg) (b : Reg) : Statement (.add d a b) :=
  of1 (q3 1 0 0 (b.toNat) (a.toNat) (d.toNat)) rfl (q3_len _ _ _ _ _ _ (by decide)) (by
    rw [maj_pickAlu (q3_maj _ _ _ _ _ _ (by decide) (by decide)), pickAlu, q3_fn _ _ _ _ _ _ (by decide) (by decide) b.isLt a.isLt d.isLt, q3_d _ _ _ _ _ _ (by decide), q3_a _ _ _ _ _ _ (by decide) d.isLt, q3_b _ _ _ _ _ _ (by decide) a.isLt d.isLt]
    rfl)

theorem sub (d : Reg) (a : Reg) (b : Reg) : Statement (.sub d a b) :=
  of1 (q3 1 0 1 (b.toNat) (a.toNat) (d.toNat)) rfl (q3_len _ _ _ _ _ _ (by decide)) (by
    rw [maj_pickAlu (q3_maj _ _ _ _ _ _ (by decide) (by decide)), pickAlu, q3_fn _ _ _ _ _ _ (by decide) (by decide) b.isLt a.isLt d.isLt, q3_d _ _ _ _ _ _ (by decide), q3_a _ _ _ _ _ _ (by decide) d.isLt, q3_b _ _ _ _ _ _ (by decide) a.isLt d.isLt]
    rfl)

theorem and (d : Reg) (a : Reg) (b : Reg) : Statement (.and d a b) :=
  of1 (q3 1 0 2 (b.toNat) (a.toNat) (d.toNat)) rfl (q3_len _ _ _ _ _ _ (by decide)) (by
    rw [maj_pickAlu (q3_maj _ _ _ _ _ _ (by decide) (by decide)), pickAlu, q3_fn _ _ _ _ _ _ (by decide) (by decide) b.isLt a.isLt d.isLt, q3_d _ _ _ _ _ _ (by decide), q3_a _ _ _ _ _ _ (by decide) d.isLt, q3_b _ _ _ _ _ _ (by decide) a.isLt d.isLt]
    rfl)

theorem or (d : Reg) (a : Reg) (b : Reg) : Statement (.or d a b) :=
  of1 (q3 1 0 3 (b.toNat) (a.toNat) (d.toNat)) rfl (q3_len _ _ _ _ _ _ (by decide)) (by
    rw [maj_pickAlu (q3_maj _ _ _ _ _ _ (by decide) (by decide)), pickAlu, q3_fn _ _ _ _ _ _ (by decide) (by decide) b.isLt a.isLt d.isLt, q3_d _ _ _ _ _ _ (by decide), q3_a _ _ _ _ _ _ (by decide) d.isLt, q3_b _ _ _ _ _ _ (by decide) a.isLt d.isLt]
    rfl)

theorem xor (d : Reg) (a : Reg) (b : Reg) : Statement (.xor d a b) :=
  of1 (q3 1 0 4 (b.toNat) (a.toNat) (d.toNat)) rfl (q3_len _ _ _ _ _ _ (by decide)) (by
    rw [maj_pickAlu (q3_maj _ _ _ _ _ _ (by decide) (by decide)), pickAlu, q3_fn _ _ _ _ _ _ (by decide) (by decide) b.isLt a.isLt d.isLt, q3_d _ _ _ _ _ _ (by decide), q3_a _ _ _ _ _ _ (by decide) d.isLt, q3_b _ _ _ _ _ _ (by decide) a.isLt d.isLt]
    rfl)

theorem andn (d : Reg) (a : Reg) (b : Reg) : Statement (.andn d a b) :=
  of1 (q3 1 0 5 (b.toNat) (a.toNat) (d.toNat)) rfl (q3_len _ _ _ _ _ _ (by decide)) (by
    rw [maj_pickAlu (q3_maj _ _ _ _ _ _ (by decide) (by decide)), pickAlu, q3_fn _ _ _ _ _ _ (by decide) (by decide) b.isLt a.isLt d.isLt, q3_d _ _ _ _ _ _ (by decide), q3_a _ _ _ _ _ _ (by decide) d.isLt, q3_b _ _ _ _ _ _ (by decide) a.isLt d.isLt]
    rfl)

theorem orn (d : Reg) (a : Reg) (b : Reg) : Statement (.orn d a b) :=
  of1 (q3 1 0 6 (b.toNat) (a.toNat) (d.toNat)) rfl (q3_len _ _ _ _ _ _ (by decide)) (by
    rw [maj_pickAlu (q3_maj _ _ _ _ _ _ (by decide) (by decide)), pickAlu, q3_fn _ _ _ _ _ _ (by decide) (by decide) b.isLt a.isLt d.isLt, q3_d _ _ _ _ _ _ (by decide), q3_a _ _ _ _ _ _ (by decide) d.isLt, q3_b _ _ _ _ _ _ (by decide) a.isLt d.isLt]
    rfl)

theorem xnor (d : Reg) (a : Reg) (b : Reg) : Statement (.xnor d a b) :=
  of1 (q3 1 0 7 (b.toNat) (a.toNat) (d.toNat)) rfl (q3_len _ _ _ _ _ _ (by decide)) (by
    rw [maj_pickAlu (q3_maj _ _ _ _ _ _ (by decide) (by decide)), pickAlu, q3_fn _ _ _ _ _ _ (by decide) (by decide) b.isLt a.isLt d.isLt, q3_d _ _ _ _ _ _ (by decide), q3_a _ _ _ _ _ _ (by decide) d.isLt, q3_b _ _ _ _ _ _ (by decide) a.isLt d.isLt]
    rfl)

theorem shl (d : Reg) (a : Reg) (b : Reg) : Statement (.shl d a b) :=
  of1 (q3 1 0 8 (b.toNat) (a.toNat) (d.toNat)) rfl (q3_len _ _ _ _ _ _ (by decide)) (by
    rw [maj_pickAlu (q3_maj _ _ _ _ _ _ (by decide) (by decide)), pickAlu, q3_fn _ _ _ _ _ _ (by decide) (by decide) b.isLt a.isLt d.isLt, q3_d _ _ _ _ _ _ (by decide), q3_a _ _ _ _ _ _ (by decide) d.isLt, q3_b _ _ _ _ _ _ (by decide) a.isLt d.isLt]
    rfl)

theorem shr (d : Reg) (a : Reg) (b : Reg) : Statement (.shr d a b) :=
  of1 (q3 1 0 9 (b.toNat) (a.toNat) (d.toNat)) rfl (q3_len _ _ _ _ _ _ (by decide)) (by
    rw [maj_pickAlu (q3_maj _ _ _ _ _ _ (by decide) (by decide)), pickAlu, q3_fn _ _ _ _ _ _ (by decide) (by decide) b.isLt a.isLt d.isLt, q3_d _ _ _ _ _ _ (by decide), q3_a _ _ _ _ _ _ (by decide) d.isLt, q3_b _ _ _ _ _ _ (by decide) a.isLt d.isLt]
    rfl)

theorem sra (d : Reg) (a : Reg) (b : Reg) : Statement (.sra d a b) :=
  of1 (q3 1 0 10 (b.toNat) (a.toNat) (d.toNat)) rfl (q3_len _ _ _ _ _ _ (by decide)) (by
    rw [maj_pickAlu (q3_maj _ _ _ _ _ _ (by decide) (by decide)), pickAlu, q3_fn _ _ _ _ _ _ (by decide) (by decide) b.isLt a.isLt d.isLt, q3_d _ _ _ _ _ _ (by decide), q3_a _ _ _ _ _ _ (by decide) d.isLt, q3_b _ _ _ _ _ _ (by decide) a.isLt d.isLt]
    rfl)

theorem rol (d : Reg) (a : Reg) (b : Reg) : Statement (.rol d a b) :=
  of1 (q3 1 0 11 (b.toNat) (a.toNat) (d.toNat)) rfl (q3_len _ _ _ _ _ _ (by decide)) (by
    rw [maj_pickAlu (q3_maj _ _ _ _ _ _ (by decide) (by decide)), pickAlu, q3_fn _ _ _ _ _ _ (by decide) (by decide) b.isLt a.isLt d.isLt, q3_d _ _ _ _ _ _ (by decide), q3_a _ _ _ _ _ _ (by decide) d.isLt, q3_b _ _ _ _ _ _ (by decide) a.isLt d.isLt]
    rfl)

theorem ror (d : Reg) (a : Reg) (b : Reg) : Statement (.ror d a b) :=
  of1 (q3 1 0 12 (b.toNat) (a.toNat) (d.toNat)) rfl (q3_len _ _ _ _ _ _ (by decide)) (by
    rw [maj_pickAlu (q3_maj _ _ _ _ _ _ (by decide) (by decide)), pickAlu, q3_fn _ _ _ _ _ _ (by decide) (by decide) b.isLt a.isLt d.isLt, q3_d _ _ _ _ _ _ (by decide), q3_a _ _ _ _ _ _ (by decide) d.isLt, q3_b _ _ _ _ _ _ (by decide) a.isLt d.isLt]
    rfl)

theorem slt (d : Reg) (a : Reg) (b : Reg) : Statement (.slt d a b) :=
  of1 (q3 1 0 13 (b.toNat) (a.toNat) (d.toNat)) rfl (q3_len _ _ _ _ _ _ (by decide)) (by
    rw [maj_pickAlu (q3_maj _ _ _ _ _ _ (by decide) (by decide)), pickAlu, q3_fn _ _ _ _ _ _ (by decide) (by decide) b.isLt a.isLt d.isLt, q3_d _ _ _ _ _ _ (by decide), q3_a _ _ _ _ _ _ (by decide) d.isLt, q3_b _ _ _ _ _ _ (by decide) a.isLt d.isLt]
    rfl)

theorem sltu (d : Reg) (a : Reg) (b : Reg) : Statement (.sltu d a b) :=
  of1 (q3 1 0 14 (b.toNat) (a.toNat) (d.toNat)) rfl (q3_len _ _ _ _ _ _ (by decide)) (by
    rw [maj_pickAlu (q3_maj _ _ _ _ _ _ (by decide) (by decide)), pickAlu, q3_fn _ _ _ _ _ _ (by decide) (by decide) b.isLt a.isLt d.isLt, q3_d _ _ _ _ _ _ (by decide), q3_a _ _ _ _ _ _ (by decide) d.isLt, q3_b _ _ _ _ _ _ (by decide) a.isLt d.isLt]
    rfl)

theorem seq (d : Reg) (a : Reg) (b : Reg) : Statement (.seq d a b) :=
  of1 (q3 1 0 15 (b.toNat) (a.toNat) (d.toNat)) rfl (q3_len _ _ _ _ _ _ (by decide)) (by
    rw [maj_pickAlu (q3_maj _ _ _ _ _ _ (by decide) (by decide)), pickAlu, q3_fn _ _ _ _ _ _ (by decide) (by decide) b.isLt a.isLt d.isLt, q3_d _ _ _ _ _ _ (by decide), q3_a _ _ _ _ _ _ (by decide) d.isLt, q3_b _ _ _ _ _ _ (by decide) a.isLt d.isLt]
    rfl)

theorem sne (d : Reg) (a : Reg) (b : Reg) : Statement (.sne d a b) :=
  of1 (q3 1 0 16 (b.toNat) (a.toNat) (d.toNat)) rfl (q3_len _ _ _ _ _ _ (by decide)) (by
    rw [maj_pickAlu (q3_maj _ _ _ _ _ _ (by decide) (by decide)), pickAlu, q3_fn _ _ _ _ _ _ (by decide) (by decide) b.isLt a.isLt d.isLt, q3_d _ _ _ _ _ _ (by decide), q3_a _ _ _ _ _ _ (by decide) d.isLt, q3_b _ _ _ _ _ _ (by decide) a.isLt d.isLt]
    rfl)

theorem min (d : Reg) (a : Reg) (b : Reg) : Statement (.min d a b) :=
  of1 (q3 1 0 17 (b.toNat) (a.toNat) (d.toNat)) rfl (q3_len _ _ _ _ _ _ (by decide)) (by
    rw [maj_pickAlu (q3_maj _ _ _ _ _ _ (by decide) (by decide)), pickAlu, q3_fn _ _ _ _ _ _ (by decide) (by decide) b.isLt a.isLt d.isLt, q3_d _ _ _ _ _ _ (by decide), q3_a _ _ _ _ _ _ (by decide) d.isLt, q3_b _ _ _ _ _ _ (by decide) a.isLt d.isLt]
    rfl)

theorem max (d : Reg) (a : Reg) (b : Reg) : Statement (.max d a b) :=
  of1 (q3 1 0 18 (b.toNat) (a.toNat) (d.toNat)) rfl (q3_len _ _ _ _ _ _ (by decide)) (by
    rw [maj_pickAlu (q3_maj _ _ _ _ _ _ (by decide) (by decide)), pickAlu, q3_fn _ _ _ _ _ _ (by decide) (by decide) b.isLt a.isLt d.isLt, q3_d _ _ _ _ _ _ (by decide), q3_a _ _ _ _ _ _ (by decide) d.isLt, q3_b _ _ _ _ _ _ (by decide) a.isLt d.isLt]
    rfl)

theorem minu (d : Reg) (a : Reg) (b : Reg) : Statement (.minu d a b) :=
  of1 (q3 1 0 19 (b.toNat) (a.toNat) (d.toNat)) rfl (q3_len _ _ _ _ _ _ (by decide)) (by
    rw [maj_pickAlu (q3_maj _ _ _ _ _ _ (by decide) (by decide)), pickAlu, q3_fn _ _ _ _ _ _ (by decide) (by decide) b.isLt a.isLt d.isLt, q3_d _ _ _ _ _ _ (by decide), q3_a _ _ _ _ _ _ (by decide) d.isLt, q3_b _ _ _ _ _ _ (by decide) a.isLt d.isLt]
    rfl)

theorem maxu (d : Reg) (a : Reg) (b : Reg) : Statement (.maxu d a b) :=
  of1 (q3 1 0 20 (b.toNat) (a.toNat) (d.toNat)) rfl (q3_len _ _ _ _ _ _ (by decide)) (by
    rw [maj_pickAlu (q3_maj _ _ _ _ _ _ (by decide) (by decide)), pickAlu, q3_fn _ _ _ _ _ _ (by decide) (by decide) b.isLt a.isLt d.isLt, q3_d _ _ _ _ _ _ (by decide), q3_a _ _ _ _ _ _ (by decide) d.isLt, q3_b _ _ _ _ _ _ (by decide) a.isLt d.isLt]
    rfl)

theorem addw (d : Reg) (a : Reg) (b : Reg) : Statement (.addw d a b) :=
  of1 (q3 1 0 21 (b.toNat) (a.toNat) (d.toNat)) rfl (q3_len _ _ _ _ _ _ (by decide)) (by
    rw [maj_pickAlu (q3_maj _ _ _ _ _ _ (by decide) (by decide)), pickAlu, q3_fn _ _ _ _ _ _ (by decide) (by decide) b.isLt a.isLt d.isLt, q3_d _ _ _ _ _ _ (by decide), q3_a _ _ _ _ _ _ (by decide) d.isLt, q3_b _ _ _ _ _ _ (by decide) a.isLt d.isLt]
    rfl)

theorem subw (d : Reg) (a : Reg) (b : Reg) : Statement (.subw d a b) :=
  of1 (q3 1 0 22 (b.toNat) (a.toNat) (d.toNat)) rfl (q3_len _ _ _ _ _ _ (by decide)) (by
    rw [maj_pickAlu (q3_maj _ _ _ _ _ _ (by decide) (by decide)), pickAlu, q3_fn _ _ _ _ _ _ (by decide) (by decide) b.isLt a.isLt d.isLt, q3_d _ _ _ _ _ _ (by decide), q3_a _ _ _ _ _ _ (by decide) d.isLt, q3_b _ _ _ _ _ _ (by decide) a.isLt d.isLt]
    rfl)

theorem shlw (d : Reg) (a : Reg) (b : Reg) : Statement (.shlw d a b) :=
  of1 (q3 1 0 23 (b.toNat) (a.toNat) (d.toNat)) rfl (q3_len _ _ _ _ _ _ (by decide)) (by
    rw [maj_pickAlu (q3_maj _ _ _ _ _ _ (by decide) (by decide)), pickAlu, q3_fn _ _ _ _ _ _ (by decide) (by decide) b.isLt a.isLt d.isLt, q3_d _ _ _ _ _ _ (by decide), q3_a _ _ _ _ _ _ (by decide) d.isLt, q3_b _ _ _ _ _ _ (by decide) a.isLt d.isLt]
    rfl)

theorem shrw (d : Reg) (a : Reg) (b : Reg) : Statement (.shrw d a b) :=
  of1 (q3 1 0 24 (b.toNat) (a.toNat) (d.toNat)) rfl (q3_len _ _ _ _ _ _ (by decide)) (by
    rw [maj_pickAlu (q3_maj _ _ _ _ _ _ (by decide) (by decide)), pickAlu, q3_fn _ _ _ _ _ _ (by decide) (by decide) b.isLt a.isLt d.isLt, q3_d _ _ _ _ _ _ (by decide), q3_a _ _ _ _ _ _ (by decide) d.isLt, q3_b _ _ _ _ _ _ (by decide) a.isLt d.isLt]
    rfl)

theorem sraw (d : Reg) (a : Reg) (b : Reg) : Statement (.sraw d a b) :=
  of1 (q3 1 0 25 (b.toNat) (a.toNat) (d.toNat)) rfl (q3_len _ _ _ _ _ _ (by decide)) (by
    rw [maj_pickAlu (q3_maj _ _ _ _ _ _ (by decide) (by decide)), pickAlu, q3_fn _ _ _ _ _ _ (by decide) (by decide) b.isLt a.isLt d.isLt, q3_d _ _ _ _ _ _ (by decide), q3_a _ _ _ _ _ _ (by decide) d.isLt, q3_b _ _ _ _ _ _ (by decide) a.isLt d.isLt]
    rfl)

theorem addi (d : Reg) (a : Reg) (imm : BitVec 14) : Statement (.addi d a imm) :=
  of1 (qi 2 0 imm.toNat a.toNat d.toNat) rfl (by unfold qi; omega) (by
    obtain ⟨w0, h0⟩ : ∃ z, z = qi 2 0 imm.toNat a.toNat d.toNat := ⟨_, rfl⟩
    rw [← h0]
    unfold qi at h0
    rw [maj_pickAddi (show w0 / 4 % 64 = 2 by omega), pickAddi, show rD w0 = d from ofNat_eq _ (by omega), show rA w0 = a from ofNat_eq _ (by omega), show BitVec.ofNat 14 (w0 / 262144) = imm from ofNat_eq _ (by omega)])

theorem andi (d : Reg) (a : Reg) (imm : BitVec 14) : Statement (.andi d a imm) :=
  of1 (qi 3 0 imm.toNat a.toNat d.toNat) rfl (by unfold qi; omega) (by
    obtain ⟨w0, h0⟩ : ∃ z, z = qi 3 0 imm.toNat a.toNat d.toNat := ⟨_, rfl⟩
    rw [← h0]
    unfold qi at h0
    rw [maj_pickAndi (show w0 / 4 % 64 = 3 by omega), pickAndi, show rD w0 = d from ofNat_eq _ (by omega), show rA w0 = a from ofNat_eq _ (by omega), show BitVec.ofNat 14 (w0 / 262144) = imm from ofNat_eq _ (by omega)])

theorem ori (d : Reg) (a : Reg) (imm : BitVec 14) : Statement (.ori d a imm) :=
  of1 (qi 4 0 imm.toNat a.toNat d.toNat) rfl (by unfold qi; omega) (by
    obtain ⟨w0, h0⟩ : ∃ z, z = qi 4 0 imm.toNat a.toNat d.toNat := ⟨_, rfl⟩
    rw [← h0]
    unfold qi at h0
    rw [maj_pickOri (show w0 / 4 % 64 = 4 by omega), pickOri, show rD w0 = d from ofNat_eq _ (by omega), show rA w0 = a from ofNat_eq _ (by omega), show BitVec.ofNat 14 (w0 / 262144) = imm from ofNat_eq _ (by omega)])

theorem xori (d : Reg) (a : Reg) (imm : BitVec 14) : Statement (.xori d a imm) :=
  of1 (qi 5 0 imm.toNat a.toNat d.toNat) rfl (by unfold qi; omega) (by
    obtain ⟨w0, h0⟩ : ∃ z, z = qi 5 0 imm.toNat a.toNat d.toNat := ⟨_, rfl⟩
    rw [← h0]
    unfold qi at h0
    rw [maj_pickXori (show w0 / 4 % 64 = 5 by omega), pickXori, show rD w0 = d from ofNat_eq _ (by omega), show rA w0 = a from ofNat_eq _ (by omega), show BitVec.ofNat 14 (w0 / 262144) = imm from ofNat_eq _ (by omega)])

theorem shli (d : Reg) (a : Reg) (n : BitVec 6) : Statement (.shli d a n) :=
  of1 (qi 6 0 (n.toNat + 64 * 0) a.toNat d.toNat) rfl (by unfold qi; omega) (by
    obtain ⟨w0, h0⟩ : ∃ z, z = qi 6 0 (n.toNat + 64 * 0) a.toNat d.toNat := ⟨_, rfl⟩
    rw [← h0]
    unfold qi at h0
    rw [maj_pickShi (show w0 / 4 % 64 = 6 by omega), pickShi, show w0 / 16777216 % 8 = 0 by omega, show rD w0 = d from ofNat_eq _ (by omega), show rA w0 = a from ofNat_eq _ (by omega), show BitVec.ofNat 6 (w0 / 262144) = n from ofNat_eq _ (by omega)]
    rfl)

theorem shri (d : Reg) (a : Reg) (n : BitVec 6) : Statement (.shri d a n) :=
  of1 (qi 6 0 (n.toNat + 64 * 1) a.toNat d.toNat) rfl (by unfold qi; omega) (by
    obtain ⟨w0, h0⟩ : ∃ z, z = qi 6 0 (n.toNat + 64 * 1) a.toNat d.toNat := ⟨_, rfl⟩
    rw [← h0]
    unfold qi at h0
    rw [maj_pickShi (show w0 / 4 % 64 = 6 by omega), pickShi, show w0 / 16777216 % 8 = 1 by omega, show rD w0 = d from ofNat_eq _ (by omega), show rA w0 = a from ofNat_eq _ (by omega), show BitVec.ofNat 6 (w0 / 262144) = n from ofNat_eq _ (by omega)]
    rfl)

theorem srai (d : Reg) (a : Reg) (n : BitVec 6) : Statement (.srai d a n) :=
  of1 (qi 6 0 (n.toNat + 64 * 2) a.toNat d.toNat) rfl (by unfold qi; omega) (by
    obtain ⟨w0, h0⟩ : ∃ z, z = qi 6 0 (n.toNat + 64 * 2) a.toNat d.toNat := ⟨_, rfl⟩
    rw [← h0]
    unfold qi at h0
    rw [maj_pickShi (show w0 / 4 % 64 = 6 by omega), pickShi, show w0 / 16777216 % 8 = 2 by omega, show rD w0 = d from ofNat_eq _ (by omega), show rA w0 = a from ofNat_eq _ (by omega), show BitVec.ofNat 6 (w0 / 262144) = n from ofNat_eq _ (by omega)]
    rfl)

theorem roli (d : Reg) (a : Reg) (n : BitVec 6) : Statement (.roli d a n) :=
  of1 (qi 6 0 (n.toNat + 64 * 3) a.toNat d.toNat) rfl (by unfold qi; omega) (by
    obtain ⟨w0, h0⟩ : ∃ z, z = qi 6 0 (n.toNat + 64 * 3) a.toNat d.toNat := ⟨_, rfl⟩
    rw [← h0]
    unfold qi at h0
    rw [maj_pickShi (show w0 / 4 % 64 = 6 by omega), pickShi, show w0 / 16777216 % 8 = 3 by omega, show rD w0 = d from ofNat_eq _ (by omega), show rA w0 = a from ofNat_eq _ (by omega), show BitVec.ofNat 6 (w0 / 262144) = n from ofNat_eq _ (by omega)]
    rfl)

theorem rori (d : Reg) (a : Reg) (n : BitVec 6) : Statement (.rori d a n) :=
  of1 (qi 6 0 (n.toNat + 64 * 4) a.toNat d.toNat) rfl (by unfold qi; omega) (by
    obtain ⟨w0, h0⟩ : ∃ z, z = qi 6 0 (n.toNat + 64 * 4) a.toNat d.toNat := ⟨_, rfl⟩
    rw [← h0]
    unfold qi at h0
    rw [maj_pickShi (show w0 / 4 % 64 = 6 by omega), pickShi, show w0 / 16777216 % 8 = 4 by omega, show rD w0 = d from ofNat_eq _ (by omega), show rA w0 = a from ofNat_eq _ (by omega), show BitVec.ofNat 6 (w0 / 262144) = n from ofNat_eq _ (by omega)]
    rfl)

theorem slti (d : Reg) (a : Reg) (imm : BitVec 11) : Statement (.slti d a imm) :=
  of1 (qi 7 0 (imm.toNat + 2048 * 0) a.toNat d.toNat) rfl (by unfold qi; omega) (by
    obtain ⟨w0, h0⟩ : ∃ z, z = qi 7 0 (imm.toNat + 2048 * 0) a.toNat d.toNat := ⟨_, rfl⟩
    rw [← h0]
    unfold qi at h0
    rw [maj_pickCmpi (show w0 / 4 % 64 = 7 by omega), pickCmpi, show w0 / 536870912 % 8 = 0 by omega, show rD w0 = d from ofNat_eq _ (by omega), show rA w0 = a from ofNat_eq _ (by omega), show BitVec.ofNat 11 (w0 / 262144) = imm from ofNat_eq _ (by omega)]
    rfl)

theorem sltui (d : Reg) (a : Reg) (imm : BitVec 11) : Statement (.sltui d a imm) :=
  of1 (qi 7 0 (imm.toNat + 2048 * 1) a.toNat d.toNat) rfl (by unfold qi; omega) (by
    obtain ⟨w0, h0⟩ : ∃ z, z = qi 7 0 (imm.toNat + 2048 * 1) a.toNat d.toNat := ⟨_, rfl⟩
    rw [← h0]
    unfold qi at h0
    rw [maj_pickCmpi (show w0 / 4 % 64 = 7 by omega), pickCmpi, show w0 / 536870912 % 8 = 1 by omega, show rD w0 = d from ofNat_eq _ (by omega), show rA w0 = a from ofNat_eq _ (by omega), show BitVec.ofNat 11 (w0 / 262144) = imm from ofNat_eq _ (by omega)]
    rfl)

theorem seqi (d : Reg) (a : Reg) (imm : BitVec 11) : Statement (.seqi d a imm) :=
  of1 (qi 7 0 (imm.toNat + 2048 * 2) a.toNat d.toNat) rfl (by unfold qi; omega) (by
    obtain ⟨w0, h0⟩ : ∃ z, z = qi 7 0 (imm.toNat + 2048 * 2) a.toNat d.toNat := ⟨_, rfl⟩
    rw [← h0]
    unfold qi at h0
    rw [maj_pickCmpi (show w0 / 4 % 64 = 7 by omega), pickCmpi, show w0 / 536870912 % 8 = 2 by omega, show rD w0 = d from ofNat_eq _ (by omega), show rA w0 = a from ofNat_eq _ (by omega), show BitVec.ofNat 11 (w0 / 262144) = imm from ofNat_eq _ (by omega)]
    rfl)

theorem snei (d : Reg) (a : Reg) (imm : BitVec 11) : Statement (.snei d a imm) :=
  of1 (qi 7 0 (imm.toNat + 2048 * 3) a.toNat d.toNat) rfl (by unfold qi; omega) (by
    obtain ⟨w0, h0⟩ : ∃ z, z = qi 7 0 (imm.toNat + 2048 * 3) a.toNat d.toNat := ⟨_, rfl⟩
    rw [← h0]
    unfold qi at h0
    rw [maj_pickCmpi (show w0 / 4 % 64 = 7 by omega), pickCmpi, show w0 / 536870912 % 8 = 3 by omega, show rD w0 = d from ofNat_eq _ (by omega), show rA w0 = a from ofNat_eq _ (by omega), show BitVec.ofNat 11 (w0 / 262144) = imm from ofNat_eq _ (by omega)]
    rfl)

theorem ldb (d : Reg) (a : Reg) (off : BitVec 11) : Statement (.ldb d a off) :=
  of1 (qs 8 0 off.toNat 0 a.toNat d.toNat) rfl (by unfold qs; omega) (by
    obtain ⟨w0, h0⟩ : ∃ z, z = qs 8 0 off.toNat 0 a.toNat d.toNat := ⟨_, rfl⟩
    rw [← h0]
    unfold qs at h0
    rw [maj_pickLd (show w0 / 4 % 64 = 8 by omega), pickLd, show w0 / 262144 % 8 = 0 by omega, show rD w0 = d from ofNat_eq _ (by omega), show rA w0 = a from ofNat_eq _ (by omega), show BitVec.ofNat 11 (w0 / 2097152) = off from ofNat_eq _ (by omega)]
    rfl)

theorem ldh (d : Reg) (a : Reg) (off : BitVec 11) : Statement (.ldh d a off) :=
  of1 (qs 8 0 off.toNat 1 a.toNat d.toNat) rfl (by unfold qs; omega) (by
    obtain ⟨w0, h0⟩ : ∃ z, z = qs 8 0 off.toNat 1 a.toNat d.toNat := ⟨_, rfl⟩
    rw [← h0]
    unfold qs at h0
    rw [maj_pickLd (show w0 / 4 % 64 = 8 by omega), pickLd, show w0 / 262144 % 8 = 1 by omega, show rD w0 = d from ofNat_eq _ (by omega), show rA w0 = a from ofNat_eq _ (by omega), show BitVec.ofNat 11 (w0 / 2097152) = off from ofNat_eq _ (by omega)]
    rfl)

theorem ldw (d : Reg) (a : Reg) (off : BitVec 11) : Statement (.ldw d a off) :=
  of1 (qs 8 0 off.toNat 2 a.toNat d.toNat) rfl (by unfold qs; omega) (by
    obtain ⟨w0, h0⟩ : ∃ z, z = qs 8 0 off.toNat 2 a.toNat d.toNat := ⟨_, rfl⟩
    rw [← h0]
    unfold qs at h0
    rw [maj_pickLd (show w0 / 4 % 64 = 8 by omega), pickLd, show w0 / 262144 % 8 = 2 by omega, show rD w0 = d from ofNat_eq _ (by omega), show rA w0 = a from ofNat_eq _ (by omega), show BitVec.ofNat 11 (w0 / 2097152) = off from ofNat_eq _ (by omega)]
    rfl)

theorem ldd (d : Reg) (a : Reg) (off : BitVec 11) : Statement (.ldd d a off) :=
  of1 (qs 8 0 off.toNat 3 a.toNat d.toNat) rfl (by unfold qs; omega) (by
    obtain ⟨w0, h0⟩ : ∃ z, z = qs 8 0 off.toNat 3 a.toNat d.toNat := ⟨_, rfl⟩
    rw [← h0]
    unfold qs at h0
    rw [maj_pickLd (show w0 / 4 % 64 = 8 by omega), pickLd, show w0 / 262144 % 8 = 3 by omega, show rD w0 = d from ofNat_eq _ (by omega), show rA w0 = a from ofNat_eq _ (by omega), show BitVec.ofNat 11 (w0 / 2097152) = off from ofNat_eq _ (by omega)]
    rfl)

theorem ldbz (d : Reg) (a : Reg) (off : BitVec 11) : Statement (.ldbz d a off) :=
  of1 (qs 8 0 off.toNat 4 a.toNat d.toNat) rfl (by unfold qs; omega) (by
    obtain ⟨w0, h0⟩ : ∃ z, z = qs 8 0 off.toNat 4 a.toNat d.toNat := ⟨_, rfl⟩
    rw [← h0]
    unfold qs at h0
    rw [maj_pickLd (show w0 / 4 % 64 = 8 by omega), pickLd, show w0 / 262144 % 8 = 4 by omega, show rD w0 = d from ofNat_eq _ (by omega), show rA w0 = a from ofNat_eq _ (by omega), show BitVec.ofNat 11 (w0 / 2097152) = off from ofNat_eq _ (by omega)]
    rfl)

theorem ldhz (d : Reg) (a : Reg) (off : BitVec 11) : Statement (.ldhz d a off) :=
  of1 (qs 8 0 off.toNat 5 a.toNat d.toNat) rfl (by unfold qs; omega) (by
    obtain ⟨w0, h0⟩ : ∃ z, z = qs 8 0 off.toNat 5 a.toNat d.toNat := ⟨_, rfl⟩
    rw [← h0]
    unfold qs at h0
    rw [maj_pickLd (show w0 / 4 % 64 = 8 by omega), pickLd, show w0 / 262144 % 8 = 5 by omega, show rD w0 = d from ofNat_eq _ (by omega), show rA w0 = a from ofNat_eq _ (by omega), show BitVec.ofNat 11 (w0 / 2097152) = off from ofNat_eq _ (by omega)]
    rfl)

theorem ldwz (d : Reg) (a : Reg) (off : BitVec 11) : Statement (.ldwz d a off) :=
  of1 (qs 8 0 off.toNat 6 a.toNat d.toNat) rfl (by unfold qs; omega) (by
    obtain ⟨w0, h0⟩ : ∃ z, z = qs 8 0 off.toNat 6 a.toNat d.toNat := ⟨_, rfl⟩
    rw [← h0]
    unfold qs at h0
    rw [maj_pickLd (show w0 / 4 % 64 = 8 by omega), pickLd, show w0 / 262144 % 8 = 6 by omega, show rD w0 = d from ofNat_eq _ (by omega), show rA w0 = a from ofNat_eq _ (by omega), show BitVec.ofNat 11 (w0 / 2097152) = off from ofNat_eq _ (by omega)]
    rfl)

theorem stb (b : Reg) (a : Reg) (off : BitVec 11) : Statement (.stb b a off) :=
  of1 (qs 9 0 off.toNat 0 a.toNat b.toNat) rfl (by unfold qs; omega) (by
    obtain ⟨w0, h0⟩ : ∃ z, z = qs 9 0 off.toNat 0 a.toNat b.toNat := ⟨_, rfl⟩
    rw [← h0]
    unfold qs at h0
    rw [maj_pickSt (show w0 / 4 % 64 = 9 by omega), pickSt, show w0 / 262144 % 8 = 0 by omega, show rD w0 = b from ofNat_eq _ (by omega), show rA w0 = a from ofNat_eq _ (by omega), show BitVec.ofNat 11 (w0 / 2097152) = off from ofNat_eq _ (by omega)]
    rfl)

theorem sth (b : Reg) (a : Reg) (off : BitVec 11) : Statement (.sth b a off) :=
  of1 (qs 9 0 off.toNat 1 a.toNat b.toNat) rfl (by unfold qs; omega) (by
    obtain ⟨w0, h0⟩ : ∃ z, z = qs 9 0 off.toNat 1 a.toNat b.toNat := ⟨_, rfl⟩
    rw [← h0]
    unfold qs at h0
    rw [maj_pickSt (show w0 / 4 % 64 = 9 by omega), pickSt, show w0 / 262144 % 8 = 1 by omega, show rD w0 = b from ofNat_eq _ (by omega), show rA w0 = a from ofNat_eq _ (by omega), show BitVec.ofNat 11 (w0 / 2097152) = off from ofNat_eq _ (by omega)]
    rfl)

theorem stw (b : Reg) (a : Reg) (off : BitVec 11) : Statement (.stw b a off) :=
  of1 (qs 9 0 off.toNat 2 a.toNat b.toNat) rfl (by unfold qs; omega) (by
    obtain ⟨w0, h0⟩ : ∃ z, z = qs 9 0 off.toNat 2 a.toNat b.toNat := ⟨_, rfl⟩
    rw [← h0]
    unfold qs at h0
    rw [maj_pickSt (show w0 / 4 % 64 = 9 by omega), pickSt, show w0 / 262144 % 8 = 2 by omega, show rD w0 = b from ofNat_eq _ (by omega), show rA w0 = a from ofNat_eq _ (by omega), show BitVec.ofNat 11 (w0 / 2097152) = off from ofNat_eq _ (by omega)]
    rfl)

theorem std (b : Reg) (a : Reg) (off : BitVec 11) : Statement (.std b a off) :=
  of1 (qs 9 0 off.toNat 3 a.toNat b.toNat) rfl (by unfold qs; omega) (by
    obtain ⟨w0, h0⟩ : ∃ z, z = qs 9 0 off.toNat 3 a.toNat b.toNat := ⟨_, rfl⟩
    rw [← h0]
    unfold qs at h0
    rw [maj_pickSt (show w0 / 4 % 64 = 9 by omega), pickSt, show w0 / 262144 % 8 = 3 by omega, show rD w0 = b from ofNat_eq _ (by omega), show rA w0 = a from ofNat_eq _ (by omega), show BitVec.ofNat 11 (w0 / 2097152) = off from ofNat_eq _ (by omega)]
    rfl)

theorem beq (a : Reg) (b : Reg) (off : BitVec 11) : Statement (.beq a b off) :=
  of1 (qs 10 0 off.toNat 0 b.toNat a.toNat) rfl (by unfold qs; omega) (by
    obtain ⟨w0, h0⟩ : ∃ z, z = qs 10 0 off.toNat 0 b.toNat a.toNat := ⟨_, rfl⟩
    rw [← h0]
    unfold qs at h0
    rw [maj_pickBr (show w0 / 4 % 64 = 10 by omega), pickBr, show w0 / 262144 % 8 = 0 by omega, show rD w0 = a from ofNat_eq _ (by omega), show rA w0 = b from ofNat_eq _ (by omega), show BitVec.ofNat 11 (w0 / 2097152) = off from ofNat_eq _ (by omega)]
    rfl)

theorem bne (a : Reg) (b : Reg) (off : BitVec 11) : Statement (.bne a b off) :=
  of1 (qs 10 0 off.toNat 1 b.toNat a.toNat) rfl (by unfold qs; omega) (by
    obtain ⟨w0, h0⟩ : ∃ z, z = qs 10 0 off.toNat 1 b.toNat a.toNat := ⟨_, rfl⟩
    rw [← h0]
    unfold qs at h0
    rw [maj_pickBr (show w0 / 4 % 64 = 10 by omega), pickBr, show w0 / 262144 % 8 = 1 by omega, show rD w0 = a from ofNat_eq _ (by omega), show rA w0 = b from ofNat_eq _ (by omega), show BitVec.ofNat 11 (w0 / 2097152) = off from ofNat_eq _ (by omega)]
    rfl)

theorem blt (a : Reg) (b : Reg) (off : BitVec 11) : Statement (.blt a b off) :=
  of1 (qs 10 0 off.toNat 2 b.toNat a.toNat) rfl (by unfold qs; omega) (by
    obtain ⟨w0, h0⟩ : ∃ z, z = qs 10 0 off.toNat 2 b.toNat a.toNat := ⟨_, rfl⟩
    rw [← h0]
    unfold qs at h0
    rw [maj_pickBr (show w0 / 4 % 64 = 10 by omega), pickBr, show w0 / 262144 % 8 = 2 by omega, show rD w0 = a from ofNat_eq _ (by omega), show rA w0 = b from ofNat_eq _ (by omega), show BitVec.ofNat 11 (w0 / 2097152) = off from ofNat_eq _ (by omega)]
    rfl)

theorem bge (a : Reg) (b : Reg) (off : BitVec 11) : Statement (.bge a b off) :=
  of1 (qs 10 0 off.toNat 3 b.toNat a.toNat) rfl (by unfold qs; omega) (by
    obtain ⟨w0, h0⟩ : ∃ z, z = qs 10 0 off.toNat 3 b.toNat a.toNat := ⟨_, rfl⟩
    rw [← h0]
    unfold qs at h0
    rw [maj_pickBr (show w0 / 4 % 64 = 10 by omega), pickBr, show w0 / 262144 % 8 = 3 by omega, show rD w0 = a from ofNat_eq _ (by omega), show rA w0 = b from ofNat_eq _ (by omega), show BitVec.ofNat 11 (w0 / 2097152) = off from ofNat_eq _ (by omega)]
    rfl)

theorem bltu (a : Reg) (b : Reg) (off : BitVec 11) : Statement (.bltu a b off) :=
  of1 (qs 10 0 off.toNat 4 b.toNat a.toNat) rfl (by unfold qs; omega) (by
    obtain ⟨w0, h0⟩ : ∃ z, z = qs 10 0 off.toNat 4 b.toNat a.toNat := ⟨_, rfl⟩
    rw [← h0]
    unfold qs at h0
    rw [maj_pickBr (show w0 / 4 % 64 = 10 by omega), pickBr, show w0 / 262144 % 8 = 4 by omega, show rD w0 = a from ofNat_eq _ (by omega), show rA w0 = b from ofNat_eq _ (by omega), show BitVec.ofNat 11 (w0 / 2097152) = off from ofNat_eq _ (by omega)]
    rfl)

theorem bgeu (a : Reg) (b : Reg) (off : BitVec 11) : Statement (.bgeu a b off) :=
  of1 (qs 10 0 off.toNat 5 b.toNat a.toNat) rfl (by unfold qs; omega) (by
    obtain ⟨w0, h0⟩ : ∃ z, z = qs 10 0 off.toNat 5 b.toNat a.toNat := ⟨_, rfl⟩
    rw [← h0]
    unfold qs at h0
    rw [maj_pickBr (show w0 / 4 % 64 = 10 by omega), pickBr, show w0 / 262144 % 8 = 5 by omega, show rD w0 = a from ofNat_eq _ (by omega), show rA w0 = b from ofNat_eq _ (by omega), show BitVec.ofNat 11 (w0 / 2097152) = off from ofNat_eq _ (by omega)]
    rfl)

theorem bbs (a : Reg) (b : Reg) (off : BitVec 11) : Statement (.bbs a b off) :=
  of1 (qs 10 0 off.toNat 6 b.toNat a.toNat) rfl (by unfold qs; omega) (by
    obtain ⟨w0, h0⟩ : ∃ z, z = qs 10 0 off.toNat 6 b.toNat a.toNat := ⟨_, rfl⟩
    rw [← h0]
    unfold qs at h0
    rw [maj_pickBr (show w0 / 4 % 64 = 10 by omega), pickBr, show w0 / 262144 % 8 = 6 by omega, show rD w0 = a from ofNat_eq _ (by omega), show rA w0 = b from ofNat_eq _ (by omega), show BitVec.ofNat 11 (w0 / 2097152) = off from ofNat_eq _ (by omega)]
    rfl)

theorem bbc (a : Reg) (b : Reg) (off : BitVec 11) : Statement (.bbc a b off) :=
  of1 (qs 10 0 off.toNat 7 b.toNat a.toNat) rfl (by unfold qs; omega) (by
    obtain ⟨w0, h0⟩ : ∃ z, z = qs 10 0 off.toNat 7 b.toNat a.toNat := ⟨_, rfl⟩
    rw [← h0]
    unfold qs at h0
    rw [maj_pickBr (show w0 / 4 % 64 = 10 by omega), pickBr, show w0 / 262144 % 8 = 7 by omega, show rD w0 = a from ofNat_eq _ (by omega), show rA w0 = b from ofNat_eq _ (by omega), show BitVec.ofNat 11 (w0 / 2097152) = off from ofNat_eq _ (by omega)]
    rfl)

theorem beqLong (a : Reg) (b : Reg) (off : BitVec 32) : Statement (.beqLong a b off) :=
  of2 (qs 10 1 0 0 b.toNat a.toNat) off.toNat rfl (by unfold qs; omega) (by
    obtain ⟨w0, h0⟩ : ∃ z, z = qs 10 1 0 0 b.toNat a.toNat := ⟨_, rfl⟩
    rw [← h0]
    unfold qs at h0
    obtain ⟨w1, h1⟩ : ∃ z, z = off.toNat := ⟨_, rfl⟩
    rw [← h1]
    rw [maj_pickBr64 (show w0 / 4 % 64 = 10 by omega), pickBr64, show w0 / 262144 % 8 = 0 by omega, show rD w0 = a from ofNat_eq _ (by omega), show rA w0 = b from ofNat_eq _ (by omega), show BitVec.ofNat 32 w1 = off from ofNat_eq _ (by omega)]
    rfl)

theorem bneLong (a : Reg) (b : Reg) (off : BitVec 32) : Statement (.bneLong a b off) :=
  of2 (qs 10 1 0 1 b.toNat a.toNat) off.toNat rfl (by unfold qs; omega) (by
    obtain ⟨w0, h0⟩ : ∃ z, z = qs 10 1 0 1 b.toNat a.toNat := ⟨_, rfl⟩
    rw [← h0]
    unfold qs at h0
    obtain ⟨w1, h1⟩ : ∃ z, z = off.toNat := ⟨_, rfl⟩
    rw [← h1]
    rw [maj_pickBr64 (show w0 / 4 % 64 = 10 by omega), pickBr64, show w0 / 262144 % 8 = 1 by omega, show rD w0 = a from ofNat_eq _ (by omega), show rA w0 = b from ofNat_eq _ (by omega), show BitVec.ofNat 32 w1 = off from ofNat_eq _ (by omega)]
    rfl)

theorem bltLong (a : Reg) (b : Reg) (off : BitVec 32) : Statement (.bltLong a b off) :=
  of2 (qs 10 1 0 2 b.toNat a.toNat) off.toNat rfl (by unfold qs; omega) (by
    obtain ⟨w0, h0⟩ : ∃ z, z = qs 10 1 0 2 b.toNat a.toNat := ⟨_, rfl⟩
    rw [← h0]
    unfold qs at h0
    obtain ⟨w1, h1⟩ : ∃ z, z = off.toNat := ⟨_, rfl⟩
    rw [← h1]
    rw [maj_pickBr64 (show w0 / 4 % 64 = 10 by omega), pickBr64, show w0 / 262144 % 8 = 2 by omega, show rD w0 = a from ofNat_eq _ (by omega), show rA w0 = b from ofNat_eq _ (by omega), show BitVec.ofNat 32 w1 = off from ofNat_eq _ (by omega)]
    rfl)

theorem bgeLong (a : Reg) (b : Reg) (off : BitVec 32) : Statement (.bgeLong a b off) :=
  of2 (qs 10 1 0 3 b.toNat a.toNat) off.toNat rfl (by unfold qs; omega) (by
    obtain ⟨w0, h0⟩ : ∃ z, z = qs 10 1 0 3 b.toNat a.toNat := ⟨_, rfl⟩
    rw [← h0]
    unfold qs at h0
    obtain ⟨w1, h1⟩ : ∃ z, z = off.toNat := ⟨_, rfl⟩
    rw [← h1]
    rw [maj_pickBr64 (show w0 / 4 % 64 = 10 by omega), pickBr64, show w0 / 262144 % 8 = 3 by omega, show rD w0 = a from ofNat_eq _ (by omega), show rA w0 = b from ofNat_eq _ (by omega), show BitVec.ofNat 32 w1 = off from ofNat_eq _ (by omega)]
    rfl)

theorem bltuLong (a : Reg) (b : Reg) (off : BitVec 32) : Statement (.bltuLong a b off) :=
  of2 (qs 10 1 0 4 b.toNat a.toNat) off.toNat rfl (by unfold qs; omega) (by
    obtain ⟨w0, h0⟩ : ∃ z, z = qs 10 1 0 4 b.toNat a.toNat := ⟨_, rfl⟩
    rw [← h0]
    unfold qs at h0
    obtain ⟨w1, h1⟩ : ∃ z, z = off.toNat := ⟨_, rfl⟩
    rw [← h1]
    rw [maj_pickBr64 (show w0 / 4 % 64 = 10 by omega), pickBr64, show w0 / 262144 % 8 = 4 by omega, show rD w0 = a from ofNat_eq _ (by omega), show rA w0 = b from ofNat_eq _ (by omega), show BitVec.ofNat 32 w1 = off from ofNat_eq _ (by omega)]
    rfl)

theorem bgeuLong (a : Reg) (b : Reg) (off : BitVec 32) : Statement (.bgeuLong a b off) :=
  of2 (qs 10 1 0 5 b.toNat a.toNat) off.toNat rfl (by unfold qs; omega) (by
    obtain ⟨w0, h0⟩ : ∃ z, z = qs 10 1 0 5 b.toNat a.toNat := ⟨_, rfl⟩
    rw [← h0]
    unfold qs at h0
    obtain ⟨w1, h1⟩ : ∃ z, z = off.toNat := ⟨_, rfl⟩
    rw [← h1]
    rw [maj_pickBr64 (show w0 / 4 % 64 = 10 by omega), pickBr64, show w0 / 262144 % 8 = 5 by omega, show rD w0 = a from ofNat_eq _ (by omega), show rA w0 = b from ofNat_eq _ (by omega), show BitVec.ofNat 32 w1 = off from ofNat_eq _ (by omega)]
    rfl)

theorem bbsLong (a : Reg) (b : Reg) (off : BitVec 32) : Statement (.bbsLong a b off) :=
  of2 (qs 10 1 0 6 b.toNat a.toNat) off.toNat rfl (by unfold qs; omega) (by
    obtain ⟨w0, h0⟩ : ∃ z, z = qs 10 1 0 6 b.toNat a.toNat := ⟨_, rfl⟩
    rw [← h0]
    unfold qs at h0
    obtain ⟨w1, h1⟩ : ∃ z, z = off.toNat := ⟨_, rfl⟩
    rw [← h1]
    rw [maj_pickBr64 (show w0 / 4 % 64 = 10 by omega), pickBr64, show w0 / 262144 % 8 = 6 by omega, show rD w0 = a from ofNat_eq _ (by omega), show rA w0 = b from ofNat_eq _ (by omega), show BitVec.ofNat 32 w1 = off from ofNat_eq _ (by omega)]
    rfl)

theorem bbcLong (a : Reg) (b : Reg) (off : BitVec 32) : Statement (.bbcLong a b off) :=
  of2 (qs 10 1 0 7 b.toNat a.toNat) off.toNat rfl (by unfold qs; omega) (by
    obtain ⟨w0, h0⟩ : ∃ z, z = qs 10 1 0 7 b.toNat a.toNat := ⟨_, rfl⟩
    rw [← h0]
    unfold qs at h0
    obtain ⟨w1, h1⟩ : ∃ z, z = off.toNat := ⟨_, rfl⟩
    rw [← h1]
    rw [maj_pickBr64 (show w0 / 4 % 64 = 10 by omega), pickBr64, show w0 / 262144 % 8 = 7 by omega, show rD w0 = a from ofNat_eq _ (by omega), show rA w0 = b from ofNat_eq _ (by omega), show BitVec.ofNat 32 w1 = off from ofNat_eq _ (by omega)]
    rfl)

theorem j (off : BitVec 19) : Statement (.j off) :=
  of1 (qj 0 off.toNat 0) rfl (by unfold qj; omega) (by
    obtain ⟨w0, h0⟩ : ∃ z, z = qj 0 off.toNat 0 := ⟨_, rfl⟩
    rw [← h0]
    unfold qj at h0
    rw [maj_pickJal (show w0 / 4 % 64 = 11 by omega), pickJal, show w0 / 256 % 2 = 0 by omega, show BitVec.ofNat 19 (w0 / 8192) = off from ofNat_eq _ (by omega)]
    rfl)

theorem jal (off : BitVec 19) : Statement (.jal off) :=
  of1 (qj 0 off.toNat 1) rfl (by unfold qj; omega) (by
    obtain ⟨w0, h0⟩ : ∃ z, z = qj 0 off.toNat 1 := ⟨_, rfl⟩
    rw [← h0]
    unfold qj at h0
    rw [maj_pickJal (show w0 / 4 % 64 = 11 by omega), pickJal, show w0 / 256 % 2 = 1 by omega, show BitVec.ofNat 19 (w0 / 8192) = off from ofNat_eq _ (by omega)]
    rfl)

theorem jLong (off : BitVec 32) : Statement (.jLong off) :=
  of2 (qj 1 0 0) off.toNat rfl (by unfold qj; omega) (by
    obtain ⟨w0, h0⟩ : ∃ z, z = qj 1 0 0 := ⟨_, rfl⟩
    rw [← h0]
    unfold qj at h0
    obtain ⟨w1, h1⟩ : ∃ z, z = off.toNat := ⟨_, rfl⟩
    rw [← h1]
    rw [maj_pickJal64 (show w0 / 4 % 64 = 11 by omega), pickJal64, show w0 / 256 % 2 = 0 by omega, show BitVec.ofNat 32 w1 = off from ofNat_eq _ (by omega)]
    rfl)

theorem jalLong (off : BitVec 32) : Statement (.jalLong off) :=
  of2 (qj 1 0 1) off.toNat rfl (by unfold qj; omega) (by
    obtain ⟨w0, h0⟩ : ∃ z, z = qj 1 0 1 := ⟨_, rfl⟩
    rw [← h0]
    unfold qj at h0
    obtain ⟨w1, h1⟩ : ∃ z, z = off.toNat := ⟨_, rfl⟩
    rw [← h1]
    rw [maj_pickJal64 (show w0 / 4 % 64 = 11 by omega), pickJal64, show w0 / 256 % 2 = 1 by omega, show BitVec.ofNat 32 w1 = off from ofNat_eq _ (by omega)]
    rfl)

theorem jr (a : Reg) (imm : BitVec 14) : Statement (.jr a imm) :=
  of1 (qi 12 0 imm.toNat a.toNat 0) rfl (by unfold qi; omega) (by
    obtain ⟨w0, h0⟩ : ∃ z, z = qi 12 0 imm.toNat a.toNat 0 := ⟨_, rfl⟩
    rw [← h0]
    unfold qi at h0
    rw [maj_pickJalr (show w0 / 4 % 64 = 12 by omega), pickJalr, show w0 / 256 % 32 = 0 by omega, show rA w0 = a from ofNat_eq _ (by omega), show BitVec.ofNat 14 (w0 / 262144) = imm from ofNat_eq _ (by omega)]
    rfl)

theorem jalr (a : Reg) (imm : BitVec 14) : Statement (.jalr a imm) :=
  of1 (qi 12 0 imm.toNat a.toNat 1) rfl (by unfold qi; omega) (by
    obtain ⟨w0, h0⟩ : ∃ z, z = qi 12 0 imm.toNat a.toNat 1 := ⟨_, rfl⟩
    rw [← h0]
    unfold qi at h0
    rw [maj_pickJalr (show w0 / 4 % 64 = 12 by omega), pickJalr, show w0 / 256 % 32 = 1 by omega, show rA w0 = a from ofNat_eq _ (by omega), show BitVec.ofNat 14 (w0 / 262144) = imm from ofNat_eq _ (by omega)]
    rfl)

theorem jtab (a : Reg) (b : Reg) : Statement (.jtab a b) :=
  of1 (q3 13 0 0 (b.toNat) (a.toNat) (0)) rfl (q3_len _ _ _ _ _ _ (by decide)) (by
    rw [maj_pickJtab (q3_maj _ _ _ _ _ _ (by decide) (by decide)), pickJtab, q3_fn _ _ _ _ _ _ (by decide) (by decide) b.isLt a.isLt (by decide), q3_a _ _ _ _ _ _ (by decide) (by decide), q3_b _ _ _ _ _ _ (by decide) a.isLt (by decide)]
    rfl)

theorem mul (d : Reg) (a : Reg) (b : Reg) : Statement (.mul d a b) :=
  of1 (q3 14 0 0 (b.toNat) (a.toNat) (d.toNat)) rfl (q3_len _ _ _ _ _ _ (by decide)) (by
    rw [maj_pickMuldiv (q3_maj _ _ _ _ _ _ (by decide) (by decide)), pickMuldiv, q3_fn _ _ _ _ _ _ (by decide) (by decide) b.isLt a.isLt d.isLt, q3_d _ _ _ _ _ _ (by decide), q3_a _ _ _ _ _ _ (by decide) d.isLt, q3_b _ _ _ _ _ _ (by decide) a.isLt d.isLt]
    rfl)

theorem mulh (d : Reg) (a : Reg) (b : Reg) : Statement (.mulh d a b) :=
  of1 (q3 14 0 1 (b.toNat) (a.toNat) (d.toNat)) rfl (q3_len _ _ _ _ _ _ (by decide)) (by
    rw [maj_pickMuldiv (q3_maj _ _ _ _ _ _ (by decide) (by decide)), pickMuldiv, q3_fn _ _ _ _ _ _ (by decide) (by decide) b.isLt a.isLt d.isLt, q3_d _ _ _ _ _ _ (by decide), q3_a _ _ _ _ _ _ (by decide) d.isLt, q3_b _ _ _ _ _ _ (by decide) a.isLt d.isLt]
    rfl)

theorem mulhu (d : Reg) (a : Reg) (b : Reg) : Statement (.mulhu d a b) :=
  of1 (q3 14 0 2 (b.toNat) (a.toNat) (d.toNat)) rfl (q3_len _ _ _ _ _ _ (by decide)) (by
    rw [maj_pickMuldiv (q3_maj _ _ _ _ _ _ (by decide) (by decide)), pickMuldiv, q3_fn _ _ _ _ _ _ (by decide) (by decide) b.isLt a.isLt d.isLt, q3_d _ _ _ _ _ _ (by decide), q3_a _ _ _ _ _ _ (by decide) d.isLt, q3_b _ _ _ _ _ _ (by decide) a.isLt d.isLt]
    rfl)

theorem mulhsu (d : Reg) (a : Reg) (b : Reg) : Statement (.mulhsu d a b) :=
  of1 (q3 14 0 3 (b.toNat) (a.toNat) (d.toNat)) rfl (q3_len _ _ _ _ _ _ (by decide)) (by
    rw [maj_pickMuldiv (q3_maj _ _ _ _ _ _ (by decide) (by decide)), pickMuldiv, q3_fn _ _ _ _ _ _ (by decide) (by decide) b.isLt a.isLt d.isLt, q3_d _ _ _ _ _ _ (by decide), q3_a _ _ _ _ _ _ (by decide) d.isLt, q3_b _ _ _ _ _ _ (by decide) a.isLt d.isLt]
    rfl)

theorem mulw (d : Reg) (a : Reg) (b : Reg) : Statement (.mulw d a b) :=
  of1 (q3 14 0 4 (b.toNat) (a.toNat) (d.toNat)) rfl (q3_len _ _ _ _ _ _ (by decide)) (by
    rw [maj_pickMuldiv (q3_maj _ _ _ _ _ _ (by decide) (by decide)), pickMuldiv, q3_fn _ _ _ _ _ _ (by decide) (by decide) b.isLt a.isLt d.isLt, q3_d _ _ _ _ _ _ (by decide), q3_a _ _ _ _ _ _ (by decide) d.isLt, q3_b _ _ _ _ _ _ (by decide) a.isLt d.isLt]
    rfl)

theorem div (d : Reg) (a : Reg) (b : Reg) : Statement (.div d a b) :=
  of1 (q3 14 0 5 (b.toNat) (a.toNat) (d.toNat)) rfl (q3_len _ _ _ _ _ _ (by decide)) (by
    rw [maj_pickMuldiv (q3_maj _ _ _ _ _ _ (by decide) (by decide)), pickMuldiv, q3_fn _ _ _ _ _ _ (by decide) (by decide) b.isLt a.isLt d.isLt, q3_d _ _ _ _ _ _ (by decide), q3_a _ _ _ _ _ _ (by decide) d.isLt, q3_b _ _ _ _ _ _ (by decide) a.isLt d.isLt]
    rfl)

theorem divu (d : Reg) (a : Reg) (b : Reg) : Statement (.divu d a b) :=
  of1 (q3 14 0 6 (b.toNat) (a.toNat) (d.toNat)) rfl (q3_len _ _ _ _ _ _ (by decide)) (by
    rw [maj_pickMuldiv (q3_maj _ _ _ _ _ _ (by decide) (by decide)), pickMuldiv, q3_fn _ _ _ _ _ _ (by decide) (by decide) b.isLt a.isLt d.isLt, q3_d _ _ _ _ _ _ (by decide), q3_a _ _ _ _ _ _ (by decide) d.isLt, q3_b _ _ _ _ _ _ (by decide) a.isLt d.isLt]
    rfl)

theorem rem (d : Reg) (a : Reg) (b : Reg) : Statement (.rem d a b) :=
  of1 (q3 14 0 7 (b.toNat) (a.toNat) (d.toNat)) rfl (q3_len _ _ _ _ _ _ (by decide)) (by
    rw [maj_pickMuldiv (q3_maj _ _ _ _ _ _ (by decide) (by decide)), pickMuldiv, q3_fn _ _ _ _ _ _ (by decide) (by decide) b.isLt a.isLt d.isLt, q3_d _ _ _ _ _ _ (by decide), q3_a _ _ _ _ _ _ (by decide) d.isLt, q3_b _ _ _ _ _ _ (by decide) a.isLt d.isLt]
    rfl)

theorem remu (d : Reg) (a : Reg) (b : Reg) : Statement (.remu d a b) :=
  of1 (q3 14 0 8 (b.toNat) (a.toNat) (d.toNat)) rfl (q3_len _ _ _ _ _ _ (by decide)) (by
    rw [maj_pickMuldiv (q3_maj _ _ _ _ _ _ (by decide) (by decide)), pickMuldiv, q3_fn _ _ _ _ _ _ (by decide) (by decide) b.isLt a.isLt d.isLt, q3_d _ _ _ _ _ _ (by decide), q3_a _ _ _ _ _ _ (by decide) d.isLt, q3_b _ _ _ _ _ _ (by decide) a.isLt d.isLt]
    rfl)

theorem divw (d : Reg) (a : Reg) (b : Reg) : Statement (.divw d a b) :=
  of1 (q3 14 0 9 (b.toNat) (a.toNat) (d.toNat)) rfl (q3_len _ _ _ _ _ _ (by decide)) (by
    rw [maj_pickMuldiv (q3_maj _ _ _ _ _ _ (by decide) (by decide)), pickMuldiv, q3_fn _ _ _ _ _ _ (by decide) (by decide) b.isLt a.isLt d.isLt, q3_d _ _ _ _ _ _ (by decide), q3_a _ _ _ _ _ _ (by decide) d.isLt, q3_b _ _ _ _ _ _ (by decide) a.isLt d.isLt]
    rfl)

theorem remw (d : Reg) (a : Reg) (b : Reg) : Statement (.remw d a b) :=
  of1 (q3 14 0 10 (b.toNat) (a.toNat) (d.toNat)) rfl (q3_len _ _ _ _ _ _ (by decide)) (by
    rw [maj_pickMuldiv (q3_maj _ _ _ _ _ _ (by decide) (by decide)), pickMuldiv, q3_fn _ _ _ _ _ _ (by decide) (by decide) b.isLt a.isLt d.isLt, q3_d _ _ _ _ _ _ (by decide), q3_a _ _ _ _ _ _ (by decide) d.isLt, q3_b _ _ _ _ _ _ (by decide) a.isLt d.isLt]
    rfl)

theorem clz (d : Reg) (a : Reg) : Statement (.clz d a) :=
  of1 (q3 15 0 0 (0) (a.toNat) (d.toNat)) rfl (q3_len _ _ _ _ _ _ (by decide)) (by
    rw [maj_pickBit (q3_maj _ _ _ _ _ _ (by decide) (by decide)), pickBit, q3_fn _ _ _ _ _ _ (by decide) (by decide) (by decide) a.isLt d.isLt, q3_d _ _ _ _ _ _ (by decide), q3_a _ _ _ _ _ _ (by decide) d.isLt]
    rfl)

theorem ctz (d : Reg) (a : Reg) : Statement (.ctz d a) :=
  of1 (q3 15 0 1 (0) (a.toNat) (d.toNat)) rfl (q3_len _ _ _ _ _ _ (by decide)) (by
    rw [maj_pickBit (q3_maj _ _ _ _ _ _ (by decide) (by decide)), pickBit, q3_fn _ _ _ _ _ _ (by decide) (by decide) (by decide) a.isLt d.isLt, q3_d _ _ _ _ _ _ (by decide), q3_a _ _ _ _ _ _ (by decide) d.isLt]
    rfl)

theorem popc (d : Reg) (a : Reg) : Statement (.popc d a) :=
  of1 (q3 15 0 2 (0) (a.toNat) (d.toNat)) rfl (q3_len _ _ _ _ _ _ (by decide)) (by
    rw [maj_pickBit (q3_maj _ _ _ _ _ _ (by decide) (by decide)), pickBit, q3_fn _ _ _ _ _ _ (by decide) (by decide) (by decide) a.isLt d.isLt, q3_d _ _ _ _ _ _ (by decide), q3_a _ _ _ _ _ _ (by decide) d.isLt]
    rfl)

theorem brev (d : Reg) (a : Reg) : Statement (.brev d a) :=
  of1 (q3 15 0 3 (0) (a.toNat) (d.toNat)) rfl (q3_len _ _ _ _ _ _ (by decide)) (by
    rw [maj_pickBit (q3_maj _ _ _ _ _ _ (by decide) (by decide)), pickBit, q3_fn _ _ _ _ _ _ (by decide) (by decide) (by decide) a.isLt d.isLt, q3_d _ _ _ _ _ _ (by decide), q3_a _ _ _ _ _ _ (by decide) d.isLt]
    rfl)

theorem bswap (d : Reg) (a : Reg) : Statement (.bswap d a) :=
  of1 (q3 15 0 4 (0) (a.toNat) (d.toNat)) rfl (q3_len _ _ _ _ _ _ (by decide)) (by
    rw [maj_pickBit (q3_maj _ _ _ _ _ _ (by decide) (by decide)), pickBit, q3_fn _ _ _ _ _ _ (by decide) (by decide) (by decide) a.isLt d.isLt, q3_d _ _ _ _ _ _ (by decide), q3_a _ _ _ _ _ _ (by decide) d.isLt]
    rfl)

theorem fnsb (d : Reg) (a : Reg) (b : Reg) : Statement (.fnsb d a b) :=
  of1 (q3 15 0 5 (b.toNat) (a.toNat) (d.toNat)) rfl (q3_len _ _ _ _ _ _ (by decide)) (by
    rw [maj_pickBit (q3_maj _ _ _ _ _ _ (by decide) (by decide)), pickBit, q3_fn _ _ _ _ _ _ (by decide) (by decide) b.isLt a.isLt d.isLt, q3_d _ _ _ _ _ _ (by decide), q3_a _ _ _ _ _ _ (by decide) d.isLt, q3_b _ _ _ _ _ _ (by decide) a.isLt d.isLt]
    rfl)

theorem clzw (d : Reg) (a : Reg) : Statement (.clzw d a) :=
  of1 (q3 15 0 6 (0) (a.toNat) (d.toNat)) rfl (q3_len _ _ _ _ _ _ (by decide)) (by
    rw [maj_pickBit (q3_maj _ _ _ _ _ _ (by decide) (by decide)), pickBit, q3_fn _ _ _ _ _ _ (by decide) (by decide) (by decide) a.isLt d.isLt, q3_d _ _ _ _ _ _ (by decide), q3_a _ _ _ _ _ _ (by decide) d.isLt]
    rfl)

theorem ctzw (d : Reg) (a : Reg) : Statement (.ctzw d a) :=
  of1 (q3 15 0 7 (0) (a.toNat) (d.toNat)) rfl (q3_len _ _ _ _ _ _ (by decide)) (by
    rw [maj_pickBit (q3_maj _ _ _ _ _ _ (by decide) (by decide)), pickBit, q3_fn _ _ _ _ _ _ (by decide) (by decide) (by decide) a.isLt d.isLt, q3_d _ _ _ _ _ _ (by decide), q3_a _ _ _ _ _ _ (by decide) d.isLt]
    rfl)

theorem popcw (d : Reg) (a : Reg) : Statement (.popcw d a) :=
  of1 (q3 15 0 8 (0) (a.toNat) (d.toNat)) rfl (q3_len _ _ _ _ _ _ (by decide)) (by
    rw [maj_pickBit (q3_maj _ _ _ _ _ _ (by decide) (by decide)), pickBit, q3_fn _ _ _ _ _ _ (by decide) (by decide) (by decide) a.isLt d.isLt, q3_d _ _ _ _ _ _ (by decide), q3_a _ _ _ _ _ _ (by decide) d.isLt]
    rfl)

theorem bfx (d : Reg) (a : Reg) (b : Reg) : Statement (.bfx d a b) :=
  of1 (q3 15 0 9 (b.toNat) (a.toNat) (d.toNat)) rfl (q3_len _ _ _ _ _ _ (by decide)) (by
    rw [maj_pickBit (q3_maj _ _ _ _ _ _ (by decide) (by decide)), pickBit, q3_fn _ _ _ _ _ _ (by decide) (by decide) b.isLt a.isLt d.isLt, q3_d _ _ _ _ _ _ (by decide), q3_a _ _ _ _ _ _ (by decide) d.isLt, q3_b _ _ _ _ _ _ (by decide) a.isLt d.isLt]
    rfl)

theorem bfxu (d : Reg) (a : Reg) (b : Reg) : Statement (.bfxu d a b) :=
  of1 (q3 15 0 10 (b.toNat) (a.toNat) (d.toNat)) rfl (q3_len _ _ _ _ _ _ (by decide)) (by
    rw [maj_pickBit (q3_maj _ _ _ _ _ _ (by decide) (by decide)), pickBit, q3_fn _ _ _ _ _ _ (by decide) (by decide) b.isLt a.isLt d.isLt, q3_d _ _ _ _ _ _ (by decide), q3_a _ _ _ _ _ _ (by decide) d.isLt, q3_b _ _ _ _ _ _ (by decide) a.isLt d.isLt]
    rfl)

theorem bfi (d : Reg) (a : Reg) (b : Reg) : Statement (.bfi d a b) :=
  of1 (q3 15 0 11 (b.toNat) (a.toNat) (d.toNat)) rfl (q3_len _ _ _ _ _ _ (by decide)) (by
    rw [maj_pickBit (q3_maj _ _ _ _ _ _ (by decide) (by decide)), pickBit, q3_fn _ _ _ _ _ _ (by decide) (by decide) b.isLt a.isLt d.isLt, q3_d _ _ _ _ _ _ (by decide), q3_a _ _ _ _ _ _ (by decide) d.isLt, q3_b _ _ _ _ _ _ (by decide) a.isLt d.isLt]
    rfl)

theorem bfmsk (d : Reg) (b : Reg) : Statement (.bfmsk d b) :=
  of1 (q3 15 0 12 (b.toNat) (0) (d.toNat)) rfl (q3_len _ _ _ _ _ _ (by decide)) (by
    rw [maj_pickBit (q3_maj _ _ _ _ _ _ (by decide) (by decide)), pickBit, q3_fn _ _ _ _ _ _ (by decide) (by decide) b.isLt (by decide) d.isLt, q3_d _ _ _ _ _ _ (by decide), q3_b _ _ _ _ _ _ (by decide) (by decide) d.isLt]
    rfl)

theorem bfxi (d : Reg) (a : Reg) (off : BitVec 7) (wid : BitVec 7) : Statement (.bfxi d a off wid) :=
  of2 (q3 19 1 0 0 a.toNat d.toNat) (off.toNat + 128 * wid.toNat + 16384 * 0) rfl (by unfold q3; omega) (by
    obtain ⟨w0, h0⟩ : ∃ z, z = q3 19 1 0 0 a.toNat d.toNat := ⟨_, rfl⟩
    rw [← h0]
    unfold q3 at h0
    obtain ⟨w1, h1⟩ : ∃ z, z = off.toNat + 128 * wid.toNat + 16384 * 0 := ⟨_, rfl⟩
    rw [← h1]
    rw [maj_pickBiti64 (show w0 / 4 % 64 = 19 by omega), pickBiti64, show w1 / 16384 % 4 = 0 by omega, show rD w0 = d from ofNat_eq _ (by omega), show rA w0 = a from ofNat_eq _ (by omega), show BitVec.ofNat 7 w1 = off from ofNat_eq _ (by omega), show BitVec.ofNat 7 (w1 / 128) = wid from ofNat_eq _ (by omega)]
    rfl)

theorem bfxui (d : Reg) (a : Reg) (off : BitVec 7) (wid : BitVec 7) : Statement (.bfxui d a off wid) :=
  of2 (q3 19 1 0 0 a.toNat d.toNat) (off.toNat + 128 * wid.toNat + 16384 * 1) rfl (by unfold q3; omega) (by
    obtain ⟨w0, h0⟩ : ∃ z, z = q3 19 1 0 0 a.toNat d.toNat := ⟨_, rfl⟩
    rw [← h0]
    unfold q3 at h0
    obtain ⟨w1, h1⟩ : ∃ z, z = off.toNat + 128 * wid.toNat + 16384 * 1 := ⟨_, rfl⟩
    rw [← h1]
    rw [maj_pickBiti64 (show w0 / 4 % 64 = 19 by omega), pickBiti64, show w1 / 16384 % 4 = 1 by omega, show rD w0 = d from ofNat_eq _ (by omega), show rA w0 = a from ofNat_eq _ (by omega), show BitVec.ofNat 7 w1 = off from ofNat_eq _ (by omega), show BitVec.ofNat 7 (w1 / 128) = wid from ofNat_eq _ (by omega)]
    rfl)

theorem bfii (d : Reg) (a : Reg) (off : BitVec 7) (wid : BitVec 7) : Statement (.bfii d a off wid) :=
  of2 (q3 19 1 0 0 a.toNat d.toNat) (off.toNat + 128 * wid.toNat + 16384 * 2) rfl (by unfold q3; omega) (by
    obtain ⟨w0, h0⟩ : ∃ z, z = q3 19 1 0 0 a.toNat d.toNat := ⟨_, rfl⟩
    rw [← h0]
    unfold q3 at h0
    obtain ⟨w1, h1⟩ : ∃ z, z = off.toNat + 128 * wid.toNat + 16384 * 2 := ⟨_, rfl⟩
    rw [← h1]
    rw [maj_pickBiti64 (show w0 / 4 % 64 = 19 by omega), pickBiti64, show w1 / 16384 % 4 = 2 by omega, show rD w0 = d from ofNat_eq _ (by omega), show rA w0 = a from ofNat_eq _ (by omega), show BitVec.ofNat 7 w1 = off from ofNat_eq _ (by omega), show BitVec.ofNat 7 (w1 / 128) = wid from ofNat_eq _ (by omega)]
    rfl)

theorem fadd (ty : BitVec 2) (d : Reg) (a : Reg) (b : Reg) : Statement (.fadd ty d a b) :=
  of1 (q3 16 0 (0 + 64 * ty.toNat) b.toNat a.toNat d.toNat) rfl (by unfold q3; omega) (by
    obtain ⟨w0, h0⟩ : ∃ z, z = q3 16 0 (0 + 64 * ty.toNat) b.toNat a.toNat d.toNat := ⟨_, rfl⟩
    rw [← h0]
    unfold q3 at h0
    rw [maj_pickFpu (show w0 / 4 % 64 = 16 by omega), pickFpu, show w0 / 8388608 % 64 = 0 by omega, show BitVec.ofNat 2 (w0 / 536870912) = ty from ofNat_eq _ (by omega), show rD w0 = d from ofNat_eq _ (by omega), show rA w0 = a from ofNat_eq _ (by omega), show rB w0 = b from ofNat_eq _ (by omega)]
    rfl)

theorem fsub (ty : BitVec 2) (d : Reg) (a : Reg) (b : Reg) : Statement (.fsub ty d a b) :=
  of1 (q3 16 0 (1 + 64 * ty.toNat) b.toNat a.toNat d.toNat) rfl (by unfold q3; omega) (by
    obtain ⟨w0, h0⟩ : ∃ z, z = q3 16 0 (1 + 64 * ty.toNat) b.toNat a.toNat d.toNat := ⟨_, rfl⟩
    rw [← h0]
    unfold q3 at h0
    rw [maj_pickFpu (show w0 / 4 % 64 = 16 by omega), pickFpu, show w0 / 8388608 % 64 = 1 by omega, show BitVec.ofNat 2 (w0 / 536870912) = ty from ofNat_eq _ (by omega), show rD w0 = d from ofNat_eq _ (by omega), show rA w0 = a from ofNat_eq _ (by omega), show rB w0 = b from ofNat_eq _ (by omega)]
    rfl)

theorem fmul (ty : BitVec 2) (d : Reg) (a : Reg) (b : Reg) : Statement (.fmul ty d a b) :=
  of1 (q3 16 0 (2 + 64 * ty.toNat) b.toNat a.toNat d.toNat) rfl (by unfold q3; omega) (by
    obtain ⟨w0, h0⟩ : ∃ z, z = q3 16 0 (2 + 64 * ty.toNat) b.toNat a.toNat d.toNat := ⟨_, rfl⟩
    rw [← h0]
    unfold q3 at h0
    rw [maj_pickFpu (show w0 / 4 % 64 = 16 by omega), pickFpu, show w0 / 8388608 % 64 = 2 by omega, show BitVec.ofNat 2 (w0 / 536870912) = ty from ofNat_eq _ (by omega), show rD w0 = d from ofNat_eq _ (by omega), show rA w0 = a from ofNat_eq _ (by omega), show rB w0 = b from ofNat_eq _ (by omega)]
    rfl)

theorem fdiv (ty : BitVec 2) (d : Reg) (a : Reg) (b : Reg) : Statement (.fdiv ty d a b) :=
  of1 (q3 16 0 (3 + 64 * ty.toNat) b.toNat a.toNat d.toNat) rfl (by unfold q3; omega) (by
    obtain ⟨w0, h0⟩ : ∃ z, z = q3 16 0 (3 + 64 * ty.toNat) b.toNat a.toNat d.toNat := ⟨_, rfl⟩
    rw [← h0]
    unfold q3 at h0
    rw [maj_pickFpu (show w0 / 4 % 64 = 16 by omega), pickFpu, show w0 / 8388608 % 64 = 3 by omega, show BitVec.ofNat 2 (w0 / 536870912) = ty from ofNat_eq _ (by omega), show rD w0 = d from ofNat_eq _ (by omega), show rA w0 = a from ofNat_eq _ (by omega), show rB w0 = b from ofNat_eq _ (by omega)]
    rfl)

theorem fsqrt (ty : BitVec 2) (d : Reg) (a : Reg) : Statement (.fsqrt ty d a) :=
  of1 (q3 16 0 (4 + 64 * ty.toNat) 0 a.toNat d.toNat) rfl (by unfold q3; omega) (by
    obtain ⟨w0, h0⟩ : ∃ z, z = q3 16 0 (4 + 64 * ty.toNat) 0 a.toNat d.toNat := ⟨_, rfl⟩
    rw [← h0]
    unfold q3 at h0
    rw [maj_pickFpu (show w0 / 4 % 64 = 16 by omega), pickFpu, show w0 / 8388608 % 64 = 4 by omega, show BitVec.ofNat 2 (w0 / 536870912) = ty from ofNat_eq _ (by omega), show rD w0 = d from ofNat_eq _ (by omega), show rA w0 = a from ofNat_eq _ (by omega)]
    rfl)

theorem fmin (ty : BitVec 2) (d : Reg) (a : Reg) (b : Reg) : Statement (.fmin ty d a b) :=
  of1 (q3 16 0 (5 + 64 * ty.toNat) b.toNat a.toNat d.toNat) rfl (by unfold q3; omega) (by
    obtain ⟨w0, h0⟩ : ∃ z, z = q3 16 0 (5 + 64 * ty.toNat) b.toNat a.toNat d.toNat := ⟨_, rfl⟩
    rw [← h0]
    unfold q3 at h0
    rw [maj_pickFpu (show w0 / 4 % 64 = 16 by omega), pickFpu, show w0 / 8388608 % 64 = 5 by omega, show BitVec.ofNat 2 (w0 / 536870912) = ty from ofNat_eq _ (by omega), show rD w0 = d from ofNat_eq _ (by omega), show rA w0 = a from ofNat_eq _ (by omega), show rB w0 = b from ofNat_eq _ (by omega)]
    rfl)

theorem fmax (ty : BitVec 2) (d : Reg) (a : Reg) (b : Reg) : Statement (.fmax ty d a b) :=
  of1 (q3 16 0 (6 + 64 * ty.toNat) b.toNat a.toNat d.toNat) rfl (by unfold q3; omega) (by
    obtain ⟨w0, h0⟩ : ∃ z, z = q3 16 0 (6 + 64 * ty.toNat) b.toNat a.toNat d.toNat := ⟨_, rfl⟩
    rw [← h0]
    unfold q3 at h0
    rw [maj_pickFpu (show w0 / 4 % 64 = 16 by omega), pickFpu, show w0 / 8388608 % 64 = 6 by omega, show BitVec.ofNat 2 (w0 / 536870912) = ty from ofNat_eq _ (by omega), show rD w0 = d from ofNat_eq _ (by omega), show rA w0 = a from ofNat_eq _ (by omega), show rB w0 = b from ofNat_eq _ (by omega)]
    rfl)

theorem fminn (ty : BitVec 2) (d : Reg) (a : Reg) (b : Reg) : Statement (.fminn ty d a b) :=
  of1 (q3 16 0 (7 + 64 * ty.toNat) b.toNat a.toNat d.toNat) rfl (by unfold q3; omega) (by
    obtain ⟨w0, h0⟩ : ∃ z, z = q3 16 0 (7 + 64 * ty.toNat) b.toNat a.toNat d.toNat := ⟨_, rfl⟩
    rw [← h0]
    unfold q3 at h0
    rw [maj_pickFpu (show w0 / 4 % 64 = 16 by omega), pickFpu, show w0 / 8388608 % 64 = 7 by omega, show BitVec.ofNat 2 (w0 / 536870912) = ty from ofNat_eq _ (by omega), show rD w0 = d from ofNat_eq _ (by omega), show rA w0 = a from ofNat_eq _ (by omega), show rB w0 = b from ofNat_eq _ (by omega)]
    rfl)

theorem fmaxn (ty : BitVec 2) (d : Reg) (a : Reg) (b : Reg) : Statement (.fmaxn ty d a b) :=
  of1 (q3 16 0 (8 + 64 * ty.toNat) b.toNat a.toNat d.toNat) rfl (by unfold q3; omega) (by
    obtain ⟨w0, h0⟩ : ∃ z, z = q3 16 0 (8 + 64 * ty.toNat) b.toNat a.toNat d.toNat := ⟨_, rfl⟩
    rw [← h0]
    unfold q3 at h0
    rw [maj_pickFpu (show w0 / 4 % 64 = 16 by omega), pickFpu, show w0 / 8388608 % 64 = 8 by omega, show BitVec.ofNat 2 (w0 / 536870912) = ty from ofNat_eq _ (by omega), show rD w0 = d from ofNat_eq _ (by omega), show rA w0 = a from ofNat_eq _ (by omega), show rB w0 = b from ofNat_eq _ (by omega)]
    rfl)

theorem fsgnj (ty : BitVec 2) (d : Reg) (a : Reg) (b : Reg) : Statement (.fsgnj ty d a b) :=
  of1 (q3 16 0 (9 + 64 * ty.toNat) b.toNat a.toNat d.toNat) rfl (by unfold q3; omega) (by
    obtain ⟨w0, h0⟩ : ∃ z, z = q3 16 0 (9 + 64 * ty.toNat) b.toNat a.toNat d.toNat := ⟨_, rfl⟩
    rw [← h0]
    unfold q3 at h0
    rw [maj_pickFpu (show w0 / 4 % 64 = 16 by omega), pickFpu, show w0 / 8388608 % 64 = 9 by omega, show BitVec.ofNat 2 (w0 / 536870912) = ty from ofNat_eq _ (by omega), show rD w0 = d from ofNat_eq _ (by omega), show rA w0 = a from ofNat_eq _ (by omega), show rB w0 = b from ofNat_eq _ (by omega)]
    rfl)

theorem fsgnjn (ty : BitVec 2) (d : Reg) (a : Reg) (b : Reg) : Statement (.fsgnjn ty d a b) :=
  of1 (q3 16 0 (10 + 64 * ty.toNat) b.toNat a.toNat d.toNat) rfl (by unfold q3; omega) (by
    obtain ⟨w0, h0⟩ : ∃ z, z = q3 16 0 (10 + 64 * ty.toNat) b.toNat a.toNat d.toNat := ⟨_, rfl⟩
    rw [← h0]
    unfold q3 at h0
    rw [maj_pickFpu (show w0 / 4 % 64 = 16 by omega), pickFpu, show w0 / 8388608 % 64 = 10 by omega, show BitVec.ofNat 2 (w0 / 536870912) = ty from ofNat_eq _ (by omega), show rD w0 = d from ofNat_eq _ (by omega), show rA w0 = a from ofNat_eq _ (by omega), show rB w0 = b from ofNat_eq _ (by omega)]
    rfl)

theorem fsgnjx (ty : BitVec 2) (d : Reg) (a : Reg) (b : Reg) : Statement (.fsgnjx ty d a b) :=
  of1 (q3 16 0 (11 + 64 * ty.toNat) b.toNat a.toNat d.toNat) rfl (by unfold q3; omega) (by
    obtain ⟨w0, h0⟩ : ∃ z, z = q3 16 0 (11 + 64 * ty.toNat) b.toNat a.toNat d.toNat := ⟨_, rfl⟩
    rw [← h0]
    unfold q3 at h0
    rw [maj_pickFpu (show w0 / 4 % 64 = 16 by omega), pickFpu, show w0 / 8388608 % 64 = 11 by omega, show BitVec.ofNat 2 (w0 / 536870912) = ty from ofNat_eq _ (by omega), show rD w0 = d from ofNat_eq _ (by omega), show rA w0 = a from ofNat_eq _ (by omega), show rB w0 = b from ofNat_eq _ (by omega)]
    rfl)

theorem feq (ty : BitVec 2) (d : Reg) (a : Reg) (b : Reg) : Statement (.feq ty d a b) :=
  of1 (q3 16 0 (12 + 64 * ty.toNat) b.toNat a.toNat d.toNat) rfl (by unfold q3; omega) (by
    obtain ⟨w0, h0⟩ : ∃ z, z = q3 16 0 (12 + 64 * ty.toNat) b.toNat a.toNat d.toNat := ⟨_, rfl⟩
    rw [← h0]
    unfold q3 at h0
    rw [maj_pickFpu (show w0 / 4 % 64 = 16 by omega), pickFpu, show w0 / 8388608 % 64 = 12 by omega, show BitVec.ofNat 2 (w0 / 536870912) = ty from ofNat_eq _ (by omega), show rD w0 = d from ofNat_eq _ (by omega), show rA w0 = a from ofNat_eq _ (by omega), show rB w0 = b from ofNat_eq _ (by omega)]
    rfl)

theorem flt (ty : BitVec 2) (d : Reg) (a : Reg) (b : Reg) : Statement (.flt ty d a b) :=
  of1 (q3 16 0 (13 + 64 * ty.toNat) b.toNat a.toNat d.toNat) rfl (by unfold q3; omega) (by
    obtain ⟨w0, h0⟩ : ∃ z, z = q3 16 0 (13 + 64 * ty.toNat) b.toNat a.toNat d.toNat := ⟨_, rfl⟩
    rw [← h0]
    unfold q3 at h0
    rw [maj_pickFpu (show w0 / 4 % 64 = 16 by omega), pickFpu, show w0 / 8388608 % 64 = 13 by omega, show BitVec.ofNat 2 (w0 / 536870912) = ty from ofNat_eq _ (by omega), show rD w0 = d from ofNat_eq _ (by omega), show rA w0 = a from ofNat_eq _ (by omega), show rB w0 = b from ofNat_eq _ (by omega)]
    rfl)

theorem fle (ty : BitVec 2) (d : Reg) (a : Reg) (b : Reg) : Statement (.fle ty d a b) :=
  of1 (q3 16 0 (14 + 64 * ty.toNat) b.toNat a.toNat d.toNat) rfl (by unfold q3; omega) (by
    obtain ⟨w0, h0⟩ : ∃ z, z = q3 16 0 (14 + 64 * ty.toNat) b.toNat a.toNat d.toNat := ⟨_, rfl⟩
    rw [← h0]
    unfold q3 at h0
    rw [maj_pickFpu (show w0 / 4 % 64 = 16 by omega), pickFpu, show w0 / 8388608 % 64 = 14 by omega, show BitVec.ofNat 2 (w0 / 536870912) = ty from ofNat_eq _ (by omega), show rD w0 = d from ofNat_eq _ (by omega), show rA w0 = a from ofNat_eq _ (by omega), show rB w0 = b from ofNat_eq _ (by omega)]
    rfl)

theorem fclass (ty : BitVec 2) (d : Reg) (a : Reg) : Statement (.fclass ty d a) :=
  of1 (q3 16 0 (15 + 64 * ty.toNat) 0 a.toNat d.toNat) rfl (by unfold q3; omega) (by
    obtain ⟨w0, h0⟩ : ∃ z, z = q3 16 0 (15 + 64 * ty.toNat) 0 a.toNat d.toNat := ⟨_, rfl⟩
    rw [← h0]
    unfold q3 at h0
    rw [maj_pickFpu (show w0 / 4 % 64 = 16 by omega), pickFpu, show w0 / 8388608 % 64 = 15 by omega, show BitVec.ofNat 2 (w0 / 536870912) = ty from ofNat_eq _ (by omega), show rD w0 = d from ofNat_eq _ (by omega), show rA w0 = a from ofNat_eq _ (by omega)]
    rfl)

theorem fcvt (ty : BitVec 2) (d : Reg) (a : Reg) (src : BitVec 5) : Statement (.fcvt ty d a src) :=
  of1 (q3 16 0 (16 + 64 * ty.toNat) src.toNat a.toNat d.toNat) rfl (by unfold q3; omega) (by
    obtain ⟨w0, h0⟩ : ∃ z, z = q3 16 0 (16 + 64 * ty.toNat) src.toNat a.toNat d.toNat := ⟨_, rfl⟩
    rw [← h0]
    unfold q3 at h0
    rw [maj_pickFpu (show w0 / 4 % 64 = 16 by omega), pickFpu, show w0 / 8388608 % 64 = 16 by omega, show BitVec.ofNat 2 (w0 / 536870912) = ty from ofNat_eq _ (by omega), show rD w0 = d from ofNat_eq _ (by omega), show rA w0 = a from ofNat_eq _ (by omega), show rB w0 = src from ofNat_eq _ (by omega)]
    rfl)

theorem fcvti (ty : BitVec 2) (d : Reg) (a : Reg) (rm : BitVec 3) (w : Bool) : Statement (.fcvti ty d a rm w) :=
  of1 (q3 16 0 (17 + 64 * ty.toNat) (w.toNat + 2 * rm.toNat) a.toNat d.toNat) rfl (by unfold q3; omega) (by
    have := w.toNat_le
    obtain ⟨w0, h0⟩ : ∃ z, z = q3 16 0 (17 + 64 * ty.toNat) (w.toNat + 2 * rm.toNat) a.toNat d.toNat := ⟨_, rfl⟩
    rw [← h0]
    unfold q3 at h0
    rw [maj_pickFpu (show w0 / 4 % 64 = 16 by omega), pickFpu, show w0 / 8388608 % 64 = 17 by omega, show BitVec.ofNat 2 (w0 / 536870912) = ty from ofNat_eq _ (by omega), show rD w0 = d from ofNat_eq _ (by omega), show rA w0 = a from ofNat_eq _ (by omega), show BitVec.ofNat 3 (w0 / 524288) = rm from ofNat_eq _ (by omega), show bitAt w0 18 = w from bitAt_eq _ (by omega)]
    rfl)

theorem fcvtu (ty : BitVec 2) (d : Reg) (a : Reg) (rm : BitVec 3) (w : Bool) : Statement (.fcvtu ty d a rm w) :=
  of1 (q3 16 0 (18 + 64 * ty.toNat) (w.toNat + 2 * rm.toNat) a.toNat d.toNat) rfl (by unfold q3; omega) (by
    have := w.toNat_le
    obtain ⟨w0, h0⟩ : ∃ z, z = q3 16 0 (18 + 64 * ty.toNat) (w.toNat + 2 * rm.toNat) a.toNat d.toNat := ⟨_, rfl⟩
    rw [← h0]
    unfold q3 at h0
    rw [maj_pickFpu (show w0 / 4 % 64 = 16 by omega), pickFpu, show w0 / 8388608 % 64 = 18 by omega, show BitVec.ofNat 2 (w0 / 536870912) = ty from ofNat_eq _ (by omega), show rD w0 = d from ofNat_eq _ (by omega), show rA w0 = a from ofNat_eq _ (by omega), show BitVec.ofNat 3 (w0 / 524288) = rm from ofNat_eq _ (by omega), show bitAt w0 18 = w from bitAt_eq _ (by omega)]
    rfl)

theorem icvtf (ty : BitVec 2) (d : Reg) (a : Reg) (rm : BitVec 3) (w : Bool) : Statement (.icvtf ty d a rm w) :=
  of1 (q3 16 0 (19 + 64 * ty.toNat) (w.toNat + 2 * rm.toNat) a.toNat d.toNat) rfl (by unfold q3; omega) (by
    have := w.toNat_le
    obtain ⟨w0, h0⟩ : ∃ z, z = q3 16 0 (19 + 64 * ty.toNat) (w.toNat + 2 * rm.toNat) a.toNat d.toNat := ⟨_, rfl⟩
    rw [← h0]
    unfold q3 at h0
    rw [maj_pickFpu (show w0 / 4 % 64 = 16 by omega), pickFpu, show w0 / 8388608 % 64 = 19 by omega, show BitVec.ofNat 2 (w0 / 536870912) = ty from ofNat_eq _ (by omega), show rD w0 = d from ofNat_eq _ (by omega), show rA w0 = a from ofNat_eq _ (by omega), show BitVec.ofNat 3 (w0 / 524288) = rm from ofNat_eq _ (by omega), show bitAt w0 18 = w from bitAt_eq _ (by omega)]
    rfl)

theorem ucvtf (ty : BitVec 2) (d : Reg) (a : Reg) (rm : BitVec 3) (w : Bool) : Statement (.ucvtf ty d a rm w) :=
  of1 (q3 16 0 (20 + 64 * ty.toNat) (w.toNat + 2 * rm.toNat) a.toNat d.toNat) rfl (by unfold q3; omega) (by
    have := w.toNat_le
    obtain ⟨w0, h0⟩ : ∃ z, z = q3 16 0 (20 + 64 * ty.toNat) (w.toNat + 2 * rm.toNat) a.toNat d.toNat := ⟨_, rfl⟩
    rw [← h0]
    unfold q3 at h0
    rw [maj_pickFpu (show w0 / 4 % 64 = 16 by omega), pickFpu, show w0 / 8388608 % 64 = 20 by omega, show BitVec.ofNat 2 (w0 / 536870912) = ty from ofNat_eq _ (by omega), show rD w0 = d from ofNat_eq _ (by omega), show rA w0 = a from ofNat_eq _ (by omega), show BitVec.ofNat 3 (w0 / 524288) = rm from ofNat_eq _ (by omega), show bitAt w0 18 = w from bitAt_eq _ (by omega)]
    rfl)

theorem fma (ty : BitVec 2) (rm : BitVec 3) (d : Reg) (a : Reg) (b : Reg) (c : Reg) : Statement (.fma ty rm d a b c) :=
  of2 (q3 17 1 0 b.toNat a.toNat d.toNat) (c.toNat + 32 * ty.toNat + 256 * 0 + 1024 * rm.toNat) rfl (by unfold q3; omega) (by
    obtain ⟨w0, h0⟩ : ∃ z, z = q3 17 1 0 b.toNat a.toNat d.toNat := ⟨_, rfl⟩
    rw [← h0]
    unfold q3 at h0
    obtain ⟨w1, h1⟩ : ∃ z, z = c.toNat + 32 * ty.toNat + 256 * 0 + 1024 * rm.toNat := ⟨_, rfl⟩
    rw [← h1]
    rw [maj_pickFma64 (show w0 / 4 % 64 = 17 by omega), pickFma64, show w1 / 256 % 4 = 0 by omega, show BitVec.ofNat 2 (w1 / 32) = ty from ofNat_eq _ (by omega), show BitVec.ofNat 3 (w1 / 1024) = rm from ofNat_eq _ (by omega), show rD w0 = d from ofNat_eq _ (by omega), show rA w0 = a from ofNat_eq _ (by omega), show rB w0 = b from ofNat_eq _ (by omega), show BitVec.ofNat 5 w1 = c from ofNat_eq _ (by omega)]
    rfl)

theorem fms (ty : BitVec 2) (rm : BitVec 3) (d : Reg) (a : Reg) (b : Reg) (c : Reg) : Statement (.fms ty rm d a b c) :=
  of2 (q3 17 1 0 b.toNat a.toNat d.toNat) (c.toNat + 32 * ty.toNat + 256 * 1 + 1024 * rm.toNat) rfl (by unfold q3; omega) (by
    obtain ⟨w0, h0⟩ : ∃ z, z = q3 17 1 0 b.toNat a.toNat d.toNat := ⟨_, rfl⟩
    rw [← h0]
    unfold q3 at h0
    obtain ⟨w1, h1⟩ : ∃ z, z = c.toNat + 32 * ty.toNat + 256 * 1 + 1024 * rm.toNat := ⟨_, rfl⟩
    rw [← h1]
    rw [maj_pickFma64 (show w0 / 4 % 64 = 17 by omega), pickFma64, show w1 / 256 % 4 = 1 by omega, show BitVec.ofNat 2 (w1 / 32) = ty from ofNat_eq _ (by omega), show BitVec.ofNat 3 (w1 / 1024) = rm from ofNat_eq _ (by omega), show rD w0 = d from ofNat_eq _ (by omega), show rA w0 = a from ofNat_eq _ (by omega), show rB w0 = b from ofNat_eq _ (by omega), show BitVec.ofNat 5 w1 = c from ofNat_eq _ (by omega)]
    rfl)

theorem fnma (ty : BitVec 2) (rm : BitVec 3) (d : Reg) (a : Reg) (b : Reg) (c : Reg) : Statement (.fnma ty rm d a b c) :=
  of2 (q3 17 1 0 b.toNat a.toNat d.toNat) (c.toNat + 32 * ty.toNat + 256 * 2 + 1024 * rm.toNat) rfl (by unfold q3; omega) (by
    obtain ⟨w0, h0⟩ : ∃ z, z = q3 17 1 0 b.toNat a.toNat d.toNat := ⟨_, rfl⟩
    rw [← h0]
    unfold q3 at h0
    obtain ⟨w1, h1⟩ : ∃ z, z = c.toNat + 32 * ty.toNat + 256 * 2 + 1024 * rm.toNat := ⟨_, rfl⟩
    rw [← h1]
    rw [maj_pickFma64 (show w0 / 4 % 64 = 17 by omega), pickFma64, show w1 / 256 % 4 = 2 by omega, show BitVec.ofNat 2 (w1 / 32) = ty from ofNat_eq _ (by omega), show BitVec.ofNat 3 (w1 / 1024) = rm from ofNat_eq _ (by omega), show rD w0 = d from ofNat_eq _ (by omega), show rA w0 = a from ofNat_eq _ (by omega), show rB w0 = b from ofNat_eq _ (by omega), show BitVec.ofNat 5 w1 = c from ofNat_eq _ (by omega)]
    rfl)

theorem fnms (ty : BitVec 2) (rm : BitVec 3) (d : Reg) (a : Reg) (b : Reg) (c : Reg) : Statement (.fnms ty rm d a b c) :=
  of2 (q3 17 1 0 b.toNat a.toNat d.toNat) (c.toNat + 32 * ty.toNat + 256 * 3 + 1024 * rm.toNat) rfl (by unfold q3; omega) (by
    obtain ⟨w0, h0⟩ : ∃ z, z = q3 17 1 0 b.toNat a.toNat d.toNat := ⟨_, rfl⟩
    rw [← h0]
    unfold q3 at h0
    obtain ⟨w1, h1⟩ : ∃ z, z = c.toNat + 32 * ty.toNat + 256 * 3 + 1024 * rm.toNat := ⟨_, rfl⟩
    rw [← h1]
    rw [maj_pickFma64 (show w0 / 4 % 64 = 17 by omega), pickFma64, show w1 / 256 % 4 = 3 by omega, show BitVec.ofNat 2 (w1 / 32) = ty from ofNat_eq _ (by omega), show BitVec.ofNat 3 (w1 / 1024) = rm from ofNat_eq _ (by omega), show rD w0 = d from ofNat_eq _ (by omega), show rA w0 = a from ofNat_eq _ (by omega), show rB w0 = b from ofNat_eq _ (by omega), show BitVec.ofNat 5 w1 = c from ofNat_eq _ (by omega)]
    rfl)

theorem csrr (d : Reg) (csr : BitVec 12) : Statement (.csrr d csr) :=
  of1 (qi 18 0 (csr.toNat + 4096 * 0) 0 d.toNat) rfl (by unfold qi; omega) (by
    obtain ⟨w0, h0⟩ : ∃ z, z = qi 18 0 (csr.toNat + 4096 * 0) 0 d.toNat := ⟨_, rfl⟩
    rw [← h0]
    unfold qi at h0
    rw [maj_pickCsr (show w0 / 4 % 64 = 18 by omega), pickCsr, show w0 / 1073741824 % 4 = 0 by omega, show rD w0 = d from ofNat_eq _ (by omega), show BitVec.ofNat 12 (w0 / 262144) = csr from ofNat_eq _ (by omega)]
    rfl)

theorem csrw (d : Reg) (a : Reg) (csr : BitVec 12) : Statement (.csrw d a csr) :=
  of1 (qi 18 0 (csr.toNat + 4096 * 1) a.toNat d.toNat) rfl (by unfold qi; omega) (by
    obtain ⟨w0, h0⟩ : ∃ z, z = qi 18 0 (csr.toNat + 4096 * 1) a.toNat d.toNat := ⟨_, rfl⟩
    rw [← h0]
    unfold qi at h0
    rw [maj_pickCsr (show w0 / 4 % 64 = 18 by omega), pickCsr, show w0 / 1073741824 % 4 = 1 by omega, show rD w0 = d from ofNat_eq _ (by omega), show rA w0 = a from ofNat_eq _ (by omega), show BitVec.ofNat 12 (w0 / 262144) = csr from ofNat_eq _ (by omega)]
    rfl)

theorem csrs (d : Reg) (a : Reg) (csr : BitVec 12) : Statement (.csrs d a csr) :=
  of1 (qi 18 0 (csr.toNat + 4096 * 2) a.toNat d.toNat) rfl (by unfold qi; omega) (by
    obtain ⟨w0, h0⟩ : ∃ z, z = qi 18 0 (csr.toNat + 4096 * 2) a.toNat d.toNat := ⟨_, rfl⟩
    rw [← h0]
    unfold qi at h0
    rw [maj_pickCsr (show w0 / 4 % 64 = 18 by omega), pickCsr, show w0 / 1073741824 % 4 = 2 by omega, show rD w0 = d from ofNat_eq _ (by omega), show rA w0 = a from ofNat_eq _ (by omega), show BitVec.ofNat 12 (w0 / 262144) = csr from ofNat_eq _ (by omega)]
    rfl)

theorem csrc (d : Reg) (a : Reg) (csr : BitVec 12) : Statement (.csrc d a csr) :=
  of1 (qi 18 0 (csr.toNat + 4096 * 3) a.toNat d.toNat) rfl (by unfold qi; omega) (by
    obtain ⟨w0, h0⟩ : ∃ z, z = qi 18 0 (csr.toNat + 4096 * 3) a.toNat d.toNat := ⟨_, rfl⟩
    rw [← h0]
    unfold qi at h0
    rw [maj_pickCsr (show w0 / 4 % 64 = 18 by omega), pickCsr, show w0 / 1073741824 % 4 = 3 by omega, show rD w0 = d from ofNat_eq _ (by omega), show rA w0 = a from ofNat_eq _ (by omega), show BitVec.ofNat 12 (w0 / 262144) = csr from ofNat_eq _ (by omega)]
    rfl)

theorem amoadd (dbl : Bool) (d : Reg) (a : Reg) (b : Reg) : Statement (.amoadd dbl d a b) :=
  of1 (q3 20 0 (2 + dbl.toNat + 4 * 0) b.toNat a.toNat d.toNat) rfl (by unfold q3; omega) (by
    have := dbl.toNat_le
    obtain ⟨w0, h0⟩ : ∃ z, z = q3 20 0 (2 + dbl.toNat + 4 * 0) b.toNat a.toNat d.toNat := ⟨_, rfl⟩
    rw [← h0]
    unfold q3 at h0
    rw [maj_pickAmo (show w0 / 4 % 64 = 20 by omega), pickAmo, show w0 / 33554432 % 128 = 0 by omega, show bitAt w0 23 = dbl from bitAt_eq _ (by omega), show rD w0 = d from ofNat_eq _ (by omega), show rA w0 = a from ofNat_eq _ (by omega), show rB w0 = b from ofNat_eq _ (by omega)]
    rfl)

theorem amoand (dbl : Bool) (d : Reg) (a : Reg) (b : Reg) : Statement (.amoand dbl d a b) :=
  of1 (q3 20 0 (2 + dbl.toNat + 4 * 1) b.toNat a.toNat d.toNat) rfl (by unfold q3; omega) (by
    have := dbl.toNat_le
    obtain ⟨w0, h0⟩ : ∃ z, z = q3 20 0 (2 + dbl.toNat + 4 * 1) b.toNat a.toNat d.toNat := ⟨_, rfl⟩
    rw [← h0]
    unfold q3 at h0
    rw [maj_pickAmo (show w0 / 4 % 64 = 20 by omega), pickAmo, show w0 / 33554432 % 128 = 1 by omega, show bitAt w0 23 = dbl from bitAt_eq _ (by omega), show rD w0 = d from ofNat_eq _ (by omega), show rA w0 = a from ofNat_eq _ (by omega), show rB w0 = b from ofNat_eq _ (by omega)]
    rfl)

theorem amoor (dbl : Bool) (d : Reg) (a : Reg) (b : Reg) : Statement (.amoor dbl d a b) :=
  of1 (q3 20 0 (2 + dbl.toNat + 4 * 2) b.toNat a.toNat d.toNat) rfl (by unfold q3; omega) (by
    have := dbl.toNat_le
    obtain ⟨w0, h0⟩ : ∃ z, z = q3 20 0 (2 + dbl.toNat + 4 * 2) b.toNat a.toNat d.toNat := ⟨_, rfl⟩
    rw [← h0]
    unfold q3 at h0
    rw [maj_pickAmo (show w0 / 4 % 64 = 20 by omega), pickAmo, show w0 / 33554432 % 128 = 2 by omega, show bitAt w0 23 = dbl from bitAt_eq _ (by omega), show rD w0 = d from ofNat_eq _ (by omega), show rA w0 = a from ofNat_eq _ (by omega), show rB w0 = b from ofNat_eq _ (by omega)]
    rfl)

theorem amoxor (dbl : Bool) (d : Reg) (a : Reg) (b : Reg) : Statement (.amoxor dbl d a b) :=
  of1 (q3 20 0 (2 + dbl.toNat + 4 * 3) b.toNat a.toNat d.toNat) rfl (by unfold q3; omega) (by
    have := dbl.toNat_le
    obtain ⟨w0, h0⟩ : ∃ z, z = q3 20 0 (2 + dbl.toNat + 4 * 3) b.toNat a.toNat d.toNat := ⟨_, rfl⟩
    rw [← h0]
    unfold q3 at h0
    rw [maj_pickAmo (show w0 / 4 % 64 = 20 by omega), pickAmo, show w0 / 33554432 % 128 = 3 by omega, show bitAt w0 23 = dbl from bitAt_eq _ (by omega), show rD w0 = d from ofNat_eq _ (by omega), show rA w0 = a from ofNat_eq _ (by omega), show rB w0 = b from ofNat_eq _ (by omega)]
    rfl)

theorem amomin (dbl : Bool) (d : Reg) (a : Reg) (b : Reg) : Statement (.amomin dbl d a b) :=
  of1 (q3 20 0 (2 + dbl.toNat + 4 * 4) b.toNat a.toNat d.toNat) rfl (by unfold q3; omega) (by
    have := dbl.toNat_le
    obtain ⟨w0, h0⟩ : ∃ z, z = q3 20 0 (2 + dbl.toNat + 4 * 4) b.toNat a.toNat d.toNat := ⟨_, rfl⟩
    rw [← h0]
    unfold q3 at h0
    rw [maj_pickAmo (show w0 / 4 % 64 = 20 by omega), pickAmo, show w0 / 33554432 % 128 = 4 by omega, show bitAt w0 23 = dbl from bitAt_eq _ (by omega), show rD w0 = d from ofNat_eq _ (by omega), show rA w0 = a from ofNat_eq _ (by omega), show rB w0 = b from ofNat_eq _ (by omega)]
    rfl)

theorem amomax (dbl : Bool) (d : Reg) (a : Reg) (b : Reg) : Statement (.amomax dbl d a b) :=
  of1 (q3 20 0 (2 + dbl.toNat + 4 * 5) b.toNat a.toNat d.toNat) rfl (by unfold q3; omega) (by
    have := dbl.toNat_le
    obtain ⟨w0, h0⟩ : ∃ z, z = q3 20 0 (2 + dbl.toNat + 4 * 5) b.toNat a.toNat d.toNat := ⟨_, rfl⟩
    rw [← h0]
    unfold q3 at h0
    rw [maj_pickAmo (show w0 / 4 % 64 = 20 by omega), pickAmo, show w0 / 33554432 % 128 = 5 by omega, show bitAt w0 23 = dbl from bitAt_eq _ (by omega), show rD w0 = d from ofNat_eq _ (by omega), show rA w0 = a from ofNat_eq _ (by omega), show rB w0 = b from ofNat_eq _ (by omega)]
    rfl)

theorem amominu (dbl : Bool) (d : Reg) (a : Reg) (b : Reg) : Statement (.amominu dbl d a b) :=
  of1 (q3 20 0 (2 + dbl.toNat + 4 * 6) b.toNat a.toNat d.toNat) rfl (by unfold q3; omega) (by
    have := dbl.toNat_le
    obtain ⟨w0, h0⟩ : ∃ z, z = q3 20 0 (2 + dbl.toNat + 4 * 6) b.toNat a.toNat d.toNat := ⟨_, rfl⟩
    rw [← h0]
    unfold q3 at h0
    rw [maj_pickAmo (show w0 / 4 % 64 = 20 by omega), pickAmo, show w0 / 33554432 % 128 = 6 by omega, show bitAt w0 23 = dbl from bitAt_eq _ (by omega), show rD w0 = d from ofNat_eq _ (by omega), show rA w0 = a from ofNat_eq _ (by omega), show rB w0 = b from ofNat_eq _ (by omega)]
    rfl)

theorem amomaxu (dbl : Bool) (d : Reg) (a : Reg) (b : Reg) : Statement (.amomaxu dbl d a b) :=
  of1 (q3 20 0 (2 + dbl.toNat + 4 * 7) b.toNat a.toNat d.toNat) rfl (by unfold q3; omega) (by
    have := dbl.toNat_le
    obtain ⟨w0, h0⟩ : ∃ z, z = q3 20 0 (2 + dbl.toNat + 4 * 7) b.toNat a.toNat d.toNat := ⟨_, rfl⟩
    rw [← h0]
    unfold q3 at h0
    rw [maj_pickAmo (show w0 / 4 % 64 = 20 by omega), pickAmo, show w0 / 33554432 % 128 = 7 by omega, show bitAt w0 23 = dbl from bitAt_eq _ (by omega), show rD w0 = d from ofNat_eq _ (by omega), show rA w0 = a from ofNat_eq _ (by omega), show rB w0 = b from ofNat_eq _ (by omega)]
    rfl)

theorem amoswp (dbl : Bool) (d : Reg) (a : Reg) (b : Reg) : Statement (.amoswp dbl d a b) :=
  of1 (q3 20 0 (2 + dbl.toNat + 4 * 8) b.toNat a.toNat d.toNat) rfl (by unfold q3; omega) (by
    have := dbl.toNat_le
    obtain ⟨w0, h0⟩ : ∃ z, z = q3 20 0 (2 + dbl.toNat + 4 * 8) b.toNat a.toNat d.toNat := ⟨_, rfl⟩
    rw [← h0]
    unfold q3 at h0
    rw [maj_pickAmo (show w0 / 4 % 64 = 20 by omega), pickAmo, show w0 / 33554432 % 128 = 8 by omega, show bitAt w0 23 = dbl from bitAt_eq _ (by omega), show rD w0 = d from ofNat_eq _ (by omega), show rA w0 = a from ofNat_eq _ (by omega), show rB w0 = b from ofNat_eq _ (by omega)]
    rfl)

theorem amocas (dbl : Bool) (d : Reg) (a : Reg) (b : Reg) : Statement (.amocas dbl d a b) :=
  of1 (q3 20 0 (2 + dbl.toNat + 4 * 9) b.toNat a.toNat d.toNat) rfl (by unfold q3; omega) (by
    have := dbl.toNat_le
    obtain ⟨w0, h0⟩ : ∃ z, z = q3 20 0 (2 + dbl.toNat + 4 * 9) b.toNat a.toNat d.toNat := ⟨_, rfl⟩
    rw [← h0]
    unfold q3 at h0
    rw [maj_pickAmo (show w0 / 4 % 64 = 20 by omega), pickAmo, show w0 / 33554432 % 128 = 9 by omega, show bitAt w0 23 = dbl from bitAt_eq _ (by omega), show rD w0 = d from ofNat_eq _ (by omega), show rA w0 = a from ofNat_eq _ (by omega), show rB w0 = b from ofNat_eq _ (by omega)]
    rfl)

theorem acq (a : Reg) (shared : Bool) : Statement (.acq a shared) :=
  of1 (q3 21 0 0 shared.toNat a.toNat 0) rfl (by unfold q3; omega) (by
    have := shared.toNat_le
    obtain ⟨w0, h0⟩ : ∃ z, z = q3 21 0 0 shared.toNat a.toNat 0 := ⟨_, rfl⟩
    rw [← h0]
    unfold q3 at h0
    rw [maj_pickMemx (show w0 / 4 % 64 = 21 by omega), pickMemx, show w0 / 8388608 % 512 = 0 by omega, show rA w0 = a from ofNat_eq _ (by omega), show bitAt w0 18 = shared from bitAt_eq _ (by omega)]
    rfl)

theorem rel (a : Reg) : Statement (.rel a) :=
  of1 (q3 21 0 1 (0) (a.toNat) (0)) rfl (q3_len _ _ _ _ _ _ (by decide)) (by
    rw [maj_pickMemx (q3_maj _ _ _ _ _ _ (by decide) (by decide)), pickMemx, q3_fn _ _ _ _ _ _ (by decide) (by decide) (by decide) a.isLt (by decide), q3_a _ _ _ _ _ _ (by decide) (by decide)]
    rfl)

theorem tryacq (d : Reg) (a : Reg) (shared : Bool) : Statement (.tryacq d a shared) :=
  of1 (q3 21 0 2 shared.toNat a.toNat d.toNat) rfl (by unfold q3; omega) (by
    have := shared.toNat_le
    obtain ⟨w0, h0⟩ : ∃ z, z = q3 21 0 2 shared.toNat a.toNat d.toNat := ⟨_, rfl⟩
    rw [← h0]
    unfold q3 at h0
    rw [maj_pickMemx (show w0 / 4 % 64 = 21 by omega), pickMemx, show w0 / 8388608 % 512 = 2 by omega, show rD w0 = d from ofNat_eq _ (by omega), show rA w0 = a from ofNat_eq _ (by omega), show bitAt w0 18 = shared from bitAt_eq _ (by omega)]
    rfl)

theorem bind (d : Reg) (a : Reg) (b : Reg) : Statement (.bind d a b) :=
  of1 (q3 21 0 3 (b.toNat) (a.toNat) (d.toNat)) rfl (q3_len _ _ _ _ _ _ (by decide)) (by
    rw [maj_pickMemx (q3_maj _ _ _ _ _ _ (by decide) (by decide)), pickMemx, q3_fn _ _ _ _ _ _ (by decide) (by decide) b.isLt a.isLt d.isLt, q3_d _ _ _ _ _ _ (by decide), q3_a _ _ _ _ _ _ (by decide) d.isLt, q3_b _ _ _ _ _ _ (by decide) a.isLt d.isLt]
    rfl)

theorem unbind (d : Reg) (a : Reg) : Statement (.unbind d a) :=
  of1 (q3 21 0 4 (0) (a.toNat) (d.toNat)) rfl (q3_len _ _ _ _ _ _ (by decide)) (by
    rw [maj_pickMemx (q3_maj _ _ _ _ _ _ (by decide) (by decide)), pickMemx, q3_fn _ _ _ _ _ _ (by decide) (by decide) (by decide) a.isLt d.isLt, q3_d _ _ _ _ _ _ (by decide), q3_a _ _ _ _ _ _ (by decide) d.isLt]
    rfl)

theorem pref (a : Reg) (h : Bool) : Statement (.pref a h) :=
  of1 (q3 21 0 5 h.toNat a.toNat 0) rfl (by unfold q3; omega) (by
    have := h.toNat_le
    obtain ⟨w0, h0⟩ : ∃ z, z = q3 21 0 5 h.toNat a.toNat 0 := ⟨_, rfl⟩
    rw [← h0]
    unfold q3 at h0
    rw [maj_pickMemx (show w0 / 4 % 64 = 21 by omega), pickMemx, show w0 / 8388608 % 512 = 5 by omega, show rA w0 = a from ofNat_eq _ (by omega), show bitAt w0 18 = h from bitAt_eq _ (by omega)]
    rfl)

theorem wbf : Statement (.wbf) :=
  of1 (q3 21 0 6 (0) (0) (0)) rfl (q3_len _ _ _ _ _ _ (by decide)) (by
    rw [maj_pickMemx (q3_maj _ _ _ _ _ _ (by decide) (by decide)), pickMemx, q3_fn _ _ _ _ _ _ (by decide) (by decide) (by decide) (by decide) (by decide)]
    rfl)

theorem ldro (d : Reg) (a : Reg) : Statement (.ldro d a) :=
  of1 (q3 21 0 7 (0) (a.toNat) (d.toNat)) rfl (q3_len _ _ _ _ _ _ (by decide)) (by
    rw [maj_pickMemx (q3_maj _ _ _ _ _ _ (by decide) (by decide)), pickMemx, q3_fn _ _ _ _ _ _ (by decide) (by decide) (by decide) a.isLt d.isLt, q3_d _ _ _ _ _ _ (by decide), q3_a _ _ _ _ _ _ (by decide) d.isLt]
    rfl)

theorem hstart (d : Reg) (a : Reg) (b : Reg) : Statement (.hstart d a b) :=
  of1 (q3 22 0 0 (b.toNat) (a.toNat) (d.toNat)) rfl (q3_len _ _ _ _ _ _ (by decide)) (by
    rw [maj_pickThrd (q3_maj _ _ _ _ _ _ (by decide) (by decide)), pickThrd, q3_fn _ _ _ _ _ _ (by decide) (by decide) b.isLt a.isLt d.isLt, q3_d _ _ _ _ _ _ (by decide), q3_a _ _ _ _ _ _ (by decide) d.isLt, q3_b _ _ _ _ _ _ (by decide) a.isLt d.isLt]
    rfl)

theorem hjoin (d : Reg) (a : Reg) : Statement (.hjoin d a) :=
  of1 (q3 22 0 1 (0) (a.toNat) (d.toNat)) rfl (q3_len _ _ _ _ _ _ (by decide)) (by
    rw [maj_pickThrd (q3_maj _ _ _ _ _ _ (by decide) (by decide)), pickThrd, q3_fn _ _ _ _ _ _ (by decide) (by decide) (by decide) a.isLt d.isLt, q3_d _ _ _ _ _ _ (by decide), q3_a _ _ _ _ _ _ (by decide) d.isLt]
    rfl)

theorem hexit (a : Reg) : Statement (.hexit a) :=
  of1 (q3 22 0 2 (0) (a.toNat) (0)) rfl (q3_len _ _ _ _ _ _ (by decide)) (by
    rw [maj_pickThrd (q3_maj _ _ _ _ _ _ (by decide) (by decide)), pickThrd, q3_fn _ _ _ _ _ _ (by decide) (by decide) (by decide) a.isLt (by decide), q3_a _ _ _ _ _ _ (by decide) (by decide)]
    rfl)

theorem hpeek (d : Reg) (a : Reg) : Statement (.hpeek d a) :=
  of1 (q3 22 0 3 (0) (a.toNat) (d.toNat)) rfl (q3_len _ _ _ _ _ _ (by decide)) (by
    rw [maj_pickThrd (q3_maj _ _ _ _ _ _ (by decide) (by decide)), pickThrd, q3_fn _ _ _ _ _ _ (by decide) (by decide) (by decide) a.isLt d.isLt, q3_d _ _ _ _ _ _ (by decide), q3_a _ _ _ _ _ _ (by decide) d.isLt]
    rfl)

theorem waittl (t : BitVec 2) (a : Reg) : Statement (.waittl t a) :=
  of1 (q3 22 0 4 0 a.toNat t.toNat) rfl (by unfold q3; omega) (by
    obtain ⟨w0, h0⟩ : ∃ z, z = q3 22 0 4 0 a.toNat t.toNat := ⟨_, rfl⟩
    rw [← h0]
    unfold q3 at h0
    rw [maj_pickThrd (show w0 / 4 % 64 = 22 by omega), pickThrd, show w0 / 8388608 % 512 = 4 by omega, show BitVec.ofNat 2 (w0 / 256) = t from ofNat_eq _ (by omega), show rA w0 = a from ofNat_eq _ (by omega)]
    rfl)

theorem kexit (a : Reg) : Statement (.kexit a) :=
  of1 (q3 22 0 5 (0) (a.toNat) (0)) rfl (q3_len _ _ _ _ _ _ (by decide)) (by
    rw [maj_pickThrd (q3_maj _ _ _ _ _ _ (by decide) (by decide)), pickThrd, q3_fn _ _ _ _ _ _ (by decide) (by decide) (by decide) a.isLt (by decide), q3_a _ _ _ _ _ _ (by decide) (by decide)]
    rfl)

theorem rdv (d : Reg) (a : Reg) (id : BitVec 4) (count : BitVec 5) : Statement (.rdv d a id count) :=
  of2 (q3 23 1 0 0 a.toNat d.toNat) (id.toNat + 16 * count.toNat + 512 * 0) rfl (by unfold q3; omega) (by
    obtain ⟨w0, h0⟩ : ∃ z, z = q3 23 1 0 0 a.toNat d.toNat := ⟨_, rfl⟩
    rw [← h0]
    unfold q3 at h0
    obtain ⟨w1, h1⟩ : ∃ z, z = id.toNat + 16 * count.toNat + 512 * 0 := ⟨_, rfl⟩
    rw [← h1]
    rw [maj_pickRdv64 (show w0 / 4 % 64 = 23 by omega), pickRdv64, show w1 / 512 % 4 = 0 by omega, show rD w0 = d from ofNat_eq _ (by omega), show rA w0 = a from ofNat_eq _ (by omega), show BitVec.ofNat 4 w1 = id from ofNat_eq _ (by omega), show BitVec.ofNat 5 (w1 / 16) = count from ofNat_eq _ (by omega)]
    rfl)

theorem rdvadd (d : Reg) (a : Reg) (id : BitVec 4) (count : BitVec 5) : Statement (.rdvadd d a id count) :=
  of2 (q3 23 1 0 0 a.toNat d.toNat) (id.toNat + 16 * count.toNat + 512 * 1) rfl (by unfold q3; omega) (by
    obtain ⟨w0, h0⟩ : ∃ z, z = q3 23 1 0 0 a.toNat d.toNat := ⟨_, rfl⟩
    rw [← h0]
    unfold q3 at h0
    obtain ⟨w1, h1⟩ : ∃ z, z = id.toNat + 16 * count.toNat + 512 * 1 := ⟨_, rfl⟩
    rw [← h1]
    rw [maj_pickRdv64 (show w0 / 4 % 64 = 23 by omega), pickRdv64, show w1 / 512 % 4 = 1 by omega, show rD w0 = d from ofNat_eq _ (by omega), show rA w0 = a from ofNat_eq _ (by omega), show BitVec.ofNat 4 w1 = id from ofNat_eq _ (by omega), show BitVec.ofNat 5 (w1 / 16) = count from ofNat_eq _ (by omega)]
    rfl)

theorem rdvmax (d : Reg) (a : Reg) (id : BitVec 4) (count : BitVec 5) : Statement (.rdvmax d a id count) :=
  of2 (q3 23 1 0 0 a.toNat d.toNat) (id.toNat + 16 * count.toNat + 512 * 2) rfl (by unfold q3; omega) (by
    obtain ⟨w0, h0⟩ : ∃ z, z = q3 23 1 0 0 a.toNat d.toNat := ⟨_, rfl⟩
    rw [← h0]
    unfold q3 at h0
    obtain ⟨w1, h1⟩ : ∃ z, z = id.toNat + 16 * count.toNat + 512 * 2 := ⟨_, rfl⟩
    rw [← h1]
    rw [maj_pickRdv64 (show w0 / 4 % 64 = 23 by omega), pickRdv64, show w1 / 512 % 4 = 2 by omega, show rD w0 = d from ofNat_eq _ (by omega), show rA w0 = a from ofNat_eq _ (by omega), show BitVec.ofNat 4 w1 = id from ofNat_eq _ (by omega), show BitVec.ofNat 5 (w1 / 16) = count from ofNat_eq _ (by omega)]
    rfl)

theorem rdvor (d : Reg) (a : Reg) (id : BitVec 4) (count : BitVec 5) : Statement (.rdvor d a id count) :=
  of2 (q3 23 1 0 0 a.toNat d.toNat) (id.toNat + 16 * count.toNat + 512 * 3) rfl (by unfold q3; omega) (by
    obtain ⟨w0, h0⟩ : ∃ z, z = q3 23 1 0 0 a.toNat d.toNat := ⟨_, rfl⟩
    rw [← h0]
    unfold q3 at h0
    obtain ⟨w1, h1⟩ : ∃ z, z = id.toNat + 16 * count.toNat + 512 * 3 := ⟨_, rfl⟩
    rw [← h1]
    rw [maj_pickRdv64 (show w0 / 4 % 64 = 23 by omega), pickRdv64, show w1 / 512 % 4 = 3 by omega, show rD w0 = d from ofNat_eq _ (by omega), show rA w0 = a from ofNat_eq _ (by omega), show BitVec.ofNat 4 w1 = id from ofNat_eq _ (by omega), show BitVec.ofNat 5 (w1 / 16) = count from ofNat_eq _ (by omega)]
    rfl)

theorem li (d : Reg) (imm : BitVec 32) : Statement (.li d imm) :=
  of2 (q3 24 1 0 (0) (0) (d.toNat)) imm.toNat rfl (q3_len _ _ _ _ _ _ (by decide)) (by
    rw [maj_pickLit64 (q3_maj _ _ _ _ _ _ (by decide) (by decide)), pickLit64, q3_fn _ _ _ _ _ _ (by decide) (by decide) (by decide) (by decide) d.isLt, q3_d _ _ _ _ _ _ (by decide), show BitVec.ofNat 32 imm.toNat = imm from ofNat_eq _ (by omega)]
    rfl)

theorem liz (d : Reg) (imm : BitVec 32) : Statement (.liz d imm) :=
  of2 (q3 24 1 1 (0) (0) (d.toNat)) imm.toNat rfl (q3_len _ _ _ _ _ _ (by decide)) (by
    rw [maj_pickLit64 (q3_maj _ _ _ _ _ _ (by decide) (by decide)), pickLit64, q3_fn _ _ _ _ _ _ (by decide) (by decide) (by decide) (by decide) d.isLt, q3_d _ _ _ _ _ _ (by decide), show BitVec.ofNat 32 imm.toNat = imm from ofNat_eq _ (by omega)]
    rfl)

theorem lihi (d : Reg) (a : Reg) (imm : BitVec 32) : Statement (.lihi d a imm) :=
  of2 (q3 24 1 2 (0) (a.toNat) (d.toNat)) imm.toNat rfl (q3_len _ _ _ _ _ _ (by decide)) (by
    rw [maj_pickLit64 (q3_maj _ _ _ _ _ _ (by decide) (by decide)), pickLit64, q3_fn _ _ _ _ _ _ (by decide) (by decide) (by decide) a.isLt d.isLt, q3_d _ _ _ _ _ _ (by decide), q3_a _ _ _ _ _ _ (by decide) d.isLt, show BitVec.ofNat 32 imm.toNat = imm from ofNat_eq _ (by omega)]
    rfl)

theorem addl (d : Reg) (a : Reg) (imm : BitVec 32) : Statement (.addl d a imm) :=
  of2 (q3 24 1 3 (0) (a.toNat) (d.toNat)) imm.toNat rfl (q3_len _ _ _ _ _ _ (by decide)) (by
    rw [maj_pickLit64 (q3_maj _ _ _ _ _ _ (by decide) (by decide)), pickLit64, q3_fn _ _ _ _ _ _ (by decide) (by decide) (by decide) a.isLt d.isLt, q3_d _ _ _ _ _ _ (by decide), q3_a _ _ _ _ _ _ (by decide) d.isLt, show BitVec.ofNat 32 imm.toNat = imm from ofNat_eq _ (by omega)]
    rfl)

theorem andl (d : Reg) (a : Reg) (imm : BitVec 32) : Statement (.andl d a imm) :=
  of2 (q3 24 1 4 (0) (a.toNat) (d.toNat)) imm.toNat rfl (q3_len _ _ _ _ _ _ (by decide)) (by
    rw [maj_pickLit64 (q3_maj _ _ _ _ _ _ (by decide) (by decide)), pickLit64, q3_fn _ _ _ _ _ _ (by decide) (by decide) (by decide) a.isLt d.isLt, q3_d _ _ _ _ _ _ (by decide), q3_a _ _ _ _ _ _ (by decide) d.isLt, show BitVec.ofNat 32 imm.toNat = imm from ofNat_eq _ (by omega)]
    rfl)

theorem orl (d : Reg) (a : Reg) (imm : BitVec 32) : Statement (.orl d a imm) :=
  of2 (q3 24 1 5 (0) (a.toNat) (d.toNat)) imm.toNat rfl (q3_len _ _ _ _ _ _ (by decide)) (by
    rw [maj_pickLit64 (q3_maj _ _ _ _ _ _ (by decide) (by decide)), pickLit64, q3_fn _ _ _ _ _ _ (by decide) (by decide) (by decide) a.isLt d.isLt, q3_d _ _ _ _ _ _ (by decide), q3_a _ _ _ _ _ _ (by decide) d.isLt, show BitVec.ofNat 32 imm.toNat = imm from ofNat_eq _ (by omega)]
    rfl)

theorem xorl (d : Reg) (a : Reg) (imm : BitVec 32) : Statement (.xorl d a imm) :=
  of2 (q3 24 1 6 (0) (a.toNat) (d.toNat)) imm.toNat rfl (q3_len _ _ _ _ _ _ (by decide)) (by
    rw [maj_pickLit64 (q3_maj _ _ _ _ _ _ (by decide) (by decide)), pickLit64, q3_fn _ _ _ _ _ _ (by decide) (by decide) (by decide) a.isLt d.isLt, q3_d _ _ _ _ _ _ (by decide), q3_a _ _ _ _ _ _ (by decide) d.isLt, show BitVec.ofNat 32 imm.toNat = imm from ofNat_eq _ (by omega)]
    rfl)

theorem sltl (d : Reg) (a : Reg) (imm : BitVec 32) : Statement (.sltl d a imm) :=
  of2 (q3 24 1 7 (0) (a.toNat) (d.toNat)) imm.toNat rfl (q3_len _ _ _ _ _ _ (by decide)) (by
    rw [maj_pickLit64 (q3_maj _ _ _ _ _ _ (by decide) (by decide)), pickLit64, q3_fn _ _ _ _ _ _ (by decide) (by decide) (by decide) a.isLt d.isLt, q3_d _ _ _ _ _ _ (by decide), q3_a _ _ _ _ _ _ (by decide) d.isLt, show BitVec.ofNat 32 imm.toNat = imm from ofNat_eq _ (by omega)]
    rfl)

theorem vadd (f : VX) : Statement (.vadd f) :=
  of2 (vx0 32 1 0 f) (vx1 f) rfl (vx0_len _ _ _ f (by decide)) (by
    rw [maj_pickVint64 (vx0_maj _ _ _ f (by decide) (by decide)), pickVint64, vx0_fn _ _ _ f (by decide) (by decide)]
    exact congrArg (fun f => some (Instr.vadd f)) (vx0_vx _ _ _ f (by decide)))

theorem vsub (f : VX) : Statement (.vsub f) :=
  of2 (vx0 32 1 1 f) (vx1 f) rfl (vx0_len _ _ _ f (by decide)) (by
    rw [maj_pickVint64 (vx0_maj _ _ _ f (by decide) (by decide)), pickVint64, vx0_fn _ _ _ f (by decide) (by decide)]
    exact congrArg (fun f => some (Instr.vsub f)) (vx0_vx _ _ _ f (by decide)))

theorem vmul (f : VX) : Statement (.vmul f) :=
  of2 (vx0 32 1 2 f) (vx1 f) rfl (vx0_len _ _ _ f (by decide)) (by
    rw [maj_pickVint64 (vx0_maj _ _ _ f (by decide) (by decide)), pickVint64, vx0_fn _ _ _ f (by decide) (by decide)]
    exact congrArg (fun f => some (Instr.vmul f)) (vx0_vx _ _ _ f (by decide)))

theorem vmulh (f : VX) : Statement (.vmulh f) :=
  of2 (vx0 32 1 3 f) (vx1 f) rfl (vx0_len _ _ _ f (by decide)) (by
    rw [maj_pickVint64 (vx0_maj _ _ _ f (by decide) (by decide)), pickVint64, vx0_fn _ _ _ f (by decide) (by decide)]
    exact congrArg (fun f => some (Instr.vmulh f)) (vx0_vx _ _ _ f (by decide)))

theorem vmadd (f : VX) : Statement (.vmadd f) :=
  of2 (vx0 32 1 4 f) (vx1 f) rfl (vx0_len _ _ _ f (by decide)) (by
    rw [maj_pickVint64 (vx0_maj _ _ _ f (by decide) (by decide)), pickVint64, vx0_fn _ _ _ f (by decide) (by decide)]
    exact congrArg (fun f => some (Instr.vmadd f)) (vx0_vx _ _ _ f (by decide)))

theorem vabs (f : VX) : Statement (.vabs f) :=
  of2 (vx0 32 1 5 f) (vx1 f) rfl (vx0_len _ _ _ f (by decide)) (by
    rw [maj_pickVint64 (vx0_maj _ _ _ f (by decide) (by decide)), pickVint64, vx0_fn _ _ _ f (by decide) (by decide)]
    exact congrArg (fun f => some (Instr.vabs f)) (vx0_vx _ _ _ f (by decide)))

theorem vneg (f : VX) : Statement (.vneg f) :=
  of2 (vx0 32 1 6 f) (vx1 f) rfl (vx0_len _ _ _ f (by decide)) (by
    rw [maj_pickVint64 (vx0_maj _ _ _ f (by decide) (by decide)), pickVint64, vx0_fn _ _ _ f (by decide) (by decide)]
    exact congrArg (fun f => some (Instr.vneg f)) (vx0_vx _ _ _ f (by decide)))

theorem vmin (f : VX) : Statement (.vmin f) :=
  of2 (vx0 32 1 7 f) (vx1 f) rfl (vx0_len _ _ _ f (by decide)) (by
    rw [maj_pickVint64 (vx0_maj _ _ _ f (by decide) (by decide)), pickVint64, vx0_fn _ _ _ f (by decide) (by decide)]
    exact congrArg (fun f => some (Instr.vmin f)) (vx0_vx _ _ _ f (by decide)))

theorem vmax (f : VX) : Statement (.vmax f) :=
  of2 (vx0 32 1 8 f) (vx1 f) rfl (vx0_len _ _ _ f (by decide)) (by
    rw [maj_pickVint64 (vx0_maj _ _ _ f (by decide) (by decide)), pickVint64, vx0_fn _ _ _ f (by decide) (by decide)]
    exact congrArg (fun f => some (Instr.vmax f)) (vx0_vx _ _ _ f (by decide)))

theorem vadds (f : VX) : Statement (.vadds f) :=
  of2 (vx0 32 1 9 f) (vx1 f) rfl (vx0_len _ _ _ f (by decide)) (by
    rw [maj_pickVint64 (vx0_maj _ _ _ f (by decide) (by decide)), pickVint64, vx0_fn _ _ _ f (by decide) (by decide)]
    exact congrArg (fun f => some (Instr.vadds f)) (vx0_vx _ _ _ f (by decide)))

theorem vsubs (f : VX) : Statement (.vsubs f) :=
  of2 (vx0 32 1 10 f) (vx1 f) rfl (vx0_len _ _ _ f (by decide)) (by
    rw [maj_pickVint64 (vx0_maj _ _ _ f (by decide) (by decide)), pickVint64, vx0_fn _ _ _ f (by decide) (by decide)]
    exact congrArg (fun f => some (Instr.vsubs f)) (vx0_vx _ _ _ f (by decide)))

theorem vavg (f : VX) : Statement (.vavg f) :=
  of2 (vx0 32 1 11 f) (vx1 f) rfl (vx0_len _ _ _ f (by decide)) (by
    rw [maj_pickVint64 (vx0_maj _ _ _ f (by decide) (by decide)), pickVint64, vx0_fn _ _ _ f (by decide) (by decide)]
    exact congrArg (fun f => some (Instr.vavg f)) (vx0_vx _ _ _ f (by decide)))

theorem vshl (f : VX) : Statement (.vshl f) :=
  of2 (vx0 32 1 12 f) (vx1 f) rfl (vx0_len _ _ _ f (by decide)) (by
    rw [maj_pickVint64 (vx0_maj _ _ _ f (by decide) (by decide)), pickVint64, vx0_fn _ _ _ f (by decide) (by decide)]
    exact congrArg (fun f => some (Instr.vshl f)) (vx0_vx _ _ _ f (by decide)))

theorem vshr (f : VX) : Statement (.vshr f) :=
  of2 (vx0 32 1 13 f) (vx1 f) rfl (vx0_len _ _ _ f (by decide)) (by
    rw [maj_pickVint64 (vx0_maj _ _ _ f (by decide) (by decide)), pickVint64, vx0_fn _ _ _ f (by decide) (by decide)]
    exact congrArg (fun f => some (Instr.vshr f)) (vx0_vx _ _ _ f (by decide)))

theorem vsra (f : VX) : Statement (.vsra f) :=
  of2 (vx0 32 1 14 f) (vx1 f) rfl (vx0_len _ _ _ f (by decide)) (by
    rw [maj_pickVint64 (vx0_maj _ _ _ f (by decide) (by decide)), pickVint64, vx0_fn _ _ _ f (by decide) (by decide)]
    exact congrArg (fun f => some (Instr.vsra f)) (vx0_vx _ _ _ f (by decide)))

theorem vdot4 (f : VX) : Statement (.vdot4 f) :=
  of2 (vx0 32 1 15 f) (vx1 f) rfl (vx0_len _ _ _ f (by decide)) (by
    rw [maj_pickVint64 (vx0_maj _ _ _ f (by decide) (by decide)), pickVint64, vx0_fn _ _ _ f (by decide) (by decide)]
    exact congrArg (fun f => some (Instr.vdot4 f)) (vx0_vx _ _ _ f (by decide)))

theorem vmov (f : VX) : Statement (.vmov f) :=
  of2 (vx0 32 1 16 f) (vx1 f) rfl (vx0_len _ _ _ f (by decide)) (by
    rw [maj_pickVint64 (vx0_maj _ _ _ f (by decide) (by decide)), pickVint64, vx0_fn _ _ _ f (by decide) (by decide)]
    exact congrArg (fun f => some (Instr.vmov f)) (vx0_vx _ _ _ f (by decide)))

theorem vaddLit (f : VX) (lit : BitVec 32) : Statement (.vaddLit f lit) :=
  of3 (vx0 32 2 0 f) (vx1 f) lit.toNat rfl (vx0_len _ _ _ f (by decide)) (by
    rw [maj_pickVint96 (vx0_maj _ _ _ f (by decide) (by decide)), pickVint96, vx0_fn _ _ _ f (by decide) (by decide)]
    rw [vx0_vx _ _ _ f (by decide)]
    exact congrArg (fun l => some (Instr.vaddLit f l)) (ofNat_eq lit (Nat.mod_eq_of_lt lit.isLt)))

theorem vsubLit (f : VX) (lit : BitVec 32) : Statement (.vsubLit f lit) :=
  of3 (vx0 32 2 1 f) (vx1 f) lit.toNat rfl (vx0_len _ _ _ f (by decide)) (by
    rw [maj_pickVint96 (vx0_maj _ _ _ f (by decide) (by decide)), pickVint96, vx0_fn _ _ _ f (by decide) (by decide)]
    rw [vx0_vx _ _ _ f (by decide)]
    exact congrArg (fun l => some (Instr.vsubLit f l)) (ofNat_eq lit (Nat.mod_eq_of_lt lit.isLt)))

theorem vmulLit (f : VX) (lit : BitVec 32) : Statement (.vmulLit f lit) :=
  of3 (vx0 32 2 2 f) (vx1 f) lit.toNat rfl (vx0_len _ _ _ f (by decide)) (by
    rw [maj_pickVint96 (vx0_maj _ _ _ f (by decide) (by decide)), pickVint96, vx0_fn _ _ _ f (by decide) (by decide)]
    rw [vx0_vx _ _ _ f (by decide)]
    exact congrArg (fun l => some (Instr.vmulLit f l)) (ofNat_eq lit (Nat.mod_eq_of_lt lit.isLt)))

theorem vmulhLit (f : VX) (lit : BitVec 32) : Statement (.vmulhLit f lit) :=
  of3 (vx0 32 2 3 f) (vx1 f) lit.toNat rfl (vx0_len _ _ _ f (by decide)) (by
    rw [maj_pickVint96 (vx0_maj _ _ _ f (by decide) (by decide)), pickVint96, vx0_fn _ _ _ f (by decide) (by decide)]
    rw [vx0_vx _ _ _ f (by decide)]
    exact congrArg (fun l => some (Instr.vmulhLit f l)) (ofNat_eq lit (Nat.mod_eq_of_lt lit.isLt)))

theorem vmaddLit (f : VX) (lit : BitVec 32) : Statement (.vmaddLit f lit) :=
  of3 (vx0 32 2 4 f) (vx1 f) lit.toNat rfl (vx0_len _ _ _ f (by decide)) (by
    rw [maj_pickVint96 (vx0_maj _ _ _ f (by decide) (by decide)), pickVint96, vx0_fn _ _ _ f (by decide) (by decide)]
    rw [vx0_vx _ _ _ f (by decide)]
    exact congrArg (fun l => some (Instr.vmaddLit f l)) (ofNat_eq lit (Nat.mod_eq_of_lt lit.isLt)))

theorem vabsLit (f : VX) (lit : BitVec 32) : Statement (.vabsLit f lit) :=
  of3 (vx0 32 2 5 f) (vx1 f) lit.toNat rfl (vx0_len _ _ _ f (by decide)) (by
    rw [maj_pickVint96 (vx0_maj _ _ _ f (by decide) (by decide)), pickVint96, vx0_fn _ _ _ f (by decide) (by decide)]
    rw [vx0_vx _ _ _ f (by decide)]
    exact congrArg (fun l => some (Instr.vabsLit f l)) (ofNat_eq lit (Nat.mod_eq_of_lt lit.isLt)))

theorem vnegLit (f : VX) (lit : BitVec 32) : Statement (.vnegLit f lit) :=
  of3 (vx0 32 2 6 f) (vx1 f) lit.toNat rfl (vx0_len _ _ _ f (by decide)) (by
    rw [maj_pickVint96 (vx0_maj _ _ _ f (by decide) (by decide)), pickVint96, vx0_fn _ _ _ f (by decide) (by decide)]
    rw [vx0_vx _ _ _ f (by decide)]
    exact congrArg (fun l => some (Instr.vnegLit f l)) (ofNat_eq lit (Nat.mod_eq_of_lt lit.isLt)))

theorem vminLit (f : VX) (lit : BitVec 32) : Statement (.vminLit f lit) :=
  of3 (vx0 32 2 7 f) (vx1 f) lit.toNat rfl (vx0_len _ _ _ f (by decide)) (by
    rw [maj_pickVint96 (vx0_maj _ _ _ f (by decide) (by decide)), pickVint96, vx0_fn _ _ _ f (by decide) (by decide)]
    rw [vx0_vx _ _ _ f (by decide)]
    exact congrArg (fun l => some (Instr.vminLit f l)) (ofNat_eq lit (Nat.mod_eq_of_lt lit.isLt)))

theorem vmaxLit (f : VX) (lit : BitVec 32) : Statement (.vmaxLit f lit) :=
  of3 (vx0 32 2 8 f) (vx1 f) lit.toNat rfl (vx0_len _ _ _ f (by decide)) (by
    rw [maj_pickVint96 (vx0_maj _ _ _ f (by decide) (by decide)), pickVint96, vx0_fn _ _ _ f (by decide) (by decide)]
    rw [vx0_vx _ _ _ f (by decide)]
    exact congrArg (fun l => some (Instr.vmaxLit f l)) (ofNat_eq lit (Nat.mod_eq_of_lt lit.isLt)))

theorem vaddsLit (f : VX) (lit : BitVec 32) : Statement (.vaddsLit f lit) :=
  of3 (vx0 32 2 9 f) (vx1 f) lit.toNat rfl (vx0_len _ _ _ f (by decide)) (by
    rw [maj_pickVint96 (vx0_maj _ _ _ f (by decide) (by decide)), pickVint96, vx0_fn _ _ _ f (by decide) (by decide)]
    rw [vx0_vx _ _ _ f (by decide)]
    exact congrArg (fun l => some (Instr.vaddsLit f l)) (ofNat_eq lit (Nat.mod_eq_of_lt lit.isLt)))

theorem vsubsLit (f : VX) (lit : BitVec 32) : Statement (.vsubsLit f lit) :=
  of3 (vx0 32 2 10 f) (vx1 f) lit.toNat rfl (vx0_len _ _ _ f (by decide)) (by
    rw [maj_pickVint96 (vx0_maj _ _ _ f (by decide) (by decide)), pickVint96, vx0_fn _ _ _ f (by decide) (by decide)]
    rw [vx0_vx _ _ _ f (by decide)]
    exact congrArg (fun l => some (Instr.vsubsLit f l)) (ofNat_eq lit (Nat.mod_eq_of_lt lit.isLt)))

theorem vavgLit (f : VX) (lit : BitVec 32) : Statement (.vavgLit f lit) :=
  of3 (vx0 32 2 11 f) (vx1 f) lit.toNat rfl (vx0_len _ _ _ f (by decide)) (by
    rw [maj_pickVint96 (vx0_maj _ _ _ f (by decide) (by decide)), pickVint96, vx0_fn _ _ _ f (by decide) (by decide)]
    rw [vx0_vx _ _ _ f (by decide)]
    exact congrArg (fun l => some (Instr.vavgLit f l)) (ofNat_eq lit (Nat.mod_eq_of_lt lit.isLt)))

theorem vshlLit (f : VX) (lit : BitVec 32) : Statement (.vshlLit f lit) :=
  of3 (vx0 32 2 12 f) (vx1 f) lit.toNat rfl (vx0_len _ _ _ f (by decide)) (by
    rw [maj_pickVint96 (vx0_maj _ _ _ f (by decide) (by decide)), pickVint96, vx0_fn _ _ _ f (by decide) (by decide)]
    rw [vx0_vx _ _ _ f (by decide)]
    exact congrArg (fun l => some (Instr.vshlLit f l)) (ofNat_eq lit (Nat.mod_eq_of_lt lit.isLt)))

theorem vshrLit (f : VX) (lit : BitVec 32) : Statement (.vshrLit f lit) :=
  of3 (vx0 32 2 13 f) (vx1 f) lit.toNat rfl (vx0_len _ _ _ f (by decide)) (by
    rw [maj_pickVint96 (vx0_maj _ _ _ f (by decide) (by decide)), pickVint96, vx0_fn _ _ _ f (by decide) (by decide)]
    rw [vx0_vx _ _ _ f (by decide)]
    exact congrArg (fun l => some (Instr.vshrLit f l)) (ofNat_eq lit (Nat.mod_eq_of_lt lit.isLt)))

theorem vsraLit (f : VX) (lit : BitVec 32) : Statement (.vsraLit f lit) :=
  of3 (vx0 32 2 14 f) (vx1 f) lit.toNat rfl (vx0_len _ _ _ f (by decide)) (by
    rw [maj_pickVint96 (vx0_maj _ _ _ f (by decide) (by decide)), pickVint96, vx0_fn _ _ _ f (by decide) (by decide)]
    rw [vx0_vx _ _ _ f (by decide)]
    exact congrArg (fun l => some (Instr.vsraLit f l)) (ofNat_eq lit (Nat.mod_eq_of_lt lit.isLt)))

theorem vdot4Lit (f : VX) (lit : BitVec 32) : Statement (.vdot4Lit f lit) :=
  of3 (vx0 32 2 15 f) (vx1 f) lit.toNat rfl (vx0_len _ _ _ f (by decide)) (by
    rw [maj_pickVint96 (vx0_maj _ _ _ f (by decide) (by decide)), pickVint96, vx0_fn _ _ _ f (by decide) (by decide)]
    rw [vx0_vx _ _ _ f (by decide)]
    exact congrArg (fun l => some (Instr.vdot4Lit f l)) (ofNat_eq lit (Nat.mod_eq_of_lt lit.isLt)))

theorem vmovLit (f : VX) (lit : BitVec 32) : Statement (.vmovLit f lit) :=
  of3 (vx0 32 2 16 f) (vx1 f) lit.toNat rfl (vx0_len _ _ _ f (by decide)) (by
    rw [maj_pickVint96 (vx0_maj _ _ _ f (by decide) (by decide)), pickVint96, vx0_fn _ _ _ f (by decide) (by decide)]
    rw [vx0_vx _ _ _ f (by decide)]
    exact congrArg (fun l => some (Instr.vmovLit f l)) (ofNat_eq lit (Nat.mod_eq_of_lt lit.isLt)))

theorem vfadd (f : VX) : Statement (.vfadd f) :=
  of2 (vx0 33 1 0 f) (vx1 f) rfl (vx0_len _ _ _ f (by decide)) (by
    rw [maj_pickVflt64 (vx0_maj _ _ _ f (by decide) (by decide)), pickVflt64, vx0_fn _ _ _ f (by decide) (by decide)]
    exact congrArg (fun f => some (Instr.vfadd f)) (vx0_vx _ _ _ f (by decide)))

theorem vfsub (f : VX) : Statement (.vfsub f) :=
  of2 (vx0 33 1 1 f) (vx1 f) rfl (vx0_len _ _ _ f (by decide)) (by
    rw [maj_pickVflt64 (vx0_maj _ _ _ f (by decide) (by decide)), pickVflt64, vx0_fn _ _ _ f (by decide) (by decide)]
    exact congrArg (fun f => some (Instr.vfsub f)) (vx0_vx _ _ _ f (by decide)))

theorem vfmul (f : VX) : Statement (.vfmul f) :=
  of2 (vx0 33 1 2 f) (vx1 f) rfl (vx0_len _ _ _ f (by decide)) (by
    rw [maj_pickVflt64 (vx0_maj _ _ _ f (by decide) (by decide)), pickVflt64, vx0_fn _ _ _ f (by decide) (by decide)]
    exact congrArg (fun f => some (Instr.vfmul f)) (vx0_vx _ _ _ f (by decide)))

theorem vfdiv (f : VX) : Statement (.vfdiv f) :=
  of2 (vx0 33 1 3 f) (vx1 f) rfl (vx0_len _ _ _ f (by decide)) (by
    rw [maj_pickVflt64 (vx0_maj _ _ _ f (by decide) (by decide)), pickVflt64, vx0_fn _ _ _ f (by decide) (by decide)]
    exact congrArg (fun f => some (Instr.vfdiv f)) (vx0_vx _ _ _ f (by decide)))

theorem vfsqrt (f : VX) : Statement (.vfsqrt f) :=
  of2 (vx0 33 1 4 f) (vx1 f) rfl (vx0_len _ _ _ f (by decide)) (by
    rw [maj_pickVflt64 (vx0_maj _ _ _ f (by decide) (by decide)), pickVflt64, vx0_fn _ _ _ f (by decide) (by decide)]
    exact congrArg (fun f => some (Instr.vfsqrt f)) (vx0_vx _ _ _ f (by decide)))

theorem vfma (f : VX) : Statement (.vfma f) :=
  of2 (vx0 33 1 5 f) (vx1 f) rfl (vx0_len _ _ _ f (by decide)) (by
    rw [maj_pickVflt64 (vx0_maj _ _ _ f (by decide) (by decide)), pickVflt64, vx0_fn _ _ _ f (by decide) (by decide)]
    exact congrArg (fun f => some (Instr.vfma f)) (vx0_vx _ _ _ f (by decide)))

theorem vfms (f : VX) : Statement (.vfms f) :=
  of2 (vx0 33 1 6 f) (vx1 f) rfl (vx0_len _ _ _ f (by decide)) (by
    rw [maj_pickVflt64 (vx0_maj _ _ _ f (by decide) (by decide)), pickVflt64, vx0_fn _ _ _ f (by decide) (by decide)]
    exact congrArg (fun f => some (Instr.vfms f)) (vx0_vx _ _ _ f (by decide)))

theorem vfnma (f : VX) : Statement (.vfnma f) :=
  of2 (vx0 33 1 7 f) (vx1 f) rfl (vx0_len _ _ _ f (by decide)) (by
    rw [maj_pickVflt64 (vx0_maj _ _ _ f (by decide) (by decide)), pickVflt64, vx0_fn _ _ _ f (by decide) (by decide)]
    exact congrArg (fun f => some (Instr.vfnma f)) (vx0_vx _ _ _ f (by decide)))

theorem vfmin (f : VX) : Statement (.vfmin f) :=
  of2 (vx0 33 1 8 f) (vx1 f) rfl (vx0_len _ _ _ f (by decide)) (by
    rw [maj_pickVflt64 (vx0_maj _ _ _ f (by decide) (by decide)), pickVflt64, vx0_fn _ _ _ f (by decide) (by decide)]
    exact congrArg (fun f => some (Instr.vfmin f)) (vx0_vx _ _ _ f (by decide)))

theorem vfmax (f : VX) : Statement (.vfmax f) :=
  of2 (vx0 33 1 9 f) (vx1 f) rfl (vx0_len _ _ _ f (by decide)) (by
    rw [maj_pickVflt64 (vx0_maj _ _ _ f (by decide) (by decide)), pickVflt64, vx0_fn _ _ _ f (by decide) (by decide)]
    exact congrArg (fun f => some (Instr.vfmax f)) (vx0_vx _ _ _ f (by decide)))

theorem vfabs (f : VX) : Statement (.vfabs f) :=
  of2 (vx0 33 1 10 f) (vx1 f) rfl (vx0_len _ _ _ f (by decide)) (by
    rw [maj_pickVflt64 (vx0_maj _ _ _ f (by decide) (by decide)), pickVflt64, vx0_fn _ _ _ f (by decide) (by decide)]
    exact congrArg (fun f => some (Instr.vfabs f)) (vx0_vx _ _ _ f (by decide)))

theorem vfneg (f : VX) : Statement (.vfneg f) :=
  of2 (vx0 33 1 11 f) (vx1 f) rfl (vx0_len _ _ _ f (by decide)) (by
    rw [maj_pickVflt64 (vx0_maj _ _ _ f (by decide) (by decide)), pickVflt64, vx0_fn _ _ _ f (by decide) (by decide)]
    exact congrArg (fun f => some (Instr.vfneg f)) (vx0_vx _ _ _ f (by decide)))

theorem vfaddLit (f : VX) (lit : BitVec 32) : Statement (.vfaddLit f lit) :=
  of3 (vx0 33 2 0 f) (vx1 f) lit.toNat rfl (vx0_len _ _ _ f (by decide)) (by
    rw [maj_pickVflt96 (vx0_maj _ _ _ f (by decide) (by decide)), pickVflt96, vx0_fn _ _ _ f (by decide) (by decide)]
    rw [vx0_vx _ _ _ f (by decide)]
    exact congrArg (fun l => some (Instr.vfaddLit f l)) (ofNat_eq lit (Nat.mod_eq_of_lt lit.isLt)))

theorem vfsubLit (f : VX) (lit : BitVec 32) : Statement (.vfsubLit f lit) :=
  of3 (vx0 33 2 1 f) (vx1 f) lit.toNat rfl (vx0_len _ _ _ f (by decide)) (by
    rw [maj_pickVflt96 (vx0_maj _ _ _ f (by decide) (by decide)), pickVflt96, vx0_fn _ _ _ f (by decide) (by decide)]
    rw [vx0_vx _ _ _ f (by decide)]
    exact congrArg (fun l => some (Instr.vfsubLit f l)) (ofNat_eq lit (Nat.mod_eq_of_lt lit.isLt)))

theorem vfmulLit (f : VX) (lit : BitVec 32) : Statement (.vfmulLit f lit) :=
  of3 (vx0 33 2 2 f) (vx1 f) lit.toNat rfl (vx0_len _ _ _ f (by decide)) (by
    rw [maj_pickVflt96 (vx0_maj _ _ _ f (by decide) (by decide)), pickVflt96, vx0_fn _ _ _ f (by decide) (by decide)]
    rw [vx0_vx _ _ _ f (by decide)]
    exact congrArg (fun l => some (Instr.vfmulLit f l)) (ofNat_eq lit (Nat.mod_eq_of_lt lit.isLt)))

theorem vfdivLit (f : VX) (lit : BitVec 32) : Statement (.vfdivLit f lit) :=
  of3 (vx0 33 2 3 f) (vx1 f) lit.toNat rfl (vx0_len _ _ _ f (by decide)) (by
    rw [maj_pickVflt96 (vx0_maj _ _ _ f (by decide) (by decide)), pickVflt96, vx0_fn _ _ _ f (by decide) (by decide)]
    rw [vx0_vx _ _ _ f (by decide)]
    exact congrArg (fun l => some (Instr.vfdivLit f l)) (ofNat_eq lit (Nat.mod_eq_of_lt lit.isLt)))

theorem vfsqrtLit (f : VX) (lit : BitVec 32) : Statement (.vfsqrtLit f lit) :=
  of3 (vx0 33 2 4 f) (vx1 f) lit.toNat rfl (vx0_len _ _ _ f (by decide)) (by
    rw [maj_pickVflt96 (vx0_maj _ _ _ f (by decide) (by decide)), pickVflt96, vx0_fn _ _ _ f (by decide) (by decide)]
    rw [vx0_vx _ _ _ f (by decide)]
    exact congrArg (fun l => some (Instr.vfsqrtLit f l)) (ofNat_eq lit (Nat.mod_eq_of_lt lit.isLt)))

theorem vfmaLit (f : VX) (lit : BitVec 32) : Statement (.vfmaLit f lit) :=
  of3 (vx0 33 2 5 f) (vx1 f) lit.toNat rfl (vx0_len _ _ _ f (by decide)) (by
    rw [maj_pickVflt96 (vx0_maj _ _ _ f (by decide) (by decide)), pickVflt96, vx0_fn _ _ _ f (by decide) (by decide)]
    rw [vx0_vx _ _ _ f (by decide)]
    exact congrArg (fun l => some (Instr.vfmaLit f l)) (ofNat_eq lit (Nat.mod_eq_of_lt lit.isLt)))

theorem vfmsLit (f : VX) (lit : BitVec 32) : Statement (.vfmsLit f lit) :=
  of3 (vx0 33 2 6 f) (vx1 f) lit.toNat rfl (vx0_len _ _ _ f (by decide)) (by
    rw [maj_pickVflt96 (vx0_maj _ _ _ f (by decide) (by decide)), pickVflt96, vx0_fn _ _ _ f (by decide) (by decide)]
    rw [vx0_vx _ _ _ f (by decide)]
    exact congrArg (fun l => some (Instr.vfmsLit f l)) (ofNat_eq lit (Nat.mod_eq_of_lt lit.isLt)))

theorem vfnmaLit (f : VX) (lit : BitVec 32) : Statement (.vfnmaLit f lit) :=
  of3 (vx0 33 2 7 f) (vx1 f) lit.toNat rfl (vx0_len _ _ _ f (by decide)) (by
    rw [maj_pickVflt96 (vx0_maj _ _ _ f (by decide) (by decide)), pickVflt96, vx0_fn _ _ _ f (by decide) (by decide)]
    rw [vx0_vx _ _ _ f (by decide)]
    exact congrArg (fun l => some (Instr.vfnmaLit f l)) (ofNat_eq lit (Nat.mod_eq_of_lt lit.isLt)))

theorem vfminLit (f : VX) (lit : BitVec 32) : Statement (.vfminLit f lit) :=
  of3 (vx0 33 2 8 f) (vx1 f) lit.toNat rfl (vx0_len _ _ _ f (by decide)) (by
    rw [maj_pickVflt96 (vx0_maj _ _ _ f (by decide) (by decide)), pickVflt96, vx0_fn _ _ _ f (by decide) (by decide)]
    rw [vx0_vx _ _ _ f (by decide)]
    exact congrArg (fun l => some (Instr.vfminLit f l)) (ofNat_eq lit (Nat.mod_eq_of_lt lit.isLt)))

theorem vfmaxLit (f : VX) (lit : BitVec 32) : Statement (.vfmaxLit f lit) :=
  of3 (vx0 33 2 9 f) (vx1 f) lit.toNat rfl (vx0_len _ _ _ f (by decide)) (by
    rw [maj_pickVflt96 (vx0_maj _ _ _ f (by decide) (by decide)), pickVflt96, vx0_fn _ _ _ f (by decide) (by decide)]
    rw [vx0_vx _ _ _ f (by decide)]
    exact congrArg (fun l => some (Instr.vfmaxLit f l)) (ofNat_eq lit (Nat.mod_eq_of_lt lit.isLt)))

theorem vfabsLit (f : VX) (lit : BitVec 32) : Statement (.vfabsLit f lit) :=
  of3 (vx0 33 2 10 f) (vx1 f) lit.toNat rfl (vx0_len _ _ _ f (by decide)) (by
    rw [maj_pickVflt96 (vx0_maj _ _ _ f (by decide) (by decide)), pickVflt96, vx0_fn _ _ _ f (by decide) (by decide)]
    rw [vx0_vx _ _ _ f (by decide)]
    exact congrArg (fun l => some (Instr.vfabsLit f l)) (ofNat_eq lit (Nat.mod_eq_of_lt lit.isLt)))

theorem vfnegLit (f : VX) (lit : BitVec 32) : Statement (.vfnegLit f lit) :=
  of3 (vx0 33 2 11 f) (vx1 f) lit.toNat rfl (vx0_len _ _ _ f (by decide)) (by
    rw [maj_pickVflt96 (vx0_maj _ _ _ f (by decide) (by decide)), pickVflt96, vx0_fn _ _ _ f (by decide) (by decide)]
    rw [vx0_vx _ _ _ f (by decide)]
    exact congrArg (fun l => some (Instr.vfnegLit f l)) (ofNat_eq lit (Nat.mod_eq_of_lt lit.isLt)))

theorem vand (f : VX) : Statement (.vand f) :=
  of2 (vx0 34 1 0 f) (vx1 f) rfl (vx0_len _ _ _ f (by decide)) (by
    rw [maj_pickVbit64 (vx0_maj _ _ _ f (by decide) (by decide)), pickVbit64, vx0_fn _ _ _ f (by decide) (by decide)]
    exact congrArg (fun f => some (Instr.vand f)) (vx0_vx _ _ _ f (by decide)))

theorem vor (f : VX) : Statement (.vor f) :=
  of2 (vx0 34 1 1 f) (vx1 f) rfl (vx0_len _ _ _ f (by decide)) (by
    rw [maj_pickVbit64 (vx0_maj _ _ _ f (by decide) (by decide)), pickVbit64, vx0_fn _ _ _ f (by decide) (by decide)]
    exact congrArg (fun f => some (Instr.vor f)) (vx0_vx _ _ _ f (by decide)))

theorem vxor (f : VX) : Statement (.vxor f) :=
  of2 (vx0 34 1 2 f) (vx1 f) rfl (vx0_len _ _ _ f (by decide)) (by
    rw [maj_pickVbit64 (vx0_maj _ _ _ f (by decide) (by decide)), pickVbit64, vx0_fn _ _ _ f (by decide) (by decide)]
    exact congrArg (fun f => some (Instr.vxor f)) (vx0_vx _ _ _ f (by decide)))

theorem vandn (f : VX) : Statement (.vandn f) :=
  of2 (vx0 34 1 3 f) (vx1 f) rfl (vx0_len _ _ _ f (by decide)) (by
    rw [maj_pickVbit64 (vx0_maj _ _ _ f (by decide) (by decide)), pickVbit64, vx0_fn _ _ _ f (by decide) (by decide)]
    exact congrArg (fun f => some (Instr.vandn f)) (vx0_vx _ _ _ f (by decide)))

theorem vnot (f : VX) : Statement (.vnot f) :=
  of2 (vx0 34 1 4 f) (vx1 f) rfl (vx0_len _ _ _ f (by decide)) (by
    rw [maj_pickVbit64 (vx0_maj _ _ _ f (by decide) (by decide)), pickVbit64, vx0_fn _ _ _ f (by decide) (by decide)]
    exact congrArg (fun f => some (Instr.vnot f)) (vx0_vx _ _ _ f (by decide)))

theorem vpopc (f : VX) : Statement (.vpopc f) :=
  of2 (vx0 34 1 5 f) (vx1 f) rfl (vx0_len _ _ _ f (by decide)) (by
    rw [maj_pickVbit64 (vx0_maj _ _ _ f (by decide) (by decide)), pickVbit64, vx0_fn _ _ _ f (by decide) (by decide)]
    exact congrArg (fun f => some (Instr.vpopc f)) (vx0_vx _ _ _ f (by decide)))

theorem vclz (f : VX) : Statement (.vclz f) :=
  of2 (vx0 34 1 6 f) (vx1 f) rfl (vx0_len _ _ _ f (by decide)) (by
    rw [maj_pickVbit64 (vx0_maj _ _ _ f (by decide) (by decide)), pickVbit64, vx0_fn _ _ _ f (by decide) (by decide)]
    exact congrArg (fun f => some (Instr.vclz f)) (vx0_vx _ _ _ f (by decide)))

theorem vctz (f : VX) : Statement (.vctz f) :=
  of2 (vx0 34 1 7 f) (vx1 f) rfl (vx0_len _ _ _ f (by decide)) (by
    rw [maj_pickVbit64 (vx0_maj _ _ _ f (by decide) (by decide)), pickVbit64, vx0_fn _ _ _ f (by decide) (by decide)]
    exact congrArg (fun f => some (Instr.vctz f)) (vx0_vx _ _ _ f (by decide)))

theorem vbrev (f : VX) : Statement (.vbrev f) :=
  of2 (vx0 34 1 8 f) (vx1 f) rfl (vx0_len _ _ _ f (by decide)) (by
    rw [maj_pickVbit64 (vx0_maj _ _ _ f (by decide) (by decide)), pickVbit64, vx0_fn _ _ _ f (by decide) (by decide)]
    exact congrArg (fun f => some (Instr.vbrev f)) (vx0_vx _ _ _ f (by decide)))

theorem vfnsb (f : VX) : Statement (.vfnsb f) :=
  of2 (vx0 34 1 9 f) (vx1 f) rfl (vx0_len _ _ _ f (by decide)) (by
    rw [maj_pickVbit64 (vx0_maj _ _ _ f (by decide) (by decide)), pickVbit64, vx0_fn _ _ _ f (by decide) (by decide)]
    exact congrArg (fun f => some (Instr.vfnsb f)) (vx0_vx _ _ _ f (by decide)))

theorem vbfx (f : VX) : Statement (.vbfx f) :=
  of2 (vx0 34 1 10 f) (vx1 f) rfl (vx0_len _ _ _ f (by decide)) (by
    rw [maj_pickVbit64 (vx0_maj _ _ _ f (by decide) (by decide)), pickVbit64, vx0_fn _ _ _ f (by decide) (by decide)]
    exact congrArg (fun f => some (Instr.vbfx f)) (vx0_vx _ _ _ f (by decide)))

theorem vandLit (f : VX) (lit : BitVec 32) : Statement (.vandLit f lit) :=
  of3 (vx0 34 2 0 f) (vx1 f) lit.toNat rfl (vx0_len _ _ _ f (by decide)) (by
    rw [maj_pickVbit96 (vx0_maj _ _ _ f (by decide) (by decide)), pickVbit96, vx0_fn _ _ _ f (by decide) (by decide)]
    rw [vx0_vx _ _ _ f (by decide)]
    exact congrArg (fun l => some (Instr.vandLit f l)) (ofNat_eq lit (Nat.mod_eq_of_lt lit.isLt)))

theorem vorLit (f : VX) (lit : BitVec 32) : Statement (.vorLit f lit) :=
  of3 (vx0 34 2 1 f) (vx1 f) lit.toNat rfl (vx0_len _ _ _ f (by decide)) (by
    rw [maj_pickVbit96 (vx0_maj _ _ _ f (by decide) (by decide)), pickVbit96, vx0_fn _ _ _ f (by decide) (by decide)]
    rw [vx0_vx _ _ _ f (by decide)]
    exact congrArg (fun l => some (Instr.vorLit f l)) (ofNat_eq lit (Nat.mod_eq_of_lt lit.isLt)))

theorem vxorLit (f : VX) (lit : BitVec 32) : Statement (.vxorLit f lit) :=
  of3 (vx0 34 2 2 f) (vx1 f) lit.toNat rfl (vx0_len _ _ _ f (by decide)) (by
    rw [maj_pickVbit96 (vx0_maj _ _ _ f (by decide) (by decide)), pickVbit96, vx0_fn _ _ _ f (by decide) (by decide)]
    rw [vx0_vx _ _ _ f (by decide)]
    exact congrArg (fun l => some (Instr.vxorLit f l)) (ofNat_eq lit (Nat.mod_eq_of_lt lit.isLt)))

theorem vandnLit (f : VX) (lit : BitVec 32) : Statement (.vandnLit f lit) :=
  of3 (vx0 34 2 3 f) (vx1 f) lit.toNat rfl (vx0_len _ _ _ f (by decide)) (by
    rw [maj_pickVbit96 (vx0_maj _ _ _ f (by decide) (by decide)), pickVbit96, vx0_fn _ _ _ f (by decide) (by decide)]
    rw [vx0_vx _ _ _ f (by decide)]
    exact congrArg (fun l => some (Instr.vandnLit f l)) (ofNat_eq lit (Nat.mod_eq_of_lt lit.isLt)))

theorem vnotLit (f : VX) (lit : BitVec 32) : Statement (.vnotLit f lit) :=
  of3 (vx0 34 2 4 f) (vx1 f) lit.toNat rfl (vx0_len _ _ _ f (by decide)) (by
    rw [maj_pickVbit96 (vx0_maj _ _ _ f (by decide) (by decide)), pickVbit96, vx0_fn _ _ _ f (by decide) (by decide)]
    rw [vx0_vx _ _ _ f (by decide)]
    exact congrArg (fun l => some (Instr.vnotLit f l)) (ofNat_eq lit (Nat.mod_eq_of_lt lit.isLt)))

theorem vpopcLit (f : VX) (lit : BitVec 32) : Statement (.vpopcLit f lit) :=
  of3 (vx0 34 2 5 f) (vx1 f) lit.toNat rfl (vx0_len _ _ _ f (by decide)) (by
    rw [maj_pickVbit96 (vx0_maj _ _ _ f (by decide) (by decide)), pickVbit96, vx0_fn _ _ _ f (by decide) (by decide)]
    rw [vx0_vx _ _ _ f (by decide)]
    exact congrArg (fun l => some (Instr.vpopcLit f l)) (ofNat_eq lit (Nat.mod_eq_of_lt lit.isLt)))

theorem vclzLit (f : VX) (lit : BitVec 32) : Statement (.vclzLit f lit) :=
  of3 (vx0 34 2 6 f) (vx1 f) lit.toNat rfl (vx0_len _ _ _ f (by decide)) (by
    rw [maj_pickVbit96 (vx0_maj _ _ _ f (by decide) (by decide)), pickVbit96, vx0_fn _ _ _ f (by decide) (by decide)]
    rw [vx0_vx _ _ _ f (by decide)]
    exact congrArg (fun l => some (Instr.vclzLit f l)) (ofNat_eq lit (Nat.mod_eq_of_lt lit.isLt)))

theorem vctzLit (f : VX) (lit : BitVec 32) : Statement (.vctzLit f lit) :=
  of3 (vx0 34 2 7 f) (vx1 f) lit.toNat rfl (vx0_len _ _ _ f (by decide)) (by
    rw [maj_pickVbit96 (vx0_maj _ _ _ f (by decide) (by decide)), pickVbit96, vx0_fn _ _ _ f (by decide) (by decide)]
    rw [vx0_vx _ _ _ f (by decide)]
    exact congrArg (fun l => some (Instr.vctzLit f l)) (ofNat_eq lit (Nat.mod_eq_of_lt lit.isLt)))

theorem vbrevLit (f : VX) (lit : BitVec 32) : Statement (.vbrevLit f lit) :=
  of3 (vx0 34 2 8 f) (vx1 f) lit.toNat rfl (vx0_len _ _ _ f (by decide)) (by
    rw [maj_pickVbit96 (vx0_maj _ _ _ f (by decide) (by decide)), pickVbit96, vx0_fn _ _ _ f (by decide) (by decide)]
    rw [vx0_vx _ _ _ f (by decide)]
    exact congrArg (fun l => some (Instr.vbrevLit f l)) (ofNat_eq lit (Nat.mod_eq_of_lt lit.isLt)))

theorem vfnsbLit (f : VX) (lit : BitVec 32) : Statement (.vfnsbLit f lit) :=
  of3 (vx0 34 2 9 f) (vx1 f) lit.toNat rfl (vx0_len _ _ _ f (by decide)) (by
    rw [maj_pickVbit96 (vx0_maj _ _ _ f (by decide) (by decide)), pickVbit96, vx0_fn _ _ _ f (by decide) (by decide)]
    rw [vx0_vx _ _ _ f (by decide)]
    exact congrArg (fun l => some (Instr.vfnsbLit f l)) (ofNat_eq lit (Nat.mod_eq_of_lt lit.isLt)))

theorem vbfxLit (f : VX) (lit : BitVec 32) : Statement (.vbfxLit f lit) :=
  of3 (vx0 34 2 10 f) (vx1 f) lit.toNat rfl (vx0_len _ _ _ f (by decide)) (by
    rw [maj_pickVbit96 (vx0_maj _ _ _ f (by decide) (by decide)), pickVbit96, vx0_fn _ _ _ f (by decide) (by decide)]
    rw [vx0_vx _ _ _ f (by decide)]
    exact congrArg (fun l => some (Instr.vbfxLit f l)) (ofNat_eq lit (Nat.mod_eq_of_lt lit.isLt)))

theorem vcmpeq (f : VX) : Statement (.vcmpeq f) :=
  of2 (vx0 35 1 0 f) (vx1 f) rfl (vx0_len _ _ _ f (by decide)) (by
    rw [maj_pickVcmp64 (vx0_maj _ _ _ f (by decide) (by decide)), pickVcmp64, vx0_fn _ _ _ f (by decide) (by decide)]
    exact congrArg (fun f => some (Instr.vcmpeq f)) (vx0_vx _ _ _ f (by decide)))

theorem vcmpne (f : VX) : Statement (.vcmpne f) :=
  of2 (vx0 35 1 1 f) (vx1 f) rfl (vx0_len _ _ _ f (by decide)) (by
    rw [maj_pickVcmp64 (vx0_maj _ _ _ f (by decide) (by decide)), pickVcmp64, vx0_fn _ _ _ f (by decide) (by decide)]
    exact congrArg (fun f => some (Instr.vcmpne f)) (vx0_vx _ _ _ f (by decide)))

theorem vcmplt (f : VX) : Statement (.vcmplt f) :=
  of2 (vx0 35 1 2 f) (vx1 f) rfl (vx0_len _ _ _ f (by decide)) (by
    rw [maj_pickVcmp64 (vx0_maj _ _ _ f (by decide) (by decide)), pickVcmp64, vx0_fn _ _ _ f (by decide) (by decide)]
    exact congrArg (fun f => some (Instr.vcmplt f)) (vx0_vx _ _ _ f (by decide)))

theorem vcmple (f : VX) : Statement (.vcmple f) :=
  of2 (vx0 35 1 3 f) (vx1 f) rfl (vx0_len _ _ _ f (by decide)) (by
    rw [maj_pickVcmp64 (vx0_maj _ _ _ f (by decide) (by decide)), pickVcmp64, vx0_fn _ _ _ f (by decide) (by decide)]
    exact congrArg (fun f => some (Instr.vcmple f)) (vx0_vx _ _ _ f (by decide)))

theorem vcmpltu (f : VX) : Statement (.vcmpltu f) :=
  of2 (vx0 35 1 4 f) (vx1 f) rfl (vx0_len _ _ _ f (by decide)) (by
    rw [maj_pickVcmp64 (vx0_maj _ _ _ f (by decide) (by decide)), pickVcmp64, vx0_fn _ _ _ f (by decide) (by decide)]
    exact congrArg (fun f => some (Instr.vcmpltu f)) (vx0_vx _ _ _ f (by decide)))

theorem vcmpleu (f : VX) : Statement (.vcmpleu f) :=
  of2 (vx0 35 1 5 f) (vx1 f) rfl (vx0_len _ _ _ f (by decide)) (by
    rw [maj_pickVcmp64 (vx0_maj _ _ _ f (by decide) (by decide)), pickVcmp64, vx0_fn _ _ _ f (by decide) (by decide)]
    exact congrArg (fun f => some (Instr.vcmpleu f)) (vx0_vx _ _ _ f (by decide)))

theorem vfcmpeq (f : VX) : Statement (.vfcmpeq f) :=
  of2 (vx0 35 1 6 f) (vx1 f) rfl (vx0_len _ _ _ f (by decide)) (by
    rw [maj_pickVcmp64 (vx0_maj _ _ _ f (by decide) (by decide)), pickVcmp64, vx0_fn _ _ _ f (by decide) (by decide)]
    exact congrArg (fun f => some (Instr.vfcmpeq f)) (vx0_vx _ _ _ f (by decide)))

theorem vfcmplt (f : VX) : Statement (.vfcmplt f) :=
  of2 (vx0 35 1 7 f) (vx1 f) rfl (vx0_len _ _ _ f (by decide)) (by
    rw [maj_pickVcmp64 (vx0_maj _ _ _ f (by decide) (by decide)), pickVcmp64, vx0_fn _ _ _ f (by decide) (by decide)]
    exact congrArg (fun f => some (Instr.vfcmplt f)) (vx0_vx _ _ _ f (by decide)))

theorem vfcmple (f : VX) : Statement (.vfcmple f) :=
  of2 (vx0 35 1 8 f) (vx1 f) rfl (vx0_len _ _ _ f (by decide)) (by
    rw [maj_pickVcmp64 (vx0_maj _ _ _ f (by decide) (by decide)), pickVcmp64, vx0_fn _ _ _ f (by decide) (by decide)]
    exact congrArg (fun f => some (Instr.vfcmple f)) (vx0_vx _ _ _ f (by decide)))

theorem vfcmpun (f : VX) : Statement (.vfcmpun f) :=
  of2 (vx0 35 1 9 f) (vx1 f) rfl (vx0_len _ _ _ f (by decide)) (by
    rw [maj_pickVcmp64 (vx0_maj _ _ _ f (by decide) (by decide)), pickVcmp64, vx0_fn _ _ _ f (by decide) (by decide)]
    exact congrArg (fun f => some (Instr.vfcmpun f)) (vx0_vx _ _ _ f (by decide)))

theorem vcmpeqLit (f : VX) (lit : BitVec 32) : Statement (.vcmpeqLit f lit) :=
  of3 (vx0 35 2 0 f) (vx1 f) lit.toNat rfl (vx0_len _ _ _ f (by decide)) (by
    rw [maj_pickVcmp96 (vx0_maj _ _ _ f (by decide) (by decide)), pickVcmp96, vx0_fn _ _ _ f (by decide) (by decide)]
    rw [vx0_vx _ _ _ f (by decide)]
    exact congrArg (fun l => some (Instr.vcmpeqLit f l)) (ofNat_eq lit (Nat.mod_eq_of_lt lit.isLt)))

theorem vcmpneLit (f : VX) (lit : BitVec 32) : Statement (.vcmpneLit f lit) :=
  of3 (vx0 35 2 1 f) (vx1 f) lit.toNat rfl (vx0_len _ _ _ f (by decide)) (by
    rw [maj_pickVcmp96 (vx0_maj _ _ _ f (by decide) (by decide)), pickVcmp96, vx0_fn _ _ _ f (by decide) (by decide)]
    rw [vx0_vx _ _ _ f (by decide)]
    exact congrArg (fun l => some (Instr.vcmpneLit f l)) (ofNat_eq lit (Nat.mod_eq_of_lt lit.isLt)))

theorem vcmpltLit (f : VX) (lit : BitVec 32) : Statement (.vcmpltLit f lit) :=
  of3 (vx0 35 2 2 f) (vx1 f) lit.toNat rfl (vx0_len _ _ _ f (by decide)) (by
    rw [maj_pickVcmp96 (vx0_maj _ _ _ f (by decide) (by decide)), pickVcmp96, vx0_fn _ _ _ f (by decide) (by decide)]
    rw [vx0_vx _ _ _ f (by decide)]
    exact congrArg (fun l => some (Instr.vcmpltLit f l)) (ofNat_eq lit (Nat.mod_eq_of_lt lit.isLt)))

theorem vcmpleLit (f : VX) (lit : BitVec 32) : Statement (.vcmpleLit f lit) :=
  of3 (vx0 35 2 3 f) (vx1 f) lit.toNat rfl (vx0_len _ _ _ f (by decide)) (by
    rw [maj_pickVcmp96 (vx0_maj _ _ _ f (by decide) (by decide)), pickVcmp96, vx0_fn _ _ _ f (by decide) (by decide)]
    rw [vx0_vx _ _ _ f (by decide)]
    exact congrArg (fun l => some (Instr.vcmpleLit f l)) (ofNat_eq lit (Nat.mod_eq_of_lt lit.isLt)))

theorem vcmpltuLit (f : VX) (lit : BitVec 32) : Statement (.vcmpltuLit f lit) :=
  of3 (vx0 35 2 4 f) (vx1 f) lit.toNat rfl (vx0_len _ _ _ f (by decide)) (by
    rw [maj_pickVcmp96 (vx0_maj _ _ _ f (by decide) (by decide)), pickVcmp96, vx0_fn _ _ _ f (by decide) (by decide)]
    rw [vx0_vx _ _ _ f (by decide)]
    exact congrArg (fun l => some (Instr.vcmpltuLit f l)) (ofNat_eq lit (Nat.mod_eq_of_lt lit.isLt)))

theorem vcmpleuLit (f : VX) (lit : BitVec 32) : Statement (.vcmpleuLit f lit) :=
  of3 (vx0 35 2 5 f) (vx1 f) lit.toNat rfl (vx0_len _ _ _ f (by decide)) (by
    rw [maj_pickVcmp96 (vx0_maj _ _ _ f (by decide) (by decide)), pickVcmp96, vx0_fn _ _ _ f (by decide) (by decide)]
    rw [vx0_vx _ _ _ f (by decide)]
    exact congrArg (fun l => some (Instr.vcmpleuLit f l)) (ofNat_eq lit (Nat.mod_eq_of_lt lit.isLt)))

theorem vfcmpeqLit (f : VX) (lit : BitVec 32) : Statement (.vfcmpeqLit f lit) :=
  of3 (vx0 35 2 6 f) (vx1 f) lit.toNat rfl (vx0_len _ _ _ f (by decide)) (by
    rw [maj_pickVcmp96 (vx0_maj _ _ _ f (by decide) (by decide)), pickVcmp96, vx0_fn _ _ _ f (by decide) (by decide)]
    rw [vx0_vx _ _ _ f (by decide)]
    exact congrArg (fun l => some (Instr.vfcmpeqLit f l)) (ofNat_eq lit (Nat.mod_eq_of_lt lit.isLt)))

theorem vfcmpltLit (f : VX) (lit : BitVec 32) : Statement (.vfcmpltLit f lit) :=
  of3 (vx0 35 2 7 f) (vx1 f) lit.toNat rfl (vx0_len _ _ _ f (by decide)) (by
    rw [maj_pickVcmp96 (vx0_maj _ _ _ f (by decide) (by decide)), pickVcmp96, vx0_fn _ _ _ f (by decide) (by decide)]
    rw [vx0_vx _ _ _ f (by decide)]
    exact congrArg (fun l => some (Instr.vfcmpltLit f l)) (ofNat_eq lit (Nat.mod_eq_of_lt lit.isLt)))

theorem vfcmpleLit (f : VX) (lit : BitVec 32) : Statement (.vfcmpleLit f lit) :=
  of3 (vx0 35 2 8 f) (vx1 f) lit.toNat rfl (vx0_len _ _ _ f (by decide)) (by
    rw [maj_pickVcmp96 (vx0_maj _ _ _ f (by decide) (by decide)), pickVcmp96, vx0_fn _ _ _ f (by decide) (by decide)]
    rw [vx0_vx _ _ _ f (by decide)]
    exact congrArg (fun l => some (Instr.vfcmpleLit f l)) (ofNat_eq lit (Nat.mod_eq_of_lt lit.isLt)))

theorem vfcmpunLit (f : VX) (lit : BitVec 32) : Statement (.vfcmpunLit f lit) :=
  of3 (vx0 35 2 9 f) (vx1 f) lit.toNat rfl (vx0_len _ _ _ f (by decide)) (by
    rw [maj_pickVcmp96 (vx0_maj _ _ _ f (by decide) (by decide)), pickVcmp96, vx0_fn _ _ _ f (by decide) (by decide)]
    rw [vx0_vx _ _ _ f (by decide)]
    exact congrArg (fun l => some (Instr.vfcmpunLit f l)) (ofNat_eq lit (Nat.mod_eq_of_lt lit.isLt)))

theorem plen (f : VX) : Statement (.plen f) :=
  of2 (vx0 36 1 0 f) (vx1 f) rfl (vx0_len _ _ _ f (by decide)) (by
    rw [maj_pickVpred64 (vx0_maj _ _ _ f (by decide) (by decide)), pickVpred64, vx0_fn _ _ _ f (by decide) (by decide)]
    exact congrArg (fun f => some (Instr.plen f)) (vx0_vx _ _ _ f (by decide)))

theorem plenu (f : VX) : Statement (.plenu f) :=
  of2 (vx0 36 1 1 f) (vx1 f) rfl (vx0_len _ _ _ f (by decide)) (by
    rw [maj_pickVpred64 (vx0_maj _ _ _ f (by decide) (by decide)), pickVpred64, vx0_fn _ _ _ f (by decide) (by decide)]
    exact congrArg (fun f => some (Instr.plenu f)) (vx0_vx _ _ _ f (by decide)))

theorem pand (f : VX) : Statement (.pand f) :=
  of2 (vx0 36 1 2 f) (vx1 f) rfl (vx0_len _ _ _ f (by decide)) (by
    rw [maj_pickVpred64 (vx0_maj _ _ _ f (by decide) (by decide)), pickVpred64, vx0_fn _ _ _ f (by decide) (by decide)]
    exact congrArg (fun f => some (Instr.pand f)) (vx0_vx _ _ _ f (by decide)))

theorem por (f : VX) : Statement (.por f) :=
  of2 (vx0 36 1 3 f) (vx1 f) rfl (vx0_len _ _ _ f (by decide)) (by
    rw [maj_pickVpred64 (vx0_maj _ _ _ f (by decide) (by decide)), pickVpred64, vx0_fn _ _ _ f (by decide) (by decide)]
    exact congrArg (fun f => some (Instr.por f)) (vx0_vx _ _ _ f (by decide)))

theorem pxor (f : VX) : Statement (.pxor f) :=
  of2 (vx0 36 1 4 f) (vx1 f) rfl (vx0_len _ _ _ f (by decide)) (by
    rw [maj_pickVpred64 (vx0_maj _ _ _ f (by decide) (by decide)), pickVpred64, vx0_fn _ _ _ f (by decide) (by decide)]
    exact congrArg (fun f => some (Instr.pxor f)) (vx0_vx _ _ _ f (by decide)))

theorem pnot (f : VX) : Statement (.pnot f) :=
  of2 (vx0 36 1 5 f) (vx1 f) rfl (vx0_len _ _ _ f (by decide)) (by
    rw [maj_pickVpred64 (vx0_maj _ _ _ f (by decide) (by decide)), pickVpred64, vx0_fn _ _ _ f (by decide) (by decide)]
    exact congrArg (fun f => some (Instr.pnot f)) (vx0_vx _ _ _ f (by decide)))

theorem pcnt (f : VX) : Statement (.pcnt f) :=
  of2 (vx0 36 1 6 f) (vx1 f) rfl (vx0_len _ _ _ f (by decide)) (by
    rw [maj_pickVpred64 (vx0_maj _ _ _ f (by decide) (by decide)), pickVpred64, vx0_fn _ _ _ f (by decide) (by decide)]
    exact congrArg (fun f => some (Instr.pcnt f)) (vx0_vx _ _ _ f (by decide)))

theorem pfirst (f : VX) : Statement (.pfirst f) :=
  of2 (vx0 36 1 7 f) (vx1 f) rfl (vx0_len _ _ _ f (by decide)) (by
    rw [maj_pickVpred64 (vx0_maj _ _ _ f (by decide) (by decide)), pickVpred64, vx0_fn _ _ _ f (by decide) (by decide)]
    exact congrArg (fun f => some (Instr.pfirst f)) (vx0_vx _ _ _ f (by decide)))

theorem pany (f : VX) : Statement (.pany f) :=
  of2 (vx0 36 1 8 f) (vx1 f) rfl (vx0_len _ _ _ f (by decide)) (by
    rw [maj_pickVpred64 (vx0_maj _ _ _ f (by decide) (by decide)), pickVpred64, vx0_fn _ _ _ f (by decide) (by decide)]
    exact congrArg (fun f => some (Instr.pany f)) (vx0_vx _ _ _ f (by decide)))

theorem pset (f : VX) : Statement (.pset f) :=
  of2 (vx0 36 1 9 f) (vx1 f) rfl (vx0_len _ _ _ f (by decide)) (by
    rw [maj_pickVpred64 (vx0_maj _ _ _ f (by decide) (by decide)), pickVpred64, vx0_fn _ _ _ f (by decide) (by decide)]
    exact congrArg (fun f => some (Instr.pset f)) (vx0_vx _ _ _ f (by decide)))

theorem vlanes (f : VX) : Statement (.vlanes f) :=
  of2 (vx0 36 1 10 f) (vx1 f) rfl (vx0_len _ _ _ f (by decide)) (by
    rw [maj_pickVpred64 (vx0_maj _ _ _ f (by decide) (by decide)), pickVpred64, vx0_fn _ _ _ f (by decide) (by decide)]
    exact congrArg (fun f => some (Instr.vlanes f)) (vx0_vx _ _ _ f (by decide)))

theorem vbcast (f : VX) : Statement (.vbcast f) :=
  of2 (vx0 37 1 0 f) (vx1 f) rfl (vx0_len _ _ _ f (by decide)) (by
    rw [maj_pickVperm64 (vx0_maj _ _ _ f (by decide) (by decide)), pickVperm64, vx0_fn _ _ _ f (by decide) (by decide)]
    exact congrArg (fun f => some (Instr.vbcast f)) (vx0_vx _ _ _ f (by decide)))

theorem vextr (f : VX) : Statement (.vextr f) :=
  of2 (vx0 37 1 1 f) (vx1 f) rfl (vx0_len _ _ _ f (by decide)) (by
    rw [maj_pickVperm64 (vx0_maj _ _ _ f (by decide) (by decide)), pickVperm64, vx0_fn _ _ _ f (by decide) (by decide)]
    exact congrArg (fun f => some (Instr.vextr f)) (vx0_vx _ _ _ f (by decide)))

theorem vins (f : VX) : Statement (.vins f) :=
  of2 (vx0 37 1 2 f) (vx1 f) rfl (vx0_len _ _ _ f (by decide)) (by
    rw [maj_pickVperm64 (vx0_maj _ _ _ f (by decide) (by decide)), pickVperm64, vx0_fn _ _ _ f (by decide) (by decide)]
    exact congrArg (fun f => some (Instr.vins f)) (vx0_vx _ _ _ f (by decide)))

theorem vslideup (f : VX) : Statement (.vslideup f) :=
  of2 (vx0 37 1 3 f) (vx1 f) rfl (vx0_len _ _ _ f (by decide)) (by
    rw [maj_pickVperm64 (vx0_maj _ _ _ f (by decide) (by decide)), pickVperm64, vx0_fn _ _ _ f (by decide) (by decide)]
    exact congrArg (fun f => some (Instr.vslideup f)) (vx0_vx _ _ _ f (by decide)))

theorem vslidedn (f : VX) : Statement (.vslidedn f) :=
  of2 (vx0 37 1 4 f) (vx1 f) rfl (vx0_len _ _ _ f (by decide)) (by
    rw [maj_pickVperm64 (vx0_maj _ _ _ f (by decide) (by decide)), pickVperm64, vx0_fn _ _ _ f (by decide) (by decide)]
    exact congrArg (fun f => some (Instr.vslidedn f)) (vx0_vx _ _ _ f (by decide)))

theorem vperm (f : VX) : Statement (.vperm f) :=
  of2 (vx0 37 1 5 f) (vx1 f) rfl (vx0_len _ _ _ f (by decide)) (by
    rw [maj_pickVperm64 (vx0_maj _ _ _ f (by decide) (by decide)), pickVperm64, vx0_fn _ _ _ f (by decide) (by decide)]
    exact congrArg (fun f => some (Instr.vperm f)) (vx0_vx _ _ _ f (by decide)))

theorem vcompress (f : VX) : Statement (.vcompress f) :=
  of2 (vx0 37 1 6 f) (vx1 f) rfl (vx0_len _ _ _ f (by decide)) (by
    rw [maj_pickVperm64 (vx0_maj _ _ _ f (by decide) (by decide)), pickVperm64, vx0_fn _ _ _ f (by decide) (by decide)]
    exact congrArg (fun f => some (Instr.vcompress f)) (vx0_vx _ _ _ f (by decide)))

theorem vexpand (f : VX) : Statement (.vexpand f) :=
  of2 (vx0 37 1 7 f) (vx1 f) rfl (vx0_len _ _ _ f (by decide)) (by
    rw [maj_pickVperm64 (vx0_maj _ _ _ f (by decide) (by decide)), pickVperm64, vx0_fn _ _ _ f (by decide) (by decide)]
    exact congrArg (fun f => some (Instr.vexpand f)) (vx0_vx _ _ _ f (by decide)))

theorem vsel (f : VX) : Statement (.vsel f) :=
  of2 (vx0 37 1 8 f) (vx1 f) rfl (vx0_len _ _ _ f (by decide)) (by
    rw [maj_pickVperm64 (vx0_maj _ _ _ f (by decide) (by decide)), pickVperm64, vx0_fn _ _ _ f (by decide) (by decide)]
    exact congrArg (fun f => some (Instr.vsel f)) (vx0_vx _ _ _ f (by decide)))

theorem viota (f : VX) : Statement (.viota f) :=
  of2 (vx0 37 1 9 f) (vx1 f) rfl (vx0_len _ _ _ f (by decide)) (by
    rw [maj_pickVperm64 (vx0_maj _ _ _ f (by decide) (by decide)), pickVperm64, vx0_fn _ _ _ f (by decide) (by decide)]
    exact congrArg (fun f => some (Instr.viota f)) (vx0_vx _ _ _ f (by decide)))

theorem vredadd (f : VX) : Statement (.vredadd f) :=
  of2 (vx0 38 1 0 f) (vx1 f) rfl (vx0_len _ _ _ f (by decide)) (by
    rw [maj_pickVred64 (vx0_maj _ _ _ f (by decide) (by decide)), pickVred64, vx0_fn _ _ _ f (by decide) (by decide)]
    exact congrArg (fun f => some (Instr.vredadd f)) (vx0_vx _ _ _ f (by decide)))

theorem vredmin (f : VX) : Statement (.vredmin f) :=
  of2 (vx0 38 1 1 f) (vx1 f) rfl (vx0_len _ _ _ f (by decide)) (by
    rw [maj_pickVred64 (vx0_maj _ _ _ f (by decide) (by decide)), pickVred64, vx0_fn _ _ _ f (by decide) (by decide)]
    exact congrArg (fun f => some (Instr.vredmin f)) (vx0_vx _ _ _ f (by decide)))

theorem vredmax (f : VX) : Statement (.vredmax f) :=
  of2 (vx0 38 1 2 f) (vx1 f) rfl (vx0_len _ _ _ f (by decide)) (by
    rw [maj_pickVred64 (vx0_maj _ _ _ f (by decide) (by decide)), pickVred64, vx0_fn _ _ _ f (by decide) (by decide)]
    exact congrArg (fun f => some (Instr.vredmax f)) (vx0_vx _ _ _ f (by decide)))

theorem vredminu (f : VX) : Statement (.vredminu f) :=
  of2 (vx0 38 1 3 f) (vx1 f) rfl (vx0_len _ _ _ f (by decide)) (by
    rw [maj_pickVred64 (vx0_maj _ _ _ f (by decide) (by decide)), pickVred64, vx0_fn _ _ _ f (by decide) (by decide)]
    exact congrArg (fun f => some (Instr.vredminu f)) (vx0_vx _ _ _ f (by decide)))

theorem vredmaxu (f : VX) : Statement (.vredmaxu f) :=
  of2 (vx0 38 1 4 f) (vx1 f) rfl (vx0_len _ _ _ f (by decide)) (by
    rw [maj_pickVred64 (vx0_maj _ _ _ f (by decide) (by decide)), pickVred64, vx0_fn _ _ _ f (by decide) (by decide)]
    exact congrArg (fun f => some (Instr.vredmaxu f)) (vx0_vx _ _ _ f (by decide)))

theorem vredand (f : VX) : Statement (.vredand f) :=
  of2 (vx0 38 1 5 f) (vx1 f) rfl (vx0_len _ _ _ f (by decide)) (by
    rw [maj_pickVred64 (vx0_maj _ _ _ f (by decide) (by decide)), pickVred64, vx0_fn _ _ _ f (by decide) (by decide)]
    exact congrArg (fun f => some (Instr.vredand f)) (vx0_vx _ _ _ f (by decide)))

theorem vredor (f : VX) : Statement (.vredor f) :=
  of2 (vx0 38 1 6 f) (vx1 f) rfl (vx0_len _ _ _ f (by decide)) (by
    rw [maj_pickVred64 (vx0_maj _ _ _ f (by decide) (by decide)), pickVred64, vx0_fn _ _ _ f (by decide) (by decide)]
    exact congrArg (fun f => some (Instr.vredor f)) (vx0_vx _ _ _ f (by decide)))

theorem vredxor (f : VX) : Statement (.vredxor f) :=
  of2 (vx0 38 1 7 f) (vx1 f) rfl (vx0_len _ _ _ f (by decide)) (by
    rw [maj_pickVred64 (vx0_maj _ _ _ f (by decide) (by decide)), pickVred64, vx0_fn _ _ _ f (by decide) (by decide)]
    exact congrArg (fun f => some (Instr.vredxor f)) (vx0_vx _ _ _ f (by decide)))

theorem vfredadd (f : VX) : Statement (.vfredadd f) :=
  of2 (vx0 38 1 8 f) (vx1 f) rfl (vx0_len _ _ _ f (by decide)) (by
    rw [maj_pickVred64 (vx0_maj _ _ _ f (by decide) (by decide)), pickVred64, vx0_fn _ _ _ f (by decide) (by decide)]
    exact congrArg (fun f => some (Instr.vfredadd f)) (vx0_vx _ _ _ f (by decide)))

theorem vfredmin (f : VX) : Statement (.vfredmin f) :=
  of2 (vx0 38 1 9 f) (vx1 f) rfl (vx0_len _ _ _ f (by decide)) (by
    rw [maj_pickVred64 (vx0_maj _ _ _ f (by decide) (by decide)), pickVred64, vx0_fn _ _ _ f (by decide) (by decide)]
    exact congrArg (fun f => some (Instr.vfredmin f)) (vx0_vx _ _ _ f (by decide)))

theorem vfredmax (f : VX) : Statement (.vfredmax f) :=
  of2 (vx0 38 1 10 f) (vx1 f) rfl (vx0_len _ _ _ f (by decide)) (by
    rw [maj_pickVred64 (vx0_maj _ _ _ f (by decide) (by decide)), pickVred64, vx0_fn _ _ _ f (by decide) (by decide)]
    exact congrArg (fun f => some (Instr.vfredmax f)) (vx0_vx _ _ _ f (by decide)))

theorem vcvt (f : VX) : Statement (.vcvt f) :=
  of2 (vx0 39 1 0 f) (vx1 f) rfl (vx0_len _ _ _ f (by decide)) (by
    rw [maj_pickVcvt64 (vx0_maj _ _ _ f (by decide) (by decide)), pickVcvt64, vx0_fn _ _ _ f (by decide) (by decide)]
    exact congrArg (fun f => some (Instr.vcvt f)) (vx0_vx _ _ _ f (by decide)))

theorem vnarrow (f : VX) : Statement (.vnarrow f) :=
  of2 (vx0 39 1 1 f) (vx1 f) rfl (vx0_len _ _ _ f (by decide)) (by
    rw [maj_pickVcvt64 (vx0_maj _ _ _ f (by decide) (by decide)), pickVcvt64, vx0_fn _ _ _ f (by decide) (by decide)]
    exact congrArg (fun f => some (Instr.vnarrow f)) (vx0_vx _ _ _ f (by decide)))

theorem vwiden (f : VX) : Statement (.vwiden f) :=
  of2 (vx0 39 1 2 f) (vx1 f) rfl (vx0_len _ _ _ f (by decide)) (by
    rw [maj_pickVcvt64 (vx0_maj _ _ _ f (by decide) (by decide)), pickVcvt64, vx0_fn _ _ _ f (by decide) (by decide)]
    exact congrArg (fun f => some (Instr.vwiden f)) (vx0_vx _ _ _ f (by decide)))

theorem vpackdx (f : VX) : Statement (.vpackdx f) :=
  of2 (vx0 39 1 3 f) (vx1 f) rfl (vx0_len _ _ _ f (by decide)) (by
    rw [maj_pickVcvt64 (vx0_maj _ _ _ f (by decide) (by decide)), pickVcvt64, vx0_fn _ _ _ f (by decide) (by decide)]
    exact congrArg (fun f => some (Instr.vpackdx f)) (vx0_vx _ _ _ f (by decide)))

theorem vunpkdx (f : VX) : Statement (.vunpkdx f) :=
  of2 (vx0 39 1 4 f) (vx1 f) rfl (vx0_len _ _ _ f (by decide)) (by
    rw [maj_pickVcvt64 (vx0_maj _ _ _ f (by decide) (by decide)), pickVcvt64, vx0_fn _ _ _ f (by decide) (by decide)]
    exact congrArg (fun f => some (Instr.vunpkdx f)) (vx0_vx _ _ _ f (by decide)))

theorem vpackdx4 (f : VX) : Statement (.vpackdx4 f) :=
  of2 (vx0 39 1 5 f) (vx1 f) rfl (vx0_len _ _ _ f (by decide)) (by
    rw [maj_pickVcvt64 (vx0_maj _ _ _ f (by decide) (by decide)), pickVcvt64, vx0_fn _ _ _ f (by decide) (by decide)]
    exact congrArg (fun f => some (Instr.vpackdx4 f)) (vx0_vx _ _ _ f (by decide)))

theorem vunpkdx4 (f : VX) : Statement (.vunpkdx4 f) :=
  of2 (vx0 39 1 6 f) (vx1 f) rfl (vx0_len _ _ _ f (by decide)) (by
    rw [maj_pickVcvt64 (vx0_maj _ _ _ f (by decide) (by decide)), pickVcvt64, vx0_fn _ _ _ f (by decide) (by decide)]
    exact congrArg (fun f => some (Instr.vunpkdx4 f)) (vx0_vx _ _ _ f (by decide)))

theorem vrcp (f : VX) : Statement (.vrcp f) :=
  of2 (vx0 40 1 0 f) (vx1 f) rfl (vx0_len _ _ _ f (by decide)) (by
    rw [maj_pickVsfu64 (vx0_maj _ _ _ f (by decide) (by decide)), pickVsfu64, vx0_fn _ _ _ f (by decide) (by decide)]
    exact congrArg (fun f => some (Instr.vrcp f)) (vx0_vx _ _ _ f (by decide)))

theorem vrsqrt (f : VX) : Statement (.vrsqrt f) :=
  of2 (vx0 40 1 1 f) (vx1 f) rfl (vx0_len _ _ _ f (by decide)) (by
    rw [maj_pickVsfu64 (vx0_maj _ _ _ f (by decide) (by decide)), pickVsfu64, vx0_fn _ _ _ f (by decide) (by decide)]
    exact congrArg (fun f => some (Instr.vrsqrt f)) (vx0_vx _ _ _ f (by decide)))

theorem vexp2 (f : VX) : Statement (.vexp2 f) :=
  of2 (vx0 40 1 2 f) (vx1 f) rfl (vx0_len _ _ _ f (by decide)) (by
    rw [maj_pickVsfu64 (vx0_maj _ _ _ f (by decide) (by decide)), pickVsfu64, vx0_fn _ _ _ f (by decide) (by decide)]
    exact congrArg (fun f => some (Instr.vexp2 f)) (vx0_vx _ _ _ f (by decide)))

theorem vlog2 (f : VX) : Statement (.vlog2 f) :=
  of2 (vx0 40 1 3 f) (vx1 f) rfl (vx0_len _ _ _ f (by decide)) (by
    rw [maj_pickVsfu64 (vx0_maj _ _ _ f (by decide) (by decide)), pickVsfu64, vx0_fn _ _ _ f (by decide) (by decide)]
    exact congrArg (fun f => some (Instr.vlog2 f)) (vx0_vx _ _ _ f (by decide)))

theorem vtanh (f : VX) : Statement (.vtanh f) :=
  of2 (vx0 40 1 4 f) (vx1 f) rfl (vx0_len _ _ _ f (by decide)) (by
    rw [maj_pickVsfu64 (vx0_maj _ _ _ f (by decide) (by decide)), pickVsfu64, vx0_fn _ _ _ f (by decide) (by decide)]
    exact congrArg (fun f => some (Instr.vtanh f)) (vx0_vx _ _ _ f (by decide)))

theorem vsigm (f : VX) : Statement (.vsigm f) :=
  of2 (vx0 40 1 5 f) (vx1 f) rfl (vx0_len _ _ _ f (by decide)) (by
    rw [maj_pickVsfu64 (vx0_maj _ _ _ f (by decide) (by decide)), pickVsfu64, vx0_fn _ _ _ f (by decide) (by decide)]
    exact congrArg (fun f => some (Instr.vsigm f)) (vx0_vx _ _ _ f (by decide)))

theorem vsinpi (f : VX) : Statement (.vsinpi f) :=
  of2 (vx0 40 1 6 f) (vx1 f) rfl (vx0_len _ _ _ f (by decide)) (by
    rw [maj_pickVsfu64 (vx0_maj _ _ _ f (by decide) (by decide)), pickVsfu64, vx0_fn _ _ _ f (by decide) (by decide)]
    exact congrArg (fun f => some (Instr.vsinpi f)) (vx0_vx _ _ _ f (by decide)))

theorem vcospi (f : VX) : Statement (.vcospi f) :=
  of2 (vx0 40 1 7 f) (vx1 f) rfl (vx0_len _ _ _ f (by decide)) (by
    rw [maj_pickVsfu64 (vx0_maj _ _ _ f (by decide) (by decide)), pickVsfu64, vx0_fn _ _ _ f (by decide) (by decide)]
    exact congrArg (fun f => some (Instr.vcospi f)) (vx0_vx _ _ _ f (by decide)))

theorem vld (f : VX) : Statement (.vld f) :=
  of2 (vx0 41 1 0 f) (vx1 f) rfl (vx0_len _ _ _ f (by decide)) (by
    rw [maj_pickVld64 (vx0_maj _ _ _ f (by decide) (by decide)), pickVld64, vx0_fn _ _ _ f (by decide) (by decide)]
    exact congrArg (fun f => some (Instr.vld f)) (vx0_vx _ _ _ f (by decide)))

theorem vlds (f : VX) : Statement (.vlds f) :=
  of2 (vx0 41 1 1 f) (vx1 f) rfl (vx0_len _ _ _ f (by decide)) (by
    rw [maj_pickVld64 (vx0_maj _ _ _ f (by decide) (by decide)), pickVld64, vx0_fn _ _ _ f (by decide) (by decide)]
    exact congrArg (fun f => some (Instr.vlds f)) (vx0_vx _ _ _ f (by decide)))

theorem vldx (f : VX) : Statement (.vldx f) :=
  of2 (vx0 41 1 2 f) (vx1 f) rfl (vx0_len _ _ _ f (by decide)) (by
    rw [maj_pickVld64 (vx0_maj _ _ _ f (by decide) (by decide)), pickVld64, vx0_fn _ _ _ f (by decide) (by decide)]
    exact congrArg (fun f => some (Instr.vldx f)) (vx0_vx _ _ _ f (by decide)))

theorem vldb (f : VX) : Statement (.vldb f) :=
  of2 (vx0 41 1 3 f) (vx1 f) rfl (vx0_len _ _ _ f (by decide)) (by
    rw [maj_pickVld64 (vx0_maj _ _ _ f (by decide) (by decide)), pickVld64, vx0_fn _ _ _ f (by decide) (by decide)]
    exact congrArg (fun f => some (Instr.vldb f)) (vx0_vx _ _ _ f (by decide)))

theorem vldff (f : VX) : Statement (.vldff f) :=
  of2 (vx0 41 1 4 f) (vx1 f) rfl (vx0_len _ _ _ f (by decide)) (by
    rw [maj_pickVld64 (vx0_maj _ _ _ f (by decide) (by decide)), pickVld64, vx0_fn _ _ _ f (by decide) (by decide)]
    exact congrArg (fun f => some (Instr.vldff f)) (vx0_vx _ _ _ f (by decide)))

theorem vst (f : VX) : Statement (.vst f) :=
  of2 (vx0 42 1 0 f) (vx1 f) rfl (vx0_len _ _ _ f (by decide)) (by
    rw [maj_pickVst64 (vx0_maj _ _ _ f (by decide) (by decide)), pickVst64, vx0_fn _ _ _ f (by decide) (by decide)]
    exact congrArg (fun f => some (Instr.vst f)) (vx0_vx _ _ _ f (by decide)))

theorem vsts (f : VX) : Statement (.vsts f) :=
  of2 (vx0 42 1 1 f) (vx1 f) rfl (vx0_len _ _ _ f (by decide)) (by
    rw [maj_pickVst64 (vx0_maj _ _ _ f (by decide) (by decide)), pickVst64, vx0_fn _ _ _ f (by decide) (by decide)]
    exact congrArg (fun f => some (Instr.vsts f)) (vx0_vx _ _ _ f (by decide)))

theorem vstx (f : VX) : Statement (.vstx f) :=
  of2 (vx0 42 1 2 f) (vx1 f) rfl (vx0_len _ _ _ f (by decide)) (by
    rw [maj_pickVst64 (vx0_maj _ _ _ f (by decide) (by decide)), pickVst64, vx0_fn _ _ _ f (by decide) (by decide)]
    exact congrArg (fun f => some (Instr.vstx f)) (vx0_vx _ _ _ f (by decide)))

theorem vstc (f : VX) : Statement (.vstc f) :=
  of2 (vx0 42 1 3 f) (vx1 f) rfl (vx0_len _ _ _ f (by decide)) (by
    rw [maj_pickVst64 (vx0_maj _ _ _ f (by decide) (by decide)), pickVst64, vx0_fn _ _ _ f (by decide) (by decide)]
    exact congrArg (fun f => some (Instr.vstc f)) (vx0_vx _ _ _ f (by decide)))

theorem vamoadd (f : VX) : Statement (.vamoadd f) :=
  of2 (vx0 43 1 0 f) (vx1 f) rfl (vx0_len _ _ _ f (by decide)) (by
    rw [maj_pickVamo64 (vx0_maj _ _ _ f (by decide) (by decide)), pickVamo64, vx0_fn _ _ _ f (by decide) (by decide)]
    exact congrArg (fun f => some (Instr.vamoadd f)) (vx0_vx _ _ _ f (by decide)))

theorem vamoor (f : VX) : Statement (.vamoor f) :=
  of2 (vx0 43 1 1 f) (vx1 f) rfl (vx0_len _ _ _ f (by decide)) (by
    rw [maj_pickVamo64 (vx0_maj _ _ _ f (by decide) (by decide)), pickVamo64, vx0_fn _ _ _ f (by decide) (by decide)]
    exact congrArg (fun f => some (Instr.vamoor f)) (vx0_vx _ _ _ f (by decide)))

theorem vamoand (f : VX) : Statement (.vamoand f) :=
  of2 (vx0 43 1 2 f) (vx1 f) rfl (vx0_len _ _ _ f (by decide)) (by
    rw [maj_pickVamo64 (vx0_maj _ _ _ f (by decide) (by decide)), pickVamo64, vx0_fn _ _ _ f (by decide) (by decide)]
    exact congrArg (fun f => some (Instr.vamoand f)) (vx0_vx _ _ _ f (by decide)))

theorem vamomin (f : VX) : Statement (.vamomin f) :=
  of2 (vx0 43 1 3 f) (vx1 f) rfl (vx0_len _ _ _ f (by decide)) (by
    rw [maj_pickVamo64 (vx0_maj _ _ _ f (by decide) (by decide)), pickVamo64, vx0_fn _ _ _ f (by decide) (by decide)]
    exact congrArg (fun f => some (Instr.vamomin f)) (vx0_vx _ _ _ f (by decide)))

theorem vamomax (f : VX) : Statement (.vamomax f) :=
  of2 (vx0 43 1 4 f) (vx1 f) rfl (vx0_len _ _ _ f (by decide)) (by
    rw [maj_pickVamo64 (vx0_maj _ _ _ f (by decide) (by decide)), pickVamo64, vx0_fn _ _ _ f (by decide) (by decide)]
    exact congrArg (fun f => some (Instr.vamomax f)) (vx0_vx _ _ _ f (by decide)))

theorem tld (d : Reg) (a : Reg) (n : BitVec 4) : Statement (.tld d a n) :=
  of2 (q3 44 1 0 (0) (a.toNat) (d.toNat)) n.toNat rfl (q3_len _ _ _ _ _ _ (by decide)) (by
    rw [maj_pickTile64 (q3_maj _ _ _ _ _ _ (by decide) (by decide)), pickTile64, q3_fn _ _ _ _ _ _ (by decide) (by decide) (by decide) a.isLt d.isLt, q3_d _ _ _ _ _ _ (by decide), q3_a _ _ _ _ _ _ (by decide) d.isLt, show BitVec.ofNat 4 n.toNat = n from ofNat_eq _ (by omega)]
    rfl)

theorem tst (d : Reg) (a : Reg) (n : BitVec 4) : Statement (.tst d a n) :=
  of2 (q3 44 1 1 (0) (a.toNat) (d.toNat)) n.toNat rfl (q3_len _ _ _ _ _ _ (by decide)) (by
    rw [maj_pickTile64 (q3_maj _ _ _ _ _ _ (by decide) (by decide)), pickTile64, q3_fn _ _ _ _ _ _ (by decide) (by decide) (by decide) a.isLt d.isLt, q3_d _ _ _ _ _ _ (by decide), q3_a _ _ _ _ _ _ (by decide) d.isLt, show BitVec.ofNat 4 n.toNat = n from ofNat_eq _ (by omega)]
    rfl)

theorem tzero (d : Reg) (n : BitVec 4) : Statement (.tzero d n) :=
  of2 (q3 44 1 2 (0) (0) (d.toNat)) n.toNat rfl (q3_len _ _ _ _ _ _ (by decide)) (by
    rw [maj_pickTile64 (q3_maj _ _ _ _ _ _ (by decide) (by decide)), pickTile64, q3_fn _ _ _ _ _ _ (by decide) (by decide) (by decide) (by decide) d.isLt, q3_d _ _ _ _ _ _ (by decide), show BitVec.ofNat 4 n.toNat = n from ofNat_eq _ (by omega)]
    rfl)

theorem tacc (d : Reg) (n : BitVec 4) (m : BitVec 4) : Statement (.tacc d n m) :=
  of2 (q3 44 1 3 (0) (0) (d.toNat)) (n.toNat + 16 * m.toNat) rfl (q3_len _ _ _ _ _ _ (by decide)) (by
    rw [maj_pickTile64 (q3_maj _ _ _ _ _ _ (by decide) (by decide)), pickTile64, q3_fn _ _ _ _ _ _ (by decide) (by decide) (by decide) (by decide) d.isLt, q3_d _ _ _ _ _ _ (by decide), show BitVec.ofNat 4 (n.toNat + 16 * m.toNat) = n from ofNat_eq _ (by omega), show BitVec.ofNat 4 ((n.toNat + 16 * m.toNat) / 16) = m from ofNat_eq _ (by omega)]
    rfl)

theorem mxp (d : Reg) (a : Reg) (b : Reg) (m : MxpW) : Statement (.mxp d a b m) :=
  of2 (q3 45 1 0 (b.toNat) (a.toNat) (d.toNat)) (mxpW1 m) rfl (q3_len _ _ _ _ _ _ (by decide)) (by
    rw [maj_pickMxp64 (q3_maj _ _ _ _ _ _ (by decide) (by decide)), pickMxp64, q3_fn _ _ _ _ _ _ (by decide) (by decide) b.isLt a.isLt d.isLt, q3_d _ _ _ _ _ _ (by decide), q3_a _ _ _ _ _ _ (by decide) d.isLt, q3_b _ _ _ _ _ _ (by decide) a.isLt d.isLt, mxp_of]
    rfl)

theorem mxps (d : Reg) (a : Reg) (b : Reg) (m : MxpW) : Statement (.mxps d a b m) :=
  of2 (q3 45 1 1 (b.toNat) (a.toNat) (d.toNat)) (mxpW1 m) rfl (q3_len _ _ _ _ _ _ (by decide)) (by
    rw [maj_pickMxp64 (q3_maj _ _ _ _ _ _ (by decide) (by decide)), pickMxp64, q3_fn _ _ _ _ _ _ (by decide) (by decide) b.isLt a.isLt d.isLt, q3_d _ _ _ _ _ _ (by decide), q3_a _ _ _ _ _ _ (by decide) d.isLt, q3_b _ _ _ _ _ _ (by decide) a.isLt d.isLt, mxp_of]
    rfl)

theorem mxprobe (d : Reg) (a : Reg) (mask : BitVec 16) (cap : BitVec 3) : Statement (.mxprobe d a mask cap) :=
  of2 (q3 45 1 2 (0) (a.toNat) (d.toNat)) (mask.toNat + 131072 * cap.toNat) rfl (q3_len _ _ _ _ _ _ (by decide)) (by
    rw [maj_pickMxp64 (q3_maj _ _ _ _ _ _ (by decide) (by decide)), pickMxp64, q3_fn _ _ _ _ _ _ (by decide) (by decide) (by decide) a.isLt d.isLt, q3_d _ _ _ _ _ _ (by decide), q3_a _ _ _ _ _ _ (by decide) d.isLt, show BitVec.ofNat 16 (mask.toNat + 131072 * cap.toNat) = mask from ofNat_eq _ (by omega), show BitVec.ofNat 3 ((mask.toNat + 131072 * cap.toNat) / 131072) = cap from ofNat_eq _ (by omega)]
    rfl)

theorem phld (d : Reg) (a : Reg) (b : Reg) (bank : BitVec 4) (cap : BitVec 3) : Statement (.phld d a b bank cap) :=
  of2 (q3 46 1 0 (b.toNat) (a.toNat) (d.toNat)) (256 * bank.toNat + 131072 * cap.toNat) rfl (q3_len _ _ _ _ _ _ (by decide)) (by
    rw [maj_pickPhase64 (q3_maj _ _ _ _ _ _ (by decide) (by decide)), pickPhase64, q3_fn _ _ _ _ _ _ (by decide) (by decide) b.isLt a.isLt d.isLt, q3_d _ _ _ _ _ _ (by decide), q3_a _ _ _ _ _ _ (by decide) d.isLt, q3_b _ _ _ _ _ _ (by decide) a.isLt d.isLt, show BitVec.ofNat 4 ((256 * bank.toNat + 131072 * cap.toNat) / 256) = bank from ofNat_eq _ (by omega), show BitVec.ofNat 3 ((256 * bank.toNat + 131072 * cap.toNat) / 131072) = cap from ofNat_eq _ (by omega)]
    rfl)

theorem phtrim (d : Reg) (a : Reg) (bank : BitVec 4) (cap : BitVec 3) : Statement (.phtrim d a bank cap) :=
  of2 (q3 46 1 1 (0) (a.toNat) (d.toNat)) (256 * bank.toNat + 131072 * cap.toNat) rfl (q3_len _ _ _ _ _ _ (by decide)) (by
    rw [maj_pickPhase64 (q3_maj _ _ _ _ _ _ (by decide) (by decide)), pickPhase64, q3_fn _ _ _ _ _ _ (by decide) (by decide) (by decide) a.isLt d.isLt, q3_d _ _ _ _ _ _ (by decide), q3_a _ _ _ _ _ _ (by decide) d.isLt, show BitVec.ofNat 4 ((256 * bank.toNat + 131072 * cap.toNat) / 256) = bank from ofNat_eq _ (by omega), show BitVec.ofNat 3 ((256 * bank.toNat + 131072 * cap.toNat) / 131072) = cap from ofNat_eq _ (by omega)]
    rfl)

theorem phrd (d : Reg) (a : Reg) (b : Reg) (bank : BitVec 4) (cap : BitVec 3) : Statement (.phrd d a b bank cap) :=
  of2 (q3 46 1 2 (b.toNat) (a.toNat) (d.toNat)) (256 * bank.toNat + 131072 * cap.toNat) rfl (q3_len _ _ _ _ _ _ (by decide)) (by
    rw [maj_pickPhase64 (q3_maj _ _ _ _ _ _ (by decide) (by decide)), pickPhase64, q3_fn _ _ _ _ _ _ (by decide) (by decide) b.isLt a.isLt d.isLt, q3_d _ _ _ _ _ _ (by decide), q3_a _ _ _ _ _ _ (by decide) d.isLt, q3_b _ _ _ _ _ _ (by decide) a.isLt d.isLt, show BitVec.ofNat 4 ((256 * bank.toNat + 131072 * cap.toNat) / 256) = bank from ofNat_eq _ (by omega), show BitVec.ofNat 3 ((256 * bank.toNat + 131072 * cap.toNat) / 131072) = cap from ofNat_eq _ (by omega)]
    rfl)

theorem phinv (d : Reg) (a : Reg) (bank : BitVec 4) (cap : BitVec 3) : Statement (.phinv d a bank cap) :=
  of2 (q3 46 1 3 (0) (a.toNat) (d.toNat)) (256 * bank.toNat + 131072 * cap.toNat) rfl (q3_len _ _ _ _ _ _ (by decide)) (by
    rw [maj_pickPhase64 (q3_maj _ _ _ _ _ _ (by decide) (by decide)), pickPhase64, q3_fn _ _ _ _ _ _ (by decide) (by decide) (by decide) a.isLt d.isLt, q3_d _ _ _ _ _ _ (by decide), q3_a _ _ _ _ _ _ (by decide) d.isLt, show BitVec.ofNat 4 ((256 * bank.toNat + 131072 * cap.toNat) / 256) = bank from ofNat_eq _ (by omega), show BitVec.ofNat 3 ((256 * bank.toNat + 131072 * cap.toNat) / 131072) = cap from ofNat_eq _ (by omega)]
    rfl)

theorem dcmp (d : Reg) (a : Reg) (b : Reg) (cap : BitVec 3) (res : Bool) : Statement (.dcmp d a b cap res) :=
  of2 (q3 46 1 4 (b.toNat) (a.toNat) (d.toNat)) (131072 * cap.toNat + 1048576 * res.toNat) rfl (q3_len _ _ _ _ _ _ (by decide)) (by
    have := res.toNat_le
    rw [maj_pickPhase64 (q3_maj _ _ _ _ _ _ (by decide) (by decide)), pickPhase64, q3_fn _ _ _ _ _ _ (by decide) (by decide) b.isLt a.isLt d.isLt, q3_d _ _ _ _ _ _ (by decide), q3_a _ _ _ _ _ _ (by decide) d.isLt, q3_b _ _ _ _ _ _ (by decide) a.isLt d.isLt, show BitVec.ofNat 3 ((131072 * cap.toNat + 1048576 * res.toNat) / 131072) = cap from ofNat_eq _ (by omega), show bitAt (131072 * cap.toNat + 1048576 * res.toNat) 20 = res from bitAt_eq _ (by omega)]
    rfl)

theorem cpy (d : Reg) (a : Reg) (b : Reg) (c : Reg) (raw : Bool) : Statement (.cpy d a b c raw) :=
  of2 (q3 47 1 0 (b.toNat) (a.toNat) (d.toNat)) (c.toNat + 1024 * raw.toNat) rfl (q3_len _ _ _ _ _ _ (by decide)) (by
    have := raw.toNat_le
    rw [maj_pickCpy64 (q3_maj _ _ _ _ _ _ (by decide) (by decide)), pickCpy64, q3_fn _ _ _ _ _ _ (by decide) (by decide) b.isLt a.isLt d.isLt, q3_d _ _ _ _ _ _ (by decide), q3_a _ _ _ _ _ _ (by decide) d.isLt, q3_b _ _ _ _ _ _ (by decide) a.isLt d.isLt, show BitVec.ofNat 5 (c.toNat + 1024 * raw.toNat) = c from ofNat_eq _ (by omega), show bitAt (c.toNat + 1024 * raw.toNat) 10 = raw from bitAt_eq _ (by omega)]
    rfl)

theorem cpy2 (d : Reg) (a : Reg) (b : Reg) (c : Reg) (e : Reg) (raw : Bool) : Statement (.cpy2 d a b c e raw) :=
  of2 (q3 47 1 1 (b.toNat) (a.toNat) (d.toNat)) (c.toNat + 32 * e.toNat + 1024 * raw.toNat) rfl (q3_len _ _ _ _ _ _ (by decide)) (by
    have := raw.toNat_le
    rw [maj_pickCpy64 (q3_maj _ _ _ _ _ _ (by decide) (by decide)), pickCpy64, q3_fn _ _ _ _ _ _ (by decide) (by decide) b.isLt a.isLt d.isLt, q3_d _ _ _ _ _ _ (by decide), q3_a _ _ _ _ _ _ (by decide) d.isLt, q3_b _ _ _ _ _ _ (by decide) a.isLt d.isLt, show BitVec.ofNat 5 (c.toNat + 32 * e.toNat + 1024 * raw.toNat) = c from ofNat_eq _ (by omega), show BitVec.ofNat 5 ((c.toNat + 32 * e.toNat + 1024 * raw.toNat) / 32) = e from ofNat_eq _ (by omega), show bitAt (c.toNat + 32 * e.toNat + 1024 * raw.toNat) 10 = raw from bitAt_eq _ (by omega)]
    rfl)

theorem cpyset (d : Reg) (a : Reg) (b : Reg) (c : Reg) (raw : Bool) : Statement (.cpyset d a b c raw) :=
  of2 (q3 47 1 2 (b.toNat) (a.toNat) (d.toNat)) (c.toNat + 1024 * raw.toNat) rfl (q3_len _ _ _ _ _ _ (by decide)) (by
    have := raw.toNat_le
    rw [maj_pickCpy64 (q3_maj _ _ _ _ _ _ (by decide) (by decide)), pickCpy64, q3_fn _ _ _ _ _ _ (by decide) (by decide) b.isLt a.isLt d.isLt, q3_d _ _ _ _ _ _ (by decide), q3_a _ _ _ _ _ _ (by decide) d.isLt, q3_b _ _ _ _ _ _ (by decide) a.isLt d.isLt, show BitVec.ofNat 5 (c.toNat + 1024 * raw.toNat) = c from ofNat_eq _ (by omega), show bitAt (c.toNat + 1024 * raw.toNat) 10 = raw from bitAt_eq _ (by omega)]
    rfl)

theorem cpytile (d : Reg) (a : Reg) (b : Reg) (tile : BitVec 4) (first : BitVec 7) (count : BitVec 7) (dir : Bool) : Statement (.cpytile d a b tile first count dir) :=
  of2 (q3 47 1 3 (b.toNat) (a.toNat) (d.toNat)) (tile.toNat + 16 * first.toNat + 2048 * count.toNat + 262144 * dir.toNat) rfl (q3_len _ _ _ _ _ _ (by decide)) (by
    have := dir.toNat_le
    rw [maj_pickCpy64 (q3_maj _ _ _ _ _ _ (by decide) (by decide)), pickCpy64, q3_fn _ _ _ _ _ _ (by decide) (by decide) b.isLt a.isLt d.isLt, q3_d _ _ _ _ _ _ (by decide), q3_a _ _ _ _ _ _ (by decide) d.isLt, q3_b _ _ _ _ _ _ (by decide) a.isLt d.isLt, show BitVec.ofNat 4 (tile.toNat + 16 * first.toNat + 2048 * count.toNat + 262144 * dir.toNat) = tile from ofNat_eq _ (by omega), show BitVec.ofNat 7 ((tile.toNat + 16 * first.toNat + 2048 * count.toNat + 262144 * dir.toNat) / 16) = first from ofNat_eq _ (by omega), show BitVec.ofNat 7 ((tile.toNat + 16 * first.toNat + 2048 * count.toNat + 262144 * dir.toNat) / 2048) = count from ofNat_eq _ (by omega), show bitAt (tile.toNat + 16 * first.toNat + 2048 * count.toNat + 262144 * dir.toNat) 18 = dir from bitAt_eq _ (by omega)]
    rfl)

theorem cpycmp (d : Reg) (a : Reg) (b : Reg) (c : Reg) (e : Reg) (raw : Bool) : Statement (.cpycmp d a b c e raw) :=
  of2 (q3 47 1 4 (b.toNat) (a.toNat) (d.toNat)) (c.toNat + 32 * e.toNat + 1024 * raw.toNat) rfl (q3_len _ _ _ _ _ _ (by decide)) (by
    have := raw.toNat_le
    rw [maj_pickCpy64 (q3_maj _ _ _ _ _ _ (by decide) (by decide)), pickCpy64, q3_fn _ _ _ _ _ _ (by decide) (by decide) b.isLt a.isLt d.isLt, q3_d _ _ _ _ _ _ (by decide), q3_a _ _ _ _ _ _ (by decide) d.isLt, q3_b _ _ _ _ _ _ (by decide) a.isLt d.isLt, show BitVec.ofNat 5 (c.toNat + 32 * e.toNat + 1024 * raw.toNat) = c from ofNat_eq _ (by omega), show BitVec.ofNat 5 ((c.toNat + 32 * e.toNat + 1024 * raw.toNat) / 32) = e from ofNat_eq _ (by omega), show bitAt (c.toNat + 32 * e.toNat + 1024 * raw.toNat) 10 = raw from bitAt_eq _ (by omega)]
    rfl)

theorem splook (d : Reg) (a : Reg) (b : Reg) : Statement (.splook d a b) :=
  of1 (q3 48 0 0 (b.toNat) (a.toNat) (d.toNat)) rfl (q3_len _ _ _ _ _ _ (by decide)) (by
    rw [maj_pickSpad (q3_maj _ _ _ _ _ _ (by decide) (by decide)), pickSpad, q3_fn _ _ _ _ _ _ (by decide) (by decide) b.isLt a.isLt d.isLt, q3_d _ _ _ _ _ _ (by decide), q3_a _ _ _ _ _ _ (by decide) d.isLt, q3_b _ _ _ _ _ _ (by decide) a.isLt d.isLt]
    rfl)

theorem spevict (d : Reg) (a : Reg) : Statement (.spevict d a) :=
  of1 (q3 48 0 1 (0) (a.toNat) (d.toNat)) rfl (q3_len _ _ _ _ _ _ (by decide)) (by
    rw [maj_pickSpad (q3_maj _ _ _ _ _ _ (by decide) (by decide)), pickSpad, q3_fn _ _ _ _ _ _ (by decide) (by decide) (by decide) a.isLt d.isLt, q3_d _ _ _ _ _ _ (by decide), q3_a _ _ _ _ _ _ (by decide) d.isLt]
    rfl)

theorem spdemote (a : Reg) : Statement (.spdemote a) :=
  of1 (q3 48 0 2 (0) (a.toNat) (0)) rfl (q3_len _ _ _ _ _ _ (by decide)) (by
    rw [maj_pickSpad (q3_maj _ _ _ _ _ _ (by decide) (by decide)), pickSpad, q3_fn _ _ _ _ _ _ (by decide) (by decide) (by decide) a.isLt (by decide), q3_a _ _ _ _ _ _ (by decide) (by decide)]
    rfl)

theorem sprel (a : Reg) (b : Reg) : Statement (.sprel a b) :=
  of1 (q3 48 0 3 (b.toNat) (a.toNat) (0)) rfl (q3_len _ _ _ _ _ _ (by decide)) (by
    rw [maj_pickSpad (q3_maj _ _ _ _ _ _ (by decide) (by decide)), pickSpad, q3_fn _ _ _ _ _ _ (by decide) (by decide) b.isLt a.isLt (by decide), q3_a _ _ _ _ _ _ (by decide) (by decide), q3_b _ _ _ _ _ _ (by decide) a.isLt (by decide)]
    rfl)

theorem spprio (a : Reg) (b : Reg) : Statement (.spprio a b) :=
  of1 (q3 48 0 4 (b.toNat) (a.toNat) (0)) rfl (q3_len _ _ _ _ _ _ (by decide)) (by
    rw [maj_pickSpad (q3_maj _ _ _ _ _ _ (by decide) (by decide)), pickSpad, q3_fn _ _ _ _ _ _ (by decide) (by decide) b.isLt a.isLt (by decide), q3_a _ _ _ _ _ _ (by decide) (by decide), q3_b _ _ _ _ _ _ (by decide) a.isLt (by decide)]
    rfl)

theorem sync (n : BitVec 3) : Statement (.sync n) :=
  of1 (q3 49 0 0 0 0 n.toNat) rfl (by unfold q3; omega) (by
    obtain ⟨w0, h0⟩ : ∃ z, z = q3 49 0 0 0 0 n.toNat := ⟨_, rfl⟩
    rw [← h0]
    unfold q3 at h0
    rw [maj_pickSync (show w0 / 4 % 64 = 49 by omega), pickSync, show w0 / 8388608 % 512 = 0 by omega, show BitVec.ofNat 3 (w0 / 256) = n from ofNat_eq _ (by omega)]
    rfl)

theorem sarrive (n : BitVec 3) : Statement (.sarrive n) :=
  of1 (q3 49 0 1 0 0 n.toNat) rfl (by unfold q3; omega) (by
    obtain ⟨w0, h0⟩ : ∃ z, z = q3 49 0 1 0 0 n.toNat := ⟨_, rfl⟩
    rw [← h0]
    unfold q3 at h0
    rw [maj_pickSync (show w0 / 4 % 64 = 49 by omega), pickSync, show w0 / 8388608 % 512 = 1 by omega, show BitVec.ofNat 3 (w0 / 256) = n from ofNat_eq _ (by omega)]
    rfl)

theorem swait (n : BitVec 3) : Statement (.swait n) :=
  of1 (q3 49 0 2 0 0 n.toNat) rfl (by unfold q3; omega) (by
    obtain ⟨w0, h0⟩ : ∃ z, z = q3 49 0 2 0 0 n.toNat := ⟨_, rfl⟩
    rw [← h0]
    unfold q3 at h0
    rw [maj_pickSync (show w0 / 4 % 64 = 49 by omega), pickSync, show w0 / 8388608 % 512 = 2 by omega, show BitVec.ofNat 3 (w0 / 256) = n from ofNat_eq _ (by omega)]
    rfl)

theorem syncv (d : Reg) (a : Reg) (n : BitVec 3) (op : BitVec 3) : Statement (.syncv d a n op) :=
  of2 (q3 49 1 3 (0) (a.toNat) (d.toNat)) (n.toNat + 8 * op.toNat) rfl (q3_len _ _ _ _ _ _ (by decide)) (by
    rw [maj_pickSync64 (q3_maj _ _ _ _ _ _ (by decide) (by decide)), pickSync64, q3_fn _ _ _ _ _ _ (by decide) (by decide) (by decide) a.isLt d.isLt, q3_d _ _ _ _ _ _ (by decide), q3_a _ _ _ _ _ _ (by decide) d.isLt, show BitVec.ofNat 3 (n.toNat + 8 * op.toNat) = n from ofNat_eq _ (by omega), show BitVec.ofNat 3 ((n.toNat + 8 * op.toNat) / 8) = op from ofNat_eq _ (by omega)]
    rfl)

theorem xsend (a : Reg) (b : Reg) (c : Reg) (n : BitVec 3) : Statement (.xsend a b c n) :=
  of2 (q3 50 1 0 (b.toNat) (a.toNat) (0)) (c.toNat + 32 * n.toNat) rfl (q3_len _ _ _ _ _ _ (by decide)) (by
    rw [maj_pickXchg64 (q3_maj _ _ _ _ _ _ (by decide) (by decide)), pickXchg64, q3_fn _ _ _ _ _ _ (by decide) (by decide) b.isLt a.isLt (by decide), q3_a _ _ _ _ _ _ (by decide) (by decide), q3_b _ _ _ _ _ _ (by decide) a.isLt (by decide), show BitVec.ofNat 5 (c.toNat + 32 * n.toNat) = c from ofNat_eq _ (by omega), show BitVec.ofNat 3 ((c.toNat + 32 * n.toNat) / 32) = n from ofNat_eq _ (by omega)]
    rfl)

theorem xopen (a : Reg) (n : BitVec 3) : Statement (.xopen a n) :=
  of2 (q3 50 1 1 (0) (a.toNat) (0)) (32 * n.toNat) rfl (q3_len _ _ _ _ _ _ (by decide)) (by
    rw [maj_pickXchg64 (q3_maj _ _ _ _ _ _ (by decide) (by decide)), pickXchg64, q3_fn _ _ _ _ _ _ (by decide) (by decide) (by decide) a.isLt (by decide), q3_a _ _ _ _ _ _ (by decide) (by decide), show BitVec.ofNat 3 ((32 * n.toNat) / 32) = n from ofNat_eq _ (by omega)]
    rfl)

theorem xput (a : Reg) : Statement (.xput a) :=
  of2 (q3 50 1 2 (0) (a.toNat) (0)) 0 rfl (q3_len _ _ _ _ _ _ (by decide)) (by
    rw [maj_pickXchg64 (q3_maj _ _ _ _ _ _ (by decide) (by decide)), pickXchg64, q3_fn _ _ _ _ _ _ (by decide) (by decide) (by decide) a.isLt (by decide), q3_a _ _ _ _ _ _ (by decide) (by decide)]
    rfl)

theorem xend : Statement (.xend) :=
  of2 (q3 50 1 3 (0) (0) (0)) 0 rfl (q3_len _ _ _ _ _ _ (by decide)) (by
    rw [maj_pickXchg64 (q3_maj _ _ _ _ _ _ (by decide) (by decide)), pickXchg64, q3_fn _ _ _ _ _ _ (by decide) (by decide) (by decide) (by decide) (by decide)]
    rfl)

theorem klaunch (d : Reg) (a : Reg) (q : BitVec 4) (detach : Bool) : Statement (.klaunch d a q detach) :=
  of2 (q3 51 1 0 (0) (a.toNat) (d.toNat)) (q.toNat + 16 * detach.toNat) rfl (q3_len _ _ _ _ _ _ (by decide)) (by
    have := detach.toNat_le
    rw [maj_pickKlch64 (q3_maj _ _ _ _ _ _ (by decide) (by decide)), pickKlch64, q3_fn _ _ _ _ _ _ (by decide) (by decide) (by decide) a.isLt d.isLt, q3_d _ _ _ _ _ _ (by decide), q3_a _ _ _ _ _ _ (by decide) d.isLt, show BitVec.ofNat 4 (q.toNat + 16 * detach.toNat) = q from ofNat_eq _ (by omega), show bitAt (q.toNat + 16 * detach.toNat) 4 = detach from bitAt_eq _ (by omega)]
    rfl)

theorem kquery (d : Reg) (a : Reg) : Statement (.kquery d a) :=
  of2 (q3 51 1 1 (0) (a.toNat) (d.toNat)) 0 rfl (q3_len _ _ _ _ _ _ (by decide)) (by
    rw [maj_pickKlch64 (q3_maj _ _ _ _ _ _ (by decide) (by decide)), pickKlch64, q3_fn _ _ _ _ _ _ (by decide) (by decide) (by decide) a.isLt d.isLt, q3_d _ _ _ _ _ _ (by decide), q3_a _ _ _ _ _ _ (by decide) d.isLt]
    rfl)

theorem ksignal (a : Reg) (b : Reg) : Statement (.ksignal a b) :=
  of2 (q3 51 1 2 (b.toNat) (a.toNat) (0)) 0 rfl (q3_len _ _ _ _ _ _ (by decide)) (by
    rw [maj_pickKlch64 (q3_maj _ _ _ _ _ _ (by decide) (by decide)), pickKlch64, q3_fn _ _ _ _ _ _ (by decide) (by decide) b.isLt a.isLt (by decide), q3_a _ _ _ _ _ _ (by decide) (by decide), q3_b _ _ _ _ _ _ (by decide) a.isLt (by decide)]
    rfl)

theorem lquery (d : Reg) (a : Reg) : Statement (.lquery d a) :=
  of1 (q3 52 0 0 (0) (a.toNat) (d.toNat)) rfl (q3_len _ _ _ _ _ _ (by decide)) (by
    rw [maj_pickLease (q3_maj _ _ _ _ _ _ (by decide) (by decide)), pickLease, q3_fn _ _ _ _ _ _ (by decide) (by decide) (by decide) a.isLt d.isLt, q3_d _ _ _ _ _ _ (by decide), q3_a _ _ _ _ _ _ (by decide) d.isLt]
    rfl)

theorem lrenew (d : Reg) (a : Reg) : Statement (.lrenew d a) :=
  of1 (q3 52 0 1 (0) (a.toNat) (d.toNat)) rfl (q3_len _ _ _ _ _ _ (by decide)) (by
    rw [maj_pickLease (q3_maj _ _ _ _ _ _ (by decide) (by decide)), pickLease, q3_fn _ _ _ _ _ _ (by decide) (by decide) (by decide) a.isLt d.isLt, q3_d _ _ _ _ _ _ (by decide), q3_a _ _ _ _ _ _ (by decide) d.isLt]
    rfl)

theorem pgcnt (d : Reg) (a : Reg) : Statement (.pgcnt d a) :=
  of1 (q3 52 0 2 (0) (a.toNat) (d.toNat)) rfl (q3_len _ _ _ _ _ _ (by decide)) (by
    rw [maj_pickLease (q3_maj _ _ _ _ _ _ (by decide) (by decide)), pickLease, q3_fn _ _ _ _ _ _ (by decide) (by decide) (by decide) a.isLt d.isLt, q3_d _ _ _ _ _ _ (by decide), q3_a _ _ _ _ _ _ (by decide) d.isLt]
    rfl)

theorem ldrain (d : Reg) (a : Reg) : Statement (.ldrain d a) :=
  of2 (q3 53 1 0 (0) (a.toNat) (d.toNat)) 0 rfl (q3_len _ _ _ _ _ _ (by decide)) (by
    rw [maj_pickLink64 (q3_maj _ _ _ _ _ _ (by decide) (by decide)), pickLink64, q3_fn _ _ _ _ _ _ (by decide) (by decide) (by decide) a.isLt d.isLt, q3_d _ _ _ _ _ _ (by decide), q3_a _ _ _ _ _ _ (by decide) d.isLt]
    rfl)

theorem lstat (d : Reg) (a : Reg) (sel : BitVec 2) : Statement (.lstat d a sel) :=
  of2 (q3 53 1 1 (0) (a.toNat) (d.toNat)) sel.toNat rfl (q3_len _ _ _ _ _ _ (by decide)) (by
    rw [maj_pickLink64 (q3_maj _ _ _ _ _ _ (by decide) (by decide)), pickLink64, q3_fn _ _ _ _ _ _ (by decide) (by decide) (by decide) a.isLt d.isLt, q3_d _ _ _ _ _ _ (by decide), q3_a _ _ _ _ _ _ (by decide) d.isLt, show BitVec.ofNat 2 sel.toNat = sel from ofNat_eq _ (by omega)]
    rfl)

theorem irsend (d : Reg) (a : Reg) (b : Reg) : Statement (.irsend d a b) :=
  of2 (q3 53 1 2 (b.toNat) (a.toNat) (d.toNat)) 0 rfl (q3_len _ _ _ _ _ _ (by decide)) (by
    rw [maj_pickLink64 (q3_maj _ _ _ _ _ _ (by decide) (by decide)), pickLink64, q3_fn _ _ _ _ _ _ (by decide) (by decide) b.isLt a.isLt d.isLt, q3_d _ _ _ _ _ _ (by decide), q3_a _ _ _ _ _ _ (by decide) d.isLt, q3_b _ _ _ _ _ _ (by decide) a.isLt d.isLt]
    rfl)

theorem irrecv (d : Reg) (a : Reg) (b : Reg) : Statement (.irrecv d a b) :=
  of2 (q3 53 1 3 (b.toNat) (a.toNat) (d.toNat)) 0 rfl (q3_len _ _ _ _ _ _ (by decide)) (by
    rw [maj_pickLink64 (q3_maj _ _ _ _ _ _ (by decide) (by decide)), pickLink64, q3_fn _ _ _ _ _ _ (by decide) (by decide) b.isLt a.isLt d.isLt, q3_d _ _ _ _ _ _ (by decide), q3_a _ _ _ _ _ _ (by decide) d.isLt, q3_b _ _ _ _ _ _ (by decide) a.isLt d.isLt]
    rfl)

theorem pmark (a : Reg) : Statement (.pmark a) :=
  of1 (q3 54 0 0 (0) (a.toNat) (0)) rfl (q3_len _ _ _ _ _ _ (by decide)) (by
    rw [maj_pickDbg (q3_maj _ _ _ _ _ _ (by decide) (by decide)), pickDbg, q3_fn _ _ _ _ _ _ (by decide) (by decide) (by decide) a.isLt (by decide), q3_a _ _ _ _ _ _ (by decide) (by decide)]
    rfl)

theorem dstop : Statement (.dstop) :=
  of1 (q3 54 0 1 (0) (0) (0)) rfl (q3_len _ _ _ _ _ _ (by decide)) (by
    rw [maj_pickDbg (q3_maj _ _ _ _ _ _ (by decide) (by decide)), pickDbg, q3_fn _ _ _ _ _ _ (by decide) (by decide) (by decide) (by decide) (by decide)]
    rfl)

theorem powerGood (pscOk : Bool) : Statement (.powerGood pscOk) := of_event rfl

theorem stackBringup (reports : Option (List (Nat × Nat))) : Statement (.stackBringup reports) := of_event rfl

theorem combLock (ok : Bool) : Statement (.combLock ok) := of_event rfl

theorem switchPortTrain (ok : Bool) : Statement (.switchPortTrain ok) := of_event rfl

theorem mgcRelease (ok : Bool) : Statement (.mgcRelease ok) := of_event rfl

theorem setReady : Statement (.setReady) := of_event rfl

theorem cxlLinkTrain (cache : Bool) (mem : Bool) : Statement (.cxlLinkTrain cache mem) := of_event rfl

theorem powerSample (avg : Nat) : Statement (.powerSample avg) := of_event rfl

theorem dieJunctionLimit (die : Nat) : Statement (.dieJunctionLimit die) := of_event rfl

theorem dieJunctionRecover (die : Nat) : Statement (.dieJunctionRecover die) := of_event rfl

theorem combLineBelowThreshold (src : Nat) (line : Nat) (failed : Bool) : Statement (.combLineBelowThreshold src line failed) := of_event rfl

theorem combLineRecover (src : Nat) (line : Nat) (measured : List (Nat × Nat × List Int)) : Statement (.combLineRecover src line measured) := of_event rfl

theorem laserTelemetryUpdate (src : Nat) (line : Nat) (rec : Telemetry) : Statement (.laserTelemetryUpdate src line rec) := of_event rfl

theorem issueGroupForm (core : Nat) : Statement (.issueGroupForm core) := of_event rfl

theorem handlerInstructionLimit (core : Nat) : Statement (.handlerInstructionLimit core) := of_event rfl

theorem deadlockDetect (core : Nat) : Statement (.deadlockDetect core) := of_event rfl

theorem sfuEntryComplete (core : Nat) (idx : Nat) : Statement (.sfuEntryComplete core idx) := of_event rfl

theorem taskStart (core : Nat) (shadow : Bool) : Statement (.taskStart core shadow) := of_event rfl

theorem taskRestore (core : Nat) (shadow : Bool) : Statement (.taskRestore core shadow) := of_event rfl

theorem taskSave (core : Nat) (toFrame : Bool) : Statement (.taskSave core toFrame) := of_event rfl

theorem spinTimeoutSwap (core : Nat) : Statement (.spinTimeoutSwap core) := of_event rfl

theorem hexitComplete (core : Nat) (slot : Nat) : Statement (.hexitComplete core slot) := of_event rfl

theorem kexitComplete (core : Nat) : Statement (.kexitComplete core) := of_event rfl

theorem storePerform (core : Nat) (slot : Nat) (idx : Nat) : Statement (.storePerform core slot idx) := of_event rfl

theorem accessReissue (core : Nat) (slot : Nat) : Statement (.accessReissue core slot) := of_event rfl

theorem atomicAtHome (core : Nat) (slot : Nat) : Statement (.atomicAtHome core slot) := of_event rfl

theorem pageWalk (cluster : Nat) (ctx : Nat) (va : Word) : Statement (.pageWalk cluster ctx va) := of_event rfl

theorem leaseExpiry (cluster : Nat) : Statement (.leaseExpiry cluster) := of_event rfl

theorem cmeArbitrationRound (cluster : Nat) : Statement (.cmeArbitrationRound cluster) := of_event rfl

theorem copyUnit (core : Nat) (seq : Nat) : Statement (.copyUnit core seq) := of_event rfl

theorem copyLeaseRenewal (core : Nat) (seq : Nat) : Statement (.copyLeaseRenewal core seq) := of_event rfl

theorem passArrival (core : Nat) (slot : Nat) : Statement (.passArrival core slot) := of_event rfl

theorem passStreamStart (cluster : Nat) : Statement (.passStreamStart cluster) := of_event rfl

theorem passDetected (cluster : Nat) : Statement (.passDetected cluster) := of_event rfl

theorem omuProbe (cluster : Nat) (bank : Nat) (measured : List Int) : Statement (.omuProbe cluster bank measured) := of_event rfl

theorem omuPhld (cluster : Nat) (measured : List Int) : Statement (.omuPhld cluster measured) := of_event rfl

theorem omuPhtrim (cluster : Nat) (trims : List (Nat × Nat)) (measured : List Int) : Statement (.omuPhtrim cluster trims measured) := of_event rfl

theorem omuPhrd (cluster : Nat) : Statement (.omuPhrd cluster) := of_event rfl

theorem omuPhinv (cluster : Nat) : Statement (.omuPhinv cluster) := of_event rfl

theorem omuTzero (cluster : Nat) : Statement (.omuTzero cluster) := of_event rfl

theorem omuTacc (cluster : Nat) : Statement (.omuTacc cluster) := of_event rfl

theorem dcmpExecute (die : Nat) : Statement (.dcmpExecute die) := of_event rfl

theorem omuThermalLoop (cluster : Nat) (errs : List Int) : Statement (.omuThermalLoop cluster errs) := of_event rfl

theorem tcfgWrite (core : Nat) (slot : Nat) (n : Nat) (val : Word) : Statement (.tcfgWrite core slot n val) := of_event rfl

theorem phprobeWrite (core : Nat) (val : Word) : Statement (.phprobeWrite core val) := of_event rfl

theorem drlimitWrite (core : Nat) (val : Word) : Statement (.drlimitWrite core val) := of_event rfl

theorem gainWrite (core : Nat) (val : Word) : Statement (.gainWrite core val) := of_event rfl

theorem exchangeEntryRun (core : Nat) : Statement (.exchangeEntryRun core) := of_event rfl

theorem groupEnterReleasing (kid : Nat) (level : Nat) (gid : Nat) : Statement (.groupEnterReleasing kid level gid) := of_event rfl

theorem memberRelease (core : Nat) : Statement (.memberRelease core) := of_event rfl

theorem levelConflictDetect (kid : Nat) : Statement (.levelConflictDetect kid) := of_event rfl

theorem peerLoss (kid : Nat) : Statement (.peerLoss kid) := of_event rfl

theorem doorbellWrite (ctx : Nat) (q : Nat) (tail : Nat) : Statement (.doorbellWrite ctx q tail) := of_event rfl

theorem launchRecordTake (ctx : Nat) (q : Nat) : Statement (.launchRecordTake ctx q) := of_event rfl

theorem klaunchMgcAnswer (core : Nat) (slot : Nat) : Statement (.klaunchMgcAnswer core slot) := of_event rfl

theorem kernelEligible (kid : Nat) : Statement (.kernelEligible kid) := of_event rfl

theorem kernelDependenceFault (kid : Nat) : Statement (.kernelDependenceFault kid) := of_event rfl

theorem bindEntryWrite (core : Nat) (shadow : Bool) (write : BindWrite) : Statement (.bindEntryWrite core shadow write) := of_event rfl

theorem kernelDrainComplete (kid : Nat) : Statement (.kernelDrainComplete kid) := of_event rfl

theorem replayCompare (kid : Nat) : Statement (.replayCompare kid) := of_event rfl

theorem kernelKill (kid : Nat) : Statement (.kernelKill kid) := of_event rfl

theorem preemptPartition (cores : List Nat) : Statement (.preemptPartition cores) := of_event rfl

theorem priorityWaitTimeout (kid : Nat) : Statement (.priorityWaitTimeout kid) := of_event rfl

theorem contextCreateRequest (ctx : Nat) (desc : CtxDesc) (keyHeld : Bool) : Statement (.contextCreateRequest ctx desc keyHeld) := of_event rfl

theorem queueRegister (ctx : Nat) (q : Nat) (ring : Nat) (logq : Nat) (cap : Nat) : Statement (.queueRegister ctx q ring logq cap) := of_event rfl

theorem contextActivate (ctx : Nat) (attested : Bool) : Statement (.contextActivate ctx attested) := of_event rfl

theorem contextSuspend (ctx : Nat) : Statement (.contextSuspend ctx) := of_event rfl

theorem contextResume (ctx : Nat) : Statement (.contextResume ctx) := of_event rfl

theorem contextDestroy (ctx : Nat) : Statement (.contextDestroy ctx) := of_event rfl

theorem contextFree (ctx : Nat) : Statement (.contextFree ctx) := of_event rfl

theorem faultHandover (core : Nat) (slot : Nat) : Statement (.faultHandover core slot) := of_event rfl

theorem faultResolution (core : Nat) (slot : Nat) (choice : DebugChoice) : Statement (.faultResolution core slot choice) := of_event rfl

theorem faultRingSpace (ctx : Nat) : Statement (.faultRingSpace ctx) := of_event rfl

theorem missEscalate (core : Nat) (slot : Nat) : Statement (.missEscalate core slot) := of_event rfl

theorem slotEdge (tu : TimeUnit) (err : Int) : Statement (.slotEdge tu err) := of_event rfl

theorem slotEdgeTimeout (tu : TimeUnit) : Statement (.slotEdgeTimeout tu) := of_event rfl

theorem atsInvalidationRequest (va : Word) (len : Nat) : Statement (.atsInvalidationRequest va len) := of_event rfl

theorem atsInvalidationCompletion (idx : Nat) : Statement (.atsInvalidationCompletion idx) := of_event rfl

theorem dcdReleaseNotice (va : Word) (len : Nat) : Statement (.dcdReleaseNotice va len) := of_event rfl

theorem dcdForcedRelease (va : Word) (len : Nat) : Statement (.dcdForcedRelease va len) := of_event rfl

theorem flitReceive (port : Nat) (lane : Nat) (bytes : List Byte) (wrong : List Nat) : Statement (.flitReceive port lane bytes wrong) := of_event rfl

theorem nakTimer (port : Nat) (lane : Nat) : Statement (.nakTimer port lane) := of_event rfl

theorem ackTimer (port : Nat) (lane : Nat) : Statement (.ackTimer port lane) := of_event rfl

theorem idleFlitTimer (port : Nat) : Statement (.idleFlitTimer port) := of_event rfl

theorem portEnable (port : Nat) : Statement (.portEnable port) := of_event rfl

theorem portLock (port : Nat) (first : Nat) (rest : List Nat) : Statement (.portLock port first rest) := of_event rfl

theorem portLockExchangeDone (port : Nat) (peer : Nat) (told : LockTold) : Statement (.portLockExchangeDone port peer told) := of_event rfl

theorem portLockTimeout (port : Nat) : Statement (.portLockTimeout port) := of_event rfl

theorem portLightLoss (port : Nat) : Statement (.portLightLoss port) := of_event rfl

theorem portFence (port : Nat) : Statement (.portFence port) := of_event rfl

theorem portDisable (port : Nat) : Statement (.portDisable port) := of_event rfl

theorem portRestore (port : Nat) : Statement (.portRestore port) := of_event rfl

theorem wavelengthErrorDrop (port : Nat) (lane : Nat) (wave : Nat) (codeword : Nat) : Statement (.wavelengthErrorDrop port lane wave codeword) := of_event rfl

theorem wavelengthSwitchover (port : Nat) (lane : Nat) : Statement (.wavelengthSwitchover port lane) := of_event rfl

theorem packetForward (idx : Nat) : Statement (.packetForward idx) := of_event rfl

theorem routingTableInstall (table : List (Nat × Nat)) (fabric : List FabNode) : Statement (.routingTableInstall table fabric) := of_event rfl

theorem remoteRequestReceive (pkt : Packet) : Statement (.remoteRequestReceive pkt) := of_event rfl

theorem remoteResponseReceive (pkt : Packet) : Statement (.remoteResponseReceive pkt) := of_event rfl

theorem remoteRetryTimeout (target : Nat) (opseq : Nat) : Statement (.remoteRetryTimeout target opseq) := of_event rfl

theorem remoteAbandonTimeout (target : Nat) (opseq : Nat) : Statement (.remoteAbandonTimeout target opseq) := of_event rfl

theorem targetRecordExpiry (src : Nat) (opseq : Nat) : Statement (.targetRecordExpiry src opseq) := of_event rfl

theorem changeRequest (ch : Change) (fabric : List FabNode × List FabNode) : Statement (.changeRequest ch fabric) := of_event rfl

theorem portDrainComplete (port : Nat) : Statement (.portDrainComplete port) := of_event rfl

theorem circuitsReady : Statement (.circuitsReady) := of_event rfl

theorem changeFinalInstall : Statement (.changeFinalInstall) := of_event rfl

theorem irSessionWrite (n : Nat) (sess : Option IrSession) : Statement (.irSessionWrite n sess) := of_event rfl

theorem irSlotTransfer (n : Nat) (slot : Nat) (light : List (Nat × List Nat)) (noise : List Int) (lowMargin : Bool) : Statement (.irSlotTransfer n slot light noise lowMargin) := of_event rfl

theorem mgmtReadRequest (port : Nat) (src : Nat) (line : Nat) : Statement (.mgmtReadRequest port src line) := of_event rfl

theorem cxlMemRead (pa : Nat) (len : Nat) : Statement (.cxlMemRead pa len) := of_event rfl

theorem cxlMemWrite (pa : Nat) (data : List Byte) (poison : Bool) : Statement (.cxlMemWrite pa data poison) := of_event rfl

theorem hostLinkFatalError : Statement (.hostLinkFatalError) := of_event rfl

theorem cxlReset : Statement (.cxlReset) := of_event rfl

theorem uncorrectableMemoryError (err : MemError) : Statement (.uncorrectableMemoryError err) := of_event rfl

theorem registerParityError (core : Nat) (slot : Nat) (what : ParityAt) : Statement (.registerParityError core slot what) := of_event rfl

theorem correctedError (core : Nat) : Statement (.correctedError core) := of_event rfl

theorem unitWithdraw (kind : UnitKind) (idx : Nat) : Statement (.unitWithdraw kind idx) := of_event rfl

theorem stackThermalSample (stack : Nat) (temp : Int) : Statement (.stackThermalSample stack temp) := of_event rfl

theorem selfHoldNotice (stack : Nat) : Statement (.selfHoldNotice stack) := of_event rfl

theorem stackLost (stack : Nat) : Statement (.stackLost stack) := of_event rfl

theorem stackScrub (stack : Nat) : Statement (.stackScrub stack) := of_event rfl

theorem rowRepair (stack : Nat) (row : Nat) : Statement (.rowRepair stack row) := of_event rfl

theorem stackMailboxMessage (stack : Nat) (msg : StackMsg) : Statement (.stackMailboxMessage stack msg) := of_event rfl

theorem imageStage (img : FwImage) : Statement (.imageStage img) := of_event rfl

theorem imageVerify (kind : Nat) : Statement (.imageVerify kind) := of_event rfl

theorem handoverRequest (kind : Nat) : Statement (.handoverRequest kind) := of_event rfl

theorem imageCatchUp (kind : Nat) (inst : Nat) : Statement (.imageCatchUp kind inst) := of_event rfl

theorem switchOver (kind : Nat) (inst : Nat) : Statement (.switchOver kind inst) := of_event rfl

theorem catchUpTimeout (kind : Nat) (inst : Nat) : Statement (.catchUpTimeout kind inst) := of_event rfl

theorem heartbeat (kind : Nat) (inst : Nat) : Statement (.heartbeat kind inst) := of_event rfl

theorem heartbeatMissed (kind : Nat) (inst : Nat) : Statement (.heartbeatMissed kind inst) := of_event rfl

theorem probationCommit (kind : Nat) : Statement (.probationCommit kind) := of_event rfl

theorem pscImageBootTimeout : Statement (.pscImageBootTimeout) := of_event rfl

theorem svnMinimumRaise (kind : Nat) (min : Nat) : Statement (.svnMinimumRaise kind min) := of_event rfl

theorem quoteRequest (ctx : Nat) (nonce : List Byte) (tag : Nat) : Statement (.quoteRequest ctx nonce tag) := of_event rfl

theorem debugStopRequest (core : Nat) (auth : Bool) : Statement (.debugStopRequest core auth) := of_event rfl

theorem debugResumeRequest (core : Nat) (auth : Bool) : Statement (.debugResumeRequest core auth) := of_event rfl

theorem monitorSample (core : Nat) (mon : Nat) (v : Nat) : Statement (.monitorSample core mon v) := of_event rfl

theorem moncfgWrite (core : Nat) (n : Nat) (val : Word) : Statement (.moncfgWrite core n val) := of_event rfl

theorem pmctlWrite (core : Nat) (slot : Nat) (val : Word) : Statement (.pmctlWrite core slot val) := of_event rfl

theorem trbaseWrite (core : Nat) (slot : Nat) (val : Word) : Statement (.trbaseWrite core slot val) := of_event rfl

theorem csrWrite (core : Nat) (slot : Nat) (num : Nat) (val : Word) : Statement (.csrWrite core slot num val) := of_event rfl

theorem firmwareLeafStore (ctx : Nat) (pa : Nat) (val : Word) (cls : Nat) (peer : Bool) : Statement (.firmwareLeafStore ctx pa val cls peer) := of_event rfl

theorem frameReuseWaitElapsed (idx : Nat) : Statement (.frameReuseWaitElapsed idx) := of_event rfl

theorem newImageTrap (kind : Nat) (inst : Nat) : Statement (.newImageTrap kind inst) := of_event rfl

theorem tenantAuthenticatedRequest (ctx : Nat) (imbal : Bool) (trace : Bool) (tag : Nat) : Statement (.tenantAuthenticatedRequest ctx imbal trace tag) := of_event rfl

end Sys2Proof.Laws.RoundTrip
end

