-- ==== Sys2Proof/Laws/Vec.lean ====
section
/-! SUPPORT. What the shared operations of vector instructions do: lanes of a number and back, poison of chunks, and the lanes and
predicate bits that a result leaves (R190 to R194). -/

namespace Sys2Proof.Machine

/-! ## Lanes and numbers -/

theorem ofLanes_lt (w : Nat) (ls : List Nat) : ofLanes w ls < 2 ^ (w * ls.length) := by
  induction ls with
  | nil => simp [ofLanes]
  | cons x xs ih =>
    have hx : x % 2 ^ w < 2 ^ w := Nat.mod_lt _ (by positivity)
    have : 2 ^ (w * (x :: xs).length) = 2 ^ w * 2 ^ (w * xs.length) := by
      rw [← pow_add, List.length_cons]; ring_nf
    rw [this, ofLanes]
    calc x % 2 ^ w + 2 ^ w * ofLanes w xs < 2 ^ w + 2 ^ w * ofLanes w xs := by omega
      _ = 2 ^ w * (ofLanes w xs + 1) := by ring
      _ ≤ 2 ^ w * 2 ^ (w * xs.length) := Nat.mul_le_mul_left _ ih

theorem laneOf_ofLanes (w : Nat) (ls : List Nat) (i : Nat) : laneOf (ofLanes w ls) w i = ls.getD i 0 % 2 ^ w := by
  induction ls generalizing i with
  | nil => simp [ofLanes, laneOf]
  | cons x xs ih =>
    cases i with
    | zero => simp [ofLanes, laneOf]
    | succ i =>
      have h : 2 ^ (w * (i + 1)) = 2 ^ w * 2 ^ (w * i) := by rw [← pow_add]; ring_nf
      have hx : x % 2 ^ w < 2 ^ w := Nat.mod_lt _ (by positivity)
      rw [laneOf, ofLanes, h, ← Nat.div_div_eq_div_mul, Nat.add_mul_div_left _ _ (by positivity), Nat.div_eq_of_lt hx, zero_add]
      simpa [laneOf] using ih i

/-- Bit j of a sum of distinct powers of two with the given step. -/
theorem testBit_powers (d : Nat) (hd : 0 < d) (bs : List Bool) (n j : Nat) :
    (((bs.zipIdx n).map fun (b : Bool × Nat) => if b.1 then 2 ^ (b.2 * d) else 0).sum).testBit j
      = (decide (j % d = 0 ∧ n ≤ j / d) && bs.getD (j / d - n) false)
    ∧ ∃ q, ((bs.zipIdx n).map fun (b : Bool × Nat) => if b.1 then 2 ^ (b.2 * d) else 0).sum = 2 ^ (n * d) * q := by
  induction bs generalizing n with
  | nil => simp
  | cons b bs ih =>
    obtain ⟨hb, q, hq⟩ := ih (n + 1)
    have hsplit : 2 ^ ((n + 1) * d) = 2 ^ (n * d) * 2 ^ d := by rw [← pow_add]; ring_nf
    constructor
    · rw [List.zipIdx_cons, List.map_cons, List.sum_cons]
      have hlow : (if b then 2 ^ (n * d) else 0) < 2 ^ ((n + 1) * d) := by
        have : 2 ^ (n * d) < 2 ^ ((n + 1) * d) := Nat.pow_lt_pow_right (by omega) (by nlinarith)
        cases b <;> simp_all
      have hor : (if b then 2 ^ (n * d) else 0) + 2 ^ ((n + 1) * d) * q = 2 ^ ((n + 1) * d) * q ||| (if b then 2 ^ (n * d) else 0) := by
        rw [Nat.add_comm]; exact Nat.two_pow_add_eq_or_of_lt hlow q
      rw [hq] at hb ⊢
      dsimp only
      rw [hor, Nat.testBit_or, hb]
      have hbit : (if b then 2 ^ (n * d) else 0).testBit j = (b && decide (j = n * d)) := by
        cases b <;> simp [Nat.testBit_two_pow, eq_comm]
      rw [hbit]
      have key : j = n * d ↔ j % d = 0 ∧ j / d = n := by
        constructor
        · rintro rfl; simp [hd.ne']
        · rintro ⟨h1, h2⟩
          have := Nat.div_add_mod j d
          rw [h1, h2] at this; nlinarith
      by_cases h0 : j % d = 0
      · rcases Nat.lt_trichotomy (j / d) n with h | h | h
        · have h1 : ¬ j = n * d := by rw [key]; omega
          have h2 : ¬ n + 1 ≤ j / d := by omega
          have h3 : ¬ n ≤ j / d := by omega
          simp [h0, h1, h2, h3]
        · have h1 : j = n * d := by rw [key]; exact ⟨h0, h⟩
          have h2 : ¬ n + 1 ≤ j / d := by omega
          have h3 : n ≤ j / d := by omega
          have h4 : j / d - n = 0 := by omega
          simp only [h0, h2, h3, h4]
          simp [h1]
        · have h1 : ¬ j = n * d := by rw [key]; omega
          have h2 : n + 1 ≤ j / d := by omega
          have h3 : n ≤ j / d := by omega
          obtain ⟨m, hm⟩ : ∃ m, j / d - n = m + 1 := ⟨j / d - n - 1, by omega⟩
          have h4 : j / d - (n + 1) = m := by omega
          simp [h0, h1, h2, h3, hm, h4]
      · have h1 : ¬ j = n * d := by rw [key]; omega
        simp [h0, h1]
    · refine ⟨(if b then 1 else 0) + 2 ^ d * q, ?_⟩
      rw [List.zipIdx_cons, List.map_cons, List.sum_cons, hq, hsplit]
      cases b <;> simp <;> ring

theorem zipIdx_range (n : Nat) (f : Nat → Nat → Nat) (g : Nat → Bool) :
    (((List.range n).map g).zipIdx.map fun (b : Bool × Nat) => if b.1 then 2 ^ (b.2 * 1) else 0)
      = (List.range n).map fun k => if g k then 2 ^ k else 0 := by
  apply List.ext_getElem
  · simp
  · intro i h1 h2
    simp

/-- The sum of the powers of two whose condition holds. -/
theorem testBit_range (n : Nat) (g : Nat → Bool) (j : Nat) :
    (((List.range n).map fun k => if g k then 2 ^ k else 0).sum).testBit j = (decide (j < n) && g j) := by
  rw [← zipIdx_range n (fun _ _ => 0) g, (testBit_powers 1 (by omega) _ 0 j).1]
  by_cases h : j < n <;> simp [h, Nat.mod_one]

/-! ## Poison of chunks (R193) -/

theorem getLsbD_chunksOf (w : Nat) (ps : List Bool) (c : Nat) (hc : c < 16) :
    (chunksOf w ps).getLsbD c = ((ps.drop (c * (64 / w))).take (64 / w)).any id := by
  rw [chunksOf, BitVec.getLsbD_ofNat, testBit_range]
  simp [hc]

/-- Widths of lanes. -/
def IsLaneWidth (w : Nat) : Prop := w = 0 ∨ w = 8 ∨ w = 16 ∨ w = 32 ∨ w = 64

theorem laneW_width (f : VX) : IsLaneWidth (laneW f) := by
  unfold laneW etBits IsLaneWidth
  split <;> simp

theorem chunksOf_lanes {w : Nat} (hw : IsLaneWidth w) (g : Nat → Bool) (c : Nat) (hc : c < 16) :
    (chunksOf w ((List.range (1024 / w)).map g)).getLsbD c
      = (List.range (1024 / w)).any fun i => decide (w * i / 64 = c) && g i := by
  rw [getLsbD_chunksOf _ _ _ hc, Bool.eq_iff_iff]
  simp only [List.any_eq_true, Bool.and_eq_true, decide_eq_true_eq, List.mem_range]
  constructor
  · rintro ⟨b, hb, ht⟩
    obtain ⟨i, hi, rfl⟩ := List.getElem_of_mem hb
    simp only [List.length_take, List.length_drop, List.length_map, List.length_range] at hi
    simp only [List.getElem_take, List.getElem_drop, List.getElem_map, List.getElem_range, id_eq] at ht
    refine ⟨c * (64 / w) + i, ?_, ?_, ht⟩
    · omega
    · rcases hw with rfl | rfl | rfl | rfl | rfl <;> simp at hi ⊢ <;> omega
  · rintro ⟨i, hi, hic, hg⟩
    refine ⟨true, ?_, rfl⟩
    rw [← hg]
    have h1 : c * (64 / w) ≤ i ∧ i < c * (64 / w) + 64 / w := by
      rcases hw with rfl | rfl | rfl | rfl | rfl <;> simp at hi hic ⊢ <;> omega
    have h2 : i - c * (64 / w) < (((List.range (1024 / w)).map g).drop (c * (64 / w)) |>.take (64 / w)).length := by
      simp; omega
    have h3 := List.getElem_mem h2
    simp only [List.getElem_take, List.getElem_drop, List.getElem_map, List.getElem_range] at h3
    rwa [show c * (64 / w) + (i - c * (64 / w)) = i by omega] at h3

/-! ## Vector and predicate registers (R118) -/

theorem Thread.vr_setV (t : Thread) (d : Reg) (v : VReg) (p : BitVec 16) (r : Reg) :
    (t.setV d v p).vr r = if r = d then v else t.vr r := by
  unfold Thread.setV Thread.vr
  dsimp only
  rw [AMap.get_set]
  by_cases h : r = d
  · simp [h]
  · have : r.toNat ≠ d.toNat := fun e => h (BitVec.eq_of_toNat_eq e)
    simp [h, this]

theorem Thread.vpr_setV (t : Thread) (d : Reg) (v : VReg) (p : BitVec 16) (r : Reg) (c : Nat) (hc : c < 16) :
    (t.setV d v p).vpr r c = if r = d then p.getLsbD c else t.vpr r c := by
  have hr := r.isLt
  have hd := d.isLt
  have h16 : (65535#16).getLsbD = fun i => decide (i < 16) := by
    funext i
    rw [show (65535#16) = BitVec.allOnes 16 from rfl, BitVec.getLsbD_allOnes]
  unfold Thread.setV Thread.vpr
  dsimp only
  simp only [BitVec.getLsbD_or, BitVec.getLsbD_and, BitVec.getLsbD_not, BitVec.getLsbD_shiftLeft, BitVec.getLsbD_setWidth]
  have hb : 16 * r.toNat + c < 512 := by omega
  by_cases h : r = d
  · subst h
    have h1 : ¬ 16 * r.toNat + c < 16 * r.toNat := by omega
    have h2 : 16 * r.toNat + c - 16 * r.toNat = c := by omega
    have h3 : c < 512 := by omega
    rw [h2]
    simp [hb, h1, h3, h16, hc]
  · have hne : r.toNat ≠ d.toNat := fun e => h (BitVec.eq_of_toNat_eq e)
    by_cases h1 : 16 * r.toNat + c < 16 * d.toNat
    · simp [hb, h, h1]
    · have h2 : ¬ 16 * r.toNat + c - 16 * d.toNat < 16 := by omega
      have h3 : p.getLsbD (16 * r.toNat + c - 16 * d.toNat) = false := BitVec.getLsbD_of_ge _ _ (by omega)
      simp [hb, h, h1, h2, h3, h16]

theorem Thread.pr_setP (t : Thread) (d : Nat) (v : PReg) (r : Nat) :
    (t.setP d v).pr r = if r = d ∧ r ≠ 0 then v else t.pr r := by
  unfold Thread.setP Thread.pr
  by_cases hd : d = 0
  · subst hd
    by_cases hr : r = 0 <;> simp [hr]
  · by_cases hr : r = 0
    · simp [hd, hr]
    · by_cases h : r = d <;> simp [h, hd, hr, AMap.get_set]

/-! ## What a vector result leaves -/

/-- Writing lanes, then merging flags: the register takes them, everything else stays. -/
theorem writesV_putLanes (s : State) (d : Reg) {w : Nat} (hw : IsLaneWidth w) (new : Nat → Nat × Bool) (fl : Nat) (len : Nat) :
    WritesV s (s.setThr (((s.thr.putLanes d w ((List.range (1024 / w)).map new)).orFlags fl).after len)) d w new
      (BitVec.ofNat 64 fl &&& 0x1F0) len where
  only := by simp [OnlyThread]
  thread := by rw [State.thr_setThr]; rfl
  lane i hi := by
    have h1 : (BitVec.ofNat 1024 (ofLanes w (((List.range (1024 / w)).map new).map Prod.fst))).toNat
        = ofLanes w (((List.range (1024 / w)).map new).map Prod.fst) := by
      rw [BitVec.toNat_ofNat]
      apply Nat.mod_eq_of_lt
      refine lt_of_lt_of_le (ofLanes_lt _ _) (Nat.pow_le_pow_right (by omega) ?_)
      simpa using Nat.mul_div_le 1024 w
    have h2 : ((s.thr.putLanes d w ((List.range (1024 / w)).map new)).vr d)
        = BitVec.ofNat 1024 (ofLanes w (((List.range (1024 / w)).map new).map Prod.fst)) := by
      rw [Thread.putLanes, Thread.vr_setV]; simp
    rw [State.thr_setThr]
    change laneOf ((s.thr.putLanes d w ((List.range (1024 / w)).map new)).vr d).toNat w i = _
    rw [h2, h1, laneOf_ofLanes]
    simp [hi]
  poison c hc := by
    rw [State.thr_setThr]
    change (s.thr.putLanes d w ((List.range (1024 / w)).map new)).vpr d c = _
    rw [Thread.putLanes, Thread.vpr_setV _ _ _ _ _ _ hc, if_pos rfl, List.map_map, chunksOf_lanes hw _ _ hc]
    rfl
  others r hr := by
    rw [State.thr_setThr]
    constructor
    · change (s.thr.putLanes d w ((List.range (1024 / w)).map new)).vr r = _
      rw [Thread.putLanes, Thread.vr_setV, if_neg hr]
    · intro c hc
      change (s.thr.putLanes d w ((List.range (1024 / w)).map new)).vpr r c = _
      rw [Thread.putLanes, Thread.vpr_setV _ _ _ _ _ _ hc, if_neg hr]

theorem Thread.active_eq (t : Thread) (f : VX) : t.active f = (List.range (1024 / laneW f)).map (t.on f) := rfl

theorem Thread.lanes_eq (t : Thread) (r : Reg) (w : Nat) : t.lanes r w = (List.range (1024 / w)).map (t.lane r w) := rfl

theorem zipWith_range {α β γ : Type} (n : Nat) (h : α → β → γ) (a : Nat → α) (b : Nat → β) :
    List.zipWith h ((List.range n).map a) ((List.range n).map b) = (List.range n).map fun i => h (a i) (b i) := by
  apply List.ext_getElem <;> simp

theorem zip_range {α β : Type} (n : Nat) (a : Nat → α) (b : Nat → β) :
    ((List.range n).map a).zip ((List.range n).map b) = (List.range n).map fun i => (a i, b i) := by
  apply List.ext_getElem <;> simp

/-- Lane results under a predicate: active lanes take their result, the others are zeroed or stay (R193). -/
theorem governed_range (t : Thread) (f : VX) (r : Nat → Nat × Bool × Nat) :
    governed f (t.active f) ((List.range (1024 / laneW f)).map fun i => ((r i).1, (r i).2.1)) (t.lanes f.vd (laneW f))
      = (List.range (1024 / laneW f)).map (t.governedLane f r) := by
  rw [governed, Thread.active_eq, Thread.lanes_eq, zip_range, zipWith_range]
  rfl

/-- A vector result gives its lanes. -/
theorem issue_vecResult {s : State} (h : s.Ready) (c : Class) (len : Nat) (g : State → State × Res) (f : VX)
    (r : Nat → Nat × Bool × Nat) (hg : g s = vecResult f ((List.range (1024 / laneW f)).map r) s) :
    ∃ t, issue c len s g = .next t ∧ WritesV s t f.vd (laneW f) (s.thr.governedLane f r) (s.thr.laneFlags f r) len := by
  have hl : ((List.range (1024 / laneW f)).map r).map (fun r => (r.1, r.2.1))
      = (List.range (1024 / laneW f)).map fun i => ((r i).1, (r i).2.1) := by simp
  have hf : g s = (s.setThr ((s.thr.putLanes f.vd (laneW f) ((List.range (1024 / laneW f)).map (s.thr.governedLane f r))).orFlags
      (orAll ((List.range (1024 / laneW f)).map fun i => if s.thr.on f i then (r i).2.2 else 0))), .done) := by
    rw [hg, vecResult, hl, governed_range]
    have hz := zipWith_range (1024 / laneW f) (fun a (x : Nat × Bool × Nat) => if a then x.2.2 else 0) (s.thr.on f) r
    rw [← Thread.active_eq] at hz
    rw [hz]
  exact ⟨_, issue_setThr h c len g _ hf, writesV_putLanes s f.vd (laneW_width f) _ _ len⟩

/-- A predicate result gives its lane bits; the flags were merged before. -/
theorem issue_predResult {s : State} (h : s.Ready) (c : Class) (len : Nat) (g : State → State × Res) (f : VX)
    (b : Nat → Bool) (fl : Nat) (hg : g s = predResult f ((List.range (1024 / laneW f)).map b) (s.orFlags fl)) :
    ∃ t, issue c len s g = .next t ∧ WritesP s t f.vd.toNat (laneW f)
      (fun i => if s.thr.on f i then b i else !f.zm && (s.thr.pr f.vd.toNat).getLsbD (i * (laneW f / 8)))
      (BitVec.ofNat 64 fl &&& 0x1F0) len := by
  set w := laneW f with hw
  set new := fun i => if s.thr.on f i then b i else !f.zm && (s.thr.pr f.vd.toNat).getLsbD (i * (w / 8)) with hnew
  set t := (s.thr.orFlags fl).setP f.vd.toNat (predOf w ((List.range (1024 / w)).map new)) with ht
  have hf : g s = (s.setThr t, .done) := by
    rw [hg]
    unfold predResult State.orFlags
    simp only [State.thr_setThr, State.setThr_setThr]
    have h1 : (s.thr.orFlags fl).putPred f.vd.toNat (laneW f) f.zm ((s.thr.orFlags fl).active f)
        ((List.range (1024 / laneW f)).map b) = t := by
      unfold Thread.putPred
      dsimp only
      have ha : (s.thr.orFlags fl).active f = (List.range (1024 / laneW f)).map (s.thr.on f) := rfl
      have hv : Config.vlen = 1024 := rfl
      rw [ha, hv, zip_range, zipWith_range]
      rfl
    rw [h1]
  refine ⟨_, issue_setThr h c len g t hf, ?_⟩
  refine ⟨by simp [OnlyThread], ?_, ?_⟩
  · rw [State.thr_setThr, ht]
    unfold Thread.setP
    split <;> rfl
  · intro r j hj
    rw [State.thr_setThr]
    change (t.pr r).getLsbD j = _
    rw [ht, Thread.pr_setP]
    by_cases hr : r = f.vd.toNat ∧ r ≠ 0
    · rw [if_pos hr, if_pos hr, predOf, BitVec.getLsbD_ofNat]
      have hd : w / 8 = 0 ∨ 0 < w / 8 := Nat.eq_zero_or_pos _
      rcases hd with hd | hd
      · have : 1024 / w = 0 := by
          have := laneW_width f
          rw [← hw] at this
          rcases this with h | h | h | h | h <;> rw [h] at hd ⊢ <;> simp at hd
        simp [this]
      · rw [(testBit_powers (w / 8) hd _ 0 j).1]
        by_cases h2 : j / (w / 8) < 1024 / w
        · simp [hj, h2]
        · simp [hj, h2]
    · rw [if_neg hr, if_neg hr]; rfl

end Sys2Proof.Machine
end

