-- ==== Sys2Proof/Tests/Slice0.lean ====
section
/-! SUPPORT. Tests: ill-formed terms that well-formedness refuses, words of the spec that the decoder reads, single steps with results worked
out from the spec's tables, and for each statement states and operands that meet its hypotheses, clause by clause. -/

namespace Sys2Proof.Tests

open Sys2Proof.Machine

set_option Elab.async false

/-! ## Well-formedness refuses the reserved values -/

/-- Fields with the element type e. -/
def vx (e : BitVec 4) : VX := { (default : VX) with et := e }

/-- R180: fence kinds end at 5. -/
theorem test_wf_fence : (Instr.fence 5).wf = true ∧ (Instr.fence 6).wf = false := by decide
/-- R166: source types of fcvt end at 5, rounding modes at 4. -/
theorem test_wf_fp : (Instr.fcvt 3 1 2 5).wf = true ∧ (Instr.fcvt 3 1 2 6).wf = false ∧ (Instr.fcvti 3 1 2 5 false).wf = false
    ∧ (Instr.fcvtu 3 1 2 7 false).wf = false ∧ (Instr.icvtf 3 1 2 5 true).wf = false ∧ (Instr.ucvtf 3 1 2 6 true).wf = false
    ∧ (Instr.fma 2 4 1 2 3 4).wf = true ∧ (Instr.fma 2 5 1 2 3 4).wf = false ∧ (Instr.fms 2 5 1 2 3 4).wf = false
    ∧ (Instr.fnma 2 5 1 2 3 4).wf = false ∧ (Instr.fnms 2 5 1 2 3 4).wf = false := by decide
/-- R141: a rendezvous has 1 to 16 threads. -/
theorem test_wf_rdv : (Instr.rdv 1 2 0 1).wf = true ∧ (Instr.rdv 1 2 0 0).wf = false ∧ (Instr.rdvadd 1 2 0 17).wf = false
    ∧ (Instr.rdvmax 1 2 0 31).wf = false ∧ (Instr.rdvor 1 2 0 0).wf = false := by decide
/-- R328, R330, R333: levels are 1 to 4, vote operations 0 to 4. -/
theorem test_wf_sync : (Instr.sync 1).wf = true ∧ (Instr.sync 0).wf = false ∧ (Instr.sarrive 5).wf = false ∧ (Instr.swait 0).wf = false
    ∧ (Instr.syncv 1 2 4 4).wf = true ∧ (Instr.syncv 1 2 4 5).wf = false ∧ (Instr.syncv 1 2 5 0).wf = false
    ∧ (Instr.xsend 1 2 3 0).wf = false ∧ (Instr.xopen 1 7).wf = false := by decide
/-- R447: lstat selects 0 to 2. -/
theorem test_wf_lstat : (Instr.lstat 1 2 2).wf = true ∧ (Instr.lstat 1 2 3).wf = false := by decide
/-- R312, R317 to R319: the reserved shapes of operations of the optical matrix unit are faults of their execution, not of their encoding. -/
theorem test_wf_mxp : (Instr.mxp 1 2 3 ⟨0, 8, 2, 3, false, true, 1, 0, true, 127⟩).wf = true := by decide
/-- R56: an integer function takes no floating-point type, a floating-point one no integer and no packed type, packing its block type. -/
theorem test_wf_types : (Instr.vadd (vx 7)).wf = true ∧ (Instr.vadd (vx 8)).wf = false ∧ (Instr.vfadd (vx 11)).wf = true
    ∧ (Instr.vfadd (vx 12)).wf = false ∧ (Instr.vfadd (vx 2)).wf = false ∧ (Instr.vdot4 (vx 2)).wf = true ∧ (Instr.vdot4 (vx 3)).wf = false
    ∧ (Instr.vand (vx 13)).wf = true ∧ (Instr.vand (vx 14)).wf = false ∧ (Instr.vrcp (vx 11)).wf = false ∧ (Instr.vabs (vx 4)).wf = false
    ∧ (Instr.vpackdx { vx 14 with imm := 1 }).wf = true ∧ (Instr.vpackdx { vx 15 with imm := 1 }).wf = false
    ∧ (Instr.vamoadd (vx 1)).wf = false := by decide
/-- R57, R58, R196: fields that a function does not use are 0. -/
theorem test_wf_unused : (Instr.vabs { vx 2 with va := 1 }).wf = false ∧ (Instr.vadd { vx 2 with vc := 1 }).wf = false
    ∧ (Instr.vmulh { vx 2 with sat := true }).wf = false ∧ (Instr.vadd { vx 2 with rm := 1 }).wf = false
    ∧ (Instr.vadd { vx 2 with imm := 1 }).wf = false ∧ (Instr.vperm { vx 2 with xs := true }).wf = false
    ∧ (Instr.viota { vx 2 with vb := 1 }).wf = false ∧ (Instr.vfadd { vx 10 with rm := 5 }).wf = false := by decide
/-- R51, R58: a predicate field names p0 to p7. -/
theorem test_wf_pred : (Instr.vcmpeq { vx 2 with vd := 7 }).wf = true ∧ (Instr.vcmpeq { vx 2 with vd := 8 }).wf = false
    ∧ (Instr.pand { vx 2 with va := 8 }).wf = false ∧ (Instr.vldff { vx 2 with vc := 8 }).wf = false := by decide
/-- R196, R203, R212: ZM is 0 where no lane could be zeroed, PG too where no predicate governs. -/
theorem test_wf_gov : (Instr.vst { vx 2 with zm := true }).wf = false ∧ (Instr.vredadd { vx 2 with zm := true }).wf = false
    ∧ (Instr.plen { vx 2 with pg := 1 }).wf = false ∧ (Instr.plen { vx 2 with zm := true }).wf = false := by decide
/-- R198, R202, R204, R205: what IMM9 may be. -/
theorem test_wf_imm : (Instr.vfmin { vx 10 with imm := 1 }).wf = true ∧ (Instr.vfmin { vx 10 with imm := 2 }).wf = false
    ∧ (Instr.vbcast { vx 2 with xs := true, imm := 1 }).wf = false ∧ (Instr.vbcast { vx 2 with vb := 1 }).wf = false
    ∧ (Instr.vcvt { vx 10 with imm := 2 }).wf = true ∧ (Instr.vcvt { vx 10 with imm := 3 }).wf = false
    ∧ (Instr.vnarrow { vx 0 with imm := 0x32 }).wf = true ∧ (Instr.vnarrow { vx 1 with imm := 0x22 }).wf = false
    ∧ (Instr.vwiden { vx 3 with imm := 0x12 }).wf = true ∧ (Instr.vwiden { vx 3 with imm := 0x22 }).wf = false
    ∧ (Instr.vpackdx { vx 14 with imm := 8 }).wf = false ∧ (Instr.vpackdx { vx 14 with imm := 0 }).wf = false := by decide
/-- R55: a literal form has XS and VB 0 and no packed type. -/
theorem test_wf_lit : (Instr.vaddLit (vx 2) 7).wf = true ∧ (Instr.vaddLit { vx 2 with xs := true } 7).wf = false
    ∧ (Instr.vaddLit { vx 2 with vb := 1 } 7).wf = false := by decide

/-! ## Words that the spec's chapters work out -/

/-- The words decode to the instruction, with its length. -/
def reads (w0 w1 w2 : Nat) (i : Instr) (n : Nat) : Prop := decodeWords 0 w0 w1 w2 = .ok i n

/-- 05_scalar: integer instructions and branches. -/
theorem test_decode_scalar : reads 0x001CC538 0 0 (.mul 5 6 7) 4 ∧ reads 0x02906338 0 0 (.div 3 3 4) 4 ∧ reads 0x010CC518 0 0 (.shri 5 6 3) 4
    ∧ reads 0xC54D 0x608 0 (.bfxi 5 6 8 12) 8 ∧ reads 0x00800561 0x9ABCDEF0 0 (.liz 5 0x9ABCDEF0) 8
    ∧ reads 0x0100A561 0x12345678 0 (.lihi 5 5 0x12345678) 8 := by unfold reads; decide
/-- 05_scalar: control flow. -/
theorem test_decode_control : reads 0x0098E528 0 0 (.bbs 5 7 4) 4 ∧ reads 0x0040A130 0 0 (.jalr 5 16) 4 ∧ reads 0x30 0 0 (.jr 0 0) 4
    ∧ reads 0x0018A034 0 0 (.jtab 5 6) 4 ∧ reads 0x00050100 0 0 (.fence 5) 4 ∧ reads 0x00070200 0 0 (.trap 7) 4
    ∧ reads 0xFF00 0 0 (.ill 0) 4 := by unfold reads; decide
/-- 05_scalar: floating point and special registers. -/
theorem test_decode_fp : reads 0x601CC540 0 0 (.fadd 3 5 6 7) 4 ∧ reads 0x001CC545 0x448 0 (.fma 2 1 5 6 7 8) 8
    ∧ reads 0x548 0 0 (.csrr 5 0) 4 ∧ reads 0x00400548 0 0 (.csrr 5 0x010) 4 ∧ reads 0x06801748 0 0 (.csrr 23 0x1A0) 4 := by
  unfold reads; decide
/-- 06_vector: one word of each major. -/
theorem test_decode_vector :
    reads 0x1008238D 2 0 (.vcmplt { vx 2 with vd := 3, va := 1, vb := 2 }) 8
    ∧ reads 0xA191 2 0 (.plen { vx 2 with vd := 1, va := 5 }) 8
    ∧ reads 0x8799 6 0 (.vredadd { vx 6 with vd := 7, va := 4 }) 8
    ∧ reads 0x1820029D 0x0001000E 0 (.vpackdx { vx 14 with vd := 2, vb := 8, imm := 4 }) 8
    ∧ reads 0x280C03A1 0xA 0 (.vsigm { vx 10 with vd := 3, vb := 3 }) 8
    ∧ reads 0x48000191 0x00020006 0 (.pset { vx 6 with vd := 1, imm := 8 }) 8
    ∧ reads 0x4C800A95 6 0 (.viota { vx 6 with vd := 10, pg := 1, zm := true }) 8 := by unfold reads; decide
/-- 06_vector: vector memory. -/
theorem test_decode_vmem :
    reads 0x0480A1A5 0x0010000A 0 (.vld { vx 10 with vd := 1, va := 5, pg := 1, zm := true, imm := 64 }) 8
    ∧ reads 0x0080C2A9 0x0060000A 0 (.vst { vx 10 with vd := 2, va := 6, pg := 1, imm := -128 }) 8
    ∧ reads 0x2480A1A5 0x3A 0 (.vldff { vx 10 with vd := 1, va := 5, vc := 3, pg := 1, zm := true }) 8
    ∧ reads 0x0898A4AD 7 0 (.vamoor { vx 7 with vd := 4, va := 5, vb := 6, pg := 1 }) 8 := by unfold reads; decide
/-- 07_memory: loads, stores, atomics, objects. -/
theorem test_decode_memory : reads 0x020CC520 0 0 (.ldd 5 6 16) 4 ∧ reads 0xFF982420 0 0 (.ldwz 4 1 (-4)) 4
    ∧ reads 0x000C2B24 0 0 (.std 11 1 0) 4 ∧ reads 0xFFE0C524 0 0 (.stb 5 6 (-1)) 4 ∧ reads 0x0198A350 0 0 (.amoadd true 3 5 6) 4
    ∧ reads 0xA054 0 0 (.acq 5 false) 4 ∧ reads 0x0080A054 0 0 (.rel 5) 4 ∧ reads 0x0100A454 0 0 (.tryacq 4 5 false) 4
    ∧ reads 0x019CC554 0 0 (.bind 5 6 7) 4 ∧ reads 0x03000054 0 0 .wbf 4 ∧ reads 0x0380C554 0 0 (.ldro 5 6) 4 := by unfold reads; decide
/-- 07_memory: copies and the scratchpad. -/
theorem test_decode_copy : reads 0x001CC5BD 8 0 (.cpy 5 6 7 8 false) 8 ∧ reads 0x001CC5BD 0x408 0 (.cpy 5 6 7 8 true) 8
    ∧ reads 0x001CC5C0 0 0 (.splook 5 6 7) 4 := by unfold reads; decide
/-- 09_pass, 19_programs_optical: tiles, passes, banks, decompositions. -/
theorem test_decode_pass : reads 0xA3B1 2 0 (.tld 3 5 2) 8 ∧ reads 0x018005B1 0x64 0 (.tacc 5 4 6) 8
    ∧ reads 0x0100A7B5 3 0 (.mxprobe 7 5 3 0) 8 ∧ reads 0x0018A7B9 0x300 0 (.phld 7 5 6 3 0) 8
    ∧ reads 0x0080A7B9 0x300 0 (.phtrim 7 5 3 0) 8 ∧ reads 0x0218A7B9 0x00140000 0 (.dcmp 7 5 6 2 true) 8
    ∧ reads 0x01E71CBD 0x800 0 (.cpytile 28 24 25 0 0 1 false) 8 := by unfold reads; decide
/-- 10_group, 18_programs_threads: threads, rendezvous, barriers. -/
theorem test_decode_group : reads 0x00031B5D 0x300 0 (.rdvadd 27 24 0 16) 8 ∧ reads 0x0181CEC5 1 0 (.syncv 14 14 1 0) 8
    ∧ reads 0x018063C5 0x19 0 (.syncv 3 3 1 3) 8 ∧ reads 0x0202E158 0 0 (.waittl 1 23) 4 := by unfold reads; decide
/-- 11_kernel, 13_page, 14_link, 17_debug: the system's words. -/
theorem test_decode_system : reads 0x0080A3CD 0 0 (.kquery 3 5) 8 ∧ reads 0x0118A0CD 0 0 (.ksignal 5 6) 8
    ∧ reads 0x0080C5D0 0 0 (.lrenew 5 6) 4 ∧ reads 0x0100A3D0 0 0 (.pgcnt 3 5) 4 ∧ reads 0xA7D5 0 0 (.ldrain 7 5) 8
    ∧ reads 0x0118A7D5 0 0 (.irsend 7 5 6) 8 ∧ reads 0x0198A7D5 0 0 (.irrecv 7 5 6) 8 ∧ reads 0xA0D8 0 0 (.pmark 5) 4 := by
  unfold reads; decide

/-! ## Small states -/

/-- A task that runs on core 0 as rank 0 of kernel 1 with the given threads, its thread in a slot current. -/
def with_ (k : Task) (ts : AMap Thread) (slot : Nat) : State :=
  { State.reset with
    tasks := [(4096, { k with place := .running 0 false, kid := 1, threads := ts })]
    cores := [(0, { Core.reset with run := some 4096, ptask := some 4096 })], cur := (4096, slot) }
/-- Its control thread alone, READY. -/
def one (k : Task) (t : Thread) : State := with_ k [(0, { t with st := .ready })] 0
/-- A thread with x registers, those of the list poisoned. -/
def regs (x : AMap Word) (p : List Nat) : Thread :=
  { Thread.empty with x := x, xp := p.foldl (fun w i => setBit w i true) 0, pc := 0x1000 }
/-- A state whose thread has these registers. -/
def st (x : AMap Word) (p : List Nat) : State := one Task.blank (regs x p)
/-- The same in slot 1, a helper. -/
def helper (x : AMap Word) (p : List Nat) : State := with_ Task.blank [(1, { regs x p with st := .ready })] 1

/-- Whether the current thread may issue any instruction. -/
def ok (s : State) : Bool :=
  s.thr.canRun && decide (s.thr.packet = none) && decide (s.thr.shadow = none) && !(s.core s.tk.core).dbgStop
/-- That is what the statements ask. -/
theorem ready_of_ok (s : State) (h : ok s = true) : s.Ready := by
  simp only [ok, Bool.and_eq_true, decide_eq_true_eq, Bool.not_eq_true'] at h
  exact ⟨h.1.1.1, h.1.1.2, h.1.2, h.2⟩
/-- A state in which the current thread may issue, and that meets a further hypothesis. -/
abbrev Meets (s : State) (p : Prop) : Prop := ok s = true ∧ p
/-- The next state of an instruction, s where there is none. -/
noncomputable def after (i : Instr) (s : State) : State := match exec i s with | .next t => t | _ => s
/-- Whether an access gave bytes. -/
def gave (g : Got) : Option (List PByte) := match g with | .bytes bs => some bs | _ => none

/-- At reset, with a task placed by hand, its thread may issue. -/
theorem witness_ready : (st [] []).Ready ∧ (helper [] []).Ready := ⟨ready_of_ok _ rfl, ready_of_ok _ rfl⟩

/-! ## Single steps with results from the spec's tables -/

/-- R151: 2^64 wraps; R82: the table's corners. -/
theorem test_add_wraps : (after (.add 5 6 7) (st [(6, 7), (7, -2)] [])).x 5 = 5 := by decide +kernel
theorem test_sra : (after (.sra 5 6 7) (st [(6, 0x8000000000000000), (7, 65)] [])).x 5 = 0xC000000000000000 := by decide +kernel
theorem test_mulh : (after (.mulh 5 6 7) (st [(6, -1), (7, 2)] [])).x 5 = BitVec.allOnes 64 := by decide +kernel
theorem test_div : (after (.div 5 6 7) (st [(6, 0x8000000000000000), (7, -1)] [])).x 5 = 0x8000000000000000
    ∧ (after (.div 5 6 7) (st [(6, 9)] [])).x 5 = BitVec.allOnes 64 := by decide +kernel
theorem test_rem : (after (.rem 5 6 7) (st [(6, -7), (7, 2)] [])).x 5 = -1 ∧ (after (.rem 5 6 7) (st [(6, 9)] [])).x 5 = 9 := by
  decide +kernel
/-- R118: x0 takes no value, and a source's poison goes with the result. -/
theorem test_x0 : (after (.add 0 6 7) (st [(6, 7)] [])).x 0 = 0 ∧ (after (.add 5 6 7) (st [] [6])).xp 5 = true := by decide +kernel
/-- R158: an insertion truncated at bit 63. -/
theorem test_bfi : (after (.bfii 5 6 60 8) (st [(5, 1), (6, 0xFF)] [])).x 5 = 0xF000000000000001 := by decide +kernel
/-- R161: 1 + 2 in binary32 is 3, and 1/0 sets DZ (bit 5 of TFLAGS, R89). -/
theorem test_fadd : (after (.fadd 2 5 6 7) (st [(6, 0x3F800000), (7, 0x40000000)] [])).x 5 = 0x40400000 := by decide +kernel
theorem test_fdiv : (after (.fdiv 2 5 6 7) (st [(6, 0x3F800000)] [])).x 5 = 0x7F800000 := by decide +kernel
/-- R173: bne falls through on equal registers and jumps on others. -/
theorem test_bne : (after (.bne 5 6 (-3)) (st [(5, 1)] [])).thr.pc = 0xFF4 ∧ (after (.bne 5 6 (-3)) (st [] [])).thr.pc = 0x1004 := by
  decide +kernel
/-- R181, R376: trap 7 stops its thread with 0x07 and INFO1 7, at its own pc. -/
theorem test_trap : ((after (.trap 7) (st [] [])).thr.frec.map fun r => (r.code, r.info1, r.pc)) = some (0x07, 7, 0x1000) := by
  decide +kernel
/-- R118, R223: core memory is read and written at once. -/
theorem test_std_ldd :
    (after (.ldd 7 5 8) (after (.std 6 5 8) (st [(5, 0xFFFFFFFFFFF80000), (6, 0x1122334455667788)] []))).x 7 = 0x1122334455667788 := by
  decide +kernel
/-- R227: the old value goes to xd, the new one to memory. -/
theorem test_amoadd : (after (.ldd 8 5 0) (after (.amoadd true 7 5 6) (st [(5, 0xFFFFFFFFFFF80000), (6, 5)] []))).x 8 = 5 := by
  decide +kernel
/-- R142: the second of two arrivals gets the sum. -/
theorem test_rdvadd : (after (.rdvadd 5 6 0 1) (st [(6, 9)] [])).x 5 = 9 := by decide +kernel
/-- A step at reset with an instruction placed runs it. -/
theorem test_step_runs :
    (match step (State.reset.withFetchWord 32 0x001CC504) with | .next t => (t.thread fetchTid 0).pc | _ => 0) = 0xFF80000000400004 := by
  decide +kernel
/-! ## Witnesses: scalar instructions -/

/-- Words of reserved FN9 values: the first and the last of each range. -/
theorem witness_MulDivGivesResult : ok (st [] []) = true
    ∧ ((0x38 + 11 * 2 ^ 23) % 4 = 0 ∧ (0x38 + 11 * 2 ^ 23) / 4 % 64 = 14 ∧ 11 ≤ (0x38 + 11 * 2 ^ 23) / 8388608 % 512)
    ∧ (0x38 + 511 * 2 ^ 23) / 8388608 % 512 = 511 ∧ 28 % 32 ≤ 28 := by decide +kernel
theorem witness_ScalarIntegerGivesResult : ok (st [] []) = true
    ∧ (4 + 26 * 2 ^ 23) % 4 = 0 ∧ (4 + 26 * 2 ^ 23) / 4 % 64 = 1 ∧ 26 ≤ (4 + 26 * 2 ^ 23) / 8388608 % 512 := by decide +kernel
/-- Fields at the ends of their ranges: of no bit, of the last bit, beyond bit 63. -/
theorem witness_BitInstructionsGiveResult : Meets (st [(7, 0x0000)] []) (((st [(7, 0x0000)] []).x 7).extractLsb' 8 8 = 0)
    ∧ Meets (st [(7, 0x013F)] []) (((st [(7, 0x013F)] []).x 7).setWidth 8 = (63 : BitVec 8))
    ∧ Meets (st [(7, 0xFFFF)] []) (((st [(7, 0xFFFF)] []).x 7).setWidth 8 = (255 : BitVec 8)) := by decide +kernel
/-- 1.0 and a signalling NaN of binary32 as operands. -/
theorem witness_FloatArithmeticGivesResult : Meets (st [(6, 0x3F800000), (7, 0x7F800001)] []) ((ffOf 10).value 0x7F800001 ≠ (ffOf 10).value 0)
    := by decide +kernel
theorem witness_FloatCompareConvertGivesResult : ok (st [(6, 0x3F800000)] [6]) = true := by decide +kernel
/-- A value that every format holds; a NaN with one that is none. -/
theorem witness_RoundingKeepsValuesAndNaNs : (∀ e ∈ [8, 9, 10, 11, 12, 13], (ffOf e).value 0 = .fin false 0 (1 - ((ffOf e).bias : Int) - (ffOf e).fb)
      ∧ ((ffOf e).value (ffOf e).nan).isNan = true)
    ∧ ((ffOf 10).value 0x7F800001).isNan = true := by decide +kernel
/-- Poisoned, taken and not taken. -/
theorem witness_BranchesJumpOrFallThrough : Meets (st [] [5]) (((st [] [5]).xp 5 || (st [] [5]).xp 6) = true)
    ∧ Meets (st [(5, 1), (6, 1)] []) ((st [(5, 1), (6, 1)] []).xp 5 = false ∧ (st [(5, 1), (6, 1)] []).x 5 = (st [(5, 1), (6, 1)] []).x 6)
    ∧ Meets (st [(5, 1)] []) ((st [(5, 1)] []).xp 5 = false ∧ (st [(5, 1)] []).x 5 ≠ (st [(5, 1)] []).x 6)
    ∧ Meets (st [(5, 0x8000000000000000)] []) (((st [(5, 0x8000000000000000)] []).x 5).getLsbD 31 = false) := by decide +kernel

/-- A jump table of two entries in core memory: its length and entry 1. -/
def jump (i : Word) (e : Byte) : State :=
  { st [(5, 0xFFFFFFFFFFF80000), (6, i)] [] with mem := { cells := [(cmKey 0 0, 2), (cmKey 0 16, e)], pois := [] } }
/-- A poisoned base, a target of no multiple of 4, one of 4; an index at the table's length; its last entry. -/
theorem witness_JumpsGoToTarget : Meets (st [] [5]) ((st [] [5]).xp 5 = true)
    ∧ Meets (st [(5, 2)] []) (((st [(5, 2)] []).x 5 + (0 : BitVec 14).signExtend 64).toNat % 4 ≠ 0)
    ∧ Meets (st [(5, 4)] []) (((st [(5, 4)] []).x 5 + (0 : BitVec 14).signExtend 64).toNat % 4 = 0)
    ∧ Meets (jump 2 0x40) ((gave ((jump 2 0x40).load 4096 0 ((jump 2 0x40).x 5).toNat 8).2).map (fun n => leNat (n.map PByte.b)) = some 2)
    ∧ Meets (jump 1 0x40) ((gave ((jump 1 0x40).load 4096 0 ((jump 1 0x40).x 5 + 8 + 8 * (jump 1 0x40).x 6).toNat 8).2).map
        (fun n => (leNat (n.map PByte.b), n.any PByte.p)) = some (0x40, false)) := by decide +kernel
/-- Whether the current thread has nothing to drain. -/
def drained (s : State) : Bool := decide (s.thr.wbuf = []) && s.tk.pend.all fun p => !s.isStoreFault p
theorem drained_of (s : State) (h : drained s = true) : s.Drained := by
  simp only [drained, Bool.and_eq_true, decide_eq_true_eq, List.all_eq_true, Bool.not_eq_true'] at h
  exact h
/-- Nothing to drain; a bkpt armed and not; a core that a debugger holds and one that none holds. -/
theorem witness_SystemInstructionsAct : Meets (st [] []) (drained (st [] []) = true ∧ (st [] []).tk.entries = [] ∧ (st [] []).tk.pmctl.getLsbD 2 = false
      ∧ ((st [] []).core (st [] []).tk.core).dbgHeld = false)
    ∧ Meets (one { Task.blank with pmctl := 4 } (regs [] [])) ((one { Task.blank with pmctl := 4 } (regs [] [])).tk.pmctl.getLsbD 2 = true)
    ∧ Meets ((st [] []).setCore 0 { Core.reset with dbgHeld := true })
        ((((st [] []).setCore 0 { Core.reset with dbgHeld := true }).core 0).dbgHeld = true) := by decide +kernel
/-- A thread in a reflected handler, with a word of its trap frame. -/
def inHandler (pc : Byte) : State :=
  { one Task.blank { regs [] [] with fltrec := 0x107 } with mem := { cells := [(cmKey 0 0x118, pc)], pois := [] } }
/-- The pc that its frame holds. -/
def savedPc (s : State) : Nat :=
  leNat ((s.mem.read (s.cmOf s.cur.1 (s.tk.lrec.cmsize * 1024 + 384 * s.cur.2) + 0x118) 8).map PByte.b)
/-- A thread in a PC-match handler that returns to pc. -/
def inShadow (pc : Word) : State := one Task.blank { regs [] [] with shadow := some ⟨pc, [], 0, 0, 1, 0⟩, pmepc := pc }
/-- Outside a handler; in one, with a saved pc of 2 and of 4; in a PC-match handler the same. -/
theorem witness_ReturnsRestoreState : Meets (st [] []) ((st [] []).thr.fltrec.getLsbD 8 = false ∧ savedPc (st [] []) % 4 = 0 ∧ (st [] []).thr.pmepc.toNat % 4 = 0)
    ∧ Meets (one Task.blank { regs [] [] with pmepc := 2 }) ((one Task.blank { regs [] [] with pmepc := 2 }).thr.pmepc.toNat % 4 ≠ 0)
    ∧ Meets (inHandler 2) ((inHandler 2).thr.fltrec.getLsbD 8 = true ∧ savedPc (inHandler 2) % 4 ≠ 0)
    ∧ Meets (inHandler 4) ((inHandler 4).thr.fltrec.getLsbD 8 = true ∧ savedPc (inHandler 4) % 4 = 0)
    ∧ (inShadow 2).thr.canRun = true ∧ (inShadow 2).thr.packet = none ∧ ((inShadow 2).core (inShadow 2).tk.core).dbgStop = false
    ∧ (inShadow 2).thr.shadow.isSome = true ∧ (inShadow 2).thr.pmepc.toNat % 4 ≠ 0 ∧ (inShadow 4).thr.pmepc.toNat % 4 = 0 := by
  decide +kernel
/-- Whether a write of a CSR was taken, or refused. -/
def wrote (w : CsrW) : Option Bool := match w with | .ok _ => some true | .refused => some false | _ => none
/-- A task with the PHASE right on its cluster. -/
def phaseTask : Task := { Task.blank with caps := [(0, 2 ^ 46)], place := .running 0 false }
/-- A number that reads, one that does not; a write that is taken and one that is refused; the control thread and a helper; a core with
the PHASE right and one without; a core that runs a task and one that does not. -/
theorem witness_CsrInstructionsAct : Meets (st [] []) ((st [] []).csrRead 0x000 = some 1 ∧ (st [] []).csrRead 0xFFF = none)
    ∧ Meets (st [] [5]) ((st [] [5]).xp 5 = true)
    ∧ Meets (st [] []) (wrote ((st [] []).csrWrite 0x1A0 4) = some true)
    ∧ Meets (st [] []) (wrote ((st [] []).csrWrite 0x02F 4) = some false)
    ∧ (st [] []).cur.2 = 0 ∧ (helper [] []).cur.2 ≠ 0 ∧ (st [] []).tk.phaseHere = false ∧ phaseTask.phaseHere = true
    ∧ (st [] []).running 0 = some 4096 ∧ (st [] []).cur = (4096, 0) ∧ (st [] []).running 1 = none := by decide +kernel
/-- R168: a write of LINK by slot 1 of core 0, while another thread is the current one. -/
theorem test_csr_write : ((after (.csrWrite 0 1 0x1A0 4) (st [] [])).thread 4096 1).lr = 4
    ∧ ((after (.csrWrite 0 1 0x1A0 4) (st [] [])).thread 4096 0).lr = 0 := by decide +kernel
/-! ## Witnesses: vector instructions -/

/-- A thread with vector registers v, their chunks of the list poisoned, and predicate p1. -/
def vregs (v : AMap VReg) (p : List Nat) (p1 : PReg) (x : AMap Word) (xp : List Nat) : Thread :=
  { regs x xp with v := v, vp := p.foldl (fun w i => setBit w i true) 0, p := [(1, p1)] }
/-- A state whose thread has these. -/
def vst (v : AMap VReg) (p : List Nat) (p1 : PReg) (x : AMap Word) (xp : List Nat) : State := one Task.blank (vregs v p p1 x xp)
/-- Fields of type z32 with va = 1, vb = 2, vd = 3, under p1. -/
def f1 : VX := { vx 6 with vd := 3, va := 1, vb := 2, pg := 1 }

theorem witness_VectorFunctions : ok (vst [(1, 5)] [16] 1 [] []) = true := by decide +kernel
/-- The last lane poisoned and active; poisoned and not active. -/
theorem witness_VectorCompareGivesPredicate :
    Meets (vst [] [31] (2 ^ 124) [] []) (∃ j < 1024 / laneW f1, (vst [] [31] (2 ^ 124) [] []).thr.on f1 j = true
      ∧ (((vst [] [31] (2 ^ 124) [] []).thr.lane 1 32 j).2 || false) = true)
    ∧ Meets (vst [] [31] 1 [] []) (∀ j < 1024 / laneW f1, (vst [] [31] 1 [] []).thr.on f1 j = true →
      (((vst [] [31] 1 [] []).thr.lane 1 32 j).2 || ((vst [] [31] 1 [] []).thr.bLane f1 6 false none j).2) = false) := by decide +kernel
theorem witness_PredicatesGiveResult : Meets (st [] [1]) ((st [] [1]).xp f1.va = true)
    ∧ Meets (st [(1, 32)] []) ((st [(1, 32)] []).xp f1.va = false) := by decide +kernel
/-- No lane active, and the last one alone. -/
theorem witness_ReductionsGiveResult : Meets (vst [] [] 0 [] []) ((List.range 32).filter ((vst [] [] 0 [] []).thr.on f1) = [])
    ∧ Meets (vst [] [] (2 ^ 124) [] []) ((List.range 32).filter ((vst [] [] (2 ^ 124) [] []).thr.on f1) = [31]) := by decide +kernel
/-- A poisoned index; an index of the last lane, and one beyond it. -/
theorem witness_PermutationsGiveLanes : Meets (st [] [2]) ({ f1 with xs := true }.xs = true ∧ (st [] [2]).xp 2 = true)
    ∧ Meets (st [(2, 31)] []) ((st [(2, 31)] []).xp 2 = false ∧ ((st [(2, 31)] []).x 2).toNat < 1024 / laneW f1)
    ∧ Meets (st [(2, 32)] []) (1024 / laneW f1 ≤ ((st [(2, 32)] []).x 2).toNat) := by decide +kernel
theorem witness_ConversionsGiveLanes : ok (vst [(2, 0x3F800000)] [] 1 [] []) = true := by decide +kernel
/-- A block of 32 words. -/
theorem witness_BlocksKeepNaNs : (List.replicate 32 0x7FC00000).length = 32 ∧ ∀ x ∈ List.replicate 32 0x7FC00000, x < 2 ^ 32 := by
  decide +kernel
/-- A queue with room and a full one. -/
theorem witness_SpecialFunctionsAct : Meets (st [] []) ((st [] []).tk.sfuTurn 0 = true)
    ∧ Meets (one { Task.blank with sfu := List.replicate 8 ⟨0, 0, false⟩ } (regs [] []))
        ((one { Task.blank with sfu := List.replicate 8 ⟨0, 0, false⟩ } (regs [] [])).tk.sfuTurn 0 = false)
    ∧ (ffOf 10).value 0x7FC00000 = .nan false ∧ (ffOf 8).value 0x7C01 = .nan true ∧ (ffOf 9).value 0x7F80 = .inf false
    ∧ (ffOf 10).value 0xFF800000 = .inf true := by decide +kernel

/-- The checked lanes of a vector access. -/
def lanes? (c : VChk) : Option (List (Nat × Nat × Lane1 × List Piece)) := match c with | .ok es => some es | .stop _ => none
/-- The fault that ends its checks. -/
def stop? (c : VChk) : Option (Nat × Nat) := match c with | .stop (.fault c a _) => some (c, a) | _ => none
/-- A vector state whose host page 1 is mapped for loads and stores. -/
def hosted (s : State) : State := { s with linkUp := true, hostMap := [(1, 0x1007)] }
/-- Its base register, in core memory, in the hole, on the host page. -/
def cmAt : AMap Word := [(1, 0xFFFFFFFFFFF80000)]
/-- One active lane in core memory; none; a poisoned base; an address in the hole. -/
theorem witness_VectorLoadsAct :
    Meets (vst [] [] 1 cmAt []) ((∃ i < laneN f1, (vst [] [] 1 cmAt []).thr.on f1 i = true) ∧ vecPois .unit f1 (vst [] [] 1 cmAt []) = false
      ∧ ((lanes? (vecCheck .load 4 (vecActive .unit f1 (vst [] [] 1 cmAt [])) (vst [] [] 1 cmAt [])).2).map fun es =>
          ((gave (vecLoads es (vst [] [] 1 cmAt [])).2.1).isSome, (vecLoads (es.take 1) (vst [] [] 1 cmAt [])).2.2.length)) = some (true, 1)
      ∧ (lanes? (vecFirst f1 (vst [] [] 1 cmAt [])).2).isSome = true)
    ∧ Meets (vst [] [] 0 cmAt []) (¬ ∃ i < laneN f1, (vst [] [] 0 cmAt []).thr.on f1 i = true)
    ∧ Meets (vst [] [] 1 cmAt [1]) (vecPois .unit f1 (vst [] [] 1 cmAt [1]) = true)
    ∧ Meets (vst [] [] 1 [(1, 0xFFFFFFFFFF600000)] [])
        (stop? (vecCheck .load 4 (vecActive .unit f1 (vst [] [] 1 [(1, 0xFFFFFFFFFF600000)] [])) (vst [] [] 1 [(1, 0xFFFFFFFFFF600000)] [])).2
          = some (0x11, 0xFFFFFFFFFF600000)) := by decide +kernel
/-- The same of stores; and poisoned data bound for host memory, which the third check refuses. -/
theorem witness_VectorStoresPutLanes :
    Meets (vst [] [] 1 cmAt []) (vecPois .unit f1 (vst [] [] 1 cmAt []) = false
      ∧ ((lanes? (vecCheck .store 4 (vecActive .unit f1 (vst [] [] 1 cmAt [])) (vst [] [] 1 cmAt [])).2).map fun es =>
          (decide (vecDataCheck .store 4 (vst [] [] 1 cmAt []) es = none), (gave ((vst [] [] 1 cmAt []).storeChecked 4096 0
            (es.map fun e => (e.2.1, e.2.2.2, (leBytes 4 e.2.2.1.1).map fun v => ({ b := v, p := e.2.2.1.2 } : PByte)))).2).isSome))
          = some (true, true))
    ∧ Meets (hosted (vst [] [48] 1 [(1, 0x1FFC)] []))
        (let s := hosted (vst [] [48] 1 [(1, 0x1FFC)] [])
         let r := vecCheck .store 4 (vecActive .unit f1 s) s
         (lanes? r.2).map (vecDataCheck .store 4 r.1) = some (some (0x51, 0x1FFC))) := by decide +kernel
theorem witness_VectorAtomicsGiveOldValues :
    Meets (vst [] [] 1 cmAt []) (vecPois .index f1 (vst [] [] 1 cmAt []) = false
      ∧ ((lanes? (vecCheck .atomic 4 (vecActive .index f1 (vst [] [] 1 cmAt [])) (vst [] [] 1 cmAt [])).2).map fun es =>
          (decide (vecDataCheck .atomic 4 (vst [] [] 1 cmAt []) es = none), es.all fun e => !(vst [] [] 1 cmAt []).amoBarred e.2.2.2,
            (gave (vecAmos 0 es (vst [] [] 1 cmAt [])).2.1).isSome)) = some (true, true, true))
    ∧ Meets (vst [] [] 1 cmAt [1]) (vecPois .index f1 (vst [] [] 1 cmAt [1]) = true) := by decide +kernel
/-! ## Witnesses: memory, objects, threads -/

/-- A state whose device page at fetchPc is mapped for loads and stores, its thread having these registers; context 0 is ACTIVE. -/
def paged (x : AMap Word) (p : List Nat) : State :=
  let s := State.reset.withFetchWord 32 0
  { s with
    tasks := [(4096, { Task.blank with place := .running 0 false, kid := 1, threads := [(0, { regs x p with st := .ready })] })]
    cur := (4096, 0) }
/-- A register with the page's address. -/
def pg : AMap Word := [(5, 0xFF80000000400080), (6, 0x80), (7, 0x100)]
/-- The page's storage, as the tables have it, and an object at offset 0x80 of it with holders and queue. -/
def objs (h q : List (Nat × Nat × Bool)) : State :=
  { paged pg [] with objs := [{ key := paKey 0x40080, va := 0xFF80000000400080, ctx := 0, holders := h, queue := q }] }
/-- The key that an address names; the page's is that of 0x40080. -/
def named (s : State) (a : Word) : Option Nat := match (s.nameObj a.toNat).2 with | .key k => some k | _ => none

/-- A granule written in part and one written whole. -/
theorem witness_MemoryReadsWhatWasWritten : (Memory.write { cells := [], pois := [] } 7 [⟨1, true⟩, ⟨2, false⟩]).pois = [0]
    ∧ (Memory.write { cells := [], pois := [1] } 8 (List.replicate 8 ⟨0, false⟩)).pois = [] := by decide +kernel
/-- A store to a translated page that its buffer takes. -/
theorem witness_LoadsAndBufferedStoresKeepMemory : 0xFF80000000400080 < cspBase
    ∧ (gave ((paged pg []).store 4096 0 0xFF80000000400080 [⟨1, false⟩]).2).isSome = true := by decide +kernel
/-- A poisoned base; bytes from a page; a fault in the hole; a wait on a page that is not there. -/
theorem witness_ScalarMemoryInstructionsAct : Meets (paged pg [5]) ((paged pg [5]).xp 5 = true)
    ∧ Meets (paged pg []) ((paged pg []).xp 5 = false ∧ (gave ((paged pg []).load 4096 0 0xFF80000000400080 8).2).isSome = true
      ∧ (gave ((paged pg []).store 4096 0 0xFF80000000400080 [⟨1, false⟩]).2).isSome = true)
    ∧ Meets (st [] []) (((st [] []).load 4096 0 0xFFFFFFFFFF600000 8).2 = .fault 0x11 0xFFFFFFFFFF600000
      ∧ ((st [] []).store 4096 0 0xFFFFFFFFFF600000 [⟨1, false⟩]).2 = .fault 0x11 0xFFFFFFFFFF600000)
    ∧ Meets (st [] []) (((st [] []).load 4096 0 0x1000 8).2 = .wait (.page 0x1000)
      ∧ ((st [] []).store 4096 0 0x1000 [⟨1, false⟩]).2 = .wait (.page 0x1000)) := by decide +kernel
/-- Core memory at its first and at its last bytes. -/
theorem witness_CoreMemoryIsAccessedAtOnce : Meets (st [(5, 0xFFFFFFFFFFF80000)] []) ((st [(5, 0xFFFFFFFFFFF80000)] []).xp 5 = false
      ∧ (st [] []).tk.onCore = true ∧ (st [] []).tk.core < 1536 ∧ (∀ i < 8, (st [] []).cmHole 4096 i = false))
    ∧ cmBase ≤ 2 ^ 64 - 8 ∧ 2 ^ 64 - 8 + 8 ≤ 2 ^ 64 ∧ (∀ i < 8, (st [] []).cmHole 4096 (2 ^ 64 - 8 + i - cmBase) = false)
    ∧ Meets (vst [] [] 1 cmAt []) (vecPois .unit f1 (vst [] [] 1 cmAt []) = false ∧ (vecActive .unit f1 (vst [] [] 1 cmAt [])).length = 1
      ∧ ∀ e ∈ vecActive .index f1 (vst [] [] 1 cmAt []), e.2.1 % 4 = 0) := by decide +kernel
/-- A poisoned address; an aligned address in core memory; one on a page. -/
theorem witness_ScalarAtomicsGiveOldValue : Meets (st cmAt [1]) ([(1 : Reg)].any (st cmAt [1]).xp = true)
    ∧ Meets (st cmAt []) ([(1 : Reg)].any (st cmAt []).xp = false ∧ ((st cmAt []).x 1).toNat % 8 = 0 ∧ (st cmAt []).tk.onCore = true ∧ (st cmAt []).tk.core < 1536
      ∧ (gave ((st cmAt []).atomic 4096 0 0xFFFFFFFFFFF80000 8 0 ⟨0, 1, false, 0⟩).2).isSome = true)
    ∧ Meets (paged pg []) ((gave ((paged pg []).atomic 4096 0 0xFF80000000400080 8 0 ⟨0, 1, false, 0⟩).2).isSome = true) := by decide +kernel
/-- A lane whose line holds an active object. -/
theorem witness_VectorAtomicsGiveOldValues_objects :
    let s := { objs [(4096, 1, true)] [] with mem := ((objs [(4096, 1, true)] []).mem.write (paKey 0x40080) [⟨1, false⟩]) }
    s.amoBarred [.page 0xFF80000000400080 4 { (default : Trans) with page := 0xFF80000000400080 / 65536, size := 65536, leaf := 0x1000000F, expiry := 512 }]
      = true := by decide +kernel

/-- An object that is free, held shared by another, held by the thread itself, and awaited by another. -/
theorem witness_SyncInstructionsAct : Meets (paged pg [5]) ((paged pg [5]).xp 5 = true)
    ∧ Meets (paged pg []) ((paged pg []).xp 5 = false ∧ named (paged pg []) ((paged pg []).x 5) = some (paKey 0x40080))
    ∧ (let o : SyncObj := ⟨0x40080, 0, 0, [], []⟩
       o.heldBy 4096 0 = false ∧ o.queue = [] ∧ o.free true = true ∧ o.free false = true)
    ∧ (let o : SyncObj := ⟨0x40080, 0, 0, [(4096, 1, false)], [(4096, 2, true)]⟩
       o.heldBy 4096 0 = false ∧ o.free true = false ∧ o.free false = true ∧ o.queue ≠ []
        ∧ ∀ q ∈ o.queue, ¬ (q.1 = 4096 ∧ q.2.1 = 0))
    ∧ (let o : SyncObj := ⟨0x40080, 0, 0, [(4096, 0, true)], []⟩
       o.heldBy 4096 0 = true ∧ drained (paged pg []) = true)
    ∧ (objs [(4096, 1, true)] []).objWord (⟨0x40080, 0, 0, [(4096, 1, true)], []⟩ : SyncObj) < 2 ^ 64
    ∧ bindable 0x80 0x100 = true ∧ bindable 0x80 0x101 = false
    ∧ (paged pg []).objField 0x40080 0x18 = 0 ∧ (∀ i < 0, (paged pg []).objField 0x40080 (0x18 + 16 * i) ≠ 0)
    ∧ (((paged pg []).setObjField 0x40080 0x10 0x80).setObjField 0x40080 0x18 0x100).objField 0x40080 0x18 ≠ 0
    ∧ (((paged pg []).setObjField 0x40080 0x10 0x80).setObjField 0x40080 0x18 0x100).objField 0x40080 0x10 = ((paged pg []).x 6).toNat := by
  decide +kernel

/-- A task with slots 1 to 15 taken. -/
def crowded (x : AMap Word) : State :=
  with_ Task.blank ((0, { regs x [] with st := .ready }) :: (List.range 15).map fun i => (i + 1, { Thread.empty with st := .ready })) 0
/-- A task whose helper 1 has exited and helper 2 lives. -/
def helped (x : AMap Word) : State :=
  with_ Task.blank [(0, { regs x [] with st := .ready }), (1, { Thread.empty with st := .exited }), (2, { Thread.empty with st := .ready })] 0
/-- A helper; the control thread with empty slots, with none, with a poisoned and with a misaligned target; a join of an exited, of a live
and of no helper; exits with nothing outstanding; a timeline that has its value and one that has not. -/
theorem witness_ThreadsStartJoinAndEnd : Meets (helper [] []) ((helper [] []).cur.2 ≠ 0 ∧ (helper [] []).holdsObj 4096 1 = false
      ∧ (helper [] []).threadBusy 4096 1 = false ∧ (helper [] []).tk.pend = [] ∧ (helper [] []).thr.wbuf = [])
    ∧ Meets (st [(5, 0x40)] []) ((st [(5, 0x40)] []).cur.2 = 0 ∧ (st [(5, 0x40)] []).thr.arrival = none ∧ (st [(5, 0x40)] []).xp 5 = false
      ∧ ((st [(5, 0x40)] []).x 5).toNat % 4 = 0 ∧ ((st [(5, 0x40)] []).tk.thread 1).st = .empty)
    ∧ Meets (st [(5, 2)] []) (((st [(5, 2)] []).x 5).toNat % 4 ≠ 0) ∧ Meets (st [] [5]) ((st [] [5]).xp 5 = true)
    ∧ Meets (crowded []) (∀ i < 16, 1 ≤ i → ((crowded []).tk.thread i).st ≠ .empty)
    ∧ Meets (helped [(5, 1)]) (((helped [(5, 1)]).tk.thread 1).st = .exited ∧ ((helped [(5, 1)]).tk.thread 2).st ≠ .exited
      ∧ ((helped [(5, 1)]).tk.thread 2).st ≠ .empty ∧ ((helped [(5, 1)]).tk.thread 15).st = .empty ∧ (helped []).tk.helperLive = true)
    ∧ Meets (st [] []) ((st [] []).tk.helperLive = false ∧ (∀ j < 16, (st [] []).holdsObj 4096 j = false) ∧ (st [] []).tk.xlist = []
      ∧ (st [] []).taskBusy 4096 = false ∧ (st [] []).tk.pend = [])
    ∧ Meets (st [(5, 1)] []) (((st [(5, 1)] []).tk.line 0).value < ((st [(5, 1)] []).x 5).toNat)
    ∧ Meets (st [] []) (((st [] []).x 5).toNat ≤ ((st [] []).tk.line 3).value) := by decide +kernel
/-- A control thread between its sarrive and its swait. -/
theorem witness_ThreadsStartJoinAndEnd_split : let s := one Task.blank { regs [] [] with arrival := some ⟨2, true, 0, 0, 0, none⟩ }
    Meets s (s.cur.2 = 0 ∧ s.thr.arrival = some ⟨2, true, 0, 0, 0, none⟩) := by decide +kernel
/-- A helper that holds an object. -/
theorem witness_ThreadsStartJoinAndEnd_holder : (objs [(4096, 1, true)] []).holdsObj 4096 1 = true := by decide +kernel
/-- The first arrival of two, the last of two, and a count that differs. -/
theorem witness_RendezvousGivesResult :
    Meets (st [] []) (AMap.get (st [] []).tk.points 3 ⟨2, 0, []⟩ = ⟨2, 0, []⟩ ∧ ([] ++ [(0, (0 : Word), false, 0)]).length < 2)
    ∧ Meets (one { Task.blank with points := [(3, ⟨2, 0, [(1, 7, false, 5)]⟩)] } (regs [] []))
        ((∀ r ∈ [(1, (7 : Word), false, 5)], r.1 ≠ 0)
          ∧ (AMap.get (one { Task.blank with points := [(3, ⟨2, 0, [(1, 7, false, 5)]⟩)] } (regs [] [])).tk.points 3 ⟨3, 0, []⟩).count ≠ 3)
    ∧ (let e : Episode := ⟨2, 0, [(1, 7, false, 5), (0, 9, true, 6)]⟩
       e.arr ≠ [] ∧ ∀ y ∈ e.arr, y ≠ (0, 9, true, 6) → 0 < y.1) := by decide +kernel
/-! ## Witnesses: scratchpad, engines, groups, launches, links -/

/-- The current state with a change of its cluster, and of its task. -/
def inCluster (s : State) (f : Cluster → Cluster) : State := s.setCluster 0 (f (s.cluster 0))
/-- With a change of the current task. -/
def inTask (s : State) (f : Task → Task) : State := s.setTk (f s.tk)
/-- Handle 0 of kernel 1: two blocks of one granule, and one of its blocks. -/
def pads (b : List Block) (blk : Word) : State :=
  inCluster (inTask (st [(5, 0), (6, blk)] []) fun k => { k with lrec := { k.lrec with handles := 1 } })
    fun c => { c with handles := [⟨1, 0, 2, 12, 3, false⟩], blocks := b }
/-- Block 0 at the window's base. -/
def block (fill : Bool) (pin : Nat) : Block := ⟨0, 1, 0, 0, 12, fill, pin, 3, 0, (4096, 0), false⟩
/-- What a lookup gives. -/
def looked (l : Looked) : Option Bool := match l with | .ok _ => some true | .bad => some false | .wait _ => none
/-- A good and a bad handle; the last block index and one too high; a block FILLING, pinned 4,094 and 4,095 times, none; no free run. -/
theorem witness_ScratchpadInstructionsAct : Meets (pads [] 1) (looked ((pads [] 1).lookHandle 0).2 = some true
      ∧ looked ((pads [] 1).lookHandle 1).2 = some false ∧ ((pads [] 1).x 6).toNat < 2 ∧ 2 ≤ ((pads [] 2).x 6).toNat
      ∧ ((pads [] 1).cluster 0).blocks.find? (fun x => x.kid == 1 && x.h == 0 && x.blk == 1) = none
      ∧ ((pads [] 1).cluster 0).bestRuns 3 12 ≠ [])
    ∧ ((pads [block true 1] 0).cluster 0).blocks.find? (fun x => x.kid == 1 && x.h == 0 && x.blk == 0) = some (block true 1)
    ∧ (block true 1).fill = true ∧ (block false 4094).pin < 4095 ∧ 4095 ≤ (block false 4095).pin
    ∧ ({ Cluster.reset with blocks := [{ block true 1 with log := 18 }, { block true 1 with base := 64, log := 18 }] } : Cluster).bestRuns
        3 12 ≠ []
    ∧ Meets (pads [block false 1] 0) ((pads [block false 1] 0).tk.kid = 1)
    ∧ Meets (st [] [5]) ((st [] [5]).xp 5 = true) := by decide +kernel
/-- No run of 64 granules is free when each holds a pinned block. -/
theorem witness_ScratchpadInstructionsAct_full :
    ({ Cluster.reset with blocks := (List.range 24).map fun i => { block false 1 with base := 64 * i } } : Cluster).bestRuns 7 18 = [] := by
  decide +kernel
/-- A block found by sprel: not held, pinned, FILLING by this thread and by another. -/
theorem witness_ScratchpadInstructionsAct_release :
    (let s := pads [block false 1] 0
     (s.cluster 0).blocks.find? (fun x => cspBase + 4096 * x.base == cspBase && x.kid == s.tk.kid) = some (block false 1))
    ∧ (block true 1).filler = (pads [] 0).cur ∧ { block true 1 with filler := (4096, 3) }.filler ≠ (pads [] 0).cur
    ∧ (block false 0).pin = 0 := by decide +kernel

/-- A core's queue with room and one with 512 copies. -/
theorem witness_CopiesAreQueued : Meets (st [(5, 0x1000), (6, 0x2000), (7, 8)] []) (
      let s := st [(5, 0x1000), (6, 0x2000), (7, 8)] []
      ([(5 : Reg), 6, 7].any s.xp = false) ∧ (s.spanFault (s.x 5).toNat 8 <|> s.spanFault (s.x 6).toNat 8) = none
      ∧ ¬ 512 ≤ (s.queueOf s.tk.core).length ∧ decide ((s.x 8).toNat = 0) = true)
    ∧ Meets (st [(5, 0xFFFFFFFFFF600000)] []) ((st [] []).spanFault ((st [(5, 0xFFFFFFFFFF600000)] []).x 5).toNat 8 = some (0x11, 0xFFFFFFFFFF600000)
      ∧ (st [] []).spanFault 0xFFFFFFFFFF000FFF 2 = some (0x11, 0xFFFFFFFFFF000FFF) ∧ (st [] []).spanFault (2 ^ 64 - 8) 8 = none)
    ∧ (let s := inCluster (st [] []) fun c => { c with copies := List.replicate 512 { blankCopy (st [] []) 0 with len := 8 } }
       Meets s (512 ≤ (s.queueOf s.tk.core).length))
    ∧ Meets (st [] [6]) ([(5 : Reg), 6, 7].any (st [] [6]).xp = true) := by decide +kernel

/-- Tile 2 owned by kernel 1, of binary32, its last row and chunk. -/
def tiled (x : AMap Word) : State := inCluster (st x []) fun c => { c with tcfg := [(2, 0x000100000001877F), (3, 0x000100000001877F)] }
/-- The last offset of an owned tile, one too high, a tile that is not owned, one that an earlier cpytile holds. -/
theorem witness_TileAccessesMoveBytes : Meets (tiled [(5, 69504)]) ((tiled [(5, 69504)]).xp 5 = false
      ∧ (tiled [(5, 69504)]).ownsTile 2 = true ∧ 69504 % 8 = 0 ∧ 69504 + 128 ≤ 69632
      ∧ ((tiled []).cluster 0).tileHolds 4096 0 2 ((tiled []).cluster 0).clock = false)
    ∧ Meets (tiled [(5, 69512)]) (¬ ((tiled [(5, 69512)]).x 5).toNat + 128 ≤ 69632 ∧ (tiled []).ownsTile 4 = false)
    ∧ (let s := inCluster (tiled []) fun c => { c with clock := 1, copies := [{ blankCopy (st [] []) 3 with tile := 2, isTile := true }] }
       Meets s ((s.cluster 0).tileHolds 4096 0 2 (s.cluster 0).clock = true))
    ∧ Meets (st [] [5]) ((st [] [5]).xp 5 = true) := by decide +kernel

/-- A task with every right on cluster 0 but that to decompose; light on the lines of die 0. -/
def lit (x : AMap Word) : State :=
  { inTask (tiled x) fun k => { k with caps := [(0, 0x607FFFFFFF80)] } with
    comb := (List.range 8).map fun i => (i, { telemetryOff with state := 2 }) }
/-- A pass of one bank and one row. -/
def pass1 : MxpW := ⟨2, 3, 15, 0, false, false, 0, 0, false, 0⟩
/-- Bad and good targets, shapes and rights; light and none; an operation that its unit has, with and without room to stage. -/
theorem witness_OmuOperationsAreAccepted : Meets (lit [(5, 127)]) (let s := lit [(5, 127)]
      s.issuedOp 4096 0 = none ∧ s.target (s.x 5) = some 0 ∧ capAllows (s.capOf 0) 0 45 (· == 0) [2, 3] (mxpBanks pass1) = true
      ∧ capAllows (s.capOf 0) 0 46 (· == 0) [] [15] = true ∧ s.omuAvail 0 = true ∧ s.ownsTile 2 = true ∧ s.ownsTile 3 = true
      ∧ mxpLast pass1 ≤ 15 ∧ s.spanFault 0 16384 = none)
    ∧ Meets (lit [(5, 96)]) ((lit [(5, 96)]).target ((lit [(5, 96)]).x 5) = none ∧ (lit [(5, 95)]).target ((lit [(5, 95)]).x 5) = some 95
      ∧ capAllows ((lit []).capOf 0) 0 45 (· == 95) [] [] = false)
    ∧ Meets (tiled []) ((tiled []).omuAvail 0 = false ∧ (tiled []).ownsTile 0 = false)
    ∧ (let o := (lit []).newOmu (.tzero 2) 7 none []
       let s := inCluster (lit []) fun c => { c with issued := [o] }
       Meets s (s.issuedOp 4096 0 = some (0, o) ∧ s.arrivalFault 0 o = none ∧ (s.cluster 0).staged.length < 32))
    ∧ (let o := (tiled []).newOmu (.phtrim 2) 7 none []
       let s := inCluster (tiled []) fun c => { c with issued := [o], staged := List.replicate 32 o }
       Meets s (s.issuedOp 4096 0 = some (0, o) ∧ s.arrivalFault 0 o = some 0x24 ∧ 32 ≤ (s.cluster 0).staged.length)) := by decide +kernel

/-- A capability to decompose, with a check tag. -/
def dcmpCap (t : Nat) : Word := BitVec.ofNat 64 (0x800000000000 + t % 65536 * 0x1000000000000)
theorem dcmpCap_fields (t : Nat) : (dcmpCap t).toNat / 2 ^ 48 = t % 65536 ∧ (dcmpCap t).toNat % 2 ^ 48 = 0x800000000000
    ∧ (dcmpCap t).toNat / 2 ^ 39 % 64 = 0 ∧ (dcmpCap t).toNat % 128 = 0 ∧ (dcmpCap t).toNat / 2 ^ 47 % 2 = 1 := by
  have h : (dcmpCap t).toNat = (0x800000000000 + t % 65536 * 0x1000000000000) % 18446744073709551616 := BitVec.toNat_ofNat _ _
  omega
theorem allows_of_fields (c : Word) (h1 : c.toNat / 2 ^ 39 % 64 = 0) (h2 : c.toNat % 128 = 0) (h3 : c.getLsbD 47 = true) :
    capAllows c 0 47 (fun c => c < 96 && c / 48 == 0) [] [] = true := by
  have h4 : c.toNat / 549755813888 % 64 = 0 := h1
  simp [capAllows, capAllows.capCtxOf, h4, h2, h3]
theorem tagOk_of_fields (s : State) (c : Word) (t : Nat) (hb : s.boot = 0) (h1 : c.toNat / 2 ^ 48 = t % 65536)
    (h2 : c.toNat % 2 ^ 48 = 0x800000000000) (ht : Config.capTag 0 0x800000000000 = t) : s.capTagOk c = true := by
  rw [State.capTagOk, hb, h1, h2, ht]; exact beq_self_eq_true _
theorem bit47_of_field (c : Word) (h : c.toNat / 2 ^ 47 % 2 = 1) : c.getLsbD 47 = true := by
  rw [BitVec.getLsbD, Nat.testBit_eq_decide_div_mod_eq]; exact decide_eq_true h
/-- With the tag that the PSC computes it allows a core of die 0 to decompose. -/
theorem witness_DecompositionIsQueued_cap : (st [] []).capTagOk (dcmpCap (Config.capTag 0 0x800000000000)) = true
    ∧ capAllows (dcmpCap (Config.capTag 0 0x800000000000)) 0 47 (fun c => c < 96 && c / 48 == 0) [] [] = true := by
  generalize ht : Config.capTag 0 0x800000000000 = t
  obtain ⟨h1, h2, h3, h4, h5⟩ := dcmpCap_fields t
  generalize dcmpCap t = c at h1 h2 h3 h4 h5 ⊢
  exact ⟨tagOk_of_fields _ c t rfl h1 h2 ht, allows_of_fields c h3 h4 (bit47_of_field c h5)⟩
/-- Aligned and misaligned operands, engines and light, ranges, a queue with room and a full one. -/
theorem witness_DecompositionIsQueued : Meets (lit []) (((lit []).x 5).toNat % 32768 = 0 ∧ (lit []).engines 0 ≠ 0 ∧ (lit []).dieLit 0 = true
      ∧ ((lit []).spanFault 0 32768 <|> (lit []).spanFault 0 16384) = none ∧ ((lit []).die 0).dcmp.length < 64 ∧ (tiled []).dieLit 0 = false)
    ∧ Meets (lit [(5, 16384)]) (((lit [(5, 16384)]).x 5).toNat % 32768 ≠ 0)
    ∧ (lit []).spanFault 0xFFFFFFFFFF600000 16384 = some (0x11, 0xFFFFFFFFFF600000)
    ∧ (let o : DcmpOp := ⟨1, 4096, 0, 0, 0, 0, false⟩
       64 ≤ (((lit []).setDie 0 { Die.reset with dcmp := List.replicate 64 o }).die 0).dcmp.length) := by decide +kernel
/-! ## Witnesses: groups, launches, leases, links -/

/-- A group of two at level 1, this task with rank 0, the other on core 1. -/
def grp : Group :=
  { kid := 1, level := 1, gid := 0, size := 2, members := [(4096, 0), (4097, 1)], gone := [], done := [], st := .compute, step := 0,
    arr := [], first := 0, last := 0, lastCore := 0, sum := 0, vote := 0, votep := false, relAt := 0, freed := [], bytes := 0, entries := 0,
    own := (0, 0), early := [] }
/-- A member of it, with an arrival. -/
def member (g : Group) (a : Option Arrival) (x : AMap Word) : State :=
  { inTask (one Task.blank { regs x [] with arrival := a }) fun k => { k with gmem := [(1, 0x8000080000000000)] } with groups := [g] }
/-- A group that releases, both having arrived. -/
def releasing : Group := { grp with st := .releasing, arr := [(0, 0, 7, false, 0), (1, 0, 8, true, 0)] }
/-- An arrival by sync, and one by sarrive elsewhere. -/
def arrived (split : Bool) : Arrival := ⟨1, split, if split then 0x900 else 0x1000, 0, 0, none⟩
/-- A helper, a live helper, no membership; no arrival, a broken group, nothing buffered; releases of a sync and of a sarrive. -/
theorem witness_BarriersAndVotesAct : Meets (helper [] []) ((helper [] []).cur.2 ≠ 0)
    ∧ Meets (helped []) ((helped []).tk.helperLive = true ∧ (helped []).cur.2 = 0)
    ∧ Meets (st [] []) ((st [] []).tk.helperLive = false ∧ gmV ((st [] []).tk.gm 1) = false)
    ∧ Meets (member grp none []) (let s := member grp none []
      gmV (s.tk.gm 1) = true ∧ s.thr.arrival = none ∧ s.groupBroken 1 = false ∧ s.thr.wbuf = [] ∧ s.tk.pend = [])
    ∧ Meets (member { grp with st := .broken } none []) ((member { grp with st := .broken } none []).groupBroken 1 = true)
    ∧ Meets (member releasing (some (arrived false)) []) (let s := member releasing (some (arrived false)) []
      s.thr.arrival = some (arrived false) ∧ (arrived false).level = 1 ∧ s.canRelease 4096 = true ∧ (arrived false).pc = s.thr.pc)
    ∧ Meets (member releasing (some (arrived true)) []) (let s := member releasing (some (arrived true)) []
      let q := s.setThr { s.thr with arrival := some { arrived true with split := false, pc := s.thr.pc, fault := none } }
      s.canRelease 4096 = true ∧ (arrived true).split = true ∧ s.groupBroken 1 = false ∧ q.canRelease q.cur.1 = true) := by decide +kernel
/-- Each check of an exchange entry at its boundary: the last rank and one beyond it, the window's last word and one beyond it, a bad source,
255 and 256 entries, 63 and 64 packets. -/
theorem witness_ExchangeInstructionsAct : Meets (member grp none []) (let s := member grp none []
      s.xCheck 1 1 1 none none = none ∧ s.xCheck 4 9 0 none none = none ∧ gmSize (s.tk.gm 1) ≤ (2 : Word).toNat % 2 ^ 21
      ∧ (0xFFFF00000000 : Word).toNat / 2 ^ 32 % 65536 + 1 = 65536 ∧ 65536 < (0xFFFF00000000 : Word).toNat / 2 ^ 32 % 65536 + 2
      ∧ s.spanFault 0xFFFFFFFFFF600000 8 = some (0x11, 0xFFFFFFFFFF600000) ∧ s.spanFault 0x1000 8 = none)
    ∧ (let e : XEntry := ⟨1, 0, none, [], 1, 0, none⟩
       let s := inTask (member grp none []) fun k => { k with xlist := List.replicate 256 { e with src := some 0 } }
       let t := inTask (member grp none []) fun k => { k with xlist := List.replicate 64 e }
       256 ≤ s.tk.xlist.length ∧ 64 ≤ (t.tk.xlist.filter fun e => e.src.isNone).length)
    ∧ Meets (st [] [5]) ((st [] [5]).xp 5 = true) := by decide +kernel
/-- A module out of reach, and poison bound for it. -/
theorem witness_ExchangeInstructionsAct_remote :
    (let s := inTask { st [] [] with kernels := [{ (default : Kernel) with kid := 1, lrec := { (default : LaunchRec) with group4 := 1 } }] }
        fun k => { k with gmem := [(4, 0x8000080000000000)], lrec := { k.lrec with group4 := 1 } }
     gmV (s.tk.gm 4) = true ∧ s.rankUnreach s.tk 4 1 = true ∧ s.rankUnreach s.tk 4 0 = false)
    ∧ [((5 : Word), true)].any Prod.snd = true := by decide +kernel
/-- A state with an open packet of 15 words, and of 16. -/
theorem witness_ExchangeInstructionsAct_packet : ∀ n ∈ [0, 15, 16],
    let p : OpenPacket := ⟨0, 1, List.replicate n (0, false), 0x1000⟩
    let s := inTask (one Task.blank { regs [] [] with packet := some p }) fun k => { k with gmem := [(1, 0x8000080000000000)] }
    s.thr.canRun = true ∧ s.thr.shadow = none ∧ (s.core s.tk.core).dbgStop = false ∧ s.thr.packet.isSome = true
      ∧ s.xCheck 1 0 n none (some p.words) = none := by decide +kernel

/-- A launch record of one core and nothing else, at a multiple of 128 in core memory. -/
def recBytes : List PByte := (List.range 128).map fun i => ⟨if i = 0x18 then 1 else 0, false⟩
/-- The same record with AUDIT class 1 and every launch selected, its block on a page that is not there. -/
def audited : List PByte := (List.range 128).map fun i => ⟨if i = 0x18 ∨ i = 0x1F then 1 else if i = 0x17 then 0xFF else if i = 0x16 then 0x90 else 0, false⟩
/-- A thread that waits for the MGC's answer to that record, in a queue whose companion holds n entries. -/
def launching (n : Nat) (bs : List PByte) : State :=
  let s := with_ Task.blank [(0, { regs [] [] with st := .waiting .mgc, answer := some (.bytes bs), held := some (0x7CD, 2, 8) })] 0
  s.setCtx 0 { Context.reset with st := .active, queues := [(2, ⟨0, 4, 3, 0, 0, 0, 0, List.replicate n 1⟩)] }
/-- A record at a multiple of 128 and one that is none; a record accepted and one refused; a companion with 63 and with 64 entries; a
signal entry that is there, entry 0, and one whose page is not. -/
theorem witness_LaunchAndSignalsAct : Meets (st [(5, 0xFFFFFFFFFFF80000)] []) (let s := st [(5, 0xFFFFFFFFFFF80000)] []
      s.xp 5 = false ∧ s.thr.st = .ready ∧ (s.x 5).toNat % 128 = 0 ∧ s.thr.wbuf = []
      ∧ (gave (s.engineLoad 4096 0 klaunchOp (s.x 5).toNat 128).2).isSome = true)
    ∧ Meets (st [(5, 64)] []) (((st [(5, 64)] []).x 5).toNat % 128 ≠ 0) ∧ Meets (st [] [5]) ((st [] [5]).xp 5 = true)
    ∧ (∀ n ∈ [63, 64],
        let s := launching n recBytes
        s.running 0 = some 4096 ∧ (s.thread 4096 0).st = .waiting .mgc ∧ (s.thread 4096 0).answer = some (.bytes recBytes)
        ∧ (s.thread 4096 0).held = some (0x7CD, 2, 8)
        ∧ s.refuses 0 2 (s.childGen (s.task 4096) false) (LaunchRec.ofBytes (recBytes.map PByte.b)) = false
        ∧ ((s.ctx 0).queue? 2).map (fun q => q.comp.length) = some n ∧ (s.core 0).dbgStop = false)
    ∧ (launching 0 []).refuses 0 2 1 (LaunchRec.ofBytes []) = true
    ∧ (launching 0 recBytes).refusalWaits 0 2 1 (LaunchRec.ofBytes (recBytes.map PByte.b)) = false
    ∧ (launching 0 audited).refusalWaits 0 2 1 (LaunchRec.ofBytes (audited.map PByte.b)) = true
    ∧ (let s := (paged [] []).setCtx 0 { (paged [] []).ctx 0 with desc := { ((paged [] []).ctx 0).desc with sigtab := 0xFF80000000400000 } }
       s.sigWait 0 255 .load = none ∧ s.sigWait 0 255 .atomic = none)
    ∧ (st [] []).sigWait 0 0 .atomic = none ∧ ((st [] []).sigWait 0 1 .load).isSome = true := by decide +kernel

/-- Addresses of each kind, at the ends of the regions; a page whose translation loads, one whose leaf bars them. -/
theorem witness_LeaseAndLinkAct_lease : regionOf 0xFFFFFFFFFFF80000 = .cm ∧ regionOf 0xFFFFFFFFFFFFFFFF = .cm ∧ regionOf 0xFFFFFFFFFF5FFFFF = .csp
    ∧ regionOf 0xFFFFFFFFFF600000 = .hole ∧ regionOf 0x0080000000000000 = .nonCanon ∧ regionOf 0x007FFFFFFFFFFFFF = .host
    ∧ regionOf 0xFFFFFFFFFEFFFFFF = .dev
    ∧ Meets (paged pg []) (let s := paged pg []
      (match (s.walkFor 0 0 0xFF80000000400080).2 with | .ok t => permits t.leaf .load | .wait _ => false) = true
      ∧ (match (s.translate 0 0 0xFF80000000400080 .load).2 with
         | .ok t => permits t.leaf .load && !leafPoi t.leaf | .wait _ => false) = true)
    ∧ (let s := { paged pg [] with mem := (paged pg []).mem.writeSp .dev 0x30200 [⟨1, false⟩] 1 }
       (match (s.translate 0 0 0xFF80000000400080 .load).2 with
        | .ok t => !permits t.leaf .load | .wait _ => false) = true) := by decide +kernel
/-- Remote operations of this task to two modules, numbered 7 and 8, of which one drain names module 2's and one all. -/
def drains : State :=
  let op (m n : Nat) : RemoteOp := { target := m, opseq := n, who := .engine 4096 0, pkt := default, first := 0, last := 0, held := false }
  { st [(5, 2), (6, 0x8000000000000000)] [] with remotes := [op 2 7, op 3 8] }
/-- R448: while module 3's operation is open, the drain of module 2 retires with module 2's last one, that of all does not. -/
theorem test_ldrain : (after (.ldrain 9 5) drains).ldrains.map (fun l => (l.sel, l.ops)) = [(some 2, [(2, 7)])]
    ∧ (after (.ldrain 9 6) drains).ldrains.map (fun l => (l.sel, l.ops)) = [(none, [(2, 7), (3, 8)])]
    ∧ (let one (s : State) : State := { s with remotes := s.remotes.drop 1 }
       (one (after (.ldrain 9 5) drains)).retireLdrains.ldrains = [] ∧ (one (after (.ldrain 9 6) drains)).retireLdrains.ldrains.length = 1) := by decide +kernel
/-- A session of either role on a port in UP. -/
def session (recv : Bool) (x : AMap Word) : State :=
  { (st x []).setPort 0 { Port.reset 0 with st := .up } with irSess := [(0, some ⟨0, 0, if recv then none else some 0, 1, 8, 4, []⟩)] }
/-- Sessions ready for a receive and for a send, the nearest slot allowed and the one before it; a buffer at the window's end and beyond. -/
theorem witness_LeaseAndLinkAct_link :
    (∀ recv ∈ [true, false],
      let s := session recv [(5, 0xFFFFFFFFFFF80000), (6, 0x400000000)]
      ok s = true ∧ s.xp 5 = false ∧ (s.irReady 0 recv 0).isSome = true ∧ (s.irReady 0 (!recv) 0) = none
      ∧ irSlot (s.ctime / 256) ((s.x 6).toNat / 2 ^ 32) = 4 ∧ 4 % 8 = 4 ∧ irSlot (s.ctime / 256) 3 < 4)
    ∧ irBuffer 0xFFFFFFFFFFF80000 4160 = true ∧ irBuffer 0xFFFFFFFFFFFFF800 2048 = true ∧ irBuffer 0xFFFFFFFFFFFFF840 2048 = false
    ∧ ((session false []).readWin ((session false []).cmOf 4096 0) 2048).any PByte.p = false
    ∧ (let s := { session false [] with mem := (session false []).mem.write ((session false []).cmOf 4096 2047) [⟨0, true⟩] }
       (s.readWin (s.cmOf 4096 0) 2048).any PByte.p = true) := by decide +kernel
/-! ## Witnesses: events of start, clock, time and cores -/

/-- The first step done, and one that has failed. -/
def booted (step : Nat) : State := { State.reset with devstat := BitVec.ofNat 64 (16 * step) }
/-- Each step after the one before it; after a failure; while a new PSC image has not reported; the limits of clock, heat and time. -/
theorem witness_StartClockAndTimeEventsAct : (∀ n ∈ [2, 3, 4, 5, 6], (booted (n - 1)).startStep + 1 = n
      ∧ (booted (n - 1)).devstat.getLsbD 1 = false ∧ ((booted (n - 1)).fwk 1).trial = false)
    ∧ { booted 1 with devstat := 18 }.devstat.getLsbD 1 = true ∧ (booted 0).startStep + 1 ≠ 2
    ∧ (((booted 1).setFw 1 { FwKind.reset with trial := true }).fwk 1).trial = true
    ∧ (State.reset.die 0).coolAt + 1000000 ≤ { State.reset with now := 1000000 }.now ∧ State.reset.now < (State.reset.die 0).coolAt + 1000000
    ∧ (4 : Int).natAbs ≤ 4 ∧ 4 < (-5 : Int).natAbs ∧ (State.reset.timeOf (.cluster 95)).st ≠ .unsync
    ∧ (0 : Int) = (State.reset.timeOf (.cluster 95)).off ∧ (5 : Int) ≠ (State.reset.timeOf (.cluster 95)).off
    ∧ (4 : Int) - State.reset.edgeDelay = ((({ State.reset with podTime := { TimeCopy.reset with off := 4 } } : State).timeOf .pod)).off
    ∧ 64 ≤ ((State.reset.setCluster 95 { Cluster.reset with time := { TimeCopy.reset with st := .hold, lost := 63 } }).timeOf
        (.cluster 95)).lost + 1 := by decide +kernel
/-- R473: 5 % under the limit the clock rises, but not beyond 2 GHz; over it, it falls, but not below 1.2 GHz. -/
theorem test_power : (after (.powerSample 1900001) State.reset).clock = 1900 ∧ (after (.powerSample 1805000) State.reset).clock = 2000
    ∧ (after (.powerSample 1900001) { State.reset with clock := 1200 }).clock = 1200 := by decide +kernel
/-- R32: the second step in order, and out of order. -/
theorem test_start : (after (.stackBringup (some [])) (booted 1)).devstat = 32 ∧ (after (.stackBringup none) (booted 1)).devstat = 34
    ∧ (after (.combLock true) (booted 1)).devstat = 16 := by decide +kernel

/-- A task with two READY threads on core 0. -/
def duo (k : Task) (p q : Word) : State :=
  with_ k [(0, { Thread.empty with st := .ready, pc := p }), (3, { Thread.empty with st := .ready, pc := q })] 0
/-- A group of two; a group of one, whose pc a table entry matches. -/
theorem witness_IssueGroupsForm : (duo Task.blank 0x40 0x40).issuing = [] ∧ (duo Task.blank 0x40 0x40).running 0 = some 4096
    ∧ ((duo Task.blank 0x40 0x40).task 4096).pmen = false
    ∧ ((duo Task.blank 0x40 0x40).task 4096).chosen ((duo Task.blank 0x40 0x40).core 0).preempt = some 0 := by decide +kernel
/-- R130: the group's threads issue in rotation order, and the pointer moves past the chosen one. -/
theorem test_group_forms : (after (.issueGroupForm 0) (duo Task.blank 0x40 0x40)).issuing = [(4096, 0), (4096, 3)]
    ∧ ((after (.issueGroupForm 0) (duo Task.blank 0x40 0x40)).task 4096).rot = 1
    ∧ (after (.issueGroupForm 0) (duo Task.blank 0x40 0x44)).issuing = [(4096, 0)] := by decide +kernel
/-- A task whose table matches pc 0x40 for every slot, with PMEN set. -/
def matching : Task := { Task.blank with pmctl := 0x1001, pmt := [(0, 0x41)] }
/-- A thread in a PC-match handler that has issued n instructions and came from p. -/
def spending (n : Nat) (p : Word) : State := one matching { regs [] [] with shadow := some ⟨p, [(5, 9)], 0, 0, 1, n⟩, pmepc := p }
/-- A thread that a spent handler of the last slot may have. -/
theorem witness_MatchedThreadsEnterHandlers : (duo matching 0x40 0x44).running 0 = some 4096
    ∧ ((duo matching 0x40 0x44).task 4096).chosen ((duo matching 0x40 0x44).core 0).preempt = some 0
    ∧ ((duo matching 0x40 0x44).task 4096).members ((duo matching 0x40 0x44).core 0).preempt 0 = [0]
    ∧ ((duo matching 0x40 0x44).task 4096).matchesNow 0 = some 0 ∧ ((duo matching 0x40 0x44).task 4096).shadowHolder = none := by decide +kernel
/-- R494: the handler of entry 0 stands at the base that PMCTL names. -/
theorem test_match : ((after (.issueGroupForm 0) (duo matching 0x40 0x44)).thread 4096 0).pc = 0x1000
    ∧ ((after (.issueGroupForm 0) (duo matching 0x40 0x44)).thread 4096 0).pmepc = 0x40
    ∧ (after (.issueGroupForm 0) (duo matching 0x40 0x44)).issuing = [] := by decide +kernel
theorem witness_SpentHandlersEnd : (spending 1024 0x40).running 0 = some 4096 ∧ ((spending 1024 0x40).thread 4096 0).shadow = some ⟨0x40, [(5, 9)], 0, 0, 1, 1024⟩
    ∧ ((spending 1024 0x40).thread 4096 0).st = .ready ∧ ((spending 1024 0x40).thread 4096 0).pmepc.toNat % 4 = 0
    ∧ (∀ j < 16, j ≠ 0 → ((spending 1024 0x40).thread 4096 j).shadow = none) := by decide +kernel
/-- R496: at 1,024 instructions the handler ends; at 1,023 it goes on. -/
theorem test_spent : ((after (.handlerInstructionLimit 0) (spending 1024 0x40)).thread 4096 0).pc = 0x40
    ∧ ((after (.handlerInstructionLimit 0) (spending 1023 0x40)).thread 4096 0).pc = 0x1000 := by decide +kernel
/-- A core that a debugger has stopped; a confidential context. -/
theorem witness_DebuggersStopAndResume : (duo Task.blank 0x40 0x40).running 0 = some 4096
    ∧ ((duo Task.blank 0 0).thread 4096 3).live = true ∧ ((duo Task.blank 0 0).thread 4096 3).packet = none
    ∧ ((duo Task.blank 0 0).thread 4096 3).shadow = none ∧ ((duo Task.blank 0 0).thread 4096 3).st ≠ .debug
    ∧ (let s := (duo Task.blank 0 0).setCore 0 { (duo Task.blank 0 0).core 0 with dbgStop := true, dbgHeld := true }
       s.running 0 = some 4096 ∧ (s.core 0).dbgStop = true ∧ (s.core 0).msgs = [])
    ∧ (let s := State.reset.setCore 1535 { Core.reset with dbgStop := true, msgs := [.entry true ⟨default, []⟩] }
       s.running 1535 = none ∧ (s.core 1535).dbgStop = true ∧ (s.core 1535).msgs = [.entry true ⟨default, []⟩])
    ∧ (with_ Task.blank [(0, { Thread.empty with st := .debug, prior := .ready })] 0).thread 4096 0 = { Thread.empty with st := .debug, prior := .ready }
    ∧ bitAt (((duo Task.blank 0 0).setCtx 0 { Context.reset with desc := { (default : CtxDesc) with flags := 1 } }).ctx
        ((duo Task.blank 0 0).task 4096).ctx).desc.flags 0 = true := by decide +kernel
/-- R491: stopped and resumed, a thread has its state again. -/
theorem test_debug : let s := duo Task.blank 0x40 0x40
    ((after (.debugStopRequest 0 true) s).thread 4096 3).st = .debug
    ∧ ((after (.debugResumeRequest 0 true) (after (.debugStopRequest 0 true) s)).thread 4096 3).st = .ready := by decide +kernel
/-- Two threads that wait at rendezvous points that nobody else reaches. -/
def locked : State := with_ { Task.blank with points := [(1, ⟨2, 0, [(0, 0, false, 0)]⟩), (2, ⟨2, 0, [(3, 0, false, 0)]⟩)] }
  [(0, { Thread.empty with st := .waiting (.rdv 1), pc := 0x80 }), (3, { Thread.empty with st := .waiting (.rdv 2) })] 0
theorem witness_DeadlocksStopControlThread : locked.running 0 = some 4096 ∧ (locked.task 4096).deadlocked = true
    ∧ (locked.thread 4096 0).live = true ∧ ((duo Task.blank 0 0).task 4096).deadlocked = false := by decide +kernel
theorem test_deadlock : ((after (.deadlockDetect 0) locked).thread 4096 0).frec.map (fun r => (r.code, r.pc)) = some (0x0B, 0x80) := by
  decide +kernel
/-- A thread that holds words and waits. -/
def holding (slot : Nat) (wt : Wait) (w : Nat × Nat × Nat) (x : AMap Word) : State :=
  with_ Task.blank [(slot, { regs x [] with st := .waiting wt, held := some w })] slot
theorem witness_ExitsComplete : (holding 2 .retire (0x0100A058, 0, 4) []).running 0 = some 4096
    ∧ ((holding 2 .retire (0x0100A058, 0, 4) []).thread 4096 2).st = .waiting .retire
    ∧ ((holding 2 .retire (0x0100A058, 0, 4) []).thread 4096 2).held = some (0x0100A058, 0, 4)
    ∧ 0x0100A058 % 256 = 0x58 ∧ 0x0100A058 / 2 ^ 23 = 2 ∧ 0x0280A058 % 256 = 0x58 ∧ 0x0280A058 / 2 ^ 23 = 5 := by decide +kernel
/-- R137: the helper's exit value is that of the register that the held word names. -/
theorem test_hexit_complete : (((after (.hexitComplete 0 2) (holding 2 .retire (0x0100A058, 0, 4) [(5, 77)])).thread 4096 2).st,
    ((after (.hexitComplete 0 2) (holding 2 .retire (0x0100A058, 0, 4) [(5, 77)])).thread 4096 2).exitVal) = (.exited, 77) := by decide +kernel
/-- A queue with two entries of different slots. -/
def sfuTask : Task := { Task.blank with sfu := [⟨0, default, false⟩, ⟨3, default, false⟩] }
theorem witness_SfuEntriesComplete : ((duo sfuTask 0 0).task 4096).sfu[1]? = some ⟨3, default, false⟩ ∧ (⟨3, default, false⟩ : SfuEntry).cancelled = false
    ∧ (∀ o ∈ ((duo sfuTask 0 0).task 4096).sfu.take 1, o.slot ≠ 3) := by decide +kernel
/-- Tile 15 free, owned by this kernel and by another; a value whose rows fill the tile. -/
theorem witness_TcfgWritesConfigureTiles : (tiled []).running 0 = some 4096 ∧ ((tiled []).task 4096).core = 0
    ∧ tcfgValid (AMap.get ((tiled []).cluster 0).tcfg 15 0) = false ∧ ((tiled []).cluster 0).tileBusy 15 = false
    ∧ tcfgOwner (AMap.get ((tiled []).cluster 0).tcfg 2 0) = ((tiled []).task 4096).kid % 65536 ∧ ((tiled []).cluster 0).tileBusy 2 = false
    ∧ tcfgValid (0x1037F &&& 0x1C77F) = true ∧ tcfgRows (0x1037F &&& 0x1C77F) * tcfgRow (0x1037F &&& 0x1C77F) ≤ 69632
    ∧ tcfgOwner (AMap.get ({ Cluster.reset with tcfg := [(0, 0x0002000000018000)] } : Cluster).tcfg 0 0) ≠ 1 := by decide +kernel
/-- With and without the PHASE right; a core held by a debugger; a monitor on and one off. -/
theorem witness_SpecialRegistersTakeWrites : (lit []).running 0 = some 4096 ∧ ((lit []).task 4096).core = 0
    ∧ ((lit []).task 4096).phaseHere = true ∧ ((tiled []).task 4096).phaseHere = false
    ∧ (((tiled []).setCore 0 { (tiled []).core 0 with dbgHeld := true }).core 0).dbgHeld = true
    ∧ (({ Core.reset with mons := [(3, Monitor.cleared 1)] } : Core).mon 3).cfg.toNat % 256 ≠ 0 ∧ (Core.reset.mon 3).cfg.toNat % 256 = 0
    ∧ (({ Core.reset with mons := [(3, Monitor.cleared 15)] } : Core).mon 3).cfg.toNat % 256 < 16
    ∧ 16 ≤ (({ Core.reset with mons := [(3, Monitor.cleared 16)] } : Core).mon 3).cfg.toNat % 256 := by
  decide +kernel

/-! ## Witnesses: events of pages and remote operations -/

/-- The page that `paged` maps, with a lease of class 1, and a thread that waits for its translation. -/
def walking : State :=
  let s := paged pg []
  { s.setThread 4096 0 { s.thread 4096 0 with st := .waiting (.page 0xFF80000000400080) } with
    mem := s.mem.writeSp .dev 0x30201 [⟨0x10, false⟩] 1 }
/-- The leaf of that page. -/
def walked (w : Walk) : Option (Word × Nat × Bool) := match w with | .leaf e n p => some (e, n, p) | _ => none
theorem witness_WalksFillTranslations : (walking.cluster 0).time.st ≠ .unsync ∧ (walking.die 0).time.st ≠ .unsync ∧ regionOf (0xFF80000000400080 : Word).toNat = .dev
    ∧ walked (walking.walkDev 0 0xFF80000000400080) = some (0x1000100F, 65536, false) ∧ leafMig 0x1000100F = false
    ∧ leafPoi 0x1000100F = false ∧ leafLease 0x1000100F ≠ 0 ∧ walking.podOk (walking.leaseOf false 0x1000100F false).2 = true
    ∧ walking.walkAsked 0 0 0xFF80000000400080 = true ∧ walking.running 0 = some 4096 ∧ walking.bufferOf 0 0 = none
    ∧ (walking.task 4096).ctx = 0 ∧ (walking.thread 4096 0).st = .waiting (.page 0xFF80000000400080) := by decide +kernel
/-- R398, R399: class 1 gives 512 ns, and at that time the translation is gone. -/
theorem test_lease : ((after (.pageWalk 0 0 0xFF80000000400080) walking).cluster 0).tlb.map Trans.expiry = [512]
    ∧ ((after (.leaseExpiry 0) { after (.pageWalk 0 0 0xFF80000000400080) walking with now := 511 }).cluster 0).tlb.length = 1
    ∧ ((after (.leaseExpiry 0) { after (.pageWalk 0 0 0xFF80000000400080) walking with now := 512 }).cluster 0).tlb = [] := by decide +kernel

/-- One buffered byte for the object's line, under that translation. -/
def entry1 : BufStore :=
  { age := 7, parts := [⟨0xFF80000000400080, 0xFF80000000400080, [⟨1, false⟩],
      { (default : Trans) with page := 0xFF80000000400080 / 65536, size := 65536, leaf := 0x1000100F, expiry := 512 }, none⟩] }
/-- A state with it at the head of slot 0's buffer. -/
def buffering (s : State) : State := s.setThread 4096 0 { s.thread 4096 0 with wbuf := [entry1] }
/-- A home that is ready without and with an active object; a lost stack. -/
theorem witness_StoresPerformAtHome :
    (∀ h ∈ [true, false], let s := buffering (if h then (objs [(4096, 1, true)] []).setObjField (paKey 0x40080) 0x18 1 else paged pg [])
      s.bufferOf 0 0 = some 4096 ∧ (s.thread 4096 0).wbuf = [entry1] ∧ isView (leafFmt 0x1000100F) = false
      ∧ ∀ p ∈ entry1.parts, s.meetsAny p ((s.task 4096).olderParts 7) = false ∧ s.home p.tr p.va p.bytes.length = .ready ∧ s.lineActive (s.storageLines p.tr p.va p.bytes.length) = h)
    ∧ (let s := buffering ((paged pg []).setStack (paStack 0x40080) { Stack.reset with lost := true })
       s.bufferOf 0 0 = some 4096 ∧ ∀ p ∈ entry1.parts, s.home p.tr p.va p.bytes.length = .lost) := by decide +kernel
/-- R223, R230: the byte is at its home and the buffer empty; at an active object 0x64 pends and memory keeps its byte. -/
theorem test_store_perform :
    (let t := after (.storePerform 0 0 0) (buffering (paged pg []))
     (t.thread 4096 0).wbuf = [] ∧ t.mem.pbyte (paKey 0x40080) = ⟨1, false⟩)
    ∧ (let s := buffering ((objs [(4096, 1, true)] []).setObjField (paKey 0x40080) 0x18 1)
       let t := after (.storePerform 0 0 0) s
       (t.task 4096).pend.map (fun p => (p.code, p.addr)) = [(0x64, 0xFF80000000400080)] ∧ t.mem = s.mem) := by decide +kernel

/-- amoadd.w x8, x5, x6 in a thread that waits for its turn. -/
theorem witness_HeldAtomicsTakeTurn : (holding 0 .walker (0x01062850, 0, 4) []).running 0 = some 4096
    ∧ ((holding 0 .walker (0x01062850, 0, 4) []).thread 4096 0).st = .waiting .walker
    ∧ ((holding 0 .walker (0x01062850, 0, 4) []).thread 4096 0).held = some (0x01062850, 0, 4)
    ∧ (heldAtomic 0x01062850 0).isSome = true := by decide +kernel

/-- The last entry that a page table can hold; a wait that has ended and one that has not. -/
theorem witness_RevokedFramesWait : (2 ^ 42 - 8) % 8 = 0 ∧ 2 ^ 42 - 8 < 2 ^ 42 ∧ revokes 0x1000100F 0 = true
    ∧ revokes 0x1000100F 0x1000100F = false
    ∧ ({ State.reset with reuse := [⟨0x40000, 600, 0, false⟩], now := 600 } : State).reuse[0]? = some ⟨0x40000, 600, 0, false⟩
    ∧ ({ State.reset with reuse := [⟨0x40000, 600, 0, true⟩] } : State).reuse[0]? = some ⟨0x40000, 600, 0, true⟩ ∧ (600 : Nat) ≤ 600 ∧ (599 : Nat) < 600
    ∧ endsMove 0x1000104F 0x2000100F = true ∧ beginsMove 0x1000100F 0x1000104F = true := by decide +kernel
/-- R405: clearing PRES frees the frame after L + 2S = 512 + 16 ns. -/
theorem test_revoke : (after (.firmwareLeafStore 0 0x30200 0 1 false) walking).reuse = [⟨0x40000, 528, 0, false⟩]
    ∧ (after (.frameReuseWaitElapsed 0) { after (.firmwareLeafStore 0 0x30200 0 1 false) walking with now := 528 }).reuse = []
    ∧ (after (.frameReuseWaitElapsed 0) { after (.firmwareLeafStore 0 0x30200 0 1 false) walking with now := 527 }).reuse.length = 1 := by
  decide +kernel
/-- An answered request and one too early; a poison list of 15 and of 16 entries. -/
theorem witness_HostExtentsGo : ({ State.reset with ats := [⟨0x1000, 4096, 16⟩], now := 16 } : State).ats[0]? = some ⟨0x1000, 4096, 16⟩
    ∧ State.reset.atsQuiet 0x1000 4096 = true ∧ State.reset.now < 16
    ∧ (State.reset.setCluster 3 { Cluster.reset with tlb := [{ (default : Trans) with page := 0x1, size := 4096, host := true, expiry := 9 }] }).atsQuiet
        0x1000 4096 = false
    ∧ ((List.range 15).map fun i => (8192 * i, 4096)).length < 16
    ∧ (∀ e ∈ (List.range 16).map fun i => (8192 * i, 4096), e.1 < 2 ^ 64) := by decide +kernel
/-- R412: an extent beyond the sixteenth merges two of them. -/
theorem test_forced_release : (after (.dcdForcedRelease 0x100000 4096)
    { State.reset with hostPoison := (List.range 16).map fun i => (8192 * i, 4096) }).hostPoison.length = 16 := by decide +kernel

/-- A read of 8 bytes at 0x40080 from module 1, numbered 5, that expires at e. -/
def asked (e : Nat) : Packet :=
  { (default : Packet) with src := 1, kind := 0, opseq := 5, addr := 0x40080, len := 8, expiry := e }
/-- A module whose internal ports are up. -/
def inside : State := { State.reset with ports := (List.range 12).map fun i => (96 + i, { Port.reset (96 + i) with st := .up }) }
/-- A record of it; none; an expiry within and beyond the pod bound; no stack in SELF. -/
theorem witness_TargetsAnswerRequests : (asked 40).kind ≤ 2
    ∧ ({ State.reset with targets := [⟨1, 5, asked 40, 0⟩] } : State).targets.find? (fun r => r.src == (asked 40).src && r.opseq == (asked 40).opseq)
        = some ⟨1, 5, asked 40, 0⟩
    ∧ (∀ r ∈ State.reset.targets, r.src = (asked 40).src → r.opseq ≠ (asked 40).opseq) ∧ (asked 40).expiry ≤ State.reset.now + 40
    ∧ State.reset.now + 40 < (asked 41).expiry ∧ inside.wayIn (asked 41) = true ∧ (∀ k ∈ touchedStacks (asked 41), (inside.stack k).th ≠ .self)
    ∧ touchedStacks (asked 41) ≠ [] ∧ (∀ j ∈ touchedStacks (asked 41), j = paStack 0x40080)
    ∧ ((inside.setStack (paStack 0x40080) { Stack.reset with th := .self }).stack (paStack 0x40080)).th = .self
    ∧ ((inside.setStack (paStack 0x40080) { Stack.reset with th := .self }).stack (paStack 0x40080)).lost = false
    ∧ (inside.setStack (paStack 0x40080) { Stack.reset with th := .self }).wayIn (asked 41) = true := by decide +kernel
/-- The requester's side of it, and a thread that waits for its bytes. -/
def awaiting (now : Nat) (who : RemoteFor) : State :=
  { holding 0 .remote (0x57, 0, 4) [] with
    remotes := [{ target := 1, opseq := 5, who := who, pkt := asked 41, first := 0, last := 0, held := false }], now := now }
/-- The response to it. -/
def answer1 : Packet := { (default : Packet) with src := 1, kind := 3, opseq := 5, len := 8, data := List.replicate 8 7 }
theorem witness_RequestersEndOperations : 3 ≤ answer1.kind ∧ answer1.kind ≤ 5 ∧ answer1.notPerf = false
    ∧ (∀ r ∈ State.reset.remotes, r.target = answer1.src → r.opseq ≠ answer1.opseq)
    ∧ (awaiting 0 (.load 4096 0 0)).remotes.map (fun r => (r.target, r.opseq)) = [(answer1.src, answer1.opseq)]
    ∧ (awaiting 0 (.load 4096 0 0)).ldrains = [] ∧ ((awaiting 0 (.load 4096 0 0)).thread 4096 0).waits = true
    ∧ 0 + 20000 ≤ (awaiting 20000 (.engine 4096 0)).now ∧ (awaiting 19999 (.engine 4096 0)).now < 0 + 20000
    ∧ 0 + 100000 ≤ (awaiting 100000 (.engine 4096 0)).now
    ∧ (awaiting 100000 (.engine 4096 0)).remotes.map (awaiting 100000 (.engine 4096 0)).inChange = [false] := by decide +kernel
/-- R439: the bytes reach the thread; R440: after 20 µs, not before, the request goes out again. -/
theorem test_response : ((after (.remoteResponseReceive answer1) (awaiting 0 (.load 4096 0 3))).thread 4096 0).got
      = [(3, List.replicate 8 ⟨7, false⟩)]
    ∧ (after (.remoteRetryTimeout 1 5) (awaiting 20000 (.engine 4096 0))).remotes.map RemoteOp.last = [20000]
    ∧ (after (.remoteAbandonTimeout 1 5) (awaiting 100000 (.engine 4096 0))).remotes = [] := by decide +kernel

/-- A module whose entry for module 2 names ports 3 and 4, with these credits on virtual channel 0, and a packet that came by port 9. -/
def routed (c3 c4 : Nat) : State :=
  let lane (c : Nat) : Lane := { Lane.reset with waves := 255, credits := [(0, c)] }
  let port (n : Nat) (c : Nat) : Port := { Port.reset n with st := .up, order := n, lanes := [lane c, Lane.reset] }
  { State.reset with
    ports := [(3, port 3 c3), (4, port 4 c4), (9, port 9 0)], route := [(2, 127 * 2 ^ 21 + 127 * 2 ^ 14 + 4 * 2 ^ 7 + 3)]
    vqueue := [⟨0, 0, some (9, 0, 1), { asked 99 with dst := 2 }⟩] }
/-- More credits on the second candidate; equal ones; no entry; a lane that takes the packet, and one without credits. -/
theorem witness_PacketsAreForwarded : (routed 1 2).vqueue[0]? = some ⟨0, 0, some (9, 0, 1), { asked 99 with dst := 2 }⟩ ∧ (2 : Nat) ≠ (routed 1 2).self
    ∧ (routed 1 2).pick 0 0 2 = some (4, 0) ∧ (routed 1 1).pick 0 0 2 = some (3, 0) ∧ (routed 1 1).pick 0 0 9 = none
    ∧ (routed 1 2).canTake 4 ((routed 1 2).bestLane 4 0) 0 (((packetBytes { asked 99 with dst := 2 }).length + 239) / 240) = true
    ∧ (routed 0 0).pick 0 0 2 = some (3, 0) ∧ (routed 0 0).canTake 3 ((routed 0 0).bestLane 3 0) 0 1 = false := by decide +kernel
/-- R437, R435: it leaves by port 4, as one flit with SOP and EOP that takes SEQ 0, and the port that it came by owes its credit no more: an IDLE
flit has returned it. -/
theorem test_forward : (((after (.packetForward 0) (routed 1 2)).port 4).lane 0).out.map (fun f => (f.ty, f.seq, f.sop, f.eop, f.words)) = [(1, 0, true, true, 8)]
    ∧ (((after (.packetForward 0) (routed 1 2)).port 9).lane 0).out.map (fun f => (f.ty, f.crvc, f.crcnt)) = [(0, 0, 1)]
    ∧ (after (.packetForward 0) (routed 1 2)).vqueue = [] := by decide +kernel
/-! ## Witnesses: events of the engines -/

/-- A copy of core 0's queue that sets bytes, at an address of core memory. -/
def setCopy1 (dst : Word) (off : Nat) : CopyOp := { blankCopy (st [] []) 2 with seq := 4, dst := dst, len := 520, off := off }
/-- The state with it in its engine. -/
def copying (s : State) (o : CopyOp) : State := inCluster s fun c => { c with copies := [o] }
/-- A first unit of 512 bytes, and a last one of 8 at the window's end. -/
theorem witness_CopyUnitsMove : ∀ o ∈ [setCopy1 0xFFFFFFFFFFF80000 0, setCopy1 (2 ^ 64 - 520) 512],
    (copying (st [] []) o).copyAt 0 o.seq = some o ∧ o.cluster = 0 / 16 ∧ o.fn = 2 ∧ o.raw = false ∧ o.isTile = false ∧ o.toTile = false
    ∧ o.row = 0 ∧ o.rows = 1 ∧ ((copying (st [] []) o).task o.tid).onCore = true ∧ o.off < o.len ∧ cmBase ≤ o.dst.toNat ∧ o.dst.toNat + o.len ≤ 2 ^ 64
    ∧ (∀ i < o.len, (copying (st [] []) o).cmHole o.tid (o.dst.toNat + i - cmBase) = false) ∧ o.off + o.unitSize ≤ o.len := by decide +kernel
/-- What the next unit of a copy does: bytes moved, a stall, or a fault. -/
def unitOut (s : State) (o : CopyOp) : String × Nat :=
  match (s.unit o (s.unitSize o)).2.2 with | .moved n => ("moved", n) | .stall _ => ("stall", 0) | .fail c _ => ("fail", c)
/-- Units that move 512 bytes and the 8 of a comparison's result, one whose page is not there, and one that no access may reach. -/
theorem witness_CopyUnitsMove_any : unitOut (copying (st [] []) (setCopy1 0xFFFFFFFFFFF80000 0)) (setCopy1 0xFFFFFFFFFFF80000 0) = ("moved", 512)
    ∧ unitOut walking (setCopy1 0xFF80000010000000 0) = ("stall", 0) ∧ unitOut walking (setCopy1 0x0080000000000000 0) = ("fail", 0x14)
    ∧ (let o := { blankCopy (st [] []) 4 with seq := 4, res := 0xFFFFFFFFFFF80000 }
       o.compared = true ∧ unitOut (copying (st [] []) o) o = ("moved", 8)) := by decide +kernel
/-- R248: the pattern's bytes are written, and the last unit retires the copy. -/
theorem test_copy_unit : let s := copying (st [] []) { setCopy1 (2 ^ 64 - 520) 512 with patt := 0x0102030405060708 }
    (after (.copyUnit 0 4) s).mem.pbyte (s.cmOf 4096 (2 ^ 64 - 8 - cmBase)) = ⟨8, false⟩ ∧ ((after (.copyUnit 0 4) s).cluster 0).copies = [] := by
  decide +kernel

/-- A copy that moves from the page of `walking`, under a translation with this leaf. -/
def renewing (leaf : Word) (expiry : Nat) : CopyOp :=
  { blankCopy (st [] []) 0 with
    seq := 4, src := 0xFF80000000400080, len := 8
    trs := [{ (default : Trans) with page := 0xFF80000000400080 / 65536, size := 65536, leaf := leaf, expiry := expiry }] }
/-- A translation that is not yet due; one that is, of the page as it was, and one of another frame. -/
theorem witness_CopiesRenewLeases : (copying walking (renewing 0x1000100F 257)).copyAt 0 4 = some (renewing 0x1000100F 257)
    ∧ (∀ x ∈ (renewing 0x1000100F 257).trs, (copying walking (renewing 0x1000100F 257)).near 0 x = false)
    ∧ (∀ x ∈ (renewing 0x1000100F 256).trs, let s := copying walking (renewing 0x1000100F 256)
      s.near 0 x = true ∧ s.unitIn (renewing 0x1000100F 256) x = some 0xFF80000000400080
      ∧ (match (s.walkFor 0 (s.task 4096).ctx 0xFF80000000400080).2 with
        | .ok u => !x.changed u && ((renewing 0x1000100F 256).needs x).all (permits u.leaf) | .wait _ => false) = true)
    ∧ (∀ x ∈ (renewing 0x2000100F 256).trs, let s := copying walking (renewing 0x2000100F 256)
      s.near 0 x = true ∧ (renewing 0x2000100F 256).onMigPage x = false
      ∧ s.unitIn (renewing 0x2000100F 256) x = some 0xFF80000000400080
      ∧ (match (s.walkFor 0 (s.task 4096).ctx 0xFF80000000400080).2 with | .ok u => x.changed u | .wait _ => false) = true) := by
  decide +kernel
theorem test_renew_moved : ((after (.copyLeaseRenewal 0 4) (copying walking (renewing 0x2000100F 256))).task 4096).pend.map (fun p => (p.code, p.addr))
    = [(0x62, 0xFF80000000400000)] := by decide +kernel
/-- Empty queues; a queue whose unit of 512 bytes is dearer than a deficit of 511, and one that it fits. -/
theorem witness_IdleQueuesKeepNoDeficit : (∀ i < 16, State.reset.queueOf (16 * 95 + i) = [])
    ∧ (let o := setCopy1 0xFFFFFFFFFFF80000 0
       let s (d : Nat) : State := inCluster (copying (st [] []) o) fun c => { c with deficit := [(0, d)] }
       (∀ x ∈ ((s 511).queueOf 0).take 8, AMap.get ((s 511).cluster 0).deficit 0 0 < (s 511).unitSize x) ∧ ((s 512).queueOf 0).take 8 = [o]
       ∧ (s 512).unitSize o ≤ AMap.get ((s 512).cluster 0).deficit 0 0 ∧ ((s 512).copyStep o).2 = some 512 ∧ (s 0).unitReady 0 = true) := by decide +kernel
/-- R238: the default weight of 16 pays a first unit of 512 bytes; one of weight 1 saves for it. -/
theorem test_round : let s (w : Nat) : State := inCluster (copying (st [] []) (setCopy1 0xFFFFFFFFFFF80000 0)) fun c => { c with weight := [(0, w)] }
    ((after (.cmeArbitrationRound 0) (s 16)).cluster 0).copies.map CopyOp.off = [512]
    ∧ ((after (.cmeArbitrationRound 0) (s 1)).cluster 0).copies.map CopyOp.off = [0]
    ∧ AMap.get ((after (.cmeArbitrationRound 0) (s 1)).cluster 0).deficit 0 0 = 32 := by decide +kernel

/-- An operation issued by the waiting thread, with n operations staged before it. -/
def arriving (s : State) (n : Nat) (k : OmuKind) : State :=
  let o := s.newOmu k 7 none []
  inCluster (s.setThr { s.thr with st := .waiting .omu, held := some (0, 0, 8) }) fun c =>
    { c with issued := [o], staged := List.replicate n o }
/-- Room for the last staging entry; a bank that is not there to be trimmed. -/
theorem witness_OperationsArrive : ((arriving (lit []) 31 (.tzero 2)).issuedOp 4096 0).isSome = true
    ∧ ((arriving (lit []) 31 (.tzero 2)).thread 4096 0).st = .waiting .omu
    ∧ ((arriving (lit []) 31 (.tzero 2)).thread 4096 0).held = some (0, 0, 8) ∧ (arriving (lit []) 31 (.tzero 2)).running 0 = some 4096
    ∧ ((arriving (lit []) 31 (.tzero 2)).core ((arriving (lit []) 31 (.tzero 2)).task 4096).core).dbgStop = false
    ∧ (arriving (lit []) 31 (.tzero 2)).arrivalFault 0 ((lit []).newOmu (.tzero 2) 7 none []) = none
    ∧ ((arriving (lit []) 31 (.tzero 2)).cluster 0).staged.length < 32
    ∧ (arriving (tiled []) 0 (.phtrim 2)).arrivalFault 0 ((tiled []).newOmu (.phtrim 2) 7 none []) = some 0x24 := by decide +kernel
/-- R294, R295: the thread goes on with the operation's number in x7. -/
theorem test_arrival : ((after (.passArrival 0 0) (arriving (lit []) 31 (.tzero 2))).thread 4096 0).st = .ready
    ∧ ((after (.passArrival 0 0) (arriving (lit []) 31 (.tzero 2))).thread 4096 0).xr 7 = 1 := by decide +kernel

/-- A pass of bank 15 staged on cluster 0, with or without its weights; number 1 of tl1. -/
def pass15 : OmuOp := { (lit []).newOmu (.pass { pass1 with bank := 15 } 0 false) 7 none [15] with seq := 1 }
/-- The unit's state around it. -/
def unit (f : Cluster → Cluster) : State := inTask (inCluster (lit []) f) fun k => { k with tl := [(1, ⟨1, [1]⟩)] }
theorem witness_PassesStream : ∀ l ∈ [(0 : BitVec 16).toNat, 2 ^ 15],
    let s := unit fun c => { c with staged := [pass15], loaded := l }
    (s.cluster 0).nextOp = some pass15 ∧ s.omuAvail 0 = true ∧ (s.cluster 0).omuHeld.length < 16
    ∧ pass15.banks.all (bitAt (s.cluster 0).loaded) = decide (l ≠ 0) ∧ pass15.banks.Nodup := by decide +kernel
theorem witness_PassesAreDetected : let s := unit fun c => { c with flight := some pass15, loaded := 2 ^ 15, since := [(15, 16)] }
    (s.cluster 0).flight = some pass15 ∧ (s.cluster 0).omuHeld = [] ∧ pass15.open_ ≠ []
    ∧ (s.cluster 0).phprobe ≤ AMap.get (s.cluster 0).since 15 0 := by decide +kernel
/-- R304: sixteen passes since the bank's last probe make one due; fifteen do not. -/
theorem test_detected : ((after (.passDetected 0) (unit fun c => { c with flight := some pass15, loaded := 2 ^ 15, since := [(15, 16)] })).cluster 0).due = [15]
    ∧ ((after (.passDetected 0) (unit fun c => { c with flight := some pass15, loaded := 2 ^ 15, since := [(15, 15)] })).cluster 0).due = [] := by
  decide +kernel
/-- A HELD pass whose last open bank is 15. -/
def closing : State := unit fun c => { c with omuHeld := [pass15], loaded := 2 ^ 15 }
theorem witness_ProbesCloseWindows : (15 : Nat) < 16 ∧ closing.omuAvail 0 = true ∧ bitAt (closing.cluster 0).loaded 15 = true
    ∧ (closing.cluster 0).flight = none ∧ (closing.cluster 0).due = [] ∧ (closing.cluster 0).staged = [] ∧ (closing.cluster 0).copies = []
    ∧ (closing.cluster 0).omuHeld = [pass15] ∧ pass15.open_ = [15] ∧ (AMap.find? closing.tasks pass15.tid).isSome = true := by decide +kernel
/-- R303, R305: where 0 is expected, a response of -5 is a residual of 5, over DRLIMIT, and fails the pass with 0x20; the warning is at more than
half the limit. -/
theorem test_probe : ((after (.omuProbe 0 15 [-5]) closing).task 4096).pend.map (fun p => (p.code, p.seq)) = [(0x20, 1)]
    ∧ ((after (.omuProbe 0 15 [-5]) closing).cluster 0).drwarn = true ∧ ((after (.omuProbe 0 15 [-5]) closing).cluster 0).emax = 5
    ∧ ((after (.omuProbe 0 15 [2]) closing).cluster 0).drwarn = false := by decide +kernel

/-- An operation of tl1 next on cluster 0. -/
def nextOn (k : OmuKind) (f : Cluster → Cluster) : State :=
  unit fun c => f { c with staged := [{ (lit []).newOmu k 7 none [] with seq := 1 }] }
theorem witness_TilesAreComputed : (List.replicate 8 (0 : Int)).length = 8
    ∧ ∀ k ∈ [OmuKind.tzero 2, .tacc 2 3], ((nextOn k id).cluster 0).nextOp.map OmuOp.kind = some k
      ∧ (AMap.find? (nextOn k id).tasks 4096).isSome = true := by decide +kernel
/-- R307: a byte of the tile, with its poison, is gone. -/
theorem test_tzero : ((after (.omuTzero 0) { nextOn (.tzero 2) id with mem := { cells := [(tileKey 0 2 69631, 9)], pois := [tileKey 0 2 69631 / 8] } }).mem)
    = { cells := [], pois := [] } := by decide +kernel
/-- A bank not loaded, and one loaded whose probe before the operation has run. -/
theorem witness_PhaseOperationsRun : (∀ k ∈ [OmuKind.phtrim 15, .phrd 15 0xFFFFFFFFFFF80000, .phinv 15],
      ((nextOn k id).phaseNext 0).map OmuOp.kind = some k ∧ ((nextOn k id).cluster 0).omuHeld = [] ∧ bitAt ((nextOn k id).cluster 0).loaded 15 = false
      ∧ bitAt ((nextOn k fun c => { c with loaded := 2 ^ 15 }).cluster 0).loaded 15 = true ∧ ((nextOn k id).cluster 0).drlimit = 4
      ∧ ((nextOn k fun c => { c with loaded := 2 ^ 15, staged := c.staged.map fun o => { o with probed := true } }).phaseNext 0).map OmuOp.kind = some k)
    := by decide +kernel
/-- A trim of a loaded bank whose probe finds no residual, and one of 5. -/
theorem witness_PhaseOperationsRun_trim : (let s := nextOn (.phtrim 15) fun c => { c with loaded := 2 ^ 15 }
    bitAt (s.cluster 0).loaded 15 = true ∧ s.residualOf 0 15 [] ≤ (s.cluster 0).drlimit ∧ (s.cluster 0).drlimit < s.residualOf 0 15 [-5]) := by decide +kernel
/-- R319: an invalidated bank is no longer loaded. -/
theorem test_phinv : ((after (.omuPhinv 0) (nextOn (.phinv 15) fun c => { c with loaded := 2 ^ 16 - 1, staged := c.staged.map fun o => { o with probed := true } })).cluster 0).loaded = 2 ^ 15 - 1
    ∧ ((after (.omuPhtrim 0 [] []) (nextOn (.phtrim 15) id)).task 4096).pend.map (fun p => p.code) = [0x21] := by decide +kernel

/-! ## Witnesses: phase images and source matrices in core memory -/

/-- A range of core memory of a task with no stores buffered and no second task on its core reads whole. -/
theorem check_cm (s : State) (tid va n : Nat) (k : Acc) (p : Bool) (hk : k ≠ .atomic) (h2 : regionOf va = .cm)
    (h3 : rangeFault va n none = none) (h4 : (s.core (s.task tid).core).stask = none) (h5 : (s.task tid).onCore = true) :
    s.check tid va n k p = (s, .ok [.win va n (s.cmOf tid (va - cmBase))]) := by
  have hk' : (k == .atomic) = false := by cases k <;> first | rfl | exact absurd rfl hk
  have hw : s.windowFault tid (s.task tid).cluster (s.task tid).ctx va n = none := by
    simp only [State.windowFault, h2]
    simp [State.cmHole, h4]
  simp only [State.check, hk', h2, hw, h3, State.cmPieces, h5, Bool.false_eq_true, if_false, if_true]
theorem imageRead_cm (s : State) (tid slot seq va : Nat) (h2 : regionOf va = .cm)
    (h3 : rangeFault va imgBytes none = none) (h4 : (s.core (s.task tid).core).stask = none) (h5 : (s.task tid).onCore = true) :
    s.imageRead tid slot seq va = (s, .bytes (s.readWin (s.cmOf tid (va - cmBase)) imgBytes)) := by
  simp only [State.imageRead, State.flushPieces, if_true, State.imagePieces, h2,
    check_cm s tid va imgBytes .load false (by decide) h2 h3 h4 h5, State.engineLoadPieces, State.engineLoadPiece, List.append_nil]
theorem matrixRead_cm (s : State) (o : DcmpOp) (h2 : regionOf o.src.toNat = .cm)
    (h3 : rangeFault o.src.toNat imgBytes none = none) (h4 : (s.core (s.task o.tid).core).stask = none)
    (h5 : (s.task o.tid).onCore = true) : s.matrixRead o = (s, .bytes (s.readWin (s.cmOf o.tid (o.src.toNat - cmBase)) imgBytes)) := by
  simp only [State.matrixRead, State.flushPieces, if_true,
    check_cm s o.tid o.src.toNat imgBytes .load false (by decide) h2 h3 h4 h5, tileSideBad, List.findSome?_cons, List.findSome?_nil,
    List.flatMap_cons, List.flatMap_nil, Piece.chunks, State.engineLoadPieces, State.engineLoadPiece, List.append_nil]

/-- What is written to a memory of an unbroken window is read there. -/
theorem readWin_write (s : State) (m : Memory) (key : Nat) (img : List Byte) (p : List PByte) (hp : p.map PByte.b = img) :
    (({ s with mem := m.write key p } : State).readWin key img.length).map PByte.b = img := by
  subst hp
  apply List.ext_getElem
  · simp [State.readWin]
  · intro i h1 h2
    simp only [State.readWin, List.map_map, List.getElem_map, List.getElem_range, Function.comp_apply, Memory.pbyte]
    rw [Memory.byte_write, if_pos ⟨Nat.le_add_right _ _, by simp only [List.length_map] at h2; omega⟩, Nat.add_sub_cancel_left,
      List.getD_eq_getElem _ _ h2, List.getElem_map]

theorem leNat_leBytes (n : Nat) : ∀ v, leNat (leBytes n v) = v % 256 ^ n := by
  induction n with
  | zero => intro v; simp [leBytes, leNat, Nat.mod_one]
  | succ n ih =>
    intro v
    simp only [leBytes, leNat, ih, BitVec.toNat_ofNat]
    rw [show 256 ^ (n + 1) = 256 * 256 ^ n from Nat.pow_succ', Nat.mod_mul]
theorem leBytes_length (n : Nat) : ∀ v, (leBytes n v).length = n := by
  induction n with
  | zero => intro v; rfl
  | succ n ih => intro v; simp [leBytes, ih]
theorem crcStep_lt (n : Nat) : ∀ c, c < 2 ^ 32 → crcStep n c < 2 ^ 32 := by
  induction n with
  | zero => intro c h; exact h
  | succ n ih =>
    intro c h
    unfold crcStep
    apply ih
    split
    · exact Nat.xor_lt_two_pow (n := 32) (by omega) (by decide)
    · omega
theorem crc32c_lt (bs : List Byte) : crc32c bs < 2 ^ 32 := by
  have h : ∀ (bs : List Byte) (c : Nat), c < 2 ^ 32 → bs.foldl (fun c b => crcStep 8 (Nat.xor c b.toNat)) c < 2 ^ 32 := by
    intro bs
    induction bs with
    | nil => intro c h; exact h
    | cons b bs ih =>
      intro c h
      exact ih _ (crcStep_lt 8 _ (Nat.xor_lt_two_pow (n := 32) h (Nat.lt_of_lt_of_le b.isLt (by decide))))
  exact Nat.xor_lt_two_pow (n := 32) (h bs _ (by decide)) (by decide)

/-- An image with its checksum in place is good when its format is 1. -/
theorem imgGood_withCrc (v : List Byte) (hl : v.length = imgBytes) (hv : imgWord v 0x3008 % 65536 = 1) :
    imgGood (withCrc v (imgCrc v)) = true := by
  have ht : (v.take 0x300C).length = 0x300C := by rw [List.length_take, hl]; rfl
  have ht3 (c : Nat) : (v.take 0x300C ++ leBytes 4 c).length = 0x3010 := by rw [List.length_append, ht, leBytes_length]
  have hc (c d : Nat) : withCrc (withCrc v c) d = withCrc v d := by
    have h1 : (withCrc v c).take 0x300C = v.take 0x300C := by rw [withCrc, List.append_assoc, List.take_left' ht]
    have h2 : (withCrc v c).drop 0x3010 = v.drop 0x3010 := by rw [withCrc, List.drop_left' (ht3 c)]
    rw [withCrc, h1, h2]; rfl
  have h1 : imgCrc (withCrc v (imgCrc v)) = imgCrc v := by rw [imgCrc, hc]; rfl
  have h2 : imgWord (withCrc v (imgCrc v)) 0x300C = imgCrc v := by
    rw [imgWord, withCrc, List.append_assoc, List.drop_left' ht, List.take_left' (leBytes_length 4 _), leNat_leBytes]
    exact Nat.mod_eq_of_lt (crc32c_lt _)
  have h3 : imgWord (withCrc v (imgCrc v)) 0x3008 = imgWord v 0x3008 := by
    rw [imgWord, imgWord, withCrc, List.append_assoc, List.drop_append_of_le_length (by omega),
      List.take_append_of_le_length (by rw [List.length_drop, ht]), List.drop_take, List.take_take, Nat.min_self]
  simp only [imgGood, h1, h2, h3, hv, beq_self_eq_true, Bool.and_self]

/-- A load of bank 15 from an image in core memory, a decomposition from core memory, and one that waits there. -/
def loading (m : Memory) : State := { nextOn (.phld 15 0xFFFFFFFFFFF80000) id with mem := m }
/-- The image: format 1, all else zero. -/
def blankImage : List Byte := List.replicate 0x3008 0 ++ ([1, 0, 0, 0] ++ List.replicate 0xFF4 0)
theorem blankImage_length : blankImage.length = imgBytes := by
  simp only [blankImage, List.length_append, List.length_replicate, List.length_cons, List.length_nil, imgBytes]
theorem blankImage_format : imgWord blankImage 0x3008 % 65536 = 1 := by
  rw [imgWord, blankImage, List.drop_left' List.length_replicate, show List.take 4 ([1, 0, 0, 0] ++ List.replicate 0xFF4 (0 : Byte)) = [1, 0, 0, 0] from List.take_left' rfl]; decide
theorem withCrc_length (v : List Byte) (c : Nat) (h : v.length = imgBytes) : (withCrc v c).length = imgBytes := by
  simp only [withCrc, List.length_append, List.length_take, List.length_drop, leBytes_length, h, imgBytes]; omega
/-- Bytes without poison. -/
def clean (l : List Byte) : List PByte := l.map fun b => ⟨b, false⟩
theorem clean_bytes (l : List Byte) : (clean l).map PByte.b = l := by simp [clean, List.map_map, Function.comp_def]
/-- A load may read any image. -/
theorem loading_reads (img : List Byte) (h : img.length = imgBytes) :
    let s := loading (({ cells := [], pois := [] } : Memory).write (cmKey 0 0) (clean img))
    (s.phaseNext 0).map OmuOp.kind = some (.phld 15 0xFFFFFFFFFFF80000) ∧ (s.cluster 0).omuHeld = []
      ∧ (AMap.find? s.tasks 4096).isSome = true
      ∧ ∃ bs, s.imageRead 4096 0 1 (0xFFFFFFFFFFF80000 : Word).toNat = (s, .bytes bs) ∧ bs.map PByte.b = img := by
  have hn (m : Memory) : (loading m).phaseNext 0 = (nextOn (.phld 15 0xFFFFFFFFFFF80000) id).phaseNext 0 := rfl
  refine ⟨(congrArg _ (hn _)).trans (by decide +kernel), rfl, rfl, _, imageRead_cm _ 4096 0 1 _ (by decide +kernel) (by decide +kernel) rfl rfl, ?_⟩
  have hk : (loading (({ cells := [], pois := [] } : Memory).write (cmKey 0 0) (clean img))).cmOf 4096
      ((0xFFFFFFFFFFF80000 : Word).toNat - cmBase) = cmKey 0 0 := rfl
  rw [hk, ← h]
  exact readWin_write (nextOn (.phld 15 0xFFFFFFFFFFF80000) id) _ (cmKey 0 0) img (clean img) (clean_bytes img)
/-- A good image, and a bad one (all zero, of format 0), are what a load may read. -/
theorem witness_PhaseOperationsRun_good :
    imgGood (withCrc blankImage (imgCrc blankImage)) = true ∧ (withCrc blankImage (imgCrc blankImage)).length = imgBytes :=
  ⟨imgGood_withCrc _ blankImage_length blankImage_format, withCrc_length _ _ blankImage_length⟩
theorem witness_PhaseOperationsRun_bad :
    imgGood (List.replicate imgBytes 0) = false ∧ (List.replicate imgBytes (0 : Byte)).length = imgBytes := by
  refine ⟨?_, List.length_replicate⟩
  have e : imgWord (List.replicate imgBytes (0 : Byte)) 0x3008 = 0 := by
    rw [imgWord, List.drop_replicate, List.take_replicate]; rfl
  rw [imgGood, e]; exact Bool.and_false _
/-- A bank image that core memory takes. -/
theorem witness_PhaseOperationsRun_write :
    (match ((nextOn (.phrd 15 0xFFFFFFFFFFF80000) fun c => { c with loaded := 2 ^ 15 }).imageWrite 4096 1 1 0xFFFFFFFFFFF80000
        (clean (List.replicate imgBytes 0))).2 with | .bytes _ => true | _ => false) = true := by decide +kernel

theorem imageWrite_cm (s : State) (tid seq side va : Nat) (bs : List PByte) (h2 : regionOf va = .cm)
    (h3 : rangeFault va imgBytes none = none) (h4 : (s.core (s.task tid).core).stask = none) (h5 : (s.task tid).onCore = true) :
    ∃ t b, s.imageWrite tid seq side va bs = (t, .bytes b) := by
  simp only [State.imageWrite, State.imagePieces, h2, check_cm s tid va imgBytes .store _ (by decide) h2 h3 h4 h5, State.engineStoreReady,
    List.findSome?_cons, List.findSome?_nil, State.engineStorePieces, State.engineStorePiece]
  exact ⟨_, _, rfl⟩
theorem notFinite_none (ws : List Nat) : ∀ i, (∀ w ∈ ws, w / 2 ^ 23 % 256 ≠ 255) → notFinite ws i = none := by
  induction ws with
  | nil => intro i _; rfl
  | cons w ws ih =>
    intro i h
    have hw : (w / 2 ^ 23 % 256 == 255) = false := by simpa using h w List.mem_cons_self
    rw [notFinite, hw]
    exact ih _ fun v hv => h v (List.mem_cons_of_mem _ hv)
/-- The words of a matrix, and a decomposition from and into core memory on die 0. -/
def wordsOf (l : List Byte) : List Nat := (List.range 4096).map fun i => leNat ((l.drop (4 * i)).take 4)
def dcmp1 : DcmpOp := ⟨1, 4096, 0, 0, 0xFFFFFFFFFFFC0000, 0xFFFFFFFFFFF80000, false⟩
def decomposing (m : Memory) : State := { (lit []).setDie 0 { Die.reset with dcmp := [dcmp1] } with mem := m }
theorem decomposing_reads (l : List Byte) (h : l.length = imgBytes) :
    let s := decomposing (({ cells := [], pois := [] } : Memory).write (cmKey 0 0) (clean l))
    (s.die 0).dcmp = [dcmp1] ∧ 0 < s.engines 0 ∧ ∃ bs, s.matrixRead dcmp1 = (s, .bytes bs)
      ∧ (List.range 4096).map (fun i => leNat (((bs.drop (4 * i)).take 4).map PByte.b)) = wordsOf l := by
  have he (m : Memory) : (decomposing m).engines 0 = (lit []).engines 0 := rfl
  refine ⟨rfl, (he _).symm ▸ (by decide +kernel), _, matrixRead_cm _ dcmp1 (by decide +kernel) (by decide +kernel) rfl rfl, ?_⟩
  have hk : (decomposing (({ cells := [], pois := [] } : Memory).write (cmKey 0 0) (clean l))).cmOf 4096
      (dcmp1.src.toNat - cmBase) = cmKey 0 0 := rfl
  have hr := readWin_write ((lit []).setDie 0 { Die.reset with dcmp := [dcmp1] }) { cells := [], pois := [] } (cmKey 0 0) l (clean l)
    (clean_bytes l)
  rw [h] at hr
  rw [show dcmp1.tid = 4096 from rfl, hk, wordsOf]
  refine List.map_congr_left fun i _ => ?_
  rw [List.map_take, List.map_drop]
  exact congrArg (fun q => leNat ((q.drop (4 * i)).take 4)) hr
theorem decompose_cm (s : State) (o : DcmpOp) (bs : List PByte) (ws : List Nat) (hr : o.res = false) (h1 : s.matrixRead o = (s, .bytes bs))
    (hw : (List.range 4096).map (fun i => leNat (((bs.drop (4 * i)).take 4).map PByte.b)) = ws) (hz : ∀ w ∈ ws, w / 2 ^ 23 % 256 ≠ 255)
    (h2 : regionOf o.dst.toNat = .cm) (h3 : rangeFault o.dst.toNat imgBytes none = none)
    (h4 : (s.core (s.task o.tid).core).stask = none) (h5 : (s.task o.tid).onCore = true) : ∃ t b, s.decompose o = (t, .bytes b) := by
  obtain ⟨t, b, h5⟩ := imageWrite_cm s o.tid o.seq 1 o.dst.toNat ((makeImage ws 0).map fun b => ⟨b, bs.any PByte.p⟩) h2 h3 h4 h5
  refine ⟨t, [], ?_⟩
  simp only [State.decompose, h1, hw, notFinite_none _ 0 hz, hr, Bool.false_eq_true, if_false, List.map_cons, List.map_nil,
    State.writeImages, Nat.sub_self, Nat.zero_mul, Nat.add_zero, h5]
theorem words_zero (n : Nat) : ∀ w ∈ wordsOf (List.replicate n 0), w / 2 ^ 23 % 256 ≠ 255 := by
  intro w hw
  obtain ⟨i, -, rfl⟩ := List.mem_map.1 hw
  rw [List.drop_replicate, List.take_replicate]
  have : ∀ n ≤ 4, leNat (List.replicate n 0) / 2 ^ 23 % 256 ≠ 255 := by decide
  exact this _ (Nat.min_le_left _ _)
/-- A matrix of zeros is decomposed, and one whose first word is an infinity fails there. -/
theorem witness_DecompositionsRun_zero : ∃ m t bs, (decomposing m).decompose dcmp1 = (t, .bytes bs) := by
  obtain ⟨-, -, bs, h1, h2⟩ := decomposing_reads (List.replicate imgBytes 0) List.length_replicate
  exact ⟨_, decompose_cm _ dcmp1 bs _ rfl h1 h2 (words_zero _) (by decide +kernel) (by decide +kernel) rfl rfl⟩
/-- A die whose engines are all withdrawn. -/
theorem witness_DecompositionsRun_none (m : Memory) : (({ decomposing m with wdmap := BitVec.allOnes 256 } : State).die 0).dcmp = [dcmp1]
    ∧ ({ decomposing m with wdmap := BitVec.allOnes 256 } : State).engines 0 = 0 := by
  refine ⟨rfl, ?_⟩
  rw [show ({ decomposing m with wdmap := BitVec.allOnes 256 } : State).engines 0 = ({ lit [] with wdmap := BitVec.allOnes 256 } : State).engines 0 from rfl]
  decide +kernel
theorem witness_DecompositionsRun_inf : ([0, 0, 0x80, 0x7F] ++ List.replicate 16380 0 : List Byte).length = imgBytes
    ∧ notFinite (wordsOf ([0, 0, 0x80, 0x7F] ++ List.replicate 16380 0)) 0 = some 0 := by
  refine ⟨by simp only [List.length_append, List.length_replicate, List.length_cons, List.length_nil, imgBytes], ?_⟩
  rw [wordsOf, List.range_succ_eq_map (n := 4095), List.map_cons, Nat.mul_zero, List.drop_zero,
    show List.take 4 ([0, 0, 0x80, 0x7F] ++ List.replicate 16380 (0 : Byte)) = [0, 0, 0x80, 0x7F] from List.take_left' rfl]
  rfl

/-! ## Witnesses: events of groups and kernels -/

/-- A member whose control thread waits at a barrier of level 1 with words w, in a group g. -/
def atBarrier (g : Group) (w : Nat) (xs : List XEntry) : State :=
  let s := member g (some (arrived false)) []
  inTask (s.setThr { s.thr with st := .waiting (.barrier 1), held := some (w, 0, 8) }) fun k => { k with xlist := xs }
/-- One word for the last word of rank 1's window, with poison. -/
def send1 : XEntry := ⟨1, 0x0000FFFF00000001, none, [(7, true)], 1, 0, some 0⟩
def exchanging : State := atBarrier { grp with st := .exchange } 0 [send1]
theorem witness_ExchangeEntriesRun : exchanging.senders 0 = [4096] ∧ (atBarrier grp 0 []).senders 0 = []
    ∧ exchanging.nextEntry 4096 = some (arrived false, send1, { grp with st := .exchange }, { grp with st := .exchange })
    ∧ send1.src = none ∧ send1.words = [(7, true)] ∧ send1.count = 1 ∧ send1.moved = 0 ∧ send1.level ≠ 4
    ∧ grp.members.find? (fun m => m.2 == descRank send1.desc) = some (4097, 1) ∧ descRank send1.desc ∉ grp.gone
    ∧ exchanging.cmHole 4097 (8 * descWord send1.desc) = false := by decide +kernel
/-- R331: the word is in the receiver's window, poisoned; rank 1 has no task, so the key is that of core 0. -/
theorem test_exchange : let t := after (.exchangeEntryRun 0) exchanging
    (t.task 4096).xlist = [] ∧ t.mem.pbyte (exchanging.cmOf 4097 (8 * 65535)) = ⟨7, true⟩ := by decide +kernel

/-- The group in EXCHANGE, both members having arrived. -/
def allIn : Group := { releasing with st := .exchange }
theorem witness_GroupsRelease : exchanging.group? 1 1 0 = some { grp with st := .exchange } ∧ exchanging.pendingIn { grp with st := .exchange } = true
    ∧ (let s := atBarrier allIn 0 []
       s.group? 1 1 0 = some allIn ∧ s.pendingIn allIn = false ∧ s.sentIn allIn = false
       ∧ ∃ x ∈ allIn.arr, x.1 ∉ allIn.freed ∧ x.1 ∉ allIn.gone) := by decide +kernel
/-- R333: the vote of a sum over two arrivals; R328: releasing from now on. -/
theorem test_group_release : ((after (.groupEnterReleasing 1 1 0)
    { atBarrier allIn 0 [] with now := 5 }).group? 1 1 0).map (fun g => (g.st, g.relAt, g.vote)) = some (.releasing, 5, 15)
    ∧ ((after (.groupEnterReleasing 1 1 0) exchanging).group? 1 1 0).map (fun g => g.st) = some .exchange := by decide +kernel
/-- A sync and a syncv with x7, while rank 1 is still to be released. -/
theorem witness_MembersAreReleased : ∀ w ∈ [0, 0x701], let s := atBarrier releasing w []
    s.running 0 = some 4096 ∧ (s.thread 4096 0).st = .waiting (.barrier 1) ∧ (s.thread 4096 0).held = some (w, 0, 8)
    ∧ (s.thread 4096 0).arrival = some (arrived false) ∧ s.groupOf (s.task 4096) 1 = some releasing ∧ s.canRelease 4096 = true
    ∧ (s.task 4096).core = 0 ∧ (s.core 0).dbgStop = false
    ∧ (∃ x ∈ releasing.arr, x.1 ≠ (s.task 4096).rankAt 1 ∧ x.1 ∉ releasing.freed ∧ x.1 ∉ releasing.gone) := by decide +kernel
theorem test_release : let t := after (.memberRelease 0) (atBarrier { releasing with vote := 15, votep := true } 0x701 [])
    (t.thread 4096 0).st = .ready ∧ (t.thread 4096 0).xr 7 = 15 ∧ (t.thread 4096 0).xpr 7 = true ∧ (t.thread 4096 0).pc = 0x1008 := by
  decide +kernel

/-- Two tasks that wait at different levels, both in groups of both levels, of which that of level 2 is in a state. -/
def conflicting (g2 : GState) : State :=
  let s := atBarrier grp 0 []
  let k := { s.task 4096 with gmem := [(1, 0x8000080000000000), (2, 0x8000080000000000)] }
  let s := (s.setTask 4096 k).setTask 4097
    { k with threads := [(0, { Thread.empty with st := .waiting (.barrier 2), arrival := some ⟨2, false, 0, 0, 0, none⟩ })] }
  { s with groups := [grp, { grp with level := 2, st := g2 }] }
theorem witness_GroupsBreak : (conflicting .compute).levelConflict 1 = true ∧ (conflicting .releasing).levelConflict 1 = false
    ∧ (atBarrier grp 0 []).levelConflict 1 = false
    ∧ ∃ g ∈ ({ State.reset with groups := [{ grp with level := 4 }] } : State).groups, g.kid = 1 ∧ g.level = 4 := by decide +kernel
theorem test_conflict : (after (.levelConflictDetect 1) (conflicting .compute)).groups.map (fun g => g.st) = [.broken, .broken] := by decide +kernel

/-- A ring of 2^4 records with HEAD 3 and TAIL t, whose records stand in core memory's place of a page: here on the page of `paged`. -/
def ringed (t : Nat) : State :=
  let s := paged [] []
  s.setCtx 0 { s.ctx 0 with queues := [(2, ⟨0xFF80000000400000, 4, 3, 0, t, 3, 0, []⟩)] }
theorem witness_DoorbellsRaiseTail : ((ringed 5).ctx 0).queue? 2 = some ⟨0xFF80000000400000, 4, 3, 0, 5, 3, 0, []⟩ ∧ (ringed 5).contained = false
    ∧ 4 < 5 ∧ 5 ≤ 20 ∧ 2 ^ 4 < 20 - 3 ∧ 19 - 3 ≤ 2 ^ 4 := by decide +kernel
/-- R348: a ring's worth beyond HEAD is taken, one more is not. -/
theorem test_doorbell : ((after (.doorbellWrite 0 2 19) (ringed 5)).ctx 0).queue? 2 = some ⟨0xFF80000000400000, 4, 3, 0, 19, 3, 0, []⟩
    ∧ ((after (.doorbellWrite 0 2 20) (ringed 5)).ctx 0).queue? 2 = some ⟨0xFF80000000400000, 4, 3, 0, 5, 3, 0, []⟩
    ∧ ((after (.doorbellWrite 0 2 4) (ringed 5)).ctx 0).queue? 2 = some ⟨0xFF80000000400000, 4, 3, 0, 5, 3, 0, []⟩ := by decide +kernel
/-- The same ring with a record of one core at its place 3. -/
def recorded : State :=
  { ringed 4 with mem := (ringed 4).mem.writeSp .dev (0x40000 + 128 + 3 * 128) recBytes 2 }
theorem witness_RecordsAreTaken : (recorded.ctx 0).st = .active ∧ (3 : Nat) < 4
    ∧ recorded.engineRead 0 (0xFF80000000400000 + 128 + 128 * (3 % 2 ^ 4)) 128 3 = some recBytes
    ∧ recorded.refuses 0 2 0 (LaunchRec.ofBytes (recBytes.map PByte.b)) = false
    ∧ recorded.refusalWaits 0 2 0 (LaunchRec.ofBytes (recBytes.map PByte.b)) = false
    ∧ recorded.refusalWaits 0 2 0 (LaunchRec.ofBytes (audited.map PByte.b)) = true
    ∧ (let k : Queue := ⟨0xFF80000000400000, 4, 3, 0, 4, 3, 0, []⟩
       (recorded.ctx 0).queue? 2 = some k
       ∧ ((recorded.setQueue 0 2 { k with head := 4 }).engineWrite 0 k.ring (pbytes 8 4 false) 3).isSome = true
       ∧ (recorded.engineRead 0 (0xFF800000003FFF80 + 128 + 128 * (3 % 2 ^ 4)) 128 3).isSome = true
       ∧ ((recorded.setQueue 0 2 { k with ring := 0xFF800000003FFF80, head := 4 }).engineWrite 0 0xFF800000003FFF80 (pbytes 8 4 false) 3).isSome = false)
    ∧ (ringed 4).engineRead 0 (0xFF80000000400000 + 128 + 128 * (3 % 2 ^ 4)) 128 3 = some (List.replicate 128 ⟨0, false⟩)
    ∧ (ringed 4).refuses 0 2 0 (LaunchRec.ofBytes (List.replicate 128 0)) = true := by decide +kernel
/-- R351: a record of one core becomes a kernel; one of none does not, and HEAD passes it. -/
theorem test_record : (after (.launchRecordTake 0 2) recorded).kernels.map (fun k => (k.st, k.lrec.cores, k.device)) = [(.queued, 1, false)]
    ∧ (after (.launchRecordTake 0 2) (ringed 4)).kernels = []
    ∧ (((after (.launchRecordTake 0 2) (ringed 4)).ctx 0).queue? 2).map (fun k => k.head) = some 4 := by
  decide +kernel

/-! ## Witnesses: kernels, dispatch and contexts -/

/-- Kernel 1 of one core and one helper, priority 3, in a state, with waits. -/
def kern (k : KState) (waits : List Nat) : Kernel :=
  { (default : Kernel) with kid := 1, st := k, lrec := { LaunchRec.ofBytes (recBytes.map PByte.b) with waits := waits, prio := 3, helpers := 1 } }
/-- A state with it whose context's signal table stands on the page of `paged`: entry 1 holds v. -/
def signalled (k : KState) (waits : List Nat) (v : Nat) : State :=
  let s := paged [] []
  { s.setCtx 0 { s.ctx 0 with desc := { (s.ctx 0).desc with sigtab := 0xFF80000000400000 } } with
    kernels := [kern k waits], mem := s.mem.writeSp .dev 0x40008 (pbytes 8 v false) 2 }
/-- A wait on entry 1 for 5. -/
def wait5 : Nat := 2 ^ 56 + 5
/-- Waits met at 5, not met at 4, and an entry with ERR. -/
theorem witness_QueuedKernelsLeave : (signalled .queued [wait5] 5).kernel? 1 = some (kern .queued [wait5]) ∧ (kern .queued [wait5]).st = .queued
    ∧ (signalled .queued [wait5] 5).firstQueued (kern .queued [wait5]) = true ∧ (signalled .queued [wait5] 5).waitErr (kern .queued [wait5]) = false
    ∧ (∀ w ∈ (kern .queued [wait5]).lrec.waits, (signalled .queued [wait5] 5).sigMet 0 w = true)
    ∧ (∃ w ∈ (kern .queued [wait5]).lrec.waits, (signalled .queued [wait5] 4).sigMet 0 w = false)
    ∧ (signalled .queued [wait5] (2 ^ 63)).waitErr (kern .queued [wait5]) = true
    ∧ (signalled .queued [wait5] (2 ^ 63)).signalOpen (kern .queued [wait5]) = true := by decide +kernel
theorem test_eligible : (after (.kernelEligible 1) (signalled .queued [wait5] 5)).kernels.map (fun k => k.st) = [.eligible]
    ∧ (after (.kernelEligible 1) (signalled .queued [wait5] 4)).kernels.map (fun k => k.st) = [.queued]
    ∧ (after (.kernelDependenceFault 1) (signalled .queued [wait5] (2 ^ 63))).kernels.map (fun k => k.st) = [.faulted] := by decide +kernel
/-- A kernel whose SIGNAL names entry 1. -/
def signals1 : Kernel := { kern .draining [] with lrec := { (kern .draining []).lrec with signal := 2 ^ 56 } }
/-- A draining kernel whose task is done, and one whose task has a copy outstanding. -/
def draining (live : List Nat) : State :=
  { inTask (st [] []) fun k => { k with tl := [(0, ⟨1, live⟩)], exited := some 0 } with kernels := [kern .draining []] }
theorem witness_DrainedKernelsEnd : (draining []).kernel? 1 = some (kern .draining []) ∧ (kern .draining []).replayOf = none
    ∧ (∀ tid ∈ (draining []).tasksOf 1, ((draining []).task tid).alive = false) ∧ (∃ tid ∈ (st [] []).tasksOf 1, ((st [] []).task tid).alive = true)
    ∧ (kern .faulted []).signalled = false ∧ (draining []).quiet 1 = true ∧ (draining [1]).quiet 1 = false
    ∧ (draining []).signalOpen (kern .draining []) = true ∧ (draining []).signalOpen signals1 = false := by decide +kernel
theorem test_drained : (after (.kernelDrainComplete 1) (draining [])).kernels.map (fun k => k.st) = [.complete]
    ∧ (after (.kernelDrainComplete 1) (draining [])).tasks = [] := by decide +kernel
/-- A gated launch and its replay, ended or not. -/
def replaying (e : Bool) : State :=
  { State.reset with
    kernels := [{ kern .auditPending [] with replay := some 2 }, { kern .faulted [] with kid := 2, replayOf := some 1, signalled := e }] }
theorem witness_ReplaysAreCompared : ((replaying true).kernel? 1).map (fun k => (k.st, k.replay)) = some (.auditPending, some 2)
    ∧ ((replaying true).kernel? 2).map (fun k => k.signalled) = some true ∧ ((replaying false).kernel? 2).map (fun k => k.signalled) = some false
    ∧ (replaying true).signalOpen (kern .auditPending []) = true
    ∧ (let k (b : Nat) : Kernel := { kern .auditPending [] with regions := [(b, 8, 1)] }
       (paged [] []).compareWaits (k 0xFF80000000400000) (k 0xFF80000000400040) = false
       ∧ (paged [] []).compareWaits (k 0xFF80000000400000) (k 0xFF80000010000000) = true) := by
  decide +kernel
/-- R368: a replay that ended FAULTED makes the launch FAULTED. -/
theorem test_replay : ((after (.replayCompare 1) (replaying true)).kernel? 1).map (fun k => k.st) = some .faulted := by decide +kernel
/-- A kernel of this task, which is marked for killing or not. -/
def dooming (k : KState) (b : Bool) : State := { inTask (st [] []) fun t => { t with killing := b } with kernels := [kern k []], groups := [grp] }
/-- A task that is marked, of a kernel that runs, is FAULTED or COMPLETE; one that is not; a context in TEARDOWN. -/
theorem witness_KernelsAreKilled : (kern .running []).ended = false
    ∧ (∀ k ∈ [KState.running, .faulted, .complete], (dooming k true).kernel? 1 = some (kern k [])
      ∧ 4096 ∈ (dooming k true).tasksOf 1 ∧ ((dooming k true).task 4096).alive = true ∧ ((dooming k true).task 4096).killing = true
      ∧ ∀ tid ∈ (dooming k true).tasksOf 1, (dooming k true).killReady tid = true)
    ∧ (∀ tid ∈ (dooming .running false).tasksOf 1, ((dooming .running false).task tid).killing = false)
    ∧ ((dooming .running false).ctx 0).st ≠ .teardown
    ∧ (((dooming .running false).setCtx 0 { Context.reset with st := .teardown }).ctx (kern .running []).ctx).st = .teardown
    ∧ ({ dooming .faulted false with tasks := [] } : State).tasksOf 1 = [] := by decide +kernel
/-- R341: the fatal fault breaks the kernel's group; R353: the tasks that are left go once the kernel is FAULTED. -/
theorem test_kill : let t := after (.kernelKill 1) (dooming .running true)
    (t.kernel? 1).map (fun k => k.st) = some .faulted ∧ t.groups.map (fun g => g.st) = [.broken] ∧ (t.task 4096).alive = false
    ∧ ((after (.kernelKill 1) (dooming .running false)).task 4096).alive = true
    ∧ ((after (.kernelKill 1) (dooming .faulted false)).task 4096).alive = false := by decide +kernel

/-- An entry that binds task 0 of kernel 1. -/
def entry0 (restore : Bool) : BindEntry := ⟨0, true, restore, 1, 0, 0, 0, [], []⟩
/-- An ACTIVE context with the kernel, its cores idle. -/
def idleCores (k : KState) : State :=
  { State.reset.setCtx 0 { Context.reset with st := .active } with kernels := [kern k []] }
/-- The last core takes the entry; without an ACTIVE context it is refused. -/
theorem witness_EntriesBind : (idleCores .eligible).kernel? 1 = some (kern .eligible []) ∧ (entry0 false).valid = true ∧ 1535 < 1536
    ∧ (idleCores .eligible).dispatchRefuses 1535 false (entry0 false) (some (kern .eligible []).lrec) = none ∧ (kern .eligible []).selected = false
    ∧ (idleCores .eligible).bindFits (kern .eligible []) 1535 (entry0 false) = true
    ∧ (∀ r ∈ [none, some (kern .eligible []).lrec], State.reset.dispatchRefuses 0 false (entry0 false) r = some 1)
    ∧ ((idleCores .eligible).core 1535).dbgStop = false ∧ ({ Core.reset with dbgStop := true } : Core).dbgStop = true
    ∧ ({ entry0 false with valid := false }).valid = false ∧ (((idleCores .eligible).setCore 0 { Core.reset with ptask := some 4096 }).core 0).bound false = some 4096
    ∧ ((idleCores .eligible).task 4096).onCore = false := by
  decide +kernel
/-- The state after the bind. -/
noncomputable def boundState : State := after (.bindEntryWrite 1535 false ⟨entry0 false, []⟩) (idleCores .eligible)
theorem witness_TasksStart : (boundState.core 1535).entry false = some (entry0 false) ∧ (boundState.core 1535).bound false = some 4096
    ∧ (boundState.kernel? 1).map (fun k => k.st) = some .bound ∧ boundState.mayEnter 1535 false = true
    ∧ (boundState.task 4096).fresh = true ∧ (boundState.ctx 0).st = .active := by decide +kernel
/-- R125: both threads are READY at CODE + ENTRY; the helper has its slot in x4. -/
theorem test_start_task : let t := after (.taskStart 1535 false) boundState
    (t.thread 4096 0).st = .ready ∧ (t.thread 4096 1).st = .ready ∧ (t.thread 4096 1).xr 4 = 1 ∧ (t.thread 4096 2).st = .empty
    ∧ (t.core 1535).run = some 4096 := by decide +kernel
/-- A halted task; a primary task that waits on a page with a shadow task bound. -/
theorem witness_TasksAreSaved : (∀ s ∈ [(st [] []).setCore 0 { (st [] []).core 0 with preempt := true },
      { walking.setCore 0 { walking.core 0 with ptask := some 4096, shadow := some (entry0 false) } with issuing := [] }],
      s.running 0 = some 4096 ∧ (s.core 0).dbgStop = false ∧ s.canSave 4096 = true ∧ (∀ i < 16, (s.thread 4096 i).wbuf = [])
      ∧ ((s.core 0).preempt = true ∨ ((s.core 0).ptask = some 4096 ∧ (s.core 0).shadow.isSome = true ∧ s.spinDue 4096 = true))) := by decide +kernel
/-- A saved task whose entry asks for its restore. -/
def saved : State :=
  { (inTask (st [(5, 9)] []) fun k => { k with place := .saved 0 false false }).setCtx 0 { Context.reset with st := .active } with
    kernels := [kern .running []], cores := [(0, { Core.reset with primary := some (entry0 true), ptask := some 4096 })] }
theorem witness_TasksAreRestored : (saved.core 0).entry false = some (entry0 true) ∧ (saved.core 0).bound false = some 4096
    ∧ saved.kernel? 1 = some (kern .running []) ∧ saved.mayEnter 0 false = true ∧ (saved.task 4096).alive = true
    ∧ (saved.ctx 0).st = .active ∧ saved.primaryMay 4096 = true ∧ (saved.task 4096).preempted = false := by decide +kernel
theorem test_restore : ((after (.taskRestore 0 false) saved).core 0).run = some 4096
    ∧ ((after (.taskRestore 0 false) saved).thread 4096 0).xr 5 = 9 := by decide +kernel
/-- A kernel of priority 3 that has waited for 1 ms, and one that has waited a nanosecond less; a task of priority 0 on core 0. -/
def waiting3 (now : Nat) : State :=
  { inTask (st [] []) id with kernels := [{ kern .eligible [] with lrec := { (kern .eligible []).lrec with cores := 2 ^ 11 } }], now := now }
theorem witness_TasksArePreempted : ((waiting3 1000000).kernel? 1).map (fun k => (k.st, k.lrec.priority, k.eligAt)) = some (.eligible, 3, 0)
    ∧ (∀ k ∈ (waiting3 1000000).kernels, (waiting3 1000000).coreFree k 0 = true ∧ (waiting3 1000000).noCores k = true)
    ∧ (waiting3 0).roomWith (kern .eligible []) [] = true
    ∧ ((waiting3 1000000).core 0).run = some 4096 ∧ ((waiting3 1000000).task 4096).lrec.priority ≤ 1 ∧ (waiting3 999999).now < 0 + 1000000 := by decide +kernel

/-- A descriptor with every field in its range, at its limits. -/
def goodDesc : CtxDesc :=
  { (default : CtxDesc) with root := 0x10000, sigtab := 0xFF80000000400000, fring := 0xFF80000000401000, spin := 10000, logf := 6 }
/-- A module that is ready; a good descriptor and bad ones; queues at the ends of their ranges; confidential and not. -/
theorem witness_ContextsAreBuilt : ({ State.reset with devstat := 97 } : State).ready = true ∧ (State.reset.ctx 63).st = .free
    ∧ (State.reset.ctx 63).used = false ∧ descOk goodDesc false = true ∧ descOk { goodDesc with logf := 5 } false = false
    ∧ descOk { goodDesc with spin := 10001 } false = false ∧ State.reset.ready = false
    ∧ ((State.reset.setCtx 63 { Context.reset with st := .building }).ctx 63).st = .building ∧ Context.reset.queues = []
    ∧ ((ringed 5).ctx 0).queues ≠ []
    ∧ 0xFF80000000400000 % 128 = 0 ∧ regionOf 0xFF80000000400000 = .dev ∧ regionOf 0x1000 = .host ∧ (15 : Nat) < 16
    ∧ bitAt ({ goodDesc with flags := 1 } : CtxDesc).flags 0 = true ∧ bitAt goodDesc.flags 0 = false := by decide +kernel
theorem test_context : let s := { State.reset with devstat := 97 }
    ((after (.contextCreateRequest 63 goodDesc false) s).ctx 63).st = .building
    ∧ (let b := after (.contextCreateRequest 63 goodDesc false) s
       ((after (.contextActivate 63 false) b).ctx 63).st = .building
       ∧ ((after (.contextActivate 63 false) (after (.queueRegister 63 0 0xFF80000000400000 4 3) b)).ctx 63).st = .active) := by decide +kernel
/-- Each state, with a task that runs; a TEARDOWN with nothing left and with a frame that waits. -/
theorem witness_ContextsChangeState : (∀ c ∈ [CtxState.active, .suspended, .teardown],
      (((st [] []).setCtx 0 { Context.reset with st := c }).ctx 0).st = c)
    ∧ 4096 ∈ (st [] []).ctxTasks 0 ∧ ((st [] []).task 4096).place = .running 0 false
    ∧ (State.reset.setCtx 5 { Context.reset with st := .teardown }).ctxDone 5 = true
    ∧ ({ State.reset with reuse := [⟨0, 0, 5, false⟩] } : State).ctxDone 5 = false
    ∧ ({ Cluster.reset with loaded := 3, bankCtx := 6 } : Cluster).bankCtx = 5 + 1 := by decide +kernel
/-- A record of a code, in a thread of core 0 that is STOPPED. -/
def stopped (code : Nat) (handed : Bool) (trapent : Word) : State :=
  inTask (one Task.blank { regs [] [] with st := .stopped, frec := some { (default : FaultRec) with code := code }, handed := handed })
    fun k => { k with trapent := trapent, threads := k.threads.map fun t => (t.1, { t.2 with st := .stopped }) }
theorem witness_FaultsAreResolved : (stopped 0x60 false 0).faulted 0 0 (fun t => !t.handed) = some 4096
    ∧ (stopped 0x60 true 0x400).running 0 = some 4096 ∧ ((stopped 0x60 true 0x400).thread 4096 0).frec = some { (default : FaultRec) with code := 0x60 }
    ∧ ((stopped 0x60 true 0x400).thread 4096 0).handed = true ∧ ((stopped 0x60 true 0x400).task 4096).trapent ≠ 0
    ∧ ((stopped 0x60 true 0x400).thread 4096 0).hnd = false ∧ ((stopped 0x60 true 0x400).core 0).dbgHeld = false
    ∧ ((stopped 0x60 true 0x400).core 0).dbgStop = false ∧ ((stopped 0x60 true 0x400).core 0).msgs = []
    ∧ ((stopped 0x60 true 0).task 4096).trapent = 0 := by decide +kernel
/-- R381: reflected to the trap entry with FLTREC; R376: a poison fault is not. -/
theorem test_reflect : let t := after (.faultResolution 0 0 .resume) (stopped 0x60 true 0x400)
    ((t.thread 4096 0).st, (t.thread 4096 0).pc, (t.thread 4096 0).fltrec) = (.ready, 0x400, 0x160)
    ∧ ((after (.faultResolution 0 0 .resume) (stopped 0x51 true 0x400)).task 4096).killing = true := by decide +kernel
/-- A fault ring with space and one that is full, on the page of `paged`. -/
def ring (n : Nat) : State :=
  let s := paged [] []
  s.setCtx 0 { s.ctx 0 with desc := { (s.ctx 0).desc with fring := 0xFF80000000400000, logf := 6 }, wcount := n, backlog := [default] }
theorem witness_KeptRecordsAreWritten : ((ring 63).ctx 0).backlog = [default] ∧ ((ring 63).ringOne 0 default).isSome = true
    ∧ (ring 64).ringOne 0 default = none := by decide +kernel
/-- A page that is not there and one that is. -/
theorem witness_MissesEscalate : walking.tasksOn 0 = [4096] ∧ (walking.thread 4096 0).held = none ∧ (walking.thread 4096 0).st = .waiting (.page 0xFF80000000400080)
    ∧ walking.gone 0 0xFF80000000400080 = false ∧ walking.gone 0 0x1000 = true := by decide +kernel

/-! ## Witnesses: events of links -/

/-- A state whose port 95 is as given. -/
def ported (p : Port) : State := { State.reset with ports := [(95, p)] }
/-- Lanes of 8 and of 7 wavelengths, with credits. -/
def lane8 : Lane := { Lane.reset with waves := 255, credits := [(0, 4)] }
def lane7 : Lane := { lane8 with waves := 127 }
/-- A port in a state. -/
def inState (p : PortState) : Port := { Port.reset 95 with st := p, lanes := [lane8, lane8] }
/-- A port UP with a lane 1. -/
def upWith (l : Lane) : Port := { inState .up with lanes := [lane8, l] }
/-- Each state that a move begins in; 7 wavelengths and 6; 1 ms. -/
theorem witness_PortStatesMove : (∀ p ∈ [PortState.off, .fenced, .train, .relock, .up, .degraded], ((ported (inState p)).port 95).st = p)
    ∧ (∃ i < (inState .train).lanes.length, 7 ≤ popcount 8 ((127 :: [63]).getD i 0 % 256))
    ∧ (∀ i < (inState .train).lanes.length, popcount 8 ((63 :: [63]).getD i 0 % 256) < 7) ∧ (ported (inState .train)).port 95 = inState .train
    ∧ (inState .train).since + 1000000 ≤ ({ ported (inState .train) with now := 1000000 } : State).now := by decide +kernel
/-- R430: 7 wavelengths of lane 0 alone are enough, and lane 1 is fenced. -/
theorem test_port_lock : let t := after (.portLock 95 127 [63]) (ported (inState .train))
    ((t.port 95).st, (t.port 95).lanes.map Lane.fenced) = (.lock, [false, true])
    ∧ ((after (.portLock 95 63 [63]) (ported (inState .train))).port 95).st = .train
    ∧ ((after (.portLockTimeout 95) { ported (inState .train) with now := 1000000 }).port 95).st = .fenced
    ∧ ((after (.portLockTimeout 95) { ported (inState .train) with now := 999999 }).port 95).st = .train := by decide +kernel
theorem witness_LockExchangeOpensPort : ((ported (inState .lock)).port 95).st = .lock ∧ (inState .lock).expectPeer = none
    ∧ (inState .lock).keep = false ∧ ({ inState .lock with expectPeer := some 3 } : Port).expectPeer = some 3 ∧ (3 : Nat) ≠ 4 := by decide +kernel
theorem test_lock_done : ((after (.portLockExchangeDone 95 4 ⟨7, 40, 2⟩) (ported (inState .lock))).port 95).st = .up
    ∧ ((after (.portLockExchangeDone 95 4 ⟨7, 40, 2⟩) (ported { inState .lock with lanes := [lane8, lane7] })).port 95).st = .degraded
    ∧ ((after (.portLockExchangeDone 95 4 ⟨7, 40, 2⟩) (ported { inState .lock with expectPeer := some 3 })).port 95).st = .fenced := by
  decide +kernel
/-- A flit of number n and a type; 4095 lies before 0. -/
def flit (ty n : Nat) : Flit := ⟨ty, n, false, 0, 0, 0, 0, true, true, 3, [1, 0, 0, 0, 0, 0, 0, 0, 0, 0, 0, 0]⟩
theorem flitBody_length (f : Flit) : (flitBody f).length = 252 := by
  simp only [flitBody, List.length_append, leBytes_length, List.length_take, List.length_replicate]; omega
/-- Fields that a flit's first 252 bytes hold are those that a receiver finds in all 256. -/
theorem flitOf_flitBytes (f : Flit) (h : flitFields (flitBody f) = f) (ht : f.ty < 7) : flitOf (flitBytes f) = some f := by
  have hl := flitBody_length f
  have hc : leNat (leBytes 4 (crc32c (flitBody f))) = crc32c (flitBody f) := by
    rw [leNat_leBytes]; exact Nat.mod_eq_of_lt (crc32c_lt _)
  have hd (o n : Nat) (c : List Byte) (hb : o + n ≤ 252) :
      ((flitBody f ++ c).drop o).take n = ((flitBody f).drop o).take n := by
    rw [List.drop_append_of_le_length (by omega), List.take_append_of_le_length (by rw [List.length_drop]; omega)]
  have hf (c : List Byte) : flitFields (flitBody f ++ c) = f := by
    refine Eq.trans ?_ h
    simp only [flitFields, hd 0 2 c (by omega), hd 2 2 c (by omega), hd 4 1 c (by omega), hd 5 1 c (by omega), hd 6 2 c (by omega),
      hd 8 4 c (by omega), hd 12 (4 * min (leNat ((List.drop 8 (flitBody f)).take 4) / 4 % 64) 60) c (by omega)]
  simp only [flitOf, flitBytes, hf, List.drop_left' hl, List.take_left' hl, hc, List.length_append, hl, leBytes_length, ht,
    beq_self_eq_true, decide_true, Bool.and_self, if_true]
/-- Bytes of these flits that come over correctable codewords are taken as the flits. -/
theorem received_flits : ∀ f ∈ [flit 5 0, flit 1 1, flit 1 4095, flit 2 0, { flit 2 0 with ackseq := 4 }],
    flitOf (flitBytes f) = some f := by
  intro f hf
  refine flitOf_flitBytes f ?_ ?_ <;> revert f <;> decide +kernel
/-- What bytes of a flit over such codewords do. -/
theorem after_flit (s : State) (p i : Nat) (f : Flit) (bs : List Byte) (ws : List Nat) (h : flitOf bs = some f)
    (hw : ws.all correctable = true) (hp : (s.port p).st = .up) : after (.flitReceive p i bs ws) s = s.onFlit p i (some f) := by
  simp only [after, exec, execFlitReceive, event, hp, h, hw, if_true]
theorem witness_FlitsAreTakenInOrder : (inState .up).st = .up ∧ (0 : Nat) < (inState .up).lanes.length
    ∧ flitOf [] = none
    ∧ ((inState .up).lane 0).queue = []
    ∧ ((flit 5 0).ty = 5 ∧ (flit 5 0).ackv = false ∧ (flit 5 0).crcnt = 0 ∧ ((inState .up).lane 0).sinceAck < 63
      ∧ (flit 5 0).seq = ((inState .up).lane 0).rxSeq ∧ ((flit 5 0).payload.getD 0 0).toNat ≠ 0
      ∧ ((flit 5 0).payload.getD 0 0).toNat < (inState .up).lanes.length
      ∧ ∀ l ∈ [lane8, lane7, { lane8 with drop := some (2, 99) }], let m := (upWith l).lane ((flit 5 0).payload.getD 0 0).toNat
        let w := ((flit 5 0).payload.getD 1 0).toNat % 8
        m.fenced = false ∧ bitAt m.waves w = true ∧ ((m.drop = none ∧ (8 ≤ m.count ∨ m.count ≤ 7)) ∨ (m.drop = some (2, 99) ∧ 2 ≠ w)))
    ∧ (flit 1 1).seq ≠ ((inState .up).lane 0).rxSeq ∧ behind ((inState .up).lane 0).rxSeq (flit 1 1).seq = false
    ∧ behind ((inState .up).lane 0).rxSeq (flit 1 4095).seq = true ∧ (((inState .up).lane 0).ack (flit 2 0).ackseq).naks < 15 := by decide +kernel
/-- R429: a NAK sends the flits after the acknowledged one again; R428: 15 wrong symbols are corrected. -/
theorem test_nak : (((after (.flitReceive 95 0 (flitBytes { flit 2 0 with ackseq := 4 }) [0, 15])
      (ported { inState .up with lanes := [{ lane8 with unacked := [flit 1 4, flit 1 5, flit 1 6], txSeq := 7 }] })).port 95).lane 0).out.map Flit.seq
      = [5, 6] := by
  rw [after_flit _ _ _ _ _ _ (received_flits _ (by simp)) (by decide) (by decide)]
  decide +kernel
/-- R428: 16 wrong symbols are not corrected, and the flit is asked for again. -/
theorem test_uncorrected (bs : List Byte) :
    (((after (.flitReceive 95 0 bs [0, 16]) (ported (inState .up))).port 95).lane 0).gap = true := by rfl
theorem witness_LinkTimersSendFlits : (∀ p ∈ [PortState.up, .degraded, .drain],
      let q := { inState p with lanes := [lane8, { lane8 with gap := true, sinceAck := 1 }] }
      ((ported q).port 95).st = p ∧ (q.lane 1).gap = true ∧ (q.lane 1).sinceAck ≠ 0 ∧ (ported q).laneFree 95 1 = true)
    ∧ ({ ported (upWith lane8) with irSess := [(0, some ⟨0, 95, none, 4, 8, 0, []⟩)] } : State).laneFree 95 1 = false
    ∧ ∀ p ∈ [PortState.train, .lock, .relock], ((ported (inState p)).port 95).st = p := by decide +kernel
/-- R429, R434: a NAK names the last flit taken; an IDLE flit advertises, here no upstream port. -/
theorem test_timers : (((after (.nakTimer 95 1) (ported (upWith { lane8 with gap := true, rxSeq := 0 }))).port 95).lane 1).out.map
      (fun f => (f.ty, f.ackseq)) = [(2, 4095)]
    ∧ ((after (.idleFlitTimer 95) (ported (inState .up))).port 95).lanes.map (fun l => l.out.map fun f => (f.ty, f.words, f.payload.take 2))
      = [[(0, 1, [0xFF, 3])], [(0, 1, [0xFF, 3])]] := by decide +kernel
theorem witness_WavelengthsFailOver : ∀ l ∈ [lane8, { lane7 with waves := 254 }, { lane8 with drop := some (2, 99) }], let q := upWith l
    ((ported q).port 95).st = .up ∧ 1 < q.lanes.length ∧ bitAt (q.lane 1).waves 7 = true ∧ (q.lane 1).fenced = false
    ∧ (((q.lane 1).drop = none ∧ ((q.lane 1).count = 8 ∧ (q.lane 1).room 1 = true ∨ (q.lane 1).count ≤ 7)) ∨ (q.lane 1).drop = some (2, 99)) := by
  decide +kernel
/-- R432: the peer's FAILOVER flit for wavelength 1 of lane 1, which another drop is told of, fences the lane. -/
theorem test_failover_flit : let q (l : Lane) := (((ported (upWith l)).onFlit 95 0 (some (flit 5 0))).port 95)
    let f : Flit := { flit 5 0 with payload := [1, 1] ++ leBytes 8 77 }
    let r (l : Lane) := (((ported (upWith l)).onFlit 95 0 (some f)).port 95)
    ((q lane8).lane 1).drop = some (0, 0) ∧ ((r lane8).lane 1).drop = some (1, 77) ∧ ((r { lane8 with drop := some (2, 99) }).lane 1).fenced = true
    ∧ (r lane7).st = .degraded := by decide +kernel
theorem witness_SwitchoverDropsWavelength : let q := upWith { lane8 with drop := some (7, 99) }
    ((ported q).port 95).st = .up ∧ (q.lane 1).drop = some (7, 99) ∧ bitAt (q.lane 1).waves 7 = true
    ∧ 99 ≤ (q.lane 1).codewordAt 8960 ∧ (q.lane 1).codewordAt 0 < 99 := by decide +kernel
/-- R428, R431: 254 ns of light carry 29 codewords of 5,440 bits on 8 wavelengths at 80 Gb/s each: codeword 1000 begins in slot 34, and in slot
35 the wavelength is gone and the port is DEGRADED. -/
theorem test_failover : let s := after (.wavelengthErrorDrop 95 1 7 1000) (ported (inState .up))
    let t (now : Nat) := after (.wavelengthSwitchover 95 1) { s with now := now }
    ((s.port 95).lane 1).out.map Flit.ty = [5] ∧ (((t 8960).port 95).lane 1).waves = 127 ∧ ((t 8960).port 95).st = .degraded
    ∧ (((t 8703).port 95).lane 1).waves = 255 := by decide +kernel
/-- Lines of each state, of an engine's and of a link's half; a port that carries the answer. -/
theorem witness_CombLinesKeepRecords : (State.reset.line 1 15).state = 0 ∧ lineLit (State.reset.line 1 15) = false ∧ 8 ≤ 15
    ∧ ({ telemetryOff with state := 2 } : Telemetry).state < 3 ∧ (State.reset.line 1 15).state ≠ 2
    ∧ (((ported (inState .up)).port 95).lane 0).open_ = true ∧ (State.reset.fwk 3).moving = false
    ∧ ((State.reset.setFw 3 { State.reset.fwk 3 with st := .handover }).fwk 3).moving = true := by decide +kernel
/-- R483: a MGMT read waits for the end of a hand-over of the switch controller's image. -/
theorem test_mgmt_waits : (let s := (ported (inState .up)).setFw 3 { State.reset.fwk 3 with st := .handover }
    let t := after (.mgmtReadRequest 95 0 3) s
    t.mgmtWait = [(95, 0, 3)] ∧ (after (.mgmtReadRequest 95 0 3) (t.setFw 3 (State.reset.fwk 3))).mgmtWait = []) := by decide +kernel
theorem test_comb : ((after (.combLineBelowThreshold 1 15 true) State.reset).line 1 15).state = 4
    ∧ ((after (.combLineRecover 1 15 []) (after (.combLineBelowThreshold 1 15 true) State.reset)).line 1 15).state = 2 := by decide +kernel
/-- A table with a LOCAL, a direct and an UNREACH entry for the last module, and an empty entry that no table may hold. -/
def table : List (Nat × Nat) := [(0, 2 ^ 29), (5, 127 * 2 ^ 21 + 127 * 2 ^ 14 + 127 * 2 ^ 7 + 95), (1023, 2 ^ 28 + 5)]
/-- A partition in which module 5 sends what is for module 9 by a port to module 0. -/
def fabric (p : Nat) : List FabNode :=
  [⟨0, [(95, 0, 5, 1)], []⟩, ⟨5, [(1, 0, 0, 95), (2, 0, 9, 3)], [(9, 127 * 2 ^ 21 + 127 * 2 ^ 14 + 127 * 2 ^ 7 + p)]⟩, ⟨9, [(3, 0, 5, 2)], []⟩]
/-- A table that sends what is for module 9 to module 5. -/
def by5 : List (Nat × Nat) := [(0, 2 ^ 29), (9, 127 * 2 ^ 21 + 127 * 2 ^ 14 + 127 * 2 ^ 7 + 95)]
theorem witness_RoutingTablesInstall : State.reset.validTable (fabric 2) table [] = true ∧ (table.map Prod.fst).Nodup ∧ State.reset.remotes = [] ∧ State.reset.groups = []
    ∧ (∀ e ∈ table, e.1 < 1024) ∧ (∀ e ∈ table, e.1 ≠ 6) ∧ candidates (2 ^ 28 - 1) = []
    ∧ bitAt (2 ^ 28 - 1) 28 = false ∧ bitAt (2 ^ 28 - 1) 29 = false ∧ State.reset.validTable (fabric 1) by5 [] = false
    ∧ State.reset.validTable [] table [] = false := by decide +kernel
/-- R438: a path that comes back to module 0 is refused. -/
theorem test_table : let t := after (.routingTableInstall table (fabric 2)) State.reset
    t.routeOf 1023 = 2 ^ 28 + 5 ∧ t.routeOf 6 = routeReset ∧ t.self = 0
    ∧ (after (.routingTableInstall by5 (fabric 2)) State.reset).routeOf 9 % 128 = 95
    ∧ (after (.routingTableInstall by5 (fabric 1)) State.reset).routeOf 9 = routeReset := by decide +kernel
/-- A change of port 95 from module 5 to module 7, at each of its stages; the partition before it and after; one that names no port. -/
def change1 : Change := ⟨[(95, 7)], table, table⟩
def change0 : Change := ⟨[], table, table⟩
def before : List FabNode := [⟨0, [(95, 0, 5, 1)], []⟩, ⟨5, [(1, 0, 0, 95)], []⟩]
def afterwards : List FabNode :=
  [⟨0, [(95, 0, 7, 1)], []⟩, ⟨7, [(1, 0, 0, 95), (2, 0, 5, 3)], [(5, 127 * 2 ^ 21 + 127 * 2 ^ 14 + 127 * 2 ^ 7 + 2)]⟩, ⟨5, [(3, 0, 7, 2)], []⟩]
def to5 : State := ported { inState .up with peer := 5, peerPort := 1 }
def changing (p : Port) : State := { ported p with change := some change1, circuits := true }
theorem witness_CircuitChangeRuns : to5.change = none ∧ to5.validTable before change1.interim [] = true
    ∧ to5.validTable afterwards change1.final change1.ports = true ∧ to5.validTable before change0.final change0.ports = true ∧ change0.ports = []
    ∧ to5.validTable afterwards table [] = false ∧ to5.circuits = false ∧ (changing (inState .lock)).circuits = true
    ∧ ((changing (inState .lock)).port 95).st ≠ .up ∧ ((changing (inState .lock)).port 95).st ≠ .degraded
    ∧ (∀ e ∈ change1.ports, e.1 < 96) ∧ (96 : Nat) ≤ 96
    ∧ change1.ports.Pairwise (fun a b => a.1 ≠ b.1)
    ∧ ((changing (inState .drain)).port 95).st = .drain ∧ (changing (inState .drain)).portEmpty 95 = true ∧ (inState .drain).drainSent = false ∧ (inState .drain).lanes ≠ []
    ∧ ({ inState .drain with drainSent := true, drainGot := true } : Port).drainGot = true ∧ (changing (inState .drain)).change = some change1
    ∧ (∀ e ∈ change1.ports, ((changing (inState .up)).port e.1).st = .up) ∧ ((changing (inState .dark)).port 95).st = .dark := by decide +kernel
/-- R442: the stages of a change, one after the other; R518: a module without a port of the change is ready at once, and waits for step 6. -/
theorem test_change : let s := after (.changeRequest change1 (before, afterwards)) to5
    let s1 := after (.portDrainComplete 95) s
    (s.port 95).st = .drain ∧ (s1.port 95).drainSent = true ∧ ((s1.port 95).lane 0).out.map Flit.ty = [3]
    ∧ ((after (.portDrainComplete 95) (changing { inState .drain with drainSent := true, drainGot := true })).port 95).st = .dark
    ∧ ((after .circuitsReady (changing (inState .dark))).port 95).st = .relock
    ∧ (after .changeFinalInstall (changing (inState .up))).chgep = 1 ∧ (after .changeFinalInstall (changing (inState .up))).change = none
    ∧ (let u := after (.changeRequest change0 (before, before)) to5
       u.out.map (fun m => m.kind) = [msgPortReady] ∧ (after .changeFinalInstall u).chgep = 0
       ∧ (after .changeFinalInstall (after .circuitsReady u)).chgep = 1) := by
  decide +kernel
/-- A receive whose slot has passed, and one whose slot has not. -/
def receiving (now : Nat) : State :=
  { inTask (ported (inState .up)) id with
    tasks := (st [] []).tasks, irSess := [(63, some ⟨0, 95, none, 4, 8, 4, []⟩)], now := now
    irOps := [{ sess := 63, slot := 4, recv := true, tid := 4096, th := 0, seq := 1, core := 0, buf := 0xFFFFFFFFFFF80000, data := none }] }
theorem witness_IntensitySlotsEnd : (receiving 1280).irOps.map (fun o => (o.data, 256 * (o.slot + 1))) = [(none, 1280)]
    ∧ AMap.get (receiving 1280).irSess 63 none = some ⟨0, 95, none, 4, 8, 4, []⟩ ∧ ((receiving 1280).port 95).sends = true
    ∧ (AMap.find? (receiving 1280).tasks 4096).isSome = true ∧ ((receiving 1280).task 4096).onCore = true
    ∧ (receiving 1280).keyBroken ((receiving 1280).cmOf 4096 (0xFFFFFFFFFFF80000 - cmBase)) = false
    ∧ ({ ctx := 0, port := 95, sender := some 2, expect := 0, period := 8, phase := 4, delays := [] } : IrSession).sender = some 2 ∧ (receiving 1279).now < 256 * (4 + 1) := by decide +kernel

/-! ## Witnesses: events of errors, of the host link, of units, of stacks and of firmware -/

/-- A module that is ready; its memory holds a byte with poison. -/
def readyState : State := { State.reset with devstat := 97, exposed := [(0, 2 ^ 40)], mem := State.reset.mem.writeSp .dev 8 [⟨7, true⟩] 1 }
/-- Memory's last byte, also with its stack in SELF; a confidential frame; containment; memory that is not selected; before READY. -/
theorem witness_HostReadsAndWrites : readyState.ready = true ∧ readyState.linkBad = false ∧ readyState.contained = false
    ∧ 2 ^ 40 - 1 + 1 ≤ 2 ^ 40 ∧ readyState.confFrame (2 ^ 40 - 1) 1 = false ∧ readyState.hostStack (2 ^ 40 - 1) 1 = none
    ∧ (readyState.setStack 7 { Stack.reset with th := .self }).hostStack (2 ^ 40 - 1) 1 = some 7
    ∧ (let s := { readyState with exposed := [], contained := true }
       s.isExposed (2 ^ 40 - 1) 1 = false ∧ s.confFrame (2 ^ 40 - 1) 1 = false ∧ s.ready = true)
    ∧ (∀ k ∈ stacksOf (2 ^ 40 - 1) 1, (readyState.stack k).lost = false) ∧ ({ readyState with contained := true } : State).contained = true
    ∧ readyState.isExposed (2 ^ 40 - 1) 1 = true ∧ State.reset.isExposed 8 1 = false ∧ State.reset.ready = false := by decide +kernel
/-- A page that a confidential context maps with CONF. -/
def confidential : State :=
  let s := paged [] []
  { s.setCtx 0 { s.ctx 0 with desc := { (s.ctx 0).desc with flags := 1 } } with
    devstat := 97, exposed := [(0, 2 ^ 40)], mem := s.mem.writeSp .dev 0x30200 [⟨0x8F, false⟩] 1 }
theorem witness_HostReadsAndWrites_conf : confidential.confFrame 0x40000 8 = true ∧ confidential.isExposed 0x40000 8 = true ∧ confidential.ready = true := by decide +kernel
/-- R458: a poisoned byte answers with its poison; a confidential frame with ones and poison. R464: in containment so does memory that is not
selected. R468: a stack in SELF holds the read, and performs it when it leaves SELF. -/
theorem test_host_read : (after (.cxlMemRead 8 1) readyState).out.map (fun m => m.data) = [[8, 263]]
    ∧ (after (.cxlMemRead 0x40000 2) confidential).out.map (fun m => m.data) = [[0x40000, 511, 511]]
    ∧ (after (.cxlMemRead 8 1) { readyState with exposed := [], contained := true }).out.map (fun m => m.data) = [[8, 511]]
    ∧ (let s := after (.cxlMemRead 8 1) (readyState.setStack 0 { Stack.reset with th := .self })
       s.out = [] ∧ (s.stack 0).held = [.hostRead 8 1] ∧ (after (.stackThermalSample 0 1439) s).agenda = [.hostRead 8 1]) := by decide +kernel
theorem witness_ContainmentBeginsAndEnds : State.reset.contained = false ∧ State.reset.hostMod = [] ∧ (∀ c < 64, (State.reset.ctx c).st = .free)
    ∧ ((State.reset.setCtx 63 { Context.reset with st := .building }).ctx 63).st = .building := by decide +kernel
theorem test_reset : ((after .cxlReset (State.reset.setCtx 63 { Context.reset with st := .building })).ctx 63).st = .free := by decide +kernel
/-- The last bank of the last cluster, loaded and without poison; the last x and v registers of a live thread. -/
theorem witness_ErrorsPoison : (let s := State.reset.setCluster 95 { Cluster.reset with loaded := 2 ^ 15 }
      bitAt (s.cluster 95).loaded 15 = true ∧ bitAt (s.cluster 95).bankPois 15 = false)
    ∧ (∀ k < 8, (State.reset.stack k).mbox.length < 64) ∧ 2 ^ 39 - 1 < 2 ^ 39
    ∧ (st [] []).running 0 = some 4096 ∧ ((st [] []).thread 4096 0).live = true ∧ ((st [] []).thread 4096 0).st = .ready ∧ 0 < 31 ∧ 31 < 32 ∧ 15 < 16 := by decide +kernel
theorem test_errors : ((after (.registerParityError 0 0 (.x 31)) (st [] [])).thread 4096 0).xpr 31 = true
    ∧ (after (.uncorrectableMemoryError ⟨64, false⟩) State.reset).mem.pois = [8, 9, 10, 11, 12, 13, 14, 15]
    ∧ (after (.uncorrectableMemoryError ⟨72, true⟩) State.reset).mem.pois = [9] := by decide +kernel
/-- R471: a row is due at its fourth corrected error in 24 hours, or at its first uncorrectable one. -/
theorem test_row_due : let s (e : List Nat × Nat) (now : Nat) : State := { State.reset.setStack 7 { Stack.reset with rows := [(5, e)] } with now := now }
    (s ([0, 1, 2, 3], 0) 9).rowDue 7 5 = true ∧ (s ([0, 1, 2], 0) 9).rowDue 7 5 = false ∧ (s ([], 1) 9).rowDue 7 5 = true
    ∧ (s ([0, 1, 2, 3], 0) 86400000000000).rowDue 7 5 = false := by decide +kernel
/-- Units that are to be withdrawn: cluster 0, its core 0 and the last engine by their faults, the last stack, the last two optical matrix units,
one unlocked for 100 ms and one whose loaded bank failed its trim; none at reset. -/
def worn : State :=
  let s := ((((st [] []).unitFault .cluster 0).unitFault .cluster 0).unitFault .core 0).unitFault .core 0
  let s := ((s.unitFault .dce 15).setStack 7 { Stack.reset with lost := true }).setCluster 95 { Cluster.reset with unlockAt := some 0, thermal := true }
  { s.setCluster 94 { Cluster.reset with loaded := 2, trimBad := 2 } with now := 100000000 }
theorem witness_WithdrawalSetsWdmap_due : 1 ≤ AMap.get worn.unitFaults (unitKey .dce 15) 0 ∧ (worn.stack 7).lost = true
    ∧ (worn.cluster 95).unlockAt = some 0 ∧ (worn.cluster 95).thermal = true ∧ 0 + 100000000 ≤ worn.now
    ∧ (worn.cluster 94).loaded ≠ 0 ∧ (∀ b < 16, bitAt (worn.cluster 94).loaded b = true → bitAt (worn.cluster 94).trimBad b = true)
    ∧ 2 ≤ AMap.get worn.unitFaults (unitKey .cluster 0) 0 ∧ 2 ≤ AMap.get worn.unitFaults (unitKey .core 0) 0 ∧ clusterOf 0 = 0
    ∧ (worn.task 4096).place ≠ .none ∧ (worn.task 4096).cluster = 0 ∧ (worn.task 4096).alive = true
    ∧ (∀ c ∈ [0, 94, 95], (worn.cluster c).omuHeld = [] ∧ (worn.cluster c).flight = none ∧ (worn.cluster c).staged = [])
    ∧ State.reset.withdrawDue .cluster 0 = false := by decide +kernel
/-- A task of the cluster that goes. -/
theorem witness_WithdrawalSetsWdmap : (State.reset.cluster 95).omuHeld = [] ∧ (State.reset.cluster 95).flight = none
    ∧ (State.reset.cluster 95).staged = [] ∧ ((st [] []).task 4096).place ≠ .none ∧ ((st [] []).task 4096).cluster = 0
    ∧ ((st [] []).task 4096).alive = true := by decide +kernel
theorem test_withdraw : (after (.unitWithdraw .cluster 0) worn).wdmap = BitVec.ofNat 256 (2 ^ 96 + 1)
    ∧ ((after (.unitWithdraw .cluster 0) worn).task 4096).killing = true ∧ (after (.unitWithdraw .dce 15) worn).wdmap = BitVec.ofNat 256 (2 ^ 207)
    ∧ (after (.unitWithdraw .cluster 0) ((st [] []).unitFault .cluster 0)).wdmap = 0 := by decide +kernel
/-- A stack in each state; SELF for 100 ms and a nanosecond less. -/
def heated (th : Thermal) (now : Nat) : State := { State.reset.setStack 7 { Stack.reset with th := th } with now := now }
theorem witness_StackTemperatureSetsState : ∀ th ∈ [Thermal.normal, .doubled, .self], ((heated th 0).stack 7).th = th
    ∧ ((heated th 0).stack 7).lost = false ∧ ((heated th 0).stack 7).selfAt + 100000000 ≤ (heated th 100000000).now := by decide +kernel
/-- R466: the limits of each step, in sixteenths; R470: 105 °C. -/
theorem test_thermal : (∀ x ∈ [(Thermal.normal, (1359 : Int), Thermal.normal), (.normal, 1360, .doubled), (.normal, 1600, .doubled),
      (.doubled, 1328, .doubled), (.doubled, 1327, .normal), (.doubled, 1520, .self), (.self, 1440, .self), (.self, 1439, .doubled)],
      ((after (.stackThermalSample 7 x.2.1) (heated x.1 0)).stack 7).th = x.2.2)
    ∧ ((after (.stackThermalSample 7 1680) (heated .normal 0)).stack 7).lost = true
    ∧ ((after (.stackThermalSample 7 1500) (heated .self 100000000)).stack 7).lost = true
    ∧ ((after (.stackThermalSample 7 1500) (heated .self 99999999)).stack 7).lost = false := by decide +kernel
/-- A stack with a row that is due; a thread that waits for a stack in SELF, which holds its access. -/
def worse : State := State.reset.setStack 7 { Stack.reset with spares := 1, rows := [(5, ([], 1))] }
def heldBy7 : State :=
  { (holding 0 (.stack 7) (0x0100A058, 0, 4) []).setStack 7 { Stack.reset with th := .self, held := [.resume 4096 0] } with now := 2000000 }
/-- A row that is due, one that is not, no spare, a lost stack; a message of the last type to a mailbox with 63 and with 64; a stack in SELF for 2
ms, with held accesses of no context and of one. -/
theorem witness_StackControllersReport : (State.reset.stack 7).lost = false ∧ (State.reset.fwk 4).moving = false ∧ (State.reset.stack 7).th ≠ .self
    ∧ (worse.stack 7).lost = false ∧ (worse.stack 7).spares ≠ 0 ∧ worse.rowDue 7 5 = true ∧ worse.rowDue 7 6 = false
    ∧ (State.reset.stack 7).spares = 0 ∧ ({ Stack.reset with lost := true } : Stack).lost = true
    ∧ ({ (default : StackMsg) with ty := 7 } : StackMsg).ty ≤ 7 ∧ (List.replicate 63 (default : StackMsg)).length < 64
    ∧ (List.replicate 64 (default : StackMsg)).length = 64 ∧ ((heated .self 2000000).stack 7).held = []
    ∧ ((heated .self 2000000).stack 7).noticed + 2000000 ≤ (heated .self 2000000).now
    ∧ (heldBy7.stack 7).th = .self ∧ (heldBy7.stack 7).lost = false ∧ (heldBy7.stack 7).noticed + 2000000 ≤ heldBy7.now
    ∧ (heldBy7.stack 7).held.filterMap (heldBy7.heldCtx 7) = [0] := by decide +kernel
/-- R472: a full mailbox gives its oldest summary's place to the report of a lost stack, and drops nothing. -/
theorem test_mailbox : let sum : StackMsg := { (default : StackMsg) with ty := 1 }
    let t := after (.stackMailboxMessage 7 { (default : StackMsg) with ty := 6 }) (State.reset.setStack 7 { Stack.reset with mbox := List.replicate 64 sum })
    (t.stack 7).mbox.length = 64 ∧ ((t.stack 7).mbox.getLast?.map fun m => m.ty) = some 6 ∧ (t.stack 7).kept = [sum] := by decide +kernel

/-- An image of kind k, of version 2, with a magic number and a key index: its header, without a body, and 48 bytes of key. -/
def image (k : Nat) (magic : Nat := 0x57464C47) (key : Nat := 0) : FwImage :=
  ⟨leBytes 4 magic ++ leBytes 4 k ++ leBytes 4 2 ++ leBytes 4 1 ++ List.replicate 16 0 ++ sha256 [] ++ leBytes 4 key ++ List.replicate 16316 0,
    List.replicate 48 0⟩
/-- Its form is good. -/
theorem image_shaped (key : Nat) (hk : key < 5) : imgShaped (image 4 0x57464C47 key) = true := by
  have hs : (sha256 []).length = 32 := by decide +kernel
  have hl : (image 4 0x57464C47 key).bytes.length = 16384 := by simp only [image, List.length_append, leBytes_length, List.length_replicate, hs]
  have hf : ∀ k < 5, (imgField (image 4 0x57464C47 k) 0 4, imgKind (image 4 0x57464C47 k), imgField (image 4 0x57464C47 k) 24 4)
      = (0x57464C47, 4, 0) ∧ (imgReserved.all fun r => imgField (image 4 0x57464C47 k) r.1 r.2 == 0) = true := by decide +kernel
  obtain ⟨h, hr⟩ := hf key hk
  simp only [Prod.mk.injEq] at h
  simp only [imgShaped, h, hr, hl]
  decide
/-- The state of kind k. -/
def inFw (k : Nat) (st : ImgState) (f : FwKind → FwKind) (now : Nat) : State :=
  { State.reset.setFw k (f { FwKind.reset with st := st, newest := some (image k), version := 1 }) with now := now }
/-- Images of the first and the last kind, and one of none; none moving and one, and a PSC image being booted; a staged image. -/
theorem witness_ImagesStageAndVerify : State.reset.fwMoving = false ∧ (inFw 4 .handover id 0).fwMoving = true ∧ 1 ≤ imgKind (image 1)
    ∧ imgKind (image 4) ≤ 4 ∧ imgKind (image 0) = 0 ∧ 4 < imgKind (image 5) ∧ (State.reset.fwk 1).trial = false
    ∧ ((inFw 1 .verified (fun f => { f with trial := true }) 0).fwk 1).trial = true
    ∧ ((inFw 4 .staged id 0).fwk 4).st = .staged ∧ imageFault (image 4 0) FwKind.reset = some 1 := by decide +kernel
theorem witness_ImagesStageAndVerify_newest : ((inFw 4 .staged id 0).fwk 4).newest = some (image 4) := by rfl
/-- A key index of 4 fails check 2. -/
theorem witness_ImagesStageAndVerify_key (f : FwKind) : imageFault (image 4 0x57464C47 4) f = some 2 := by
  have hk : imgKeyed (image 4 0x57464C47 4) = false := by
    have : imgKey (image 4 0x57464C47 4) = 4 := by decide +kernel
    simp [imgKeyed, this]
  simp [imageFault, image_shaped, hk]
/-- An image passes every check of a module whose key 0 is not revoked, hashes to the fused digest and signs the image: whether a key or a
signature is good is not the spec's to say, so no value of them is fixed here. -/
theorem witness_ImagesStageAndVerify_good (hr : Config.keyRevoked 0 = false) (hk : Config.keyHash 0 = sha256 (image 4).pubKey)
    (hv : Config.slhDsaVerify (image 4).pubKey (imgSigned (image 4)) (imgSig (image 4)) = true) (f : FwKind) (h1 : f.minSvn = 0)
    (h2 : f.srprod = 0) : imageFault (image 4) f = none := by
  have h0 : imgKey (image 4) = 0 := by decide +kernel
  have hl : (image 4).pubKey.length = 48 := by decide +kernel
  have hd : imgDigest (image 4) = sha256 (imgBody (image 4)) := by decide +kernel
  have hf : imgField (image 4) 18 2 = 0 := by decide +kernel
  have hs := image_shaped 0 (by decide)
  simp only [imageFault, hs, imgKeyed, h0, hr, hl, hk, hv, hd, h1, h2, hf]
  simp
/-- Each stage of a hand-over of kind 4, whose last instance is 11. -/
theorem witness_ImagesHandOver :
    (let s := inFw 4 .verified id 0
     (s.fwk 4).st = .verified ∧ s.fwMoving = false ∧ s.handoverBlocked 4 = false
     ∧ ({ s.setCtx 5 { Context.reset with st := .building, desc := { Context.reset.desc with flags := 1 } } with devstat := 1 } : State).handoverBlocked 4
       = true)
    ∧ (let f := (inFw 4 .handover id 0).fwk 4
       f.moving = true ∧ f.trapped = false ∧ f.next 4 = some 4 ∧ f.begun 4 4 = true ∧ f.caught.contains 4 = false
       ∧ (inFw 4 .handover id 0).now < f.startAt + 100000000)
    ∧ ((inFw 4 .handover (fun f => { f with caught := [4] }) 0).fwk 4).caught.contains 4 = true
    ∧ (let f := (inFw 2 .handover (fun f => { f with switched := [1], count := 10 }) 0).fwk 2
       f.next 2 = some 2 ∧ f.begun 2 2 = true)
    ∧ (let f := (inFw 3 .probation (fun f => { f with switched := [3], beats := [(3, 996000001)] }) 1000000000).fwk 3
       f.st = .probation ∧ 3 ∈ f.switched ∧ f.switched.length = (instances 3).length ∧ f.switchAt + 1000000000 ≤ 1000000000
       ∧ (∀ i ∈ f.switched, 1000000000 < AMap.get f.beats i 0 + 4000000) ∧ AMap.get f.beats 3 0 + 4000000 ≤ 1000000001) := by decide +kernel
theorem witness_ImagesHandOver_newest : ((inFw 4 .handover (fun f => { f with caught := [4] }) 0).fwk 4).newest = some (image 4) := by rfl
/-- R479: an instance that has caught up switches over; a heartbeat late by 4 ms rolls back to version 1; after a second the image is committed. -/
theorem test_handover : ((after (.switchOver 4 4) (inFw 4 .handover (fun f => { f with caught := [4] }) 0)).fwk 4).st = .probation
    ∧ ((after (.heartbeatMissed 3 3) (inFw 3 .probation (fun f => { f with switched := [3], version := 2, pversion := 1 }) 4000000)).fwk 3).version = 1
    ∧ ((after (.probationCommit 3) (inFw 3 .probation (fun f => { f with switched := [3], beats := [(3, 996000001)] }) 1000000000)).fwk 3).st
      = .committed := by decide +kernel
/-- The limits of 100 ms and of 1 s; traps before and in service. -/
theorem witness_ImagesRollBack :
    (let s := inFw 2 .handover id 100000000
     (s.fwk 2).st = .handover ∧ (s.fwk 2).next 2 = some 1 ∧ (s.fwk 2).begun 2 1 = true ∧ (s.fwk 2).caught.contains 1 = false
     ∧ (s.fwk 2).startAt + 100000000 ≤ s.now)
    ∧ 1 ∈ ((inFw 2 .probation (fun f => { f with switched := [1] }) 0).fwk 2).switched
    ∧ (let s := inFw 1 .verified (fun f => { f with trial := true }) 1000000000
       (s.fwk 1).trial = true ∧ (s.fwk 1).startAt + 1000000000 ≤ s.now ∧ (s.fwk 1).romOk (s.fwk 1).image = true)
    ∧ (let s := inFw 1 .verified (fun f => { f with trial := true, image := some (image 1 0) }) 1000000000
       (s.fwk 1).romOk (s.fwk 1).image = false) ∧ (State.reset.fwk 1).trial = false := by decide +kernel
theorem test_rollback : ((after (.catchUpTimeout 2 1) (inFw 2 .handover id 100000000)).fwk 2).st = .rolledBack
    ∧ ((after (.catchUpTimeout 2 1) (inFw 2 .handover id 99999999)).fwk 2).st = .handover
    ∧ (let t := after .pscImageBootTimeout (inFw 1 .verified (fun f => { f with trial := true }) 1000000000)
       (t.fwk 1).newest = none ∧ t.mepoch = 1)
    ∧ (after .pscImageBootTimeout (inFw 1 .verified (fun f => { f with trial := true }) 999999999)).mepoch = 0 := by decide +kernel
theorem witness_SecureRequestsAnswer :
    (let f := (inFw 4 .committed (fun f => { f with committed := true, svn := 2, minSvn := 1 }) 0).fwk 4
     f.committed = true ∧ f.st ≠ .probation ∧ 2 ≤ f.svn ∧ f.minSvn < 2 ∧ f.svn < 3)
    ∧ (confidential.ctx 0).st ≠ .free ∧ bitAt (confidential.ctx 0).desc.flags 0 = true
    ∧ (confidential.ctx 1).st = .free ∧ (List.replicate 32 (0 : Byte)).length = 32 ∧ (List.replicate 31 (0 : Byte)).length ≠ 32 := by decide +kernel
/-- A number that is not the tag. -/
theorem witness_SecureRequestsAnswer_tag (k : Nat) (r : List Nat) : Config.tenantTag k r + 1 ≠ Config.tenantTag k r := Nat.succ_ne_self _
theorem test_svn : let s := inFw 4 .committed (fun f => { f with committed := true, svn := 2, minSvn := 1 }) 0
    ((after (.svnMinimumRaise 4 2) s).fwk 4).minSvn = 2 ∧ ((after (.svnMinimumRaise 4 3) s).fwk 4).minSvn = 1 := by decide +kernel

/-! ## Witnesses: decoding, steps, faults, invariants -/

/-- The first and the last place in a fetch block of an instruction of 12 bytes; one place beyond. -/
theorem witness_Decoding : (Instr.vaddLit (vx 2) 7).isInsn = true ∧ (Instr.vaddLit (vx 2) 7).wf = true
    ∧ 20 % 32 + 4 * (encode (.vaddLit (vx 2) 7)).length ≤ 32 ∧ 32 < 24 % 32 + 4 * (2 + 1) ∧ (0x12 : Nat) % 4 = 2 ∧ (0xFFFFFFFF : Nat) % 4 = 3 := by
  decide +kernel
/-- A thread that fetches: by a translation, the words decoding or not; a block in the instruction cache. -/
def fetching (w : Nat) : State := State.reset.withFetchWord 32 w
def words? (f : Fetched) : Option (Nat × Nat × Nat) := match f with | .words a b c => some (a, b, c) | _ => none
theorem witness_StepRunsDecodedInstruction : (∀ w ∈ [0x001CC504, 0xFFFFFFFF], (fetching w).agenda = [] ∧ (fetching w).issuing = [(4096, 0)]
      ∧ (let s1 := { fetching w with issuing := [], cur := (4096, 0), curW := (0, 0, 0) }
         s1.thr.canRun = true ∧ words? (s1.fetch 4096 0).2 = some (w, 0, 0)))
    ∧ regionOf 0x1000 = .host ∧ (fetching 0).codeBlock 0 0 (0x1000 / 32) = none
    ∧ regionOf 0xFF80000000400000 = .dev ∧ (fetching 0).codeBlock 0 0 (0xFF80000000400000 / 32) = none
    ∧ (match (fetching 0).translate 0 0 0xFF80000000400000 .fetch with
       | (r, .ok t) => decide (r.laterChecks .fetch 4 false [.page 0xFF80000000400000 32 t] = none)
           && decide (r.home t 0xFF80000000400000 32 = .ready)
           && (r.homeBytes t 0xFF80000000400000 32).all fun b => !b.p
       | _ => false) = true
    ∧ (let s := (fetching 0).setCore 0 { (fetching 0).core 0 with icache := [⟨0, 0xFF80000000400000 / 32, List.replicate 32 ⟨0, false⟩, 512, 0, []⟩] }
       ((s.codeBlock 0 0 (0xFF80000000400000 / 32)).map fun l => l.bytes.all fun b => !b.p) = some true)
    ∧ (let s := { holding 0 .retire (0x0100A058, 0, 4) [] with agenda := [.resume 4096 0] }
       (s.task 4096).onCore = true ∧ (s.thread 4096 0).st = .waiting .retire) := by decide +kernel
/-- A thread that may run and one that may not; an event has no words. -/
theorem witness_NothingIsRefused : (st [] []).thr.canRun = true ∧ State.reset.thr.canRun = false ∧ encode .nop ≠ [] ∧ encode .setReady = []
    ∧ State.reset.agenda = [] := by decide +kernel
theorem witness_PacketsAndHandlersBarInstructions :
    (let s := one Task.blank { regs [] [] with packet := some ⟨0, 1, [], 0⟩ }
     s.thr.canRun = true ∧ s.thr.packet.isSome = true ∧ encode (.add 5 6 7) ≠ [])
    ∧ (inShadow 4).thr.shadow.isSome = true ∧ (encode (.acq 5 true)).getD 0 0 / 4 % 64 = 0x15 ∧ (encode (.hexit 5)).getD 0 0 / 4 % 64 = 0x16 := by
  decide +kernel
/-- R376: a packet's thread stops with its pc at the xopen. -/
theorem test_packet_fault : let t := after (.add 5 6 7) (one Task.blank { regs [] [] with packet := some ⟨0, 1, [], 0x40⟩ })
    t.thr.pc = 0x40 ∧ t.thr.packet = none ∧ t.thr.frec.map (fun r => (r.code, r.flags, r.pc)) = some (0x01, 1, 0x1000) := by decide +kernel
theorem witness_FaultsStopAndAreReflected : (stopped 0x60 true 0x400).traceOn ((stopped 0x60 true 0x400).task 4096) = false
    ∧ ((stopped 0x60 true 0x400).thread 4096 0).frec = some { (default : FaultRec) with code := 0x60 } := by decide +kernel
/-- A state that meets the invariants and steps. -/
theorem witness_Invariants : Stated.FusesAndClock enmap9640 (fetching 0x001CC504) ∧ (fetching 0x001CC504).mem.wf = true
    ∧ (match step (fetching 0x001CC504) with | .next _ => true | _ => false) = true := by
  refine ⟨⟨rfl, by decide, by decide⟩, by decide +kernel, by decide +kernel⟩

end Sys2Proof.Tests
end

