-- ==== Sys2Proof/Proofs/Csr.lean ====
section
/-! SUPPORT. What a CSR write stores and refuses, what csrw, csrs and csrc do in each of their cases, and what a write that reaches
a core does (R168 to R171, log entry 4). -/

namespace Sys2Proof.Machine

/-! ## Poisoned sources (R456) -/

theorem State.unlessPoison_of_poisoned {s : State} {a : Reg} (hp : s.xp a = true) (k : State → State × Res) :
    s.unlessPoison [a] k = (s, .fault 0x51 0 0) := by
  simp [State.unlessPoison, hp]

theorem State.unlessPoison_of_clean {s : State} {a : Reg} (hp : s.xp a = false) (k : State → State × Res) :
    s.unlessPoison [a] k = k s := by
  simp [State.unlessPoison, hp]

/-! ## The instructions (R168 to R170) -/

section Update

variable {f : Word → Word → Word} {d a : Reg} {n : BitVec 12} {s : State}

theorem csrUpdate_of_unreadable (hp : s.xp a = false) (hr : s.csrRead n.toNat = none) :
    csrUpdate f d a n s = (s, .fault 0x06 0 0) := by
  rw [csrUpdate, State.unlessPoison_of_clean hp, hr]

theorem csrUpdate_of_refused {old : Word} (hp : s.xp a = false) (hr : s.csrRead n.toNat = some old)
    (hw : s.csrWrite n.toNat (f old (s.x a)) = .refused) : csrUpdate f d a n s = (s, .fault 0x06 0 0) := by
  rw [csrUpdate, State.unlessPoison_of_clean hp, hr]
  simp only [hw]

theorem csrUpdate_of_ok {old : Word} {r : State} (hp : s.xp a = false) (hr : s.csrRead n.toNat = some old)
    (hw : s.csrWrite n.toNat (f old (s.x a)) = .ok r) : csrUpdate f d a n s = (r.setX d old false, .done) := by
  rw [csrUpdate, State.unlessPoison_of_clean hp, hr]
  simp only [hw]

/-- An instruction whose meaning is an update of a CSR takes the faults and the effect of R169 and R170, in their order. -/
theorem csrUpdate_acts (h : s.Ready) {i : Instr} (hi : exec i s = issue .plain 4 s (csrUpdate f d a n)) :
    (s.xp a = true → Faults i s 0x51 0 0)
    ∧ (s.xp a = false → s.csrRead n.toNat = none → Faults i s 0x06 0 0)
    ∧ ∀ old, s.xp a = false → s.csrRead n.toNat = some old →
      (s.csrWrite n.toNat (f old (s.x a)) = .refused → Faults i s 0x06 0 0)
      ∧ ∀ r, s.csrWrite n.toNat (f old (s.x a)) = .ok r → Effects i s (r.setX d old false) 4 :=
  ⟨fun hp => faults_of h hi (State.unlessPoison_of_poisoned hp _),
    fun hp hr => faults_of h hi (csrUpdate_of_unreadable hp hr),
    fun _ hp hr => ⟨fun hw => faults_of h hi (csrUpdate_of_refused hp hr hw),
      fun _ hw => effects_of h hi (csrUpdate_of_ok hp hr hw)⟩⟩

theorem csrr_givesX {v : Word} (h : s.Ready) (hr : s.csrRead n.toNat = some v) : GivesX (.csrr d n) s d v false 4 := by
  change ∃ t, execCsrr d n s = .next t ∧ _
  rw [execCsrr]
  exact issue_result h .plain 4 _ d [] v (by simp only [hr]; rfl)

theorem csrr_faults (h : s.Ready) (hr : s.csrRead n.toNat = none) : Faults (.csrr d n) s 0x06 0 0 := by
  change execCsrr d n s = _
  rw [execCsrr]
  exact issue_fault h .plain 4 _ _ _ _ (by simp only [hr])

end Update

theorem csrInstructionsReadAndWrite : Stated.CsrInstructionsReadAndWrite := fun _ h _ _ _ =>
  ⟨fun _ hr => csrr_givesX h hr, fun hr => csrr_faults h hr,
    csrUpdate_acts h (f := fun _ x => x) rfl, csrUpdate_acts h (f := fun o x => o ||| x) rfl,
    csrUpdate_acts h (f := fun o x => o &&& ~~~x) rfl⟩

/-! ## What a write stores (R12, R119, R120, R169, R309, R323, R493) -/

section Write

variable (s : State) (v : Word)

theorem State.csrWrite_tflags : s.csrWrite 0x000 v = .ok (s.setThr { s.thr with tflags := v &&& 0x1FF }) := rfl

theorem State.csrWrite_lr : s.csrWrite 0x1A0 v = .ok (s.setThr { s.thr with lr := v }) := rfl

theorem State.csrWrite_gain : s.csrWrite 0x096 v = .ok (s.setTk { s.tk with gain := min (v.toNat % 16) 12 }) := rfl

theorem State.csrWrite_trapent :
    s.csrWrite 0x030 v = if s.cur.2 == 0 then .ok (s.setTk { s.tk with trapent := v &&& ~~~3 }) else .refused := rfl

theorem State.csrWrite_stagger :
    s.csrWrite 0x0CA v = if s.cur.2 == 0 then .ok (s.setTk { s.tk with stagger := v &&& 0x3FF }) else .refused := rfl

theorem State.csrWrite_pmctl :
    s.csrWrite 0x170 v = if s.cur.2 == 0 then .ok (s.setTk { s.tk with pmctl := pmctlOf s.tk.pmctl v }) else .refused := rfl

theorem State.csrWrite_phprobe : s.csrWrite 0x093 v = if s.tk.phaseHere then
    .ok (s.setCluster s.tk.cluster { s.cluster s.tk.cluster with phprobe := phprobeOf v }) else .refused := rfl

theorem State.csrWrite_drlimit : s.csrWrite 0x094 v = if s.tk.phaseHere then
    .ok (s.setCluster s.tk.cluster { s.cluster s.tk.cluster with drlimit := v.toNat % 256 }) else .refused := rfl

/-- No number from 0x001 to 0x02F, and none above LINK, takes a write (R169). -/
theorem State.csrWrite_of_outside {n : Nat} (hpos : 0 < n) (hout : n < 0x030 ∨ 0x1A0 < n) : s.csrWrite n v = .refused := by
  have htcfg : (decide (0x080 ≤ n) && decide (n ≤ 0x08F)) = false := by simp; omega
  have hpmt : (decide (0x160 ≤ n) && decide (n ≤ 0x16F)) = false := by simp; omega
  have hmon : (decide (0x174 ≤ n) && decide (n ≤ 0x177)) = false := by simp; omega
  unfold State.csrWrite
  split
  case h_13 => simp [htcfg, hpmt, hmon]
  all_goals omega

end Write

/-- A core's write of PMCTL leaves BKSTOP to the debugger (R493). -/
theorem pmctlOf_bkstop (old v : Word) : (pmctlOf old v).getLsbD 2 = old.getLsbD 2 := by
  simp [pmctlOf]

/-- PHPROBE keeps to 1 to 16 (R309). -/
theorem phprobeOf_range (v : Word) : 1 ≤ phprobeOf v ∧ phprobeOf v ≤ 16 := by
  simp only [phprobeOf, beq_iff_eq]
  split
  · omega
  · split <;> omega

theorem csrWritesStoreFields : Stated.CsrWritesStoreFields := by
  intro s v
  refine ⟨s.csrWrite_tflags v, s.csrWrite_lr v, s.csrWrite_gain v, fun hc => ?control, fun hc => ?helper, fun hp => ?noPhase,
    fun hp => ?phase, fun n hlo hhi => s.csrWrite_of_outside v hlo (.inl (by omega)),
    fun n hn => s.csrWrite_of_outside v (by omega) (.inr (by omega))⟩
  case control =>
    have hb : (s.cur.2 == 0) = true := by simp [hc]
    rw [s.csrWrite_trapent, s.csrWrite_stagger, s.csrWrite_pmctl]
    refine ⟨if_pos hb, if_pos hb, _, if_pos hb, ?_⟩
    rw [State.tk_setTk]
    exact pmctlOf_bkstop _ v
  case helper =>
    have hb : ¬ (s.cur.2 == 0) = true := by simp [hc]
    rw [s.csrWrite_trapent, s.csrWrite_stagger, s.csrWrite_pmctl]
    exact ⟨if_neg hb, if_neg hb, if_neg hb⟩
  case noPhase =>
    rw [s.csrWrite_phprobe, s.csrWrite_drlimit]
    simp [hp]
  case phase =>
    rw [s.csrWrite_phprobe]
    refine ⟨_, if_pos hp, ?_⟩
    rw [State.cluster_setCluster_self]
    exact phprobeOf_range v

/-! ## A write that reaches a core (R168, R171) -/

section WriteBy

variable {s r : State} {core slot n tid : Nat} {v : Word}

theorem State.csrWriteBy_of_ok (hrun : s.running core = some tid) (hw : ({ s with cur := (tid, slot) } : State).csrWrite n v = .ok r) :
    s.csrWriteBy core slot n v = { r with cur := s.cur } := by
  simp only [State.csrWriteBy, hrun, hw]

theorem State.csrWriteBy_of_refused (hrun : s.running core = some tid)
    (hw : ({ s with cur := (tid, slot) } : State).csrWrite n v = .refused) : s.csrWriteBy core slot n v = s := by
  simp only [State.csrWriteBy, hrun, hw]

theorem State.csrWriteBy_of_idle (hrun : s.running core = none) : s.csrWriteBy core slot n v = s := by
  simp only [State.csrWriteBy, hrun]

theorem exec_csrWrite : exec (.csrWrite core slot n v) s = .next (s.csrWriteBy core slot n v) := rfl

end WriteBy

theorem csrWriteEventsAct : Stated.CsrWriteEventsAct := by
  intro s core slot n v
  refine ⟨fun tid r hrun hw => ?taken, fun tid hrun hw => ?refused, fun hrun => ?idle, fun tid hrun => ?link⟩
  case taken => rw [exec_csrWrite, State.csrWriteBy_of_ok hrun hw]
  case refused => rw [exec_csrWrite, State.csrWriteBy_of_refused hrun hw]
  case idle => rw [exec_csrWrite, State.csrWriteBy_of_idle hrun]
  case link =>
    rw [exec_csrWrite, State.csrWriteBy_of_ok hrun (State.csrWrite_lr _ v)]
    rfl

/-- Settles O46, part by part: the instructions, the writes that reach a core, and what a write stores. -/
theorem csrInstructionsAct : Obligations.CsrInstructionsAct :=
  ⟨csrInstructionsReadAndWrite, csrWriteEventsAct, csrWritesStoreFields⟩

end Sys2Proof.Machine
end

/-!
SUPPORT. The fuses and the core clock (R35, R42). Nothing but power good and the power sample touches them: one lemma per operation of the
machine, in the order in which the operations call each other, says that the state after it has the same map of enabled units and the same clock.
-/

namespace Sys2Proof.Machine

section Units

/-- No unit is enabled or disabled and the clock stands still. -/
abbrev State.SameUnits (s t : State) : Prop := t.enmap = s.enmap ∧ t.clock = s.clock

namespace State.SameUnits
theorem refl (s : State) : s.SameUnits s := ⟨rfl, rfl⟩

theorem trans {s t u : State} (h : s.SameUnits t) (h' : t.SameUnits u) : s.SameUnits u := ⟨h'.1.trans h.1, h'.2.trans h.2⟩

theorem getD {s : State} {o : Option State} (h : ∀ t, o = some t → s.SameUnits t) : s.SameUnits (o.getD s) := by
  cases o with
  | none => exact refl s
  | some t => exact h t rfl

theorem foldl_fst {α β : Type} (f : State × α → β → State × α) (h : ∀ (a : State × α) b, a.1.SameUnits (f a b).1) (l : List β) (a : State × α) :
    a.1.SameUnits (l.foldl f a).1 := by
  induction l generalizing a with
  | nil => exact refl a.1
  | cons b l ih => exact (h a b).trans (ih _)

theorem foldl {β : Type} {f : State → β → State} (h : ∀ (s : State) b, s.SameUnits (f s b)) (l : List β) (s : State) : s.SameUnits (l.foldl f s) := by
  induction l generalizing s with
  | nil => exact refl s
  | cons b l ih => exact (h s b).trans (ih _)

theorem foldl_bind {β : Type} {f : State → β → Option State} (h : ∀ (s : State) b t, f s b = some t → s.SameUnits t) {s : State} (l : List β)
    {o : Option State} (ho : ∀ t, o = some t → s.SameUnits t) : ∀ t, l.foldl (fun o b => o.bind fun s => f s b) o = some t → s.SameUnits t := by
  induction l generalizing o with
  | nil => exact ho
  | cons b l ih =>
    refine ih fun t ht => ?_
    obtain ⟨u, hu, ht⟩ := Option.bind_eq_some_iff.mp ht
    exact (ho u hu).trans (h u b t ht)

end State.SameUnits

variable (s : State)

/-! ## The operations of the machine -/

theorem State.setTask_sameUnits (tid k) : s.SameUnits (s.setTask tid k) := ⟨rfl, rfl⟩
theorem State.setThread_sameUnits (tid slot t) : s.SameUnits (s.setThread tid slot t) := ⟨rfl, rfl⟩
theorem State.setThr_sameUnits (t) : s.SameUnits (s.setThr t) := ⟨rfl, rfl⟩

theorem State.countHandler_sameUnits : s.SameUnits s.countHandler := by
  unfold State.countHandler
  grind [State.setThr_sameUnits]

theorem State.dropReplicas_sameUnits (ls) : s.SameUnits (s.dropReplicas ls) := ⟨rfl, rfl⟩

theorem State.countAccess_sameUnits (ctx pa n write) : s.SameUnits (s.countAccess ctx pa n write) := by
  unfold State.countAccess
  grind

theorem State.countVia_sameUnits (t va n write) : s.SameUnits (s.countVia t va n write) := by
  unfold State.countVia
  grind [State.countAccess_sameUnits]

theorem State.ownHost_sameUnits (va key n) : s.SameUnits (s.ownHost va key n) := ⟨rfl, rfl⟩

theorem State.homeWrite_sameUnits (t va bs) : s.SameUnits (s.homeWrite t va bs) := by
  unfold State.homeWrite
  grind [State.dropReplicas_sameUnits, State.countVia_sameUnits, State.ownHost_sameUnits]

theorem State.engineWrite_sameUnits (ctx va bs fuel) : ∀ t, s.engineWrite ctx va bs fuel = some t → s.SameUnits t := by
  fun_induction State.engineWrite s ctx va bs fuel <;> grind [State.homeWrite_sameUnits]

/-- A write that is dropped where it cannot be made. -/
theorem State.engineWrite_getD_sameUnits (ctx va bs fuel) : s.SameUnits ((s.engineWrite ctx va bs fuel).getD s) :=
  State.SameUnits.getD (s.engineWrite_sameUnits ctx va bs fuel)

theorem State.setCore_sameUnits (c k) : s.SameUnits (s.setCore c k) := ⟨rfl, rfl⟩

theorem State.traceRec_sameUnits (tid slot ty flags value) : s.SameUnits (s.traceRec tid slot ty flags value) := by
  unfold State.traceRec
  grind [State.engineWrite_sameUnits, State.engineWrite_getD_sameUnits, State.setCore_sameUnits]

theorem State.cancelSfu_sameUnits (tid slot) : s.SameUnits (s.cancelSfu tid slot) := ⟨rfl, rfl⟩

theorem State.holdThread_sameUnits (tid slot) : s.SameUnits (s.holdThread tid slot) := by
  unfold State.holdThread
  grind [State.traceRec_sameUnits, State.cancelSfu_sameUnits, State.setThread_sameUnits]

theorem State.holdIfStopping_sameUnits (tid slot) : s.SameUnits (s.holdIfStopping tid slot) := by
  unfold State.holdIfStopping
  grind [State.holdThread_sameUnits]

theorem State.orphanLoads_sameUnits (tid slot) : s.SameUnits (s.orphanLoads tid slot) := ⟨rfl, rfl⟩

theorem State.leaveRdv_sameUnits (tid slot) : s.SameUnits (s.leaveRdv tid slot) := by
  unfold State.leaveRdv
  grind [State.setTask_sameUnits]

theorem State.takeFault_sameUnits (tid slot code kind addr info1 info2) : s.SameUnits (s.takeFault tid slot code kind addr info1 info2) := by
  unfold State.takeFault
  grind [State.traceRec_sameUnits, State.orphanLoads_sameUnits, State.cancelSfu_sameUnits, State.leaveRdv_sameUnits, State.setThread_sameUnits]

theorem State.setStack_sameUnits (n k) : s.SameUnits (s.setStack n k) := ⟨rfl, rfl⟩

theorem State.holdAt_sameUnits (k m) : s.SameUnits (s.holdAt k m) := by
  unfold State.holdAt
  grind [State.setStack_sameUnits]

theorem State.holdWait_sameUnits (w m) : s.SameUnits (s.holdWait w m) := by
  unfold State.holdWait
  grind [State.holdAt_sameUnits]

theorem State.setCtx_sameUnits (c k) : s.SameUnits (s.setCtx c k) := ⟨rfl, rfl⟩
theorem State.noteWalk_sameUnits (ctx) : s.SameUnits (s.noteWalk ctx) := ⟨rfl, rfl⟩
theorem State.setCluster_sameUnits (c k) : s.SameUnits (s.setCluster c k) := ⟨rfl, rfl⟩

theorem State.walkFor_sameUnits (cl ctx va) : s.SameUnits (s.walkFor cl ctx va).1 := by
  unfold State.walkFor
  grind [State.noteWalk_sameUnits, State.setCluster_sameUnits]

theorem State.pendFault_sameUnits (tid f) : s.SameUnits (s.pendFault tid f) := by
  unfold State.pendFault
  grind [State.setTask_sameUnits]

theorem State.renewPart_sameUnits (tid slot age p fuel) : s.SameUnits (s.renewPart tid slot age p fuel).1 := by
  fun_induction State.renewPart s tid slot age p fuel <;> grind [State.walkFor_sameUnits, State.holdWait_sameUnits, State.pendFault_sameUnits]

theorem State.renewParts_sameUnits (tid slot age ps) : s.SameUnits (s.renewParts tid slot age ps).1 := by
  fun_induction State.renewParts s tid slot age ps <;> grind [State.renewPart_sameUnits]

theorem State.sendPacket_sameUnits (p) : s.SameUnits (s.sendPacket p) := ⟨rfl, rfl⟩

theorem State.sendRemote_sameUnits (m who p) : s.SameUnits (s.sendRemote m who p) := by
  unfold State.sendRemote
  grind [State.sendPacket_sameUnits]

theorem State.dropLines_sameUnits (core f) : s.SameUnits (s.dropLines core f) := ⟨rfl, rfl⟩

theorem State.updateLines_sameUnits (core ctx va t bs) : s.SameUnits (s.updateLines core ctx va t bs) := by
  unfold State.updateLines
  grind [State.dropLines_sameUnits, State.setCore_sameUnits]

/-- The state that a part of a store leaves. -/
def Perf.state : Perf → State
  | .gone s => s
  | .view s => s
  | .stays s _ => s

theorem State.sendPart_sameUnits (tid slot age p) : s.SameUnits (s.sendPart tid slot age p).state := by
  unfold State.sendPart
  grind [Perf.state, State.pendFault_sameUnits, State.holdAt_sameUnits, State.sendRemote_sameUnits, State.homeWrite_sameUnits, State.updateLines_sameUnits]

theorem State.sendParts_sameUnits (tid slot age before views ps) : s.SameUnits (s.sendParts tid slot age before views ps).1 := by
  fun_induction State.sendParts s tid slot age before views ps <;> grind [Perf.state, State.sendPart_sameUnits]

theorem State.performViews_sameUnits (tid slot age ps fuel) : s.SameUnits (s.performViews tid slot age ps fuel).1 := by
  fun_induction State.performViews s tid slot age ps fuel with
  | case1 => exact .refl _
  | case2 => exact .refl _
  | case3 => grind [State.sendRemote_sameUnits]
  | case4 s fuel p ps sp fr fmt hf u mine ws k rest s' hsp ih =>
    have hs : s.SameUnits s' := .foldl (fun s q => ((s.countVia_sameUnits _ _ _ _).trans (State.dropReplicas_sameUnits _ _)).trans
      (State.updateLines_sameUnits _ _ _ _ _ _)) _ _
    exact hs.trans ih

theorem State.sendSome_sameUnits (tid slot age before ps) : s.SameUnits (s.sendSome tid slot age before ps).1 := by
  unfold State.sendSome
  grind [State.renewParts_sameUnits, State.sendParts_sameUnits, State.performViews_sameUnits]

theorem State.setEntry_sameUnits (tid slot age ps) : s.SameUnits (s.setEntry tid slot age ps) := ⟨rfl, rfl⟩

theorem State.performEntry_sameUnits (tid slot age) : s.SameUnits (s.performEntry tid slot age) := by
  unfold State.performEntry
  grind [State.sendSome_sameUnits, State.setEntry_sameUnits]

theorem State.performWhere_sameUnits (tid f) : s.SameUnits (s.performWhere tid f) :=
  .foldl (fun s (e : Nat × Nat × BufStore) => s.performEntry_sameUnits tid e.2.1 e.1) _ _

theorem State.drain_sameUnits (tid slot) : s.SameUnits (s.drain tid slot).1 := by
  unfold State.drain
  grind [State.performWhere_sameUnits]

theorem State.setTk_sameUnits (k) : s.SameUnits (s.setTk k) := ⟨rfl, rfl⟩

theorem State.deliver_sameUnits (p l) : s.SameUnits (s.deliver p l).1 := by
  unfold State.deliver
  grind [State.setTk_sameUnits]

theorem State.stopCore_sameUnits (core) : s.SameUnits (s.stopCore core) := by
  unfold State.stopCore
  dsimp only
  split
  · exact s.setCore_sameUnits _ _
  · exact (s.setCore_sameUnits _ _).trans (.foldl (fun s i => s.holdThread_sameUnits _ i) _ _)

theorem State.trapReturn_sameUnits : s.SameUnits (s.trapReturn).1 := by
  unfold State.trapReturn
  grind [State.setThr_sameUnits]

theorem State.enterHandler_sameUnits (tid slot i) : s.SameUnits (s.enterHandler tid slot i) := by
  unfold State.enterHandler
  grind [State.setThread_sameUnits, State.traceRec_sameUnits]

theorem State.passShadow_sameUnits (tid) : s.SameUnits (s.passShadow tid) := by
  unfold State.passShadow
  grind [State.enterHandler_sameUnits, State.setThread_sameUnits]

theorem State.leaveHandler_sameUnits (tid slot) : s.SameUnits (s.leaveHandler tid slot) := by
  unfold State.leaveHandler
  grind [State.setThread_sameUnits, State.passShadow_sameUnits, State.traceRec_sameUnits]

theorem State.dropFetches_sameUnits (tid) : s.SameUnits (s.dropFetches tid) := ⟨rfl, rfl⟩
theorem State.flushCode_sameUnits (tid) : s.SameUnits (s.flushCode tid) := ⟨rfl, rfl⟩
theorem State.setX_sameUnits (r v p) : s.SameUnits (s.setX r v p) := ⟨rfl, rfl⟩

theorem State.result_sameUnits (d srcs v) : s.SameUnits (s.result d srcs v).1 := by
  unfold State.result
  grind [State.setX_sameUnits]

theorem alu2_sameUnits (f d a b) : s.SameUnits (alu2 f d a b s).1 := by
  unfold alu2
  grind [State.result_sameUnits]

theorem alu1_sameUnits (f d a) : s.SameUnits (alu1 f d a s).1 := by
  unfold alu1
  grind [State.result_sameUnits]

theorem State.translate_sameUnits (cl ctx va k) : s.SameUnits (s.translate cl ctx va k).1 := by
  unfold State.translate
  grind [State.walkFor_sameUnits]

theorem State.pagesOf_sameUnits (cl ctx k a n fuel) : s.SameUnits (s.pagesOf cl ctx k a n fuel).1 := by
  fun_induction State.pagesOf s cl ctx k a n fuel <;> grind [State.translate_sameUnits]

theorem State.check_sameUnits (tid a n k dataPois) : s.SameUnits (s.check tid a n k dataPois).1 := by
  unfold State.check
  grind [State.pagesOf_sameUnits]

theorem State.sameFormat_sameUnits (tid va n t) : s.SameUnits (s.sameFormat tid va n t).1 := by
  unfold State.sameFormat
  grind [State.performWhere_sameUnits]

theorem State.keepOver_sameUnits (tid slot va n t) : s.SameUnits (s.keepOver tid slot va n t) := ⟨rfl, rfl⟩

theorem State.loadHome_sameUnits (tid slot va n t) : s.SameUnits (s.loadHome tid slot va n t).1 := by
  unfold State.loadHome
  grind [State.sendRemote_sameUnits, State.keepOver_sameUnits, State.countVia_sameUnits]

theorem State.loadLine_sameUnits (tid slot va n t) : s.SameUnits (s.loadLine tid slot va n t).1 := by
  unfold State.loadLine
  grind [State.loadHome_sameUnits, State.countVia_sameUnits, State.setCore_sameUnits]

theorem State.loadLines_sameUnits (tid slot va n t fuel) : s.SameUnits (s.loadLines tid slot va n t fuel).1 := by
  fun_induction State.loadLines s tid slot va n t fuel <;> grind [State.loadLine_sameUnits]

theorem State.loadPiece_sameUnits (tid slot p) : s.SameUnits (s.loadPiece tid slot p).1 := by
  unfold State.loadPiece
  grind [State.sameFormat_sameUnits, State.loadLines_sameUnits, State.loadHome_sameUnits]

theorem State.loadPieces_sameUnits (tid slot ps) : s.SameUnits (s.loadPieces tid slot ps).1 := by
  fun_induction State.loadPieces s tid slot ps <;> grind [State.loadPiece_sameUnits]

theorem State.load_sameUnits (tid slot a n) : s.SameUnits (s.load tid slot a n).1 := by
  unfold State.load
  grind [State.check_sameUnits, State.loadPieces_sameUnits]

theorem State.notePload_sameUnits (tid bs) : s.SameUnits (s.notePload tid bs) := by
  unfold State.notePload
  grind [State.setTask_sameUnits]

theorem loadTo_sameUnits (n f d addr) : s.SameUnits (loadTo n f d addr s).1 := by
  unfold loadTo
  grind [Got.bind, State.load_sameUnits, State.setX_sameUnits, State.notePload_sameUnits]

theorem memLoad_sameUnits (n f d a off) : s.SameUnits (memLoad n f d a off s).1 := by
  unfold memLoad
  grind [State.unlessPoison, loadTo_sameUnits]

theorem State.writeWin_sameUnits (key bs) : s.SameUnits (s.writeWin key bs) := by
  unfold State.writeWin
  grind

theorem storePieces_sameUnits (first ps bs) : s.SameUnits (storePieces s first ps bs).1 := by
  fun_induction storePieces s first ps bs <;> grind [State.writeWin_sameUnits]

theorem State.storeChecked_sameUnits (tid slot es) : s.SameUnits (s.storeChecked tid slot es).1 := by
  have hput := State.SameUnits.foldl_fst (fun (a : State × List StorePart) (e : Nat × List Piece × List PByte) =>
    ((storePieces a.1 e.1 e.2.1 e.2.2).1, a.2 ++ (storePieces a.1 e.1 e.2.1 e.2.2).2)) (fun a e => storePieces_sameUnits a.1 _ _ _) es (s, [])
  unfold State.storeChecked
  grind [State.setTask_sameUnits]

theorem State.store_sameUnits (tid slot a bs) : s.SameUnits (s.store tid slot a bs).1 := by
  unfold State.store
  grind [State.check_sameUnits, State.storeChecked_sameUnits]

theorem memStore_sameUnits (n b a off) : s.SameUnits (memStore n b a off s).1 := by
  unfold memStore
  grind [State.unlessPoison, Got.bind, State.store_sameUnits]

theorem State.link_sameUnits (len) : s.SameUnits (s.link len) := ⟨rfl, rfl⟩

theorem jumpBy_sameUnits (len off link) : s.SameUnits (jumpBy len off link s).1 := by
  unfold jumpBy
  grind [State.link_sameUnits]

theorem jumpReg_sameUnits (a imm link) : s.SameUnits (jumpReg a imm link s).1 := by
  unfold jumpReg
  grind [State.unlessPoison, State.link_sameUnits]

theorem State.orFlags_sameUnits (fl) : s.SameUnits (s.orFlags fl) := ⟨rfl, rfl⟩

theorem State.fpResult_sameUnits (d srcs r) : s.SameUnits (s.fpResult d srcs r).1 := by
  unfold State.fpResult
  grind [State.orFlags_sameUnits, State.setX_sameUnits]

theorem fp2_sameUnits (op ty d a b) : s.SameUnits (fp2 op ty d a b s).1 := by
  unfold fp2
  grind [State.fpResult_sameUnits]

theorem fp1_sameUnits (op ty d a) : s.SameUnits (fp1 op ty d a s).1 := by
  unfold fp1
  grind [State.fpResult_sameUnits]

theorem fpSign_sameUnits (g ty d a b) : s.SameUnits (fpSign g ty d a b s).1 := by
  unfold fpSign
  grind [State.fpResult_sameUnits]

theorem fpCmp_sameUnits (op ty d a b) : s.SameUnits (fpCmp op ty d a b s).1 := by
  unfold fpCmp
  grind [State.fpResult_sameUnits]

theorem fpToInt_sameUnits (signed ty d a rm w) : s.SameUnits (fpToInt signed ty d a rm w s).1 := by
  unfold fpToInt
  grind [State.fpResult_sameUnits]

theorem fpOfInt_sameUnits (signed ty d a rm w) : s.SameUnits (fpOfInt signed ty d a rm w s).1 := by
  unfold fpOfInt
  grind [State.fpResult_sameUnits]

theorem fpFma_sameUnits (np nc ty rm d a b c) : s.SameUnits (fpFma np nc ty rm d a b c s).1 := by
  unfold fpFma
  grind [State.fpResult_sameUnits]

theorem State.writeMoncfg_sameUnits (core n v) : s.SameUnits (s.writeMoncfg core n v) := ⟨rfl, rfl⟩

theorem State.csrWrite_sameUnits (n v) : ∀ t, s.csrWrite n v = .ok t → s.SameUnits t := by
  unfold State.csrWrite State.writeTcfg
  grind [State.setThr_sameUnits, State.setTk_sameUnits, State.setCluster_sameUnits, State.writeMoncfg_sameUnits]

theorem csrUpdate_sameUnits (f d a csr) : s.SameUnits (csrUpdate f d a csr s).1 := by
  unfold csrUpdate
  grind [State.unlessPoison, State.csrWrite_sameUnits, State.setX_sameUnits]

theorem State.performOver_sameUnits (tid slot va n t) : s.SameUnits (s.performOver tid slot va n t).1 := by
  unfold State.performOver
  grind [State.performWhere_sameUnits]

theorem State.atTurn_sameUnits (tid slot tag va n t g) : s.SameUnits (s.atTurn tid slot tag va n t g).1 := by
  unfold State.atTurn
  grind [State.pendFault_sameUnits, State.sendRemote_sameUnits, State.homeWrite_sameUnits, State.dropLines_sameUnits]

theorem State.atomicPiece_sameUnits (tid slot tag p g) : s.SameUnits (s.atomicPiece tid slot tag p g).1 := by
  unfold State.atomicPiece
  grind [State.writeWin_sameUnits, State.performOver_sameUnits, State.atTurn_sameUnits]

theorem State.atomic_sameUnits (tid slot a n tag g) : s.SameUnits (s.atomic tid slot a n tag g).1 := by
  unfold State.atomic
  grind [State.check_sameUnits, State.atomicPiece_sameUnits]

theorem scalarAmo_sameUnits (op dbl d a b) : s.SameUnits (scalarAmo op dbl d a b s).1 := by
  unfold scalarAmo
  grind [State.unlessPoison, Got.bind, State.atomic_sameUnits, State.setX_sameUnits]

theorem State.nameObj_sameUnits (a) : s.SameUnits (s.nameObj a).1 := by
  unfold State.nameObj
  grind [State.translate_sameUnits]

theorem State.followObjs_sameUnits (k) : s.SameUnits (s.followObjs k) := ⟨rfl, rfl⟩
theorem State.setObjField_sameUnits (key f v) : s.SameUnits (s.setObjField key f v) := ⟨rfl, rfl⟩
theorem State.setObj_sameUnits (o) : s.SameUnits (s.setObj o) := ⟨rfl, rfl⟩
theorem State.grantTo_sameUnits (o tid) : s.SameUnits (s.grantTo o tid) := ⟨rfl, rfl⟩

theorem State.complete_sameUnits (tid slot len) : s.SameUnits (s.complete tid slot len) := by
  unfold State.complete
  grind [State.holdIfStopping_sameUnits, State.setThread_sameUnits]

theorem State.grantQueued_sameUnits (o fuel) : s.SameUnits (s.grantQueued o fuel) := by
  fun_induction State.grantQueued s o fuel <;> grind [State.setObj_sameUnits, State.complete_sameUnits, State.grantTo_sameUnits]

theorem State.release_sameUnits (o tid slot) : s.SameUnits (s.release o tid slot) := by
  unfold State.release
  grind [State.setObjField_sameUnits, State.grantQueued_sameUnits]

theorem State.keepReplica_sameUnits (addr) : s.SameUnits (s.keepReplica addr) := by
  unfold State.keepReplica
  grind

theorem hexitOp_sameUnits (a) : s.SameUnits (hexitOp a s).1 := by
  unfold hexitOp
  grind [State.drainThen, State.drain_sameUnits, State.deliverOr, State.deliver_sameUnits, State.setThr_sameUnits]

theorem State.joinRelease_sameUnits (tid slot) : s.SameUnits (s.joinRelease tid slot) := by
  unfold State.joinRelease
  grind [State.complete_sameUnits, State.setTask_sameUnits]

theorem State.freeOther_sameUnits (core shadow) : s.SameUnits (s.freeOther core shadow) := by
  unfold State.freeOther
  grind [State.setTask_sameUnits]

theorem State.leaveCore_sameUnits (tid) : s.SameUnits (s.leaveCore tid) := by
  unfold State.leaveCore
  grind [State.setTask_sameUnits, State.setCore_sameUnits, State.freeOther_sameUnits]

theorem State.setGroup_sameUnits (g) : s.SameUnits (s.setGroup g) := ⟨rfl, rfl⟩

theorem State.sendGroup_sameUnits (g ty ns) : s.SameUnits (s.sendGroup g ty ns) := by
  unfold State.sendGroup
  split
  · exact .refl s
  · exact .foldl (fun s m => s.sendRemote_sameUnits _ _ _) _ _

theorem State.breakHere_sameUnits (kid) : s.SameUnits (s.breakHere kid) := by
  refine .foldl (fun s tid => ?_) _ _
  grind [State.setThread_sameUnits, State.takeFault_sameUnits]

theorem State.breakGroups_sameUnits (kid) : s.SameUnits (s.breakGroups kid) := by
  unfold State.breakGroups
  grind [State.breakHere_sameUnits, State.sendGroup_sameUnits]

theorem State.groupDone_sameUnits (kid n gid) : s.SameUnits (s.groupDone kid n gid) := by
  unfold State.groupDone
  grind [State.sendGroup_sameUnits, State.setGroup_sameUnits]

theorem State.groupCheck_sameUnits (kid n gid) : s.SameUnits (s.groupCheck kid n gid) := by
  unfold State.groupCheck
  grind [State.setGroup_sameUnits, State.groupDone_sameUnits]

theorem State.groupFreed_sameUnits (kid n gid) : s.SameUnits (s.groupFreed kid n gid) := by
  have hstep (g : Group) := State.SameUnits.foldl (f := fun s (m : Nat × Nat) => s.setTask m.1 { s.task m.1 with sstep := sstepAdd (s.task m.1).sstep n })
    (fun s m => s.setTask_sameUnits m.1 _) g.steppers s
  unfold State.groupFreed
  grind [State.setGroup_sameUnits, State.breakGroups_sameUnits, State.groupCheck_sameUnits]

theorem State.memberExit_sameUnits (tid) : s.SameUnits (s.memberExit tid) := by
  refine .foldl (fun s n => ?_) _ _
  grind [State.setGroup_sameUnits, State.sendGroup_sameUnits, State.groupCheck_sameUnits, State.groupFreed_sameUnits]

theorem State.setKernel_sameUnits (k) : s.SameUnits (s.setKernel k) := ⟨rfl, rfl⟩

theorem State.exitTask_sameUnits (tid status) : s.SameUnits (s.exitTask tid status) := by
  unfold State.exitTask
  grind [State.leaveCore_sameUnits, State.setTask_sameUnits, State.memberExit_sameUnits, State.setKernel_sameUnits]

theorem kexitOp_sameUnits (a) : s.SameUnits (kexitOp a s).1 := by
  unfold kexitOp
  grind [State.controlOnly, State.drainThen, State.drain_sameUnits, State.deliverOr, State.deliver_sameUnits, State.exitTask_sameUnits]

theorem rdvOp_sameUnits (op d a id count) : s.SameUnits (rdvOp op d a id count s).1 := by
  unfold rdvOp
  grind [State.setTk_sameUnits, State.setX_sameUnits]

theorem alu0_sameUnits (v d) : s.SameUnits (alu0 v d s).1 := by
  unfold alu0
  grind [State.result_sameUnits]

theorem vecResult_sameUnits (f rs) : s.SameUnits (vecResult f rs s).1 := by
  unfold vecResult
  grind [State.setThr_sameUnits]

theorem vec2_sameUnits (g f b) : s.SameUnits (vec2 g f b s).1 := by
  unfold vec2
  grind [vecResult_sameUnits]

theorem vint2_sameUnits (g f lit) : s.SameUnits (vint2 g f lit s).1 := by
  unfold vint2
  grind [vec2_sameUnits]

theorem vec3_sameUnits (g f b c) : s.SameUnits (vec3 g f b c s).1 := by
  unfold vec3
  grind [vecResult_sameUnits]

theorem vmaddOp_sameUnits (f lit) : s.SameUnits (vmaddOp f lit s).1 := by
  unfold vmaddOp
  grind [vec3_sameUnits]

theorem vec1_sameUnits (g f b) : s.SameUnits (vec1 g f b s).1 := by
  unfold vec1
  grind [vecResult_sameUnits]

theorem vint1_sameUnits (g f lit) : s.SameUnits (vint1 g f lit s).1 := by
  unfold vint1
  grind [vec1_sameUnits]

theorem vdot4Op_sameUnits (f lit) : s.SameUnits (vdot4Op f lit s).1 := by
  unfold vdot4Op
  grind [vec3_sameUnits]

theorem vflt2_sameUnits (g f lit) : s.SameUnits (vflt2 g f lit s).1 := by
  unfold vflt2
  grind [vec2_sameUnits]

theorem vflt1_sameUnits (g f lit) : s.SameUnits (vflt1 g f lit s).1 := by
  unfold vflt1
  grind [vec1_sameUnits]

theorem vfmaOp_sameUnits (np nc f lit) : s.SameUnits (vfmaOp np nc f lit s).1 := by
  unfold vfmaOp
  grind [vec3_sameUnits]

theorem vfminmax_sameUnits (mx f lit) : s.SameUnits (vfminmax mx f lit s).1 := by
  unfold vfminmax
  grind [vflt2_sameUnits]

theorem vbit2_sameUnits (g f lit) : s.SameUnits (vbit2 g f lit s).1 := by
  unfold vbit2
  grind [vec2_sameUnits]

theorem vbit1_sameUnits (g f lit) : s.SameUnits (vbit1 g f lit s).1 := by
  unfold vbit1
  grind [vec1_sameUnits]

theorem predResult_sameUnits (f rs) : s.SameUnits (predResult f rs s).1 := by
  unfold predResult
  grind [State.setThr_sameUnits]

theorem vcmpOp_sameUnits (g f lit) : s.SameUnits (vcmpOp g f lit s).1 := by
  unfold vcmpOp
  grind [unlessLanePois, predResult_sameUnits, State.orFlags_sameUnits]

theorem vcmpInt_sameUnits (g f lit) : s.SameUnits (vcmpInt g f lit s).1 := by
  unfold vcmpInt
  grind [vcmpOp_sameUnits]

theorem plenOp_sameUnits (count f) : s.SameUnits (plenOp count f s).1 := by
  unfold plenOp
  grind [State.unlessPoison, predResult_sameUnits]

theorem pred2_sameUnits (g f) : s.SameUnits (pred2 g f s).1 := by
  unfold pred2
  grind [predResult_sameUnits]

theorem predX_sameUnits (g f) : s.SameUnits (predX g f s).1 := by
  unfold predX
  grind [State.setX_sameUnits]

theorem permResult_sameUnits (f ls) : s.SameUnits (permResult f ls s).1 := by
  unfold permResult
  grind [vecResult_sameUnits]

theorem vbcastOp_sameUnits (f) : s.SameUnits (vbcastOp f s).1 := by
  unfold vbcastOp
  grind [withIndex, State.unlessPoison, permResult_sameUnits]

theorem vextrOp_sameUnits (f) : s.SameUnits (vextrOp f s).1 := by
  unfold vextrOp
  grind [withIndex, State.unlessPoison, State.setX_sameUnits]

theorem vinsOp_sameUnits (f) : s.SameUnits (vinsOp f s).1 := by
  unfold vinsOp
  grind [withIndex, State.unlessPoison, State.setThr_sameUnits]

theorem vslideupOp_sameUnits (f) : s.SameUnits (vslideupOp f s).1 := by
  unfold vslideupOp
  grind [withIndex, State.unlessPoison, State.setThr_sameUnits]

theorem vslidednOp_sameUnits (f) : s.SameUnits (vslidednOp f s).1 := by
  unfold vslidednOp
  grind [withIndex, State.unlessPoison, permResult_sameUnits]

theorem vpermOp_sameUnits (f) : s.SameUnits (vpermOp f s).1 := by
  unfold vpermOp
  grind [permResult_sameUnits]

theorem vcompressOp_sameUnits (f) : s.SameUnits (vcompressOp f s).1 := by
  unfold vcompressOp
  grind [State.setThr_sameUnits]

theorem vexpandOp_sameUnits (f) : s.SameUnits (vexpandOp f s).1 := by
  unfold vexpandOp
  grind [permResult_sameUnits]

theorem vselOp_sameUnits (f) : s.SameUnits (vselOp f s).1 := by
  unfold vselOp
  grind [State.setThr_sameUnits]

theorem redResult_sameUnits (f v) : s.SameUnits (redResult f v s).1 := by
  unfold redResult
  grind [State.setX_sameUnits]

theorem redAdd_sameUnits (f) : s.SameUnits (redAdd f s).1 := by
  unfold redAdd
  grind [redResult_sameUnits]

theorem redFold_sameUnits (g e f) : s.SameUnits (redFold g e f s).1 := by
  unfold redFold
  grind [redResult_sameUnits]

theorem redFadd_sameUnits (f) : s.SameUnits (redFadd f s).1 := by
  unfold redFadd
  grind [redResult_sameUnits, State.orFlags_sameUnits]

theorem redFminmax_sameUnits (mx f) : s.SameUnits (redFminmax mx f s).1 := by
  unfold redFminmax
  grind [redResult_sameUnits, State.orFlags_sameUnits]

theorem cvtOp_sameUnits (pos f) : s.SameUnits (cvtOp pos f s).1 := by
  unfold cvtOp
  grind [vecResult_sameUnits]

theorem narrowOp_sameUnits (f) : s.SameUnits (narrowOp f s).1 := by
  unfold narrowOp
  grind [State.setThr_sameUnits]

theorem packOp_sameUnits (dx8 f) : s.SameUnits (packOp dx8 f s).1 := by
  unfold packOp
  grind [State.setThr_sameUnits]

theorem unpackOp_sameUnits (dx8 f) : s.SameUnits (unpackOp dx8 f s).1 := by
  unfold unpackOp
  grind [State.setThr_sameUnits]

theorem sfuOp_sameUnits (fn f) : s.SameUnits (sfuOp fn f s).1 := by
  unfold sfuOp
  grind [State.setTk_sameUnits, vec1_sameUnits]

theorem vecCheck_sameUnits (k n es) : s.SameUnits (vecCheck k n es s).1 := by
  fun_induction vecCheck k n es s <;> grind [State.check_sameUnits]

theorem vecLoads_sameUnits (es) : s.SameUnits (vecLoads es s).1 := by
  fun_induction vecLoads es s <;> grind [State.loadPieces_sameUnits]

theorem vecLoaded_sameUnits (f ls) : s.SameUnits (vecLoaded f ls s) := ⟨rfl, rfl⟩

theorem vecLoad_sameUnits (m f) : s.SameUnits (vecLoad m f s).1 := by
  unfold vecLoad
  grind [vecAccess, vecCheck_sameUnits, vecLoads_sameUnits, vecLoaded_sameUnits, State.notePload_sameUnits]

theorem vecLoadOnce_sameUnits (f) : s.SameUnits (vecLoadOnce f s).1 := by
  unfold vecLoadOnce
  grind [vecAccess, vecCheck_sameUnits, vecLoads_sameUnits, vecLoaded_sameUnits, State.notePload_sameUnits]

theorem firstFault_sameUnits (n es) : s.SameUnits (firstFault n es s).1 := by
  fun_induction firstFault n es s <;> grind [State.check_sameUnits]

theorem vecFirst_sameUnits (f) : s.SameUnits (vecFirst f s).1 := by
  unfold vecFirst
  grind [vecCheck_sameUnits, firstFault_sameUnits]

theorem vecLoadFirst_sameUnits (f) : s.SameUnits (vecLoadFirst f s).1 := by
  unfold vecLoadFirst
  grind [vecFirst_sameUnits, vecLoads_sameUnits, vecLoaded_sameUnits, State.notePload_sameUnits, State.setThr_sameUnits]

theorem vecStore_sameUnits (m f) : s.SameUnits (vecStore m f s).1 := by
  unfold vecStore
  grind [vecAccess, vecCheck_sameUnits, Got.bind, State.storeChecked_sameUnits]

theorem vecAmosFrom_sameUnits (op prev es) : s.SameUnits (vecAmosFrom op prev es s).1 := by
  fun_induction vecAmosFrom op prev es s <;> grind [State.atomicPiece_sameUnits, State.setThr_sameUnits]

theorem vecAmos_sameUnits (op es) : s.SameUnits (vecAmos op es s).1 := by
  unfold vecAmos
  grind [vecAmosFrom_sameUnits]

theorem vecAmo_sameUnits (op f) : s.SameUnits (vecAmo op f s).1 := by
  unfold vecAmo
  grind [vecAccess, vecCheck_sameUnits, vecAmos_sameUnits, vecLoaded_sameUnits]

theorem State.dropIssued_sameUnits (cl o) : s.SameUnits (s.dropIssued cl o) := ⟨rfl, rfl⟩

theorem State.issueOp_sameUnits (t) : s.SameUnits (s.issueOp t).1 := by
  unfold State.issueOp
  grind [State.setTk_sameUnits]

theorem State.arrive_sameUnits (cl o) : s.SameUnits (s.arrive cl o).1 := by
  unfold State.arrive
  grind [State.dropIssued_sameUnits, State.issueOp_sameUnits, State.setX_sameUnits, State.setCluster_sameUnits]

theorem State.submit_sameUnits (cl o) : s.SameUnits (s.submit cl o).1 := by
  unfold State.submit
  grind [State.setCluster_sameUnits]

theorem passOp_sameUnits (status d a b m) : s.SameUnits (passOp status d a b m s).1 := by
  unfold passOp
  grind [State.unlessPoison, State.submit_sameUnits]

theorem phaseOp_sameUnits (d a bank cap va kind) : s.SameUnits (phaseOp d a bank cap va kind s).1 := by
  unfold phaseOp
  grind [State.submit_sameUnits]

theorem State.setDie_sameUnits (d k) : s.SameUnits (s.setDie d k) := ⟨rfl, rfl⟩

theorem State.retire_sameUnits (tid t n) : s.SameUnits (s.retire tid t n) := by
  unfold State.retire
  grind [State.setTask_sameUnits]

theorem State.queueCopy_sameUnits (d o empty) : s.SameUnits (s.queueCopy d o empty).1 := by
  unfold State.queueCopy
  grind [State.issueOp_sameUnits, State.setX_sameUnits, State.retire_sameUnits, State.setCluster_sameUnits]

theorem State.flushPieces_sameUnits (tid slot ps) : s.SameUnits (s.flushPieces tid slot ps).1 := by
  fun_induction State.flushPieces s tid slot ps <;> grind [State.performOver_sameUnits]

theorem State.engineAsk_sameUnits (tid op va m p) : s.SameUnits (s.engineAsk tid op va m p).1 := by
  unfold State.engineAsk
  grind [State.sendRemote_sameUnits]

theorem State.engineLoadPiece_sameUnits (tid op p) : s.SameUnits (s.engineLoadPiece tid op p).1 := by
  unfold State.engineLoadPiece
  grind [State.holdAt_sameUnits, State.engineAsk_sameUnits, State.countVia_sameUnits]

theorem State.engineLoadPieces_sameUnits (tid op ps) : s.SameUnits (s.engineLoadPieces tid op ps).1 := by
  fun_induction State.engineLoadPieces s tid op ps <;> grind [State.engineLoadPiece_sameUnits]

theorem State.engineLoad_sameUnits (tid slot op va n) : s.SameUnits (s.engineLoad tid slot op va n).1 := by
  unfold State.engineLoad
  grind [State.check_sameUnits, State.holdWait_sameUnits, State.flushPieces_sameUnits, State.engineLoadPieces_sameUnits]

theorem State.forget_sameUnits (tid op) : s.SameUnits (s.forget tid op) := ⟨rfl, rfl⟩

theorem State.lookHandle_sameUnits (h) : s.SameUnits (s.lookHandle h).1 := by
  unfold State.lookHandle
  grind [State.engineLoad_sameUnits, State.forget_sameUnits, State.setCluster_sameUnits]

theorem State.countMiss_sameUnits : s.SameUnits s.countMiss := ⟨rfl, rfl⟩
theorem State.allocate_sameUnits (h blk base) : s.SameUnits (s.allocate h blk base) := ⟨rfl, rfl⟩

theorem lookBlock_sameUnits (d b h) : s.SameUnits (lookBlock d b h s).1 := by
  unfold lookBlock
  grind [State.setX_sameUnits, State.setCluster_sameUnits, State.countMiss_sameUnits, State.allocate_sameUnits]

theorem State.releaseMember_sameUnits (tid d) : s.SameUnits (s.releaseMember tid d) := by
  unfold State.releaseMember
  grind [State.setTask_sameUnits, State.dropLines_sameUnits, State.sendGroup_sameUnits, State.groupFreed_sameUnits, State.setGroup_sameUnits]

theorem State.awaitRelease_sameUnits (n d) : s.SameUnits (s.awaitRelease n d).1 := by
  unfold State.awaitRelease
  grind [State.releaseMember_sameUnits]

theorem State.register_sameUnits (n split vote pois op) : s.SameUnits (s.register n split vote pois op) := by
  unfold State.register
  grind [State.setTk_sameUnits, State.setGroup_sameUnits, State.sendGroup_sameUnits, State.breakGroups_sameUnits, State.groupCheck_sameUnits]

theorem arrive_sameUnits (n split d vote pois op) : s.SameUnits (arrive n split d vote pois op s).1 := by
  unfold arrive
  grind [State.barrierChecks, State.controlOnly, State.awaitRelease_sameUnits, State.drainThen, State.drain_sameUnits, State.deliverOr,
    State.deliver_sameUnits, State.register_sameUnits, State.setThr_sameUnits]

theorem swaitOp_sameUnits (n) : s.SameUnits (swaitOp n s).1 := by
  unfold swaitOp
  grind [State.barrierChecks, State.controlOnly, State.setThr_sameUnits, State.awaitRelease_sameUnits]

theorem State.xAdd_sameUnits (e) : s.SameUnits (s.xAdd e) := by
  unfold State.xAdd
  grind [State.setTk_sameUnits]

theorem klaunchRead_sameUnits (a) : s.SameUnits (klaunchRead a s).1 := by
  unfold klaunchRead
  grind [Got.bind, State.engineLoad_sameUnits, State.forget_sameUnits, State.setThr_sameUnits]

theorem State.sigRaise_sameUnits (ctx i v err nz) : s.SameUnits (s.sigRaise ctx i v err nz) := by
  unfold State.sigRaise
  grind [State.engineWrite_getD_sameUnits]

theorem State.lquery_sameUnits (cl ctx va) : s.SameUnits (s.lquery cl ctx va).1 := by
  unfold State.lquery
  grind [State.walkFor_sameUnits]

theorem State.retireLdrains_sameUnits : s.SameUnits s.retireLdrains :=
  .foldl (fun s d => s.retire_sameUnits _ _ _) _ _

theorem State.irAccept_sameUnits (d n slot buf data) : s.SameUnits (s.irAccept d n slot buf data).1 := by
  unfold State.irAccept
  grind [State.issueOp_sameUnits, State.setX_sameUnits]

theorem State.retireFailed_sameUnits (tid slot t n code addr info2) : s.SameUnits (s.retireFailed tid slot t n code addr info2) := by
  unfold State.retireFailed
  grind [State.retire_sameUnits, State.pendFault_sameUnits]

theorem State.setFw_sameUnits (k f) : s.SameUnits (s.setFw k f) := ⟨rfl, rfl⟩
theorem State.send_sameUnits (rcpt kind data) : s.SameUnits (s.send rcpt kind data) := ⟨rfl, rfl⟩

theorem State.ringOne_sameUnits (ctx r) : ∀ t, s.ringOne ctx r = some t → s.SameUnits t := by
  intro t h
  simp only [State.ringOne, Option.ite_none_right_eq_some, Option.map_eq_some_iff, Option.bind_eq_some_iff] at h
  obtain ⟨-, u, ⟨v, hv, hu⟩, rfl⟩ := h
  exact ((s.engineWrite_sameUnits _ _ _ _ v hv).trans (v.engineWrite_sameUnits _ _ _ _ u hu)).trans (u.setCtx_sameUnits _ _)

theorem State.ringPut_sameUnits (ctx r) : s.SameUnits (s.ringPut ctx r) := by
  unfold State.ringPut
  grind [State.send_sameUnits, State.ringOne_sameUnits, State.setCtx_sameUnits]

theorem State.measureAs_sameUnits (kind ev digest version) : s.SameUnits (s.measureAs kind ev digest version) := by
  unfold State.measureAs
  refine .trans ?_ (.foldl (fun s c => ?_) _ _)
  · exact ⟨rfl, rfl⟩
  · grind [State.ringPut_sameUnits]

theorem State.measure_sameUnits (kind ev) : s.SameUnits (s.measure kind ev) := by
  unfold State.measure
  grind [State.measureAs_sameUnits]

theorem State.measureBoot_sameUnits : s.SameUnits s.measureBoot := by
  unfold State.measureBoot
  grind [State.measureAs_sameUnits, State.measure_sameUnits]

theorem State.bootKind_sameUnits (kind) : s.SameUnits (s.bootKind kind) := ⟨rfl, rfl⟩
theorem State.stackReport_sameUnits (k ty count pa) : s.SameUnits (s.stackReport k ty count pa) := ⟨rfl, rfl⟩

theorem State.reportSpares_sameUnits (k) : s.SameUnits (s.reportSpares k) := by
  unfold State.reportSpares
  grind [State.stackReport_sameUnits]

theorem State.selectUp_sameUnits : s.SameUnits s.selectUp := by
  unfold State.selectUp
  grind

theorem State.setPort_sameUnits (p k) : s.SameUnits (s.setPort p k) := ⟨rfl, rfl⟩
theorem State.sendTrain_sameUnits (port) : s.SameUnits (s.sendTrain port) := ⟨rfl, rfl⟩

theorem State.toPort_sameUnits (port st) : s.SameUnits (s.toPort port st) := by
  unfold State.toPort
  grind [State.selectUp_sameUnits, State.setPort_sameUnits, State.sendTrain_sameUnits]

theorem State.dropOmu_sameUnits (cl o) : s.SameUnits (s.dropOmu cl o) := ⟨rfl, rfl⟩

theorem State.notePass_sameUnits (o e) : s.SameUnits (s.notePass o e) := by
  unfold State.notePass
  grind [State.setTask_sameUnits, State.setKernel_sameUnits]

theorem State.endPass_sameUnits (cl o fail) : s.SameUnits (s.endPass cl o fail) := by
  unfold State.endPass
  grind [State.dropOmu_sameUnits, State.retire_sameUnits, State.notePass_sameUnits, State.retireFailed_sameUnits]

theorem State.endOmu_sameUnits (cl o fail) : s.SameUnits (s.endOmu cl o fail) := by
  unfold State.endOmu
  grind [State.dropOmu_sameUnits, State.retire_sameUnits, State.retireFailed_sameUnits]

theorem State.omuLoss_sameUnits (cl) : s.SameUnits (s.omuLoss cl) := by
  refine (s.setCluster_sameUnits cl _).trans (.foldl (fun s o => ?_) _ _)
  grind [State.endPass_sameUnits, State.endOmu_sameUnits]

theorem State.fenceLane_sameUnits (port i) : s.SameUnits (s.fenceLane port i) := by
  unfold State.fenceLane
  grind [State.selectUp_sameUnits, State.setPort_sameUnits]

theorem State.dropWave_sameUnits (port i wave codeword) : s.SameUnits (s.dropWave port i wave codeword) := by
  unfold State.dropWave
  grind [State.fenceLane_sameUnits, State.setPort_sameUnits]

theorem State.lineLoss_sameUnits (src line) : s.SameUnits (s.lineLoss src line) := by
  unfold State.lineLoss
  split
  · exact .foldl (fun s i => s.omuLoss_sameUnits _) _ _
  · refine .foldl (fun s p => ?_) _ _
    split
    · exact .foldl (fun s i => s.dropWave_sameUnits _ _ _ _) _ _
    · grind [State.setPort_sameUnits]

theorem State.commit_sameUnits (cl o m xb) : s.SameUnits (s.commit cl o m xb) := ⟨rfl, rfl⟩

theorem State.sweep_sameUnits (cl fuel) : s.SameUnits (s.sweep cl fuel) := by
  fun_induction State.sweep s cl fuel <;> grind [State.endPass_sameUnits, State.commit_sameUnits]

theorem State.bankProbe_sameUnits (cl b e) : s.SameUnits (s.bankProbe cl b e) := by
  unfold State.bankProbe
  dsimp only
  split
  · exact .refl s
  · exact ((s.setCluster_sameUnits cl _).trans (.foldl (fun s o => s.endPass_sameUnits _ _ _) _ _)).trans (State.sweep_sameUnits _ _ _)

theorem State.omuRecover_sameUnits (cl res) : s.SameUnits (s.omuRecover cl res) := by
  refine .foldl (fun s b => ?_) _ _
  grind [State.bankProbe_sameUnits, State.setCluster_sameUnits]

theorem State.matchMember_sameUnits (tid i) : s.SameUnits (s.matchMember tid i) := by
  unfold State.matchMember
  grind [State.enterHandler_sameUnits, State.setThread_sameUnits]

theorem State.formGroup_sameUnits (core) : s.SameUnits (s.formGroup core) := by
  have hmatch (tid : Nat) (l : List Nat) := State.SameUnits.foldl (f := fun s i => s.matchMember tid i) (fun s i => s.matchMember_sameUnits tid i) l s
  unfold State.formGroup
  split
  · exact .refl s
  · dsimp only
    split
    · exact .refl s
    · split
      · exact hmatch _ _
      · exact hmatch _ _

theorem State.faultHeld_sameUnits (tid slot code kind addr info1 info2) : s.SameUnits (s.faultHeld tid slot code kind addr info1 info2) := by
  unfold State.faultHeld
  grind [State.takeFault_sameUnits]

theorem State.takeGranules_sameUnits (core ctx) : s.SameUnits (s.takeGranules core ctx) := by
  unfold State.takeGranules
  refine .foldl (fun s g => ?_) _ _
  grind [State.setCore_sameUnits]

theorem State.footToFrame_sameUnits (tid) : s.SameUnits (s.footToFrame tid) := by
  unfold State.footToFrame
  dsimp only
  split
  · exact .foldl (f := fun s off => s.dropReplicas _) (fun s off => s.dropReplicas_sameUnits _) _ s
  · exact .refl s

theorem State.switchMemory_sameUnits (core ctx) : s.SameUnits (s.switchMemory core ctx) := by
  unfold State.switchMemory
  exact (State.SameUnits.foldl (fun s t => s.footToFrame_sameUnits t) _ _).trans (State.takeGranules_sameUnits _ _ _)

theorem State.openGroups_sameUnits (tid) : s.SameUnits (s.openGroups tid) := ⟨rfl, rfl⟩

theorem State.startTask_sameUnits (core shadow tid e k) : s.SameUnits (s.startTask core shadow tid e k) := by
  unfold State.startTask
  grind [State.switchMemory_sameUnits, State.setTask_sameUnits, State.setCore_sameUnits, State.setKernel_sameUnits, State.openGroups_sameUnits]

theorem State.footBack_sameUnits (tid core) : s.SameUnits (s.footBack tid core) := by
  unfold State.footBack
  grind

theorem State.redoSfu_sameUnits (tid slot) : s.SameUnits (s.redoSfu tid slot) := ⟨rfl, rfl⟩

theorem State.restoreTask_sameUnits (core shadow tid e k) : s.SameUnits (s.restoreTask core shadow tid e k) := by
  have hredo (s : State) := State.SameUnits.foldl (f := fun (s : State) i => if (s.thread tid i).st = .stopped then s else s.redoSfu tid i)
    (fun s i => by grind [State.redoSfu_sameUnits]) slots s
  unfold State.restoreTask
  grind [State.switchMemory_sameUnits, State.footBack_sameUnits, State.setTask_sameUnits, State.setCore_sameUnits]

theorem State.drainAll_sameUnits (tid) : s.SameUnits (s.drainAll tid).1 := by
  unfold State.drainAll
  refine .foldl_fst _ (fun a i => ?_) slots (s, true)
  exact a.1.drain_sameUnits tid i

theorem State.withdrawObj_sameUnits (f) : s.SameUnits (s.withdrawObj f) :=
  .foldl (fun s o => s.grantQueued_sameUnits _ _) _ _

theorem State.withdrawReqs_sameUnits (tid) : s.SameUnits (s.withdrawReqs tid) := by
  unfold State.withdrawReqs
  grind [State.withdrawObj_sameUnits]

theorem State.footAside_sameUnits (tid core) : s.SameUnits (s.footAside tid core) := ⟨rfl, rfl⟩

theorem State.stateToFrame_sameUnits (tid) : s.SameUnits (s.stateToFrame tid) := by
  unfold State.stateToFrame
  grind [State.dropReplicas_sameUnits, State.footToFrame_sameUnits, State.setTask_sameUnits]

theorem State.saveTask_sameUnits (core tid) : s.SameUnits (s.saveTask core tid) := by
  have hcancel (s : State) := State.SameUnits.foldl (f := fun s i => s.cancelSfu tid i) (fun s i => s.cancelSfu_sameUnits tid i) slots s
  unfold State.saveTask
  grind [State.dropFetches_sameUnits, State.withdrawReqs_sameUnits, State.setTask_sameUnits, State.footAside_sameUnits, State.stateToFrame_sameUnits,
    State.setCore_sameUnits, State.freeOther_sameUnits]

theorem heldAtomic_sameUnits {w0 w1 : Nat} {len : Nat} {f : State → State × Res} (h : heldAtomic w0 w1 = some (len, f)) (s : State) :
    s.SameUnits (f s).1 := by
  unfold heldAtomic at h
  dsimp only at h
  split at h
  · cases h
    exact scalarAmo_sameUnits ..
  · split at h
    · split at h <;> cases h <;> exact vecAmo_sameUnits ..
    · cases h

theorem State.dropNear_sameUnits (cl ctx a n) : s.SameUnits (s.dropNear cl ctx a n) := ⟨rfl, rfl⟩

theorem State.rawPieces_sameUnits (tid a i n k fuel) : s.SameUnits (s.rawPieces tid a i n k fuel).1 := by
  fun_induction State.rawPieces s tid a i n k fuel <;> grind [State.translate_sameUnits]

theorem State.sidePieces_sameUnits (o a i n k pois) : s.SameUnits (s.sidePieces o a i n k pois).1 := by
  unfold State.sidePieces
  grind [State.check_sameUnits, State.rawPieces_sameUnits]

theorem State.takeSide_sameUnits (o a i n k pois) : s.SameUnits (s.takeSide o a i n k pois).1 := by
  unfold State.takeSide
  grind [State.dropNear_sameUnits, State.sidePieces_sameUnits, State.holdWait_sameUnits]

theorem State.engineStorePiece_sameUnits (tid op p bs) : s.SameUnits (s.engineStorePiece tid op p bs).1 := by
  unfold State.engineStorePiece
  grind [State.writeWin_sameUnits, State.holdAt_sameUnits, State.engineAsk_sameUnits, State.homeWrite_sameUnits]

theorem State.engineStorePieces_sameUnits (tid op ps bs) : s.SameUnits (s.engineStorePieces tid op ps bs).1 := by
  fun_induction State.engineStorePieces s tid op ps bs <;> grind [State.engineStorePiece_sameUnits]

theorem State.dropPlaces_sameUnits (tid ps) : s.SameUnits (s.dropPlaces tid ps) := ⟨rfl, rfl⟩

theorem State.writeSide_sameUnits (o side a i bs) : s.SameUnits (s.writeSide o side a i bs).1 := by
  unfold State.writeSide
  grind [State.takeSide_sameUnits, State.engineStorePieces_sameUnits, State.dropPlaces_sameUnits]

theorem State.readSide_sameUnits (o side a i n) : s.SameUnits (s.readSide o side a i n).1 := by
  unfold State.readSide
  grind [State.takeSide_sameUnits, State.flushPieces_sameUnits, State.engineLoadPieces_sameUnits]

theorem State.tileUnit_sameUnits (o n) : s.SameUnits (s.tileUnit o n).1 := by
  unfold State.tileUnit
  grind [State.check_sameUnits, State.readSide_sameUnits, State.holdWait_sameUnits, State.writeSide_sameUnits]

theorem State.cmpResult_sameUnits (o) : s.SameUnits (s.cmpResult o).1 := by
  unfold State.cmpResult
  grind [State.check_sameUnits, State.writeSide_sameUnits, State.holdWait_sameUnits]

theorem State.cmpUnit_sameUnits (o n) : s.SameUnits (s.cmpUnit o n).1 := by
  unfold State.cmpUnit
  grind [State.readSide_sameUnits, uncount]

theorem State.unit_sameUnits (o n) : s.SameUnits (s.unit o n).1 := by
  unfold State.unit
  grind [State.writeSide_sameUnits, State.tileUnit_sameUnits, State.cmpResult_sameUnits, State.cmpUnit_sameUnits, State.readSide_sameUnits, uncount]

theorem State.endCopy_sameUnits (o fail) : s.SameUnits (s.endCopy o fail) := by
  unfold State.endCopy
  grind [State.dropLines_sameUnits, State.forget_sameUnits, State.setCluster_sameUnits, State.sweep_sameUnits, State.setKernel_sameUnits,
    State.retire_sameUnits, State.retireFailed_sameUnits]

theorem State.setCopy_sameUnits (o) : s.SameUnits (s.setCopy o) := ⟨rfl, rfl⟩

theorem State.advance_sameUnits (o n) : s.SameUnits (s.advance o n) := by
  unfold State.advance
  grind [State.forget_sameUnits, State.setCopy_sameUnits, State.endCopy_sameUnits]

theorem State.noteStall_sameUnits (o w) : s.SameUnits (s.noteStall o w) := ⟨rfl, rfl⟩

theorem State.copyStep_sameUnits (o) : s.SameUnits (s.copyStep o).1 := by
  unfold State.copyStep
  grind [State.unit_sameUnits, State.endCopy_sameUnits, State.advance_sameUnits, State.setCopy_sameUnits, State.noteStall_sameUnits]

theorem State.serveOne_sameUnits (core d) : s.SameUnits (s.serveOne core d).1 := by
  unfold State.serveOne
  refine .foldl_fst _ (fun a o => ?_) _ (s, none)
  grind [State.copyStep_sameUnits]

theorem State.serve_sameUnits (core fuel) : s.SameUnits (s.serve core fuel) := by
  fun_induction State.serve s core fuel <;> grind [State.serveOne_sameUnits, State.setCluster_sameUnits]

theorem State.renew_sameUnits (o t) : s.SameUnits (s.renew o t).1 := by
  unfold State.renew
  grind [State.walkFor_sameUnits, State.holdWait_sameUnits]

theorem State.stream_sameUnits (cl o m xb) : s.SameUnits (s.stream cl o m xb) := ⟨rfl, rfl⟩

theorem State.skipProbe_sameUnits (cl) : s.SameUnits (s.skipProbe cl) := by
  unfold State.skipProbe
  grind [State.endOmu_sameUnits]

theorem State.afterProbe_sameUnits (cl b) : s.SameUnits (s.afterProbe cl b) := by
  unfold State.afterProbe
  grind [State.endOmu_sameUnits, State.setCluster_sameUnits]

theorem State.imagePieces_sameUnits (tid va k pois) : s.SameUnits (s.imagePieces tid va k pois).1 := by
  unfold State.imagePieces
  grind [State.check_sameUnits, State.pagesOf_sameUnits]

theorem State.imageRead_sameUnits (tid slot seq va) : s.SameUnits (s.imageRead tid slot seq va).1 := by
  unfold State.imageRead
  grind [State.imagePieces_sameUnits, State.flushPieces_sameUnits, State.engineLoadPieces_sameUnits, State.holdWait_sameUnits]

theorem State.endPhase_sameUnits (cl o fail) : s.SameUnits (s.endPhase cl o fail) := by
  unfold State.endPhase
  grind [State.endOmu_sameUnits, State.forget_sameUnits]

theorem State.unload_sameUnits (cl b) : s.SameUnits (s.unload cl b) := ⟨rfl, rfl⟩
theorem State.loadBank_sameUnits (cl b ctx bs) : s.SameUnits (s.loadBank cl b ctx bs) := ⟨rfl, rfl⟩

theorem State.imageWrite_sameUnits (tid seq side va bs) : s.SameUnits (s.imageWrite tid seq side va bs).1 := by
  unfold State.imageWrite
  grind [State.imagePieces_sameUnits, State.engineStorePieces_sameUnits, State.holdWait_sameUnits]

theorem State.endDcmp_sameUnits (d o fail) : s.SameUnits (s.endDcmp d o fail) := by
  unfold State.endDcmp
  grind [State.forget_sameUnits, State.setDie_sameUnits, State.retire_sameUnits, State.retireFailed_sameUnits]

theorem State.matrixRead_sameUnits (o) : s.SameUnits (s.matrixRead o).1 := by
  unfold State.matrixRead
  grind [State.check_sameUnits, State.flushPieces_sameUnits, State.engineLoadPieces_sameUnits, State.holdWait_sameUnits]

theorem State.writeImages_sameUnits (o imgs side) : s.SameUnits (s.writeImages o imgs side).1 := by
  fun_induction State.writeImages s o imgs side <;> grind [State.imageWrite_sameUnits]

theorem State.decompose_sameUnits (o) : s.SameUnits (s.decompose o).1 := by
  unfold State.decompose
  grind [State.matrixRead_sameUnits, State.writeImages_sameUnits]

theorem State.serveDcmp_sameUnits (d os) : s.SameUnits (s.serveDcmp d os) := by
  fun_induction State.serveDcmp s d os <;> grind [State.decompose_sameUnits, State.endDcmp_sameUnits]

theorem State.csrWriteBy_sameUnits (core slot n v) : s.SameUnits (s.csrWriteBy core slot n v) := by
  unfold State.csrWriteBy
  split
  · exact .refl s
  · dsimp only
    split
    · next hr => exact (State.csrWrite_sameUnits _ _ _ _ hr :)
    · exact .refl s

theorem State.xWord_sameUnits (tid e i) : s.SameUnits (s.xWord tid e i).1 := by
  unfold State.xWord
  grind [State.engineLoad_sameUnits]

theorem State.xGather_sameUnits (tid e i fuel) : s.SameUnits (s.xGather tid e i fuel).1 := by
  fun_induction State.xGather s tid e i fuel <;> grind [State.xWord_sameUnits]

theorem State.xSend_sameUnits (k g e word bs fuel) : s.SameUnits (s.xSend k g e word bs fuel) := by
  fun_induction State.xSend s k g e word bs fuel <;> grind [State.sendRemote_sameUnits]

theorem State.xDeliver_sameUnits (g rank word bs) : s.SameUnits (s.xDeliver g rank word bs) := by
  unfold State.xDeliver
  grind

theorem State.xWords_sameUnits (g rank word bs fuel) : s.SameUnits (s.xWords g rank word bs fuel) := by
  fun_induction State.xWords s g rank word bs fuel <;> grind [State.xDeliver_sameUnits]

theorem State.xFar_sameUnits (tid g e) : s.SameUnits (s.xFar tid g e).1 := by
  unfold State.xFar
  grind [State.xGather_sameUnits, State.xSend_sameUnits, State.xWords_sameUnits]

theorem State.xRun_sameUnits (tid g e i fuel) : s.SameUnits (s.xRun tid g e i fuel).1 := by
  fun_induction State.xRun s tid g e i fuel <;> grind [State.xWord_sameUnits, State.xDeliver_sameUnits]

theorem State.xCount_sameUnits (kid n gid words entries) : s.SameUnits (s.xCount kid n gid words entries) := by
  unfold State.xCount
  grind [State.setGroup_sameUnits]

theorem State.xFault_sameUnits (tid a code addr moved) : s.SameUnits (s.xFault tid a code addr moved) := by
  unfold State.xFault
  grind [State.setThread_sameUnits, State.takeFault_sameUnits]

theorem State.exchange_sameUnits (tid) : s.SameUnits (s.exchange tid) := by
  unfold State.exchange
  grind [State.xFar_sameUnits, State.xRun_sameUnits, State.setTask_sameUnits, State.xCount_sameUnits, State.forget_sameUnits,
    State.xFault_sameUnits, State.groupDone_sameUnits]

theorem State.imbRecord_sameUnits (g) : s.SameUnits (s.imbRecord g) := by
  unfold State.imbRecord
  split
  · exact .refl s
  · dsimp only
    split
    · exact .refl s
    · refine .getD fun t ht => ?_
      obtain ⟨u, hu, ht⟩ := Option.bind_eq_some_iff.mp ht
      exact (s.engineWrite_sameUnits _ _ _ _ u hu).trans (u.engineWrite_sameUnits _ _ _ _ t ht)

theorem State.groupRelease_sameUnits (kid n gid) : s.SameUnits (s.groupRelease kid n gid) := by
  unfold State.groupRelease
  grind [State.groupFreed_sameUnits, State.imbRecord_sameUnits, State.setGroup_sameUnits]

theorem State.setQueue_sameUnits (ctx q k) : s.SameUnits (s.setQueue ctx q k) := ⟨rfl, rfl⟩

theorem State.doorbell_sameUnits (ctx q tail) : s.SameUnits (s.doorbell ctx q tail) := by
  unfold State.doorbell
  grind [State.ringPut_sameUnits, State.setQueue_sameUnits]

theorem State.addKernel_sameUnits (k) : s.SameUnits (s.addKernel k).1 := ⟨rfl, rfl⟩

theorem State.accept_sameUnits (ctx q r device parent gen qrec) : s.SameUnits (s.accept ctx q r device parent gen qrec).1 := by
  unfold State.accept
  grind [State.addKernel_sameUnits, State.setCtx_sameUnits, State.send_sameUnits]

theorem State.klaunchAnswer_sameUnits (tid slot) : s.SameUnits (s.klaunchAnswer tid slot) := by
  unfold State.klaunchAnswer
  grind [State.faultHeld_sameUnits, State.issueOp_sameUnits, State.accept_sameUnits, State.retire_sameUnits, State.complete_sameUnits,
    State.setThread_sameUnits]

theorem State.leaveQueue_sameUnits (k) : s.SameUnits (s.leaveQueue k) := by
  unfold State.leaveQueue
  grind [State.setQueue_sameUnits]

theorem State.endKernel_sameUnits (k faulted) : s.SameUnits (s.endKernel k faulted) := by
  unfold State.endKernel
  grind [State.setKernel_sameUnits, State.sigRaise_sameUnits, State.ringPut_sameUnits, State.send_sameUnits, State.retire_sameUnits]

theorem State.queueMsg_sameUnits (core m) : s.SameUnits (s.queueMsg core m) := by
  unfold State.queueMsg
  grind [State.setCore_sameUnits]

theorem State.clearEntry_sameUnits (core shadow) : s.SameUnits (s.clearEntry core shadow) := by
  unfold State.clearEntry
  grind [State.setCore_sameUnits, State.stateToFrame_sameUnits, State.setKernel_sameUnits]

theorem State.queueEvent_sameUnits (d e) : s.SameUnits (s.queueEvent d e) := by
  unfold State.queueEvent
  grind [State.setDie_sameUnits]

theorem State.enter_sameUnits (core shadow tid e) : s.SameUnits (s.enter core shadow tid e) := ⟨rfl, rfl⟩

theorem State.rebind_sameUnits (k core shadow e) : s.SameUnits (s.rebind k core shadow e) := by
  unfold State.rebind
  grind [State.enter_sameUnits]

theorem State.redirect_sameUnits (k frames) : ∀ r, s.redirect k frames = some r → s.SameUnits r.1 := by
  unfold State.redirect
  split
  · simp
  · intro r h
    obtain ⟨t, ht, rfl⟩ := Option.map_eq_some_iff.mp h
    refine State.SameUnits.foldl_bind (fun a b u hu => ?_) _ (s.engineWrite_sameUnits _ _ _ _) t ht
    split at hu
    · grind
    · obtain ⟨bs, -, hu⟩ := Option.bind_eq_some_iff.mp hu
      exact a.engineWrite_sameUnits _ _ _ _ u hu

theorem State.startAudit_sameUnits (k frames) : ∀ t, s.startAudit k frames = some t → s.SameUnits t := by
  unfold State.startAudit
  intro t h
  split at h
  · grind
  · obtain ⟨r, hr, rfl⟩ := Option.map_eq_some_iff.mp h
    exact ((s.redirect_sameUnits k frames r hr).trans (r.1.addKernel_sameUnits _)).trans (State.setKernel_sameUnits _ _)

theorem State.groupTake_sameUnits (g w) : s.SameUnits (s.groupTake g w) := by
  unfold State.groupTake
  grind [State.setGroup_sameUnits, State.breakGroups_sameUnits, State.groupCheck_sameUnits, State.groupFreed_sameUnits, State.breakHere_sameUnits]

theorem State.groupMsg_sameUnits (p) : s.SameUnits (s.groupMsg p) := by
  unfold State.groupMsg
  grind [State.groupTake_sameUnits]

theorem State.groupLate_sameUnits : s.SameUnits s.groupLate :=
  .foldl (fun s p => s.groupMsg_sameUnits p) _ _

theorem State.formGroups_sameUnits (k) : s.SameUnits (s.formGroups k) := by
  unfold State.formGroups
  grind [State.groupLate_sameUnits]

theorem State.bindNew_sameUnits (k core shadow e frames) : ∀ t, s.bindNew k core shadow e frames = some t → s.SameUnits t := by
  unfold State.bindNew
  grind [State.setTask_sameUnits, State.setCore_sameUnits, State.startAudit_sameUnits, State.formGroups_sameUnits, State.setKernel_sameUnits]

theorem State.takeEntry_sameUnits (core shadow write) : s.SameUnits (s.takeEntry core shadow write) := by
  have hnew (k : Kernel) := State.SameUnits.getD (s.bindNew_sameUnits k core shadow write.entry write.frames)
  unfold State.takeEntry
  grind [State.clearEntry_sameUnits, State.send_sameUnits, State.queueEvent_sameUnits, State.rebind_sameUnits]

theorem State.teardown_sameUnits (kid) : s.SameUnits (s.teardown kid) := ⟨rfl, rfl⟩

theorem State.dump_sameUnits (tid) : ∀ t, s.dump tid = some t → s.SameUnits t :=
  fun t h => by
  unfold State.dump at h
  exact State.engineWrite_sameUnits { s with free := s.free + 22336 } _ _ _ _ t h

theorem State.halt_sameUnits (core) : s.SameUnits (s.halt core) := by
  unfold State.halt
  grind [State.queueMsg_sameUnits, State.setCore_sameUnits]

theorem State.holdKill_sameUnits (tid) : s.SameUnits (s.holdKill tid) := by
  unfold State.holdKill
  grind [State.setTask_sameUnits, State.halt_sameUnits, State.drainAll_sameUnits]

theorem State.overflowRec_sameUnits (tid) : s.SameUnits (s.overflowRec tid) := by
  unfold State.overflowRec
  grind [State.ringPut_sameUnits]

theorem State.killTask_sameUnits (tid) : s.SameUnits (s.killTask tid) := by
  have hdump := State.SameUnits.getD (s.dump_sameUnits tid)
  unfold State.killTask
  grind [State.withdrawReqs_sameUnits, State.setCluster_sameUnits, State.leaveCore_sameUnits, State.setTask_sameUnits, State.setKernel_sameUnits]

theorem State.killKernel_sameUnits (k ts) : s.SameUnits (s.killKernel k ts) :=
  ((((s.leaveQueue_sameUnits k).trans (State.setKernel_sameUnits _ _)).trans (.foldl (fun s t => s.overflowRec_sameUnits t) _ _)).trans
    (State.breakGroups_sameUnits _ _)).trans (.foldl (fun s t => s.killTask_sameUnits t) _ _)

theorem State.killStep_sameUnits (k ts) : s.SameUnits (s.killStep k ts) := by
  have hhold := State.SameUnits.foldl State.holdKill_sameUnits ts s
  unfold State.killStep
  grind [State.killKernel_sameUnits]

theorem State.suspendTask_sameUnits (tid) : s.SameUnits (s.suspendTask tid) := by
  unfold State.suspendTask
  grind [State.halt_sameUnits, State.stateToFrame_sameUnits, State.setCore_sameUnits]

theorem State.endContext_sameUnits (ctx) : s.SameUnits (s.endContext ctx) := by
  refine (s.setCtx_sameUnits ctx _).trans (.foldl (fun s k => ?_) _ _)
  grind [State.killStep_sameUnits]

theorem State.reflect_sameUnits (tid slot seq) : s.SameUnits (s.reflect tid slot seq) := by
  unfold State.reflect
  grind [State.redoSfu_sameUnits, State.setThread_sameUnits]

theorem State.resolve_sameUnits (tid slot choice) : s.SameUnits (s.resolve tid slot choice) := by
  unfold State.resolve
  grind [State.redoSfu_sameUnits, State.setThread_sameUnits, State.ringPut_sameUnits, State.reflect_sameUnits, State.setTask_sameUnits]

theorem State.flushRing_sameUnits (ctx rs) : s.SameUnits (s.flushRing ctx rs) := by
  fun_induction State.flushRing s ctx rs <;> grind [State.ringOne_sameUnits, State.setCtx_sameUnits]

theorem State.fetchGone_sameUnits (tid slot va) : s.SameUnits (s.fetchGone tid slot va) := by
  unfold State.fetchGone
  grind [State.faultHeld_sameUnits, State.setThread_sameUnits]

theorem State.dropStores_sameUnits (tid slot) : s.SameUnits (s.dropStores tid slot) := by
  refine .foldl (fun s e => ?_) _ _
  have hpend (l : List StorePart) := State.SameUnits.foldl (f := fun s (p : StorePart) => s.pendFault tid (storeFault slot 0x10 2 p.first))
    (fun s p => s.pendFault_sameUnits tid _) l s
  grind [State.setEntry_sameUnits]

theorem State.giveUpThread_sameUnits (tid slot) : s.SameUnits (s.giveUpThread tid slot) := by
  unfold State.giveUpThread
  grind [State.fetchGone_sameUnits, State.faultHeld_sameUnits, State.dropStores_sameUnits]

theorem State.giveUpCopy_sameUnits (o) : s.SameUnits (s.giveUpCopy o) := by
  unfold State.giveUpCopy
  grind [State.unit_sameUnits, State.endCopy_sameUnits]

theorem State.giveUpPhase_sameUnits (cl) : s.SameUnits (s.giveUpPhase cl) := by
  unfold State.giveUpPhase
  grind [State.unload_sameUnits, State.endPhase_sameUnits]

theorem State.giveUpExchange_sameUnits (tid) : s.SameUnits (s.giveUpExchange tid) := by
  unfold State.giveUpExchange
  grind [State.xWord_sameUnits, State.xFault_sameUnits]

theorem State.giveUpDcmp_sameUnits (d o) : s.SameUnits (s.giveUpDcmp d o) := by
  unfold State.giveUpDcmp
  grind [State.decompose_sameUnits, State.endDcmp_sameUnits]

theorem State.setTime_sameUnits (u t) : s.SameUnits (s.setTime u t) := by
  unfold State.setTime
  grind [State.setCluster_sameUnits, State.setDie_sameUnits]

theorem State.dropUnsync_sameUnits (u) : s.SameUnits (s.dropUnsync u) := by
  unfold State.dropUnsync
  split
  · exact (s.setCluster_sameUnits _ _).trans (.foldl (fun s i => s.dropLines_sameUnits _ _) _ _)
  · exact .refl s
  · exact .foldl (fun s c => s.ringPut_sameUnits _ _) _ _

theorem State.toUnsync_sameUnits (u) : s.SameUnits (s.toUnsync u) := by
  unfold State.toUnsync
  grind [State.dropUnsync_sameUnits, State.setTime_sameUnits]

theorem State.slotEdge_sameUnits (u err) : s.SameUnits (s.slotEdge u err) := by
  unfold State.slotEdge
  grind [State.setTime_sameUnits, State.toUnsync_sameUnits]

theorem State.writeBack_sameUnits (va len) : s.SameUnits (s.writeBack va len) := ⟨rfl, rfl⟩
theorem State.discard_sameUnits (va len) : s.SameUnits (s.discard va len) := ⟨rfl, rfl⟩
theorem State.holdTimes_sameUnits : s.SameUnits s.holdTimes := ⟨rfl, rfl⟩

theorem State.advertised_sameUnits (port f) : s.SameUnits (s.advertised port f) := by
  unfold State.advertised
  grind [State.setPort_sameUnits, State.holdTimes_sameUnits, State.selectUp_sameUnits]

theorem State.relock_sameUnits (port) : s.SameUnits (s.relock port) := by
  unfold State.relock
  grind [State.toPort_sameUnits, State.setPort_sameUnits]

theorem State.onNak_sameUnits (port i f) : s.SameUnits (s.onNak port i f) := by
  unfold State.onNak
  grind [State.setPort_sameUnits, State.relock_sameUnits]

theorem State.sendIdle_sameUnits (port i) : s.SameUnits (s.sendIdle port i) := by
  unfold State.sendIdle
  grind [State.setPort_sameUnits]

theorem State.giveBack_sameUnits (port i vc n) : s.SameUnits (s.giveBack port i vc n) := by
  unfold State.giveBack
  grind [State.sendIdle_sameUnits, State.setPort_sameUnits]

theorem State.onData_sameUnits (port i f) : s.SameUnits (s.onData port i f) := by
  unfold State.onData
  grind [State.setPort_sameUnits, State.giveBack_sameUnits]

theorem State.onFailover_sameUnits (port f) : s.SameUnits (s.onFailover port f) := by
  unfold State.onFailover
  grind [State.fenceLane_sameUnits, State.setPort_sameUnits]

theorem State.onSeq_sameUnits (port i f) : s.SameUnits (s.onSeq port i f) := by
  unfold State.onSeq
  grind [State.setPort_sameUnits, State.onData_sameUnits, State.onFailover_sameUnits, State.sendIdle_sameUnits]

theorem State.onFlit_sameUnits (port i f) : s.SameUnits (s.onFlit port i f) := by
  unfold State.onFlit
  grind [State.setPort_sameUnits, State.advertised_sameUnits, State.onNak_sameUnits, State.onSeq_sameUnits]

theorem State.resendCrossed_sameUnits (port) : s.SameUnits (s.resendCrossed port) :=
  .foldl (fun s r => s.sendPacket_sameUnits _) _ _

theorem State.switchWave_sameUnits (port i) : s.SameUnits (s.switchWave port i) := by
  unfold State.switchWave
  grind [State.setPort_sameUnits]

theorem State.unqueue_sameUnits (idx) : s.SameUnits (s.unqueue idx) := by
  unfold State.unqueue
  grind [State.giveBack_sameUnits]

theorem State.dropCopies_sameUnits (r) : s.SameUnits (s.dropCopies r) := ⟨rfl, rfl⟩

theorem State.giveThread_sameUnits (tid slot tag bs) : s.SameUnits (s.giveThread tid slot tag bs) := by
  unfold State.giveThread
  grind [State.setThread_sameUnits]

theorem State.endParts_sameUnits (tid slot age r again) : s.SameUnits (s.endParts tid slot age r again) := by
  unfold State.endParts
  grind [State.setEntry_sameUnits]

theorem State.giveEngine_sameUnits (tid tag code bs) : s.SameUnits (s.giveEngine tid tag code bs) := by
  unfold State.giveEngine
  grind [State.setTask_sameUnits]

theorem State.takeAnswer_sameUnits (r p) : s.SameUnits (s.takeAnswer r p) := by
  unfold State.takeAnswer
  grind [State.giveThread_sameUnits, State.pendFault_sameUnits, State.endParts_sameUnits, State.giveEngine_sameUnits, State.groupDone_sameUnits]

theorem State.peerPerformed_sameUnits (r old) : s.SameUnits (s.peerPerformed r old) := by
  unfold State.peerPerformed
  grind

theorem State.onResponse_sameUnits (p) : s.SameUnits (s.onResponse p) := by
  unfold State.onResponse
  grind [State.dropCopies_sameUnits, State.retireLdrains_sameUnits, State.takeAnswer_sameUnits, State.peerPerformed_sameUnits]

theorem State.paRepack_sameUnits (p) : s.SameUnits (s.paRepack p) :=
  .foldl (fun s r => (s.countAccess_sameUnits _ _ _ _).trans (State.dropReplicas_sameUnits _ _)) _ s

theorem State.paWrite_sameUnits (ctx pa bs) : s.SameUnits (s.paWrite ctx pa bs) := by
  unfold State.paWrite
  grind [State.dropReplicas_sameUnits, State.countAccess_sameUnits]

theorem State.exchangeMsg_sameUnits (p) : s.SameUnits (s.exchangeMsg p) := by
  unfold State.exchangeMsg
  grind [State.xWords_sameUnits]

theorem State.performRequest_sameUnits (p) : s.SameUnits (s.performRequest p).1 := by
  unfold State.performRequest
  grind [State.countAccess_sameUnits, State.paRepack_sameUnits, State.paWrite_sameUnits, State.exchangeMsg_sameUnits, State.groupMsg_sameUnits]

theorem State.onRequest_sameUnits (p) : ∀ t, s.onRequest p = some t → s.SameUnits t := by
  unfold State.onRequest
  grind [State.sendPacket_sameUnits, State.holdAt_sameUnits, State.performRequest_sameUnits]

theorem State.receive_sameUnits (p) : ∀ t, s.receive p = some t → s.SameUnits t := by
  unfold State.receive
  grind [State.onResponse_sameUnits, State.onRequest_sameUnits]

theorem State.notePassed_sameUnits (src dst opseq) : s.SameUnits (s.notePassed src dst opseq) := ⟨rfl, rfl⟩

theorem State.noteCrossing_sameUnits (port p) : s.SameUnits (s.noteCrossing port p) := by
  unfold State.noteCrossing
  grind [State.notePassed_sameUnits, State.setPort_sameUnits]

theorem State.setTable_sameUnits (t) : s.SameUnits (s.setTable t) := by
  unfold State.setTable
  grind

theorem State.breakUnreach_sameUnits : s.SameUnits s.breakUnreach :=
  .foldl (fun s g => s.breakGroups_sameUnits _) _ _

theorem State.faultRemote_sameUnits (tid slot code addr) : s.SameUnits (s.faultRemote tid slot code addr) := by
  unfold State.faultRemote
  grind [State.faultHeld_sameUnits, State.setThread_sameUnits]

theorem State.loseRemote_sameUnits (r unsent) : s.SameUnits (s.loseRemote r unsent) := by
  unfold State.loseRemote
  grind [State.dropCopies_sameUnits, State.retireLdrains_sameUnits, State.faultRemote_sameUnits, State.pendFault_sameUnits,
    State.giveThread_sameUnits, State.endParts_sameUnits, State.giveEngine_sameUnits, State.breakGroups_sameUnits]

theorem State.takeRequest_sameUnits (p) : s.SameUnits (s.takeRequest p) := by
  unfold State.takeRequest
  split
  · exact .refl s
  · cases h : s.onRequest p with
    | none => exact .refl s
    | some t => exact s.onRequest_sameUnits p t h

theorem State.readyAtOnce_sameUnits (ch) : s.SameUnits (s.readyAtOnce ch) := by
  unfold State.readyAtOnce
  grind [State.send_sameUnits]

theorem State.holdQueued_sameUnits : s.SameUnits s.holdQueued := ⟨rfl, rfl⟩

theorem State.releaseHeld_sameUnits (r) : s.SameUnits (s.releaseHeld r) := by
  unfold State.releaseHeld
  grind [State.loseRemote_sameUnits, State.sendPacket_sameUnits]

theorem State.writeWins_sameUnits (ps bs) : s.SameUnits (s.writeWins ps bs) := by
  fun_induction State.writeWins s ps bs <;> grind [State.writeWin_sameUnits]

theorem State.irEnd_sameUnits (o light noise low) : s.SameUnits (s.irEnd o light noise low) := by
  unfold State.irEnd
  grind [State.retireFailed_sameUnits, State.retire_sameUnits, State.send_sameUnits, State.writeWins_sameUnits]

theorem State.holdHost_sameUnits (pa n m) : s.SameUnits (s.holdHost pa n m) := by
  unfold State.holdHost
  grind [State.setStack_sameUnits]

theorem State.hostRead_sameUnits (pa len) : s.SameUnits (s.hostRead pa len) := by
  unfold State.hostRead
  grind [State.send_sameUnits, State.holdHost_sameUnits]

theorem State.hostStore_sameUnits (pa data poison) : s.SameUnits (s.hostStore pa data poison) := by
  unfold State.hostStore
  grind [State.holdHost_sameUnits, State.dropReplicas_sameUnits]

theorem State.contain_sameUnits : s.SameUnits s.contain := by
  unfold State.contain
  grind [State.send_sameUnits, State.discard_sameUnits]

theorem State.rowError_sameUnits (key corrected) : s.SameUnits (s.rowError key corrected) := ⟨rfl, rfl⟩

theorem State.parityFault_sameUnits (tid slot) : s.SameUnits (s.parityFault tid slot) := by
  unfold State.parityFault
  grind [State.takeFault_sameUnits, State.withdrawObj_sameUnits, State.faultHeld_sameUnits, State.setThread_sameUnits]

theorem State.stateError_sameUnits (tid slot what) : s.SameUnits (s.stateError tid slot what) := by
  unfold State.stateError
  grind [State.setThread_sameUnits, State.parityFault_sameUnits]

theorem State.countCorrected_sameUnits (core) : s.SameUnits (s.countCorrected core) := ⟨rfl, rfl⟩
theorem State.withdraw_sameUnits (bs) : s.SameUnits (s.withdraw bs) := ⟨rfl, rfl⟩

theorem State.withdrawCluster_sameUnits (c) : s.SameUnits (s.withdrawCluster c) := by
  unfold State.withdrawCluster
  grind [State.omuLoss_sameUnits, State.withdraw_sameUnits]

theorem State.runHeld_sameUnits (k) : s.SameUnits (s.runHeld k) := ⟨rfl, rfl⟩
theorem State.poisonLeaf_sameUnits (a) : s.SameUnits (s.poisonLeaf a) := ⟨rfl, rfl⟩

theorem State.poisonPages_sameUnits (k) : s.SameUnits (s.poisonPages k) :=
  .foldl (fun _ _ => .foldl State.poisonLeaf_sameUnits _ _) _ _

theorem State.loseStack_sameUnits (k) : s.SameUnits (s.loseStack k) := by
  unfold State.loseStack
  grind [State.runHeld_sameUnits, State.poisonPages_sameUnits, State.stackReport_sameUnits, State.withdraw_sameUnits, State.setStack_sameUnits]

theorem State.thermalTo_sameUnits (k st) : s.SameUnits (s.thermalTo k st) := ⟨rfl, rfl⟩
theorem State.writeSnapshot_sameUnits (inst) : s.SameUnits (s.writeSnapshot inst) := ⟨rfl, rfl⟩

theorem State.beginInst_sameUnits (kind) : s.SameUnits (s.beginInst kind) := by
  unfold State.beginInst
  grind [State.writeSnapshot_sameUnits]

theorem State.rollBack_sameUnits (kind) : s.SameUnits (s.rollBack kind) := ⟨rfl, rfl⟩

theorem State.fallBack_sameUnits (kind) : s.SameUnits (s.fallBack kind) := by
  unfold State.fallBack
  grind [State.measure_sameUnits, State.rollBack_sameUnits, State.setFw_sameUnits]

theorem State.fwFail_sameUnits (kind) : s.SameUnits (s.fwFail kind) := by
  unfold State.fwFail
  grind [State.fallBack_sameUnits, State.rollBack_sameUnits]

theorem State.releaseThread_sameUnits (tid slot) : s.SameUnits (s.releaseThread tid slot) := by
  unfold State.releaseThread
  grind [State.redoSfu_sameUnits, State.traceRec_sameUnits, State.setThread_sameUnits]

theorem State.takeMsg_sameUnits (core m) : s.SameUnits (s.takeMsg core m) := by
  unfold State.takeMsg
  grind [State.halt_sameUnits, State.resolve_sameUnits, State.takeEntry_sameUnits]

theorem State.armBreak_sameUnits (core on) : s.SameUnits (s.armBreak core on) := by
  unfold State.armBreak
  grind [State.setTask_sameUnits]

theorem State.keepBlock_sameUnits (core l) : s.SameUnits (s.keepBlock core l) := ⟨rfl, rfl⟩

theorem State.fillFrom_sameUnits (tid slot pc va k) : s.SameUnits (s.fillFrom tid slot pc va k).1 := by
  unfold State.fillFrom
  grind [State.translate_sameUnits, State.keepBlock_sameUnits, State.sendRemote_sameUnits]

theorem State.fillBlock_sameUnits (tid slot pc) : s.SameUnits (s.fillBlock tid slot pc).1 := by
  unfold State.fillBlock
  grind [State.fillFrom_sameUnits]

theorem State.fetch_sameUnits (tid slot) : s.SameUnits (s.fetch tid slot).1 := by
  unfold State.fetch
  grind [State.fillBlock_sameUnits]

theorem State.engineMove_sameUnits (tid op) : s.SameUnits (s.engineMove tid op) := by
  unfold State.engineMove
  dsimp only
  split
  · exact s.copyStep_sameUnits _
  · exact .refl s

theorem State.elapse_sameUnits (ns) : s.SameUnits (s.elapse ns) := ⟨rfl, rfl⟩

theorem State.performPart_sameUnits (tid slot age idx) : s.SameUnits (s.performPart tid slot age idx) := by
  unfold State.performPart
  grind [State.sendSome_sameUnits, State.setEntry_sameUnits]

theorem State.cutPart_sameUnits (tid slot age idx n) : s.SameUnits (s.cutPart tid slot age idx n) := by
  unfold State.cutPart
  grind [State.setEntry_sameUnits]

theorem State.drift_sameUnits (u ahead) : s.SameUnits (s.drift u ahead) := by
  unfold State.drift
  grind [State.setTime_sameUnits]

theorem State.bookkeep_sameUnits (inst data) : s.SameUnits (s.bookkeep inst data) := by
  unfold State.bookkeep
  grind [State.setFw_sameUnits]

theorem State.debugWrite_sameUnits (core slot auth reg value) : s.SameUnits (s.debugWrite core slot auth reg value) := by
  unfold State.debugWrite
  grind [State.setThread_sameUnits]

theorem State.mailboxTake_sameUnits (k mgc manager) : s.SameUnits (s.mailboxTake k mgc manager) := by
  unfold State.mailboxTake
  grind [State.setStack_sameUnits, State.send_sameUnits]

theorem State.cacheParity_sameUnits (core idx code) : s.SameUnits (s.cacheParity core idx code) := by
  unfold State.cacheParity
  grind [State.countCorrected_sameUnits, State.setCore_sameUnits]

theorem State.unitFault_sameUnits (kind idx) : s.SameUnits (s.unitFault kind idx) := ⟨rfl, rfl⟩

theorem State.barWrite_sameUnits (off value) : s.SameUnits (s.barWrite off value) := by
  unfold State.barWrite
  grind [State.doorbell_sameUnits]

theorem State.input_sameUnits (x) : s.SameUnits (s.input x) := by
  unfold State.input
  grind [State.writeBack_sameUnits, State.setCluster_sameUnits, State.setCtx_sameUnits, State.dropReplicas_sameUnits, State.setPort_sameUnits,
    State.selectUp_sameUnits, State.notePassed_sameUnits, State.contain_sameUnits, State.stateError_sameUnits, State.drift_sameUnits,
    State.bookkeep_sameUnits, State.debugWrite_sameUnits, State.mailboxTake_sameUnits, State.setStack_sameUnits, State.rowError_sameUnits,
    State.cacheParity_sameUnits, State.unitFault_sameUnits, State.barWrite_sameUnits, State.send_sameUnits]

theorem State.collect_sameUnits : s.SameUnits s.collect := by
  refine .foldl (fun s d => ?_) _ _
  grind [State.setDie_sameUnits]

theorem State.slotEdges_sameUnits : s.SameUnits s.slotEdges := by
  unfold State.slotEdges
  split
  · exact .refl s
  · refine .foldl (fun s d => ?_) _ _
    split
    · exact .refl s
    · exact (s.slotEdge_sameUnits _ _).trans (.foldl (fun s c => s.slotEdge_sameUnits _ _) _ _)

/-- An answer that, where it is a next state, has the fuses and the clock of s. -/
structure State.KeepsUnits (s : State) (o : Host.Outcome State Fault Refusal) : Prop where
  same : ∀ t, o = .next t → s.SameUnits t

variable {s}
theorem State.SameUnits.next {t : State} (h : s.SameUnits t) : s.KeepsUnits (.next t) := ⟨fun _ e => by cases e; exact h⟩

theorem event_sameUnits {f : State → State} (h : s.SameUnits (f s)) : s.KeepsUnits (event s f) := h.next

theorem State.settle_sameUnits (len : Nat) {r : State × Res} (h : s.SameUnits r.1) : s.SameUnits (State.settle len r) := by
  refine h.trans ?_
  unfold State.settle
  grind [State.setThr_sameUnits, State.takeFault_sameUnits, State.holdWait_sameUnits]

theorem issue_sameUnits {c : Class} {len : Nat} {f : State → State × Res} (h : ∀ s : State, s.SameUnits (f s).1) :
    s.KeepsUnits (issue c len s f) := by
  by_cases hc : s.thr.canRun = true
  · rw [issue, if_pos hc]
    refine State.SameUnits.next (.trans (s.countHandler_sameUnits.trans (State.settle_sameUnits len ?_)) (State.holdIfStopping_sameUnits _ _ _))
    split
    · exact .refl _
    · exact h _
  · rw [issue, if_neg hc]
    exact ⟨fun _ e => by cases e⟩
theorem State.unlessPoison_sameUnits {rs : List Reg} {k : State → State × Res} (h : ∀ s : State, s.SameUnits (k s).1) :
    s.SameUnits (s.unlessPoison rs k).1 := by
  unfold State.unlessPoison
  split
  · exact .refl s
  · exact h s

theorem unlessFault_sameUnits {f : Option (Nat × Nat)} {k : State → State × Res} (h : ∀ s : State, s.SameUnits (k s).1) :
    s.SameUnits (unlessFault f k s).1 := by
  unfold unlessFault
  split
  · exact .refl s
  · exact h s

theorem State.atStep_sameUnits {n : Nat} {ok : Bool} {f : State → State} (h : ∀ s : State, s.SameUnits (f s)) :
    s.SameUnits (s.atStep n ok f) := by
  unfold State.atStep
  dsimp only
  repeat' split
  · exact .refl s
  · exact h { s with devstat := _ }
  · exact .refl s

theorem State.resumeAs_sameUnits {tid slot len : Nat} {f : State → State × Res} (h : ∀ s : State, s.SameUnits (f s).1) :
    s.SameUnits (s.resumeAs tid slot len f) := by
  unfold State.resumeAs
  dsimp only
  split
  · exact (State.settle_sameUnits len (h { s with cur := (tid, slot), curW := _ })).trans (State.holdIfStopping_sameUnits _ _ _)
  · exact .refl s

theorem State.retryHeld_sameUnits {tid slot fn : Nat} {f : Reg → State → Host.Outcome State Fault Refusal}
    (h : ∀ a s, State.KeepsUnits s (f a s)) : s.SameUnits (s.retryHeld tid slot fn f) := by
  unfold State.retryHeld
  dsimp only
  split
  · split
    · split
      · next hr => exact ((h _ _).same _ hr :)
      · exact .refl s
    · exact .refl s
  · exact .refl s
variable (s)

/-! ## Instructions and events whose meaning is more than one shared operation -/

theorem execNop_sameUnits : s.KeepsUnits (execNop s) := issue_sameUnits fun s => ⟨rfl, rfl⟩

theorem execFence_sameUnits (n) : s.KeepsUnits (execFence n s) := by
  refine issue_sameUnits fun s => ?_
  grind [State.drain_sameUnits, State.deliverOr, State.deliver_sameUnits]

theorem execTrap_sameUnits (n) : s.KeepsUnits (execTrap n s) := issue_sameUnits fun s => ⟨rfl, rfl⟩

theorem execBkpt_sameUnits (n) : s.KeepsUnits (execBkpt n s) := by
  refine issue_sameUnits fun s => ?_
  grind [State.setThr_sameUnits, State.stopCore_sameUnits]

theorem execTret_sameUnits : s.KeepsUnits (execTret s) := issue_sameUnits fun s => State.trapReturn_sameUnits s ..

theorem execPmret_sameUnits : s.KeepsUnits (execPmret s) := by
  refine issue_sameUnits fun s => ?_
  grind [State.leaveHandler_sameUnits]

theorem execIflush_sameUnits : s.KeepsUnits (execIflush s) := by
  refine issue_sameUnits fun s => ?_
  grind [State.performWhere_sameUnits, State.deliverOr, State.deliver_sameUnits, State.flushCode_sameUnits]

theorem execYield_sameUnits : s.KeepsUnits (execYield s) := issue_sameUnits fun s => State.setTk_sameUnits s ..
theorem execIll_sameUnits (_n) : s.KeepsUnits (execIll _n s) := issue_sameUnits fun s => ⟨rfl, rfl⟩
theorem execAdd_sameUnits (d a b) : s.KeepsUnits (execAdd d a b s) := issue_sameUnits fun s => alu2_sameUnits s ..
theorem execSub_sameUnits (d a b) : s.KeepsUnits (execSub d a b s) := issue_sameUnits fun s => alu2_sameUnits s ..
theorem execAnd_sameUnits (d a b) : s.KeepsUnits (execAnd d a b s) := issue_sameUnits fun s => alu2_sameUnits s ..
theorem execOr_sameUnits (d a b) : s.KeepsUnits (execOr d a b s) := issue_sameUnits fun s => alu2_sameUnits s ..
theorem execXor_sameUnits (d a b) : s.KeepsUnits (execXor d a b s) := issue_sameUnits fun s => alu2_sameUnits s ..
theorem execAndn_sameUnits (d a b) : s.KeepsUnits (execAndn d a b s) := issue_sameUnits fun s => alu2_sameUnits s ..
theorem execOrn_sameUnits (d a b) : s.KeepsUnits (execOrn d a b s) := issue_sameUnits fun s => alu2_sameUnits s ..
theorem execXnor_sameUnits (d a b) : s.KeepsUnits (execXnor d a b s) := issue_sameUnits fun s => alu2_sameUnits s ..
theorem execShl_sameUnits (d a b) : s.KeepsUnits (execShl d a b s) := issue_sameUnits fun s => alu2_sameUnits s ..
theorem execShr_sameUnits (d a b) : s.KeepsUnits (execShr d a b s) := issue_sameUnits fun s => alu2_sameUnits s ..
theorem execSra_sameUnits (d a b) : s.KeepsUnits (execSra d a b s) := issue_sameUnits fun s => alu2_sameUnits s ..
theorem execRol_sameUnits (d a b) : s.KeepsUnits (execRol d a b s) := issue_sameUnits fun s => alu2_sameUnits s ..
theorem execRor_sameUnits (d a b) : s.KeepsUnits (execRor d a b s) := issue_sameUnits fun s => alu2_sameUnits s ..
theorem execSlt_sameUnits (d a b) : s.KeepsUnits (execSlt d a b s) := issue_sameUnits fun s => alu2_sameUnits s ..
theorem execSltu_sameUnits (d a b) : s.KeepsUnits (execSltu d a b s) := issue_sameUnits fun s => alu2_sameUnits s ..
theorem execSeq_sameUnits (d a b) : s.KeepsUnits (execSeq d a b s) := issue_sameUnits fun s => alu2_sameUnits s ..
theorem execSne_sameUnits (d a b) : s.KeepsUnits (execSne d a b s) := issue_sameUnits fun s => alu2_sameUnits s ..
theorem execMin_sameUnits (d a b) : s.KeepsUnits (execMin d a b s) := issue_sameUnits fun s => alu2_sameUnits s ..
theorem execMax_sameUnits (d a b) : s.KeepsUnits (execMax d a b s) := issue_sameUnits fun s => alu2_sameUnits s ..
theorem execMinu_sameUnits (d a b) : s.KeepsUnits (execMinu d a b s) := issue_sameUnits fun s => alu2_sameUnits s ..
theorem execMaxu_sameUnits (d a b) : s.KeepsUnits (execMaxu d a b s) := issue_sameUnits fun s => alu2_sameUnits s ..
theorem execAddw_sameUnits (d a b) : s.KeepsUnits (execAddw d a b s) := issue_sameUnits fun s => alu2_sameUnits s ..
theorem execSubw_sameUnits (d a b) : s.KeepsUnits (execSubw d a b s) := issue_sameUnits fun s => alu2_sameUnits s ..
theorem execShlw_sameUnits (d a b) : s.KeepsUnits (execShlw d a b s) := issue_sameUnits fun s => alu2_sameUnits s ..
theorem execShrw_sameUnits (d a b) : s.KeepsUnits (execShrw d a b s) := issue_sameUnits fun s => alu2_sameUnits s ..
theorem execSraw_sameUnits (d a b) : s.KeepsUnits (execSraw d a b s) := issue_sameUnits fun s => alu2_sameUnits s ..
theorem execAddi_sameUnits (d a imm) : s.KeepsUnits (execAddi d a imm s) := issue_sameUnits fun s => alu1_sameUnits s ..
theorem execAndi_sameUnits (d a imm) : s.KeepsUnits (execAndi d a imm s) := issue_sameUnits fun s => alu1_sameUnits s ..
theorem execOri_sameUnits (d a imm) : s.KeepsUnits (execOri d a imm s) := issue_sameUnits fun s => alu1_sameUnits s ..
theorem execXori_sameUnits (d a imm) : s.KeepsUnits (execXori d a imm s) := issue_sameUnits fun s => alu1_sameUnits s ..
theorem execShli_sameUnits (d a n) : s.KeepsUnits (execShli d a n s) := issue_sameUnits fun s => alu1_sameUnits s ..
theorem execShri_sameUnits (d a n) : s.KeepsUnits (execShri d a n s) := issue_sameUnits fun s => alu1_sameUnits s ..
theorem execSrai_sameUnits (d a n) : s.KeepsUnits (execSrai d a n s) := issue_sameUnits fun s => alu1_sameUnits s ..
theorem execRoli_sameUnits (d a n) : s.KeepsUnits (execRoli d a n s) := issue_sameUnits fun s => alu1_sameUnits s ..
theorem execRori_sameUnits (d a n) : s.KeepsUnits (execRori d a n s) := issue_sameUnits fun s => alu1_sameUnits s ..
theorem execSlti_sameUnits (d a imm) : s.KeepsUnits (execSlti d a imm s) := issue_sameUnits fun s => alu1_sameUnits s ..
theorem execSltui_sameUnits (d a imm) : s.KeepsUnits (execSltui d a imm s) := issue_sameUnits fun s => alu1_sameUnits s ..
theorem execSeqi_sameUnits (d a imm) : s.KeepsUnits (execSeqi d a imm s) := issue_sameUnits fun s => alu1_sameUnits s ..
theorem execSnei_sameUnits (d a imm) : s.KeepsUnits (execSnei d a imm s) := issue_sameUnits fun s => alu1_sameUnits s ..
theorem execLdb_sameUnits (d a off) : s.KeepsUnits (execLdb d a off s) := issue_sameUnits fun s => memLoad_sameUnits s ..
theorem execLdh_sameUnits (d a off) : s.KeepsUnits (execLdh d a off s) := issue_sameUnits fun s => memLoad_sameUnits s ..
theorem execLdw_sameUnits (d a off) : s.KeepsUnits (execLdw d a off s) := issue_sameUnits fun s => memLoad_sameUnits s ..
theorem execLdd_sameUnits (d a off) : s.KeepsUnits (execLdd d a off s) := issue_sameUnits fun s => memLoad_sameUnits s ..
theorem execLdbz_sameUnits (d a off) : s.KeepsUnits (execLdbz d a off s) := issue_sameUnits fun s => memLoad_sameUnits s ..
theorem execLdhz_sameUnits (d a off) : s.KeepsUnits (execLdhz d a off s) := issue_sameUnits fun s => memLoad_sameUnits s ..
theorem execLdwz_sameUnits (d a off) : s.KeepsUnits (execLdwz d a off s) := issue_sameUnits fun s => memLoad_sameUnits s ..
theorem execStb_sameUnits (b a off) : s.KeepsUnits (execStb b a off s) := issue_sameUnits fun s => memStore_sameUnits s ..
theorem execSth_sameUnits (b a off) : s.KeepsUnits (execSth b a off s) := issue_sameUnits fun s => memStore_sameUnits s ..
theorem execStw_sameUnits (b a off) : s.KeepsUnits (execStw b a off s) := issue_sameUnits fun s => memStore_sameUnits s ..
theorem execStd_sameUnits (b a off) : s.KeepsUnits (execStd b a off s) := issue_sameUnits fun s => memStore_sameUnits s ..

theorem execBeq_sameUnits (a b off) : s.KeepsUnits (execBeq a b off s) := by
  refine issue_sameUnits fun s => ?_
  grind [branch, State.unlessPoison, State.traceRec_sameUnits]

theorem execBne_sameUnits (a b off) : s.KeepsUnits (execBne a b off s) := by
  refine issue_sameUnits fun s => ?_
  grind [branch, State.unlessPoison, State.traceRec_sameUnits]

theorem execBlt_sameUnits (a b off) : s.KeepsUnits (execBlt a b off s) := by
  refine issue_sameUnits fun s => ?_
  grind [branch, State.unlessPoison, State.traceRec_sameUnits]

theorem execBge_sameUnits (a b off) : s.KeepsUnits (execBge a b off s) := by
  refine issue_sameUnits fun s => ?_
  grind [branch, State.unlessPoison, State.traceRec_sameUnits]

theorem execBltu_sameUnits (a b off) : s.KeepsUnits (execBltu a b off s) := by
  refine issue_sameUnits fun s => ?_
  grind [branch, State.unlessPoison, State.traceRec_sameUnits]

theorem execBgeu_sameUnits (a b off) : s.KeepsUnits (execBgeu a b off s) := by
  refine issue_sameUnits fun s => ?_
  grind [branch, State.unlessPoison, State.traceRec_sameUnits]

theorem execBbs_sameUnits (a b off) : s.KeepsUnits (execBbs a b off s) := by
  refine issue_sameUnits fun s => ?_
  grind [branch, State.unlessPoison, State.traceRec_sameUnits]

theorem execBbc_sameUnits (a b off) : s.KeepsUnits (execBbc a b off s) := by
  refine issue_sameUnits fun s => ?_
  grind [branch, State.unlessPoison, State.traceRec_sameUnits]

theorem execBeqLong_sameUnits (a b off) : s.KeepsUnits (execBeqLong a b off s) := by
  refine issue_sameUnits fun s => ?_
  grind [branch, State.unlessPoison, State.traceRec_sameUnits]

theorem execBneLong_sameUnits (a b off) : s.KeepsUnits (execBneLong a b off s) := by
  refine issue_sameUnits fun s => ?_
  grind [branch, State.unlessPoison, State.traceRec_sameUnits]

theorem execBltLong_sameUnits (a b off) : s.KeepsUnits (execBltLong a b off s) := by
  refine issue_sameUnits fun s => ?_
  grind [branch, State.unlessPoison, State.traceRec_sameUnits]

theorem execBgeLong_sameUnits (a b off) : s.KeepsUnits (execBgeLong a b off s) := by
  refine issue_sameUnits fun s => ?_
  grind [branch, State.unlessPoison, State.traceRec_sameUnits]

theorem execBltuLong_sameUnits (a b off) : s.KeepsUnits (execBltuLong a b off s) := by
  refine issue_sameUnits fun s => ?_
  grind [branch, State.unlessPoison, State.traceRec_sameUnits]

theorem execBgeuLong_sameUnits (a b off) : s.KeepsUnits (execBgeuLong a b off s) := by
  refine issue_sameUnits fun s => ?_
  grind [branch, State.unlessPoison, State.traceRec_sameUnits]

theorem execBbsLong_sameUnits (a b off) : s.KeepsUnits (execBbsLong a b off s) := by
  refine issue_sameUnits fun s => ?_
  grind [branch, State.unlessPoison, State.traceRec_sameUnits]

theorem execBbcLong_sameUnits (a b off) : s.KeepsUnits (execBbcLong a b off s) := by
  refine issue_sameUnits fun s => ?_
  grind [branch, State.unlessPoison, State.traceRec_sameUnits]

theorem execJ_sameUnits (off) : s.KeepsUnits (execJ off s) := issue_sameUnits fun s => jumpBy_sameUnits s ..
theorem execJal_sameUnits (off) : s.KeepsUnits (execJal off s) := issue_sameUnits fun s => jumpBy_sameUnits s ..
theorem execJLong_sameUnits (off) : s.KeepsUnits (execJLong off s) := issue_sameUnits fun s => jumpBy_sameUnits s ..
theorem execJalLong_sameUnits (off) : s.KeepsUnits (execJalLong off s) := issue_sameUnits fun s => jumpBy_sameUnits s ..
theorem execJr_sameUnits (a imm) : s.KeepsUnits (execJr a imm s) := issue_sameUnits fun s => jumpReg_sameUnits s ..
theorem execJalr_sameUnits (a imm) : s.KeepsUnits (execJalr a imm s) := issue_sameUnits fun s => jumpReg_sameUnits s ..

theorem execJtab_sameUnits (a b) : s.KeepsUnits (execJtab a b s) := by
  refine issue_sameUnits fun s => ?_
  grind [State.unlessPoison, Got.bind, State.load_sameUnits]

theorem execMul_sameUnits (d a b) : s.KeepsUnits (execMul d a b s) := issue_sameUnits fun s => alu2_sameUnits s ..
theorem execMulh_sameUnits (d a b) : s.KeepsUnits (execMulh d a b s) := issue_sameUnits fun s => alu2_sameUnits s ..
theorem execMulhu_sameUnits (d a b) : s.KeepsUnits (execMulhu d a b s) := issue_sameUnits fun s => alu2_sameUnits s ..
theorem execMulhsu_sameUnits (d a b) : s.KeepsUnits (execMulhsu d a b s) := issue_sameUnits fun s => alu2_sameUnits s ..
theorem execMulw_sameUnits (d a b) : s.KeepsUnits (execMulw d a b s) := issue_sameUnits fun s => alu2_sameUnits s ..
theorem execDiv_sameUnits (d a b) : s.KeepsUnits (execDiv d a b s) := issue_sameUnits fun s => alu2_sameUnits s ..
theorem execDivu_sameUnits (d a b) : s.KeepsUnits (execDivu d a b s) := issue_sameUnits fun s => alu2_sameUnits s ..
theorem execRem_sameUnits (d a b) : s.KeepsUnits (execRem d a b s) := issue_sameUnits fun s => alu2_sameUnits s ..
theorem execRemu_sameUnits (d a b) : s.KeepsUnits (execRemu d a b s) := issue_sameUnits fun s => alu2_sameUnits s ..
theorem execDivw_sameUnits (d a b) : s.KeepsUnits (execDivw d a b s) := issue_sameUnits fun s => alu2_sameUnits s ..
theorem execRemw_sameUnits (d a b) : s.KeepsUnits (execRemw d a b s) := issue_sameUnits fun s => alu2_sameUnits s ..
theorem execClz_sameUnits (d a) : s.KeepsUnits (execClz d a s) := issue_sameUnits fun s => alu1_sameUnits s ..
theorem execCtz_sameUnits (d a) : s.KeepsUnits (execCtz d a s) := issue_sameUnits fun s => alu1_sameUnits s ..
theorem execPopc_sameUnits (d a) : s.KeepsUnits (execPopc d a s) := issue_sameUnits fun s => alu1_sameUnits s ..
theorem execBrev_sameUnits (d a) : s.KeepsUnits (execBrev d a s) := issue_sameUnits fun s => alu1_sameUnits s ..
theorem execBswap_sameUnits (d a) : s.KeepsUnits (execBswap d a s) := issue_sameUnits fun s => alu1_sameUnits s ..
theorem execFnsb_sameUnits (d a b) : s.KeepsUnits (execFnsb d a b s) := issue_sameUnits fun s => alu2_sameUnits s ..
theorem execClzw_sameUnits (d a) : s.KeepsUnits (execClzw d a s) := issue_sameUnits fun s => alu1_sameUnits s ..
theorem execCtzw_sameUnits (d a) : s.KeepsUnits (execCtzw d a s) := issue_sameUnits fun s => alu1_sameUnits s ..
theorem execPopcw_sameUnits (d a) : s.KeepsUnits (execPopcw d a s) := issue_sameUnits fun s => alu1_sameUnits s ..
theorem execBfx_sameUnits (d a b) : s.KeepsUnits (execBfx d a b s) := issue_sameUnits fun s => alu2_sameUnits s ..
theorem execBfxu_sameUnits (d a b) : s.KeepsUnits (execBfxu d a b s) := issue_sameUnits fun s => alu2_sameUnits s ..
theorem execBfi_sameUnits (d a b) : s.KeepsUnits (execBfi d a b s) := issue_sameUnits fun s => State.result_sameUnits s ..
theorem execBfmsk_sameUnits (d b) : s.KeepsUnits (execBfmsk d b s) := issue_sameUnits fun s => alu1_sameUnits s ..
theorem execBfxi_sameUnits (d a off wid) : s.KeepsUnits (execBfxi d a off wid s) := issue_sameUnits fun s => alu1_sameUnits s ..
theorem execBfxui_sameUnits (d a off wid) : s.KeepsUnits (execBfxui d a off wid s) := issue_sameUnits fun s => alu1_sameUnits s ..
theorem execBfii_sameUnits (d a off wid) : s.KeepsUnits (execBfii d a off wid s) := issue_sameUnits fun s => State.result_sameUnits s ..
theorem execFadd_sameUnits (ty d a b) : s.KeepsUnits (execFadd ty d a b s) := issue_sameUnits fun s => fp2_sameUnits s ..
theorem execFsub_sameUnits (ty d a b) : s.KeepsUnits (execFsub ty d a b s) := issue_sameUnits fun s => fp2_sameUnits s ..
theorem execFmul_sameUnits (ty d a b) : s.KeepsUnits (execFmul ty d a b s) := issue_sameUnits fun s => fp2_sameUnits s ..
theorem execFdiv_sameUnits (ty d a b) : s.KeepsUnits (execFdiv ty d a b s) := issue_sameUnits fun s => fp2_sameUnits s ..
theorem execFsqrt_sameUnits (ty d a) : s.KeepsUnits (execFsqrt ty d a s) := issue_sameUnits fun s => fp1_sameUnits s ..
theorem execFmin_sameUnits (ty d a b) : s.KeepsUnits (execFmin ty d a b s) := issue_sameUnits fun s => fp2_sameUnits s ..
theorem execFmax_sameUnits (ty d a b) : s.KeepsUnits (execFmax ty d a b s) := issue_sameUnits fun s => fp2_sameUnits s ..
theorem execFminn_sameUnits (ty d a b) : s.KeepsUnits (execFminn ty d a b s) := issue_sameUnits fun s => fp2_sameUnits s ..
theorem execFmaxn_sameUnits (ty d a b) : s.KeepsUnits (execFmaxn ty d a b s) := issue_sameUnits fun s => fp2_sameUnits s ..
theorem execFsgnj_sameUnits (ty d a b) : s.KeepsUnits (execFsgnj ty d a b s) := issue_sameUnits fun s => fpSign_sameUnits s ..
theorem execFsgnjn_sameUnits (ty d a b) : s.KeepsUnits (execFsgnjn ty d a b s) := issue_sameUnits fun s => fpSign_sameUnits s ..
theorem execFsgnjx_sameUnits (ty d a b) : s.KeepsUnits (execFsgnjx ty d a b s) := issue_sameUnits fun s => fpSign_sameUnits s ..
theorem execFeq_sameUnits (ty d a b) : s.KeepsUnits (execFeq ty d a b s) := issue_sameUnits fun s => fpCmp_sameUnits s ..
theorem execFlt_sameUnits (ty d a b) : s.KeepsUnits (execFlt ty d a b s) := issue_sameUnits fun s => fpCmp_sameUnits s ..
theorem execFle_sameUnits (ty d a b) : s.KeepsUnits (execFle ty d a b s) := issue_sameUnits fun s => fpCmp_sameUnits s ..
theorem execFclass_sameUnits (ty d a) : s.KeepsUnits (execFclass ty d a s) := issue_sameUnits fun s => fp1_sameUnits s ..
theorem execFcvt_sameUnits (ty d a src) : s.KeepsUnits (execFcvt ty d a src s) := issue_sameUnits fun s => State.fpResult_sameUnits s ..
theorem execFcvti_sameUnits (ty d a rm w) : s.KeepsUnits (execFcvti ty d a rm w s) := issue_sameUnits fun s => fpToInt_sameUnits s ..
theorem execFcvtu_sameUnits (ty d a rm w) : s.KeepsUnits (execFcvtu ty d a rm w s) := issue_sameUnits fun s => fpToInt_sameUnits s ..
theorem execIcvtf_sameUnits (ty d a rm w) : s.KeepsUnits (execIcvtf ty d a rm w s) := issue_sameUnits fun s => fpOfInt_sameUnits s ..
theorem execUcvtf_sameUnits (ty d a rm w) : s.KeepsUnits (execUcvtf ty d a rm w s) := issue_sameUnits fun s => fpOfInt_sameUnits s ..
theorem execFma_sameUnits (ty rm d a b c) : s.KeepsUnits (execFma ty rm d a b c s) := issue_sameUnits fun s => fpFma_sameUnits s ..
theorem execFms_sameUnits (ty rm d a b c) : s.KeepsUnits (execFms ty rm d a b c s) := issue_sameUnits fun s => fpFma_sameUnits s ..
theorem execFnma_sameUnits (ty rm d a b c) : s.KeepsUnits (execFnma ty rm d a b c s) := issue_sameUnits fun s => fpFma_sameUnits s ..
theorem execFnms_sameUnits (ty rm d a b c) : s.KeepsUnits (execFnms ty rm d a b c s) := issue_sameUnits fun s => fpFma_sameUnits s ..

theorem execCsrr_sameUnits (d csr) : s.KeepsUnits (execCsrr d csr s) := by
  refine issue_sameUnits fun s => ?_
  grind [State.setX_sameUnits]

theorem execCsrw_sameUnits (d a csr) : s.KeepsUnits (execCsrw d a csr s) := issue_sameUnits fun s => csrUpdate_sameUnits s ..
theorem execCsrs_sameUnits (d a csr) : s.KeepsUnits (execCsrs d a csr s) := issue_sameUnits fun s => csrUpdate_sameUnits s ..
theorem execCsrc_sameUnits (d a csr) : s.KeepsUnits (execCsrc d a csr s) := issue_sameUnits fun s => csrUpdate_sameUnits s ..
theorem execAmoadd_sameUnits (dbl d a b) : s.KeepsUnits (execAmoadd dbl d a b s) := issue_sameUnits fun s => scalarAmo_sameUnits s ..
theorem execAmoand_sameUnits (dbl d a b) : s.KeepsUnits (execAmoand dbl d a b s) := issue_sameUnits fun s => scalarAmo_sameUnits s ..
theorem execAmoor_sameUnits (dbl d a b) : s.KeepsUnits (execAmoor dbl d a b s) := issue_sameUnits fun s => scalarAmo_sameUnits s ..
theorem execAmoxor_sameUnits (dbl d a b) : s.KeepsUnits (execAmoxor dbl d a b s) := issue_sameUnits fun s => scalarAmo_sameUnits s ..
theorem execAmomin_sameUnits (dbl d a b) : s.KeepsUnits (execAmomin dbl d a b s) := issue_sameUnits fun s => scalarAmo_sameUnits s ..
theorem execAmomax_sameUnits (dbl d a b) : s.KeepsUnits (execAmomax dbl d a b s) := issue_sameUnits fun s => scalarAmo_sameUnits s ..
theorem execAmominu_sameUnits (dbl d a b) : s.KeepsUnits (execAmominu dbl d a b s) := issue_sameUnits fun s => scalarAmo_sameUnits s ..
theorem execAmomaxu_sameUnits (dbl d a b) : s.KeepsUnits (execAmomaxu dbl d a b s) := issue_sameUnits fun s => scalarAmo_sameUnits s ..
theorem execAmoswp_sameUnits (dbl d a b) : s.KeepsUnits (execAmoswp dbl d a b s) := issue_sameUnits fun s => scalarAmo_sameUnits s ..
theorem execAmocas_sameUnits (dbl d a b) : s.KeepsUnits (execAmocas dbl d a b s) := issue_sameUnits fun s => scalarAmo_sameUnits s ..

theorem execAcq_sameUnits (a shared) : s.KeepsUnits (execAcq a shared s) := by
  refine issue_sameUnits fun s => ?_
  grind [State.unlessPoison, State.withObj, State.nameObj_sameUnits, State.pendFault_sameUnits, State.followObjs_sameUnits,
    State.setObj_sameUnits, State.grantTo_sameUnits]

theorem execRel_sameUnits (a) : s.KeepsUnits (execRel a s) := by
  refine issue_sameUnits fun s => State.unlessPoison_sameUnits fun s => ?_
  unfold State.withObj
  grind [State.drainThen, State.deliverOr, State.release_sameUnits, State.drain_sameUnits, State.deliver_sameUnits, State.nameObj_sameUnits,
    State.followObjs_sameUnits, State.pendFault_sameUnits]

theorem execTryacq_sameUnits (d a shared) : s.KeepsUnits (execTryacq d a shared s) := by
  refine issue_sameUnits fun s => ?_
  grind [State.unlessPoison, State.withObj, State.nameObj_sameUnits, State.pendFault_sameUnits, State.followObjs_sameUnits, State.setX_sameUnits,
    State.setObj_sameUnits, State.grantTo_sameUnits]

theorem execBind_sameUnits (d a b) : s.KeepsUnits (execBind d a b s) := by
  refine issue_sameUnits fun s => ?_
  grind [State.unlessPoison, State.withObj, State.nameObj_sameUnits, State.pendFault_sameUnits, State.followObjs_sameUnits,
    State.setObjField_sameUnits, State.setObj_sameUnits]

theorem execUnbind_sameUnits (d a) : s.KeepsUnits (execUnbind d a s) := by
  refine issue_sameUnits fun s => ?_
  grind [State.unlessPoison, State.withObj, State.nameObj_sameUnits, State.pendFault_sameUnits, State.followObjs_sameUnits,
    State.setObjField_sameUnits, State.setObj_sameUnits]

theorem execPref_sameUnits (a h) : s.KeepsUnits (execPref a h s) := by
  refine issue_sameUnits fun s => ?_
  grind [State.check_sameUnits, State.loadLine_sameUnits]

theorem execWbf_sameUnits : s.KeepsUnits (execWbf s) := by
  refine issue_sameUnits fun s => ?_
  grind [State.drainThen, State.drain_sameUnits, State.deliverOr, State.deliver_sameUnits]

theorem execLdro_sameUnits (d a) : s.KeepsUnits (execLdro d a s) := by
  refine issue_sameUnits fun s => ?_
  grind [State.unlessPoison, loadTo_sameUnits, State.keepReplica_sameUnits]

theorem execHstart_sameUnits (d a b) : s.KeepsUnits (execHstart d a b s) := by
  refine issue_sameUnits fun s => ?_
  grind [State.controlOnly, State.unlessPoison, State.setX_sameUnits, State.setTk_sameUnits]

theorem execHjoin_sameUnits (d a) : s.KeepsUnits (execHjoin d a s) := by
  refine issue_sameUnits fun s => ?_
  grind [State.controlOnly, State.unlessPoison, State.setX_sameUnits, State.setTk_sameUnits]

theorem execHexit_sameUnits (a) : s.KeepsUnits (execHexit a s) := by
  refine issue_sameUnits fun s => ?_
  grind [hexitOp_sameUnits, State.joinRelease_sameUnits]

theorem execHpeek_sameUnits (d a) : s.KeepsUnits (execHpeek d a s) := by
  refine issue_sameUnits fun s => ?_
  grind [State.unlessPoison, State.setX_sameUnits]

theorem execWaittl_sameUnits (t a) : s.KeepsUnits (execWaittl t a s) := by
  refine issue_sameUnits fun s => ?_
  grind [State.unlessPoison, State.deliverOr, State.deliver_sameUnits]

theorem execKexit_sameUnits (a) : s.KeepsUnits (execKexit a s) := issue_sameUnits fun s => kexitOp_sameUnits s ..
theorem execRdv_sameUnits (d a id count) : s.KeepsUnits (execRdv d a id count s) := issue_sameUnits fun s => rdvOp_sameUnits s ..
theorem execRdvadd_sameUnits (d a id count) : s.KeepsUnits (execRdvadd d a id count s) := issue_sameUnits fun s => rdvOp_sameUnits s ..
theorem execRdvmax_sameUnits (d a id count) : s.KeepsUnits (execRdvmax d a id count s) := issue_sameUnits fun s => rdvOp_sameUnits s ..
theorem execRdvor_sameUnits (d a id count) : s.KeepsUnits (execRdvor d a id count s) := issue_sameUnits fun s => rdvOp_sameUnits s ..
theorem execLi_sameUnits (d imm) : s.KeepsUnits (execLi d imm s) := issue_sameUnits fun s => alu0_sameUnits s ..
theorem execLiz_sameUnits (d imm) : s.KeepsUnits (execLiz d imm s) := issue_sameUnits fun s => alu0_sameUnits s ..
theorem execLihi_sameUnits (d a imm) : s.KeepsUnits (execLihi d a imm s) := issue_sameUnits fun s => alu1_sameUnits s ..
theorem execAddl_sameUnits (d a imm) : s.KeepsUnits (execAddl d a imm s) := issue_sameUnits fun s => alu1_sameUnits s ..
theorem execAndl_sameUnits (d a imm) : s.KeepsUnits (execAndl d a imm s) := issue_sameUnits fun s => alu1_sameUnits s ..
theorem execOrl_sameUnits (d a imm) : s.KeepsUnits (execOrl d a imm s) := issue_sameUnits fun s => alu1_sameUnits s ..
theorem execXorl_sameUnits (d a imm) : s.KeepsUnits (execXorl d a imm s) := issue_sameUnits fun s => alu1_sameUnits s ..
theorem execSltl_sameUnits (d a imm) : s.KeepsUnits (execSltl d a imm s) := issue_sameUnits fun s => alu1_sameUnits s ..
theorem execVadd_sameUnits (f) : s.KeepsUnits (execVadd f s) := issue_sameUnits fun s => vint2_sameUnits s ..
theorem execVsub_sameUnits (f) : s.KeepsUnits (execVsub f s) := issue_sameUnits fun s => vint2_sameUnits s ..
theorem execVmul_sameUnits (f) : s.KeepsUnits (execVmul f s) := issue_sameUnits fun s => vint2_sameUnits s ..
theorem execVmulh_sameUnits (f) : s.KeepsUnits (execVmulh f s) := issue_sameUnits fun s => vint2_sameUnits s ..
theorem execVmadd_sameUnits (f) : s.KeepsUnits (execVmadd f s) := issue_sameUnits fun s => vmaddOp_sameUnits s ..
theorem execVabs_sameUnits (f) : s.KeepsUnits (execVabs f s) := issue_sameUnits fun s => vint1_sameUnits s ..
theorem execVneg_sameUnits (f) : s.KeepsUnits (execVneg f s) := issue_sameUnits fun s => vint1_sameUnits s ..
theorem execVmin_sameUnits (f) : s.KeepsUnits (execVmin f s) := issue_sameUnits fun s => vint2_sameUnits s ..
theorem execVmax_sameUnits (f) : s.KeepsUnits (execVmax f s) := issue_sameUnits fun s => vint2_sameUnits s ..
theorem execVadds_sameUnits (f) : s.KeepsUnits (execVadds f s) := issue_sameUnits fun s => vint2_sameUnits s ..
theorem execVsubs_sameUnits (f) : s.KeepsUnits (execVsubs f s) := issue_sameUnits fun s => vint2_sameUnits s ..
theorem execVavg_sameUnits (f) : s.KeepsUnits (execVavg f s) := issue_sameUnits fun s => vint2_sameUnits s ..
theorem execVshl_sameUnits (f) : s.KeepsUnits (execVshl f s) := issue_sameUnits fun s => vint2_sameUnits s ..
theorem execVshr_sameUnits (f) : s.KeepsUnits (execVshr f s) := issue_sameUnits fun s => vint2_sameUnits s ..
theorem execVsra_sameUnits (f) : s.KeepsUnits (execVsra f s) := issue_sameUnits fun s => vint2_sameUnits s ..
theorem execVdot4_sameUnits (f) : s.KeepsUnits (execVdot4 f s) := issue_sameUnits fun s => vdot4Op_sameUnits s ..
theorem execVmov_sameUnits (f) : s.KeepsUnits (execVmov f s) := issue_sameUnits fun s => vint1_sameUnits s ..
theorem execVaddLit_sameUnits (f lit) : s.KeepsUnits (execVaddLit f lit s) := issue_sameUnits fun s => vint2_sameUnits s ..
theorem execVsubLit_sameUnits (f lit) : s.KeepsUnits (execVsubLit f lit s) := issue_sameUnits fun s => vint2_sameUnits s ..
theorem execVmulLit_sameUnits (f lit) : s.KeepsUnits (execVmulLit f lit s) := issue_sameUnits fun s => vint2_sameUnits s ..
theorem execVmulhLit_sameUnits (f lit) : s.KeepsUnits (execVmulhLit f lit s) := issue_sameUnits fun s => vint2_sameUnits s ..
theorem execVmaddLit_sameUnits (f lit) : s.KeepsUnits (execVmaddLit f lit s) := issue_sameUnits fun s => vmaddOp_sameUnits s ..
theorem execVabsLit_sameUnits (f lit) : s.KeepsUnits (execVabsLit f lit s) := issue_sameUnits fun s => vint1_sameUnits s ..
theorem execVnegLit_sameUnits (f lit) : s.KeepsUnits (execVnegLit f lit s) := issue_sameUnits fun s => vint1_sameUnits s ..
theorem execVminLit_sameUnits (f lit) : s.KeepsUnits (execVminLit f lit s) := issue_sameUnits fun s => vint2_sameUnits s ..
theorem execVmaxLit_sameUnits (f lit) : s.KeepsUnits (execVmaxLit f lit s) := issue_sameUnits fun s => vint2_sameUnits s ..
theorem execVaddsLit_sameUnits (f lit) : s.KeepsUnits (execVaddsLit f lit s) := issue_sameUnits fun s => vint2_sameUnits s ..
theorem execVsubsLit_sameUnits (f lit) : s.KeepsUnits (execVsubsLit f lit s) := issue_sameUnits fun s => vint2_sameUnits s ..
theorem execVavgLit_sameUnits (f lit) : s.KeepsUnits (execVavgLit f lit s) := issue_sameUnits fun s => vint2_sameUnits s ..
theorem execVshlLit_sameUnits (f lit) : s.KeepsUnits (execVshlLit f lit s) := issue_sameUnits fun s => vint2_sameUnits s ..
theorem execVshrLit_sameUnits (f lit) : s.KeepsUnits (execVshrLit f lit s) := issue_sameUnits fun s => vint2_sameUnits s ..
theorem execVsraLit_sameUnits (f lit) : s.KeepsUnits (execVsraLit f lit s) := issue_sameUnits fun s => vint2_sameUnits s ..
theorem execVdot4Lit_sameUnits (f lit) : s.KeepsUnits (execVdot4Lit f lit s) := issue_sameUnits fun s => vdot4Op_sameUnits s ..
theorem execVmovLit_sameUnits (f lit) : s.KeepsUnits (execVmovLit f lit s) := issue_sameUnits fun s => vint1_sameUnits s ..
theorem execVfadd_sameUnits (f) : s.KeepsUnits (execVfadd f s) := issue_sameUnits fun s => vflt2_sameUnits s ..
theorem execVfsub_sameUnits (f) : s.KeepsUnits (execVfsub f s) := issue_sameUnits fun s => vflt2_sameUnits s ..
theorem execVfmul_sameUnits (f) : s.KeepsUnits (execVfmul f s) := issue_sameUnits fun s => vflt2_sameUnits s ..
theorem execVfdiv_sameUnits (f) : s.KeepsUnits (execVfdiv f s) := issue_sameUnits fun s => vflt2_sameUnits s ..
theorem execVfsqrt_sameUnits (f) : s.KeepsUnits (execVfsqrt f s) := issue_sameUnits fun s => vflt1_sameUnits s ..
theorem execVfma_sameUnits (f) : s.KeepsUnits (execVfma f s) := issue_sameUnits fun s => vfmaOp_sameUnits s ..
theorem execVfms_sameUnits (f) : s.KeepsUnits (execVfms f s) := issue_sameUnits fun s => vfmaOp_sameUnits s ..
theorem execVfnma_sameUnits (f) : s.KeepsUnits (execVfnma f s) := issue_sameUnits fun s => vfmaOp_sameUnits s ..
theorem execVfmin_sameUnits (f) : s.KeepsUnits (execVfmin f s) := issue_sameUnits fun s => vfminmax_sameUnits s ..
theorem execVfmax_sameUnits (f) : s.KeepsUnits (execVfmax f s) := issue_sameUnits fun s => vfminmax_sameUnits s ..
theorem execVfabs_sameUnits (f) : s.KeepsUnits (execVfabs f s) := issue_sameUnits fun s => vflt1_sameUnits s ..
theorem execVfneg_sameUnits (f) : s.KeepsUnits (execVfneg f s) := issue_sameUnits fun s => vflt1_sameUnits s ..
theorem execVfaddLit_sameUnits (f lit) : s.KeepsUnits (execVfaddLit f lit s) := issue_sameUnits fun s => vflt2_sameUnits s ..
theorem execVfsubLit_sameUnits (f lit) : s.KeepsUnits (execVfsubLit f lit s) := issue_sameUnits fun s => vflt2_sameUnits s ..
theorem execVfmulLit_sameUnits (f lit) : s.KeepsUnits (execVfmulLit f lit s) := issue_sameUnits fun s => vflt2_sameUnits s ..
theorem execVfdivLit_sameUnits (f lit) : s.KeepsUnits (execVfdivLit f lit s) := issue_sameUnits fun s => vflt2_sameUnits s ..
theorem execVfsqrtLit_sameUnits (f lit) : s.KeepsUnits (execVfsqrtLit f lit s) := issue_sameUnits fun s => vflt1_sameUnits s ..
theorem execVfmaLit_sameUnits (f lit) : s.KeepsUnits (execVfmaLit f lit s) := issue_sameUnits fun s => vfmaOp_sameUnits s ..
theorem execVfmsLit_sameUnits (f lit) : s.KeepsUnits (execVfmsLit f lit s) := issue_sameUnits fun s => vfmaOp_sameUnits s ..
theorem execVfnmaLit_sameUnits (f lit) : s.KeepsUnits (execVfnmaLit f lit s) := issue_sameUnits fun s => vfmaOp_sameUnits s ..
theorem execVfminLit_sameUnits (f lit) : s.KeepsUnits (execVfminLit f lit s) := issue_sameUnits fun s => vfminmax_sameUnits s ..
theorem execVfmaxLit_sameUnits (f lit) : s.KeepsUnits (execVfmaxLit f lit s) := issue_sameUnits fun s => vfminmax_sameUnits s ..
theorem execVfabsLit_sameUnits (f lit) : s.KeepsUnits (execVfabsLit f lit s) := issue_sameUnits fun s => vflt1_sameUnits s ..
theorem execVfnegLit_sameUnits (f lit) : s.KeepsUnits (execVfnegLit f lit s) := issue_sameUnits fun s => vflt1_sameUnits s ..
theorem execVand_sameUnits (f) : s.KeepsUnits (execVand f s) := issue_sameUnits fun s => vbit2_sameUnits s ..
theorem execVor_sameUnits (f) : s.KeepsUnits (execVor f s) := issue_sameUnits fun s => vbit2_sameUnits s ..
theorem execVxor_sameUnits (f) : s.KeepsUnits (execVxor f s) := issue_sameUnits fun s => vbit2_sameUnits s ..
theorem execVandn_sameUnits (f) : s.KeepsUnits (execVandn f s) := issue_sameUnits fun s => vbit2_sameUnits s ..
theorem execVnot_sameUnits (f) : s.KeepsUnits (execVnot f s) := issue_sameUnits fun s => vbit1_sameUnits s ..
theorem execVpopc_sameUnits (f) : s.KeepsUnits (execVpopc f s) := issue_sameUnits fun s => vbit1_sameUnits s ..
theorem execVclz_sameUnits (f) : s.KeepsUnits (execVclz f s) := issue_sameUnits fun s => vbit1_sameUnits s ..
theorem execVctz_sameUnits (f) : s.KeepsUnits (execVctz f s) := issue_sameUnits fun s => vbit1_sameUnits s ..
theorem execVbrev_sameUnits (f) : s.KeepsUnits (execVbrev f s) := issue_sameUnits fun s => vbit1_sameUnits s ..
theorem execVfnsb_sameUnits (f) : s.KeepsUnits (execVfnsb f s) := issue_sameUnits fun s => vbit2_sameUnits s ..
theorem execVbfx_sameUnits (f) : s.KeepsUnits (execVbfx f s) := issue_sameUnits fun s => vbit2_sameUnits s ..
theorem execVandLit_sameUnits (f lit) : s.KeepsUnits (execVandLit f lit s) := issue_sameUnits fun s => vbit2_sameUnits s ..
theorem execVorLit_sameUnits (f lit) : s.KeepsUnits (execVorLit f lit s) := issue_sameUnits fun s => vbit2_sameUnits s ..
theorem execVxorLit_sameUnits (f lit) : s.KeepsUnits (execVxorLit f lit s) := issue_sameUnits fun s => vbit2_sameUnits s ..
theorem execVandnLit_sameUnits (f lit) : s.KeepsUnits (execVandnLit f lit s) := issue_sameUnits fun s => vbit2_sameUnits s ..
theorem execVnotLit_sameUnits (f lit) : s.KeepsUnits (execVnotLit f lit s) := issue_sameUnits fun s => vbit1_sameUnits s ..
theorem execVpopcLit_sameUnits (f lit) : s.KeepsUnits (execVpopcLit f lit s) := issue_sameUnits fun s => vbit1_sameUnits s ..
theorem execVclzLit_sameUnits (f lit) : s.KeepsUnits (execVclzLit f lit s) := issue_sameUnits fun s => vbit1_sameUnits s ..
theorem execVctzLit_sameUnits (f lit) : s.KeepsUnits (execVctzLit f lit s) := issue_sameUnits fun s => vbit1_sameUnits s ..
theorem execVbrevLit_sameUnits (f lit) : s.KeepsUnits (execVbrevLit f lit s) := issue_sameUnits fun s => vbit1_sameUnits s ..
theorem execVfnsbLit_sameUnits (f lit) : s.KeepsUnits (execVfnsbLit f lit s) := issue_sameUnits fun s => vbit2_sameUnits s ..
theorem execVbfxLit_sameUnits (f lit) : s.KeepsUnits (execVbfxLit f lit s) := issue_sameUnits fun s => vbit2_sameUnits s ..
theorem execVcmpeq_sameUnits (f) : s.KeepsUnits (execVcmpeq f s) := issue_sameUnits fun s => vcmpInt_sameUnits s ..
theorem execVcmpne_sameUnits (f) : s.KeepsUnits (execVcmpne f s) := issue_sameUnits fun s => vcmpInt_sameUnits s ..
theorem execVcmplt_sameUnits (f) : s.KeepsUnits (execVcmplt f s) := issue_sameUnits fun s => vcmpInt_sameUnits s ..
theorem execVcmple_sameUnits (f) : s.KeepsUnits (execVcmple f s) := issue_sameUnits fun s => vcmpInt_sameUnits s ..
theorem execVcmpltu_sameUnits (f) : s.KeepsUnits (execVcmpltu f s) := issue_sameUnits fun s => vcmpInt_sameUnits s ..
theorem execVcmpleu_sameUnits (f) : s.KeepsUnits (execVcmpleu f s) := issue_sameUnits fun s => vcmpInt_sameUnits s ..
theorem execVfcmpeq_sameUnits (f) : s.KeepsUnits (execVfcmpeq f s) := issue_sameUnits fun s => vcmpOp_sameUnits s ..
theorem execVfcmplt_sameUnits (f) : s.KeepsUnits (execVfcmplt f s) := issue_sameUnits fun s => vcmpOp_sameUnits s ..
theorem execVfcmple_sameUnits (f) : s.KeepsUnits (execVfcmple f s) := issue_sameUnits fun s => vcmpOp_sameUnits s ..
theorem execVfcmpun_sameUnits (f) : s.KeepsUnits (execVfcmpun f s) := issue_sameUnits fun s => vcmpOp_sameUnits s ..
theorem execVcmpeqLit_sameUnits (f lit) : s.KeepsUnits (execVcmpeqLit f lit s) := issue_sameUnits fun s => vcmpInt_sameUnits s ..
theorem execVcmpneLit_sameUnits (f lit) : s.KeepsUnits (execVcmpneLit f lit s) := issue_sameUnits fun s => vcmpInt_sameUnits s ..
theorem execVcmpltLit_sameUnits (f lit) : s.KeepsUnits (execVcmpltLit f lit s) := issue_sameUnits fun s => vcmpInt_sameUnits s ..
theorem execVcmpleLit_sameUnits (f lit) : s.KeepsUnits (execVcmpleLit f lit s) := issue_sameUnits fun s => vcmpInt_sameUnits s ..
theorem execVcmpltuLit_sameUnits (f lit) : s.KeepsUnits (execVcmpltuLit f lit s) := issue_sameUnits fun s => vcmpInt_sameUnits s ..
theorem execVcmpleuLit_sameUnits (f lit) : s.KeepsUnits (execVcmpleuLit f lit s) := issue_sameUnits fun s => vcmpInt_sameUnits s ..
theorem execVfcmpeqLit_sameUnits (f lit) : s.KeepsUnits (execVfcmpeqLit f lit s) := issue_sameUnits fun s => vcmpOp_sameUnits s ..
theorem execVfcmpltLit_sameUnits (f lit) : s.KeepsUnits (execVfcmpltLit f lit s) := issue_sameUnits fun s => vcmpOp_sameUnits s ..
theorem execVfcmpleLit_sameUnits (f lit) : s.KeepsUnits (execVfcmpleLit f lit s) := issue_sameUnits fun s => vcmpOp_sameUnits s ..
theorem execVfcmpunLit_sameUnits (f lit) : s.KeepsUnits (execVfcmpunLit f lit s) := issue_sameUnits fun s => vcmpOp_sameUnits s ..
theorem execPlen_sameUnits (f) : s.KeepsUnits (execPlen f s) := issue_sameUnits fun s => plenOp_sameUnits s ..
theorem execPlenu_sameUnits (f) : s.KeepsUnits (execPlenu f s) := issue_sameUnits fun s => plenOp_sameUnits s ..
theorem execPand_sameUnits (f) : s.KeepsUnits (execPand f s) := issue_sameUnits fun s => pred2_sameUnits s ..
theorem execPor_sameUnits (f) : s.KeepsUnits (execPor f s) := issue_sameUnits fun s => pred2_sameUnits s ..
theorem execPxor_sameUnits (f) : s.KeepsUnits (execPxor f s) := issue_sameUnits fun s => pred2_sameUnits s ..
theorem execPnot_sameUnits (f) : s.KeepsUnits (execPnot f s) := issue_sameUnits fun s => predResult_sameUnits s ..
theorem execPcnt_sameUnits (f) : s.KeepsUnits (execPcnt f s) := issue_sameUnits fun s => predX_sameUnits s ..
theorem execPfirst_sameUnits (f) : s.KeepsUnits (execPfirst f s) := issue_sameUnits fun s => predX_sameUnits s ..
theorem execPany_sameUnits (f) : s.KeepsUnits (execPany f s) := issue_sameUnits fun s => predX_sameUnits s ..
theorem execPset_sameUnits (f) : s.KeepsUnits (execPset f s) := issue_sameUnits fun s => predResult_sameUnits s ..
theorem execVlanes_sameUnits (f) : s.KeepsUnits (execVlanes f s) := issue_sameUnits fun s => State.setX_sameUnits s ..
theorem execVbcast_sameUnits (f) : s.KeepsUnits (execVbcast f s) := issue_sameUnits fun s => vbcastOp_sameUnits s ..
theorem execVextr_sameUnits (f) : s.KeepsUnits (execVextr f s) := issue_sameUnits fun s => vextrOp_sameUnits s ..
theorem execVins_sameUnits (f) : s.KeepsUnits (execVins f s) := issue_sameUnits fun s => vinsOp_sameUnits s ..
theorem execVslideup_sameUnits (f) : s.KeepsUnits (execVslideup f s) := issue_sameUnits fun s => vslideupOp_sameUnits s ..
theorem execVslidedn_sameUnits (f) : s.KeepsUnits (execVslidedn f s) := issue_sameUnits fun s => vslidednOp_sameUnits s ..
theorem execVperm_sameUnits (f) : s.KeepsUnits (execVperm f s) := issue_sameUnits fun s => vpermOp_sameUnits s ..
theorem execVcompress_sameUnits (f) : s.KeepsUnits (execVcompress f s) := issue_sameUnits fun s => vcompressOp_sameUnits s ..
theorem execVexpand_sameUnits (f) : s.KeepsUnits (execVexpand f s) := issue_sameUnits fun s => vexpandOp_sameUnits s ..
theorem execVsel_sameUnits (f) : s.KeepsUnits (execVsel f s) := issue_sameUnits fun s => vselOp_sameUnits s ..
theorem execViota_sameUnits (f) : s.KeepsUnits (execViota f s) := issue_sameUnits fun s => permResult_sameUnits s ..
theorem execVredadd_sameUnits (f) : s.KeepsUnits (execVredadd f s) := issue_sameUnits fun s => redAdd_sameUnits s ..
theorem execVredmin_sameUnits (f) : s.KeepsUnits (execVredmin f s) := issue_sameUnits fun s => redFold_sameUnits s ..
theorem execVredmax_sameUnits (f) : s.KeepsUnits (execVredmax f s) := issue_sameUnits fun s => redFold_sameUnits s ..
theorem execVredminu_sameUnits (f) : s.KeepsUnits (execVredminu f s) := issue_sameUnits fun s => redFold_sameUnits s ..
theorem execVredmaxu_sameUnits (f) : s.KeepsUnits (execVredmaxu f s) := issue_sameUnits fun s => redFold_sameUnits s ..
theorem execVredand_sameUnits (f) : s.KeepsUnits (execVredand f s) := issue_sameUnits fun s => redFold_sameUnits s ..
theorem execVredor_sameUnits (f) : s.KeepsUnits (execVredor f s) := issue_sameUnits fun s => redFold_sameUnits s ..
theorem execVredxor_sameUnits (f) : s.KeepsUnits (execVredxor f s) := issue_sameUnits fun s => redFold_sameUnits s ..
theorem execVfredadd_sameUnits (f) : s.KeepsUnits (execVfredadd f s) := issue_sameUnits fun s => redFadd_sameUnits s ..
theorem execVfredmin_sameUnits (f) : s.KeepsUnits (execVfredmin f s) := issue_sameUnits fun s => redFminmax_sameUnits s ..
theorem execVfredmax_sameUnits (f) : s.KeepsUnits (execVfredmax f s) := issue_sameUnits fun s => redFminmax_sameUnits s ..
theorem execVcvt_sameUnits (f) : s.KeepsUnits (execVcvt f s) := issue_sameUnits fun s => cvtOp_sameUnits s ..
theorem execVnarrow_sameUnits (f) : s.KeepsUnits (execVnarrow f s) := issue_sameUnits fun s => narrowOp_sameUnits s ..
theorem execVwiden_sameUnits (f) : s.KeepsUnits (execVwiden f s) := issue_sameUnits fun s => cvtOp_sameUnits s ..
theorem execVpackdx_sameUnits (f) : s.KeepsUnits (execVpackdx f s) := issue_sameUnits fun s => packOp_sameUnits s ..
theorem execVunpkdx_sameUnits (f) : s.KeepsUnits (execVunpkdx f s) := issue_sameUnits fun s => unpackOp_sameUnits s ..
theorem execVpackdx4_sameUnits (f) : s.KeepsUnits (execVpackdx4 f s) := issue_sameUnits fun s => packOp_sameUnits s ..
theorem execVunpkdx4_sameUnits (f) : s.KeepsUnits (execVunpkdx4 f s) := issue_sameUnits fun s => unpackOp_sameUnits s ..
theorem execVrcp_sameUnits (f) : s.KeepsUnits (execVrcp f s) := issue_sameUnits fun s => sfuOp_sameUnits s ..
theorem execVrsqrt_sameUnits (f) : s.KeepsUnits (execVrsqrt f s) := issue_sameUnits fun s => sfuOp_sameUnits s ..
theorem execVexp2_sameUnits (f) : s.KeepsUnits (execVexp2 f s) := issue_sameUnits fun s => sfuOp_sameUnits s ..
theorem execVlog2_sameUnits (f) : s.KeepsUnits (execVlog2 f s) := issue_sameUnits fun s => sfuOp_sameUnits s ..
theorem execVtanh_sameUnits (f) : s.KeepsUnits (execVtanh f s) := issue_sameUnits fun s => sfuOp_sameUnits s ..
theorem execVsigm_sameUnits (f) : s.KeepsUnits (execVsigm f s) := issue_sameUnits fun s => sfuOp_sameUnits s ..
theorem execVsinpi_sameUnits (f) : s.KeepsUnits (execVsinpi f s) := issue_sameUnits fun s => sfuOp_sameUnits s ..
theorem execVcospi_sameUnits (f) : s.KeepsUnits (execVcospi f s) := issue_sameUnits fun s => sfuOp_sameUnits s ..
theorem execVld_sameUnits (f) : s.KeepsUnits (execVld f s) := issue_sameUnits fun s => vecLoad_sameUnits s ..
theorem execVlds_sameUnits (f) : s.KeepsUnits (execVlds f s) := issue_sameUnits fun s => vecLoad_sameUnits s ..
theorem execVldx_sameUnits (f) : s.KeepsUnits (execVldx f s) := issue_sameUnits fun s => vecLoad_sameUnits s ..
theorem execVldb_sameUnits (f) : s.KeepsUnits (execVldb f s) := issue_sameUnits fun s => vecLoadOnce_sameUnits s ..
theorem execVldff_sameUnits (f) : s.KeepsUnits (execVldff f s) := issue_sameUnits fun s => vecLoadFirst_sameUnits s ..
theorem execVst_sameUnits (f) : s.KeepsUnits (execVst f s) := issue_sameUnits fun s => vecStore_sameUnits s ..
theorem execVsts_sameUnits (f) : s.KeepsUnits (execVsts f s) := issue_sameUnits fun s => vecStore_sameUnits s ..
theorem execVstx_sameUnits (f) : s.KeepsUnits (execVstx f s) := issue_sameUnits fun s => vecStore_sameUnits s ..
theorem execVstc_sameUnits (f) : s.KeepsUnits (execVstc f s) := issue_sameUnits fun s => vecStore_sameUnits s ..
theorem execVamoadd_sameUnits (f) : s.KeepsUnits (execVamoadd f s) := issue_sameUnits fun s => vecAmo_sameUnits s ..
theorem execVamoor_sameUnits (f) : s.KeepsUnits (execVamoor f s) := issue_sameUnits fun s => vecAmo_sameUnits s ..
theorem execVamoand_sameUnits (f) : s.KeepsUnits (execVamoand f s) := issue_sameUnits fun s => vecAmo_sameUnits s ..
theorem execVamomin_sameUnits (f) : s.KeepsUnits (execVamomin f s) := issue_sameUnits fun s => vecAmo_sameUnits s ..
theorem execVamomax_sameUnits (f) : s.KeepsUnits (execVamomax f s) := issue_sameUnits fun s => vecAmo_sameUnits s ..

theorem execTld_sameUnits (d a n) : s.KeepsUnits (execTld d a n s) := by
  refine issue_sameUnits fun s => ?_
  grind [State.setThr_sameUnits, tileAccess, State.unlessPoison]

theorem execTst_sameUnits (d a n) : s.KeepsUnits (execTst d a n s) := by
  refine issue_sameUnits fun s => ?_
  grind [tileAccess, State.unlessPoison]

theorem execTzero_sameUnits (d n) : s.KeepsUnits (execTzero d n s) := by
  refine issue_sameUnits fun s => ?_
  grind [viaOmu, State.arrive_sameUnits, State.submit_sameUnits]

theorem execTacc_sameUnits (d n m) : s.KeepsUnits (execTacc d n m s) := by
  refine issue_sameUnits fun s => ?_
  grind [viaOmu, State.arrive_sameUnits, State.submit_sameUnits]

theorem execMxp_sameUnits (d a b m) : s.KeepsUnits (execMxp d a b m s) := by
  refine issue_sameUnits fun s => ?_
  grind [viaOmu, State.arrive_sameUnits, passOp_sameUnits]

theorem execMxps_sameUnits (d a b m) : s.KeepsUnits (execMxps d a b m s) := by
  refine issue_sameUnits fun s => ?_
  grind [viaOmu, State.arrive_sameUnits, passOp_sameUnits]

theorem execMxprobe_sameUnits (d a mask cap) : s.KeepsUnits (execMxprobe d a mask cap s) := by
  refine issue_sameUnits fun s => ?_
  grind [viaOmu, State.arrive_sameUnits, State.unlessPoison, State.submit_sameUnits]

theorem execPhld_sameUnits (d a b bank cap) : s.KeepsUnits (execPhld d a b bank cap s) := by
  refine issue_sameUnits fun s => ?_
  grind [viaOmu, State.arrive_sameUnits, State.unlessPoison, phaseOp_sameUnits]

theorem execPhtrim_sameUnits (d a bank cap) : s.KeepsUnits (execPhtrim d a bank cap s) := by
  refine issue_sameUnits fun s => ?_
  grind [viaOmu, State.arrive_sameUnits, State.unlessPoison, phaseOp_sameUnits]

theorem execPhrd_sameUnits (d a b bank cap) : s.KeepsUnits (execPhrd d a b bank cap s) := by
  refine issue_sameUnits fun s => ?_
  grind [viaOmu, State.arrive_sameUnits, State.unlessPoison, phaseOp_sameUnits]

theorem execPhinv_sameUnits (d a bank cap) : s.KeepsUnits (execPhinv d a bank cap s) := by
  refine issue_sameUnits fun s => ?_
  grind [viaOmu, State.arrive_sameUnits, State.unlessPoison, phaseOp_sameUnits]

theorem execDcmp_sameUnits (d a b cap res) : s.KeepsUnits (execDcmp d a b cap res s) := by
  refine issue_sameUnits fun s => State.unlessPoison_sameUnits fun s => ?_
  dsimp only
  generalize (if res then 2 * imgBytes else imgBytes) = n
  repeat' split
  · exact .refl s
  · exact .refl s
  · exact .refl s
  · refine unlessFault_sameUnits fun s => ?_
    grind [State.issueOp_sameUnits, State.setX_sameUnits, State.setDie_sameUnits]

theorem execCpy_sameUnits (d a b c raw) : s.KeepsUnits (execCpy d a b c raw s) := by
  refine issue_sameUnits fun s => State.unlessPoison_sameUnits fun s => unlessFault_sameUnits fun s => ?_
  exact s.queueCopy_sameUnits ..

theorem execCpy2_sameUnits (d a b c e raw) : s.KeepsUnits (execCpy2 d a b c e raw s) := by
  refine issue_sameUnits fun s => State.unlessPoison_sameUnits fun s => unlessFault_sameUnits fun s => ?_
  exact s.queueCopy_sameUnits ..

theorem execCpyset_sameUnits (d a b c raw) : s.KeepsUnits (execCpyset d a b c raw s) := by
  refine issue_sameUnits fun s => State.unlessPoison_sameUnits fun s => unlessFault_sameUnits fun s => ?_
  exact s.queueCopy_sameUnits ..

theorem execCpytile_sameUnits (d a b tile first count dir) : s.KeepsUnits (execCpytile d a b tile first count dir s) := by
  refine issue_sameUnits fun s => State.unlessPoison_sameUnits fun s => unlessFault_sameUnits fun s => ?_
  split
  · exact .refl s
  · exact s.queueCopy_sameUnits ..

theorem execCpycmp_sameUnits (d a b c e raw) : s.KeepsUnits (execCpycmp d a b c e raw s) := by
  refine issue_sameUnits fun s => State.unlessPoison_sameUnits fun s => unlessFault_sameUnits fun s => ?_
  exact s.queueCopy_sameUnits ..

theorem execSplook_sameUnits (d a b) : s.KeepsUnits (execSplook d a b s) := by
  refine issue_sameUnits fun s => ?_
  grind [withHandle, State.unlessPoison, State.lookHandle_sameUnits, lookBlock_sameUnits]

theorem execSpevict_sameUnits (d a) : s.KeepsUnits (execSpevict d a s) := by
  refine issue_sameUnits fun s => ?_
  grind [withHandle, State.unlessPoison, State.lookHandle_sameUnits, State.setX_sameUnits, State.setCluster_sameUnits]

theorem execSpdemote_sameUnits (a) : s.KeepsUnits (execSpdemote a s) := by
  refine issue_sameUnits fun s => ?_
  grind [withHandle, State.unlessPoison, State.lookHandle_sameUnits, State.setCluster_sameUnits]

theorem execSprel_sameUnits (a b) : s.KeepsUnits (execSprel a b s) := by
  refine issue_sameUnits fun s => ?_
  grind [State.unlessPoison, State.setCluster_sameUnits]

theorem execSpprio_sameUnits (a b) : s.KeepsUnits (execSpprio a b s) := by
  refine issue_sameUnits fun s => ?_
  grind [withHandle, State.unlessPoison, State.lookHandle_sameUnits, State.setCluster_sameUnits]

theorem execSync_sameUnits (n) : s.KeepsUnits (execSync n s) := issue_sameUnits fun s => arrive_sameUnits s ..
theorem execSarrive_sameUnits (n) : s.KeepsUnits (execSarrive n s) := issue_sameUnits fun s => arrive_sameUnits s ..
theorem execSwait_sameUnits (n) : s.KeepsUnits (execSwait n s) := issue_sameUnits fun s => swaitOp_sameUnits s ..
theorem execSyncv_sameUnits (d a n op) : s.KeepsUnits (execSyncv d a n op s) := issue_sameUnits fun s => arrive_sameUnits s ..

theorem execXsend_sameUnits (a b c n) : s.KeepsUnits (execXsend a b c n s) := by
  refine issue_sameUnits fun s => ?_
  grind [State.unlessPoison, State.xAdd_sameUnits]

theorem execXopen_sameUnits (a n) : s.KeepsUnits (execXopen a n s) := by
  refine issue_sameUnits fun s => ?_
  grind [State.setThr_sameUnits, State.unlessPoison]

theorem execXput_sameUnits (a) : s.KeepsUnits (execXput a s) := by
  refine issue_sameUnits fun s => ?_
  grind [State.setThr_sameUnits]

theorem execXend_sameUnits : s.KeepsUnits (execXend s) := by
  refine issue_sameUnits fun s => ?_
  grind [State.setThr_sameUnits, State.xAdd_sameUnits]

theorem execKlaunch_sameUnits (_d a _q _detach) : s.KeepsUnits (execKlaunch _d a _q _detach s) := by
  refine issue_sameUnits fun s => ?_
  grind [State.unlessPoison, klaunchRead_sameUnits]

theorem execKquery_sameUnits (d a) : s.KeepsUnits (execKquery d a s) := by
  refine issue_sameUnits fun s => ?_
  grind [State.unlessPoison, State.setX_sameUnits]

theorem execKsignal_sameUnits (a b) : s.KeepsUnits (execKsignal a b s) := by
  refine issue_sameUnits fun s => ?_
  grind [State.unlessPoison, State.drainThen, State.drain_sameUnits, State.deliverOr, State.deliver_sameUnits, State.sigRaise_sameUnits]

theorem execLquery_sameUnits (d a) : s.KeepsUnits (execLquery d a s) := by
  refine issue_sameUnits fun s => ?_
  grind [State.unlessPoison, State.setX_sameUnits, State.lquery_sameUnits]

theorem execLrenew_sameUnits (d a) : s.KeepsUnits (execLrenew d a s) := by
  refine issue_sameUnits fun s => ?_
  grind [State.unlessPoison, State.setX_sameUnits, State.walkFor_sameUnits]

theorem execPgcnt_sameUnits (d a) : s.KeepsUnits (execPgcnt d a s) := by
  refine issue_sameUnits fun s => ?_
  grind [State.unlessPoison, State.setX_sameUnits, State.translate_sameUnits]

theorem execLdrain_sameUnits (d a) : s.KeepsUnits (execLdrain d a s) := by
  refine issue_sameUnits fun s => ?_
  grind [State.unlessPoison, State.issueOp_sameUnits, State.setX_sameUnits, State.retireLdrains_sameUnits]

theorem execLstat_sameUnits (d a sel) : s.KeepsUnits (execLstat d a sel s) := by
  refine issue_sameUnits fun s => ?_
  grind [State.unlessPoison, State.setX_sameUnits]

theorem execIrsend_sameUnits (d a b) : s.KeepsUnits (execIrsend d a b s) := by
  refine issue_sameUnits fun s => ?_
  grind [State.irChecks, State.unlessPoison, State.irAccept_sameUnits, State.retireFailed_sameUnits]

theorem execIrrecv_sameUnits (d a b) : s.KeepsUnits (execIrrecv d a b s) := by
  refine issue_sameUnits fun s => ?_
  grind [State.irChecks, State.unlessPoison, State.irAccept_sameUnits]

theorem execPmark_sameUnits (a) : s.KeepsUnits (execPmark a s) := issue_sameUnits fun s => State.traceRec_sameUnits s ..

theorem execDstop_sameUnits : s.KeepsUnits (execDstop s) := by
  refine issue_sameUnits fun s => ?_
  grind [State.setThr_sameUnits, State.stopCore_sameUnits]

theorem execStackBringup_sameUnits (reports) : s.KeepsUnits (execStackBringup reports s) := by
  refine event_sameUnits (State.atStep_sameUnits fun s => (s.bootKind_sameUnits 4).trans (.foldl (fun s k => ?_) _ _))
  exact ((s.setStack_sameUnits _ _).trans (State.send_sameUnits _ _ _ _)).trans (State.reportSpares_sameUnits _ _)

theorem execCombLock_sameUnits (ok) : s.KeepsUnits (execCombLock ok s) := by
  refine event_sameUnits ?_
  grind [State.atStep]

theorem execSwitchPortTrain_sameUnits (ok) : s.KeepsUnits (execSwitchPortTrain ok s) := by
  refine event_sameUnits ?_
  split
  · split <;> exact .refl s
  · exact State.atStep_sameUnits fun s => (s.bootKind_sameUnits 3).trans (.foldl (fun s i => s.toPort_sameUnits _ _) _ _)

theorem execMgcRelease_sameUnits (ok) : s.KeepsUnits (execMgcRelease ok s) := by
  refine event_sameUnits ?_
  dsimp only
  split
  · exact .refl s
  · exact State.atStep_sameUnits fun s => (s.bootKind_sameUnits 2).trans (.foldl (fun s c => s.setCluster_sameUnits _ _) _ _)

theorem execSetReady_sameUnits : s.KeepsUnits (execSetReady s) := by
  refine event_sameUnits ?_
  grind [State.atStep]

theorem execCxlLinkTrain_sameUnits (cache mem) : s.KeepsUnits (execCxlLinkTrain cache mem s) := event_sameUnits ⟨rfl, rfl⟩
theorem execDieJunctionLimit_sameUnits (d) : s.KeepsUnits (execDieJunctionLimit d s) := event_sameUnits ⟨rfl, rfl⟩

theorem execDieJunctionRecover_sameUnits (d) : s.KeepsUnits (execDieJunctionRecover d s) := by
  by_cases h : (s.die d).coolAt + 1000000 ≤ s.now
  · have he : execDieJunctionRecover d s = .next (s.setDie d _) := congrArg Host.Outcome.next (if_pos h)
    exact he ▸ (s.setDie_sameUnits ..).next
  · have he : execDieJunctionRecover d s = .next s := congrArg Host.Outcome.next (if_neg h)
    exact he ▸ (State.SameUnits.refl s).next

theorem execCombLineBelowThreshold_sameUnits (src line failed) : s.KeepsUnits (execCombLineBelowThreshold src line failed s) := by
  refine event_sameUnits ?_
  grind [State.lineLoss_sameUnits]

theorem execCombLineRecover_sameUnits (src line res) : s.KeepsUnits (execCombLineRecover src line res s) := by
  refine event_sameUnits ?_
  dsimp only
  repeat' split
  · exact .refl s
  · refine .foldl (fun s i => ?_) _ _
    grind [State.omuRecover_sameUnits]
  · exact .refl s

theorem execLaserTelemetryUpdate_sameUnits (src line r) : s.KeepsUnits (execLaserTelemetryUpdate src line r s) := by
  refine event_sameUnits ?_
  grind [State.lineLoss_sameUnits]

theorem execIssueGroupForm_sameUnits (core) : s.KeepsUnits (execIssueGroupForm core s) := by
  refine event_sameUnits ?_
  grind [State.formGroup_sameUnits]

theorem execHandlerInstructionLimit_sameUnits (core) : s.KeepsUnits (execHandlerInstructionLimit core s) := by
  refine event_sameUnits ?_
  grind [State.setTask_sameUnits, State.holdIfStopping_sameUnits, State.takeFault_sameUnits, State.leaveHandler_sameUnits]

theorem execDeadlockDetect_sameUnits (core) : s.KeepsUnits (execDeadlockDetect core s) := by
  refine event_sameUnits ?_
  grind [State.faultHeld_sameUnits, State.setTask_sameUnits]

theorem execSfuEntryComplete_sameUnits (core idx) : s.KeepsUnits (execSfuEntryComplete core idx s) := by
  refine event_sameUnits ?_
  grind [State.setTask_sameUnits]

theorem execTaskStart_sameUnits (core shadow) : s.KeepsUnits (execTaskStart core shadow s) := by
  refine event_sameUnits ?_
  grind [State.startTask_sameUnits]

theorem execTaskRestore_sameUnits (core shadow) : s.KeepsUnits (execTaskRestore core shadow s) := by
  refine event_sameUnits ?_
  grind [State.restoreTask_sameUnits]

theorem execTaskSave_sameUnits (core toFrame) : s.KeepsUnits (execTaskSave core toFrame s) := by
  refine event_sameUnits ?_
  grind [State.drainAll_sameUnits, State.saveTask_sameUnits]

theorem execSpinTimeoutSwap_sameUnits (core) : s.KeepsUnits (execSpinTimeoutSwap core s) := by
  refine event_sameUnits ?_
  grind [State.drainAll_sameUnits, State.saveTask_sameUnits]

theorem execHexitComplete_sameUnits (core slot) : s.KeepsUnits (execHexitComplete core slot s) := by
  refine event_sameUnits ?_
  grind [State.retryHeld_sameUnits fun a s => execHexit_sameUnits s a]

theorem execKexitComplete_sameUnits (core) : s.KeepsUnits (execKexitComplete core s) := by
  refine event_sameUnits ?_
  split
  · exact State.retryHeld_sameUnits fun a s => issue_sameUnits fun s => kexitOp_sameUnits s a
  · exact .refl s

theorem execStorePerform_sameUnits (core slot idx) : s.KeepsUnits (execStorePerform core slot idx s) := by
  refine event_sameUnits ?_
  grind [State.performEntry_sameUnits]

theorem execAccessReissue_sameUnits (core slot) : s.KeepsUnits (execAccessReissue core slot s) := by
  have hperform (tid : Nat) (l : List BufStore) := State.SameUnits.foldl (f := fun (s : State) (e : BufStore) =>
    if e.parts.any fun p => p.tr.expiry ≤ s.now + p.tr.skew then s.performEntry tid slot e.age else s)
    (fun s e => by grind [State.performEntry_sameUnits]) l s
  refine event_sameUnits (.trans (t := match s.bufferOf core slot with
    | some tid => (s.thread tid slot).wbuf.foldl (fun (s : State) (e : BufStore) =>
        if e.parts.any fun p => p.tr.expiry ≤ s.now + p.tr.skew then s.performEntry tid slot e.age else s) s
    | none => s) ?_ ?_)
  · split
    · exact hperform _ _
    · exact .refl s
  · grind [State.walkFor_sameUnits]

theorem execAtomicAtHome_sameUnits (core slot) : s.KeepsUnits (execAtomicAtHome core slot s) := by
  refine event_sameUnits ?_
  split
  · exact .refl s
  · split
    · split
      · next hf => exact State.resumeAs_sameUnits (heldAtomic_sameUnits hf)
      · exact .refl s
    · exact .refl s

theorem execPageWalk_sameUnits (cl ctx va) : s.KeepsUnits (execPageWalk cl ctx va s) := by
  refine event_sameUnits ?_
  grind [State.walkFor_sameUnits]

theorem execLeaseExpiry_sameUnits (cl) : s.KeepsUnits (execLeaseExpiry cl s) := by
  exact event_sameUnits ((s.setCluster_sameUnits _ _).trans (.foldl (fun s i => s.setCore_sameUnits _ _) _ _))

theorem execCmeArbitrationRound_sameUnits (cluster) : s.KeepsUnits (execCmeArbitrationRound cluster s) := by
  refine event_sameUnits (.foldl (fun s i => ?_) _ _)
  grind [State.serve_sameUnits, State.serveOne_sameUnits, State.setCluster_sameUnits]

theorem execCopyUnit_sameUnits (core seq) : s.KeepsUnits (execCopyUnit core seq s) := by
  refine event_sameUnits ?_
  grind [State.copyStep_sameUnits]

theorem execCopyLeaseRenewal_sameUnits (core seq) : s.KeepsUnits (execCopyLeaseRenewal core seq s) := by
  refine event_sameUnits ?_
  split
  · exact .refl s
  · next o _ =>
    have hrenew := State.SameUnits.foldl_fst (fun (a : State × CopyOp × Option Nat) (t : Trans) => match a.2.2 with
      | some _ => a
      | none => a.1.renew a.2.1 t) (fun a t => by grind [State.renew_sameUnits])
      (o.trs.filter fun t => s.near o.cluster t && (s.unitIn o t).isSome) (s, o, none)
    dsimp only
    split
    · exact hrenew.trans (State.endCopy_sameUnits _ _ _)
    · exact hrenew.trans (State.setCopy_sameUnits _ _)

theorem execPassArrival_sameUnits (core slot) : s.KeepsUnits (execPassArrival core slot s) := by
  refine event_sameUnits ?_
  repeat' split
  · exact .refl s
  · exact State.resumeAs_sameUnits fun s => s.arrive_sameUnits _ _
  · exact .refl s

theorem execPassStreamStart_sameUnits (cl) : s.KeepsUnits (execPassStreamStart cl s) := by
  refine event_sameUnits ?_
  grind [State.endPass_sameUnits, State.stream_sameUnits]

theorem execPassDetected_sameUnits (cl) : s.KeepsUnits (execPassDetected cl s) := by
  refine event_sameUnits ?_
  grind [State.sweep_sameUnits, State.setCluster_sameUnits]

theorem execOmuProbe_sameUnits (cl bank measured) : s.KeepsUnits (execOmuProbe cl bank measured s) := by
  refine event_sameUnits ?_
  grind [State.skipProbe_sameUnits, State.sweep_sameUnits, State.bankProbe_sameUnits, State.afterProbe_sameUnits]

theorem execOmuPhld_sameUnits (cl measured) : s.KeepsUnits (execOmuPhld cl measured s) := by
  refine event_sameUnits ?_
  grind [State.imageRead_sameUnits, State.endPhase_sameUnits, State.unload_sameUnits, State.loadBank_sameUnits, State.bankProbe_sameUnits]

theorem execOmuPhtrim_sameUnits (cl trims measured) : s.KeepsUnits (execOmuPhtrim cl trims measured s) := by
  refine event_sameUnits ?_
  grind [State.endPhase_sameUnits, State.bankProbe_sameUnits, State.setCluster_sameUnits]

theorem execOmuPhrd_sameUnits (cl) : s.KeepsUnits (execOmuPhrd cl s) := by
  refine event_sameUnits ?_
  grind [State.endPhase_sameUnits, State.imageWrite_sameUnits]

theorem execOmuPhinv_sameUnits (cl) : s.KeepsUnits (execOmuPhinv cl s) := by
  refine event_sameUnits ?_
  grind [State.endPhase_sameUnits, State.unload_sameUnits]

theorem execOmuTzero_sameUnits (cl) : s.KeepsUnits (execOmuTzero cl s) := by
  refine event_sameUnits ?_
  grind [State.endOmu_sameUnits]

theorem execOmuTacc_sameUnits (cl) : s.KeepsUnits (execOmuTacc cl s) := by
  refine event_sameUnits ?_
  grind [State.endOmu_sameUnits]

theorem execDcmpExecute_sameUnits (die) : s.KeepsUnits (execDcmpExecute die s) := by
  refine event_sameUnits ?_
  split
  · exact .foldl (fun s o => s.endDcmp_sameUnits _ _ _) _ _
  · exact s.serveDcmp_sameUnits _ _

theorem execOmuThermalLoop_sameUnits (cl errs) : s.KeepsUnits (execOmuThermalLoop cl errs s) := by
  refine event_sameUnits ?_
  grind [State.setCluster_sameUnits]

theorem execTcfgWrite_sameUnits (core slot n val) : s.KeepsUnits (execTcfgWrite core slot n val s) := by
  refine event_sameUnits ?_
  grind [State.csrWriteBy_sameUnits]

theorem execPhprobeWrite_sameUnits (core val) : s.KeepsUnits (execPhprobeWrite core val s) := by
  refine event_sameUnits ?_
  grind [State.csrWriteBy_sameUnits]

theorem execDrlimitWrite_sameUnits (core val) : s.KeepsUnits (execDrlimitWrite core val s) := by
  refine event_sameUnits ?_
  grind [State.csrWriteBy_sameUnits]

theorem execGainWrite_sameUnits (core val) : s.KeepsUnits (execGainWrite core val s) := by
  refine event_sameUnits ?_
  grind [State.csrWriteBy_sameUnits]

theorem execExchangeEntryRun_sameUnits (core) : s.KeepsUnits (execExchangeEntryRun core s) := by
  exact event_sameUnits (.foldl State.exchange_sameUnits _ _)

theorem execGroupEnterReleasing_sameUnits (kid level gid) : s.KeepsUnits (execGroupEnterReleasing kid level gid s) := by
  refine event_sameUnits ?_
  grind [State.groupRelease_sameUnits]

theorem execMemberRelease_sameUnits (core) : s.KeepsUnits (execMemberRelease core s) := by
  refine event_sameUnits ?_
  grind [State.complete_sameUnits, State.releaseMember_sameUnits]

theorem execLevelConflictDetect_sameUnits (kid) : s.KeepsUnits (execLevelConflictDetect kid s) := by
  refine event_sameUnits ?_
  grind [State.breakGroups_sameUnits]

theorem execPeerLoss_sameUnits (kid) : s.KeepsUnits (execPeerLoss kid s) := by
  refine event_sameUnits ?_
  grind [State.breakGroups_sameUnits]

theorem execDoorbellWrite_sameUnits (ctx q tail) : s.KeepsUnits (execDoorbellWrite ctx q tail s) := by
  refine event_sameUnits ?_
  grind [State.doorbell_sameUnits]

theorem execLaunchRecordTake_sameUnits (ctx q) : s.KeepsUnits (execLaunchRecordTake ctx q s) := by
  refine event_sameUnits ?_
  grind [State.engineWrite_sameUnits, State.setQueue_sameUnits, State.ringPut_sameUnits, State.accept_sameUnits]

theorem execKlaunchMgcAnswer_sameUnits (core slot) : s.KeepsUnits (execKlaunchMgcAnswer core slot s) := by
  refine event_sameUnits ?_
  grind [State.klaunchAnswer_sameUnits]

theorem execKernelEligible_sameUnits (kid) : s.KeepsUnits (execKernelEligible kid s) := by
  refine event_sameUnits ?_
  grind [State.setKernel_sameUnits, State.leaveQueue_sameUnits]

theorem execKernelDependenceFault_sameUnits (kid) : s.KeepsUnits (execKernelDependenceFault kid s) := by
  refine event_sameUnits ?_
  grind [State.endKernel_sameUnits, State.leaveQueue_sameUnits]

theorem execBindEntryWrite_sameUnits (core shadow write) : s.KeepsUnits (execBindEntryWrite core shadow write s) := by
  refine event_sameUnits ?_
  grind [State.queueMsg_sameUnits, State.takeEntry_sameUnits]

theorem execKernelDrainComplete_sameUnits (kid) : s.KeepsUnits (execKernelDrainComplete kid s) := by
  refine event_sameUnits ?_
  grind [State.setKernel_sameUnits, State.endKernel_sameUnits, State.teardown_sameUnits]

theorem execReplayCompare_sameUnits (kid) : s.KeepsUnits (execReplayCompare kid s) := by
  refine event_sameUnits ?_
  grind [State.setKernel_sameUnits, State.ringPut_sameUnits, State.endKernel_sameUnits]

theorem execKernelKill_sameUnits (kid) : s.KeepsUnits (execKernelKill kid s) := by
  refine event_sameUnits ?_
  grind [State.killStep_sameUnits]

theorem execPreemptPartition_sameUnits (cores) : s.KeepsUnits (execPreemptPartition cores s) := by
  exact event_sameUnits (.foldl State.halt_sameUnits _ _)

theorem execPriorityWaitTimeout_sameUnits (kid) : s.KeepsUnits (execPriorityWaitTimeout kid s) := by
  have hhalt (l : List Nat) := State.SameUnits.foldl State.halt_sameUnits l s
  refine event_sameUnits ?_
  grind

theorem execContextCreateRequest_sameUnits (ctx d keyHeld) : s.KeepsUnits (execContextCreateRequest ctx d keyHeld s) := by
  refine event_sameUnits ?_
  grind [State.send_sameUnits, State.setCtx_sameUnits]

theorem execQueueRegister_sameUnits (ctx q ring logq cap) : s.KeepsUnits (execQueueRegister ctx q ring logq cap s) := by
  refine event_sameUnits ?_
  grind [State.setCtx_sameUnits]

theorem execContextActivate_sameUnits (ctx attested) : s.KeepsUnits (execContextActivate ctx attested s) := by
  refine event_sameUnits ?_
  grind [State.setCtx_sameUnits]

theorem execContextSuspend_sameUnits (ctx) : s.KeepsUnits (execContextSuspend ctx s) := by
  refine event_sameUnits ?_
  dsimp only
  split
  · exact .refl s
  · exact (s.setCtx_sameUnits _ _).trans (.foldl State.suspendTask_sameUnits _ _)

theorem execContextResume_sameUnits (ctx) : s.KeepsUnits (execContextResume ctx s) := by
  refine event_sameUnits ?_
  grind [State.setCtx_sameUnits]

theorem execContextDestroy_sameUnits (ctx) : s.KeepsUnits (execContextDestroy ctx s) := by
  refine event_sameUnits ?_
  grind [State.endContext_sameUnits]

theorem execContextFree_sameUnits (ctx) : s.KeepsUnits (execContextFree ctx s) := by
  refine event_sameUnits ?_
  grind [State.setCtx_sameUnits]

theorem execFaultHandover_sameUnits (core slot) : s.KeepsUnits (execFaultHandover core slot s) := by
  refine event_sameUnits ?_
  grind [State.setThread_sameUnits]

theorem execFaultResolution_sameUnits (core slot choice) : s.KeepsUnits (execFaultResolution core slot choice s) := by
  refine event_sameUnits ?_
  grind [State.queueMsg_sameUnits, State.resolve_sameUnits]

theorem execFaultRingSpace_sameUnits (ctx) : s.KeepsUnits (execFaultRingSpace ctx s) := by
  refine event_sameUnits ?_
  grind [State.flushRing_sameUnits]

theorem execMissEscalate_sameUnits (core slot) : s.KeepsUnits (execMissEscalate core slot s) := by
  have hthreads (l : List Nat) := State.SameUnits.foldl (fun (s : State) tid => s.giveUpThread_sameUnits tid slot) l s
  have hsenders (l : List Nat) := State.SameUnits.foldl State.giveUpExchange_sameUnits l s
  refine event_sameUnits ?_
  grind [State.giveUpCopy_sameUnits, State.giveUpPhase_sameUnits, State.giveUpDcmp_sameUnits]

theorem execSlotEdge_sameUnits (u err) : s.KeepsUnits (execSlotEdge u err s) := by
  refine event_sameUnits ?_
  grind [State.slotEdge_sameUnits]

theorem execSlotEdgeTimeout_sameUnits (u) : s.KeepsUnits (execSlotEdgeTimeout u s) := by
  refine event_sameUnits ?_
  grind [State.toUnsync_sameUnits, State.setTime_sameUnits, State.selectUp_sameUnits]

theorem execAtsInvalidationRequest_sameUnits (va len) : s.KeepsUnits (execAtsInvalidationRequest va len s) := event_sameUnits ⟨rfl, rfl⟩

theorem execAtsInvalidationCompletion_sameUnits (idx) : s.KeepsUnits (execAtsInvalidationCompletion idx s) := by
  refine event_sameUnits ?_
  grind [State.send_sameUnits]

theorem execDcdReleaseNotice_sameUnits (va len) : s.KeepsUnits (execDcdReleaseNotice va len s) := event_sameUnits ⟨rfl, rfl⟩
theorem execDcdForcedRelease_sameUnits (va len) : s.KeepsUnits (execDcdForcedRelease va len s) := event_sameUnits ⟨rfl, rfl⟩

theorem execFlitReceive_sameUnits (port lane bytes wrong) : s.KeepsUnits (execFlitReceive port lane bytes wrong s) := by
  refine event_sameUnits ?_
  grind [State.onFlit_sameUnits]

theorem execNakTimer_sameUnits (port lane) : s.KeepsUnits (execNakTimer port lane s) := by
  refine event_sameUnits ?_
  grind [State.setPort_sameUnits]

theorem execAckTimer_sameUnits (port lane) : s.KeepsUnits (execAckTimer port lane s) := by
  refine event_sameUnits ?_
  grind [State.sendIdle_sameUnits]

theorem execIdleFlitTimer_sameUnits (port) : s.KeepsUnits (execIdleFlitTimer port s) := by
  have hidle (l : List Nat) := State.SameUnits.foldl (fun (s : State) i => s.sendIdle_sameUnits port i) l s
  refine event_sameUnits ?_
  grind [State.sendTrain_sameUnits]

theorem execPortEnable_sameUnits (port) : s.KeepsUnits (execPortEnable port s) := by
  refine event_sameUnits ?_
  grind [State.toPort_sameUnits, State.setPort_sameUnits]

theorem execPortLock_sameUnits (port first rest) : s.KeepsUnits (execPortLock port first rest s) := by
  refine event_sameUnits ?_
  grind [State.toPort_sameUnits, State.setPort_sameUnits]

theorem execPortLockExchangeDone_sameUnits (port peer told) : s.KeepsUnits (execPortLockExchangeDone port peer told s) := by
  refine event_sameUnits ?_
  grind [State.send_sameUnits, State.toPort_sameUnits, State.setPort_sameUnits, State.resendCrossed_sameUnits]

theorem execPortLockTimeout_sameUnits (port) : s.KeepsUnits (execPortLockTimeout port s) := by
  refine event_sameUnits ?_
  grind [State.toPort_sameUnits]

theorem execPortLightLoss_sameUnits (port) : s.KeepsUnits (execPortLightLoss port s) := by
  refine event_sameUnits ?_
  grind [State.relock_sameUnits]

theorem execPortFence_sameUnits (port) : s.KeepsUnits (execPortFence port s) := by
  refine event_sameUnits ?_
  grind [State.toPort_sameUnits]

theorem execPortDisable_sameUnits (port) : s.KeepsUnits (execPortDisable port s) := by
  refine event_sameUnits ?_
  grind [State.toPort_sameUnits, State.setPort_sameUnits]

theorem execPortRestore_sameUnits (port) : s.KeepsUnits (execPortRestore port s) := by
  refine event_sameUnits ?_
  grind [State.toPort_sameUnits, State.setPort_sameUnits]

theorem execWavelengthErrorDrop_sameUnits (port lane wave codeword) : s.KeepsUnits (execWavelengthErrorDrop port lane wave codeword s) := by
  refine event_sameUnits ?_
  grind [State.dropWave_sameUnits]

theorem execWavelengthSwitchover_sameUnits (port lane) : s.KeepsUnits (execWavelengthSwitchover port lane s) := by
  refine event_sameUnits ?_
  grind [State.switchWave_sameUnits]

theorem execPacketForward_sameUnits (idx) : s.KeepsUnits (execPacketForward idx s) := by
  refine event_sameUnits ?_
  dsimp only
  repeat' split
  case h_2.isTrue => 
    cases h : (s.unqueue idx).receive _ with
    | none => exact .refl s
    | some t => exact (s.unqueue_sameUnits idx).trans (State.receive_sameUnits _ _ t h)
  all_goals grind [State.unqueue_sameUnits, State.setPort_sameUnits, State.noteCrossing_sameUnits]

theorem execRoutingTableInstall_sameUnits (t fabric) : s.KeepsUnits (execRoutingTableInstall t fabric s) := by
  refine event_sameUnits ?_
  dsimp only
  split
  · exact s.send_sameUnits _ _ _
  · exact ((s.setTable_sameUnits t).trans (.foldl (fun s r => s.loseRemote_sameUnits _ _) _ _)).trans (State.breakUnreach_sameUnits _)

theorem execRemoteRequestReceive_sameUnits (p) : s.KeepsUnits (execRemoteRequestReceive p s) := by
  refine event_sameUnits ?_
  grind [State.takeRequest_sameUnits]

theorem execRemoteResponseReceive_sameUnits (p) : s.KeepsUnits (execRemoteResponseReceive p s) := by
  refine event_sameUnits ?_
  grind [State.onResponse_sameUnits]

theorem execRemoteRetryTimeout_sameUnits (target opseq) : s.KeepsUnits (execRemoteRetryTimeout target opseq s) := by
  refine event_sameUnits ?_
  grind [State.sendPacket_sameUnits]

theorem execRemoteAbandonTimeout_sameUnits (target opseq) : s.KeepsUnits (execRemoteAbandonTimeout target opseq s) := by
  refine event_sameUnits ?_
  grind [State.loseRemote_sameUnits]

theorem execTargetRecordExpiry_sameUnits (src opseq) : s.KeepsUnits (execTargetRecordExpiry src opseq s) := event_sameUnits ⟨rfl, rfl⟩

theorem execChangeRequest_sameUnits (ch fabric) : s.KeepsUnits (execChangeRequest ch fabric s) := by
  refine event_sameUnits ?_
  dsimp only
  split
  · exact s.send_sameUnits _ _ _
  · refine .trans (.trans (.trans ?_ (.foldl (fun s e => ?_) _ _)) (State.holdQueued_sameUnits _)) (State.readyAtOnce_sameUnits _ _)
    · exact s.setTable_sameUnits _
    · split
      · exact (s.setPort_sameUnits _ _).trans (State.toPort_sameUnits _ _ _)
      · exact s.setPort_sameUnits _ _

theorem execPortDrainComplete_sameUnits (port) : s.KeepsUnits (execPortDrainComplete port s) := by
  refine event_sameUnits ?_
  grind [State.setPort_sameUnits, State.send_sameUnits, State.toPort_sameUnits]

theorem execCircuitsReady_sameUnits : s.KeepsUnits (execCircuitsReady s) := by
  refine event_sameUnits ?_
  dsimp only
  split
  · exact .refl s
  · refine .foldl (fun s e => ?_) _ _
    grind [State.setPort_sameUnits, State.toPort_sameUnits]

theorem execChangeFinalInstall_sameUnits : s.KeepsUnits (execChangeFinalInstall s) := by
  refine event_sameUnits ?_
  dsimp only
  repeat' split
  · exact .refl s
  · exact .refl s
  · refine .trans (.trans (.trans ?_ (.foldl (fun s e => s.setPort_sameUnits _ _) _ _)) (.foldl (fun s r => s.releaseHeld_sameUnits _) _ _))
      (State.breakUnreach_sameUnits _)
    exact s.setTable_sameUnits _

theorem execIrSessionWrite_sameUnits (n e) : s.KeepsUnits (execIrSessionWrite n e s) := by
  refine event_sameUnits ?_
  grind

theorem execIrSlotTransfer_sameUnits (n slot light noise low) : s.KeepsUnits (execIrSlotTransfer n slot light noise low s) := by
  refine event_sameUnits ?_
  dsimp only
  split
  · exact .refl s
  · exact .foldl (fun s o => s.irEnd_sameUnits _ _ _ _) _ _

theorem execMgmtReadRequest_sameUnits (port src line) : s.KeepsUnits (execMgmtReadRequest port src line s) := by
  refine event_sameUnits ?_
  grind [State.setPort_sameUnits]

theorem execCxlMemRead_sameUnits (pa len) : s.KeepsUnits (execCxlMemRead pa len s) := by
  refine event_sameUnits ?_
  grind [State.hostRead_sameUnits]

theorem execCxlMemWrite_sameUnits (pa data poison) : s.KeepsUnits (execCxlMemWrite pa data poison s) := by
  refine event_sameUnits ?_
  grind [State.hostStore_sameUnits]

theorem execHostLinkFatalError_sameUnits : s.KeepsUnits (execHostLinkFatalError s) := by
  refine event_sameUnits ?_
  grind [State.contain_sameUnits]

theorem execCxlReset_sameUnits : s.KeepsUnits (execCxlReset s) := by
  refine event_sameUnits (.trans ?_ (.foldl (fun s c => ?_) _ _))
  · exact .refl s
  · grind [State.setCtx_sameUnits, State.endContext_sameUnits]

theorem execUncorrectableMemoryError_sameUnits (err) : s.KeepsUnits (execUncorrectableMemoryError err s) := by
  refine event_sameUnits ?_
  dsimp only
  repeat' split
  case isTrue => exact State.rowError_sameUnits _ _ _
  all_goals exact .refl s

theorem execRegisterParityError_sameUnits (core slot what) : s.KeepsUnits (execRegisterParityError core slot what s) := by
  refine event_sameUnits ?_
  grind [State.stateError_sameUnits]

theorem execCorrectedError_sameUnits (core) : s.KeepsUnits (execCorrectedError core s) := event_sameUnits ⟨rfl, rfl⟩

theorem execUnitWithdraw_sameUnits (kind idx) : s.KeepsUnits (execUnitWithdraw kind idx s) := by
  refine event_sameUnits ?_
  grind [State.withdrawCluster_sameUnits, State.omuLoss_sameUnits, State.withdraw_sameUnits]

theorem execStackThermalSample_sameUnits (k temp) : s.KeepsUnits (execStackThermalSample k temp s) := by
  refine event_sameUnits ?_
  grind [State.setStack_sameUnits, State.loseStack_sameUnits, State.thermalTo_sameUnits, State.runHeld_sameUnits]

theorem execSelfHoldNotice_sameUnits (k) : s.KeepsUnits (execSelfHoldNotice k s) := by
  refine event_sameUnits ?_
  dsimp only
  split
  · exact .refl s
  · exact (s.setStack_sameUnits _ _).trans (.foldl (fun s c => s.ringPut_sameUnits _ _) _ _)

theorem execStackLost_sameUnits (k) : s.KeepsUnits (execStackLost k s) := by
  refine event_sameUnits ?_
  grind [State.loseStack_sameUnits]

theorem execStackScrub_sameUnits (k) : s.KeepsUnits (execStackScrub k s) := by
  refine event_sameUnits ?_
  grind [State.stackReport_sameUnits, State.setStack_sameUnits]

theorem execRowRepair_sameUnits (k row) : s.KeepsUnits (execRowRepair k row s) := by
  refine event_sameUnits ?_
  grind [State.reportSpares_sameUnits, State.stackReport_sameUnits, State.setStack_sameUnits]

theorem execStackMailboxMessage_sameUnits (k m) : s.KeepsUnits (execStackMailboxMessage k m s) := by
  refine event_sameUnits ?_
  grind [State.setStack_sameUnits]

theorem execImageStage_sameUnits (img) : s.KeepsUnits (execImageStage img s) := by
  refine event_sameUnits ?_
  grind [State.send_sameUnits, State.setFw_sameUnits]

theorem execImageVerify_sameUnits (kind) : s.KeepsUnits (execImageVerify kind s) := by
  refine event_sameUnits ?_
  grind [State.send_sameUnits, State.setFw_sameUnits]

theorem execHandoverRequest_sameUnits (kind) : s.KeepsUnits (execHandoverRequest kind s) := by
  refine event_sameUnits ?_
  grind [State.setFw_sameUnits, State.beginInst_sameUnits]

theorem execImageCatchUp_sameUnits (kind inst) : s.KeepsUnits (execImageCatchUp kind inst s) := by
  refine event_sameUnits ?_
  grind [State.setFw_sameUnits]

theorem execSwitchOver_sameUnits (kind inst) : s.KeepsUnits (execSwitchOver kind inst s) := by
  refine event_sameUnits ?_
  grind [State.beginInst_sameUnits, State.setFw_sameUnits, State.measure_sameUnits]

theorem execCatchUpTimeout_sameUnits (kind inst) : s.KeepsUnits (execCatchUpTimeout kind inst s) := by
  refine event_sameUnits ?_
  grind [State.fwFail_sameUnits]

theorem execHeartbeat_sameUnits (kind inst) : s.KeepsUnits (execHeartbeat kind inst s) := by
  refine event_sameUnits ?_
  grind [State.setFw_sameUnits, State.beginInst_sameUnits]

theorem execHeartbeatMissed_sameUnits (kind inst) : s.KeepsUnits (execHeartbeatMissed kind inst s) := by
  refine event_sameUnits ?_
  grind [State.fallBack_sameUnits]

theorem execProbationCommit_sameUnits (kind) : s.KeepsUnits (execProbationCommit kind s) := by
  refine event_sameUnits ?_
  dsimp only
  split
  · exact (s.setFw_sameUnits _ _).trans (.foldl State.writeSnapshot_sameUnits _ _)
  · exact .refl s

theorem execPscImageBootTimeout_sameUnits : s.KeepsUnits (execPscImageBootTimeout s) := by
  refine event_sameUnits ?_
  grind [State.setFw_sameUnits, State.measureBoot_sameUnits, State.bootKind_sameUnits]

theorem execSvnMinimumRaise_sameUnits (kind min) : s.KeepsUnits (execSvnMinimumRaise kind min s) := by
  refine event_sameUnits ?_
  grind [State.setFw_sameUnits]

theorem execQuoteRequest_sameUnits (ctx nonce tag) : s.KeepsUnits (execQuoteRequest ctx nonce tag s) := by
  refine event_sameUnits ?_
  grind [State.send_sameUnits]

theorem execDebugStopRequest_sameUnits (core auth) : s.KeepsUnits (execDebugStopRequest core auth s) := by
  refine event_sameUnits ?_
  grind [State.stopCore_sameUnits, State.setCore_sameUnits]

theorem execDebugResumeRequest_sameUnits (core auth) : s.KeepsUnits (execDebugResumeRequest core auth s) := by
  refine event_sameUnits ?_
  dsimp only
  split
  · exact .refl s
  · refine .trans ?_ (.foldl (fun s m => s.takeMsg_sameUnits core m) _ _)
    split
    · exact (s.setCore_sameUnits _ _).trans (.foldl (fun s i => s.releaseThread_sameUnits _ i) _ _)
    · exact s.setCore_sameUnits _ _

theorem execMonitorSample_sameUnits (core mon v) : s.KeepsUnits (execMonitorSample core mon v s) := by
  refine event_sameUnits ?_
  grind [State.setCore_sameUnits]

theorem execMoncfgWrite_sameUnits (core n val) : s.KeepsUnits (execMoncfgWrite core n val s) := by
  refine event_sameUnits ?_
  grind [State.writeMoncfg_sameUnits]

theorem execPmctlWrite_sameUnits (core slot val) : s.KeepsUnits (execPmctlWrite core slot val s) := by
  refine event_sameUnits ?_
  grind [State.armBreak_sameUnits, State.csrWriteBy_sameUnits]

theorem execTrbaseWrite_sameUnits (core slot val) : s.KeepsUnits (execTrbaseWrite core slot val s) := by
  refine event_sameUnits ?_
  grind [State.csrWriteBy_sameUnits]

theorem execCsrWrite_sameUnits (core slot num val) : s.KeepsUnits (execCsrWrite core slot num val s) := by
  refine event_sameUnits ?_
  grind [State.csrWriteBy_sameUnits]

theorem execFirmwareLeafStore_sameUnits (ctx pa val cls peer) : s.KeepsUnits (execFirmwareLeafStore ctx pa val cls peer s) := by
  refine event_sameUnits ?_
  grind [State.dropReplicas_sameUnits]

theorem execFrameReuseWaitElapsed_sameUnits (idx) : s.KeepsUnits (execFrameReuseWaitElapsed idx s) := by
  refine event_sameUnits ?_
  grind

theorem execNewImageTrap_sameUnits (kind inst) : s.KeepsUnits (execNewImageTrap kind inst s) := by
  refine event_sameUnits ?_
  grind [State.rollBack_sameUnits, State.fallBack_sameUnits, State.setFw_sameUnits]

theorem execTenantAuthenticatedRequest_sameUnits (ctx imbal trace tag) : s.KeepsUnits (execTenantAuthenticatedRequest ctx imbal trace tag s) := by
  refine event_sameUnits ?_
  grind [State.setCtx_sameUnits]

/-! ## The dispatch -/

theorem exec_sameUnits (i : Instr) (hg : ¬∃ b, i = .powerGood b) (hp : ¬∃ n, i = .powerSample n) : s.KeepsUnits (exec i s) := by
  cases i with
  | powerGood b => exact absurd ⟨b, rfl⟩ hg
  | powerSample n => exact absurd ⟨n, rfl⟩ hp
  | nop => exact execNop_sameUnits s ..
  | fence => exact execFence_sameUnits s ..
  | trap => exact execTrap_sameUnits s ..
  | bkpt => exact execBkpt_sameUnits s ..
  | tret => exact execTret_sameUnits s ..
  | pmret => exact execPmret_sameUnits s ..
  | iflush => exact execIflush_sameUnits s ..
  | yield => exact execYield_sameUnits s ..
  | ill n => exact execIll_sameUnits s n
  | add => exact execAdd_sameUnits s ..
  | sub => exact execSub_sameUnits s ..
  | and => exact execAnd_sameUnits s ..
  | or => exact execOr_sameUnits s ..
  | xor => exact execXor_sameUnits s ..
  | andn => exact execAndn_sameUnits s ..
  | orn => exact execOrn_sameUnits s ..
  | xnor => exact execXnor_sameUnits s ..
  | shl => exact execShl_sameUnits s ..
  | shr => exact execShr_sameUnits s ..
  | sra => exact execSra_sameUnits s ..
  | rol => exact execRol_sameUnits s ..
  | ror => exact execRor_sameUnits s ..
  | slt => exact execSlt_sameUnits s ..
  | sltu => exact execSltu_sameUnits s ..
  | seq => exact execSeq_sameUnits s ..
  | sne => exact execSne_sameUnits s ..
  | min => exact execMin_sameUnits s ..
  | max => exact execMax_sameUnits s ..
  | minu => exact execMinu_sameUnits s ..
  | maxu => exact execMaxu_sameUnits s ..
  | addw => exact execAddw_sameUnits s ..
  | subw => exact execSubw_sameUnits s ..
  | shlw => exact execShlw_sameUnits s ..
  | shrw => exact execShrw_sameUnits s ..
  | sraw => exact execSraw_sameUnits s ..
  | addi => exact execAddi_sameUnits s ..
  | andi => exact execAndi_sameUnits s ..
  | ori => exact execOri_sameUnits s ..
  | xori => exact execXori_sameUnits s ..
  | shli => exact execShli_sameUnits s ..
  | shri => exact execShri_sameUnits s ..
  | srai => exact execSrai_sameUnits s ..
  | roli => exact execRoli_sameUnits s ..
  | rori => exact execRori_sameUnits s ..
  | slti => exact execSlti_sameUnits s ..
  | sltui => exact execSltui_sameUnits s ..
  | seqi => exact execSeqi_sameUnits s ..
  | snei => exact execSnei_sameUnits s ..
  | ldb => exact execLdb_sameUnits s ..
  | ldh => exact execLdh_sameUnits s ..
  | ldw => exact execLdw_sameUnits s ..
  | ldd => exact execLdd_sameUnits s ..
  | ldbz => exact execLdbz_sameUnits s ..
  | ldhz => exact execLdhz_sameUnits s ..
  | ldwz => exact execLdwz_sameUnits s ..
  | stb => exact execStb_sameUnits s ..
  | sth => exact execSth_sameUnits s ..
  | stw => exact execStw_sameUnits s ..
  | std => exact execStd_sameUnits s ..
  | beq => exact execBeq_sameUnits s ..
  | bne => exact execBne_sameUnits s ..
  | blt => exact execBlt_sameUnits s ..
  | bge => exact execBge_sameUnits s ..
  | bltu => exact execBltu_sameUnits s ..
  | bgeu => exact execBgeu_sameUnits s ..
  | bbs => exact execBbs_sameUnits s ..
  | bbc => exact execBbc_sameUnits s ..
  | beqLong => exact execBeqLong_sameUnits s ..
  | bneLong => exact execBneLong_sameUnits s ..
  | bltLong => exact execBltLong_sameUnits s ..
  | bgeLong => exact execBgeLong_sameUnits s ..
  | bltuLong => exact execBltuLong_sameUnits s ..
  | bgeuLong => exact execBgeuLong_sameUnits s ..
  | bbsLong => exact execBbsLong_sameUnits s ..
  | bbcLong => exact execBbcLong_sameUnits s ..
  | j => exact execJ_sameUnits s ..
  | jal => exact execJal_sameUnits s ..
  | jLong => exact execJLong_sameUnits s ..
  | jalLong => exact execJalLong_sameUnits s ..
  | jr => exact execJr_sameUnits s ..
  | jalr => exact execJalr_sameUnits s ..
  | jtab => exact execJtab_sameUnits s ..
  | mul => exact execMul_sameUnits s ..
  | mulh => exact execMulh_sameUnits s ..
  | mulhu => exact execMulhu_sameUnits s ..
  | mulhsu => exact execMulhsu_sameUnits s ..
  | mulw => exact execMulw_sameUnits s ..
  | div => exact execDiv_sameUnits s ..
  | divu => exact execDivu_sameUnits s ..
  | rem => exact execRem_sameUnits s ..
  | remu => exact execRemu_sameUnits s ..
  | divw => exact execDivw_sameUnits s ..
  | remw => exact execRemw_sameUnits s ..
  | clz => exact execClz_sameUnits s ..
  | ctz => exact execCtz_sameUnits s ..
  | popc => exact execPopc_sameUnits s ..
  | brev => exact execBrev_sameUnits s ..
  | bswap => exact execBswap_sameUnits s ..
  | fnsb => exact execFnsb_sameUnits s ..
  | clzw => exact execClzw_sameUnits s ..
  | ctzw => exact execCtzw_sameUnits s ..
  | popcw => exact execPopcw_sameUnits s ..
  | bfx => exact execBfx_sameUnits s ..
  | bfxu => exact execBfxu_sameUnits s ..
  | bfi => exact execBfi_sameUnits s ..
  | bfmsk => exact execBfmsk_sameUnits s ..
  | bfxi => exact execBfxi_sameUnits s ..
  | bfxui => exact execBfxui_sameUnits s ..
  | bfii => exact execBfii_sameUnits s ..
  | fadd => exact execFadd_sameUnits s ..
  | fsub => exact execFsub_sameUnits s ..
  | fmul => exact execFmul_sameUnits s ..
  | fdiv => exact execFdiv_sameUnits s ..
  | fsqrt => exact execFsqrt_sameUnits s ..
  | fmin => exact execFmin_sameUnits s ..
  | fmax => exact execFmax_sameUnits s ..
  | fminn => exact execFminn_sameUnits s ..
  | fmaxn => exact execFmaxn_sameUnits s ..
  | fsgnj => exact execFsgnj_sameUnits s ..
  | fsgnjn => exact execFsgnjn_sameUnits s ..
  | fsgnjx => exact execFsgnjx_sameUnits s ..
  | feq => exact execFeq_sameUnits s ..
  | flt => exact execFlt_sameUnits s ..
  | fle => exact execFle_sameUnits s ..
  | fclass => exact execFclass_sameUnits s ..
  | fcvt => exact execFcvt_sameUnits s ..
  | fcvti => exact execFcvti_sameUnits s ..
  | fcvtu => exact execFcvtu_sameUnits s ..
  | icvtf => exact execIcvtf_sameUnits s ..
  | ucvtf => exact execUcvtf_sameUnits s ..
  | fma => exact execFma_sameUnits s ..
  | fms => exact execFms_sameUnits s ..
  | fnma => exact execFnma_sameUnits s ..
  | fnms => exact execFnms_sameUnits s ..
  | csrr => exact execCsrr_sameUnits s ..
  | csrw => exact execCsrw_sameUnits s ..
  | csrs => exact execCsrs_sameUnits s ..
  | csrc => exact execCsrc_sameUnits s ..
  | amoadd => exact execAmoadd_sameUnits s ..
  | amoand => exact execAmoand_sameUnits s ..
  | amoor => exact execAmoor_sameUnits s ..
  | amoxor => exact execAmoxor_sameUnits s ..
  | amomin => exact execAmomin_sameUnits s ..
  | amomax => exact execAmomax_sameUnits s ..
  | amominu => exact execAmominu_sameUnits s ..
  | amomaxu => exact execAmomaxu_sameUnits s ..
  | amoswp => exact execAmoswp_sameUnits s ..
  | amocas => exact execAmocas_sameUnits s ..
  | acq => exact execAcq_sameUnits s ..
  | rel => exact execRel_sameUnits s ..
  | tryacq => exact execTryacq_sameUnits s ..
  | bind => exact execBind_sameUnits s ..
  | unbind => exact execUnbind_sameUnits s ..
  | pref => exact execPref_sameUnits s ..
  | wbf => exact execWbf_sameUnits s ..
  | ldro => exact execLdro_sameUnits s ..
  | hstart => exact execHstart_sameUnits s ..
  | hjoin => exact execHjoin_sameUnits s ..
  | hexit => exact execHexit_sameUnits s ..
  | hpeek => exact execHpeek_sameUnits s ..
  | waittl => exact execWaittl_sameUnits s ..
  | kexit => exact execKexit_sameUnits s ..
  | rdv => exact execRdv_sameUnits s ..
  | rdvadd => exact execRdvadd_sameUnits s ..
  | rdvmax => exact execRdvmax_sameUnits s ..
  | rdvor => exact execRdvor_sameUnits s ..
  | li => exact execLi_sameUnits s ..
  | liz => exact execLiz_sameUnits s ..
  | lihi => exact execLihi_sameUnits s ..
  | addl => exact execAddl_sameUnits s ..
  | andl => exact execAndl_sameUnits s ..
  | orl => exact execOrl_sameUnits s ..
  | xorl => exact execXorl_sameUnits s ..
  | sltl => exact execSltl_sameUnits s ..
  | vadd => exact execVadd_sameUnits s ..
  | vsub => exact execVsub_sameUnits s ..
  | vmul => exact execVmul_sameUnits s ..
  | vmulh => exact execVmulh_sameUnits s ..
  | vmadd => exact execVmadd_sameUnits s ..
  | vabs => exact execVabs_sameUnits s ..
  | vneg => exact execVneg_sameUnits s ..
  | vmin => exact execVmin_sameUnits s ..
  | vmax => exact execVmax_sameUnits s ..
  | vadds => exact execVadds_sameUnits s ..
  | vsubs => exact execVsubs_sameUnits s ..
  | vavg => exact execVavg_sameUnits s ..
  | vshl => exact execVshl_sameUnits s ..
  | vshr => exact execVshr_sameUnits s ..
  | vsra => exact execVsra_sameUnits s ..
  | vdot4 => exact execVdot4_sameUnits s ..
  | vmov => exact execVmov_sameUnits s ..
  | vaddLit => exact execVaddLit_sameUnits s ..
  | vsubLit => exact execVsubLit_sameUnits s ..
  | vmulLit => exact execVmulLit_sameUnits s ..
  | vmulhLit => exact execVmulhLit_sameUnits s ..
  | vmaddLit => exact execVmaddLit_sameUnits s ..
  | vabsLit => exact execVabsLit_sameUnits s ..
  | vnegLit => exact execVnegLit_sameUnits s ..
  | vminLit => exact execVminLit_sameUnits s ..
  | vmaxLit => exact execVmaxLit_sameUnits s ..
  | vaddsLit => exact execVaddsLit_sameUnits s ..
  | vsubsLit => exact execVsubsLit_sameUnits s ..
  | vavgLit => exact execVavgLit_sameUnits s ..
  | vshlLit => exact execVshlLit_sameUnits s ..
  | vshrLit => exact execVshrLit_sameUnits s ..
  | vsraLit => exact execVsraLit_sameUnits s ..
  | vdot4Lit => exact execVdot4Lit_sameUnits s ..
  | vmovLit => exact execVmovLit_sameUnits s ..
  | vfadd => exact execVfadd_sameUnits s ..
  | vfsub => exact execVfsub_sameUnits s ..
  | vfmul => exact execVfmul_sameUnits s ..
  | vfdiv => exact execVfdiv_sameUnits s ..
  | vfsqrt => exact execVfsqrt_sameUnits s ..
  | vfma => exact execVfma_sameUnits s ..
  | vfms => exact execVfms_sameUnits s ..
  | vfnma => exact execVfnma_sameUnits s ..
  | vfmin => exact execVfmin_sameUnits s ..
  | vfmax => exact execVfmax_sameUnits s ..
  | vfabs => exact execVfabs_sameUnits s ..
  | vfneg => exact execVfneg_sameUnits s ..
  | vfaddLit => exact execVfaddLit_sameUnits s ..
  | vfsubLit => exact execVfsubLit_sameUnits s ..
  | vfmulLit => exact execVfmulLit_sameUnits s ..
  | vfdivLit => exact execVfdivLit_sameUnits s ..
  | vfsqrtLit => exact execVfsqrtLit_sameUnits s ..
  | vfmaLit => exact execVfmaLit_sameUnits s ..
  | vfmsLit => exact execVfmsLit_sameUnits s ..
  | vfnmaLit => exact execVfnmaLit_sameUnits s ..
  | vfminLit => exact execVfminLit_sameUnits s ..
  | vfmaxLit => exact execVfmaxLit_sameUnits s ..
  | vfabsLit => exact execVfabsLit_sameUnits s ..
  | vfnegLit => exact execVfnegLit_sameUnits s ..
  | vand => exact execVand_sameUnits s ..
  | vor => exact execVor_sameUnits s ..
  | vxor => exact execVxor_sameUnits s ..
  | vandn => exact execVandn_sameUnits s ..
  | vnot => exact execVnot_sameUnits s ..
  | vpopc => exact execVpopc_sameUnits s ..
  | vclz => exact execVclz_sameUnits s ..
  | vctz => exact execVctz_sameUnits s ..
  | vbrev => exact execVbrev_sameUnits s ..
  | vfnsb => exact execVfnsb_sameUnits s ..
  | vbfx => exact execVbfx_sameUnits s ..
  | vandLit => exact execVandLit_sameUnits s ..
  | vorLit => exact execVorLit_sameUnits s ..
  | vxorLit => exact execVxorLit_sameUnits s ..
  | vandnLit => exact execVandnLit_sameUnits s ..
  | vnotLit => exact execVnotLit_sameUnits s ..
  | vpopcLit => exact execVpopcLit_sameUnits s ..
  | vclzLit => exact execVclzLit_sameUnits s ..
  | vctzLit => exact execVctzLit_sameUnits s ..
  | vbrevLit => exact execVbrevLit_sameUnits s ..
  | vfnsbLit => exact execVfnsbLit_sameUnits s ..
  | vbfxLit => exact execVbfxLit_sameUnits s ..
  | vcmpeq => exact execVcmpeq_sameUnits s ..
  | vcmpne => exact execVcmpne_sameUnits s ..
  | vcmplt => exact execVcmplt_sameUnits s ..
  | vcmple => exact execVcmple_sameUnits s ..
  | vcmpltu => exact execVcmpltu_sameUnits s ..
  | vcmpleu => exact execVcmpleu_sameUnits s ..
  | vfcmpeq => exact execVfcmpeq_sameUnits s ..
  | vfcmplt => exact execVfcmplt_sameUnits s ..
  | vfcmple => exact execVfcmple_sameUnits s ..
  | vfcmpun => exact execVfcmpun_sameUnits s ..
  | vcmpeqLit => exact execVcmpeqLit_sameUnits s ..
  | vcmpneLit => exact execVcmpneLit_sameUnits s ..
  | vcmpltLit => exact execVcmpltLit_sameUnits s ..
  | vcmpleLit => exact execVcmpleLit_sameUnits s ..
  | vcmpltuLit => exact execVcmpltuLit_sameUnits s ..
  | vcmpleuLit => exact execVcmpleuLit_sameUnits s ..
  | vfcmpeqLit => exact execVfcmpeqLit_sameUnits s ..
  | vfcmpltLit => exact execVfcmpltLit_sameUnits s ..
  | vfcmpleLit => exact execVfcmpleLit_sameUnits s ..
  | vfcmpunLit => exact execVfcmpunLit_sameUnits s ..
  | plen => exact execPlen_sameUnits s ..
  | plenu => exact execPlenu_sameUnits s ..
  | pand => exact execPand_sameUnits s ..
  | por => exact execPor_sameUnits s ..
  | pxor => exact execPxor_sameUnits s ..
  | pnot => exact execPnot_sameUnits s ..
  | pcnt => exact execPcnt_sameUnits s ..
  | pfirst => exact execPfirst_sameUnits s ..
  | pany => exact execPany_sameUnits s ..
  | pset => exact execPset_sameUnits s ..
  | vlanes => exact execVlanes_sameUnits s ..
  | vbcast => exact execVbcast_sameUnits s ..
  | vextr => exact execVextr_sameUnits s ..
  | vins => exact execVins_sameUnits s ..
  | vslideup => exact execVslideup_sameUnits s ..
  | vslidedn => exact execVslidedn_sameUnits s ..
  | vperm => exact execVperm_sameUnits s ..
  | vcompress => exact execVcompress_sameUnits s ..
  | vexpand => exact execVexpand_sameUnits s ..
  | vsel => exact execVsel_sameUnits s ..
  | viota => exact execViota_sameUnits s ..
  | vredadd => exact execVredadd_sameUnits s ..
  | vredmin => exact execVredmin_sameUnits s ..
  | vredmax => exact execVredmax_sameUnits s ..
  | vredminu => exact execVredminu_sameUnits s ..
  | vredmaxu => exact execVredmaxu_sameUnits s ..
  | vredand => exact execVredand_sameUnits s ..
  | vredor => exact execVredor_sameUnits s ..
  | vredxor => exact execVredxor_sameUnits s ..
  | vfredadd => exact execVfredadd_sameUnits s ..
  | vfredmin => exact execVfredmin_sameUnits s ..
  | vfredmax => exact execVfredmax_sameUnits s ..
  | vcvt => exact execVcvt_sameUnits s ..
  | vnarrow => exact execVnarrow_sameUnits s ..
  | vwiden => exact execVwiden_sameUnits s ..
  | vpackdx => exact execVpackdx_sameUnits s ..
  | vunpkdx => exact execVunpkdx_sameUnits s ..
  | vpackdx4 => exact execVpackdx4_sameUnits s ..
  | vunpkdx4 => exact execVunpkdx4_sameUnits s ..
  | vrcp => exact execVrcp_sameUnits s ..
  | vrsqrt => exact execVrsqrt_sameUnits s ..
  | vexp2 => exact execVexp2_sameUnits s ..
  | vlog2 => exact execVlog2_sameUnits s ..
  | vtanh => exact execVtanh_sameUnits s ..
  | vsigm => exact execVsigm_sameUnits s ..
  | vsinpi => exact execVsinpi_sameUnits s ..
  | vcospi => exact execVcospi_sameUnits s ..
  | vld => exact execVld_sameUnits s ..
  | vlds => exact execVlds_sameUnits s ..
  | vldx => exact execVldx_sameUnits s ..
  | vldb => exact execVldb_sameUnits s ..
  | vldff => exact execVldff_sameUnits s ..
  | vst => exact execVst_sameUnits s ..
  | vsts => exact execVsts_sameUnits s ..
  | vstx => exact execVstx_sameUnits s ..
  | vstc => exact execVstc_sameUnits s ..
  | vamoadd => exact execVamoadd_sameUnits s ..
  | vamoor => exact execVamoor_sameUnits s ..
  | vamoand => exact execVamoand_sameUnits s ..
  | vamomin => exact execVamomin_sameUnits s ..
  | vamomax => exact execVamomax_sameUnits s ..
  | tld => exact execTld_sameUnits s ..
  | tst => exact execTst_sameUnits s ..
  | tzero => exact execTzero_sameUnits s ..
  | tacc => exact execTacc_sameUnits s ..
  | mxp => exact execMxp_sameUnits s ..
  | mxps => exact execMxps_sameUnits s ..
  | mxprobe => exact execMxprobe_sameUnits s ..
  | phld => exact execPhld_sameUnits s ..
  | phtrim => exact execPhtrim_sameUnits s ..
  | phrd => exact execPhrd_sameUnits s ..
  | phinv => exact execPhinv_sameUnits s ..
  | dcmp => exact execDcmp_sameUnits s ..
  | cpy => exact execCpy_sameUnits s ..
  | cpy2 => exact execCpy2_sameUnits s ..
  | cpyset => exact execCpyset_sameUnits s ..
  | cpytile => exact execCpytile_sameUnits s ..
  | cpycmp => exact execCpycmp_sameUnits s ..
  | splook => exact execSplook_sameUnits s ..
  | spevict => exact execSpevict_sameUnits s ..
  | spdemote => exact execSpdemote_sameUnits s ..
  | sprel => exact execSprel_sameUnits s ..
  | spprio => exact execSpprio_sameUnits s ..
  | sync => exact execSync_sameUnits s ..
  | sarrive => exact execSarrive_sameUnits s ..
  | swait => exact execSwait_sameUnits s ..
  | syncv => exact execSyncv_sameUnits s ..
  | xsend => exact execXsend_sameUnits s ..
  | xopen => exact execXopen_sameUnits s ..
  | xput => exact execXput_sameUnits s ..
  | xend => exact execXend_sameUnits s ..
  | klaunch d a q detach => exact execKlaunch_sameUnits s d a q detach
  | kquery => exact execKquery_sameUnits s ..
  | ksignal => exact execKsignal_sameUnits s ..
  | lquery => exact execLquery_sameUnits s ..
  | lrenew => exact execLrenew_sameUnits s ..
  | pgcnt => exact execPgcnt_sameUnits s ..
  | ldrain => exact execLdrain_sameUnits s ..
  | lstat => exact execLstat_sameUnits s ..
  | irsend => exact execIrsend_sameUnits s ..
  | irrecv => exact execIrrecv_sameUnits s ..
  | pmark => exact execPmark_sameUnits s ..
  | dstop => exact execDstop_sameUnits s ..
  | stackBringup => exact execStackBringup_sameUnits s ..
  | combLock => exact execCombLock_sameUnits s ..
  | switchPortTrain => exact execSwitchPortTrain_sameUnits s ..
  | mgcRelease => exact execMgcRelease_sameUnits s ..
  | setReady => exact execSetReady_sameUnits s ..
  | cxlLinkTrain => exact execCxlLinkTrain_sameUnits s ..
  | dieJunctionLimit => exact execDieJunctionLimit_sameUnits s ..
  | dieJunctionRecover => exact execDieJunctionRecover_sameUnits s ..
  | combLineBelowThreshold => exact execCombLineBelowThreshold_sameUnits s ..
  | combLineRecover => exact execCombLineRecover_sameUnits s ..
  | laserTelemetryUpdate => exact execLaserTelemetryUpdate_sameUnits s ..
  | issueGroupForm => exact execIssueGroupForm_sameUnits s ..
  | handlerInstructionLimit => exact execHandlerInstructionLimit_sameUnits s ..
  | deadlockDetect => exact execDeadlockDetect_sameUnits s ..
  | sfuEntryComplete => exact execSfuEntryComplete_sameUnits s ..
  | taskStart => exact execTaskStart_sameUnits s ..
  | taskRestore => exact execTaskRestore_sameUnits s ..
  | taskSave => exact execTaskSave_sameUnits s ..
  | spinTimeoutSwap => exact execSpinTimeoutSwap_sameUnits s ..
  | hexitComplete => exact execHexitComplete_sameUnits s ..
  | kexitComplete => exact execKexitComplete_sameUnits s ..
  | storePerform => exact execStorePerform_sameUnits s ..
  | accessReissue => exact execAccessReissue_sameUnits s ..
  | atomicAtHome => exact execAtomicAtHome_sameUnits s ..
  | pageWalk => exact execPageWalk_sameUnits s ..
  | leaseExpiry => exact execLeaseExpiry_sameUnits s ..
  | cmeArbitrationRound => exact execCmeArbitrationRound_sameUnits s ..
  | copyUnit => exact execCopyUnit_sameUnits s ..
  | copyLeaseRenewal => exact execCopyLeaseRenewal_sameUnits s ..
  | passArrival => exact execPassArrival_sameUnits s ..
  | passStreamStart => exact execPassStreamStart_sameUnits s ..
  | passDetected => exact execPassDetected_sameUnits s ..
  | omuProbe => exact execOmuProbe_sameUnits s ..
  | omuPhld => exact execOmuPhld_sameUnits s ..
  | omuPhtrim => exact execOmuPhtrim_sameUnits s ..
  | omuPhrd => exact execOmuPhrd_sameUnits s ..
  | omuPhinv => exact execOmuPhinv_sameUnits s ..
  | omuTzero => exact execOmuTzero_sameUnits s ..
  | omuTacc => exact execOmuTacc_sameUnits s ..
  | dcmpExecute => exact execDcmpExecute_sameUnits s ..
  | omuThermalLoop => exact execOmuThermalLoop_sameUnits s ..
  | tcfgWrite => exact execTcfgWrite_sameUnits s ..
  | phprobeWrite => exact execPhprobeWrite_sameUnits s ..
  | drlimitWrite => exact execDrlimitWrite_sameUnits s ..
  | gainWrite => exact execGainWrite_sameUnits s ..
  | exchangeEntryRun => exact execExchangeEntryRun_sameUnits s ..
  | groupEnterReleasing => exact execGroupEnterReleasing_sameUnits s ..
  | memberRelease => exact execMemberRelease_sameUnits s ..
  | levelConflictDetect => exact execLevelConflictDetect_sameUnits s ..
  | peerLoss => exact execPeerLoss_sameUnits s ..
  | doorbellWrite => exact execDoorbellWrite_sameUnits s ..
  | launchRecordTake => exact execLaunchRecordTake_sameUnits s ..
  | klaunchMgcAnswer => exact execKlaunchMgcAnswer_sameUnits s ..
  | kernelEligible => exact execKernelEligible_sameUnits s ..
  | kernelDependenceFault => exact execKernelDependenceFault_sameUnits s ..
  | bindEntryWrite => exact execBindEntryWrite_sameUnits s ..
  | kernelDrainComplete => exact execKernelDrainComplete_sameUnits s ..
  | replayCompare => exact execReplayCompare_sameUnits s ..
  | kernelKill => exact execKernelKill_sameUnits s ..
  | preemptPartition => exact execPreemptPartition_sameUnits s ..
  | priorityWaitTimeout => exact execPriorityWaitTimeout_sameUnits s ..
  | contextCreateRequest => exact execContextCreateRequest_sameUnits s ..
  | queueRegister => exact execQueueRegister_sameUnits s ..
  | contextActivate => exact execContextActivate_sameUnits s ..
  | contextSuspend => exact execContextSuspend_sameUnits s ..
  | contextResume => exact execContextResume_sameUnits s ..
  | contextDestroy => exact execContextDestroy_sameUnits s ..
  | contextFree => exact execContextFree_sameUnits s ..
  | faultHandover => exact execFaultHandover_sameUnits s ..
  | faultResolution => exact execFaultResolution_sameUnits s ..
  | faultRingSpace => exact execFaultRingSpace_sameUnits s ..
  | missEscalate => exact execMissEscalate_sameUnits s ..
  | slotEdge => exact execSlotEdge_sameUnits s ..
  | slotEdgeTimeout => exact execSlotEdgeTimeout_sameUnits s ..
  | atsInvalidationRequest => exact execAtsInvalidationRequest_sameUnits s ..
  | atsInvalidationCompletion => exact execAtsInvalidationCompletion_sameUnits s ..
  | dcdReleaseNotice => exact execDcdReleaseNotice_sameUnits s ..
  | dcdForcedRelease => exact execDcdForcedRelease_sameUnits s ..
  | flitReceive => exact execFlitReceive_sameUnits s ..
  | nakTimer => exact execNakTimer_sameUnits s ..
  | ackTimer => exact execAckTimer_sameUnits s ..
  | idleFlitTimer => exact execIdleFlitTimer_sameUnits s ..
  | portEnable => exact execPortEnable_sameUnits s ..
  | portLock => exact execPortLock_sameUnits s ..
  | portLockExchangeDone => exact execPortLockExchangeDone_sameUnits s ..
  | portLockTimeout => exact execPortLockTimeout_sameUnits s ..
  | portLightLoss => exact execPortLightLoss_sameUnits s ..
  | portFence => exact execPortFence_sameUnits s ..
  | portDisable => exact execPortDisable_sameUnits s ..
  | portRestore => exact execPortRestore_sameUnits s ..
  | wavelengthErrorDrop => exact execWavelengthErrorDrop_sameUnits s ..
  | wavelengthSwitchover => exact execWavelengthSwitchover_sameUnits s ..
  | packetForward => exact execPacketForward_sameUnits s ..
  | routingTableInstall => exact execRoutingTableInstall_sameUnits s ..
  | remoteRequestReceive => exact execRemoteRequestReceive_sameUnits s ..
  | remoteResponseReceive => exact execRemoteResponseReceive_sameUnits s ..
  | remoteRetryTimeout => exact execRemoteRetryTimeout_sameUnits s ..
  | remoteAbandonTimeout => exact execRemoteAbandonTimeout_sameUnits s ..
  | targetRecordExpiry => exact execTargetRecordExpiry_sameUnits s ..
  | changeRequest => exact execChangeRequest_sameUnits s ..
  | portDrainComplete => exact execPortDrainComplete_sameUnits s ..
  | circuitsReady => exact execCircuitsReady_sameUnits s ..
  | changeFinalInstall => exact execChangeFinalInstall_sameUnits s ..
  | irSessionWrite => exact execIrSessionWrite_sameUnits s ..
  | irSlotTransfer => exact execIrSlotTransfer_sameUnits s ..
  | mgmtReadRequest => exact execMgmtReadRequest_sameUnits s ..
  | cxlMemRead => exact execCxlMemRead_sameUnits s ..
  | cxlMemWrite => exact execCxlMemWrite_sameUnits s ..
  | hostLinkFatalError => exact execHostLinkFatalError_sameUnits s ..
  | cxlReset => exact execCxlReset_sameUnits s ..
  | uncorrectableMemoryError => exact execUncorrectableMemoryError_sameUnits s ..
  | registerParityError => exact execRegisterParityError_sameUnits s ..
  | correctedError => exact execCorrectedError_sameUnits s ..
  | unitWithdraw => exact execUnitWithdraw_sameUnits s ..
  | stackThermalSample => exact execStackThermalSample_sameUnits s ..
  | selfHoldNotice => exact execSelfHoldNotice_sameUnits s ..
  | stackLost => exact execStackLost_sameUnits s ..
  | stackScrub => exact execStackScrub_sameUnits s ..
  | rowRepair => exact execRowRepair_sameUnits s ..
  | stackMailboxMessage => exact execStackMailboxMessage_sameUnits s ..
  | imageStage => exact execImageStage_sameUnits s ..
  | imageVerify => exact execImageVerify_sameUnits s ..
  | handoverRequest => exact execHandoverRequest_sameUnits s ..
  | imageCatchUp => exact execImageCatchUp_sameUnits s ..
  | switchOver => exact execSwitchOver_sameUnits s ..
  | catchUpTimeout => exact execCatchUpTimeout_sameUnits s ..
  | heartbeat => exact execHeartbeat_sameUnits s ..
  | heartbeatMissed => exact execHeartbeatMissed_sameUnits s ..
  | probationCommit => exact execProbationCommit_sameUnits s ..
  | pscImageBootTimeout => exact execPscImageBootTimeout_sameUnits s ..
  | svnMinimumRaise => exact execSvnMinimumRaise_sameUnits s ..
  | quoteRequest => exact execQuoteRequest_sameUnits s ..
  | debugStopRequest => exact execDebugStopRequest_sameUnits s ..
  | debugResumeRequest => exact execDebugResumeRequest_sameUnits s ..
  | monitorSample => exact execMonitorSample_sameUnits s ..
  | moncfgWrite => exact execMoncfgWrite_sameUnits s ..
  | pmctlWrite => exact execPmctlWrite_sameUnits s ..
  | trbaseWrite => exact execTrbaseWrite_sameUnits s ..
  | csrWrite => exact execCsrWrite_sameUnits s ..
  | firmwareLeafStore => exact execFirmwareLeafStore_sameUnits s ..
  | frameReuseWaitElapsed => exact execFrameReuseWaitElapsed_sameUnits s ..
  | newImageTrap => exact execNewImageTrap_sameUnits s ..
  | tenantAuthenticatedRequest => exact execTenantAuthenticatedRequest_sameUnits s ..

/-! ## Power good and the power sample, which alone touch the clock (R32, R42) -/

theorem execPowerGood_units (pscOk) : ∀ t, execPowerGood pscOk s = .next t → t.enmap = s.enmap ∧ t.clock = 2000 := by
  intro t ht
  cases ht
  have hup {t : State} (h : s.powerUp.SameUnits t) : t.enmap = s.enmap ∧ t.clock = 2000 := ⟨h.1, h.2⟩
  refine hup ?_
  dsimp only
  split
  · refine .trans ?_ (.foldl (fun s k => s.measure_sameUnits k 3) _ _)
    grind [State.measureBoot_sameUnits, State.setFw_sameUnits, State.bootKind_sameUnits]
  · grind [State.measureBoot_sameUnits, State.setFw_sameUnits, State.bootKind_sameUnits]

theorem execPowerSample_units (avg) : ∀ t, execPowerSample avg s = .next t →
    t.enmap = s.enmap ∧ (t.clock = s.clock ∨ t.clock = clockUp s.clock ∨ t.clock = clockDown s.clock) := by
  intro t ht
  cases ht
  grind

theorem clockUp_range {c : Nat} (h : 1200 ≤ c) : 1200 ≤ clockUp c ∧ clockUp c ≤ 2000 := by
  simp only [clockUp, Config.clockTop]
  omega

theorem clockDown_range {c : Nat} (h : c ≤ 2000) : 1200 ≤ clockDown c ∧ clockDown c ≤ 2000 := by
  simp only [clockDown, Config.clockLow]
  omega

/-! ## Every move and every step -/

variable {s} {m : BitVec 256}

theorem fusesAndClock_of_same {t : State} (h : Stated.FusesAndClock m s) (hst : s.SameUnits t) : Stated.FusesAndClock m t := by
  obtain ⟨he, hlo, hhi⟩ := h
  exact ⟨hst.1.trans he, hst.2 ▸ hlo, hst.2 ▸ hhi⟩

/-- An answer that, where it is a next state, has the fuses m and a clock in its range. -/
structure KeepsRange (m : BitVec 256) (o : Host.Outcome State Fault Refusal) : Prop where
  keeps : ∀ t, o = .next t → Stated.FusesAndClock m t

theorem keepsRange_next {t : State} (h : Stated.FusesAndClock m t) : KeepsRange m (.next t) :=
  ⟨fun _ e => by cases e; exact h⟩

theorem exec_keepsRange (h : Stated.FusesAndClock m s) (i : Instr) : KeepsRange m (exec i s) := by
  refine ⟨fun t ht => ?_⟩
  by_cases hg : ∃ b, i = .powerGood b
  · obtain ⟨b, rfl⟩ := hg
    obtain ⟨he, hc⟩ := execPowerGood_units s b t ht
    exact ⟨he.trans h.1, by omega, by omega⟩
  by_cases hp : ∃ n, i = .powerSample n
  · obtain ⟨n, rfl⟩ := hp
    obtain ⟨hm, hlo, hhi⟩ := h
    obtain ⟨he, hc⟩ := execPowerSample_units s n t ht
    refine ⟨he.trans hm, ?_⟩
    obtain hc | hc | hc := hc <;> rw [hc]
    · exact ⟨hlo, hhi⟩
    · exact clockUp_range hlo
    · exact clockDown_range hhi
  · exact fusesAndClock_of_same h ((exec_sameUnits s i hg hp).same t ht)

theorem runWords_keepsRange (h : Stated.FusesAndClock m s) : KeepsRange m (runWords s) := by
  unfold runWords
  dsimp only
  split
  · exact exec_keepsRange h _
  · exact keepsRange_next (fusesAndClock_of_same h (s.takeFault_sameUnits _ _ _ _ _ _ _))

theorem issueThread_keepsRange (h : Stated.FusesAndClock m s) (tid slot : Nat) : KeepsRange m (issueThread tid slot s) := by
  have hfetch := fusesAndClock_of_same h (State.fetch_sameUnits { s with cur := (tid, slot), curW := (0, 0, 0) } tid slot)
  unfold issueThread
  dsimp only
  split
  · exact keepsRange_next h
  · split
    · next hf => rw [hf] at hfetch; exact runWords_keepsRange hfetch
    · next hf => rw [hf] at hfetch; exact keepsRange_next (fusesAndClock_of_same hfetch (State.takeFault_sameUnits _ _ _ _ _ _ _ _))
    · next hf =>
      rw [hf] at hfetch
      exact keepsRange_next (fusesAndClock_of_same hfetch
        (.trans (.trans (State.setThr_sameUnits _ _) (State.holdWait_sameUnits _ _ _)) (State.holdIfStopping_sameUnits _ _ _)))

theorem retry_keepsRange (h : Stated.FusesAndClock m s) (tid slot : Nat) : KeepsRange m (retry tid slot s) := by
  unfold retry
  dsimp only
  split
  · exact keepsRange_next h
  · split
    · refine keepsRange_next ?_
      split
      · exact fusesAndClock_of_same h (s.passShadow_sameUnits tid)
      · exact h
    · exact runWords_keepsRange (s := { s with cur := _, curW := _ }) h
    · split
      · exact keepsRange_next h
      · exact issueThread_keepsRange h tid slot
    · exact issueThread_keepsRange h tid slot
    · exact keepsRange_next h

theorem runMove_keepsRange (h : Stated.FusesAndClock m s) (v : Move) : KeepsRange m (runMove v s) := by
  have same {t : State} (hst : s.SameUnits t) : KeepsRange m (.next t) := keepsRange_next (fusesAndClock_of_same h hst)
  cases v with
  | event i => exact exec_keepsRange h i
  | resume tid slot => exact retry_keepsRange h tid slot
  | perform => exact same (s.performEntry_sameUnits _ _ _)
  | engine => exact same (s.engineMove_sameUnits _ _)
  | elapse => exact same ((s.elapse_sameUnits _).trans (State.retireLdrains_sameUnits _))
  | dropLine => exact same (s.setCore_sameUnits _ _)
  | performPart => exact same (s.performPart_sameUnits _ _ _ _)
  | cutPart => exact same (s.cutPart_sameUnits _ _ _ _ _)
  | input => exact same (s.input_sameUnits _)
  | request => exact same (s.takeRequest_sameUnits _)
  | collect => exact same s.collect_sameUnits
  | hostRead => exact same (s.hostRead_sameUnits _ _)
  | hostWrite => exact same (s.hostStore_sameUnits _ _ _)

theorem firstMove_keepsRange (h : Stated.FusesAndClock m s) (n : Nat) (ms : List Move) :
    ∀ r, s.firstMove n ms = some r → Stated.FusesAndClock m r.2 := by
  induction ms generalizing n with
  | nil => simp [State.firstMove]
  | cons v ms ih =>
    intro r hr
    have hv := runMove_keepsRange h v
    rw [State.firstMove] at hr
    split at hr
    · next hrun =>
      split at hr
      · exact ih _ r hr
      · cases hr
        exact hv.keeps _ hrun
    · exact ih _ r hr

theorem auto_fusesAndClock (h : Stated.FusesAndClock m s) : Stated.FusesAndClock m s.auto := by
  unfold State.auto
  split
  · next hr => exact (firstMove_keepsRange h _ _ _ hr :)
  · exact fusesAndClock_of_same h (((s.elapse_sameUnits 1).trans (State.retireLdrains_sameUnits _)).trans (State.slotEdges_sameUnits _))

end Units

/-- Settles O41: the fuses and the clock through every move of the agenda, every issue, and what the device does by itself. -/
theorem stepKeepsFusesAndClock : Obligations.StepKeepsFusesAndClock := by
  intro m s t h
  have hagenda (ms : List Move) : Stated.FusesAndClock m { s with agenda := ms } := h
  have hissuing (is : List (Nat × Nat)) : Stated.FusesAndClock m { s with issuing := is } := h
  unfold step
  split
  · exact (runMove_keepsRange (hagenda _) _).keeps t
  · split
    · exact (issueThread_keepsRange (hissuing _) _ _).keeps t
    · exact (keepsRange_next (auto_fusesAndClock h)).keeps t

end Sys2Proof.Machine

/-! ## Reset -/

namespace Sys2Proof.Machine

/-- Settles O40: the clock starts at 2000 MHz, and an empty memory is in canonical form. -/
theorem invariantsHoldAtReset : Obligations.InvariantsHoldAtReset :=
  ⟨⟨rfl, by decide, by decide⟩, rfl⟩

/-- ENMAP of an HXI-9640, field by field (R36). -/
theorem enmap9640_fields :
    enmap9640.extractLsb' 0 96 = BitVec.allOnes 96 ∧ enmap9640.extractLsb' 96 96 = BitVec.allOnes 96
    ∧ enmap9640.extractLsb' 192 16 = 0xFFFF ∧ enmap9640.extractLsb' 208 8 = 0xFF ∧ enmap9640.extractLsb' 216 8 = 0x40
    ∧ enmap9640.extractLsb' 224 32 = 0 := by
  decide +kernel

/-- A port at reset has the lanes of its kind (R30). -/
theorem State.reset_port_lanes (p : Nat) : (State.reset.port p).lanes.length = lanesOf p :=
  List.length_replicate

/-- Settles O39: reset lists no unit and no byte, so each reads as its own reset value. -/
theorem resetStateIsAsStated : Obligations.ResetStateIsAsStated := by
  refine ⟨rfl, enmap9640_fields, rfl, fun c => ⟨rfl, rfl, fun n => rfl, rfl, rfl, rfl⟩, fun n => rfl, rfl, rfl, rfl, rfl,
    rfl, rfl, fun p => rfl, fun p hp => ?_, fun p hlo hhi => ?_, fun p hlo hhi => ?_, fun d => rfl, fun c => rfl, fun a => ⟨rfl, rfl⟩⟩
  all_goals rw [State.reset_port_lanes, lanesOf]
  · exact if_pos hp
  · rw [if_neg (by omega), if_pos hhi]
  · rw [if_neg (by omega), if_neg (by omega), if_pos hhi]

end Sys2Proof.Machine

/-! ## Fetch, decode, execute -/

namespace Sys2Proof.Machine

/-- The first m words of an instruction of n words without poison have none either. -/
theorem blockPois_of_clean {bs : List PByte} {o n m : Nat} (h : ∀ b ∈ (bs.drop o).take (4 * n), b.p = false) (hm : m ≤ n) :
    blockPois bs o m = false := by
  simp only [blockPois, List.any_eq_false, Bool.not_eq_true]
  intro b hb
  exact h b (List.take_subset_take_left _ (by omega) hb)

section
variable {s u : State} {tid slot : Nat} {bs : List PByte}

/-- A fetch from the core's cached block gives the words there (R281). -/
theorem State.fetch_of_cached {l : CLine}
    (hc : s.codeBlock (s.task tid).core (s.task tid).ctx ((s.thread tid slot).pc.toNat / 32) = some l)
    (h : ∀ b ∈ (l.bytes.drop ((s.thread tid slot).pc.toNat % 32)).take
      (4 * (blockWord l.bytes ((s.thread tid slot).pc.toNat % 32) 0 % 4 + 1)), b.p = false) :
    s.fetch tid slot = (s, .words (blockWord l.bytes ((s.thread tid slot).pc.toNat % 32) 0)
      (blockWord l.bytes ((s.thread tid slot).pc.toNat % 32) 1) (blockWord l.bytes ((s.thread tid slot).pc.toNat % 32) 2)) := by
  simp only [State.thread] at hc h ⊢
  simp [State.fetch, hc, blockPois_of_clean h]

/-- A fetch whose block was filled gives the words of the bytes read. -/
theorem State.fetch_of_filled
    (hc : s.codeBlock (s.task tid).core (s.task tid).ctx ((s.thread tid slot).pc.toNat / 32) = none)
    (hf : s.fillBlock tid slot (s.thread tid slot).pc.toNat = (u, .bytes bs))
    (h : ∀ b ∈ (bs.drop ((s.thread tid slot).pc.toNat % 32)).take
      (4 * (blockWord bs ((s.thread tid slot).pc.toNat % 32) 0 % 4 + 1)), b.p = false) :
    s.fetch tid slot = (u, .words (blockWord bs ((s.thread tid slot).pc.toNat % 32) 0)
      (blockWord bs ((s.thread tid slot).pc.toNat % 32) 1) (blockWord bs ((s.thread tid slot).pc.toNat % 32) 2)) := by
  simp only [State.thread] at hc hf h ⊢
  simp [State.fetch, hc, hf, blockPois_of_clean h]

/-- A fetch whose block is not in the device half faults there (R39). -/
theorem State.fetch_of_host
    (hc : s.codeBlock (s.task tid).core (s.task tid).ctx ((s.thread tid slot).pc.toNat / 32) = none)
    (hr : regionOf (s.thread tid slot).pc.toNat = .host) :
    s.fetch tid slot = (s, .fault 0x11 (s.thread tid slot).pc.toNat) := by
  simp only [State.thread] at hc hr ⊢
  simp [State.fetch, hc, State.fillBlock, hr]

/-- A block at a READY home in the device half is read there and kept in the core, whose memory and tasks stay (R39, R281). -/
theorem State.fillBlock_of_ready {r : State} {t : Trans} {pc : Nat} (hr : regionOf pc = .dev)
    (ht : s.translate (s.task tid).cluster (s.task tid).ctx (pc / 32 * 32) .fetch = (r, .ok t))
    (hl : r.laterChecks .fetch 4 false [.page (pc / 32 * 32) 32 t] = none) (hh : r.home t (pc / 32 * 32) 32 = .ready) :
    ∃ u, s.fillBlock tid slot pc = (u, .bytes (r.homeBytes t (pc / 32 * 32) 32)) ∧ u.mem = r.mem ∧ u.tasks = r.tasks := by
  simp [State.fillBlock, hr, State.fillFrom, ht, hl, hh, State.keepBlock, State.setCore]

/-- The words that a thread which can run has fetched are run. -/
theorem issueThread_of_words {w0 w1 w2 : Nat} (hrun : (State.thr { s with cur := (tid, slot), curW := (0, 0, 0) }).canRun = true)
    (hf : State.fetch { s with cur := (tid, slot), curW := (0, 0, 0) } tid slot = (u, .words w0 w1 w2)) :
    issueThread tid slot s = runWords { u with curW := (w0, w1, w2) } := by
  simp only [issueThread, hrun, hf, Bool.not_true, Bool.false_eq_true, if_false]

/-- With an empty agenda the next thread of the issue group issues. -/
theorem step_of_issuing {is : List (Nat × Nat)} (ha : s.agenda = []) (hi : s.issuing = (tid, slot) :: is) :
    step s = issueThread tid slot { s with issuing := is } := by
  simp only [step, ha, hi]

/-- A waiting thread on its core that holds an instruction's words runs them again (R126). -/
theorem step_of_resume {ms : List Move} {w : Wait} {ws : Nat × Nat × Nat} (ha : s.agenda = .resume tid slot :: ms)
    (hc : (s.task tid).onCore = true) (hw : (s.thread tid slot).st = .waiting w) (hs : w ≠ .shadow)
    (hh : (s.thread tid slot).held = some ws) :
    step s = runWords { s with agenda := ms, cur := (tid, slot), curW := ws } := by
  simp only [step, ha, runMove]
  have hc' : (State.task { s with agenda := ms } tid).onCore = true := hc
  have hw' : (State.thread { s with agenda := ms } tid slot).st = .waiting w := hw
  have hh' : (State.thread { s with agenda := ms } tid slot).held = some ws := hh
  cases w <;> simp_all [retry]

/-- Words that decode run their instruction. -/
theorem runWords_ok {i : Instr} {n : Nat} (h : decodeWords s.thr.pc.toNat s.curW.1 s.curW.2.1 s.curW.2.2 = .ok i n) :
    runWords s = exec i s := by
  simp only [runWords, h]

/-- Words that do not decode take the fault of R49. -/
theorem runWords_bad {c : Nat} (h : decodeWords s.thr.pc.toNat s.curW.1 s.curW.2.1 s.curW.2.2 = .bad c) :
    runWords s = .next (s.takeFault s.cur.1 s.cur.2 c 0 0 0 0) := by
  simp only [runWords, h]

end

/-- Settles O36: a fetch reads the block that holds pc, and a step runs the words that the thread fetched or holds. -/
theorem stepRunsDecodedInstruction : Obligations.StepRunsDecodedInstruction := by
  intro s tid slot
  refine ⟨fun l hc h => State.fetch_of_cached hc h, fun r t hc hr ht hl hh h => ?filled, fun hc hr => State.fetch_of_host hc hr,
    fun is ha hi hrun u w0 w1 w2 hf => ?issued, fun i ms ha => ?event, fun ms w w0 w1 w2 ha hon hw hs hh => ?resumed⟩
  case filled =>
    obtain ⟨u, hu, hm, hk⟩ := State.fillBlock_of_ready hr ht hl hh
    exact ⟨u, State.fetch_of_filled hc hu h, hm, hk⟩
  case issued =>
    rw [step_of_issuing ha hi, issueThread_of_words (s := { s with issuing := is }) hrun hf]
    exact ⟨fun i n h => runWords_ok h, fun c h => runWords_bad h⟩
  case event => simp only [step, ha, runMove]
  case resumed =>
    rw [step_of_resume ha hon hw hs hh]
    exact ⟨fun i n h => runWords_ok h, fun c h => runWords_bad h⟩

end Sys2Proof.Machine

/-! ## Start, clock and chip time -/

namespace Sys2Proof.Machine

section Folds
variable {α β : Type} {f : State → β → State}

/-- What no step of a fold touches stays. -/
theorem foldl_keeps {g : State → α} {l : List β} (h : ∀ b ∈ l, ∀ s, g (f s b) = g s) (s : State) : g (l.foldl f s) = g s := by
  induction l generalizing s with
  | nil => rfl
  | cons b l ih =>
    rw [List.foldl_cons, ih fun c hc => h c (List.mem_cons_of_mem _ hc)]
    exact h b List.mem_cons_self s

/-- A fold whose step k gives part k a value of its own, and no other part, gives every listed part its value. -/
theorem foldl_sets {f : State → Nat → State} {g : State → Nat → α} {v : Nat → α} (h : ∀ s k j, g (f s k) j = if j = k then v k else g s j)
    (l : List Nat) (s : State) (j : Nat) : g (l.foldl f s) j = if j ∈ l then v j else g s j := by
  induction l generalizing s with
  | nil => rfl
  | cons k l ih =>
    rw [List.foldl_cons, ih, h]
    by_cases hj : j = k
    · subst hj; simp
    · simp [hj]

end Folds

/-! ### Power good -/

/-- Everything but the images and their measurements is the same. -/
def State.ImagesOnly (s t : State) : Prop := ∃ fw ep, t = { s with fw := fw, mepoch := ep }

theorem State.ImagesOnly.trans {s t u : State} : s.ImagesOnly t → t.ImagesOnly u → s.ImagesOnly u := by
  rintro ⟨_, _, rfl⟩ ⟨_, _, rfl⟩
  exact ⟨_, _, rfl⟩

theorem State.ImagesOnly.refl (s : State) : s.ImagesOnly s := ⟨s.fw, s.mepoch, rfl⟩

theorem State.ImagesOnly.setFw (s : State) (k : Nat) (f : FwKind) : s.ImagesOnly (s.setFw k f) := ⟨_, s.mepoch, rfl⟩

theorem State.ImagesOnly.bootPsc (s : State) (f : FwKind) : s.ImagesOnly ((s.setFw 1 f).bootKind 1) := ⟨_, s.mepoch, rfl⟩

section
variable {s : State}

/-- With no context a measurement tells nobody (R487). -/
theorem State.measureAs_imagesOnly (hc : s.ctxs = []) (kind ev digest version) :
    s.ImagesOnly (s.measureAs kind ev digest version) := by
  have quiet : ∀ (r : State → FaultRec) (l : List Nat) (u : State), u.ctxs = [] → l.foldl (fun (s : State) c =>
      if (s.ctx c).st == .active || (s.ctx c).st == .suspended then s.ringPut c (r s) else s) u = u := by
    intro r l u hu
    induction l with
    | nil => rfl
    | cons c l ih =>
      have hfree : (u.ctx c).st = .free := by simp [State.ctx, hu, AMap.get, Context.reset]
      rw [List.foldl_cons, hfree]
      exact ih
  refine ⟨(s.setFw kind { s.fwk kind with mr := sha256 ((s.fwk kind).mr ++ digest ++ leBytes 4 version) }).fw, s.mepoch + 1, ?_⟩
  exact quiet _ _ _ hc

theorem State.measure_imagesOnly (hc : s.ctxs = []) (kind ev) : s.ImagesOnly (s.measure kind ev) := by
  unfold State.measure
  exact State.measureAs_imagesOnly hc ..

theorem State.measureBoot_imagesOnly (hc : s.ctxs = []) : s.ImagesOnly s.measureBoot := by
  unfold State.measureBoot
  grind [State.measureAs_imagesOnly, State.measure_imagesOnly, State.ImagesOnly.refl]

theorem State.ImagesOnly.ctxs {t : State} (h : s.ImagesOnly t) : t.ctxs = s.ctxs := by
  obtain ⟨_, _, rfl⟩ := h
  rfl

/-- Measuring kinds one after another changes images only while there is no context. -/
theorem State.ImagesOnly.measures {t : State} (h : s.ImagesOnly t) (ks : List Nat) (hc : s.ctxs = []) :
    s.ImagesOnly (ks.foldl (fun (s : State) k => s.measure k 3) t) := by
  induction ks generalizing t with
  | nil => exact h
  | cons k ks ih =>
    rw [List.foldl_cons]
    exact ih (h.trans (State.measure_imagesOnly (h.ctxs.trans hc) k 3))

/-- A power cycle keeps a verified image and verifies none (R479). -/
theorem FwKind.powerUp_verified (f : FwKind) (now : Nat) : (f.powerUp now).st = .verified ↔ f.st = .verified := by
  cases hst : f.st <;> simp [FwKind.powerUp, FwKind.discard, FwKind.enter, hst] <;> split <;> simp

/-- Whether step 1 is reported: the PSC does so by itself, or a verified image waits for the previous one to boot (R480). -/
def State.pscBoots (s : State) (ok : Bool) : Bool := (ok && s.startImageOk 1) || (s.fwk 1).st == .verified

/-- Power good leaves what a power cycle leaves, DEVSTAT and the images apart. -/
theorem execPowerGood_imagesOnly (s : State) (ok : Bool) : ∃ t, exec (.powerGood ok) s = .next t ∧
    State.ImagesOnly { s.powerUp with devstat := BitVec.ofNat 64 (16 + if s.powerUp.pscBoots ok then 0 else 2) } t := by
  refine ⟨_, rfl, ?_⟩
  have hc : s.powerUp.ctxs = [] := rfl
  unfold State.pscBoots
  dsimp only
  generalize s.powerUp = u at hc ⊢
  generalize ((u.fwk 1).st == ImgState.verified) = v
  generalize (ok && u.startImageOk 1) = b
  have hm (d : Word) := State.measureBoot_imagesOnly (s := { u with devstat := d }) hc
  cases b <;> cases v <;> simp only [Bool.not_true, Bool.not_false, Bool.or_true, Bool.or_false, Bool.and_true, Bool.and_false,
    Bool.false_eq_true, if_true, if_false]
  · exact hm _
  · exact ((hm _).trans (.setFw _ 1 _)).measures _ hc
  · exact ((hm _).trans (.bootPsc _ _)).measures _ hc
  · exact ((hm _).trans (.bootPsc _ _)).measures _ hc

end

/-- A part of O23: DEVSTAT shows step 1, with bit 1 where it is not reported, and everything that a power cycle resets is at reset. -/
theorem powerGoodBoots : Stated.PowerGoodBoots := by
  intro s ok
  obtain ⟨_, hexec, fw, ep, rfl⟩ := execPowerGood_imagesOnly s ok
  refine ⟨_, hexec, ?_, ?_, ?_, rfl, rfl, rfl, rfl, rfl, rfl, rfl, rfl, rfl⟩
  · cases s.powerUp.pscBoots ok <;> simp [State.startStep]
  · cases s.powerUp.pscBoots ok <;> simp
  · have hv := FwKind.powerUp_verified (s.fwk 1) s.now
    have hk : s.powerUp.fwk 1 = (s.fwk 1).powerUp s.now := rfl
    cases hb : s.powerUp.pscBoots ok <;> simp [State.pscBoots, hk, hv] at hb ⊢ <;> grind

/-! ### The start sequence -/

section
variable {s : State} {n : Nat} {ok : Bool} {f : State → State}

/-- Whether step n of the start sequence may begin (R32, R480). -/
def State.mayStart (s : State) (n : Nat) : Prop := s.startStep + 1 = n ∧ s.devstat.getLsbD 1 = false ∧ (n = 2 → (s.fwk 1).trial = false)

theorem State.atStep_of_not (h : ¬ s.mayStart n) : s.atStep n ok f = s := by
  unfold State.atStep
  refine if_pos ?_
  unfold State.mayStart at h
  grind

theorem State.atStep_of_mayStart (h : s.mayStart n) : s.atStep n ok f =
    if ok then f { s with devstat := BitVec.ofNat 64 (16 * n) } else { s with devstat := BitVec.ofNat 64 (16 * n + 2) } := by
  obtain ⟨hn, hd, ht⟩ := h
  have hcond : (s.startStep + 1 != n || s.devstat.getLsbD 1 || (n == 2 && (s.fwk 1).trial)) = false := by grind
  simp only [State.atStep, hcond]
  cases ok <;> rfl

/-- One stack's report in step 2. -/
def State.takeReport (r : List (Nat × Nat)) (s : State) (k : Nat) : State :=
  ((s.setStack k { s.stack k with
    capacity := (r.getD k (0, 0)).1, spares := (r.getD k (0, 0)).2, trainings := (s.stack k).trainings + 1, scrubAt := s.now }).send 1
      msgCapacity [k, (r.getD k (0, 0)).1, (r.getD k (0, 0)).2]).reportSpares k

theorem Stack.post_capacity (st : Stack) (m : StackMsg) : (st.post m).capacity = st.capacity ∧ (st.post m).spares = st.spares := by
  unfold Stack.post
  grind

theorem State.reportSpares_stack (k j : Nat) : ((s.reportSpares k).stack j).capacity = (s.stack j).capacity
    ∧ ((s.reportSpares k).stack j).spares = (s.stack j).spares := by
  unfold State.reportSpares State.stackReport
  split
  · simp only [State.stack_setStack]
    split
    · next h => subst h; exact Stack.post_capacity _ _
    · exact ⟨rfl, rfl⟩
  · exact ⟨rfl, rfl⟩

theorem State.reportSpares_devstat (k : Nat) : (s.reportSpares k).devstat = s.devstat := by
  unfold State.reportSpares
  split <;> rfl

theorem State.reportSpares_mem (k : Nat) : (s.reportSpares k).mem = s.mem := by
  unfold State.reportSpares
  split <;> rfl

theorem State.takeReport_devstat (r : List (Nat × Nat)) (s : State) (k : Nat) : (s.takeReport r k).devstat = s.devstat :=
  State.reportSpares_devstat k

theorem State.takeReport_mem (r : List (Nat × Nat)) (s : State) (k : Nat) : (s.takeReport r k).mem = s.mem :=
  State.reportSpares_mem k

/-- A report sets the capacity and the spare rows of its stack alone. -/
theorem State.takeReport_stack (r : List (Nat × Nat)) (s : State) (k j : Nat) :
    (((s.takeReport r k).stack j).capacity, ((s.takeReport r k).stack j).spares) =
      if j = k then r.getD k (0, 0) else ((s.stack j).capacity, (s.stack j).spares) := by
  obtain ⟨hc, hs⟩ := State.reportSpares_stack (s := (s.setStack k { s.stack k with
    capacity := (r.getD k (0, 0)).1, spares := (r.getD k (0, 0)).2, trainings := (s.stack k).trainings + 1, scrubAt := s.now }).send 1
      msgCapacity [k, (r.getD k (0, 0)).1, (r.getD k (0, 0)).2]) k j
  rw [State.takeReport, hc, hs, show ∀ (u : State) a b c, (u.send a b c).stack j = u.stack j from fun _ _ _ _ => rfl, State.stack_setStack]
  split <;> rfl

/-- Step 2 runs: the controllers are released, and each stack reports. -/
theorem execStackBringup_runs (reports : List (Nat × Nat)) (h : s.mayStart 2) (hi : s.startImageOk 4 = true) :
    exec (.stackBringup (some reports)) s =
      .next ((List.range 8).foldl (State.takeReport reports) (State.bootKind { s with devstat := 32 } 4)) := by
  refine congrArg Host.Outcome.next ((State.atStep_of_mayStart h).trans ?_)
  rw [hi]
  rfl

/-- Step 2 fails without reports or with a bad image. -/
theorem execStackBringup_fails (reports : Option (List (Nat × Nat))) (h : s.mayStart 2)
    (hi : (reports.isSome && s.startImageOk 4) = false) : exec (.stackBringup reports) s = .next { s with devstat := 34 } := by
  refine congrArg Host.Outcome.next ((State.atStep_of_mayStart h).trans ?_)
  rw [hi]
  rfl

/-- The reports of step 2 leave DEVSTAT and memory, and every stack has its own. -/
theorem takeReports_stacks (reports : List (Nat × Nat)) (u : State) :
    let t := (List.range 8).foldl (State.takeReport reports) u
    t.devstat = u.devstat ∧ t.mem = u.mem ∧
      ∀ k < 8, (t.stack k).capacity = (reports.getD k (0, 0)).1 ∧ (t.stack k).spares = (reports.getD k (0, 0)).2 := by
  refine ⟨foldl_keeps (g := State.devstat) (fun k _ s => s.takeReport_devstat reports k) _,
    foldl_keeps (g := State.mem) (fun k _ s => s.takeReport_mem reports k) _, fun k hk => ?_⟩
  have h := foldl_sets (g := fun s k => ((s.stack k).capacity, (s.stack k).spares)) (State.takeReport_stack reports) (List.range 8) u k
  simp only [List.mem_range, hk, if_true, Prod.ext_iff] at h
  exact h

/-- A map of listed keys reads at a listed key what was mapped there. -/
theorem AMap.get_map_self {α : Type} (g : Nat → α) (d : α) {l : List Nat} {k : Nat} (h : k ∈ l) :
    AMap.get (l.map fun i => (i, g i)) k d = g k := by
  induction l with
  | nil => cases h
  | cons i l ih =>
    by_cases hi : i = k
    · simp [AMap.get, hi]
    · simp [AMap.get, hi, ih (List.mem_of_ne_of_mem (Ne.symm hi) h)]

/-- Step 3 runs: all 32 comb lines lock. -/
theorem execCombLock_runs (h : s.mayStart 3) : ∃ t, exec (.combLock true) s = .next t ∧ t = { s with devstat := 48, comb := t.comb } ∧
    ∀ src < 2, ∀ line < 16, t.line src line = { s.line src line with state := 2 } := by
  refine ⟨_, congrArg Host.Outcome.next (State.atStep_of_mayStart h), rfl, fun src hs line hl => ?_⟩
  have hmem : 16 * src + line ∈ List.range 32 := List.mem_range.mpr (by omega)
  refine (AMap.get_map_self _ _ hmem).trans ?_
  rw [show (16 * src + line) / 16 = src by omega, show (16 * src + line) % 16 = line by omega]
  rfl

@[simp] theorem State.selectUp_port (j : Nat) : s.selectUp.port j = s.port j := by
  unfold State.selectUp
  grind [State.port]

/-- A port put into a state is in that state, and no other port changes its state. -/
theorem State.toPort_port (p j : Nat) (st : PortState) : ((s.toPort p st).port j).st = if j = p then st else (s.port j).st := by
  unfold State.toPort State.sendTrain
  split <;> simp only [State.port_setPort, State.selectUp_port] <;> split <;> simp_all

theorem State.toPort_port_ne {p j : Nat} (st : PortState) (h : j ≠ p) : (s.toPort p st).port j = s.port j := by
  unfold State.toPort State.sendTrain
  split <;> simp [State.port_setPort, State.selectUp_port, h]

theorem State.toPort_devstat (p : Nat) (st : PortState) : (s.toPort p st).devstat = s.devstat := by
  unfold State.toPort State.selectUp
  grind [State.sendTrain, State.setPort]

theorem State.toPort_mem (p : Nat) (st : PortState) : (s.toPort p st).mem = s.mem := by
  unfold State.toPort State.selectUp
  grind [State.sendTrain, State.setPort]

theorem mem_internalPorts (p : Nat) : p ∈ internalPorts ↔ 96 ≤ p ∧ p < 108 := by
  simp only [internalPorts, List.mem_map, List.mem_range]
  exact ⟨by rintro ⟨a, ha, rfl⟩; omega, fun h => ⟨p - 96, by omega, by omega⟩⟩

/-- The internal ports are put into training; the others stay. -/
theorem trainPorts (u : State) : let t := internalPorts.foldl (fun (s : State) i => s.toPort i .train) u
    t.devstat = u.devstat ∧ t.mem = u.mem ∧ (∀ p, 96 ≤ p → p < 108 → (t.port p).st = .train) ∧ ∀ p, p < 96 → t.port p = u.port p := by
  refine ⟨foldl_keeps (g := State.devstat) (fun _ _ _ => State.toPort_devstat _ _) _,
    foldl_keeps (g := State.mem) (fun _ _ _ => State.toPort_mem _ _) _, fun p hlo hhi => ?_, fun p hp => ?_⟩
  · have h := foldl_sets (g := fun s i => (s.port i).st) (fun s k j => State.toPort_port k j .train) internalPorts u p
    rwa [if_pos ((mem_internalPorts p).mpr ⟨hlo, hhi⟩)] at h
  · refine foldl_keeps (g := fun s => s.port p) (fun i hi s => State.toPort_port_ne _ ?_) _
    have := (mem_internalPorts i).mp hi
    omega

theorem startStep_ne_four (h : s.mayStart 4) : ¬ (s.startStep == 4) = true := by
  have := h.1
  simp
  omega

/-- Step 4 runs. -/
theorem execSwitchPortTrain_runs (h : s.mayStart 4) (hi : s.startImageOk 3 = true) : exec (.switchPortTrain true) s =
    .next (internalPorts.foldl (fun (s : State) i => s.toPort i .train) (State.bootKind { s with devstat := 64 } 3)) := by
  refine congrArg Host.Outcome.next ((if_neg (startStep_ne_four h)).trans ((State.atStep_of_mayStart h).trans ?_))
  rw [hi]
  rfl

/-- Step 4 fails. -/
theorem execSwitchPortTrain_fails (h : s.mayStart 4) (hi : (ok && s.startImageOk 3) = false) :
    exec (.switchPortTrain ok) s = .next { s with devstat := 66 } := by
  refine congrArg Host.Outcome.next ((if_neg (startStep_ne_four h)).trans ((State.atStep_of_mayStart h).trans ?_))
  rw [hi]
  rfl

theorem execSwitchPortTrain_waits (h4 : s.startStep ≠ 4) (h : ¬ s.mayStart 4) : exec (.switchPortTrain ok) s = .next s :=
  congrArg Host.Outcome.next ((if_neg (by simpa using h4)).trans (State.atStep_of_not h))

/-- The MGCs start the thermal loops of some clusters. -/
def State.startLoops (s : State) (cs : List Nat) : State :=
  cs.foldl (fun (s : State) c => s.setCluster c { s.cluster c with thermal := true, unlockAt := some s.now }) s

theorem State.startLoops_thermal (cs : List Nat) (c : Nat) :
    ((s.startLoops cs).cluster c).thermal = if c ∈ cs then true else (s.cluster c).thermal := by
  refine foldl_sets (g := fun s c => (s.cluster c).thermal) (v := fun _ => true) (fun s k j => ?_) cs s c
  rw [State.cluster_setCluster]
  split <;> rfl

theorem State.startLoops_devstat (cs : List Nat) : (s.startLoops cs).devstat = s.devstat := by
  unfold State.startLoops
  exact foldl_keeps (g := State.devstat) (by intros; rfl) s

theorem State.startLoops_mem (cs : List Nat) : (s.startLoops cs).mem = s.mem := by
  unfold State.startLoops
  exact foldl_keeps (g := State.mem) (by intros; rfl) s

/-- Step 5 runs once the internal ports are up. -/
theorem execMgcRelease_runs (hp : (internalPorts.all fun i => (s.port i).sends) = true) (h : s.mayStart 5) (hi : s.startImageOk 2 = true) :
    exec (.mgcRelease true) s = .next
      ((State.bootKind { s with devstat := 80 } 2).startLoops ((List.range 96).filter fun c => s.enmap.getLsbD (96 + c))) := by
  refine congrArg Host.Outcome.next ((if_neg (by simp [hp])).trans ((State.atStep_of_mayStart h).trans ?_))
  rw [hi]
  rfl

/-- Step 5 fails. -/
theorem execMgcRelease_fails (hp : (internalPorts.all fun i => (s.port i).sends) = true) (h : s.mayStart 5)
    (hi : (ok && s.startImageOk 2) = false) : exec (.mgcRelease ok) s = .next { s with devstat := 82 } := by
  refine congrArg Host.Outcome.next ((if_neg (by simp [hp])).trans ((State.atStep_of_mayStart h).trans ?_))
  rw [hi]
  rfl

theorem execMgcRelease_waits (h : (internalPorts.all fun i => (s.port i).sends) = false ∨ ¬ s.mayStart 5) :
    exec (.mgcRelease ok) s = .next s := by
  refine congrArg Host.Outcome.next ?_
  by_cases hp : (internalPorts.all fun i => (s.port i).sends) = true
  · exact (if_neg (by simp [hp])).trans (State.atStep_of_not (h.resolve_left (by simp [hp])))
  · exact if_pos (by simp [hp])

theorem internalPorts_send : (internalPorts.all fun i => (s.port i).sends) = true ↔ ∀ p, 96 ≤ p → p < 108 → (s.port p).sends = true := by
  simp only [List.all_eq_true, mem_internalPorts, and_imp]

/-- Step 6 runs: READY. -/
theorem execSetReady_runs (h : s.mayStart 6) : exec .setReady s = .next { s with devstat := 97 } := by
  refine congrArg Host.Outcome.next ((State.atStep_of_mayStart h).trans ((if_pos rfl).trans ?_))
  rw [show (97 : Word) = BitVec.ofNat 64 (16 * 6) ||| 1 by decide]

end

/-- A part of O23: each step by the lemma of its case. -/
theorem startStepsRunInOrder : Stated.StartStepsRunInOrder := by
  intro s ok reports
  have bad {a : Bool} (h : ok = false ∨ a = false) : (ok && a) = false := by rcases h with rfl | rfl <;> simp
  refine ⟨fun h => congrArg Host.Outcome.next (State.atStep_of_not h), fun h hi => execStackBringup_fails _ h ?_, fun h hok hi => ?two,
    fun h => congrArg Host.Outcome.next (State.atStep_of_not h),
    fun h hok => congrArg Host.Outcome.next ((State.atStep_of_mayStart h).trans (if_neg (by simp [hok]))), fun h hok => ?three,
    fun h hok => congrArg Host.Outcome.next ((if_pos (by simpa using h)).trans (if_pos hok)),
    fun h hok => congrArg Host.Outcome.next ((if_pos (by simpa using h)).trans (if_neg (by simp [hok]))),
    fun h4 h => execSwitchPortTrain_waits h4 h, fun h hi => execSwitchPortTrain_fails h (bad hi), fun h hok hi => ?four,
    fun h => execMgcRelease_waits (h.imp_left fun h => by simpa [← internalPorts_send] using h),
    fun hr h hi => execMgcRelease_fails (internalPorts_send.mpr hr) h (bad hi), fun hr h hok hi => ?five,
    fun h => congrArg Host.Outcome.next (State.atStep_of_not h), fun h => execSetReady_runs h⟩
  · cases ok with
    | false => rfl
    | true => simpa using hi
  case two =>
    subst hok
    exact ⟨_, execStackBringup_runs reports h hi, takeReports_stacks reports _⟩
  case three =>
    subst hok
    exact execCombLock_runs h
  case four =>
    subst hok
    exact ⟨_, execSwitchPortTrain_runs h hi, trainPorts _⟩
  case five =>
    subst hok
    refine ⟨_, execMgcRelease_runs (internalPorts_send.mpr hr) h hi, State.startLoops_devstat _, State.startLoops_mem _, fun c hc => ?_⟩
    refine (State.startLoops_thermal _ c).trans ?_
    change (if _ then true else (s.cluster c).thermal) = _
    cases he : s.enmap.getLsbD (96 + c) <;> simp [hc, he]

/-- A part of O23. -/
theorem hostLinkTrains : Stated.HostLinkTrains := fun _ _ _ => rfl

/-- A part of O23: a sample or a die's junction moves a clock by one step within its range. -/
theorem clockFollowsPowerAndHeat : Stated.ClockFollowsPowerAndHeat := by
  refine fun s => ⟨fun avg => ?_, fun d => rfl, fun d h => congrArg Host.Outcome.next (if_pos h), fun d h => congrArg Host.Outcome.next (if_neg (by omega))⟩
  refine congrArg Host.Outcome.next ?_
  by_cases hover : s.pwrlim < avg
  · simp [hover, clockDown, Config.clockLow]
  · by_cases hunder : avg * 100 ≤ s.pwrlim * 95 <;> simp [hover, hunder, clockUp, Config.clockTop]

end Sys2Proof.Machine

namespace Sys2Proof.Machine

/-! ### Copies of chip time -/

/-- Everything but memory with its counters, replicas and Modified lines, the contexts and the messages to the outside is the same. -/
def State.RecordsOnly (s t : State) : Prop :=
  ∃ mem pgc reps mods ctxs out, t = { s with mem := mem, pgc := pgc, replicas := reps, hostMod := mods, ctxs := ctxs, out := out }

namespace State.RecordsOnly
variable {s t u : State}

theorem refl (s : State) : s.RecordsOnly s := ⟨_, _, _, _, _, _, rfl⟩

theorem trans : s.RecordsOnly t → t.RecordsOnly u → s.RecordsOnly u := by
  rintro ⟨_, _, _, _, _, _, rfl⟩ ⟨_, _, _, _, _, _, rfl⟩
  exact ⟨_, _, _, _, _, _, rfl⟩

theorem foldl {β : Type} {f : State → β → State} (h : ∀ (s : State) b, s.RecordsOnly (f s b)) (l : List β) (s : State) : s.RecordsOnly (l.foldl f s) := by
  induction l generalizing s with
  | nil => exact refl s
  | cons b l ih =>
    rw [List.foldl_cons]
    exact (h s b).trans (ih _)

end State.RecordsOnly

section
variable (s : State)

theorem State.countAccess_recordsOnly (ctx pa n write) : s.RecordsOnly (s.countAccess ctx pa n write) := by
  unfold State.countAccess
  split
  · exact .refl s
  · exact ⟨_, _, _, _, _, _, rfl⟩

theorem State.countVia_recordsOnly (t va n write) : s.RecordsOnly (s.countVia t va n write) := by
  unfold State.countVia
  grind [State.countAccess_recordsOnly, State.RecordsOnly.refl]

theorem State.homeWrite_recordsOnly (t va bs) : s.RecordsOnly (s.homeWrite t va bs) := by
  unfold State.homeWrite
  split
  · exact .refl s
  · refine (s.countVia_recordsOnly t va bs.length true).trans ?_
    dsimp only
    split <;> exact ⟨_, _, _, _, _, _, rfl⟩

theorem State.engineWrite_recordsOnly (ctx va bs fuel) : ∀ t, s.engineWrite ctx va bs fuel = some t → s.RecordsOnly t := by
  fun_induction State.engineWrite s ctx va bs fuel <;> grind [State.homeWrite_recordsOnly, State.RecordsOnly.refl, State.RecordsOnly.trans]

theorem State.ringOne_recordsOnly (ctx r) : ∀ t, s.ringOne ctx r = some t → s.RecordsOnly t := by
  intro t h
  simp only [State.ringOne, Option.ite_none_right_eq_some, Option.map_eq_some_iff, Option.bind_eq_some_iff] at h
  obtain ⟨-, u, ⟨v, hv, hu⟩, rfl⟩ := h
  exact ((s.engineWrite_recordsOnly _ _ _ _ v hv).trans (v.engineWrite_recordsOnly _ _ _ _ u hu)).trans ⟨_, _, _, _, _, _, rfl⟩

theorem State.setCtx_recordsOnly (ctx c) : s.RecordsOnly (s.setCtx ctx c) := ⟨_, _, _, _, _, _, rfl⟩

theorem State.send_recordsOnly (rcpt kind data) : s.RecordsOnly (s.send rcpt kind data) := ⟨_, _, _, _, _, _, rfl⟩

/-- A record changes nothing but memory, its context and the messages (R379). -/
theorem State.ringPut_recordsOnly (ctx r) : s.RecordsOnly (s.ringPut ctx r) := by
  unfold State.ringPut
  grind [State.send_recordsOnly, State.ringOne_recordsOnly, State.setCtx_recordsOnly, State.RecordsOnly.refl, State.RecordsOnly.trans]

end

section
variable {s t : State} (u : TimeUnit)

@[simp] theorem State.timeOf_setTime (c : TimeCopy) : (s.setTime u c).timeOf u = c := by
  cases u <;> simp [State.setTime, State.timeOf]

theorem State.RecordsOnly.timeOf (h : s.RecordsOnly t) : t.timeOf u = s.timeOf u := by
  obtain ⟨_, _, _, _, _, _, rfl⟩ := h
  cases u <;> rfl

@[simp] theorem State.dropLines_cluster (core c : Nat) (f : CLine → Bool) : (s.dropLines core f).cluster c = s.cluster c := rfl

/-- Dropping what a copy in UNSYNC no longer bounds leaves the copy. -/
theorem State.timeOf_dropUnsync : (s.dropUnsync u).timeOf u = s.timeOf u := by
  cases u with
  | cluster c =>
    refine (foldl_keeps (g := fun s => (s.cluster c).time) (by intros; rfl) _).trans ?_
    simp [State.timeOf]
  | die d => exact (State.RecordsOnly.foldl (fun s c => s.ringPut_recordsOnly ..) _ s).timeOf _
  | pod => rfl

/-- A copy that enters UNSYNC. -/
theorem State.timeOf_toUnsync : (s.toUnsync u).timeOf u =
    { s.timeOf u with st := .unsync, good := 0, need := 16, loss := (s.timeOf u).loss + 1 } := by
  simp only [State.toUnsync, State.timeOf_dropUnsync, State.timeOf_setTime]

/-- A slot edge measures the copy; within 4 ns it counts, further off the copy enters UNSYNC or starts again to count (R402). -/
theorem State.timeOf_slotEdge (err : Int) : (s.slotEdge u err).timeOf u =
    let c := (s.timeOf u).measured s.now err
    if err.natAbs ≤ 4 then c.agree else if c.st == .unsync then { c with good := 0 }
    else { c with st := .unsync, good := 0, need := 16, loss := c.loss + 1 } := by
  unfold State.slotEdge
  dsimp only
  split
  · simp [*]
  · split <;> simp [*, State.timeOf_toUnsync]

theorem TimeCopy.agree_eq (c : TimeCopy) : c.agree.err = c.err ∧ c.agree.lost = c.lost ∧ c.agree.off = c.off ∧ c.agree.floor = c.floor := by
  unfold TimeCopy.agree
  cases c.st <;> grind

/-- The state after an edge that agrees. -/
theorem TimeCopy.agree_st (c : TimeCopy) : c.agree.st = match c.st with
    | .sync => .sync
    | .hold => if c.need ≤ c.good + 1 then .sync else .hold
    | .unsync => if 16 ≤ c.good + 1 then .sync else .unsync := by
  unfold TimeCopy.agree
  cases c.st <;> grind

/-- A measured copy with the distance that the edge finds never reads less (R402). -/
theorem TimeCopy.read_le {c d : TimeCopy} {now : Nat} {err : Int} (hf : d.floor = (c.measured now err).floor) : c.read now ≤ d.read now := by
  rw [show d.read now = max ((now : Int) + d.off).toNat d.floor from rfl, hf]
  exact le_max_right _ _

end

/-- A part of O23. -/
theorem slotEdgesSetTimeState : Stated.SlotEdgesSetTimeState := by
  intro s u edge
  refine ⟨fun h => congrArg Host.Outcome.next (if_neg h), fun h => ⟨_, congrArg Host.Outcome.next (if_pos h), ?_⟩⟩
  generalize (if u = .pod then edge - s.edgeDelay else edge) = err
  rw [State.timeOf_slotEdge]
  generalize s.timeOf u = c
  dsimp only
  by_cases hnear : err.natAbs ≤ 4
  · obtain ⟨he, hl, ho, hf⟩ := (c.measured s.now err).agree_eq
    rw [if_pos hnear, if_neg (show ¬ 4 < err.natAbs by omega)]
    exact ⟨he, hl, ho, TimeCopy.read_le hf, (TimeCopy.agree_st _).trans rfl, fun h => absurd hnear (by omega)⟩
  · rw [if_neg hnear, if_pos (show 4 < err.natAbs by omega)]
    by_cases hu : c.st = .unsync
    · rw [if_pos (by simpa [TimeCopy.measured] using hu)]
      exact ⟨rfl, rfl, rfl, TimeCopy.read_le (err := err) rfl, hu, fun _ h => absurd hu h⟩
    · rw [if_neg (by simpa [TimeCopy.measured] using hu)]
      exact ⟨rfl, rfl, rfl, TimeCopy.read_le (err := err) rfl, rfl, fun _ _ => rfl⟩

/-- A cluster's copy that enters UNSYNC takes the translations with it (R402). -/
theorem State.toUnsync_tlb (s : State) (n : Nat) : ((s.toUnsync (.cluster n)).cluster n).tlb = [] := by
  refine (foldl_keeps (g := fun s => (s.cluster n).tlb) (by intros; rfl) _).trans ?_
  simp

/-- A part of O23. -/
theorem missingEdgesSetTimeState : Stated.MissingEdgesSetTimeState := by
  intro s u hpod
  refine ⟨_, congrArg Host.Outcome.next (if_neg hpod), ?_⟩
  generalize hc : s.timeOf u = c
  dsimp only
  by_cases hgone : c.st ≠ .unsync ∧ 64 ≤ c.lost + 1
  · rw [if_pos (by simpa using hgone), State.timeOf_toUnsync, State.timeOf_setTime]
    refine ⟨rfl, rfl, (if_pos (Or.inr hgone.2)).symm, ?_⟩
    rintro n rfl - -
    exact State.toUnsync_tlb _ n
  · rw [if_neg (by simpa using hgone), State.timeOf_setTime]
    refine ⟨?_, ?_, ?_, fun n _ h h' => absurd ⟨h, h'⟩ hgone⟩
    · split <;> rfl
    · split <;> rfl
    · cases hst : c.st <;> simp_all

/-- Settles O23: the parts above. -/
theorem startClockAndTimeEventsAct : Obligations.StartClockAndTimeEventsAct :=
  ⟨powerGoodBoots, startStepsRunInOrder, hostLinkTrains, clockFollowsPowerAndHeat, slotEdgesSetTimeState, missingEdgesSetTimeState⟩

end Sys2Proof.Machine

/-! ## Accesses to core memory -/

namespace Sys2Proof.Machine

/-! ### The window of core memory (R37, R388) -/

section Window
variable {s : State} {a n : Nat}

theorem regionOf_cm (h : cmBase ≤ a) : regionOf a = .cm := by
  have hdev : devBase ≤ cmBase := by decide
  have hcsp : cspBase ≤ cmBase := by decide
  have hhole : holeBase ≤ cmBase := by decide
  have hhost : 2 ^ 55 ≤ devBase := by decide
  rw [regionOf, if_neg (by omega), if_neg (by omega), if_neg (by omega), if_neg (by omega), if_neg (by omega)]

/-- A range of the window passes checks 2 to 5 of R217, check 3 where it is aligned. -/
theorem rangeFault_cm {align : Option Nat} (h : cmBase ≤ a) (hn : a + n ≤ 2 ^ 64) (hal : ∀ k, align = some k → a % k = 0) :
    rangeFault a n align = none := by
  have hr := regionOf_cm h
  simp only [cmBase] at h
  have hc : firstNonCanon a n = none := by
    have hd : ¬ a < devBase := by simp only [devBase]; omega
    have ht : ¬ 2 ^ 64 + 2 ^ 55 < a + n := by omega
    simp only [firstNonCanon, hd, ht, decide_false, Bool.false_and, Bool.false_eq_true, if_false]
  have he : ¬ regionEnd a < a + n := by
    simp only [regionEnd, hr]
    omega
  cases align with
  | none => simp [rangeFault, hc, he, hr]
  | some k => simp [rangeFault, hc, he, hr, hal k rfl]

/-- The range of an access in core memory is refused nowhere (R388). -/
theorem State.InCore.windowFault (h : s.InCore a n) (cl ctx : Nat) : s.windowFault s.cur.1 cl ctx a n = none := by
  obtain ⟨-, ha, -, hhole⟩ := h
  simp only [State.windowFault, regionOf_cm ha]
  refine if_neg fun hlo => ?_
  simp only [Bool.and_eq_true, decide_eq_true_eq] at hlo
  obtain ⟨hlt, hh⟩ := hlo
  have hin := hhole (max (a - cmBase) (s.task s.cur.1).lrec.footLow - (a - cmBase)) (by omega)
  rw [show a + (max (a - cmBase) (s.task s.cur.1).lrec.footLow - (a - cmBase)) - cmBase =
    max (a - cmBase) (s.task s.cur.1).lrec.footLow by omega, hh] at hin
  exact absurd hin (by decide)

end Window

/-- The piece of an access to core memory. -/
def State.corePiece (s : State) (n a : Nat) : Piece := .win a n (s.cmOf s.cur.1 (a - cmBase))

section Check
variable {s : State} {a n : Nat}

/-- An access to core memory passes its checks as one piece of the window (R217, R388). -/
theorem State.InCore.check (h : s.InCore a n) (k : Acc) (p : Bool) (hal : k = .atomic → a % n = 0) :
    s.check s.cur.1 a n k p = (s, .ok [s.corePiece n a]) := by
  obtain ⟨hon, ha, hn, -⟩ := id h
  have hr : rangeFault a n (if k == .atomic then some n else none) = none := by
    refine rangeFault_cm ha hn fun m hm => ?_
    cases k <;> simp_all
  have hon' : (s.task s.cur.1).onCore = true := hon
  simp only [State.check, hr, regionOf_cm ha, h.windowFault, State.cmPieces, hon', if_true, State.corePiece]

/-- Core memory of a task that runs lies in no block of a broken group: those are of the scratchpads (R341). -/
theorem State.keyBroken_core (hon : s.tk.onCore = true) (hc : s.tk.core < 1536) (off i : Nat) (ho : off + i < 2 ^ 64) :
    s.keyBroken (s.cmOf s.cur.1 off + i) = false := by
  cases hp : s.tk.place with
  | running c sh =>
    have hc' : c < 1536 := by simpa [Task.core, hp] using hc
    have hp' : (s.task s.cur.1).place = .running c sh := hp
    have hk : (s.cmOf s.cur.1 off + i) / 2 ^ 64 = 2000 + c := by
      simp only [State.cmOf, hp', cmKey]
      omega
    have hlt : ¬ 8000 ≤ 2000 + c := by omega
    simp only [State.keyBroken, hk, hlt, decide_false, Bool.false_and]
  | none => simp [Task.onCore, hp] at hon
  | saved c sh fr => simp [Task.onCore, hp] at hon

/-- A piece of core memory reads the bytes that stand there (R37). -/
theorem State.InCore.readWin (h : s.InCore a n) (hc : s.tk.core < 1536) :
    s.readWin (s.cmOf s.cur.1 (a - cmBase)) n = s.mem.read (s.cmOf s.cur.1 (a - cmBase)) n := by
  obtain ⟨hon, ha, hn, -⟩ := h
  refine List.map_congr_left fun i hi => ?_
  have hb : (0 : Nat) < cmBase := by decide
  rw [State.keyBroken_core hon hc _ _ (by have := List.mem_range.mp hi; omega)]
  simp only [Bool.or_false]

/-- A write to core memory changes the bytes there at once (R223). -/
theorem State.InCore.writeWin (h : s.InCore a n) (hc : s.tk.core < 1536) (bs : List PByte) :
    s.writeWin (s.cmOf s.cur.1 (a - cmBase)) bs = { s with mem := s.mem.write (s.cmOf s.cur.1 (a - cmBase)) bs } := by
  obtain ⟨hon, ha, hn, -⟩ := h
  have hb : (0 : Nat) < cmBase := by decide
  have hk := State.keyBroken_core hon hc (a - cmBase) 0 (by omega)
  rw [Nat.add_zero] at hk
  simp [State.writeWin, hk]

/-! ### Scalar accesses (R217, R220) -/

/-- A load from core memory gives the bytes there, and nothing waits or faults. -/
theorem State.InCore.load (h : s.InCore a n) (hc : s.tk.core < 1536) :
    s.load s.cur.1 s.cur.2 a n = (s, .bytes (s.mem.read (s.cmOf s.cur.1 (a - cmBase)) n)) := by
  have hl : s.loadPieces s.cur.1 s.cur.2 [s.corePiece n a] = (s, .bytes (s.mem.read (s.cmOf s.cur.1 (a - cmBase)) n)) := by
    simp only [State.loadPieces, State.corePiece, State.loadPiece, h.readWin hc, List.append_nil]
  simp only [State.load, h.check .load false nofun, hl]

theorem pbytes_length (n v : Nat) (p : Bool) : (pbytes n v p).length = n := by
  have hl : ∀ v, (leBytes n v).length = n := by
    induction n with
    | zero => exact fun v => rfl
    | succ n ih => exact fun v => congrArg (· + 1) (ih _)
  exact (List.length_map _).trans (hl v)

/-- A store to core memory changes the bytes there at once. -/
theorem State.InCore.store {v : Nat} {p : Bool} (h : s.InCore a n) (hc : s.tk.core < 1536) :
    s.store s.cur.1 s.cur.2 a (pbytes n v p) =
      ({ s with mem := s.mem.write (s.cmOf s.cur.1 (a - cmBase)) (pbytes n v p) }, .bytes []) := by
  have hck := h.check .store ((pbytes n v p).any PByte.p) nofun
  have ht : (pbytes n v p).take n = pbytes n v p := List.take_of_length_le (pbytes_length n v p).le
  rw [State.store, pbytes_length, hck]
  simp [State.storeChecked, State.corePiece, storePieces, ht, h.writeWin hc]

/-- Sign extension from w bits, as a word and as a number. -/
theorem sext_eq_ofInt {w : Nat} (hw : 0 < w) (hw' : w ≤ 64) (v : Nat) : Word.sext (BitVec.ofNat 64 v) w = BitVec.ofInt 64 (toInt w v) := by
  have h2 : 2 ^ w = 2 * 2 ^ (w - 1) := by rw [← Nat.pow_succ', Nat.succ_eq_add_one, Nat.sub_add_cancel hw]
  rw [Word.sext, BitVec.setWidth_ofNat_of_le hw', BitVec.signExtend, BitVec.toInt_eq_toNat_cond, BitVec.toNat_ofNat, toInt]
  by_cases hv : v % 2 ^ w < 2 ^ (w - 1)
  · rw [if_pos hv, if_pos (by omega)]
  · rw [if_neg hv, if_neg (by omega)]

end Check

section Scalar
variable {s : State}

/-- A scalar load from core memory. -/
theorem memLoad_core (hs : s.Ready) (hc : s.tk.core < 1536) {i : Instr} {n : Nat} {f : Nat → Word} {d a : Reg} {o : BitVec 11}
    (hi : exec i s = issue .plain 4 s (memLoad n f d a o)) (hp : s.xp a = false) (h : s.InCore (s.x a + o.signExtend 64).toNat n) :
    let bs := s.mem.read (s.cmOf s.cur.1 ((s.x a + o.signExtend 64).toNat - cmBase)) n
    Effects i s ((s.notePload s.cur.1 bs).setX d (f (leNat (bs.map PByte.b))) (bs.any PByte.p)) 4 := by
  refine effects_of hs hi ?_
  rw [memLoad, State.unlessPoison_of_clean hp, loadTo, State.addr, immS, h.load hc]
  rfl

/-- A scalar store to core memory. -/
theorem memStore_core (hs : s.Ready) (hc : s.tk.core < 1536) {i : Instr} {n : Nat} {b a : Reg} {o : BitVec 11}
    (hi : exec i s = issue .plain 4 s (memStore n b a o)) (hp : s.xp a = false) (h : s.InCore (s.x a + o.signExtend 64).toNat n) :
    Effects i s { s with mem := s.mem.write (s.cmOf s.cur.1 ((s.x a + o.signExtend 64).toNat - cmBase)) (pbytes n (s.x b).toNat (s.xp b)) } 4 := by
  refine effects_of hs hi ?_
  rw [memStore, State.unlessPoison_of_clean hp, State.addr, immS, h.store hc]
  rfl

end Scalar

/-- A part of O59. -/
theorem coreMemoryAccessesComplete : Stated.CoreMemoryAccessesComplete := by
  intro s hs a b o hp addr key hc
  have load {i : Instr} {n : Nat} {f : Nat → Word} (hi : exec i s = issue .plain 4 s (memLoad n f b a o)) (h : s.InCore addr n) :=
    memLoad_core hs hc hi hp h
  have store {i : Instr} {n : Nat} (hi : exec i s = issue .plain 4 s (memStore n b a o)) (h : s.InCore addr n) :=
    memStore_core hs hc hi hp h
  have signed {i : Instr} {n : Nat} (h0 : 0 < n) (h8 : n ≤ 8) (hi : exec i s = issue .plain 4 s (memLoad n (sextBytes n) b a o))
      (h : s.InCore addr n) := by
    have hl := memLoad_core hs hc hi hp h
    rwa [show sextBytes n = fun v => BitVec.ofInt 64 (toInt (8 * n) v) from funext (sext_eq_ofInt (by omega) (by omega))] at hl
  exact ⟨signed (n := 1) (by omega) (by omega) rfl, signed (n := 2) (by omega) (by omega) rfl, signed (n := 4) (by omega) (by omega) rfl,
    load rfl, load rfl, load rfl, load rfl, store rfl, store rfl, store rfl, store rfl⟩

end Sys2Proof.Machine

namespace Sys2Proof.Machine

/-! ### Lanes -/

theorem leNat_lt (bs : List Byte) : leNat bs < 256 ^ bs.length := by
  induction bs with
  | nil => exact Nat.one_pos
  | cons b bs ih =>
    have hb := b.isLt
    rw [leNat, List.length_cons, Nat.pow_succ']
    omega

/-- The lane that was written reads as written. -/
theorem Thread.lane_putLanes (s : State) (f : VX) (d : Reg) (new : Nat → Lane1) {i : Nat} (hi : i < laneN f) :
    ((s.thr.putLanes d (laneW f) ((List.range (laneN f)).map new)).lane d (laneW f) i).1 = (new i).1 % 2 ^ laneW f := by
  have h := (writesV_putLanes s d (laneW_width f) new 0 0).lane i hi
  rwa [State.thr_setThr] at h

theorem Thread.lanes_zipIdx_map (t : Thread) (r : Reg) (w : Nat) (g : Lane1 × Nat → Lane1) :
    (t.lanes r w).zipIdx.map g = (List.range (1024 / w)).map fun i => g (t.lane r w i, i) := by
  rw [Thread.lanes_eq]
  apply List.ext_getElem <;> simp

/-- Each lane that was loaded takes its value. -/
theorem vecLoaded_lane (s : State) (f : VX) {ls : List (Nat × Lane1)} {i : Nat} {l : Nat × Lane1} (hi : i < laneN f)
    (hl : ls.find? (fun l => l.1 == i) = some l) : ((vecLoaded f ls s).thr.lane f.vd (laneW f) i).1 = l.2.1 % 2 ^ laneW f := by
  simp only [vecLoaded, State.thr_setThr, Thread.lanes_zipIdx_map]
  refine (Thread.lane_putLanes s f f.vd _ hi).trans ?_
  simp only [hl]

section Active
variable {m : VAddr} {f : VX} {s : State}

/-- An active lane is a lane of the type. -/
theorem vecActive_lt {e : Nat × Nat × Lane1} (he : e ∈ vecActive m f s) : e.1 < laneN f := by
  simp only [vecActive, List.mem_map, List.mem_filter] at he
  obtain ⟨⟨x, i⟩, ⟨hx, -⟩, rfl⟩ := he
  have h := List.mem_zipIdx hx
  simp only [List.length_zip, Thread.active, List.length_map, List.length_range] at h
  omega

/-- The active lanes are distinct. -/
theorem vecActive_inj {e e' : Nat × Nat × Lane1} (he : e ∈ vecActive m f s) (he' : e' ∈ vecActive m f s) (h : e.1 = e'.1) : e = e' := by
  simp only [vecActive, List.mem_map, List.mem_filter] at he he'
  obtain ⟨⟨x, i⟩, ⟨hx, -⟩, rfl⟩ := he
  obtain ⟨⟨y, j⟩, ⟨hy, -⟩, rfl⟩ := he'
  obtain rfl : i = j := h
  have hx' := (List.mem_zipIdx hx).2.2
  have hy' := (List.mem_zipIdx hy).2.2
  rw [hx', hy']

/-- An active lane is found under its number. -/
theorem find_lane {L : List (Nat × Nat × Lane1)} {e : Nat × Nat × Lane1} (g : Nat × Nat × Lane1 → Lane1) (he : e ∈ L)
    (hinj : ∀ e' ∈ L, e'.1 = e.1 → e' = e) : (L.map fun e => (e.1, g e)).find? (fun l => l.1 == e.1) = some (e.1, g e) := by
  induction L with
  | nil => cases he
  | cons x L ih =>
    by_cases hx : x.1 = e.1
    · obtain rfl := hinj x List.mem_cons_self hx
      simp
    · have he' := List.mem_of_ne_of_mem (fun h => hx (congrArg Prod.fst h).symm) he
      simp [hx, ih he' fun e' h' => hinj e' (List.mem_cons_of_mem _ h')]

/-- The one address of vldb (R210). -/
theorem vecActive_once {e e' : Nat × Nat × Lane1} (he : e ∈ vecActive .once f s) (he' : e' ∈ vecActive .once f s) : e.2.1 = e'.2.1 := by
  have base {e : Nat × Nat × Lane1} (he : e ∈ vecActive .once f s) : e.2.1 = (vecBase f s).toNat := by
    simp only [vecActive, List.mem_map, List.mem_filter] at he
    obtain ⟨⟨⟨a, l⟩, i⟩, ⟨hx, -⟩, rfl⟩ := he
    have ha := (List.of_mem_zip (List.fst_mem_of_mem_zipIdx hx)).1
    exact List.eq_of_mem_replicate ha
  rw [base he, base he']

end Active
/-! ### The checks of a vector access (R211) -/

/-- A lane with its piece of core memory. -/
def State.coreLane (s : State) (n : Nat) (e : Nat × Nat × Lane1) : Nat × Nat × Lane1 × List Piece :=
  (e.1, e.2.1, e.2.2, [s.corePiece n e.2.1])

section Checks
variable {s : State} {n : Nat} {es : List (Nat × Nat × Lane1)}

theorem vecCheck_core {k : Acc} (h : ∀ e ∈ es, s.InCore e.2.1 n ∧ (k = .atomic → e.2.1 % n = 0)) :
    vecCheck k n es s = (s, .ok (es.map (s.coreLane n))) := by
  induction es with
  | nil => rfl
  | cons e es ih =>
    obtain ⟨he, hal⟩ := h e List.mem_cons_self
    simp only [vecCheck, he.check k false hal, ih fun e' h' => h e' (List.mem_cons_of_mem _ h'), List.map_cons, State.coreLane]

theorem firstFault_core (h : ∀ e ∈ es, s.InCore e.2.1 n) : firstFault n es s = (s, .ok (es.map (s.coreLane n))) := by
  induction es with
  | nil => rfl
  | cons e es ih =>
    have he := (h e List.mem_cons_self).check .load false nofun
    simp only [firstFault, he, ih fun e' h' => h e' (List.mem_cons_of_mem _ h'), List.map_cons, State.coreLane]

/-- Poisoned data may go to core memory (R217 check 11). -/
theorem laterChecks_core (k : Acc) (p : Bool) (a : Nat) : s.laterChecks k n p [s.corePiece n a] = none := by
  simp [State.laterChecks, State.checksFrom, firstBad, State.corePiece]

theorem vecDataCheck_core (k : Acc) : vecDataCheck k n s (es.map (s.coreLane n)) = none := by
  simp only [vecDataCheck, List.findSome?_eq_none_iff, List.mem_map]
  rintro _ ⟨e, -, rfl⟩
  split
  · exact laterChecks_core k true e.2.1
  · rfl

/-- A vector access whose active lanes lie in core memory goes on with all of them. -/
theorem vecAccess_core {k : Acc} {m : VAddr} {f : VX} (hp : vecPois m f s = false)
    (h : ∀ e ∈ vecActive m f s, s.InCore e.2.1 (laneW f / 8) ∧ (k = .atomic → e.2.1 % (laneW f / 8) = 0))
    (go : State → List (Nat × Nat × Lane1 × List Piece) → State × Res) :
    vecAccess k m f s go = go s ((vecActive m f s).map (s.coreLane (laneW f / 8))) := by
  have hd : (if k == .load then none else vecDataCheck k (laneW f / 8) s ((vecActive m f s).map (s.coreLane (laneW f / 8)))) = none := by
    rw [vecDataCheck_core]
    exact ite_self none
  by_cases he : (vecActive m f s).isEmpty = true
  · simp [vecAccess, List.isEmpty_iff.mp he]
  · simp only [vecAccess, he, hp, vecCheck_core h, hd, Bool.false_eq_true, if_false]

end Checks

/-! ### An instruction that leaves its thread's scalar state -/

/-- The current thread is READY behind an instruction of 8 bytes, its x registers and flags as before. -/
def State.GoesOn8 (s t : State) : Prop := t.thr.st = .ready ∧ t.thr.pc = s.thr.pc + 8 ∧ t.thr.x = s.thr.x ∧ t.thr.tflags = s.thr.tflags

/-- The current thread keeps its x registers, flags and pc, and its core is the same. -/
structure State.Undisturbed (s r : State) : Prop where
  cur    : r.cur = s.cur
  cores  : r.cores = s.cores
  core   : (r.task s.cur.1).core = (s.task s.cur.1).core
  x      : (r.thread s.cur.1 s.cur.2).x = (s.thread s.cur.1 s.cur.2).x
  tflags : (r.thread s.cur.1 s.cur.2).tflags = (s.thread s.cur.1 s.cur.2).tflags
  pc     : (r.thread s.cur.1 s.cur.2).pc = (s.thread s.cur.1 s.cur.2).pc

namespace State.Undisturbed
variable {s r u : State}

theorem refl (s : State) : s.Undisturbed s := ⟨rfl, rfl, rfl, rfl, rfl, rfl⟩

theorem trans (h : s.Undisturbed r) (h' : r.Undisturbed u) : s.Undisturbed u := by
  obtain ⟨hcur, hcores, hcore, hx, hf, hpc⟩ := h
  obtain ⟨hcur', hcores', hcore', hx', hf', hpc'⟩ := h'
  rw [hcur] at hcur' hcore' hx' hf' hpc'
  exact ⟨hcur', hcores'.trans hcores, hcore'.trans hcore, hx'.trans hx, hf'.trans hf, hpc'.trans hpc⟩

theorem setThr {t : Thread} (hx : t.x = s.thr.x) (hf : t.tflags = s.thr.tflags) (hpc : t.pc = s.thr.pc) : s.Undisturbed (s.setThr t) := by
  have ht : (s.setThr t).thread s.cur.1 s.cur.2 = t := State.thr_setThr s t
  refine ⟨rfl, rfl, ?_, (congrArg Thread.x ht).trans hx, (congrArg Thread.tflags ht).trans hf, (congrArg Thread.pc ht).trans hpc⟩
  simp [State.setThr, State.setThread, Task.setThread, Task.core]

theorem ofMem (s : State) (m : Memory) : s.Undisturbed { s with mem := m } := ⟨rfl, rfl, rfl, rfl, rfl, rfl⟩

theorem writeWin (s : State) (key : Nat) (bs : List PByte) : s.Undisturbed (s.writeWin key bs) := by
  unfold State.writeWin
  split
  · exact refl s
  · exact ofMem s _

theorem notePload (s : State) (bs : List PByte) : s.Undisturbed (s.notePload s.cur.1 bs) := by
  unfold State.notePload
  split
  · refine ⟨rfl, rfl, ?_, ?_, ?_, ?_⟩ <;> simp [State.thread, Task.thread, Task.core]
  · exact refl s

/-- Such an instruction ends with its thread READY behind it. -/
theorem ends (hs : s.Ready) (h : s.Undisturbed r) {i : Instr} {c : Class} {f : State → State × Res} (hi : exec i s = issue c 8 s f)
    (hf : f s = (r, .done)) :
    ∃ t, exec i s = .next t ∧ s.GoesOn8 t ∧ t.mem = r.mem ∧ t.thr.v = r.thr.v := by
  obtain ⟨hcur, hcores, hcore, hx, htf, hpc⟩ := h
  have hthr : r.thr = r.thread s.cur.1 s.cur.2 := by rw [State.thr, hcur]
  have hret : s.retired r 8 = r.setThr (r.thr.after 8) := by
    refine State.holdIfStopping_of_not _ _ _ ?_
    have hplace : ((r.setThr (r.thr.after 8)).task s.cur.1).core = s.tk.core := by
      rw [State.setThr, hcur, State.task_setThread_self, Task.setThread_core, hcore]
      rfl
    rw [hplace, State.core_setThr, State.core, hcores]
    exact hs.debug
  refine ⟨r.setThr (r.thr.after 8), ?_, ?_⟩
  · rw [← hret]
    exact effects_of hs hi hf
  · rw [State.GoesOn8, State.thr_setThr, hthr]
    exact ⟨⟨rfl, congrArg (· + 8) hpc, hx, htf⟩, rfl, rfl⟩

end State.Undisturbed

/-! ### Vector loads (R210, R213) -/

/-- The lane that a load of n bytes from core memory gives. -/
def State.coreLoad (s : State) (n : Nat) (e : Nat × Nat × Lane1) : Lane1 :=
  let bs := s.mem.read (s.cmOf s.cur.1 (e.2.1 - cmBase)) n
  (leNat (bs.map PByte.b), bs.any PByte.p)

section Loads
variable {s : State} {n : Nat}

theorem vecLoads_core (hc : s.tk.core < 1536) {es : List (Nat × Nat × Lane1)} (h : ∀ e ∈ es, s.InCore e.2.1 n) :
    ∃ bs, vecLoads (es.map (s.coreLane n)) s = (s, .bytes bs, es.map fun e => (e.1, s.coreLoad n e)) := by
  induction es with
  | nil => exact ⟨[], rfl⟩
  | cons e es ih =>
    obtain ⟨cs, hcs⟩ := ih fun e' h' => h e' (List.mem_cons_of_mem _ h')
    refine ⟨s.mem.read (s.cmOf s.cur.1 (e.2.1 - cmBase)) n ++ cs, ?_⟩
    have he : s.loadPieces s.cur.1 s.cur.2 (s.coreLane n e).2.2.2 = (s, .bytes (s.mem.read (s.cmOf s.cur.1 (e.2.1 - cmBase)) n)) := by
      simp only [State.coreLane, State.loadPieces, State.corePiece, State.loadPiece, (h e List.mem_cons_self).readWin hc, List.append_nil]
    simp only [List.map_cons, vecLoads, he, hcs]
    rfl

theorem vecLoaded_undisturbed (s : State) (f : VX) (ls : List (Nat × Lane1)) : s.Undisturbed (vecLoaded f ls s) := .setThr rfl rfl rfl

/-- A load's bytes fill the lane. -/
theorem coreLoad_mod (f : VX) {i : Nat} (hi : i < laneN f) (e : Nat × Nat × Lane1) :
    (s.coreLoad (laneW f / 8) e).1 % 2 ^ laneW f = (s.coreLoad (laneW f / 8) e).1 := by
  have hw : 2 ^ laneW f = 256 ^ (laneW f / 8) := by
    rcases laneW_width f with h | h | h | h | h <;> rw [h] <;> simp [laneN, h] at hi ⊢
  have hlen : ((s.mem.read (s.cmOf s.cur.1 (e.2.1 - cmBase)) (laneW f / 8)).map PByte.b).length = laneW f / 8 := by simp [Memory.read]
  exact Nat.mod_eq_of_lt ((leNat_lt _).trans_eq (by rw [hlen, hw]))

end Loads

section Vector
variable {s : State} {f : VX} {i : Instr}

theorem Thread.setP_scalars (t : Thread) (r : Nat) (v : PReg) :
    (t.setP r v).x = t.x ∧ (t.setP r v).tflags = t.tflags ∧ (t.setP r v).pc = t.pc ∧ (t.setP r v).v = t.v := by
  unfold Thread.setP
  split <;> exact ⟨rfl, rfl, rfl, rfl⟩

theorem Thread.lane_of_v {t u : Thread} (h : t.v = u.v) (r : Reg) (w j : Nat) : (t.lane r w j).1 = (u.lane r w j).1 := by
  simp only [Thread.lane, Thread.vr, h]

/-- The active lanes of an access lie in core memory, and nothing that it needs is poisoned. -/
def State.CoreLanes (s : State) (m : VAddr) (f : VX) : Prop :=
  vecPois m f s = false ∧ ∀ e ∈ vecActive m f s, s.InCore e.2.1 (laneW f / 8)

/-- The instruction completes, changes no memory, and gives each active lane what core memory holds for it. -/
def LoadsCoreLanes (i : Instr) (s : State) (m : VAddr) (f : VX) : Prop :=
  ∃ t, exec i s = .next t ∧ s.GoesOn8 t ∧ t.mem = s.mem
    ∧ ∀ e ∈ vecActive m f s, (t.thr.lane f.vd (laneW f) e.1).1 = (s.coreLoad (laneW f / 8) e).1

/-- An instruction that loads the active lanes: g gives each what core memory holds for it, and r is the state after it, in which a
predicate may have changed. -/
theorem loads_end (hs : s.Ready) {m : VAddr} {g : Nat × Nat × Lane1 → Lane1} {bs : List PByte} {k : State → State × Res} {r : State}
    (hi : exec i s = issue .barred 8 s k) (hg : ∀ e ∈ vecActive m f s, g e = s.coreLoad (laneW f / 8) e)
    (hk : k s = (r, .done)) {u : State} (hu : u = vecLoaded f ((vecActive m f s).map fun e => (e.1, g e)) (s.notePload s.cur.1 bs))
    (hr : u.Undisturbed r) (hv : r.thr.v = u.thr.v) (hm : r.mem = u.mem) :
    LoadsCoreLanes i s m f := by
  have hsu : s.Undisturbed u := hu ▸ (State.Undisturbed.notePload s bs).trans (vecLoaded_undisturbed _ f _)
  obtain ⟨t, ht, hends, htm, htv⟩ := (hsu.trans hr).ends hs hi hk
  refine ⟨t, ht, hends, ?_, fun e he => ?_⟩
  · rw [htm, hm, hu]
    unfold State.notePload
    split <;> rfl
  · have hfind := find_lane g he fun e' he' h => vecActive_inj he' he h
    rw [Thread.lane_of_v (htv.trans hv), hu, vecLoaded_lane _ f (vecActive_lt he) hfind, hg e he, coreLoad_mod f (vecActive_lt he)]

theorem vecLoad_core (hs : s.Ready) (hc : s.tk.core < 1536) {m : VAddr} (hi : exec i s = issue .barred 8 s (vecLoad m f)) (h : s.CoreLanes m f) :
    LoadsCoreLanes i s m f := by
  obtain ⟨hp, hin⟩ := h
  obtain ⟨bs, hbs⟩ := vecLoads_core hc hin
  refine loads_end hs (bs := bs) hi (fun _ _ => rfl) ?_ rfl (.refl _) rfl rfl
  rw [vecLoad, vecAccess_core (k := .load) hp fun e he => ⟨hin e he, nofun⟩]
  simp only [hbs]

theorem vecLoadOnce_core (hs : s.Ready) (hc : s.tk.core < 1536) (hi : exec i s = issue .barred 8 s (vecLoadOnce f)) (h : s.CoreLanes .once f) :
    LoadsCoreLanes i s .once f := by
  obtain ⟨hp, hin⟩ := h
  obtain ⟨bs, hbs⟩ := vecLoads_core hc (es := (vecActive .once f s).take 1) fun e he => hin e (List.mem_of_mem_take he)
  refine loads_end hs (bs := bs) (g := fun _ => (((vecActive .once f s).take 1).head?.map fun e => s.coreLoad (laneW f / 8) e).getD (0, false))
    hi (fun e he => ?_) ?_ rfl (.refl _) rfl rfl
  · cases hl : vecActive .once f s with
    | nil => simp [hl] at he
    | cons e' es =>
      have := vecActive_once he (hl ▸ List.mem_cons_self)
      simp [State.coreLoad, this]
  · rw [vecLoadOnce, vecAccess_core (k := .load) hp fun e he => ⟨hin e he, nofun⟩]
    simp only [← List.map_take, hbs, List.head?_map, Option.map_map, List.map_map]
    rfl

theorem vecLoadFirst_core (hs : s.Ready) (hc : s.tk.core < 1536) (hi : exec i s = issue .barred 8 s (vecLoadFirst f)) (h : s.CoreLanes .unit f) :
    LoadsCoreLanes i s .unit f := by
  obtain ⟨hp, hin⟩ := h
  obtain ⟨bs, hbs⟩ := vecLoads_core hc hin
  have hfirst : vecFirst f s = (s, .ok ((vecActive .unit f s).map (s.coreLane (laneW f / 8)))) := by
    cases hl : vecActive .unit f s with
    | nil => simp only [vecFirst, hl, List.map_nil]
    | cons e es =>
      rw [hl] at hin
      have he := vecCheck_core (k := .load) (es := [e]) fun e' he' => ⟨hin e' (List.mem_cons.mpr (.inl (List.mem_singleton.mp he'))), nofun⟩
      simp only [vecFirst, hl, hp, he, firstFault_core fun e' he' => hin e' (List.mem_cons_of_mem _ he'), Bool.false_eq_true, if_false]
      rfl
  have hset (u : State) (v : PReg) : u.Undisturbed (u.setThr (u.thr.setP f.vc.toNat v)) ∧ (u.setThr (u.thr.setP f.vc.toNat v)).thr.v = u.thr.v := by
    obtain ⟨hx, hf, hpc, hv⟩ := u.thr.setP_scalars f.vc.toNat v
    exact ⟨.setThr hx hf hpc, by rw [State.thr_setThr, hv]⟩
  obtain ⟨v, hk⟩ : ∃ v, vecLoadFirst f s = ((vecLoaded f ((vecActive .unit f s).map fun e => (e.1, s.coreLoad (laneW f / 8) e))
      (s.notePload s.cur.1 bs)).setThr (Thread.setP _ f.vc.toNat v), .done) := by
    rw [vecLoadFirst, hfirst]
    simp only [hbs]
    exact ⟨_, rfl⟩
  exact loads_end hs hi (fun _ _ => rfl) hk rfl (hset _ v).1 (hset _ v).2 rfl

/-! ### Vector stores (R212) -/

/-- The bytes that a store's lane puts in core memory. -/
def laneBytes (n : Nat) (e : Nat × Nat × Lane1) : List PByte := pbytes n e.2.2.1 e.2.2.2

/-- Memory after the stores of some lanes, in order. -/
def State.coreStores (s : State) (n : Nat) (es : List (Nat × Nat × Lane1)) (m : Memory) : Memory :=
  es.foldl (fun m e => m.write (s.cmOf s.cur.1 (e.2.1 - cmBase)) (laneBytes n e)) m

/-- Elements in core memory are written at once, each to its bytes. -/
theorem storePieces_core (hc : s.tk.core < 1536) {n : Nat} (m : Memory) (l : List StorePart) {es : List (Nat × Nat × Lane1)}
    (h : ∀ e ∈ es, s.InCore e.2.1 n) :
    (es.map fun e => (e.2.1, [s.corePiece n e.2.1], laneBytes n e)).foldl (fun (a : State × List StorePart) e =>
      ((storePieces a.1 e.1 e.2.1 e.2.2).1, a.2 ++ (storePieces a.1 e.1 e.2.1 e.2.2).2)) ({ s with mem := m }, l) =
      ({ s with mem := s.coreStores n es m }, l) := by
  induction es generalizing m with
  | nil => rfl
  | cons e es ih =>
    have he : ({ s with mem := m } : State).InCore e.2.1 n := h e List.mem_cons_self
    have hw := he.writeWin hc (laneBytes n e)
    have ht : (laneBytes n e).take n = laneBytes n e := List.take_of_length_le (pbytes_length ..).le
    simp only [List.map_cons, List.foldl_cons, State.corePiece, storePieces, ht, List.append_nil]
    refine (congrArg (fun u => List.foldl _ (u, l) _) hw).trans ?_
    exact ih _ fun e' h' => h e' (List.mem_cons_of_mem _ h')

theorem storeChecked_core (hc : s.tk.core < 1536) {n : Nat} {es : List (Nat × Nat × Lane1)} (h : ∀ e ∈ es, s.InCore e.2.1 n) :
    s.storeChecked s.cur.1 s.cur.2 (es.map fun e => (e.2.1, [s.corePiece n e.2.1], laneBytes n e)) =
      ({ s with mem := s.coreStores n es s.mem }, .bytes []) := by
  have hfold := storePieces_core hc s.mem [] h
  unfold State.storeChecked
  dsimp only
  rw [if_neg (by simp [State.corePiece]), hfold]
  rfl

/-- A vector store to core memory writes its lanes in ascending order. -/
theorem vecStore_core (hs : s.Ready) (hc : s.tk.core < 1536) {m : VAddr} (hi : exec i s = issue .barred 8 s (vecStore m f)) (h : s.CoreLanes m f) :
    ∃ t, exec i s = .next t ∧ s.GoesOn8 t ∧ t.thr.v = s.thr.v ∧ t.mem = s.coreStores (laneW f / 8) (vecActive m f s) s.mem := by
  obtain ⟨hp, hin⟩ := h
  have hk : vecStore m f s = ({ s with mem := s.coreStores (laneW f / 8) (vecActive m f s) s.mem }, .done) := by
    rw [vecStore, vecAccess_core (k := .store) hp fun e he => ⟨hin e he, nofun⟩]
    have hst := storeChecked_core hc hin
    by_cases he : vecActive m f s = []
    · simp [he, State.coreStores]
    · rw [if_neg (by simpa using he), List.map_map]
      exact congrArg (Got.bind · _) hst
  obtain ⟨t, ht, hends, hm, hv⟩ := (State.Undisturbed.ofMem s _).ends hs hi hk
  exact ⟨t, ht, hends, hv, hm⟩

/-! ### Vector atomics (R215) -/

/-- Lanes whose only piece lies in core memory. -/
def InWindow (es : List (Nat × Nat × Lane1 × List Piece)) : Prop := ∀ e ∈ es, ∃ va n key, e.2.2.2 = [.win va n key]

theorem amoOrder_inWindow {es : List (Nat × Nat × Lane1 × List Piece)} (fuel : Nat) (h : InWindow es) : InWindow (s.amoOrder es fuel) := by
  fun_induction State.amoOrder s es fuel with
  | case1 => exact nofun
  | case2 => exact nofun
  | case3 fuel e es same ih =>
    have htail (p : Nat × Nat × Lane1 × List Piece → Bool) : InWindow (es.filter p) :=
      fun x hx => h x (List.mem_cons_of_mem _ (List.mem_filter.mp hx).1)
    intro x hx
    rcases List.mem_append.mp hx with hx | hx
    · rcases List.mem_cons.mp hx with rfl | hx
      · exact h _ List.mem_cons_self
      · exact htail _ x hx
    · exact ih (htail _) x hx

/-- Atomics in core memory are all performed, and the thread keeps its scalar state. -/
theorem vecAmosFrom_core (op : Nat) {es : List (Nat × Nat × Lane1 × List Piece)} (h : InWindow es)
    (prev : Option ((Nat × Nat × Lane1 × List Piece) × List PByte)) (s : State) :
    ∃ r bs ls, vecAmosFrom op prev es s = (r, .bytes bs, ls) ∧ s.Undisturbed r := by
  induction es generalizing prev s with
  | nil => exact ⟨s, [], [], rfl, .refl s⟩
  | cons e es ih =>
    obtain ⟨va, n, key, he⟩ := h e List.mem_cons_self
    have htail : InWindow es := fun x hx => h x (List.mem_cons_of_mem _ hx)
    cases hg : s.thr.gotAt (amoTag e.1) with
    | some bs =>
      obtain ⟨r, cs, ls, hr, hu⟩ := ih htail (some (e, bs)) s
      simp only [vecAmosFrom, hg, Option.isSome_some, if_true, hr]
      exact ⟨_, _, _, rfl, hu⟩
    | none =>
      have hprev : prev.bind (fun x => s.laneAfter op x.1 e x.2) = none := by
        cases prev <;> simp [State.laneAfter, he]
      simp only [vecAmosFrom, hg, hprev, he, State.atomicPiece]
      generalize hbs : s.readWin key n = bs
      generalize hu : s.writeWin key _ = u
      have hsu : s.Undisturbed u := hu ▸ State.Undisturbed.writeWin s key _
      have huw : u.Undisturbed (if (u.thr.gotAt (amoTag e.1)).isSome = true then u
          else u.setThr { u.thr with got := u.thr.got ++ [(amoTag e.1, bs)] }) := by
        split
        · exact .refl u
        · exact .setThr rfl rfl rfl
      obtain ⟨r, cs, ls, hr, hwr⟩ := ih htail (some (e, bs)) (if (u.thr.gotAt (amoTag e.1)).isSome = true then u
          else u.setThr { u.thr with got := u.thr.got ++ [(amoTag e.1, bs)] })
      simp only [hr]
      exact ⟨_, _, _, rfl, (hsu.trans huw).trans hwr⟩

theorem vecAmos_core (op : Nat) (s : State) {es : List (Nat × Nat × Lane1 × List Piece)} (h : InWindow es) :
    ∃ r bs ls, vecAmos op es s = (r, .bytes bs, ls) ∧ s.Undisturbed r :=
  vecAmosFrom_core op (amoOrder_inWindow es.length h) none s

theorem vecAmo_core (hs : s.Ready) (op : Nat) (hi : exec i s = issue .barred 8 s (vecAmo op f)) (h : s.CoreLanes .index f)
    (hal : ∀ e ∈ vecActive .index f s, e.2.1 % (laneW f / 8) = 0) : ∃ t, exec i s = .next t ∧ s.GoesOn8 t := by
  obtain ⟨hp, hin⟩ := h
  have hwin : InWindow ((vecActive .index f s).map (s.coreLane (laneW f / 8))) := by
    rintro _ hx
    obtain ⟨e, -, rfl⟩ := List.mem_map.mp hx
    exact ⟨_, _, _, rfl⟩
  obtain ⟨r, bs, ls, hr, hu⟩ := vecAmos_core op s hwin
  have hk : vecAmo op f s = (vecLoaded f ls r, .done) := by
    rw [vecAmo, vecAccess_core (k := .atomic) hp fun e he => ⟨hin e he, fun _ => hal e he⟩]
    have hbar : ((vecActive .index f s).map (s.coreLane (laneW f / 8))).find?
        (fun e => (s.thr.gotAt (amoTag e.1)).isNone && s.amoBarred e.2.2.2) = none := by
      simp [State.coreLane, State.amoBarred, State.corePiece]
    simp only [hbar, hr]
  obtain ⟨t, ht, hends, -, -⟩ := (hu.trans (vecLoaded_undisturbed r f ls)).ends hs hi hk
  exact ⟨t, ht, hends⟩

end Vector

/-- A part of O59. -/
theorem vectorCoreMemoryAccessesComplete : Stated.VectorCoreMemoryAccessesComplete := by
  intro s hs hc f
  exact ⟨vecLoad_core hs hc rfl, vecLoad_core hs hc rfl, vecLoad_core hs hc rfl, vecLoadOnce_core hs hc rfl, vecLoadFirst_core hs hc rfl,
    vecStore_core hs hc rfl, vecStore_core hs hc rfl, vecStore_core hs hc rfl, vecStore_core hs hc rfl,
    vecAmo_core hs 0 rfl, vecAmo_core hs 1 rfl, vecAmo_core hs 2 rfl, vecAmo_core hs _ rfl, vecAmo_core hs _ rfl⟩

/-- Settles O59: the parts above. -/
theorem coreMemoryIsAccessedAtOnce : Obligations.CoreMemoryIsAccessedAtOnce := ⟨coreMemoryAccessesComplete, vectorCoreMemoryAccessesComplete⟩

end Sys2Proof.Machine

/-! ## Contexts, faults and misses -/

namespace Sys2Proof.Machine

/-! ### Contexts -/

/-- A part of O29: the conditions of creation, registration and activation, and what each gives. -/
theorem contextsAreBuilt : Stated.ContextsAreBuilt := by
  intro s ctx
  refine ⟨?_, ?_, ?_, ?_⟩
  · intro d held hready hlink hcont hctx hfree hwalk hdesc
    refine congrArg Host.Outcome.next (if_neg ?_)
    grind
  · intro d held h
    refine congrArg Host.Outcome.next (if_pos ?_)
    grind
  · intro q ring logq cap hst hq hring hreg hlo hhi hcap
    refine congrArg Host.Outcome.next (if_neg ?_)
    rcases hreg with hreg | hreg <;> simp only [hst, hring, hreg] <;> grind
  · intro att hst
    refine ⟨fun hq => ?_, fun hq hatt => ?_, fun hatt hconf => ?_⟩
    · exact congrArg Host.Outcome.next (if_neg (by simp [hq]))
    · exact congrArg Host.Outcome.next (if_pos (by rcases hatt with hatt | hatt <;> simp [hst, hq, hatt]))
    · exact congrArg Host.Outcome.next (if_neg (by simp [hatt, hconf]))

/-- What a suspension leaves while it halts the running tasks one after another: who runs where, stops, halts and messages that are there
already, and the contexts. -/
structure State.KeepsHalts (s t : State) : Prop where
  ctxs : t.ctxs = s.ctxs
  place : ∀ tid c sh, (s.task tid).place = .running c sh → (t.task tid).place = .running c sh
  run : ∀ c, (t.core c).run = (s.core c).run
  dbgStop : ∀ c, (t.core c).dbgStop = (s.core c).dbgStop
  preempt : ∀ c, (s.core c).preempt = true → (t.core c).preempt = true
  msgs : ∀ c, (s.core c).msgs ⊆ (t.core c).msgs

namespace State.KeepsHalts
variable {s t u : State}

theorem refl (s : State) : s.KeepsHalts s :=
  ⟨rfl, fun _ _ _ => id, fun _ => rfl, fun _ => rfl, fun _ => id, fun _ => List.Subset.refl _⟩

theorem trans (h : s.KeepsHalts t) (k : t.KeepsHalts u) : s.KeepsHalts u where
  ctxs := k.ctxs.trans h.ctxs
  place tid c sh hp := k.place tid c sh (h.place tid c sh hp)
  run c := (k.run c).trans (h.run c)
  dbgStop c := (k.dbgStop c).trans (h.dbgStop c)
  preempt c hp := k.preempt c (h.preempt c hp)
  msgs c := List.Subset.trans (h.msgs c) (k.msgs c)

theorem foldl {β : Type} {f : State → β → State} (h : ∀ (s : State) b, s.KeepsHalts (f s b)) (l : List β) (s : State) :
    s.KeepsHalts (l.foldl f s) := by
  induction l generalizing s with
  | nil => exact refl s
  | cons b l ih =>
    rw [List.foldl_cons]
    exact (h s b).trans (ih _)

/-- Another core's state, with what it runs, its stop, its halt and its messages kept. -/
theorem setCore {k : Core} (n : Nat) (hrun : k.run = (s.core n).run) (hstop : k.dbgStop = (s.core n).dbgStop)
    (hpre : (s.core n).preempt = true → k.preempt = true) (hmsgs : (s.core n).msgs ⊆ k.msgs) : s.KeepsHalts (s.setCore n k) := by
  refine ⟨rfl, fun _ _ _ => id, ?_, ?_, ?_, ?_⟩ <;> intro c <;> rw [State.core_setCore] <;> split <;> simp_all

/-- A task that does not run may get another place. -/
theorem setTask {k : Task} (n : Nat) (h : ∀ c sh, (s.task n).place = .running c sh → k.place = .running c sh) :
    s.KeepsHalts (s.setTask n k) := by
  refine ⟨rfl, fun tid c sh hp => ?_, fun _ => rfl, fun _ => rfl, fun _ => id, fun _ => List.Subset.refl _⟩
  rw [State.task_setTask]
  split
  case isTrue heq => exact h c sh (heq ▸ hp)
  case isFalse => exact hp

end State.KeepsHalts

section
variable (s : State)

theorem State.dropReplicas_keepsHalts (ls) : s.KeepsHalts (s.dropReplicas ls) :=
  ⟨rfl, fun _ _ _ => id, fun _ => rfl, fun _ => rfl, fun _ => id, fun _ => List.Subset.refl _⟩

theorem State.KeepsHalts.mem (m : Memory) (f : Nat) : s.KeepsHalts { s with mem := m, free := f } :=
  ⟨rfl, fun _ _ _ => id, fun _ => rfl, fun _ => rfl, fun _ => id, fun _ => List.Subset.refl _⟩

theorem State.footToFrame_keepsHalts (tid) : s.KeepsHalts (s.footToFrame tid) := by
  unfold State.footToFrame
  dsimp only
  split
  case h_1 hplace =>
    refine State.KeepsHalts.trans (.foldl (fun s off => s.dropReplicas_keepsHalts _) (s.task tid).lrec.footPages s)
      (.trans (.setTask tid ?_) (.mem _ _ _))
    have htask := foldl_keeps (g := fun u : State => u.task tid) (l := (s.task tid).lrec.footPages)
      (f := fun u off => u.dropReplicas (linesOf ((s.task tid).frameAddr off) 4096)) (fun _ _ _ => rfl) s
    intro c sh hp
    exact absurd (hplace.symm.trans ((congrArg Task.place htask).symm.trans hp)) nofun
  case h_2 => exact .refl s

theorem State.stateToFrame_keepsHalts (tid) : s.KeepsHalts (s.stateToFrame tid) := by
  unfold State.stateToFrame
  refine State.KeepsHalts.trans (State.KeepsHalts.trans (State.KeepsHalts.trans ?_ (.mem _ _ _)) (.setTask tid ?_)) (State.footToFrame_keepsHalts _ _)
  · exact State.dropReplicas_keepsHalts s _
  · exact fun _ _ => id

theorem State.queueMsg_msgs (core m) : m ∈ ((s.queueMsg core m).core core).msgs := by
  unfold State.queueMsg
  grind [State.core_setCore_self, List.contains_iff_mem]

theorem State.queueMsg_keepsHalts (core m) : s.KeepsHalts (s.queueMsg core m) := by
  unfold State.queueMsg
  dsimp only
  split
  · exact .refl s
  · exact .setCore core rfl rfl id (List.subset_append_left _ _)

theorem State.halt_keepsHalts (core) : s.KeepsHalts (s.halt core) := by
  unfold State.halt
  dsimp only
  split_ifs
  · exact .refl s
  · exact s.queueMsg_keepsHalts core .halt
  · exact .setCore core rfl rfl (fun _ => rfl) (List.Subset.refl _)

/-- A halt reaches a running task: its core saves it, or has the message in its queue (R362, R492). -/
theorem State.halt_halts {core : Nat} (hrun : (s.core core).run.isSome = true) :
    ((s.core core).dbgStop = false → ((s.halt core).core core).preempt = true) ∧
    ((s.core core).dbgStop = true → CoreMsg.halt ∈ ((s.halt core).core core).msgs) := by
  unfold State.halt
  refine ⟨fun hstop => ?_, fun hstop => ?_⟩
  · simp [hstop, Option.isNone_eq_false_iff.mpr hrun]
  · simpa [hstop, Option.isNone_eq_false_iff.mpr hrun] using s.queueMsg_msgs core .halt

theorem State.setEntry_keepsHalts (core sh e t) : s.KeepsHalts (s.setCore core ((s.core core).setEntry sh e t)) := by
  cases sh <;> exact .setCore core rfl rfl id (List.Subset.refl _)

theorem State.suspendTask_keepsHalts (tid) : s.KeepsHalts (s.suspendTask tid) := by
  unfold State.suspendTask
  dsimp only
  split
  case h_1 c _ _ => exact s.halt_keepsHalts c
  case h_2 c sh fr _ =>
    have hfoot : s.KeepsHalts (if (fr && !(s.task tid).stored) = true then s else s.stateToFrame tid) := by
      split
      · exact .refl s
      · exact s.stateToFrame_keepsHalts tid
    generalize (if (fr && !(s.task tid).stored) = true then s else s.stateToFrame tid) = u at hfoot ⊢
    refine if hidle : ((s.task tid).fresh || !(s.task tid).alive) = true then ?_ else ?_
    · rw [if_pos hidle]
      exact .refl s
    · rw [if_neg hidle]
      split
      · exact hfoot.trans (u.setEntry_keepsHalts c sh none none)
      · exact hfoot
  case h_3 => exact .refl s

theorem State.suspendTask_of_running {tid c : Nat} {sh : Bool} (h : (s.task tid).place = .running c sh) : s.suspendTask tid = s.halt c := by
  simp only [State.suspendTask, h]

/-- Suspending tasks one after another halts those that run. -/
theorem State.suspendTasks_halt {tid c : Nat} {sh : Bool} (l : List Nat) (hl : tid ∈ l) (hp : (s.task tid).place = .running c sh)
    (hrun : (s.core c).run = some tid) : ((s.core c).dbgStop = false → ((l.foldl State.suspendTask s).core c).preempt = true) ∧
      ((s.core c).dbgStop = true → CoreMsg.halt ∈ ((l.foldl State.suspendTask s).core c).msgs) := by
  obtain ⟨before, after, rfl⟩ := List.append_of_mem hl
  rw [List.foldl_append, List.foldl_cons]
  have hbefore := State.KeepsHalts.foldl State.suspendTask_keepsHalts before s
  generalize before.foldl State.suspendTask s = u at hbefore ⊢
  rw [u.suspendTask_of_running (hbefore.place tid c sh hp), ← hbefore.dbgStop c]
  have hafter := State.KeepsHalts.foldl State.suspendTask_keepsHalts after (u.halt c)
  obtain ⟨hpre, hmsg⟩ := u.halt_halts (by rw [hbefore.run c, hrun]; rfl)
  exact ⟨fun h => hafter.preempt c (hpre h), fun h => hafter.msgs c (hmsg h)⟩

end

/-- A map whose values are replaced one by one reads the replaced value, and its default where that is replaced by itself. -/
theorem AMap.get_map_of_value {α : Type} {g : Nat × α → Nat × α} {f : α → α} {d : α} (hg : ∀ x, g x = (x.1, f x.2)) (hd : f d = d)
    (m : AMap α) (k : Nat) : AMap.get (m.map g) k d = f (AMap.get m k d) := by
  induction m with
  | nil => exact hd.symm
  | cons x m ih => rw [List.map_cons, hg x, AMap.get, AMap.get, ih]; split <;> rfl

/-- A cluster whose banks a context has given up (R290). -/
def Cluster.freedOf (ctx : Nat) (k : Cluster) : Cluster :=
  if k.bankCtx == ctx + 1 then { k with loaded := 0, bankPois := 0, bankCtx := 0 } else k

/-- A part of O29: suspension, resumption, destruction and the end of a teardown. -/
theorem contextsChangeState : Stated.ContextsChangeState := by
  intro s ctx
  refine ⟨fun hst => ?_, fun hst => ?_, fun hst hended => ?_, fun hst hdone => ?_, fun _ hdone => ?_⟩
  · refine ⟨(s.ctxTasks ctx).foldl State.suspendTask (s.setCtx ctx { s.ctx ctx with st := .suspended }),
      congrArg Host.Outcome.next (if_neg (by simp [hst])), ?_, fun tid htid c sh hp hrun => ?_⟩
    · have hkeep := State.KeepsHalts.foldl State.suspendTask_keepsHalts (s.ctxTasks ctx) (s.setCtx ctx { s.ctx ctx with st := .suspended })
      rw [State.ctx, hkeep.ctxs]
      exact congrArg Context.st (State.ctx_setCtx_self _ ctx _)
    · exact State.suspendTasks_halt (s.setCtx ctx { s.ctx ctx with st := .suspended }) _ htid hp hrun
  · exact congrArg Host.Outcome.next (if_pos (by simp [hst]))
  · refine congrArg Host.Outcome.next ((if_pos (by simpa using hst)).trans ?_)
    have hnone : (s.kernels.filter fun k => k.ctx == ctx && !k.ended) = [] := by
      simpa [List.filter_eq_nil_iff] using hended
    simp only [State.endContext, State.setCtx_kernels, hnone, List.foldl_nil]
  · refine ⟨_, congrArg Host.Outcome.next (if_neg (by simp [hst, hdone])), ?_, ?_, ?_, ?_⟩
    · exact congrArg Context.st (State.ctx_setCtx_self s ctx _)
    · exact congrArg Context.used (State.ctx_setCtx_self s ctx _)
    · intro k hk
      simpa using (List.mem_filter.mp hk).2
    · intro cl hcl
      refine (congrArg Cluster.loaded (AMap.get_map_of_value (f := Cluster.freedOf ctx) ?_ rfl s.clusters cl)).trans ?_
      · intro x
        unfold Cluster.freedOf
        dsimp only
        split <;> rfl
      · exact congrArg Cluster.loaded (if_pos (by simpa [State.cluster] using hcl))
  · exact congrArg Host.Outcome.next (if_pos (by simp [hdone]))

/-! ### Faults -/

section
variable {s : State} {tid slot core : Nat} {r : FaultRec}

@[simp] theorem State.redoSfu_thread (i j : Nat) : (s.redoSfu tid slot).thread i j = s.thread i j := by
  unfold State.thread State.redoSfu
  rw [State.task_setTask]
  split <;> simp_all [Task.thread]

theorem State.ringPut_task (ctx : Nat) (r : FaultRec) (i : Nat) : (s.ringPut ctx r).task i = s.task i := by
  obtain ⟨_, _, _, _, _, _, h⟩ := s.ringPut_recordsOnly ctx r
  rw [h]
  rfl

theorem State.ringPut_thread (ctx : Nat) (r : FaultRec) (i j : Nat) : (s.ringPut ctx r).thread i j = s.thread i j :=
  congrArg (Task.thread · j) (s.ringPut_task ctx r i)

/-- The rows of R380's table that kill. -/
def State.killsFor (s : State) (tid slot : Nat) (r : FaultRec) : Prop :=
  r.code = 0x51 ∨ r.code = 0x53 ∨ (s.thread tid slot).hnd = true ∨ (s.thread tid slot).shadow.isSome = true ∨ (s.task tid).trapent = 0

theorem State.resolution_resume (hheld : (s.core (s.task tid).core).dbgHeld = true) : s.resolution tid slot .resume = .resume := by
  simp [State.resolution, hheld]

theorem State.resolution_table (choice) (hheld : (s.core (s.task tid).core).dbgHeld = false) (hrec : (s.thread tid slot).frec = some r) :
    (s.killsFor tid slot r → s.resolution tid slot choice = .kill) ∧ (¬ s.killsFor tid slot r → s.resolution tid slot choice = .reflect) := by
  unfold State.thread at hrec
  unfold State.resolution State.killsFor
  simp [hheld, hrec, State.thread]
  grind

theorem State.reflect_thread (seq : Nat) (hrec : (s.thread tid slot).frec = some r) :
    (s.reflect tid slot seq).thread tid slot = { s.thread tid slot with
      st := .ready, pc := (s.task tid).trapent, frec := none, handed := false, held := none, fltrec := BitVec.ofNat 64 (256 + r.code) } := by
  unfold State.thread at hrec
  simp only [State.reflect, hrec]
  exact (State.redoSfu_thread tid slot).trans (State.thread_setThread_self _ tid slot _)

/-- A resumed thread is READY at its pc. -/
theorem State.resolve_resume (choice) (hrec : (s.thread tid slot).frec = some r) (h : s.resolution tid slot choice = .resume) :
    (s.resolve tid slot choice).thread tid slot = { s.thread tid slot with st := .ready, frec := none, handed := false } := by
  simp only [State.resolve, hrec, h, State.redoSfu_thread, State.thread_setThread_self]

/-- A reflected thread runs its handler. -/
theorem State.resolve_reflect (choice) (hrec : (s.thread tid slot).frec = some r) (h : s.resolution tid slot choice = .reflect) :
    (s.resolve tid slot choice).thread tid slot = { s.thread tid slot with
      st := .ready, pc := (s.task tid).trapent, frec := none, handed := false, held := none, fltrec := BitVec.ofNat 64 (256 + r.code) } := by
  simp only [State.resolve, hrec, h]
  rw [State.reflect_thread (r := r) _ (by rw [State.ringPut_thread, hrec]), State.ringPut_thread, State.ringPut_task]

/-- A killed task is marked and its thread has no fault any more. -/
theorem State.resolve_kill (choice) (hrec : (s.thread tid slot).frec = some r) (h : s.resolution tid slot choice = .kill) :
    ((s.resolve tid slot choice).thread tid slot).frec = none ∧ ((s.resolve tid slot choice).task tid).killing = true := by
  simp only [State.resolve, hrec, h]
  refine ⟨?_, by rw [State.task_setTask_self]⟩
  rw [State.thread, State.task_setTask_self]
  exact congrArg Thread.frec (State.thread_setThread_self _ tid slot _)

section
variable (choice : DebugChoice) (hrec : (s.thread tid slot).frec = some r) (hhanded : (s.thread tid slot).handed = true)
  (hask : (s.core core).dbgHeld = false ∨ choice ≠ .none)
include hrec hhanded hask

/-- A fault that was handed over is one to resolve, when a debugger does not keep it waiting. -/
theorem State.resolves_handed :
    ((s.thread tid slot).frec.isNone || !(s.thread tid slot).handed || ((s.core core).dbgHeld && choice == .none)) = false := by
  rcases hask with hask | hask <;> simp [hrec, hhanded, hask]

variable (hrun : s.running core = some tid)
include hrun

theorem execFaultResolution_resolves (hstop : (s.core core).dbgStop = false) :
    exec (.faultResolution core slot choice) s = .next (s.resolve tid slot choice) := by
  have hgoes := State.resolves_handed choice hrec hhanded hask
  change execFaultResolution core slot choice s = _
  simp only [execFaultResolution, event, hrun, hgoes, hstop, Bool.false_eq_true, if_false]

theorem execFaultResolution_queues (hstop : (s.core core).dbgStop = true) (hmsgs : ∀ ch, CoreMsg.resolve slot ch ∉ (s.core core).msgs) :
    exec (.faultResolution core slot choice) s = .next (s.queueMsg core (.resolve slot choice)) := by
  have hgoes := State.resolves_handed choice hrec hhanded hask
  change execFaultResolution core slot choice s = _
  simp only [execFaultResolution, event, hrun, hgoes, hstop, Bool.false_eq_true, if_false, if_true]
  refine congrArg Host.Outcome.next (if_neg ?_)
  simp only [List.any_eq_true, not_exists, not_and]
  intro m hm
  cases m with
  | resolve i ch =>
    intro hi
    exact hmsgs ch (beq_iff_eq.mp hi ▸ hm)
  | _ => exact Bool.false_ne_true

end

end

/-- A part of O29: the hand-over of a fault and its resolution. -/
theorem faultsAreResolved : Stated.FaultsAreResolved := by
  intro s core slot tid choice r
  refine ⟨fun h => ?_, fun hrun hcore hrec hhanded => ⟨fun hheld hch => ?_, fun hheld hstop hch => ?_, fun hstop hask hmsgs => ?_,
    fun hstop hheld => ?_⟩⟩
  · change execFaultHandover core slot s = _
    simp only [execFaultHandover, event, h]
  · change execFaultResolution core slot choice s = _
    simp [execFaultResolution, event, hrun, hheld, hch]
  · subst hcore hch
    have hres := State.resolve_resume .resume hrec (State.resolution_resume hheld)
    refine ⟨_, execFaultResolution_resolves .resume hrec hhanded (.inr nofun) hrun hstop, ?_⟩
    rw [hres]
    exact ⟨rfl, rfl, rfl⟩
  · rw [execFaultResolution_queues choice hrec hhanded hask hrun hstop hmsgs]
    refine congrArg Host.Outcome.next (if_neg ?_)
    simpa using hmsgs choice
  · subst hcore
    obtain ⟨hkill, hreflect⟩ := State.resolution_table choice hheld hrec
    refine ⟨_, execFaultResolution_resolves choice hrec hhanded (.inl hheld) hrun hstop, ?_⟩
    by_cases hk : s.killsFor tid slot r
    · obtain ⟨hfrec, hkilling⟩ := State.resolve_kill choice hrec (hkill hk)
      exact ⟨hfrec, fun _ => hkilling, fun h => absurd hk h⟩
    · rw [State.resolve_reflect choice hrec (hreflect hk)]
      exact ⟨rfl, fun h => absurd h hk, fun _ => ⟨rfl, rfl, rfl⟩⟩

/-! ### Kept records -/

/-- A part of O29: a record that the ring takes leaves the backlog, and a ring without space changes nothing. -/
theorem keptRecordsAreWritten : Stated.KeptRecordsAreWritten := by
  intro s ctx r
  refine ⟨fun s' hlog hring => ?_, fun rs hlog hring => ?_⟩
  · change execFaultRingSpace ctx s = _
    simp only [execFaultRingSpace, event, hlog, State.flushRing, hring]
  · change execFaultRingSpace ctx s = _
    simp only [execFaultRingSpace, event, hlog, State.flushRing, hring]

/-! ### Misses that firmware gives up -/

section
variable (s : State) (tid slot : Nat)

theorem State.leaveRdv_thread : (s.leaveRdv tid slot).thread tid slot = s.thread tid slot := by
  unfold State.leaveRdv
  dsimp only
  split
  · simp [State.thread, Task.thread]
  · rfl

theorem State.cancelSfu_thread : (s.cancelSfu tid slot).thread tid slot = s.thread tid slot := by
  simp [State.cancelSfu, State.thread, Task.thread]

/-- A thread that a fault stops. -/
theorem State.takeFault_thread (code kind addr i1 i2) : (s.takeFault tid slot code kind addr i1 i2).thread tid slot =
    { s.thread tid slot with
      st := .stopped, frec := some (s.faultRec tid slot (s.thread tid slot) code kind addr i1 i2), handed := false, held := none, got := [],
      answer := none, skipPm := false, packet := none
      pc := match (s.thread tid slot).packet with | some p => p.xopen | none => (s.thread tid slot).pc } := by
  simp only [State.takeFault]
  rw [State.thread, State.traceRec_task]
  refine (State.cancelSfu_thread _ tid slot).trans ((State.leaveRdv_thread _ tid slot).trans ((State.thread_setThread_self _ tid slot _).trans ?_))
  rfl

/-- A waiting thread that a fault stops has the fault's record, at its instruction. -/
theorem State.faultHeld_thread (code kind addr i1 i2) : let t := (s.faultHeld tid slot code kind addr i1 i2).thread tid slot
    t.st = .stopped ∧ t.frec.map (fun r => (r.code, r.kind, r.addr)) = some (code, kind, addr) := by
  have h := State.takeFault_thread { s with curW := (s.thread tid slot).held.getD (0, 0, 0) } tid slot code kind addr i1 i2
  exact ⟨congrArg Thread.st h, congrArg (fun t => t.frec.map fun r => (r.code, r.kind, r.addr)) h⟩

end

/-- A part of O29: a wait on a page that cannot be made present ends with 0x10. -/
theorem missesEscalate : Stated.MissesEscalate := by
  intro s core slot tid va hslot htasks hst
  have hexec : exec (.missEscalate core slot) s = .next (s.giveUpThread tid slot) := by
    change execMissEscalate core slot s = _
    simp only [execMissEscalate, event, hslot, if_true, htasks, List.foldl_cons, List.foldl_nil]
  refine ⟨fun hgone => ⟨_, hexec, ?_⟩, fun hgone => hexec.trans ?_⟩
  · obtain ⟨hstop, hrec⟩ := s.faultHeld_thread tid slot 0x10 2 va.toNat 0 0
    simp only [State.giveUpThread, hst, hgone, Bool.not_true, Bool.false_eq_true, if_false]
    split
    case isTrue hheld =>
      simp only [State.fetchGone, State.thread_setThread_self]
      obtain ⟨r, hr, hf⟩ := Option.map_eq_some_iff.mp hrec
      simpa [hr] using ⟨hstop, by simpa using hf⟩
    case isFalse hheld => exact ⟨hstop, hrec, fun h => absurd (by simp [h]) hheld⟩
  · simp [State.giveUpThread, hst, hgone]

/-- Settles O29, event by event: each follows from what its one state operation does. -/
theorem contextEventsAct : Obligations.ContextEventsAct :=
  ⟨contextsAreBuilt, contextsChangeState, faultsAreResolved, keptRecordsAreWritten, missesEscalate⟩

end Sys2Proof.Machine

/-! ## Links -/

namespace Sys2Proof.Machine

/-! ### Lanes of a port -/

section
variable (p : Port) (i j : Nat) (l : Lane)

theorem Port.lane_setLane : (p.setLane i l).lane j = if j = i ∧ i < p.lanes.length then l else p.lane j := by
  simp only [Port.lane, Port.setLane, List.getD_eq_getElem?_getD, List.getElem?_set]
  grind

@[simp] theorem Port.lane_setLane_ne (h : j ≠ i) : (p.setLane i l).lane j = p.lane j := by simp [Port.lane_setLane, h]

@[simp] theorem Port.setLane_lane : p.setLane i (p.lane i) = p := by
  have h : p.lanes.set i (p.lane i) = p.lanes := by
    apply List.ext_getElem? 
    intro k
    simp only [Port.lane, List.getElem?_set]
    grind
  simp [Port.setLane, h]

@[simp] theorem Port.setLane_st : (p.setLane i l).st = p.st := rfl

@[simp] theorem Port.setLane_length : (p.setLane i l).lanes.length = p.lanes.length := List.length_set

variable {p i l}

@[simp] theorem Port.lane_setLane_self (h : i < p.lanes.length) : (p.setLane i l).lane i = l := by simp [Port.lane_setLane, h]

/-- A lane of a port whose lanes a function has changed. -/
theorem Port.lane_of_map {q : Port} {f : Lane → Lane} (h : q.lanes = p.lanes.map f) (hi : i < p.lanes.length) : q.lane i = f (p.lane i) := by
  simp [Port.lane, h, List.getD_eq_getElem?_getD, hi]

/-- A lane of a port whose lanes are numbered anew. -/
theorem Port.lane_of_range {q : Port} {f : Nat → Lane} {n : Nat} (h : q.lanes = (List.range n).map f) (hi : i < n) : q.lane i = f i := by
  simp [Port.lane, h, List.getD_eq_getElem?_getD, hi]

end

/-! ### States of a port -/

/-- A lane that has sent a TRAIN flit (R430). -/
def Lane.train (words : Nat) (payload : List Byte) (now : Nat) (l : Lane) : Lane :=
  { l.sendPlain { l.blank 4 with words := words, payload := payload } with idleAt := now }

/-- The states in which a port sends TRAIN flits (R430). -/
def PortState.training (st : PortState) : Bool := st == .train || st == .lock || st == .relock

section
variable (s : State) (p : Nat)

theorem State.sendTrain_port : ∃ w bs, (s.sendTrain p).port p = { s.port p with lanes := (s.port p).lanes.map (Lane.train w bs s.now) } :=
  ⟨_, _, State.port_setPort_self s p _⟩

/-- A port that is put into a state in which it trains sends a TRAIN flit on every lane. -/
theorem State.toPort_port_training {st : PortState} (h : st.training = true) :
    ∃ w bs, (s.toPort p st).port p = { s.port p with st := st, since := s.now, lanes := (s.port p).lanes.map (Lane.train w bs s.now) } := by
  obtain ⟨w, bs, htrain⟩ := State.sendTrain_port (s.setPort p { s.port p with st := st, since := s.now }).selectUp p
  refine ⟨w, bs, ?_⟩
  have heq : s.toPort p st = (s.setPort p { s.port p with st := st, since := s.now }).selectUp.sendTrain p := if_pos h
  rw [heq, htrain]
  have hnow (u : State) : u.selectUp.now = u.now := by unfold State.selectUp; grind
  simp [hnow]

theorem State.toPort_port_quiet {st : PortState} (h : st.training = false) :
    (s.toPort p st).port p = { s.port p with st := st, since := s.now } := by
  have heq : s.toPort p st = (s.setPort p { s.port p with st := st, since := s.now }).selectUp :=
    if_neg (Bool.eq_false_iff.mp h)
  rw [heq]
  simp

end

/-- A port that relocks keeps its replay buffers (R430). -/
theorem State.relock_port (s : State) (p : Nat) : ∃ w bs, (s.relock p).port p =
    { s.port p with st := .relock, since := s.now, keep := true, lanes := (s.port p).lanes.map (Lane.train w bs s.now) } := by
  obtain ⟨w, bs, hq⟩ := State.toPort_port_training (s.setPort p { s.port p with keep := true }) p (st := .relock) rfl
  rw [State.port_setPort_self] at hq
  exact ⟨w, bs, hq⟩

theorem Lane.train_sent (w bs now) (l : Lane) : ((l.train w bs now).out.getLast?.map Flit.ty) = some 4 := by
  simp [Lane.train, Lane.sendPlain, Lane.blank]

theorem lastSent_train {q r : Port} {w bs now i} (h : r.lanes = q.lanes.map (Lane.train w bs now)) (hi : i < q.lanes.length) :
    Stated.LastSent r i 4 := by
  unfold Stated.LastSent
  rw [Port.lane_of_map h hi]
  exact Lane.train_sent w bs now _

/-- The wavelengths on which LOCK finds each lane (R430). -/
def State.lockedLane (s : State) (p : Nat) (waves : List Nat) (i : Nat) : Lane :=
  { (s.port p).lane i with
    waves := waves.getD i 0 % 256, fenced := popcount 8 (waves.getD i 0 % 256) < 7, drop := none, cw := 0, cwAt := s.now }

/-- A lane to which every wavelength is restored (R430). -/
def Lane.restored (now : Nat) (l : Lane) : Lane :=
  { l with waves := 255, fenced := false, drop := none, cw := l.codewordAt now, cwAt := now }

section
variable {s : State} {p : Nat}

theorem execPortEnable_trains (hp : p < 108) (hst : (s.port p).st = .off ∨ (s.port p).st = .fenced) : exec (.portEnable p) s =
    .next ((s.setPort p { s.port p with keep := false, planned := false, drainSent := false, drainGot := false }).toPort p .train) :=
  congrArg Host.Outcome.next (if_neg (by rcases hst with h | h <;> simp [h] <;> omega))

theorem execPortLock_locks (a : Nat) (rest : List Nat) (hst : (s.port p).st = .train ∨ (s.port p).st = .relock)
    (hw : ∃ i < (s.port p).lanes.length, 7 ≤ popcount 8 ((a :: rest).getD i 0 % 256)) : exec (.portLock p a rest) s =
    .next ((s.setPort p { s.port p with lanes := (List.range (s.port p).lanes.length).map (s.lockedLane p (a :: rest)) }).toPort p .lock) := by
  refine congrArg Host.Outcome.next (if_neg ?_)
  obtain ⟨i, hi, hw⟩ := hw
  have hany : ((List.range (s.port p).lanes.length).all fun i => decide (popcount 8 ((a :: rest).getD i 0 % 256) < 7)) = false := by
    simp only [List.all_eq_false, List.mem_range]
    exact ⟨i, hi, by simpa using hw⟩
  rw [hany]
  rcases hst with h | h <;> simp [h]

theorem Port.sends_iff {q : Port} : q.sends = true ↔ q.st = .up ∨ q.st = .degraded := by simp [Port.sends]

end

/-- A part of O30: the moves of a port's state. -/
theorem portStatesMove : Stated.PortStatesMove := by
  intro s p
  refine ⟨fun hp hst => ?_, fun a rest => ⟨fun hst hw => ?_, fun hw => ?_⟩, fun hst hold => ?_, fun hst => ?_, fun hst => ?_, ?_,
    fun hst => ?_⟩
  · obtain ⟨w, bs, hq⟩ := State.toPort_port_training
      (s.setPort p { s.port p with keep := false, planned := false, drainSent := false, drainGot := false }) p (st := .train) rfl
    rw [State.port_setPort_self] at hq
    exact ⟨_, execPortEnable_trains hp hst, congrArg Port.st hq, congrArg Port.since hq,
      fun i hi => lastSent_train (q := s.port p) (congrArg Port.lanes hq) hi⟩
  · obtain ⟨w, bs, hq⟩ := State.toPort_port_training
      (s.setPort p { s.port p with lanes := (List.range (s.port p).lanes.length).map (s.lockedLane p (a :: rest)) }) p (st := .lock) rfl
    rw [State.port_setPort_self] at hq
    refine ⟨_, execPortLock_locks a rest hst hw, congrArg Port.st hq, fun i hi => ?_⟩
    have hlane := (Port.lane_of_range ((congrArg Port.lanes hq).trans List.map_map) hi)
    rw [hlane]
    exact ⟨rfl, decide_eq_true_iff⟩
  · refine congrArg Host.Outcome.next (if_pos ?_)
    rw [Bool.or_eq_true]
    exact .inr (by simpa using hw)
  · exact ⟨_, congrArg Host.Outcome.next (if_pos (by rcases hst with h | h <;> simp [h, hold])), by simp [State.toPort_port]⟩
  · obtain ⟨w, bs, hq⟩ := State.relock_port s p
    refine ⟨_, congrArg Host.Outcome.next (if_pos (Port.sends_iff.mpr hst)), congrArg Port.st hq, fun i hi => ?_⟩
    rw [Port.lane_of_map (congrArg Port.lanes hq) hi]
    exact ⟨rfl, rfl, rfl⟩
  · exact ⟨_, congrArg Host.Outcome.next (if_neg (by simpa using hst)), by simp [State.toPort_port]⟩
  · exact ⟨_, rfl, by simp [State.toPort_port], by simp [State.toPort_port_quiet _ _ (st := .off) rfl]⟩
  · refine ⟨_, congrArg Host.Outcome.next (if_neg (by simp [hst])), by simp [State.toPort_port], fun i hi => ?_⟩
    rw [State.toPort_port_quiet _ _ rfl, State.port_setPort_self]
    rw [Port.lane_of_map (p := s.port p) (f := Lane.restored s.now) rfl hi]
    exact ⟨rfl, rfl, rfl⟩

/-! ### The exchange of LOCK -/

/-- A port that has locked to a peer and does not take up its lanes again (R430). -/
def State.lockedTo (s : State) (p peer : Nat) (told : LockTold) : State :=
  (s.setPort p { s.port p with
    lanes := (s.port p).lanes.map Lane.fresh, peer := peer, peerPort := told.port, rtt := told.rtt, peerRank := told.rank
    keep := false }).toPort p (if ((s.port p).lanes.all fun l => l.count == 8) then .up else .degraded)

section
variable {s : State} {p peer : Nat} {told : LockTold}

theorem execPortLockExchangeDone_opens (hst : (s.port p).st = .lock)
    (hpeer : (s.port p).expectPeer = none ∨ (s.port p).expectPeer = some peer) (hkeep : (s.port p).keep = false) :
    exec (.portLockExchangeDone p peer told) s = .next (s.lockedTo p peer told) := by
  change execPortLockExchangeDone p peer told s = _
  rcases hpeer with h | h <;>
    simp only [execPortLockExchangeDone, State.lockedTo, event, hst, h, hkeep, Bool.false_and, bne_self_eq_false, Bool.false_eq_true, if_false]

theorem execPortLockExchangeDone_refuses {e : Nat} (hst : (s.port p).st = .lock) (he : (s.port p).expectPeer = some e) (hne : e ≠ peer) :
    exec (.portLockExchangeDone p peer told) s = .next ((s.toPort p .fenced).send 2 msgWrongPeer [p, peer]) := by
  change execPortLockExchangeDone p peer told s = _
  simp only [execPortLockExchangeDone, event, hst, he, bne_self_eq_false, Bool.false_eq_true, if_false, bne_iff_ne, ne_eq, hne,
    not_false_eq_true, if_true]

end

/-- A part of O30: the exchange of LOCK opens the port, or fences it at a wrong peer. -/
theorem lockExchangeOpensPort : Stated.LockExchangeOpensPort := by
  intro s p peer told q hst
  refine ⟨fun hpeer hkeep => ⟨_, execPortLockExchangeDone_opens hst hpeer hkeep, ?_⟩, fun e he hne =>
    ⟨_, execPortLockExchangeDone_refuses hst he hne, ?_⟩⟩
  · have hquiet : (if ((s.port p).lanes.all fun l => l.count == 8) then PortState.up else .degraded).training = false := by split <;> rfl
    rw [State.lockedTo, State.toPort_port_quiet _ _ hquiet, State.port_setPort_self]
    refine ⟨?_, rfl, rfl, rfl, rfl, rfl⟩
    simp [q]
  · rw [State.port_send, State.toPort_port_quiet _ _ rfl]
    exact ⟨rfl, rfl⟩

/-! ### Flits that come -/

section
variable {s : State} {p i : Nat} {bs : List Byte} {wrong : List Nat} {f : Flit} {l : Lane}

theorem Lane.pump_of_empty (h : l.queue = []) : l.pump = l := by
  cases l
  simp_all [Lane.pump]

theorem Lane.refund_of_none (h : f.crcnt = 0) : l.refund f = l := by simp [Lane.refund, h]

theorem execFlitReceive_up (h : (s.port p).st = .up) : exec (.flitReceive p i bs wrong) s =
    .next (s.onFlit p i (if wrong.all correctable then flitOf bs else none)) := by
  change execFlitReceive p i bs wrong s = _
  simp only [execFlitReceive, event, h]

theorem all_correctable : wrong.all correctable = true ↔ ∀ w ∈ wrong, w ≤ 15 := by simp [correctable]

/-- A flit that uses SEQ, without acknowledgement and credits, on a lane with nothing waiting. -/
theorem State.onFlit_numbered (hq : ((s.port p).lane i).queue = []) (hc : f.crcnt = 0) (hack : f.ackv = false) (hty : f.ty = 1 ∨ f.ty = 5) :
    s.onFlit p i (some f) = if f.seq == ((s.port p).lane i).rxSeq then (s.setPort p (s.port p)).onSeq p i f
      else if behind ((s.port p).lane i).rxSeq f.seq then s.setPort p (s.port p)
      else s.setPort p ((s.port p).setLane i ((s.port p).lane i).miss) := by
  rcases hty with h | h <;>
    simp only [State.onFlit, h, hack, Lane.refund_of_none hc, ite_self, Bool.false_and, Bool.false_eq_true, if_false,
      Lane.pump_of_empty hq, Port.setLane_lane, State.setPort_setPort] <;> rfl

/-- A NAK, on a lane with nothing waiting. -/
theorem State.onFlit_nak (hq : ((s.port p).lane i).queue = []) (hc : f.crcnt = 0) (hty : f.ty = 2) :
    s.onFlit p i (some f) = (s.setPort p (s.port p)).onNak p i f := by
  simp only [State.onFlit, hty, Lane.refund_of_none hc, ite_self, bne_self_eq_false, Bool.and_false, Bool.false_eq_true, if_false,
    Lane.pump_of_empty hq, Port.setLane_lane]
  rfl

end

/-- A lane that sends its unacknowledged flits again (R429). -/
def Lane.again (l : Lane) (ackseq : Nat) : Lane :=
  { l.ack ackseq with naks := (l.ack ackseq).naks + 1, out := (l.ack ackseq).out ++ (l.ack ackseq).unacked }

section
variable {s : State} {p i k : Nat} {f : Flit}

/-- A fenced lane, and the port that goes on without it (R432). -/
theorem State.fenceLane_port : (s.fenceLane p k).port p =
    if (s.port p).st == .up then { (s.port p).setLane k { (s.port p).lane k with fenced := true, drop := none } with st := .degraded }
    else (s.port p).setLane k { (s.port p).lane k with fenced := true, drop := none } := by
  rw [State.fenceLane, State.selectUp_port, State.port_setPort_self]
  rfl

theorem State.fenceLane_lane_ne (h : i ≠ k) : ((s.fenceLane p k).port p).lane i = (s.port p).lane i := by
  rw [State.fenceLane_port]
  split
  · exact Port.lane_setLane_ne _ _ _ _ h
  · exact Port.lane_setLane_ne _ _ _ _ h

/-- A lane of a port that is UP is fenced: the port is DEGRADED. -/
theorem State.fenceLane_fences (hup : (s.port p).st = .up) (hk : k < (s.port p).lanes.length) :
    (((s.fenceLane p k).port p).lane k).fenced = true ∧ ((s.fenceLane p k).port p).st = .degraded := by
  rw [State.fenceLane_port, hup]
  exact ⟨congrArg Lane.fenced (Port.lane_setLane_self hk), rfl⟩

theorem State.onFailover_lane_ne (h : i ≠ (f.payload.getD 0 0).toNat) : ((s.onFailover p f).port p).lane i = (s.port p).lane i := by
  unfold State.onFailover
  grind [State.fenceLane_lane_ne, State.port_setPort_self, Port.lane_setLane_ne]

section
variable (hk : (f.payload.getD 0 0).toNat < (s.port p).lanes.length)
  (hopen : ((s.port p).lane (f.payload.getD 0 0).toNat).fenced = false)
  (hbit : bitAt ((s.port p).lane (f.payload.getD 0 0).toNat).waves ((f.payload.getD 1 0).toNat % 8) = true)
include hk hopen hbit

theorem State.onFailover_tells (hdrop : ((s.port p).lane (f.payload.getD 0 0).toNat).drop = none)
    (hcount : 8 ≤ ((s.port p).lane (f.payload.getD 0 0).toNat).count) :
    (((s.onFailover p f).port p).lane (f.payload.getD 0 0).toNat).drop =
      some ((f.payload.getD 1 0).toNat % 8, leNat ((f.payload.drop 2).take 8)) := by
  unfold State.onFailover
  have hc : ¬ ((s.port p).lane (f.payload.getD 0 0).toNat).count ≤ 7 := by omega
  simp only [hopen, hbit, Nat.not_le.mpr hk, hdrop, hc, decide_false, Bool.or_self, Bool.not_true, Bool.false_eq_true, if_false,
    State.port_setPort_self]
  rw [Port.lane_setLane_self hk]

theorem State.onFailover_fences (hup : (s.port p).st = .up)
    (hdrop : (((s.port p).lane (f.payload.getD 0 0).toNat).drop = none ∧ ((s.port p).lane (f.payload.getD 0 0).toNat).count ≤ 7) ∨
      ∃ v n, ((s.port p).lane (f.payload.getD 0 0).toNat).drop = some (v, n) ∧ v ≠ (f.payload.getD 1 0).toNat % 8) :
    (((s.onFailover p f).port p).lane (f.payload.getD 0 0).toNat).fenced = true ∧ ((s.onFailover p f).port p).st = .degraded := by
  have heq : s.onFailover p f = s.fenceLane p (f.payload.getD 0 0).toNat := by
    unfold State.onFailover
    rcases hdrop with ⟨hdrop, hcount⟩ | ⟨v, n, hdrop, hne⟩
    · simp only [hopen, hbit, Nat.not_le.mpr hk, hdrop, hcount, decide_false, Bool.or_self, Bool.not_true, Bool.false_eq_true, if_false, if_true]
    · simp only [hopen, hbit, Nat.not_le.mpr hk, hdrop, beq_eq_false_iff_ne.mpr hne, decide_false, Bool.or_self, Bool.not_true,
        Bool.false_eq_true, if_false]
  rw [heq]
  exact State.fenceLane_fences hup hk

end

/-- A FAILOVER flit in sequence, on a lane that needs no acknowledgement yet, is accepted and tells of the lane that it names. -/
theorem State.onSeq_failover (hty : f.ty = 5) (hi : i < (s.port p).lanes.length) (hne : i ≠ (f.payload.getD 0 0).toNat)
    (hack : ((s.port p).lane i).sinceAck < 63) :
    s.onSeq p i f = (s.setPort p ((s.port p).setLane i ((s.port p).lane i).accept)).onFailover p f := by
  have hlane : (((s.setPort p ((s.port p).setLane i ((s.port p).lane i).accept)).onFailover p f).port p).lane i = ((s.port p).lane i).accept := by
    rw [State.onFailover_lane_ne hne, State.port_setPort_self, Port.lane_setLane_self hi]
  simp only [State.onSeq, hty, hlane]
  refine if_neg ?_
  change ¬ 64 ≤ ((s.port p).lane i).sinceAck + 1
  omega

/-- A NAK below the 16th in a row sends again what is not acknowledged. -/
theorem State.onNak_again (hq : ((s.port p).lane i).queue = []) (hn : (((s.port p).lane i).ack f.ackseq).naks < 15) :
    s.onNak p i f =
      s.setPort p { (s.port p).setLane i (((s.port p).lane i).again f.ackseq) with replays := (s.port p).replays + 1 } := by
  have hpump : (((s.port p).lane i).again f.ackseq).pump = ((s.port p).lane i).again f.ackseq := Lane.pump_of_empty hq
  have hnaks : ¬ 16 ≤ (((s.port p).lane i).again f.ackseq).naks := by
    change ¬ 16 ≤ (((s.port p).lane i).ack f.ackseq).naks + 1
    omega
  unfold State.onNak
  dsimp only
  rw [← Lane.again, hpump]
  exact if_neg (by simp [hnaks])

end

/-- A part of O30: bad flits are asked for again, good ones are taken in order. -/
theorem flitsAreTakenInOrder : Stated.FlitsAreTakenInOrder := by
  intro s p i bs wrong q hst hi
  refine ⟨fun hbad => ?_, fun f hf hw hc hq => ?_⟩
  · have hnone : (if wrong.all correctable = true then flitOf bs else none) = none := by
      rcases hbad with ⟨w, hw, h15⟩ | hnone
      · exact if_neg fun hall => absurd (all_correctable.mp hall w hw) (by omega)
      · rw [hnone, ite_self]
    rw [execFlitReceive_up hst, hnone]
    rfl
  · have hexec : exec (.flitReceive p i bs wrong) s = .next (s.onFlit p i (some f)) := by
      rw [execFlitReceive_up hst, if_pos (all_correctable.mpr hw), hf]
    rw [hexec]
    refine ⟨fun hty hack hsince hseq hne hk hopen hbit => ?_, fun hty hack hseq hb => ?_, fun hty hack hseq hb => ?_, fun hty hn => ?_⟩
    · have hp : (s.setPort p q).port p = q := State.port_setPort_self s p q
      rw [State.onFlit_numbered hq hc hack (.inr hty), if_pos (beq_iff_eq.mpr hseq),
        State.onSeq_failover hty (by rwa [hp]) hne.symm (by rwa [hp]), hp, State.setPort_setPort]
      have hu : (s.setPort p (q.setLane i (q.lane i).accept)).port p = q.setLane i (q.lane i).accept := State.port_setPort_self s p _
      have hm : (q.setLane i (q.lane i).accept).lane (f.payload.getD 0 0).toNat = q.lane (f.payload.getD 0 0).toNat :=
        Port.lane_setLane_ne _ _ _ _ hne
      generalize s.setPort p (q.setLane i (q.lane i).accept) = u at hu ⊢
      have hlane : ((u.onFailover p f).port p).lane i = (q.lane i).accept := by
        rw [State.onFailover_lane_ne hne.symm, hu, Port.lane_setLane_self hi]
      rw [← hu] at hm
      have hk' : (f.payload.getD 0 0).toNat < (u.port p).lanes.length := by rwa [hu, Port.setLane_length]
      have hopen' : ((u.port p).lane (f.payload.getD 0 0).toNat).fenced = false := by rwa [hm]
      have hbit' : bitAt ((u.port p).lane (f.payload.getD 0 0).toNat).waves ((f.payload.getD 1 0).toNat % 8) = true := by rwa [hm]
      refine ⟨_, rfl, by rw [hlane]; rfl, by rw [hlane]; rfl, by rw [hlane]; rfl, fun hdrop hcount => ?_, fun hfence => ?_⟩
      · exact State.onFailover_tells hk' hopen' hbit' (by rwa [hm]) (by rwa [hm])
      · exact State.onFailover_fences hk' hopen' hbit' (by rw [hu]; exact hst) (by rwa [hm])
    · rw [State.onFlit_numbered hq hc hack (.inl hty), if_neg (by simpa using hseq), if_neg (Bool.eq_false_iff.mp hb)]
      rfl
    · rw [State.onFlit_numbered hq hc hack (.inl hty), if_neg (by simpa using hseq), if_pos hb, Port.setLane_lane]
    · rw [State.onFlit_nak hq hc hty]
      have hq' : (s.setPort p q).port p = q := State.port_setPort_self s p q
      refine ⟨_, congrArg Host.Outcome.next (State.onNak_again (by rwa [hq']) (by rwa [hq'])), ?_⟩
      rw [hq', State.port_setPort_self]
      exact ⟨hst, rfl, congrArg Lane.out (Port.lane_setLane_self hi)⟩

/-! ### Timers -/

/-- A lane that has sent an IDLE flit (R434). -/
def State.idleLane (s : State) (l : Lane) : Lane :=
  ({ l with owed := l.owed.drop 1, idleAt := s.now } : Lane).sendPlain (Stated.idleFlit s l)

section
variable {s u : State} {p i n : Nat}

theorem State.sendIdle_free (h : s.laneFree p i = true) : s.sendIdle p i =
    s.setPort p ((s.port p).setLane i (s.idleLane ((s.port p).lane i))) := by
  simp only [State.sendIdle, h, Bool.not_true, Bool.false_eq_true, if_false]
  rfl

theorem State.sendIdle_busy (h : s.laneFree p i = false) : s.sendIdle p i = s := by
  simp only [State.sendIdle, h, Bool.not_false, if_true]

/-- What a module advertises rests on its selection and on what its peers told, not on the lanes of its ports. -/
theorem State.advert_setPort {q : Port} (hpeer : q.peer = (s.port p).peer) (hdepth : q.advDepth = (s.port p).advDepth) :
    (s.setPort p q).advert = s.advert := by
  have hp (j : Nat) : ((s.setPort p q).port j).peer = (s.port j).peer := by
    rw [State.port_setPort]
    split <;> simp_all
  have hd (j : Nat) : ((s.setPort p q).port j).advDepth = (s.port j).advDepth := by
    rw [State.port_setPort]
    split <;> simp_all
  simp only [State.advert, State.depth, State.setPort_master, State.setPort_upSel, hp, hd] <;> rfl

/-- The first n lanes of a port have sent their IDLE flits, those that carry flits now; nothing else that these flits rest on has changed. -/
structure State.IdleSent (s : State) (p n : Nat) (u : State) : Prop where
  now : u.now = s.now
  irSess : u.irSess = s.irSess
  advert : u.advert = s.advert
  length : (u.port p).lanes.length = (s.port p).lanes.length
  lane : ∀ i, (u.port p).lane i = if i < n ∧ s.laneFree p i = true then s.idleLane ((s.port p).lane i) else (s.port p).lane i

theorem State.IdleSent.laneFree (h : s.IdleSent p n u) (i : Nat) : u.laneFree p i = s.laneFree p i := by
  simp only [State.laneFree, State.irBusy, h.now, h.irSess]

theorem State.IdleSent.idleLane (h : s.IdleSent p n u) (l : Lane) : u.idleLane l = s.idleLane l := by
  simp only [State.idleLane, Stated.idleFlit, h.now, h.advert]

theorem State.IdleSent.step (h : s.IdleSent p n u) (hn : n < (s.port p).lanes.length) : s.IdleSent p (n + 1) (u.sendIdle p n) := by
  have hsame : (u.port p).lane n = (s.port p).lane n := by rw [h.lane, if_neg (by omega)]
  cases hfree : s.laneFree p n with
  | false =>
    rw [State.sendIdle_busy (by rw [h.laneFree, hfree])]
    refine { h with lane := fun i => ?_ }
    rw [h.lane]
    refine if_congr ?_ rfl rfl
    grind
  | true =>
    rw [State.sendIdle_free (by rw [h.laneFree, hfree]), hsame, h.idleLane]
    refine ⟨h.now, h.irSess, (State.advert_setPort (q := (u.port p).setLane n _) rfl rfl).trans h.advert, by simp [h.length], fun i => ?_⟩
    rw [State.port_setPort_self, Port.lane_setLane, h.length, h.lane]
    grind

theorem State.sendIdles (hn : n ≤ (s.port p).lanes.length) : s.IdleSent p n ((List.range n).foldl (fun s i => s.sendIdle p i) s) := by
  induction n with
  | zero => exact ⟨rfl, rfl, rfl, rfl, fun i => by simp⟩
  | succ n ih =>
    rw [List.range_succ, List.foldl_append]
    exact (ih (by omega)).step (by omega)

theorem Port.runs_iff {q : Port} : q.runs = true ↔ q.st = .up ∨ q.st = .degraded ∨ q.st = .drain := by
  simp [Port.runs, Port.sends, or_assoc]

end

/-- A part of O30: what the timers send. -/
theorem linkTimersSendFlits : Stated.LinkTimersSendFlits := by
  intro s p
  refine ⟨fun hst => ⟨fun i hgap hfree => ?_, fun i hi hack hfree => ?_, ?_⟩, fun hst => ?_⟩
  · exact congrArg Host.Outcome.next (if_pos (by simp [Port.runs_iff.mpr hst, hgap, hfree]))
  · refine ⟨_, congrArg Host.Outcome.next ((if_pos (by simp [Port.runs_iff.mpr hst, hack])).trans (State.sendIdle_free hfree)), ?_⟩
    rw [State.port_setPort_self, Port.lane_setLane_self hi]
    exact ⟨rfl, rfl, rfl⟩
  · refine ⟨_, congrArg Host.Outcome.next (if_pos (Port.runs_iff.mpr hst)), fun i hi => ?_⟩
    have hlane := (State.sendIdles (s := s) (p := p) le_rfl).lane i
    refine ⟨fun hfree => ?_, fun hbusy => ?_⟩
    · rw [hlane, if_pos ⟨hi, hfree⟩]
      exact ⟨rfl, rfl⟩
    · rw [hlane, if_neg (by simp [hbusy])]
  · have hruns : (s.port p).runs = false := by rcases hst with h | h | h <;> simp [Port.runs, Port.sends, h]
    have htrain : ((s.port p).st == .train || (s.port p).st == .lock || (s.port p).st == .relock) = true := by
      rcases hst with h | h | h <;> simp [h]
    refine ⟨_, congrArg Host.Outcome.next ((if_neg (by simp [hruns])).trans (if_pos htrain)), fun i hi => ?_⟩
    obtain ⟨w, bs, hq⟩ := s.sendTrain_port p
    exact lastSent_train (congrArg Port.lanes hq) hi

/-! ### Wavelengths -/

section
variable {s : State} {p i w cw : Nat}

/-- A lane that is to lose a wavelength from a codeword on (R431). -/
def Port.announced (q : Port) (i w n : Nat) : Port := q.setLane i { q.lane i with drop := some (w, n) }

/-- The FAILOVER flit of a lane (R431). -/
def Lane.failover (l : Lane) (i w n : Nat) : Flit := { l.blank 5 with words := 3, payload := leBytes 1 i ++ leBytes 1 w ++ leBytes 8 n }

theorem State.dropWave_announces {n : Nat} (hbit : bitAt ((s.port p).lane i).waves w = true) (hopen : ((s.port p).lane i).fenced = false)
    (hdrop : ((s.port p).lane i).drop = none) (hcount : 8 ≤ ((s.port p).lane i).count)
    (hn : n = max cw (((s.port p).lane i).codewordAt (s.now + 2000) + 1)) :
    s.dropWave p i w cw = s.setPort p (((s.port p).announced i w n).sendSeq i (((s.port p).lane i).failover i w n)) := by
  have hc : ¬ ((s.port p).lane i).count ≤ 7 := by omega
  simp only [State.dropWave, Port.announced, Lane.failover, hn, hbit, hopen, hdrop, hc, Bool.not_true, Bool.or_self, Bool.false_eq_true,
    if_false]

theorem State.dropWave_fences (hbit : bitAt ((s.port p).lane i).waves w = true) (hopen : ((s.port p).lane i).fenced = false)
    (hdrop : (((s.port p).lane i).drop = none ∧ ((s.port p).lane i).count ≤ 7) ∨
      ∃ v n, ((s.port p).lane i).drop = some (v, n) ∧ v ≠ w) : s.dropWave p i w cw = s.fenceLane p i := by
  rcases hdrop with ⟨hdrop, hcount⟩ | ⟨v, n, hdrop, hne⟩
  · simp only [State.dropWave, hbit, hopen, hdrop, hcount, Bool.not_true, Bool.or_self, Bool.false_eq_true, if_false, if_true]
  · simp only [State.dropWave, hbit, hopen, hdrop, beq_eq_false_iff_ne.mpr hne, Bool.not_true, Bool.or_self, Bool.false_eq_true, if_false]

/-- A flit that uses SEQ on a lane changes neither what the lane is to lose nor, where the replay buffer has room, comes after another. -/
theorem Lane.sendSeq_drop (l : Lane) (f : Flit) : (l.sendSeq f).drop = l.drop := by
  unfold Lane.sendSeq Lane.send
  split <;> rfl

theorem Lane.sendSeq_sent {l : Lane} (f : Flit) (h : l.room 1 = true) : ((l.sendSeq f).out.getLast?.map Flit.ty) = some f.ty := by
  simp [Lane.sendSeq, h, Lane.send]

theorem execWavelengthErrorDrop_runs (hst : (s.port p).st = .up) (hw : w < 8) :
    exec (.wavelengthErrorDrop p i w cw) s = .next (s.dropWave p i w cw) :=
  congrArg Host.Outcome.next (if_pos (by simp [Port.runs_iff.mpr (.inl hst), hw]))

end

/-- A part of O30: a wavelength that errs is announced, or its lane is fenced. -/
theorem wavelengthsFailOver : Stated.WavelengthsFailOver := by
  intro s p i w cw q hi hw hst hbit hopen
  refine ⟨fun hdrop hcount => ?_, fun hfence => ?_⟩
  · obtain ⟨n, hn⟩ : ∃ n, n = max cw ((q.lane i).codewordAt (s.now + 2000) + 1) := ⟨_, rfl⟩
    have hq := State.dropWave_announces hbit hopen hdrop hcount hn
    have hsent : ((s.dropWave p i w cw).port p).lane i = Lane.sendSeq { q.lane i with drop := some (w, n) } ((q.lane i).failover i w n) := by
      rw [hq, State.port_setPort_self, Port.sendSeq, Port.announced, Port.lane_setLane_self hi]
      exact Port.lane_setLane_self (by rwa [Port.setLane_length])
    refine ⟨_, n, execWavelengthErrorDrop_runs hst hw, by rw [hsent, Lane.sendSeq_drop], by omega, by omega, ?_, fun hroom => ?_⟩
    · rw [hq, State.port_setPort_self]
      exact hst
    · rw [Stated.LastSent, hsent]
      exact Lane.sendSeq_sent (l := { q.lane i with drop := some (w, n) }) _ hroom
  · rw [execWavelengthErrorDrop_runs hst hw, State.dropWave_fences hbit hopen hfence]
    exact ⟨_, rfl, State.fenceLane_fences hst hi⟩

/-- A part of O30: the switchover at the announced codeword. -/
theorem switchoverDropsWavelength : Stated.SwitchoverDropsWavelength := by
  intro s p i w cw q hst hdrop hbit
  refine ⟨fun hcw => ?_, fun hcw => ?_⟩
  · change Host.Outcome.next (s.switchWave p i) = _
    simp only [State.switchWave, q, hdrop, Nat.not_lt.mpr hcw, hbit, if_false, if_true, Port.setLane_st, hst, beq_self_eq_true]
  · change Host.Outcome.next (s.switchWave p i) = _
    simp only [State.switchWave, q, hdrop, hcw, if_true]

/-! ### Comb lines -/

section
variable (s : State)

theorem State.selectUp_comb : s.selectUp.comb = s.comb := by
  unfold State.selectUp
  grind

theorem State.fenceLane_comb (p i : Nat) : (s.fenceLane p i).comb = s.comb := by
  rw [State.fenceLane, State.selectUp_comb]
  rfl

theorem State.dropWave_comb (p i w cw : Nat) : (s.dropWave p i w cw).comb = s.comb := by
  unfold State.dropWave
  grind [State.fenceLane_comb, State.setPort_comb]

/-- The loss of a line that lights links changes ports, not records. -/
theorem State.lineLoss_comb (src : Nat) {line : Nat} (h : 8 ≤ line) : (s.lineLoss src line).comb = s.comb := by
  unfold State.lineLoss
  rw [if_neg (by omega)]
  refine (foldl_keeps (g := State.comb) (fun p _ u => ?_) _).trans rfl
  split
  · exact foldl_keeps (g := State.comb) (fun i _ v => v.dropWave_comb p i _ _) u
  · split <;> rfl

theorem Port.openLane_zero {q : Port} (h : (q.lane 0).open_ = true) : q.openLane = 0 := by
  unfold Port.openLane
  cases q.lanes.length with
  | zero => rfl
  | succ n => rw [List.range_succ_eq_map, List.find?_cons_of_pos (by exact h)]; rfl

end

/-- A part of O30: the records of comb lines. -/
theorem combLinesKeepRecords : Stated.CombLinesKeepRecords := by
  intro s src line hsrc hline
  have hname : ¬ (2 ≤ src || 16 ≤ line) = true := by simp; omega
  refine ⟨fun failed => ?_, fun res hlit h8 => ?_, fun r hr => ?_, fun p hp hst hmove hopen => ?_, fun p hp hst hmove => ?_⟩
  · refine ⟨_, congrArg Host.Outcome.next (if_neg hname), fun h8 => ?_⟩
    rw [State.line, State.lineLoss_comb _ src h8]
    exact AMap.get_put_self _ _ _ _
  · refine congrArg Host.Outcome.next ((if_neg ?_).trans (if_neg (by omega)))
    rw [Bool.or_eq_true, hlit]
    simpa using hname
  · refine congrArg Host.Outcome.next ((if_neg hname).trans ((if_neg ?_).trans ?_))
    · rcases hr with hr | hr
      · simp [hr]
      · have h3 : ¬ 3 ≤ r.state := by omega
        simp [h3]
    · simp only [Bool.and_eq_true, decide_eq_true_eq]
  · refine congrArg Host.Outcome.next ((if_neg ?_).trans ((if_neg (Bool.eq_false_iff.mp hmove)).trans ?_))
    · simp [Port.sends, hst, hp]
    · rw [Port.openLane_zero hopen]
      rfl
  · refine ⟨_, congrArg Host.Outcome.next ((if_neg ?_).trans (if_pos hmove)), by simp, rfl⟩
    simp [Port.sends, hst, hp]

/-! ### Routing tables -/

/-- A map after pairs are put into it one after another reads what was put at a key that is listed once. -/
theorem AMap.get_puts_of_mem {α β : Type} {v : β → α} {d : α} {l : List (Nat × β)} {e : Nat × β} (h : (l.map Prod.fst).Nodup)
    (he : e ∈ l) (m : AMap α) : AMap.get (l.foldl (fun m e => AMap.put m e.1 (v e.2)) m) e.1 d = v e.2 := by
  induction l using List.reverseRecOn with
  | nil => cases he
  | append_singleton l x ih =>
    rw [List.foldl_append, List.foldl_cons, List.foldl_nil, AMap.get_put]
    rw [List.map_append, List.nodup_append] at h
    obtain ⟨hl, -, hne⟩ := h
    rcases List.mem_append.mp he with he | he
    · rw [if_neg (hne _ (List.mem_map_of_mem he) _ (by simp))]
      exact ih hl he
    · rw [List.mem_singleton.mp he, if_pos rfl]

/-- At a key that is not listed it reads what it read before. -/
theorem AMap.get_puts_of_not_mem {α β : Type} {v : β → α} {d : α} {l : List (Nat × β)} {k : Nat} (h : ∀ e ∈ l, e.1 ≠ k) (m : AMap α) :
    AMap.get (l.foldl (fun m e => AMap.put m e.1 (v e.2)) m) k d = AMap.get m k d := by
  induction l generalizing m with
  | nil => rfl
  | cons e l ih =>
    rw [List.foldl_cons, ih fun x hx => h x (List.mem_cons_of_mem _ hx), AMap.get_put_ne _ (h e List.mem_cons_self).symm]

section
variable (s : State) (tb : List (Nat × Nat))

/-- A table is the routes and the module's index, and nothing else. -/
theorem State.setTable_eq : ∃ self, s.setTable tb =
    { s with route := (tb.filter fun e => decide (e.1 < 1024)).foldl (fun m e => AMap.put m e.1 (e.2 % 2 ^ 30)) [], self := self } := by
  unfold State.setTable
  dsimp only
  split
  · exact ⟨_, rfl⟩
  · exact ⟨s.self, rfl⟩

theorem State.setTable_routeOf (h : (tb.map Prod.fst).Nodup) : (∀ e ∈ tb, e.1 < 1024 → (s.setTable tb).routeOf e.1 = e.2 % 2 ^ 30) ∧
    ∀ m, (∀ e ∈ tb, e.1 ≠ m) → (s.setTable tb).routeOf m = routeReset := by
  obtain ⟨self, heq⟩ := s.setTable_eq tb
  rw [heq]
  refine ⟨fun e he hlt => ?_, fun m hm => ?_⟩
  · exact AMap.get_puts_of_mem (v := fun x => x % 2 ^ 30) (h.sublist (List.filter_sublist.map _))
      (List.mem_filter.mpr ⟨he, by simpa using hlt⟩) []
  · exact AMap.get_puts_of_not_mem (v := fun x => x % 2 ^ 30) (fun e he => hm e (List.mem_of_mem_filter he)) []

variable {s tb}

theorem State.breakUnreach_of_none (h : s.groups = []) : s.breakUnreach = s := by simp [State.breakUnreach, h]

theorem execRoutingTableInstall_installs {fabric : List FabNode} (hv : s.validTable fabric tb [] = true) (hr : s.remotes = [])
    (hg : s.groups = []) : exec (.routingTableInstall tb fabric) s = .next (s.setTable tb) := by
  obtain ⟨self, heq⟩ := s.setTable_eq tb
  have hr' : (s.setTable tb).remotes = [] := by rw [heq, hr]
  have hg' : (s.setTable tb).groups = [] := by rw [heq, hg]
  refine congrArg Host.Outcome.next ((if_neg (by simp [hv])).trans ?_)
  dsimp only
  rw [hr']
  exact State.breakUnreach_of_none hg'

theorem execRoutingTableInstall_refuses {fabric : List FabNode} (hv : s.validTable fabric tb [] = false) :
    exec (.routingTableInstall tb fabric) s = .next (s.send 2 msgTableRefused []) :=
  congrArg Host.Outcome.next (if_pos (by simp [hv]))

theorem State.validTable_of_noRoute {fabric : List FabNode} {new : List (Nat × Nat)}
    (h : (∃ e ∈ tb, bitAt e.2 28 = false ∧ bitAt e.2 29 = false ∧ candidates e.2 = []) ∨ fabric = []) :
    s.validTable fabric tb new = false := by
  rcases h with ⟨e, he, h28, h29, hc⟩ | rfl
  · have hok : tableOk tb = false := by
      simp only [tableOk, List.all_eq_false]
      exact ⟨e, he, by simp [h28, h29, hc]⟩
    simp [State.validTable, hok]
  · simp [State.validTable, State.withTable]

end

/-- A part of O30: a table is installed whole, or refused. -/
theorem routingTablesInstall : Stated.RoutingTablesInstall := by
  intro s tb fabric
  refine ⟨fun hv hnodup hr hg => ?_, fun hv => execRoutingTableInstall_refuses hv,
    fun h => execRoutingTableInstall_refuses (State.validTable_of_noRoute h)⟩
  obtain ⟨hlisted, hother⟩ := s.setTable_routeOf tb hnodup
  refine ⟨_, execRoutingTableInstall_installs hv hr hg, ?_, hlisted, fun m _ => hother m⟩
  obtain ⟨self, heq⟩ := s.setTable_eq tb
  rw [heq]

/-! ### Circuit changes -/

/-- Two of a state's parts are kept where a port is put into a state. -/
theorem State.toPort_frame (s : State) (p : Nat) (st : PortState) : (s.toPort p st).change = s.change ∧ (s.toPort p st).circuits = s.circuits := by
  unfold State.toPort State.selectUp
  grind [State.sendTrain, State.setPort]

/-- A fold whose steps change each a port of their own gives each of these what its step gives it. -/
theorem foldl_port {f : State → Nat × Nat → State} (hne : ∀ s e j, j ≠ e.1 → (f s e).port j = s.port j) {l : List (Nat × Nat)}
    {e : Nat × Nat} (hl : l.Pairwise fun a b => a.1 ≠ b.1) (he : e ∈ l) (s : State) :
    ∃ u, u.port e.1 = s.port e.1 ∧ (l.foldl f s).port e.1 = (f u e).port e.1 := by
  induction l generalizing s with
  | nil => cases he
  | cons x l ih =>
    rw [List.foldl_cons]
    obtain ⟨hx, hl⟩ := List.pairwise_cons.mp hl
    rcases List.mem_cons.mp he with rfl | he
    · exact ⟨s, rfl, foldl_keeps (g := fun u => u.port e.1) (fun b hb u => hne u b e.1 (hx b hb)) (f s e)⟩
    · obtain ⟨u, hu, hf⟩ := ih hl he (f s x)
      exact ⟨u, hu.trans (hne s x e.1 (hx e he).symm), hf⟩

/-- A port of a change drains if it carries traffic (R442). -/
def State.drainFor (s : State) (e : Nat × Nat) : State :=
  if (s.port e.1).sends then (s.setPort e.1 { s.port e.1 with planned := true, expectPeer := some e.2 }).toPort e.1 .drain
  else s.setPort e.1 { s.port e.1 with planned := true, expectPeer := some e.2 }

section
variable {s : State} {ch : Change} {fi fl : List FabNode}

theorem State.drainFor_port_ne (e : Nat × Nat) (j : Nat) (h : j ≠ e.1) : (s.drainFor e).port j = s.port j := by
  unfold State.drainFor
  split
  · rw [State.toPort_port_ne _ h, State.port_setPort, if_neg h]
  · rw [State.port_setPort, if_neg h]

theorem State.drainFor_port (e : Nat × Nat) : ((s.drainFor e).port e.1).expectPeer = some e.2 ∧ ((s.drainFor e).port e.1).planned = true ∧
    ((s.drainFor e).port e.1).st = if (s.port e.1).sends then .drain else (s.port e.1).st := by
  unfold State.drainFor
  split
  · rw [State.toPort_port_quiet _ _ rfl, State.port_setPort_self]
    exact ⟨rfl, rfl, rfl⟩
  · rw [State.port_setPort_self]
    exact ⟨rfl, rfl, rfl⟩

theorem State.drainFor_change (e : Nat × Nat) : (s.drainFor e).change = s.change := by
  unfold State.drainFor
  split
  · exact (State.toPort_frame _ _ _).1
  · rfl

theorem execChangeRequest_drains (hc : s.change = none) (hi : s.validTable fi ch.interim [] = true) (hf : s.validTable fl ch.final ch.ports = true)
    (hp : ∀ e ∈ ch.ports, e.1 < 96) : exec (.changeRequest ch (fi, fl)) s =
    .next ((ch.ports.foldl State.drainFor { s.setTable ch.interim with change := some ch }).holdQueued.readyAtOnce ch) := by
  refine congrArg Host.Outcome.next (if_neg ?_)
  have hany : (ch.ports.any fun e => decide (96 ≤ e.1)) = false := by simpa using hp
  rw [hc, hany, hi, hf]
  exact Bool.false_ne_true

theorem execChangeRequest_refuses (h : s.change.isSome = true ∨ s.validTable fi ch.interim [] = false ∨
    s.validTable fl ch.final ch.ports = false ∨ ∃ e ∈ ch.ports, 96 ≤ e.1) : exec (.changeRequest ch (fi, fl)) s = .next (s.send 2 msgTableRefused []) := by
  refine congrArg Host.Outcome.next (if_pos ?_)
  rcases h with h | h | h | ⟨e, he, h96⟩
  · simp [h]
  · simp [h]
  · simp [h]
  · have hany : (ch.ports.any fun e => decide (96 ≤ e.1)) = true := by simpa using ⟨e.1, ⟨_, he⟩, h96⟩
    rw [hany]
    simp

theorem State.readyAtOnce_port (j : Nat) : (s.readyAtOnce ch).port j = s.port j := by
  unfold State.readyAtOnce
  split <;> rfl

theorem State.readyAtOnce_change : (s.readyAtOnce ch).change = s.change := by
  unfold State.readyAtOnce
  split <;> rfl

end

section
variable {s : State} {p : Nat} {ch : Change}

/-- A port of a change that is dark trains to its new peer (R442). -/
def State.retrain (s : State) (e : Nat × Nat) : State :=
  if (s.port e.1).st == .dark then
    (s.setPort e.1 { s.port e.1 with keep := false, drainSent := false, drainGot := false }).toPort e.1 .relock
  else s

theorem State.retrain_port (e : Nat × Nat) (j : Nat) :
    ((s.retrain e).port j).st = if j = e.1 ∧ (s.port j).st = .dark then .relock else (s.port j).st := by
  unfold State.retrain
  split
  case isTrue h =>
    rw [State.toPort_port, State.port_setPort]
    by_cases hj : j = e.1
    · subst hj
      simp [beq_iff_eq.mp h]
    · simp [hj]
  case isFalse h =>
    rw [if_neg]
    rintro ⟨rfl, hd⟩
    exact h (beq_iff_eq.mpr hd)

theorem State.retrain_circuits (e : Nat × Nat) : (s.retrain e).circuits = s.circuits := by
  unfold State.retrain
  split
  · exact (State.toPort_frame _ _ _).2
  · rfl

theorem State.retrains_port (l : List (Nat × Nat)) {e : Nat × Nat} (he : e ∈ l) (h : (s.port e.1).st = .dark) :
    ((l.foldl State.retrain s).port e.1).st = .relock := by
  obtain ⟨before, after, rfl⟩ := List.append_of_mem he
  have hbefore (u : State) (hu : (u.port e.1).st = .dark ∨ (u.port e.1).st = .relock) (l : List (Nat × Nat)) :
      ((l.foldl State.retrain u).port e.1).st = .dark ∨ ((l.foldl State.retrain u).port e.1).st = .relock := by
    induction l generalizing u with
    | nil => exact hu
    | cons x l ih =>
      rw [List.foldl_cons]
      refine ih _ ?_
      rw [State.retrain_port]
      split
      · exact .inr rfl
      · exact hu
  have hafter (u : State) (hu : (u.port e.1).st = .relock) (l : List (Nat × Nat)) : ((l.foldl State.retrain u).port e.1).st = .relock := by
    induction l generalizing u with
    | nil => exact hu
    | cons x l ih =>
      rw [List.foldl_cons]
      refine ih _ ?_
      rw [State.retrain_port, hu, if_neg (by simp)]
  rw [List.foldl_append, List.foldl_cons]
  refine hafter _ ?_ after
  rw [State.retrain_port]
  rcases hbefore s (.inl h) before with hu | hu <;> simp [hu]

theorem execCircuitsReady_retrains (h : s.change = some ch) :
    exec .circuitsReady s = .next (ch.ports.foldl State.retrain { s with circuits := true }) := by
  change execCircuitsReady s = _
  simp only [execCircuitsReady, event, h]
  rfl

/-- The first open lane is a lane of the port. -/
theorem Port.openLane_lt {q : Port} (h : q.lanes ≠ []) : q.openLane < q.lanes.length := by
  unfold Port.openLane
  cases hf : (List.range q.lanes.length).find? fun i => (q.lane i).open_ with
  | none => exact List.length_pos_iff.mpr h
  | some i => exact List.mem_range.mp (List.mem_of_find?_eq_some hf)

/-- A lane of an empty port has room in its replay buffer (R442). -/
theorem State.portEmpty_room {i : Nat} (h : s.portEmpty p = true) (hi : i < (s.port p).lanes.length) : ((s.port p).lane i).room 1 = true := by
  simp only [State.portEmpty, Bool.and_eq_true, List.all_eq_true] at h
  obtain ⟨hlanes, -⟩ := h
  have hmem : (s.port p).lane i ∈ (s.port p).lanes := by
    rw [Port.lane, List.getD_eq_getElem _ _ hi]
    exact List.getElem_mem hi
  obtain ⟨hack, hqueue⟩ := hlanes _ hmem
  simp [Lane.room, hqueue, List.isEmpty_iff.mp hack]

/-- The DRAIN flit of a port that is empty (R442). -/
theorem execPortDrainComplete_sends (hst : (s.port p).st = .drain) (hempty : s.portEmpty p = true) (hsent : (s.port p).drainSent = false) :
    exec (.portDrainComplete p) s = .next (s.setPort p
      { (s.port p).sendSeq (s.port p).openLane (((s.port p).lane (s.port p).openLane).blank 3) with drainSent := true }) :=
  congrArg Host.Outcome.next ((if_neg (by simp [hst, hempty])).trans (if_pos (by simp [hsent])))

theorem execPortDrainComplete_darkens (hst : (s.port p).st = .drain) (hempty : s.portEmpty p = true) (hsent : (s.port p).drainSent = true)
    (hgot : (s.port p).drainGot = true) : exec (.portDrainComplete p) s = .next ((s.toPort p .dark).send 2 msgPortReady [p]) :=
  congrArg Host.Outcome.next ((if_neg (by simp [hst, hempty])).trans ((if_neg (by simp [hsent])).trans (if_pos hgot)))

/-- A port whose change is over (R444). -/
def State.unplan (s : State) (e : Nat × Nat) : State := s.setPort e.1 { s.port e.1 with planned := false, expectPeer := none }

/-- The final table stands and the change is over (R442). -/
def State.finishChange (s : State) (ch : Change) : State :=
  ch.ports.foldl State.unplan { s.setTable ch.final with change := none, circuits := false, chgep := (s.chgep + 1) % 2 ^ 64 }

theorem State.unplans_port (l : List (Nat × Nat)) {e : Nat × Nat} (he : e ∈ l) :
    ((l.foldl State.unplan s).port e.1).expectPeer = none ∧ ((l.foldl State.unplan s).port e.1).planned = false := by
  have hstep (u : State) (x : Nat × Nat) (h : (u.port e.1).expectPeer = none ∧ (u.port e.1).planned = false) :
      ((u.unplan x).port e.1).expectPeer = none ∧ ((u.unplan x).port e.1).planned = false := by
    rw [State.unplan, State.port_setPort]
    split
    · exact ⟨rfl, rfl⟩
    · exact h
  have hlist (l : List (Nat × Nat)) (u : State) (h : (u.port e.1).expectPeer = none ∧ (u.port e.1).planned = false) :
      ((l.foldl State.unplan u).port e.1).expectPeer = none ∧ ((l.foldl State.unplan u).port e.1).planned = false := by
    induction l generalizing u with
    | nil => exact h
    | cons x l ih =>
      rw [List.foldl_cons]
      exact ih _ (hstep u x h)
  obtain ⟨before, after, rfl⟩ := List.append_of_mem he
  rw [List.foldl_append, List.foldl_cons]
  refine hlist after _ ?_
  rw [State.unplan, State.port_setPort_self]
  exact ⟨rfl, rfl⟩

theorem State.finishChange_frame : (s.finishChange ch).change = none ∧ (s.finishChange ch).circuits = false ∧
    (s.finishChange ch).chgep = (s.chgep + 1) % 2 ^ 64 ∧ (s.finishChange ch).remotes = s.remotes ∧ (s.finishChange ch).groups = s.groups := by
  have hkeep {α : Type} (g : State → α) (hg : ∀ u e, g (State.unplan u e) = g u) (u : State) : g (ch.ports.foldl State.unplan u) = g u :=
    foldl_keeps (fun e _ v => hg v e) u
  obtain ⟨self, heq⟩ := s.setTable_eq ch.final
  unfold State.finishChange
  rw [heq]
  exact ⟨hkeep State.change (fun _ _ => rfl) _, hkeep State.circuits (fun _ _ => rfl) _, hkeep State.chgep (fun _ _ => rfl) _,
    hkeep State.remotes (fun _ _ => rfl) _, hkeep State.groups (fun _ _ => rfl) _⟩

theorem execChangeFinalInstall_finishes (hc : s.change = some ch) (hcirc : s.circuits = true) (hr : s.remotes = []) (hg : s.groups = [])
    (hup : ∀ e ∈ ch.ports, (s.port e.1).sends = true) : exec .changeFinalInstall s = .next (s.finishChange ch) := by
  obtain ⟨-, -, -, hr', hg'⟩ := State.finishChange_frame (s := s) (ch := ch)
  have hall : (!s.circuits || !ch.ports.all fun e => (s.port e.1).sends) = false := by simpa [hcirc] using hup
  change execChangeFinalInstall s = _
  simp only [execChangeFinalInstall, event, hc, hall, Bool.false_eq_true, if_false]
  change Host.Outcome.next (((s.finishChange ch).remotes.filter fun r => r.held).foldl State.releaseHeld (s.finishChange ch)).breakUnreach = _
  rw [hr', hr]
  exact congrArg Host.Outcome.next (State.breakUnreach_of_none (hg'.trans hg))

theorem execChangeFinalInstall_waits (hc : s.change = some ch)
    (h : s.circuits = false ∨ ∃ e ∈ ch.ports, (s.port e.1).st ≠ .up ∧ (s.port e.1).st ≠ .degraded) :
    exec .changeFinalInstall s = .next s := by
  have hall : (!s.circuits || !ch.ports.all fun e => (s.port e.1).sends) = true := by
    rcases h with h | ⟨e, he, hne⟩
    · simp [h]
    · have hfalse : (ch.ports.all fun e => (s.port e.1).sends) = false := by
        rw [List.all_eq_false]
        exact ⟨e, he, by simpa [Port.sends_iff] using hne⟩
      simp [hfalse]
  change execChangeFinalInstall s = _
  simp only [execChangeFinalInstall, event, hc, hall, if_true]

end

/-- A part of O30: a circuit change from its request to its end. -/
theorem circuitChangeRuns : Stated.CircuitChangeRuns := by
  refine ⟨fun s ch fi fl hc hi hf hp hne => ?_, fun s ch fi fl h => execChangeRequest_refuses h, fun s p hst hempty hlanes => ⟨fun hsent => ?_,
    fun hsent hgot => ?_⟩, fun s ch hc => ?_, fun s ch hc h => execChangeFinalInstall_waits hc h, fun s ch hc hcirc hr hg hup => ?_⟩
  · refine ⟨_, execChangeRequest_drains hc hi hf hp, ?_, fun hnil => ?_, fun e he => ?_⟩
    · rw [State.readyAtOnce_change]
      exact foldl_keeps (g := State.change) (fun e _ u => u.drainFor_change e) _
    · simp [State.readyAtOnce, hnil, State.send]
    · obtain ⟨self, heq⟩ := s.setTable_eq ch.interim
      obtain ⟨u, hu, hport⟩ := foldl_port (f := State.drainFor) (fun s e j h => s.drainFor_port_ne e j h) hne he
        { s.setTable ch.interim with change := some ch }
      have hs : ({ s.setTable ch.interim with change := some ch } : State).port e.1 = s.port e.1 := by
        rw [heq]
        rfl
      have hdrain := u.drainFor_port e
      rw [← hport, hu, hs] at hdrain
      rw [State.readyAtOnce_port]
      exact hdrain
  · refine ⟨_, execPortDrainComplete_sends hst hempty hsent, ?_⟩
    rw [State.port_setPort_self]
    refine ⟨rfl, hst, ?_⟩
    have hi := Port.openLane_lt hlanes
    have hlane : ((s.port p).sendSeq (s.port p).openLane (((s.port p).lane (s.port p).openLane).blank 3)).lane (s.port p).openLane =
        ((s.port p).lane (s.port p).openLane).sendSeq (((s.port p).lane (s.port p).openLane).blank 3) := Port.lane_setLane_self hi
    exact (congrArg (fun l : Lane => l.out.getLast?.map Flit.ty) hlane).trans (Lane.sendSeq_sent _ (State.portEmpty_room hempty hi))
  · exact ⟨_, execPortDrainComplete_darkens hst hempty hsent hgot, by rw [State.port_send, State.toPort_port, if_pos rfl]⟩
  · exact ⟨_, execCircuitsReady_retrains hc, foldl_keeps (g := State.circuits) (fun e _ u => u.retrain_circuits e) _,
      fun e he hd => State.retrains_port ch.ports he hd⟩
  · obtain ⟨hchange, hcircuits, hchgep, -, -⟩ := State.finishChange_frame (s := s) (ch := ch)
    exact ⟨_, execChangeFinalInstall_finishes hc hcirc hr hg fun e he => Port.sends_iff.mpr (hup e he), hchange, hcircuits, hchgep,
      fun e he => State.unplans_port ch.ports he⟩

/-! ### Intensity reduce -/

section
variable {s : State} {o : IrOp} {e : IrSession} {light : List (Nat × List Nat)} {noise : List Int} {low : Bool}

theorem length_leBytes (n v : Nat) : (leBytes n v).length = n := by
  induction n generalizing v with
  | zero => rfl
  | succ n ih => rw [leBytes, List.length_cons, ih]

theorem length_pbytes (n v : Nat) (p : Bool) : (pbytes n v p).length = n := by rw [pbytes, List.length_map, length_leBytes]

/-- An element's sum while the margin is good: that of the senders present (R446; log entry 105). -/
theorem irSums_getD (light : List (Nat × List Nat)) (noise : List Int) {i : Nat} (h : i < 2048) :
    (irSums light noise false).getD i 0 = (light.map fun e => irElement e.2 i).sum := by
  have hsums : irSums light noise false = (List.range 2048).map fun i => (light.map fun e => irElement e.2 i).sum := by
    simp only [irSums, Bool.false_eq_true, if_false]
  rw [hsums]
  generalize 2048 = n at h ⊢
  simp [List.getD_eq_getElem?_getD, h]

/-- What a receive writes fills its buffer (R450). -/
theorem irData_length (slot present expect : Nat) (sums : List Nat) (low : Bool) : (irData slot present expect sums low).length = 4160 := by
  simp only [irData, irStatus, List.length_append, List.length_flatMap, length_pbytes, List.map_const', List.length_range, List.sum_replicate,
    smul_eq_mul]

/-- The one operation of a session in a slot that has passed ends. -/
theorem execIrSlotTransfer_ends (ho : s.irOps = [o]) (hnow : 256 * (o.slot + 1) ≤ s.now) (hl : ∀ x ∈ light, x.1 < 8) :
    exec (.irSlotTransfer o.sess o.slot light noise low) s = .next (({ s with irOps := [] } : State).irEnd o light noise low) := by
  refine congrArg Host.Outcome.next ((if_neg (Nat.not_lt.mpr hnow)).trans ?_)
  have hlight : (light.filter fun e => decide (e.1 < 8)) = light := by simpa [List.filter_eq_self] using hl
  simp [ho, hlight]

theorem State.irEnd_receive (htask : (AMap.find? s.tasks o.tid).isSome = true) (he : AMap.get s.irSess o.sess none = some e)
    (hs : (s.port e.port).sends = true) (hd : o.data = none) (hon : (s.task o.tid).onCore = true)
    (hkey : s.keyBroken (s.cmOf o.tid (o.buf - cmBase)) = false) : s.irEnd o light noise low =
      ({ s with mem := s.mem.write (s.cmOf o.tid (o.buf - cmBase)) (irData o.slot (irPresent light) e.expect (irSums light noise low) low) } :
        State).retire o.tid 2 o.seq := by
  have hlen : (irData o.slot (irPresent light) e.expect (irSums light noise low) low).take 4160 =
      irData o.slot (irPresent light) e.expect (irSums light noise low) low := List.take_of_length_le (irData_length ..).le
  simp only [State.irEnd, Option.isNone_eq_false_iff.mpr htask, he, hs, hd, Bool.not_true, Bool.false_eq_true, if_false, State.cmPieces, hon,
    if_true, State.writeWins, State.writeWin, hkey, hlen]

theorem State.irEnd_send {bs : List Byte} {j : Nat} (htask : (AMap.find? s.tasks o.tid).isSome = true)
    (he : AMap.get s.irSess o.sess none = some e) (hs : (s.port e.port).sends = true) (hd : o.data = some bs) (hj : e.sender = some j) :
    s.irEnd o light noise low = (s.send 2 msgLight
      ([o.sess, o.slot, irLaunch e j o.slot, 8 + j, 1] ++ bs.map fun b => min b.toNat 63)).retire o.tid 2 o.seq := by
  simp only [State.irEnd, Option.isNone_eq_false_iff.mpr htask, he, hs, hd, hj, Bool.not_true, Bool.false_eq_true, if_false]

/-- A retired number does not live on its timeline any more (R241). -/
theorem State.retire_line {tid t n : Nat} (htask : (AMap.find? s.tasks tid).isSome = true) : n ∉ (((s.retire tid t n).task tid).line t).live := by
  simp [State.retire, Option.isNone_eq_false_iff.mpr htask, Task.line]

theorem State.retire_irOps (tid t n : Nat) : (s.retire tid t n).irOps = s.irOps := by
  unfold State.retire
  split <;> rfl

theorem State.retire_mem (tid t n : Nat) : (s.retire tid t n).mem = s.mem := by
  unfold State.retire
  split <;> rfl

end

/-- A part of O30: session entries, and the end of a slot for a send and for a receive. -/
theorem intensitySlotsEnd : Stated.IntensitySlotsEnd := by
  refine ⟨fun s n e hn => congrArg Host.Outcome.next (if_pos hn), fun s o e light noise low ho hnow he hs htask hl => ⟨fun hd hon hkey => ?_,
    fun bs j hd hj => ?_⟩, fun light noise i hi => ?_, fun s n slot light noise low hnow => congrArg Host.Outcome.next (if_pos hnow)⟩
  · refine ⟨_, (execIrSlotTransfer_ends ho hnow hl).trans (congrArg Host.Outcome.next
      (State.irEnd_receive (s := { s with irOps := [] }) htask he hs hd hon hkey)), ?_⟩
    have hcm : ({ s with irOps := [] } : State).cmOf o.tid (o.buf - cmBase) = s.cmOf o.tid (o.buf - cmBase) := rfl
    rw [hcm, State.retire_irOps, State.retire_mem]
    dsimp only
    exact ⟨rfl, rfl, State.retire_line htask⟩
  · exact (execIrSlotTransfer_ends ho hnow hl).trans (congrArg Host.Outcome.next
      (State.irEnd_send (s := { s with irOps := [] }) htask he hs hd hj))
  · exact irSums_getD light noise hi

/-- Settles O30, part by part. -/
theorem linkEventsAct : Obligations.LinkEventsAct :=
  ⟨portStatesMove, lockExchangeOpensPort, flitsAreTakenInOrder, linkTimersSendFlits, wavelengthsFailOver, switchoverDropsWavelength,
    combLinesKeepRecords, routingTablesInstall, circuitChangeRuns, intensitySlotsEnd⟩

end Sys2Proof.Machine

/-! ## The decoder and the encoder agree (R44, R46, R49) -/

namespace Sys2Proof.Laws.RoundTrip

/-- The round trip of every instruction: one case per constructor, in their order. -/
theorem statement (i : Instr) : Statement i :=
  Instr.rec (motive := Statement)
    nop fence trap bkpt tret pmret iflush yield ill add sub and or xor andn orn xnor shl shr sra rol ror slt sltu seq sne min max minu maxu addw subw shlw
    shrw sraw addi andi ori xori shli shri srai roli rori slti sltui seqi snei ldb ldh ldw ldd ldbz ldhz ldwz stb sth stw std beq bne blt bge bltu bgeu
    bbs bbc beqLong bneLong bltLong bgeLong bltuLong bgeuLong bbsLong bbcLong j jal jLong jalLong jr jalr jtab mul mulh mulhu mulhsu mulw div divu rem
    remu divw remw clz ctz popc brev bswap fnsb clzw ctzw popcw bfx bfxu bfi bfmsk bfxi bfxui bfii fadd fsub fmul fdiv fsqrt fmin fmax fminn fmaxn fsgnj
    fsgnjn fsgnjx feq flt fle fclass fcvt fcvti fcvtu icvtf ucvtf fma fms fnma fnms csrr csrw csrs csrc amoadd amoand amoor amoxor amomin amomax amominu
    amomaxu amoswp amocas acq rel tryacq bind unbind pref wbf ldro hstart hjoin hexit hpeek waittl kexit rdv rdvadd rdvmax rdvor li liz lihi addl andl orl
    xorl sltl vadd vsub vmul vmulh vmadd vabs vneg vmin vmax vadds vsubs vavg vshl vshr vsra vdot4 vmov vaddLit vsubLit vmulLit vmulhLit vmaddLit vabsLit
    vnegLit vminLit vmaxLit vaddsLit vsubsLit vavgLit vshlLit vshrLit vsraLit vdot4Lit vmovLit vfadd vfsub vfmul vfdiv vfsqrt vfma vfms vfnma vfmin vfmax
    vfabs vfneg vfaddLit vfsubLit vfmulLit vfdivLit vfsqrtLit vfmaLit vfmsLit vfnmaLit vfminLit vfmaxLit vfabsLit vfnegLit vand vor vxor vandn vnot vpopc
    vclz vctz vbrev vfnsb vbfx vandLit vorLit vxorLit vandnLit vnotLit vpopcLit vclzLit vctzLit vbrevLit vfnsbLit vbfxLit vcmpeq vcmpne vcmplt vcmple
    vcmpltu vcmpleu vfcmpeq vfcmplt vfcmple vfcmpun vcmpeqLit vcmpneLit vcmpltLit vcmpleLit vcmpltuLit vcmpleuLit vfcmpeqLit vfcmpltLit vfcmpleLit
    vfcmpunLit plen plenu pand por pxor pnot pcnt pfirst pany pset vlanes vbcast vextr vins vslideup vslidedn vperm vcompress vexpand vsel viota vredadd
    vredmin vredmax vredminu vredmaxu vredand vredor vredxor vfredadd vfredmin vfredmax vcvt vnarrow vwiden vpackdx vunpkdx vpackdx4 vunpkdx4 vrcp vrsqrt
    vexp2 vlog2 vtanh vsigm vsinpi vcospi vld vlds vldx vldb vldff vst vsts vstx vstc vamoadd vamoor vamoand vamomin vamomax tld tst tzero tacc mxp mxps
    mxprobe phld phtrim phrd phinv dcmp cpy cpy2 cpyset cpytile cpycmp splook spevict spdemote sprel spprio sync sarrive swait syncv xsend xopen xput xend
    klaunch kquery ksignal lquery lrenew pgcnt ldrain lstat irsend irrecv pmark dstop powerGood stackBringup combLock switchPortTrain mgcRelease setReady
    cxlLinkTrain powerSample dieJunctionLimit dieJunctionRecover combLineBelowThreshold combLineRecover laserTelemetryUpdate issueGroupForm
    handlerInstructionLimit deadlockDetect sfuEntryComplete taskStart taskRestore taskSave spinTimeoutSwap hexitComplete kexitComplete storePerform
    accessReissue atomicAtHome pageWalk leaseExpiry cmeArbitrationRound copyUnit copyLeaseRenewal passArrival passStreamStart passDetected omuProbe
    omuPhld omuPhtrim omuPhrd omuPhinv omuTzero omuTacc dcmpExecute omuThermalLoop tcfgWrite phprobeWrite drlimitWrite gainWrite exchangeEntryRun
    groupEnterReleasing memberRelease levelConflictDetect peerLoss doorbellWrite launchRecordTake klaunchMgcAnswer kernelEligible kernelDependenceFault
    bindEntryWrite kernelDrainComplete replayCompare kernelKill preemptPartition priorityWaitTimeout contextCreateRequest queueRegister contextActivate
    contextSuspend contextResume contextDestroy contextFree faultHandover faultResolution faultRingSpace missEscalate slotEdge slotEdgeTimeout
    atsInvalidationRequest atsInvalidationCompletion dcdReleaseNotice dcdForcedRelease flitReceive nakTimer ackTimer idleFlitTimer portEnable portLock
    portLockExchangeDone portLockTimeout portLightLoss portFence portDisable portRestore wavelengthErrorDrop wavelengthSwitchover packetForward
    routingTableInstall remoteRequestReceive remoteResponseReceive remoteRetryTimeout remoteAbandonTimeout targetRecordExpiry changeRequest
    portDrainComplete circuitsReady changeFinalInstall irSessionWrite irSlotTransfer mgmtReadRequest cxlMemRead cxlMemWrite hostLinkFatalError cxlReset
    uncorrectableMemoryError registerParityError correctedError unitWithdraw stackThermalSample selfHoldNotice stackLost stackScrub rowRepair
    stackMailboxMessage imageStage imageVerify handoverRequest imageCatchUp switchOver catchUpTimeout heartbeat heartbeatMissed probationCommit
    pscImageBootTimeout svnMinimumRaise quoteRequest debugStopRequest debugResumeRequest monitorSample moncfgWrite pmctlWrite trbaseWrite csrWrite
    firmwareLeafStore frameReuseWaitElapsed newImageTrap tenantAuthenticatedRequest
    i

/-- What is no instruction of the opcode map has no words. -/
theorem isInsn_or_no_words (i : Instr) : (i.isInsn || (encode i).isEmpty) = true := by
  cases i <;> rfl

theorem isInsn_of_words {i : Instr} (h : encode i ≠ []) : i.isInsn = true := by
  simpa [h] using isInsn_or_no_words i

/-- An instruction has one to three words. -/
theorem encode_shape {i : Instr} (hi : i.isInsn = true) (hw : i.wf = true) :
    (∃ a, encode i = [a]) ∨ (∃ a b, encode i = [a, b]) ∨ ∃ a b c, encode i = [a, b, c] := by
  have hc := (statement i hi hw).1
  match h : encode i with
  | [] => rw [h] at hc; exact absurd hc (by simp [candidate])
  | [a] => exact .inl ⟨a, rfl⟩
  | [a, b] => exact .inr (.inl ⟨a, b, rfl⟩)
  | [a, b, c] => exact .inr (.inr ⟨a, b, c, rfl⟩)
  | _ :: _ :: _ :: _ :: _ => rw [h] at hc; exact absurd hc (by simp [candidate])

/-! ### What the decoder accepts -/

section Accept

variable {c : Option Instr} {ws : List Nat} {i : Instr} {n : Nat}

theorem accept_eq_ok_iff : accept c ws = .ok i n ↔ c = some i ∧ i.wf = true ∧ encode i = ws ∧ n = 4 * ws.length := by
  cases c with
  | none => simp [accept]
  | some j =>
    by_cases hj : j.wf = true ∧ encode j = ws
    · simp only [accept, hj, beq_self_eq_true, Bool.and_self, if_true, Decoded.ok.injEq, Option.some.injEq]
      constructor
      · rintro ⟨rfl, rfl⟩
        exact ⟨rfl, hj.1, hj.2, rfl⟩
      · rintro ⟨rfl, -, -, rfl⟩
        exact ⟨rfl, rfl⟩
    · simp only [accept, Bool.and_eq_true, beq_iff_eq, hj, if_false, reduceCtorEq, Option.some.injEq, false_iff]
      rintro ⟨rfl, hwf, hws, -⟩
      exact hj ⟨hwf, hws⟩

/-- Words that are no well-formed instruction's are refused, whatever candidate they name. -/
theorem accept_eq_bad (h : ∀ i : Instr, i.wf = true → encode i ≠ ws) : accept c ws = .bad 0x01 := by
  cases c with
  | none => rfl
  | some j =>
    refine if_neg ?_
    simp only [Bool.and_eq_true, beq_iff_eq, not_and]
    exact h j

end Accept

section Checks

variable {off w0 w1 w2 : Nat}

/-- Checks 1 and 2 passed, the candidate that the words name is accepted or not (checks 3 to 5). -/
theorem decodeWords_of_fits (hlen : w0 % 4 ≠ 3) (hfit : off % 32 + 4 * (w0 % 4 + 1) ≤ 32) :
    decodeWords off w0 w1 w2 = accept (candidate ([w0, w1, w2].take (w0 % 4 + 1))) ([w0, w1, w2].take (w0 % 4 + 1)) := by
  have h : w0 % 4 = 0 ∨ w0 % 4 = 1 ∨ w0 % 4 = 2 := by omega
  have hfit' : ¬ off % 32 + 4 * (w0 % 4 + 1) > 32 := by omega
  rw [decodeWords, if_neg (by simpa using hlen), if_neg hfit']
  rcases h with h | h | h <;> simp only [h] <;> rfl

/-- The words of a well-formed instruction are the words read exactly when the decoder reads that instruction. -/
theorem decodeWords_eq_ok_iff (hlen : w0 % 4 ≠ 3) (hfit : off % 32 + 4 * (w0 % 4 + 1) ≤ 32) (i : Instr) (n : Nat) :
    decodeWords off w0 w1 w2 = .ok i n ↔
      i.wf = true ∧ encode i = [w0, w1, w2].take (w0 % 4 + 1) ∧ n = 4 * (w0 % 4 + 1) := by
  have hcount : ([w0, w1, w2].take (w0 % 4 + 1)).length = w0 % 4 + 1 := by
    rw [List.length_take]
    simp only [List.length_cons, List.length_nil]
    omega
  rw [decodeWords_of_fits hlen hfit, accept_eq_ok_iff, hcount]
  refine ⟨fun h => h.2, fun ⟨hwf, hws, hn⟩ => ⟨?_, hwf, hws, hn⟩⟩
  have hi : i.isInsn = true := isInsn_of_words (by rw [hws]; simp)
  exact hws ▸ (statement i hi hwf).1

end Checks

/-- Settles O35: each check by its branch of the decoder; the words that are accepted, and those refused, by what accept answers. -/
theorem decodeChecksInOrder : Obligations.DecodeChecksInOrder := fun _ _ _ _ =>
  ⟨fun hres => if_pos (by simp [hres]),
    fun hlen hcross => (if_neg (by simpa using hlen)).trans (if_pos hcross),
    fun hlen hfit => ⟨decodeWords_eq_ok_iff hlen hfit,
      fun hnone => (decodeWords_of_fits hlen hfit).trans (accept_eq_bad hnone)⟩⟩

/-- The words read at the place of an instruction are its own, as many as its first word's LEN says (R44). -/
theorem take_words_of_encode {i : Instr} (hi : i.isInsn = true) (hw : i.wf = true) (rest : List Nat) :
    let l := encode i ++ rest
    l.getD 0 0 % 4 + 1 = (encode i).length ∧
      [l.getD 0 0, l.getD 1 0, l.getD 2 0].take (l.getD 0 0 % 4 + 1) = encode i ∧ (encode i).length ≤ 3 := by
  have hlen := (statement i hi hw).2
  rcases encode_shape hi hw with ⟨a, h⟩ | ⟨a, b, h⟩ | ⟨a, b, c, h⟩ <;> rw [h] at hlen ⊢ <;>
    exact ⟨hlen, by simp_all, by simp⟩

/-- Settles O34: the words read are the instruction's own, and its candidate is the instruction. -/
theorem decodeOfEncode : Obligations.DecodeOfEncode := by
  intro i hi hw off rest hfit
  obtain ⟨hlen, hws, hle⟩ := take_words_of_encode hi hw rest
  dsimp only
  rw [← hlen] at hfit hle ⊢
  exact (decodeWords_eq_ok_iff (by omega) hfit i _).mpr ⟨hw, hws.symm, rfl⟩

/-- Settles O33: the decoder is evaluated at each of the words. -/
theorem wordsOfTheSpecDecode : Obligations.WordsOfTheSpecDecode := by
  unfold Obligations.WordsOfTheSpecDecode
  decide

end Sys2Proof.Laws.RoundTrip

/-! ## Jumps (R175 to R177) -/

namespace Sys2Proof.Machine

section Jumps

variable {s : State}

/-- A jump by an offset in units of 4 bytes (R175). -/
theorem jumpBy_eq (len : Nat) (o : Word) (link : Bool) :
    jumpBy len o link s = (if link then s.link len else s, .jump (s.thr.pc + 4 * o)) := by
  rw [jumpBy, BitVec.mul_comm]

theorem jumpBy_jumps (h : s.Ready) {i : Instr} {len : Nat} {o : Word} (hi : exec i s = issue .plain len s (jumpBy len o false)) :
    Jumps i s s (s.thr.pc + 4 * o) :=
  jumps_of h hi (jumpBy_eq len o false)

theorem jumpBy_links (h : s.Ready) {i : Instr} {len : Nat} {o : Word} (hi : exec i s = issue .plain len s (jumpBy len o true)) :
    Jumps i s (s.link len) (s.thr.pc + 4 * o) :=
  jumps_of h hi (jumpBy_eq len o true)

/-- Where a jump through a register goes: A = 0 names lr (R176). -/
def State.jumpTarget (s : State) (a : Reg) (imm : BitVec 14) : Word := (if a = 0 then s.thr.lr else s.x a) + imm.signExtend 64

variable {a b : Reg} {imm : BitVec 14} {link : Bool}

theorem jumpReg_of_clean (hp : s.xp a = false) : jumpReg a imm link s =
    if (s.jumpTarget a imm).toNat % 4 != 0 then (s, .fault 0x04 0 0)
    else (if link then s.link 4 else s, .jump (s.jumpTarget a imm)) :=
  State.unlessPoison_of_clean hp _

theorem jumpReg_misaligned (hp : s.xp a = false) (ht : (s.jumpTarget a imm).toNat % 4 ≠ 0) :
    jumpReg a imm link s = (s, .fault 0x04 0 0) := by
  rw [jumpReg_of_clean hp, if_pos (by simpa using ht)]

theorem jumpReg_aligned (hp : s.xp a = false) (ht : (s.jumpTarget a imm).toNat % 4 = 0) :
    jumpReg a imm link s = (if link then s.link 4 else s, .jump (s.jumpTarget a imm)) := by
  rw [jumpReg_of_clean hp, if_neg (by simp [ht])]

/-! ### Jumps through a table (R177) -/

/-- What jtab does once no register that it reads is poisoned. -/
def jumpTable (a b : Reg) (s : State) : State × Res :=
  Got.bind (s.load s.cur.1 s.cur.2 (s.x a).toNat 8) fun s n =>
    if n.any PByte.p then (s, .fault 0x51 0 0)
    else if leNat (n.map PByte.b) ≤ (s.x b).toNat then (s, .done)
    else Got.bind (s.load s.cur.1 s.cur.2 (s.x a + 8 + 8 * s.x b).toNat 8) fun s t =>
      let w := leNat (t.map PByte.b)
      if t.any PByte.p then (s, .fault 0x51 0 0)
      else if w % 4 != 0 then (s, .fault 0x04 0 0)
      else (s, .jump (BitVec.ofNat 64 w))

theorem exec_jtab : exec (.jtab a b) s = issue .plain 4 s fun s => s.unlessPoison [a, b] (jumpTable a b) := rfl

theorem State.unlessPoison_two_poisoned (hp : (s.xp a || s.xp b) = true) (k : State → State × Res) :
    s.unlessPoison [a, b] k = (s, .fault 0x51 0 0) :=
  if_pos (by simpa using hp)

theorem State.unlessPoison_two_clean (hp : (s.xp a || s.xp b) = false) (k : State → State × Res) :
    s.unlessPoison [a, b] k = k s :=
  if_neg (by simpa using hp)

section Length

variable {r : State} {n : List PByte} (hn : s.load s.cur.1 s.cur.2 (s.x a).toNat 8 = (r, .bytes n)) (hclean : n.any PByte.p = false)
include hn hclean

/-- An index at or past the table's length falls through. -/
theorem jumpTable_outside (hlen : leNat (n.map PByte.b) ≤ (r.x b).toNat) : jumpTable a b s = (r, .done) := by
  simp only [jumpTable, Got.bind, hn, hclean, hlen, Bool.false_eq_true, if_false, if_true]

theorem jumpTable_entry {q : State} {e : List PByte} (hlen : (r.x b).toNat < leNat (n.map PByte.b))
    (he : r.load r.cur.1 r.cur.2 (r.x a + 8 + 8 * r.x b).toNat 8 = (q, .bytes e)) (heclean : e.any PByte.p = false)
    (halign : leNat (e.map PByte.b) % 4 = 0) : jumpTable a b s = (q, .jump (BitVec.ofNat 64 (leNat (e.map PByte.b)))) := by
  simp only [jumpTable, Got.bind, hn, hclean, Nat.not_le.mpr hlen, he, heclean, halign, bne_self_eq_false, Bool.false_eq_true, if_false]

end Length

end Jumps

/-- Settles O5, form by form. -/
theorem jumpsGoToTarget : Obligations.JumpsGoToTarget := by
  intro s h
  refine ⟨fun o => ⟨jumpBy_jumps h rfl, jumpBy_links h rfl⟩, fun o => ⟨jumpBy_jumps h rfl, jumpBy_links h rfl⟩,
    fun a imm => ⟨fun hp => ?poisoned, fun hp ht => ?misaligned, fun hp ht => ?aligned⟩, fun a b => ⟨fun hp => ?tablePoisoned, ?table⟩⟩
  case poisoned =>
    exact ⟨faults_of h rfl (State.unlessPoison_of_poisoned hp _), faults_of h rfl (State.unlessPoison_of_poisoned hp _)⟩
  case misaligned => exact ⟨faults_of h rfl (jumpReg_misaligned hp ht), faults_of h rfl (jumpReg_misaligned hp ht)⟩
  case aligned => exact ⟨jumps_of h rfl (jumpReg_aligned hp ht), jumps_of h rfl (jumpReg_aligned hp ht)⟩
  case tablePoisoned => exact faults_of h exec_jtab (State.unlessPoison_two_poisoned hp _)
  case table =>
    intro r n hp hn hclean
    have hgo := State.unlessPoison_two_clean hp (jumpTable a b)
    exact ⟨fun hlen => effects_of h exec_jtab (hgo.trans (jumpTable_outside hn hclean hlen)),
      fun q e hlen he heclean halign => jumps_of h exec_jtab (hgo.trans (jumpTable_entry hn hclean hlen he heclean halign))⟩

end Sys2Proof.Machine

/-! ## SYS, DBG and drain instructions (R179 to R186, R497) -/

namespace Sys2Proof.Machine

/-! ### What records and cancellations leave of a thread -/

section Leaves

variable (s : State) (tid slot i j : Nat)

/-- A trace record makes no other thread the current one. -/
@[simp] theorem State.traceRec_cur (ty flags value : Nat) : (s.traceRec tid slot ty flags value).cur = s.cur := by
  have hwrite {u v : State} {ctx va : Nat} {bs : List PByte} {n : Nat} (h : u.engineWrite ctx va bs n = some v) : v.cur = u.cur := by
    obtain ⟨_, _, _, _, _, _, rfl⟩ := u.engineWrite_recordsOnly ctx va bs n v h
    rfl
  have hgetD (u : State) (ctx va : Nat) (bs : List PByte) (n : Nat) : ((u.engineWrite ctx va bs n).getD u).cur = u.cur := by
    cases h : u.engineWrite ctx va bs n with
    | none => rfl
    | some v => exact hwrite h
  unfold State.traceRec
  dsimp only
  split
  · rfl
  · split
    · exact hgetD ..
    · split
      · exact hgetD ..
      · next h => exact (hgetD ..).trans (hwrite h)

@[simp] theorem State.traceRec_thread (ty flags value : Nat) : (s.traceRec tid slot ty flags value).thread i j = s.thread i j :=
  congrArg (Task.thread · j) (s.traceRec_task tid slot ty flags value i)

@[simp] theorem State.thread_cancelSfu : (s.cancelSfu tid slot).thread i j = s.thread i j := by
  unfold State.thread State.cancelSfu
  rw [State.task_setTask]
  split <;> simp_all [Task.thread]

@[simp] theorem State.core_task_cancelSfu : ((s.cancelSfu tid slot).task i).core = (s.task i).core := by
  unfold State.cancelSfu
  rw [State.task_setTask]
  split <;> simp_all [Task.core]

@[simp] theorem State.core_task_setThread (t : Thread) : ((s.setThread tid slot t).task i).core = (s.task i).core := by
  rw [State.task_setThread]
  split <;> simp_all

end Leaves

/-! ### Debug stops (R491) -/

/-- A thread after a debug stop came to it: held, unless it is not live, has an open packet, is in a PC-match handler or is held already. -/
def Thread.debugHeld (t : Thread) : Thread :=
  if !t.live || t.packet.isSome || t.shadow.isSome || decide (t.st = .debug) then t else { t with st := .debug, prior := t.st }

/-- A thread that is held is not held a second time. -/
theorem Thread.debugHeld_debugHeld (t : Thread) : t.debugHeld.debugHeld = t.debugHeld := by
  by_cases h : (!t.live || t.packet.isSome || t.shadow.isSome || decide (t.st = .debug)) = true
  · rw [Thread.debugHeld.eq_1 t, if_pos h, Thread.debugHeld, if_pos h]
  · rw [Thread.debugHeld.eq_1 t, if_neg h, Thread.debugHeld]
    simp

theorem Thread.debugHeld_of_ready {t : Thread} (hst : t.st = .ready) (hp : t.packet = none) (hs : t.shadow = none) :
    t.debugHeld = { t with st := .debug, prior := .ready } := by
  simp [Thread.debugHeld, Thread.live, hst, hp, hs]

/-- What a debug stop of threads keeps: the current thread's name, the place of task i, whether core c stops, and what a stop makes of
thread j of task i. -/
def State.stopView (s : State) (i j c : Nat) : (Nat × Nat) × Nat × Bool × Thread :=
  (s.cur, (s.task i).core, (s.core c).dbgStop, (s.thread i j).debugHeld)

section Stops

variable (s : State) (tid slot : Nat)

theorem State.holdThread_thread (i j : Nat) :
    (s.holdThread tid slot).thread i j = if i = tid ∧ j = slot then (s.thread tid slot).debugHeld else s.thread i j := by
  unfold State.holdThread Thread.debugHeld
  dsimp only
  split
  · split <;> simp_all
  · rw [State.traceRec_thread, State.thread_cancelSfu, State.thread_setThread]

theorem State.holdThread_stopView (i j c : Nat) : (s.holdThread tid slot).stopView i j c = s.stopView i j c := by
  have hthread : ((s.holdThread tid slot).thread i j).debugHeld = (s.thread i j).debugHeld := by
    rw [State.holdThread_thread]
    split
    · next h => rw [Thread.debugHeld_debugHeld, h.1, h.2]
    · rfl
  rw [State.stopView, hthread]
  unfold State.holdThread State.stopView
  dsimp only
  split
  · rfl
  · simp only [State.traceRec_cur, State.traceRec_task, State.traceRec_dbgStop, State.core_task_cancelSfu, State.core_task_setThread]
    rfl

/-- A core that is stopped stops; each thread of its task is held or not yet. -/
theorem State.stopCore_stopView (i j c : Nat) : (s.stopCore c).stopView i j c = (s.cur, (s.task i).core, true, (s.thread i j).debugHeld) := by
  have hmark : (s.setCore c { s.core c with dbgStop := true }).stopView i j c = (s.cur, (s.task i).core, true, (s.thread i j).debugHeld) := by
    rw [State.stopView, State.core_setCore_self]
    rfl
  unfold State.stopCore
  dsimp only
  split
  · exact hmark
  · exact (foldl_keeps (g := fun s => s.stopView i j c) (fun k _ s => s.holdThread_stopView _ k i j c) _).trans hmark

variable {s}

/-- The current thread of a core that is stopped, at its instruction boundary. -/
theorem State.stopCore_holds (h : s.thr.st = .ready ∧ s.thr.packet = none ∧ s.thr.shadow = none) :
    let t := (s.stopCore s.tk.core).holdIfStopping s.cur.1 s.cur.2
    (t.core s.tk.core).dbgStop = true ∧ t.thr = { s.thr with st := .debug, prior := .ready } := by
  obtain ⟨hst, hp, hs⟩ := h
  obtain ⟨hcur, hcore, hstop, hheld⟩ : _ ∧ _ ∧ _ ∧ _ := by
    simpa only [State.stopView, Prod.mk.injEq] using s.stopCore_stopView s.cur.1 s.cur.2 s.tk.core
  have hgoes : (s.stopCore s.tk.core).holdIfStopping s.cur.1 s.cur.2 = (s.stopCore s.tk.core).holdThread s.cur.1 s.cur.2 := by
    rw [State.holdIfStopping, hcore]
    exact if_pos hstop
  obtain ⟨hcur', -, hstop', -⟩ : _ ∧ _ ∧ _ ∧ _ := by
    simpa only [State.stopView, Prod.mk.injEq] using
      (s.stopCore s.tk.core).holdThread_stopView s.cur.1 s.cur.2 s.cur.1 s.cur.2 s.tk.core
  dsimp only
  rw [hgoes]
  refine ⟨hstop'.trans hstop, ?_⟩
  rw [State.thr, hcur', hcur, State.holdThread_thread, if_pos ⟨rfl, rfl⟩, hheld]
  exact Thread.debugHeld_of_ready hst hp hs

/-- An instruction that leaves its thread READY at pc and stops the core. -/
theorem issue_stops (h : s.Ready) {i : Instr} {f : State → State × Res} {t : Thread} (hi : exec i s = issue .plain 4 s f)
    (hf : f s = ((s.setThr t).stopCore s.tk.core, .left)) (ht : t.st = .ready ∧ t.packet = none ∧ t.shadow = none) :
    ∃ u, exec i s = .next u ∧ (u.core s.tk.core).dbgStop = true ∧ u.thr = { t with st := .debug, prior := .ready } := by
  have hholds := State.stopCore_holds (s := s.setThr t) (by rw [State.thr_setThr]; exact ht)
  rw [State.thr_setThr, State.tk_setThr, Task.setThread_core] at hholds
  exact ⟨_, by rw [hi, issue_ready h, hf]; rfl, hholds⟩

end Stops

/-! ### Drains with nothing buffered (R180, R185, R223) -/

section Drains

variable {s : State} (h : s.Drained)
include h

theorem State.Drained.deliverOr (k : State → State × Res) : s.deliverOr s.isStoreFault k = k s := by
  have hwbuf : (s.thread s.cur.1 s.cur.2).wbuf = [] := h.1
  simpa [State.drainThen, State.drain, hwbuf] using h.drainThen k

theorem State.Drained.drain : s.drain s.cur.1 s.cur.2 = (s, true) := by
  have hwbuf : (s.thread s.cur.1 s.cur.2).wbuf = [] := h.1
  simp [State.drain, hwbuf]

end Drains

theorem State.performWhere_of_empty {s : State} {tid : Nat} (h : (s.task tid).entries = []) (f : Nat × Nat × BufStore → Bool) :
    s.performWhere tid f = s := by
  rw [State.performWhere, h]
  rfl

/-- A fence with nothing to drain goes straight on. -/
theorem exec_fence_drained {s : State} (h : s.Ready) (hd : s.Drained) (n : BitVec 16) : Advances (.fence n) s 4 := by
  refine advances_of h (execFence.eq_1 n s) ?_
  have hwbuf : s.thr.wbuf = [] := hd.1
  have hdrain : (if n.toNat < 2 then s else (s.drain s.cur.1 s.cur.2).1) = s := by rw [hd.drain, ite_self]
  simp only [hdrain, hwbuf, List.any_nil, Bool.false_eq_true, if_false]
  exact hd.deliverOr _

theorem exec_iflush_drained {s : State} (h : s.Ready) (hd : s.Drained) (he : s.tk.entries = []) :
    Effects .iflush s (s.flushCode s.cur.1) 4 := by
  refine effects_of (i := .iflush) h (execIflush.eq_1 s) ?_
  simp only [State.performWhere_of_empty (show (s.task s.cur.1).entries = [] from he), he, List.isEmpty_nil, if_true]
  exact hd.deliverOr _

@[simp] theorem State.dropFetches_place (s : State) (tid : Nat) : ((s.dropFetches tid).task tid).place = (s.task tid).place := by
  change ((s.setTask tid _).task tid).place = _
  rw [State.task_setTask_self]

/-- The instruction cache of the flushed task's core is empty (R185). -/
theorem State.flushCode_icache (s : State) (tid : Nat) : ((s.flushCode tid).core (s.task tid).core).icache = [] := by
  have hcore : ((s.dropFetches tid).task tid).core = (s.task tid).core := by rw [Task.core, State.dropFetches_place]; rfl
  rw [← hcore, State.flushCode]
  exact congrArg Core.icache (State.core_setCore_self ..)

/-! ### bkpt and dstop (R182, R497) -/

section Debug

variable {s : State} (h : s.Ready)
include h

theorem exec_bkpt_unarmed (n : BitVec 16) (harm : s.tk.pmctl.getLsbD 2 = false) : Faults (.bkpt n) s 0x08 0 n.toNat :=
  faults_of (i := .bkpt n) h (execBkpt.eq_1 n s) (if_neg (ne_true_of_eq_false harm))

theorem exec_bkpt_armed (n : BitVec 16) (harm : s.tk.pmctl.getLsbD 2 = true) :
    ∃ t, exec (.bkpt n) s = .next t ∧ (t.core s.tk.core).dbgStop = true ∧ t.thr = { s.thr with st := .debug, prior := .ready } :=
  issue_stops h (t := { s.thr with st := .ready }) (execBkpt.eq_1 n s) (if_pos harm) ⟨rfl, h.packet, h.shadow⟩

theorem exec_dstop_free (hheld : (s.core s.tk.core).dbgHeld = false) : Advances .dstop s 4 :=
  advances_of h (execDstop.eq_1 s) (if_neg (ne_true_of_eq_false hheld))

theorem exec_dstop_held (hheld : (s.core s.tk.core).dbgHeld = true) :
    ∃ t, exec .dstop s = .next t ∧ (t.core s.tk.core).dbgStop = true
      ∧ t.thr = { s.thr with st := .debug, prior := .ready, pc := s.thr.pc + 4, skipPm := false } :=
  issue_stops h (t := { s.thr with st := .ready, pc := s.thr.pc + 4, skipPm := false }) (execDstop.eq_1 s) (if_pos hheld)
    ⟨rfl, h.packet, h.shadow⟩

end Debug

/-- Settles O6, instruction by instruction. -/
theorem systemInstructionsAct : Obligations.SystemInstructionsAct := by
  intro s h
  refine ⟨advances_of h (execNop.eq_1 s) rfl, effects_of (i := .yield) h (execYield.eq_1 s) rfl,
    fun hd => ⟨exec_fence_drained h hd, advances_of h (execWbf.eq_1 s) (hd.drainThen _),
      fun he => ⟨exec_iflush_drained h hd he, s.flushCode_icache s.cur.1⟩⟩,
    fun n => ⟨faults_of (i := .trap n) h (execTrap.eq_1 n s) rfl, faults_of (i := .ill n) h (execIll.eq_1 n s) rfl⟩,
    exec_bkpt_unarmed h, fun n harm => ?armed, fun a => effects_of (i := .pmark a) h (execPmark.eq_1 a s) rfl,
    exec_dstop_free h, fun hheld => ?held⟩
  case armed =>
    obtain ⟨t, hexec, hstop, ht⟩ := exec_bkpt_armed h n harm
    exact ⟨t, hexec, hstop, by rw [ht], by rw [ht], by rw [ht]⟩
  case held =>
    obtain ⟨t, hexec, hstop, ht⟩ := exec_dstop_held h hheld
    exact ⟨t, hexec, hstop, by rw [ht], by rw [ht]⟩

end Sys2Proof.Machine

/-! ## Returns from handlers (R183, R184, R382, R495) -/

namespace Sys2Proof.Machine

/-! ### The registers of a trap frame -/

/-- A thread whose x registers below n took values and poison, in the order of their numbers. -/
def Thread.loadX (t : Thread) (v : Nat → Word) (p : Nat → Bool) (n : Nat) : Thread :=
  (List.range n).foldl (fun t i => t.setX (BitVec.ofNat 5 i) (v i) (p i)) t

section LoadX

variable (t : Thread) (v : Nat → Word) (p : Nat → Bool)

theorem Thread.loadX_succ (n : Nat) : t.loadX v p (n + 1) = (t.loadX v p n).setX (BitVec.ofNat 5 n) (v n) (p n) := by
  simp only [Thread.loadX, List.range_succ, List.foldl_append, List.foldl_cons, List.foldl_nil]

/-- Each register below n but x0 holds its own value and poison. -/
theorem Thread.loadX_reads {n : Nat} (hn : n ≤ 32) {r : Reg} (hr : r ≠ 0) (hlt : r.toNat < n) :
    (t.loadX v p n).xr r = v r.toNat ∧ (t.loadX v p n).xpr r = p r.toNat := by
  induction n with
  | zero => omega
  | succ n ih =>
    rw [Thread.loadX_succ, Thread.xr_setX, Thread.xpr_setX]
    by_cases hrn : r = BitVec.ofNat 5 n
    · have hnat : r.toNat = n := by rw [hrn, BitVec.toNat_ofNat]; omega
      simp only [← hrn, hnat, hr, ne_eq, not_false_eq_true, and_self, if_true]
    · have hnat : r.toNat ≠ n := fun h => hrn (by rw [← h, BitVec.ofNat_toNat, BitVec.setWidth_eq])
      simpa [hrn] using ih (by omega) (by omega)

/-- Nothing but the x registers and their poison changes. -/
theorem Thread.loadX_frame (n : Nat) : t.loadX v p n = { t with x := (t.loadX v p n).x, xp := (t.loadX v p n).xp } := by
  induction n with
  | zero => rfl
  | succ n ih =>
    rw [Thread.loadX_succ, Thread.setX_frame, ih]

end LoadX

/-! ### tret (R183, R382) -/

/-- The address of the current thread's trap frame (R382). -/
def State.frameKey (s : State) : Nat := s.cmOf s.cur.1 (s.tk.lrec.cmsize * 1024 + 384 * s.cur.2)

/-- The word at an offset of the current thread's trap frame. -/
def State.frameWord (s : State) (o : Nat) : Word := BitVec.ofNat 64 (leNat ((s.mem.read (s.frameKey + o) 8).map PByte.b))

/-- The x registers that tret restores, with the poison that the frame says and that of their granules (log entry 15). -/
def State.framedX (s : State) : Thread :=
  s.thr.loadX (fun i => s.frameWord (8 * i))
    (fun i => (s.frameWord 0x100).getLsbD i || (s.mem.read (s.frameKey + 8 * i) 8).any PByte.p) 32

theorem State.framedX_reads (s : State) {r : Reg} (hr : r ≠ 0) : s.framedX.xr r = s.frameWord (8 * r.toNat)
    ∧ s.framedX.xpr r = ((s.frameWord 0x100).getLsbD r.toNat || (s.mem.read (s.frameKey + 8 * r.toNat) 8).any PByte.p) := by
  rw [State.framedX]
  exact Thread.loadX_reads s.thr _ _ le_rfl hr r.isLt

theorem State.framedX_vectors (s : State) : s.framedX.v = s.thr.v ∧ s.framedX.vp = s.thr.vp ∧ s.framedX.p = s.thr.p := by
  rw [State.framedX, Thread.loadX_frame]
  exact ⟨rfl, rfl, rfl⟩

/-- A thread that takes lr and TFLAGS from its frame and leaves its handler (R183). -/
def Thread.fromFrame (t : Thread) (lr tflags : Word) : Thread :=
  { t with lr := lr, tflags := tflags &&& 0x1FF, fltrec := t.fltrec &&& 0xFF }

section FromFrame

variable (t : Thread) (lr tflags pc : Word)

theorem Thread.fromFrame_scalars : let u := (t.fromFrame lr tflags).goesOn pc
    u.st = .ready ∧ u.pc = pc ∧ u.lr = lr ∧ u.tflags = tflags &&& 0x1FF ∧ u.fltrec.getLsbD 8 = false :=
  ⟨rfl, rfl, rfl, rfl, by simp [Thread.fromFrame, Thread.goesOn]⟩

theorem Thread.fromFrame_vectors : let u := (t.fromFrame lr tflags).goesOn pc
    u.v = t.v ∧ u.vp = t.vp ∧ u.p = t.p := ⟨rfl, rfl, rfl⟩

theorem Thread.xr_fromFrame (r : Reg) : ((t.fromFrame lr tflags).goesOn pc).xr r = t.xr r := rfl
theorem Thread.xpr_fromFrame (r : Reg) : ((t.fromFrame lr tflags).goesOn pc).xpr r = t.xpr r := rfl

end FromFrame

section Tret

variable {s : State}

/-- The checks of tret in their order (R150), then what it restores. -/
theorem trapReturn_eq (s : State) : s.trapReturn =
    if (s.frameWord 0x118).toNat % 4 != 0 then (s, .fault 0x04 0 0)
    else if !s.thr.hnd then (s, .fault 0x01 0 0)
    else (s.setThr (s.framedX.fromFrame (s.frameWord 0x108) (s.frameWord 0x110)), .jump (s.frameWord 0x118)) := rfl

theorem trapReturn_misaligned (hpc : (s.frameWord 0x118).toNat % 4 ≠ 0) : s.trapReturn = (s, .fault 0x04 0 0) := by
  rw [trapReturn_eq, if_pos (bne_iff_ne.mpr hpc)]

theorem trapReturn_outside (hpc : (s.frameWord 0x118).toNat % 4 = 0) (hhnd : s.thr.hnd = false) :
    s.trapReturn = (s, .fault 0x01 0 0) := by
  simp only [trapReturn_eq, hpc, hhnd, bne_self_eq_false, Bool.not_false, Bool.false_eq_true, if_false, if_true]

theorem trapReturn_restores (hpc : (s.frameWord 0x118).toNat % 4 = 0) (hhnd : s.thr.hnd = true) :
    s.trapReturn = (s.setThr (s.framedX.fromFrame (s.frameWord 0x108) (s.frameWord 0x110)), .jump (s.frameWord 0x118)) := by
  simp only [trapReturn_eq, hpc, hhnd, bne_self_eq_false, Bool.not_true, Bool.false_eq_true, if_false]

/-- In a handler, with an aligned pc in the frame, the thread goes on as its frame says. -/
theorem exec_tret_restores (h : s.Ready) (hpc : (s.frameWord 0x118).toNat % 4 = 0) (hhnd : s.thr.hnd = true) :
    exec .tret s = .next (s.setThr ((s.framedX.fromFrame (s.frameWord 0x108) (s.frameWord 0x110)).goesOn (s.frameWord 0x118))) := by
  have hjump := jumps_of (i := .tret) h (execTret.eq_1 s) (trapReturn_restores hpc hhnd)
  rwa [Jumps, State.thr_setThr, State.setThr_setThr, h.hold] at hjump

end Tret

/-- A part of O45. -/
theorem tretRestoresTrapFrame : Stated.TretRestoresTrapFrame := by
  intro s h
  refine ⟨fun hpc => faults_of (i := .tret) h (execTret.eq_1 s) (trapReturn_misaligned hpc),
    fun hhnd hpc => faults_of (i := .tret) h (execTret.eq_1 s) (trapReturn_outside hpc hhnd),
    fun hhnd hpc => ⟨_, exec_tret_restores h hpc hhnd, by rw [OnlyThread, State.thr_setThr], ?_⟩⟩
  simp only [State.x, State.xp, State.thr_setThr, Thread.xr_fromFrame, Thread.xpr_fromFrame]
  obtain ⟨hst, hgo, hlr, hflags, hout⟩ := Thread.fromFrame_scalars s.framedX (s.frameWord 0x108) (s.frameWord 0x110) (s.frameWord 0x118)
  obtain ⟨hv, hvp, hp⟩ := Thread.fromFrame_vectors s.framedX (s.frameWord 0x108) (s.frameWord 0x110) (s.frameWord 0x118)
  obtain ⟨hv', hvp', hp'⟩ := s.framedX_vectors
  exact ⟨hst, hgo, hlr, hflags, hout, fun r hr => (s.framedX_reads hr).1, fun r hr => (s.framedX_reads hr).2,
    hv.trans hv', hvp.trans hvp', hp.trans hp'⟩

/-! ### pmret (R184, R495) -/

section Leave

variable {s : State} {tid slot : Nat} {h : ShadowRegs}

/-- The shadow context passes to a thread that waits for it: no other thread changes, no task moves and no core stops or goes on. -/
theorem State.passShadow_leaves (hst : (s.thread tid slot).st ≠ .waiting .shadow) :
    (s.passShadow tid).cur = s.cur ∧ ((s.passShadow tid).task tid).core = (s.task tid).core
    ∧ (∀ c, ((s.passShadow tid).core c).dbgStop = (s.core c).dbgStop) ∧ (s.passShadow tid).thread tid slot = s.thread tid slot := by
  unfold State.passShadow
  dsimp only
  split
  · exact ⟨rfl, rfl, fun _ => rfl, rfl⟩
  · next i hi =>
    have hwaits : ((s.task tid).thread i).st = .waiting .shadow := by simpa using List.find?_some hi
    have hne : ¬ (tid = tid ∧ slot = i) := fun hs => hst (hs.2 ▸ hwaits)
    have hother (t : Thread) : (s.setThread tid i t).thread tid slot = s.thread tid slot := by rw [State.thread_setThread, if_neg hne]
    split
    · simp only [State.enterHandler, State.traceRec_cur, State.traceRec_task, State.traceRec_dbgStop, State.traceRec_thread,
        State.core_task_setThread, hother]
      exact ⟨rfl, trivial, fun _ => rfl, trivial⟩
    · simp only [State.core_task_setThread, hother]
      exact ⟨rfl, trivial, fun _ => rfl, trivial⟩

/-- A thread that left its handler (R184, R494). -/
def Thread.leftHandler (t : Thread) (h : ShadowRegs) : Thread :=
  { t with
    x := h.x, xp := h.xp, lr := h.lr, tflags := h.tflags, shadow := none, pc := t.pmepc, skipPm := t.pmepc == h.addr, st := .ready
    held := none, got := [], answer := none }

theorem State.leaveHandler_leaves (hsh : (s.thread tid slot).shadow = some h) :
    (s.leaveHandler tid slot).cur = s.cur ∧ ((s.leaveHandler tid slot).task tid).core = (s.task tid).core
    ∧ (∀ c, ((s.leaveHandler tid slot).core c).dbgStop = (s.core c).dbgStop)
    ∧ (s.leaveHandler tid slot).thread tid slot = (s.thread tid slot).leftHandler h := by
  have hthread : ((s.setThread tid slot ((s.thread tid slot).leftHandler h)).traceRec tid slot 4 0 0).thread tid slot =
      (s.thread tid slot).leftHandler h := by rw [State.traceRec_thread, State.thread_setThread_self]
  obtain ⟨hcur, hcore, hdbg, hkept⟩ := State.passShadow_leaves (tid := tid) (slot := slot)
    (s := (s.setThread tid slot ((s.thread tid slot).leftHandler h)).traceRec tid slot 4 0 0) (by rw [hthread]; exact SlotState.noConfusion)
  have hleave : s.leaveHandler tid slot =
      ((s.setThread tid slot ((s.thread tid slot).leftHandler h)).traceRec tid slot 4 0 0).passShadow tid := by
    simp only [State.leaveHandler, hsh]
    rfl
  rw [hleave]
  refine ⟨hcur.trans (State.traceRec_cur ..), hcore.trans ?_, fun c => (hdbg c).trans (State.traceRec_dbgStop ..), hkept.trans hthread⟩
  rw [State.traceRec_task, State.core_task_setThread]

/-- An instruction in a PC-match handler is counted, and nothing else of its thread changes (R496). -/
theorem State.countHandler_leaves (hsh : s.thr.shadow = some h) : s.countHandler.cur = s.cur ∧ (s.countHandler.task s.cur.1).core = s.tk.core
    ∧ (∀ c, s.countHandler.core c = s.core c)
    ∧ ∃ n, s.countHandler.thr = { s.thr with shadow := some { h with count := n } } := by
  cases hheld : s.thr.held with
  | none =>
    have hcount : s.countHandler = s.setThr { s.thr with shadow := some { h with count := h.count + 1 } } := by
      simp only [State.countHandler, hheld, hsh]
    rw [hcount, State.setThr, State.core_task_setThread, ← State.setThr, State.thr_setThr]
    exact ⟨rfl, rfl, fun _ => rfl, _, rfl⟩
  | some w =>
    have hcount : s.countHandler = s := by simp only [State.countHandler, hheld]
    rw [hcount]
    exact ⟨rfl, rfl, fun _ => rfl, h.count, by rw [← hsh]⟩

/-- In a PC-match handler an instruction of no barred kind does what its meaning says, once it is counted. -/
theorem issue_inHandler (hrun : s.thr.canRun = true) (hp : s.thr.packet = none) (hsh : s.thr.shadow = some h) (len : Nat)
    (f : State → State × Res) : issue .plain len s f =
      .next ((State.settle len (f s.countHandler)).holdIfStopping s.cur.1 s.cur.2) := by
  obtain ⟨hcur, -, -, n, hthr⟩ := State.countHandler_leaves hsh
  have hallowed : s.countHandler.thr.forbids .plain = false := by
    rw [hthr]
    simp [Thread.forbids, hp, Class.isBarred]
  simp only [issue, hrun, hallowed, hcur, if_true, Bool.false_eq_true, if_false]

end Leave

/-! ### What pmret answers -/

section Pmret

/-- The checks of pmret, then the end of the handler. -/
def pmretMeaning (s : State) : State × Res :=
  if s.thr.pmepc.toNat % 4 != 0 then (s, .fault 0x04 0 0)
  else if s.thr.shadow.isNone then (s, .fault 0x01 0 0)
  else (s.leaveHandler s.cur.1 s.cur.2, .left)

variable {s : State} {h : ShadowRegs}

theorem exec_pmret (s : State) : exec .pmret s = issue .plain 4 s pmretMeaning := rfl

theorem pmretMeaning_misaligned (hpc : s.thr.pmepc.toNat % 4 ≠ 0) : pmretMeaning s = (s, .fault 0x04 0 0) :=
  if_pos (bne_iff_ne.mpr hpc)

theorem pmretMeaning_outside (hpc : s.thr.pmepc.toNat % 4 = 0) (hsh : s.thr.shadow = none) : pmretMeaning s = (s, .fault 0x01 0 0) := by
  simp only [pmretMeaning, hpc, hsh, bne_self_eq_false, Bool.false_eq_true, if_false, Option.isNone_none, if_true]

theorem pmretMeaning_leaves (hpc : s.thr.pmepc.toNat % 4 = 0) (hsh : s.thr.shadow = some h) :
    pmretMeaning s = (s.leaveHandler s.cur.1 s.cur.2, .left) := by
  simp only [pmretMeaning, hpc, hsh, bne_self_eq_false, Bool.false_eq_true, if_false, Option.isNone_some]

theorem State.takeFault_cur (s : State) (tid slot code kind addr i1 i2 : Nat) :
    (s.takeFault tid slot code kind addr i1 i2).cur = s.cur := by
  have hrdv (u : State) : (u.leaveRdv tid slot).cur = u.cur := by
    unfold State.leaveRdv
    dsimp only
    split <;> rfl
  rw [State.takeFault, State.traceRec_cur]
  exact hrdv _

end Pmret

/-- A part of O45. -/
theorem pmretRestoresShadow : Stated.PmretRestoresShadow := by
  refine ⟨fun s h => ⟨fun hpc => faults_of h (exec_pmret s) (pmretMeaning_misaligned hpc),
    fun hpc => faults_of h (exec_pmret s) (pmretMeaning_outside hpc h.shadow)⟩, fun s h hrun hp hstop hsh => ?_⟩
  obtain ⟨hcur, hcore, hcores, n, hthr⟩ := State.countHandler_leaves hsh
  have hgoes {u : State} (hucore : (u.task s.cur.1).core = s.tk.core) (hu : ∀ c, (u.core c).dbgStop = (s.core c).dbgStop) :
      u.holdIfStopping s.cur.1 s.cur.2 = u := State.holdIfStopping_of_not _ _ _ (by rw [hucore, hu, hstop])
  rw [exec_pmret, issue_inHandler hrun hp hsh]
  generalize s.countHandler = v at *
  have hthread : v.thread s.cur.1 s.cur.2 = { s.thr with shadow := some { h with count := n } } := by rw [← hthr, State.thr, hcur]
  refine ⟨fun hpc => ⟨_, rfl, ?misaligned⟩, fun hpc => ⟨_, rfl, ?leaves⟩⟩
  case misaligned =>
    have hfault : State.settle 4 (pmretMeaning v) = v.takeFault s.cur.1 s.cur.2 0x04 0 0 0 0 := by
      rw [pmretMeaning_misaligned (by rw [hthr]; exact hpc), ← hcur]
      rfl
    rw [hfault, hgoes ((State.takeFault_place ..).trans hcore) (fun c => (State.takeFault_dbgStop ..).trans (by rw [hcores])),
      State.thr, State.takeFault_cur, hcur, State.takeFault_thread]
    exact ⟨rfl, rfl⟩
  case leaves =>
    obtain ⟨hcur', hcore', hdbg, hleft⟩ := State.leaveHandler_leaves (s := v) (congrArg Thread.shadow hthread)
    have hleave : State.settle 4 (pmretMeaning v) = v.leaveHandler s.cur.1 s.cur.2 := by
      rw [pmretMeaning_leaves (by rw [hthr]; exact hpc) (congrArg Thread.shadow hthr), hcur]
      rfl
    rw [hleave, hgoes (hcore'.trans hcore) (fun c => (hdbg c).trans (by rw [hcores])), State.thr, hcur', hcur, hleft, hthread]
    exact ⟨rfl, rfl, rfl, rfl, rfl, rfl, rfl, rfl⟩

/-- Settles O45, part by part. -/
theorem returnsRestoreState : Obligations.ReturnsRestoreState := ⟨tretRestoresTrapFrame, pmretRestoresShadow⟩

end Sys2Proof.Machine

/-! ## Multiplication and division (R82, R156) -/

namespace Sys2Proof.Machine

/-! ### Signed readings and words -/

theorem toInt_toNat {m : Nat} (n : Nat) (x : BitVec m) : toInt n x.toNat = (x.setWidth n).toInt := by
  have hhalf : x.toNat % 2 ^ n < 2 ^ (n - 1) ↔ 2 * (x.toNat % 2 ^ n) < 2 ^ n := by
    cases n with
    | zero => simp [Nat.mod_one]
    | succ n => rw [Nat.pow_succ', Nat.add_sub_cancel]; omega
  rw [toInt, BitVec.toInt_eq_toNat_cond, BitVec.toNat_setWidth]
  simp only [hhalf]

theorem ofNat_ofInt (n : Nat) (v : Int) : BitVec.ofNat n (ofInt n v) = BitVec.ofInt n v := by
  refine BitVec.eq_of_toNat_eq ?_
  have h := (BitVec.ofInt n v).isLt
  rw [BitVec.toNat_ofInt] at h
  rw [BitVec.toNat_ofNat, BitVec.toNat_ofInt]
  exact Nat.mod_eq_of_lt h

theorem ofNat_ones (n : Nat) : BitVec.ofNat n (2 ^ n - 1) = BitVec.allOnes n :=
  BitVec.eq_of_toNat_eq (by rw [BitVec.toNat_ofNat, BitVec.toNat_allOnes, Nat.mod_eq_of_lt (Nat.sub_one_lt (by positivity))])

/-- A result of n bits, sign-extended, is what the w functions write (R151). -/
theorem wordS_ofNat (v : Nat) : wordS (BitVec.ofNat 64 v) = (BitVec.ofNat 32 v).signExtend 64 := by
  rw [wordS, Word.sext, BitVec.setWidth_ofNat_of_le (by decide)]

/-- The high half of an exact product. -/
theorem extractLsb'_ofInt (v : Int) : (BitVec.ofInt 128 v).extractLsb' 64 64 = BitVec.ofInt 64 (v / 2 ^ 64) := by
  refine BitVec.eq_of_toNat_eq ?_
  rw [BitVec.extractLsb'_toNat, BitVec.toNat_ofInt, BitVec.toNat_ofInt, Nat.shiftRight_eq_div_pow]
  omega

/-! ### The corners of R82 -/

section Corners
variable {m : Nat} (n : Nat) (a b : BitVec m)

theorem toInt_eq_zero_iff : toInt n b.toNat = 0 ↔ b.setWidth n = 0 := by
  rw [toInt_toNat, ← BitVec.toInt_zero (w := n), BitVec.toInt_inj]
  rfl

theorem mod_eq_zero_iff : b.toNat % 2 ^ n = 0 ↔ b.setWidth n = 0 := by
  rw [← BitVec.toNat_setWidth, ← BitVec.toNat_inj, BitVec.ofNat_eq_ofNat, BitVec.toNat_zero]

theorem divS_eq : BitVec.ofNat n (divS n a.toNat b.toNat) =
    if b.setWidth n = 0 then BitVec.allOnes n else (a.setWidth n).sdiv (b.setWidth n) := by
  by_cases h : b.setWidth n = 0
  · rw [divS, if_pos (by simpa using (toInt_eq_zero_iff n b).mpr h), if_pos h, ofNat_ones]
  · rw [divS, if_neg (by simpa using mt (toInt_eq_zero_iff n b).mp h), if_neg h, ofNat_ofInt, toInt_toNat, toInt_toNat]
    exact BitVec.eq_of_toInt_eq (by rw [BitVec.toInt_ofInt, BitVec.toInt_sdiv])

theorem remS_eq : BitVec.ofNat n (remS n a.toNat b.toNat) =
    if b.setWidth n = 0 then a.setWidth n else (a.setWidth n).srem (b.setWidth n) := by
  by_cases h : b.setWidth n = 0
  · rw [remS, if_pos (by simpa using (toInt_eq_zero_iff n b).mpr h), if_pos h, ← BitVec.toNat_setWidth, BitVec.ofNat_toNat, BitVec.setWidth_eq]
  · rw [remS, if_neg (by simpa using mt (toInt_eq_zero_iff n b).mp h), if_neg h, ofNat_ofInt, toInt_toNat, toInt_toNat,
      ← BitVec.toInt_srem, BitVec.ofInt_toInt]

theorem divU_eq : BitVec.ofNat n (divU n a.toNat b.toNat) =
    if b.setWidth n = 0 then BitVec.allOnes n else (a.setWidth n).udiv (b.setWidth n) := by
  by_cases h : b.setWidth n = 0
  · rw [divU, if_pos (by simpa using (mod_eq_zero_iff n b).mpr h), if_pos h, ofNat_ones]
  · rw [divU, if_neg (by simpa using mt (mod_eq_zero_iff n b).mp h), if_neg h, BitVec.udiv_eq, BitVec.udiv_def,
      BitVec.toNat_setWidth, BitVec.toNat_setWidth]

theorem remU_eq : BitVec.ofNat n (remU n a.toNat b.toNat) =
    if b.setWidth n = 0 then a.setWidth n else (a.setWidth n).umod (b.setWidth n) := by
  by_cases h : b.setWidth n = 0
  · rw [remU, if_pos (by simpa using (mod_eq_zero_iff n b).mpr h), if_pos h, ← BitVec.toNat_setWidth, BitVec.ofNat_toNat, BitVec.setWidth_eq]
  · rw [remU, if_neg (by simpa using mt (mod_eq_zero_iff n b).mp h), if_neg h, BitVec.umod_eq, BitVec.umod_def,
      BitVec.toNat_setWidth, BitVec.toNat_setWidth]

end Corners

/-! ### The instructions -/

section MulDiv
variable {s : State} {i : Instr} {f : Word → Word → Word} {d a b : Reg} {v : Word}

/-- A function of two registers gives its result with the OR of their poison (R147, R148). -/
theorem alu2_gives (h : s.Ready) (hi : exec i s = issue .plain 4 s (alu2 f d a b)) (hv : f (s.x a) (s.x b) = v) :
    GivesX i s d v (s.xp a || s.xp b) 4 := by
  have hp : [a, b].any s.xp = (s.xp a || s.xp b) := by simp
  rw [GivesX, hi, ← hv, ← hp]
  exact issue_result h _ _ _ d [a, b] _ rfl

/-- FN9 values beyond remw's name no instruction. -/
theorem pickMuldiv_reserved {w0 : Nat} (hfn : 11 ≤ w0 / 8388608 % 512) : pickMuldiv w0 = none := by
  unfold pickMuldiv
  split <;> first | rfl | omega

end MulDiv

open Laws.RoundTrip in
theorem decodeWords_muldiv_reserved {off w0 : Nat} (w1 w2 : Nat) (hoff : off % 32 ≤ 28) (hlen : w0 % 4 = 0) (hmaj : w0 / 4 % 64 = 14)
    (hfn : 11 ≤ w0 / 8388608 % 512) : decodeWords off w0 w1 w2 = .bad 0x01 := by
  have hpick : candidate [w0] = none := (maj_pickMuldiv hmaj).trans (pickMuldiv_reserved hfn)
  rw [decodeWords_of_fits (by omega) (by omega), hlen]
  exact congrArg (accept · [w0]) hpick

/-- Settles O1, function by function: the exact products, and the quotients and remainders with the corners of R82. -/
theorem mulDivGivesResult : Obligations.MulDivGivesResult := by
  intro s hs d a b x y gives low x32 y32 high
  have word {i : Instr} {fn : Nat} {f : Word → Word → Word} {v : Word}
      (henc : encode i = [56 + 256 * d.toNat + 8192 * a.toNat + 262144 * b.toNat + 8388608 * fn])
      (hi : exec i s = issue .plain 4 s (alu2 f d a b)) (hv : f x y = v) : gives i fn v := ⟨henc, alu2_gives hs hi hv⟩
  have exact_mul (p q : Int) : BitVec.ofInt 64 (p * q / 2 ^ 64) = high (BitVec.ofInt 128 p * BitVec.ofInt 128 q) := by
    rw [← BitVec.ofInt_mul]
    exact (extractLsb'_ofInt _).symm
  have zext (z : Word) : BitVec.ofInt 128 (z.toNat : Int) = z.setWidth 128 := by rw [BitVec.ofInt_natCast, BitVec.ofNat_toNat]
  refine ⟨word rfl rfl rfl, word rfl rfl ?mulw, word rfl rfl (exact_mul x.toInt y.toInt), word rfl rfl ?mulhu,
    word rfl rfl ?mulhsu, word rfl rfl ?div, word rfl rfl ?divu, word rfl rfl ?rem, word rfl rfl ?remu,
    word rfl rfl ?divw, word rfl rfl ?remw, fun off w0 w1 w2 => decodeWords_muldiv_reserved w1 w2⟩
  case mulw => exact congrArg (BitVec.signExtend 64) (BitVec.setWidth_mul x y (by decide))
  case mulhu => exact (BitVec.ofInt_natCast ..).symm.trans (zext x ▸ zext y ▸ exact_mul x.toNat y.toNat)
  case mulhsu => exact zext y ▸ exact_mul x.toInt y.toNat
  case div => simpa using divS_eq 64 x y
  case divu => simpa using divU_eq 64 x y
  case rem => simpa using remS_eq 64 x y
  case remu => simpa using remU_eq 64 x y
  case divw => exact (wordS_ofNat _).trans (congrArg low (divS_eq 32 x y))
  case remw => exact (wordS_ofNat _).trans (congrArg low (remS_eq 32 x y))

end Sys2Proof.Machine

/-! ## Reductions (R115, R203) -/

namespace Sys2Proof.Machine

/-! ### Folds of lanes -/

section Folds

/-- A fold that keeps one of two values with the lesser key ends in a value with the least key. -/
theorem foldl_least {α β : Type} [Preorder β] {k : α → β} {g : α → α → α} (hg : ∀ a b, g a b = a ∧ k a ≤ k b ∨ g a b = b ∧ k b ≤ k a)
    (vs : List α) (e : α) : vs.foldl g e ∈ e :: vs ∧ ∀ v ∈ e :: vs, k (vs.foldl g e) ≤ k v := by
  induction vs generalizing e with
  | nil => simp
  | cons x vs ih =>
    obtain ⟨hmem, hle⟩ := ih (g e x)
    have hstep : k (g e x) ≤ k e ∧ k (g e x) ≤ k x ∧ g e x ∈ [e, x] := by
      rcases hg e x with ⟨h, hk⟩ | ⟨h, hk⟩ <;> simp [h, hk]
    obtain ⟨he, hx, hin⟩ := hstep
    have hhead := hle _ List.mem_cons_self
    refine ⟨?_, fun v hv => ?_⟩
    · rcases List.mem_cons.mp hmem with h | h
      · rw [List.foldl_cons, h]
        exact List.mem_append_left vs hin
      · exact List.mem_cons_of_mem _ (List.mem_cons_of_mem _ h)
    · rcases List.mem_cons.mp hv with rfl | hv
      · exact hhead.trans he
      · rcases List.mem_cons.mp hv with rfl | hv
        · exact hhead.trans hx
        · exact hle v (List.mem_cons_of_mem _ hv)

/-- From a value that no other reaches, such a fold ends among the lanes as soon as there is one. -/
theorem foldl_least_mem {α β : Type} [Preorder β] {k : α → β} {g : α → α → α}
    (hg : ∀ a b, g a b = a ∧ k a ≤ k b ∨ g a b = b ∧ k b ≤ k a) {vs : List α} {e : α} (htop : ∀ v ∈ vs, k e ≤ k v → v = e)
    (hne : vs ≠ []) : vs.foldl g e ∈ vs := by
  obtain ⟨hmem, hle⟩ := foldl_least hg vs e
  rcases List.mem_cons.mp hmem with h | h
  · obtain ⟨v, hv⟩ := List.exists_mem_of_ne_nil vs hne
    rw [h] at hle ⊢
    exact htop v hv (hle v (List.mem_cons_of_mem _ hv)) ▸ hv
  · exact h

theorem testBit_foldl_and (vs : List Nat) (e j : Nat) :
    (vs.foldl (fun a b => a &&& b) e).testBit j = (e.testBit j && vs.all (·.testBit j)) := by
  induction vs generalizing e with
  | nil => simp
  | cons x vs ih => rw [List.foldl_cons, ih, Nat.testBit_and, List.all_cons, Bool.and_assoc]

theorem testBit_foldl_or (vs : List Nat) (e j : Nat) :
    (vs.foldl (fun a b => a ||| b) e).testBit j = (e.testBit j || vs.any (·.testBit j)) := by
  induction vs generalizing e with
  | nil => simp
  | cons x vs ih => rw [List.foldl_cons, ih, Nat.testBit_or, List.any_cons, Bool.or_assoc]

theorem foldl_and_lt (vs : List Nat) (w : Nat) : vs.foldl (fun a b => a &&& b) (2 ^ w - 1) < 2 ^ w := by
  refine Nat.lt_pow_two_of_testBit _ fun j hj => ?_
  rw [testBit_foldl_and, Nat.testBit_two_pow_sub_one, decide_eq_false hj.not_gt, Bool.false_and]

theorem foldl_or_lt {vs : List Nat} {w : Nat} (hvs : ∀ v ∈ vs, v < 2 ^ w) : vs.foldl (fun a b => a ||| b) 0 < 2 ^ w := by
  refine Nat.lt_pow_two_of_testBit _ fun j hj => ?_
  rw [testBit_foldl_or, Nat.zero_testBit, Bool.false_or, List.any_eq_false]
  intro v hv
  rw [Nat.testBit_lt_two_pow ((hvs v hv).trans_le (Nat.pow_le_pow_right two_pos hj))]
  exact Bool.false_ne_true

theorem two_pow_pred {w : Nat} (hw : 0 < w) : 2 ^ w = 2 * 2 ^ (w - 1) := by
  rw [← Nat.pow_succ', Nat.succ_eq_add_one, Nat.sub_add_cancel hw]

theorem toInt_of_lt {w v : Nat} (hw : 0 < w) (hv : v < 2 ^ w) :
    toInt w v = if v < 2 ^ (w - 1) then (v : Int) else v - (2 * 2 ^ (w - 1) : Nat) := by
  rw [toInt, Nat.mod_eq_of_lt hv, ← two_pow_pred hw]

/-- The greatest signed value of a width is read by one lane value only. -/
theorem eq_of_toInt_max_le {w v : Nat} (hw : 0 < w) (hv : v < 2 ^ w) (h : toInt w (2 ^ (w - 1) - 1) ≤ toInt w v) :
    v = 2 ^ (w - 1) - 1 := by
  have h2 := two_pow_pred hw
  have hpos : 0 < 2 ^ (w - 1) := by positivity
  rw [toInt_of_lt hw hv, toInt_of_lt hw (by omega)] at h
  generalize 2 ^ (w - 1) = half at *
  split_ifs at h <;> omega

/-- The least signed value likewise. -/
theorem eq_of_le_toInt_min {w v : Nat} (hw : 0 < w) (hv : v < 2 ^ w) (h : toInt w v ≤ toInt w (2 ^ (w - 1))) : v = 2 ^ (w - 1) := by
  have h2 := two_pow_pred hw
  have hpos : 0 < 2 ^ (w - 1) := by positivity
  rw [toInt_of_lt hw hv, toInt_of_lt hw (by omega)] at h
  generalize 2 ^ (w - 1) = half at *
  split_ifs at h <;> omega

end Folds

/-! ### The active lanes -/

section Lanes
variable (t : Thread) (f : VX)

theorem Thread.onLanes_eq : t.onLanes f = ((List.range (1024 / laneW f)).filter (t.on f)).map (t.lane f.va (laneW f)) := by
  rw [Thread.onLanes, Thread.lanes_eq, Thread.active_eq, zip_range, List.filter_map, List.map_map]
  rfl

/-- A lane's value has the lane's width, which is that of some type where there is a lane. -/
theorem Thread.onLanes_lt {v : Nat} (hv : v ∈ (t.onLanes f).map Prod.fst) : 0 < laneW f ∧ v < 2 ^ laneW f := by
  simp only [Thread.onLanes_eq, List.map_map, List.mem_map, List.mem_filter, List.mem_range] at hv
  obtain ⟨i, ⟨hi, -⟩, rfl⟩ := hv
  refine ⟨Nat.pos_of_ne_zero fun h => ?_, Nat.mod_lt _ (by positivity)⟩
  rw [h, Nat.div_zero] at hi
  exact absurd hi (Nat.not_lt_zero i)

theorem Thread.active_any : (t.active f).any id = true ↔ (t.onLanes f).map Prod.fst ≠ [] := by
  rw [Thread.active_eq, Thread.onLanes_eq]
  simp

/-- A lane extended to 64 bits (R203). -/
theorem extendLane_eq (v : Nat) :
    extendLane f.et.toNat v = if etS f.et.toNat then BitVec.ofInt 64 (toInt (laneW f) v) else BitVec.ofNat 64 v := by
  rw [extendLane, apply_ite (BitVec.ofNat 64), ofNat_ofInt]
  rfl

end Lanes

/-! ### Results of reductions -/

section Results
variable {s : State} {i : Instr} {g : State → State × Res} {f : VX} {v : Word}

theorem redResult_gives (h : s.Ready) (hi : exec i s = issue .barred 8 s g) (hg : g s = redResult f v s) :
    GivesX i s f.vd v ((s.thr.onLanes f).any Prod.snd) 8 := by
  rw [GivesX, hi]
  exact ⟨_, issue_setThr h _ _ _ _ hg, by simpa using writesX_setX s f.vd v ((s.thr.onLanes f).any Prod.snd) 0 8⟩

theorem Thread.setX_orFlags (t : Thread) (d : Reg) (v : Word) (p : Bool) (fl : Nat) :
    (t.orFlags fl).setX d v p = (t.setX d v p).orFlags fl := by
  unfold Thread.setX
  split <;> rfl

theorem redResult_givesF (h : s.Ready) (hi : exec i s = issue .barred 8 s g) {r : Nat × Nat}
    (hg : g s = redResult f (BitVec.ofNat 64 r.1) (s.orFlags r.2)) : GivesF i s f.vd r ((s.thr.onLanes f).any Prod.snd) 8 := by
  have hset : g s = (s.setThr ((s.thr.setX f.vd (BitVec.ofNat 64 r.1) ((s.thr.onLanes f).any Prod.snd)).orFlags r.2), .done) := by
    rw [hg, redResult, State.setX, State.orFlags, State.thr_setThr, State.setThr_setThr, Thread.setX_orFlags]
    rfl
  rw [GivesF, hi]
  exact ⟨_, issue_setThr h _ _ _ _ hset, writesX_setX s f.vd _ _ _ 8⟩

/-- A result without flags is one that merges none. -/
theorem GivesX.givesF {d : Reg} {n len : Nat} {p : Bool} (h : GivesX i s d (BitVec.ofNat 64 n) p len) : GivesF i s d (n, 0) p len := by
  simpa [GivesX, GivesF] using h

theorem redFadd_none (hvs : (s.thr.onLanes f).map Prod.fst = []) : redFadd f s = redResult f 0 s :=
  if_neg fun h => (s.thr.active_any f).mp h hvs

theorem redFadd_some (hvs : (s.thr.onLanes f).map Prod.fst ≠ []) :
    let r := treeSum ((ffOf f.et.toNat).add (s.thr.rnd f.rm.toNat false)) (Nat.log2 (1024 / laneW f))
      ((List.range (1024 / laneW f)).map fun i =>
        if s.thr.on f i then (s.thr.lane f.va (laneW f) i).1 else (ffOf f.et.toNat).signBit)
    redFadd f s = redResult f (BitVec.ofNat 64 r.1) (s.orFlags r.2) := by
  rw [redFadd, if_pos ((s.thr.active_any f).mpr hvs), Thread.active_eq, Thread.lanes_eq, zipWith_range]
  rfl

theorem redFminmax_none {mx : Bool} (hvs : (s.thr.onLanes f).map Prod.fst = []) :
    redFminmax mx f s = redResult f (BitVec.ofNat 64 (ffOf f.et.toNat).nan) s := by
  rw [redFminmax, hvs]

theorem redFminmax_some {mx : Bool} {a : Nat} {l : List Nat} (hvs : (s.thr.onLanes f).map Prod.fst = a :: l) :
    let h := (ffOf f.et.toNat).minmax (s.thr.tflags.getLsbD 3) mx (f.imm == 1)
    let r := l.foldl (fun r v => ((h r.1 v).1, r.2 ||| (h r.1 v).2)) (h a a)
    redFminmax mx f s = redResult f (BitVec.ofNat 64 r.1) (s.orFlags r.2) := by
  rw [redFminmax, hvs]
  rfl

/-- A fold of the active lanes gives its extended result. -/
theorem redFold_gives (h : s.Ready) {k : Nat → Nat → Nat → Nat} {e : Nat → Nat} (hi : exec i s = issue .barred 8 s (redFold k e f)) :
    GivesX i s f.vd (extendLane f.et.toNat (((s.thr.onLanes f).map Prod.fst).foldl (k (laneW f)) (e (laneW f))))
      ((s.thr.onLanes f).any Prod.snd) 8 :=
  redResult_gives h hi rfl

/-- The least lane by a key, or the identity, which no other value of the width reaches. -/
theorem redFold_least (h : s.Ready) {k : Nat → Nat → Nat → Nat} {e : Nat → Nat} {key : Nat → Int}
    (hi : exec i s = issue .barred 8 s (redFold k e f))
    (hk : ∀ a b, k (laneW f) a b = a ∧ key a ≤ key b ∨ k (laneW f) a b = b ∧ key b ≤ key a)
    (htop : ∀ v, 0 < laneW f → v < 2 ^ laneW f → key (e (laneW f)) ≤ key v → v = e (laneW f)) :
    let vs := (s.thr.onLanes f).map Prod.fst
    ∃ m, GivesX i s f.vd (extendLane f.et.toNat m) ((s.thr.onLanes f).any Prod.snd) 8
      ∧ (vs = [] → m = e (laneW f)) ∧ (vs ≠ [] → m ∈ vs) ∧ ∀ v ∈ vs, key m ≤ key v :=
  ⟨_, redFold_gives h hi, fun hnil => by rw [hnil, List.foldl_nil],
    foldl_least_mem hk fun v hv => htop v (s.thr.onLanes_lt f hv).1 (s.thr.onLanes_lt f hv).2,
    fun v hv => (foldl_least hk _ _).2 v (List.mem_cons_of_mem _ hv)⟩

end Results

/-- Settles O12, function by function. -/
theorem reductionsGiveResult : Obligations.ReductionsGiveResult := by
  intro s hs f w sg g lanes
  have hlanes : lanes = s.thr.onLanes f := (s.thr.onLanes_eq f).symm
  clear_value lanes
  subst hlanes
  intro vs p ext gives least fold
  have hlt : ∀ v ∈ vs, v < 2 ^ w := fun v hv => (s.thr.onLanes_lt f hv).2
  have hext : extendLane f.et.toNat = ext := funext (extendLane_eq f)
  have folds {i : Instr} {k : Nat → Nat → Nat → Nat} {e : Nat → Nat} (hi : exec i s = issue .barred 8 s (redFold k e f)) :
      gives i (ext (vs.foldl (k w) (e w))) := hext ▸ redFold_gives hs hi
  have leasts {i : Instr} {k : Nat → Nat → Nat → Nat} {e : Nat → Nat} {key : Nat → Int}
      (hi : exec i s = issue .barred 8 s (redFold k e f)) (hk : ∀ a b, k w a b = a ∧ key a ≤ key b ∨ k w a b = b ∧ key b ≤ key a)
      (htop : ∀ v, 0 < w → v < 2 ^ w → key (e w) ≤ key v → v = e w) : least i key (e w) := by
    have h := redFold_least hs hi hk htop
    rwa [hext] at h
  have minmax {i : Instr} {mx : Bool} (hi : exec i s = issue .barred 8 s (redFminmax mx f)) : GivesF i s f.vd (fold mx) p 8 := by
    cases hvs : vs with
    | nil =>
      have h := (redResult_gives hs hi (redFminmax_none hvs)).givesF
      simpa only [fold, hvs] using h
    | cons a l =>
      have h := redResult_givesF hs hi (redFminmax_some hvs)
      simpa only [fold, hvs] using h
  refine ⟨?sum, ?min, ?max, ?minu, ?maxu,
    ⟨_, ?andLt, folds (k := fun _ a b => a &&& b) (e := fun w => 2 ^ w - 1) rfl, ?and⟩,
    ⟨_, ?orLt, folds (k := fun _ a b => a ||| b) (e := fun _ => 0) rfl, ?or⟩,
    folds (k := fun _ a b => a ^^^ b) (e := fun _ => 0) rfl, ?fsum, minmax rfl, minmax rfl⟩
  case sum =>
    have h : gives (.vredadd f) _ := redResult_gives hs rfl rfl
    simpa only [hext, vs, List.map_map, Function.comp_def] using h
  case min =>
    exact leasts (k := fun w a b => if toInt w b < toInt w a then b else a) (e := fun w => 2 ^ (w - 1) - 1) rfl (by grind)
      fun v hw hv => eq_of_toInt_max_le hw hv
  case max =>
    exact leasts (k := fun w a b => if toInt w a < toInt w b then b else a) (e := fun w => 2 ^ (w - 1)) rfl (by grind)
      fun v hw hv h => eq_of_le_toInt_min hw hv (Int.neg_le_neg_iff.mp h)
  case minu => exact leasts (k := fun _ a b => Nat.min a b) (e := fun w => 2 ^ w - 1) rfl (by grind) fun v _ hv h => by omega
  case maxu => exact leasts (k := fun _ a b => Nat.max a b) (e := fun _ => 0) rfl (by grind) fun v _ _ h => by omega
  case and => intro j hj; rw [testBit_foldl_and, Nat.testBit_two_pow_sub_one, decide_eq_true hj, Bool.true_and]
  case or => intro j _; rw [testBit_foldl_or, Nat.zero_testBit, Bool.false_or]
  case andLt => exact foldl_and_lt vs w
  case orLt => exact foldl_or_lt hlt
  case fsum =>
    intro r
    by_cases hvs : vs = []
    · rw [if_pos hvs]
      exact (redResult_gives (v := BitVec.ofNat 64 0) hs rfl (redFadd_none hvs)).givesF
    · rw [if_neg hvs]
      exact redResult_givesF hs rfl (redFadd_some hvs)

end Sys2Proof.Machine

/-! ## Conversions, packing and unpacking (R99 to R102, R204, R205) -/

namespace Sys2Proof.Machine

/-! ### Lists over a range -/

theorem getD_map_range {α : Type} (n : Nat) (g : Nat → α) (i : Nat) (d : α) :
    ((List.range n).map g).getD i d = if i < n then g i else d := by
  by_cases h : i < n <;> simp [List.getD_eq_getElem?_getD, h]

/-- The m entries from lo on taken from another list. -/
theorem splice_range {α : Type} (n lo m : Nat) (a b : Nat → α) :
    ((List.range n).map a).take lo ++ (((List.range n).map b).drop lo).take m ++ ((List.range n).map a).drop (lo + m)
      = (List.range n).map fun i => if lo ≤ i ∧ i < lo + m then b i else a i := by
  apply List.ext_getElem
  · grind
  · intro i h₁ h₂
    simp only [List.length_map, List.length_range] at h₂
    simp only [List.getElem_append, List.length_append, List.length_take, List.length_drop, List.length_map, List.length_range,
      List.getElem_take, List.getElem_drop, List.getElem_map, List.getElem_range]
    split_ifs <;> first | omega | (congr 1 <;> omega)

theorem orAll_append_zero (l : List Nat) : orAll (l ++ [0]) = orAll l := by simp [orAll]

/-- Flags of lanes that raise none add nothing. -/
theorem orAll_range_of_zero {k m : Nat} {h : Nat → Nat} (hk : k ≤ m) (hz : ∀ j, k ≤ j → j < m → h j = 0) :
    orAll ((List.range m).map h) = orAll ((List.range k).map h) := by
  induction m, hk using Nat.le_induction with
  | base => rfl
  | succ m hkm ih =>
    rw [List.range_succ, List.map_append, List.map_singleton, hz m hkm (Nat.lt_succ_self m), orAll_append_zero]
    exact ih fun j hj hjm => hz j hj (hjm.trans (Nat.lt_succ_self m))

theorem orAll_slice {n lo m : Nat} {h : Nat → Nat} (hz : ∀ j < m, n ≤ lo + j → h (lo + j) = 0) :
    orAll ((((List.range n).map h).drop lo).take m) = orAll ((List.range m).map fun j => h (lo + j)) := by
  have hslice : (((List.range n).map h).drop lo).take m = (List.range (min m (n - lo))).map fun j => h (lo + j) := by
    apply List.ext_getElem <;> simp
  rw [hslice]
  exact (orAll_range_of_zero (min_le_left _ _) fun j hj hjm => hz j hjm (by omega)).symm

/-! ### Bytes and lanes of 8 bits -/

theorem leBytes_eq (n v : Nat) : leBytes n v = (List.range n).map fun j => BitVec.ofNat 8 (laneOf v 8 j) := by
  induction n generalizing v with
  | zero => rfl
  | succ n ih =>
    rw [leBytes, ih, List.range_succ_eq_map, List.map_cons, List.map_map]
    refine congrArg₂ _ (BitVec.eq_of_toNat_eq (by simp [laneOf])) (List.map_congr_left fun j _ => ?_)
    rw [Function.comp_apply, laneOf, laneOf, Nat.div_div_eq_div_mul, Nat.succ_eq_add_one, Nat.mul_add, pow_add, Nat.mul_comm]
    rfl

theorem leNat_eq_ofLanes (bs : List Byte) : leNat bs = ofLanes 8 (bs.map BitVec.toNat) := by
  induction bs with
  | nil => rfl
  | cons b bs ih =>
    rw [leNat, List.map_cons, ofLanes, ih, Nat.mod_eq_of_lt b.isLt]
    rfl

/-- A register that takes bytes holds them in its lanes of 8 bits, zeros above. -/
theorem laneOf_leNat {bs : List Byte} (hlen : bs.length ≤ 128) (i : Nat) :
    laneOf (BitVec.ofNat 1024 (leNat bs)).toNat 8 i = (bs.getD i 0).toNat % 2 ^ 8 := by
  have hlt : leNat bs < 2 ^ 1024 := calc
    leNat bs < 256 ^ bs.length := leNat_lt bs
    _ ≤ 256 ^ 128 := Nat.pow_le_pow_right (by omega) hlen
    _ = 2 ^ 1024 := (pow_mul 2 8 128).symm
  have hget : (bs.map BitVec.toNat).getD i 0 = (bs.getD i 0).toNat := by
    rw [List.getD_eq_getElem?_getD, List.getD_eq_getElem?_getD, List.getElem?_map]
    cases bs[i]? <;> rfl
  rw [BitVec.toNat_ofNat, Nat.mod_eq_of_lt hlt, leNat_eq_ofLanes, laneOf_ofLanes, hget]

/-! ### A block's bytes -/

theorem length_nibbles (l : List Nat) : (nibbles l).length = (l.length + 1) / 2 := by
  induction l using nibbles.induct with
  | case1 a b r ih => simp only [nibbles, List.length_cons, ih]; omega
  | case2 a => simp [nibbles]
  | case3 => simp [nibbles]

theorem length_dxPack (dx8 : Bool) (d : Nat) {xs : List Nat} (hxs : xs.length = 32) :
    (dxPack dx8 d xs).1.length = if dx8 then 34 else 18 := by
  cases dx8 <;> simp [dxPack, length_nibbles, hxs]

theorem dxBytes_eq (dx8 : Bool) : dxBytes dx8 = if dx8 then 34 else 18 := rfl

theorem blockChunks_eq (dx8 : Bool) : blockChunks dx8 = if dx8 then 5 else 3 := by cases dx8 <;> rfl

/-! ### Source lanes -/

section Sources
variable (t : Thread) (f : VX)

theorem Thread.bLanes_eq (et : Nat) (bitwise : Bool) (lit : Option (BitVec 32)) :
    t.bLanes f et bitwise lit = (List.range (1024 / etBits et)).map (t.bLane f et bitwise lit) := by
  have hconst (x : Lane1) (n : Nat) : List.replicate n x = (List.range n).map fun _ => x := by simp
  cases lit with
  | some l => exact hconst _ _
  | none =>
    cases hx : f.xs with
    | true =>
      rw [Thread.bLanes, show t.bLane f et bitwise none = fun _ => ((t.xr f.vb).toNat % 2 ^ etBits et, t.xpr f.vb) from
        funext fun _ => if_pos hx]
      exact (if_pos hx).trans (hconst _ _)
    | false =>
      have hx' : ¬ f.xs = true := by simp [hx]
      rw [Thread.bLanes, show t.bLane f et bitwise none = t.lane f.vb (etBits et) from funext fun _ => if_neg hx']
      exact (if_neg hx').trans (t.lanes_eq ..)

/-- The lane that a conversion reads, without value beyond the register. -/
def Thread.srcLane (i : Nat) : Lane1 := if i < 1024 / etBits (srcType f) then t.bLane f (srcType f) false none i else (0, false)

/-- A converted lane: its value, poison and flags. -/
def Thread.cvtAt (i : Nat) : Nat × Bool × Nat :=
  let c := cvtLane (srcType f) f.et.toNat (t.rnd f.rm.toNat f.sat) (t.srcLane f i).1
  (c.1, (t.srcLane f i).2, c.2)

theorem cvtLanes_eq (pos : Nat → Nat) : cvtLanes f t pos = (List.range (1024 / laneW f)).map fun i => t.cvtAt f (pos i) := by
  have hsrc (i : Nat) : (t.bLanes f (srcType f) false none).getD i (0, false) = t.srcLane f i := by
    rw [Thread.bLanes_eq, getD_map_range]
    rfl
  simp only [cvtLanes, hsrc]
  rfl

/-- No lane beyond the register is active. -/
theorem Thread.on_beyond {i : Nat} (hw : laneW f ≠ 0) (hi : 1024 / laneW f ≤ i) : t.on f i = false := by
  refine BitVec.getLsbD_of_ge _ _ ?_
  have hpos : 128 = 1024 / laneW f * (laneW f / 8) := by
    rcases laneW_width f with h | h | h | h | h <;> first | exact absurd h hw | rw [h]
  rw [hpos]
  exact Nat.mul_le_mul_right _ hi

end Sources

/-! ### Narrowing -/

section Narrow
variable (f : VX)

/-- The lanes that a narrowing writes, by their number (R204). -/
def narrowLanes : Nat := 1024 / laneW f / (etBits (srcType f) / laneW f)

/-- The first lane that a narrowing writes. -/
def narrowFrom : Nat := f.imm.toNat / 16 % 4 * narrowLanes f

/-- Lane i after a narrowing. -/
def Thread.narrowedLane (t : Thread) (i : Nat) : Nat × Bool :=
  if narrowFrom f ≤ i ∧ i < narrowFrom f + narrowLanes f then t.governedLane f (fun i => t.cvtAt f (i - narrowFrom f)) i
  else t.lane f.vd (laneW f) i

/-- The flags of the lanes that a narrowing writes. -/
def Thread.narrowFlags (t : Thread) : Nat :=
  orAll ((List.range (narrowLanes f)).map fun j => if t.on f (narrowFrom f + j) then (t.cvtAt f j).2.2 else 0)

theorem narrowOp_lanes (t : Thread) :
    let new := governed f (t.active f) ((cvtLanes f t fun i => i - narrowFrom f).map fun r => (r.1, r.2.1)) (t.lanes f.vd (laneW f))
    let old := t.lanes f.vd (laneW f)
    old.take (narrowFrom f) ++ (new.drop (narrowFrom f)).take (narrowLanes f) ++ old.drop (narrowFrom f + narrowLanes f)
      = (List.range (1024 / laneW f)).map (t.narrowedLane f) := by
  intro new old
  have hnew : new = (List.range (1024 / laneW f)).map (t.governedLane f fun i => t.cvtAt f (i - narrowFrom f)) := by
    rw [← governed_range]
    simp only [new, cvtLanes_eq, List.map_map, Function.comp_def]
  rw [hnew, show old = _ from t.lanes_eq f.vd (laneW f), splice_range]
  rfl

theorem narrowOp_flags (t : Thread) :
    orAll (((List.zipWith (fun (o : Bool) (r : Nat × Bool × Nat) => if o then r.2.2 else 0) (t.active f)
      (cvtLanes f t fun i => i - narrowFrom f)).drop (narrowFrom f)).take (narrowLanes f)) = t.narrowFlags f := by
  rw [Thread.active_eq, cvtLanes_eq, zipWith_range, orAll_slice]
  · simp only [Nat.add_sub_cancel_left]
    rfl
  · intro j hj hbeyond
    have hw : laneW f ≠ 0 := fun h => by simp [narrowLanes, h] at hj
    rw [t.on_beyond f hw hbeyond]
    rfl

theorem narrowOp_eq (s : State) : narrowOp f s = (s.setThr ((s.thr.putLanes f.vd (laneW f)
    ((List.range (1024 / laneW f)).map (s.thr.narrowedLane f))).orFlags (s.thr.narrowFlags f)), .done) := by
  rw [← narrowOp_lanes, ← narrowOp_flags]
  rfl

end Narrow

/-! ### Packing and unpacking -/

section Blocks
variable {s : State}

/-- A register that takes a value and the poison of its chunks, then merged flags. -/
theorem writesV_setV (s : State) (d : Reg) {w : Nat} {v : VReg} {p : BitVec 16} {new : Nat → Nat × Bool} (fl : Nat) (len : Nat)
    (hv : ∀ i < 1024 / w, laneOf v.toNat w i = (new i).1 % 2 ^ w)
    (hp : ∀ c < 16, p.getLsbD c = (List.range (1024 / w)).any fun i => decide (w * i / 64 = c) && (new i).2) :
    WritesV s (s.setThr (((s.thr.setV d v p).orFlags fl).after len)) d w new (BitVec.ofNat 64 fl &&& 0x1F0) len where
  only := by simp [OnlyThread]
  thread := by rw [State.thr_setThr]; rfl
  lane i hi := by
    rw [State.thr_setThr, ← hv i hi]
    change laneOf ((s.thr.setV d v p).vr d).toNat w i = _
    rw [Thread.vr_setV, if_pos rfl]
  poison c hc := by
    rw [State.thr_setThr, ← hp c hc]
    change (s.thr.setV d v p).vpr d c = _
    rw [Thread.vpr_setV _ _ _ _ _ _ hc, if_pos rfl]
  others r hr := by
    rw [State.thr_setThr]
    constructor
    · change (s.thr.setV d v p).vr r = _
      rw [Thread.vr_setV, if_neg hr]
    · intro c hc
      change (s.thr.setV d v p).vpr r c = _
      rw [Thread.vpr_setV _ _ _ _ _ _ hc, if_neg hr]

/-- The poison of the first k chunks, as that of the lanes of 8 bits in them. -/
theorem poison_bytes {k c : Nat} (hc : c < 16) (b : Bool) :
    (if b then BitVec.ofNat 16 (2 ^ k - 1) else 0).getLsbD c =
      (List.range (1024 / 8)).any fun i => decide (8 * i / 64 = c) && (decide (i / 8 < k) && b) := by
  cases b with
  | false => simp
  | true =>
    rw [if_pos rfl, BitVec.getLsbD_ofNat, Nat.testBit_two_pow_sub_one, decide_eq_true hc, Bool.true_and, Bool.eq_iff_iff]
    simp only [decide_eq_true_eq, List.any_eq_true, List.mem_range, Bool.and_true, Bool.and_eq_true]
    exact ⟨fun h => ⟨8 * c, by omega, by omega, by omega⟩, fun ⟨i, _, hi, hik⟩ => by omega⟩

/-- The poison of all chunks, as that of the lanes of 32 bits. -/
theorem poison_words {c : Nat} (hc : c < 16) (b : Bool) :
    (if b then 0xFFFF#16 else 0).getLsbD c = (List.range (1024 / 32)).any fun i => decide (32 * i / 64 = c) && b := by
  cases b with
  | false => simp
  | true =>
    rw [if_pos rfl, show (0xFFFF#16) = BitVec.allOnes 16 from rfl, BitVec.getLsbD_allOnes, decide_eq_true hc, eq_comm, List.any_eq_true]
    exact ⟨2 * c, List.mem_range.mpr (by omega), by rw [Bool.and_true, decide_eq_true_eq]; omega⟩

theorem packOp_gives (h : s.Ready) {i : Instr} (dx8 : Bool) (f : VX) (hi : exec i s = issue .barred 8 s (packOp dx8 f)) :
    let b := dxPack dx8 f.imm.toNat ((List.range 32).map fun i => (s.thr.lane f.vb 32 i).1)
    ∃ t, exec i s = .next t ∧ WritesV s t f.vd 8
      (fun i => ((b.1.getD i 0).toNat, decide (i / 8 < blockChunks dx8) && (List.range 16).any (s.thr.vpr f.vb)))
      (BitVec.ofNat 64 b.2 &&& 0x1F0) 8 := by
  intro b
  have hsrc : (s.thr.lanes f.vb 32).map Prod.fst = (List.range 32).map fun i => (s.thr.lane f.vb 32 i).1 := by
    rw [Thread.lanes_eq, List.map_map]
    rfl
  have hlen : b.1.length ≤ 128 := by
    rw [length_dxPack dx8 _ (by simp)]
    cases dx8 <;> decide
  have hop : packOp dx8 f s = (s.setThr ((s.thr.setV f.vd (BitVec.ofNat 1024 (leNat b.1))
      (if s.thr.vpAny f.vb 16 then BitVec.ofNat 16 (2 ^ blockChunks dx8 - 1) else 0)).orFlags b.2), .done) := by
    rw [packOp, hsrc]
  rw [hi]
  exact ⟨_, issue_setThr h _ _ _ _ hop, writesV_setV s f.vd _ _ (fun i _ => laneOf_leNat hlen i)
    fun c hc => poison_bytes hc _⟩

theorem Thread.orFlags_zero (t : Thread) : t.orFlags 0 = t := by simp [Thread.orFlags]

theorem unpackOp_gives (h : s.Ready) {i : Instr} (dx8 : Bool) (f : VX) (hi : exec i s = issue .barred 8 s (unpackOp dx8 f)) :
    let blk := (List.range (dxBytes dx8)).map fun j => BitVec.ofNat 8 (s.thr.lane f.vb 8 j).1
    ∃ t, exec i s = .next t ∧ WritesV s t f.vd 32
      (fun i => (dxToF32 dx8 blk i, (List.range (blockChunks dx8)).any (s.thr.vpr f.vb))) 0 8 := by
  intro blk
  have hblk : leBytes (dxBytes dx8) (s.thr.vr f.vb).toNat = blk := leBytes_eq _ _
  have hlanes : (BitVec.ofNat 1024 (ofLanes 32 ((List.range 32).map (dxToF32 dx8 blk)))).toNat =
      ofLanes 32 ((List.range 32).map (dxToF32 dx8 blk)) := by
    rw [BitVec.toNat_ofNat, Nat.mod_eq_of_lt]
    simpa using ofLanes_lt 32 ((List.range 32).map (dxToF32 dx8 blk))
  have hop : unpackOp dx8 f s = (s.setThr ((s.thr.setV f.vd (BitVec.ofNat 1024 (ofLanes 32 ((List.range 32).map (dxToF32 dx8 blk))))
      (if s.thr.vpAny f.vb (blockChunks dx8) then 0xFFFF else 0)).orFlags 0), .done) := by
    rw [unpackOp, hblk, Thread.orFlags_zero]
  rw [hi]
  refine ⟨_, issue_setThr h _ _ _ _ hop, writesV_setV s f.vd 0 8 (fun i hi => ?_) fun c hc => poison_words hc _⟩
  rw [hlanes, laneOf_ofLanes, getD_map_range, if_pos hi]

end Blocks

/-- Settles O14: the conversions lane by lane, then the blocks. -/
theorem conversionsGiveLanes : Obligations.ConversionsGiveLanes := by
  intro s hs f w n st q r src cvt m
  refine ⟨?vcvt, ?vwiden, ?vnarrow, fun dx8 => ?blocks⟩
  case vcvt => exact issue_vecResult hs _ 8 _ f cvt (congrArg (vecResult f · s) (cvtLanes_eq ..))
  case vwiden => exact issue_vecResult hs _ 8 _ f (fun i => cvt (q * n + i)) (congrArg (vecResult f · s) (cvtLanes_eq ..))
  case vnarrow =>
    exact ⟨_, issue_setThr hs _ 8 _ _ (narrowOp_eq f s), writesV_putLanes s f.vd (laneW_width f) (s.thr.narrowedLane f) _ 8⟩
  case blocks =>
    cases dx8
    · exact ⟨packOp_gives hs false f rfl, unpackOp_gives hs false f rfl⟩
    · exact ⟨packOp_gives hs true f rfl, unpackOp_gives hs true f rfl⟩

end Sys2Proof.Machine

/-! ## Rounding, NaNs and packed blocks (R84 to R86, R91, R93, R94, R99, R100, R102) -/

namespace Sys2Proof.Machine

/-! ### Formats and codes -/

/-- What the formats of R84 have in common: an exponent field, whose bias is half its range, and the all-ones code of e4m3 (R86). -/
structure FF.Lawful (f : FF) : Prop where
  eb   : 0 < f.eb
  bias : f.bias + f.fb < 4096
  e4m3 : f.e4m3 = true → f.eb = 4 ∧ f.fb = 3

theorem ffOf_lawful (et : Nat) : (ffOf et).Lawful := by
  unfold ffOf
  split <;> exact ⟨by decide, by decide, by decide⟩

section Codes
variable {f : FF} {c : Nat}

/-- The exponent field of a code. -/
def FF.expOf (f : FF) (c : Nat) : Nat := c / 2 ^ f.fb % 2 ^ f.eb

/-- The fraction field of a code. -/
def FF.fracOf (f : FF) (c : Nat) : Nat := c % 2 ^ f.fb

/-- The value of a code by its fields (R84 to R86). -/
theorem FF.value_def (f : FF) (c : Nat) : f.value c =
    if f.e4m3 && f.expOf c == 15 && f.fracOf c == 7 then .nan false
    else if !f.e4m3 && f.expOf c == 2 ^ f.eb - 1 then
      if f.fracOf c == 0 then .inf (f.neg c) else .nan (!bitAt (f.fracOf c) (f.fb - 1))
    else if f.expOf c == 0 then .fin (f.neg c) (f.fracOf c) (1 - (f.bias : Int) - f.fb)
    else .fin (f.neg c) (2 ^ f.fb + f.fracOf c) ((f.expOf c : Int) - f.bias - f.fb) := rfl

theorem FF.isSub_iff : f.isSub c = true ↔ f.expOf c = 0 ∧ f.fracOf c ≠ 0 := by
  simp [FF.isSub, FF.expOf, FF.fracOf]

/-- A code of exponent 0 has the finite value of its fraction (R85). -/
theorem FF.value_of_expOf_zero (hf : f.Lawful) (hex : f.expOf c = 0) :
    f.value c = .fin (f.neg c) (f.fracOf c) (1 - (f.bias : Int) - f.fb) := by
  have hmax : 2 ^ f.eb - 1 ≠ 0 := by
    have := Nat.one_lt_two_pow hf.eb.ne'
    omega
  simp [FF.value_def, hex, hmax.symm]

/-- The fields of a code that is neither a NaN nor an infinity (R84 to R86). -/
def FF.FiniteFields (f : FF) (c : Nat) : Prop := if f.e4m3 then ¬(f.expOf c = 15 ∧ f.fracOf c = 7) else f.expOf c ≠ 2 ^ f.eb - 1

theorem FF.finiteFields_of (hnan : ¬(f.e4m3 && f.expOf c == 15 && f.fracOf c == 7) = true)
    (hmax : ¬(!f.e4m3 && f.expOf c == 2 ^ f.eb - 1) = true) : f.FiniteFields c := by
  unfold FF.FiniteFields
  split
  · next h4 => exact fun h => hnan (by simp [h4, h])
  · next h4 => exact fun h => hmax (by simp [h4, h])

/-- What a code with a finite value is. -/
theorem FF.value_eq_fin {n : Bool} {m : Nat} {e : Int} (h : f.value c = .fin n m e) :
    n = f.neg c ∧ f.FiniteFields c ∧
      (f.expOf c = 0 ∧ m = f.fracOf c ∧ e = 1 - (f.bias : Int) - f.fb ∨
        f.expOf c ≠ 0 ∧ m = 2 ^ f.fb + f.fracOf c ∧ e = f.expOf c - (f.bias : Int) - f.fb) := by
  rw [FF.value_def] at h
  split_ifs at h with hnan hmax _ hzero
  all_goals cases h
  · exact ⟨rfl, FF.finiteFields_of hnan hmax, .inl ⟨beq_iff_eq.mp hzero, rfl, rfl⟩⟩
  · exact ⟨rfl, FF.finiteFields_of hnan hmax, .inr ⟨fun h => hzero (beq_iff_eq.mpr h), rfl, rfl⟩⟩

/-- A code is its sign, exponent and fraction. -/
theorem FF.code_parts (hc : c < 2 ^ f.width) :
    c = (if f.neg c then f.signBit else 0) + (f.expOf c * 2 ^ f.fb + f.fracOf c) := by
  have hw : 2 ^ f.width = 2 * f.signBit := by rw [FF.width, FF.signBit, Nat.add_assoc, Nat.add_comm 1, Nat.pow_succ']
  have hlow : c % f.signBit = f.expOf c * 2 ^ f.fb + f.fracOf c := by
    rw [FF.signBit, Nat.add_comm f.eb, pow_add, Nat.mod_mul, FF.expOf, FF.fracOf]
    ring
  have hneg : f.neg c = decide (c / f.signBit % 2 = 1) := rfl
  have hpos : 0 < f.signBit := by unfold FF.signBit; positivity
  have hq : c / f.signBit < 2 := Nat.div_lt_of_lt_mul (by rwa [Nat.mul_comm, ← hw])
  rw [← hlow, hneg]
  have hdm := Nat.div_add_mod c f.signBit
  generalize c / f.signBit = k at hdm hq ⊢
  obtain rfl | rfl : k = 0 ∨ k = 1 := by omega
  · simpa using hdm.symm
  · simpa using hdm.symm

end Codes

/-! ### Rounding what the format holds -/

section Round
variable {f : FF} {c : Nat} {neg : Bool} {m : Nat} {e : Int}

/-- A finite code's magnitude does not exceed the largest. -/
theorem FF.magnitude_le_maxCode (hf : f.Lawful) (h : f.value c = .fin neg m e) : f.expOf c * 2 ^ f.fb + f.fracOf c ≤ f.maxCode := by
  obtain ⟨-, hfinite, -⟩ := FF.value_eq_fin h
  have hfrac : f.fracOf c < 2 ^ f.fb := Nat.mod_lt _ (by positivity)
  have hexp : f.expOf c < 2 ^ f.eb := Nat.mod_lt _ (by positivity)
  cases h4 : f.e4m3 with
  | true =>
    obtain ⟨heb, hfb⟩ := hf.e4m3 h4
    rw [FF.FiniteFields, h4, if_pos rfl] at hfinite
    rw [heb] at hexp
    rw [hfb] at hfrac ⊢
    rw [FF.maxCode, h4, if_pos rfl]
    omega
  | false =>
    rw [FF.FiniteFields, h4, if_neg Bool.false_ne_true] at hfinite
    have hle : (f.expOf c + 1) * 2 ^ f.fb ≤ (2 ^ f.eb - 1) * 2 ^ f.fb := Nat.mul_le_mul_right _ (by omega)
    rw [Nat.add_one_mul] at hle
    rw [FF.maxCode, h4, if_neg Bool.false_ne_true]
    omega

theorem roundAt_of_le {mode : Nat} {e q : Int} {sticky : Bool} (h : q ≤ e) :
    roundAt mode neg m e q sticky = (m * 2 ^ (e - q).toNat, sticky) := if_pos h

/-- A significand with its full precision is not tiny (R92). -/
theorem two_pow_le_of_normal (hf : f.Lawful) (hm : 2 ^ f.fb ≤ m) (he : 1 - (f.bias : Int) - f.fb ≤ e) :
    (2 : Int) ^ (1 - (f.bias : Int) + 4096).toNat ≤ m * 2 ^ (e + 4096).toNat := by
  have hexp : (1 - (f.bias : Int) + 4096).toNat ≤ f.fb + (e + 4096).toNat := by
    have := hf.bias
    omega
  calc (2 : Int) ^ (1 - (f.bias : Int) + 4096).toNat ≤ 2 ^ (f.fb + (e + 4096).toNat) := pow_le_pow_right₀ (by decide) hexp
    _ = 2 ^ f.fb * 2 ^ (e + 4096).toNat := pow_add ..
    _ ≤ m * 2 ^ (e + 4096).toNat := mul_le_mul_of_nonneg_right (by exact_mod_cast hm) (by positivity)

/-- A magnitude that is a whole number of the format's quanta is rounded to its code, exactly. -/
theorem FF.round_exact (hf : f.Lawful) (r : Rnd) (hm : m ≠ 0) (hlog : Nat.log2 m ≤ f.fb)
    (hq : max (e + Nat.log2 m - f.fb) (1 - (f.bias : Int) - f.fb) = e) (hfz : r.fz = true → 2 ^ f.fb ≤ m)
    (hmax : f.code m e ≤ f.maxCode) : f.round r neg m e false = ((if neg then f.signBit else 0) + f.code m e, 0) := by
  have hkeep : (decide ((m * 2 ^ (e - (e + Nat.log2 m - f.fb)).toNat : Nat) * (2 : Int) ^ (e + Nat.log2 m - f.fb + 4096).toNat
      < 2 ^ (1 - (f.bias : Int) + 4096).toNat) && r.fz && f.fzActs) = false := by
    cases hr : r.fz with
    | false => simp
    | true =>
      have hfull : Nat.log2 m = f.fb := le_antisymm hlog ((Nat.le_log2 hm).mpr (hfz hr))
      have hle := two_pow_le_of_normal hf (hfz hr) (hq ▸ le_max_right _ _)
      rw [hfull, add_sub_cancel_right, sub_self, Int.toNat_zero, pow_zero, mul_one, decide_eq_false (not_lt.mpr hle),
        Bool.false_and, Bool.false_and]
  unfold FF.round
  dsimp only
  rw [hq, roundAt_of_le (by omega), roundAt_of_le le_rfl, if_neg (by simpa using hm), hkeep, if_neg Bool.false_ne_true, sub_self,
    Int.toNat_zero, pow_zero, mul_one, if_neg hmax.not_gt]
  simp

theorem FF.code_of_lt (h : m < 2 ^ f.fb) : f.code m e = m := if_pos h

theorem FF.code_of_normal {x k : Nat} (hx : x < 2 ^ f.fb) : f.code (2 ^ f.fb + x) (k - (f.bias : Int) - f.fb) = k * 2 ^ f.fb + x := by
  have hexp : ((k - (f.bias : Int) - f.fb) + f.fb + f.bias).toNat = k := by omega
  have hne : ¬(2 ^ f.fb + x == 2 ^ (f.fb + 1)) = true := by rw [beq_iff_eq, pow_succ]; omega
  rw [FF.code, if_neg (by omega), if_neg hne, hexp, Nat.add_sub_cancel_left]

theorem FF.round_of_value (hf : f.Lawful) (r : Rnd) (hc : c < 2 ^ f.width) (h : f.value c = .fin neg m e)
    (hfz : r.fz = true → f.isSub c = false) : f.round r neg m e false = (c, 0) := by
  have hmag := FF.magnitude_le_maxCode hf h
  have hfrac : f.fracOf c < 2 ^ f.fb := Nat.mod_lt _ (by positivity)
  obtain ⟨rfl, -, ⟨hexp, rfl, rfl⟩ | ⟨hexp, rfl, rfl⟩⟩ := FF.value_eq_fin h
  · have hparts := FF.code_parts hc
    rw [hexp, Nat.zero_mul, Nat.zero_add] at hparts hmag
    by_cases hm : f.fracOf c = 0
    · rw [hm, Nat.add_zero] at hparts
      rw [hm]
      exact congrArg (fun k => (k, 0)) hparts.symm
    · have hlog : Nat.log2 (f.fracOf c) < f.fb := (Nat.log2_lt hm).mpr hfrac
      have hnormal : r.fz = true → 2 ^ f.fb ≤ f.fracOf c := fun hr =>
        absurd (FF.isSub_iff.mpr ⟨hexp, hm⟩) (by rw [hfz hr]; exact Bool.false_ne_true)
      rw [FF.round_exact hf r hm hlog.le (max_eq_right (by omega)) hnormal (by rwa [FF.code_of_lt hfrac]), FF.code_of_lt hfrac,
        ← hparts]
  · have hlog : Nat.log2 (2 ^ f.fb + f.fracOf c) = f.fb := by
      rw [Nat.log2_eq_iff (by omega), pow_succ]
      omega
    rw [FF.round_exact hf r (by omega) hlog.le (by rw [hlog]; omega) (fun _ => Nat.le_add_right _ _)
      (by rwa [FF.code_of_normal hfrac]), FF.code_of_normal hfrac, ← FF.code_parts hc]

end Round

/-! ### NaN operands -/

section NaN
variable {f : FF} {r : Rnd} {a b : Nat}

/-- Flushing a subnormal makes no NaN and loses none (R91). -/
theorem FF.operand_nan (hf : f.Lawful) (fz : Bool) (c : Nat) :
    (f.operand fz c).isNan = (f.value c).isNan ∧ (f.operand fz c).snan = (f.value c).snan := by
  unfold FF.operand
  split
  · next h =>
    have hsub : f.isSub c = true := by simp_all
    rw [FF.value_of_expOf_zero hf (FF.isSub_iff.mp hsub).1]
    exact ⟨rfl, rfl⟩
  · exact ⟨rfl, rfl⟩

/-- The flag of an invalid operand. -/
def nanFlag (x y : FV) : Nat := if x.snan || y.snan then flagNV else 0

variable {x y : FV}

theorem FF.nanOf_pair (x y : FV) : f.nanOf [x, y] = (f.nan, nanFlag x y) := by simp [FF.nanOf, nanFlag]

theorem FV.eq_nan_of_or (h : (x.isNan || y.isNan) = true) : (∃ q, x = .nan q) ∨ ∃ q, y = .nan q := by
  cases x with
  | nan q => exact .inl ⟨q, rfl⟩
  | _ =>
    cases y with
    | nan q => exact .inr ⟨q, rfl⟩
    | _ => cases h

theorem FV.negate_nan (y : FV) : y.negate.isNan = y.isNan ∧ y.negate.snan = y.snan := by cases y <;> exact ⟨rfl, rfl⟩

theorem FF.addV_nan (h : (x.isNan || y.isNan) = true) : f.addV r x y = (f.nan, nanFlag x y) := by
  rcases FV.eq_nan_of_or h with ⟨q, rfl⟩ | ⟨q, rfl⟩
  · exact FF.nanOf_pair _ _
  · cases x <;> exact FF.nanOf_pair _ _

theorem FF.mul_nan (h : ((f.operand r.fz a).isNan || (f.operand r.fz b).isNan) = true) :
    f.mul r a b = (f.nan, nanFlag (f.operand r.fz a) (f.operand r.fz b)) := by
  unfold FF.mul
  generalize f.operand r.fz a = x, f.operand r.fz b = y at h
  rcases FV.eq_nan_of_or h with ⟨q, rfl⟩ | ⟨q, rfl⟩
  · exact FF.nanOf_pair _ _
  · cases x <;> exact FF.nanOf_pair _ _

theorem FF.div_nan (h : ((f.operand r.fz a).isNan || (f.operand r.fz b).isNan) = true) :
    f.div r a b = (f.nan, nanFlag (f.operand r.fz a) (f.operand r.fz b)) := by
  unfold FF.div
  generalize f.operand r.fz a = x, f.operand r.fz b = y at h
  rcases FV.eq_nan_of_or h with ⟨q, rfl⟩ | ⟨q, rfl⟩
  · exact FF.nanOf_pair _ _
  · cases x <;> exact FF.nanOf_pair _ _

end NaN

theorem nanOperandsGiveNaN {f : FF} (hf : f.Lawful) (r : Rnd) {a b : Nat} (h : ((f.value a).isNan || (f.value b).isNan) = true) :
    let flag := nanFlag (f.value a) (f.value b)
    f.add r a b = (f.nan, flag) ∧ f.sub r a b = (f.nan, flag) ∧ f.mul r a b = (f.nan, flag) ∧ f.div r a b = (f.nan, flag)
      ∧ f.eq r.fz a b = (false, flag) ∧ f.lt r.fz a b = (false, flagNV) ∧ f.le r.fz a b = (false, flagNV) := by
  obtain ⟨hna, hsa⟩ := f.operand_nan hf r.fz a
  obtain ⟨hnb, hsb⟩ := f.operand_nan hf r.fz b
  obtain ⟨hnn, hsn⟩ := (f.operand r.fz b).negate_nan
  have hflag : nanFlag (f.operand r.fz a) (f.operand r.fz b) = nanFlag (f.value a) (f.value b) := by rw [nanFlag, nanFlag, hsa, hsb]
  have hflagn : nanFlag (f.operand r.fz a) (f.operand r.fz b).negate = nanFlag (f.value a) (f.value b) := by
    rw [nanFlag, nanFlag, hsa, hsn, hsb]
  rw [← hna, ← hnb] at h
  refine ⟨hflag ▸ FF.addV_nan h, hflagn ▸ FF.addV_nan (by rw [hnn]; exact h), hflag ▸ FF.mul_nan h, hflag ▸ FF.div_nan h,
    hflag ▸ if_pos h, if_pos h, if_pos h⟩

/-- A part of O49. -/
theorem roundingKeepsValuesAndNaNsOfFormats : Stated.RoundingKeepsValuesAndNaNs := fun et _ _ =>
  ⟨fun r _ _ _ _ hc h hfz => FF.round_of_value (ffOf_lawful et) r hc h hfz, fun r _ _ h => nanOperandsGiveNaN (ffOf_lawful et) r h⟩

/-! ### NaNs of binary32 -/

/-- The NaNs of binary32 are the codes whose magnitude is above that of infinity (R84). -/
theorem f32_isNan (c : Nat) : (f32.value c).isNan = decide (f32.inf < c % f32.signBit) := by
  have hinf : f32.inf < c % f32.signBit ↔ f32.expOf c = 255 ∧ f32.fracOf c ≠ 0 := by
    change 2139095040 < c % 2147483648 ↔ c / 8388608 % 256 = 255 ∧ c % 8388608 ≠ 0
    omega
  rw [FF.value_def, show f32.e4m3 = false from rfl, show 2 ^ f32.eb - 1 = 255 from rfl]
  by_cases hexp : f32.expOf c = 255
  · by_cases hfrac : f32.fracOf c = 0 <;> simp [hinf, hexp, hfrac, FV.isNan]
  · by_cases hzero : f32.expOf c = 0 <;> simp [hinf, hexp, hzero, FV.isNan]

/-- A rounded code is its sign and a magnitude up to the largest, or the infinity. -/
theorem FF.round_magnitude (f : FF) (r : Rnd) (neg : Bool) (m : Nat) (e : Int) (sticky : Bool) :
    ∃ k, (f.round r neg m e sticky).1 = (if neg then f.signBit else 0) + k ∧ (k ≤ f.maxCode ∨ k = f.inf) := by
  simp only [FF.round, FF.overflow, apply_ite Prod.fst]
  generalize (if neg then f.signBit else 0) = s
  split_ifs 
  · exact ⟨0, rfl, .inl (Nat.zero_le _)⟩
  · exact ⟨0, rfl, .inl (Nat.zero_le _)⟩
  · exact ⟨_, rfl, .inl le_rfl⟩
  · exact ⟨_, rfl, .inr rfl⟩
  · exact ⟨_, rfl, .inl (by omega)⟩

theorem f32_round_isNan (r : Rnd) (neg : Bool) (m : Nat) (e : Int) (sticky : Bool) :
    (f32.value (f32.round r neg m e sticky).1).isNan = false := by
  obtain ⟨k, hround, hk⟩ := f32.round_magnitude r neg m e sticky
  have hle : k ≤ f32.inf := hk.elim (·.trans (by decide)) (·.le)
  have hlt : k < f32.signBit := hle.trans_lt (by decide)
  rw [hround, f32_isNan]
  cases neg <;> simp [Nat.mod_eq_of_lt hlt, hle]

/-! ### Elements of a block -/

section Elements
variable {dx8 anynan : Bool} {ea eb x : Nat}

/-- The values of an element's magnitude field (R99, R100). -/
def dxMags (dx8 : Bool) : Nat := if dx8 then 64 else 4

theorem dxPackElem_lt : (dxPackElem dx8 anynan ea eb x).2.2.1 < dxMags dx8 := by
  have hpos : 0 < dxMags dx8 := by cases dx8 <;> decide
  rw [dxPackElem, show (if dx8 then 64 else 4) = dxMags dx8 from rfl]
  cases f32.value x with
  | nan q => exact hpos
  | inf n => exact Nat.sub_lt hpos one_pos
  | fin n m e =>
    simp only [apply_ite Prod.snd, apply_ite Prod.fst]
    split_ifs with hb ha
    · rw [Bool.and_eq_true, decide_eq_true_eq] at hb
      omega
    · exact Nat.sub_lt hpos one_pos
    · omega

/-- In a block with a NaN, the elements of the second exponent are the NaNs (R102). -/
theorem dxPackElem_sel : (dxPackElem dx8 true ea eb x).1 = (f32.value x).isNan := by
  rw [dxPackElem]
  cases f32.value x with
  | nan q => rfl
  | inf n => rfl
  | fin n m e =>
    simp only [Bool.not_true, Bool.false_and, Bool.false_eq_true, if_false, FV.isNan]
    split_ifs <;> rfl

end Elements

/-- Each nibble of a list is read at its place (R100). -/
theorem getD_nibbles {l : List Nat} (hl : ∀ x ∈ l, x < 16) (i : Nat) :
    ((nibbles l).getD (i / 2) 0).toNat / 16 ^ (i % 2) % 16 = l.getD i 0 := by
  induction l using nibbles.induct generalizing i with
  | case1 a b r ih =>
    have ha := hl a (by simp)
    have hb := hl b (by simp)
    match i with
    | 0 => simp [nibbles]; omega
    | 1 => simp [nibbles]; omega
    | i + 2 =>
      have := ih (fun x hx => hl x (by simp [hx])) i
      simpa [nibbles] using this
  | case2 a =>
    have ha := hl a (by simp)
    match i with
    | 0 => simp [nibbles]; omega
    | 1 => simp [nibbles]; omega
    | i + 2 => simp [nibbles]
  | case3 => simp [nibbles]

/-- The bytes of a block's elements (R99, R100). -/
def dxBody (dx8 : Bool) (el : List (Bool × Bool × Nat × Nat)) : List Byte :=
  if dx8 then el.map fun p => BitVec.ofNat 8 (p.1.toNat * 128 + p.2.1.toNat * 64 + p.2.2.1)
  else nibbles (el.map fun p => p.1.toNat * 8 + p.2.1.toNat * 4 + p.2.2.1)

theorem bitAt_high {k l : Nat} (hl : l < 2 ^ k) (t : Bool) : bitAt (t.toNat * 2 ^ k + l) k = t := by
  rw [bitAt, Nat.add_comm, Nat.add_mul_div_right _ _ (by positivity), Nat.div_eq_of_lt hl]
  cases t <;> rfl

theorem dxElem_sel (dx8 : Bool) (blk : List Byte) (i : Nat) : (dxElem dx8 blk i).1 =
    if dx8 then bitAt (blk.getD (2 + i) 0).toNat 7 else bitAt ((blk.getD (2 + i / 2) 0).toNat / 16 ^ (i % 2) % 16) 3 := by
  cases dx8 <;> rfl

/-- An element selects the exponent that it was packed with. -/
theorem dxElem_dxBody {dx8 : Bool} (b₀ b₁ : Byte) {el : List (Bool × Bool × Nat × Nat)} (hel : ∀ p ∈ el, p.2.2.1 < dxMags dx8) {i : Nat}
    {p : Bool × Bool × Nat × Nat} (hp : el[i]? = some p) : (dxElem dx8 (b₀ :: b₁ :: dxBody dx8 el) i).1 = p.1 := by
  have hget {α : Type} (g : Bool × Bool × Nat × Nat → α) (z : α) : (el.map g).getD i z = g p := by
    simp [List.getD_eq_getElem?_getD, hp]
  have hbyte (k : Nat) : (b₀ :: b₁ :: dxBody dx8 el).getD (2 + k) 0 = (dxBody dx8 el).getD k 0 := by rw [Nat.add_comm]; rfl
  rw [dxElem_sel, hbyte, hbyte]
  cases dx8 with
  | true =>
    have hlow : p.2.1.toNat * 64 + p.2.2.1 < 2 ^ 7 := by
      have hmag : p.2.2.1 < 64 := hel p (List.mem_of_getElem? hp)
      have := p.2.1.toNat_le
      omega
    have hle := p.1.toNat_le
    rw [if_pos rfl, show dxBody true el = el.map _ from rfl, hget, BitVec.toNat_ofNat, Nat.mod_eq_of_lt (by omega), Nat.add_assoc]
    exact bitAt_high hlow p.1
  | false =>
    have hlow (q : Bool × Bool × Nat × Nat) (hq : q ∈ el) : q.2.1.toNat * 4 + q.2.2.1 < 2 ^ 3 := by
      have hmag : q.2.2.1 < 4 := hel q hq
      have := q.2.1.toNat_le
      omega
    have hnibble : ∀ x ∈ el.map (fun q => q.1.toNat * 8 + q.2.1.toNat * 4 + q.2.2.1), x < 16 := by
      intro x hx
      obtain ⟨q, hq, rfl⟩ := List.mem_map.mp hx
      have := hlow q hq
      have := q.1.toNat_le
      omega
    rw [if_neg Bool.false_ne_true, show dxBody false el = nibbles (el.map _) from rfl, getD_nibbles hnibble, hget, Nat.add_assoc]
    exact bitAt_high (hlow p (List.mem_of_getElem? hp)) p.1

theorem dxPack_eq (dx8 : Bool) (d : Nat) (xs : List Nat) :
    let anynan := xs.any fun x => (f32.value x).isNan
    ∃ ea eb, ea < 255 ∧ (anynan = true → eb = 255) ∧ (anynan = false → eb < 255) ∧
      (dxPack dx8 d xs).1 = BitVec.ofNat 8 ea :: BitVec.ofNat 8 eb :: dxBody dx8 (xs.map (dxPackElem dx8 anynan ea eb)) := by
  intro anynan
  obtain ⟨ea, hea, hpack⟩ : ∃ ea, ea < 255 ∧ (dxPack dx8 d xs).1 = BitVec.ofNat 8 ea ::
      BitVec.ofNat 8 (if anynan then 0xFF else ea - d) :: dxBody dx8 (xs.map (dxPackElem dx8 anynan ea (if anynan then 0xFF else ea - d))) := by
    refine ⟨_, ?_, rfl⟩
    split
    · decide
    · split
      · unfold clampInt
        split_ifs <;> omega
      · decide
  exact ⟨ea, _, hea, fun h => if_pos h, fun h => by rw [h, if_neg Bool.false_ne_true]; omega, hpack⟩

/-- An element is a NaN when the exponent that it selects is 0xFF (R101). -/
theorem dxToF32_isNan (dx8 : Bool) (blk : List Byte) (i : Nat) :
    (f32.value (dxToF32 dx8 blk i)).isNan = (dxExp blk (dxElem dx8 blk i).1 == 0xFF) := by
  rw [dxToF32, dxValue]
  rcases dxElem dx8 blk i with ⟨sel, s, m⟩
  dsimp only
  cases h : dxExp blk sel == 0xFF with
  | true => exact (f32_isNan f32.nan).trans (by decide)
  | false => exact f32_round_isNan ..

/-- A part of O49. -/
theorem blocksKeepNaNs : Stated.BlocksKeepNaNs := by
  intro dx8 d xs hlen _ b
  refine ⟨length_dxPack dx8 d hlen, fun i hi => ?_⟩
  obtain ⟨ea, eb, hea, hnan, hnum, hb⟩ := dxPack_eq dx8 d xs
  have hx : xs[i]? = some (xs.getD i 0) := by
    rw [List.getElem?_eq_getElem (by omega), List.getD_eq_getElem _ _ (by omega)]
  have hmem : xs.getD i 0 ∈ xs := List.mem_of_getElem? hx
  generalize hany : (xs.any fun x => (f32.value x).isNan) = anynan at hnan hnum hb
  have hsel : (dxElem dx8 b i).1 = (dxPackElem dx8 anynan ea eb (xs.getD i 0)).1 := by
    rw [show b = _ from hb]
    refine dxElem_dxBody _ _ (fun p hp => ?_) (by rw [List.getElem?_map, hx]; rfl)
    obtain ⟨x, _, rfl⟩ := List.mem_map.mp hp
    exact dxPackElem_lt
  have hexp (sel : Bool) : dxExp b sel = (if sel then eb else ea) % 256 := by
    rw [show b = _ from hb]
    cases sel <;> exact BitVec.toNat_ofNat ..
  rw [dxToF32_isNan, hsel, hexp]
  cases anynan with
  | true =>
    rw [dxPackElem_sel, hnan rfl]
    cases (f32.value (xs.getD i 0)).isNan
    · simpa using (by omega : ¬ea % 256 = 255)
    · rfl
  | false =>
    have hfinite := List.any_eq_false.mp hany _ hmem
    have := hnum rfl
    rw [eq_false_of_ne_true hfinite, beq_eq_false_iff_ne]
    split <;> omega

/-- Settles O49: the formats, then the blocks. -/
theorem roundingKeepsValuesAndNaNs : Obligations.RoundingKeepsValuesAndNaNs := ⟨roundingKeepsValuesAndNaNsOfFormats, blocksKeepNaNs⟩

end Sys2Proof.Machine

/-! ## Helpers, joins, exits and timelines -/

namespace Sys2Proof.Machine

section Issue

variable {s r : State} {i : Instr} {c : Class} {len : Nat} {f : State → State × Res}

theorem State.settle_wait (s : State) (len : Nat) (w : Wait) : State.settle len (s, .wait w) = (s.setThr { s.thr with
    st := .waiting w, held := some (s.thr.held.getD s.curW), since := s.thr.waitSince w s.now }).holdWait w (.resume s.cur.1 s.cur.2) := rfl

/-- An instruction that waits, for anything but a stack, keeps its words and tries again (R126). -/
theorem waits_of (h : s.Ready) (hi : exec i s = issue c len s f) {w : Wait} (hw : ∀ k, w ≠ .stack k) (hf : f s = (s, .wait w)) : Waits i s w := by
  refine ⟨s.thr.waitSince w s.now, ?_⟩
  rw [hi, issue_ready h, hf, State.settle_wait, State.holdWait_of_not _ _ _ hw, h.hold]

/-- An instruction that changes its thread's state itself leaves what its meaning answers (R126). -/
theorem left_of (h : s.Ready) (hi : exec i s = issue c len s f) (hf : f s = (r, .left)) :
    exec i s = .next (r.holdIfStopping s.cur.1 s.cur.2) := by
  rw [hi, issue_ready h, hf]
  rfl

/-- An instruction whose meaning is a register result gives it. -/
theorem gives_of (h : s.Ready) (hi : exec i s = issue c len s f) {d : Reg} {srcs : List Reg} {v : Word} (hf : f s = s.result d srcs v) :
    GivesX i s d v (srcs.any s.xp) len := by
  rw [GivesX, hi]
  exact issue_result h c len f d srcs v hf

end Issue

section Drains

variable {s : State} {p : PendFault → Bool}

theorem takePend_of_none {l : List PendFault} (h : ∀ q ∈ l, p q = false) : takePend p l = none := by
  induction l with
  | nil => rfl
  | cons q l ih => simp [takePend, h q (by simp), ih fun r hr => h r (by simp [hr])]

/-- With no pending fault of the kind, nothing is delivered (R528). -/
theorem State.deliverOr_of_none (h : ∀ q ∈ s.tk.pend, p q = false) (k : State → State × Res) : s.deliverOr p k = k s := by
  rw [State.deliverOr, takePend_of_none h]

/-- With nothing buffered and no such fault pending, a drain goes straight on (R223, R528). -/
theorem State.drainThen_of_none (hb : s.thr.wbuf = []) (h : ∀ q ∈ s.tk.pend, p q = false) (k : State → State × Res) : s.drainThen p k = k s := by
  have hdrain : s.drain s.cur.1 s.cur.2 = (s, true) := if_pos (List.isEmpty_iff.mpr hb)
  rw [State.drainThen, hdrain, if_pos rfl, State.deliverOr_of_none h]

end Drains

section Threads

variable {s : State} {a b d : Reg}

theorem State.controlOnly_of_control (hc : s.cur.2 = 0) (k : State → State × Res) : s.controlOnly k = k s := if_pos (by simp [hc])

theorem State.controlOnly_of_helper (hc : s.cur.2 ≠ 0) (k : State → State × Res) : s.controlOnly k = (s, .fault 0x0A 0 0) :=
  if_neg (by simpa using hc)

/-! ### hstart (R135) -/

theorem helperSlots_eq : slots.drop 1 = List.range' 1 15 := rfl

theorem Task.freeSlot_of_full {k : Task} (h : ∀ i, 1 ≤ i → i < 16 → (k.thread i).st ≠ .empty) : k.freeSlot = none := by
  rw [Task.freeSlot, helperSlots_eq, List.find?_eq_none]
  intro i hi
  rw [List.mem_range'_1] at hi
  simpa using h i hi.1 hi.2

theorem Task.freeSlot_of_lowest {k : Task} {i : Nat} (h1 : 1 ≤ i) (h16 : i < 16) (he : (k.thread i).st = .empty)
    (hlow : ∀ j, 1 ≤ j → j < i → (k.thread j).st ≠ .empty) : k.freeSlot = some i := by
  rw [Task.freeSlot, helperSlots_eq, List.find?_range'_eq_some]
  exact ⟨by simpa using he, List.mem_range'_1.mpr ⟨h1, h16⟩, fun j hj hji => by simpa using hlow j hj hji⟩

/-- The checks and the effect of hstart in a control thread that is not between a sarrive and its swait. -/
def hstartOp (d a b : Reg) (s : State) : State × Res :=
  s.unlessPoison [a] fun s =>
    if (s.x a).toNat % 4 != 0 then (s, .fault 0x04 0 0)
    else match s.tk.freeSlot with
      | none => (s.setX d 0 false, .done)
      | some i => ((s.setTk (s.tk.setThread i (helperThread s.tk.lrec i (s.x a) (s.x b) (s.xp b) (s.thr.xr 2) s.thr.tflags))).setX d
          (BitVec.ofNat 64 i) false, .done)

/-- The meaning of hstart. -/
def hstartMeaning (d a b : Reg) (s : State) : State × Res :=
  s.controlOnly fun s =>
    match s.thr.arrival with
    | some ⟨n, true, _, _, _, _⟩ => (s, .fault 0x30 0 n)
    | _ => hstartOp d a b s

theorem exec_hstart : exec (.hstart d a b) s = issue .barred 4 s (hstartMeaning d a b) := rfl

theorem hstartMeaning_of_split (hc : s.cur.2 = 0) {r : Arrival} (ha : s.thr.arrival = some r) (hr : r.split = true) :
    hstartMeaning d a b s = (s, .fault 0x30 0 r.level) := by
  obtain ⟨n, split, _, _, _, _⟩ := r
  cases hr
  rw [hstartMeaning, State.controlOnly_of_control hc, ha]

theorem hstartMeaning_of_whole (hc : s.cur.2 = 0) (ha : ∀ r, s.thr.arrival = some r → r.split = false) :
    hstartMeaning d a b s = hstartOp d a b s := by
  rw [hstartMeaning, State.controlOnly_of_control hc]
  split
  · next h => cases ha _ h
  · rfl

theorem hstartOp_of_none (hp : s.xp a = false) (h4 : (s.x a).toNat % 4 = 0) (hf : s.tk.freeSlot = none) :
    hstartOp d a b s = (s.setX d 0 false, .done) := by
  rw [hstartOp, State.unlessPoison_of_clean hp, h4, hf]
  rfl

theorem hstartOp_of_some (hp : s.xp a = false) (h4 : (s.x a).toNat % 4 = 0) {i : Nat} (hf : s.tk.freeSlot = some i) :
    hstartOp d a b s = ((s.setTk (s.tk.setThread i (helperThread s.tk.lrec i (s.x a) (s.x b) (s.xp b) (s.x 2) s.thr.tflags))).setX d
      (BitVec.ofNat 64 i) false, .done) := by
  rw [hstartOp, State.unlessPoison_of_clean hp, h4, hf]
  rfl

/-- What a helper starts with (R125, R135). -/
theorem helperThread_fields (r : LaunchRec) (i : Nat) (pc arg : Word) (argP : Bool) (gp tflags : Word) :
    let h := helperThread r i pc arg argP gp tflags
    h.st = .ready ∧ h.pc = pc ∧ h.xr 1 = BitVec.ofInt 64 (-(i * 16 * r.stack : Nat)) ∧ h.xr 2 = gp
      ∧ h.xr 3 = arg ∧ h.xpr 3 = argP ∧ h.xr 4 = BitVec.ofNat 64 i ∧ (∀ r : Reg, 4 < r.toNat → h.xr r = 0)
      ∧ h.tflags = tflags &&& 0xF ∧ h.v = [] ∧ h.p = [] ∧ h.lr = 0 ∧ h.fltrec = 0 := by
  have hempty (r : Reg) : Thread.empty.xr r = 0 := by simp [Thread.xr, Thread.empty, AMap.get]
  refine ⟨rfl, rfl, ?_, ?_, ?_, ?_, ?_, fun r hr => ?_, rfl, rfl, rfl, rfl, rfl⟩
  all_goals simp only [helperThread, Thread.xr_setX, Thread.xpr_setX]
  case refine_6 =>
    have hne : ∀ n : Nat, n ≤ 4 → r ≠ BitVec.ofNat 5 n := by
      intro n hn h
      rw [h, BitVec.toNat_ofNat] at hr
      omega
    rw [if_neg fun h => hne 4 (by omega) h.1, if_neg fun h => hne 3 (by omega) h.1, if_neg fun h => hne 2 (by omega) h.1,
      if_neg fun h => hne 1 (by omega) h.1]
    exact hempty r
  all_goals simp

theorem hstartStartsHelper : Stated.HstartStartsHelper := by
  intro s hs d a b
  refine ⟨fun hc => ?helper, fun hc r ha hr => ?split, fun hc ha => ⟨fun hp => ?poison, fun hp h4 => ?misaligned, fun hp h4 hfull => ?full,
    fun hp h4 i h1 h16 he hlow => ⟨_, ?started, helperThread_fields ..⟩⟩⟩
  case helper => exact faults_of hs exec_hstart (State.controlOnly_of_helper hc _)
  case split => exact faults_of hs exec_hstart (hstartMeaning_of_split hc ha hr)
  all_goals have hop := hstartMeaning_of_whole (d := d) (a := a) (b := b) hc ha
  case poison => exact faults_of hs exec_hstart (hop.trans (State.unlessPoison_of_poisoned hp _))
  case misaligned =>
    refine faults_of hs exec_hstart (hop.trans ?_)
    rw [hstartOp, State.unlessPoison_of_clean hp]
    exact if_pos (by simpa using h4)
  case full => exact effects_of hs exec_hstart (hop.trans (hstartOp_of_none hp h4 (Task.freeSlot_of_full hfull)))
  case started => exact effects_of hs exec_hstart (hop.trans (hstartOp_of_some hp h4 (Task.freeSlot_of_lowest h1 h16 he hlow)))

/-! ### hjoin, hpeek, waittl (R136, R138, R139) -/

/-- The checks and the effect of hjoin in a control thread. -/
def hjoinOp (d a : Reg) (s : State) : State × Res :=
  let i := (s.x a).toNat
  let h := s.tk.thread i
  if i == 0 || 15 < i || decide (h.st = .empty) then (s, .fault 0x0A 0 0)
  else if h.st = .exited then ((s.setTk (s.tk.setThread i { h with st := .empty })).setX d h.exitVal h.exitP, .done)
  else (s, .wait (.hjoin i))

theorem exec_hjoin : exec (.hjoin d a) s = issue .barred 4 s fun s => s.controlOnly fun s => s.unlessPoison [a] (hjoinOp d a) := rfl

theorem hjoinMeaning_of_control (hc : s.cur.2 = 0) (hp : s.xp a = false) :
    (s.controlOnly fun s => s.unlessPoison [a] (hjoinOp d a)) = hjoinOp d a s := by
  rw [State.controlOnly_of_control hc, State.unlessPoison_of_clean hp]

theorem hjoinOp_of_bad (h : (s.x a).toNat = 0 ∨ 15 < (s.x a).toNat ∨ (s.tk.thread (s.x a).toNat).st = .empty) :
    hjoinOp d a s = (s, .fault 0x0A 0 0) :=
  if_pos (by simpa [or_assoc] using h)

theorem hjoinOp_of_good (h1 : 1 ≤ (s.x a).toNat) (h15 : (s.x a).toNat ≤ 15) (he : (s.tk.thread (s.x a).toNat).st ≠ .empty) :
    hjoinOp d a s = if (s.tk.thread (s.x a).toNat).st = .exited then
      ((s.setTk (s.tk.setThread (s.x a).toNat { s.tk.thread (s.x a).toNat with st := .empty })).setX d
        (s.tk.thread (s.x a).toNat).exitVal (s.tk.thread (s.x a).toNat).exitP, .done)
    else (s, .wait (.hjoin (s.x a).toNat)) :=
  if_neg (by simp [he]; omega)

/-- What hpeek gives for a slot. -/
def SlotState.peeked : SlotState → Word
  | .empty => 0
  | .exited => 2
  | _ => 1

theorem exec_hpeek : exec (.hpeek d a) s = issue .barred 4 s fun s => s.unlessPoison [a] fun s =>
    if 15 < (s.x a).toNat then (s, .fault 0x0A 0 0) else s.result d [] (s.tk.thread (s.x a).toNat).st.peeked := rfl

theorem exec_waittl {t : BitVec 2} : exec (.waittl t a) s = issue .barred 4 s fun s => s.unlessPoison [a] fun s =>
    if (s.tk.line t.toNat).value < (s.x a).toNat then (s, .wait (.timeline t.toNat (s.x a).toNat))
    else s.deliverOr (fun p => p.slot == s.cur.2 && p.ctr == t.toNat) fun s => (s, .done) := rfl

/-! ### hexit (R136, R137) -/

/-- A join that completes does so by a change of its task's threads (R136); without one nothing happens. -/
theorem State.joinRelease_cases (s : State) (tid slot : Nat) : s.joinRelease tid slot = s ∨
    (s.thread tid slot).st = .exited ∧ ∃ k : Task, k.core = (s.task tid).core ∧ s.joinRelease tid slot = (s.setTask tid k).complete tid 0 4 := by
  unfold State.joinRelease
  dsimp only
  split
  · split
    · next h =>
      rw [Bool.and_eq_true, decide_eq_true_eq, decide_eq_true_eq] at h
      exact .inr ⟨h.2, _, by rw [Task.setThread_core, Task.setThread_core], rfl⟩
    · exact .inl rfl
  · exact .inl rfl

theorem State.joinRelease_of_live {tid slot : Nat} (h : (s.thread tid slot).st ≠ .exited) : s.joinRelease tid slot = s :=
  (s.joinRelease_cases tid slot).resolve_right fun h' => h h'.1

/-- A join that completes on a core that no debugger stops leaves it so (R491). -/
theorem State.joinRelease_debug {tid slot : Nat} (h : (s.core (s.task tid).core).dbgStop = false) :
    ((s.joinRelease tid slot).core ((s.joinRelease tid slot).task tid).core).dbgStop = false := by
  obtain heq | ⟨-, k, hk, heq⟩ := s.joinRelease_cases tid slot
  · rwa [heq]
  · have hstop (t : Thread) : (((s.setTask tid k).setThread tid 0 t).core (((s.setTask tid k).setThread tid 0 t).task tid).core).dbgStop = false := by
      simp [hk, h]
    rw [heq, State.complete, State.holdIfStopping_of_not _ _ _ (hstop _)]
    exact hstop _

theorem State.Ready.live (h : s.Ready) : s.thr.st ≠ .exited := by
  have hrun := h.run
  intro he
  simp [Thread.canRun, he] at hrun

theorem exec_hexit : exec (.hexit a) s = issue .barred 4 s fun s => ((hexitOp a s).1.joinRelease s.cur.1 s.cur.2, (hexitOp a s).2) := rfl

/-- A hexit that its checks refuse lets no join complete. -/
theorem hexit_faults (hs : s.Ready) {code : Nat} (hf : hexitOp a s = (s, .fault code 0 0)) : Faults (.hexit a) s code 0 0 :=
  faults_of hs exec_hexit (by rw [hf, State.joinRelease_of_live hs.live])

/-- The helper's thread after its hexit. -/
def Thread.exitedWith (t : Thread) (v : Word) (p : Bool) : Thread :=
  { t with st := .exited, exitVal := v, exitP := p, held := none, got := [], answer := none, opIds := [], skipPm := false }

theorem hexitOp_of_idle (hc : s.cur.2 ≠ 0) (ho : s.holdsObj s.cur.1 s.cur.2 = false) (hb : s.threadBusy s.cur.1 s.cur.2 = false)
    (hp : ∀ p ∈ s.tk.pend, p.slot ≠ s.cur.2) (hw : s.thr.wbuf = []) :
    hexitOp a s = (s.setThr (s.thr.exitedWith (s.x a) (s.xp a)), .left) := by
  have hmine : ∀ p ∈ s.tk.pend, s.isMine p = false := fun p h => by simpa [State.isMine] using hp p h
  simp only [hexitOp, beq_iff_eq, hc, ho, hb, if_false, Bool.false_eq_true, State.drainThen_of_none hw hmine]
  rfl

theorem hexit_ends (hs : s.Ready) (hc : s.cur.2 ≠ 0) (ho : s.holdsObj s.cur.1 s.cur.2 = false) (hb : s.threadBusy s.cur.1 s.cur.2 = false)
    (hp : ∀ p ∈ s.tk.pend, p.slot ≠ s.cur.2) (hw : s.thr.wbuf = []) :
    exec (.hexit a) s = .next ((s.setThr (s.thr.exitedWith (s.x a) (s.xp a))).joinRelease s.cur.1 s.cur.2) := by
  have hop := hexitOp_of_idle (a := a) hc ho hb hp hw
  rw [left_of hs exec_hexit (by rw [hop]), State.holdIfStopping_of_not]
  refine State.joinRelease_debug ?_
  rw [State.setThr, State.task_setThread_self, Task.setThread_core]
  exact hs.debug

/-! ### kexit (R140) -/

theorem exec_kexit : exec (.kexit a) s = issue .barred 4 s (kexitOp a) := rfl

theorem kexitOp_of_live (hc : s.cur.2 = 0) (hl : s.tk.helperLive = true) : kexitOp a s = (s, .fault 0x0A 0 0) := by
  rw [kexitOp, State.controlOnly_of_control hc]
  exact if_pos hl

theorem kexitOp_of_idle (hc : s.cur.2 = 0) (hl : s.tk.helperLive = false) (ho : ∀ j < 16, s.holdsObj s.cur.1 j = false)
    (hx : s.tk.xlist = []) (hb : s.taskBusy s.cur.1 = false) (hp : s.tk.pend = []) (hw : s.thr.wbuf = []) :
    kexitOp a s = (s.exitTask s.cur.1 ((s.x a).toNat % 2 ^ 32), .left) := by
  have hobj : slots.any (s.holdsObj s.cur.1) = false := by simpa [slots] using ho
  rw [kexitOp, State.controlOnly_of_control hc]
  simp only [hl, hobj, hx, hb, Bool.false_eq_true, if_false, State.drainThen_of_none hw (p := fun _ => true) (by simp [hp])]

theorem threadsJoinAndEnd : Stated.ThreadsJoinAndEnd := by
  intro s hs d a
  refine ⟨fun hc hp => ⟨fun h => ?badJoin, fun h1 h15 he => ?join, fun h1 h15 hx he => ?joinWaits⟩, fun hc => ?helperJoin,
    fun hp => ⟨fun h => ?badPeek, fun h => ?peek⟩, fun hc => ?controlExit, fun hc ho => ?holder,
    fun hc ho hb hp hw => hexit_ends hs hc ho hb hp hw, fun t hp => ⟨fun h => ?timelineWaits, fun h hq => ?timeline⟩,
    fun hc => ?helperKexit, fun hc hl => faults_of hs exec_kexit (kexitOp_of_live hc hl),
    fun hc hl ho hx hb hp hw => left_of hs exec_kexit (kexitOp_of_idle hc hl ho hx hb hp hw)⟩
  case badJoin => exact faults_of hs exec_hjoin ((hjoinMeaning_of_control hc hp).trans (hjoinOp_of_bad h))
  case join =>
    refine effects_of hs exec_hjoin ((hjoinMeaning_of_control hc hp).trans ?_)
    rw [hjoinOp_of_good h1 h15 (by simp [he]), if_pos he]
  case joinWaits =>
    refine waits_of hs exec_hjoin (by simp) ((hjoinMeaning_of_control hc hp).trans ?_)
    rw [hjoinOp_of_good h1 h15 he, if_neg hx]
  case helperJoin => exact faults_of hs exec_hjoin (State.controlOnly_of_helper hc _)
  case badPeek => exact faults_of hs exec_hpeek ((State.unlessPoison_of_clean hp _).trans (if_pos h))
  case peek => exact gives_of hs exec_hpeek ((State.unlessPoison_of_clean hp _).trans (if_neg (Nat.not_lt.mpr h)))
  case controlExit => exact hexit_faults hs (if_pos (by simp [hc]))
  case holder => exact hexit_faults hs ((if_neg (by simpa using hc)).trans (if_pos ho))
  case timelineWaits => exact waits_of hs exec_waittl (by simp) ((State.unlessPoison_of_clean hp _).trans (if_pos h))
  case timeline =>
    have hnone : ∀ p ∈ s.tk.pend, (p.slot == s.cur.2 && p.ctr == t.toNat) = false := fun p h => by simpa using hq p h
    exact advances_of hs exec_waittl ((State.unlessPoison_of_clean hp _).trans ((if_neg (by omega)).trans (State.deliverOr_of_none hnone _)))
  case helperKexit => exact faults_of hs exec_kexit (State.controlOnly_of_helper hc _)

end Threads

/-- Settles O52: the start of a helper, then the ends, each from the branch of its instruction's meaning. -/
theorem threadsStartJoinAndEnd : Obligations.ThreadsStartJoinAndEnd := ⟨hstartStartsHelper, threadsJoinAndEnd⟩

end Sys2Proof.Machine

/-! ## Rendezvous -/

namespace Sys2Proof.Machine

section Rendezvous

variable {s : State}

/-- An instruction that waits once it has come to r (R126). -/
theorem waitsAt_of {r : State} {i : Instr} {c : Class} {len : Nat} {f : State → State × Res} (h : s.Ready) (hi : exec i s = issue c len s f)
    {w : Wait} (hf : f s = (r, .wait w)) : WaitsAt i s r w :=
  ⟨_, by rw [hi, issue_ready h, hf, State.settle_wait]⟩

/-! ### Arrivals (R142) -/

section Arrivals

variable {op : Nat} {d a : Reg} {id : BitVec 4} {count : BitVec 5}

/-- The episode at a point, as an arrival with an operation and a count finds it. -/
def State.episodeAt (s : State) (op : Nat) (id : BitVec 4) (count : BitVec 5) : Episode := AMap.get s.tk.points id.toNat ⟨count.toNat, op, []⟩

/-- The current thread's arrival joins an episode. -/
def State.arriveAt (s : State) (e : Episode) (d a : Reg) : Episode := { e with arr := e.arr ++ [(s.cur.2, s.x a, s.xp a, d.toNat)] }

variable (hnew : ∀ r ∈ (s.episodeAt op id count).arr, r.1 ≠ s.cur.2)
include hnew

theorem rdvOp_of_new : rdvOp op d a id count s =
    if (s.episodeAt op id count).count != count.toNat || (s.episodeAt op id count).op != op then (s, .fault 0x0A 0 0)
    else if (s.arriveAt (s.episodeAt op id count) d a).arr.length < (s.episodeAt op id count).count then
      (s.setTk { s.tk with points := AMap.put s.tk.points id.toNat (s.arriveAt (s.episodeAt op id count) d a) }, .wait (.rdv id.toNat))
    else
      let r := (s.arriveAt (s.episodeAt op id count) d a).result
      ((s.setTk ((s.episodeAt op id count).arr.foldl (fun k x => k.rdvRelease x.1 x.2.2.2 r)
        { s.tk with points := AMap.erase s.tk.points id.toNat })).setX d r.1 r.2, .done) := by
  have hany : ((s.episodeAt op id count).arr.any fun r => r.1 == s.cur.2) = false := by simpa using hnew
  have hothers : (s.arriveAt (s.episodeAt op id count) d a).arr.filter (fun x => x.1 != s.cur.2) = (s.episodeAt op id count).arr := by
    simpa [State.arriveAt] using hnew
  rw [← hothers]
  exact if_neg (ne_true_of_eq_false hany)

theorem rdv_acts (hs : s.Ready) {i : Instr} (hi : exec i s = issue .barred 8 s (rdvOp op d a id count)) :
    let e := s.episodeAt op id count
    let e' := s.arriveAt e d a
    (e.count ≠ count.toNat ∨ e.op ≠ op → Faults i s 0x0A 0 0)
    ∧ (e.count = count.toNat → e.op = op →
      (e'.arr.length < e.count → WaitsAt i s (s.setTk { s.tk with points := AMap.put s.tk.points id.toNat e' }) (.rdv id.toNat))
      ∧ (e.count ≤ e'.arr.length →
        let k := e.arr.foldl (fun k x => k.rdvRelease x.1 x.2.2.2 e'.result) { s.tk with points := AMap.erase s.tk.points id.toNat }
        Effects i s ((s.setTk k).setX d e'.result.1 e'.result.2) 8)) := by
  have hop := rdvOp_of_new (d := d) (a := a) hnew
  refine ⟨fun h => ?differs, fun hc ho => ?agrees⟩
  case differs => exact faults_of hs hi (hop.trans (if_pos (by simpa using h)))
  case agrees =>
    rw [if_neg (by simp [hc, ho])] at hop
    exact ⟨fun h => waitsAt_of hs hi (hop.trans (if_pos h)), fun h => effects_of hs hi (hop.trans (if_neg (by omega)))⟩

end Arrivals

/-! ### Results (R143) -/

/-- The word that a running maximum keeps is one of those seen, and none of them is larger. -/
theorem foldl_signedMax {α : Type} (v : α → Word) (l : List α) (w : Word) :
    let m := l.foldl (fun w a => if w.slt (v a) then v a else w) w
    (m = w ∨ m ∈ l.map v) ∧ w.toInt ≤ m.toInt ∧ ∀ a ∈ l, (v a).toInt ≤ m.toInt := by
  induction l generalizing w with
  | nil => simp
  | cons a l ih =>
    obtain ⟨hmem, hle, hall⟩ := ih (if w.slt (v a) then v a else w)
    have hstep : w.toInt ≤ (if w.slt (v a) then v a else w).toInt ∧ (v a).toInt ≤ (if w.slt (v a) then v a else w).toInt := by
      split
      · next h => exact ⟨by rw [BitVec.slt_iff_toInt_lt] at h; omega, le_refl _⟩
      · next h => exact ⟨le_refl _, by rw [BitVec.slt_iff_toInt_lt] at h; omega⟩
    refine ⟨?_, hstep.1.trans hle, ?_⟩
    · rw [List.foldl_cons, List.map_cons, List.mem_cons]
      rcases hmem with hm | hm
      · rw [hm]
        split
        · exact .inr (.inl rfl)
        · exact .inl rfl
      · exact .inr (.inr hm)
    · intro b hb
      rcases List.mem_cons.mp hb with rfl | hb
      · exact hstep.2.trans hle
      · exact hall b hb

theorem Episode.result_sum {e : Episode} (h : e.op = 1) : e.result = ((e.arr.map fun x => x.2.1).sum, e.arr.any fun x => x.2.2.1) := by
  simp only [Episode.result, h, List.sum_eq_foldl, List.foldl_map]

theorem Episode.result_or {e : Episode} (h : e.op = 3) :
    e.result = ((e.arr.map fun x => x.2.1).foldl (· ||| ·) 0, e.arr.any fun x => x.2.2.1) := by
  simp only [Episode.result, h, List.foldl_map]

theorem Episode.result_max {e : Episode} (h : e.op = 2) (hne : e.arr ≠ []) : (e.result.2 = e.arr.any fun x => x.2.2.1) ∧
    e.result.1 ∈ e.arr.map (fun x => x.2.1) ∧ ∀ v ∈ e.arr.map (fun x => x.2.1), v.toInt ≤ e.result.1.toInt := by
  obtain ⟨x, xs, hx⟩ := List.exists_cons_of_ne_nil hne
  have hr : e.result = (e.arr.foldl (fun w a => if w.slt a.2.1 then a.2.1 else w) x.2.1, e.arr.any fun x => x.2.2.1) := by
    simp only [Episode.result, h, hx]
  obtain ⟨hmem, -, hall⟩ := foldl_signedMax (fun a : Nat × Word × Bool × Nat => a.2.1) e.arr x.2.1
  rw [hr]
  refine ⟨rfl, hmem.elim (fun hm => ?_) id, ?_⟩
  · rw [hm, hx]
    exact List.mem_map_of_mem List.mem_cons_self
  · intro v hv
    obtain ⟨y, hy, rfl⟩ := List.mem_map.mp hv
    exact hall y hy

theorem Episode.result_lowest {e : Episode} (h : e.op = 0) {x : Nat × Word × Bool × Nat} (hx : x ∈ e.arr) (h16 : x.1 < 16)
    (hlow : ∀ y ∈ e.arr, y ≠ x → x.1 < y.1) : e.result = (x.2.1, x.2.2.1) := by
  have heq : ∀ y ∈ e.arr, y.1 ≤ x.1 → y = x := fun y hy hle => by_contra fun hne => Nat.not_lt.mpr hle (hlow y hy hne)
  have hnone : ∀ i ∈ List.range x.1, e.arr.find? (fun a => a.1 == i) = none := by
    intro i hi
    have hi := List.mem_range.mp hi
    refine List.find?_eq_none.mpr fun y hy hyi => ?_
    have hyi : y.1 = i := by simpa using hyi
    rw [heq y hy (by omega)] at hyi
    omega
  have hfound : e.arr.find? (fun a => a.1 == x.1) = some x := by
    cases hf : e.arr.find? fun a => a.1 == x.1 with
    | none => exact absurd (List.find?_eq_none.mp hf x hx) (by simp)
    | some y =>
      have hy : y.1 = x.1 := by simpa using List.find?_some hf
      rw [heq y (List.mem_of_find?_eq_some hf) hy.le]
  have hfirst : slots.findSome? (fun i => e.arr.find? fun a => a.1 == i) = some x := by
    refine List.findSome?_eq_some_iff.mpr ⟨List.range x.1, x.1, List.range' (x.1 + 1) (15 - x.1), ?_, hfound, hnone⟩
    have happend := List.range'_append_1 (s := 0) (m := x.1) (n := 15 - x.1 + 1)
    rw [Nat.zero_add, List.range'_succ, show x.1 + (15 - x.1 + 1) = 16 by omega] at happend
    rw [slots, List.range_eq_range', List.range_eq_range', happend]
  simp only [Episode.result, h, hfirst]

/-- Settles O20: the arrivals by the branches of one operation, then the results by the episode's. -/
theorem rendezvousGivesResult : Obligations.RendezvousGivesResult := fun _ hs _ _ _ _ =>
  ⟨fun hnew => rdv_acts hnew hs rfl, fun hnew => rdv_acts hnew hs rfl, fun hnew => rdv_acts hnew hs rfl, fun hnew => rdv_acts hnew hs rfl,
    fun _ hne => ⟨Episode.result_sum, Episode.result_or, fun h => Episode.result_max h hne, fun h _ hx => Episode.result_lowest h hx⟩⟩

end Rendezvous

end Sys2Proof.Machine

/-! ## Nothing is refused -/

namespace Sys2Proof.Machine

/-! ### The arms of the dispatch -/

/-- How an arm of the dispatch ends: an instruction of a thread is issued, an event happens. -/
inductive Arm (s : State) : Bool → Host.Outcome State Fault Refusal → Prop
  | insn (c : Class) (len : Nat) (f : State → State × Res) : Arm s true (issue c len s f)
  | event (f : State → State) : Arm s false (event s f)

/-- Every row of the opcode table but the events issues. -/
theorem exec_arm (i : Instr) (s : State) : Arm s i.isInsn (exec i s) := by
  unfold exec
  cases i
  case powerGood | stackBringup | combLock | switchPortTrain | mgcRelease | setReady | cxlLinkTrain | powerSample | dieJunctionLimit |
      dieJunctionRecover | combLineBelowThreshold | combLineRecover | laserTelemetryUpdate | issueGroupForm | handlerInstructionLimit |
      deadlockDetect | sfuEntryComplete | taskStart | taskRestore | taskSave | spinTimeoutSwap | hexitComplete | kexitComplete | storePerform |
      accessReissue | atomicAtHome | pageWalk | leaseExpiry | cmeArbitrationRound | copyUnit | copyLeaseRenewal | passArrival | passStreamStart |
      passDetected | omuProbe | omuPhld | omuPhtrim | omuPhrd | omuPhinv | omuTzero | omuTacc | dcmpExecute | omuThermalLoop | tcfgWrite |
      phprobeWrite | drlimitWrite | gainWrite | exchangeEntryRun | groupEnterReleasing | memberRelease | levelConflictDetect | peerLoss |
      doorbellWrite | launchRecordTake | klaunchMgcAnswer | kernelEligible | kernelDependenceFault | bindEntryWrite | kernelDrainComplete |
      replayCompare | kernelKill | preemptPartition | priorityWaitTimeout | contextCreateRequest | queueRegister | contextActivate |
      contextSuspend | contextResume | contextDestroy | contextFree | faultHandover | faultResolution | faultRingSpace | missEscalate | slotEdge |
      slotEdgeTimeout | atsInvalidationRequest | atsInvalidationCompletion | dcdReleaseNotice | dcdForcedRelease | flitReceive | nakTimer |
      ackTimer | idleFlitTimer | portEnable | portLock | portLockExchangeDone | portLockTimeout | portLightLoss | portFence | portDisable |
      portRestore | wavelengthErrorDrop | wavelengthSwitchover | packetForward | routingTableInstall | remoteRequestReceive |
      remoteResponseReceive | remoteRetryTimeout | remoteAbandonTimeout | targetRecordExpiry | changeRequest | portDrainComplete | circuitsReady |
      changeFinalInstall | irSessionWrite | irSlotTransfer | mgmtReadRequest | cxlMemRead | cxlMemWrite | hostLinkFatalError | cxlReset |
      uncorrectableMemoryError | registerParityError | correctedError | unitWithdraw | stackThermalSample | selfHoldNotice | stackLost |
      stackScrub | rowRepair | stackMailboxMessage | imageStage | imageVerify | handoverRequest | imageCatchUp | switchOver | catchUpTimeout |
      heartbeat | heartbeatMissed | probationCommit | pscImageBootTimeout | svnMinimumRaise | quoteRequest | debugStopRequest | debugResumeRequest
      | monitorSample | moncfgWrite | pmctlWrite | trbaseWrite | csrWrite | firmwareLeafStore | frameReuseWaitElapsed | newImageTrap |
      tenantAuthenticatedRequest => exact .event _
  all_goals exact .insn ..

theorem isEmpty_encode (i : Instr) : (encode i).isEmpty = !i.isInsn := by
  cases i <;> rfl

theorem encode_eq_nil_iff {i : Instr} : encode i = [] ↔ i.isInsn = false := by
  rw [← List.isEmpty_iff, isEmpty_encode, Bool.not_eq_true']

section Answers

variable {s : State}

theorem issue_answers (c : Class) (len : Nat) (f : State → State × Res) (h : s.thr.canRun = true) : ∃ t, issue c len s f = .next t := ⟨_, if_pos h⟩

theorem Arm.answers {b : Bool} {o : Host.Outcome State Fault Refusal} (h : Arm s b o) (hrun : s.thr.canRun = true ∨ b = false) :
    ∃ t, o = .next t := by
  cases h with
  | insn c len f => exact issue_answers c len f (hrun.resolve_right nofun)
  | event f => exact ⟨_, rfl⟩

theorem Arm.noThread {o : Host.Outcome State Fault Refusal} (h : Arm s true o) (hrun : s.thr.canRun = false) : o = .fault .noThread := by
  cases h with
  | insn c len f => exact if_neg (by simp [hrun])

/-- An event, and an instruction of a thread that can run it, answers a next state. -/
theorem exec_completes {i : Instr} (h : s.thr.canRun = true ∨ encode i = []) : Completes i s :=
  (exec_arm i s).answers (h.imp_right encode_eq_nil_iff.mp)

theorem exec_noThread {i : Instr} (h : s.thr.canRun = false) (hw : encode i ≠ []) : exec i s = .fault .noThread := by
  have harm := exec_arm i s
  rw [Laws.RoundTrip.isInsn_of_words hw] at harm
  exact harm.noThread h

/-! ### A fetch leaves every thread as it was (R39, R281) -/

/-- No thread of any task differs, and the current one is the same. -/
abbrev State.SameThreads (s t : State) : Prop := t.tasks = s.tasks ∧ t.cur = s.cur

variable (s)

theorem State.keepBlock_sameThreads (core l) : s.SameThreads (s.keepBlock core l) := ⟨rfl, rfl⟩

theorem State.noteWalk_sameThreads (ctx) : s.SameThreads (s.noteWalk ctx) := ⟨rfl, rfl⟩

theorem State.setCluster_sameThreads (c k) : s.SameThreads (s.setCluster c k) := ⟨rfl, rfl⟩

theorem State.walkFor_sameThreads (cl ctx va) : s.SameThreads (s.walkFor cl ctx va).1 := by
  unfold State.walkFor
  grind [State.noteWalk_sameThreads, State.setCluster_sameThreads]

theorem State.translate_sameThreads (cl ctx va k) : s.SameThreads (s.translate cl ctx va k).1 := by
  unfold State.translate
  grind [State.walkFor_sameThreads]

theorem State.sendPacket_sameThreads (p) : s.SameThreads (s.sendPacket p) := ⟨rfl, rfl⟩

theorem State.sendRemote_sameThreads (m who p) : s.SameThreads (s.sendRemote m who p) := by
  unfold State.sendRemote
  grind [State.sendPacket_sameThreads]

theorem State.fillFrom_sameThreads (tid slot pc va k) : s.SameThreads (s.fillFrom tid slot pc va k).1 := by
  unfold State.fillFrom
  grind [State.translate_sameThreads, State.keepBlock_sameThreads, State.sendRemote_sameThreads]

theorem State.fillBlock_sameThreads (tid slot pc) : s.SameThreads (s.fillBlock tid slot pc).1 := by
  unfold State.fillBlock
  grind [State.fillFrom_sameThreads]

theorem State.fetch_sameThreads (tid slot) : s.SameThreads (s.fetch tid slot).1 := by
  unfold State.fetch
  grind [State.fillBlock_sameThreads]

theorem State.SameThreads.thr {s t : State} (h : s.SameThreads t) : t.thr = s.thr := by
  obtain ⟨htasks, hcur⟩ := h
  simp only [State.thr, State.thread, State.task, htasks, hcur]

/-! ### Steps -/

variable {s}

/-- Words that a thread which can run holds run, or raise the fault that R49 names. -/
theorem runWords_answers (h : s.thr.canRun = true) : ∃ t, runWords s = .next t := by
  unfold runWords
  dsimp only
  split
  · exact exec_completes (.inl h)
  · exact ⟨_, rfl⟩

theorem issueThread_answers (tid slot : Nat) : ∃ t, issueThread tid slot s = .next t := by
  have hfetch := State.fetch_sameThreads { s with cur := (tid, slot), curW := (0, 0, 0) } tid slot
  unfold issueThread
  dsimp only
  split
  · exact ⟨_, rfl⟩
  · next hrun =>
    split
    · next hf =>
      rw [hf] at hfetch
      exact runWords_answers (hfetch.thr ▸ by simpa using hrun)
    · exact ⟨_, rfl⟩
    · exact ⟨_, rfl⟩

/-- With nothing on the agenda a step issues the next thread of the group, or does what the device does by itself. -/
theorem step_answers (h : s.agenda = []) : ∃ t, step s = .next t := by
  unfold step
  rw [h]
  dsimp only
  split
  · exact issueThread_answers _ _
  · exact ⟨_, rfl⟩

end Answers

/-- Settles O37: the arms of the dispatch, then the step that chooses its own move. -/
theorem nothingIsRefused : Obligations.NothingIsRefused := fun _ => ⟨fun _ => exec_completes, fun _ => exec_noThread, step_answers⟩

end Sys2Proof.Machine

/-! ## Events of a core -/

namespace Sys2Proof.Machine

/-! ### Writes of special registers (R288, R289, R309, R493, R498, R499) -/

section Writes

variable {s : State} {core tid slot : Nat} {v : Word} (hrun : s.running core = some tid)
include hrun

/-- A write that the task takes changes the task alone. -/
theorem State.csrWriteBy_of_setTk {n : Nat} {k : Task} (hw : ({ s with cur := (tid, slot) } : State).csrWrite n v =
    .ok (({ s with cur := (tid, slot) } : State).setTk k)) : s.csrWriteBy core slot n v = s.setTask tid k :=
  State.csrWriteBy_of_ok hrun hw

/-- A write that the cluster takes changes the cluster alone. -/
theorem State.csrWriteBy_of_setCluster {n cl : Nat} {c : Cluster} (hw : ({ s with cur := (tid, slot) } : State).csrWrite n v =
    .ok (({ s with cur := (tid, slot) } : State).setCluster cl c)) : s.csrWriteBy core slot n v = s.setCluster cl c :=
  State.csrWriteBy_of_ok hrun hw

theorem execGainWrite_stores : exec (.gainWrite core v) s = .next (s.setTask tid { s.task tid with gain := min (v.toNat % 16) 12 }) := by
  change Host.Outcome.next (s.csrWriteBy core 0 0x096 v) = _
  rw [State.csrWriteBy_of_setTk hrun (State.csrWrite_gain _ v)]
  rfl

theorem execTrbaseWrite_stores : exec (.trbaseWrite core 0 v) s = .next (s.setTask tid { s.task tid with trbase := trbaseOf v }) := by
  change Host.Outcome.next (s.csrWriteBy core 0 0x172 v) = _
  rw [State.csrWriteBy_of_setTk hrun (k := { s.task tid with trbase := trbaseOf v }) rfl]

theorem execPmctlWrite_stores :
    exec (.pmctlWrite core 0 v) s = .next (s.setTask tid { s.task tid with pmctl := (v &&& ~~~0xFFC) ||| ((s.task tid).pmctl &&& 4) }) := by
  change Host.Outcome.next (s.csrWriteBy core 0 0x170 v) = _
  rw [State.csrWriteBy_of_setTk hrun ((State.csrWrite_pmctl _ v).trans (if_pos rfl))]
  rfl

/-- A helper's write of PMCTL is refused (R493). -/
theorem execPmctlWrite_of_helper {i : Nat} (h0 : 0 < i) (h16 : i < 16) : exec (.pmctlWrite core i v) s = .next s := by
  change Host.Outcome.next (if i == 16 then s.armBreak core (v.getLsbD 2) else s.csrWriteBy core i 0x170 v) = _
  rw [if_neg (by simp; omega), State.csrWriteBy_of_refused hrun ((State.csrWrite_pmctl _ v).trans (if_neg (by simp; omega)))]

/-- A debugger that holds the core writes BKSTOP (R493). -/
theorem execPmctlWrite_of_debugger (hheld : (s.core core).dbgHeld = true) : exec (.pmctlWrite core 16 v) s =
    .next (s.setTask tid { s.task tid with pmctl := ((s.task tid).pmctl &&& ~~~4) ||| (if v.getLsbD 2 then 4 else 0) }) := by
  change Host.Outcome.next (s.armBreak core (v.getLsbD 2)) = _
  simp only [State.armBreak, hrun, hheld, if_true]

omit hrun in
theorem phprobeOf_eq (v : Word) : phprobeOf v = if v.toNat % 32 = 0 then 1 else min 16 (v.toNat % 32) := by
  unfold phprobeOf
  simp only [beq_iff_eq]
  split
  · rfl
  · split <;> omega

omit hrun in
theorem Task.cluster_of_core {k : Task} (h : k.core = core) : k.cluster = core / 16 := congrArg clusterOf h

theorem execPhprobeWrite_stores (hcore : (s.task tid).core = core) (hp : (s.task tid).phaseHere = true) :
    exec (.phprobeWrite core v) s = .next (s.setCluster (core / 16) { s.cluster (core / 16) with
      phprobe := if v.toNat % 32 = 0 then 1 else min 16 (v.toNat % 32) }) := by
  change Host.Outcome.next (s.csrWriteBy core 0 0x093 v) = _
  rw [State.csrWriteBy_of_setCluster hrun ((State.csrWrite_phprobe _ v).trans (if_pos hp)), ← phprobeOf_eq, ← Task.cluster_of_core hcore]
  rfl

theorem execDrlimitWrite_stores (hcore : (s.task tid).core = core) (hp : (s.task tid).phaseHere = true) :
    exec (.drlimitWrite core v) s = .next (s.setCluster (core / 16) { s.cluster (core / 16) with drlimit := v.toNat % 256 }) := by
  change Host.Outcome.next (s.csrWriteBy core 0 0x094 v) = _
  rw [State.csrWriteBy_of_setCluster hrun ((State.csrWrite_drlimit _ v).trans (if_pos hp)), ← Task.cluster_of_core hcore]
  rfl

theorem execPhprobeWrite_refused (hp : (s.task tid).phaseHere = false) : exec (.phprobeWrite core v) s = .next s :=
  congrArg Host.Outcome.next (State.csrWriteBy_of_refused hrun ((State.csrWrite_phprobe _ v).trans (if_neg (ne_true_of_eq_false hp))))

theorem execDrlimitWrite_refused (hp : (s.task tid).phaseHere = false) : exec (.drlimitWrite core v) s = .next s :=
  congrArg Host.Outcome.next (State.csrWriteBy_of_refused hrun ((State.csrWrite_drlimit _ v).trans (if_neg (ne_true_of_eq_false hp))))

omit hrun in
theorem execMoncfgWrite_clears {n : Nat} (hn : n < 4) : exec (.moncfgWrite core n v) s = .next (s.setCore core { s.core core with
    mons := AMap.put (s.core core).mons n (Monitor.cleared (moncfgOf v)) }) :=
  congrArg Host.Outcome.next (if_pos hn)

theorem execMonitorSample_counts {m x : Nat} (hm : m < 4) (hx : x < 2 ^ 64) (h0 : ((s.core core).mon m).cfg.toNat % 256 ≠ 0)
    (h16 : ((s.core core).mon m).cfg.toNat % 256 < 16) : exec (.monitorSample core m x) s =
    .next (s.setCore core { s.core core with mons := AMap.put (s.core core).mons m (((s.core core).mon m).sample x) }) := by
  have hsome : (s.core core).run.isSome = true := by rw [show (s.core core).run = some tid from hrun]; rfl
  have hsat : satTo (2 ^ 64 - 1) x = x := Nat.min_eq_left (by omega)
  change execMonitorSample core m x s = _
  simp only [execMonitorSample, event, hsat]
  rw [if_pos (by simp [hm, h0, h16, hsome])]

omit hrun in
theorem execMonitorSample_ignores {m x : Nat} (h : ((s.core core).mon m).cfg.toNat % 256 = 0 ∨ 16 ≤ ((s.core core).mon m).cfg.toNat % 256) :
    exec (.monitorSample core m x) s = .next s := by
  change execMonitorSample core m x s = _
  simp only [execMonitorSample, event]
  rw [if_neg (by simp; omega)]

/-! ### TCFG (R288, R289) -/

omit hrun in
theorem State.csrWrite_tcfg (s : State) (v : Word) {n : Nat} (hn : n < 16) : s.csrWrite (0x080 + n) v = s.writeTcfg s.tk n v := by
  have hrange : (decide (0x080 ≤ 0x080 + n) && decide (0x080 + n ≤ 0x08F)) = true := by simp; omega
  unfold State.csrWrite
  split
  case h_13 => rw [if_pos hrange, Nat.add_sub_cancel_left]
  all_goals omega

omit hrun in
theorem State.writeTcfg_foreign {k : Task} {n : Nat} (hv : tcfgValid (AMap.get (s.cluster k.cluster).tcfg n 0) = true)
    (ho : tcfgOwner (AMap.get (s.cluster k.cluster).tcfg n 0) ≠ k.kid % 65536) : s.writeTcfg k n v = .refused :=
  if_pos (Bool.and_eq_true_iff.mpr ⟨hv, bne_iff_ne.mpr ho⟩)

omit hrun in
theorem State.writeTcfg_own {k : Task} {n : Nat} (ho : tcfgValid (AMap.get (s.cluster k.cluster).tcfg n 0) = false ∨
      tcfgOwner (AMap.get (s.cluster k.cluster).tcfg n 0) = k.kid % 65536)
    (hb : (s.cluster k.cluster).tileBusy n = false) (hv : tcfgValid (v &&& tcfgMask) = true)
    (hfit : tcfgRows (v &&& tcfgMask) * tcfgRow (v &&& tcfgMask) ≤ 69632) :
    s.writeTcfg k n v = .ok (s.setCluster k.cluster { s.cluster k.cluster with
      tcfg := AMap.set (s.cluster k.cluster).tcfg n ((v &&& tcfgMask) ||| BitVec.ofNat 64 (k.kid % 65536 * 2 ^ 48)) 0 }) := by
  have hmine : (tcfgValid (AMap.get (s.cluster k.cluster).tcfg n 0) && tcfgOwner (AMap.get (s.cluster k.cluster).tcfg n 0) != k.kid % 65536)
      = false := by
    obtain ho | ho := ho
    · rw [ho, Bool.false_and]
    · rw [ho, bne_self_eq_false, Bool.and_false]
  have hsmall : decide (69632 < tcfgRows (v &&& tcfgMask) * tcfgRow (v &&& tcfgMask)) = false := by simpa using hfit
  simp only [State.writeTcfg, hmine, hb, hv, hsmall, Bool.and_false, Bool.false_eq_true, if_false, if_true]

end Writes

/-- A part of O24: the writer owns the tile that it configures. -/
theorem tcfgWritesConfigureTiles : Stated.TcfgWritesConfigureTiles := by
  intro s core tid slot n v hrun hcore hn
  have hcl := Task.cluster_of_core hcore
  have hexec : exec (.tcfgWrite core slot n v) s = .next (s.csrWriteBy core slot (0x080 + n) v) := congrArg Host.Outcome.next (if_pos hn)
  have hwrite := State.csrWrite_tcfg { s with cur := (tid, slot) } v hn
  simp only [← hcl]
  refine ⟨fun ho hb hv hfit => ?own, fun hv ho => ?foreign⟩
  case own => rw [hexec, State.csrWriteBy_of_setCluster hrun (hwrite.trans (State.writeTcfg_own ho hb hv hfit))]; rfl
  case foreign => rw [hexec, State.csrWriteBy_of_refused hrun (hwrite.trans (State.writeTcfg_foreign hv ho))]

/-- A part of O24, register by register. -/
theorem specialRegistersTakeWrites : Stated.SpecialRegistersTakeWrites := fun _ _ _ _ hrun hcore =>
  ⟨fun hp => ⟨execPhprobeWrite_stores hrun hcore hp, execDrlimitWrite_stores hrun hcore hp⟩,
    fun hp => ⟨execPhprobeWrite_refused hrun hp, execDrlimitWrite_refused hrun hp⟩,
    execGainWrite_stores hrun, execPmctlWrite_stores hrun, fun _ h0 h16 => execPmctlWrite_of_helper hrun h0 h16,
    execPmctlWrite_of_debugger hrun, execTrbaseWrite_stores hrun, fun _ hn => execMoncfgWrite_clears hn,
    fun _ hm _ hx h0 h16 => execMonitorSample_counts hrun hm hx h0 h16, fun _ _ _ h => execMonitorSample_ignores h⟩

end Sys2Proof.Machine

namespace Sys2Proof.Machine

/-! ### What a trace record leaves of the cores (R498) -/

section Trace

variable (s : State) (tid slot : Nat)

/-- A trace record leaves records in memory, and the time of the last one in its core. -/
theorem State.traceRec_shape (ty flags value : Nat) : ∃ r, s.RecordsOnly r ∧ (s.traceRec tid slot ty flags value = r ∨
    ∃ n a, s.traceRec tid slot ty flags value = r.setCore n { r.core n with traceAt := a }) := by
  have hgetD (u : State) (ctx va : Nat) (bs : List PByte) (n : Nat) : u.RecordsOnly ((u.engineWrite ctx va bs n).getD u) := by
    cases h : u.engineWrite ctx va bs n with
    | none => exact .refl u
    | some v => exact u.engineWrite_recordsOnly ctx va bs n v h
  unfold State.traceRec
  dsimp only
  split
  · exact ⟨s, .refl s, .inl rfl⟩
  · split
    · exact ⟨_, hgetD .., .inl rfl⟩
    · split
      · exact ⟨_, hgetD .., .inl rfl⟩
      · next u hu => exact ⟨_, (s.engineWrite_recordsOnly _ _ _ _ u hu).trans (hgetD ..), .inr ⟨_, _, rfl⟩⟩

theorem State.traceRec_core (ty flags value c : Nat) : ∃ a, (s.traceRec tid slot ty flags value).core c = { s.core c with traceAt := a } := by
  obtain ⟨r, hr, heq | ⟨n, a, heq⟩⟩ := s.traceRec_shape tid slot ty flags value
  all_goals
    obtain ⟨_, _, _, _, _, _, rfl⟩ := hr
    rw [heq]
  · exact ⟨_, rfl⟩
  · rw [State.core_setCore]
    split
    · next h => exact ⟨a, by rw [h]; rfl⟩
    · exact ⟨_, rfl⟩

@[simp] theorem State.traceRec_issuing (ty flags value : Nat) : (s.traceRec tid slot ty flags value).issuing = s.issuing := by
  obtain ⟨r, hr, heq⟩ := s.traceRec_shape tid slot ty flags value
  have hiss : r.issuing = s.issuing := by
    obtain ⟨_, _, _, _, _, _, rfl⟩ := hr
    rfl
  obtain heq | ⟨n, a, heq⟩ := heq
  · rw [heq, hiss]
  · rw [heq]
    exact hiss

@[simp] theorem State.traceRec_dbgHeld (ty flags value c : Nat) :
    ((s.traceRec tid slot ty flags value).core c).dbgHeld = (s.core c).dbgHeld := by
  obtain ⟨a, ha⟩ := s.traceRec_core tid slot ty flags value c
  rw [ha]

end Trace

/-! ### Issue groups (R130, R133, R186) -/

section Groups

variable {k : Task} {halting : Bool} {c i : Nat}

theorem Task.mem_order : i ∈ k.order ↔ i < 16 := by
  simp only [Task.order, slots, List.mem_map, List.mem_range]
  exact ⟨by omega, fun h => ⟨(i + 16 - k.rot % 16) % 16, by omega, by omega⟩⟩

theorem Task.order_nodup (k : Task) : k.order.Nodup := by
  refine List.Nodup.map_on (fun i hi j hj h => ?_) List.nodup_range
  have hi := List.mem_range.mp hi
  have hj := List.mem_range.mp hj
  omega

theorem Task.chosen_mem (h : k.chosen halting = some c) : c < 16 ∧ (k.thread c).issuable halting = true := by
  have hready : c ∈ k.order.filter fun i => (k.thread i).issuable halting := by
    unfold Task.chosen at h
    dsimp only at h
    split at h
    · next hf => exact (Option.some.inj h) ▸ List.mem_of_find?_eq_some hf
    · exact List.mem_of_head? h
  rw [List.mem_filter, Task.mem_order] at hready
  exact hready

theorem Task.chosen_mem_members (h : k.chosen halting = some c) : c ∈ k.members halting c := by
  obtain ⟨h16, hi⟩ := Task.chosen_mem h
  simp [Task.members, sameContext, slots, h16, hi]

theorem Task.group_of_alone (hc : c < 16) (h : k.members halting c = [c]) : k.order.filter (k.members halting c).contains = [c] := by
  have hsame : (k.order.filter fun i => i == c) = [c] := by
    rw [List.filter_beq, List.count_eq_one_of_mem k.order_nodup (Task.mem_order.mpr hc)]
    rfl
  rw [h]
  refine (List.filter_congr fun i _ => ?_).trans hsame
  rw [List.contains_cons, List.contains_nil, Bool.or_false]

variable {s : State} {core tid : Nat} (hrun : s.running core = some tid) (hc : (s.task tid).chosen (s.core core).preempt = some c)
include hrun hc

/-- A group none of whose members matches the table issues (R130, R133). -/
theorem State.formGroup_of_unmatched (hm : ∀ i, (s.task tid).matchesNow i = none) :
    let g := (s.task tid).order.filter ((s.task tid).members (s.core core).preempt c).contains
    s.formGroup core = { s.setTask tid { s.task tid with
        rot := (c + 1) % 16, avoid := [], issuecnt := ((s.task tid).issuecnt + 1) % 2 ^ 64
        fusecnt := ((s.task tid).fusecnt + g.length - 1) % 2 ^ 64 } with
      issuing := s.issuing ++ g.map fun i => (tid, i) } := by
  intro g
  have hmem : c ∈ g := by
    rw [List.mem_filter, Task.mem_order]
    exact ⟨(Task.chosen_mem hc).1, by simpa using Task.chosen_mem_members hc⟩
  have hne : g.isEmpty = false := by simpa using List.ne_nil_of_mem hmem
  simp only [State.formGroup, hrun, hc, hm, Option.isNone_none, Option.isSome_none, List.filter_true, List.filter_false, List.foldl_nil]
  exact if_neg (ne_true_of_eq_false hne)

/-- A group of one thread that matches does not issue (R495). -/
theorem State.formGroup_of_alone (ha : (s.task tid).members (s.core core).preempt c = [c]) {e : Nat} (hm : (s.task tid).matchesNow c = some e) :
    s.formGroup core = s.matchMember tid c := by
  have hg := Task.group_of_alone (Task.chosen_mem hc).1 ha
  simp only [State.formGroup, hrun, hc, hg]
  simp [hm]

end Groups

/-- A part of O24. -/
theorem issueGroupsForm : Stated.IssueGroupsForm := by
  intro s core tid c hiss hrun hpm hc k g
  have hm (i : Nat) : k.matchesNow i = none := by
    unfold Task.matchesNow Task.matchAt
    dsimp only
    rw [hpm]
    split <;> rfl
  refine ⟨?_, ?_⟩
  · rw [List.mem_filter, Task.mem_order]
    exact ⟨(Task.chosen_mem hc).1, by simpa using Task.chosen_mem_members hc⟩
  · change Host.Outcome.next (if s.issuing.isEmpty then s.formGroup core else s) = _
    rw [if_pos (by rw [hiss]; rfl), State.formGroup_of_unmatched hrun hc hm, hiss]
    rfl

/-! ### PC-match handlers (R494 to R496) -/

section Handlers

variable {s : State} {tid slot : Nat}

/-- The thread that enters the handler of entry e of its task's table (R495). -/
def Thread.inHandler (t : Thread) (pmctl : Word) (e : Nat) : Thread :=
  { t with
    st := .ready, held := none, pmepc := t.pc, pc := BitVec.ofNat 64 (pmctl.toNat / 4096 * 4096 + 64 * e)
    shadow := some { addr := t.pc, x := t.x, xp := t.xp, lr := t.lr, tflags := t.tflags, count := 0 } }

theorem State.enterHandler_task (e : Nat) : (s.enterHandler tid slot e).task tid =
    (s.task tid).setThread slot ((s.thread tid slot).inHandler (s.task tid).pmctl e) := by
  rw [State.enterHandler, State.traceRec_task, State.task_setThread_self]
  rfl

theorem State.enterHandler_issuing (e : Nat) : (s.enterHandler tid slot e).issuing = s.issuing := by
  rw [State.enterHandler, State.traceRec_issuing, State.setThread_issuing]

/-- The handler of the lowest matching entry is entered where the shadow context is free (R495). -/
theorem State.matchMember_of_free {e : Nat} (hm : (s.task tid).matchesNow slot = some e) (hfree : (s.task tid).shadowHolder = none) :
    s.matchMember tid slot = s.enterHandler tid slot e := by
  simp only [State.matchMember, hm, hfree, Option.isNone_none, if_true]

/-- A part of O24. -/
theorem matchedThreadsEnterHandlers : Stated.MatchedThreadsEnterHandlers := by
  intro s core tid c e hiss hrun hc ha hm hfree _
  have hthread : (s.enterHandler tid c e).thread tid c = (s.thread tid c).inHandler (s.task tid).pmctl e := by
    rw [State.thread, State.enterHandler_task, Task.thread_setThread_self]
  refine ⟨s.enterHandler tid c e, ?_, by rw [State.enterHandler_issuing, hiss], by rw [hthread]; rfl, by rw [hthread]; rfl, by rw [hthread]; rfl,
    by rw [hthread]; rfl⟩
  change Host.Outcome.next (if s.issuing.isEmpty then s.formGroup core else s) = _
  rw [if_pos (by rw [hiss]; rfl), State.formGroup_of_alone hrun hc ha hm, State.matchMember_of_free hm hfree]

/-- The shadow context goes to another thread than one that does not wait for it (R495): its task keeps PMCTL, and it stays. -/
theorem State.passShadow_keeps (h : (s.thread tid slot).st ≠ .waiting .shadow) :
    (s.passShadow tid).thread tid slot = s.thread tid slot ∧ ((s.passShadow tid).task tid).pmctl = (s.task tid).pmctl := by
  unfold State.passShadow
  dsimp only
  split
  · exact ⟨rfl, rfl⟩
  · next i hf =>
    have hi : (s.thread tid i).st = .waiting .shadow := of_decide_eq_true (List.find?_some hf :)
    have hne : slot ≠ i := by rintro rfl; exact h hi
    split
    · rw [State.thread, State.enterHandler_task, Task.thread_setThread, if_neg hne]
      exact ⟨rfl, rfl⟩
    · rw [State.thread, State.task_setThread_self, Task.thread_setThread, if_neg hne]
      exact ⟨rfl, rfl⟩

/-- A thread after its handler (R184, R495). -/
def Thread.ownRegs (t : Thread) (h : ShadowRegs) : Thread :=
  { t with
    x := h.x, xp := h.xp, lr := h.lr, tflags := h.tflags, shadow := none, pc := t.pmepc, skipPm := t.pmepc == h.addr, st := .ready,
    held := none, got := [], answer := none }

theorem State.leaveHandler_keeps {h : ShadowRegs} (hs : (s.thread tid slot).shadow = some h) :
    (s.leaveHandler tid slot).thread tid slot = (s.thread tid slot).ownRegs h ∧ ((s.leaveHandler tid slot).task tid).pmctl = (s.task tid).pmctl := by
  have hleave : s.leaveHandler tid slot = ((s.setThread tid slot ((s.thread tid slot).ownRegs h)).traceRec tid slot 4 0 0).passShadow tid := by
    simp only [State.leaveHandler, hs]
    rfl
  have hthread : ((s.setThread tid slot ((s.thread tid slot).ownRegs h)).traceRec tid slot 4 0 0).thread tid slot = (s.thread tid slot).ownRegs h := by
    rw [State.traceRec_thread, State.thread_setThread_self]
  obtain ⟨hkeep, hpm⟩ := State.passShadow_keeps (s := (s.setThread tid slot ((s.thread tid slot).ownRegs h)).traceRec tid slot 4 0 0)
    (tid := tid) (slot := slot) (by rw [hthread]; simp [Thread.ownRegs])
  rw [hleave, hkeep, hthread, hpm, State.traceRec_task, State.task_setThread_self, Task.setThread_pmctl]
  exact ⟨rfl, rfl⟩

/-- A debug stop that waits for the boundary changes the thread's state alone, and of its task the special functions (R209, R491). -/
theorem State.holdIfStopping_keeps : (∃ st prior, (s.holdIfStopping tid slot).thread tid slot = { s.thread tid slot with st := st, prior := prior }) ∧
    ((s.holdIfStopping tid slot).task tid).pmctl = (s.task tid).pmctl := by
  unfold State.holdIfStopping
  split
  · refine ⟨?_, ?_⟩
    · rw [State.holdThread_thread, if_pos ⟨rfl, rfl⟩]
      unfold Thread.debugHeld
      split
      · exact ⟨_, _, rfl⟩
      · exact ⟨_, _, rfl⟩
    · unfold State.holdThread
      dsimp only
      split
      · rfl
      · rw [State.traceRec_task, State.cancelSfu, State.task_setTask_self]
        simp
  · exact ⟨⟨_, _, rfl⟩, rfl⟩

/-- The one thread in a handler is found when it has spent it. -/
theorem find_spent {h : ShadowRegs} (h16 : slot < 16) (hs : (s.thread tid slot).shadow = some h) (hspent : 1024 ≤ h.count)
    (hst : (s.thread tid slot).st = .ready) (hothers : ∀ j < 16, j ≠ slot → (s.thread tid j).shadow = none) :
    (slots.find? fun i => (s.thread tid i).spent && decide ((s.thread tid i).st = .ready)) = some slot := by
  have hslot : ((s.thread tid slot).spent && decide ((s.thread tid slot).st = .ready)) = true := by simp [Thread.spent, hs, hspent, hst]
  cases hf : slots.find? fun i => (s.thread tid i).spent && decide ((s.thread tid i).st = .ready) with
  | none => exact absurd hslot (List.find?_eq_none.mp hf slot (List.mem_range.mpr h16))
  | some j =>
    have hj := List.find?_some hf
    have hj16 : j < 16 := List.mem_range.mp (List.mem_of_find?_eq_some hf)
    by_cases hjs : j = slot
    · rw [hjs]
    · simp [Thread.spent, hothers j hj16 hjs] at hj

/-- PMCTL.OVR of a task is set (R496). -/
def State.overran (s : State) (tid : Nat) : State := s.setTask tid { s.task tid with pmctl := (s.task tid).pmctl ||| 8 }

theorem State.overran_thread : (s.overran tid).thread tid slot = s.thread tid slot := by
  rw [State.thread, State.overran, State.task_setTask_self]
  rfl

/-- A part of O24: PMCTL.OVR is set, then the thread leaves its handler. -/
theorem spentHandlersEnd : Stated.SpentHandlersEnd := by
  intro s core tid slot h hrun h16 hs hspent hst h4 hothers
  have hu : (s.overran tid).thread tid slot = s.thread tid slot := s.overran_thread
  have hexec : exec (.handlerInstructionLimit core) s = .next (((s.overran tid).leaveHandler tid slot).holdIfStopping tid slot) := by
    change execHandlerInstructionLimit core s = _
    simp only [execHandlerInstructionLimit, event, hrun, find_spent h16 hs hspent hst hothers]
    exact congrArg Host.Outcome.next (congrArg (State.holdIfStopping · tid slot) (if_neg (by rw [← State.overran, hu, h4]; decide)))
  obtain ⟨hthread, hpm⟩ := State.leaveHandler_keeps (hu.symm ▸ hs)
  obtain ⟨⟨st, prior, hheld⟩, hpm'⟩ := State.holdIfStopping_keeps (s := (s.overran tid).leaveHandler tid slot) (tid := tid) (slot := slot)
  rw [hthread, hu] at hheld
  rw [hpm, State.overran, State.task_setTask_self] at hpm'
  exact ⟨_, hexec, hpm', by rw [hheld]; rfl, by rw [hheld]; rfl, by rw [hheld]; rfl, by rw [hheld]; rfl, by rw [hheld]; rfl, by rw [hheld]; rfl⟩

end Handlers

end Sys2Proof.Machine

namespace Sys2Proof.Machine

/-! ### Debug stops (R488, R491, R492) -/

/-- A fold whose step k changes part k by v, and no other part, changes every listed part once. -/
theorem foldl_changes {α : Type} {f : State → Nat → State} {g : State → Nat → α} {v : α → α}
    (h : ∀ s k j, g (f s k) j = if j = k then v (g s k) else g s j) {l : List Nat} (hl : l.Nodup) (s : State) (j : Nat) :
    g (l.foldl f s) j = if j ∈ l then v (g s j) else g s j := by
  induction l generalizing s with
  | nil => rfl
  | cons k l ih =>
    obtain ⟨hk, hl⟩ := List.nodup_cons.mp hl
    rw [List.foldl_cons, ih hl, h]
    by_cases hj : j = k
    · subst hj
      simp [hk]
    · simp [hj]

theorem mem_slots {i : Nat} : i ∈ slots ↔ i < 16 := List.mem_range

theorem slots_nodup : slots.Nodup := List.nodup_range

section Debug

variable {s : State} {core tid slot : Nat}

/-- The thread that a resumption gives back to itself (R491). -/
def Thread.released (t : Thread) : Thread := if t.st = .debug then { t with st := t.prior, prior := .empty } else t

theorem State.releaseThread_thread (j : Nat) :
    (s.releaseThread tid slot).thread tid j = if j = slot then (s.thread tid slot).released else s.thread tid j := by
  have hredo (u : State) (t : Thread) (hu : ∀ i, u.thread tid i = s.thread tid i) :
      ((u.setThread tid slot t).traceRec tid slot 7 0 0).thread tid j = if j = slot then t else s.thread tid j := by
    rw [State.traceRec_thread, State.thread_setThread, hu]
    simp
  unfold State.releaseThread Thread.released
  dsimp only
  split
  · split
    · exact hredo s _ fun _ => rfl
    · exact hredo _ _ fun i => s.redoSfu_thread tid i
  · split
    · next h => rw [h]
    · rfl

theorem State.releaseThread_dbgStop (c : Nat) : ((s.releaseThread tid slot).core c).dbgStop = (s.core c).dbgStop := by
  unfold State.releaseThread
  dsimp only
  split
  · rw [State.traceRec_dbgStop]
    split <;> rfl
  · rfl

theorem State.holdThread_dbgHeld (c : Nat) : ((s.holdThread tid slot).core c).dbgHeld = (s.core c).dbgHeld := by
  unfold State.holdThread
  dsimp only
  split
  · rfl
  · rw [State.traceRec_dbgHeld]
    rfl

theorem Thread.debugHeld_of_live {t : Thread} (hlive : t.live = true) (hp : t.packet = none) (hs : t.shadow = none) (hd : t.st ≠ .debug) :
    t.debugHeld.st = .debug ∧ t.debugHeld.prior = t.st := by
  simp [Thread.debugHeld, hlive, hp, hs, hd]

theorem State.stopCore_of_running (hrun : s.running core = some tid) :
    s.stopCore core = slots.foldl (fun s i => s.holdThread tid i) (s.setCore core { s.core core with dbgStop := true }) := by
  have hrun' : (s.setCore core { s.core core with dbgStop := true }).running core = some tid := by
    rw [State.running, State.core_setCore_self]
    exact hrun
  simp only [State.stopCore, hrun']

theorem State.stopCore_dbgHeld (hrun : s.running core = some tid) : ((s.stopCore core).core core).dbgHeld = (s.core core).dbgHeld := by
  rw [State.stopCore_of_running hrun,
    foldl_keeps (g := fun s => (s.core core).dbgHeld) (fun _ _ _ => State.holdThread_dbgHeld core), State.core_setCore_self]

theorem State.stopCore_thread (hrun : s.running core = some tid) {i : Nat} (hi : i < 16) :
    (s.stopCore core).thread tid i = (s.thread tid i).debugHeld := by
  rw [State.stopCore_of_running hrun]
  refine (foldl_changes (g := fun s j => s.thread tid j) (v := Thread.debugHeld) (fun s k j => ?_) slots_nodup _ i).trans
    (if_pos (mem_slots.mpr hi))
  rw [State.holdThread_thread]
  simp

/-- The debugger's stop of a core whose task it may stop (R491). -/
theorem debugStop_stops (hrun : s.running core = some tid) :
    ∃ t, exec (.debugStopRequest core true) s = .next t ∧ (t.core core).dbgStop = true ∧ (t.core core).dbgHeld = true ∧
      ∀ i < 16, (s.thread tid i).live = true → (s.thread tid i).packet = none → (s.thread tid i).shadow = none →
        (s.thread tid i).st ≠ .debug → (t.thread tid i).st = .debug ∧ (t.thread tid i).prior = (s.thread tid i).st := by
  have hallowed : s.debugAllowed core true = true := by simp [State.debugAllowed, hrun]
  have hrun' : (s.setCore core { s.core core with dbgHeld := true }).running core = some tid := by
    rw [State.running, State.core_setCore_self]
    exact hrun
  have hview := (s.setCore core { s.core core with dbgHeld := true }).stopCore_stopView tid 0 core
  simp only [State.stopView, Prod.mk.injEq] at hview
  obtain ⟨-, -, hstop, -⟩ := hview
  refine ⟨_, congrArg Host.Outcome.next (if_pos hallowed), hstop, ?_, fun i hi hlive hp hs hd => ?_⟩
  · rw [State.stopCore_dbgHeld hrun', State.core_setCore_self]
  · rw [State.stopCore_thread hrun' hi]
    exact Thread.debugHeld_of_live hlive hp hs hd

/-- The core that a debugger lets go, its messages taken out (R492). -/
def State.unstopped (s : State) (core : Nat) : State := s.setCore core { s.core core with dbgStop := false, msgs := [] }

theorem State.unstopped_running : (s.unstopped core).running core = s.running core := by
  rw [State.running, State.unstopped, State.core_setCore_self]
  rfl

/-- A resumption releases the threads of the core's task, then applies the core's messages (R491, R492). -/
theorem execDebugResumeRequest_of_running {auth : Bool} (hrun : s.running core = some tid) (hstop : (s.core core).dbgStop = true)
    (hallowed : s.debugAllowed core auth = true) : exec (.debugResumeRequest core auth) s = .next
      ((s.core core).msgs.foldl (fun s m => s.takeMsg core m) (slots.foldl (fun s i => s.releaseThread tid i) (s.unstopped core))) := by
  have hrun' := s.unstopped_running.trans hrun
  change execDebugResumeRequest core auth s = _
  simp only [execDebugResumeRequest, event, hstop, hallowed, Bool.not_true, Bool.or_false, Bool.false_eq_true, if_false]
  rw [← State.unstopped, hrun']

theorem execDebugResumeRequest_of_idle {auth : Bool} (hrun : s.running core = none) (hstop : (s.core core).dbgStop = true)
    (hallowed : s.debugAllowed core auth = true) : exec (.debugResumeRequest core auth) s = .next
      ((s.core core).msgs.foldl (fun s m => s.takeMsg core m) (s.unstopped core)) := by
  have hrun' := s.unstopped_running.trans hrun
  change execDebugResumeRequest core auth s = _
  simp only [execDebugResumeRequest, event, hstop, hallowed, Bool.not_true, Bool.or_false, Bool.false_eq_true, if_false]
  rw [← State.unstopped, hrun']

theorem debugResume_releases (hrun : s.running core = some tid) (hstop : (s.core core).dbgStop = true) (hmsgs : (s.core core).msgs = []) :
    ∃ t, exec (.debugResumeRequest core true) s = .next t ∧ (t.core core).dbgStop = false ∧
      ∀ i < 16, (s.thread tid i).st = .debug → (t.thread tid i).st = (s.thread tid i).prior := by
  have hallowed : s.debugAllowed core true = true := by simp [State.debugAllowed, hrun]
  have hexec := execDebugResumeRequest_of_running hrun hstop hallowed
  rw [hmsgs, List.foldl_nil] at hexec
  refine ⟨_, hexec, ?_, fun i hi hd => ?_⟩
  · rw [foldl_keeps (g := fun s => (s.core core).dbgStop) (fun _ _ _ => State.releaseThread_dbgStop core), State.unstopped,
      State.core_setCore_self]
  · have hthread := foldl_changes (g := fun s j => s.thread tid j) (v := Thread.released) (fun s k j => State.releaseThread_thread j)
      slots_nodup (s.unstopped core) i
    rw [if_pos (mem_slots.mpr hi)] at hthread
    exact (congrArg Thread.st hthread).trans (congrArg Thread.st (if_pos hd))

/-- A part of O24. -/
theorem debuggersStopAndResume : Stated.DebuggersStopAndResume := by
  intro s core tid hrun
  refine ⟨debugStop_stops hrun, fun hstop hmsgs => debugResume_releases hrun hstop hmsgs, fun hconf => ?_, fun idle sh w hidle hstop hmsgs => ?_⟩
  · have hrefused : s.debugAllowed core false = false := by simp [State.debugAllowed, hrun, hconf]
    exact ⟨congrArg Host.Outcome.next (if_neg (ne_true_of_eq_false hrefused)), congrArg Host.Outcome.next (if_pos (by rw [hrefused]; simp))⟩
  · have hallowed : s.debugAllowed idle false = true := by simp [State.debugAllowed, hidle]
    rw [execDebugResumeRequest_of_idle hidle hstop hallowed, hmsgs]
    rfl

end Debug

/-! ### Deadlocks, exits, special functions (R137, R140, R144, R145, R208, R209) -/

/-- A part of O24. -/
theorem deadlocksStopControlThread : Stated.DeadlocksStopControlThread := by
  intro s core tid hrun
  refine ⟨fun hdead hlive => ?_, fun hfree => ?_⟩
  · have hlive' : ((s.task tid).thread 0).live = true := hlive
    obtain ⟨u, hexec⟩ : ∃ u : State, exec (.deadlockDetect core) s = .next (u.faultHeld tid 0 0x0B 0 0 0 0) := by
      change ∃ u : State, execDeadlockDetect core s = .next (u.faultHeld tid 0 0x0B 0 0 0 0)
      simp only [execDeadlockDetect, event, hrun, hdead, hlive', Bool.and_self, if_true]
      exact ⟨_, rfl⟩
    obtain ⟨hst, hrec⟩ := u.faultHeld_thread tid 0 0x0B 0 0 0 0
    refine ⟨_, hexec, hst, ?_⟩
    obtain ⟨r, hr, hf⟩ := Option.map_eq_some_iff.mp hrec
    rw [hr]
    simp only [Prod.mk.injEq] at hf
    simp [hf]
  · change execDeadlockDetect core s = _
    simp only [execDeadlockDetect, event, hrun, hfree, Bool.false_and, Bool.false_eq_true, if_false]

/-- A waiting thread executes again the exit that it holds. -/
theorem State.retryHeld_runs {s r : State} {tid slot fn : Nat} {f : Reg → State → Host.Outcome State Fault Refusal} {w : Nat × Nat × Nat}
    (hst : (s.thread tid slot).st = .waiting .retire) (hheld : (s.thread tid slot).held = some w) (hw : w.1 % 256 = 0x58)
    (hfn : w.1 / 2 ^ 23 = fn) (hf : f (BitVec.ofNat 5 (w.1 / 8192)) { s with cur := (tid, slot), curW := w } = .next r) :
    s.retryHeld tid slot fn f = { r with cur := s.cur, curW := s.curW } := by
  simp only [State.retryHeld, hst, hheld, hw, hfn, hf, beq_self_eq_true, Bool.and_self, if_true]

/-- A part of O24: the thread that waits can run, so its exit answers a state. -/
theorem exitsComplete : Stated.ExitsComplete := by
  intro s core tid slot w hrun hst hheld hw
  have hcan (slot : Nat) (hst : (s.thread tid slot).st = .waiting .retire) : (State.thr { s with cur := (tid, slot), curW := w }).canRun = true := by
    change (s.thread tid slot).canRun = true
    simp [Thread.canRun, hst]
  refine ⟨fun hfn => ?hexit, fun h0 hfn => ?kexit⟩
  case hexit =>
    obtain ⟨r, hr⟩ := exec_completes (i := .hexit (BitVec.ofNat 5 (w.1 / 8192))) (.inl (hcan slot hst))
    refine ⟨r, hr, ?_⟩
    change execHexitComplete core slot s = _
    simp only [execHexitComplete, event, hrun]
    rw [State.retryHeld_runs hst hheld hw hfn hr]
  case kexit =>
    subst h0
    obtain ⟨r, hr⟩ := exec_completes (i := .kexit (BitVec.ofNat 5 (w.1 / 8192))) (.inl (hcan 0 hst))
    refine ⟨r, hr, ?_⟩
    change execKexitComplete core s = _
    simp only [execKexitComplete, event, hrun]
    rw [State.retryHeld_runs hst hheld hw hfn hr]

/-- A part of O24. -/
theorem sfuEntriesComplete : Stated.SfuEntriesComplete := by
  intro s core tid idx e hrun he hc hfirst
  have hearlier : ((s.task tid).sfu.take idx).any (fun o => o.slot == e.slot) = false := by
    rw [List.any_eq_false]
    intro o ho
    simpa using hfirst o ho
  change execSfuEntryComplete core idx s = _
  simp only [execSfuEntryComplete, event, hrun, he, hc, hearlier, Bool.false_and, Bool.or_self, Bool.false_eq_true, if_false]

/-- Settles O24, event by event. -/
theorem coreEventsAct : Obligations.CoreEventsAct :=
  ⟨issueGroupsForm, matchedThreadsEnterHandlers, spentHandlersEnd, debuggersStopAndResume, deadlocksStopControlThread, exitsComplete,
    sfuEntriesComplete, tcfgWritesConfigureTiles, specialRegistersTakeWrites⟩

end Sys2Proof.Machine

/-! ## Dispatch -/

namespace Sys2Proof.Machine

/-! ### Entries and the tasks they bind (R321, R343, R355, R357) -/

section Seats

variable (s : State)

/-- What dispatch has bound: each task's place, rank and FRAME, and each core's slot table with the tasks that it names. -/
def State.seats : (Nat → Place × Nat × Nat) × (Nat → Option BindEntry × Option BindEntry × Option Nat × Option Nat) :=
  (fun tid => ((s.task tid).place, (s.task tid).rank, (s.task tid).frame),
   fun c => ((s.core c).primary, (s.core c).shadow, (s.core c).ptask, (s.core c).stask))

variable {s} in
theorem State.setTask_seats {tid : Nat} {k : Task} (hplace : k.place = (s.task tid).place) (hrank : k.rank = (s.task tid).rank)
    (hframe : k.frame = (s.task tid).frame) : (s.setTask tid k).seats = s.seats := by
  refine Prod.ext (funext fun j => ?_) rfl
  show (((s.setTask tid k).task j).place, ((s.setTask tid k).task j).rank, ((s.setTask tid k).task j).frame) = _
  rw [State.task_setTask]
  split
  · next h => rw [h, hplace, hrank, hframe]; rfl
  · rfl

theorem State.setThread_seats (tid slot t) : (s.setThread tid slot t).seats = s.seats := State.setTask_seats rfl rfl rfl

theorem State.cancelSfu_seats (tid slot) : (s.cancelSfu tid slot).seats = s.seats := State.setTask_seats rfl rfl rfl

theorem State.leaveRdv_seats (tid slot) : (s.leaveRdv tid slot).seats = s.seats := by
  unfold State.leaveRdv
  dsimp only
  split
  · exact State.setTask_seats rfl rfl rfl
  · rfl

theorem State.orphanLoads_seats (tid slot) : (s.orphanLoads tid slot).seats = s.seats := rfl

theorem State.traceRec_seats (tid slot ty flags value) : (s.traceRec tid slot ty flags value).seats = s.seats := by
  refine Prod.ext (funext fun j => ?_) (funext fun c => ?_)
  · simp only [State.seats, State.traceRec_task]
  · obtain ⟨a, ha⟩ := State.traceRec_core s tid slot ty flags value c
    simp only [State.seats, ha]

theorem State.takeFault_seats (tid slot code kind addr i1 i2) : (s.takeFault tid slot code kind addr i1 i2).seats = s.seats := by
  simp only [State.takeFault, State.traceRec_seats, State.orphanLoads_seats, State.cancelSfu_seats, State.leaveRdv_seats, State.setThread_seats]

theorem State.setGroup_seats (g) : (s.setGroup g).seats = s.seats := rfl

theorem State.setKernel_seats (k) : (s.setKernel k).seats = s.seats := rfl

theorem State.sendRemote_seats (m who p) : (s.sendRemote m who p).seats = s.seats := by
  unfold State.sendRemote
  dsimp only
  split <;> rfl

theorem State.sendGroup_seats (g ty ns) : (s.sendGroup g ty ns).seats = s.seats := by
  unfold State.sendGroup
  split
  · rfl
  · exact foldl_keeps (g := State.seats) (fun _ _ s => s.sendRemote_seats ..) s

theorem State.breakHere_seats (kid) : (s.breakHere kid).seats = s.seats := by
  unfold State.breakHere
  refine foldl_keeps (g := State.seats) (fun tid _ s => ?_) _
  dsimp only
  have hset (t : Thread) := s.setThread_seats tid 0 t
  split
  · rfl
  · split
    · rfl
    · split
      · exact (State.takeFault_seats ..).trans (hset _)
      · split
        · exact (State.setThread_seats ..).trans (hset _)
        · exact hset _
      · exact hset _

theorem State.breakGroups_seats (kid) : (s.breakGroups kid).seats = s.seats := by
  unfold State.breakGroups
  dsimp only
  split
  · rw [State.sendGroup_seats, State.breakHere_seats]
  · exact s.breakHere_seats kid

theorem State.groupDone_seats (kid n gid) : (s.groupDone kid n gid).seats = s.seats := by
  unfold State.groupDone
  split
  · rfl
  · split
    · rw [State.sendGroup_seats, State.setGroup_seats]
    · rfl

theorem State.groupCheck_seats (kid n gid) : (s.groupCheck kid n gid).seats = s.seats := by
  unfold State.groupCheck
  split
  · rfl
  · split_ifs
    · rfl
    · rw [State.groupDone_seats, State.setGroup_seats]
    · rfl

theorem State.groupFreed_seats (kid n gid) : (s.groupFreed kid n gid).seats = s.seats := by
  have hstep (l : List (Nat × Nat)) :
      (l.foldl (fun s m => s.setTask m.1 { s.task m.1 with sstep := sstepAdd (s.task m.1).sstep n }) s).seats = s.seats :=
    by
    refine foldl_keeps (g := State.seats) (fun m _ s => ?_) s
    exact State.setTask_seats rfl rfl rfl
  unfold State.groupFreed
  dsimp only
  split
  · rfl
  · split_ifs
    · rw [State.breakGroups_seats, State.setGroup_seats, hstep]
    · rw [State.groupCheck_seats, State.setGroup_seats, hstep]
    · rfl

theorem State.groupTake_seats (g w) : (s.groupTake g w).seats = s.seats := by
  unfold State.groupTake
  dsimp only
  split
  · split_ifs
    · rfl
    · rw [State.breakGroups_seats, State.setGroup_seats]
    · rw [State.groupCheck_seats, State.setGroup_seats]
    · rfl
    · rfl
  · split <;> rfl
  · rw [State.groupFreed_seats, State.groupCheck_seats, State.setGroup_seats]
  · split
    · rw [State.groupFreed_seats, State.setGroup_seats]
    · rfl
  · exact s.breakHere_seats g.kid

theorem State.groupMsg_seats (p) : (s.groupMsg p).seats = s.seats := by
  unfold State.groupMsg
  split
  · exact s.groupTake_seats _ _
  · split <;> rfl

theorem State.groupLate_seats : s.groupLate.seats = s.seats :=
  foldl_keeps (g := State.seats) (fun _ _ s => s.groupMsg_seats _) _

/-- The messages that waited for the groups of a bound kernel move no task. -/
theorem State.formGroups_seats (k) : (s.formGroups k).seats = s.seats := State.groupLate_seats _

theorem Core.setEntry_entry (c : Core) (sh : Bool) (e t) : (c.setEntry sh e t).entry sh = e ∧ (c.setEntry sh e t).bound sh = t := by
  cases sh <;> exact ⟨rfl, rfl⟩

variable {s}

/-- What states with the same seats agree on. -/
theorem State.seats_eq {t : State} (h : t.seats = s.seats) :
    (∀ tid, (t.task tid).place = (s.task tid).place ∧ (t.task tid).rank = (s.task tid).rank ∧ (t.task tid).frame = (s.task tid).frame) ∧
    ∀ c sh, (t.core c).entry sh = (s.core c).entry sh ∧ (t.core c).bound sh = (s.core c).bound sh := by
  refine ⟨fun tid => ?_, fun c sh => ?_⟩
  · have htask := congrFun (congrArg Prod.fst h) tid
    simpa only [State.seats, Prod.mk.injEq] using htask
  · have hcore := congrFun (congrArg Prod.snd h) c
    simp only [State.seats, Prod.mk.injEq] at hcore
    obtain ⟨hp, hs, hpt, hst⟩ := hcore
    cases sh
    · exact ⟨hp, hpt⟩
    · exact ⟨hs, hst⟩

/-- A launch without audit is BOUND with its last task as any other. -/
theorem State.startAudit_of_not_selected {k : Kernel} (h : k.selected = false) (frames) : s.startAudit k frames = some s := by
  simp [State.startAudit, h]

/-- Binding puts the task and its entry into the slot and gives the other seats to nobody else. -/
theorem State.bindNew_seats {k : Kernel} {core : Nat} {sh : Bool} {e : BindEntry} (frames : List Nat)
    (h : k.selected = false ∨ k.bound.length + 1 ≠ k.lrec.cores) :
    ∃ t, s.bindNew k core sh e frames = some t ∧
      t.seats = ((s.setTask (tidOf k.kid e.task) (newTask k core sh e)).setCore core
        ((s.core core).setEntry sh (some e) (some (tidOf k.kid e.task)))).seats := by
  unfold State.bindNew
  dsimp only
  split
  case isTrue hlast =>
    have hsel : k.selected = false := h.resolve_right fun hne => hne (by simpa using hlast)
    refine ⟨_, State.startAudit_of_not_selected (by exact hsel) frames, ?_⟩
    rw [State.formGroups_seats, State.setKernel_seats]
    rfl
  case isFalse => exact ⟨_, rfl, by rw [State.setKernel_seats]; rfl⟩

theorem exec_bindEntryWrite {core : Nat} (hcore : core < 1536) (hstop : (s.core core).dbgStop = false) (sh w) :
    exec (.bindEntryWrite core sh w) s = .next (s.takeEntry core sh w) :=
  congrArg Host.Outcome.next (by simp [Nat.not_le.mpr hcore, hstop])

theorem State.takeEntry_of_valid {core : Nat} {sh : Bool} {e : BindEntry} {frames : List Nat} {k : Kernel} (hv : e.valid = true)
    (hk : s.kernel? e.kid = some k) (hok : s.dispatchRefuses core sh e (some k.lrec) = none) (hr : e.restore = false)
    (hfit : s.bindFits k core e = true) : s.takeEntry core sh ⟨e, frames⟩ = (s.bindNew k core sh e frames).getD s := by
  have hnew : (k.bound.any fun b => b.1 == e.task) = false := by
    simp only [State.bindFits, Bool.and_eq_true, Bool.not_eq_true', List.any_eq_false, Bool.or_eq_true, not_or] at hfit
    obtain ⟨hfit, -⟩ := hfit
    grind
  simp [State.takeEntry, hv, hk, hok, hr, hfit, hnew]

theorem State.takeEntry_of_invalid {core : Nat} {sh : Bool} {e : BindEntry} {frames : List Nat} (hv : e.valid = false) :
    s.takeEntry core sh ⟨e, frames⟩ = s.clearEntry core sh := by
  simp [State.takeEntry, hv]

/-- A cleared slot binds no task. -/
theorem State.clearEntry_clears {core : Nat} {sh : Bool} (h : ∀ tid, (s.core core).bound sh = some tid → (s.task tid).onCore = false) :
    ((s.clearEntry core sh).core core).entry sh = none ∧ ((s.clearEntry core sh).core core).bound sh = none := by
  have hclear (u : State) (c : Core) : ((u.setCore core (c.setEntry sh none none)).core core).entry sh = none ∧
      ((u.setCore core (c.setEntry sh none none)).core core).bound sh = none := by
    rw [State.core_setCore_self]
    exact c.setEntry_entry sh none none
  unfold State.clearEntry
  dsimp only
  split
  case h_1 => exact hclear _ _
  case h_2 tid htid =>
    rw [if_neg (by simp [h tid htid])]
    split
    · exact hclear _ _
    · split
      · split
        · exact hclear s _
        · exact hclear _ _
      · exact hclear _ _

end Seats

/-- A part of O28: an entry for a stopped core waits; one that is refused is reported; a good one binds its task, and what the groups of its
kernel do then leaves every seat; a cleared slot is empty. -/
theorem entriesBind : Stated.EntriesBind := by
  intro s core sh e frames hcore
  refine ⟨fun hstop => ?_, fun hstop => ⟨fun why hv hwhy => ?_, fun k hv hk hok hr hfit hlast => ?_, fun hv hbound => ?_⟩⟩
  · refine ⟨s.queueMsg core (.entry sh ⟨e, frames⟩), ?_, s.queueMsg_msgs core _, ?_⟩
    · exact congrArg Host.Outcome.next (by simp [Nat.not_le.mpr hcore, hstop])
    · unfold State.queueMsg
      dsimp only
      split
      · exact ⟨rfl, rfl, rfl⟩
      · rw [State.core_setCore_self]
        cases sh <;> exact ⟨rfl, rfl, rfl⟩
  · rw [exec_bindEntryWrite hcore hstop]
    simp only [State.takeEntry, hv, hwhy]
    rfl
  · obtain ⟨t, ht, hseats⟩ := s.bindNew_seats (core := core) (sh := sh) (e := e) frames hlast
    obtain ⟨htask, hslot⟩ := State.seats_eq hseats
    obtain ⟨hentry, hbound⟩ := hslot core sh
    obtain ⟨hplace, hrank, hframe⟩ := htask (tidOf k.kid e.task)
    obtain ⟨hentry', hbound'⟩ := (s.core core).setEntry_entry sh (some e) (some (tidOf k.kid e.task))
    rw [State.core_setCore_self] at hentry hbound
    rw [State.task_setCore, State.task_setTask_self] at hplace hrank hframe
    refine ⟨t, ?_, hentry.trans hentry', hbound.trans hbound', hplace, hrank, hframe⟩
    rw [exec_bindEntryWrite hcore hstop, State.takeEntry_of_valid hv hk hok hr hfit, ht, Option.getD_some]
  · refine ⟨_, exec_bindEntryWrite hcore hstop _ _, ?_⟩
    rw [State.takeEntry_of_invalid hv]
    exact State.clearEntry_clears hbound

end Sys2Proof.Machine

namespace Sys2Proof.Machine

/-! ### Tasks come onto their core (R124, R125, R356, R359, R375, R385) -/

section Enter

variable (s : State)

theorem State.takeGranules_tasks (core ctx) : (s.takeGranules core ctx).tasks = s.tasks ∧ (s.takeGranules core ctx).ctxs = s.ctxs := by
  unfold State.takeGranules
  generalize List.range 128 = granules
  refine ⟨foldl_keeps (g := State.tasks) (fun _ _ s => ?_) s, foldl_keeps (g := State.ctxs) (fun _ _ s => ?_) s⟩
  all_goals
    dsimp only
    split <;> rfl

/-- Other contexts' footprints move without their contexts. -/
theorem State.switchMemory_ctx (core ctx c) : (s.switchMemory core ctx).ctx c = s.ctx c := by
  unfold State.switchMemory State.ctx
  obtain ⟨-, hctxs⟩ := ((s.foreignHere core ctx).foldl State.footToFrame s).takeGranules_tasks core ctx
  rw [hctxs, (State.KeepsHalts.foldl State.footToFrame_keepsHalts _ s).ctxs]

/-- A footprint that goes to FRAME changes its task's place alone. -/
theorem State.footToFrame_tasks (tid) : (s.footToFrame tid).tasks = s.tasks ∨ ∃ c sh, (s.task tid).place = .saved c sh false ∧
    (s.footToFrame tid).tasks = AMap.put s.tasks tid { s.task tid with place := .saved c sh true } := by
  unfold State.footToFrame
  dsimp only
  split
  case h_1 c sh hplace =>
    refine .inr ⟨c, sh, hplace, congrArg (AMap.put · tid _) ?_⟩
    refine foldl_keeps (g := State.tasks) (fun _ _ u => ?_) s
    rfl
  case h_2 => exact .inl rfl

/-- It leaves each task's threads, and whether it is on its core. -/
theorem State.footToFrame_task (tid j) : ((s.footToFrame tid).task j).threads = (s.task j).threads ∧
    ((s.footToFrame tid).task j).onCore = (s.task j).onCore := by
  unfold State.task
  obtain htasks | ⟨c, sh, hplace, htasks⟩ := s.footToFrame_tasks tid
  · rw [htasks]
    exact ⟨rfl, rfl⟩
  · rw [htasks, AMap.get_put]
    split
    · next h =>
      subst h
      have hplace' : (AMap.get s.tasks j Task.blank).place = .saved c sh false := hplace
      exact ⟨rfl, by simp [Task.onCore, hplace']⟩
    · exact ⟨rfl, rfl⟩

theorem State.switchMemory_threads (core ctx j) : ((s.switchMemory core ctx).task j).threads = (s.task j).threads := by
  unfold State.switchMemory
  obtain ⟨htasks, -⟩ := ((s.foreignHere core ctx).foldl State.footToFrame s).takeGranules_tasks core ctx
  rw [State.task, htasks]
  exact foldl_keeps (g := fun s : State => (s.task j).threads) (fun tid _ s => (s.footToFrame_task tid j).1) s

theorem State.footBack_tasks (tid core) : (s.footBack tid core).tasks = s.tasks := by
  unfold State.footBack
  dsimp only
  split <;> rfl

/-- What every thread of a task has when it starts (R124, R125). -/
theorem startThread_starts (r : LaunchRec) (g i : Nat) : (startThread r g i).st = .ready ∧
    (startThread r g i).pc = BitVec.ofNat 64 (r.code + r.entry) ∧
    (startThread r g i).xr 1 = BitVec.ofInt 64 (-((i * 16 * r.stack : Nat) : Int)) ∧ (startThread r g i).xr 2 = BitVec.ofNat 64 g ∧
    (startThread r g i).xr 3 = BitVec.ofNat 64 r.args ∧ (startThread r g i).xr 4 = BitVec.ofNat 64 i ∧ (startThread r g i).tflags = 1 := by
  unfold startThread
  dsimp only
  split
  case isTrue h =>
    obtain rfl : i = 0 := by simpa using h
    refine ⟨rfl, rfl, ?_, ?_, ?_, ?_, rfl⟩ <;> simp [Thread.xr_setX]
    rfl
  case isFalse => refine ⟨rfl, rfl, ?_, ?_, ?_, ?_, rfl⟩ <;> simp [Thread.xr_setX]

variable {s} {core tid : Nat} {sh : Bool} {e : BindEntry} {k : Kernel}

/-- The state after a start: the task runs on its core with fresh threads. -/
theorem State.startTask_starts : ((s.startTask core sh tid e k).core core).run = some tid ∧
    ((s.startTask core sh tid e k).task tid).place = .running core sh ∧ ((s.startTask core sh tid e k).core core).dcache = [] ∧
    ∀ i ≤ k.lrec.helpers, (s.startTask core sh tid e k).thread tid i = startThread k.lrec (s.ctx k.ctx).desc.globals i := by
  unfold State.startTask State.openGroups
  dsimp only
  rw [State.switchMemory_ctx]
  generalize s.switchMemory core k.ctx = u
  refine ⟨?_, ?_, ?_, fun i hi => ?_⟩
  · exact congrArg Core.run (State.core_setCore_self _ core _)
  · exact congrArg Task.place (u.task_setTask_self tid _)
  · exact congrArg Core.dcache (State.core_setCore_self _ core _)
  · refine Eq.trans (congrArg (Task.thread · i) (u.task_setTask_self tid _)) ?_
    exact AMap.get_map_self _ _ (List.mem_range.mpr (Nat.lt_succ_of_le hi))

/-- What a restore leaves as it was once the task has its place. -/
def State.placeAndThreads (tid : Nat) (s : State) : Place × AMap Thread := ((s.task tid).place, (s.task tid).threads)

/-- The state after a restore: the task runs on its core with the threads that it had. -/
theorem State.restoreTask_restores : ((s.restoreTask core sh tid e k).core core).run = some tid ∧
    ((s.restoreTask core sh tid e k).task tid).place = .running core sh ∧
    ((s.restoreTask core sh tid e k).task tid).threads = (s.task tid).threads ∧
    ((s.restoreTask core sh tid e k).core core).dcache = [] ∧
    ((s.restoreTask core sh tid e k).core core).entry sh = some { e with restore := false } := by
  unfold State.restoreTask
  dsimp only
  have hback : (((s.switchMemory core k.ctx).footBack tid core).task tid).threads = (s.task tid).threads := by
    rw [State.task, State.footBack_tasks]
    exact s.switchMemory_threads core k.ctx tid
  generalize (s.switchMemory core k.ctx).footBack tid core = u at hback ⊢
  generalize hv : u.setTask tid { (u.task tid).fromBind k e with place := .running core sh, stored := false } = v
  have hplace : (v.task tid).place = .running core sh := by rw [← hv, State.task_setTask_self]
  have hthreads : (v.task tid).threads = (s.task tid).threads := by
    rw [← hv, State.task_setTask_self]
    exact hback
  have hredo : ∀ i ∈ slots, ∀ w : State,
      State.placeAndThreads tid (if (w.thread tid i).st = .stopped then w else w.redoSfu tid i) = State.placeAndThreads tid w := by
    intro i _ w
    split
    · rfl
    · simp [State.placeAndThreads, State.redoSfu]
  obtain ⟨hplace', hthreads'⟩ := Prod.mk.inj (foldl_keeps (g := State.placeAndThreads tid) hredo v)
  rw [State.core_setCore_self, State.task_setCore]
  refine ⟨rfl, hplace'.trans hplace, hthreads'.trans hthreads, rfl, ?_⟩
  cases sh <;> rfl

end Enter

/-- A part of O28: under its conditions a task starts, and each of its threads is as R124 and R125 say. -/
theorem tasksStart : Stated.TasksStart := by
  intro s core tid sh e k hentry hbound hk hmay hr hfresh hctx hst
  obtain ⟨hrun, hplace, hcache, hthread⟩ := State.startTask_starts (s := s) (core := core) (tid := tid) (sh := sh) (e := e) (k := k)
  refine ⟨s.startTask core sh tid e k, congrArg Host.Outcome.next ?_, hrun, hplace, hcache, fun i hi => ?_⟩
  · have hst' : (k.st == .bound || k.st == .running) = true := by simpa using hst
    simp [hentry, hbound, hk, hmay, hr, hfresh, hctx, hst']
  · rw [hthread i hi]
    exact startThread_starts ..

/-- A part of O28: under its conditions a saved task comes back with its threads. -/
theorem tasksAreRestored : Stated.TasksAreRestored := by
  intro s core tid sh e k hentry hbound hk hmay hr halive hctx hshadow hprimary
  refine ⟨s.restoreTask core sh tid e k, congrArg Host.Outcome.next ?_, State.restoreTask_restores⟩
  have hback : (if sh then !(s.task tid).preempted else s.primaryMay tid) = true := by
    cases sh
    · exact hprimary rfl
    · simpa using hshadow rfl
  simp [hentry, hbound, hk, hmay, hr, halive, hctx, hback]

/-! ### Tasks leave their core (R362, R384, R385) -/

section Leave

variable (s : State)

/-- A task whose buffers are empty is drained. -/
theorem State.drainAll_of_empty {tid : Nat} (h : ∀ i < 16, (s.thread tid i).wbuf = []) : s.drainAll tid = (s, true) := by
  have hslot : ∀ i ∈ slots, s.drain tid i = (s, true) := fun i hi => if_pos (by simp [h i (mem_slots.mp hi)])
  unfold State.drainAll
  generalize slots = l at hslot
  induction l with
  | nil => rfl
  | cons i l ih =>
    rw [List.foldl_cons, hslot i List.mem_cons_self]
    exact ih fun j hj => hslot j (List.mem_cons_of_mem i hj)

theorem State.stateToFrame_onCore (tid j) : ((s.stateToFrame tid).task j).onCore = (s.task j).onCore := by
  unfold State.stateToFrame
  rw [(State.footToFrame_task _ _ _).2, State.task_setTask]
  split
  · next h => rw [h]; rfl
  · rfl

theorem State.freeOther_keeps (core sh c j) : (s.freeOther core sh).core c = s.core c ∧ ((s.freeOther core sh).task j).onCore = (s.task j).onCore := by
  unfold State.freeOther
  split
  · refine ⟨rfl, ?_⟩
    rw [State.task_setTask]
    split
    · next h => rw [h]; rfl
    · rfl
  · exact ⟨rfl, rfl⟩

theorem State.footAside_task (tid core j) : (s.footAside tid core).task j = s.task j := rfl

theorem Core.setEntry_run (c : Core) (sh : Bool) (e t) : (c.setEntry sh e t).run = c.run := by cases sh <;> rfl

/-- A saved task is off its core, which is free. -/
theorem State.saveTask_leaves (core tid) : ((s.saveTask core tid).core core).run = none ∧ ((s.saveTask core tid).task tid).onCore = false := by
  unfold State.saveTask
  dsimp only
  generalize slots.foldl _ _ = u
  rw [(State.freeOther_keeps _ _ _ _ tid).1, (State.freeOther_keeps _ _ _ core tid).2, State.core_setCore_self, State.task_setCore]
  refine ⟨?_, ?_⟩
  · split <;> rw [Core.setEntry_run]
  · split
    · rw [State.stateToFrame_onCore, State.footAside_task, State.task_setTask_self]
      rfl
    · rw [State.footAside_task, State.task_setTask_self]
      rfl

end Leave

/-- A part of O28: a halted task, and one that waits too long while a shadow task is bound, leaves its core once its buffers are empty. -/
theorem tasksAreSaved : Stated.TasksAreSaved := by
  intro s core tid hrun hstop hsave hbuf
  have hdrain := s.drainAll_of_empty hbuf
  have hleaves := s.saveTask_leaves core tid
  refine ⟨fun hpre => ⟨s.saveTask core tid, congrArg Host.Outcome.next ?_, hleaves⟩,
    fun hprim hsh hspin => ⟨s.saveTask core tid, congrArg Host.Outcome.next ?_, hleaves⟩⟩
  · simp [hrun, hpre, hstop, hsave, hdrain]
  · have hrun' : (s.core core).run = some tid := hrun
    simp [hrun', hprim, hsh, hstop, hspin, hsave, hdrain]

/-! ### Pre-emption (R361, R362) -/

section Preempt

variable {s : State}

/-- A core whose task has been told to leave; a stopped core keeps the message. -/
def Core.halted (c : Core) : Core :=
  if c.run.isNone then c
  else if c.dbgStop then (if c.msgs.contains .halt then c else { c with msgs := c.msgs ++ [.halt] })
  else { c with preempt := true }

/-- An idle core has nothing to halt. -/
theorem Core.halted_of_idle {c : Core} (h : c.run.isSome = false) : c.halted = c := if_pos (by simpa using h)

theorem State.halt_core (n j : Nat) : (s.halt n).core j = if j = n then (s.core n).halted else s.core j := by
  unfold State.halt State.queueMsg Core.halted
  dsimp only
  split_ifs <;> simp_all [State.core_setCore]

theorem Core.halted_halted (c : Core) : c.halted.halted = c.halted := by
  unfold Core.halted
  split_ifs <;> simp_all

/-- Halting cores one after another halts each of them once. -/
theorem State.halts_core (cores : List Nat) (j : Nat) : (cores.foldl State.halt s).core j = if j ∈ cores then (s.core j).halted else s.core j := by
  induction cores generalizing s with
  | nil => rfl
  | cons n cores ih =>
    rw [List.foldl_cons, ih, State.halt_core]
    by_cases hj : j = n
    · simp [hj, Core.halted_halted]
    · simp [hj]

theorem State.halts_halted {cores : List Nat} {c : Nat} (hc : c ∈ cores) (hrun : (s.core c).run.isSome = true) :
    Stated.Halted s (cores.foldl State.halt s) c := by
  unfold Stated.Halted
  rw [State.halts_core, if_pos hc, Core.halted, if_neg (by simpa using Option.isSome_iff_ne_none.mp hrun)]
  refine ⟨fun hstop => by simp [hstop], fun hstop => ?_⟩
  rw [if_pos hstop]
  split
  · next hmsg => exact ⟨by simpa using hmsg, rfl⟩
  · simp

/-- The cores that may make way for a kernel (R361). -/
def State.lower (s : State) (k : Kernel) : List Nat :=
  (List.range 1536).filter fun c => s.coreFree k c && (s.core c).run.any fun t => decide ((s.task t).lrec.priority ≤ 1)

theorem State.mem_lower {k : Kernel} {c : Nat} : c ∈ s.lower k ↔
    c < 1536 ∧ s.coreFree k c = true ∧ ∃ tid, (s.core c).run = some tid ∧ (s.task tid).lrec.priority ≤ 1 := by
  simp [State.lower, Option.any_eq_true]

theorem State.victims_eq (k : Kernel) : s.victims k = (s.lower k).take
    (((List.range (s.lower k).length).find? fun n => s.roomWith k ((s.lower k).take n)).getD (s.lower k).length) := rfl

theorem State.victims_lower {k : Kernel} {c : Nat} (h : c ∈ s.victims k) : c ∈ s.lower k := List.mem_of_mem_take (State.victims_eq k ▸ h)

/-- No core makes way while the idle ones give room. -/
theorem State.victims_of_room {k : Kernel} (h : s.roomWith k [] = true) : s.victims k = [] := by
  rw [State.victims_eq]
  cases hlen : (s.lower k).length with
  | zero => simp [List.eq_nil_of_length_eq_zero hlen]
  | succ n => simp [List.range_succ_eq_map, h]

/-- The cores that make way give the kernel room, or are all that may. -/
theorem State.victims_roomWith_or (k : Kernel) : s.roomWith k (s.victims k) = true ∨ s.victims k = s.lower k := by
  rw [State.victims_eq]
  generalize s.lower k = lower
  cases hfind : (List.range lower.length).find? fun n => s.roomWith k (lower.take n) with
  | none => exact .inr (List.take_length ..)
  | some n => exact .inl (by simpa using List.find?_some hfind)

end Preempt

/-- A part of O28: a pre-emption halts the running tasks of its cores and no others; that of a kernel of priority 3 takes no core while the idle
ones give room. -/
theorem tasksArePreempted : Stated.TasksArePreempted := by
  refine ⟨fun s cores => ⟨cores.foldl State.halt s, rfl, fun c => State.halts_halted, fun c hc => ?_⟩, ?_, fun s kid k hk hnot => ?_⟩
  · rw [State.halts_core]
    split
    · next hin => exact Core.halted_of_idle (hc.resolve_left (not_not_intro hin))
    · rfl
  · intro s kid k hk hst hprio hage low
    refine ⟨(s.victims k).foldl State.halt s, congrArg Host.Outcome.next (by simp [hk, hst, hprio, hage]), s.victims k,
      fun c hc => ?_, fun c hc => ?_, State.victims_of_room, (State.victims_roomWith_or k).imp id fun hall c hc => ?_⟩
    · have hlow := State.mem_lower.mp (State.victims_lower hc)
      have ⟨_, _, _, hrun, _⟩ := hlow
      exact ⟨hlow, State.halts_halted hc (by rw [hrun]; rfl)⟩
    · rw [State.halts_core, if_neg hc]
    · rw [hall]
      exact State.mem_lower.mpr hc
  · refine congrArg Host.Outcome.next ?_
    simp only [hk]
    refine if_neg ?_
    grind

/-- Settles O28: the parts above. -/
theorem dispatchEventsAct : Obligations.DispatchEventsAct :=
  ⟨entriesBind, tasksStart, tasksAreSaved, tasksAreRestored, tasksArePreempted⟩

end Sys2Proof.Machine

/-! ## ALU, immediate and literal instructions (R151 to R155) -/

namespace Sys2Proof.Machine

/-! ### Results -/

section Results
variable {s : State} {i : Instr} {len : Nat} {f : State → State × Res} {g : Word → Word} {d a : Reg} {srcs : List Reg}
  {v : Word} {p : Bool}

/-- An instruction that gives xd a result changes nothing else but pc; its poison is that of the sources (R147, R148). -/
theorem result_gives (h : s.Ready) (hi : exec i s = issue .plain len s f) (hf : f s = s.result d srcs v) (hp : srcs.any s.xp = p) :
    GivesX i s d v p len := by
  rw [GivesX, hi, ← hp]
  exact issue_result h _ _ _ d srcs _ hf

/-- A function of one register gives its result with that register's poison. -/
theorem alu1_gives (h : s.Ready) (hi : exec i s = issue .plain len s (alu1 g d a)) (hv : g (s.x a) = v) :
    GivesX i s d v (s.xp a) len :=
  result_gives (srcs := [a]) h hi (congrArg (s.result d [a]) hv) (by simp)

/-- A literal is given without poison. -/
theorem alu0_gives (h : s.Ready) (hi : exec i s = issue .plain len s (alu0 v d)) : GivesX i s d v false len :=
  result_gives h hi rfl rfl

end Results

/-! ### Values -/

section Values
variable (x y : Word)

theorem ofBool_bne : Word.ofBool (x != y) = if x = y then 0 else 1 := by
  by_cases h : x = y
  · simp [Word.ofBool, h]
  · simp [Word.ofBool, h]

theorem ofBool_beq : Word.ofBool (x == y) = if x = y then 1 else 0 := by
  by_cases h : x = y
  · simp [Word.ofBool, h]
  · simp [Word.ofBool, h]

theorem ofBool_slt : Word.ofBool (x.slt y) = if x.toInt < y.toInt then 1 else 0 := by
  simp only [Word.ofBool, BitVec.slt_iff_toInt_lt]

theorem ofBool_ult : Word.ofBool (x.ult y) = if x.toNat < y.toNat then 1 else 0 := by
  simp only [Word.ofBool, BitVec.ult_iff_lt, BitVec.lt_def]

/-- Of two equal operands either is the smaller and either the larger. -/
theorem ite_slt (p q : Word) (h : x = y → p = q) : (if x.slt y then p else q) = if x.toInt ≤ y.toInt then p else q := by
  rw [BitVec.slt]
  rcases Int.lt_trichotomy x.toInt y.toInt with hlt | heq | hgt
  · simp [hlt, Int.le_of_lt hlt]
  · simp [heq, h (BitVec.eq_of_toInt_eq heq)]
  · simp [Int.not_lt.mpr (Int.le_of_lt hgt), Int.not_le.mpr hgt]

theorem ite_ult (p q : Word) (h : x = y → p = q) : (if x.ult y then p else q) = if x.toNat ≤ y.toNat then p else q := by
  rw [BitVec.ult]
  rcases Nat.lt_trichotomy x.toNat y.toNat with hlt | heq | hgt
  · simp [hlt, Nat.le_of_lt hlt]
  · simp [heq, h (BitVec.eq_of_toNat_eq heq)]
  · simp [Nat.not_lt.mpr (Nat.le_of_lt hgt), Nat.not_le.mpr hgt]

/-- The low half of a shift left is the shift of the low half. -/
theorem setWidth_shiftLeft (n : Nat) : (x <<< n).setWidth 32 = x.setWidth 32 <<< n := by
  ext j hj
  simp only [BitVec.getElem_setWidth, BitVec.getElem_shiftLeft, BitVec.getLsbD_shiftLeft]
  grind

theorem setWidth_zext_ushiftRight (n : Nat) : (x.zext 32 >>> n).setWidth 32 = x.setWidth 32 >>> n := by
  ext j hj
  simp only [Word.zext, BitVec.getElem_setWidth, BitVec.getElem_ushiftRight, BitVec.getLsbD_ushiftRight, BitVec.getLsbD_setWidth]
  grind

theorem setWidth_sext_sshiftRight (n : Nat) : ((x.sext 32).sshiftRight n).setWidth 32 = (x.setWidth 32).sshiftRight n := by
  ext j hj
  simp only [Word.sext, BitVec.getElem_setWidth, BitVec.getElem_sshiftRight, BitVec.getLsbD_sshiftRight, BitVec.getLsbD_signExtend]
  grind

theorem setWidth_sub : (x - y).setWidth 32 = x.setWidth 32 - y.setWidth 32 := by
  rw [BitVec.sub_eq_add_neg, BitVec.setWidth_add _ _ (by decide), BitVec.setWidth_neg_of_le (by decide), ← BitVec.sub_eq_add_neg]

/-- A literal above the low half of a word (R155). -/
theorem shiftLeft_or_zext (imm : BitVec 32) : (imm.setWidth 64 <<< 32) ||| x.zext 32 = imm ++ x.setWidth 32 := by
  refine BitVec.eq_of_getLsbD_eq fun j hj => ?_
  simp only [Word.zext, BitVec.getLsbD_or, BitVec.getLsbD_shiftLeft, BitVec.getLsbD_setWidth, BitVec.getLsbD_append]
  grind

end Values

/-! ### The instructions -/

/-- FN9 values beyond sraw's name no instruction. -/
theorem pickAlu_reserved {w0 : Nat} (hfn : 26 ≤ w0 / 8388608 % 512) : pickAlu w0 = none := by
  unfold pickAlu
  split <;> first | rfl | omega

open Laws.RoundTrip in
theorem decodeWords_alu_reserved {off w0 : Nat} (w1 w2 : Nat) (hoff : off % 32 ≤ 28) (hlen : w0 % 4 = 0) (hmaj : w0 / 4 % 64 = 1)
    (hfn : 26 ≤ w0 / 8388608 % 512) : decodeWords off w0 w1 w2 = .bad 0x01 := by
  have hpick : candidate [w0] = none := (maj_pickAlu hmaj).trans (pickAlu_reserved hfn)
  rw [decodeWords_of_fits (by omega) (by omega), hlen]
  exact congrArg (accept · [w0]) hpick

/-- A part of O43, function by function. -/
theorem aluGivesResult : Stated.AluGivesResult := by
  intro s hs d a b x y gives low x32 y32
  have word {i : Instr} {fn : Nat} {f : Word → Word → Word} {v : Word}
      (henc : encode i = [4 + 256 * d.toNat + 8192 * a.toNat + 262144 * b.toNat + 8388608 * fn])
      (hi : exec i s = issue .plain 4 s (alu2 f d a b)) (hv : f x y = v) : gives i fn v := ⟨henc, alu2_gives hs hi hv⟩
  refine ⟨word rfl rfl rfl, word rfl rfl rfl, word rfl rfl rfl, word rfl rfl rfl, word rfl rfl rfl, word rfl rfl rfl, word rfl rfl rfl,
    word rfl rfl rfl, word rfl rfl rfl, word rfl rfl rfl, word rfl rfl rfl, word rfl rfl rfl, word rfl rfl rfl,
    word rfl rfl (ofBool_slt x y), word rfl rfl (ofBool_ult x y), word rfl rfl (ofBool_beq x y), word rfl rfl (ofBool_bne x y),
    word rfl rfl (ite_slt x y x y id), word rfl rfl (ite_slt x y y x Eq.symm), word rfl rfl (ite_ult x y x y id),
    word rfl rfl (ite_ult x y y x Eq.symm), word rfl rfl ?addw, word rfl rfl ?subw, word rfl rfl ?shlw, word rfl rfl ?shrw,
    word rfl rfl ?sraw, fun off w0 w1 w2 => decodeWords_alu_reserved w1 w2⟩
  case addw => exact congrArg low (BitVec.setWidth_add x y (by decide))
  case subw => exact congrArg low (setWidth_sub x y)
  case shlw => exact congrArg low (setWidth_shiftLeft x _)
  case shrw => exact congrArg low (setWidth_zext_ushiftRight x _)
  case sraw => exact congrArg low (setWidth_sext_sshiftRight x _)

/-- A part of O43: immediates and literals. -/
theorem immediateGivesResult : Stated.ImmediateGivesResult := by
  intro s hs d a x p
  have short {i : Instr} {f : Word → Word} {v : Word} (hi : exec i s = issue .plain 4 s (alu1 f d a)) (hv : f x = v) :
      GivesX i s d v p 4 := alu1_gives hs hi hv
  have long {i : Instr} {f : Word → Word} {v : Word} (hi : exec i s = issue .plain 8 s (alu1 f d a)) (hv : f x = v) :
      GivesX i s d v p 8 := alu1_gives hs hi hv
  refine ⟨fun imm => ⟨short rfl rfl, short rfl rfl, short rfl rfl, short rfl rfl⟩,
    fun n => ⟨short rfl rfl, short rfl rfl, short rfl rfl, short rfl rfl, short rfl rfl⟩,
    fun imm => ⟨short rfl (ofBool_slt x _), short rfl (ofBool_ult x _), short rfl (ofBool_beq x _), short rfl (ofBool_bne x _)⟩,
    fun imm => ⟨alu0_gives hs rfl, alu0_gives hs rfl, long rfl (shiftLeft_or_zext x imm), long rfl rfl, long rfl rfl, long rfl rfl,
      long rfl rfl, long rfl (ofBool_slt x _)⟩⟩

/-- Settles O43: the parts above. -/
theorem scalarIntegerGivesResult : Obligations.ScalarIntegerGivesResult := ⟨aluGivesResult, immediateGivesResult⟩

end Sys2Proof.Machine
/-! ## Bit counts and bit fields (R157 to R159) -/

namespace Sys2Proof.Machine

theorem bitAt_eq_testBit (v n : Nat) : bitAt v n = v.testBit n := by
  rw [Nat.testBit_eq_decide_div_mod_eq, bitAt]
  rfl

/-! ### Counts -/

/-- The ones among the bits of v below n. -/
def onesBelow (v n : Nat) : Nat := (List.range n).countP fun j => v.testBit j

theorem onesBelow_zero (v : Nat) : onesBelow v 0 = 0 := rfl

theorem onesBelow_succ (v n : Nat) : onesBelow v (n + 1) = onesBelow v n + (v.testBit n).toNat := by
  rw [onesBelow, List.range_succ, List.countP_append, List.countP_singleton, Bool.toNat, Bool.cond_eq_ite]
  rfl

theorem popcount_eq (n v : Nat) : popcount n v = onesBelow v n := by
  induction n with
  | zero => rfl
  | succ n ih => rw [popcount, ih, onesBelow_succ, Nat.add_comm, bitAt_eq_testBit, Bool.toNat, Bool.cond_eq_ite]

/-- The zeros above the highest one. -/
theorem leadZeros_spec (n v : Nat) : leadZeros n v ≤ n ∧ (∀ j < n, n ≤ j + leadZeros n v → v.testBit j = false)
    ∧ (leadZeros n v < n → v.testBit (n - 1 - leadZeros n v) = true) := by
  induction n with
  | zero => exact ⟨le_rfl, nofun, nofun⟩
  | succ n ih =>
    obtain ⟨hle, hzero, hone⟩ := ih
    rw [leadZeros, bitAt_eq_testBit]
    split
    · next hbit => exact ⟨Nat.zero_le _, fun j hj h => by omega, fun _ => hbit⟩
    · next hbit =>
      refine ⟨by omega, fun j hj h => ?_, fun h => ?_⟩
      · rcases Nat.lt_succ_iff_lt_or_eq.mp hj with hlt | rfl
        · exact hzero j hlt (by omega)
        · simpa using hbit
      · rw [show n + 1 - 1 - (1 + leadZeros n v) = n - 1 - leadZeros n v by omega]
        exact hone (by omega)

/-- The zeros below the lowest one, from bit i on. -/
theorem trailFrom_spec (k i v : Nat) : trailFrom k i v ≤ k ∧ (∀ j < trailFrom k i v, v.testBit (i + j) = false)
    ∧ (trailFrom k i v < k → v.testBit (i + trailFrom k i v) = true) := by
  induction k generalizing i with
  | zero => exact ⟨le_rfl, nofun, nofun⟩
  | succ k ih =>
    obtain ⟨hle, hzero, hone⟩ := ih (i + 1)
    rw [trailFrom, bitAt_eq_testBit]
    split
    · next hbit => exact ⟨Nat.zero_le _, nofun, fun _ => hbit⟩
    · next hbit =>
      refine ⟨by omega, fun j hj => ?_, fun h => ?_⟩
      · cases j with
        | zero => simpa using hbit
        | succ j => exact (show i + (j + 1) = i + 1 + j by omega) ▸ hzero j (by omega)
      · exact (show i + (1 + trailFrom k (i + 1) v) = i + 1 + trailFrom k (i + 1) v by omega) ▸ hone (by omega)

theorem trailZeros_spec (n v : Nat) : trailZeros n v ≤ n ∧ (∀ j < trailZeros n v, v.testBit j = false)
    ∧ (trailZeros n v < n → v.testBit (trailZeros n v) = true) := by
  simpa [trailZeros] using trailFrom_spec n 0 v

/-- The search from bit i on finds the one with j ones between, or as few as j ones stand there. -/
theorem findSet_spec (k i v j : Nat) : findSet k i v j ≤ i + k
    ∧ (findSet k i v j < i + k → v.testBit (findSet k i v j) = true ∧ onesBelow v (findSet k i v j) = onesBelow v i + j)
    ∧ (findSet k i v j = i + k → onesBelow v (i + k) ≤ onesBelow v i + j) := by
  induction k generalizing i j with
  | zero => exact ⟨le_rfl, fun h => absurd h (Nat.lt_irrefl _), fun _ => Nat.le_add_right ..⟩
  | succ k ih =>
    have hsucc := onesBelow_succ v i
    rw [findSet, bitAt_eq_testBit]
    by_cases hbit : v.testBit i = true
    · rw [if_pos hbit]
      rw [hbit, Bool.toNat_true] at hsucc
      cases j with
      | zero => exact ⟨Nat.le_add_right .., fun _ => ⟨hbit, rfl⟩, fun h => by simp at h⟩
      | succ j =>
        have := ih (i + 1) j
        rw [show i + 1 + k = i + (k + 1) by omega, hsucc, show onesBelow v i + 1 + j = onesBelow v i + (j + 1) by omega] at this
        exact this
    · rw [if_neg hbit]
      rw [Bool.eq_false_of_not_eq_true hbit, Bool.toNat_false, Nat.add_zero] at hsucc
      have := ih (i + 1) j
      rwa [show i + 1 + k = i + (k + 1) by omega, hsucc] at this

/-- The one with exactly j ones below it; n when there are no more than j. -/
theorem fnsb_spec (n v j : Nat) : fnsb n v j ≤ n ∧ (fnsb n v j < n → v.testBit (fnsb n v j) = true ∧ onesBelow v (fnsb n v j) = j)
    ∧ (fnsb n v j = n → onesBelow v n ≤ j) := by
  rw [fnsb]
  split
  · next hpop => exact ⟨le_rfl, fun h => absurd h (Nat.lt_irrefl n), fun _ => popcount_eq n v ▸ hpop⟩
  · simpa [onesBelow_zero] using findSet_spec n 0 v j

/-! ### Reversals -/

theorem revBits_lt (n v : Nat) : revBits n v < 2 ^ n := by
  induction n generalizing v with
  | zero => exact Nat.one_pos
  | succ n ih =>
    have := ih (v / 2)
    rw [revBits, Nat.pow_succ]
    split <;> omega

theorem testBit_revBits (n v j : Nat) (hj : j < n) : (revBits n v).testBit j = v.testBit (n - 1 - j) := by
  induction n generalizing v j with
  | zero => exact absurd hj (Nat.not_lt_zero j)
  | succ n ih =>
    have hcut : revBits (n + 1) v = 2 ^ n * (v.testBit 0).toNat + revBits n (v / 2) := by
      rw [revBits, bitAt_eq_testBit]
      cases v.testBit 0 <;> simp
    rw [hcut, Nat.testBit_two_pow_mul_add _ (revBits_lt n (v / 2))]
    split
    · next hlt => rw [ih (v / 2) j hlt, Nat.testBit_div_two, show n - 1 - j + 1 = n + 1 - 1 - j by omega]
    · next hge =>
      obtain rfl : j = n := by omega
      rw [Nat.sub_self, Nat.add_sub_cancel, Nat.sub_self]
      cases v.testBit 0 <;> rfl

theorem revBytes_lt (n v : Nat) : revBytes n v < 2 ^ (8 * n) := by
  induction n generalizing v with
  | zero => exact Nat.one_pos
  | succ n ih =>
    have := ih (v / 256)
    rw [revBytes, Nat.mul_succ, Nat.pow_add, show 256 ^ n = 2 ^ (8 * n) by rw [Nat.pow_mul]]
    nlinarith [Nat.mod_lt v (show 256 > 0 by decide)]

theorem testBit_revBytes (n v i j : Nat) (hi : i < n) (hj : j < 8) :
    (revBytes n v).testBit (8 * i + j) = v.testBit (8 * (n - 1 - i) + j) := by
  induction n generalizing v i with
  | zero => exact absurd hi (Nat.not_lt_zero i)
  | succ n ih =>
    have hcut : revBytes (n + 1) v = 2 ^ (8 * n) * (v % 2 ^ 8) + revBytes n (v / 2 ^ 8) := by
      rw [revBytes, Nat.pow_mul, Nat.mul_comm]
      rfl
    rw [hcut, Nat.testBit_two_pow_mul_add _ (revBytes_lt n _)]
    rcases Nat.lt_succ_iff_lt_or_eq.mp hi with hlt | rfl
    · rw [if_pos (by omega), ih _ i hlt, Nat.testBit_div_two_pow]
      congr 1
      omega
    · rw [if_neg (by omega), Nat.testBit_mod_two_pow]
      simp [hj]

/-! ### Fields -/

theorem fieldWidth_eq (n off wid : Nat) : fieldWidth n off wid = min wid (n - off) := by
  rw [fieldWidth]
  split <;> omega

theorem testBit_fieldZ (n v off wid j : Nat) :
    (fieldZ n v off wid).testBit j = (decide (j < min wid (n - off)) && v.testBit (off + j)) := by
  rw [fieldZ, fieldWidth_eq, Nat.testBit_mod_two_pow, Nat.testBit_div_two_pow, Nat.add_comm j]

theorem testBit_fieldMask (off wid j : Nat) :
    (fieldMask off wid).testBit j = (decide (off ≤ j) && decide (j - off < min wid (64 - off))) := by
  rw [fieldMask, fieldWidth_eq, Nat.testBit_mul_two_pow, Nat.testBit_two_pow_sub_one]

theorem testBit_fieldInsert (d a off wid j : Nat) : (fieldInsert d a off wid).testBit j =
    if off ≤ j ∧ j - off < min wid (64 - off) then a.testBit (j - off) else d.testBit j := by
  rw [fieldInsert, fieldWidth_eq]
  generalize min wid (64 - off) = w
  have hd : d = 2 ^ off * (2 ^ w * (d / 2 ^ off / 2 ^ w) + d / 2 ^ off % 2 ^ w) + d % 2 ^ off := by rw [Nat.div_add_mod, Nat.div_add_mod]
  have hcut : d - d / 2 ^ off % 2 ^ w * 2 ^ off + a % 2 ^ w * 2 ^ off =
      2 ^ off * (2 ^ w * (d / 2 ^ off / 2 ^ w) + a % 2 ^ w) + d % 2 ^ off := by
    generalize d / 2 ^ off / 2 ^ w = hi, d / 2 ^ off % 2 ^ w = mid, d % 2 ^ off = lo at hd
    rw [hd, Nat.mul_add, Nat.mul_add, Nat.mul_comm mid, Nat.mul_comm (a % 2 ^ w)]
    omega
  rw [hcut, Nat.testBit_two_pow_mul_add _ (Nat.mod_lt _ (by positivity)), Nat.testBit_two_pow_mul_add _ (Nat.mod_lt _ (by positivity)),
    Nat.testBit_mod_two_pow, Nat.testBit_mod_two_pow, Nat.testBit_div_two_pow, Nat.testBit_div_two_pow]
  by_cases hlo : j < off
  · simp [hlo]
  · by_cases hmid : j - off < w
    · simp [hlo, hmid, Nat.not_lt.mp hlo]
    · simp [hlo, hmid, show j - off - w + w + off = j by omega]

/-! ### Words -/

theorem getLsbD_ofNat_word (v j : Nat) (hj : j < 64) : (BitVec.ofNat 64 v).getLsbD j = v.testBit j := by
  rw [BitVec.getLsbD_ofNat, decide_eq_true hj, Bool.true_and]

/-- A register's bits [15:8] are the width of its field (R158). -/
theorem bfWid_eq (y : Word) : bfWid y = (y.extractLsb' 8 8).toNat := by
  rw [bfWid, ← Nat.shiftRight_eq_div_pow _ 8]
  rfl

/-- A field extracted as signed: its bits, and above them its highest one (R158). -/
theorem getLsbD_fieldS (x : Word) (off wid j : Nat) (hj : j < 64) : (BitVec.ofNat 64 (fieldS 64 x.toNat off wid)).getLsbD j =
    if min wid (64 - off) = 0 then false else x.getLsbD (off + min j (min wid (64 - off) - 1)) := by
  rw [fieldS, fieldWidth_eq]
  generalize min wid (64 - off) = w
  by_cases hw : w = 0
  · simp [hw]
  · have hsext : BitVec.ofNat 64 (ofInt 64 (toInt w (x.toNat / 2 ^ off))) = ((x >>> off).setWidth w).signExtend 64 := by
      rw [ofNat_ofInt, ← Nat.shiftRight_eq_div_pow, ← BitVec.toNat_ushiftRight, toInt_toNat]
      rfl
    rw [if_neg (by simpa using hw), if_neg hw, hsext, BitVec.getLsbD_signExtend, BitVec.msb_eq_getLsbD_last, BitVec.getLsbD_setWidth,
      BitVec.getLsbD_setWidth, BitVec.getLsbD_ushiftRight, BitVec.getLsbD_ushiftRight]
    by_cases hjw : j < w
    · simp [hj, hjw, Nat.min_eq_left (Nat.le_sub_one_of_lt hjw)]
    · simp [hj, hjw, Nat.min_eq_right (Nat.le_of_lt (Nat.lt_of_lt_of_le (Nat.sub_one_lt hw) (Nat.not_lt.mp hjw))), Nat.pos_of_ne_zero hw]

/-! ### The instructions -/

/-- A part of O44, function by function. -/
theorem bitCountsGiveResult : Stated.BitCountsGiveResult := by
  intro s hs d a b x one
  have gives {i : Instr} {g : Nat → Nat} (hi : exec i s = issue .plain 4 s (alu1 (fun x => BitVec.ofNat 64 (g x.toNat)) d a)) :
      one i (BitVec.ofNat 64 (g x.toNat)) := alu1_gives hs hi rfl
  obtain ⟨hlead, hleadZero, hleadOne⟩ := leadZeros_spec 64 x.toNat
  obtain ⟨hleadw, hleadwZero, hleadwOne⟩ := leadZeros_spec 32 x.toNat
  obtain ⟨htrail, htrailBits⟩ := trailZeros_spec 64 x.toNat
  obtain ⟨htrailw, htrailwBits⟩ := trailZeros_spec 32 x.toNat
  obtain ⟨hfnsb, hfnsbBits⟩ := fnsb_spec 64 x.toNat (s.x b).toNat
  have ones (n : Nat) : popcount n x.toNat = (List.range n).countP fun j => x.getLsbD j := popcount_eq n x.toNat
  refine ⟨⟨_, hlead, gives rfl, fun j hj => ?clz, hleadOne⟩, ⟨_, htrail, gives rfl, htrailBits⟩, ?popc,
    ⟨_, gives rfl, fun j hj => ?brev⟩, ⟨_, gives rfl, fun i hi j hj => ?bswap⟩, ⟨_, hleadw, gives rfl, hleadwZero, hleadwOne⟩,
    ⟨_, htrailw, gives rfl, htrailwBits⟩, ?popcw, ⟨_, hfnsb, alu2_gives hs rfl rfl, hfnsbBits⟩⟩
  case clz =>
    rcases Nat.lt_or_ge j 64 with hlt | hge
    · exact hleadZero j hlt hj
    · exact BitVec.getLsbD_of_ge x j hge
  case popc => exact ones 64 ▸ gives (g := popcount 64) rfl
  case popcw => exact ones 32 ▸ gives (g := popcount 32) rfl
  case brev => exact (getLsbD_ofNat_word _ j hj).trans (testBit_revBits 64 x.toNat j hj)
  case bswap => exact (getLsbD_ofNat_word _ _ (by omega)).trans (testBit_revBytes 8 x.toNat i j hi hj)

theorem exec_bfi (d a b : Reg) (s : State) : exec (.bfi d a b) s = issue .plain 4 s fun s =>
    s.result d [d, a, b] (BitVec.ofNat 64 (fieldInsert (s.x d).toNat (s.x a).toNat (bfOff (s.x b)) (bfWid (s.x b)))) := rfl

theorem exec_bfii (d a : Reg) (off wid : BitVec 7) (s : State) : exec (.bfii d a off wid) s = issue .plain 8 s fun s =>
    s.result d [d, a] (BitVec.ofNat 64 (fieldInsert (s.x d).toNat (s.x a).toNat off.toNat wid.toNat)) := rfl

/-- A part of O44: extracts, inserts and the mask, bit by bit. -/
theorem bitFieldsGiveResult : Stated.BitFieldsGiveResult := by
  intro s hs d a b x inField size zx sx ins off wid p
  have reg {α : Type} (g : Nat → Nat → α) : g (bfOff (s.x b)) (bfWid (s.x b)) = g off wid := congrArg (g off) (bfWid_eq (s.x b))
  have signed (o w : Nat) : sx o w (BitVec.ofNat 64 (fieldS 64 x.toNat o w)) := fun j hj => getLsbD_fieldS x o w j hj
  have unsigned (o w : Nat) : zx o w (BitVec.ofNat 64 (fieldZ 64 x.toNat o w)) := fun j hj =>
    (getLsbD_ofNat_word _ j hj).trans (testBit_fieldZ 64 x.toNat o w j)
  have inside (o w j : Nat) (hj : j < 64) : inField o w j = (decide (o ≤ j) && decide (j - o < min w (64 - o))) := by
    simp only [inField]
    grind
  have inserted (o w : Nat) : ins o w (BitVec.ofNat 64 (fieldInsert (s.x d).toNat x.toNat o w)) := fun j hj => by
    rw [getLsbD_ofNat_word _ j hj, testBit_fieldInsert, inside o w j hj]
    simp only [Bool.and_eq_true, decide_eq_true_eq]
    rfl
  have mask (o w j : Nat) (hj : j < 64) : (BitVec.ofNat 64 (fieldMask o w)).getLsbD j = inField o w j := by
    rw [getLsbD_ofNat_word _ j hj, testBit_fieldMask, inside o w j hj]
  have insert : ∃ v, GivesX (.bfi d a b) s d v (s.xp d || p) 4 ∧ ins off wid v :=
    ⟨_, result_gives (srcs := [d, a, b]) hs (exec_bfi d a b s)
      (reg fun o w => s.result d [d, a, b] (BitVec.ofNat 64 (fieldInsert (s.x d).toNat x.toNat o w))) (by simp [p]), inserted off wid⟩
  refine ⟨⟨_, alu2_gives hs rfl (reg fun o w => BitVec.ofNat 64 (fieldS 64 x.toNat o w)), signed off wid⟩,
    ⟨_, alu2_gives hs rfl (reg fun o w => BitVec.ofNat 64 (fieldZ 64 x.toNat o w)), unsigned off wid⟩,
    insert, ⟨_, alu1_gives hs rfl (reg fun o w => BitVec.ofNat 64 (fieldMask o w)), mask off wid⟩, fun o w => ?_⟩
  exact ⟨⟨_, alu1_gives hs rfl rfl, signed o.toNat w.toNat⟩, ⟨_, alu1_gives hs rfl rfl, unsigned o.toNat w.toNat⟩,
    ⟨_, result_gives (srcs := [d, a]) hs (exec_bfii d a o w s) rfl (by simp), inserted o.toNat w.toNat⟩⟩

/-- Settles O44: the parts above. -/
theorem bitInstructionsGiveResult : Obligations.BitInstructionsGiveResult := ⟨bitCountsGiveResult, bitFieldsGiveResult⟩

end Sys2Proof.Machine
/-! ## Scalar floating point (R161 to R167) -/

namespace Sys2Proof.Machine

section Float
variable {s : State} {i : Instr} {len : Nat} {f : State → State × Res} {d a b c : Reg} {r : Nat × Nat}

/-- A floating-point function of one register gives its result with that register's poison (R148, R149). -/
theorem fpResult1_gives (h : s.Ready) (hi : exec i s = issue .plain len s f) (hf : f s = s.fpResult d [a] r) :
    GivesF i s d r (s.xp a) len := by
  have hp : [a].any s.xp = s.xp a := by simp
  rw [GivesF, hi, ← hp]
  exact issue_fpResult h _ _ _ d [a] r hf

/-- A floating-point function of two registers gives its result with the OR of their poison. -/
theorem fpResult2_gives (h : s.Ready) (hi : exec i s = issue .plain len s f) (hf : f s = s.fpResult d [a, b] r) :
    GivesF i s d r (s.xp a || s.xp b) len := by
  have hp : [a, b].any s.xp = (s.xp a || s.xp b) := by simp
  rw [GivesF, hi, ← hp]
  exact issue_fpResult h _ _ _ d [a, b] r hf

/-- A floating-point function of three registers gives its result with the OR of their poison. -/
theorem fpResult3_gives (h : s.Ready) (hi : exec i s = issue .plain len s f) (hf : f s = s.fpResult d [a, b, c] r) :
    GivesF i s d r (s.xp a || s.xp b || s.xp c) len := by
  have hp : [a, b, c].any s.xp = (s.xp a || s.xp b || s.xp c) := by simp [Bool.or_assoc]
  rw [GivesF, hi, ← hp]
  exact issue_fpResult h _ _ _ d [a, b, c] r hf

/-- A comparison's result is 1 or 0 (R164). -/
theorem fpCmp_eq (op : FF → Bool → Nat → Nat → Bool × Nat) (ty : BitVec 2) (d a b : Reg) (s : State) :
    let f := ffOf (etOfTy ty.toNat)
    let v := op f s.thr.fz (s.fpCode f a) (s.fpCode f b)
    fpCmp op ty d a b s = s.fpResult d [a, b] (if v.1 then 1 else 0, v.2) := by
  intro f v
  rw [fpCmp, Bool.toNat, Bool.cond_eq_ite]

/-- The integer that a signed conversion reads: its register, or the register's low half (R97). -/
theorem toInt_word (w : Bool) (x : Word) : toInt (if w then 32 else 64) x.toNat = if w then (x.setWidth 32).toInt else x.toInt := by
  cases w
  · simpa using toInt_toNat 64 x
  · simpa using toInt_toNat 32 x

/-- The integer that an unsigned conversion reads. -/
theorem mod_word (w : Bool) (x : Word) :
    ((x.toNat % 2 ^ (if w then 32 else 64) : Nat) : Int) = if w then ((x.setWidth 32).toNat : Int) else (x.toNat : Int) := by
  cases w
  · exact congrArg Nat.cast (Nat.mod_eq_of_lt x.isLt)
  · rfl

end Float

/-- Settles O2, function by function: each is the format's own function of the registers' low bits. -/
theorem floatArithmeticGivesResult : Obligations.FloatArithmeticGivesResult := by
  intro s hs ty d a b c f x y z r two signed
  have arith {i : Instr} {op : FF → Rnd → Nat → Nat → Nat × Nat} (hi : exec i s = issue .plain 4 s (fp2 op ty d a b)) :
      two i (op f r x y) := fpResult2_gives hs hi rfl
  have pick {i : Instr} {max num : Bool} (hi : exec i s = issue .plain 4 s (fp2 (fun f r => f.minmax r.fz max num) ty d a b)) :
      two i (f.minmax r.fz max num x y) := fpResult2_gives hs hi rfl
  have sign {i : Instr} {g : Bool → Bool → Bool} (hi : exec i s = issue .plain 4 s (fpSign g ty d a b)) :
      signed i (g (f.neg x) (f.neg y)) := fpResult2_gives hs hi rfl
  refine ⟨arith rfl, arith rfl, arith rfl, arith rfl, fpResult1_gives hs rfl rfl, pick rfl, pick rfl, pick rfl, pick rfl,
    sign (g := fun _ n => n) rfl, sign (g := fun _ n => !n) rfl, sign (g := (· != ·)) rfl, fpResult1_gives hs rfl rfl, fun rm => ?_⟩
  intro fused
  have fma {i : Instr} {np nc : Bool} (hi : exec i s = issue .plain 8 s (fpFma np nc ty rm d a b c)) : fused i np nc :=
    fpResult3_gives hs hi rfl
  exact ⟨fma rfl, fma rfl, fma rfl, fma rfl⟩

/-- What fcvt does: SRC names the format of its operand, TY that of its result (R166). -/
def convertFloat (ty : BitVec 2) (d a : Reg) (src : BitVec 5) (s : State) : State × Res :=
  let g := ffOf (etOfTy src.toNat)
  s.fpResult d [a] (g.convert (ffOf (etOfTy ty.toNat)) (s.thr.rnd 0 false) (s.fpCode g a))

theorem exec_fcvt (ty : BitVec 2) (d a : Reg) (src : BitVec 5) {s : State} :
    exec (.fcvt ty d a src) s = issue .plain 4 s (convertFloat ty d a src) := rfl

/-- Settles O3: the comparisons, the conversions between formats, and those to and from integers. -/
theorem floatCompareConvertGivesResult : Obligations.FloatCompareConvertGivesResult := by
  intro s hs ty d a b f x y fz truth
  have compare {i : Instr} {op : FF → Bool → Nat → Nat → Bool × Nat} (hi : exec i s = issue .plain 4 s (fpCmp op ty d a b)) :
      truth i (op f fz x y) := fpResult2_gives hs hi (fpCmp_eq op ty d a b s)
  refine ⟨compare rfl, compare rfl, compare rfl, fun src => fpResult1_gives hs (exec_fcvt ty d a src) rfl, fun rm w => ?_⟩
  intro n mode r
  have toInteger {i : Instr} {v : Int × Nat} (h : GivesF i s d (ofInt 64 v.1, v.2) (s.xp a) 4) :
      ∃ t, exec i s = .next t ∧ WritesX s t d (BitVec.ofInt 64 v.1) (s.xp a) (BitVec.ofNat 64 v.2 &&& 0x1F0) 4 := by
    rwa [GivesF, ofNat_ofInt] at h
  refine ⟨toInteger (fpResult1_gives hs rfl rfl), toInteger (fpResult1_gives hs rfl rfl), fpResult1_gives hs rfl ?signed,
    fpResult1_gives hs rfl ?unsigned⟩
  case signed => rw [fpOfInt, if_pos rfl, toInt_word]; rfl
  case unsigned => rw [fpOfInt, if_neg nofun, mod_word]; rfl

end Sys2Proof.Machine
/-! ## Branches (R173) -/

namespace Sys2Proof.Machine

section Branches
variable {s : State} {i : Instr} {len : Nat} {off : Word} {rs : List Reg} {c : State → Bool}

theorem branch_poisoned (hp : rs.any s.xp = true) : branch len off rs c s = (s, .fault 0x51 0 0) := if_pos hp

theorem branch_of_clean (hp : rs.any s.xp = false) : branch len off rs c s =
    if c s then (s.traceRec s.cur.1 s.cur.2 1 0 (s.thr.pc + 4 * off).toNat, .jump (s.thr.pc + 4 * off))
    else (s, .jump (s.thr.pc + BitVec.ofNat 64 len)) := by
  rw [branch, State.unlessPoison, if_neg (by simp [hp]), BitVec.mul_comm off]

/-- An instruction that goes on at the next one only advances pc. -/
theorem advances_of_jump (h : s.Ready) {f : State → State × Res} (hi : exec i s = issue .plain len s f)
    (hf : f s = (s, .jump (s.thr.pc + BitVec.ofNat 64 len))) : Advances i s len := by
  rw [Advances, hi, issue_ready h, hf, State.settle_jump, h.hold]
  rfl

/-- What a branch on registers rs with condition c does: 0x51, the jump with its trace record, or the advance of pc. -/
theorem branch_acts (h : s.Ready) (hi : exec i s = issue .plain len s (branch len off rs c)) :
    let pc := s.thr.pc + 4 * off
    (rs.any s.xp = true → Faults i s 0x51 0 0)
    ∧ (rs.any s.xp = false → c s = true → Jumps i s (s.traceRec s.cur.1 s.cur.2 1 0 pc.toNat) pc)
    ∧ (rs.any s.xp = false → c s = false → Advances i s len) := by
  refine ⟨fun hp => faults_of h hi (branch_poisoned hp), fun hp hc => jumps_of h hi ?taken, fun hp hc => advances_of_jump h hi ?fallen⟩
  case taken => rw [branch_of_clean hp, if_pos hc]
  case fallen => rw [branch_of_clean hp, hc, if_neg Bool.false_ne_true]

end Branches

/-! ### The conditions -/

section Conditions
variable (x y : Word)

theorem bne_eq_decide : (x != y) = decide (x ≠ y) := by
  rw [bne, decide_not]
  rfl

theorem not_slt_eq_decide : (!x.slt y) = decide (y.toInt ≤ x.toInt) := by
  rw [BitVec.slt, ← decide_not]
  exact decide_eq_decide.mpr Int.not_lt

theorem not_ult_eq_decide : (!x.ult y) = decide (y.toNat ≤ x.toNat) := by
  rw [BitVec.ult, ← decide_not]
  exact decide_eq_decide.mpr Nat.not_lt

end Conditions

/-- The word of a short branch: MAJ 0x0A, CND and OFF11. -/
theorem qs_branch (off cnd : Nat) (a b : Reg) :
    [qs 10 0 off cnd b.toNat a.toNat] = [256 * a.toNat + 8192 * b.toNat + 262144 * cnd + 0x28 + 2097152 * off] := by
  rw [qs]
  congr 1
  omega

/-- The words of a long branch: the offset is the second word. -/
theorem qs_branchLong (off cnd : Nat) (a b : Reg) :
    [qs 10 1 0 cnd b.toNat a.toNat, off] = [256 * a.toNat + 8192 * b.toNat + 262144 * cnd + 0x29, off] := by
  rw [qs]
  congr 1
  omega

/-- Settles O4, condition by condition, short and long. -/
theorem branchesJumpOrFallThrough : Obligations.BranchesJumpOrFallThrough := by
  intro s h a b x y acts pab bit
  have regs : [a, b].any s.xp = pab := by simp [pab]
  have reg : [a].any s.xp = s.xp a := by simp
  let word (cnd : Nat) : Nat := 256 * a.toNat + 8192 * b.toNat + 262144 * cnd
  have both {ws : Nat → List Nat} {off : Word} {len : Nat} {words : Nat → List Nat} (hw : ∀ cnd, words cnd = ws (word cnd))
      (cnd : Nat) {i : Instr} {f : Word → Word → Bool} {cond : Bool} (henc : encode i = words cnd)
      (hi : exec i s = issue .plain len s (branch len off [a, b] (cond2 f a b))) (hc : f x y = cond) :
      acts i cnd ws off len pab cond := ⟨henc.trans (hw cnd), hc ▸ regs ▸ branch_acts h hi⟩
  have one {ws : Nat → List Nat} {off : Word} {len : Nat} {words : Nat → List Nat} (hw : ∀ cnd, words cnd = ws (word cnd))
      (cnd : Nat) {i : Instr} {v cond : Bool} (henc : encode i = words cnd)
      (hi : exec i s = issue .plain len s (branch len off [a] (condBit v a b))) (hc : (bit == v) = cond) :
      acts i cnd ws off len (s.xp a) cond := ⟨henc.trans (hw cnd), hc ▸ reg ▸ branch_acts h hi⟩
  refine ⟨fun o => ?short, fun o => ?long⟩
  case short =>
    intro ws off
    have two := @both ws off 4 _ fun cnd => qs_branch o.toNat cnd a b
    have one := @one ws off 4 _ fun cnd => qs_branch o.toNat cnd a b
    exact ⟨two 0 rfl rfl rfl, two 1 rfl rfl (bne_eq_decide x y), two 2 rfl rfl rfl, two 3 rfl rfl (not_slt_eq_decide x y),
      two 4 rfl rfl rfl, two 5 rfl rfl (not_ult_eq_decide x y), one 6 rfl rfl (beq_true bit), one 7 rfl rfl (beq_false bit)⟩
  case long =>
    intro ws off
    have two := @both ws off 8 _ fun cnd => qs_branchLong o.toNat cnd a b
    have one := @one ws off 8 _ fun cnd => qs_branchLong o.toNat cnd a b
    exact ⟨two 0 rfl rfl rfl, two 1 rfl rfl (bne_eq_decide x y), two 2 rfl rfl rfl, two 3 rfl rfl (not_slt_eq_decide x y),
      two 4 rfl rfl rfl, two 5 rfl rfl (not_ult_eq_decide x y), one 6 rfl rfl (beq_true bit), one 7 rfl rfl (beq_false bit)⟩

end Sys2Proof.Machine
/-! ## Scalar loads, stores and pref (R217, R219, R220, R226, R236) -/

namespace Sys2Proof.Machine

/-! ### How an access ends -/

section Ends
variable {s r : State} {i : Instr} {c : Class} {len : Nat} {f : State → State × Res}

/-- An instruction that faults once it has come to r (R376). -/
theorem faultsAt_of (h : s.Ready) (hi : exec i s = issue c len s f) {code addr i1 : Nat} (hf : f s = (r, .fault code addr i1)) :
    FaultsAt i s r code addr i1 := by
  rw [FaultsAt, hi, issue_ready h, hf]
  rfl

theorem Got.bind_bytes {g : State × Got} {bs : List PByte} (k : State → List PByte → State × Res) (hg : g = (r, .bytes bs)) :
    Got.bind g k = k r bs := by
  rw [hg]
  rfl

theorem Got.bind_fault {g : State × Got} {code addr : Nat} (k : State → List PByte → State × Res) (hg : g = (r, .fault code addr)) :
    Got.bind g k = (r, .fault code addr 0) := by
  rw [hg]
  rfl

theorem Got.bind_wait {g : State × Got} {w : Wait} (k : State → List PByte → State × Res) (hg : g = (r, .wait w)) :
    Got.bind g k = (r, .wait w) := by
  rw [hg]
  rfl

variable {a : Reg} {g : State × Got} {k : State → List PByte → State × Res}

/-- An instruction whose meaning is one access behind a clean base: the fault and the wait of the access are its own. -/
theorem access_ends (h : s.Ready) (hi : exec i s = issue c len s f) (hp : s.xp a = true → f s = (s, .fault 0x51 0 0))
    (hf : s.xp a = false → f s = Got.bind g k) :
    (s.xp a = true → Faults i s 0x51 0 0)
    ∧ (s.xp a = false →
      (∀ r bs, g = (r, .bytes bs) → ∀ t, k r bs = (t, .done) → Effects i s t len)
      ∧ (∀ r code addr, g = (r, .fault code addr) → FaultsAt i s r code addr 0)
      ∧ ∀ r w, g = (r, .wait w) → WaitsAt i s r w) := by
  refine ⟨fun hx => faults_of h hi (hp hx), fun hx => ⟨fun r bs hg t ht => ?_, fun r code addr hg => ?_, fun r w hg => ?_⟩⟩
  · exact effects_of h hi (((hf hx).trans (Got.bind_bytes k hg)).trans ht)
  · exact faultsAt_of h hi ((hf hx).trans (Got.bind_fault k hg))
  · exact waitsAt_of h hi ((hf hx).trans (Got.bind_wait k hg))

end Ends

/-! ### Loads and stores (R220, R226) -/

section ReadOnly
variable {s : State} {d a : Reg}

/-- The replica that ldro may leave is all that it leaves beside the load (R226). -/
theorem State.keepReplica_frame (s : State) (addr : Nat) : ∃ rs, s.keepReplica addr = { s with replicas := rs } := by
  unfold State.keepReplica
  dsimp only
  split
  · split
    · exact ⟨_, rfl⟩
    · split
      · exact ⟨_, rfl⟩
      · exact ⟨_, rfl⟩
  · exact ⟨_, rfl⟩

/-- What ldro does once its base is clean. -/
def loadReadOnly (d a : Reg) (s : State) : State × Res :=
  let r := loadTo 8 (BitVec.ofNat 64) d (s.x a).toNat s
  match r.2 with
  | .done => (r.1.keepReplica (s.x a).toNat, .done)
  | _ => r

theorem exec_ldro (d a : Reg) (s : State) : exec (.ldro d a) s = issue .plain 4 s fun s => s.unlessPoison [a] (loadReadOnly d a) := rfl

theorem loadReadOnly_of_bytes {r : State} {bs : List PByte} (hg : s.load s.cur.1 s.cur.2 (s.x a).toNat 8 = (r, .bytes bs)) :
    loadReadOnly d a s =
      (((r.notePload r.cur.1 bs).setX d (BitVec.ofNat 64 (leNat (bs.map PByte.b))) (bs.any PByte.p)).keepReplica (s.x a).toNat, .done) := by
  rw [loadReadOnly, loadTo, Got.bind_bytes _ hg]
  rfl

end ReadOnly

/-- A part of O50. -/
theorem scalarLoadsGiveValue : Stated.ScalarLoadsGiveValue := by
  intro s h d a tid acts sx
  refine ⟨fun o => ?plain, fun hp => faults_of h (exec_ldro d a s) (State.unlessPoison_of_poisoned hp _), fun hp r bs hg => ?readOnly⟩
  case plain =>
    have load {i : Instr} {n : Nat} {ext : Nat → Word} (hi : exec i s = issue .plain 4 s (memLoad n ext d a o)) :
        acts i (s.x a + o.signExtend 64).toNat n ext := by
      obtain ⟨hpois, hclean⟩ := access_ends h hi (State.unlessPoison_of_poisoned · _) (State.unlessPoison_of_clean · _)
      refine ⟨hpois, fun hp => ?_⟩
      obtain ⟨hbytes, hends⟩ := hclean hp
      exact ⟨fun r bs hg => hbytes r bs hg _ rfl, hends⟩
    have signed {i : Instr} {n : Nat} (h0 : 0 < n) (h8 : n ≤ 8) (hi : exec i s = issue .plain 4 s (memLoad n (sextBytes n) d a o)) :
        acts i (s.x a + o.signExtend 64).toNat n (sx (8 * n)) := by
      have hext : sextBytes n = sx (8 * n) := funext fun v => sext_eq_ofInt (by omega) (by omega) v
      exact hext ▸ load hi
    exact ⟨signed (n := 1) (by omega) (by omega) rfl, signed (n := 2) (by omega) (by omega) rfl,
      signed (n := 4) (by omega) (by omega) rfl, load rfl, load rfl, load rfl, load rfl⟩
  case readOnly =>
    obtain ⟨rs, hrs⟩ := State.keepReplica_frame
      ((r.notePload r.cur.1 bs).setX d (BitVec.ofNat 64 (leNat (bs.map PByte.b))) (bs.any PByte.p)) (s.x a).toNat
    refine ⟨rs, effects_of h (exec_ldro d a s) ?_⟩
    rw [State.unlessPoison_of_clean hp, loadReadOnly_of_bytes hg, hrs]

/-- A part of O50. -/
theorem scalarStoresPutValue : Stated.ScalarStoresPutValue := by
  intro s h b a o addr acts
  have store {i : Instr} {n : Nat} (hi : exec i s = issue .plain 4 s (memStore n b a o)) : acts i n := by
    obtain ⟨hpois, hclean⟩ := access_ends h hi (State.unlessPoison_of_poisoned · _) (State.unlessPoison_of_clean · _)
    refine ⟨hpois, fun hp => ?_⟩
    obtain ⟨hbytes, hends⟩ := hclean hp
    exact ⟨fun r g hg => hbytes r g hg _ rfl, hends⟩
  exact ⟨store rfl, store rfl, store rfl, store rfl⟩

/-! ### pref (R236) -/

/-- Translation and cache filling: no thread, no byte of memory and no debug stop differs, and no time passes. -/
structure State.Prefetched (s r : State) : Prop where
  threads : s.SameThreads r
  mem     : r.mem = s.mem
  now     : r.now = s.now
  debug   : ∀ c, (r.core c).dbgStop = (s.core c).dbgStop

namespace State.Prefetched
variable {s r u : State}

theorem refl (s : State) : s.Prefetched s := ⟨⟨rfl, rfl⟩, rfl, rfl, fun _ => rfl⟩

theorem trans (h : s.Prefetched r) (h' : r.Prefetched u) : s.Prefetched u where
  threads := ⟨h'.threads.1.trans h.threads.1, h'.threads.2.trans h.threads.2⟩
  mem := h'.mem.trans h.mem
  now := h'.now.trans h.now
  debug c := (h'.debug c).trans (h.debug c)

theorem setCluster (s : State) (n : Nat) (k : Cluster) : s.Prefetched (s.setCluster n k) := ⟨⟨rfl, rfl⟩, rfl, rfl, fun _ => rfl⟩

theorem noteWalk (s : State) (ctx : Nat) : s.Prefetched (s.noteWalk ctx) := ⟨⟨rfl, rfl⟩, rfl, rfl, fun _ => rfl⟩

theorem setCore (s : State) (n : Nat) (k : Core) (hk : k.dbgStop = (s.core n).dbgStop) : s.Prefetched (s.setCore n k) := by
  refine ⟨⟨rfl, rfl⟩, rfl, rfl, fun c => ?_⟩
  rw [State.core_setCore]
  split
  · next heq => rw [hk, heq]
  · rfl

theorem countVia (s : State) (t : Trans) (va n : Nat) (w : Bool) : s.Prefetched (s.countVia t va n w) := by
  unfold State.countVia
  dsimp only
  split
  · unfold State.countAccess
    split
    · exact refl s
    · exact ⟨⟨rfl, rfl⟩, rfl, rfl, fun _ => rfl⟩
  · exact refl s

/-- An instruction of 4 bytes that only prefetches ends with its thread behind it. -/
theorem ends (hs : s.Ready) (h : s.Prefetched r) {i : Instr} {c : Class} {f : State → State × Res} (hi : exec i s = issue c 4 s f)
    (hf : f s = (r, .done)) : ∃ t, exec i s = .next t ∧ t.thr = s.thr.after 4 ∧ t.mem = s.mem ∧ t.now = s.now := by
  obtain ⟨hthreads, hmem, hnow, hdebug⟩ := h
  have hr : r.Ready := by
    refine ⟨?_, ?_, ?_, ?_⟩
    · rw [hthreads.thr]; exact hs.run
    · rw [hthreads.thr]; exact hs.packet
    · rw [hthreads.thr]; exact hs.shadow
    · rw [hdebug, State.tk, State.task, hthreads.1, hthreads.2]; exact hs.debug
  refine ⟨r.setThr (r.thr.after 4), ?_, by rw [State.thr_setThr, hthreads.thr], hmem, hnow⟩
  rw [hi, issue_ready hs, hf, State.settle_done, ← hthreads.2, hr.hold]

end State.Prefetched

section Prefetch
variable (s : State)

theorem State.walkFor_prefetched (cl ctx va) : s.Prefetched (s.walkFor cl ctx va).1 := by
  unfold State.walkFor
  grind [State.Prefetched.refl, State.Prefetched.trans, State.Prefetched.noteWalk, State.Prefetched.setCluster]

theorem State.translate_prefetched (cl ctx va k) : s.Prefetched (s.translate cl ctx va k).1 := by
  unfold State.translate
  grind [State.Prefetched.refl, State.walkFor_prefetched]

theorem State.pagesOf_prefetched (cl ctx k a n fuel) : s.Prefetched (s.pagesOf cl ctx k a n fuel).1 := by
  fun_induction State.pagesOf s cl ctx k a n fuel <;>
    grind [State.Prefetched.refl, State.Prefetched.trans, State.translate_prefetched]

theorem State.check_prefetched (tid a n k dataPois) : s.Prefetched (s.check tid a n k dataPois).1 := by
  unfold State.check
  grind [State.Prefetched.refl, State.pagesOf_prefetched]

variable {s} {q : State} {bs : List PByte}

/-- A read at the home that gives bytes sends nothing. -/
theorem State.loadHome_prefetched {tid slot va n t} (h : s.loadHome tid slot va n t = (q, .bytes bs)) : s.Prefetched q := by
  unfold State.loadHome at h
  grind [State.Prefetched.refl, State.Prefetched.countVia]

/-- A line that is read goes into the data cache, counted, and nothing else happens. -/
theorem State.loadLine_prefetched {tid slot va n t} (h : s.loadLine tid slot va n t = (q, .bytes bs)) : s.Prefetched q := by
  unfold State.loadLine at h
  grind [State.Prefetched.refl, State.Prefetched.trans, State.Prefetched.countVia, State.Prefetched.setCore, State.loadHome_prefetched]

end Prefetch

/-- What pref does. -/
def prefetch (a : Reg) (h : Bool) (s : State) : State × Res :=
  if s.xp a || h then (s, .done)
  else
    match s.check s.cur.1 (s.x a).toNat 1 .load false with
    | (r, .ok (.page va n t :: _)) =>
      if r.cacheable r.tk.cluster t then
        match r.loadLine r.cur.1 r.cur.2 va n t with
        | (q, .bytes _) => (q, .done)
        | _ => (r, .done)
      else (r, .done)
    | _ => (s, .done)

theorem exec_pref (a : Reg) (h : Bool) (s : State) : exec (.pref a h) s = issue .plain 4 s (prefetch a h) := rfl

/-- However the prefetch goes, the instruction is done. -/
theorem prefetch_done (a : Reg) (h : Bool) (s : State) : ∃ r, prefetch a h s = (r, .done) ∧ s.Prefetched r := by
  have hcheck := s.check_prefetched s.cur.1 (s.x a).toNat 1 .load false
  unfold prefetch
  split
  · exact ⟨s, rfl, .refl s⟩
  · split
    · next r va n t ps heq =>
      rw [heq] at hcheck
      split
      · split
        · next q bs hline => exact ⟨q, rfl, hcheck.trans (State.loadLine_prefetched hline)⟩
        · exact ⟨r, rfl, hcheck⟩
      · exact ⟨r, rfl, hcheck⟩
    · exact ⟨s, rfl, .refl s⟩

/-- A part of O50. -/
theorem prefetchIsAHint : Stated.PrefetchIsAHint := by
  intro s hs a h
  obtain ⟨r, hr, hpre⟩ := prefetch_done a h s
  exact hpre.ends hs (exec_pref a h s) hr

/-- Settles O50: the parts above. -/
theorem scalarMemoryInstructionsAct : Obligations.ScalarMemoryInstructionsAct :=
  ⟨scalarLoadsGiveValue, scalarStoresPutValue, prefetchIsAHint⟩

end Sys2Proof.Machine

/-! ## Vector integer, bitwise and floating-point functions (R190 to R194, R197 to R199) -/

namespace Sys2Proof.Machine

/-! ### Functions of lanes -/

section LaneFunctions
variable {s : State} {i : Instr} {len : Nat} {k : State → State × Res} {f : VX} {bitwise : Bool} {lit : Option (BitVec 32)}

/-- A function of the B lanes gives its lane results under the predicate. -/
theorem vec1_gives (h : s.Ready) (hi : exec i s = issue .barred len s k) {g : Nat → Nat × Nat}
    (hk : k s = vec1 g f (s.thr.bLanes f f.et.toNat bitwise lit) s) : GivesV i s f (s.thr.map1 f bitwise lit g) len := by
  rw [GivesV, hi]
  refine issue_vecResult h _ len k f _ (hk.trans ?_)
  rw [vec1, Thread.bLanes_eq, List.map_map]
  rfl

/-- A function of the A and B lanes gives its lane results under the predicate. -/
theorem vec2_gives (h : s.Ready) (hi : exec i s = issue .barred len s k) {g : Nat → Nat → Nat × Nat}
    (hk : k s = vec2 g f (s.thr.bLanes f f.et.toNat bitwise lit) s) : GivesV i s f (s.thr.map2 f bitwise lit g) len := by
  rw [GivesV, hi]
  refine issue_vecResult h _ len k f _ (hk.trans (congrArg (vecResult f · s) ?_))
  rw [Thread.bLanes_eq, Thread.lanes_eq]
  exact zipWith_range ..

/-- A function of the A and B lanes and those of a third register gives its lane results under the predicate. -/
theorem vec3_gives (h : s.Ready) (hi : exec i s = issue .barred len s k) {g : Nat → Nat → Nat → Nat × Nat} {c : Reg}
    (hk : k s = vec3 g f (s.thr.bOwn f lit) c s) : GivesV i s f (s.thr.map3 f lit c g) len := by
  rw [GivesV, hi]
  refine issue_vecResult h _ len k f _ (hk.trans (congrArg (vecResult f · s) ?_))
  rw [Thread.bOwn, Thread.bLanes_eq, Thread.lanes_eq, Thread.lanes_eq]
  exact (congrArg (List.zipWith _ _) (zip_range ..)).trans (zipWith_range ..)

end LaneFunctions

/-! ### The greater of two lanes -/

section Greater
variable (t : Thread) (f : VX)

theorem Thread.lane_lt (r : Reg) (w i : Nat) : (t.lane r w i).1 < 2 ^ w := Nat.mod_lt _ (by positivity)

/-- A lane of the B operand of an s type has the width of its type. -/
theorem Thread.bLane_lt {et : Nat} (h : etS et = true) (bitwise : Bool) (lit : Option (BitVec 32)) (i : Nat) :
    (t.bLane f et bitwise lit i).1 < 2 ^ etBits et := by
  have hpos : 0 < 2 ^ etBits et := by positivity
  cases lit with
  | some l =>
    have het : et < 4 := of_decide_eq_true h
    rw [Thread.bLane, litLane, if_pos het]
    exact Nat.mod_lt _ hpos
  | none =>
    rw [Thread.bLane]
    split
    · exact Nat.mod_lt _ hpos
    · exact t.lane_lt f.vb _ i

/-- Lanes that are one number of their type are the same lane. -/
theorem laneV_inj {sg : Bool} {w a b : Nat} (hw : sg = true → 0 < w ∧ a < 2 ^ w ∧ b < 2 ^ w) (h : laneV sg w a = laneV sg w b) : a = b := by
  cases sg with
  | false => exact Int.ofNat_inj.mp h
  | true =>
    obtain ⟨hw, ha, hb⟩ := hw rfl
    have hab : toInt w a = toInt w b := h
    rw [toInt_of_lt hw ha, toInt_of_lt hw hb, ← two_pow_pred hw] at hab
    split_ifs at hab <;> omega

/-- Of two lanes that are one number it makes no difference which is kept. -/
theorem Thread.map2_greater (lit : Option (BitVec 32)) :
    let v := laneV (etS f.et.toNat) (laneW f)
    t.map2 f false lit (fun a b => (if v a < v b then b else a, 0)) = t.map2 f false lit fun a b => (if v a ≤ v b then b else a, 0) := by
  intro v
  funext i
  have hsame (hv : v (t.lane f.va (laneW f) i).1 = v (t.bLane f f.et.toNat false lit i).1) :
      (t.lane f.va (laneW f) i).1 = (t.bLane f f.et.toNat false lit i).1 := by
    refine laneV_inj (fun hs => ⟨?_, t.lane_lt .., t.bLane_lt f hs ..⟩) hv
    have het : f.et.toNat < 4 := of_decide_eq_true hs
    unfold laneW
    generalize f.et.toNat = et at het
    interval_cases et <;> decide
  simp only [Thread.map2]
  congr 1
  rcases lt_trichotomy (v (t.lane f.va (laneW f) i).1) (v (t.bLane f f.et.toNat false lit i).1) with hlt | heq | hgt
  · rw [if_pos hlt, if_pos hlt.le]
  · rw [if_neg heq.not_lt, if_pos heq.le, hsame heq]
  · rw [if_neg hgt.not_gt, if_neg hgt.not_ge]

end Greater

theorem dot4_eq (sg : Bool) (a b : Nat) :
    let byte (x j : Nat) : Int := laneV sg 8 (laneOf x 8 j)
    dot4 sg a b = byte a 0 * byte b 0 + byte a 1 * byte b 1 + byte a 2 * byte b 2 + byte a 3 * byte b 3 := by
  simp only [dot4, List.range_succ, List.range_zero, List.nil_append, List.cons_append, List.map_cons, List.map_nil, List.sum_cons,
    List.sum_nil]
  ring

/-- Settles O7, function by function: each acts on its lanes' numbers. -/
theorem vectorIntegerGivesLanes : Obligations.VectorIntegerGivesLanes := by
  intro s hs f w sg v fits two one
  have vint2 {plain : VX → Instr} {lit : VX → BitVec 32 → Instr} {k : Bool → Nat → Bool → Nat → Nat → Nat} {g : Nat → Nat → Nat × Nat}
      (hp : exec (plain f) s = issue .barred 8 s (vint2 k f none)) (hl : ∀ l, exec (lit f l) s = issue .barred 12 s (vint2 k f (some l)))
      (hg : ∀ l, s.thr.map2 f false l (fun a b => (k sg w f.sat a b, 0)) = s.thr.map2 f false l g := by exact fun _ => rfl) :
      two plain lit g := ⟨hg none ▸ vec2_gives hs hp rfl, fun l => hg (some l) ▸ vec2_gives hs (hl l) rfl⟩
  have vint1 {plain : VX → Instr} {lit : VX → BitVec 32 → Instr} {k : Bool → Nat → Bool → Nat → Nat} {g : Nat → Nat × Nat}
      (hp : exec (plain f) s = issue .barred 8 s (vint1 k f none)) (hl : ∀ l, exec (lit f l) s = issue .barred 12 s (vint1 k f (some l)))
      (hg : (fun b => (k sg w f.sat b, 0)) = g := by rfl) : one plain lit g :=
    ⟨hg ▸ vec1_gives hs hp rfl, fun l => hg ▸ vec1_gives hs (hl l) rfl⟩
  have lesser (a b : Nat) : (if laneV sg w b < laneV sg w a then b else a) = if v a ≤ v b then a else b := by
    rcases lt_or_ge (v b) (v a) with h | h
    · exact (if_pos h).trans (if_neg h.not_ge).symm
    · exact (if_neg h.not_gt).trans (if_pos h).symm
  refine ⟨vint2 rfl fun _ => rfl, vint2 rfl fun _ => rfl, vint2 rfl fun _ => rfl, vint2 rfl fun _ => rfl, vint1 rfl fun _ => rfl,
    vint1 rfl fun _ => rfl, vint2 rfl (fun _ => rfl) fun _ => ?min, vint2 rfl (fun _ => rfl) fun l => s.thr.map2_greater f l,
    vint2 rfl fun _ => rfl, vint2 rfl fun _ => rfl, vint2 rfl fun _ => rfl, vint2 rfl fun _ => rfl, vint2 rfl fun _ => rfl,
    vint2 rfl fun _ => rfl, vint1 rfl fun _ => rfl,
    ⟨vec3_gives (k := vmaddOp f none) hs rfl rfl, fun l => vec3_gives (k := vmaddOp f (some l)) hs rfl rfl⟩, ?dot4⟩
  case min => simp only [lesser]
  case dot4 =>
    intro byte g
    have hg : (fun a b d => (fit sg f.sat 32 (laneV sg 32 d + dot4 sg a b), 0)) = g := by
      funext a b d
      rw [dot4_eq]
    exact ⟨hg ▸ vec3_gives (k := vdot4Op f none) hs rfl rfl, fun l => hg ▸ vec3_gives (k := vdot4Op f (some l)) hs rfl rfl⟩

/-- Settles O8, function by function. -/
theorem vectorBitwiseGivesLanes : Obligations.VectorBitwiseGivesLanes := by
  intro s hs f w two one field
  have vbit2 {plain : VX → Instr} {lit : VX → BitVec 32 → Instr} {k : Nat → Nat → Nat → Nat} {g : Nat → Nat → Nat}
      (hp : exec (plain f) s = issue .barred 8 s (vbit2 k f none)) (hl : ∀ l, exec (lit f l) s = issue .barred 12 s (vbit2 k f (some l)))
      (hg : k w = g := by rfl) : two plain lit g := hg ▸ ⟨vec2_gives hs hp rfl, fun l => vec2_gives hs (hl l) rfl⟩
  have vbit1 {plain : VX → Instr} {lit : VX → BitVec 32 → Instr} {k : Nat → Nat → Nat} {g : Nat → Nat}
      (hp : exec (plain f) s = issue .barred 8 s (vbit1 k f none)) (hl : ∀ l, exec (lit f l) s = issue .barred 12 s (vbit1 k f (some l)))
      (hg : k w = g := by rfl) : one plain lit g := hg ▸ ⟨vec1_gives hs hp rfl, fun l => vec1_gives hs (hl l) rfl⟩
  have hfield : vbfxLane (etS f.et.toNat) w = field := by
    funext a b
    simp only [vbfxLane, beq_iff_eq, field]
  exact ⟨vbit2 rfl fun _ => rfl, vbit2 rfl fun _ => rfl, vbit2 rfl fun _ => rfl, vbit2 rfl fun _ => rfl, vbit1 rfl fun _ => rfl,
    vbit1 rfl fun _ => rfl, vbit1 rfl fun _ => rfl, vbit1 rfl fun _ => rfl, vbit1 rfl fun _ => rfl, vbit2 rfl fun _ => rfl,
    vbit2 rfl (fun _ => rfl) hfield⟩

/-- Settles O9, function by function: each is the format's own function of its lanes. -/
theorem vectorFloatGivesLanes : Obligations.VectorFloatGivesLanes := by
  intro s hs f g r two one fused
  have vflt2 {plain : VX → Instr} {lit : VX → BitVec 32 → Instr} {k : FF → Rnd → Nat → Nat → Nat × Nat} {h : Nat → Nat → Nat × Nat}
      (hp : exec (plain f) s = issue .barred 8 s (vflt2 k f none)) (hl : ∀ l, exec (lit f l) s = issue .barred 12 s (vflt2 k f (some l)))
      (hh : k g r = h := by rfl) : two plain lit h := hh ▸ ⟨vec2_gives hs hp rfl, fun l => vec2_gives hs (hl l) rfl⟩
  have vflt1 {plain : VX → Instr} {lit : VX → BitVec 32 → Instr} {k : FF → Rnd → Nat → Nat × Nat} {h : Nat → Nat × Nat}
      (hp : exec (plain f) s = issue .barred 8 s (vflt1 k f none)) (hl : ∀ l, exec (lit f l) s = issue .barred 12 s (vflt1 k f (some l)))
      (hh : k g r = h := by rfl) : one plain lit h := hh ▸ ⟨vec1_gives hs hp rfl, fun l => vec1_gives hs (hl l) rfl⟩
  have fma {plain : VX → Instr} {lit : VX → BitVec 32 → Instr} {np nc : Bool}
      (hp : exec (plain f) s = issue .barred 8 s (vfmaOp np nc f none)) (hl : ∀ l, exec (lit f l) s = issue .barred 12 s (vfmaOp np nc f (some l))) :
      fused plain lit np nc := ⟨vec3_gives hs hp rfl, fun l => vec3_gives hs (hl l) rfl⟩
  exact ⟨vflt2 rfl fun _ => rfl, vflt2 rfl fun _ => rfl, vflt2 rfl fun _ => rfl, vflt2 rfl fun _ => rfl, vflt1 rfl fun _ => rfl,
    fma rfl fun _ => rfl, fma rfl fun _ => rfl, fma rfl fun _ => rfl, vflt2 rfl fun _ => rfl, vflt2 rfl fun _ => rfl,
    vflt1 rfl fun _ => rfl, vflt1 rfl fun _ => rfl⟩

end Sys2Proof.Machine

/-! ## Vector comparisons and predicate functions (R192, R195, R200, R201) -/

namespace Sys2Proof.Machine

section Predicates
variable {s : State} {i : Instr} {len : Nat} {k : State → State × Res} {f : VX}

/-- A predicate result without flags gives its lane bits under the predicate. -/
theorem predResult_gives (h : s.Ready) (hi : exec i s = issue .barred len s k) {b : Nat → Bool}
    (hk : k s = predResult f ((List.range (1024 / laneW f)).map b) s) : GivesP i s f b 0 len := by
  have hflags (rs : List Bool) : predResult f rs (s.orFlags 0) = predResult f rs s := by
    rw [predResult, State.orFlags, Thread.orFlags_zero, State.thr_setThr, State.setThr_setThr]
    rfl
  rw [GivesP, hi]
  exact issue_predResult h _ len k f b 0 (hk.trans (hflags _).symm)

/-- An instruction that only writes xd gives it that value (R118). -/
theorem setX_gives (h : s.Ready) (hi : exec i s = issue .barred len s k) {d : Reg} {v : Word} {p : Bool}
    (hk : k s = (s.setX d v p, .done)) : GivesX i s d v p len := by
  rw [GivesX, hi]
  exact ⟨_, issue_setThr h _ _ _ _ hk, by simpa using writesX_setX s d v p 0 len⟩

theorem anyPois_range (t : Thread) (f : VX) (l : Nat → Lane1) :
    anyPois (t.active f) ((List.range (1024 / laneW f)).map l) = true ↔ ∃ j < 1024 / laneW f, t.on f j = true ∧ (l j).2 = true := by
  rw [anyPois, Thread.active_eq, zipWith_range]
  simp

/-- What a comparison does: 0x51 for a poisoned active lane, else its predicate and the flags of the active lanes (R195, R200). -/
theorem vcmpOp_acts (h : s.Ready) {g : Bool → Nat → Nat → Bool × Nat} {lit : Option (BitVec 32)}
    (hi : exec i s = issue .barred len s (vcmpOp g f lit)) :
    let a (j : Nat) := s.thr.lane f.va (laneW f) j
    let b (j : Nat) := s.thr.bLane f f.et.toNat false lit j
    let r (j : Nat) := g (s.thr.tflags.getLsbD 3) (a j).1 (b j).1
    ((∃ j < 1024 / laneW f, s.thr.on f j = true ∧ ((a j).2 || (b j).2) = true) → Faults i s 0x51 0 0)
    ∧ ((∀ j < 1024 / laneW f, s.thr.on f j = true → ((a j).2 || (b j).2) = false) →
      GivesP i s f (fun j => (r j).1) (s.thr.laneFlags f fun j => (0, false, (r j).2)) len) := by
  intro a b r
  have ha : s.thr.lanes f.va (laneW f) = (List.range (1024 / laneW f)).map a := s.thr.lanes_eq ..
  have hb : s.thr.bOwn f lit = (List.range (1024 / laneW f)).map b := s.thr.bLanes_eq ..
  have hpois : [s.thr.lanes f.va (laneW f), s.thr.bOwn f lit].any (anyPois (s.thr.active f)) = true ↔
      ∃ j < 1024 / laneW f, s.thr.on f j = true ∧ ((a j).2 || (b j).2) = true := by
    simp only [ha, hb, List.any_cons, List.any_nil, Bool.or_false, Bool.or_eq_true, anyPois_range, and_or_left, exists_or]
  refine ⟨fun hp => faults_of h hi (if_pos (hpois.mpr hp)), fun hclean => ?_⟩
  have hnot : ¬ ∃ j < 1024 / laneW f, s.thr.on f j = true ∧ ((a j).2 || (b j).2) = true := fun ⟨j, hj, hon, hp⟩ => by
    rw [hclean j hj hon] at hp
    exact Bool.false_ne_true hp
  rw [GivesP, hi]
  refine issue_predResult h _ len _ f _ _ ((if_neg (hpois.not.mpr hnot)).trans ?_)
  rw [ha, hb, zipWith_range, List.map_map, Thread.active_eq, zipWith_range]
  rfl

/-- The lanes active in both predicates (R201). -/
theorem Thread.both_eq (t : Thread) (f : VX) : t.both f =
    (List.range (1024 / laneW f)).map fun i => (t.pr f.vb.toNat).getLsbD (i * (laneW f / 8)) && t.on f i := by
  rw [Thread.both, Thread.active_eq]
  exact zipWith_range ..

end Predicates

/-- Settles O10, relation by relation. -/
theorem vectorCompareGivesPredicate : Obligations.VectorCompareGivesPredicate := by
  intro s hs f w g fz acts int
  have vcmp {plain : VX → Instr} {lit : VX → BitVec 32 → Instr} {k : Bool → Nat → Nat → Bool × Nat} {h : Nat → Nat → Bool × Nat}
      (hp : exec (plain f) s = issue .barred 8 s (vcmpOp k f none)) (hl : ∀ l, exec (lit f l) s = issue .barred 12 s (vcmpOp k f (some l)))
      (hh : k fz = h := by rfl) : acts plain lit h := hh ▸ ⟨vcmpOp_acts hs hp, fun l => vcmpOp_acts hs (hl l)⟩
  have hne : (fun a b : Nat => (a != b, 0)) = int fun a b => decide (a ≠ b) := by
    funext a b
    exact congrArg (·, 0) (Bool.eq_iff_iff.mpr (by simp))
  exact ⟨vcmp rfl fun _ => rfl, vcmp rfl (fun _ => rfl) hne, vcmp rfl fun _ => rfl, vcmp rfl fun _ => rfl, vcmp rfl fun _ => rfl,
    vcmp rfl fun _ => rfl, vcmp rfl fun _ => rfl, vcmp rfl fun _ => rfl, vcmp rfl fun _ => rfl, vcmp rfl fun _ => rfl⟩

/-- Settles O11, function by function. -/
theorem predicatesGiveResult : Obligations.PredicatesGiveResult := by
  intro s hs f w n bit both
  have pred2 {i : Instr} {g : Bool → Bool → Bool} (hi : exec i s = issue .barred 8 s (pred2 g f)) :
      GivesP i s f (fun j => g (bit f.va j) (bit f.vb j)) 0 8 :=
    predResult_gives hs hi (congrArg (predResult f · s) (zipWith_range ..))
  have predX {i : Instr} {g : List Bool → Nat} (hi : exec i s = issue .barred 8 s (predX g f)) :
      GivesX i s f.vd (BitVec.ofNat 64 (g ((List.range n).map both))) false 8 :=
    s.thr.both_eq f ▸ setX_gives hs hi rfl
  have plen {i : Instr} {count : Word → Int} (hi : exec i s = issue .barred 8 s (plenOp count f)) (hp : s.xp f.va = false) :
      GivesP i s f (fun j => decide ((j : Int) < count (s.x f.va))) 0 8 :=
    predResult_gives hs hi (State.unlessPoison_of_clean hp _)
  refine ⟨fun hp => ⟨faults_of hs rfl (State.unlessPoison_of_poisoned hp _), faults_of hs rfl (State.unlessPoison_of_poisoned hp _)⟩,
    fun hp => ⟨plen rfl hp, ?plenu⟩, pred2 rfl, pred2 rfl, pred2 rfl, ?pnot, ?pset, ?pcnt, ?pfirst, ?pany, ?vlanes⟩
  case plenu => simpa only [Int.ofNat_lt] using plen (i := .plenu f) (count := fun v => (v.toNat : Int)) rfl hp
  case pnot =>
    exact predResult_gives (k := fun s => predResult f ((s.thr.predLanes f f.vb).map (!·)) s) hs rfl
      (congrArg (predResult f · s) (List.map_map ..))
  case pset =>
    refine predResult_gives (k := fun s => predResult f ((List.range (laneN f)).map fun i => f.imm == 0 || i < f.imm.toNat) s) hs rfl
      (congrArg (predResult f · s) (List.map_congr_left fun i _ => ?_))
    rw [Bool.eq_iff_iff]
    simp
  case pcnt => simpa only [List.countP_map, Function.id_comp] using predX (i := .pcnt f) (g := List.countP id) rfl
  case pfirst =>
    have hlen : ((List.range n).map both).length = n := by simp
    have hle := List.findIdx_le_length (p := id) (xs := (List.range n).map both)
    refine ⟨_, hle.trans_eq hlen, predX rfl, fun j hj => ?_, fun hk => ?_⟩
    · simpa using List.not_of_lt_findIdx hj
    · simpa using List.findIdx_getElem (w := hk.trans_eq hlen.symm)
  case pany =>
    have h := predX (i := .pany f) (g := fun l => (l.any id).toNat) rfl
    have hany : BitVec.ofNat 64 (((List.range n).map both).any id).toNat = if ∃ i < n, both i = true then 1 else 0 := by
      by_cases hex : ∃ i < n, both i = true
      · have htrue : ((List.range n).map both).any id = true := by simpa using hex
        rw [htrue, if_pos hex]
        rfl
      · have hfalse : ((List.range n).map both).any id = false := by simpa using hex
        rw [hfalse, if_neg hex]
        rfl
    exact hany ▸ h
  case vlanes => exact setX_gives (k := fun s => (s.setX f.vd (BitVec.ofNat 64 n) false, .done)) hs rfl rfl

end Sys2Proof.Machine

/-! ## Vector permutations (R202) -/

namespace Sys2Proof.Machine

/-! ### Lanes of a register, active lanes and their ranks -/

section Permuted
variable (t : Thread) (f : VX)

/-- Lane k of register A, or a zero lane beyond the register. -/
def Thread.aLane (k : Nat) : Lane1 := if k < 1024 / laneW f then t.lane f.va (laneW f) k else (0, false)

theorem laneAt_lanes (k : Nat) : laneAt (t.lanes f.va (laneW f)) k = t.aLane f k := by
  rw [laneAt, Thread.lanes_eq, getD_map_range]
  rfl

theorem length_ranksOf (n : Nat) (bs : List Bool) : (ranksOf n bs).length = bs.length := by
  induction bs generalizing n with
  | nil => rfl
  | cons b bs ih => rw [ranksOf, List.length_cons, List.length_cons, ih]

theorem ranksOf_getElem {n : Nat} {bs : List Bool} {i : Nat} (hi : i < (ranksOf n bs).length) :
    (ranksOf n bs)[i] = n + (bs.take i).countP id := by
  induction bs generalizing n i with
  | nil => exact absurd hi (Nat.not_lt_zero i)
  | cons b bs ih =>
    cases i with
    | zero => rfl
    | succ i =>
      simp only [ranksOf, List.getElem_cons_succ, List.take_succ_cons, List.countP_cons, id_eq, ih]
      cases b with
      | false => simp
      | true =>
        simp
        omega

/-- The rank of a lane: the number of active lanes below it. -/
def Thread.rank (i : Nat) : Nat := (List.range i).countP (t.on f)

theorem ranksOf_active : ranksOf 0 (t.active f) = (List.range (1024 / laneW f)).map (t.rank f) := by
  rw [Thread.active_eq]
  apply List.ext_getElem
  · simp [length_ranksOf]
  · intro i h₁ h₂
    have hi : i ≤ 1024 / laneW f := by simpa using h₂.le
    rw [ranksOf_getElem, Nat.zero_add, ← List.map_take, List.take_range, Nat.min_eq_left hi, List.countP_map, List.getElem_map,
      List.getElem_range]
    rfl

end Permuted

/-! ### Results of permutations -/

section Permutations
variable {s : State} {i : Instr} {k : State → State × Res} {f : VX}

theorem permResult_gives (h : s.Ready) (hi : exec i s = issue .barred 8 s k) {l : Nat → Lane1}
    (hk : k s = permResult f ((List.range (1024 / laneW f)).map l) s) : GivesV i s f (fun j => ((l j).1, (l j).2, 0)) 8 := by
  rw [GivesV, hi]
  exact issue_vecResult h _ 8 k f _ (hk.trans (congrArg (vecResult f · s) (List.map_map ..)))

/-- An instruction that writes all lanes of a register gives them. -/
theorem putLanes_writes (h : s.Ready) (hi : exec i s = issue .barred 8 s k) {d : Reg} {new : Nat → Lane1}
    (hk : k s = (s.setThr (s.thr.putLanes d (laneW f) ((List.range (1024 / laneW f)).map new)), .done)) :
    ∃ t, exec i s = .next t ∧ WritesV s t d (laneW f) new 0 8 := by
  rw [hi]
  refine ⟨_, issue_setThr h _ 8 _ _ hk, ?_⟩
  have hw := writesV_putLanes s d (laneW_width f) new 0 8
  rwa [Thread.orFlags_zero] at hw

/-- A poisoned index raises 0x51. -/
theorem withIndex_poisoned {go : Nat → State × Res} (hx : f.xs = true) (hp : s.xp f.vb = true) :
    withIndex f s go = (s, .fault 0x51 0 0) := by
  rw [withIndex, if_pos hx]
  exact State.unlessPoison_of_poisoned hp _

/-- The index of a permutation: xb or IMM9. -/
def State.index (s : State) (f : VX) : Nat := if f.xs then (s.x f.vb).toNat else f.imm.toNat

theorem withIndex_of_clean (go : Nat → State × Res) (hp : f.xs = true → s.xp f.vb = false) :
    withIndex f s go = go (s.index f) := by
  rw [withIndex, State.index]
  split
  · next hx => exact State.unlessPoison_of_clean (hp hx) _
  · rfl

/-- The lanes below k stay and the others are those of another list. -/
theorem take_append_drop_range {α : Type} (n k : Nat) (a b : Nat → α) :
    ((List.range n).map a).take k ++ ((List.range n).map b).drop k = (List.range n).map fun i => if i < k then a i else b i := by
  have h := splice_range n k n a b
  rw [List.take_of_length_le (l := ((List.range n).map b).drop k) (by simp),
    List.drop_of_length_le (l := (List.range n).map a) (by simp), List.append_nil] at h
  rw [h]
  refine List.map_congr_left fun i hi => ?_
  have hin : i < k + n := by
    have := List.mem_range.mp hi
    omega
  simp only [hin, and_true, ← not_lt, ite_not]

theorem append_replicate_range {α : Type} {l : List α} {n : Nat} (d : α) (h : l.length ≤ n) :
    l ++ List.replicate (n - l.length) d = (List.range n).map fun i => l.getD i d := by
  apply List.ext_getElem
  · simp [h]
  · intro i h₁ h₂
    rw [List.getElem_append, List.getElem_map, List.getElem_range]
    split
    · next hi => exact (List.getD_eq_getElem l d hi).symm
    · next hi => rw [List.getElem_replicate, List.getD_eq_default _ _ (Nat.le_of_not_lt hi)]

theorem set_range {α : Type} (n k : Nat) (a : Nat → α) (v : α) :
    ((List.range n).map a).set k v = (List.range n).map fun i => if i = k then v else a i := by
  apply List.ext_getElem
  · simp
  · intro i h₁ h₂
    simp [List.getElem_set, eq_comm]

theorem vslideup_lanes (t : Thread) (f : VX) (k : Nat) :
    (t.lanes f.vd (laneW f)).take k ++ (governed f (t.active f)
      ((List.range (laneN f)).map fun i => laneAt (t.lanes f.va (laneW f)) (i - k)) (t.lanes f.vd (laneW f))).drop k =
    (List.range (1024 / laneW f)).map fun i => if i < k then t.lane f.vd (laneW f) i
      else t.governedLane f (fun i => ((t.aLane f (i - k)).1, (t.aLane f (i - k)).2, 0)) i := by
  have hnew := governed_range t f fun i => ((t.aLane f (i - k)).1, (t.aLane f (i - k)).2, 0)
  simp only [laneAt_lanes]
  exact (congrArg (fun l => (t.lanes f.vd (laneW f)).take k ++ l.drop k) hnew).trans (take_append_drop_range ..)

theorem vcompress_lanes (t : Thread) (f : VX) :
    t.onLanes f ++ List.replicate (laneN f - (t.onLanes f).length) (0, false) =
      (List.range (1024 / laneW f)).map fun i => (t.onLanes f).getD i (0, false) := by
  refine append_replicate_range _ ?_
  rw [Thread.onLanes_eq, List.length_map]
  exact (List.length_filter_le ..).trans_eq List.length_range

theorem vsel_lanes (t : Thread) (f : VX) :
    List.zipWith (fun (o : Bool) (p : Lane1 × Lane1) => if o then p.1 else p.2) (t.active f)
      ((t.lanes f.va (laneW f)).zip (t.bLanes f f.et.toNat true none)) =
    (List.range (1024 / laneW f)).map fun i =>
      if t.on f i then t.lane f.va (laneW f) i else t.bLane f f.et.toNat true none i := by
  rw [Thread.active_eq, Thread.lanes_eq, Thread.bLanes_eq]
  exact (congrArg (List.zipWith _ _) (zip_range ..)).trans (zipWith_range ..)

/-- vins beyond the register changes nothing. -/
theorem vinsOp_beyond (hp : f.xs = true → s.xp f.vb = false) (hk : 1024 / laneW f ≤ s.index f) : vinsOp f s = (s, .done) := by
  rw [vinsOp, withIndex_of_clean _ hp]
  exact if_pos hk

theorem vinsOp_within (hp : f.xs = true → s.xp f.vb = false) (hk : s.index f < 1024 / laneW f) :
    vinsOp f s = (s.setThr (s.thr.putLanes f.vd (laneW f) ((List.range (1024 / laneW f)).map fun i =>
      if i = s.index f then ((s.x f.va).toNat % 2 ^ laneW f, s.xp f.va || (laneW f != 64 && (s.thr.lane f.vd (laneW f) (s.index f)).2))
      else s.thr.lane f.vd (laneW f) i)), .done) := by
  have hold : laneAt (s.thr.lanes f.vd (laneW f)) (s.index f) = s.thr.lane f.vd (laneW f) (s.index f) := by
    rw [laneAt, Thread.lanes_eq, getD_map_range, if_pos hk]
  rw [← set_range, ← Thread.lanes_eq, ← hold, vinsOp, withIndex_of_clean _ hp]
  exact if_neg hk.not_ge

end Permutations

section Ops
variable {s : State} {f : VX}

theorem vbcastOp_eq (hp : f.xs = true → s.xp f.vb = false) :
    vbcastOp f s = permResult f ((List.range (1024 / laneW f)).map fun _ => s.thr.aLane f (s.index f)) s := by
  rw [vbcastOp, withIndex_of_clean _ hp, laneAt_lanes, List.map_const', List.length_range]
  rfl

theorem vslidednOp_eq (hp : f.xs = true → s.xp f.vb = false) :
    vslidednOp f s = permResult f ((List.range (1024 / laneW f)).map fun i => s.thr.aLane f (i + s.index f)) s := by
  rw [vslidednOp, withIndex_of_clean _ hp]
  simp only [laneAt_lanes]
  rfl

theorem vslideupOp_eq (hp : f.xs = true → s.xp f.vb = false) :
    vslideupOp f s = (s.setThr (s.thr.putLanes f.vd (laneW f) ((List.range (1024 / laneW f)).map fun i =>
      if i < s.index f then s.thr.lane f.vd (laneW f) i
      else s.thr.governedLane f (fun i => ((s.thr.aLane f (i - s.index f)).1, (s.thr.aLane f (i - s.index f)).2, 0)) i)), .done) := by
  rw [vslideupOp, withIndex_of_clean _ hp, ← vslideup_lanes]

theorem vextrOp_eq (hp : f.xs = true → s.xp f.vb = false) :
    vextrOp f s = (s.setX f.vd (extendLane f.et.toNat (s.thr.aLane f (s.index f)).1) (s.thr.aLane f (s.index f)).2, .done) := by
  rw [vextrOp, withIndex_of_clean _ hp, laneAt_lanes]

theorem vpermOp_eq : vpermOp f s = permResult f ((List.range (1024 / laneW f)).map fun i =>
    ((s.thr.aLane f (s.thr.lane f.vb (laneW f) i).1).1,
      (s.thr.aLane f (s.thr.lane f.vb (laneW f) i).1).2 || (s.thr.lane f.vb (laneW f) i).2)) s := by
  simp only [vpermOp, laneAt_lanes, Thread.lanes_eq _ f.vb, List.map_map]
  rfl

theorem vexpandOp_eq :
    vexpandOp f s = permResult f ((List.range (1024 / laneW f)).map fun i => s.thr.aLane f (s.thr.rank f i)) s := by
  simp only [vexpandOp, laneAt_lanes, ranksOf_active, List.map_map]
  rfl

theorem vcompressOp_eq : vcompressOp f s = (s.setThr (s.thr.putLanes f.vd (laneW f)
    ((List.range (1024 / laneW f)).map fun i => (s.thr.onLanes f).getD i (0, false))), .done) := by
  rw [← vcompress_lanes]
  rfl

theorem vselOp_eq : vselOp f s = (s.setThr (s.thr.putLanes f.vd (laneW f) ((List.range (1024 / laneW f)).map fun i =>
    if s.thr.on f i then s.thr.lane f.va (laneW f) i else s.thr.bLane f f.et.toNat true none i)), .done) := by
  rw [vselOp, vsel_lanes]

/-- What viota does. -/
def viotaOp (f : VX) (s : State) : State × Res := permResult f ((ranksOf 0 (s.thr.active f)).map fun j => (j, false)) s

theorem exec_viota (f : VX) (s : State) : exec (.viota f) s = issue .barred 8 s (viotaOp f) := rfl

theorem viotaOp_eq : viotaOp f s = permResult f ((List.range (1024 / laneW f)).map fun i => (s.thr.rank f i, false)) s := by
  rw [viotaOp, ranksOf_active, List.map_map]
  rfl

end Ops

/-- Settles O13: first the permutations with an index, then the others. -/
theorem permutationsGiveLanes : Obligations.PermutationsGiveLanes := by
  intro s hs f w n at_ flagless k rank old
  refine ⟨fun hx hp => ?poisoned, fun hp => ⟨permResult_gives hs rfl (vbcastOp_eq hp), permResult_gives hs rfl (vslidednOp_eq hp),
      extendLane_eq f _ ▸ setX_gives hs rfl (vextrOp_eq hp), putLanes_writes hs rfl (vslideupOp_eq hp),
      fun hk => advances_of hs rfl (vinsOp_beyond hp hk), fun hk => putLanes_writes hs rfl (vinsOp_within hp hk)⟩,
    permResult_gives hs rfl vpermOp_eq, ?vcompress, permResult_gives hs rfl vexpandOp_eq, putLanes_writes hs rfl vselOp_eq,
    permResult_gives hs (exec_viota f s) viotaOp_eq⟩
  case poisoned =>
    have fault {i : Instr} {op : State → State × Res} {go : Nat → State × Res} (hi : exec i s = issue .barred 8 s op)
        (hop : op s = withIndex f s go) : Faults i s 0x51 0 0 := faults_of hs hi (hop.trans (withIndex_poisoned hx hp))
    exact ⟨fault (op := vbcastOp f) rfl rfl, fault (op := vextrOp f) rfl rfl, fault (op := vinsOp f) rfl rfl,
      fault (op := vslideupOp f) rfl rfl, fault (op := vslidednOp f) rfl rfl⟩
  case vcompress =>
    have h := putLanes_writes (i := .vcompress f) hs rfl vcompressOp_eq
    rwa [Thread.onLanes_eq] at h

end Sys2Proof.Machine

/-! ## Vector loads, stores and atomics (R210 to R215) -/

namespace Sys2Proof.Machine

/-! ### Addresses of lanes (R210) -/

section Addresses
variable (m : VAddr) (f : VX) (s : State)

/-- The address of lane i. -/
def State.laneAddr (i : Nat) : Nat :=
  match m with
  | .unit => (vecBase f s + BitVec.ofNat 64 (i * (laneW f / 8))).toNat
  | .stride => (vecBase f s + BitVec.ofNat 64 i * s.x f.vb).toNat
  | .index => (vecBase f s + vecOff f (s.thr.lane f.vb (laneW f) i).1).toNat
  | .once => (vecBase f s).toNat
  | .packed => (vecBase f s + BitVec.ofNat 64 (s.thr.rank f i * (laneW f / 8))).toNat

/-- The addresses without gaps go by the ranks of the lanes. -/
theorem packed_addrs (g : Nat → Nat) (acts : List Bool) (l : List Nat) (n : Nat) :
    (acts.foldl (fun (r : List Nat × Nat) o => (r.1 ++ [g r.2], if o then r.2 + 1 else r.2)) (l, n)).1 = l ++ (ranksOf n acts).map g := by
  induction acts generalizing l n with
  | nil => simp [ranksOf]
  | cons o acts ih => rw [List.foldl_cons, ih, ranksOf, List.map_cons, List.append_assoc, List.singleton_append]

theorem vecAddrs_eq : vecAddrs m f s = (List.range (1024 / laneW f)).map (s.laneAddr m f) := by
  cases m with
  | unit => rfl
  | stride => rfl
  | index =>
    rw [vecAddrs, Thread.lanes_eq, List.map_map]
    rfl
  | once =>
    refine Eq.trans ?_ (List.map_const' ..).symm
    rw [List.length_range]
    rfl
  | packed =>
    refine (packed_addrs (fun r => (vecBase f s + BitVec.ofNat 64 (r * (laneW f / 8))).toNat) _ [] 0).trans ?_
    rw [List.nil_append, ranksOf_active, List.map_map]
    rfl

/-- The active lanes in ascending order, with their addresses and what they hold. -/
theorem vecActive_eq : vecActive m f s = ((List.range (1024 / laneW f)).filter (s.thr.on f)).map fun i =>
    (i, s.laneAddr m f i, s.thr.lane f.vd (laneW f) i) := by
  have hidx (g : Nat → Nat × Lane1 × Bool) (n : Nat) : ((List.range n).map g).zipIdx = (List.range n).map fun i => (g i, i) := by
    apply List.ext_getElem <;> simp
  rw [vecActive, vecAddrs_eq, Thread.lanes_eq, Thread.active_eq, zip_range, zip_range, hidx, List.filter_map, List.map_map]
  rfl

/-- Nothing is accessed exactly when no lane is active. -/
theorem vecActive_eq_nil : vecActive m f s = [] ↔ ¬ ∃ i < laneN f, s.thr.on f i = true := by
  rw [vecActive_eq, List.map_eq_nil_iff, List.filter_eq_nil_iff]
  simp only [List.mem_range, not_exists, not_and]
  rfl

end Addresses

/-- A part of O48. -/
theorem vectorAddressesFollowForm : Stated.VectorAddressesFollowForm := by
  intro s f i hi base n off at_
  have haddr (m : VAddr) : at_ m = some (s.laneAddr m f i) := by
    have hget : (List.range (1024 / laneW f))[i]? = some i := List.getElem?_range hi
    rw [show at_ m = (vecAddrs m f s)[i]? from rfl, vecAddrs_eq, List.getElem?_map, hget]
    rfl
  have hoff : vecOff f = off := by
    funext v
    have he : (4 ≤ f.et.toNat && f.et.toNat < 8) = !(etS f.et.toNat || 8 ≤ f.et.toNat) := by
      rw [Bool.eq_iff_iff]
      simp [etS]
    simp only [vecOff, off, he, ofNat_ofInt]
    cases etS f.et.toNat || decide (8 ≤ f.et.toNat) <;> rfl
  exact ⟨haddr .unit, haddr .stride, hoff ▸ haddr .index, haddr .once, haddr .packed⟩

/-! ### How a vector access goes on (R211) -/

section Access
variable {k : Acc} {m : VAddr} {f : VX} {s q : State} {es : List (Nat × Nat × Lane1 × List Piece)}
  (go : State → List (Nat × Nat × Lane1 × List Piece) → State × Res)

theorem vecAccess_idle (h : ¬ ∃ i < laneN f, s.thr.on f i = true) : vecAccess k m f s go = go s [] := by
  rw [vecAccess, (vecActive_eq_nil m f s).mpr h]
  rfl

variable (h : ∃ i < laneN f, s.thr.on f i = true)
include h

theorem vecActive_isEmpty (m : VAddr) : ¬ (vecActive m f s).isEmpty = true := fun he =>
  (vecActive_eq_nil m f s).mp (List.isEmpty_iff.mp he) h

theorem vecAccess_poisoned (hp : vecPois m f s = true) : vecAccess k m f s go = (s, .fault 0x51 0 0) := by
  rw [vecAccess, if_neg (vecActive_isEmpty h m), if_pos hp]

variable (hp : vecPois m f s = false)
include hp

theorem vecAccess_stopped {r : Res} (hc : vecCheck k (laneW f / 8) (vecActive m f s) s = (q, .stop r)) :
    vecAccess k m f s go = (q, r) := by
  rw [vecAccess, if_neg (vecActive_isEmpty h m), hp, if_neg Bool.false_ne_true, hc]

theorem vecAccess_refused {c a : Nat} (hk : (k == .load) = false) (hc : vecCheck k (laneW f / 8) (vecActive m f s) s = (q, .ok es))
    (hd : vecDataCheck k (laneW f / 8) q es = some (c, a)) : vecAccess k m f s go = (q, .fault c a 0) := by
  rw [vecAccess, if_neg (vecActive_isEmpty h m), hp, if_neg Bool.false_ne_true, hc]
  simp only [hk, Bool.false_eq_true, if_false, hd]

theorem vecAccess_passed (hc : vecCheck k (laneW f / 8) (vecActive m f s) s = (q, .ok es))
    (hd : (k == .load) = false → vecDataCheck k (laneW f / 8) q es = none) : vecAccess k m f s go = go q es := by
  have hd' : (if k == .load then none else vecDataCheck k (laneW f / 8) q es) = none := by
    cases hk : k == .load with
    | true => rfl
    | false => exact (if_neg Bool.false_ne_true).trans (hd hk)
  rw [vecAccess, if_neg (vecActive_isEmpty h m), hp, if_neg Bool.false_ne_true, hc]
  simp only [hd']

end Access

/-- Checks that pass keep the lanes that they were made for. -/
theorem vecCheck_ok_length {k : Acc} {n : Nat} {es : List (Nat × Nat × Lane1)} {s q : State} {rs : List (Nat × Nat × Lane1 × List Piece)}
    (h : vecCheck k n es s = (q, .ok rs)) : rs.length = es.length := by
  induction es generalizing s q rs with
  | nil =>
    cases h
    rfl
  | cons e es ih =>
    rw [vecCheck] at h
    split at h
    · cases h
    · cases h
    · split at h
      · next heq =>
        cases h
        exact congrArg (· + 1) (ih heq)
      · next hnot => exact (hnot _ _ h).elim

/-! ### Lanes that a load or an atomic fills (R193, R213) -/

/-- Lane i when the lanes ls were read: the others count as inactive. -/
def Thread.filledLane (t : Thread) (f : VX) (ls : List (Nat × Lane1)) (i : Nat) : Lane1 :=
  match ls.find? (fun l => l.1 == i) with
  | some l => l.2
  | none => idle f (t.lane f.vd (laneW f) i)

/-- The destination with its lanes filled. -/
def Thread.filled (t : Thread) (f : VX) (ls : List (Nat × Lane1)) : Thread :=
  t.putLanes f.vd (laneW f) ((List.range (laneN f)).map (t.filledLane f ls))

theorem vecLoaded_eq (f : VX) (ls : List (Nat × Lane1)) (s : State) : vecLoaded f ls s = s.setThr (s.thr.filled f ls) :=
  congrArg (fun l => s.setThr (s.thr.putLanes f.vd (laneW f) l)) (Thread.lanes_zipIdx_map ..)

/-! ### Loads -/

section Loads
variable {s q r : State} {i : Instr} {m : VAddr} {f : VX} {es : List (Nat × Nat × Lane1 × List Piece)} {bs : List PByte}
  {ls : List (Nat × Lane1)}

theorem vecLoad_acts (hs : s.Ready) (hi : exec i s = issue .barred 8 s (vecLoad m f)) :
    let any := ∃ i < laneN f, s.thr.on f i = true
    let n := laneW f / 8
    (any → vecPois m f s = true → Faults i s 0x51 0 0)
    ∧ (¬ any → Effects i s (s.setThr (s.thr.filled f [])) 8)
    ∧ (any → vecPois m f s = false →
      (∀ q c a, vecCheck .load n (vecActive m f s) s = (q, .stop (.fault c a 0)) → FaultsAt i s q c a 0)
      ∧ ∀ q es r bs ls, vecCheck .load n (vecActive m f s) s = (q, .ok es) → vecLoads es q = (r, .bytes bs, ls) →
        let r' := r.notePload r.cur.1 bs
        Effects i s (r'.setThr (r'.thr.filled f ls)) 8) := by
  intro any n
  refine ⟨fun h hp => faults_of hs hi (vecAccess_poisoned _ h hp), fun h => effects_of hs hi ?idle, fun h hp => ⟨fun q c a hc => ?stop,
    fun q es r bs ls hc hl => effects_of hs hi ?loaded⟩⟩
  case idle => exact (vecAccess_idle _ h).trans (congrArg (·, Res.done) (vecLoaded_eq ..))
  case stop => exact faultsAt_of hs hi (vecAccess_stopped _ h hp hc)
  case loaded =>
    rw [vecLoad, vecAccess_passed _ h hp hc nofun, hl]
    exact congrArg (·, Res.done) (vecLoaded_eq ..)

theorem vecLoadOnce_passed (h : ∃ i < laneN f, s.thr.on f i = true) (hp : vecPois .once f s = false) {l : Nat × Lane1}
    (hc : vecCheck .load (laneW f / 8) (vecActive .once f s) s = (q, .ok es)) (hl : vecLoads (es.take 1) q = (r, .bytes bs, [l])) :
    let r' := r.notePload r.cur.1 bs
    vecLoadOnce f s = (r'.setThr (r'.thr.filled f (es.map fun e => (e.1, l.2))), .done) := by
  rw [vecLoadOnce, vecAccess_passed _ h hp hc nofun, hl]
  exact congrArg (·, Res.done) (vecLoaded_eq ..)

theorem vecLoadFirst_of_ok (hc : vecFirst f s = (q, .ok es)) (hl : vecLoads es q = (r, .bytes bs, ls)) :
    let r' := r.notePload r.cur.1 bs
    vecLoadFirst f s = (r'.setThr ((r'.thr.filled f ls).setP f.vc.toNat
      (predOf (laneW f) ((List.range (laneN f)).map fun i => ls.any fun l => l.1 == i))), .done) := by
  intro r'
  rw [vecLoadFirst, hc]
  simp only [hl, vecLoaded_eq, State.thr_setThr, State.setThr_setThr, r']

end Loads

/-- A part of O48. -/
theorem vectorLoadsFillLanes : Stated.VectorLoadsFillLanes := by
  intro s hs f n any put acts
  refine ⟨vecLoad_acts hs rfl, vecLoad_acts hs rfl, vecLoad_acts hs rfl, fun h hp => faults_of hs rfl (vecAccess_poisoned _ h hp),
    fun h => effects_of hs rfl ?idle, fun h hp q es r bs l hc hl => effects_of hs rfl (vecLoadOnce_passed h hp hc hl),
    fun q es r bs ls hc hl => effects_of hs rfl (vecLoadFirst_of_ok hc hl)⟩
  case idle => exact (vecAccess_idle _ h).trans (congrArg (·, Res.done) (vecLoaded_eq ..))

/-- Settles O48: the lanes, then their addresses. -/
theorem vectorLoadsAct : Obligations.VectorLoadsAct := ⟨vectorLoadsFillLanes, vectorAddressesFollowForm⟩

/-! ### Stores -/

section Stores
variable {s : State} {i : Instr} {m : VAddr} {f : VX}

theorem vecStore_acts (hs : s.Ready) (hi : exec i s = issue .barred 8 s (vecStore m f)) :
    let any := ∃ i < laneN f, s.thr.on f i = true
    let n := laneW f / 8
    (any → vecPois m f s = true → Faults i s 0x51 0 0) ∧ (¬ any → Advances i s 8)
    ∧ (any → vecPois m f s = false → ∀ q es, vecCheck .store n (vecActive m f s) s = (q, .ok es) →
      (∀ c a, vecDataCheck .store n q es = some (c, a) → FaultsAt i s q c a 0)
      ∧ (vecDataCheck .store n q es = none → ∀ r g,
        q.storeChecked q.cur.1 q.cur.2 (es.map fun e => (e.2.1, e.2.2.2, pbytes n e.2.2.1.1 e.2.2.1.2)) = (r, .bytes g) →
        Effects i s r 8)) := by
  intro any n
  refine ⟨fun h hp => faults_of hs hi (vecAccess_poisoned _ h hp), fun h => advances_of hs hi (vecAccess_idle _ h),
    fun h hp q es hc => ⟨fun c a hd => faultsAt_of hs hi (vecAccess_refused _ h hp rfl hc hd), fun hd r g hst => effects_of hs hi ?stored⟩⟩
  case stored =>
    have hne : ¬ es.isEmpty = true := fun he => by
      have hlen := vecCheck_ok_length hc
      rw [List.isEmpty_iff.mp he] at hlen
      exact vecActive_isEmpty h m (List.isEmpty_iff_length_eq_zero.mpr hlen.symm)
    rw [vecStore, vecAccess_passed _ h hp hc fun _ => hd, if_neg hne]
    exact Got.bind_bytes _ hst

end Stores

/-- Settles O15: the forms of a store differ in their addresses only. -/
theorem vectorStoresPutLanes : Obligations.VectorStoresPutLanes := fun _ hs _ =>
  ⟨vecStore_acts hs rfl, vecStore_acts hs rfl, vecStore_acts hs rfl, vecStore_acts hs rfl⟩

/-! ### Atomics -/

section Atomics
variable {s : State} {i : Instr} {f : VX}

/-- Whether a lane is still to be performed on a line with an active object (R211, R230). -/
def State.laneBarred (q : State) (e : Nat × Nat × Lane1 × List Piece) : Bool :=
  (q.thr.gotAt (amoTag e.1)).isNone && q.amoBarred e.2.2.2

theorem vecAmo_acts (hs : s.Ready) {op : Nat} (hi : exec i s = issue .barred 8 s (vecAmo op f)) :
    let any := ∃ i < laneN f, s.thr.on f i = true
    let n := laneW f / 8
    (any → vecPois .index f s = true → Faults i s 0x51 0 0)
    ∧ (¬ any → Effects i s (s.setThr (s.thr.filled f [])) 8)
    ∧ (any → vecPois .index f s = false → ∀ q es, vecCheck .atomic n (vecActive .index f s) s = (q, .ok es) →
      vecDataCheck .atomic n q es = none →
      (∀ e, es.find? q.laneBarred = some e → FaultsAt i s q 0x64 e.2.1 0)
      ∧ ((∀ e ∈ es, q.laneBarred e = false) → ∀ r bs ls, vecAmos op es q = (r, .bytes bs, ls) →
        Effects i s (r.setThr (r.thr.filled f ls)) 8)) := by
  intro any n
  refine ⟨fun h hp => faults_of hs hi (vecAccess_poisoned _ h hp), fun h => effects_of hs hi ?idle, fun h hp q es hc hd =>
    ⟨fun e he => faultsAt_of hs hi ?barred, fun hclear r bs ls hl => effects_of hs hi ?performed⟩⟩
  case idle => exact (vecAccess_idle _ h).trans (congrArg (·, Res.done) (vecLoaded_eq ..))
  case barred =>
    rw [vecAmo, vecAccess_passed _ h hp hc fun _ => hd]
    have hfind : es.find? (fun e => (q.thr.gotAt (amoTag e.1)).isNone && q.amoBarred e.2.2.2) = some e := he
    simp only [hfind]
  case performed =>
    have hfind : es.find? (fun e => (q.thr.gotAt (amoTag e.1)).isNone && q.amoBarred e.2.2.2) = none :=
      List.find?_eq_none.mpr fun e he => Bool.eq_false_iff.mp (hclear e he)
    rw [vecAmo, vecAccess_passed _ h hp hc fun _ => hd]
    simp only [hfind, hl, vecLoaded_eq]

end Atomics

/-- Settles O16, operation by operation. -/
theorem vectorAtomicsGiveOldValues : Obligations.VectorAtomicsGiveOldValues := fun _ hs _ =>
  ⟨vecAmo_acts hs rfl, vecAmo_acts hs rfl, vecAmo_acts hs rfl, vecAmo_acts hs rfl, vecAmo_acts hs rfl⟩

end Sys2Proof.Machine

/-! ## Special functions (R206 to R209) -/

namespace Sys2Proof.Machine

/-! ### The queue (R208, R209) -/

section Queue
variable {s : State} {i : Instr} {f : VX} {fn : Nat}

/-- The state in which the current thread has taken a free entry of the queue for its operand. -/
def State.sfuTaken (s : State) (f : VX) : State :=
  s.setTk { s.tk with sfu := s.tk.sfu ++ [⟨s.cur.2, BitVec.ofNat 1024 (ofLanes (laneW f) ((s.thr.bOwn f none).map Prod.fst)), false⟩] }

theorem State.sfuTaken_task (s : State) (f : VX) : (s.sfuTaken f).thr = s.thr ∧ (s.sfuTaken f).tk.core = s.tk.core := by
  constructor <;> simp [State.sfuTaken, State.thr, State.tk, State.setTk, State.thread, Task.thread, Task.core]

/-- Taking an entry leaves the thread as ready as it was. -/
theorem State.Ready.sfuTaken (h : s.Ready) (f : VX) : (s.sfuTaken f).Ready := by
  obtain ⟨hthr, hcore⟩ := s.sfuTaken_task f
  obtain ⟨hrun, hpacket, hshadow, hdebug⟩ := h
  exact ⟨hthr ▸ hrun, hthr ▸ hpacket, hthr ▸ hshadow, hcore ▸ hdebug⟩

theorem sfuOp_waits (h : s.tk.sfuTurn s.cur.2 = false) : sfuOp fn f s = (s, .wait .sfu) := by
  rw [sfuOp, h, if_neg Bool.false_ne_true]

theorem sfuOp_taken (h : s.tk.sfuTurn s.cur.2 = true) :
    sfuOp fn f s = vec1 (sfuLane fn f.et.toNat (s.sfuTaken f).thr.fz) f (s.thr.bOwn f none) (s.sfuTaken f) := if_pos h

/-- What a special function does: the wait for an entry, or its lane results (R206, R208). -/
theorem sfuOp_acts (hs : s.Ready) (hi : exec i s = issue .barred 8 s (sfuOp fn f)) :
    let r := s.thr.map1 f false none (sfuLane fn f.et.toNat (s.thr.tflags.getLsbD 3))
    (s.tk.sfuTurn s.cur.2 = false → Waits i s .sfu)
    ∧ (s.tk.sfuTurn s.cur.2 = true → ∃ (e : SfuEntry) (t : State), e.slot = s.cur.2 ∧ e.cancelled = false ∧ exec i s = .next t
      ∧ WritesV (s.setTk { s.tk with sfu := s.tk.sfu ++ [e] }) t f.vd (laneW f) (s.thr.governedLane f r) (s.thr.laneFlags f r) 8) := by
  intro r
  refine ⟨fun h => waits_of hs hi nofun (sfuOp_waits h), fun h => ?_⟩
  obtain ⟨hthr, -⟩ := s.sfuTaken_task f
  have hvec : vec1 (sfuLane fn f.et.toNat (s.sfuTaken f).thr.fz) f (s.thr.bOwn f none) (s.sfuTaken f) =
      vecResult f ((List.range (1024 / laneW f)).map r) (s.sfuTaken f) := by
    rw [vec1, hthr, Thread.bOwn, Thread.bLanes_eq, List.map_map]
    rfl
  obtain ⟨t, ht, hw⟩ := issue_vecResult (hs.sfuTaken f) .barred 8 (fun _ => sfuOp fn f s) f r ((sfuOp_taken h).trans hvec)
  rw [hthr] at hw
  refine ⟨_, t, rfl, rfl, ?_, hw⟩
  rw [hi, issue_ready hs, ← ht, issue_ready (hs.sfuTaken f)]
  rfl

end Queue

/-- A part of O47. -/
theorem specialFunctionsGiveLanes : Stated.SpecialFunctionsGiveLanes := fun _ hs _ =>
  ⟨sfuOp_acts hs rfl, sfuOp_acts hs rfl, sfuOp_acts hs rfl, sfuOp_acts hs rfl, sfuOp_acts hs rfl, sfuOp_acts hs rfl,
    sfuOp_acts hs rfl, sfuOp_acts hs rfl⟩

/-! ### Special operands (R207) -/

section Operands
variable {f : FF} {c : Nat}

/-- The bits of a number above its format say nothing. -/
theorem FF.value_mod (f : FF) (c : Nat) : f.value (c % 2 ^ f.width) = f.value c := by
  have hw : f.width = f.fb + (f.eb + 1) := by
    rw [FF.width]
    omega
  have hneg : f.neg (c % 2 ^ f.width) = f.neg c := by
    have hw' : 2 ^ f.width = 2 ^ (f.eb + f.fb) * 2 := by rw [← Nat.pow_succ, FF.width, Nat.succ_eq_add_one, Nat.add_assoc, Nat.add_comm 1]
    rw [FF.neg, FF.neg, bitAt, bitAt, hw', Nat.mod_mul_right_div_self, Nat.mod_mod]
  have hexp : f.expOf (c % 2 ^ f.width) = f.expOf c := by
    rw [FF.expOf, FF.expOf, hw, pow_add, Nat.mod_mul_right_div_self, Nat.mod_mod_of_dvd _ (pow_dvd_pow 2 (by omega))]
  have hfrac : f.fracOf (c % 2 ^ f.width) = f.fracOf c := Nat.mod_mod_of_dvd _ (pow_dvd_pow 2 (by omega))
  rw [FF.value_def, FF.value_def, hneg, hexp, hfrac]

/-- A subnormal is a number, so flushing keeps NaNs and infinities (R91). -/
theorem FF.value_flush (hf : f.Lawful) (fz : Bool) (h : ∀ n m e, f.value c ≠ .fin n m e) : f.value (f.flush fz c) = f.value c := by
  have hsub : f.isSub c = false := by
    rw [Bool.eq_false_iff]
    exact fun hsub => h _ _ _ (FF.value_of_expOf_zero hf (FF.isSub_iff.mp hsub).1)
  rw [FF.flush, hsub, Bool.and_false, if_neg Bool.false_ne_true, FF.value_mod]

/-- The zero of a sign. -/
def FF.zero (f : FF) (n : Bool) : Nat := if n then f.signBit else 0

theorem FF.value_flush_zero (hf : f.Lawful) (fz n : Bool) : f.value (f.flush fz (f.zero n)) = .fin n 0 (1 - (f.bias : Int) - f.fb) := by
  have hneg : f.neg (f.zero n) = n := by
    cases n
    · simp [FF.zero, FF.neg, bitAt]
    · simp [FF.zero, FF.neg, bitAt, FF.signBit]
  have hexp : f.expOf (f.zero n) = 0 := by
    cases n
    · simp [FF.zero, FF.expOf]
    · simp [FF.zero, FF.expOf, FF.signBit, pow_add]
  have hfrac : f.fracOf (f.zero n) = 0 := by
    cases n
    · simp [FF.zero, FF.fracOf]
    · simp [FF.zero, FF.fracOf, FF.signBit, pow_add]
  have hsub : f.isSub (f.zero n) = false := Bool.eq_false_iff.mpr fun h => (FF.isSub_iff.mp h).2 hfrac
  rw [FF.flush, hsub, Bool.and_false, if_neg Bool.false_ne_true, FF.value_mod, FF.value_of_expOf_zero hf hexp, hneg, hfrac]

end Operands

/-- A part of O47. -/
theorem specialFunctionsAtSpecialOperands : Stated.SpecialFunctionsAtSpecialOperands := by
  intro et fz _ _ f sg one
  have hf : f.Lawful := ffOf_lawful et
  refine ⟨fun c q hc fn _ => ?nan, fun c n hc => ?inf, fun n => ?zero⟩
  case nan =>
    have hv : (ffOf et).value ((ffOf et).flush fz c) = .nan q := (FF.value_flush hf fz (by simp [hc])).trans hc
    simp only [sfuLane, hv]
    rfl
  case inf =>
    have hv : (ffOf et).value ((ffOf et).flush fz c) = .inf n := (FF.value_flush hf fz (by simp [hc])).trans hc
    simp only [sfuLane, hv]
    exact ⟨rfl, rfl, rfl, rfl, rfl, rfl, rfl, rfl⟩
  case zero =>
    have hv : (ffOf et).value ((ffOf et).flush fz (sg n)) = _ := FF.value_flush_zero hf fz n
    simp only [sfuLane, hv]
    exact ⟨rfl, rfl, rfl, rfl, rfl, rfl, rfl⟩

/-- Settles O47: the lanes through the queue, then the special operands. -/
theorem specialFunctionsAct : Obligations.SpecialFunctionsAct := ⟨specialFunctionsGiveLanes, specialFunctionsAtSpecialOperands⟩

end Sys2Proof.Machine

/-! ## Taking a fault, and its reflection (R209, R335, R376, R377, R381, R382) -/

namespace Sys2Proof.Machine

/-! ### A fault stops its thread -/

section Stops
variable (s : State) (tid slot : Nat)

/-- A thread that stops leaves its rendezvous, gives up its special functions and the answers it waits for (R145, R209). -/
def State.stopsAs (t : Thread) : State := (((s.setThread tid slot t).leaveRdv tid slot).cancelSfu tid slot).orphanLoads tid slot

/-- Leaving a rendezvous changes the synchronisation points of its task at most. -/
theorem State.leaveRdv_eq : s.leaveRdv tid slot = s ∨ ∃ ps, s.leaveRdv tid slot = s.setTask tid { s.task tid with points := ps } := by
  unfold State.leaveRdv
  dsimp only
  split
  · exact .inr ⟨_, rfl⟩
  · exact .inl rfl

/-- Of the stopping thread's task nothing else changes than that thread, the points and the queue. -/
theorem State.task_stopsAs (t : Thread) : ∃ ps q, (s.stopsAs tid slot t).task tid = { (s.task tid).setThread slot t with points := ps, sfu := q } := by
  unfold State.stopsAs State.cancelSfu
  rw [State.orphanLoads_task, State.task_setTask_self]
  obtain h | ⟨ps, h⟩ := State.leaveRdv_eq (s.setThread tid slot t) tid slot
  · rw [h, State.task_setThread_self]
    exact ⟨_, _, rfl⟩
  · rw [h, State.task_setTask_self, State.task_setThread_self]
    exact ⟨_, _, rfl⟩

theorem State.task_stopsAs_other (t : Thread) {o : Nat} (ho : o ≠ tid) : (s.stopsAs tid slot t).task o = s.task o := by
  unfold State.stopsAs State.cancelSfu
  rw [State.orphanLoads_task, State.task_setTask, if_neg ho]
  obtain h | ⟨ps, h⟩ := State.leaveRdv_eq (s.setThread tid slot t) tid slot
  · rw [h, State.task_setThread, if_neg ho]
  · rw [h, State.task_setTask, if_neg ho, State.task_setThread, if_neg ho]

/-- Stopping a thread accesses no memory and no context. -/
theorem State.stopsAs_frame (t : Thread) : (s.stopsAs tid slot t).mem = s.mem ∧ (s.stopsAs tid slot t).ctxs = s.ctxs := by
  unfold State.stopsAs State.cancelSfu
  obtain h | ⟨ps, h⟩ := State.leaveRdv_eq (s.setThread tid slot t) tid slot <;> rw [h] <;> exact ⟨rfl, rfl⟩

theorem State.traceOn_stopsAs (t : Thread) : (s.stopsAs tid slot t).traceOn ((s.stopsAs tid slot t).task tid) = s.traceOn (s.task tid) := by
  obtain ⟨-, hctxs⟩ := s.stopsAs_frame tid slot t
  obtain ⟨ps, q, htask⟩ := s.task_stopsAs tid slot t
  rw [htask, State.traceOn, State.traceOn, State.ctx, State.ctx, hctxs]
  rfl

/-- Without trace a record is written nowhere. -/
theorem State.traceRec_off {s : State} {tid : Nat} (slot ty fl v : Nat) (h : s.traceOn (s.task tid) = false) : s.traceRec tid slot ty fl v = s := by
  unfold State.traceRec
  dsimp only
  rw [h]
  rfl

variable (code kind addr i1 i2 : Nat)

/-- A fault stops its thread, and writes a trace record. -/
theorem State.takeFault_eq : ∃ t, s.takeFault tid slot code kind addr i1 i2 = (s.stopsAs tid slot t).traceRec tid slot 5 0 code := ⟨_, rfl⟩

theorem State.takeFault_thread_other {j : Nat} (hj : j ≠ slot) :
    (s.takeFault tid slot code kind addr i1 i2).thread tid j = s.thread tid j := by
  obtain ⟨t, ht⟩ := s.takeFault_eq tid slot code kind addr i1 i2
  obtain ⟨ps, q, htask⟩ := s.task_stopsAs tid slot t
  rw [State.thread, ht, State.traceRec_task, htask]
  exact ((s.task tid).thread_setThread slot j t).trans (if_neg hj)

theorem State.takeFault_task_other {o : Nat} (ho : o ≠ tid) : (s.takeFault tid slot code kind addr i1 i2).task o = s.task o := by
  obtain ⟨t, ht⟩ := s.takeFault_eq tid slot code kind addr i1 i2
  rw [ht, State.traceRec_task, s.task_stopsAs_other tid slot t ho]

theorem State.takeFault_mem (h : s.traceOn (s.task tid) = false) : (s.takeFault tid slot code kind addr i1 i2).mem = s.mem := by
  obtain ⟨t, ht⟩ := s.takeFault_eq tid slot code kind addr i1 i2
  rw [ht, State.traceRec_off _ _ _ _ ((s.traceOn_stopsAs tid slot t).trans h)]
  exact (s.stopsAs_frame tid slot t).1

end Stops

/-- A part of O60. -/
theorem faultsStopThreads : Stated.FaultsStopThreads := by
  intro s tid slot code kind addr i1 i2 t k u n
  have hn : n = _ := s.takeFault_thread tid slot code kind addr i1 i2
  rw [hn]
  exact ⟨rfl, rfl, rfl, rfl, rfl, rfl, rfl, rfl, rfl, rfl, rfl, rfl, fun j hj => s.takeFault_thread_other tid slot _ _ _ _ _ hj,
    fun o ho => s.takeFault_task_other tid slot _ _ _ _ _ ho, fun h => s.takeFault_mem tid slot _ _ _ _ _ h⟩

/-! ### Numbers laid out one behind the other -/

/-- The little-endian bytes of numbers of given widths, one behind the other. -/
def fieldBytes (fs : List (Nat × Nat)) : List Byte := fs.flatMap fun p => leBytes p.1 p.2

/-- Where the fields behind the first j begin. -/
def fieldOff (fs : List (Nat × Nat)) (j : Nat) : Nat := ((fs.take j).map Prod.fst).sum

theorem leNat_leBytes_mod (n v : Nat) : leNat (leBytes n v) = v % 256 ^ n := by
  induction n generalizing v with
  | zero => rw [pow_zero, Nat.mod_one]; rfl
  | succ n ih =>
    rw [leBytes, leNat, ih, BitVec.toNat_ofNat, Nat.pow_succ' (m := 256), Nat.mod_mul (a := 256)]

/-- Field j stands behind the fields before it. -/
theorem fieldBytes_split {fs : List (Nat × Nat)} {j n v : Nat} (hj : fs[j]? = some (n, v)) :
    ∃ pre post, fieldBytes fs = pre ++ (leBytes n v ++ post) ∧ pre.length = fieldOff fs j := by
  refine ⟨fieldBytes (fs.take j), fieldBytes (fs.drop (j + 1)), ?_, ?_⟩
  · obtain ⟨hlt, hget⟩ := List.getElem?_eq_some_iff.mp hj
    have hsplit : fs = fs.take j ++ (n, v) :: fs.drop (j + 1) := by rw [← hget, List.getElem_cons_drop, List.take_append_drop]
    conv_lhs => rw [hsplit]
    simp [fieldBytes]
  · simp [fieldBytes, fieldOff, List.length_flatMap, length_leBytes]

/-- Clean bytes in memory. -/
def cleanBytes (bs : List Byte) : List PByte := bs.map fun b => ⟨b, false⟩

/-- A part of what was written reads as it was written. -/
theorem Memory.read_write_part (m : Memory) (key : Nat) (pre mid post : List Byte) :
    ((m.write key (cleanBytes (pre ++ (mid ++ post)))).read (key + pre.length) mid.length).map PByte.b = mid := by
  apply List.ext_getElem
  · simp [Memory.read]
  · intro i h₁ h₂
    have hin : key ≤ key + pre.length + i ∧ key + pre.length + i < key + (cleanBytes (pre ++ (mid ++ post))).length := by
      simp only [cleanBytes, List.length_map, List.length_append]
      omega
    have hoff : key + pre.length + i - key = pre.length + i := by omega
    have hclean (bs : List Byte) : (cleanBytes bs).map PByte.b = bs := by simp [cleanBytes, Function.comp_def]
    simp only [Memory.read, List.map_map, List.getElem_map, List.getElem_range, Function.comp_apply, Memory.pbyte]
    rw [Memory.byte_write, if_pos hin, hclean, hoff, List.getD_append_right _ _ _ _ (by omega), Nat.add_sub_cancel_left,
      List.getD_append _ _ _ _ h₂, List.getD_eq_getElem _ _ h₂]

/-- A number of the layout reads back, cut to its width. -/
theorem Memory.read_field (m : Memory) (key : Nat) {fs : List (Nat × Nat)} {j n v : Nat} (hj : fs[j]? = some (n, v)) :
    ((m.write key (cleanBytes (fieldBytes fs))).read (key + fieldOff fs j) n).map PByte.b = leBytes n v := by
  obtain ⟨pre, post, hbytes, hpre⟩ := fieldBytes_split hj
  have h := m.read_write_part key pre (leBytes n v) post
  rwa [← hbytes, hpre, length_leBytes] at h

/-! ### The trap frame -/

/-- The bits of the poisoned x registers. -/
def Thread.xpNat (t : Thread) : Nat := (List.range 32).foldl (fun w i => if t.xpr (BitVec.ofNat 5 i) then w + 2 ^ i else w) 0

/-- The numbers of a trap frame behind its x registers, with their widths: their poison, lr, TFLAGS, pc, 32 bytes of 0, and the record (R377,
R382). -/
def Thread.frameRest (t : Thread) (r : FaultRec) (seq : Nat) : List (Nat × Nat) :=
  [(8, t.xpNat), (8, t.lr.toNat), (8, t.tflags.toNat), (8, t.pc.toNat), (32, 0), (8, seq), (1, r.code), (1, r.kind), (1, r.slot),
    (1, r.flags), (2, r.core), (1, r.action), (1, 0), (8, r.ctime), (4, r.kid), (4, r.w0), (8, r.pc), (8, r.addr), (8, r.info1), (8, r.info2)]

/-- The numbers of a trap frame. -/
def Thread.frameFields (t : Thread) (r : FaultRec) (seq : Nat) : List (Nat × Nat) :=
  (List.range 32).map (fun i => (8, (t.xr (BitVec.ofNat 5 i)).toNat)) ++ t.frameRest r seq

theorem Thread.frame_eq (t : Thread) (r : FaultRec) (seq : Nat) : t.frame r seq = fieldBytes (t.frameFields r seq) := by
  have hzero : leBytes 32 0 = List.replicate 32 0 := rfl
  simp only [Thread.frame, FaultRec.bytes, fieldBytes, Thread.frameFields, Thread.frameRest, List.flatMap_append, List.flatMap_map, List.flatMap_cons,
    List.flatMap_nil, List.append_nil, List.append_assoc, hzero]
  rfl

section Layout
variable (t : Thread) (r : FaultRec) (seq : Nat)

/-- The field of an x register. -/
theorem Thread.frameFields_x (i : Reg) : (t.frameFields r seq)[i.toNat]? = some (8, (t.xr i).toNat) ∧
    fieldOff (t.frameFields r seq) i.toNat = 8 * i.toNat := by
  have hi : i.toNat < 32 := i.isLt
  constructor
  · rw [Thread.frameFields, List.getElem?_append_left (by simpa using hi), List.getElem?_map, List.getElem?_range hi, Option.map_some,
      BitVec.ofNat_toNat, BitVec.setWidth_eq]
  · rw [fieldOff, Thread.frameFields, List.take_append_of_le_length (by simpa using hi.le), ← List.map_take, List.map_map, List.take_range,
      Nat.min_eq_left hi.le]
    simp [Function.comp_def, Nat.mul_comm]

/-- The fields behind the 256 bytes of the x registers. -/
theorem Thread.frameFields_rest (k : Nat) : (t.frameFields r seq)[32 + k]? = (t.frameRest r seq)[k]? ∧
    fieldOff (t.frameFields r seq) (32 + k) = 256 + fieldOff (t.frameRest r seq) k := by
  have hlen : ((List.range 32).map fun i => (8, (t.xr (BitVec.ofNat 5 i)).toNat)).length = 32 := by simp
  constructor
  · rw [Thread.frameFields, List.getElem?_append_right (by omega), hlen, Nat.add_sub_cancel_left]
  · rw [fieldOff, Thread.frameFields, List.take_append, hlen, Nat.add_sub_cancel_left, List.take_of_length_le (by omega), List.map_append,
      List.sum_append, List.map_map, fieldOff]
    simp [Function.comp_def]

theorem Thread.length_frame : (fieldBytes (t.frameFields r seq)).length = 384 := by
  simp [fieldBytes, Thread.frameFields, Thread.frameRest, List.length_flatMap, length_leBytes, Function.comp_def]

end Layout

section Reflects
variable {s : State} {tid slot seq : Nat} {r : FaultRec}

/-- The key of a thread's trap frame (R382). -/
def State.trapKey (s : State) (tid slot : Nat) : Nat := s.cmOf tid ((s.task tid).lrec.cmsize * 1024 + 384 * slot)

/-- The numbers of the frame that reflection writes: the record has ACTION = 2 (R381). -/
def State.trapFields (s : State) (tid slot seq : Nat) (r : FaultRec) : List (Nat × Nat) :=
  (s.thread tid slot).frameFields { r with action := 2 } seq

/-- What reflection does: the frame, and the thread READY at TRAPENT with its cancelled special functions done. -/
theorem State.reflect_eq (h : (s.thread tid slot).frec = some r) : s.reflect tid slot seq =
    { (s.setThread tid slot { s.thread tid slot with
      st := .ready, pc := (s.task tid).trapent, frec := none, handed := false, held := none,
      fltrec := BitVec.ofNat 64 (0x100 + r.code) }).redoSfu tid slot with
      mem := s.mem.write (s.trapKey tid slot) (cleanBytes (fieldBytes (s.trapFields tid slot seq r))) } := by
  have h' : ((s.task tid).thread slot).frec = some r := h
  rw [State.trapFields, ← Thread.frame_eq, State.reflect, h']
  rfl

/-- A number of the frame as it reads after the reflection. -/
theorem State.trapField (h : (s.thread tid slot).frec = some r) {j n v o : Nat} (hj : (s.trapFields tid slot seq r)[j]? = some (n, v))
    (ho : fieldOff (s.trapFields tid slot seq r) j = o) :
    ((s.reflect tid slot seq).mem.read (s.trapKey tid slot + o) n).map PByte.b = leBytes n v := by
  rw [State.reflect_eq h, ← ho]
  exact s.mem.read_field _ hj

/-- A number behind the x registers as it reads after the reflection. -/
theorem State.trapField_rest (h : (s.thread tid slot).frec = some r) (k : Nat) {n v o : Nat}
    (hk : ((s.thread tid slot).frameRest { r with action := 2 } seq)[k]? = some (n, v))
    (ho : 256 + fieldOff ((s.thread tid slot).frameRest { r with action := 2 } seq) k = o) :
    ((s.reflect tid slot seq).mem.read (s.trapKey tid slot + o) n).map PByte.b = leBytes n v := by
  obtain ⟨hget, hoff⟩ := (s.thread tid slot).frameFields_rest { r with action := 2 } seq k
  exact State.trapField h (hget.trans hk) (hoff.trans ho)

/-- Outside the frame no byte of memory changes. -/
theorem State.reflect_byte_outside (h : (s.thread tid slot).frec = some r) {a : Nat}
    (ha : ¬(s.trapKey tid slot ≤ a ∧ a < s.trapKey tid slot + 384)) : (s.reflect tid slot seq).mem.byte a = s.mem.byte a := by
  have hlen : (cleanBytes (fieldBytes (s.trapFields tid slot seq r))).length = 384 := by
    rw [cleanBytes, List.length_map, State.trapFields, Thread.length_frame]
  rw [State.reflect_eq h]
  exact (Memory.byte_write ..).trans (if_neg (hlen ▸ ha))

/-- The 32 bytes behind pc are 0 (R382). -/
theorem State.reflect_byte_zero (h : (s.thread tid slot).frec = some r) {j : Nat} (hj : j < 32) :
    (s.reflect tid slot seq).mem.byte (s.trapKey tid slot + 0x120 + j) = 0 := by
  have hread := congrArg (·[j]?) (State.trapField_rest (seq := seq) h 4 (o := 0x120) rfl (by simp [fieldOff, Thread.frameRest]))
  have hzero : (leBytes 32 0)[j]? = some 0 := by
    rw [show leBytes 32 0 = List.replicate 32 0 from rfl, List.getElem?_replicate, if_pos hj]
  simpa [Memory.read, Memory.pbyte, hj, hzero] using hread

end Reflects

/-! ### The bits of the poisoned registers -/

theorem foldl_powers (b : Nat → Bool) (l : List Nat) (w : Nat) :
    l.foldl (fun w i => if b i then w + 2 ^ i else w) w = w + (l.map fun i => if b i then 2 ^ i else 0).sum := by
  induction l generalizing w with
  | nil => rfl
  | cons i l ih =>
    rw [List.foldl_cons, ih, List.map_cons, List.sum_cons]
    cases b i
    · rw [if_neg Bool.false_ne_true, if_neg Bool.false_ne_true, Nat.zero_add]
    · rw [if_pos rfl, if_pos rfl, Nat.add_assoc]

theorem Thread.bitAt_xpNat (t : Thread) (i : Reg) : bitAt (t.xpNat % 2 ^ 64) i.toNat = t.xpr i := by
  have hi : i.toNat < 32 := i.isLt
  have hbit : bitAt (t.xpNat % 2 ^ 64) i.toNat = (t.xpNat % 2 ^ 64).testBit i.toNat := by
    rw [Nat.testBit_eq_decide_div_mod_eq]
    rfl
  rw [hbit, Nat.testBit_mod_two_pow, decide_eq_true (by omega), Bool.true_and, Thread.xpNat, foldl_powers (fun i => t.xpr (BitVec.ofNat 5 i)),
    Nat.zero_add, testBit_range, decide_eq_true hi, Bool.true_and, BitVec.ofNat_toNat, BitVec.setWidth_eq]

/-- A part of O60. -/
theorem faultsAreReflected : Stated.FaultsAreReflected := by
  intro s tid slot seq r t k hrec u key num
  have field (k : Nat) {n v o m : Nat} (hk : (t.frameRest { r with action := 2 } seq)[k]? = some (n, v))
      (ho : 256 + fieldOff (t.frameRest { r with action := 2 } seq) k = o := by simp [fieldOff, Thread.frameRest])
      (hm : 256 ^ n = m := by norm_num) : num o n = v % m :=
    hm ▸ (congrArg leNat (State.trapField_rest hrec k hk ho)).trans (leNat_leBytes_mod n v)
  have word (v : Word) : v.toNat % 2 ^ 64 = v.toNat := Nat.mod_eq_of_lt v.isLt
  refine ⟨?state, fun a ha => State.reflect_byte_outside hrec ha, fun i => ?x, fun i => ?xp, (field 1 rfl).trans (word _),
    (field 2 rfl).trans (word _), (field 3 rfl).trans (word _), fun j hj => State.reflect_byte_zero hrec hj, field 5 rfl, field 6 rfl,
    field 7 rfl, field 8 rfl, field 9 rfl, field 10 rfl, field 11 (m := 256) rfl, field 12 (m := 256) rfl, field 13 rfl, field 14 rfl,
    field 15 rfl, field 16 rfl, field 17 rfl, field 18 rfl, field 19 rfl⟩
  case state =>
    have hu : u = _ := State.reflect_eq hrec
    rw [hu]
  case x =>
    obtain ⟨hget, hoff⟩ := t.frameFields_x { r with action := 2 } seq i
    exact (congrArg leNat (State.trapField hrec hget hoff)).trans ((leNat_leBytes_mod ..).trans (Nat.mod_eq_of_lt (t.xr i).isLt))
  case xp =>
    rw [field 0 (o := 0x100) (n := 8) (m := 2 ^ 64) rfl]
    exact t.bitAt_xpNat i

/-- Settles O60: the stop, then the reflection. -/
theorem faultsStopAndAreReflected : Obligations.FaultsStopAndAreReflected := ⟨faultsStopThreads, faultsAreReflected⟩

end Sys2Proof.Machine

/-! ## Scratchpad instructions (R251 to R255) -/

namespace Sys2Proof.Machine

/-! ### Poisoned operands and handles (R253) -/

section Handles
variable {s r : State} {rs : List Reg}

theorem State.unlessPoison_of_any (hp : rs.any s.xp = true) (k : State → State × Res) : s.unlessPoison rs k = (s, .fault 0x51 0 0) :=
  if_pos hp

theorem State.unlessPoison_of_not_any (hp : rs.any s.xp = false) (k : State → State × Res) : s.unlessPoison rs k = k s :=
  if_neg (by simp [hp])

variable {look : Bool} {a : Reg} (f : Handle → State → State × Res)

theorem withHandle_poisoned (hp : rs.any s.xp = true) : withHandle look a rs f s = (s, .fault 0x51 0 0) := State.unlessPoison_of_any hp _

theorem withHandle_bad (hp : rs.any s.xp = false) (hl : s.lookHandle (s.x a).toNat = (r, .bad)) :
    withHandle look a rs f s = (r, .fault 0x63 0 0) := by
  rw [withHandle, State.unlessPoison_of_not_any hp, hl]

theorem withHandle_ok (hp : rs.any s.xp = false) {h : Handle} (hl : s.lookHandle (s.x a).toNat = (r, .ok h)) :
    withHandle look a rs f s = f h r := by
  rw [withHandle, State.unlessPoison_of_not_any hp, hl]

end Handles

/-! ### splook (R254) -/

section Look
variable {r : State} {h : Handle} {d b : Reg}

/-- The block that a lookup finds. -/
def State.blockOf (r : State) (h : Handle) (blk : Nat) : Option Block :=
  (r.cluster r.tk.cluster).blocks.find? fun x => x.kid == r.tk.kid && x.h == h.h && x.blk == blk

theorem lookBlock_beyond (hb : h.nblk ≤ (r.x b).toNat) : lookBlock d b h r = (r, .fault 0x63 0 0) := if_pos hb

theorem lookBlock_found {x : Block} (hb : (r.x b).toNat < h.nblk) (hx : r.blockOf h (r.x b).toNat = some x) :
    lookBlock d b h r = if x.fill || 4095 ≤ x.pin then (r, .wait .slot) else
      ((r.setCluster r.tk.cluster { r.cluster r.tk.cluster with
        blocks := (r.cluster r.tk.cluster).blocks.map fun y =>
          if y.base == x.base then { x with pin := x.pin + 1, used := (r.cluster r.tk.cluster).clock } else y
        clock := (r.cluster r.tk.cluster).clock + 1 }).setX d (BitVec.ofNat 64 x.addr) false, .done) := by
  unfold State.blockOf at hx
  rw [lookBlock, if_neg (Nat.not_le.mpr hb), hx]

theorem lookBlock_full (hb : (r.x b).toNat < h.nblk) (hx : r.blockOf h (r.x b).toNat = none)
    (hr : (r.cluster r.tk.cluster).bestRuns h.prio h.log = []) : lookBlock d b h r = (r.countMiss.setX d 3 false, .done) := by
  unfold State.blockOf at hx
  rw [lookBlock, if_neg (Nat.not_le.mpr hb), hx]
  simp only [hr]

/-- A block that is not there is allocated one of the most preferred runs. -/
theorem lookBlock_allocates (hb : (r.x b).toNat < h.nblk) (hx : r.blockOf h (r.x b).toNat = none)
    (hr : (r.cluster r.tk.cluster).bestRuns h.prio h.log ≠ []) : ∃ base ∈ (r.cluster r.tk.cluster).bestRuns h.prio h.log,
      lookBlock d b h r = ((({ r with free := r.free + 1 } : State).allocate h (r.x b).toNat base).countMiss.setX d
        (BitVec.ofNat 64 (cspBase + 4096 * base + 1)) false, .done) := by
  obtain ⟨x, xs, hruns⟩ := List.exists_cons_of_ne_nil hr
  refine ⟨if xs.isEmpty then x else (x :: xs).getD (Config.freeNat r.free % (xs.length + 1)) x, ?_, ?_⟩
  · rw [hruns]
    split
    · exact List.mem_cons_self
    · have hlt : Config.freeNat r.free % (xs.length + 1) < (x :: xs).length := Nat.mod_lt _ (Nat.succ_pos _)
      rw [List.getD_eq_getElem _ _ hlt]
      exact List.getElem_mem hlt
  · unfold State.blockOf at hx
    rw [lookBlock, if_neg (Nat.not_le.mpr hb), hx]
    simp only [hruns]

end Look

/-- A part of O53. -/
theorem splookFindsOrAllocates : Stated.SplookFindsOrAllocates := by
  intro s hs d a b i
  have hi : exec i s = issue .plain 4 s (withHandle true a [a, b] (lookBlock d b)) := rfl
  have hany : [a, b].any s.xp = (s.xp a || s.xp b) := by simp
  refine ⟨fun hp => faults_of hs hi (withHandle_poisoned _ (hany.trans hp)), fun hp r =>
    ⟨fun hl => faultsAt_of hs hi (withHandle_bad _ (hany.trans hp) hl), fun h hl => ?_⟩⟩
  have hk : withHandle true a [a, b] (lookBlock d b) s = lookBlock d b h r := withHandle_ok _ (hany.trans hp) hl
  refine ⟨fun hb => faultsAt_of hs hi (hk.trans (lookBlock_beyond hb)), fun hb x hx hbusy => waitsAt_of hs hi ?busy,
    fun hb x hx hfill hpin => effects_of hs hi ?hit, fun hb hx hr => effects_of hs hi (hk.trans (lookBlock_full hb hx hr)),
    fun hb hx hr => ?new⟩
  case busy => rw [hk, lookBlock_found hb hx, if_pos (by simpa using hbusy)]
  case hit =>
    rw [hk, lookBlock_found hb hx, if_neg (by simpa [hfill] using hpin)]
    rfl
  case new =>
    obtain ⟨base, hbase, heq⟩ := lookBlock_allocates (d := d) hb hx hr
    exact ⟨base, hbase, effects_of hs hi (hk.trans heq)⟩

/-! ### The other instructions on handles and blocks (R252, R255) -/

section Handle
variable (d a b : Reg) (h : Handle) (s : State)

/-- What spevict does with the handle that it names (R255). -/
def evictBlocks (d : Reg) (h : Handle) (s : State) : State × Res :=
  let k := s.tk
  let c := s.cluster k.cluster
  let mine (b : Block) : Bool := b.kid == k.kid && b.h == h.h
  let gone (b : Block) : Bool := mine b && !b.fill && b.pin == 0
  ((s.setCluster k.cluster { c with
      blocks := (c.blocks.filter fun b => !gone b).map fun b => if mine b then { b with evict := true } else b }).setX d
    (BitVec.ofNat 64 ((c.blocks.filter gone).map fun b => 2 ^ (b.log - 12)).sum) false, .done)

/-- What spdemote does with the handle that it names (R255). -/
def demoteBlocks (h : Handle) (s : State) : State × Res :=
  (s.setCluster s.tk.cluster ((s.cluster s.tk.cluster).setClass s.tk.kid h.h 0 false), .done)

/-- What spprio does with the handle that it names (R255). -/
def prioBlocks (b : Reg) (h : Handle) (s : State) : State × Res :=
  (s.setCluster s.tk.cluster { (s.cluster s.tk.cluster).setClass s.tk.kid h.h ((s.x b).toNat % 8) true with
    handles := (s.cluster s.tk.cluster).handles.map fun x =>
      if x.kid == s.tk.kid && x.h == h.h then { x with prio := (s.x b).toNat % 8 } else x }, .done)

theorem exec_spevict : exec (.spevict d a) s = issue .plain 4 s (withHandle false a [a] (evictBlocks d)) := rfl
theorem exec_spdemote : exec (.spdemote a) s = issue .plain 4 s (withHandle false a [a] demoteBlocks) := rfl
theorem exec_spprio : exec (.spprio a b) s = issue .plain 4 s (withHandle false a [a, b] (prioBlocks b)) := rfl

theorem demoteBlocks_eq : demoteBlocks h s = (s.setCluster s.tk.cluster { s.cluster s.tk.cluster with
    blocks := (s.cluster s.tk.cluster).blocks.map fun x =>
      if (x.kid == s.tk.kid && x.h == h.h) && !x.fill then { x with cls := 0 } else x }, .done) := by
  simp only [demoteBlocks, Cluster.setClass, Bool.false_or]

theorem prioBlocks_eq : prioBlocks b h s = (s.setCluster s.tk.cluster { s.cluster s.tk.cluster with
    blocks := (s.cluster s.tk.cluster).blocks.map fun x =>
      if x.kid == s.tk.kid && x.h == h.h then { x with cls := (s.x b).toNat % 8 } else x
    handles := (s.cluster s.tk.cluster).handles.map fun x =>
      if x.kid == s.tk.kid && x.h == h.h then { x with prio := (s.x b).toNat % 8 } else x }, .done) := by
  simp only [prioBlocks, Cluster.setClass, Bool.true_or, Bool.and_true]

end Handle

section Release
variable {s : State} {a b : Reg}

/-- What sprel does once its operands are clean. -/
def releaseBlock (a b : Reg) (s : State) : State × Res :=
  match (s.cluster s.tk.cluster).blocks.find? (fun x => x.addr == (s.x a).toNat && x.kid == s.tk.kid) with
  | none => (s, .fault 0x63 0 0)
  | some x =>
    if x.pin == 0 || (x.fill && x.filler != s.cur) then (s, .fault 0x63 0 0)
    else
      (s.setCluster s.tk.cluster { s.cluster s.tk.cluster with
        blocks := ((s.cluster s.tk.cluster).blocks.filter fun y => y.base != x.base) ++ (x.release ((s.x b).getLsbD 0)).toList }, .done)

theorem exec_sprel (a b : Reg) (s : State) : exec (.sprel a b) s = issue .plain 4 s fun s => s.unlessPoison [a, b] (releaseBlock a b) := rfl

/-- The block that stands after a release (R252). -/
theorem Block.release_toList (x : Block) (drop : Bool) :
    let pin := if x.fill then 0 else x.pin - 1
    (x.release drop).toList = if pin = 0 ∧ (drop = true ∨ x.evict = true) then [] else [{ x with fill := false, pin := pin }] := by
  intro pin
  by_cases h : pin = 0 ∧ (drop = true ∨ x.evict = true)
  · rw [if_pos h, Block.release, if_pos (by simpa [pin] using h)]
    rfl
  · rw [if_neg h, Block.release, if_neg (by simpa [pin] using h)]
    rfl

end Release

/-- A part of O53. -/
theorem scratchpadHandlesAct : Stated.ScratchpadHandlesAct := by
  intro s hs d a b
  have hone : [a].any s.xp = s.xp a := by simp
  have htwo : [a, b].any s.xp = (s.xp a || s.xp b) := by simp
  have hclean (ha : s.xp a = false) (hb : s.xp b = false) : [a, b].any s.xp = false := htwo.trans (by rw [ha, hb]; rfl)
  refine ⟨fun hp => ⟨faults_of hs (exec_spevict d a s) (withHandle_poisoned _ (hone.trans hp)),
      faults_of hs (exec_spdemote a s) (withHandle_poisoned _ (hone.trans hp))⟩,
    fun hp => ⟨faults_of hs (exec_spprio a b s) (withHandle_poisoned _ (htwo.trans hp)),
      faults_of hs (exec_sprel a b s) (State.unlessPoison_of_any (htwo.trans hp) _)⟩,
    fun r ha hl => ⟨faultsAt_of hs (exec_spevict d a s) (withHandle_bad _ (hone.trans ha) hl),
      faultsAt_of hs (exec_spdemote a s) (withHandle_bad _ (hone.trans ha) hl),
      fun hb => faultsAt_of hs (exec_spprio a b s) (withHandle_bad _ (hclean ha hb) hl)⟩,
    fun r h ha hl => ⟨effects_of hs (exec_spevict d a s) (withHandle_ok _ (hone.trans ha) hl),
      effects_of hs (exec_spdemote a s) ((withHandle_ok _ (hone.trans ha) hl).trans (demoteBlocks_eq h r)),
      fun hb => effects_of hs (exec_spprio a b s) ((withHandle_ok _ (hclean ha hb) hl).trans (prioBlocks_eq b h r))⟩,
    fun ha hb => ?block⟩
  case block =>
    intro cl c found
    have hk : (s.unlessPoison [a, b] (releaseBlock a b)) = releaseBlock a b s := State.unlessPoison_of_not_any (hclean ha hb) _
    have hfind {o : Option Block} (h : found = o) : (s.cluster s.tk.cluster).blocks.find?
        (fun x => x.addr == (s.x a).toNat && x.kid == s.tk.kid) = o := h
    refine ⟨fun hf => faults_of hs (exec_sprel a b s) ?none, fun x hf => ⟨fun hbad => faults_of hs (exec_sprel a b s) ?bad,
      fun hpin hfill => effects_of hs (exec_sprel a b s) ?release⟩⟩
    case none =>
      rw [hk, releaseBlock, hfind hf]
    case bad =>
      rw [hk, releaseBlock, hfind hf]
      exact if_pos (by simpa using hbad)
    case release =>
      rw [hk, releaseBlock, hfind hf]
      simp only [Block.release_toList]
      rw [if_neg (by simpa [hpin] using hfill)]

/-- Settles O53, part by part. -/
theorem scratchpadInstructionsAct : Obligations.ScratchpadInstructionsAct := ⟨splookFindsOrAllocates, scratchpadHandlesAct⟩

end Sys2Proof.Machine

/-! ## Synchronisation objects (R229 to R235) -/

namespace Sys2Proof.Machine

/-! ### The fields of an object at its home (R229) -/

section Fields
variable (s : State)

/-- A field reads as it was written. -/
theorem State.objField_setObjField (key f v : Nat) (hv : v < 2 ^ 64) : (s.setObjField key f v).objField key f = v := by
  have h := s.mem.read_write_part (key + f) [] (leBytes 8 v) []
  rw [List.nil_append, List.append_nil, length_leBytes] at h
  exact (congrArg leNat h).trans ((leNat_leBytes_mod 8 v).trans (Nat.mod_eq_of_lt hv))

/-- The bytes beside a field stay. -/
theorem State.setObjField_byte (key f v : Nat) {k : Nat} (hk : k < key + f ∨ key + f + 8 ≤ k) :
    (s.setObjField key f v).mem.byte k = s.mem.byte k := by
  have h := s.mem.byte_write (key + f) (pbytes 8 v false) k
  rw [length_pbytes, if_neg (by omega)] at h
  exact h

/-- An object that is kept is found at its key. -/
theorem State.objAt_setObj (o : SyncObj) (va ctx : Nat) : (s.setObj o).objAt o.key va ctx = o := by
  have hnone : (s.objs.filter fun p => p.key != o.key).find? (fun p => p.key == o.key) = none := by simp
  change (((s.objs.filter fun p => p.key != o.key) ++ [o]).find? fun p => p.key == o.key).getD _ = o
  rw [List.find?_append, hnone]
  simp

/-- The object at a key lies there. -/
theorem State.objAt_key (key va ctx : Nat) : (s.objAt key va ctx).key = key := by
  unfold State.objAt
  cases h : s.objs.find? fun o => o.key == key with
  | none => rfl
  | some o => simpa using List.find?_some h

/-- An object found again by its own address is the same. -/
theorem State.objAt_objAt {key va ctx : Nat} :
    s.objAt key (s.objAt key va ctx).va.toNat (s.objAt key va ctx).ctx = s.objAt key va ctx := by
  unfold State.objAt
  cases h : s.objs.find? fun o => o.key == key with
  | none =>
    have hback : BitVec.ofNat 64 (BitVec.ofNat 64 va).toNat = BitVec.ofNat 64 va := BitVec.ofNat_toNat .. |>.trans (BitVec.setWidth_eq _)
    simp only [Option.getD_none, hback]
  | some o => rfl

end Fields

/-- A part of O51. -/
theorem objectStateIsWritten : Stated.ObjectStateIsWritten := by
  intro s o hw
  refine ⟨State.objField_setObjField _ _ _ _ hw, fun k hk => State.setObjField_byte _ _ _ _ (by omega), s.objAt_setObj o,
    fun hh hq => ?idle, fun t i rest hh hrest => ?held⟩
  case idle => simp [State.objWord, hh, hq, satTo]
  case held =>
    have hex : o.holders.find? (fun h => h.2.2) = some (t, i, true) := by simp [hh]
    simp only [State.objWord, hex]
    omega

/-! ### Instructions on a named object -/

section Named
variable {s q : State} {a d b : Reg} {key : Nat}

/-- The state in which an instruction acts on the object that it named at a key, and that object. -/
theorem withObj_key (hn : s.nameObj (s.x a).toNat = (q, .key key)) (lost : State → State) (f : State → SyncObj → State × Res) :
    s.withObj a lost f = f (q.followObjs key) ((q.followObjs key).objAt key (s.x a).toNat (q.followObjs key).tk.ctx) := by
  rw [State.withObj]
  simp only [hn]

/-- What acq does with its object (R232). -/
def acqObj (a : Reg) (shared : Bool) (s : State) (o : SyncObj) : State × Res :=
  let me := (s.cur.1, s.cur.2, !shared)
  if o.heldBy s.cur.1 s.cur.2 then (s, .fault 0x64 (s.x a).toNat 0)
  else if o.queue.any (fun r => r.1 == s.cur.1 && r.2.1 == s.cur.2) then (s, .wait (.object o.key))
  else if o.queue.isEmpty && o.free (!shared) then
    let o := { o with holders := o.holders ++ [me] }
    ((s.grantTo o s.cur.1).setObj o, .done)
  else (s.setObj { o with queue := o.queue ++ [me] }, .wait (.object o.key))

/-- What tryacq does with its object (R232). -/
def tryacqObj (d a : Reg) (shared : Bool) (s : State) (o : SyncObj) : State × Res :=
  if o.heldBy s.cur.1 s.cur.2 then (s, .fault 0x64 (s.x a).toNat 0)
  else if o.free (!shared) && (!shared || !o.queue.any fun r => r.2.2) then
    let o := { o with holders := o.holders ++ [(s.cur.1, s.cur.2, !shared)] }
    (((s.grantTo o s.cur.1).setObj o).setX d 1 false, .done)
  else (s.setX d 0 false, .done)

/-- What rel does with its object (R233). -/
def relObj (a : Reg) (s : State) (o : SyncObj) : State × Res :=
  if !o.heldBy s.cur.1 s.cur.2 then (s, .fault 0x64 (s.x a).toNat 0)
  else s.drainThen s.isStoreFault fun s => (s.release (s.objAt o.key o.va.toNat o.ctx) s.cur.1 s.cur.2, .done)

/-- What bind does with its object (R234). -/
def bindObj (d a b : Reg) (s : State) (o : SyncObj) : State × Res :=
  if !bindable (s.x a).toNat (s.x b).toNat then (s, .fault 0x64 (s.x a).toNat 0)
  else
    match s.emptyRange o.key with
    | none => (s, .fault 0x64 (s.x d).toNat 0)
    | some j =>
      (((s.setObj o).setObjField o.key (0x10 + 16 * j) (s.x a).toNat).setObjField o.key (0x18 + 16 * j) (s.x b).toNat, .done)

/-- What unbind does with its object (R234). -/
def unbindObj (a : Reg) (s : State) (o : SyncObj) : State × Res :=
  match s.rangeAt o.key (s.x a).toNat with
  | none => (s, .fault 0x64 (s.x a).toNat 0)
  | some j => (((s.setObj o).setObjField o.key (0x10 + 16 * j) 0).setObjField o.key (0x18 + 16 * j) 0, .done)

theorem exec_acq (a : Reg) (shared : Bool) (s : State) :
    exec (.acq a shared) s = issue .barred 4 s fun s => s.unlessPoison [a] fun s => s.withObj a id (acqObj a shared) := rfl
theorem exec_tryacq (d a : Reg) (shared : Bool) (s : State) : exec (.tryacq d a shared) s =
    issue .barred 4 s fun s => s.unlessPoison [a] fun s => s.withObj a (fun s => s.setX d 0 true) (tryacqObj d a shared) := rfl
theorem exec_rel (a : Reg) (s : State) :
    exec (.rel a) s = issue .plain 4 s fun s => s.unlessPoison [a] fun s => s.withObj a id (relObj a) := rfl
theorem exec_bind (d a b : Reg) (s : State) :
    exec (.bind d a b) s = issue .plain 4 s fun s => s.unlessPoison [d, a, b] fun s => s.withObj d id (bindObj d a b) := by
  change execBind d a b s = _
  unfold execBind
  refine congrArg (issue .plain 4 s) (funext fun s => congrArg (s.unlessPoison _) (funext fun s => congrArg (s.withObj d id)
    (funext fun s => funext fun o => ?_)))
  unfold bindObj
  cases s.emptyRange o.key <;> rfl
theorem exec_unbind (d a : Reg) (s : State) :
    exec (.unbind d a) s = issue .plain 4 s fun s => s.unlessPoison [d, a] fun s => s.withObj d id (unbindObj a) := by
  change execUnbind d a s = _
  unfold execUnbind
  refine congrArg (issue .plain 4 s) (funext fun s => congrArg (s.unlessPoison _) (funext fun s => congrArg (s.withObj d id)
    (funext fun s => funext fun o => ?_)))
  unfold unbindObj
  cases s.rangeAt o.key (s.x a).toNat <;> rfl

/-- The meaning of an instruction whose operands are clean and that names its object. -/
theorem named_object {rs : List Reg} (hp : rs.any s.xp = false) (hn : s.nameObj (s.x a).toNat = (q, .key key)) (lost : State → State)
    (f : State → SyncObj → State × Res) : (s.unlessPoison rs fun s => s.withObj a lost f) =
      f (q.followObjs key) ((q.followObjs key).objAt key (s.x a).toNat (q.followObjs key).tk.ctx) :=
  (State.unlessPoison_of_not_any hp _).trans (withObj_key hn lost f)

end Named

/-! ### acq, tryacq and rel (R232, R233) -/

section Grant
variable {r : State} {o : SyncObj} {a d : Reg} {shared : Bool}

theorem acqObj_held (h : o.heldBy r.cur.1 r.cur.2 = true) : acqObj a shared r o = (r, .fault 0x64 (r.x a).toNat 0) := if_pos h

theorem acqObj_grants (h : o.heldBy r.cur.1 r.cur.2 = false) (hq : o.queue = []) (hf : o.free (!shared) = true) :
    acqObj a shared r o = ((r.grantTo { o with holders := o.holders ++ [(r.cur.1, r.cur.2, !shared)] } r.cur.1).setObj
      { o with holders := o.holders ++ [(r.cur.1, r.cur.2, !shared)] }, .done) := by
  simp [acqObj, h, hq, hf]

theorem acqObj_waits (h : o.heldBy r.cur.1 r.cur.2 = false) (hme : ∀ q ∈ o.queue, ¬ (q.1 = r.cur.1 ∧ q.2.1 = r.cur.2))
    (hf : o.queue ≠ [] ∨ o.free (!shared) = false) : acqObj a shared r o =
      (r.setObj { o with queue := o.queue ++ [(r.cur.1, r.cur.2, !shared)] }, .wait (.object o.key)) := by
  have hany : (o.queue.any fun q => q.1 == r.cur.1 && q.2.1 == r.cur.2) = false := by
    rw [List.any_eq_false]
    exact fun q hq => by simpa using hme q hq
  have hfree : ¬ (o.queue.isEmpty && o.free (!shared)) = true := by
    rcases hf with hf | hf <;> simp [hf]
  rw [acqObj, h, hany]
  exact if_neg hfree

theorem tryacqObj_held (h : o.heldBy r.cur.1 r.cur.2 = true) : tryacqObj d a shared r o = (r, .fault 0x64 (r.x a).toNat 0) := if_pos h

theorem tryacqObj_grants (h : o.heldBy r.cur.1 r.cur.2 = false) (hf : o.free (!shared) = true)
    (hq : shared = true → ∀ q ∈ o.queue, q.2.2 = false) : tryacqObj d a shared r o =
      (((r.grantTo { o with holders := o.holders ++ [(r.cur.1, r.cur.2, !shared)] } r.cur.1).setObj
        { o with holders := o.holders ++ [(r.cur.1, r.cur.2, !shared)] }).setX d 1 false, .done) := by
  have hfree : (o.free (!shared) && (!shared || !o.queue.any fun r => r.2.2)) = true := by
    cases shared with
    | false => simpa using hf
    | true => simpa [show o.free false = true from hf] using hq
  rw [tryacqObj, h, if_neg Bool.false_ne_true, if_pos hfree]

theorem tryacqObj_refuses (h : o.heldBy r.cur.1 r.cur.2 = false) (hf : o.free (!shared) = false) :
    tryacqObj d a shared r o = (r.setX d 0 false, .done) := by
  simp [tryacqObj, h, hf]

theorem relObj_not_held (h : o.heldBy r.cur.1 r.cur.2 = false) : relObj a r o = (r, .fault 0x64 (r.x a).toNat 0) := by
  simp [relObj, h]

theorem relObj_releases (h : o.heldBy r.cur.1 r.cur.2 = true) (hd : r.Drained) (hsame : r.objAt o.key o.va.toNat o.ctx = o) :
    relObj a r o = (r.release o r.cur.1 r.cur.2, .done) := by
  rw [relObj, h, Bool.not_true, if_neg Bool.false_ne_true, hd.drainThen, hsame]

end Grant

/-- A part of O51. -/
theorem syncObjectsGrantAndRelease : Stated.SyncObjectsGrantAndRelease := by
  intro s hs d a shared
  refine ⟨fun hp => ⟨faults_of hs (exec_acq a shared s) (State.unlessPoison_of_poisoned hp _),
    faults_of hs (exec_tryacq d a shared s) (State.unlessPoison_of_poisoned hp _),
    faults_of hs (exec_rel a s) (State.unlessPoison_of_poisoned hp _)⟩, fun q key hp hn => ?_⟩
  have hp' : [a].any s.xp = false := by simpa using hp
  have hacq := named_object hp' hn id (acqObj a shared)
  have htry := named_object hp' hn (fun s => s.setX d 0 true) (tryacqObj d a shared)
  have hrel := named_object hp' hn id (relObj a)
  intro r o o' fails
  have hkey : o.key = key := r.objAt_key ..
  have hsame : r.objAt o.key o.va.toNat o.ctx = o := hkey ▸ r.objAt_objAt
  refine ⟨fun h => ⟨faultsAt_of hs (exec_acq ..) (hacq.trans (acqObj_held h)), faultsAt_of hs (exec_tryacq ..) (htry.trans (tryacqObj_held h)),
      fun hd => effects_of hs (exec_rel ..) (hrel.trans (relObj_releases h hd hsame))⟩,
    fun h => ⟨faultsAt_of hs (exec_rel ..) (hrel.trans (relObj_not_held h)),
      fun hq hf => effects_of hs (exec_acq ..) (hacq.trans (acqObj_grants h hq hf)),
      fun hme hf => hkey ▸ waitsAt_of hs (exec_acq ..) (hacq.trans (acqObj_waits h hme hf)),
      fun hf hq => effects_of hs (exec_tryacq ..) (htry.trans (tryacqObj_grants h hf hq)),
      fun hf => effects_of hs (exec_tryacq ..) (htry.trans (tryacqObj_refuses h hf))⟩⟩

/-! ### bind and unbind (R234, R235) -/

section Ranges
variable {r : State} {o : SyncObj} {d a b : Reg} {j : Nat}

/-- The first of three that passes a test. -/
theorem find_first_of_three {p : Nat → Bool} (hj : j < 3) (hp : p j = true) (hbelow : ∀ i < j, p i = false) :
    [0, 1, 2].find? p = some j := by
  have : [0, 1, 2] = List.range 3 := rfl
  rw [this, List.find?_range_eq_some]
  exact ⟨hp, List.mem_range.mpr hj, fun i hi => by simpa using hbelow i hi⟩

theorem find_none_of_three {p : Nat → Bool} (hp : ∀ j < 3, p j = false) : [0, 1, 2].find? p = none :=
  List.find?_eq_none.mpr fun j hj => by simpa using hp j (List.mem_range.mp (show j ∈ List.range 3 from hj))

theorem bindObj_bad (h : bindable (r.x a).toNat (r.x b).toNat = false) : bindObj d a b r o = (r, .fault 0x64 (r.x a).toNat 0) := by
  simp [bindObj, h]

theorem bindObj_full (h : bindable (r.x a).toNat (r.x b).toNat = true) (hfull : ∀ j < 3, r.objField o.key (0x18 + 16 * j) ≠ 0) :
    bindObj d a b r o = (r, .fault 0x64 (r.x d).toNat 0) := by
  have he : r.emptyRange o.key = none := find_none_of_three fun j hj => by simpa using hfull j hj
  simp [bindObj, h, he]

theorem bindObj_records (h : bindable (r.x a).toNat (r.x b).toNat = true) (hj : j < 3) (hempty : r.objField o.key (0x18 + 16 * j) = 0)
    (hbelow : ∀ i < j, r.objField o.key (0x18 + 16 * i) ≠ 0) : bindObj d a b r o =
      (((r.setObj o).setObjField o.key (0x10 + 16 * j) (r.x a).toNat).setObjField o.key (0x18 + 16 * j) (r.x b).toNat, .done) := by
  have he : r.emptyRange o.key = some j := find_first_of_three hj (by simpa using hempty) fun i hi => by simpa using hbelow i hi
  simp [bindObj, h, he]

theorem unbindObj_empties (hj : j < 3) (hlen : r.objField o.key (0x18 + 16 * j) ≠ 0) (hbase : r.objField o.key (0x10 + 16 * j) = (r.x a).toNat)
    (hbelow : ∀ i < j, ¬ (r.objField o.key (0x18 + 16 * i) ≠ 0 ∧ r.objField o.key (0x10 + 16 * i) = (r.x a).toNat)) :
    unbindObj a r o = (((r.setObj o).setObjField o.key (0x10 + 16 * j) 0).setObjField o.key (0x18 + 16 * j) 0, .done) := by
  have hat : r.rangeAt o.key (r.x a).toNat = some j :=
    find_first_of_three hj (by simpa using ⟨hlen, hbase⟩) fun i hi => by simpa using hbelow i hi
  rw [unbindObj, hat]

theorem unbindObj_unknown (h : ∀ j < 3, ¬ (r.objField o.key (0x18 + 16 * j) ≠ 0 ∧ r.objField o.key (0x10 + 16 * j) = (r.x a).toNat)) :
    unbindObj a r o = (r, .fault 0x64 (r.x a).toNat 0) := by
  have hat : r.rangeAt o.key (r.x a).toNat = none := find_none_of_three fun j hj => by simpa using h j hj
  rw [unbindObj, hat]

end Ranges

/-- A part of O51. -/
theorem bindRecordsRanges : Stated.BindRecordsRanges := by
  intro s hs d a b
  refine ⟨fun hp => faults_of hs (exec_bind d a b s) (State.unlessPoison_of_any (by simpa [Bool.or_assoc] using hp) _),
    fun hp => faults_of hs (exec_unbind d a s) (State.unlessPoison_of_any (by simpa using hp) _), fun q key hp hn => ?_⟩
  have hp' : [d, a].any s.xp = false := by simpa using hp
  have hunbind := named_object hp' hn id (unbindObj a)
  have hbind (hb : s.xp b = false) := named_object (rs := [d, a, b]) (by simpa [hb] using hp) hn id (bindObj d a b)
  intro r o put
  have hkey : o.key = key := r.objAt_key ..
  rw [← hkey]
  refine ⟨fun hb => ⟨fun h => faultsAt_of hs (exec_bind ..) ((hbind hb).trans (bindObj_bad h)),
      fun h hfull => faultsAt_of hs (exec_bind ..) ((hbind hb).trans (bindObj_full h hfull)),
      fun h j hj he hbelow => effects_of hs (exec_bind ..) ((hbind hb).trans ((bindObj_records h hj he hbelow).trans ?_))⟩,
    fun j hj hlen hbase hbelow => effects_of hs (exec_unbind ..) (hunbind.trans ((unbindObj_empties hj hlen hbase hbelow).trans ?_)),
    fun h => faultsAt_of hs (exec_unbind ..) (hunbind.trans (unbindObj_unknown h))⟩ <;> simp only [put, hkey]

/-- Settles O51, part by part. -/
theorem syncInstructionsAct : Obligations.SyncInstructionsAct := ⟨syncObjectsGrantAndRelease, objectStateIsWritten, bindRecordsRanges⟩

end Sys2Proof.Machine

/-! ## What loads and buffered stores leave of memory (R220, R223) -/

namespace Sys2Proof.Machine

/-! ### Loads -/

section Loads
variable (s : State) (tid slot va n : Nat) (t : Trans)

theorem State.countVia_mem (w : Bool) : (s.countVia t va n w).mem = s.mem := (State.Prefetched.countVia s t va n w).mem

theorem State.sendRemote_mem (m : Nat) (who : RemoteFor) (p : Packet) : (s.sendRemote m who p).mem = s.mem := by
  unfold State.sendRemote
  dsimp only
  split <;> rfl

theorem State.loadHome_mem : (s.loadHome tid slot va n t).1.mem = s.mem := by
  unfold State.loadHome
  split
  · rfl
  · rfl
  · split
    · rfl
    · dsimp only
      split
      · rfl
      · exact State.sendRemote_mem ..
  · exact s.countVia_mem ..

theorem State.loadLine_mem : (s.loadLine tid slot va n t).1.mem = s.mem := by
  unfold State.loadLine
  dsimp only
  split
  · exact s.loadHome_mem ..
  · split
    · rfl
    · split
      · rfl
      · rfl
      · exact s.countVia_mem ..

theorem State.loadLines_mem (fuel : Nat) : (s.loadLines tid slot va n t fuel).1.mem = s.mem := by
  fun_induction State.loadLines s tid slot va n t fuel <;> grind [State.loadLine_mem]

variable {s tid slot va n t} {q : State} {bs : List PByte}

/-- Lines that are read go into the data cache, counted, and nothing else happens. -/
theorem State.loadLines_prefetched {fuel : Nat} (h : s.loadLines tid slot va n t fuel = (q, .bytes bs)) : s.Prefetched q := by
  induction fuel generalizing s va n bs with
  | zero =>
    obtain ⟨rfl, -⟩ := Prod.mk.inj h
    exact .refl s
  | succ fuel ih =>
    unfold State.loadLines at h
    split at h
    · obtain ⟨rfl, -⟩ := Prod.mk.inj h
      exact .refl s
    · dsimp only at h
      split at h
      · next u cs hline =>
        have hu := State.loadLine_prefetched hline
        split at h
        · next v ds hrest =>
          obtain ⟨rfl, -⟩ := Prod.mk.inj h
          exact hu.trans (ih hrest)
        · next hno => exact absurd h (hno q bs)
      · next hno => exact absurd h (hno q bs)

/-- Where every buffered store of a task's core has the format of a piece's page, none is performed before the piece is loaded. -/
def State.OneFormat (s : State) (tid : Nat) (p : Piece) : Prop :=
  ∀ va m t, p = .page va m t → ∀ e ∈ (s.task tid).entries, ∀ q ∈ e.2.2.parts, q.tr.fmtOf = t.fmtOf

theorem State.OneFormat.of_prefetched {p : Piece} (h : s.OneFormat tid p) (hq : s.Prefetched q) : q.OneFormat tid p := by
  have hk : q.task tid = s.task tid := by rw [State.task, hq.threads.1, State.task]
  intro va m t hp
  rw [hk]
  exact h va m t hp

theorem State.OneFormat.sameFormat (h : s.OneFormat tid (.page va n t)) : s.sameFormat tid va n t = (s, true) := by
  have hother : ((s.task tid).entries.any fun e => e.2.2.parts.any (s.otherFormat t va n)) = false := by
    rw [List.any_eq_false]
    intro e he
    rw [Bool.not_eq_true, List.any_eq_false]
    intro q hq
    simp [State.otherFormat, h va n t rfl e he q hq]
  exact if_neg fun h => Bool.false_ne_true (hother.symm.trans h)

/-- A piece loaded so changes no byte of memory. -/
theorem State.OneFormat.loadPiece_mem {p : Piece} (h : s.OneFormat tid p) : (s.loadPiece tid slot p).1.mem = s.mem := by
  cases p with
  | win va n key => rfl
  | page va n t =>
    rw [State.loadPiece]
    dsimp only
    rw [h.sameFormat]
    have hlines := s.loadLines_mem tid slot va n t (n / 128 + 2)
    have hhome := s.loadHome_mem tid slot va n t
    grind

/-- And where it gives bytes, it only fills the data cache. -/
theorem State.OneFormat.loadPiece_prefetched {p : Piece} (h : s.OneFormat tid p) (hp : s.loadPiece tid slot p = (q, .bytes bs)) :
    s.Prefetched q := by
  cases p with
  | win va n key =>
    obtain ⟨rfl, -⟩ := Prod.mk.inj hp
    exact .refl s
  | page va n t =>
    rw [State.loadPiece] at hp
    dsimp only at hp
    rw [h.sameFormat] at hp
    grind [State.Prefetched.refl, State.loadLines_prefetched, State.loadHome_prefetched]

theorem State.loadPieces_mem {ps : List Piece} (h : ∀ p ∈ ps, s.OneFormat tid p) : (s.loadPieces tid slot ps).1.mem = s.mem := by
  induction ps generalizing s with
  | nil => rfl
  | cons p ps ih =>
    have hp := h p List.mem_cons_self
    have hmem := hp.loadPiece_mem (slot := slot)
    unfold State.loadPieces
    split
    · next q bs hq =>
      have hpre := hp.loadPiece_prefetched hq
      have hrest := ih (s := q) fun p' hp' => (h p' (List.mem_cons_of_mem _ hp')).of_prefetched hpre
      rw [hpre.mem] at hrest
      split
      · next hcs => rwa [hcs] at hrest
      · exact hrest
    · exact hmem

end Loads

/-! ### Stores -/

section Stores
variable {s r : State} {tid slot a n : Nat} {ps : List Piece} {bs : List PByte}

/-- Whether a piece lies on a page. -/
def Piece.OnPage (p : Piece) : Prop := ∃ va m t, p = .page va m t

theorem State.pagesOf_onPage (s : State) (cl ctx : Nat) (k : Acc) (a n fuel : Nat) : ∀ p ∈ (s.pagesOf cl ctx k a n fuel).2.2, p.OnPage := by
  fun_induction State.pagesOf s cl ctx k a n fuel with
  | case1 => exact nofun
  | case2 => exact nofun
  | case3 => exact nofun
  | case4 s a n fuel hn q t ht m w u ps hps ih =>
    rw [hps] at ih
    intro p hp
    rcases List.mem_cons.mp hp with rfl | hp
    · exact ⟨_, _, _, rfl⟩
    · exact ih p hp

theorem State.pagesOf_ne_nil {cl ctx : Nat} {k : Acc} {fuel : Nat} (hn : n ≠ 0) (h : s.pagesOf cl ctx k a n (fuel + 1) = (r, none, ps)) : ps ≠ [] := by
  unfold State.pagesOf at h
  rw [if_neg (by simpa using hn)] at h
  grind

/-- A range below the windows passes its checks as pieces of pages. -/
theorem State.check_onPage {k : Acc} {dataPois : Bool} (ha : a < cspBase) (hn : n ≠ 0) (h : s.check tid a n k dataPois = (r, .ok ps)) :
    ps ≠ [] ∧ ∀ p ∈ ps, p.OnPage := by
  have hcsp : regionOf a ≠ .csp := by grind [regionOf]
  have hhole : regionOf a ≠ .cm := by grind [regionOf]
  have hpages := s.pagesOf_onPage (s.task tid).cluster (s.task tid).ctx k a n 20
  have hne (q : State) (ps : List Piece) := State.pagesOf_ne_nil (s := s) (r := q) (cl := (s.task tid).cluster) (ctx := (s.task tid).ctx)
    (k := k) (a := a) (fuel := 19) (ps := ps) hn
  unfold State.check at h
  grind

/-- Pieces of pages become parts of a buffer entry that hold the bytes in order, and nothing is written. -/
theorem storePieces_onPage (s : State) (first : Nat) (bs : List PByte) (h : ∀ p ∈ ps, p.OnPage) :
    (storePieces s first ps bs).1 = s ∧ ((storePieces s first ps bs).2.map StorePart.bytes).flatten <+: bs
      ∧ ((storePieces s first ps bs).2 = [] → ps = []) := by
  induction ps generalizing bs with
  | nil => exact ⟨rfl, List.nil_prefix, fun _ => rfl⟩
  | cons p ps ih =>
    obtain ⟨va, m, t, rfl⟩ := h p List.mem_cons_self
    obtain ⟨hs, hpre, -⟩ := ih (bs.drop m) fun p' hp' => h p' (List.mem_cons_of_mem _ hp')
    refine ⟨hs, ?_, nofun⟩
    have hsplit : bs.take m ++ bs.drop m = bs := List.take_append_drop m bs
    conv_rhs => rw [← hsplit]
    exact (List.prefix_append_right_inj _).mpr hpre

/-- A store to pages takes one entry of its thread's buffer, or waits while the buffer is full. -/
theorem storeChecked_onPage (hne : ps ≠ []) (h : ∀ p ∈ ps, p.OnPage) :
    (s.storeChecked tid slot [(a, ps, bs)]).1.mem = s.mem
    ∧ ∀ g, (s.storeChecked tid slot [(a, ps, bs)]).2 = .bytes g → (s.thread tid slot).wbuf.length < 16 ∧ ∃ e : BufStore,
      ((s.storeChecked tid slot [(a, ps, bs)]).1.thread tid slot).wbuf = (s.thread tid slot).wbuf ++ [e]
        ∧ (e.parts.map StorePart.bytes).flatten <+: bs := by
  obtain ⟨hs, hpre, hnil⟩ := storePieces_onPage s a bs h
  have hpaged : ([(a, ps, bs)].any fun e => e.2.1.any fun p => match p with | .page _ _ _ => true | .win _ _ _ => false) = true := by
    obtain ⟨p, ps', rfl⟩ := List.exists_cons_of_ne_nil hne
    obtain ⟨va, m, t, rfl⟩ := h p List.mem_cons_self
    simp
  have hparts : (storePieces s a ps bs).2.isEmpty = false := by
    simpa using fun he => hne (hnil he)
  unfold State.storeChecked
  dsimp only
  by_cases hfull : 16 ≤ (s.thread tid slot).wbuf.length
  · rw [if_pos (by rw [Bool.and_eq_true]; exact ⟨hpaged, decide_eq_true hfull⟩)]
    exact ⟨rfl, nofun⟩
  · rw [if_neg (by rw [Bool.and_eq_true]; exact fun h => hfull (of_decide_eq_true h.2))]
    simp only [List.foldl_cons, List.foldl_nil, List.nil_append, hparts, hs, Bool.false_eq_true, if_false]
    refine ⟨rfl, fun g _ => ⟨Nat.lt_of_not_le hfull, ⟨(s.task tid).age + 1, (storePieces s a ps bs).2⟩, ?_, hpre⟩⟩
    rw [State.thread, State.task_setTask_self, Task.thread_setThread_self]
    rfl

end Stores

/-- Settles O18: the loads piece by piece, then the stores. -/
theorem loadsAndBufferedStoresKeepMemory : Obligations.LoadsAndBufferedStoresKeepMemory := by
  intro s tid slot a
  refine ⟨fun n hfmt => ?load, fun bs ha hbs => ?store⟩
  case load =>
    have hcheck := s.check_prefetched tid a n .load false
    unfold State.load
    split
    · next h => rw [h] at hcheck; exact hcheck.mem
    · next h => rw [h] at hcheck; exact hcheck.mem
    · next r ps h =>
      rw [h] at hcheck
      have hone (p : Piece) (hp : p ∈ ps) : s.OneFormat tid p := fun va m t hpage => hfmt r ps va m t h (hpage ▸ hp)
      exact (State.loadPieces_mem fun p hp => (hone p hp).of_prefetched hcheck).trans hcheck.mem
  case store =>
    have hcheck := s.check_prefetched tid a bs.length .store (bs.any PByte.p)
    intro r
    have hr : r = s.store tid slot a bs := rfl
    unfold State.store at hr
    split at hr
    · next h => rw [h] at hcheck; rw [hr]; exact ⟨hcheck.mem, nofun⟩
    · next h => rw [h] at hcheck; rw [hr]; exact ⟨hcheck.mem, nofun⟩
    · next q ps h =>
      rw [h] at hcheck
      obtain ⟨hne, hpages⟩ := State.check_onPage ha (by simpa using hbs) h
      have hthread : q.thread tid slot = s.thread tid slot := by rw [State.thread, State.task, hcheck.threads.1]; rfl
      obtain ⟨hmem, hbytes⟩ := storeChecked_onPage (s := q) (tid := tid) (slot := slot) (a := a) (bs := bs) hne hpages
      rw [hr]
      exact ⟨hmem.trans hcheck.mem, hthread ▸ hbytes⟩

end Sys2Proof.Machine

/-! ## Scalar atomics (R227, R228) -/

namespace Sys2Proof.Machine

section Atomics
variable {s : State} {a n : Nat}

/-- An atomic in core memory is performed at once (R228). -/
theorem State.InCore.atomic (h : s.InCore a n) (hc : s.tk.core < 1536) (hal : a % n = 0) (tag : Nat) (g : AmoArg) :
    s.atomic s.cur.1 s.cur.2 a n tag g =
      ({ s with mem := s.mem.write (s.cmOf s.cur.1 (a - cmBase)) (amoBytes g (s.mem.read (s.cmOf s.cur.1 (a - cmBase)) n)) },
        .bytes (s.mem.read (s.cmOf s.cur.1 (a - cmBase)) n)) := by
  simp only [State.atomic, h.check .atomic g.pv fun _ => hal, State.corePiece, State.atomicPiece, h.readWin hc, h.writeWin hc]

/-- What an atomic of n bytes writes. -/
theorem amoBytes_read (g : AmoArg) (m : Memory) (key : Nat) :
    let old := m.read key n
    let x := leNat (old.map PByte.b)
    let po := old.any PByte.p
    let put := if g.op = 9 ∧ po = true then x else amoNew g.op n x g.v g.cmp
    amoBytes g old = (leBytes n put).map fun v => ({ b := v, p := if g.op = 8 then g.pv else po || g.pv } : PByte) := by
  intro old x po put
  have hl : old.length = n := by simp [old, Memory.read]
  simp only [amoBytes, hl, amoStep, pbytes, put, x, po, Bool.and_eq_true, beq_iff_eq]

end Atomics

section Scalar
variable {s : State} {dbl : Bool} {d a b : Reg} {op : Nat}

/-- The bytes of a scalar atomic's operand. -/
def amoWidth (dbl : Bool) : Nat := if dbl then 8 else 4

/-- What a scalar atomic asks of its home. -/
def State.amoArg (s : State) (op : Nat) (dbl : Bool) (d b : Reg) : AmoArg :=
  { op := op, v := (s.x b).toNat % 2 ^ (8 * amoWidth dbl), pv := s.xp b, cmp := (s.x d).toNat % 2 ^ (8 * amoWidth dbl) }

/-- The registers whose poison refuses a scalar atomic (R227). -/
def amoBase (op : Nat) (d a : Reg) : List Reg := if op == 9 then [d, a] else [a]

/-- The old value as the destination takes it (R228). -/
def amoExt (dbl : Bool) (x : Nat) : Word := if dbl then BitVec.ofNat 64 x else BitVec.ofInt 64 (toInt 32 x)

theorem scalarAmo_poisoned (hp : (amoBase op d a).any s.xp = true) : scalarAmo op dbl d a b s = (s, .fault 0x51 0 0) :=
  State.unlessPoison_of_any hp _

/-- A scalar atomic whose home gives the old bytes. -/
theorem scalarAmo_bytes (hp : (amoBase op d a).any s.xp = false) {r : State} {old : List PByte}
    (hg : s.atomic s.cur.1 s.cur.2 (s.x a).toNat (amoWidth dbl) 0 (s.amoArg op dbl d b) = (r, .bytes old)) :
    scalarAmo op dbl d a b s = (r.setX d (amoExt dbl (leNat (old.map PByte.b))) (old.any PByte.p), .done) := by
  have hext : (if dbl then BitVec.ofNat 64 (bytesNat old) else sextBytes 4 (bytesNat old)) = amoExt dbl (leNat (old.map PByte.b)) := by
    rw [amoExt, ← sext_eq_ofInt (w := 32) (by omega) (by omega)]
    rfl
  rw [← hext]
  exact (State.unlessPoison_of_not_any hp _).trans (Got.bind_bytes _ hg)

/-- What a scalar atomic with the function new of old values does (R227, R228). -/
theorem scalarAmo_acts (op : Nat) (i : Instr) (new : Nat → Nat) (hs : s.Ready) (hi : exec i s = issue .plain 4 s (scalarAmo op dbl d a b))
    (hnew : ∀ x, amoNew op (amoWidth dbl) x ((s.x b).toNat % 2 ^ (8 * amoWidth dbl)) ((s.x d).toNat % 2 ^ (8 * amoWidth dbl)) = new x) :
    ((amoBase op d a).any s.xp = true → Faults i s 0x51 0 0)
    ∧ ((amoBase op d a).any s.xp = false →
      (∀ r old, s.atomic s.cur.1 s.cur.2 (s.x a).toNat (amoWidth dbl) 0 (s.amoArg op dbl d b) = (r, .bytes old) →
        Effects i s (r.setX d (amoExt dbl (leNat (old.map PByte.b))) (old.any PByte.p)) 4)
      ∧ (s.InCore (s.x a).toNat (amoWidth dbl) → (s.x a).toNat % amoWidth dbl = 0 →
        let key := s.cmOf s.cur.1 ((s.x a).toNat - cmBase)
        let old := s.mem.read key (amoWidth dbl)
        let x := leNat (old.map PByte.b)
        let po := old.any PByte.p
        let put := if op = 9 ∧ po = true then x else new x
        let p := if op = 8 then s.xp b else po || s.xp b
        s.tk.core < 1536 → Effects i s (({ s with mem := s.mem.write key ((leBytes (amoWidth dbl) put).map fun v => ({ b := v, p := p } : PByte)) } :
          State).setX d (amoExt dbl x) po) 4)) := by
  refine ⟨fun hp => faults_of hs hi (scalarAmo_poisoned hp), fun hp => ⟨fun r old hg => effects_of hs hi (scalarAmo_bytes hp hg),
    fun hin hal => ?_⟩⟩
  intro key old x po put p hc
  have h := scalarAmo_bytes hp (hin.atomic hc hal 0 (s.amoArg op dbl d b))
  have hbytes : amoBytes (s.amoArg op dbl d b) old = (leBytes (amoWidth dbl) put).map fun v => ({ b := v, p := p } : PByte) := by
    refine (amoBytes_read ..).trans ?_
    simp only [State.amoArg, hnew]
    rfl
  exact effects_of hs hi (hbytes ▸ h)

end Scalar

/-- Settles O19, operation by operation. -/
theorem scalarAtomicsGiveOldValue : Obligations.ScalarAtomicsGiveOldValue := by
  intro s hs d a b dbl n w v ext acts
  refine ⟨?add, ?and, ?or, ?xor, ?min, ?max, ?minu, ?maxu, ?swp, ?cas⟩
  case add => exact scalarAmo_acts 0 (.amoadd dbl d a b) (fun x => (x + v) % 2 ^ w) hs rfl fun x => rfl
  case and => exact scalarAmo_acts 1 (.amoand dbl d a b) (fun x => x &&& v) hs rfl fun x => rfl
  case or => exact scalarAmo_acts 2 (.amoor dbl d a b) (fun x => x ||| v) hs rfl fun x => rfl
  case xor => exact scalarAmo_acts 3 (.amoxor dbl d a b) (fun x => Nat.xor x v) hs rfl fun x => rfl
  case min => exact scalarAmo_acts 4 (.amomin dbl d a b) (fun x => if toInt w v < toInt w x then v else x) hs rfl fun x => rfl
  case max => exact scalarAmo_acts 5 (.amomax dbl d a b) (fun x => if toInt w x < toInt w v then v else x) hs rfl fun x => rfl
  case minu =>
    refine scalarAmo_acts 6 (.amominu dbl d a b) (fun x => min x v) hs rfl fun x => ?_
    change (if v < x then v else x) = min x v
    split <;> omega
  case maxu =>
    refine scalarAmo_acts 7 (.amomaxu dbl d a b) (fun x => max x v) hs rfl fun x => ?_
    change (if x < v then v else x) = max x v
    split <;> omega
  case swp => exact scalarAmo_acts 8 (.amoswp dbl d a b) (fun _ => v) hs rfl fun x => rfl
  case cas =>
    refine scalarAmo_acts 9 (.amocas dbl d a b) (fun x => if x = (s.x d).toNat % 2 ^ w then v else x) hs rfl fun x => ?_
    exact ite_congr (propext beq_iff_eq) (fun _ => rfl) fun _ => rfl

end Sys2Proof.Machine

/-! ## Copies are queued (R244, R248) -/

namespace Sys2Proof.Machine

section Copies
variable {s : State} {d : Reg} {o : CopyOp} {empty : Bool}

/-- A number of a timeline is taken by the current thread alone. -/
@[simp] theorem State.issueOp_cur (s : State) (t : Nat) : (s.issueOp t).1.cur = s.cur := rfl

/-- The state in which a copy instruction has its number, which xd has (R240). -/
def State.numbered (s : State) (d : Reg) : State := (s.issueOp 0).1.setX d (BitVec.ofNat 64 (s.issueOp 0).2) false

/-- The state in which a copy stands in its cluster's queue (R244). -/
def State.queuedCopy (s : State) (d : Reg) (o : CopyOp) : State :=
  let c := (s.numbered d).cluster o.cluster
  (s.numbered d).setCluster o.cluster
    { c with copies := c.copies ++ [{ o with seq := (s.issueOp 0).2, since := c.clock }], clock := c.clock + 1 }

theorem State.queueCopy_empty : s.queueCopy d o true = ((s.numbered d).retire s.cur.1 0 (s.issueOp 0).2, .done) := rfl

theorem State.queueCopy_full (h : 512 ≤ (s.queueOf s.tk.core).length) : s.queueCopy d o false = (s, .wait .queue) := by
  rw [State.queueCopy, if_pos (by simpa using h)]

theorem State.queueCopy_queues (h : ¬ 512 ≤ (s.queueOf s.tk.core).length) : s.queueCopy d o false = (s.queuedCopy d o, .done) := by
  rw [State.queueCopy, if_neg (by simpa using h)]
  rfl

theorem unlessFault_orElse (f g : Option (Nat × Nat)) (k : State → State × Res) :
    unlessFault (f <|> g) k s = unlessFault f (unlessFault g k) s := by
  cases f <;> rfl

theorem unlessFault_congr {f g : Option (Nat × Nat)} {k m : State → State × Res} (hf : f = g) (hk : k s = m s) :
    unlessFault f k s = unlessFault g m s := by
  subst hf
  cases f with
  | none => exact hk
  | some f => rfl

/-- How a copy instruction ends: with the fault of its ranges, at once when it moves nothing, waiting, or queued. -/
theorem copy_ends (i : Instr) (srcs : List Reg) (bad : Option (Nat × Nat)) (empty : Bool) (o : CopyOp) {k : State → State × Res}
    (hs : s.Ready) (hi : exec i s = issue .plain 8 s fun s => s.unlessPoison srcs k)
    (hk : k s = unlessFault bad (fun s => s.queueCopy d o empty) s) :
    (srcs.any s.xp = true → Faults i s 0x51 0 0)
    ∧ (srcs.any s.xp = false →
      (∀ f, bad = some f → Faults i s f.1 f.2 0)
      ∧ (bad = none → empty = true → Effects i s ((s.numbered d).retire s.cur.1 0 (s.issueOp 0).2) 8)
      ∧ (bad = none → empty = false → ¬ 512 ≤ (s.queueOf s.tk.core).length → Effects i s (s.queuedCopy d o) 8)
      ∧ (bad = none → empty = false → 512 ≤ (s.queueOf s.tk.core).length → Waits i s .queue)) := by
  refine ⟨fun hp => faults_of hs hi (State.unlessPoison_of_any hp _), fun hp => ?_⟩
  have hf : s.unlessPoison srcs k = unlessFault bad (fun s => s.queueCopy d o empty) s := (State.unlessPoison_of_not_any hp _).trans hk
  refine ⟨fun f hb => faults_of hs hi ?fault, fun hb he => effects_of hs hi ?empty, fun hb he hq => effects_of hs hi ?queued,
    fun hb he hq => waits_of hs hi nofun ?full⟩
  case fault => rw [hf, hb]; rfl
  case empty => rw [hf, hb, he]; rfl
  case queued => rw [hf, hb, he]; exact State.queueCopy_queues hq
  case full => rw [hf, hb, he]; exact State.queueCopy_full hq

/-- The signed halves of a register. -/
theorem half_eq (v : Word) : half v false = (v.setWidth 32).toInt ∧ half v true = (v.extractLsb' 32 32).toInt := by
  constructor
  · rw [half, ← toInt_toNat]
    simp [toInt]
  · rw [half, show v.extractLsb' 32 32 = (v.extractLsb' 32 32).setWidth 32 by simp, ← toInt_toNat]
    simp [toInt, Nat.shiftRight_eq_div_pow]

end Copies

/-- Settles O21, form by form. -/
theorem copiesAreQueued : Obligations.CopiesAreQueued := by
  intro s hs d a b c e raw num r full cl queued acts n lo hi len rows o
  have hlen : (s.x c).toNat % 2 ^ 32 = len := by simp [len]
  have hrows : (s.x c).toNat / 2 ^ 32 = rows := by
    have := (s.x c).isLt
    simp only [rows, BitVec.extractLsb'_toNat, Nat.shiftRight_eq_div_pow]
    omega
  have hlo : half (s.x e) false = lo (s.x e) := (half_eq _).1
  have hhi : half (s.x e) true = hi (s.x e) := (half_eq _).2
  have hnone : decide (len = 0 ∨ rows = 0) = (len == 0 || rows == 0) := by rw [Bool.decide_or]; rfl
  refine ⟨?cpy, ?set, ?rows, ?cmp, ?tile⟩
  case cpy =>
    exact copy_ends (.cpy d a b c raw) [a, b, c] (s.spanFault (s.x a).toNat n <|> s.spanFault (s.x b).toNat n) (decide (n = 0))
      { o 0 with dst := s.x a, src := s.x b, len := n, raw := raw } hs rfl (unlessFault_congr rfl rfl)
  case set =>
    exact copy_ends (.cpyset d a b c raw) [a, b, c] (s.spanFault (s.x a).toNat n) (decide (n = 0))
      { o 2 with dst := s.x a, len := n, patt := s.x b, pp := s.xp b, raw := raw } hs rfl (unlessFault_congr rfl rfl)
  case rows =>
    refine copy_ends (.cpy2 d a b c e raw) [a, b, c, e]
      (if len = 0 ∨ rows = 0 then none
        else s.rowsFault (s.x a).toNat (lo (s.x e)) len 0 rows <|> s.rowsFault (s.x b).toNat (hi (s.x e)) len 0 rows)
      (decide (len = 0 ∨ rows = 0))
      { o 1 with dst := s.x a, src := s.x b, len := len, rows := rows, dstr := lo (s.x e), sstr := hi (s.x e), raw := raw }
      hs rfl (unlessFault_congr ?_ ?_)
    · simp only [hlen, hrows, hlo, hhi, Bool.or_eq_true, beq_iff_eq]
    · rw [hlen, hrows, hlo, hhi, hnone]
  case cmp =>
    refine copy_ends (.cpycmp d a b c e raw) [a, b, c, e]
      (s.spanFault (s.x a).toNat n <|> s.spanFault (s.x b).toNat n <|> if n = 0 then none else s.spanFault (s.x e).toNat 8)
      (decide (n = 0)) { o 4 with dst := s.x a, src := s.x b, len := n, res := s.x e, raw := raw } hs rfl
      (unlessFault_congr ?_ rfl)
    exact congrArg (fun last => s.spanFault (s.x a).toNat n <|> s.spanFault (s.x b).toNat n <|> last)
      (ite_congr (propext beq_iff_eq) (fun _ => rfl) fun _ => rfl)
  case tile =>
    intro tile first count dir t k own span
    have hst : toInt 64 (s.x b).toNat = (s.x b).toInt := by rw [toInt_toNat, BitVec.setWidth_eq]
    refine copy_ends (.cpytile d a b tile first count dir) [a, b] (span <|> if own then none else some (0x25, 0)) false
      { o 3 with dst := s.x a, len := tcfgRow t, rows := k, dstr := (s.x b).toInt, tile := tile.toNat, first := first.toNat,
                 toTile := !dir, rowB := tcfgRow t, isTile := true } hs rfl ?_
    rw [unlessFault_orElse, ← hst]
    refine unlessFault_congr (by rw [hst]) ?_
    have hrefused : (!tcfgValid t || tcfgOwner t != s.tk.kid % 65536 || decide (tcfgRows t < first.toNat + k)) = true ↔ ¬ own := by
      simp only [own, Bool.or_eq_true, Bool.not_eq_true', bne_iff_ne, decide_eq_true_eq, not_and_or, Bool.not_eq_true, Nat.not_le, or_assoc,
        ne_eq]
    by_cases hown : own
    · rw [if_pos hown]
      exact if_neg fun h => hrefused.1 h hown
    · rw [if_neg hown]
      exact if_pos (hrefused.2 hown)

end Sys2Proof.Machine

/-! ## Events of pages, of buffered stores and of remote operations -/

namespace Sys2Proof.Machine

/-! ### Walks (R393, R399, R417) -/

section Walks
variable {s : State} {cl ctx va size : Nat} {e : Word} {peer : Bool}

theorem clusterOf_eq (core : Nat) : clusterOf core = core / 16 := rfl

theorem regionOf_dev_le (h : regionOf va = .dev) : 2 ^ 55 ≤ va := by
  by_contra hlt
  rw [regionOf, if_pos (by omega)] at h
  cases h

@[simp] theorem State.noteWalk_leaseOf (host : Bool) : (s.noteWalk ctx).leaseOf host e peer = s.leaseOf host e peer := rfl

/-- A walk that finds a leaf of device memory which may be cached leaves its translation in the cluster's cache. -/
theorem State.walkFor_dev_fills (hc : (s.cluster cl).time.st ≠ .unsync) (hd : (s.die (dieOf cl)).time.st ≠ .unsync) (hr : regionOf va = .dev)
    (hw : s.walkDev ctx va = .leaf e size peer) (hmig : leafMig e = false) (hpoi : leafPoi e = false) (hlease : leafLease e ≠ 0)
    (hpod : s.podOk (s.leaseOf false e peer).2 = true) :
    { ctx := ctx, page := va / size, size := size, leaf := e, host := false
      expiry := (s.die (dieOf cl)).time.read s.now + (s.leaseOf false e peer).1, skew := (s.leaseOf false e peer).2 }
        ∈ ((s.walkFor cl ctx va).1.cluster cl).tlb ∧ (s.walkFor cl ctx va).1.mem = s.mem := by
  have hhost : ¬ va < 2 ^ 55 := by have := regionOf_dev_le hr; omega
  have hlease' : (leafLease e != 0) = true := bne_iff_ne.mpr hlease
  have hkeep : (s.noteWalk ctx).podOk (s.leaseOf false e peer).2 = true := hpod
  unfold State.walkFor
  simp only [hhost, decide_false, beq_eq_false_iff_ne.mpr hd, beq_eq_false_iff_ne.mpr hc, hw, hmig, hpoi, hlease', if_false, Bool.false_eq_true, Bool.and_false,
    Bool.not_false, Bool.and_true, Bool.false_or, State.noteWalk_leaseOf, hkeep, if_true, State.cluster_setCluster_self,
    State.setCluster_mem]
  refine ⟨?_, rfl⟩
  rw [List.drop_append_of_le_length (by omega)]
  exact List.mem_append_right _ (List.mem_singleton.mpr rfl)

end Walks

/-- A part of O25: walks fill the cluster's cache. -/
theorem walksFillTranslations : Stated.WalksFillTranslations := by
  intro s cl ctx va e size peer hc hd hr hw hmig hpoi hlease hpod tr
  have hfills := State.walkFor_dev_fills hc hd hr hw hmig hpoi hlease hpod
  refine ⟨fun hask => ⟨_, congrArg Host.Outcome.next (if_pos ?_), hfills⟩,
    fun core slot tid hcl hrun hbuf hctx hst => ⟨_, congrArg Host.Outcome.next ?_, hfills⟩⟩
  · simp [hask, hr]
  · simp only [hbuf, hrun, hst, hctx, clusterOf_eq, hcl]

/-! ### Expiries (R399) -/

/-- A core without the lines of its caches whose expiry has come. -/
def Core.expired (k : Core) (now : Nat) : Core :=
  { k with dcache := k.dcache.filter (fun l => now < l.expiry), icache := k.icache.filter fun l => now < l.expiry }

/-- A state in which the lines of the first n cores of a cluster have expired. -/
def State.coresExpired (s : State) (cl now n : Nat) : State :=
  (List.range n).foldl (fun s i => s.setCore (16 * cl + i) ((s.core (16 * cl + i)).expired now)) s

theorem State.coresExpired_succ (s : State) (cl now n : Nat) : s.coresExpired cl now (n + 1) =
    (s.coresExpired cl now n).setCore (16 * cl + n) (((s.coresExpired cl now n).core (16 * cl + n)).expired now) := by
  simp [State.coresExpired, List.range_succ]

/-- Only the cores change. -/
theorem State.coresExpired_frame (s : State) (cl now n : Nat) : ∃ cs, s.coresExpired cl now n = { s with cores := cs } := by
  induction n with
  | zero => exact ⟨s.cores, rfl⟩
  | succ n ih =>
    obtain ⟨cs, hcs⟩ := ih
    rw [State.coresExpired_succ, hcs]
    exact ⟨_, rfl⟩

theorem State.coresExpired_core (s : State) (cl now n i : Nat) :
    (s.coresExpired cl now n).core (16 * cl + i) = if i < n then (s.core (16 * cl + i)).expired now else s.core (16 * cl + i) := by
  induction n with
  | zero => rfl
  | succ n ih =>
    rw [State.coresExpired_succ, State.core_setCore]
    by_cases h : i = n
    · subst h
      rw [if_pos rfl, if_pos (by omega), ih, if_neg (by omega)]
    · rw [if_neg (by omega), ih]
      exact if_congr (by omega) rfl rfl

theorem exec_leaseExpiry (s : State) (cl : Nat) : exec (.leaseExpiry cl) s =
    .next ((s.setCluster cl { s.cluster cl with tlb := (s.cluster cl).tlb.filter fun t => s.clusterTime cl < t.expiry }).coresExpired cl
      (s.clusterTime cl) 16) := by
  change execLeaseExpiry cl s = _
  unfold execLeaseExpiry event State.coresExpired Core.expired
  rfl

/-- A part of O25: translations and lines expire. -/
theorem leasesExpire : Stated.LeasesExpire := by
  intro s cl
  obtain ⟨cs, hcs⟩ := State.coresExpired_frame
    (s.setCluster cl { s.cluster cl with tlb := (s.cluster cl).tlb.filter fun t => s.clusterTime cl < t.expiry }) cl (s.clusterTime cl) 16
  refine ⟨_, exec_leaseExpiry s cl, ?_, ?_, fun i hi => ?_⟩
  · rw [hcs]
    rfl
  · rw [hcs]
    exact State.cluster_setCluster_self ..
  · rw [State.coresExpired_core, if_pos hi]
    exact ⟨rfl, rfl⟩

/-! ### Held atomics and frames -/

/-- A part of O25: a held atomic takes its turn. -/
theorem heldAtomicsTakeTurn : Stated.HeldAtomicsTakeTurn := by
  intro s core tid slot len w wt f hrun hst hheld hat
  refine congrArg Host.Outcome.next ?_
  simp only [hrun, hheld, hat, State.resumeAs, hst]

theorem reuseAfter_eq (rs : List Reuse) (old new : Word) (at_ ctx : Nat) : reuseAfter rs old new at_ ctx =
    if endsMove old new then rs
    else (if leafPres old && leafMig old && !leafMig new then rs.filter fun r => !(r.copy && r.pa == leafPa old && r.ctx == ctx) else rs)
      ++ if revokes old new then [{ pa := leafPa old, at_ := at_, ctx := ctx, copy := beginsMove old new }] else [] := by
  unfold reuseAfter
  cases revokes old new <;> simp

/-- A part of O25: firmware's stores and the reuse rule. -/
theorem revokedFramesWait : Stated.RevokedFramesWait := by
  refine ⟨?store, fun s i r hr => ⟨fun hat hcopy => ?elapsed, fun h => ?waits⟩⟩
  case store =>
    intro s ctx pa v cls peer hal hlt old
    refine congrArg Host.Outcome.next ?_
    refine (if_neg (by simp [hal]; omega)).trans ?_
    rw [← reuseAfter_eq]
  case elapsed =>
    refine congrArg Host.Outcome.next ?_
    simp only [hr]
    exact if_pos (by simp [hat, hcopy])
  case waits =>
    refine congrArg Host.Outcome.next ?_
    simp only [hr]
    refine if_neg ?_
    rcases h with h | h
    · simp [h]
    · rw [h]; simp

/-! ### The host half (R411, R412) -/

theorem length_extInsert (xs : List (Nat × Nat)) (x : Nat × Nat) : (extInsert xs x).length = xs.length + 1 := by
  have hsplit := List.length_eq_length_filter_add (l := xs) fun y => decide (y.1 ≤ x.1)
  have hrest : (xs.filter fun y => !decide (y.1 ≤ x.1)) = xs.filter fun y => decide (x.1 < y.1) := by
    simp only [← decide_not, Nat.not_le]
  rw [hrest] at hsplit
  rw [extInsert, List.length_append, List.length_cons]
  omega

/-- What an insertion holds is the extent and what there was. -/
theorem mem_extInsert {xs : List (Nat × Nat)} {x e : Nat × Nat} (h : e ∈ extInsert xs x) : e = x ∨ e ∈ xs := by
  rw [extInsert, List.mem_append, List.mem_cons] at h
  rcases h with h | h | h
  · exact .inr (List.mem_of_mem_filter h)
  · exact .inl h
  · exact .inr (List.mem_of_mem_filter h)

/-- Two neighbours are merged when the gap is the least one: some neighbours have it, since the gap of any is below 2^64. -/
theorem length_mergeAt_leastGap (x y : Nat × Nat) (xs : List (Nat × Nat)) (h : ∀ e ∈ y :: xs, e.1 < 2 ^ 64) :
    (mergeAt (leastGap (x :: y :: xs)) (x :: y :: xs)).length = xs.length + 1 := by
  induction xs generalizing x y with
  | nil =>
    have hy : y.1 < 2 ^ 64 := h y List.mem_cons_self
    rw [mergeAt, leastGap, leastGap, if_pos (by simp; omega)]
    · rfl
    · simp
  | cons z xs ih =>
    rw [mergeAt]
    by_cases hg : y.1 - (x.1 + x.2) = leastGap (x :: y :: z :: xs)
    · rw [if_pos (by rw [hg]; exact beq_self_eq_true _)]
      rfl
    · have hleast : leastGap (x :: y :: z :: xs) = leastGap (y :: z :: xs) := by
        rw [leastGap] at hg ⊢
        omega
      rw [if_neg (by simpa using hg), hleast, List.length_cons, ih y z fun e he => h e (List.mem_cons_of_mem _ he)]
      rfl

/-- A list of more than 16 extents that joins is one shorter after firmware merges two. -/
theorem length_mergeAt_extInsert {xs : List (Nat × Nat)} {x : Nat × Nat} (hlen : xs.length ≠ 0) (hx : x.1 < 2 ^ 64) (h : ∀ e ∈ xs, e.1 < 2 ^ 64) :
    (mergeAt (leastGap (extInsert xs x)) (extInsert xs x)).length = xs.length := by
  have hall : ∀ e ∈ extInsert xs x, e.1 < 2 ^ 64 := fun e he => (mem_extInsert he).elim (fun hex => hex ▸ hx) (h e)
  have hins := length_extInsert xs x
  match hl : extInsert xs x, hins, hall with
  | [], hins, _ => simp at hins
  | [_], hins, _ => exact absurd (Nat.succ.inj hins).symm hlen
  | a :: b :: l, hins, hall =>
    rw [length_mergeAt_leastGap a b l fun e he => hall e (List.mem_cons_of_mem _ he)]
    exact Nat.succ.inj hins

/-- A part of O25: invalidations and releases of host memory. -/
theorem hostExtentsGo : Stated.HostExtentsGo := by
  intro s
  refine ⟨fun va len => rfl, fun i a ha hat hquiet => ?answered, fun i a ha hwait => ?waits, fun va len => rfl, fun va len hlen => ?joins,
    fun va len hlen hall => ⟨_, rfl, ?merged⟩⟩
  case answered =>
    refine congrArg Host.Outcome.next ?_
    simp only [ha]
    exact if_pos (by simp [hat, hquiet])
  case waits =>
    refine congrArg Host.Outcome.next ?_
    simp only [ha]
    refine if_neg ?_
    rcases hwait with hlt | hquiet
    · simp [hlt]
    · simp [hquiet]
  case joins =>
    change execDcdForcedRelease va len s = _
    unfold execDcdForcedRelease event
    simp only [length_extInsert]
    rw [if_neg (by omega)]
    rfl
  case merged =>
    change (if 16 < (extInsert s.hostPoison (va.toNat, len)).length then
      mergeAt (leastGap (extInsert s.hostPoison (va.toNat, len))) (extInsert s.hostPoison (va.toNat, len))
      else extInsert s.hostPoison (va.toNat, len)).length = 16
    rw [if_pos (by rw [length_extInsert]; omega), length_mergeAt_extInsert (by omega) va.isLt hall, hlen]

/-! ### Requests and responses (R401, R439, R440) -/

section Requests
variable {s : State} {p : Packet}

theorem State.onRequest_recorded {r : TargetRec} (h : s.targets.find? (fun r => r.src == p.src && r.opseq == p.opseq) = some r) :
    s.onRequest p = some (s.sendPacket r.reply) := by
  simp only [State.onRequest, h]

/-- A request that no record of the target answers. -/
def State.Unrecorded (s : State) (p : Packet) : Prop := ∀ r ∈ s.targets, r.src = p.src → r.opseq ≠ p.opseq

theorem State.Unrecorded.find (h : s.Unrecorded p) : s.targets.find? (fun r => r.src == p.src && r.opseq == p.opseq) = none := by
  rw [List.find?_eq_none]
  intro r hr hmatch
  rw [Bool.and_eq_true, beq_iff_eq, beq_iff_eq] at hmatch
  exact h r hr hmatch.1 hmatch.2

/-- A read that comes too late is refused. -/
theorem State.onRequest_expired (h : s.Unrecorded p) (hk : p.kind = 0) (he : p.expiry ≤ s.now + 40) :
    s.onRequest p = some (s.sendPacket { responseTo p 3 with notPerf := true }) := by
  simp only [State.onRequest, h.find, he, if_true, hk]

/-- A read that comes in time goes by the state of the stacks that it touches. -/
theorem State.onRequest_held {k : Nat} (h : s.Unrecorded p) (he : s.now + 40 < p.expiry) (hway : s.wayIn p = true)
    (hself : (touchedStacks p).find? (fun k => (s.stack k).th == .self && !(s.stack k).lost) = some k) :
    s.onRequest p = some (s.holdAt k (.request p)) := by
  simp only [State.onRequest, h.find, Nat.not_le.mpr he, if_false, hway, Bool.not_true, Bool.false_eq_true, hself]

theorem State.onRequest_read (h : s.Unrecorded p) (hk : p.kind = 0) (he : s.now + 40 < p.expiry) (hway : s.wayIn p = true)
    (hself : (touchedStacks p).find? (fun k => (s.stack k).th == .self && !(s.stack k).lost) = none) :
    let q := carry (responseTo p 3) (s.paBytes (p.addr % 2 ^ 40) p.len)
    s.onRequest p = some (({ s.countAccess p.ctx (p.addr % 2 ^ 40) p.len false with
      targets := s.targets ++ [⟨p.src, p.opseq, q, s.now⟩] } : State).sendPacket q) := by
  intro q
  have hcount : (s.countAccess p.ctx (p.addr % 2 ^ 40) p.len false).targets = s.targets ∧
      (s.countAccess p.ctx (p.addr % 2 ^ 40) p.len false).now = s.now := by
    unfold State.countAccess
    split <;> exact ⟨rfl, rfl⟩
  simp only [State.onRequest, h.find, Nat.not_le.mpr he, if_false, hway, Bool.not_true, Bool.false_eq_true, hself, State.performRequest, hk, hcount]
  rfl

/-- The event of a request that the target takes. -/
theorem exec_remoteRequestReceive {t : State} (hk : p.kind ≤ 2) (h : s.onRequest p = some t) : exec (.remoteRequestReceive p) s = .next t := by
  have htake : s.takeRequest p = (s.onRequest p).getD { s with vqueue := s.vqueue ++ [⟨0, 0, none, { p with dst := s.self }⟩] } :=
    if_neg (by simp; omega)
  exact congrArg Host.Outcome.next (htake.trans (by rw [h]; rfl))

end Requests

/-- A part of O25: targets answer. -/
theorem targetsAnswerRequests : Stated.TargetsAnswerRequests := by
  refine ⟨fun s p r hk hr => exec_remoteRequestReceive hk (State.onRequest_recorded hr), fun s p hk hnew => ?_, fun s src n => rfl⟩
  have hkind : p.kind ≤ 2 := by omega
  refine ⟨fun he => exec_remoteRequestReceive hkind (State.onRequest_expired hnew hk he), fun he hway hself =>
    exec_remoteRequestReceive hkind (State.onRequest_read hnew hk he hway ?clear), fun he hway k hne hall hself hlost =>
    exec_remoteRequestReceive hkind (State.onRequest_held hnew he hway ?held)⟩
  case clear =>
    rw [List.find?_eq_none]
    intro k hmem
    simp [hself k hmem]
  case held =>
    match hl : touchedStacks p, hne, hall with
    | j :: l, _, hall =>
      have hj : j = k := hall j List.mem_cons_self
      rw [List.find?_cons_of_pos (by simp [hj, hself, hlost]), hj]

section Responses
variable {s : State}

theorem State.retireLdrains_nil (h : s.ldrains = []) : s.retireLdrains = s := by
  unfold State.retireLdrains
  simp only [h, List.filter_nil, List.foldl_nil]
  rw [← h]

theorem State.giveEngine_ldrains (tid tag code : Nat) (bs : List PByte) : (s.giveEngine tid tag code bs).ldrains = s.ldrains := by
  unfold State.giveEngine
  split <;> rfl

/-- The only operation of a list is found by its name. -/
theorem find_remote (r : RemoteOp) : [r].find? (fun o => o.target == r.target && o.opseq == r.opseq) = some r :=
  List.find?_cons_of_pos (by simp)

theorem filter_remote (r : RemoteOp) : [r].filter (fun o => !(o.target == r.target && o.opseq == r.opseq)) = [] :=
  List.filter_cons_of_neg (by simp)

/-- An operation's response has come. -/
theorem exec_remoteResponseReceive {p : Packet} (h3 : 3 ≤ p.kind) (h5 : p.kind ≤ 5) : exec (.remoteResponseReceive p) s = .next (s.onResponse p) :=
  congrArg Host.Outcome.next (if_pos (by simp [h3, h5]))

end Responses

/-- A part of O25: requesters end their operations. -/
theorem requestersEndOperations : Stated.RequestersEndOperations := by
  refine ⟨fun s p h3 h5 hnone => ?ignored, fun s p r tid slot tag hk hnot hrem htarget hopseq hwho hread hld hwaits => ?load,
    fun s r hrem hheld => ⟨fun hlast => ?again, fun hlast => ?early, fun hfirst hchange => ?abandoned, fun hfirst => ?young⟩⟩
  case ignored =>
    rw [exec_remoteResponseReceive h3 h5]
    have hfind : s.remotes.find? (fun r => r.target == p.src && r.opseq == p.opseq) = none := by
      rw [List.find?_eq_none]
      intro r hr hmatch
      rw [Bool.and_eq_true, beq_iff_eq, beq_iff_eq] at hmatch
      exact hnone r hr hmatch.1 hmatch.2
    simp only [State.onResponse, hfind]
  case load =>
    rw [exec_remoteResponseReceive (by omega) (by omega)]
    refine congrArg Host.Outcome.next ?_
    have hk4 : (p.kind == 4) = false := by simp [hk]
    simp only [State.onResponse, hrem, ← htarget, ← hopseq, find_remote, filter_remote, hnot, hk4, Bool.false_and, Bool.or_self, Bool.false_eq_true,
      if_false, State.peerPerformed, hread, State.takeAnswer, hwho, State.giveThread]
    rw [if_pos (by exact hwaits)]
    exact State.retireLdrains_nil hld
  case again =>
    refine congrArg Host.Outcome.next ?_
    simp only [hrem, find_remote]
    rw [if_pos (by simp [hheld, hlast]), List.map_cons, List.map_nil, if_pos (by simp)]
  case early =>
    refine congrArg Host.Outcome.next ?_
    simp only [hrem, find_remote]
    exact if_neg (by simp [hlast])
  case abandoned =>
    refine ⟨s.loseRemote r false, congrArg Host.Outcome.next ?_, fun tid tag hwho hld => ?_⟩
    · simp only [hrem, find_remote]
      exact if_pos (by simp [hheld, hchange, hfirst])
    · simp only [State.loseRemote, hrem, filter_remote, hwho, Bool.false_eq_true, if_false]
      exact State.retireLdrains_nil ((State.giveEngine_ldrains ..).trans hld)
  case young =>
    refine congrArg Host.Outcome.next ?_
    simp only [hrem, find_remote]
    exact if_neg (by simp [hfirst])

/-! ### Forwarding (R437) -/

section Forward
variable {s : State}

theorem State.sendIdle_vqueue_mem (port i : Nat) : (s.sendIdle port i).vqueue = s.vqueue ∧ (s.sendIdle port i).mem = s.mem := by
  unfold State.sendIdle
  split <;> exact ⟨rfl, rfl⟩

/-- A packet that leaves the switch's queue gives its credits back and touches no memory. -/
theorem State.unqueue_vqueue_mem {i : Nat} {q : Queued} (h : s.vqueue[i]? = some q) :
    (s.unqueue i).vqueue = s.vqueue.eraseIdx i ∧ (s.unqueue i).mem = s.mem := by
  simp only [State.unqueue, h]
  cases q.src with
  | none => exact ⟨rfl, rfl⟩
  | some x => exact State.sendIdle_vqueue_mem ..

/-- A port whose request o has been answered. -/
def Port.answered (o : Nat × Nat × Nat) (k : Port) : Port := { k with crossed := k.crossed.filter fun x => x != o }

theorem State.notePassed_port (src dst opseq port : Nat) :
    (s.notePassed src dst opseq).port port = (s.port port).answered (src, dst, opseq) :=
  AMap.get_map_of_value (f := Port.answered (src, dst, opseq)) (fun _ => rfl) rfl s.ports port

/-- What a crossing leaves unchanged. -/
theorem State.noteCrossing_frame (port : Nat) (p : Packet) : (s.noteCrossing port p).vqueue = s.vqueue ∧ (s.noteCrossing port p).mem = s.mem
    ∧ ((s.noteCrossing port p).port port).lanes = (s.port port).lanes := by
  unfold State.noteCrossing
  split
  · exact ⟨rfl, rfl, by rw [State.notePassed_port]; rfl⟩
  · exact ⟨rfl, rfl, by rw [State.port_setPort_self]⟩

end Forward

/-- A part of O25: packets go on. -/
theorem packetsAreForwarded : Stated.PacketsAreForwarded := by
  intro s i q hq hdst
  have hself : (q.pkt.dst == s.self) = false := beq_eq_false_iff_ne.mpr hdst
  refine ⟨fun hpick => ?nowhere, fun port vc hpick => ⟨fun hfits => ?full, fun hfits => ?goes⟩⟩
  case nowhere =>
    refine congrArg Host.Outcome.next ?_
    simp only [hq, hself, hpick, Bool.false_eq_true, if_false]
  case full =>
    refine congrArg Host.Outcome.next ?_
    simp only [hq, hself, hpick, Bool.false_eq_true, if_false]
    exact if_neg (by simpa using hfits)
  case goes =>
    let u := (s.unqueue i).setPort port (((s.unqueue i).port port).sendPacket (s.bestLane port vc) vc q.pkt)
    obtain ⟨hqueue, hmem⟩ := State.unqueue_vqueue_mem hq
    obtain ⟨hcqueue, hcmem, hclanes⟩ := u.noteCrossing_frame port q.pkt
    refine ⟨u.noteCrossing port q.pkt, congrArg Host.Outcome.next ?_, hcqueue.trans hqueue, hcmem.trans hmem, ?_⟩
    · simp only [hq, hself, hpick, Bool.false_eq_true, if_false]
      exact if_pos hfits
    · rw [hclanes, State.port_setPort_self]

/-! ### Buffered stores (R223, R230, R470) -/

section Stores
variable {s : State} {tid slot age : Nat} {p : StorePart} {e : BufStore}

/-- A part whose home does not refuse it keeps its translation. -/
theorem State.renewParts_single (h : s.home p.tr p.va p.bytes.length ≠ .refused) : s.renewParts tid slot age [p] = (s, [p]) := by
  have hno : (p.sent.isNone && decide (s.home p.tr p.va p.bytes.length = Home.refused)) = false := by simp [h]
  simp only [State.renewParts, hno, Bool.false_eq_true, if_false, Option.getD_some, List.append_nil]

/-- A part that waits for no older one and is performed, or fails, leaves nothing behind. -/
theorem State.sendSome_single_gone {before : List StorePart} {u : State} (hhome : s.home p.tr p.va p.bytes.length ≠ .refused)
    (hfree : s.meetsAny p before = false) (hsend : s.sendPart tid slot age p = .gone u) : s.sendSome tid slot age before [p] = (u, []) := by
  have hparts : s.sendParts tid slot age before [] [p] = (u, [], []) := by
    simp only [State.sendParts, List.filter_nil, List.append_nil, hfree, Bool.false_eq_true, if_false, hsend]
  simp only [State.sendSome, State.renewParts_single hhome, hparts, State.performViews, List.append_nil, List.length_nil]

/-- A part that is performed at its home or fails there. -/
theorem State.sendPart_ready (hsent : p.sent = none) (hhost : p.tr.host = false) (hview : isView (leafFmt p.tr.leaf) = false)
    (hhome : s.home p.tr p.va p.bytes.length = .ready) :
    s.sendPart tid slot age p = .gone
      (if s.lineActive (s.storageLines p.tr p.va p.bytes.length) then s.pendFault tid (storeFault slot 0x64 1 p.first)
      else (s.homeWrite p.tr p.va p.bytes).updateLines (s.task tid).core (s.task tid).ctx p.va p.tr p.bytes) := by
  simp only [State.sendPart, hsent, hhost, hhome, hview, Option.isSome_none, Bool.false_eq_true, Bool.false_and, Bool.and_false, if_false]
  split <;> rfl

theorem State.sendPart_lost (hsent : p.sent = none) (hhost : p.tr.host = false) (hhome : s.home p.tr p.va p.bytes.length = .lost) :
    s.sendPart tid slot age p = .gone (s.pendFault tid (storeFault slot 0x53 1 p.first)) := by
  simp only [State.sendPart, hsent, hhost, hhome, Option.isSome_none, Bool.false_eq_true, Bool.false_and, if_false]

/-- The event of a buffer's only store, of one part. -/
theorem exec_storePerform_single {core : Nat} {u : State} (hbuf : s.bufferOf core slot = some tid) (hw : (s.thread tid slot).wbuf = [e])
    (hp : e.parts = [p]) (hhome : s.home p.tr p.va p.bytes.length ≠ .refused) (hfree : s.meetsAny p ((s.task tid).olderParts e.age) = false)
    (hsend : s.sendPart tid slot e.age p = .gone u) : exec (.storePerform core slot 0) s = .next (u.setEntry tid slot e.age []) := by
  have hfind : ((s.task tid).thread slot).wbuf.find? (fun x => x.age == e.age) = some e := by
    rw [show ((s.task tid).thread slot).wbuf = [e] from hw]
    exact List.find?_cons_of_pos (beq_self_eq_true _)
  refine congrArg Host.Outcome.next ?_
  simp only [hbuf, hw, List.getElem?_cons_zero, State.performEntry, hfind, hp, State.sendSome_single_gone hhome hfree hsend]

end Stores

/-- A part of O25: stores go to their homes. -/
theorem storesPerformAtHome : Stated.StoresPerformAtHome := by
  intro s core tid slot e p hbuf hw hp hview hhost hsent hfree active
  refine ⟨fun hhome hact => exec_storePerform_single hbuf hw hp (by simp [hhome]) hfree ?written, fun hhome hact =>
    exec_storePerform_single hbuf hw hp (by simp [hhome]) hfree ?active, fun hhome =>
    exec_storePerform_single hbuf hw hp (by simp [hhome]) hfree (State.sendPart_lost hsent hhost hhome)⟩
  case written =>
    rw [State.sendPart_ready hsent hhost hview hhome, if_neg (by simpa [active] using hact)]
  case active => rw [State.sendPart_ready hsent hhost hview hhome, if_pos hact]

/-- Settles O25, part by part. -/
theorem pageAndRemoteEventsAct : Obligations.PageAndRemoteEventsAct :=
  ⟨walksFillTranslations, leasesExpire, storesPerformAtHome, heldAtomicsTakeTurn, revokedFramesWait, hostExtentsGo, targetsAnswerRequests,
    requestersEndOperations, packetsAreForwarded⟩

end Sys2Proof.Machine

/-! ## A copy of a core beyond the machine's (R245, R341) -/

namespace Sys2Proof.Machine

theorem exec_copyUnit {s : State} {core seq : Nat} {o : CopyOp} (h : s.copyAt core seq = some o) :
    exec (.copyUnit core seq) s = .next (s.copyStep o).1 := by
  change execCopyUnit core seq s = _
  rw [execCopyUnit, event, h]

/-- A fill of eight bytes of the issuing core's own window with ones, the first command of its thread. -/
def strayCopy : CopyOp :=
  { blankCopy State.reset 2 with seq := 1, tid := 1, cluster := 375, dst := BitVec.ofNat 64 cmBase, len := 8, patt := 1 }

/-- A broken block of a scratchpad's first granule. -/
def brokenGranule : Block := ⟨0, 0, 0, 0, 12, false, 0, 0, 0, (0, 0), false⟩

/-- A task on core 6000, beyond the machine's 1,536 cores. The keys of that core's window are those of cluster 0's scratchpad, whose first
granule is broken. -/
def strayState : State :=
  { State.reset with
    tasks := [(1, { Task.blank with place := .running 6000 false })],
    clusters := [(0, { Cluster.reset with broken := [brokenGranule] }), (375, { Cluster.reset with copies := [strayCopy] })] }

theorem copyAt_strayState : strayState.copyAt 6000 1 = some strayCopy := by decide +kernel

theorem cmHole_strayState : ∀ i < 8, strayState.cmHole 1 (cmBase + i - cmBase) = false := by decide +kernel

/-- The engine's write is discarded (R341). -/
theorem copyStep_strayState : ((strayState.copyStep strayCopy).1.mem.pbyte (strayState.cmOf 1 0)).b = 0 := by decide +kernel

/-- Refutes O26: nothing in the statement of CopyUnitsMove bounds the core, and the window of core 6000 lies under the keys of cluster 0's
scratchpad; when that block is broken, the unit's bytes are discarded. -/
theorem not_engineEventsAct : ¬ Obligations.EngineEventsAct := by
  rintro ⟨⟨hfill, -⟩, -⟩
  obtain ⟨t, ht, hmem, -⟩ := hfill strayState 6000 strayCopy copyAt_strayState rfl rfl rfl rfl rfl rfl rfl (by decide +kernel)
    (by decide +kernel) (by decide +kernel) (by decide +kernel) cmHole_strayState
  have hbyte : (t.mem.pbyte (strayState.cmOf 1 0)).b = 0 := by
    cases (exec_copyUnit copyAt_strayState).symm.trans ht
    exact copyStep_strayState
  rw [hmem] at hbyte
  exact absurd hbyte (by decide +kernel)

end Sys2Proof.Machine

/-! ## Tile loads and stores (R289, R313, R315) -/

namespace Sys2Proof.Machine

section Tiles
variable {s : State} {d a : Reg} {n : BitVec 4}

/-- Whether a load or store of a tile at the offset in xa passes its checks (R313). -/
def State.MayAccessTile (s : State) (a : Reg) (n : BitVec 4) : Prop :=
  s.ownsTile n.toNat = true ∧ (s.x a).toNat % 8 = 0 ∧ (s.x a).toNat + 128 ≤ 69632

/-- Whether an earlier instruction of the current thread still holds a tile (R315). -/
def State.tileAhead (s : State) (n : BitVec 4) : Bool :=
  (s.cluster s.tk.cluster).tileHolds s.cur.1 s.cur.2 n.toNat (s.cluster s.tk.cluster).clock

theorem offset_refused_iff (o : Nat) :
    (o % 8 != 0 || decide (69632 < o + Config.vlen / 8)) = true ↔ ¬ (o % 8 = 0 ∧ o + 128 ≤ 69632) := by
  have hlen : Config.vlen / 8 = 128 := rfl
  simp only [hlen, Bool.or_eq_true, bne_iff_ne, decide_eq_true_eq]
  omega

theorem tileAccess_refused (f : State → Nat → State) (hp : s.xp a = false) (h : ¬ s.MayAccessTile a n) :
    tileAccess a n f s = (s, .fault 0x25 0 0) := by
  refine (State.unlessPoison_of_clean hp _).trans ?_
  by_cases hown : s.ownsTile n.toNat = true
  · exact (if_neg (by simp [hown])).trans (if_pos ((offset_refused_iff _).mpr fun hoff => h ⟨hown, hoff⟩))
  · exact if_pos (by simpa using hown)

theorem tileAccess_allowed (f : State → Nat → State) (hp : s.xp a = false) (h : s.MayAccessTile a n) :
    tileAccess a n f s =
      if s.tileAhead n then (s, .wait .tile) else (f s (tileKey s.tk.cluster n.toNat (s.x a).toNat), .done) := by
  obtain ⟨hown, hoff⟩ := h
  exact (State.unlessPoison_of_clean hp _).trans ((if_neg (by simp [hown])).trans (if_neg fun h => (offset_refused_iff _).mp h hoff))

/-- How tld and tst end short of moving bytes: with their faults, or waiting for the tile. -/
theorem tileAccess_stops {i : Instr} {f : State → Nat → State} (hs : s.Ready) (hi : exec i s = issue .plain 8 s (tileAccess a n f)) :
    (s.xp a = true → Faults i s 0x51 0 0)
    ∧ (s.xp a = false → ¬ s.MayAccessTile a n → Faults i s 0x25 0 0)
    ∧ (s.xp a = false → s.MayAccessTile a n → s.tileAhead n = true → Waits i s .tile) :=
  ⟨fun hp => faults_of hs hi (State.unlessPoison_of_poisoned hp _), fun hp h => faults_of hs hi (tileAccess_refused f hp h),
    fun hp h hahead => waits_of hs hi nofun ((tileAccess_allowed f hp h).trans (if_pos hahead))⟩

theorem tileAccess_moves (f : State → Nat → State) (hp : s.xp a = false) (h : s.MayAccessTile a n) (hfree : s.tileAhead n = false) :
    tileAccess a n f s = (f s (tileKey s.tk.cluster n.toNat (s.x a).toNat), .done) :=
  (tileAccess_allowed f hp h).trans (if_neg (by simp [hfree]))

/-- The bytes from a key as a vector register, and the poison of its chunks (R313). -/
def Memory.vector (m : Memory) (key : Nat) : VReg × BitVec 16 :=
  let bs := m.read key 128
  (BitVec.ofNat 1024 (leNat (bs.map PByte.b)),
    BitVec.ofNat 16 ((List.range 16).map fun i => if ((bs.drop (8 * i)).take 8).any PByte.p then 2 ^ i else 0).sum)

/-- A thread behind an instruction that gave it a vector register. -/
theorem Thread.setV_after (t : Thread) (r : Reg) (v : VReg) (p : BitVec 16) (len : Nat) :
    let u := (t.setV r v p).after len
    u.pc = t.pc + BitVec.ofNat 64 len ∧ u.x = t.x ∧ u.vr r = v ∧ (∀ c < 16, u.vpr r c = p.getLsbD c) ∧ ∀ q, q ≠ r → u.vr q = t.vr q :=
  ⟨rfl, rfl, (t.vr_setV r v p r).trans (if_pos rfl), fun c hc => (t.vpr_setV r v p r c hc).trans (if_pos rfl),
    fun q hq => (t.vr_setV r v p q).trans (if_neg hq)⟩

/-- Lanes of 8 bits are the bytes. -/
theorem Memory.laneOf_vector (m : Memory) (key : Nat) {i : Nat} (hi : i < 128) : laneOf (m.vector key).1.toNat 8 i = (m.byte (key + i)).toNat := by
  have hget : ((m.read key 128).map PByte.b).getD i 0 = m.byte (key + i) := by simp [Memory.read, Memory.pbyte, hi]
  rw [Memory.vector, laneOf_leNat (by simp [Memory.read]), hget]
  exact Nat.mod_eq_of_lt (m.byte (key + i)).isLt

/-- A chunk is poisoned with any of its bytes. -/
theorem Memory.getLsbD_vector (m : Memory) (key : Nat) {k : Nat} (hk : k < 16) :
    (m.vector key).2.getLsbD k = (List.range 8).any fun i => m.poisoned (key + 8 * k + i) := by
  have hchunk : ((m.read key 128).drop (8 * k)).take 8 = (List.range 8).map fun i => m.pbyte (key + 8 * k + i) := by
    refine List.ext_getElem (by simp [Memory.read]; omega) fun i _ _ => ?_
    simp [Memory.read, Nat.add_assoc]
  rw [Memory.vector, BitVec.getLsbD_ofNat, testBit_range, hchunk, List.any_map]
  simp [hk, Memory.pbyte, Function.comp_def]

/-- The bytes of a vector register with the poison of their chunks (R313). -/
def Thread.vectorBytes (t : Thread) (d : Reg) : List PByte :=
  (List.range 128).map fun i => { b := BitVec.ofNat 8 (t.lane d 8 i).1, p := t.vpr d (i / 8) }

theorem Thread.vectorBytes_eq (t : Thread) (d : Reg) :
    ((leBytes 128 (t.vr d).toNat).zip (List.range 128)).map (fun b => ({ b := b.1, p := t.vpr d (b.2 / 8) } : PByte)) = t.vectorBytes d := by
  have hzip := zip_range 128 (fun i => BitVec.ofNat 8 (laneOf (t.vr d).toNat 8 i)) id
  rw [List.map_id] at hzip
  rw [leBytes_eq, hzip, List.map_map]
  rfl

end Tiles

/-- Settles O22: tld and tst share their checks and their wait, and differ in what they do at the tile's bytes. -/
theorem tileAccessesMoveBytes : Obligations.TileAccessesMoveBytes := by
  intro s hs d a n o c own key both
  obtain ⟨hlpoison, hlrefused, hlwaits⟩ := tileAccess_stops (i := .tld d a n) hs rfl
  obtain ⟨hspoison, hsrefused, hswaits⟩ := tileAccess_stops (i := .tst d a n) hs rfl
  refine ⟨fun hp => ⟨hlpoison hp, hspoison hp⟩, fun hp h => ⟨hlrefused hp h, hsrefused hp h⟩,
    fun hp h hahead => ⟨hlwaits hp h hahead, hswaits hp h hahead⟩, fun hp h hfree => ⟨?load, ?store⟩⟩
  case load =>
    let t := s.thr.setV d (s.mem.vector key).1 (s.mem.vector key).2
    have hthr : (s.setThr (t.after 8)).thr = t.after 8 := State.thr_setThr ..
    obtain ⟨hpc, hx, hd, hchunk, hothers⟩ := s.thr.setV_after d (s.mem.vector key).1 (s.mem.vector key).2 8
    refine ⟨s.setThr (t.after 8), issue_setThr hs .plain 8 _ t (tileAccess_moves _ hp h hfree), rfl, ?_⟩
    rw [OnlyThread, hthr]
    refine ⟨hpc, hx, rfl, fun i hi => ?lane, fun k hk => (hchunk k hk).trans (s.mem.getLsbD_vector key hk), hothers⟩
    rw [Thread.lane, hd, s.mem.laneOf_vector key hi]
  case store =>
    rw [show (List.range 128).map _ = s.thr.vectorBytes d from rfl, ← s.thr.vectorBytes_eq d]
    exact effects_of hs rfl (tileAccess_moves _ hp h hfree)

end Sys2Proof.Machine

/-! ## Operations of the optical matrix unit (R294, R295, R314, R317 to R319) -/

namespace Sys2Proof.Machine

section Matrix
variable {s : State} {i : Instr} {f k : State → State × Res} {cl : Nat} {o : OmuOp}

theorem viaOmu_of_issued (h : s.issuedOp s.cur.1 s.cur.2 = some (cl, o)) : viaOmu f s = s.arrive cl o := by
  simp only [viaOmu, h]

theorem viaOmu_of_new (h : s.issuedOp s.cur.1 s.cur.2 = none) : viaOmu f s = f s := by
  simp only [viaOmu, h]

/-- The state in which an operation has its number of timeline t, which xd has (R240). -/
def State.numberedOn (s : State) (t : Nat) (d : Reg) : State := (s.issueOp t).1.setX d (BitVec.ofNat 64 (s.issueOp t).2) false

/-- The state in which an operation stands last in its unit's staging queue (R294). -/
def State.stagedOmu (s : State) (cl : Nat) (o : OmuOp) : State :=
  let q := (s.dropIssued cl o).numberedOn 1 o.dest
  let c := q.cluster cl
  q.setCluster cl { c with
    staged := c.staged ++ [{ o with seq := ((s.dropIssued cl o).issueOp 1).2, since := c.clock }], clock := c.clock + 1 }

theorem State.arrive_fault {code : Nat} (h : s.arrivalFault cl o = some code) : s.arrive cl o = (s.dropIssued cl o, .fault code 0 0) := by
  simp only [State.arrive, h]

theorem State.arrive_full (h : s.arrivalFault cl o = none) (hq : 32 ≤ (s.cluster cl).staged.length) : s.arrive cl o = (s, .wait .queue) := by
  simp only [State.arrive, h, hq, if_true]

theorem State.arrive_staged (h : s.arrivalFault cl o = none) (hq : (s.cluster cl).staged.length < 32) :
    s.arrive cl o = (s.stagedOmu cl o, .done) := by
  simp only [State.arrive, h, Nat.not_le.mpr hq, if_false]
  rfl

/-- How an instruction of the unit ends once its unit answers. -/
theorem omu_answered (hs : s.Ready) (hi : exec i s = issue .plain 8 s (viaOmu f)) (cl : Nat) (o : OmuOp)
    (h : s.issuedOp s.cur.1 s.cur.2 = some (cl, o)) :
    (∀ code, s.arrivalFault cl o = some code → FaultsAt i s (s.dropIssued cl o) code 0 0)
    ∧ (s.arrivalFault cl o = none → 32 ≤ (s.cluster cl).staged.length → Waits i s .queue)
    ∧ (s.arrivalFault cl o = none → (s.cluster cl).staged.length < 32 → Effects i s (s.stagedOmu cl o) 8) :=
  ⟨fun _ hf => faultsAt_of hs hi ((viaOmu_of_issued h).trans (State.arrive_fault hf)),
    fun hf hq => waits_of hs hi nofun ((viaOmu_of_issued h).trans (State.arrive_full hf hq)),
    fun hf hq => effects_of hs hi ((viaOmu_of_issued h).trans (State.arrive_staged hf hq))⟩

/-- The current thread waits for the unit that the operation was sent to (R294). -/
theorem omu_sent (hs : s.Ready) (hi : exec i s = issue .plain 8 s (viaOmu f)) (hnew : s.issuedOp s.cur.1 s.cur.2 = none)
    (hf : f s = s.submit cl o) :
    WaitsAt i s (s.setCluster cl { s.cluster cl with issued := (s.cluster cl).issued ++ [o] }) .omu :=
  waitsAt_of hs hi ((viaOmu_of_new hnew).trans hf)

/-- The checks at issue of an operation that names its unit and a capability, then its sending: shape says whether its fields are in range
(R295, R319). -/
def State.sendChecked (s : State) (a : Reg) (shape : Bool) (w : Word) (right : Nat) (tiles banks : List Nat) (o : OmuOp) : State × Res :=
  match (if shape then s.target (s.x a) else none) with
  | none => (s, .fault 0x22 0 0)
  | some cl =>
    if !capAllows w s.tk.ctx right (· == cl) tiles banks then (s, .fault 0x23 0 0)
    else if !s.omuAvail cl then (s, .fault 0x24 0 0)
    else s.submit cl o

variable {a : Reg} {shape : Bool} {w : Word} {right : Nat} {tiles banks : List Nat}

theorem State.sendChecked_bad (h : shape = false ∨ s.target (s.x a) = none) :
    s.sendChecked a shape w right tiles banks o = (s, .fault 0x22 0 0) := by
  have hnone : (if shape then s.target (s.x a) else none) = none := by
    rcases h with h | h <;> simp [h]
  simp only [State.sendChecked, hnone]

theorem State.sendChecked_good (h : shape = true) (ht : s.target (s.x a) = some cl) :
    s.sendChecked a shape w right tiles banks o =
      if !capAllows w s.tk.ctx right (· == cl) tiles banks then (s, .fault 0x23 0 0)
      else if !s.omuAvail cl then (s, .fault 0x24 0 0)
      else s.submit cl o := by
  simp only [State.sendChecked, h, ht, if_true]

/-- How an instruction ends that sends a new operation: with a fault of its checks, or waiting for its unit. -/
theorem omu_new {srcs : List Reg} (hs : s.Ready) (hi : exec i s = issue .plain 8 s (viaOmu f)) (hf : f s = s.unlessPoison srcs k)
    (hk : k s = s.sendChecked a shape w right tiles banks o) (hnew : s.issuedOp s.cur.1 s.cur.2 = none) :
    (srcs.any s.xp = true → Faults i s 0x51 0 0)
    ∧ (srcs.any s.xp = false →
      (shape = false ∨ s.target (s.x a) = none → Faults i s 0x22 0 0)
      ∧ ∀ cl, shape = true → s.target (s.x a) = some cl →
        (capAllows w s.tk.ctx right (· == cl) tiles banks = false → Faults i s 0x23 0 0)
        ∧ (capAllows w s.tk.ctx right (· == cl) tiles banks = true →
          (s.omuAvail cl = false → Faults i s 0x24 0 0)
          ∧ (s.omuAvail cl = true → WaitsAt i s (s.setCluster cl { s.cluster cl with issued := (s.cluster cl).issued ++ [o] }) .omu))) := by
  have hvia := (viaOmu_of_new hnew).trans hf
  refine ⟨fun hp => faults_of hs hi (hvia.trans (State.unlessPoison_of_any hp _)), fun hp => ?_⟩
  have hcheck := (State.unlessPoison_of_not_any hp k).trans hk
  refine ⟨fun h => faults_of hs hi (hvia.trans (hcheck.trans (State.sendChecked_bad h))), fun cl h ht => ?_⟩
  have hgood := hcheck.trans (State.sendChecked_good h ht)
  refine ⟨fun hc => faults_of hs hi (hvia.trans (hgood.trans (if_pos (by simp [hc])))), fun hc => ?_⟩
  have hallowed := hgood.trans (if_neg (by simp [hc]))
  exact ⟨fun hl => faults_of hs hi (hvia.trans (hallowed.trans (if_pos (by simp [hl])))),
    fun hl => omu_sent hs hi hnew (hf.trans (hallowed.trans (if_neg (by simp [hl]))))⟩

end Matrix

section Forms
variable {s : State} {d a : Reg} {cap : BitVec 3} {bank : BitVec 4} {kind : OmuKind}

/-- A phase operation whose image, if there is one, has a range that passes its check. -/
theorem phaseOp_checked {va : Option Word} (hspan : (va.bind fun v => s.spanFault v.toNat imgBytes) = none) : phaseOp d a bank cap va kind s =
    s.sendChecked a (decide ((va.getD 0).toNat % imgBytes = 0)) (s.capOf cap) 46 [] [bank.toNat] (s.newOmu kind d (some (s.capOf cap)) []) := by
  have htarget : (if (va.getD 0).toNat % imgBytes != 0 then none else s.target (s.x a))
      = if decide ((va.getD 0).toNat % imgBytes = 0) then s.target (s.x a) else none := by
    simp
  cases ht : (if decide ((va.getD 0).toNat % imgBytes = 0) then s.target (s.x a) else none) with
  | none => simp only [phaseOp, State.sendChecked, htarget, ht]
  | some cl => simp only [phaseOp, State.sendChecked, htarget, ht, hspan]

variable {b : Reg} {m : MxpW} {status : Bool}

/-- Whether the fields of a pass are in range (R295). -/
def passShape (m : MxpW) : Bool := !(decide (m.slice = 3) || (m.dir && m.chunks != 0) || decide (15 < mxpLast m))

theorem passOp_checked : passOp status d a b m s = s.unlessPoison [a, b] fun s =>
    s.sendChecked a (passShape m) (s.capOf m.cap) 45 [m.ta.toNat, m.tc.toNat] (mxpBanks m)
      (s.newOmu (.pass m (s.x b) status) d (some (s.capOf m.cap)) (mxpBanks m)) := by
  refine congrArg (State.unlessPoison s [a, b]) (funext fun s => ?_)
  cases hm : passShape m with
  | false => exact (if_pos (by rwa [passShape, Bool.not_eq_false'] at hm)).trans (State.sendChecked_bad (.inl rfl)).symm
  | true =>
    refine (if_neg (by rwa [passShape, Bool.not_eq_true', ← Bool.not_eq_true] at hm)).trans ?_
    cases ht : s.target (s.x a) with
    | none => exact (State.sendChecked_bad (.inr ht)).symm
    | some cl => exact (State.sendChecked_good rfl ht).symm

end Forms

/-- The part of O54 that holds: the operations of the unit, instruction by instruction. -/
theorem matrixOperationsAreAccepted : Stated.MatrixOperationsAreAccepted := by
  intro s hs d a b m mask bank n k cap here sent answered new w v passOk named tiles image pass
  refine ⟨omu_answered hs rfl, omu_answered hs rfl, omu_answered hs rfl, omu_answered hs rfl, omu_answered hs rfl, omu_answered hs rfl,
    omu_answered hs rfl, omu_answered hs rfl, omu_answered hs rfl, ?mxp, ?mxps, ?probe, ?phtrim, ?phinv, fun hspan => ⟨?phld, ?phrd⟩,
    fun hnew => ⟨?unowned, ?zeroes, ?foreign, ?adds⟩⟩
  case mxp => exact omu_new hs rfl passOp_checked rfl
  case mxps => exact omu_new hs rfl passOp_checked rfl
  case probe =>
    refine omu_new hs rfl rfl ?_
    by_cases hm : mask = 0
    · rw [State.sendChecked_bad (.inl (decide_eq_false (not_not.mpr hm))), if_pos hm]
    · rw [if_neg hm]
      cases ht : s.target (s.x a) with
      | none => exact (State.sendChecked_bad (.inr ht)).symm
      | some cl => exact (State.sendChecked_good (decide_eq_true hm) ht).symm
  case phtrim => exact omu_new hs rfl rfl (phaseOp_checked rfl)
  case phinv => exact omu_new hs rfl rfl (phaseOp_checked rfl)
  case phld => exact omu_new hs rfl rfl (phaseOp_checked (va := some (s.x b)) hspan)
  case phrd => exact omu_new hs rfl rfl (phaseOp_checked (va := some (s.x b)) hspan)
  case unowned => exact fun h => faults_of hs rfl ((viaOmu_of_new hnew).trans (if_pos (by simp [h])))
  case zeroes => exact fun h => omu_sent hs rfl hnew (if_neg (by simp [h]))
  case foreign =>
    refine fun h => faults_of hs rfl ((viaOmu_of_new hnew).trans (if_pos ?_))
    rcases h with h | h <;> simp [h]
  case adds =>
    intro hn hk x y same
    have hown : ¬ (!s.ownsTile n.toNat || !s.ownsTile k.toNat) = true := by simp [hn, hk]
    have hsame : (decide (n = k) || tcfgFmt x != 2 || tcfgFmt y != 2 || tcfgRows x != tcfgRows y || tcfgChunks x != tcfgChunks y) = true
        ↔ ¬ same := by
      simp only [same, Bool.or_eq_true, decide_eq_true_eq, bne_iff_ne, not_and_or, ne_eq, not_not, or_assoc]
    exact ⟨fun h => faults_of hs rfl ((viaOmu_of_new hnew).trans ((if_neg hown).trans (if_pos (hsame.mpr h)))),
      fun h => omu_sent hs rfl hnew ((if_neg hown).trans (if_neg fun hbad => hsame.mp hbad h))⟩

end Sys2Proof.Machine

/-! ## A decomposition whose destination is its source (R147, R311) -/

namespace Sys2Proof.Machine

section Decompositions
variable {s : State} {d a b : Reg} {cap : BitVec 3} {res : Bool}

/-- A state in which a decomposition stands last in its die's queue (R311). -/
def State.queuedDcmp (r : State) (die : Nat) (o : DcmpOp) : State := r.setDie die { r.die die with dcmp := (r.die die).dcmp ++ [o] }

/-- A dcmp of r's current thread under the number seq, with the operands that r's registers hold. -/
def State.dcmpOp (r : State) (seq : Nat) (a b : Reg) (res : Bool) : DcmpOp :=
  { seq := seq, tid := r.cur.1, slot := r.cur.2, cluster := r.tk.cluster, dst := r.x a, src := r.x b, res := res }

/-- The bytes of the image that a dcmp writes: with a residual image behind it, twice as many (R311). -/
def dcmpBytes (res : Bool) : Nat := if res then 2 * imgBytes else imgBytes

/-- The checks that a dcmp passes before it is queued (R319). -/
structure State.TakesDcmp (s : State) (a b : Reg) (cap : BitVec 3) (res : Bool) : Prop where
  clean   : [a, b].any s.xp = false
  aligned : (s.x a).toNat % dcmpBytes res = 0 ∧ (s.x b).toNat % 4 = 0
  may     : capAllows (s.capOf cap) s.tk.ctx 47 (fun c => c < 96 && dieOf c == dieOf s.tk.cluster) [] [] = true ∧ s.capTagOk (s.capOf cap) = true
  lit     : s.engines (dieOf s.tk.cluster) ≠ 0 ∧ s.dieLit (dieOf s.tk.cluster) = true
  span    : (s.spanFault (s.x a).toNat (dcmpBytes res) <|> s.spanFault (s.x b).toNat imgBytes) = none
  room    : (s.die (dieOf s.tk.cluster)).dcmp.length < 64

/-- The model reads the operands of a dcmp that it queues behind the write of its destination. -/
theorem exec_dcmp_queues (hs : s.Ready) (h : s.TakesDcmp a b cap res) :
    Effects (.dcmp d a b cap res) s
      ((s.numberedOn 1 d).queuedDcmp (dieOf s.tk.cluster) ((s.numberedOn 1 d).dcmpOp (s.issueOp 1).2 a b res)) 8 := by
  obtain ⟨hclean, haligned, hmay, hlit, hspan, hroom⟩ := h
  refine effects_of (f := fun s => s.unlessPoison [a, b] _) hs rfl ((State.unlessPoison_of_not_any hclean _).trans ?_)
  have halign : ¬ ((s.x a).toNat % dcmpBytes res != 0 || (s.x b).toNat % 4 != 0) = true := by simpa using haligned
  have hbarred : ¬ (!capAllows (s.capOf cap) s.tk.ctx 47 (fun c => c < 96 && dieOf c == dieOf s.tk.cluster) [] []
      || !s.capTagOk (s.capOf cap)) = true := by simpa using hmay
  have hdark : ¬ (s.engines (dieOf s.tk.cluster) == 0 || !s.dieLit (dieOf s.tk.cluster)) = true := by simpa using hlit
  refine (if_neg halign).trans ((if_neg hbarred).trans ((if_neg hdark).trans ?_))
  exact (congrArg (unlessFault · _ s) hspan).trans (if_neg (Nat.not_le.mpr hroom))

end Decompositions

/-- A capability to decompose, with the check tag t (R292, R293). -/
def decomposeCap (t : Nat) : Word := BitVec.ofNat 64 (0x800000000000 + t % 65536 * 0x1000000000000)

theorem decomposeCap_toNat (t : Nat) : (decomposeCap t).toNat = 0x800000000000 + t % 65536 * 0x1000000000000 := by
  rw [decomposeCap, BitVec.toNat_ofNat]
  omega

theorem capTagOk_decomposeCap {s : State} {t : Nat} (h : Config.capTag s.boot 0x800000000000 = t) : s.capTagOk (decomposeCap t) = true := by
  have hlow : (decomposeCap t).toNat % 2 ^ 48 = 0x800000000000 := by rw [decomposeCap_toNat]; omega
  have hhigh : (decomposeCap t).toNat / 2 ^ 48 = t % 65536 := by rw [decomposeCap_toNat]; omega
  rw [State.capTagOk, hlow, hhigh, h]
  exact beq_self_eq_true _

theorem capAllows_decomposeCap (t : Nat) {omu : Nat → Bool} (h : omu 0 = true) : capAllows (decomposeCap t) 0 47 omu [] [] = true := by
  have hctx : capAllows.capCtxOf (decomposeCap t) = 0 := by rw [capAllows.capCtxOf, decomposeCap_toNat]; omega
  have hright : (decomposeCap t).getLsbD 47 = true := by
    rw [BitVec.getLsbD, Nat.testBit_eq_decide_div_mod_eq, decomposeCap_toNat, decide_eq_true_eq]
    omega
  have hunit : (decomposeCap t).toNat % 128 = 0 := by rw [decomposeCap_toNat]; omega
  simp only [capAllows, hctx, hright, hunit, h, List.all_nil, BEq.rfl, Bool.and_self]

/-- A READY thread on core 0 of a lit die, whose capability 0 lets it decompose; its registers hold 0. -/
def decomposer : State :=
  { State.reset with
    comb := (List.range 8).map fun i => (i, { telemetryOff with state := 2 })
    tasks := [(4096, { Task.blank with
      place := .running 0 false, kid := 1, caps := [(0, decomposeCap (Config.capTag 0 0x800000000000))]
      threads := [(0, { Thread.empty with st := .ready })] })]
    cores := [(0, { Core.reset with run := some 4096, ptask := some 4096 })], cur := (4096, 0) }

theorem decomposer_ready : decomposer.Ready where
  run := rfl
  packet := rfl
  shadow := rfl
  debug := rfl

theorem decomposer_takes : decomposer.TakesDcmp 5 5 0 false where
  clean := rfl
  aligned := by decide +kernel
  may := ⟨capAllows_decomposeCap _ rfl, capTagOk_decomposeCap rfl⟩
  lit := by decide +kernel
  span := by decide +kernel
  room := by decide +kernel

/-- Refutes O54 at a dcmp whose destination register is its operand xa: the model queues the command's number as the destination address, where
R147 has every source read before the destination is written. Its other part, that on the operations of the unit, holds. -/
theorem not_omuOperationsAreAccepted : ¬ Obligations.OmuOperationsAreAccepted := by
  rintro ⟨-, hdcmp⟩
  obtain ⟨-, hclean⟩ := hdcmp decomposer decomposer_ready 5 5 5 0 false
  obtain ⟨hp, haligned, hmay, hlit, hspan, hroom⟩ := decomposer_takes
  obtain ⟨-, -, -, -, -, hqueued⟩ := hclean hp
  have hstated := hqueued haligned hmay hlit hspan hroom
  have hmodel : Effects (.dcmp 5 5 5 0 false) decomposer _ 8 := exec_dcmp_queues decomposer_ready decomposer_takes
  have hqueue := congrArg (fun t => (t.die 0).dcmp.map DcmpOp.dst) (Host.Outcome.next.inj (hmodel.symm.trans hstated))
  exact absurd (hqueue : [(1 : Word)] = [0]) (by decide)

end Sys2Proof.Machine

/-! ## Exchange entries and packets (R331 to R335) -/

namespace Sys2Proof.Machine

variable {s : State}

/-! ### Issue in an open packet -/

section Packet

variable {p : OpenPacket} {len : Nat} {f : State → State × Res} {r : State}

/-- With a packet open, xput and xend do what their meaning says (R335). -/
theorem issue_openPacket (hrun : s.thr.canRun = true) (hsh : s.thr.shadow = none) :
    issue .barredPacket len s f = .next ((State.settle len (f s)).holdIfStopping s.cur.1 s.cur.2) := by
  have hcount : s.countHandler = s := by simp [State.countHandler, hsh]
  have hallowed : s.thr.forbids .barredPacket = false := by simp [Thread.forbids, Class.inPacket, hsh]
  simp only [issue, hrun, hcount, hallowed, if_true, Bool.false_eq_true, if_false]

theorem issue_openPacket_done (hrun : s.thr.canRun = true) (hsh : s.thr.shadow = none) (hf : f s = (r, .done)) :
    issue .barredPacket len s f = .next (s.retired r len) := by
  rw [issue_openPacket hrun hsh, hf]
  rfl

theorem issue_openPacket_fault (hrun : s.thr.canRun = true) (hsh : s.thr.shadow = none) (hdbg : (s.core s.tk.core).dbgStop = false)
    {code addr info : Nat} (hf : f s = (s, .fault code addr info)) :
    issue .barredPacket len s f = .next (s.takeFault s.cur.1 s.cur.2 code 0 addr info 0) := by
  rw [issue_openPacket hrun hsh, hf, State.settle, State.holdIfStopping_of_not]
  rw [State.takeFault_dbgStop, State.takeFault_place]
  exact hdbg

end Packet

/-! ### The list of a core -/

variable {e : XEntry}

theorem State.xAdd_of_count_zero (h : e.count = 0) : s.xAdd e = s := by
  rw [State.xAdd, h]
  rfl

theorem State.xAdd_of_count_ne_zero (h : e.count ≠ 0) : s.xAdd e = s.setTk { s.tk with xlist := s.tk.xlist ++ [e] } := by
  rw [State.xAdd, if_neg (by simpa using h)]


/-! ### The instructions -/

section Queue

variable {n : BitVec 3} {a b c : Reg}

/-- The entry that an xsend queues. -/
def sentEntry (s : State) (a b c : Reg) (n : BitVec 3) : XEntry :=
  { level := n.toNat, desc := s.x b, src := some (s.x a), words := [], count := (s.x c).toNat, moved := 0, step := none }

/-- What an xsend does once none of its operands is poisoned. -/
def xsendOp (a b c : Reg) (n : BitVec 3) (s : State) : State × Res :=
  match s.xCheck n.toNat (s.x b) (s.x c).toNat (some (s.x a).toNat) none with
  | some (code, addr, i) => (s, .fault code addr i)
  | none => (s.xAdd (sentEntry s a b c n), .done)

theorem exec_xsend (a b c : Reg) (n : BitVec 3) (s : State) :
    exec (.xsend a b c n) s = issue .barred 8 s fun s => s.unlessPoison [a, b, c] (xsendOp a b c n) := rfl

theorem xsendOp_of_refused {f : Nat × Nat × Nat} (h : s.xCheck n.toNat (s.x b) (s.x c).toNat (some (s.x a).toNat) none = some f) :
    xsendOp a b c n s = (s, .fault f.1 f.2.1 f.2.2) := by
  rw [xsendOp, h]

theorem xsendOp_of_passed (h : s.xCheck n.toNat (s.x b) (s.x c).toNat (some (s.x a).toNat) none = none) :
    xsendOp a b c n s = (s.xAdd (sentEntry s a b c n), .done) := by
  rw [xsendOp, h]

/-- The entry of a packet's words. -/
def OpenPacket.entry (p : OpenPacket) : XEntry :=
  { level := p.level, desc := p.desc, src := none, words := p.words, count := p.words.length, moved := 0, step := none }

/-- The state after the packet of the current thread is closed. -/
def State.closed (s : State) : State := s.setThr { s.thr with packet := none }

/-- What an xput does in the packet p. -/
def xputIn (p : OpenPacket) (a : Reg) (s : State) : State × Res :=
  if 16 ≤ p.words.length then (s, .fault 0x01 0 0)
  else (s.setThr { s.thr with packet := some { p with words := p.words ++ [(s.x a, s.xp a)] } }, .done)

/-- What an xend does in the packet p. -/
def xendIn (p : OpenPacket) (s : State) : State × Res :=
  match s.xCheck p.level p.desc p.words.length none (some p.words) with
  | some (code, addr, i) => (s, .fault code addr i)
  | none => (s.closed.xAdd p.entry, .done)

theorem xendIn_of_refused {p : OpenPacket} {f : Nat × Nat × Nat} (h : s.xCheck p.level p.desc p.words.length none (some p.words) = some f) :
    xendIn p s = (s, .fault f.1 f.2.1 f.2.2) := by
  rw [xendIn, h]

theorem xendIn_of_passed {p : OpenPacket} (h : s.xCheck p.level p.desc p.words.length none (some p.words) = none) :
    xendIn p s = (s.closed.xAdd p.entry, .done) := by
  rw [xendIn, h]

/-- What an xput does: it faults with no packet open. -/
def xputOp (a : Reg) (s : State) : State × Res :=
  match s.thr.packet with
  | none => (s, .fault 0x01 0 0)
  | some p => xputIn p a s

/-- What an xend does: it faults with no packet open. -/
def xendOp (s : State) : State × Res :=
  match s.thr.packet with
  | none => (s, .fault 0x01 0 0)
  | some p => xendIn p s

theorem exec_xput (a : Reg) (s : State) : exec (.xput a) s = issue .barredPacket 8 s (xputOp a) := rfl

theorem exec_xend (s : State) : exec .xend s = issue .barredPacket 8 s xendOp := rfl

theorem xputOp_of_none (h : s.thr.packet = none) (a : Reg) : xputOp a s = (s, .fault 0x01 0 0) := by
  rw [xputOp, h]

theorem xputOp_of_some {p : OpenPacket} (h : s.thr.packet = some p) (a : Reg) : xputOp a s = xputIn p a s := by
  rw [xputOp, h]

theorem xendOp_of_none (h : s.thr.packet = none) : xendOp s = (s, .fault 0x01 0 0) := by
  rw [xendOp, h]

theorem xendOp_of_some {p : OpenPacket} (h : s.thr.packet = some p) : xendOp s = xendIn p s := by
  rw [xendOp, h]

end Queue

section Sent

variable (hs : s.Ready) (a b c : Reg) (n : BitVec 3)
include hs

theorem xsend_faults_of_poison (hp : (s.xp a || s.xp b || s.xp c) = true) : Faults (.xsend a b c n) s 0x51 0 0 :=
  faults_of hs (exec_xsend a b c n s) (if_pos (by simpa [Bool.or_assoc] using hp))

omit hs in
theorem unlessPoison_xsend_of_clean (hp : (s.xp a || s.xp b || s.xp c) = false) {r : State × Res} (hr : xsendOp a b c n s = r) :
    s.unlessPoison [a, b, c] (xsendOp a b c n) = r := by
  rw [State.unlessPoison, if_neg (by simpa [Bool.or_assoc] using hp), hr]

theorem xsend_acts (hp : (s.xp a || s.xp b || s.xp c) = false) :
    let chk := s.xCheck n.toNat (s.x b) (s.x c).toNat (some (s.x a).toNat) none
    (∀ f, chk = some f → Faults (.xsend a b c n) s f.1 f.2.1 f.2.2)
    ∧ (chk = none → (s.x c).toNat = 0 → Advances (.xsend a b c n) s 8)
    ∧ (chk = none → (s.x c).toNat ≠ 0 →
        Effects (.xsend a b c n) s (s.setTk { s.tk with xlist := s.tk.xlist ++ [sentEntry s a b c n] }) 8) := by
  refine ⟨fun f hf => ?_, fun hf hcount => ?_, fun hf hcount => ?_⟩
  · exact faults_of hs (exec_xsend a b c n s) (unlessPoison_xsend_of_clean a b c n hp (xsendOp_of_refused hf))
  · refine advances_of hs (exec_xsend a b c n s) (unlessPoison_xsend_of_clean a b c n hp ?_)
    rw [xsendOp_of_passed hf, State.xAdd_of_count_zero hcount]
  · refine effects_of hs (exec_xsend a b c n s) (unlessPoison_xsend_of_clean a b c n hp ?_)
    rw [xsendOp_of_passed hf, State.xAdd_of_count_ne_zero hcount]

theorem xopen_acts : (s.xp a = true → Faults (.xopen a n) s 0x51 0 0)
    ∧ (s.xp a = false → Effects (.xopen a n) s
        (s.setThr { s.thr with packet := some { desc := s.x a, level := n.toNat, words := [], xopen := s.thr.pc } }) 8) := by
  have hexec : exec (.xopen a n) s = issue .barred 8 s fun s => s.unlessPoison [a] fun s =>
      (s.setThr { s.thr with packet := some { desc := s.x a, level := n.toNat, words := [], xopen := s.thr.pc } }, .done) := rfl
  exact ⟨fun hp => faults_of hs hexec (State.unlessPoison_of_poisoned hp _), fun hp => effects_of hs hexec (State.unlessPoison_of_clean hp _)⟩

end Sent

section Captured

variable {p : OpenPacket} (hrun : s.thr.canRun = true) (hsh : s.thr.shadow = none) (hp : s.thr.packet = some p)
include hrun hsh hp

theorem xput_captures (a : Reg) (hroom : p.words.length < 16) :
    Effects (.xput a) s (s.setThr { s.thr with packet := some { p with words := p.words ++ [(s.x a, s.xp a)] } }) 8 :=
  (exec_xput a s).trans (issue_openPacket_done hrun hsh ((xputOp_of_some hp a).trans (if_neg (by omega))))

theorem xput_faults_of_full (hdbg : (s.core s.tk.core).dbgStop = false) (a : Reg) (hfull : 16 ≤ p.words.length) :
    Faults (.xput a) s 0x01 0 0 :=
  (exec_xput a s).trans (issue_openPacket_fault hrun hsh hdbg ((xputOp_of_some hp a).trans (if_pos hfull)))

theorem xend_faults_of_refused (hdbg : (s.core s.tk.core).dbgStop = false) {f : Nat × Nat × Nat}
    (hf : s.xCheck p.level p.desc p.words.length none (some p.words) = some f) : Faults .xend s f.1 f.2.1 f.2.2 :=
  (exec_xend s).trans (issue_openPacket_fault hrun hsh hdbg ((xendOp_of_some hp).trans (xendIn_of_refused hf)))

theorem xend_queues (hf : s.xCheck p.level p.desc p.words.length none (some p.words) = none) :
    Effects .xend s (s.closed.xAdd p.entry) 8 :=
  (exec_xend s).trans (issue_openPacket_done hrun hsh ((xendOp_of_some hp).trans (xendIn_of_passed hf)))

end Captured

/-! ### The parts of the statement -/

theorem OpenPacket.entry_count_eq_zero {p : OpenPacket} : p.entry.count = 0 ↔ p.words = [] := List.length_eq_zero_iff

theorem exchangeEntriesAreQueued : Stated.ExchangeEntriesAreQueued := by
  refine ⟨fun s hs a b c n => ?_, fun s p a hrun hsh hdbg hp => ?_⟩
  · obtain ⟨hpoison, hclean⟩ := xopen_acts hs a n
    exact ⟨xsend_faults_of_poison hs a b c n, xsend_acts hs a b c n, hpoison, hclean,
      faults_of hs (exec_xput a s) (xputOp_of_none hs.packet a), faults_of hs (exec_xend s) (xendOp_of_none hs.packet)⟩
  · refine ⟨xput_captures hrun hsh hp a, xput_faults_of_full hrun hsh hp hdbg a, fun f => xend_faults_of_refused hrun hsh hp hdbg,
      fun hf hw => ?_, fun hf hw => ?_⟩
    · have hqueues := xend_queues hrun hsh hp hf
      rwa [State.xAdd_of_count_zero (OpenPacket.entry_count_eq_zero.mpr hw)] at hqueues
    · have hqueues := xend_queues hrun hsh hp hf
      rwa [State.xAdd_of_count_ne_zero (OpenPacket.entry_count_eq_zero.not.mpr hw)] at hqueues

section Checks

variable {n count : Nat} {desc : Word} {src : Option Nat} {packet : Option (List (Word × Bool))}

/-- Whether some word of a packet is poisoned. -/
def poisonedPacket (packet : Option (List (Word × Bool))) : Bool := packet.any fun ws => ws.any Prod.snd

theorem State.xCheck_of_count_zero : s.xCheck n desc 0 src packet = none := rfl

/-- The checks of an entry of at least one word, in their order (R334). -/
theorem State.xCheck_of_count_ne_zero (h : count ≠ 0) : s.xCheck n desc count src packet =
    if gmV (s.tk.gm n) = false ∨ gmSize (s.tk.gm n) ≤ descRank desc then some (0x31, 0, n)
    else if 65536 < descWord desc + count then some (0x61, 0, 0)
    else match src.bind fun a => s.spanFault a (8 * count) with
      | some f => some (f.1, f.2, 0)
      | none =>
        if s.rankUnreach s.tk n (descRank desc) = true then some (0x40, 0, 0)
        else if n = 4 ∧ poisonedPacket packet = true then some (0x51, 0, 0)
        else if 256 ≤ s.tk.xlist.length ∨ (packet.isSome = true ∧ 64 ≤ (s.tk.xlist.filter fun e => e.src.isNone).length)
        then some (0x32, 0, n)
        else none := by
  unfold State.xCheck
  cases packet <;> cases src.bind fun a => s.spanFault a (8 * count) <;> simp [h, poisonedPacket]

end Checks

/-- R334, check by check: each one passed leads to the next. -/
theorem exchangeChecksInOrder : Stated.ExchangeChecksInOrder := by
  intro s n desc count src packet
  refine ⟨fun h0 => h0 ▸ State.xCheck_of_count_zero, fun h0 => ?_⟩
  rw [State.xCheck_of_count_ne_zero h0]
  refine ⟨fun h1 => if_pos h1, fun h1 h2 => (if_neg h1).trans (if_pos h2), fun h1 h2 f h3 => (if_neg h1).trans ((if_neg h2).trans (by rw [h3])),
    fun h1 h2 h3 h4 => ?_, fun h1 h2 h3 h4 h5 => ?_, fun h1 h2 h3 h4 h5 h6 => ?_, fun h1 h2 h3 h4 h5 h6 => ?_⟩ <;>
    refine (if_neg h1).trans ((if_neg h2).trans ?_) <;> rw [h3]
  · exact if_pos h4
  · exact (if_neg h4).trans (if_pos h5)
  · exact (if_neg h4).trans ((if_neg h5).trans (if_pos h6))
  · exact (if_neg h4).trans ((if_neg h5).trans (if_neg h6))

/-- Settles O55: the entries, then the checks. -/
theorem exchangeInstructionsAct : Obligations.ExchangeInstructionsAct := ⟨exchangeEntriesAreQueued, exchangeChecksInOrder⟩

end Sys2Proof.Machine

/-! ## Barriers and votes (R328 to R330) -/

namespace Sys2Proof.Machine

/-! ### Arrivals and waits -/

section Barrier

variable {s : State} {n : Nat} {f : State → State × Res}

theorem State.barrierChecks_of_helper (h : s.cur.2 ≠ 0) : s.barrierChecks n f = (s, .fault 0x0A 0 0) :=
  State.controlOnly_of_helper h _

theorem State.barrierChecks_of_live (h0 : s.cur.2 = 0) (h : s.tk.helperLive = true) : s.barrierChecks n f = (s, .fault 0x30 0 n) :=
  (State.controlOnly_of_control h0 _).trans (if_pos h)

theorem State.barrierChecks_of_stranger (h0 : s.cur.2 = 0) (hlive : s.tk.helperLive = false) (h : gmV (s.tk.gm n) = false) :
    s.barrierChecks n f = (s, .fault 0x31 0 n) := by
  rw [State.barrierChecks, State.controlOnly_of_control h0, hlive, h]
  rfl

/-- The current thread passes the checks of a barrier at level n: the control thread of a task without live helpers that belongs to a group. -/
structure State.MayArrive (s : State) (n : Nat) : Prop where
  control : s.cur.2 = 0
  alone : s.tk.helperLive = false
  member : gmV (s.tk.gm n) = true

theorem State.MayArrive.checks (h : s.MayArrive n) : s.barrierChecks n f = f s := by
  rw [State.barrierChecks, State.controlOnly_of_control h.control, h.alone, h.member]
  rfl

theorem State.awaitRelease_of_released (h : s.canRelease s.cur.1 = true) (d : Option Reg) :
    s.awaitRelease n d = (s.releaseMember s.cur.1 d, .done) := if_pos h

section Arrive

variable (split : Bool) (d : Option Reg) (vote : Word) (pois : Bool) (op : Nat)

/-- The group that a member arrives at is broken (R341). -/
theorem arrive_of_broken (h : s.MayArrive n) (ha : s.thr.arrival = none) (hb : s.groupBroken n = true) :
    arrive n split d vote pois op s = (s, .fault 0x33 0 n) := by
  rw [arrive, h.checks]
  simp only [ha, hb, if_true]

/-- A sarrive registers its arrival once the buffer is empty and nothing pends (R330). -/
theorem arrive_split (h : s.MayArrive n) (ha : s.thr.arrival = none) (hb : s.groupBroken n = false) (hbuf : s.thr.wbuf = [])
    (hpend : ∀ p ∈ s.tk.pend, p.slot ≠ s.cur.2) :
    arrive n true d vote pois op s = (s.register n true vote pois op, .done) := by
  have hmine : ∀ p ∈ s.tk.pend, s.isMine p = false := fun p hp => beq_false_of_ne (hpend p hp)
  rw [arrive, h.checks]
  simp only [ha, hb, Bool.false_eq_true, if_false, if_true]
  rw [State.drainThen_of_none hbuf hmine, ite_self]

/-- A member that waits at its arrival goes on when it is released (R330). -/
theorem arrive_of_released {r : Arrival} (h : s.MayArrive n) (ha : s.thr.arrival = some r) (hr : r.split = false) (hl : r.level = n)
    (hpc : r.pc = s.thr.pc) (hc : s.canRelease s.cur.1 = true) :
    arrive n false d vote pois op s = (s.releaseMember s.cur.1 d, .done) := by
  rw [arrive, h.checks]
  simp only [ha, hr, hl, hpc, Bool.not_false, BEq.rfl, Bool.and_self, if_true]
  exact State.awaitRelease_of_released hc d

end Arrive

theorem swaitOp_of_unmatched (h : s.MayArrive n) (ha : s.thr.arrival = none) : swaitOp n s = (s, .fault 0x01 0 0) := by
  rw [swaitOp, h.checks]
  simp only [ha]

/-- The state in which an swait waits for the release of the arrival r (R330). -/
def State.swaiting (s : State) (r : Arrival) : State :=
  s.setThr { s.thr with arrival := some { r with split := false, pc := s.thr.pc, fault := none } }

/-- An swait goes on when the member that arrived is released (R330). -/
theorem swaitOp_of_released {r : Arrival} (h : s.MayArrive n) (ha : s.thr.arrival = some r) (hl : r.level = n)
    (hr : r.split = true ∨ r.pc = s.thr.pc) (hf : r.fault = none) (hb : s.groupBroken n = false)
    (hc : (s.swaiting r).canRelease (s.swaiting r).cur.1 = true) :
    swaitOp n s = ((s.swaiting r).releaseMember (s.swaiting r).cur.1 none, .done) := by
  have hmatch : (r.level != n || !(r.split || r.pc == s.thr.pc)) = false := by
    rw [hl, bne_self_eq_false, Bool.false_or, Bool.not_eq_false', Bool.or_eq_true, beq_iff_eq]
    exact hr
  rw [swaitOp, h.checks]
  simp only [ha, hmatch, hb, hf, Bool.false_eq_true, if_false]
  exact State.awaitRelease_of_released hc none

end Barrier

/-! ### The instructions -/

theorem exec_sync (n : BitVec 3) (s : State) : exec (.sync n) s = issue .barred 4 s (arrive n.toNat false none 0 false 5) := rfl

theorem exec_sarrive (n : BitVec 3) (s : State) : exec (.sarrive n) s = issue .barred 4 s (arrive n.toNat true none 0 false 5) := rfl

theorem exec_swait (n : BitVec 3) (s : State) : exec (.swait n) s = issue .barred 4 s (swaitOp n.toNat) := rfl

theorem exec_syncv (d a : Reg) (n op : BitVec 3) (s : State) :
    exec (.syncv d a n op) s = issue .barred 8 s fun s => arrive n.toNat false (some d) (s.x a) (s.xp a) op.toNat s := rfl

/-- R328 to R330: a form that fails a check does so before anything else of it. -/
theorem barriersArriveAndRelease : Stated.BarriersArriveAndRelease := by
  intro s hs d a n op
  have harrives {code info : Nat}
      (h : ∀ split d vote pois op, arrive n.toNat split d vote pois op s = (s, .fault code 0 info)) :
      Faults (.sync n) s code 0 info ∧ Faults (.sarrive n) s code 0 info ∧ Faults (.syncv d a n op) s code 0 info :=
    ⟨faults_of hs (exec_sync n s) (h ..), faults_of hs (exec_sarrive n s) (h ..), faults_of hs (exec_syncv d a n op s) (h ..)⟩
  have hforms {code info : Nat} (h : ∀ f, s.barrierChecks n.toNat f = (s, .fault code 0 info)) :
      Faults (.sync n) s code 0 info ∧ Faults (.sarrive n) s code 0 info ∧ Faults (.swait n) s code 0 info ∧
        Faults (.syncv d a n op) s code 0 info := by
    obtain ⟨hsync, hsarrive, hsyncv⟩ := harrives fun _ _ _ _ _ => h _
    exact ⟨hsync, hsarrive, faults_of hs (exec_swait n s) (h _), hsyncv⟩
  refine ⟨fun h => hforms fun _ => State.barrierChecks_of_helper h, fun h0 hlive => hforms fun _ => State.barrierChecks_of_live h0 hlive,
    fun h0 hlive => ⟨fun hm => hforms fun _ => State.barrierChecks_of_stranger h0 hlive hm, fun hm => ?_⟩⟩
  have hmay : s.MayArrive n.toNat := ⟨h0, hlive, hm⟩
  refine ⟨fun ha => faults_of hs (exec_swait n s) (swaitOp_of_unmatched hmay ha),
    fun ha hb => harrives fun _ _ _ _ _ => arrive_of_broken _ _ _ _ _ hmay ha hb,
    fun ha hb hbuf hpend => effects_of hs (exec_sarrive n s) (arrive_split _ _ _ _ hmay ha hb hbuf hpend),
    fun r ha hl hc => ⟨fun hr hpc => ⟨?_, ?_⟩, fun hr hf hb hq => ?_⟩⟩
  · exact effects_of hs (exec_sync n s) (arrive_of_released _ _ _ _ hmay ha hr hl hpc hc)
  · exact effects_of hs (exec_syncv d a n op s) (arrive_of_released _ _ _ _ hmay ha hr hl hpc hc)
  · exact effects_of hs (exec_swait n s) (swaitOp_of_released hmay ha hl hr hf hb hq)

/-! ### Votes -/

section Votes

/-- The votes of a superstep's syncv arrivals, in their order. -/
def Group.votes (g : Group) : List Word := (g.arr.filter fun a => a.2.2.2.2 != 5).map fun a => a.2.2.1

theorem Group.reduce_vote (g : Group) : g.reduce.1 = g.votes.foldl (voteStep g.voteOp) (voteIdent g.voteOp) := by
  rw [Group.votes, List.foldl_map]
  rfl

theorem voteStep_max (a b : Word) : voteStep 1 a b = a ∧ -a.toInt ≤ -b.toInt ∨ voteStep 1 a b = b ∧ -b.toInt ≤ -a.toInt := by
  by_cases h : a.toInt < b.toInt
  · exact .inr ⟨if_pos (by simpa [BitVec.slt] using h), neg_le_neg h.le⟩
  · exact .inl ⟨if_neg (by simpa [BitVec.slt] using h), neg_le_neg (not_lt.mp h)⟩

theorem voteStep_min (a b : Word) : voteStep 2 a b = a ∧ a.toInt ≤ b.toInt ∨ voteStep 2 a b = b ∧ b.toInt ≤ a.toInt := by
  by_cases h : b.toInt < a.toInt
  · exact .inr ⟨if_pos (by simpa [BitVec.slt] using h), h.le⟩
  · exact .inl ⟨if_neg (by simpa [BitVec.slt] using h), not_lt.mp h⟩

/-- No vote is below the identity of the maximum (R330). -/
theorem eq_voteIdent_max {v : Word} (h : -(voteIdent 1).toInt ≤ -v.toInt) : v = voteIdent 1 :=
  BitVec.eq_of_toInt_eq (le_antisymm (neg_le_neg_iff.mp h) (BitVec.le_toInt v))

/-- No vote is above the identity of the minimum (R330). -/
theorem eq_voteIdent_min {v : Word} (h : (voteIdent 2).toInt ≤ v.toInt) : v = voteIdent 2 := by
  have hlt := BitVec.toInt_lt (x := v)
  have hident : (voteIdent 2).toInt = 2 ^ 63 - 1 := by decide
  exact BitVec.eq_of_toInt_eq (by omega)

end Votes

/-- R330, operation by operation: the maximum and the minimum are folds that keep one of two votes. -/
theorem votesAreCombined : Stated.VotesAreCombined := by
  intro g
  refine ⟨rfl, fun h => ?sum, fun h => ?or, fun h => ?and, fun h => ?max, fun h => ?min⟩ <;> rw [g.reduce_vote, h]
  case sum => exact List.sum_eq_foldl.symm
  case or | and => rfl
  case max =>
    obtain ⟨-, hle⟩ := foldl_least (k := fun v : Word => -v.toInt) voteStep_max g.votes (voteIdent 1)
    exact ⟨fun v hv => neg_le_neg_iff.mp (hle v (List.mem_cons_of_mem _ hv)),
      foldl_least_mem (k := fun v : Word => -v.toInt) voteStep_max fun _ _ => eq_voteIdent_max⟩
  case min =>
    obtain ⟨-, hle⟩ := foldl_least (k := BitVec.toInt) voteStep_min g.votes (voteIdent 2)
    exact ⟨fun v hv => hle v (List.mem_cons_of_mem _ hv), foldl_least_mem (k := BitVec.toInt) voteStep_min fun _ _ => eq_voteIdent_min⟩

/-- Settles O56: the instructions, then the votes. -/
theorem barriersAndVotesAct : Obligations.BarriersAndVotesAct := ⟨barriersArriveAndRelease, votesAreCombined⟩

end Sys2Proof.Machine

/-! ## Groups, queues and kernels: what the operations leave alone -/

namespace Sys2Proof.Machine

/-! ### Lookups of groups and kernels -/

section Lookups

/-- Replacing what a lookup finds changes what that lookup finds, and no lookup that excludes it. -/
theorem find?_map_replace {α : Type} {p q : α → Bool} {b : α} (l : List α)
    (hpq : (∀ x, p x = q x) ∧ p b = true ∨ (∀ x, q x = true → p x = false) ∧ p b = false) :
    (l.map fun x => if q x then b else x).find? p = if p b then (l.find? p).map fun _ => b else l.find? p := by
  induction l with
  | nil => simp
  | cons x l ih =>
    rw [List.map_cons, List.find?_cons, List.find?_cons, ih]
    rcases hpq with ⟨heq, hb⟩ | ⟨hne, hb⟩
    · cases hx : p x <;> simp [← heq, hx, hb]
    · cases hx : q x <;> simp [hx, hb, hne]

variable (s : State)

theorem State.kernel?_setKernel (k : Kernel) (kid : Nat) :
    (s.setKernel k).kernel? kid = if k.kid = kid then (s.kernel? kid).map fun _ => k else s.kernel? kid := by
  unfold State.kernel? State.setKernel
  by_cases h : k.kid = kid
  · subst h
    rw [find?_map_replace (p := fun j : Kernel => j.kid == k.kid) (b := k) s.kernels (.inl ⟨fun _ => rfl, beq_self_eq_true _⟩)]
    simp
  · have hne (x : Kernel) (hx : (x.kid == k.kid) = true) : (x.kid == kid) = false := by
      rw [beq_iff_eq] at hx
      simpa [hx] using h
    rw [find?_map_replace (p := fun j : Kernel => j.kid == kid) (b := k) s.kernels (.inr ⟨hne, by simpa using h⟩)]
    simp [h]

theorem State.kid_of_kernel? {s : State} {kid : Nat} {k : Kernel} (h : s.kernel? kid = some k) : k.kid = kid := by
  simpa using List.find?_some h

/-- A kernel's new state is what its lookup gives. -/
theorem State.kernel?_setKernel_self {s : State} {kid : Nat} {k j : Kernel} (h : s.kernel? kid = some k) (hj : j.kid = k.kid) :
    (s.setKernel j).kernel? kid = some j := by
  rw [State.kernel?_setKernel, if_pos (hj.trans (State.kid_of_kernel? h)), h, Option.map_some]

/-- The names of a found group. -/
theorem State.names_of_group? {s : State} {kid n gid : Nat} {g : Group} (h : s.group? kid n gid = some g) :
    g.kid = kid ∧ g.level = n ∧ g.gid = gid := by
  simpa [and_assoc] using List.find?_some h

/-- A group's new state is what its lookup gives. -/
theorem State.group?_setGroup_self {s : State} {kid n gid : Nat} {g h : Group} (hg : s.group? kid n gid = some g)
    (hh : h.kid = g.kid ∧ h.level = g.level ∧ h.gid = g.gid) : (s.setGroup h).group? kid n gid = some h := by
  obtain ⟨rfl, rfl, rfl⟩ := State.names_of_group? hg
  obtain ⟨hk, hl, hi⟩ := hh
  have hfind := find?_map_replace (p := fun j : Group => j.kid == g.kid && j.level == g.level && j.gid == g.gid)
    (q := fun j => j.kid == h.kid && j.level == h.level && j.gid == h.gid) (b := h) s.groups
    (.inl ⟨fun x => by rw [hk, hl, hi], by simp [hk, hl, hi]⟩)
  unfold State.group? at hg
  unfold State.group? State.setGroup
  rw [hfind, hg, if_pos (by simp [hk, hl, hi]), Option.map_some]

end Lookups

/-! ### Operations that touch neither groups nor kernels -/

/-- The groups and the kernels. -/
def State.roster (s : State) : List Group × List Kernel := (s.groups, s.kernels)

section Roster

variable {s t : State}

theorem State.groups_of_roster (h : t.roster = s.roster) : t.groups = s.groups := congrArg Prod.fst h

theorem State.kernels_of_roster (h : t.roster = s.roster) : t.kernels = s.kernels := congrArg Prod.snd h

theorem State.group?_of_roster (h : t.roster = s.roster) (kid n gid : Nat) : t.group? kid n gid = s.group? kid n gid := by
  rw [State.group?, State.groups_of_roster h, State.group?]

theorem State.kernel?_of_roster (h : t.roster = s.roster) (kid : Nat) : t.kernel? kid = s.kernel? kid := by
  rw [State.kernel?, State.kernels_of_roster h, State.kernel?]

theorem State.RecordsOnly.roster (h : s.RecordsOnly t) : t.roster = s.roster := by
  obtain ⟨_, _, _, _, _, _, rfl⟩ := h
  rfl

theorem State.RecordsOnly.tasks (h : s.RecordsOnly t) : t.tasks = s.tasks := by
  obtain ⟨_, _, _, _, _, _, rfl⟩ := h
  rfl

theorem State.RecordsOnly.getD {o : Option State} (h : ∀ t, o = some t → s.RecordsOnly t) : s.RecordsOnly (o.getD s) := by
  cases o with
  | none => exact .refl s
  | some t => exact h t rfl

end Roster

/-- Nothing differs but what waits to be sent to another module. -/
def State.SentOnly (s t : State) : Prop := ∃ opseqs remotes vqueue, t = { s with opseqs := opseqs, remotes := remotes, vqueue := vqueue }

theorem State.SentOnly.trans {s t u : State} : s.SentOnly t → t.SentOnly u → s.SentOnly u := by
  rintro ⟨_, _, _, rfl⟩ ⟨_, _, _, rfl⟩
  exact ⟨_, _, _, rfl⟩

theorem State.SentOnly.foldl {β : Type} {f : State → β → State} (h : ∀ (s : State) b, s.SentOnly (f s b)) (l : List β) (s : State) :
    s.SentOnly (l.foldl f s) := by
  induction l generalizing s with
  | nil => exact ⟨_, _, _, rfl⟩
  | cons b l ih => exact (h s b).trans (ih _)

section Frames

variable (s : State)

theorem State.sendRemote_sentOnly (m who p) : s.SentOnly (s.sendRemote m who p) := by
  unfold State.sendRemote
  dsimp only
  split <;> exact ⟨_, _, _, rfl⟩

theorem State.sendGroup_sentOnly (g ty ns) : s.SentOnly (s.sendGroup g ty ns) := by
  unfold State.sendGroup
  split
  · exact ⟨_, _, _, rfl⟩
  · exact .foldl (fun s m => s.sendRemote_sentOnly m _ _) _ s

@[simp] theorem State.sendGroup_roster (g ty ns) : (s.sendGroup g ty ns).roster = s.roster := by
  obtain ⟨_, _, _, h⟩ := s.sendGroup_sentOnly g ty ns
  rw [h]
  rfl

@[simp] theorem State.setTask_roster (tid k) : (s.setTask tid k).roster = s.roster := rfl

@[simp] theorem State.setThread_roster (tid slot t) : (s.setThread tid slot t).roster = s.roster := rfl

@[simp] theorem State.setCore_roster (c k) : (s.setCore c k).roster = s.roster := rfl

@[simp] theorem State.setCluster_roster (c k) : (s.setCluster c k).roster = s.roster := rfl

@[simp] theorem State.cancelSfu_roster (tid slot) : (s.cancelSfu tid slot).roster = s.roster := rfl

@[simp] theorem State.orphanLoads_roster (tid slot) : (s.orphanLoads tid slot).roster = s.roster := rfl

@[simp] theorem State.traceRec_roster (tid slot ty flags value) : (s.traceRec tid slot ty flags value).roster = s.roster := by
  obtain ⟨r, hr, heq | ⟨n, a, heq⟩⟩ := s.traceRec_shape tid slot ty flags value <;> rw [heq]
  · exact hr.roster
  · rw [State.setCore_roster, hr.roster]

@[simp] theorem State.leaveRdv_roster (tid slot) : (s.leaveRdv tid slot).roster = s.roster := by
  unfold State.leaveRdv
  dsimp only
  split <;> rfl

@[simp] theorem State.takeFault_roster (tid slot code kind addr i1 i2) : (s.takeFault tid slot code kind addr i1 i2).roster = s.roster := by
  simp only [State.takeFault, State.traceRec_roster, State.orphanLoads_roster, State.cancelSfu_roster, State.leaveRdv_roster, State.setThread_roster]

@[simp] theorem State.holdIfStopping_roster (tid slot) : (s.holdIfStopping tid slot).roster = s.roster := by
  unfold State.holdIfStopping State.holdThread
  dsimp only
  split
  · split
    · rfl
    · rw [State.traceRec_roster, State.cancelSfu_roster, State.setThread_roster]
  · rfl

@[simp] theorem State.complete_roster (tid slot len) : (s.complete tid slot len).roster = s.roster := by
  rw [State.complete, State.holdIfStopping_roster, State.setThread_roster]

@[simp] theorem State.grantQueued_roster (o fuel) : (s.grantQueued o fuel).roster = s.roster := by
  induction fuel generalizing s o with
  | zero => rfl
  | succ fuel ih =>
    cases hq : o.queue with
    | nil =>
      unfold State.grantQueued
      simp only [hq]
      rfl
    | cons r q =>
      unfold State.grantQueued
      simp only [hq]
      split
      · rw [ih, State.complete_roster]
        rfl
      · rfl

@[simp] theorem State.withdrawReqs_roster (tid) : (s.withdrawReqs tid).roster = s.roster :=
  foldl_keeps (g := State.roster) (fun _ _ s => s.grantQueued_roster _ _) s

@[simp] theorem State.freeOther_roster (core sh) : (s.freeOther core sh).roster = s.roster := by
  unfold State.freeOther
  split <;> rfl

@[simp] theorem State.leaveCore_roster (tid) : (s.leaveCore tid).roster = s.roster := by
  unfold State.leaveCore
  dsimp only
  split_ifs <;> simp only [State.freeOther_roster, State.setCore_roster, State.setTask_roster]

theorem State.dump_recordsOnly (tid) : ∃ f, State.RecordsOnly { s with free := f } ((s.dump tid).getD s) := by
  cases h : s.dump tid with
  | none => exact ⟨s.free, .refl s⟩
  | some t => exact ⟨_, State.engineWrite_recordsOnly _ _ _ _ _ t h⟩

@[simp] theorem State.dump_roster (tid) : ((s.dump tid).getD s).roster = s.roster := by
  obtain ⟨_, h⟩ := s.dump_recordsOnly tid
  exact h.roster

theorem State.overflowRec_recordsOnly (tid) : s.RecordsOnly (s.overflowRec tid) := by
  unfold State.overflowRec
  dsimp only
  split
  · exact .refl s
  · split
    · exact .refl s
    · exact s.ringPut_recordsOnly _ _

theorem State.leaveQueue_recordsOnly (k) : s.RecordsOnly (s.leaveQueue k) := by
  unfold State.leaveQueue
  split
  · exact .refl s
  · exact s.setCtx_recordsOnly _ _

theorem State.sigRaise_recordsOnly (ctx i v err nz) : s.RecordsOnly (s.sigRaise ctx i v err nz) := by
  unfold State.sigRaise
  split
  · exact .refl s
  · exact .getD (s.engineWrite_recordsOnly _ _ _ _)

theorem State.imbRecord_recordsOnly (g) : s.RecordsOnly (s.imbRecord g) := by
  unfold State.imbRecord
  dsimp only
  split
  · exact .refl s
  · split
    · exact .refl s
    · refine .getD fun t ht => ?_
      obtain ⟨u, hu, ht⟩ := Option.bind_eq_some_iff.mp ht
      exact (s.engineWrite_recordsOnly _ _ _ _ u hu).trans (u.engineWrite_recordsOnly _ _ _ _ t ht)

@[simp] theorem State.retire_roster (tid t n) : (s.retire tid t n).roster = s.roster := by
  unfold State.retire
  split <;> rfl

end Frames

/-! ### Groups break (R327, R341, R343) -/

section Break

variable (s : State) (kid : Nat)

/-- A group after its kernel's groups are broken. -/
def Group.brokenIn (kid : Nat) (g : Group) : Group := if g.kid == kid && g.st != GState.dissolved then { g with st := .broken } else g

theorem Group.brokenIn_broken {kid : Nat} {g : Group} (h : (g.brokenIn kid).kid = kid) :
    (g.brokenIn kid).st = .broken ∨ (g.brokenIn kid).st = .dissolved := by
  unfold Group.brokenIn at h ⊢
  split
  · exact .inl rfl
  · next hcond =>
    rw [if_neg hcond] at h
    refine .inr ?_
    simpa [h] using hcond

/-- Breaking a kernel's groups leaves the kernels as they are. -/
theorem State.breakHere_roster : (s.breakHere kid).roster = (s.groups.map (Group.brokenIn kid), s.kernels) := by
  unfold State.breakHere
  refine foldl_keeps (g := State.roster) (fun tid _ s => ?_) _
  dsimp only
  split
  · rfl
  · split
    · rfl
    · split
      · exact State.takeFault_roster _ ..
      · split <;> rfl
      · rfl

theorem State.breakGroups_roster : (s.breakGroups kid).roster = (s.groups.map (Group.brokenIn kid), s.kernels) := by
  unfold State.breakGroups
  dsimp only
  split
  · rw [State.sendGroup_roster, State.breakHere_roster]
  · exact s.breakHere_roster kid

theorem State.breakGroups_broken (g : Group) (hg : g ∈ (s.breakGroups kid).groups) (hk : g.kid = kid) : g.st = .broken ∨ g.st = .dissolved := by
  rw [show (s.breakGroups kid).groups = _ from congrArg Prod.fst (s.breakGroups_roster kid)] at hg
  obtain ⟨h, -, rfl⟩ := List.mem_map.mp hg
  exact Group.brokenIn_broken hk

end Break

/-- A part of O27: both events break the groups in one way. -/
theorem groupsBreak : Stated.GroupsBreak := by
  intro s kid
  refine ⟨fun h => ⟨_, congrArg Host.Outcome.next (if_pos h), s.breakGroups_broken kid⟩,
    fun h => congrArg Host.Outcome.next (if_neg (ne_true_of_eq_false h)),
    fun ⟨g, hg, hk, hl⟩ => ⟨_, congrArg Host.Outcome.next (if_pos ?_), s.breakGroups_broken kid⟩⟩
  exact List.any_eq_true.mpr ⟨g, hg, by simp [hk, hl]⟩

/-! ### Groups release their members (R324, R330) -/

section Release

variable {s : State} {kid n gid tid : Nat} {g : Group}

/-- Some member that arrived is neither released nor gone. -/
def Group.Holds (g : Group) : Prop := ∃ x ∈ g.arr, x.1 ∉ g.freed ∧ x.1 ∉ g.gone

theorem Group.Holds.allFreed (h : g.Holds) : g.allFreed = false := by
  obtain ⟨x, hx, hf, hg⟩ := h
  exact List.all_eq_false.mpr ⟨x, hx, by simp [hf, hg]⟩

/-- A group that holds a member stays in its superstep. -/
theorem State.groupFreed_of_holds (hg : s.group? kid n gid = some g) (h : g.Holds) : s.groupFreed kid n gid = s := by
  simp only [State.groupFreed, hg, h.allFreed, Bool.and_false, Bool.false_eq_true, if_false]

/-- The group that enters RELEASING with the combined vote. -/
def Group.releasing (g : Group) (now : Nat) : Group := { g with st := .releasing, vote := g.reduce.1, votep := g.reduce.2, relAt := now }

theorem State.groupRelease_enters (hg : s.group? kid n gid = some g) (hst : g.st = .exchange) (h4 : g.level ≠ 4) (hp : s.pendingIn g = false)
    (hs : s.sentIn g = false) (h : g.Holds) :
    (s.groupRelease kid n gid).group? kid n gid = some (g.releasing s.now) := by
  have hfound : ((s.setGroup (g.releasing s.now)).imbRecord (g.releasing s.now)).group? kid n gid = some (g.releasing s.now) :=
    (State.group?_of_roster (State.imbRecord_recordsOnly _ _).roster ..).trans (State.group?_setGroup_self hg ⟨rfl, rfl, rfl⟩)
  have hgo : s.groupRelease kid n gid = ((s.setGroup (g.releasing s.now)).imbRecord (g.releasing s.now)).groupFreed kid n gid := by
    simp only [State.groupRelease, hg]
    exact if_neg (by simp [hst, hp, hs, h4])
  rw [hgo, State.groupFreed_of_holds hfound h, hfound]

theorem State.groupRelease_of_pending (hg : s.group? kid n gid = some g) (hp : s.pendingIn g = true) : s.groupRelease kid n gid = s := by
  simp only [State.groupRelease, hg]
  exact if_pos (by simp [hp])

/-- A part of O27: the group that enters RELEASING still holds a member. -/
theorem groupsRelease : Stated.GroupsRelease := by
  intro s kid n gid g hg hst h4 hl
  exact ⟨fun hp hs hholds => ⟨_, rfl, State.groupRelease_enters hg hst (hl ▸ h4) hp hs hholds⟩,
    fun hp => congrArg Host.Outcome.next (State.groupRelease_of_pending hg hp)⟩

end Release

/-! ### A member is released (R330) -/

section Member

variable {s : State} {tid core : Nat} {a : Arrival} {g : Group} (d : Option Reg)

/-- A thread that takes the vote of its group. -/
def Thread.tookVote (t : Thread) (g : Group) (d : Option Reg) : Thread :=
  match d with
  | some r => { t with arrival := none }.setX r g.vote g.votep
  | none => { t with arrival := none }

theorem Thread.tookVote_arrival (t : Thread) (g : Group) : (t.tookVote g d).arrival = none := by
  cases d with
  | none => rfl
  | some r =>
    unfold Thread.tookVote Thread.setX
    dsimp only
    split <;> rfl

theorem Thread.tookVote_pc (t : Thread) (g : Group) : (t.tookVote g d).pc = t.pc := by
  cases d with
  | none => rfl
  | some r =>
    unfold Thread.tookVote Thread.setX
    dsimp only
    split <;> rfl

theorem Thread.tookVote_value (t : Thread) (g : Group) {r : Reg} (h : r ≠ 0) :
    (t.tookVote g (some r)).xr r = g.vote ∧ (t.tookVote g (some r)).xpr r = g.votep :=
  ⟨(Thread.xr_setX ..).trans (if_pos ⟨rfl, h⟩), (Thread.xpr_setX ..).trans (if_pos ⟨rfl, h⟩)⟩

/-- The task whose member is released. -/
def Task.tookVote (k : Task) (g : Group) (d : Option Reg) : Task := { k with vote := g.vote }.setThread 0 ((k.thread 0).tookVote g d)

/-- The module once the task tid has its vote and its core no line in the data cache (R330). -/
def State.voted (s : State) (tid : Nat) (g : Group) (d : Option Reg) : State :=
  (s.setTask tid ((s.task tid).tookVote g d)).dropLines (s.task tid).core fun _ => true

/-- The group after one of its members is released. -/
def Group.freeing (g : Group) (rank : Nat) : Group := { g with freed := g.freed ++ [rank] }

theorem Group.freeing_holds {rank : Nat} (h : ∃ x ∈ g.arr, x.1 ≠ rank ∧ x.1 ∉ g.freed ∧ x.1 ∉ g.gone) : (g.freeing rank).Holds := by
  obtain ⟨x, hx, hne, hf, hgone⟩ := h
  exact ⟨x, hx, by simp [Group.freeing, hne, hf], hgone⟩

/-- While others of its group are held, a member's release is its vote, and what the other modules hear of it. -/
theorem State.releaseMember_of_holds (ha : (s.thread tid 0).arrival = some a) (hg : s.groupOf (s.task tid) a.level = some g)
    (hholds : (g.freeing ((s.task tid).rankAt a.level)).Holds) :
    ∃ v, (s.voted tid g d).SentOnly v ∧ s.releaseMember tid d = v.setGroup (g.freeing ((s.task tid).rankAt a.level)) := by
  have ha' : ((s.task tid).thread 0).arrival = some a := ha
  obtain ⟨v, hsent, hrel⟩ : ∃ v, (s.voted tid g d).SentOnly v ∧
      s.releaseMember tid d = (v.setGroup (g.freeing ((s.task tid).rankAt a.level))).groupFreed (s.task tid).kid a.level g.gid := by
    simp only [State.releaseMember, ha', hg]
    refine ⟨_, ?_, rfl⟩
    split
    · exact State.sendGroup_sentOnly (s.voted tid g d) ..
    · exact ⟨_, _, _, rfl⟩
  refine ⟨v, hsent, hrel.trans (State.groupFreed_of_holds ?_ hholds)⟩
  obtain ⟨-, -, hgid⟩ := State.names_of_group? hg
  have hfound : v.group? (s.task tid).kid a.level g.gid = some g := by
    obtain ⟨_, _, _, rfl⟩ := hsent
    exact hgid ▸ hg
  exact State.group?_setGroup_self hfound ⟨rfl, rfl, rfl⟩

/-- What a release leaves: the task has the vote, its core's data cache is empty, and a stop of the core is what it was. -/
theorem State.releaseMember_leaves (ha : (s.thread tid 0).arrival = some a) (hg : s.groupOf (s.task tid) a.level = some g)
    (hholds : (g.freeing ((s.task tid).rankAt a.level)).Holds) :
    (s.releaseMember tid d).task tid = (s.task tid).tookVote g d ∧
      ((s.releaseMember tid d).core (s.task tid).core).dcache = [] ∧
      ((s.releaseMember tid d).core (s.task tid).core).dbgStop = (s.core (s.task tid).core).dbgStop := by
  obtain ⟨v, ⟨_, _, _, hv⟩, hrel⟩ := State.releaseMember_of_holds d ha hg hholds
  have hcore : (s.releaseMember tid d).core (s.task tid).core =
      { s.core (s.task tid).core with dcache := (s.core (s.task tid).core).dcache.filter fun _ => false } := by
    rw [hrel, hv]
    exact State.core_setCore_self ..
  refine ⟨?_, ?_, ?_⟩
  · rw [hrel, hv]
    exact State.task_setTask_self ..
  · rw [hcore]
    exact List.filter_false _
  · rw [hcore]

/-- A part of O27: the release by what it leaves of the task and its core. -/
theorem membersAreReleased : Stated.MembersAreReleased := by
  intro s core tid n w a g hrun hst hheld ha hg hcan hcore hdbg hholds
  obtain ⟨htask, hdcache, hstop⟩ := State.releaseMember_leaves (heldDest w.1) ha hg (Group.freeing_holds hholds)
  generalize hu : s.releaseMember tid (heldDest w.1) = u at htask hdcache hstop
  rw [hcore] at hdcache hstop
  have hexec : exec (.memberRelease core) s = .next (u.complete tid 0 (if w.1 % 4 == 1 then 8 else 4)) := by
    change execMemberRelease core s = _
    simp only [execMemberRelease, event, hrun, hst, hheld, hcan, if_true, hu]
  have hthread : u.thread tid 0 = (s.thread tid 0).tookVote g (heldDest w.1) := by
    rw [State.thread, htask, Task.tookVote, Task.thread_setThread_self]
    rfl
  have hdone : u.complete tid 0 (if w.1 % 4 == 1 then 8 else 4) = u.setThread tid 0
      ((u.thread tid 0).after (if w.1 % 4 == 1 then 8 else 4)) := by
    refine State.holdIfStopping_of_not _ _ _ ?_
    have hplace : ((u.setThread tid 0 ((u.thread tid 0).after (if w.1 % 4 == 1 then 8 else 4))).task tid).core = core := by
      rw [State.task_setThread_self, Task.setThread_core, htask]
      exact hcore
    exact (congrArg (fun c => (u.core c).dbgStop) hplace).trans (hstop.trans hdbg)
  refine ⟨_, hexec, ?_⟩
  rw [hdone, State.thread_setThread_self, State.task_setThread_self, hthread]
  refine ⟨rfl, ?_, (s.thread tid 0).tookVote_arrival _ g, ?_, hdcache, fun hw hr => ?_⟩
  · show ((s.thread tid 0).tookVote g (heldDest w.1)).pc + _ = _
    rw [Thread.tookVote_pc]
    by_cases hw : w.1 % 4 = 1 <;> simp [hw]
  · rw [htask]
    rfl
  · have hdest : heldDest w.1 = some (BitVec.ofNat 5 (w.1 / 256)) := if_pos (beq_iff_eq.mpr hw)
    rw [hdest]
    exact (s.thread tid 0).tookVote_value g hr

end Member

/-! ### Exchange entries run (R331, R336) -/

section Exchange

variable {s : State} {tid : Nat} {e : XEntry} {a : Arrival} {top g : Group} {m : Nat × Nat} {v : Word} {p : Bool}

/-- What a group's messages to the other modules leave alone: memory and the tasks. -/
theorem State.groupDone_keeps (s : State) (kid n gid : Nat) : (s.groupDone kid n gid).mem = s.mem ∧ (s.groupDone kid n gid).tasks = s.tasks := by
  unfold State.groupDone
  split
  · exact ⟨rfl, rfl⟩
  · split
    · obtain ⟨_, _, _, h⟩ := State.sendGroup_sentOnly (s.setGroup _) _ _ _
      rw [h]
      exact ⟨rfl, rfl⟩
    · exact ⟨rfl, rfl⟩

theorem State.xCount_keeps (s : State) (kid n gid words entries : Nat) :
    (s.xCount kid n gid words entries).mem = s.mem ∧ (s.xCount kid n gid words entries).tasks = s.tasks := by
  unfold State.xCount
  split <;> exact ⟨rfl, rfl⟩

theorem State.xDeliver_member (word : Nat) (bs : List PByte) (hm : g.members.find? (fun m => m.2 == descRank e.desc) = some m)
    (hgone : descRank e.desc ∉ g.gone) (hhole : s.cmHole m.1 (8 * word) = false) :
    s.xDeliver g (descRank e.desc) word bs = { s with mem := s.mem.write (s.cmOf m.1 (8 * word)) bs } := by
  simp only [State.xDeliver, hm]
  exact if_neg (by simp [hgone, hhole])

/-- The one captured word of an entry is run at once. -/
theorem State.xRun_word (tid : Nat) (hsrc : e.src = none) (hw : e.words = [(v, p)]) (hm : g.members.find? (fun m => m.2 == descRank e.desc) = some m)
    (hgone : descRank e.desc ∉ g.gone) (hhole : s.cmHole m.1 (8 * descWord e.desc) = false) :
    s.xRun tid g e 0 1 = ({ s with mem := s.mem.write (s.cmOf m.1 (8 * descWord e.desc)) (pbytes 8 v.toNat p) }, ⟨1, none, []⟩) := by
  have hword : s.xWord tid e 0 = (s, .bytes (pbytes 8 v.toNat p)) := by
    simp only [State.xWord, hsrc, hw]
    rfl
  have hrun : s.xRun tid g e 0 1 = (s.xDeliver g (descRank e.desc) (descWord e.desc + 0) (pbytes 8 v.toNat p), ⟨1, none, []⟩) := by
    simp only [State.xRun, hword]
  rw [hrun, Nat.add_zero, State.xDeliver_member (descWord e.desc) _ hm hgone hhole]

/-- A sender's list without an entry. -/
def State.unlisted (s : State) (tid : Nat) (e : XEntry) : State := s.setTask tid { s.task tid with xlist := (s.task tid).xlist.erase e }

/-- A sender whose entry of one word has run: the entry is off its list and counted, and nothing is kept of its reads. -/
def State.entryDone (s : State) (tid : Nat) (e : XEntry) (n gid : Nat) : State :=
  ((s.unlisted tid e).xCount (s.task tid).kid n gid 1 1).forget tid xchgOp

theorem State.entryDone_leaves (s : State) (tid : Nat) (e : XEntry) (n gid : Nat) :
    (s.entryDone tid e n gid).mem = s.mem ∧ ((s.entryDone tid e n gid).task tid).xlist = (s.task tid).xlist.erase e := by
  obtain ⟨hmem, htasks⟩ := (s.unlisted tid e).xCount_keeps (s.task tid).kid n gid 1 1
  refine ⟨hmem, ?_⟩
  rw [State.entryDone, State.forget, State.task_setTask_self]
  show (((s.unlisted tid e).xCount (s.task tid).kid n gid 1 1).task tid).xlist = _
  rw [State.task, htasks, ← State.task, State.unlisted, State.task_setTask_self]

/-- A sender's entry of one captured word leaves its list, and memory holds what the word's run wrote. -/
theorem State.exchange_word {r : State} (hnext : s.nextEntry tid = some (a, e, top, g)) (hcount : e.count = 1) (hmoved : e.moved = 0)
    (hlevel : e.level ≠ 4) (hrun : s.xRun tid g e 0 1 = (r, ⟨1, none, []⟩)) :
    (s.exchange tid).mem = r.mem ∧ ((s.exchange tid).task tid).xlist = (r.task tid).xlist.erase e := by
  have hl : (e.level == 4) = false := by simpa using hlevel
  have heq : s.exchange tid = (r.entryDone tid e a.level top.gid).groupDone (r.task tid).kid a.level top.gid := by
    unfold State.exchange
    simp only [hnext, hl, hcount, hmoved, Bool.false_eq_true, if_false, Nat.sub_zero, hrun, BEq.rfl, if_true, Bool.true_or]
    rfl
  obtain ⟨hmem, htasks⟩ := (r.entryDone tid e a.level top.gid).groupDone_keeps (r.task tid).kid a.level top.gid
  obtain ⟨hmem', hlist⟩ := r.entryDone_leaves tid e a.level top.gid
  rw [heq]
  refine ⟨hmem.trans hmem', ?_⟩
  rw [State.task, htasks]
  exact hlist

/-- A part of O27: the sender's entry by its one word. -/
theorem exchangeEntriesRun : Stated.ExchangeEntriesRun := by
  intro s core
  refine ⟨fun tid e a top g m v p hsend hnext hsrc hw hcount hmoved hlevel hm hgone hhole => ?_, fun hnone => ?_⟩
  · obtain ⟨hmem, hlist⟩ := State.exchange_word hnext hcount hmoved hlevel (State.xRun_word tid hsrc hw hm hgone hhole)
    refine ⟨s.exchange tid, ?_, hlist, hmem⟩
    change execExchangeEntryRun core s = _
    rw [execExchangeEntryRun, event, hsend]
    rfl
  · change execExchangeEntryRun core s = _
    rw [execExchangeEntryRun, event, hnone]
    rfl

end Exchange

/-! ### Queues (R348, R350, R351) -/

section Queues

variable (s : State)

/-- The queues of each context. -/
def State.queues : Nat → AMap Queue := fun c => (s.ctx c).queues

variable {s} in
theorem State.setCtx_queues {ctx : Nat} {c : Context} (h : c.queues = (s.ctx ctx).queues) : (s.setCtx ctx c).queues = s.queues := by
  funext j
  unfold State.queues
  rw [State.ctx_setCtx]
  split
  · next hj => rw [hj, h]
  · rfl

theorem State.countVia_ctxs (t va n w) : (s.countVia t va n w).ctxs = s.ctxs := by
  unfold State.countVia State.countAccess
  dsimp only
  split
  · split <;> rfl
  · rfl

theorem State.homeWrite_ctxs (t va bs) : (s.homeWrite t va bs).ctxs = s.ctxs := by
  unfold State.homeWrite
  dsimp only
  split
  · rfl
  · split <;> exact s.countVia_ctxs _ _ _ _

theorem State.engineWrite_ctxs (ctx va bs fuel) : ∀ t, s.engineWrite ctx va bs fuel = some t → t.ctxs = s.ctxs := by
  fun_induction State.engineWrite s ctx va bs fuel <;> grind [State.homeWrite_ctxs]

theorem State.ringOne_queues (ctx r) : ∀ t, s.ringOne ctx r = some t → t.queues = s.queues := by
  intro t h
  simp only [State.ringOne, Option.ite_none_right_eq_some, Option.map_eq_some_iff, Option.bind_eq_some_iff] at h
  obtain ⟨-, u, ⟨v, hv, hu⟩, rfl⟩ := h
  have hctxs : u.ctxs = s.ctxs := (v.engineWrite_ctxs _ _ _ _ u hu).trans (s.engineWrite_ctxs _ _ _ _ v hv)
  rw [State.setCtx_queues (by rfl)]
  funext c
  rw [State.queues, State.ctx, hctxs]
  rfl

/-- A record in a context's ring leaves its queues. -/
theorem State.ringPut_queues (ctx r) : (s.ringPut ctx r).queues = s.queues := by
  unfold State.ringPut
  dsimp only
  generalize hv : (if bitAt (s.ctx ctx).desc.flags 0 then _ else s) = v
  have hq : v.queues = s.queues := by
    rw [← hv]
    split <;> rfl
  rw [← hq]
  split
  · next u hu => exact v.ringOne_queues ctx r u (Option.ite_none_right_eq_some.mp hu).2
  · split
    · exact State.setCtx_queues rfl
    · exact State.setCtx_queues rfl

end Queues

/-- A part of O27: the branches of a doorbell. -/
theorem doorbellsRaiseTail : Stated.DoorbellsRaiseTail := by
  intro s ctx q tail k hq hcont htail
  have hexec : exec (.doorbellWrite ctx q tail) s = .next (s.doorbell ctx q tail) := rfl
  have hbell : s.doorbell ctx q tail = if tail < k.tail then s
      else if 2 ^ k.logq < tail - k.head then s.ringPut ctx (s.noteRec 0x71 3 0 q tail)
      else s.setQueue ctx q { k with tail := tail } := by
    simp only [State.doorbell, hq, hcont, Nat.mod_eq_of_lt htail, Bool.false_or, decide_eq_true_eq]
  rw [hexec, hbell]
  refine ⟨fun h => ?_, fun h h' => ?_, fun h h' => ?_⟩
  · rw [if_pos h]
  · rw [if_neg (by omega), if_pos h']
  · rw [if_neg (by omega), if_neg (by omega)]

/-! ### Records are taken (R348, R350, R351) -/

section Records

variable {s : State} {ctx q : Nat} {k : Queue} {r : LaunchRec}

theorem State.queue?_of_queues {t : State} (h : t.queues = s.queues) (c n : Nat) : (t.ctx c).queue? n = (s.ctx c).queue? n :=
  congrArg (fun f : Nat → AMap Queue => AMap.find? (f c) n) h

theorem State.queue?_of_ctxs {t : State} (h : t.ctxs = s.ctxs) (c n : Nat) : (t.ctx c).queue? n = (s.ctx c).queue? n := by
  rw [State.ctx, h, State.ctx]

theorem State.queue?_setQueue_self (s : State) (ctx q : Nat) (k : Queue) : ((s.setQueue ctx q k).ctx ctx).queue? q = some k := by
  rw [State.setQueue, State.ctx_setCtx_self]
  exact AMap.find?_put_self ..

/-- An accepted record of the host becomes the last kernel, QUEUED; its queue's HEAD is as it was. -/
theorem State.accept_queued (hq : (s.ctx ctx).queue? q = some k) (n : Nat) :
    ((((s.accept ctx q r false none 0 n).1.ctx ctx).queue? q).map fun k => k.head) = some k.head ∧
      ∃ j, (s.accept ctx q r false none 0 n).1.kernels = s.kernels ++ [j] ∧ j.lrec = r ∧ j.st = .queued ∧ j.ctx = ctx ∧ j.q = q ∧
        j.device = false := by
  simp only [State.accept, hq]
  split <;> exact ⟨congrArg _ (State.queue?_setQueue_self _ ctx q _), _, rfl, rfl, rfl, rfl, rfl, rfl⟩

/-- A part of O27: the record by whether it is refused, once HEAD is written. -/
theorem recordsAreTaken : Stated.RecordsAreTaken := by
  intro s ctx q k bs hq hst hhead hread r
  have hready : ((s.ctx ctx).st != .active || decide (k.tail ≤ k.head)) = false := by simp [hst, hhead]
  have hexec : exec (.launchRecordTake ctx q) s = .next (if s.refusalWaits ctx q 0 r then s
      else match (s.setQueue ctx q { k with head := k.head + 1 }).engineWrite ctx k.ring (pbytes 8 (k.head + 1) false) 3 with
        | none => s
        | some u => if s.refuses ctx q 0 r then u.ringPut ctx (u.noteRec 0x70 3 0 q k.head) else (u.accept ctx q r false none 0 k.head).1) := by
    change execLaunchRecordTake ctx q s = _
    simp only [execLaunchRecordTake, event, hq, hready, hread, Bool.false_eq_true, if_false]
    rfl
  rw [hexec]
  refine ⟨fun hw => by rw [if_pos hw], fun hw hsome => ?_, fun hnone => ?_⟩
  · obtain ⟨u, hu⟩ := Option.isSome_iff_exists.mp hsome
    have hqu : (u.ctx ctx).queue? q = some { k with head := k.head + 1 } :=
      (State.queue?_of_ctxs (State.engineWrite_ctxs _ _ _ _ _ u hu) ctx q).trans (State.queue?_setQueue_self ..)
    have hku : u.kernels = s.kernels := State.kernels_of_roster (State.engineWrite_recordsOnly _ _ _ _ _ u hu).roster
    rw [if_neg (by simp [hw]), hu]
    refine ⟨_, rfl, ?_⟩
    cases hbad : s.refuses ctx q 0 r with
    | true =>
      refine ⟨?_, fun _ => ?_, nofun⟩
      · exact congrArg _ ((State.queue?_of_queues (u.ringPut_queues ctx _) ctx q).trans hqu)
      · exact (State.kernels_of_roster (u.ringPut_recordsOnly ctx _).roster).trans hku
    | false =>
      obtain ⟨hqueue, hkernels⟩ := State.accept_queued (r := r) hqu k.head
      exact ⟨hqueue, nofun, fun _ => hku ▸ hkernels⟩
  · rw [hnone, ite_self]

end Records

/-! ### Queued kernels leave (R353) -/

section Ends

variable {s : State} {kid : Nat} {k : Kernel}

@[simp] theorem State.sigRaise_roster (s : State) (ctx i v err nz) : (s.sigRaise ctx i v err nz).roster = s.roster :=
  (s.sigRaise_recordsOnly ctx i v err nz).roster

@[simp] theorem State.ringPut_roster (s : State) (ctx r) : (s.ringPut ctx r).roster = s.roster := (s.ringPut_recordsOnly ctx r).roster

@[simp] theorem State.send_roster (s : State) (rcpt n data) : (s.send rcpt n data).roster = s.roster := rfl

/-- The end of a kernel differs from its new state only in records of it. -/
theorem State.endKernel_roster (s : State) (k : Kernel) (faulted : Bool) :
    (s.endKernel k faulted).roster = (s.setKernel { k with st := if faulted then .faulted else .complete, signalled := true }).roster := by
  unfold State.endKernel
  dsimp only
  split <;> split <;> simp only [State.retire_roster, State.send_roster, State.ringPut_roster, State.sigRaise_roster]

/-- What a lookup gives of a kernel that has ended. -/
theorem State.kernel?_endKernel (h : s.kernel? kid = some k) {j : Kernel} (hj : j.kid = k.kid) (faulted : Bool) :
    (s.endKernel j faulted).kernel? kid = some { j with st := if faulted then .faulted else .complete, signalled := true } :=
  (State.kernel?_of_roster (s.endKernel_roster j faulted) kid).trans (State.kernel?_setKernel_self h hj)

theorem State.kernel?_leaveQueue (h : s.kernel? kid = some k) (j : Kernel) : (s.leaveQueue j).kernel? kid = some k :=
  (State.kernel?_of_roster (s.leaveQueue_recordsOnly j).roster kid).trans h

/-- A part of O27: both events by what lets the kernel leave. -/
theorem queuedKernelsLeave : Stated.QueuedKernelsLeave := by
  intro s kid k hk hst
  have heligible : exec (.kernelEligible kid) s = .next (if s.firstQueued k && !s.waitErr k && k.lrec.waits.all (s.sigMet k.ctx) then
      (s.leaveQueue k).setKernel { k with st := .eligible, eligAt := s.now } else s) := by
    change execKernelEligible kid s = _
    simp only [execKernelEligible, event, hk, hst, BEq.rfl, Bool.true_and]
  have hfault : exec (.kernelDependenceFault kid) s = .next (if s.firstQueued k && s.waitErr k && s.signalOpen k then
      (s.leaveQueue k).endKernel k true else s) := by
    change execKernelDependenceFault kid s = _
    simp only [execKernelDependenceFault, event, hk, hst, BEq.rfl, Bool.true_and]
  rw [heligible, hfault]
  refine ⟨fun hfirst herr hmet => ⟨_, rfl, ?_⟩, fun hstay => ?_, fun hfirst herr hopen => ⟨_, rfl, ?_⟩, fun herr => ?_⟩
  · rw [if_pos (by simpa [hfirst, herr] using hmet)]
    exact State.kernel?_setKernel_self (State.kernel?_leaveQueue hk k) rfl
  · refine congrArg _ (if_neg ?_)
    rcases hstay with hfirst | ⟨w, hw, hunmet⟩
    · simp [hfirst]
    · simp only [Bool.and_eq_true, List.all_eq_true]
      exact fun h => absurd (h.2 w hw) (by simp [hunmet])
  · rw [if_pos (by simp [hfirst, herr, hopen])]
    exact State.kernel?_endKernel (State.kernel?_leaveQueue hk k) rfl true
  · rw [if_neg (by simp [herr])]

/-! ### Drained kernels end (R353, R368) -/

/-- A kernel's teardown keeps the kernels, and no group or task of it. -/
theorem State.teardown_gone (s : State) (kid : Nat) : (s.teardown kid).kernels = s.kernels ∧
    (∀ g ∈ (s.teardown kid).groups, g.kid ≠ kid) ∧ ∀ x ∈ (s.teardown kid).tasks, x.2.kid ≠ kid := by
  refine ⟨rfl, fun g hg => ?_, fun x hx => ?_⟩
  · simpa using List.of_mem_filter hg
  · simpa using List.of_mem_filter hx

/-- A kernel that has drained, before its teardown. -/
def State.drainEnd (s : State) (k : Kernel) : State :=
  if k.gated && k.st != .faulted then s.setKernel { k with st := .auditPending } else s.endKernel k (k.st == .faulted)

theorem State.drainEnd_st (h : s.kernel? kid = some k) :
    (((s.drainEnd k).kernel? kid).map fun j => j.st) = some (if k.st = .faulted then .faulted else if k.gated then .auditPending else .complete) := by
  unfold State.drainEnd
  by_cases hf : k.st = .faulted
  · rw [if_neg (by simp [hf]), State.kernel?_endKernel h rfl]
    simp [hf]
  · cases hg : k.gated with
    | true =>
      rw [if_pos (by simp [hf]), State.kernel?_setKernel_self (j := { k with st := .auditPending }) h rfl]
      simp [hf]
    | false =>
      rw [if_neg (by simp), State.kernel?_endKernel h rfl]
      simp [hf]

/-- A part of O27: the end of the kernel, then its teardown. -/
theorem drainedKernelsEnd : Stated.DrainedKernelsEnd := by
  intro s kid k hk hst hreplay
  have hends : (k.st == .draining || (k.st == .faulted && !k.signalled)) = true := by
    rcases hst with h | ⟨h, hsig⟩
    · simp [h]
    · simp [h, hsig]
  have horig : k.replayOf.isSome = false := by rw [hreplay]; rfl
  have hexec : exec (.kernelDrainComplete kid) s = .next
      (if (s.tasksOf kid).any (fun t => (s.task t).alive) || !s.quiet kid || !s.signalOpen k then s else (s.drainEnd k).teardown kid) := by
    change execKernelDrainComplete kid s = _
    simp only [execKernelDrainComplete, event, hk, hends, horig, Bool.not_true, Bool.false_or, Bool.false_eq_true, if_false]
    rfl
  rw [hexec]
  refine ⟨fun hdead hquiet hopen => ⟨_, rfl, ?_⟩, fun hstay => ?_⟩
  · rw [if_neg (by simpa [hquiet, hopen] using hdead)]
    obtain ⟨hkernels, hgroups, htasks⟩ := (s.drainEnd k).teardown_gone kid
    refine ⟨?_, hgroups, htasks⟩
    rw [State.kernel?, hkernels]
    exact State.drainEnd_st hk
  · refine congrArg _ (if_pos ?_)
    rcases hstay with ⟨tid, ht, halive⟩ | hquiet | hopen
    · have hany : (s.tasksOf kid).any (fun t => (s.task t).alive) = true := List.any_eq_true.mpr ⟨tid, ht, halive⟩
      simp [hany]
    · simp [hquiet]
    · simp [hopen]

/-! ### Replays are compared (R368) -/

/-- The mismatch of a gated launch with its replay: the first region that differs, or the first of all when the replay is FAULTED. -/
def State.replayMiss (s : State) (k r : Kernel) : Option Nat := if r.st == .faulted then some 0 else s.firstMismatch k r

theorem State.replayMiss_isSome (s : State) (k r : Kernel) :
    (s.replayMiss k r).isSome = true ↔ r.st = .faulted ∨ (s.firstMismatch k r).isSome = true := by
  unfold State.replayMiss
  by_cases h : r.st = .faulted <;> simp [h]

/-- The launch whose replay is compared, with the record of a mismatch. -/
def State.compared (s : State) (k r : Kernel) : State :=
  match s.replayMiss k r with
  | some i => (s.setKernel { k with replay := none }).ringPut k.ctx (s.noteRec 0x50 3 k.kid i r.kid)
  | none => s.setKernel { k with replay := none }

theorem State.kernel?_compared (h : s.kernel? kid = some k) (r : Kernel) : (s.compared k r).kernel? kid = some { k with replay := none } := by
  unfold State.compared
  split
  · exact (State.kernel?_of_roster (State.ringPut_recordsOnly _ _ _).roster kid).trans (State.kernel?_setKernel_self h rfl)
  · exact State.kernel?_setKernel_self h rfl

/-- A part of O27: the end by whether there is a mismatch. -/
theorem replaysAreCompared : Stated.ReplaysAreCompared := by
  intro s kid rid k r hk hst hreplay hr
  have hpending : (k.st == .auditPending) = true := beq_iff_eq.mpr hst
  have hexec : exec (.replayCompare kid) s = .next (if !r.signalled || !s.signalOpen k || (r.st != .faulted && s.compareWaits k r) then s
      else (s.compared k r).endKernel { k with replay := none } (s.replayMiss k r).isSome) := by
    obtain rfl := State.kid_of_kernel? hk
    change execReplayCompare k.kid s = _
    simp only [execReplayCompare, event, hk, hreplay, Option.bind_some, hr, hpending, Bool.true_or, Bool.not_true, Bool.false_or, if_true]
    rfl
  rw [hexec]
  refine ⟨fun hsig hopen hready => ⟨_, rfl, ?_⟩, fun hstay => ?_⟩
  · rw [if_neg (by rcases hready with h | h <;> simp [hsig, hopen, h]), State.kernel?_endKernel (State.kernel?_compared hk r) rfl]
    simp only [Option.map_some, ← State.replayMiss_isSome]
  · refine congrArg _ (if_pos ?_)
    rcases hstay with h | h | ⟨h, hw⟩ <;> simp [*]

end Ends

/-! ### Killed tasks (R341, R353, R380) -/

/-- What every step of a fold keeps, and the step of one element sets, holds at the end. -/
theorem foldl_reaches {β : Type} {P : State → Prop} {f : State → β → State} {b : β} (hset : ∀ s, P (f s b))
    (hkeep : ∀ s c, P s → P (f s c)) {l : List β} (hb : b ∈ l) (s : State) : P (l.foldl f s) := by
  have hkeeps (l : List β) : ∀ s, P s → P (l.foldl f s) := by
    induction l with
    | nil => exact fun _ h => h
    | cons c l ih => exact fun s h => ih _ (hkeep s c h)
  induction l generalizing s with
  | nil => cases hb
  | cons c l ih =>
    rcases List.mem_cons.mp hb with rfl | hb
    · exact hkeeps l _ (hset s)
    · exact ih hb _

/-- How each task has exited. -/
def State.exits (s : State) : Nat → Option Nat := fun tid => (s.task tid).exited

section Exits

variable (s : State)

theorem State.exits_of_tasks {s t : State} (h : t.tasks = s.tasks) : t.exits = s.exits := by
  unfold State.exits State.task
  rw [h]

theorem State.setTask_exits {s : State} {tid : Nat} {k : Task} (h : k.exited = (s.task tid).exited) : (s.setTask tid k).exits = s.exits := by
  funext j
  unfold State.exits
  rw [State.task_setTask]
  split
  · next hj => rw [hj, h]
  · rfl

theorem State.complete_exits (tid slot len) : (s.complete tid slot len).exits = s.exits := by
  have hset (u : State) (t : Thread) : (u.setThread tid slot t).exits = u.exits := State.setTask_exits rfl
  unfold State.complete State.holdIfStopping State.holdThread
  dsimp only
  split
  · split
    · exact hset _ _
    · rw [State.exits_of_tasks (State.traceRec_tasks ..), State.cancelSfu, State.setTask_exits (by rfl), hset, hset]
  · exact hset _ _

theorem State.grantQueued_exits (o fuel) : (s.grantQueued o fuel).exits = s.exits := by
  induction fuel generalizing s o with
  | zero => rfl
  | succ fuel ih =>
    cases hq : o.queue with
    | nil =>
      unfold State.grantQueued
      simp only [hq]
      rfl
    | cons r q =>
      unfold State.grantQueued
      simp only [hq]
      split
      · rw [ih, State.complete_exits]
        rfl
      · rfl

theorem State.withdrawReqs_exits (tid) : (s.withdrawReqs tid).exits = s.exits :=
  foldl_keeps (g := State.exits) (fun _ _ s => s.grantQueued_exits _ _) s

theorem State.leaveCore_exits (tid) : (s.leaveCore tid).exits = s.exits := by
  have hother (u : State) (core : Nat) (sh : Bool) : (u.freeOther core sh).exits = u.exits := by
    unfold State.freeOther
    split
    · exact State.setTask_exits rfl
    · rfl
  have hcore (u : State) (core : Nat) (c : Core) : (u.setCore core c).exits = u.exits := rfl
  unfold State.leaveCore
  dsimp only
  split_ifs <;> simp only [hother, hcore] <;> exact State.setTask_exits rfl

/-- What is done for a killed task before it has exited: its dump, its requests withdrawn, its scratchpad blocks broken, its core left. -/
def State.killing (tid : Nat) : State :=
  let u := if s.dumps tid then (s.dump tid).getD s else s
  let u := ({ u with issuing := u.issuing.filter fun i => i.1 != tid } : State).withdrawReqs tid
  (u.setCluster (s.task tid).cluster ((u.cluster (s.task tid).cluster).breakBlocks (s.task tid).kid)).leaveCore tid

theorem State.killing_keeps (tid : Nat) : (s.killing tid).roster = s.roster ∧ (s.killing tid).exits = s.exits := by
  unfold State.killing
  dsimp only
  generalize hu : (if s.dumps tid then (s.dump tid).getD s else s) = u
  have hkept : u.roster = s.roster ∧ u.exits = s.exits := by
    rw [← hu]
    split
    · obtain ⟨_, h⟩ := s.dump_recordsOnly tid
      exact ⟨s.dump_roster tid, State.exits_of_tasks h.tasks⟩
    · exact ⟨rfl, rfl⟩
  generalize hw : ({ u with issuing := u.issuing.filter fun i => i.1 != tid } : State).withdrawReqs tid = w
  have hwr : w.roster = u.roster := hw ▸ State.withdrawReqs_roster ..
  have hwe : w.exits = u.exits := hw ▸ State.withdrawReqs_exits ..
  refine ⟨?_, ?_⟩
  · rw [State.leaveCore_roster, State.setCluster_roster, hwr, hkept.1]
  · rw [State.leaveCore_exits]
    exact hwe.trans hkept.2

/-- A killed task has exited with status 0. -/
def State.killed (tid : Nat) : State := (s.killing tid).setTask tid { (s.killing tid).task tid with exited := some 0, killing := false }

theorem State.killTask_of_dead {s : State} {tid : Nat} (h : (s.task tid).alive = false) : s.killTask tid = s := by
  simp [State.killTask, h]

theorem State.killTask_of_alive {s : State} {tid : Nat} (h : (s.task tid).alive = true) : s.killTask tid =
    match (s.killed tid).kernel? (s.task tid).kid with
    | some q => (s.killed tid).setKernel (q.absorb (s.task tid))
    | none => s.killed tid := by
  simp only [State.killTask, h, Bool.not_true, Bool.false_eq_true, if_false]
  rfl

theorem State.killed_exits (tid j : Nat) : ((s.killed tid).task j).exited = if j = tid then some 0 else (s.task j).exited := by
  rw [State.killed, State.task_setTask]
  split
  · rfl
  · exact congrFun (s.killing_keeps tid).2 j

/-- Once a task is killed it has exited, and no task that has exited has not. -/
theorem State.killTask_exited (tid j : Nat) (h : j = tid ∨ (s.task j).exited.isSome = true) : ((s.killTask tid).task j).exited.isSome = true := by
  cases ha : (s.task tid).alive with
  | false =>
    rw [State.killTask_of_dead ha]
    rcases h with rfl | h
    · exact Option.isSome_iff_ne_none.mpr fun hn => by simp [Task.alive, hn] at ha
    · exact h
  | true =>
    have hexits : ((s.killTask tid).task j).exited = ((s.killed tid).task j).exited := by
      rw [State.killTask_of_alive ha]
      split <;> rfl
    rw [hexits, State.killed_exits]
    split
    · rfl
    · next hne => exact h.resolve_left hne

/-- A kill leaves the groups, and each kernel's state. -/
theorem State.killTask_keeps (tid kid : Nat) : (s.killTask tid).groups = s.groups ∧
    ((s.killTask tid).kernel? kid).map (fun k => k.st) = (s.kernel? kid).map fun k => k.st := by
  cases ha : (s.task tid).alive with
  | false =>
    rw [State.killTask_of_dead ha]
    exact ⟨rfl, rfl⟩
  | true =>
    have hroster : (s.killed tid).roster = s.roster := (s.killing_keeps tid).1
    rw [State.killTask_of_alive ha]
    split
    · next q hq =>
      refine ⟨(State.groups_of_roster hroster :), ?_⟩
      rw [State.kernel?_setKernel]
      split
      · next hkid =>
        have hsame : (s.task tid).kid = kid := (State.kid_of_kernel? hq).symm.trans hkid
        rw [← State.kernel?_of_roster hroster, ← hsame, hq]
        rfl
      · rw [State.kernel?_of_roster hroster]
    · exact ⟨State.groups_of_roster hroster, congrArg _ (State.kernel?_of_roster hroster kid)⟩

end Exits

/-! ### Killed kernels -/

section Kills

variable {s : State} {kid : Nat} {k : Kernel}

/-- A killed kernel is FAULTED, its groups are broken, and its doomed tasks have exited. -/
theorem State.killKernel_kills (hk : s.kernel? kid = some k) (ts : List Nat) :
    ((s.killKernel k ts).kernel? kid).map (fun j => j.st) = some .faulted ∧
      (∀ g ∈ (s.killKernel k ts).groups, g.kid = kid → g.st = .broken ∨ g.st = .dissolved) ∧
      ∀ tid ∈ ts, ((s.killKernel k ts).task tid).exited.isSome = true := by
  obtain rfl := State.kid_of_kernel? hk
  unfold State.killKernel
  dsimp only
  generalize hv : List.foldl State.overflowRec _ _ = v
  have hfaulted : v.kernel? k.kid = some { k with st := .faulted } := by
    rw [← hv]
    refine (State.kernel?_of_roster (foldl_keeps (g := State.roster) (fun tid _ s => (s.overflowRec_recordsOnly tid).roster) _) _).trans ?_
    exact State.kernel?_setKernel_self (State.kernel?_leaveQueue hk k) rfl
  have hbroken : (v.breakGroups k.kid).kernel? k.kid = v.kernel? k.kid := by
    rw [State.kernel?, show (v.breakGroups k.kid).kernels = v.kernels from congrArg Prod.snd (v.breakGroups_roster k.kid), State.kernel?]
  refine ⟨?_, ?_, fun tid ht => ?_⟩
  · rw [foldl_keeps (g := fun s => (s.kernel? k.kid).map fun j => j.st) (fun tid _ s => (s.killTask_keeps tid k.kid).2), hbroken, hfaulted]
    rfl
  · rw [foldl_keeps (g := State.groups) (fun tid _ s => (s.killTask_keeps tid k.kid).1)]
    exact v.breakGroups_broken k.kid
  · exact foldl_reaches (P := fun s => (s.task tid).exited.isSome = true) (fun s => s.killTask_exited tid tid (.inl rfl))
      (fun s j h => s.killTask_exited j tid (.inr h)) ht _

theorem State.killStep_of_ready {ts : List Nat} (h : ∀ t ∈ ts, s.killReady t = true) : s.killStep k ts = s.killKernel k ts := by
  have hall : ts.all s.killReady = true := List.all_eq_true.mpr h
  simp only [State.killStep, hall, if_true]

/-- Which tasks of a kernel die next. -/
theorem State.mem_doomed (s : State) (k : Kernel) (tid : Nat) : tid ∈ s.doomed k ↔ (tid ∈ s.tasksOf k.kid ∧ (s.task tid).alive = true) ∧
    (k.st = .faulted ∨ (k.ended = false ∧ ((s.ctx k.ctx).st = .teardown ∨ (s.task tid).killing = true))) := by
  unfold State.doomed
  dsimp only
  by_cases hf : k.st = .faulted
  · simp [hf]
  · cases he : k.ended with
    | true => simp [hf]
    | false => by_cases ht : (s.ctx k.ctx).st = .teardown <;> simp [hf, ht, and_comm, and_left_comm]

/-- A part of O27: each clause by which tasks are doomed. -/
theorem kernelsAreKilled : Stated.KernelsAreKilled := by
  intro s kid k hk left
  obtain rfl := State.kid_of_kernel? hk
  have hexec : exec (.kernelKill k.kid) s = .next
      (if (s.doomed k).isEmpty && (k.ended || (s.ctx k.ctx).st != .teardown) then s else s.killStep k (s.doomed k)) := by
    change execKernelKill k.kid s = _
    simp only [execKernelKill, event, hk]
  have hidle (hempty : ∀ tid, tid ∉ s.doomed k) (h : k.ended = true ∨ (s.ctx k.ctx).st ≠ .teardown) :
      exec (.kernelKill k.kid) s = .next s := by
    rw [hexec, if_pos (by simpa [List.eq_nil_iff_forall_not_mem.mpr hempty] using h)]
  have hkills (hsome : (∃ tid, tid ∈ s.doomed k) ∨ (k.ended = false ∧ (s.ctx k.ctx).st = .teardown))
      (hready : ∀ tid ∈ s.doomed k, s.killReady tid = true) : exec (.kernelKill k.kid) s = .next (s.killKernel k (s.doomed k)) := by
    rw [hexec, if_neg, State.killStep_of_ready hready]
    rcases hsome with ⟨tid, ht⟩ | ⟨he, ht⟩
    · simp [List.ne_nil_of_mem ht]
    · simp [he, ht]
  have hended : k.st = .faulted → k.ended = true := fun h => by simp [Kernel.ended, h]
  obtain ⟨hst, hgroups, hexits⟩ := State.killKernel_kills hk (s.doomed k)
  refine ⟨fun he hwhy hready => ⟨_, hkills ?_ ?_, hst, hgroups⟩, fun hf hleft hready => ⟨_, hkills ?_ ?_, hst, ?_⟩,
    fun he ht hnone => hidle ?_ (.inr ht), fun h => hidle ?_ (.inl ?_)⟩
  · rcases hwhy with ht | ⟨tid, hl, hkill⟩
    · exact .inr ⟨he, ht⟩
    · exact .inl ⟨tid, (s.mem_doomed k tid).mpr ⟨hl, .inr ⟨he, .inr hkill⟩⟩⟩
  · intro tid hd
    obtain ⟨hl, hf | ⟨-, hwhy⟩⟩ := (s.mem_doomed k tid).mp hd
    · exact absurd (hended hf) (by simp [he])
    · exact hready tid hl hwhy
  · obtain ⟨tid, hl⟩ := hleft
    exact .inl ⟨tid, (s.mem_doomed k tid).mpr ⟨hl, .inl hf⟩⟩
  · exact fun tid hd => hready tid ((s.mem_doomed k tid).mp hd).1
  · exact fun tid hl => hexits tid ((s.mem_doomed k tid).mpr ⟨hl, .inl hf⟩)
  · intro tid hd
    obtain ⟨hl, hf | ⟨-, ht' | hkill⟩⟩ := (s.mem_doomed k tid).mp hd
    · exact absurd (hended hf) (by simp [he])
    · exact ht ht'
    · exact absurd hkill (by simp [hnone tid hl])
  · intro tid hd
    obtain ⟨hl, hwhy⟩ := (s.mem_doomed k tid).mp hd
    rcases h with hc | ⟨-, hnone⟩
    · rcases hwhy with hf | ⟨he, -⟩
      · exact absurd (hc.symm.trans hf) nofun
      · exact absurd he (by simp [Kernel.ended, hc])
    · exact hnone tid hl
  · rcases h with hc | ⟨hf, -⟩
    · simp [Kernel.ended, hc]
    · exact hended hf

end Kills

/-- Settles O27, event by event. -/
theorem groupAndKernelEventsAct : Obligations.GroupAndKernelEventsAct :=
  ⟨exchangeEntriesRun, groupsRelease, membersAreReleased, groupsBreak, doorbellsRaiseTail, recordsAreTaken, queuedKernelsLeave,
    drainedKernelsEnd, replaysAreCompared, kernelsAreKilled⟩

end Sys2Proof.Machine

/-! ## What an open packet and a PC-match handler bar (R335, R496) -/

namespace Sys2Proof.Machine

/-! ### The majors of the plain instructions -/

/-- The majors all of whose instructions a PC-match handler bars: THRD, RDV, 0x20 to 0x2B, SYNC, XCHG and KLCH (R496). -/
def barredMajors : List Nat := [0x16, 0x17, 0x20, 0x21, 0x22, 0x23, 0x24, 0x25, 0x26, 0x27, 0x28, 0x29, 0x2A, 0x2B, 0x31, 0x32, 0x33]

theorem mem_barredMajors {m : Nat} :
    m ∈ barredMajors ↔ (0x20 ≤ m ∧ m ≤ 0x2B) ∨ m = 0x16 ∨ m = 0x17 ∨ m = 0x31 ∨ m = 0x32 ∨ m = 0x33 := by
  simp only [barredMajors, List.mem_cons, List.not_mem_nil, or_false]
  omega

/-- The major of a first word. -/
def wordMajor (w : Nat) : Nat := w / 4 % 64

section Majors

variable {maj len fn a b d off mid imm l : Nat} {ws : List Nat}

theorem q3_unbarred (h : len < 4 ∧ maj < 64 ∧ maj ∉ barredMajors) : wordMajor ((q3 maj len fn b a d :: ws).getD 0 0) ∉ barredMajors := by
  obtain ⟨hlen, hmaj, hfree⟩ := h
  rw [List.getD_cons_zero, wordMajor, Laws.RoundTrip.q3_maj _ _ _ _ _ _ hlen hmaj]
  exact hfree

theorem qi_unbarred (h : len < 4 ∧ maj < 64 ∧ maj ∉ barredMajors) : wordMajor ((qi maj len imm a d :: ws).getD 0 0) ∉ barredMajors := by
  obtain ⟨hlen, hmaj, hfree⟩ := h
  have heq : qi maj len imm a d / 4 % 64 = maj := by unfold qi; omega
  rwa [List.getD_cons_zero, wordMajor, heq]

theorem qs_unbarred (h : len < 4 ∧ maj < 64 ∧ maj ∉ barredMajors) : wordMajor ((qs maj len off mid a d :: ws).getD 0 0) ∉ barredMajors := by
  obtain ⟨hlen, hmaj, hfree⟩ := h
  have heq : qs maj len off mid a d / 4 % 64 = maj := by unfold qs; omega
  rwa [List.getD_cons_zero, wordMajor, heq]

theorem qj_unbarred (h : len < 4) : wordMajor ((qj len off l :: ws).getD 0 0) ∉ barredMajors := by
  have heq : qj len off l / 4 % 64 = 11 := by unfold qj; omega
  rw [List.getD_cons_zero, wordMajor, heq]
  decide

theorem qz_unbarred : wordMajor ((qz fn imm :: ws).getD 0 0) ∉ barredMajors := by
  have heq : qz fn imm / 4 % 64 = 0 := by unfold qz; omega
  rw [List.getD_cons_zero, wordMajor, heq]
  decide

end Majors

/-! ### The class of an instruction -/

/-- How an instruction is issued: open to any thread, with a major that no rule bars; barred in a PC-match handler; or in a packet. -/
inductive IssuedAs (i : Instr) (s : State) : Host.Outcome State Fault Refusal → Prop
  | plain (len : Nat) (f : State → State × Res) (h : wordMajor ((encode i).getD 0 0) ∉ barredMajors) : IssuedAs i s (issue .plain len s f)
  | barred (len : Nat) (f : State → State × Res) : IssuedAs i s (issue .barred len s f)
  | inPacket (len : Nat) (f : State → State × Res) (h : (∃ a, i = .xput a) ∨ i = .xend) : IssuedAs i s (issue .barredPacket len s f)
  | event (f : State → State) (h : i.isInsn = false) : IssuedAs i s (event s f)

/-- Every row of the opcode table: the plain instructions by the format of their first word. -/
theorem exec_issuedAs (i : Instr) (s : State) : IssuedAs i s (exec i s) := by
  unfold exec
  cases i
  case nop | fence | trap | bkpt | pmret | iflush | yield | ill => exact .plain _ _ qz_unbarred
  case add | sub | and | or | xor | andn | orn | xnor | shl | shr | sra | rol | ror | slt | sltu | seq | sne | min | max | minu | maxu |
    addw | subw | shlw | shrw | sraw | jtab | mul | mulh | mulhu | mulhsu | mulw | div | divu | rem | remu | divw | remw | clz | ctz | popc
    | brev | bswap | fnsb | clzw | ctzw | popcw | bfx | bfxu | bfi | bfmsk | bfxi | bfxui | bfii | fadd | fsub | fmul | fdiv | fsqrt | fmin
    | fmax | fminn | fmaxn | fsgnj | fsgnjn | fsgnjx | feq | flt | fle | fclass | fcvt | fcvti | fcvtu | icvtf | ucvtf | fma | fms | fnma |
    fnms | amoadd | amoand | amoor | amoxor | amomin | amomax | amominu | amomaxu | amoswp | amocas | rel | bind | unbind | pref | wbf |
    ldro | li | liz | lihi | addl | andl | orl | xorl | sltl | tld | tst | tzero | tacc | mxp | mxps | mxprobe | phld | phtrim | phrd |
    phinv | dcmp | cpy | cpy2 | cpyset | cpytile | cpycmp | splook | spevict | spdemote | sprel | spprio | lquery | lrenew | pgcnt | ldrain
    | lstat | irsend | irrecv | pmark | dstop => exact .plain _ _ (q3_unbarred (by decide))
  case addi | andi | ori | xori | shli | shri | srai | roli | rori | slti | sltui | seqi | snei | jr | jalr | csrr | csrw | csrs | csrc =>
    exact .plain _ _ (qi_unbarred (by decide))
  case ldb | ldh | ldw | ldd | ldbz | ldhz | ldwz | stb | sth | stw | std | beq | bne | blt | bge | bltu | bgeu | bbs | bbc | beqLong |
    bneLong | bltLong | bgeLong | bltuLong | bgeuLong | bbsLong | bbcLong => exact .plain _ _ (qs_unbarred (by decide))
  case j | jal | jLong | jalLong => exact .plain _ _ (qj_unbarred (by decide))
  case xput a => exact .inPacket _ _ (.inl ⟨a, rfl⟩)
  case xend => exact .inPacket _ _ (.inr rfl)
  case powerGood | stackBringup | combLock | switchPortTrain | mgcRelease | setReady | cxlLinkTrain | powerSample | dieJunctionLimit |
    dieJunctionRecover | combLineBelowThreshold | combLineRecover | laserTelemetryUpdate | issueGroupForm | handlerInstructionLimit |
    deadlockDetect | sfuEntryComplete | taskStart | taskRestore | taskSave | spinTimeoutSwap | hexitComplete | kexitComplete | storePerform
    | accessReissue | atomicAtHome | pageWalk | leaseExpiry | cmeArbitrationRound | copyUnit | copyLeaseRenewal | passArrival |
    passStreamStart | passDetected | omuProbe | omuPhld | omuPhtrim | omuPhrd | omuPhinv | omuTzero | omuTacc | dcmpExecute | omuThermalLoop
    | tcfgWrite | phprobeWrite | drlimitWrite | gainWrite | exchangeEntryRun | groupEnterReleasing | memberRelease | levelConflictDetect |
    peerLoss | doorbellWrite | launchRecordTake | klaunchMgcAnswer | kernelEligible | kernelDependenceFault | bindEntryWrite |
    kernelDrainComplete | replayCompare | kernelKill | preemptPartition | priorityWaitTimeout | contextCreateRequest | queueRegister |
    contextActivate | contextSuspend | contextResume | contextDestroy | contextFree | faultHandover | faultResolution | faultRingSpace |
    missEscalate | slotEdge | slotEdgeTimeout | atsInvalidationRequest | atsInvalidationCompletion | dcdReleaseNotice | dcdForcedRelease |
    flitReceive | nakTimer | ackTimer | idleFlitTimer | portEnable | portLock | portLockExchangeDone | portLockTimeout | portLightLoss |
    portFence | portDisable | portRestore | wavelengthErrorDrop | wavelengthSwitchover | packetForward | routingTableInstall |
    remoteRequestReceive | remoteResponseReceive | remoteRetryTimeout | remoteAbandonTimeout | targetRecordExpiry | changeRequest |
    portDrainComplete | circuitsReady | changeFinalInstall | irSessionWrite | irSlotTransfer | mgmtReadRequest | cxlMemRead | cxlMemWrite |
    hostLinkFatalError | cxlReset | uncorrectableMemoryError | registerParityError | correctedError | unitWithdraw | stackThermalSample |
    selfHoldNotice | stackLost | stackScrub | rowRepair | stackMailboxMessage | imageStage | imageVerify | handoverRequest | imageCatchUp |
    switchOver | catchUpTimeout | heartbeat | heartbeatMissed | probationCommit | pscImageBootTimeout | svnMinimumRaise | quoteRequest |
    debugStopRequest | debugResumeRequest | monitorSample | moncfgWrite | pmctlWrite | trbaseWrite | csrWrite | firmwareLeafStore |
    frameReuseWaitElapsed | newImageTrap | tenantAuthenticatedRequest => exact .event _ rfl
  all_goals exact .barred ..
/-! ### Issue of what the thread may not issue -/

section Forbidden

variable {s : State} {c : Class}

theorem State.countHandler_of_none (hsh : s.thr.shadow = none) : s.countHandler = s := by
  unfold State.countHandler
  rw [hsh]
  split
  · next h => cases h
  · rfl

theorem State.countHandler_cur (s : State) : s.countHandler.cur = s.cur := by
  cases hsh : s.thr.shadow with
  | none => rw [State.countHandler_of_none hsh]
  | some h => exact (State.countHandler_leaves hsh).1

/-- A handler's count changes nothing that an instruction is forbidden for. -/
theorem State.forbids_countHandler (s : State) (c : Class) : s.countHandler.thr.forbids c = s.thr.forbids c := by
  cases hsh : s.thr.shadow with
  | none => rw [State.countHandler_of_none hsh]
  | some h =>
    obtain ⟨-, -, -, n, hthr⟩ := State.countHandler_leaves hsh
    simp only [Thread.forbids, hthr, hsh, Option.isSome_some]

theorem issue_forbidden (hrun : s.thr.canRun = true) (h : s.thr.forbids c = true) (len : Nat) (f : State → State × Res) :
    issue c len s f = .next ((s.countHandler.takeFault s.countHandler.cur.1 s.countHandler.cur.2 0x01 0 0 0 0).holdIfStopping s.cur.1 s.cur.2) := by
  simp only [issue, hrun, if_true, s.forbids_countHandler, h, State.settle, s.countHandler_cur]

theorem faultsAt_of_forbidden {i : Instr} {len : Nat} {f : State → State × Res} (hrun : s.thr.canRun = true) (h : s.thr.forbids c = true)
    (hexec : exec i s = issue c len s f) : FaultsAt i s s.countHandler 0x01 0 0 := by
  rw [FaultsAt, hexec, issue_forbidden hrun h]

theorem Thread.forbids_inPacket {t : Thread} (hp : t.packet.isSome = true) (hc : c.inPacket = false) : t.forbids c = true := by
  simp only [forbids, hp, hc, Bool.not_false, Bool.and_self, Bool.true_or]

theorem Thread.forbids_inHandler {t : Thread} (hh : t.shadow.isSome = true) (hc : c.isBarred = true) : t.forbids c = true := by
  simp only [forbids, hh, hc, Bool.and_self, Bool.or_true]

end Forbidden

/-- R335: with a packet open only xput and xend are free of the fault. -/
theorem packet_bars {s : State} {i : Instr} (hi : i.isInsn = true) (hrun : s.thr.canRun = true) (hpacket : s.thr.packet.isSome = true)
    (hother : ¬((∃ a, i = .xput a) ∨ i = .xend)) : FaultsAt i s s.countHandler 0x01 0 0 := by
  generalize hexec : exec i s = o, exec_issuedAs i s = h
  cases h with
  | plain => exact faultsAt_of_forbidden hrun (Thread.forbids_inPacket hpacket rfl) hexec
  | barred => exact faultsAt_of_forbidden hrun (Thread.forbids_inPacket hpacket rfl) hexec
  | inPacket _ _ hx => exact absurd hx hother
  | event _ hevent => exact absurd (hevent.symm.trans hi) nofun

/-- R496: in a PC-match handler every instruction of a barred major faults. -/
theorem handler_bars_major {s : State} {i : Instr} (hi : i.isInsn = true) (hrun : s.thr.canRun = true) (hshadow : s.thr.shadow.isSome = true)
    (hmaj : wordMajor ((encode i).getD 0 0) ∈ barredMajors) : FaultsAt i s s.countHandler 0x01 0 0 := by
  generalize hexec : exec i s = o, exec_issuedAs i s = h
  cases h with
  | plain _ _ hfree => exact absurd hmaj hfree
  | barred => exact faultsAt_of_forbidden hrun (Thread.forbids_inHandler hshadow rfl) hexec
  | inPacket => exact faultsAt_of_forbidden hrun (Thread.forbids_inHandler hshadow rfl) hexec
  | event _ hevent => exact absurd (hevent.symm.trans hi) nofun

/-- Settles O38: the class under which an instruction is issued is one that the thread forbids. -/
theorem packetsAndHandlersBarInstructions : Obligations.PacketsAndHandlersBarInstructions := by
  intro s i hrun hwords
  have hi := Laws.RoundTrip.isInsn_of_words hwords
  refine ⟨fun hpacket hxput hxend => packet_bars hi hrun hpacket ?_, fun hshadow hbarred => ?_⟩
  · rintro (⟨a, ha⟩ | hx)
    · exact hxput a ha
    · exact hxend hx
  · have hsplit : wordMajor ((encode i).getD 0 0) ∈ barredMajors ∨ (∃ a sh, i = .acq a sh) ∨
        (∃ d a sh, i = .tryacq d a sh) ∨ i = .tret := by
      rw [mem_barredMajors]
      simpa only [or_assoc, wordMajor] using hbarred
    have hforbids := Thread.forbids_inHandler (c := .barred) hshadow rfl
    rcases hsplit with hmaj | ⟨a, sh, rfl⟩ | ⟨d, a, sh, rfl⟩ | rfl
    · exact handler_bars_major hi hrun hshadow hmaj
    · exact faultsAt_of_forbidden hrun hforbids (exec_acq a sh s)
    · exact faultsAt_of_forbidden hrun hforbids (exec_tryacq d a sh s)
    · exact faultsAt_of_forbidden hrun hforbids (f := State.trapReturn) rfl

end Sys2Proof.Machine
